-- ==== Sys2Proof/Word.lean ====
section
/-! DEFINITION. The words of the model and the three container shapes every file uses: byte cells, maps by number, fixed widths. -/

namespace Sys2Proof

/-- A byte of scratchpad, mast or ring store. -/
abbrev Byte := BitVec 8

/-- A register word of the host interface (00 R6). -/
abbrev Word := BitVec 32

/-- A 64-bit scalar register, time-base value or host address. -/
abbrev Dword := BitVec 64

/-- A vector register: 64 lanes of 32 bits or 128 lanes of 16 bits (02, Task contexts). -/
abbrev VWord := BitVec 2048

/-- One 64-byte scratchpad slot or flit (05 R98, 07 R154). -/
abbrev Slot := BitVec 512

/-- One 128-byte wide row of a mast (06 R122). -/
abbrev Row := BitVec 1024

/-- A sparse map: pairs of a number and a value. -/
abbrev AMap (α : Type) := List (Nat × α)

end Sys2Proof
end

