-- ==== Sys2Proof/Syntax.lean ====
section
/-! DEFINITION. The commands: one constructor for each row of the operation table, with the row's operands. -/

namespace Sys2Proof

/-- Where and when a slot instruction is presented: physical core, task context, schedule cycle. -/
structure Issue where
  core : Fin 9216
  ctx : Fin 4
  cyc : Nat
  deriving DecidableEq, Repr

/-- A value with the tick at which its command acts. -/
structure Timed (α : Type) where
  val : α
  tick : Dword
  deriving DecidableEq, Repr

/-- A value with the wide rows, of `n`, in which the command's reads find an error, and whether each is uncorrectable (06 R128, R129). -/
structure Found (α : Type) (n : Nat) where
  val : α
  rows : List (Fin n × Bool)
  deriving DecidableEq, Repr

/-- What the code of a wide row finds (06 R127 to R129). -/
inductive Ecc where
  | clean
  | corrected
  | uncorrectable
  deriving DecidableEq, Repr

/-- A wide row that an access from outside brings or reads, and what its code finds. -/
structure OutsideRow where
  data : Row
  ecc : Ecc
  deriving DecidableEq, Repr

/-- What ends a link's 1 ms interval: the symbols corrected in it, and whether the masthead has asked for the link's retraining (07 R166). -/
structure SeamWindow where
  symbols : Nat
  asked : Bool
  deriving DecidableEq, Repr

/-- A sheet port that loses lane lock: its last `lost` frames were in flight (15 R367). -/
structure PortLoss where
  port : Fin 8
  lost : Nat
  tick : Dword
  deriving DecidableEq, Repr

/-- A fault inside a sail: at one row of an operation and one column, what it adds to the exact block dot products of integer codes (02 R49, 03 R63). -/
structure Upset where
  row : Nat
  col : Fin 64
  err : Int
  deriving DecidableEq, Repr

/-- What the tiers of a mast find in a refresh window (06 R129, R130, R138): the rows read again that fail again and the rows that patrol scrub corrected, by tier and wide
row, and the tier, if any, whose self-check or TSV continuity check failed. -/
structure RefFind where
  again : List (Fin 4 × Fin 0x100000) := []
  scrub : List (Fin 4 × Fin 0x100000) := []
  check : Option (Fin 4) := none
  deriving DecidableEq, Repr

/-- A flit, message or request that arrives: its number among those on their way, and the seam link that spoiled it, if one did (07 R165). -/
structure Arrival where
  idx : Nat
  spoilt : Option (Fin 88 × Fin 16) := none
  deriving DecidableEq, Repr

/-- How a mesh flit's journey ends: visible at its destination, uncorrectable on a seam link (07 R165), or dropped by a fixed-hop collision (07 R175). -/
inductive FlitEnd where
  | visible
  | seamUe (seam : Fin 88) (link : Fin 16)
  | collided (router : Fin 9216)
  deriving DecidableEq, Repr

/-- How the write of a parked page ends (13 R327): completed, or the sled answered with an error. -/
inductive ParkEnd where
  | done
  | error
  deriving DecidableEq, Repr

/-- What a sled returns for a page being unparked (13 R328): data whose tag is good or not, or poison. -/
inductive UnparkIn where
  | page (tagGood : Bool)
  | poison
  deriving DecidableEq, Repr

/-- What the halyard reads as it takes a hoist: the scatter entry whose read failed, if one did, the scatter list as (address, length, reserved bytes), and the header
(10 R241, R250). -/
structure HoistIn where
  badEntry : Option Nat
  scatter : List (Nat × Nat × Nat)
  header : BitVec 2048
  deriving DecidableEq, Repr

/-- A segment of an image stream as it is read: its ciphertext and its tag, and, for the last, the lowest virtual core with an uncorrectable row among those read back from the
masts (10 R241, R242, R259). -/
structure SegIn where
  data : Nat
  tag : BitVec 128
  badCore : Option Nat
  deriving DecidableEq, Repr

/-- The 1 ms means of an input measurement (17 R404): input in mV and mA before user calibration, the rim rail in A, and the readings that have changed:
converters as (number, A, in current limit, °C), fields as (number, A), cores as (number, mean mA, highest 64 fc window mean in mA). -/
structure PowerIn where
  mv : Nat
  ma : Nat
  rim : Nat
  convs : List (Nat × Nat × Bool × Nat)
  fields : List (Nat × Nat)
  cores : List (Nat × Nat × Nat)
  deriving DecidableEq, Repr

/-- Where an SPDM request arrives (21 Table 21.1): DOE of a function, MCTP over PCIe VDM on PF0, MCTP over the management I3C target. -/
inductive SpdmAt where
  | doe (f : Fin 65)
  | vdm
  | i3c
  deriving DecidableEq, Repr

/-- A message of IDE_KM about one of a stream's six substreams (21 R472). -/
inductive IdeOp where
  | query
  | keyProg (sub : Fin 6)
  | setGo (sub : Fin 6)
  | setStop (sub : Fin 6)
  deriving DecidableEq, Repr

/-- What the masthead reads of a firmware package (24 R526): its header, and the ciphertext and tag of each segment. -/
structure PkgIn where
  header : BitVec 4096
  segs : List (Nat × BitVec 128)
  deriving DecidableEq, Repr

/-- A core that fails self-test (16 R391): the physical sails that failed, whether its mast column failed, whether any other item did. -/
structure TestFail where
  core : Fin 9216
  sails : BitVec 4 := 0#4
  mast : Bool := false
  other : Bool := false
  deriving DecidableEq, Repr

/-- What a start-up step finds (16 Table 16.4): the ms since the input was valid (step 3); the devices that answer, whether the recorder's memory passes its CRC, the
security engine's self-test and health test, the meter and its bus (step 4); the factory calibration's version, digest bytes and verdict (step 6); the cores, routers
and seam links that fail (step 8). -/
structure StartIn where
  ms : Nat := 0
  nvm0 : Bool := true
  nvm1 : Bool := true
  kept : Bool := true
  kat : Bool := true
  drbg : Bool := true
  meter : Bool := true
  bus : Bool := true
  calVer : Nat := 0
  calDig : Nat := 0
  calOk : Bool := true
  fails : List TestFail := []
  routers : List (Fin 9216) := []
  seams : List (Fin 88 × Fin 16) := []
  deriving DecidableEq, Repr

/-- The logs that POP acts on (06 R152, 07 R177, 13 R332, 15 R373, 17 R414, 18 R433, 19 R436). -/
inductive LogSel where
  | mst
  | fab
  | stay
  | sheet
  | pwr
  | thm
  | part (p : Fin 64)
  deriving DecidableEq, Repr

/-- A write to the fields of one register that have no behaviour of their own, each by its access code (00 R6). A bit named `lock` is W1S, `rptLost`,
`outColl` and `flushErr` write 1 to a W1C bit. -/
inductive RegWrite where
  | forceHot (p : Fin 64) (v : Bool)
  | fabCtrl (thr : Fin 256) (lock : Bool)
  | rptLost (p : Fin 64)
  | hoistData (p : Fin 64) (i : Fin 8) (v : Word)
  | winIdx (f : Fin 65) (e : Fin 262144)
  | urgent (p : Fin 64) (us : Fin 1048576)
  | weight (p : Fin 64) (q : Fin 256) (w : Fin 65536)
  | nsr (p : Fin 64) (v : Fin 8)
  | flushSlot (slot : Fin 4096)
  | stopData (p : Fin 64) (i : Fin 160) (v : Word)
  | stopIndex (p : Fin 64) (i : Fin 4096)
  | rrAddr (p : Fin 64) (hi : Bool) (v : Word)
  | rrEntry (p : Fin 64) (e : Fin 262144)
  | rrFirst (p : Fin 64) (v : Word)
  | rrCnt (p : Fin 64) (n : Fin 131072)
  | styCtrl (ms : Fin 256) (lock : Bool)
  | shtCtrl (loss stamp : Fin 256) (lock : Bool)
  | tbSet (hi : Bool) (v : Word)
  | pwrCtrl (ceil : Fin 256) (spare lock : Bool)
  | meterReq (v lock : Bool)
  | cnmSel (v : Word)
  | cnmPage (page : Fin 128)
  | secCtrl (mctp lock : Bool)
  | ideReq (p : Fin 64) (v : Bool)
  | e2e (p : Fin 64) (q : Fin 256) (slot : Fin 16) (en : Bool)
  | tagEntry (p : Fin 64) (e : Fin 262144)
  | outColl (f : Fin 65)
  | prtCtrl (p : Fin 64) (byVf : Bool) (esc home : Fin 4) (coal : Fin 256)
  | imgAddr (hi : Bool) (v : Word)
  | imgCopy (b : Bool)
  | flushErr
  | vecSev (v : Fin 8)
  | hidx (h : Fin 64)
  | ridx (r : Fin 256)
  deriving DecidableEq, Repr

/-- What the sensing part has measured over an interval: mJ, 10 mV, 10 mV, W, and whether SENSE_FAULT is due (R452, Table 20.3). -/
structure MeterRead where
  energy : Nat := 0
  vMin : Nat := 0
  vMax : Nat := 0
  pMax : Nat := 0
  fault : Bool := false
  deriving DecidableEq, Repr

/-- The sensors of the management I3C target (26 R566). -/
inductive Sensor where
  | inputPower
  | inlet
  | outlet
  | flow
  | hottest
  | coolant
  deriving DecidableEq, Repr

/-- What the managed traffic of an Ethernet frame is (15 Table 15.11). -/
inductive EthUse where
  | management
  | firmware
  | telemetry
  | meterRelay
  deriving DecidableEq, Repr

/-- An item whose read of host memory has failed or timed out (10 Table 10.13, 11 Table 11.8, 21 Table 21.5, 22 Table 22.10). -/
inductive ReadItem where
  | hoist (p : Fin 64) (entry : Fin 65536)
  | submission (p : Fin 64) (q : Fin 16)
  | prompt (p : Fin 64) (q : Fin 16) (sub : BitVec 512)
  | autoLoad (p : Fin 64)
  | keyExch (p : Fin 64)
  | keyClear (p : Fin 64)
  | signKey
  | fwStage
  | cfgCopy
  deriving DecidableEq, Repr

/-- The commands of the module, in the order of the operation table; each constructor's docstring gives its row and rule. -/
inductive Instr where
  /-- SNOP, R179. -/
  | snop (q : Issue) (w : BitVec 80)
  /-- MLDW, R26. -/
  | mldw (q : Issue) (w : BitVec 80)
  /-- MMUL, R190. -/
  | mmul (q : Issue) (w : BitVec 80) (upset : Option Upset)
  /-- MACCL, R189. -/
  | maccl (q : Issue) (w : BitVec 80)
  /-- SDIST, R34. -/
  | sdist (q : Issue) (w : BitVec 80) (upset : Option Upset)
  /-- SMAX, R188. -/
  | smax (q : Issue) (w : BitVec 80)
  /-- SMIN, R188. -/
  | smin (q : Issue) (w : BitVec 80)
  /-- SRANK, R35. -/
  | srank (q : Issue) (w : BitVec 80)
  /-- STHR, R35. -/
  | sthr (q : Issue) (w : BitVec 80)
  /-- VNOP, R179. -/
  | vnop (q : Issue) (w : BitVec 44)
  /-- VADD, R192. -/
  | vadd (q : Issue) (w : BitVec 44)
  /-- VSUB, R192. -/
  | vsub (q : Issue) (w : BitVec 44)
  /-- VMUL, R192. -/
  | vmul (q : Issue) (w : BitVec 44)
  /-- VFMA, R192. -/
  | vfma (q : Issue) (w : BitVec 44)
  /-- VMIN, R192. -/
  | vmin (q : Issue) (w : BitVec 44)
  /-- VMAX, R192. -/
  | vmax (q : Issue) (w : BitVec 44)
  /-- VCMP, R192. -/
  | vcmp (q : Issue) (w : BitVec 44)
  /-- VSEL, R192. -/
  | vsel (q : Issue) (w : BitVec 44)
  /-- VCVT, R192. -/
  | vcvt (q : Issue) (w : BitVec 44)
  /-- VEXP, R196. -/
  | vexp (q : Issue) (w : BitVec 44)
  /-- VLOG, R196. -/
  | vlog (q : Issue) (w : BitVec 44)
  /-- VRCP, R196. -/
  | vrcp (q : Issue) (w : BitVec 44)
  /-- VRSQ, R196. -/
  | vrsq (q : Issue) (w : BitVec 44)
  /-- VSQRT, R196. -/
  | vsqrt (q : Issue) (w : BitVec 44)
  /-- VRSUM, R37. -/
  | vrsum (q : Issue) (w : BitVec 44)
  /-- VRMAX, R192. -/
  | vrmax (q : Issue) (w : BitVec 44)
  /-- VRMIN, R192. -/
  | vrmin (q : Issue) (w : BitVec 44)
  /-- VLD, R192. -/
  | vld (q : Issue) (w : BitVec 44)
  /-- VST, R192. -/
  | vst (q : Issue) (w : BitVec 44)
  /-- VDRN, R195. -/
  | vdrn (q : Issue) (w : BitVec 44)
  /-- VSCA, R76. -/
  | vsca (q : Issue) (w : BitVec 44)
  /-- VKEY, R35. -/
  | vkey (q : Issue) (w : BitVec 44)
  /-- VMASK, R197. -/
  | vmask (q : Issue) (w : BitVec 44)
  /-- VSMP_RNG, R339. -/
  | vsmpRng (q : Issue) (w : BitVec 44)
  /-- VSMP_TEMP, R350. -/
  | vsmpTemp (q : Issue) (w : BitVec 44)
  /-- VSMP_TOPK, R350. -/
  | vsmpTopk (q : Issue) (w : BitVec 44)
  /-- VSMP_TOPP, R350. -/
  | vsmpTopp (q : Issue) (w : BitVec 44)
  /-- VSMP_AMASK, R350. -/
  | vsmpAmask (q : Issue) (w : BitVec 44)
  /-- VSMP_DRAW, R350. -/
  | vsmpDraw (q : Issue) (w : BitVec 44)
  /-- VSMP_ACCEPT, R343. -/
  | vsmpAccept (q : Issue) (w : BitVec 44)
  /-- VSMP_COMMIT, R351. -/
  | vsmpCommit (q : Issue) (w : Timed (BitVec 44))
  /-- MNOP, R179. -/
  | mnop (q : Issue) (w : BitVec 80)
  /-- MRD, R125. -/
  | mrd (q : Issue) (w : BitVec 80)
  /-- MWR, R125. -/
  | mwr (q : Issue) (w : BitVec 80)
  /-- MSEND, R162. -/
  | msend (q : Issue) (w : BitVec 80)
  /-- MFILL, R102. -/
  | mfill (q : Issue) (w : BitVec 80)
  /-- MCOPY, R102. -/
  | mcopy (q : Issue) (w : BitVec 80)
  /-- RSEND, R170. -/
  | rsend (q : Issue) (w : BitVec 80)
  /-- MERGE, R173. -/
  | merge (q : Issue) (w : BitVec 80)
  /-- MREL, R109. -/
  | mrel (q : Issue) (w : BitVec 80)
  /-- KVAPQ, R202. -/
  | kvapq (q : Issue) (w : BitVec 80)
  /-- XDISP, R232. -/
  | xdisp (q : Issue) (w : BitVec 80)
  /-- CNOP, R179. -/
  | cnop (q : Issue) (w : BitVec 48)
  /-- SLI, R204. -/
  | sli (q : Issue) (w : BitVec 48)
  /-- SLIH, R204. -/
  | slih (q : Issue) (w : BitVec 48)
  /-- SADD, R204. -/
  | sadd (q : Issue) (w : BitVec 48)
  /-- SSUB, R204. -/
  | ssub (q : Issue) (w : BitVec 48)
  /-- SMUL, R204. -/
  | smul (q : Issue) (w : BitVec 48)
  /-- SAND, R204. -/
  | sand (q : Issue) (w : BitVec 48)
  /-- SOR, R204. -/
  | sor (q : Issue) (w : BitVec 48)
  /-- SXOR, R204. -/
  | sxor (q : Issue) (w : BitVec 48)
  /-- SSHL, R204. -/
  | sshl (q : Issue) (w : BitVec 48)
  /-- SSHR, R204. -/
  | sshr (q : Issue) (w : BitVec 48)
  /-- SLDS, R204. -/
  | slds (q : Issue) (w : BitVec 48)
  /-- SSTS, R204. -/
  | ssts (q : Issue) (w : BitVec 48)
  /-- BR, R183. -/
  | br (q : Issue) (w : BitVec 48)
  /-- JMP, R183. -/
  | jmp (q : Issue) (w : BitVec 48)
  /-- LOOP, R204. -/
  | loop (q : Issue) (w : BitVec 48)
  /-- WAITC, R206. -/
  | waitc (q : Issue) (w : BitVec 48)
  /-- SEQADV, R108. -/
  | seqadv (q : Issue) (w : BitVec 48)
  /-- HAND, R40. -/
  | hand (q : Issue) (w : BitVec 48)
  /-- HSET, R105. -/
  | hset (q : Issue) (w : BitVec 48)
  /-- VPAT, R206. -/
  | vpat (q : Issue) (w : BitVec 48)
  /-- PHASE, R236. -/
  | phase (q : Issue) (w : BitVec 48)
  /-- ESCM, R94. -/
  | escm (q : Issue) (w : BitVec 48)
  /-- REFW, R132. -/
  | refw (q : Issue) (w : BitVec 48) (found : RefFind)
  /-- SVCW, R139. -/
  | svcw (q : Issue) (w : BitVec 48)
  /-- WSTEP, R206. -/
  | wstep (q : Issue) (w : BitVec 48)
  /-- TILE_LOAD_DONE, R26. -/
  | tileLoadDone (core : Fin 9216) (sail : Fin 4)
  /-- MAST_ROW_LAND, R126. -/
  | mastRowLand (core : Fin 9216) (ecc : Ecc)
  /-- MAST_WRITE_ACK, R125. -/
  | mastWriteAck (core : Fin 9216)
  /-- KVAPQ_ACK, R316; `found` are the wide rows of the page in which an error was found while placing, uncorrectable or not. -/
  | kvapqAck (core : Fin 9216) (found : List (Fin 512 × Bool))
  /-- OUTSIDE_MAST_ACCESS, R140. -/
  | outsideMastAccess (core : Fin 9216) (write mark : Bool) (part : Fin 64) (row : Fin 0x400000) (data : OutsideRow)
  /-- MESH_FLIT_ARRIVE, R156. -/
  | meshFlitArrive (i : Nat) (o : FlitEnd)
  /-- DELIVERY_CREDIT_RETURN, R156. -/
  | deliveryCreditReturn (core : Fin 9216) (trk : Nat)
  /-- VC0_MESSAGE_DELIVER, R161. -/
  | vc0MessageDeliver (i : Arrival)
  /-- REDUCTION_FLIT_ARRIVE, R170. -/
  | reductionFlitArrive (i : Arrival)
  /-- REDUCTION_ADD_DONE, R170. -/
  | reductionAddDone (core : Fin 9216) (tree : Fin 64) (fidx : Fin 512) (tag : BitVec 8)
  /-- MERGE_REQUEST_ARRIVE, R173. -/
  | mergeRequestArrive (i : Arrival)
  /-- MERGE_ENTRY_CLOSE, R173. -/
  | mergeEntryClose (core : Fin 9216) (group : Fin 16) (tag : BitVec 8)
  /-- ROW_NORM_CHECK, R80. -/
  | rowNormCheck (core : Fin 9216) (sail : Fin 4) (row : Fin 512)
  /-- ESCALATION_PASS_END, R91. -/
  | escalationPassEnd (core : Fin 9216) (sail : Fin 4) (found : List (Fin 0x400000 × Bool)) (upset : Option Upset)
  /-- ESCALATION_RESTORE_DONE, R91. -/
  | escalationRestoreDone (core : Fin 9216) (sail : Fin 4)
  /-- OVERFLOW_DISPATCH_DONE, R234. -/
  | overflowDispatchDone (n : Fin 48)
  /-- OVERFLOW_ROUTINE_DONE, R234. -/
  | overflowRoutineDone (n : Fin 48)
  /-- LUFF_STALL_BEGIN, R226. -/
  | luffStallBegin (p : Fin 64)
  /-- LUFF_ITEM_END, R226. -/
  | luffItemEnd (p : Fin 64) (i : Nat)
  /-- LUFF_LINE_DROP, R227. -/
  | luffLineDrop (p : Fin 64)
  /-- LUFF_TIMEOUT, R229. -/
  | luffTimeout (p : Fin 64) (n : Fin 48)
  /-- STEP_END_BOUNDARY, R222. -/
  | stepEndBoundary (p : Fin 64) (t : Dword)
  /-- STEP_START_BOUNDARY, R222. -/
  | stepStartBoundary (p : Fin 64) (t : Dword)
  /-- IDLE_BOUNDARY, R578. -/
  | idleBoundary (p : Fin 64) (t : Dword)
  /-- IMAGE_CURRENT_WINDOW, R237. -/
  | imageCurrentWindow (core : Fin 9216) (mean : Nat)
  /-- REFRESH_DEBT_TICK, R131. -/
  | refreshDebtTick (core : Fin 9216) (tier : Fin 4)
  /-- REFRESH_CATCHUP, R136. -/
  | refreshCatchup (core : Fin 9216) (tier : Fin 4)
  /-- HOT_OFF_DWELL_EXPIRE, R135. -/
  | hotOffDwellExpire (p : Timed (Fin 64))
  /-- TLB_MAP, R145. -/
  | tlbMap (core : Found (Fin 9216) 0x400000) (rid : BitVec 16) (vpn : BitVec 20) (pgn : BitVec 13) (wr : Bool)
  /-- TLB_UNMAP, R145. -/
  | tlbUnmap (core : Found (Fin 9216) 0x400000) (rid : BitVec 16) (vpn : BitVec 20)
  /-- TLB_RELEASE, R145. -/
  | tlbRelease (core : Found (Fin 9216) 0x400000) (rid : BitVec 16)
  /-- TLB_REBUILD, R145. -/
  | tlbRebuild (core : Fin 9216)
  /-- PAGE_INIT, R308. -/
  | pageInit (core : Fin 9216) (rid : BitVec 16) (vpn : BitVec 20) (pgn : BitVec 13)
  /-- COLUMN_COPY_DONE, R149. -/
  | columnCopyDone (n : Fin 48) (col : Fin 12) (bad : Option (Fin 16 × Fin 0x400000))
  /-- SEAM_LANE_LOCK_LOSS, R166. -/
  | seamLaneLockLoss (k : Fin 88) (l : Fin 16)
  /-- SEAM_ERROR_WINDOW, R166. -/
  | seamErrorWindow (k : Fin 88) (l : Fin 16) (x : SeamWindow)
  /-- SEAM_RETRAIN_DONE, R166. -/
  | seamRetrainDone (k : Fin 88) (l : Fin 16) (badLanes : Nat)
  /-- FIXED_HOP_ENTER, R174. -/
  | fixedHopEnter (fields : BitVec 48)
  /-- FIXED_HOP_DRAIN_DONE, R174. -/
  | fixedHopDrainDone (n : Fin 48)
  /-- FIXED_HOP_DRAIN_TIMEOUT, R174. -/
  | fixedHopDrainTimeout (n : Fin 48)
  /-- FIXED_HOP_START_TICK, R174. -/
  | fixedHopStartTick (fields : BitVec 48) (t : Dword)
  /-- FIXED_HOP_EXIT_TICK, R174. -/
  | fixedHopExitTick (fields : BitVec 48) (t : Dword)
  /-- HOP_TABLE_LOAD, R175. -/
  | hopTableLoad (router : Fin 9216) (t : List (BitVec 15))
  /-- SHEET_TENSOR_FRAME, R359. -/
  | sheetTensorFrame (i : Fin 8) (h : BitVec 128) (dst : BitVec 64) (fl : List (BitVec 512 × Bool))
  /-- SHEET_CREDIT_FRAME, R364. -/
  | sheetCreditFrame (i : Fin 8) (h : BitVec 128)
  /-- SHEET_GATE_FRAME, R362. -/
  | sheetGateFrame (i : Fin 8) (h : BitVec 128)
  /-- SHEET_END_STAMP_FRAME, R363. -/
  | sheetEndStampFrame (i : Fin 8) (h : BitVec 128) (recs : List (BitVec 128))
  /-- SHEET_NOTICE_FRAME, R363. -/
  | sheetNoticeFrame (i : Fin 8) (h : BitVec 128) (what : Fin 5) (ok : Bool) (e : Fin 262144)
  /-- SHEET_IDENT_FRAME, R367. -/
  | sheetIdentFrame (i : Fin 8) (serial : Dword) (port : Fin 8) (peerGood agrees : Option Bool)
  /-- SHEET_TIME_FRAME, R368. -/
  | sheetTimeFrame (i : Fin 8) (h : BitVec 128) (recv : Timed Dword)
  /-- SHEET_WAIT_ARM, R361. -/
  | sheetWaitArm (p : Fin 64) (rank : Fin 8) (route : Fin 256)
  /-- GATE_DUE_ARM, R362. -/
  | gateDueArm (p : Fin 64)
  /-- SHEET_PORT_LINK_UP, R367. -/
  | sheetPortLinkUp (i : Timed (Fin 8))
  /-- SHEET_PORT_LINK_DOWN, R367. -/
  | sheetPortLinkDown (i : PortLoss)
  /-- CABLING_VERDICT_TIMEOUT, R367. -/
  | cablingVerdictTimeout (i : Timed (Fin 8))
  /-- TIME_EXCHANGE_TICK, R368. -/
  | timeExchangeTick
  /-- TIME_HOLD_TIMEOUT, R368. -/
  | timeHoldTimeout
  /-- SLICE_STAMP_LATE, R365. -/
  | sliceStampLate (p : Fin 64) (r : Timed (Fin 8))
  /-- SLICE_LOSS_TIMEOUT, R365. -/
  | sliceLossTimeout (p : Fin 64) (r : Timed (Fin 8))
  /-- STAMP_WAIT_TIMEOUT, R365. -/
  | stampWaitTimeout (p : Fin 64) (r : Timed (Fin 8))
  /-- SQ_DOORBELL, R497. -/
  | sqDoorbell (p : Fin 64) (q : Fin 16) (tail : BitVec 16)
  /-- OPEN, R269. -/
  | openReq (p : Fin 64) (q : Fin 16) (sub : BitVec 512) (prompt : Option (List Word)) (t : Dword)
  /-- CONTINUE, R269. -/
  | continueReq (p : Fin 64) (q : Fin 16) (sub : BitVec 512) (prompt : Option (List Word)) (t : Dword)
  /-- CANCEL, R279. -/
  | cancelReq (p : Fin 64) (q : Fin 16) (sub : BitVec 512) (t : Dword)
  /-- CLOSE, R272. -/
  | closeReq (p : Fin 64) (q : Fin 16) (sub : BitVec 512) (t : Dword)
  /-- PARK, R272. -/
  | parkReq (p : Fin 64) (q : Fin 16) (sub : BitVec 512) (t : Dword)
  /-- COMPLETION_RECORD_WRITE, R280. -/
  | completionRecordWrite (p : Fin 64) (t : Dword)
  /-- CQ_HEAD_WRITE, R282. -/
  | cqHeadWrite (p : Fin 64) (head : Nat)
  /-- SQ_CFG_WRITE, R497. -/
  | sqCfgWrite (p : Fin 64) (q : Fin 16) (base : Option Dword) (size : Option Nat) (en : Option Bool)
  /-- CQ_CFG_WRITE, R285. -/
  | cqCfgWrite (p : Fin 64) (base : Option Dword) (size : Option Nat) (en : Option Bool)
  /-- PARK_PAGE_WRITE_DONE, R327. -/
  | parkPageWriteDone (e : Fin 262144) (o : Found ParkEnd 512) (t : Dword)
  /-- UNPARK_PAGE_ARRIVE, R328. -/
  | unparkPageArrive (e : Fin 262144) (o : Timed UnparkIn)
  /-- STAY_LINK_DOWN, R329. -/
  | stayLinkDown (i : Fin 24) (t : Dword)
  /-- STAY_LINK_UP, R329. -/
  | stayLinkUp (i : Fin 24) (fast typeOk : Bool) (lanes cap retries : Nat)
  /-- STAY_REQUEST_TIMEOUT, R323. -/
  | stayRequestTimeout (i : Fin 24) (e : Fin 262144) (t : Dword)
  /-- OUTPUT_QUEUE_TOKEN, R292. -/
  | outputQueueToken (slot : Fin 4096)
  /-- STREAM_RECORD_WRITE, R291. -/
  | streamRecordWrite (p : Fin 64) (r : Fin 16) (parity : Option (BitVec 64)) (sideBad : Bool)
  /-- SR_HEAD_WRITE, R290. -/
  | srHeadWrite (p : Fin 64) (r : Fin 16) (head : Nat)
  /-- SR_CFG_WRITE, R302. -/
  | srCfgWrite (p : Fin 64) (r : Fin 16) (base : Option Dword) (size : Option Nat) (en : Option Bool)
  /-- STM_FLUSH_GO, R293. -/
  | stmFlushGo (byVf : Option (Fin 64)) (slot : Fin 4096)
  /-- RING_READ_GO, R295. -/
  | ringReadGo (p : Fin 64) (byPf : Bool)
  /-- RING_READ_DONE, R295. -/
  | ringReadDone (p : Fin 64) (n : Nat) (bad : List Nat)
  /-- STOP_SET_LOAD, R296. -/
  | stopSetLoad (p : Fin 64) (index : Fin 4096)
  /-- AUTO_LOAD, R348. -/
  | autoLoad (p : Fin 64) (file : Option Nat)
  /-- TALLY_START_SEND, R454. -/
  | tallyStartSend (t : Dword)
  /-- TALLY_MARK_SEND, R454. -/
  | tallyMarkSend (t : Dword)
  /-- METER_TALLY_START, R453. -/
  | meterTallyStart (ok0 ok1 : Bool)
  /-- METER_TALLY_TOKENS, R455. -/
  | meterTallyTokens (ok0 ok1 : Bool)
  /-- METER_TALLY_MARK, R457. -/
  | meterTallyMark (ok0 ok1 : Bool)
  /-- METER_TALLY_CLOSE, R460. -/
  | meterTallyClose (ok0 ok1 : Bool) (mt : Nat) (r : MeterRead)
  /-- METER_INPUT_LOSS, R460. -/
  | meterInputLoss (mt : Nat) (r : MeterRead)
  /-- METER_POWER_UP, R460. -/
  | meterPowerUp (restarted : Bool) (fresh : Option (Dword × Dword)) (mt : Nat)
  /-- METER_INTERVAL_END, R456. -/
  | meterIntervalEnd (r : MeterRead)
  /-- METER_SEAL_EVENT, R464. -/
  | meterSealEvent
  /-- CNM_FETCH_GO, R462. -/
  | cnmFetchGo (present bus : Bool)
  /-- CNM_INTERVAL_WRITE, R456. -/
  | cnmIntervalWrite (v : Fin 8)
  /-- CLK_STEP_REQ_WRITE, R378. -/
  | clkStepReqWrite (v : Fin 4)
  /-- GLIDE_END, R377. -/
  | glideEnd (t : Dword)
  /-- CORNER_LOCK_LOSS, R376. -/
  | cornerLockLoss (n : Fin 48) (corner : Fin 4) (t : Dword)
  /-- FIELD_RELOCK, R376. -/
  | fieldRelock (n : Fin 48) (t : Dword)
  /-- RELOCK_TIMEOUT, R376. -/
  | relockTimeout (n : Fin 48) (t : Dword)
  /-- FIELD_LOCK_TIMEOUT, R375. -/
  | fieldLockTimeout (n : Fin 48) (t : Dword)
  /-- REF_OSC_CHECK, R383. -/
  | refOscCheck (stopA stopB stopM : Bool) (dAB dAM dBM : Nat) (t : Dword)
  /-- REF_HOLD_TIMEOUT, R383. -/
  | refHoldTimeout (t : Dword)
  /-- TIME_BASE_SYNC, R385. -/
  | timeBaseSync (t : Dword)
  /-- CLK_TB_SET_GO, R386. -/
  | clkTbSetGo (t : Dword)
  /-- CLK_TB_LO_READ, R395. -/
  | clkTbLoRead (f : Fin 65) (t : Dword)
  /-- SLEW_DONE, R386. -/
  | slewDone (t : Dword)
  /-- HOST_SWAL_WRITE, R380. -/
  | hostSwalWrite (p : Fin 64) (v : Fin 16)
  /-- INPUT_VALID, R398. -/
  | inputValid
  /-- PIN_RESET, R393. -/
  | pinReset (t : Dword)
  /-- HOST_RESTART, R393. -/
  | hostRestart (key : BitVec 16) (t : Dword)
  /-- MASTHEAD_WATCHDOG, R393. -/
  | mastheadWatchdog (flushed : Timed Bool)
  /-- INPUT_LOSS, R410. -/
  | inputLoss (volt : BitVec 16) (t : Dword)
  /-- HOLDUP_FIELDS_OFF, R410. -/
  | holdupFieldsOff (t : Dword)
  /-- HOLDUP_RIM_OFF, R410. -/
  | holdupRimOff (t : Dword)
  /-- INPUT_DIP, R398. -/
  | inputDip
  /-- INPUT_LOW, R398. -/
  | inputLow (volt : BitVec 16) (t : Dword)
  /-- INPUT_HIGH, R398. -/
  | inputHigh (volt : BitVec 16) (t : Dword)
  /-- AVS_TRIM_TICK, R399. -/
  | avsTrimTick (core : Fin 9216) (margin : Nat)
  /-- TIMING_NEAR_MISS, R399. -/
  | timingNearMiss (core : Fin 9216)
  /-- SLOW_CORE_TIMEOUT, R400. -/
  | slowCoreTimeout (core : Fin 9216) (t : Dword)
  /-- POWER_POLICY_TICK, R404. -/
  | powerPolicyTick (i : PowerIn) (t : Dword)
  /-- PHASE_FAILURE, R405. -/
  | phaseFailure (core : Fin 9216) (phase : Fin 4) (value : BitVec 16) (t : Dword)
  /-- REGULATOR_FAILURE, R405. -/
  | regulatorFailure (core : Fin 9216) (value : BitVec 16) (t : Dword)
  /-- CORE_SHORT, R405. -/
  | coreShort (core : Fin 9216) (value : BitVec 16) (t : Dword)
  /-- CONVERTER_FAILURE, R405. -/
  | converterFailure (k : Fin 96) (value : BitVec 16) (t : Dword)
  /-- FIELD_SUPPLY_SHORT, R405. -/
  | fieldSupplyShort (n : Fin 48) (value : BitVec 16) (t : Dword)
  /-- RIM_CONVERTER_FAILURE, R405. -/
  | rimConverterFailure (i : Fin 2) (value : BitVec 16) (t : Dword)
  /-- PHASE_LIMIT_EXPIRE, R406. -/
  | phaseLimitExpire (core : Fin 9216) (t : Dword)
  /-- QUIET_WINDOW_GRANT, R409. -/
  | quietWindowGrant (n : Fin 48) (peaks : List (Nat × Nat)) (t : Dword)
  /-- GRANT_TIMEOUT, R409. -/
  | grantTimeout (n : Fin 48) (t : Dword)
  /-- FIELD_RAMP_TIMEOUT, R409. -/
  | fieldRampTimeout (n : Fin 48) (value : BitVec 16) (t : Dword)
  /-- CORE_SENSOR_SAMPLE, R415. -/
  | coreSensorSample (core : Fin 9216) (diode ring : Option Int) (t : Dword)
  /-- TIER_SENSOR_SAMPLE, R415. -/
  | tierSensorSample (core : Fin 9216) (tier : Fin 4) (reading : Option Int) (t : Dword)
  /-- DISAGREE_TIMEOUT, R418. -/
  | disagreeTimeout (core : Fin 9216) (t : Dword)
  /-- STAGE1_RELEASE, R420. -/
  | stage1Release (core : Fin 9216) (t : Dword)
  /-- THERMAL_DEMAND_TICK, R421. -/
  | thermalDemandTick (t : Dword)
  /-- THERMAL_TRIP, R422. -/
  | thermalTrip (n : Fin 48) (core : Fin 192) (tier : Fin 4) (value : BitVec 8) (t : Dword)
  /-- TRAY_POLL, R423. -/
  | trayPoll (r : Option (BitVec 96)) (t : Dword)
  /-- GATING_TICK, R426. -/
  | gatingTick (t : Dword)
  /-- STRIKE_RESTORE_DEADLINE, R429. -/
  | strikeRestoreDeadline (t : Dword)
  /-- SPARE_CHECK_DONE, R439. -/
  | spareCheckDone (n : Fin 48) (col : Fin 12) (pass : Bool)
  /-- COLUMN_TEST_DONE, R439. -/
  | columnTestDone (n : Fin 48) (pass : Bool)
  /-- HOST_FLR, R494. -/
  | hostFlr (f : Fin 65) (link : Fin 4) (t : Dword)
  /-- HOST_PERST, R494. -/
  | hostPerst (link : Fin 4)
  /-- HOST_LINK_DOWN, R494. -/
  | hostLinkDown (link : Fin 4)
  /-- HOST_LINK_UP, R490. -/
  | hostLinkUp (link rate : Fin 4) (width : Fin 32) (flit : Bool)
  /-- MSIX_UNMASK, R495. -/
  | msixUnmask (f : Fin 65) (v : Option (Fin 256))
  /-- COALESCE_EXPIRE, R496. -/
  | coalesceExpire (f : Fin 65) (v : Timed (Fin 64))
  /-- MBX_OUT_GO, R499. -/
  | mbxOutGo (f : Fin 65) (link : Fin 4)
  /-- MBX_TAKE, R499. -/
  | mbxTake (f : Fin 65)
  /-- MBX_REPLY_WRITE, R500. -/
  | mbxReplyWrite (f : Fin 65)
  /-- MBX_IN_DONE, R500. -/
  | mbxInDone (f : Fin 65)
  /-- DBL_STAT_CLEAR, R503. -/
  | dblStatClear (f : Fin 65) (w : Word)
  /-- DBL_MASK_WRITE, R503. -/
  | dblMaskWrite (f : Fin 65) (w : Word)
  /-- INFO, R501. -/
  | info (f : Fin 65)
  /-- PARTITION_RESET, R356. -/
  | partitionReset (p : Fin 64) (t : Dword)
  /-- HOIST, R250. -/
  | hoist (p : Fin 64) (byVf : Bool) (t : Dword)
  /-- UNLOAD, R255. -/
  | unload (p : Fin 64) (byVf : Bool) (t : Dword)
  /-- HOIST_ABORT, R262. -/
  | hoistAbort (p : Fin 64) (byVf : Bool) (t : Dword)
  /-- HOIST_QUEUE_TAKE, R250. -/
  | hoistQueueTake (p : Fin 64) (inp : HoistIn) (t : Dword)
  /-- HALYARD_SEGMENT, R242. -/
  | halyardSegment (p : Fin 64) (seg : SegIn) (t : Dword)
  /-- UNLOAD_DRAIN_LIMIT, R255. -/
  | unloadDrainLimit (p : Fin 64) (slot : Fin 4) (t : Dword)
  /-- UNLOAD_ERASE_DONE, R255. -/
  | unloadEraseDone (p : Fin 64) (slot : Fin 4) (t : Dword)
  /-- GET_VERSION, R470. -/
  | getVersion (a : SpdmAt)
  /-- GET_CAPABILITIES, R470. -/
  | getCapabilities (a : SpdmAt) (ver : Fin 256)
  /-- NEGOTIATE_ALGORITHMS, R470. -/
  | negotiateAlgorithms (a : SpdmAt) (offers : Bool)
  /-- GET_DIGESTS, R470. -/
  | getDigests (a : SpdmAt)
  /-- GET_CERTIFICATE, R470. -/
  | getCertificate (a : SpdmAt) (slot : Fin 8) (offset len : Nat)
  /-- CHALLENGE, R470. -/
  | challenge (a : SpdmAt) (slot : Fin 8) (transcript : BitVec 384)
  /-- GET_MEASUREMENTS, R471. -/
  | getMeasurements (a : SpdmAt) (index : Fin 256) (sign : Bool) (transcript : BitVec 384)
  /-- KEY_EXCHANGE, R470. -/
  | keyExchange (a : SpdmAt) (slot : Fin 8) (transcript : BitVec 384)
  /-- FINISH, R470. -/
  | finish (a : SpdmAt) (id : Fin 2) (good : Bool)
  /-- END_SESSION, R470. -/
  | endSession (a : SpdmAt) (id : Fin 2)
  /-- HEARTBEAT, R470. -/
  | heartbeat (a : SpdmAt) (id : Fin 2)
  /-- CHUNK_SEND, R470. -/
  | chunkSend (a : SpdmAt) (handle : Fin 256) (seq : Fin 65536) (last : Bool)
  /-- CHUNK_GET, R470. -/
  | chunkGet (a : SpdmAt) (seq : Fin 65536)
  /-- IDE_KM, R472. -/
  | ideKm (id : Fin 2) (link k : Fin 4) (op : IdeOp) (fns : List (Fin 65))
  /-- KEY_EXCH, R478. -/
  | keyExch (p : Fin 64) (req : Option (BitVec 1024))
  /-- KEY_CLEAR, R479. -/
  | keyClear (p : Fin 64) (req : Option (BitVec 1024))
  /-- SIGNKEY, R475. -/
  | signkey (point : Option (BitVec 776))
  /-- DRBG_RESEED, R469. -/
  | drbgReseed (healthy : Bool)
  /-- CFG_COPY_GO, R513. -/
  | cfgCopyGo (copy : Bool) (link : Fin 4)
  /-- CFG_COPY_DONE, R513. -/
  | cfgCopyDone (img : Option Nat) (progOk : Bool)
  /-- RWP_WRITE, R514. -/
  | rwpWrite (i : Fin 64) (v : Word)
  /-- RWP_RECORD_PROGRAMMED, R514. -/
  | rwpRecordProgrammed (ok0 ok1 : Bool)
  /-- FW_STAGE, R530. -/
  | fwStage
  /-- FW_STAGE_COMPLETE, R530. -/
  | fwStageComplete (pkg : Option PkgIn) (progOk : Bool)
  /-- FW_ACTIVATE, R533. -/
  | fwActivate (t : Dword)
  /-- FW_ACT_TIME, R533. -/
  | fwActTime (t : Dword)
  /-- FC_FIELD_ACTIVATE, R535. -/
  | fcFieldActivate (n : Fin 48) (ends : Bool) (t : Dword)
  /-- FW_RIG_NOTICE_DEADLINE, R536. -/
  | fwRigNoticeDeadline (t : Dword)
  /-- FW_ACTIVATION_NOTICE, R536. -/
  | fwActivationNotice (peer : Dword) (cancel : Bool) (time : Dword) (sig : BitVec 768) (t : Dword)
  /-- FW_CONFIRM, R538. -/
  | fwConfirm (progOk : Bool)
  /-- FW_REVERT, R539. -/
  | fwRevert (t : Dword)
  /-- FW_ABORT, R541. -/
  | fwAbort (t : Dword)
  /-- FW_FALLBACK, R541. -/
  | fwFallback (progOk : Bool)
  /-- FW_MH_TRIAL_TIMEOUT, R537. -/
  | fwMhTrialTimeout (t : Dword)
  /-- FC_HEARTBEAT_LOSS, R537. -/
  | fcHeartbeatLoss (n : Fin 48) (t : Dword)
  /-- EVR_FREEZE, R551. -/
  | evrFreeze (t : Dword)
  /-- EVR_THAW, R551. -/
  | evrThaw (t : Dword)
  /-- EVR_DUMP, R556. -/
  | evrDump
  /-- EVR_CLEAR, R556. -/
  | evrClear
  /-- EVR_FLUSH, R554. -/
  | evrFlush (t : Dword)
  /-- EVR_FREEZE_LIMIT, R551. -/
  | evrFreezeLimit (t : Dword)
  /-- EVR_PERIODIC_FLUSH, R554. -/
  | evrPeriodicFlush (t : Dword)
  /-- EVR_FAULT_FLUSH_SPACING, R554. -/
  | evrFaultFlushSpacing (t : Dword)
  /-- EVR_HSRC_WRITE, R546. -/
  | evrHsrcWrite (h : Fin 64) (w : Word)
  /-- EVR_SECOND_SAMPLE, R545. -/
  | evrSecondSample (t : Dword)
  /-- ELOG_POP, R152. -/
  | elogPop (l : LogSel)
  /-- VIOL_RECORD_CLEAR, R121. -/
  | violRecordClear (core : Fin 9216)
  /-- ILL_RECORD_CLEAR, R212. -/
  | illRecordClear (core : Fin 9216)
  /-- MST_CTRL_WRITE, R151. -/
  | mstCtrlWrite (w : Word)
  /-- THM_CTRL_WRITE, R432. -/
  | thmCtrlWrite (w : Word)
  /-- BAD_REGISTER_ACCESS, R491. -/
  | badRegisterAccess (via : Option (Fin 64 × Fin 4))
  /-- REGISTER_WRITE, R6. -/
  | registerWrite (r : RegWrite)
  /-- PLDM_GET_PDR, R566. -/
  | pldmGetPdr (handle : Nat)
  /-- PLDM_GET_SENSOR_READING, R566. -/
  | pldmGetSensorReading (x : Sensor)
  /-- I3C_DYNAMIC_ADDRESS, R566. -/
  | i3cDynamicAddress (crow : Bool) (addr : Fin 128)
  /-- PTP_MESSAGE, R369. -/
  | ptpMessage (i : Fin 2) (now t : Dword)
  /-- START_UP_STEP_DONE, R389. -/
  | startUpStepDone (i : StartIn) (t : Dword)
  /-- SEQUENCER_SAVE_DONE, R91. -/
  | sequencerSaveDone (core : Fin 9216) (sail : Option (Fin 4))
  /-- FILL_COPY_DONE, R102. -/
  | fillCopyDone (core : Fin 9216)
  /-- PCIE_CONFIG_WRITE, R490. -/
  | pcieConfigWrite (link : Fin 4) (f : Fin 65) (master sriov : Option Bool) (numVfs : Option (Fin 65))
  /-- MBX_OUT_DATA_WRITE, R499. -/
  | mbxOutDataWrite (f : Fin 65) (i : Fin 16) (v : Word)
  /-- HOLDUP_STORE_CHARGED, R561. -/
  | holdupStoreCharged
  /-- ETHERNET_LINK_DOWN, R369. -/
  | ethernetLinkDown (i : Fin 2)
  /-- ETHERNET_LINK_UP, R369. -/
  | ethernetLinkUp (i : Fin 2)
  /-- ETHERNET_FRAME, R369. -/
  | ethernetFrame (i : Fin 2) (use : EthUse) (len : Fin 9217)
  /-- HOST_READ_TIMEOUT, R259. -/
  | hostReadTimeout (r : ReadItem) (t : Dword)
  /-- RECORDER_FLUSH_DONE, R553. -/
  | recorderFlushDone (ok0 ok1 : Bool) (t : Dword)
  /-- MH_SWITCH_DONE, R534. -/
  | mhSwitchDone
  /-- RIO_ACTIVATE_DONE, R535. -/
  | rioActivateDone (i : Fin 4)
  deriving DecidableEq, Repr

end Sys2Proof
end

