-- ==== Sys2Proof/Config.lean ====
section
/-! DEFINITION. Free values and outcomes of the algorithms the manual only names: constants without a body, so that no proof can lean on a value. -/

namespace Sys2Proof.Config

/-- A value that the spec leaves open, fresh for each reading of the state's counter. -/
opaque freeValue : Nat → BitVec 2048

/-- Whose row a row of an output tile is: by step, core, sail, tile and row, the relative decode slot and the input position within the slot's verify window, of the target
model; none for a row of a draft model (04 R96 counts by request and retained position; the spec does not say how the unit knows the request of a row). -/
opaque rowSlot : Nat → Nat → Nat → Nat → Nat → Option (Nat × Nat)

/-- The row of the row group with which an output tile begins, by step, core, sail and tile (04 R94 names mask bits by it; the spec does not say how the unit knows it). -/
opaque groupFirst : Nat → Nat → Nat → Nat → Fin 512

/-- The hop counter at which a VC3 flit stands at its core's injection port, by source core, tracker entry and byte offset: fc that the schedule does not tie to the hop counters (07 R175). -/
opaque hopPhase : Nat → Nat → Nat → Nat

/-- SHA-384 of a byte string, given as its length and its little-endian value (10 R243, R245). -/
opaque sha384 : Nat → Nat → BitVec 384

/-- ECDSA P-384 verification: public key point, digest, signature r and s (10 R243). -/
opaque ecdsaVerify : BitVec 776 → BitVec 384 → BitVec 768 → Bool

/-- The lowest voltage in mV at which a core's monitors keep their margin, by core, clock step and whether the core runs at half rate: measured at
self-test (17 R399, R400). -/
opaque coreFloor : Nat → Nat → Bool → Nat

/-- The voltage in mV at which a core's regulator brings its domain up (17 R397, R409). -/
opaque startVolt : Nat → Nat

/-- ECDSA P-384 over a digest under the key of the crow's nest with a serial (20 R459). -/
opaque meterSign : BitVec 64 → BitVec 384 → BitVec 768

/-- The certificate chain of a meter's key: its length in bytes and its bytes (20 R462). -/
opaque meterChain : BitVec 64 → Nat × Nat

/-- AES-256 of one block under a key (21 R482). -/
opaque aes256 : BitVec 256 → BitVec 128 → BitVec 128

/-- AES-256-XTS of one data unit, its bytes as a little-endian number, under its two keys and a tweak (13 R326). -/
opaque xts256 : BitVec 256 × BitVec 256 → BitVec 128 → Nat → Nat

/-- AES-256-GCM opened: key, IV, the length in bytes and value of the additional data and of the ciphertext, and the tag; none where the tag fails (10 R242, 21 R481). -/
opaque gcmOpen : BitVec 256 → BitVec 96 → Nat → Nat → Nat → Nat → BitVec 128 → Option Nat

/-- HKDF-SHA-384: salt, IKM and info, each as its length in bytes and value, and the length of the output (21 R476, R478). -/
opaque hkdf384 : Nat × Nat → Nat × Nat → Nat × Nat → Nat → Nat

/-- Z of ECDH between the UKA private key of the unit with a serial and a point (21 R468, R476). -/
opaque ukaEcdh : BitVec 64 → BitVec 776 → BitVec 384

/-- AES key unwrap of 40 bytes under a key; none where its integrity check fails (10 Table 10.2, 21 R476). -/
opaque keyUnwrap : BitVec 256 → BitVec 320 → Option (BitVec 256)

/-- AES key wrap of 32 bytes under a key (24 R527). -/
opaque keyWrap : BitVec 256 → BitVec 256 → BitVec 320

/-- KP, the product firmware key, and KS, the storage key of the unit with a serial (24 R527). -/
opaque productKey : BitVec 256
opaque storageKey : BitVec 64 → BitVec 256

/-- AES-256-GMAC: key, IV, and the data's length in bytes and value (21 R483). -/
opaque gmac256 : BitVec 256 → BitVec 96 → Nat → Nat → BitVec 128

/-- Whether 97 bytes are an uncompressed point on P-384 (10 R243, 21 R476, R478). -/
opaque onCurve : BitVec 776 → Bool

/-- The module's ephemeral P-384 public key at a draw of the DRBG (21 R469, R478). -/
opaque ephemeral : Nat → BitVec 776

/-- Z of ECDH between the ephemeral key of a draw and a point (21 R478). -/
opaque ecdh : Nat → BitVec 776 → BitVec 384

/-- HMAC-SHA-384 under a key over a byte string, given as its length and value (21 R477). -/
opaque hmac384 : BitVec 384 → Nat → Nat → BitVec 384

/-- ECDSA P-384 by the identity key of the unit with a serial, over a digest (21 R468). -/
opaque idSign : BitVec 64 → BitVec 384 → BitVec 768

/-- A draw of the DRBG, 256 bits (21 R469). -/
opaque drbg : Nat → BitVec 256

/-- The identity chain of the unit with a serial, and its UKA certificate: lengths in bytes and bytes (21 R468). -/
opaque idChain : BitVec 64 → Nat × Nat
opaque ukaCert : BitVec 64 → Nat × Nat

/-- SHA-384 of the security engine's ROM and of the masthead's ROM (21 Table 21.2). -/
opaque romDigest : Bool → BitVec 384

/-- SHA-384 of a firmware component, by kind 1 MH, 2 FC, 3 RIO and version (21 Table 21.2, 24 Table 24.1). -/
opaque fwDigest : Nat → BitVec 32 → BitVec 384

/-- The settings format that the masthead firmware of a major version uses (24 R531). -/
opaque setFmtOf : Nat → Nat

/-- A configuration copy converted into another settings format (24 R532). -/
opaque convert : Nat → Nat → Nat

/-- Tolxiot's firmware signing key (24 R527). -/
opaque fwKey : BitVec 776

/-- The calibrated asymmetry of a sheet port pair in ns: the unit's serial, its port, the peer's port (15 R368). -/
opaque asymmetry : BitVec 64 → Nat → Nat → Int

/-- The platform descriptor record of a handle: its length and bytes (26 R566 names the sensors and no layout). -/
opaque pdr : Nat → Nat × Nat

end Sys2Proof.Config
end

