-- ==== Sys2Proof/Machine/Bits.lean ====
section
/-! DEFINITION. Bit fields, saturating counts, maps by number and byte memories: the shared helpers below every other file. -/

namespace Sys2Proof.Machine

/-- `w` bits of `x` from bit `lo` up. -/
def bits {n : Nat} (x : BitVec n) (lo w : Nat) : BitVec w := x.extractLsb' lo w

/-- The same field as a number. -/
def bitsN {n : Nat} (x : BitVec n) (lo w : Nat) : Nat := (x.toNat >>> lo) % 2 ^ w

/-- Bit `i` of `x`. -/
def bitAt {n : Nat} (x : BitVec n) (i : Nat) : Bool := x.getLsbD i

/-- `x` with the `w` bits from bit `lo` up replaced by `v`. -/
def setBits {n : Nat} (x : BitVec n) (lo w : Nat) (v : Nat) : BitVec n :=
  let mask := BitVec.ofNat n ((2 ^ w - 1) <<< lo)
  (x &&& ~~~mask) ||| (BitVec.ofNat n ((v % 2 ^ w) <<< lo))

/-- A list of (place, width, value) fields packed into one word. -/
def packFields (n : Nat) (fs : List (Nat × Nat × Nat)) : BitVec n :=
  fs.foldl (fun x f => setBits x f.1 f.2.1 f.2.2) 0#n

/-- One as a number when the condition holds. -/
def b2n (b : Bool) : Nat := if b then 1 else 0

/-- `a + k`, held at the bound. -/
def satAdd (bound a k : Nat) : Nat := if a + k ≤ bound then a + k else bound

/-- The ceiling of `a / b`. -/
def ceilDiv (a b : Nat) : Nat := (a + b - 1) / b

/-- The two's-complement value of a field of `w` bits. -/
def signedOf (w v : Nat) : Int := if v % 2 ^ w < 2 ^ (w - 1) then Int.ofNat (v % 2 ^ w) else Int.ofNat (v % 2 ^ w) - Int.ofNat (2 ^ w)

/-- The least non-negative residue of an integer modulo `2 ^ w`. -/
def wrapInt (w : Nat) (i : Int) : Nat := (i % (2 ^ w : Nat)).toNat

/-! ### Maps by number -/

/-- The value held at `k`, or `d` where none is. -/
def AMap.at {α : Type} (m : AMap α) (d : α) (k : Nat) : α :=
  match m with
  | [] => d
  | (k', v) :: r => if k' = k then v else AMap.at r d k

/-- The value held at `k`, if any. -/
def AMap.find {α : Type} (m : AMap α) (k : Nat) : Option α :=
  match m with
  | [] => none
  | (k', v) :: r => if k' = k then some v else AMap.find r k

/-- The map with `v` at `k`, its keys kept in rising order. -/
def AMap.put {α : Type} (m : AMap α) (k : Nat) (v : α) : AMap α :=
  match m with
  | [] => [(k, v)]
  | (k', v') :: r =>
    if k < k' then (k, v) :: (k', v') :: r
    else if k = k' then (k, v) :: r
    else (k', v') :: AMap.put r k v

/-- The map with nothing at `k`. -/
def AMap.del {α : Type} (m : AMap α) (k : Nat) : AMap α :=
  match m with
  | [] => []
  | (k', v') :: r => if k' = k then AMap.del r k else (k', v') :: AMap.del r k

/-- The map with the value at `k` (or `d`) changed by `f`. -/
def AMap.upd {α : Type} (m : AMap α) (d : α) (k : Nat) (f : α → α) : AMap α :=
  AMap.put m k (f (AMap.at m d k))

/-- Every value of a map changed by `f`, given its key. -/
def AMap.mapAll {α : Type} (m : AMap α) (f : Nat → α → α) : AMap α := m.map (fun p => (p.1, f p.1 p.2))

/-! ### Lists used as queues and tables -/

/-- The list with its element at `i` changed by `f`; unchanged past its end. -/
def updAt {α : Type} : List α → Nat → (α → α) → List α
  | [], _, _ => []
  | x :: r, 0, f => f x :: r
  | x :: r, i + 1, f => x :: updAt r i f

/-- The list without its element at `i`. -/
def delAt {α : Type} : List α → Nat → List α
  | [], _ => []
  | _ :: r, 0 => r
  | x :: r, i + 1 => x :: delAt r i

/-- `f` applied `n` times, its argument counting up from `i`. -/
def iter {α : Type} (n : Nat) (i : Nat) (f : Nat → α → α) (a : α) : α :=
  match n with
  | 0 => a
  | n + 1 => iter n (i + 1) f (f i a)

/-- The least `i` of `[i, i + n)` that meets `p`. -/
def findUp (p : Nat → Bool) : Nat → Nat → Option Nat
  | 0, _ => none
  | n + 1, i => if p i then some i else findUp p n (i + 1)

/-- Whether some number below `n` meets `p`. -/
def anyBelow (n : Nat) (p : Nat → Bool) : Bool := (List.range n).any p

/-- Whether every number below `n` meets `p`. -/
def allBelow (n : Nat) (p : Nat → Bool) : Bool := (List.range n).all p

end Sys2Proof.Machine
end

