-- ==== Sys2Proof/Machine/Fp.lean ====
section
/-! DEFINITION. Exact numbers, rounding to FP32 and BF16 (02 R30, 03 R60), compare keys (02 R35) and the correctly rounded long operations (08 R196). -/

namespace Sys2Proof.Machine

/-- A value with its IEEE kind. `fin neg m e` is m times 2^e, negated when `neg`; m = 0 is a signed zero. -/
inductive Num where
  | nan
  | inf (neg : Bool)
  | fin (neg : Bool) (m : Nat) (e : Int)
  deriving DecidableEq, Repr

/-- The positive zero. -/
def Num.zero : Num := .fin false 0 0

/-- The magnitude as an integer on the grid 2^e, for e at or below the value's own exponent. -/
def alignTo (m : Nat) (from' e : Int) : Nat := m * 2 ^ (from' - e).toNat

/-- The exact product, with the IEEE outcome for infinities. -/
def Num.mul : Num → Num → Num
  | .nan, _ => .nan
  | _, .nan => .nan
  | .inf s, .inf t => .inf (s != t)
  | .inf s, .fin t m _ => if m = 0 then .nan else .inf (s != t)
  | .fin s m _, .inf t => if m = 0 then .nan else .inf (s != t)
  | .fin s m e, .fin t n f => .fin (s != t) (m * n) (e + f)

/-- The exact sum. Zeros of opposite sign and an exact cancellation give +0 (R30). -/
def Num.add : Num → Num → Num
  | .nan, _ => .nan
  | _, .nan => .nan
  | .inf s, .inf t => if s = t then .inf s else .nan
  | .inf s, .fin _ _ _ => .inf s
  | .fin _ _ _, .inf t => .inf t
  | .fin s m e, .fin t n f =>
    if m = 0 ∧ n = 0 then .fin (s && t) 0 0
    else if m = 0 then .fin t n f
    else if n = 0 then .fin s m e
    else
      let g := if e ≤ f then e else f
      let a := alignTo m e g
      let b := alignTo n f g
      if s = t then .fin s (a + b) g
      else if a = b then .fin false 0 0
      else if b < a then .fin s (a - b) g
      else .fin t (b - a) g

/-- The negation. -/
def Num.neg : Num → Num
  | .nan => .nan
  | .inf s => .inf (!s)
  | .fin s m e => .fin (!s) m e

/-- The value times 2^k, exactly. -/
def Num.scale (k : Int) : Num → Num
  | .fin s m e => .fin s m (e + k)
  | x => x

/-- Round m times 2^e to nearest even with `p` significant bits, no grid finer than 2^emin, and an infinity past 2^(emax+1). -/
def roundMag (p : Nat) (emin emax : Int) (neg : Bool) (m : Nat) (e : Int) : Num :=
  if m = 0 then .fin neg 0 0
  else
    let top : Int := (Nat.log2 m : Int) + e
    let t0 := top - ((p : Int) - 1)
    let t := if t0 < emin then emin else t0
    if t ≤ e then
      if emax < top then .inf neg else .fin neg (alignTo m e t) t
    else
      let sh := (t - e).toNat
      let q := m >>> sh
      let rem := m % 2 ^ sh
      let half := 2 ^ (sh - 1)
      let q' := if half < rem ∨ (rem = half ∧ q % 2 = 1) then q + 1 else q
      if q' = 0 then .fin neg 0 0
      else if emax < (Nat.log2 q' : Int) + t then .inf neg else .fin neg q' t

/-- Round an exact value to FP32. -/
def Num.round32 : Num → Num
  | .fin s m e => roundMag 24 (-149) 127 s m e
  | x => x

/-- Round an exact value to BF16. -/
def Num.round16 : Num → Num
  | .fin s m e => roundMag 8 (-133) 127 s m e
  | x => x

/-- Round a positive or negative ratio of naturals: enough quotient bits, then a sticky bit. -/
def roundRatio (neg : Bool) (num den : Nat) : Num :=
  if num = 0 then .fin neg 0 0
  else
    let k := 64 + Nat.log2 den - Nat.log2 num
    let n := num <<< k
    let q := n / den
    let st := if n % den = 0 then 0 else 1
    roundMag 24 (-149) 127 neg (2 * q + st) (-(k : Int) - 1)

/-- The FP32 word of a value already on the FP32 grid; every NaN is 0x7FC0_0000 (R30). -/
def Num.enc32 : Num → BitVec 32
  | .nan => 0x7FC00000#32
  | .inf s => if s then 0xFF800000#32 else 0x7F800000#32
  | .fin s m e =>
    let sign := if s then 2 ^ 31 else 0
    if m = 0 then BitVec.ofNat 32 sign
    else
      let l := Nat.log2 m
      let ex : Int := (l : Int) + e
      if ex < -126 then BitVec.ofNat 32 (sign + alignTo m e (-149))
      else
        let frac := (if l ≤ 23 then m <<< (23 - l) else m >>> (l - 23)) % 2 ^ 23
        BitVec.ofNat 32 (sign + (ex + 127).toNat * 2 ^ 23 + frac)

/-- The BF16 code of a value on the BF16 grid: bits [31:16] of its FP32 word. -/
def Num.enc16 (x : Num) : BitVec 16 := (x.enc32 >>> 16).setWidth 16

/-- The value of a binary code with `eb` exponent bits, `mb` fraction bits and infinities at the top exponent. -/
def decIeee (eb mb : Nat) (code : Nat) : Num :=
  let s := (code >>> (eb + mb)) % 2 = 1
  let ex := (code >>> mb) % 2 ^ eb
  let fr := code % 2 ^ mb
  let bias : Int := (2 : Int) ^ (eb - 1) - 1
  if ex = 2 ^ eb - 1 then (if fr = 0 then .inf s else .nan)
  else if ex = 0 then .fin s fr (1 - bias - (mb : Int))
  else .fin s (2 ^ mb + fr) ((ex : Int) - bias - (mb : Int))

/-- The value of an FP32 word. -/
def dec32 (w : BitVec 32) : Num := decIeee 8 23 w.toNat

/-- The value of a BF16 code (R60). -/
def dec16 (h : BitVec 16) : Num := decIeee 8 7 h.toNat

/-- The value of an IEEE binary16 code (R55). -/
def decHalf (h : BitVec 16) : Num := decIeee 5 10 h.toNat

/-- A BF16 code widened to FP32, exactly. -/
def widen16 (h : BitVec 16) : BitVec 32 := (h.setWidth 32) <<< 16

/-- An exact value as an FP32 word. -/
def Num.to32 (x : Num) : BitVec 32 := x.round32.enc32

/-- An exact value as a BF16 code. -/
def Num.to16 (x : Num) : BitVec 16 := x.round16.enc16

/-- FP32 addition, subtraction and multiplication, and the once-rounded multiply-add (R30). -/
def fadd (a b : BitVec 32) : BitVec 32 := (Num.add (dec32 a) (dec32 b)).to32

def fsub (a b : BitVec 32) : BitVec 32 := (Num.add (dec32 a) (Num.neg (dec32 b))).to32

def fmul (a b : BitVec 32) : BitVec 32 := (Num.mul (dec32 a) (dec32 b)).to32

def ffma (a b c : BitVec 32) : BitVec 32 := (Num.add (Num.mul (dec32 a) (dec32 b)) (dec32 c)).to32

/-- Whether an FP32 word is a NaN, and whether it is an infinity or a NaN. -/
def isNan32 (w : BitVec 32) : Bool := (dec32 w) == .nan

def nonFinite32 (w : BitVec 32) : Bool := bitsN w 23 8 == 255

/-- The compare key of an FP32 word (R35). -/
def keyOf (b : BitVec 32) : BitVec 32 :=
  if isNan32 b then 0#32 else if b.getLsbD 31 then ~~~b else b ||| 0x80000000#32

/-- Whether a is below b as FP32 numbers; false with a NaN, and -0 equals +0. -/
def fLt (a b : BitVec 32) : Bool :=
  match dec32 a, dec32 b with
  | .nan, _ => false
  | _, .nan => false
  | x, y =>
    match Num.add x (Num.neg y) with
    | .fin s m _ => s && m != 0
    | .inf s => s
    | .nan => false

/-- Whether a equals b as FP32 numbers. -/
def fEq (a b : BitVec 32) : Bool :=
  !isNan32 a && !isNan32 b && (a == b || (a &&& 0x7FFFFFFF#32 == 0#32 && b &&& 0x7FFFFFFF#32 == 0#32))

/-- VMIN and VMAX on FP32: a NaN operand gives the quiet NaN, and -0.0 is less than +0.0 (R192). -/
def fmin (a b : BitVec 32) : BitVec 32 :=
  if isNan32 a || isNan32 b then 0x7FC00000#32 else if (keyOf a).toNat ≤ (keyOf b).toNat then a else b

def fmax (a b : BitVec 32) : BitVec 32 :=
  if isNan32 a || isNan32 b then 0x7FC00000#32 else if (keyOf b).toNat ≤ (keyOf a).toNat then a else b

/-- A float value to INT32: nearest even, saturating, NaN to 0 (R192). -/
def Num.toInt32 : Num → BitVec 32
  | .nan => 0#32
  | .inf s => if s then 0x80000000#32 else 0x7FFFFFFF#32
  | .fin s m e =>
    let mag : Nat :=
      if 0 ≤ e then m * 2 ^ (min e 64).toNat
      else
        let sh := (-e).toNat
        let q := m >>> sh
        let rem := m % 2 ^ sh
        let half := 2 ^ (sh - 1)
        if half < rem ∨ (rem = half ∧ q % 2 = 1) then q + 1 else q
    if s then (if 2 ^ 31 ≤ mag then 0x80000000#32 else BitVec.ofNat 32 (2 ^ 32 - mag))
    else (if 2 ^ 31 ≤ mag then 0x7FFFFFFF#32 else BitVec.ofNat 32 mag)

/-- An INT32 word as an exact value. -/
def ofInt32 (w : BitVec 32) : Num :=
  if w.getLsbD 31 then .fin true (2 ^ 32 - w.toNat) 0 else .fin false w.toNat 0

/-! ### Reciprocals and roots -/

/-- The integer square root of `n`, found bit by bit from bit `k - 1` down. -/
def isqrtGo (n : Nat) : Nat → Nat → Nat
  | 0, r => r
  | k + 1, r => let t := r + 2 ^ k; if t * t ≤ n then isqrtGo n k t else isqrtGo n k r

def isqrt (n : Nat) : Nat := isqrtGo n (Nat.log2 n / 2 + 1) 0

/-- 1 / x, correctly rounded. -/
def frcp (x : BitVec 32) : BitVec 32 :=
  match dec32 x with
  | .nan => 0x7FC00000#32
  | .inf s => if s then 0x80000000#32 else 0#32
  | .fin s m e =>
    if m = 0 then (if s then 0xFF800000#32 else 0x7F800000#32)
    else if 0 ≤ e then (roundRatio s 1 (m * 2 ^ e.toNat)).enc32
    else (roundRatio s (2 ^ (-e).toNat) m).enc32

/-- The square root of a positive m times 2^e, correctly rounded. -/
def sqrtMag (m : Nat) (e : Int) : Num :=
  let m' := if e % 2 = 0 then m else 2 * m
  let e' := if e % 2 = 0 then e else e - 1
  let n := m' <<< 64
  let q := isqrt n
  let st := if q * q = n then 0 else 1
  roundMag 24 (-149) 127 false (2 * q + st) (e' / 2 - 32 - 1)

/-- The square root, correctly rounded (Table 8.9). -/
def fsqrt (x : BitVec 32) : BitVec 32 :=
  match dec32 x with
  | .nan => 0x7FC00000#32
  | .inf s => if s then 0x7FC00000#32 else 0x7F800000#32
  | .fin s m e => if m = 0 then x else if s then 0x7FC00000#32 else (sqrtMag m e).enc32

/-- 1 / sqrt of a positive m times 2^e: the floor of 2^K over the root, with a sticky bit. -/
def rsqMag (m : Nat) (e : Int) : Num :=
  let m' := if e % 2 = 0 then m else 2 * m
  let e' := if e % 2 = 0 then e else e - 1
  let q := isqrt (2 ^ 160 / m')
  let st := if q * q * m' = 2 ^ 160 then 0 else 1
  roundMag 24 (-149) 127 false (2 * q + st) (-(e' / 2) - 80 - 1)

/-- 1 / sqrt x, correctly rounded (Table 8.9). -/
def frsq (x : BitVec 32) : BitVec 32 :=
  match dec32 x with
  | .nan => 0x7FC00000#32
  | .inf s => if s then 0x7FC00000#32 else 0#32
  | .fin s m e => if m = 0 then (if s then 0xFF800000#32 else 0x7F800000#32) else if s then 0x7FC00000#32 else (rsqMag m e).enc32

/-! ### Exponential and logarithm: intervals, widened until both ends round alike -/

/-- An interval of integers on the grid 2^-N. -/
structure Ival where
  lo : Nat
  hi : Nat
  deriving DecidableEq, Repr

/-- Terms r^i / i! from i on, both ends, summed into the accumulator; `r` on the grid 2^-N. -/
def expTerms (n : Nat) (r : Ival) : Nat → Nat → Ival → Ival → Ival
  | 0, _, t, acc => ⟨acc.lo, acc.hi + 2 * t.hi + 2⟩
  | k + 1, i, t, acc =>
    let t' : Ival := ⟨t.lo * r.lo / 2 ^ n / i, ceilDiv (ceilDiv (t.hi * r.hi) (2 ^ n)) i⟩
    expTerms n r k (i + 1) t' ⟨acc.lo + t'.lo, acc.hi + t'.hi⟩

/-- Squared `s` times. -/
def squareN (n : Nat) : Nat → Ival → Ival
  | 0, v => v
  | s + 1, v => squareN n s ⟨v.lo * v.lo / 2 ^ n, ceilDiv (v.hi * v.hi) (2 ^ n)⟩

/-- e to the power m times 2^e (at most 128) on the grid 2^-N: the 256th part by its series, squared eight times. -/
def expIval (n m : Nat) (e : Int) : Ival :=
  let k := e + (n : Int) - 8
  let r : Ival := if 0 ≤ k then ⟨m * 2 ^ k.toNat, m * 2 ^ k.toNat⟩ else ⟨m >>> (-k).toNat, (m >>> (-k).toNat) + 1⟩
  squareN n 8 (expTerms n r (n / 4 + 16) 1 ⟨2 ^ n, 2 ^ n⟩ ⟨2 ^ n, 2 ^ n⟩)

/-- The exponential at one working precision, or at the next where its interval still straddles two results. -/
def expTry (neg : Bool) (m : Nat) (e : Int) : List Nat → Num
  | [] => .nan
  | n :: rest =>
    let v := expIval n m e
    let a := if neg then roundRatio false (2 ^ n) v.hi else roundRatio false v.lo (2 ^ n)
    let b := if neg then roundRatio false (2 ^ n) v.lo else roundRatio false v.hi (2 ^ n)
    if a = b ∨ rest = [] then a else expTry neg m e rest

/-- e to the power x, correctly rounded (Table 8.9). -/
def fexp (x : BitVec 32) : BitVec 32 :=
  match dec32 x with
  | .nan => 0x7FC00000#32
  | .inf s => if s then 0#32 else 0x7F800000#32
  | .fin s m e =>
    if m = 0 then 0x3F800000#32
    else if 6 < (Nat.log2 m : Int) + e then (if s then 0#32 else 0x7F800000#32)
    else (expTry s m e [128, 256, 512]).enc32

/-- Terms z^(2i+1) / (2i+1), both ends. -/
def atanhTerms (n : Nat) (z2 : Ival) : Nat → Nat → Ival → Ival → Ival
  | 0, _, p, acc => ⟨acc.lo, acc.hi + 2 * p.hi + 2⟩
  | k + 1, i, p, acc =>
    let p' : Ival := ⟨p.lo * z2.lo / 2 ^ n, ceilDiv (p.hi * z2.hi) (2 ^ n)⟩
    atanhTerms n z2 k (i + 2) p' ⟨acc.lo + p'.lo / i, acc.hi + ceilDiv p'.hi i⟩

/-- The inverse hyperbolic tangent of num / den (at most 1/3) on the grid 2^-N. -/
def atanhIval (n num den : Nat) : Ival :=
  let z : Ival := ⟨num * 2 ^ n / den, ceilDiv (num * 2 ^ n) den⟩
  let z2 : Ival := ⟨z.lo * z.lo / 2 ^ n, ceilDiv (z.hi * z.hi) (2 ^ n)⟩
  atanhTerms n z2 (n / 3 + 4) 3 z z

/-- ln of m times 2^e at one working precision, or at the next. -/
def lnTry (m : Nat) (e : Int) : List Nat → Num
  | [] => .nan
  | n :: rest =>
    let l := Nat.log2 m
    let k : Int := (l : Int) + e
    let a := atanhIval n (m - 2 ^ l) (m + 2 ^ l)
    let c := atanhIval n 1 3
    let lo : Int := 2 * (a.lo : Int) + 2 * (if 0 ≤ k then k * (c.lo : Int) else k * (c.hi : Int))
    let hi : Int := 2 * (a.hi : Int) + 2 * (if 0 ≤ k then k * (c.hi : Int) else k * (c.lo : Int))
    let x := roundRatio (lo < 0) lo.natAbs (2 ^ n)
    let y := roundRatio (hi < 0) hi.natAbs (2 ^ n)
    if x = y ∨ rest = [] then x else lnTry m e rest

/-- ln x, correctly rounded (Table 8.9). -/
def fln (x : BitVec 32) : BitVec 32 :=
  match dec32 x with
  | .nan => 0x7FC00000#32
  | .inf s => if s then 0x7FC00000#32 else 0x7F800000#32
  | .fin s m e =>
    if m = 0 then 0xFF800000#32
    else if s then 0x7FC00000#32
    else if x = 0x3F800000#32 then 0#32
    else (lnTry m e [128, 256, 512]).enc32

end Sys2Proof.Machine
end

