-- ==== Sys2Proof/Machine/Formats.lean ====
section
/-! DEFINITION. The nine element formats, weight tiles, rotation, quantisation, outlier capture and the format ladder (03, 04). -/

namespace Sys2Proof.Machine

/-- Table 3.1: the codes that are not reserved. -/
def fmtOk (f : Nat) : Bool := decide (1 ≤ f ∧ f ≤ 9)

/-- Activation formats of Table 3.1. -/
def actFmt (f : Nat) : Bool := decide (1 ≤ f ∧ f ≤ 7)

/-- Element width in bits (Table 3.1). -/
def elemBits (f : Nat) : Nat :=
  match f with
  | 1 => 4 | 2 => 4 | 3 => 6 | 4 => 6 | 5 => 8 | 6 => 8 | 7 => 8 | 8 => 3 | _ => 2

/-- Elements of a scale block (R62). -/
def blockLen (f : Nat) : Nat := if f = 8 then 16 else if f = 9 then 64 else 32

/-- K positions of a tile: 128 in ternary mode, 64 otherwise (Table 2.2). -/
def tileK (f : Nat) : Nat := if f = 9 then 128 else 64

/-- Bytes of a scale: two for the FP16 scale of FJT2, one for E8M0. -/
def scaleBytes (f : Nat) : Nat := if f = 9 then 2 else 1

/-- Bytes of one column's elements, of the element plane, of one column's scales and of the tile (Table 3.4). -/
def colBytes (f : Nat) : Nat := tileK f * elemBits f / 8

def planeBytes (f : Nat) : Nat := 64 * colBytes f

def colScales (f : Nat) : Nat := tileK f / blockLen f

def tileBytes (f : Nat) : Nat := planeBytes f + 64 * colScales f * scaleBytes f

/-- The rank of a format's width: 0 ternary, 1 four bits, 2 six bits, 3 eight bits. -/
def widthClass (f : Nat) : Nat :=
  if f = 9 then 0 else if f = 1 ∨ f = 2 ∨ f = 8 then 1 else if f = 3 ∨ f = 4 then 2 else 3

/-- R25: which activation and weight formats pair. -/
def pairOk (a w : Nat) : Bool := actFmt a && fmtOk w && (w != 9 || a == 1 || a == 2)

/-- The fc that one row occupies the array, by the wider operand (Table 2.2). -/
def rowFc (a w : Nat) : Nat :=
  if w = 9 then 1 else match max (widthClass a) (widthClass w) with | 1 => 1 | 2 => 2 | _ => 4

/-- Load time of a weight tile in fc (Table 2.3). -/
def loadFc (f : Nat) : Nat := max (planeBytes f * 8 / 2048) (64 * colScales f * scaleBytes f * 8 / 256)

/-! ### Elements -/

/-- Exponent bits, mantissa bits and bias of a floating-point element (Table 3.2). -/
def fpParams (f : Nat) : Nat × Nat × Int :=
  match f with
  | 1 => (2, 1, 1)
  | 3 => (2, 3, 1)
  | 4 => (3, 2, 3)
  | 6 => (4, 3, 7)
  | 7 => (5, 2, 15)
  | _ => (1, 1, 1)

/-- A floating-point element decoded (R56), its -0.0 taken as +0.0 (R57). -/
def decFloatElem (f c : Nat) : Num :=
  let (eb, mb, bias) := fpParams f
  let s := (c >>> (eb + mb)) % 2 = 1
  let ex := (c >>> mb) % 2 ^ eb
  let m := c % 2 ^ mb
  if f = 6 ∧ ex = 15 ∧ m = 7 then .nan
  else if f = 7 ∧ ex = 31 then (if m = 0 then .inf s else .nan)
  else if ex = 0 then (if m = 0 then Num.zero else .fin s m (1 - bias - (mb : Int)))
  else .fin s (2 ^ mb + m) ((ex : Int) - bias - (mb : Int))

/-- An integer as an exact value on the grid 2^e. -/
def ofIntAt (i : Int) (e : Int) : Num := if i < 0 then .fin true i.natAbs e else .fin false i.natAbs e

/-- An element of any format decoded (R56 to R59). -/
def decElem (f c : Nat) : Num :=
  match f with
  | 2 => ofIntAt (signedOf 4 c) (-2)
  | 5 => ofIntAt (signedOf 8 c) (-6)
  | 9 => if c % 4 = 1 then .fin false 1 0 else if c % 4 = 3 then .fin true 1 0 else Num.zero
  | _ => decFloatElem f c

/-- An E8M0 scale (R54). -/
def decE8M0 (c : Nat) : Num := if c % 256 = 255 then .nan else .fin false 1 ((c % 256 : Nat) - 127)

/-- A weight scale of either kind. -/
def decScale (f c : Nat) : Num := if f = 9 then decHalf (BitVec.ofNat 16 c) else decE8M0 c

/-- The exponent of a format's unit (Table 3.5). -/
def unitExp (f : Nat) : Int :=
  match f with
  | 1 => -1 | 2 => -2 | 3 => -3 | 4 => -4 | 5 => -6 | 6 => -9 | 7 => -16 | 8 => -1 | _ => 0

/-- The integer code of an element of a format for the residue check; an infinity or a NaN has code 0 (R63, Table 3.5). -/
def intCode (f c : Nat) : Int :=
  match decElem f c with
  | .fin s m e => let v : Int := alignTo m e (unitExp f); if s then -v else v
  | _ => 0

/-- A residue modulo 7, least non-negative (R63). -/
def residue7 (i : Int) : Nat := (i % 7).toNat

/-! ### Tiles -/

/-- The bits of a tile, its element plane first (R61). -/
abbrev TileBits := BitVec 33792

/-- The code of element k of column n. -/
def tileElem (f : Nat) (t : TileBits) (n k : Nat) : Nat := bitsN t (n * colBytes f * 8 + elemBits f * k) (elemBits f)

/-- The code of scale b of column n. -/
def tileScale (f : Nat) (t : TileBits) (n b : Nat) : Nat :=
  bitsN t (planeBytes f * 8 + (n * colScales f + b) * scaleBytes f * 8) (scaleBytes f * 8)

/-- The exact weight at K position k, column n: its element times its block's scale. -/
def tileWeight (f : Nat) (t : TileBits) (n k : Nat) : Num :=
  Num.mul (decElem f (tileElem f t n k)) (decScale f (tileScale f t n (k / blockLen f)))

/-! ### Rotation (R64) -/

/-- One butterfly stage over runs of 2h. -/
def butterfly (h : Nat) : Nat → List (BitVec 32) → List (BitVec 32)
  | 0, xs => xs
  | k + 1, xs =>
    let u := xs.take h
    let v := (xs.drop h).take h
    List.zipWith fadd u v ++ List.zipWith fsub u v ++ butterfly h k (xs.drop (2 * h))

/-- All stages h = 1, 2, 4, ... -/
def hadamard (len : Nat) : Nat → Nat → List (BitVec 32) → List (BitVec 32)
  | 0, _, xs => xs
  | k + 1, h, xs => hadamard len k (2 * h) (butterfly h (len / (2 * h)) xs)

/-- Span size and scaling exponent of a ROTSZ code (R64). -/
def rotSize (c : Nat) : Nat := match c with | 1 => 64 | 2 => 128 | 3 => 256 | _ => 0

def rotShift (c : Nat) : Int := if c = 1 then 3 else 4

/-- One span rotated: signs, butterflies, and 2^-a with one rounding to BF16. -/
def rotateSpan (code : Nat) (signs : Nat) (xs : List (BitVec 16)) : List (BitVec 16) :=
  let n := rotSize code
  let ys := (List.range xs.length).zip xs |>.map (fun p => if (signs >>> p.1) % 2 = 1 then (widen16 p.2) ^^^ 0x80000000#32 else widen16 p.2)
  (hadamard n (Nat.log2 n) 1 ys).map (fun y => (Num.scale (-(rotShift code)) (dec32 y)).to16)

/-! ### Capture (R72) -/

/-- What the feeder makes of one slice: the elements left, the captured pairs (position, value) and whether an outlier was missed. -/
structure Captured where
  left : List (BitVec 16)
  side : List (Nat × BitVec 16)
  missed : Bool
  deriving DecidableEq, Repr

/-- Whether a BF16 element is finite and above CLIP in magnitude. -/
def isOutlier (clip v : BitVec 16) : Bool :=
  bitsN v 7 8 != 255 && decide ((clip &&& 0x7FFF#16).toNat < (v &&& 0x7FFF#16).toNat)

/-- Elements in ascending K order; `room` is what both capacities still allow. -/
def captureGo (clip : BitVec 16) : Nat → Nat → List (BitVec 16) → Captured → Captured
  | _, _, [], acc => ⟨acc.left.reverse, acc.side.reverse, acc.missed⟩
  | k, room, v :: r, acc =>
    if isOutlier clip v then
      (if room = 0 then captureGo clip (k + 1) 0 r ⟨v :: acc.left, acc.side, true⟩
       else captureGo clip (k + 1) (room - 1) r ⟨0#16 :: acc.left, (k, v) :: acc.side, acc.missed⟩)
    else captureGo clip (k + 1) room r ⟨v :: acc.left, acc.side, acc.missed⟩

/-- Capture of one slice: at most SC_N in the slice, and what SC_ROW leaves of the row's entries. -/
def capture (clip : BitVec 16) (scN scRow had : Nat) (xs : List (BitVec 16)) : Captured :=
  captureGo clip 0 (min scN (scRow - had)) xs ⟨[], [], false⟩

/-! ### Quantisation (R68, R69) -/

/-- The exponent of the largest normal value (R68). -/
def emaxOf (f : Nat) : Int :=
  match f with
  | 1 => 2 | 3 => 2 | 4 => 4 | 6 => 8 | 7 => 15 | _ => 0

/-- Largest magnitude code of a floating-point format. -/
def maxCode (f : Nat) : Nat :=
  match f with
  | 1 => 7 | 3 => 31 | 4 => 31 | 6 => 0x7E | 7 => 0x7B | _ => 3

/-- The nearest integer to m times 2^e, ties to even. -/
def roundNat (m : Nat) (e : Int) : Nat :=
  if 0 ≤ e then m * 2 ^ e.toNat
  else
    let sh := (-e).toNat
    let q := m >>> sh
    let rem := m % 2 ^ sh
    let half := 2 ^ (sh - 1)
    if half < rem ∨ (rem = half ∧ q % 2 = 1) then q + 1 else q

/-- The magnitude code of a floating-point element nearest m times 2^e, saturating. -/
def encMag (f m : Nat) (e : Int) : Nat :=
  let (_, mb, bias) := fpParams f
  match roundMag (mb + 1) (1 - bias - (mb : Int)) 4000 false m e with
  | .fin _ q t =>
    if q = 0 then 0
    else
      let ex : Int := (Nat.log2 q : Int) + t
      let c := if ex < 1 - bias then alignTo q t (1 - bias - (mb : Int))
               else (ex + bias).toNat * 2 ^ mb + alignTo q t (ex - (mb : Int)) % 2 ^ mb
      min c (maxCode f)
  | _ => maxCode f

/-- The signed magnitude of the code nearest a finite quotient: for the integer formats the integer itself. -/
def encSigned (f : Nat) : Num → Int
  | .fin s m e =>
    let c : Int := match f with
      | 2 => min (roundNat m (e + 2)) 7
      | 5 => min (roundNat m (e + 6)) 127
      | _ => encMag f m e
    if s then -c else c
  | _ => 0

/-- The element code of a signed magnitude; a zero has its sign bit clear. -/
def codeOfSigned (f : Nat) (v : Int) : Nat :=
  match f with
  | 2 => wrapInt 4 v
  | 5 => wrapInt 8 v
  | _ => if v < 0 then v.natAbs + 2 ^ (elemBits f - 1) else v.natAbs

/-- The exponent of the largest magnitude of a list of finite values, if any is not zero. -/
def topExp (xs : List Num) : Option Int :=
  xs.foldl (fun acc x => match x with
    | .fin _ m e => if m = 0 then acc else
        (let t : Int := (Nat.log2 m : Int) + e
         match acc with | none => some t | some u => some (if u < t then t else u))
    | _ => acc) none

/-- A quantised block: its scale code and its element codes. -/
structure QBlock where
  scale : Nat
  codes : List Nat
  deriving DecidableEq, Repr

/-- One activation block quantised (R68, R69). -/
def quantBlock (f : Nat) (xs : List (BitVec 16)) : QBlock :=
  let vs := xs.map dec16
  if vs.any (fun v => match v with | .fin _ _ _ => false | _ => true) then ⟨255, xs.map (fun _ => 0)⟩
  else
    let x : Int := match topExp vs with
      | none => -127
      | some t => if t - emaxOf f < -127 then -127 else t - emaxOf f
    ⟨(x + 127).toNat, vs.map (fun v => codeOfSigned f (encSigned f (Num.scale (-x) v)))⟩

/-- A slice quantised in blocks of 32. -/
def quantSlice (f : Nat) : Nat → List (BitVec 16) → List QBlock
  | 0, _ => []
  | k + 1, xs => quantBlock f (xs.take 32) :: quantSlice f k (xs.drop 32)

/-- The quantised slice as exact element values with their own scales. -/
def sliceValues (f : Nat) (bs : List QBlock) : List (Num × Num) :=
  bs.flatMap (fun b => b.codes.map (fun c => (decElem f c, decE8M0 b.scale)))

/-! ### What a sail adds (R29, R62) -/

/-- The exact scaled dot product of one block, rounded once to FP32. -/
def blockDot (xs : List (Num × Num)) (ws : List Num) : BitVec 32 :=
  let terms := List.zipWith (fun x w =>
    match Num.mul (Num.mul x.1 x.2) w with
    | .fin s m e => if m = 0 then Num.zero else .fin s m e
    | v => v) xs ws
  (terms.foldl Num.add Num.zero).to32

/-- Block results of one column in ascending K order. -/
def colBlocks (wf : Nat) (t : TileBits) (n : Nat) (xs : List (Num × Num)) : List (BitVec 32) :=
  (List.range (colScales wf)).map (fun b =>
    let l := blockLen wf
    blockDot ((xs.drop (b * l)).take l) ((List.range l).map (fun i => tileWeight wf t n (b * l + i))))

/-- The sum of a column's block results in the declared order (R29 step 2). -/
def sumBlocks (desc : Bool) (ps : List (BitVec 32)) : BitVec 32 :=
  match (if desc then ps.reverse else ps) with
  | [] => 0#32
  | p :: r => r.foldl fadd p

/-- Lane i of a vector word as FP32. -/
def lane32 (v : BitVec 2048) (i : Nat) : BitVec 32 := bits v (32 * i) 32

/-- Lane i of a vector word as BF16. -/
def lane16 (v : BitVec 2048) (i : Nat) : BitVec 16 := bits v (16 * i) 16

/-- A vector word from its 64 lanes. -/
def ofLanes32 (f : Nat → BitVec 32) : BitVec 2048 :=
  BitVec.ofNat 2048 ((List.range 64).foldr (fun i acc => (f i).toNat + 2 ^ 32 * acc) 0)

/-- A vector word from its 128 half lanes. -/
def ofLanes16 (f : Nat → BitVec 16) : BitVec 2048 :=
  BitVec.ofNat 2048 ((List.range 128).foldr (fun i acc => (f i).toNat + 2 ^ 16 * acc) 0)

/-- One row against one weight tile, added into an accumulator row (R29). -/
def accumulateRow (acc : BitVec 2048) (wf : Nat) (t : TileBits) (desc : Bool) (xs : List (Num × Num)) : BitVec 2048 :=
  ofLanes32 (fun n => fadd (lane32 acc n) (sumBlocks desc (colBlocks wf t n xs)))

/-- One used sidecar entry added to a row: value times row k of the tile (R76). A product that is zero is added as +0.0, whatever the signs of its factors.
DESIGN CHOICE: notes/assumptions/8.md. -/
def sidecarAdd (acc : BitVec 2048) (wf : Nat) (t : TileBits) (k : Nat) (v : BitVec 16) : BitVec 2048 :=
  ofLanes32 (fun n =>
    match Num.mul (dec16 v) (tileWeight wf t n k) with
    | .fin s m e => fadd (lane32 acc n) (if m = 0 then 0#32 else (Num.fin s m e).to32)
    | x => fadd (lane32 acc n) x.to32)

/-- Pairs of neighbours added: one level of the tree of R37. -/
def treeLevel (op : BitVec 32 → BitVec 32 → BitVec 32) : List (BitVec 32) → List (BitVec 32)
  | a :: b :: r => op a b :: treeLevel op r
  | xs => xs

/-- The fixed balanced tree over `n` levels (R37). -/
def treeReduce (op : BitVec 32 → BitVec 32 → BitVec 32) : Nat → List (BitVec 32) → BitVec 32
  | 0, xs => xs.headD 0#32
  | n + 1, xs => treeReduce op n (treeLevel op xs)

/-- The squared row norm over 64 columns (R80). -/
def rowNorm (v : BitVec 2048) : BitVec 32 :=
  treeReduce fadd 6 ((List.range 64).map (fun i => fmul (lane32 v i) (lane32 v i)))

/-! ### Wider weights (R84 to R87) -/

/-- The rung of a weight format on the ladder of Table 4.3. -/
def ladderRung (f : Nat) : Nat := match f with | 9 => 0 | 1 => 1 | 2 => 1 | 8 => 1 | 3 => 2 | 4 => 2 | 5 => 3 | _ => 4

/-- Whether `g` is a format of the rung above `f` (Table 4.3). -/
def nextRungOk (f g : Nat) : Bool :=
  match ladderRung f with
  | 0 => g == 1
  | 1 => g == 3 || g == 4
  | 2 => g == 5
  | _ => false

/-- Whether Table 4.3 requires an explicit scale plane above `f`. -/
def needsScalePlane (f : Nat) : Bool := f == 9 || f == 8

/-- The place of zero in the ascending list V of a format's finite values (R87): its largest magnitude code. -/
def zeroPlace (f : Nat) : Int := if f = 5 then 127 else (maxCode f : Int)

/-- One wider element: the nearest value to b / S moved by the residual (R87). A non-finite b or S gives element 0. -/
def widerElem (b s : Num) (r : Int) (f : Nat) : Nat :=
  match b, s with
  | .fin nb mb eb, .fin _ _ es =>
    let i := encSigned f (.fin nb mb (eb - es)) + zeroPlace f + r
    let top := 2 * zeroPlace f
    let j := if i < 0 then 0 else if top < i then top else i
    codeOfSigned f (j - zeroPlace f)
  | _, _ => 0

/-- Whether a value is finite. -/
def Num.isFin : Num → Bool
  | .fin _ _ _ => true
  | _ => false

/-- Residual width in bits of an RW code (Table 4.2). -/
def residBits (rw : Nat) : Nat := rw % 4 + 2

/-- Bytes of a topsail record's residual plane over `k` K positions, of its scale plane, and of the record on its 64-byte grid (R86). -/
def residBytes (k rw : Nat) : Nat := 64 * k * residBits rw / 8

def recordBytes (k rw : Nat) (scl : Bool) : Nat :=
  let n := residBytes k rw + (if scl then 64 * (k / 32) else 0)
  64 * ceilDiv n 64

/-- The wider tile over 64 K positions of the tile below it: every element by R87, packed by R61. The tile below is read from
its K position `kt` up; `resid` is the topsail record as a number, which covers `k` K positions and is read from position `kr` up. -/
def widerTile (bf : Nat) (t : TileBits) (kt k kr : Nat) (resid : Nat) (rw : Nat) (scl : Bool) (f : Nat) : TileBits :=
  let w := residBits rw
  let resOf := fun n i => signedOf w ((resid >>> (n * k * w + w * (kr + i))) % 2 ^ w)
  let sclOf := fun n b =>
    if scl then (resid >>> (residBytes k rw * 8 + (n * (k / 32) + kr / 32 + b) * 8)) % 256
    else tileScale bf t n ((kt + 32 * b) / blockLen bf) % 256
  let bad := fun n b => !((decE8M0 (sclOf n b)).isFin) ||
    (List.range 32).any (fun i => !((tileWeight bf t n (kt + 32 * b + i)).isFin))
  let elems := (List.range 64).foldl (fun acc n => (List.range 64).foldl (fun acc i =>
    let c := widerElem (tileWeight bf t n (kt + i)) (decE8M0 (sclOf n (i / 32))) (resOf n i) f
    acc + c <<< (n * colBytes f * 8 + elemBits f * i)) acc) 0
  let scales := (List.range 64).foldl (fun acc n => (List.range 2).foldl (fun acc b =>
    acc + (if bad n b then 255 else sclOf n b) <<< (planeBytes f * 8 + (n * 2 + b) * 8)) acc) 0
  BitVec.ofNat 33792 (elems + scales)

/-! ### Distance and compare modes -/

/-- A sum held within the 32-bit bounds, and whether it was cut (R34). -/
def satDist (i : Int) : BitVec 32 × Bool :=
  if 2147483647 < i then (0x7FFFFFFF#32, true)
  else if i < -2147483648 then (0x80000000#32, true)
  else (BitVec.ofNat 32 (wrapInt 32 i), false)

/-- The dot product or squared distance of two vectors of 64 signed bytes (R34). -/
def distance (sq : Bool) (q r : List Int) : Int :=
  (List.zipWith (fun a b => if sq then (a - b) * (a - b) else a * b) q r).foldl (· + ·) 0

/-- The rank of key i among the keys (R35). -/
def rankOf (keys : List (BitVec 32)) (i : Nat) : Nat :=
  let k := keys.getD i 0#32
  ((List.range keys.length).zip keys).foldl (fun n p => if k.toNat < p.2.toNat ∨ (p.2 = k ∧ p.1 < i) then n + 1 else n) 0

end Sys2Proof.Machine
end

