-- ==== Sys2Proof/Machine/Memory.lean ====
section
/-! DEFINITION. Byte memories in one canonical form: addresses strictly rising, and no entry equal to what an unlisted address reads as. -/

namespace Sys2Proof.Machine

/-- A byte memory: a scratchpad, a mast, a bundle store, a ring store, host-side images. -/
abbrev Memory := List Host.Cell

/-- What an address that nothing has written reads as. DESIGN CHOICE: notes/assumptions/1.md. -/
def Memory.blank : Byte := 0#8

/-- The byte at `a`. -/
def Memory.read (m : Memory) (a : Nat) : Byte :=
  match m with
  | [] => Memory.blank
  | (a', b) :: r => if a' = a then b else Memory.read r a

/-- The memory with byte `b` at `a`, in canonical form again. -/
def Memory.write (m : Memory) (a : Nat) (b : Byte) : Memory :=
  match m with
  | [] => if b = Memory.blank then [] else [(a, b)]
  | (a', b') :: r =>
    if a < a' then (if b = Memory.blank then (a', b') :: r else (a, b) :: (a', b') :: r)
    else if a = a' then (if b = Memory.blank then r else (a, b) :: r)
    else (a', b') :: Memory.write r a b

/-- The list's addresses all lie at or above `lo`, rise strictly, and hold no blank byte. -/
def Memory.wfFrom : Nat → Memory → Bool
  | _, [] => true
  | lo, (a, b) :: r => decide (lo ≤ a) && !(b == Memory.blank) && Memory.wfFrom (a + 1) r

/-- The canonical form. -/
def Memory.wf (m : Memory) : Bool := Memory.wfFrom 0 m

/-- `n` bytes from `a` up as a number, least significant byte first (00 R4). -/
def Memory.readN (m : Memory) (a : Nat) : Nat → Nat
  | 0 => 0
  | n + 1 => (Memory.read m a).toNat + 256 * Memory.readN m (a + 1) n

/-- The memory with the `n` low bytes of `v` at `a` up, least significant byte first. -/
def Memory.writeN (m : Memory) (a : Nat) (v : Nat) : Nat → Memory
  | 0 => m
  | n + 1 => Memory.writeN (Memory.write m a (BitVec.ofNat 8 v)) (a + 1) (v / 256) n

/-- The memory with the `n` bytes from `a` up blank. -/
def Memory.clear (m : Memory) (a n : Nat) : Memory := m.filter (fun c => !(decide (a ≤ c.1) && decide (c.1 < a + n)))

/-- The 64-byte slot at byte address `a`. -/
def Memory.slotAt (m : Memory) (a : Nat) : Slot := BitVec.ofNat 512 (Memory.readN m a 64)

/-- The 128-byte wide row at byte address `a`. -/
def Memory.rowAt (m : Memory) (a : Nat) : Row := BitVec.ofNat 1024 (Memory.readN m a 128)

end Sys2Proof.Machine
end

