-- ==== Sys2Proof/Machine/StateCore.lean ====
section
/-! DEFINITION. The state of a core: contexts, sails, scratchpad and telltales, mast, router (02 to 09, 13). -/

namespace Sys2Proof.Machine

/-- A log of records shown through LO, HI and AUX registers (R152, R177 and their like). -/
structure ELog where
  recs : List (Word × Word × Word) := []
  lost : Nat := 0
  deriving DecidableEq, Repr

/-- The fill state of a slot (Table 5.4). -/
inductive TState where
  | empty
  | full
  | held
  | poison
  deriving DecidableEq, Repr

/-- A slot's telltale: fill state and sequence tag (R107). At reset EMPTY, tag 0x00. -/
structure Tell where
  st : TState := .empty
  tag : Byte := 0#8
  deriving DecidableEq, Repr

/-- A scalar register with its poison marker (R39, R115). -/
structure SReg where
  val : Dword := 0#64
  poison : Bool := false
  deriving DecidableEq, Repr

/-- A vector register with its poison marker (R39, R115). -/
structure VReg where
  val : VWord := 0#2048
  poison : Bool := false
  deriving DecidableEq, Repr

/-- A running LOOP: the body's first and last bundle and the passes left after this one (R204). -/
structure LoopRec where
  first : BitVec 13
  last : BitVec 13
  left : Nat
  deriving DecidableEq, Repr

/-- A task context (R39). `bun` is the fc in which the bundle at the program counter has issued, once one of its slots has; `dead` marks a bundle that the tracker
turned away (R45, R181). -/
structure Ctx where
  loaded : Bool := false
  pc : BitVec 13 := 0#13
  entryN : BitVec 13 := 0#13
  entryH : BitVec 13 := 0#13
  s : Vector SReg 32 := Vector.replicate 32 {}
  v : Vector VReg 32 := Vector.replicate 32 {}
  oldS : AMap SReg := []
  oldV : AMap VReg := []
  busyS : AMap Nat := []
  busyV : AMap Nat := []
  tbase : Nat := 0
  tcnt : Nat := 0
  quota : Nat := 0
  seq : Byte := 1#8
  distSat : Bool := false
  ready : Nat := 0
  loops : List LoopRec := []
  ended : Bool := false
  lsel : Nat := 0
  bun : Option Nat := none
  dead : Bool := false
  deriving DecidableEq, Repr

/-- The operations of Table 2.7. -/
inductive TrackKind where
  | mastRead
  | mastWrite
  | meshSend
  | tileLoad
  | outTile
  | longVec
  | kvAppend
  | merged
  | dispatch
  deriving DecidableEq, Repr

/-- One entry of the operation tracker: what is left before release, or the cycle at which it releases itself (R44). -/
structure Track where
  id : Nat
  ctx : Nat
  kind : TrackKind
  left : Nat := 1
  due : Option Nat := none
  deriving DecidableEq, Repr

/-- A tile held in a sail's cells: KIND 0 weights, 1 distance, 2 keys (R188); `src` is the byte of scratchpad from which it was loaded. -/
structure Tile where
  kind : Nat := 0
  fmt : Nat := 1
  data : TileBits := 0#33792
  src : Nat := 0
  poison : Bool := false
  deriving DecidableEq, Repr

/-- A weight tile of a tensor that the step has used, known by where it was loaded from and what it holds; they stand in the order of their first use (R86). -/
structure TsTile where
  key : Nat
  src : Nat
  data : TileBits
  deriving DecidableEq, Repr

/-- One weight-tile operation of an open output tile, kept for the sidecar adds and the repeat (R75, R89). -/
structure OpRec where
  fmt : Nat
  tileSrc : Nat
  asrc : Nat
  stride : Nat
  kBase : Nat
  desc : Bool
  idx : Nat
  deriving DecidableEq, Repr

/-- A row in a sail's drain stage (R195); `dst` is the physical handle and the byte address of its destination, unless that broke a bound (R115). -/
structure DrainRow where
  row : Nat
  ctx : Nat
  dst : Option (Nat × Nat)
  tag : Byte
  hold : Bool
  ofmt : Nat
  val : VWord
  poison : Bool
  entries : Nat
  deriving DecidableEq, Repr

/-- An open output tile of a sail (R28, R190). `key` is the place of its watch entry, which names its tensor; `scBuf` is the sidecar buffer's physical handle and byte address, unless its handle broke a bound (R74, R104). -/
structure OutTile where
  ctx : Nat
  rows : Nat
  acc0 : Nat
  watch : BitVec 256
  key : Nat := 0
  qd : BitVec 128
  ops : List OpRec := []
  last : Bool := false
  caps : AMap Nat := []
  sides : AMap (List (Nat × BitVec 16)) := []
  ovf : List Nat := []
  done : List Nat := []
  trk : Nat := 0
  fence : Option (Nat × Nat) := none
  scBuf : Option (Nat × Nat) := none
  scTag : Byte := 0#8
  init : AMap VReg := []
  deriving DecidableEq, Repr

/-- A row waiting for, or inside, an escalation: the rung it has reached and the rung it is bound for (R85, R94). -/
structure EscRow where
  row : Nat
  reached : Nat
  target : Nat
  deriving DecidableEq, Repr

/-- The escalation sequencer's phase on a sail (R91). -/
inductive EscPhase where
  | idle
  | armed
  | saving
  | passing
  | restoring
  deriving DecidableEq, Repr

/-- A sail (R23 to R35). `loads` are the tracker entries of the tile loads under way, in order; `hand` a hand-over issued, as the receiving context and the fc from
which it counts; `opEnd` the fc in which the last weight-tile operation completes, and `opWait` that it waits for its tile (R40); `dist` the rows that SDIST accumulates. -/
structure Sail where
  owner : Nat := 0
  active : Option Tile := none
  shadow : Option Tile := none
  loads : List Nat := []
  hand : Option (Nat × Nat) := none
  opEnd : Nat := 0
  opWait : Bool := false
  acc : AMap VReg := []
  tile : Option OutTile := none
  distOpen : Bool := false
  dist : List Nat := []
  stage : List DrainRow := []
  esc : List EscRow := []
  phase : EscPhase := .idle
  deriving DecidableEq, Repr

/-- What an access does to one slot when it reaches the bank: a write, or the read of a copy, whose write follows (R102, R109). -/
inductive SlotWork where
  | write (slot ph : Nat) (tag : Byte) (hold : Bool) (data : Slot) (poison : Bool)
  | copy (src sph : Nat) (stag : Byte) (take : Bool) (no dst dph : Nat) (dtag : Byte) (hold : Bool)
  deriving DecidableEq, Repr

/-- An access to one slot on its way to the bank. It was made in fc `at'`, so it reaches its bank in fc at' + L - 1 and counts for every access made later (R99).
`no` numbers the operand access it belongs to; the first violation of an access is recorded, and number 0 raises none. `ord` is its place in the order of the port (Table 5.2). -/
structure SlotAcc where
  at' : Nat
  ord : Nat
  ctx : Nat
  no : Nat
  work : SlotWork
  deriving DecidableEq, Repr

/-- A wide row of a mast read on its way to its slot pair (R125, R126); `want` is the cycle at which the schedule uses the read's data (R118). -/
structure Landing where
  trk : Nat
  ctx : Nat
  handle : Nat
  addr : Nat
  tag : Byte
  hold : Bool
  due : Nat
  want : Nat
  data : Row
  poison : Bool
  row : Nat
  rid : Nat
  deriving DecidableEq, Repr

/-- A KV append whose records, each with its poison marker, wait for the tier logic's placement (R307, R316). -/
structure Append where
  trk : Nat
  space : Nat
  pma : Nat
  recs : List Nat
  rs : Nat
  poison : List Bool
  due : Nat
  deriving DecidableEq, Repr

/-- A TLB entry (R144). -/
structure TlbEnt where
  wr : Bool
  rid : Nat
  vpn : Nat
  deriving DecidableEq, Repr

/-- A table command's effect on the TLB, held until the next step boundary (R145). -/
inductive TlbHeld where
  | install (g : Nat) (e : TlbEnt)
  | remove (g : Nat)
  | reload
  deriving DecidableEq, Repr

/-- One DRAM tier of a mast (R131, R415). -/
structure Tier where
  debt : Nat := 0
  temp : Int := 0
  failed : Bool := false
  deriving DecidableEq, Repr

/-- What waits at a mast interface for a service window (R139, R140, R145, R308, R327, R328): an access from outside the core, a command of the field controller, the read of
an entry's page that is being parked, the write of one that is being unparked. `found` are the errors, true for uncorrectable, that the mast finds in the rows read. -/
inductive Outside where
  | access (write : Bool) (part : Nat) (mark : Bool) (addr : Nat) (data : Row) (found : List (Nat × Bool))
  | map (rid vpn gran : Nat) (wr : Bool) (found : List (Nat × Bool))
  | unmap (rid vpn : Nat) (found : List (Nat × Bool))
  | release (rid : Nat) (found : List (Nat × Bool))
  | park (entry gen gran : Nat)
  | place (entry vpn gran : Nat) (data : Memory)
  | rebuild
  | init (rid vpn gran : Nat)
  deriving DecidableEq, Repr

/-- What a mast interface answers: a row to a read, with its poison marker, or poison to a refused one; or the result of a command (R140, Table 6.5). -/
inductive MastAnswer where
  | row (refused poison : Bool) (data : Row)
  | result (code : Nat)
  deriving DecidableEq, Repr

/-- A mast: its contents, marks, tables and counts (R122 to R152). `svcRows` are the rows that the open service window can still carry, `svcDone` those of the first
thing in the queue that have been; `plan` is the path's last cycle as the schedule budgets it (R118); `gapTiers` the tiers that may still refresh between two escalation passes (R136). -/
structure Mast where
  data : Memory := []
  poison : List Nat := []
  bad : List Nat := []
  ueRows : List Nat := []
  reread : List Nat := []
  writeBack : List Nat := []
  tiers : Vector Tier 4 := Vector.replicate 4 {}
  ce : Nat := 0
  ue : Nat := 0
  failed : Bool := false
  holds : Bool := false
  debtHwm : Nat := 0
  pool : Nat := 0
  pageBase : Nat := 0
  tierMax : Nat := 0
  svcLen : Nat := 0
  poolFree : List Nat := []
  tabs : List Nat := []
  tlb : AMap TlbEnt := []
  held : List TlbHeld := []
  outside : List Outside := []
  answered : List MastAnswer := []
  path : Nat := 0
  plan : Nat := 0
  refEnd : Nat := 0
  svcEnd : Nat := 0
  svcRows : Nat := 0
  svcDone : Nat := 0
  gapTiers : List Nat := []
  deriving DecidableEq, Repr

/-- A reduction operand or partial result held at a node, and the cycle in which it was due (R164, R170). -/
structure RedPart where
  tree : Nat
  fidx : Nat
  tag : Nat
  place : Nat
  data : Slot
  poison : Bool
  due : Nat := 0
  deriving DecidableEq, Repr

/-- An addition in progress at a node: how many inputs its sum already holds (R170). -/
structure RedSum where
  tree : Nat
  fidx : Nat
  tag : Nat
  upto : Nat
  data : Slot
  poison : Bool
  due : Nat := 0
  deriving DecidableEq, Repr

/-- The root's write target as its own RSEND named it (R170). -/
structure RedRoot where
  tree : Nat
  fidx : Nat
  n : Nat
  tag : Nat
  ctx : Nat
  handle : Nat
  ofs : Nat
  hold : Bool
  tagByte : Byte
  deriving DecidableEq, Repr

/-- One requester attached to a merge entry, the cycle in which its response is due, and whether a seam spoiled its request (R164, R165, R173). -/
structure MergeReq where
  core : Nat
  ctx : Nat
  handle : Nat
  ofs : Nat
  tag : Byte
  hold : Bool
  trk : Nat
  due : Nat := 0
  poison : Bool := false
  deriving DecidableEq, Repr

/-- A merge entry at a holder's router (R173). -/
structure MergeEnt where
  group : Nat
  tag : Byte
  handle : Nat
  ofs : Nat
  ctx : Nat
  run : Nat
  want : Nat
  reqs : List MergeReq
  deriving DecidableEq, Repr

/-- A router (R153, R169 to R176). -/
structure Router where
  red : AMap (BitVec 32) := []
  parts : List RedPart := []
  sums : List RedSum := []
  roots : List RedRoot := []
  bad : List (Nat × Nat × Nat) := []
  merges : List MergeEnt := []
  closed : List (Nat × Byte) := []
  waiting : List MergeEnt := []
  hop : List (List Nat) := []
  mergeMiss : Nat := 0
  redHwm : Nat := 0
  mergeFull : Nat := 0
  deriving DecidableEq, Repr

/-- Fill, copy or idle: the engine of R102. -/
inductive EngineOp where
  | fill
  | copy
  deriving DecidableEq, Repr

/-- What a core knows of one expert table in this step (R232). -/
structure XTable where
  xtab : Nat
  ctx : Nat
  rows : Nat := 0
  sent : AMap Nat := []
  listed : List (BitVec 32) := []
  rowNos : List Nat := []
  deriving DecidableEq, Repr

/-- The first violation and the count (R121); `step` and `at'` say when it was raised. -/
structure ViolRec where
  valid : Bool := false
  kind : Nat := 0
  ctx : Nat := 0
  handle : Nat := 0
  slot : Nat := 0
  expTag : Byte := 0#8
  foundTag : Byte := 0#8
  foundSt : Nat := 0
  mode : Nat := 0
  count : Nat := 0
  step : Nat := 0
  at' : Nat := 0
  deriving DecidableEq, Repr

/-- The first illegal instruction (R212). -/
structure IllRec where
  valid : Bool := false
  opcode : Nat := 0
  slot : Nat := 0
  ctx : Nat := 0
  cause : Nat := 0
  pc : BitVec 13 := 0#13
  deriving DecidableEq, Repr

/-- Sail masks, furl and status of a core (R47 to R52). `powered` are the physical sails that the regulator does not gate. -/
structure CoreStat where
  sailOk : BitVec 4 := 0#4
  sailMap : BitVec 8 := 0#8
  sailCnt : Nat := 0
  field3s : Bool := false
  furled : Bool := false
  furlCause : Nat := 0
  sailChk : Nat := 0
  trkHwm : Nat := 0
  vwait : Nat := 0
  escPass : Nat := 0
  escUnres : Nat := 0
  escBlock : Nat := 0
  halfRate : Bool := false
  checkBad : List Nat := []
  powered : BitVec 4 := 0#4
  deriving DecidableEq, Repr

/-- A KV geometry record with the MODEL and LAYER of its section (R304). -/
structure Geo where
  model : Nat := 0
  layer : Nat := 0
  raw : BitVec 512 := 0#512
  deriving DecidableEq, Repr

/-- What the sequencer saves before an overflow pass: TC0's registers, the sails, the vector pattern (R234); with the vector unit's next fc and the tracker's next number. -/
structure SavedState where
  tc0 : Ctx
  sails : Vector Sail 4
  pattern : Vector Nat 16
  vecNext : Nat := 0
  nextTrk : Nat := 0
  deriving DecidableEq, Repr

/-- A physical core (R23). `late` are the slot accesses that have not reached their banks, by fc; `accNo` the next access number, `quiet` the accesses whose violation
has been recorded; `seen` is the fc that the core's accesses have reached, `taken` the telltales, as the fc found them, of the slots that it has emptied (R110); `patOld` is the vector pattern before fc `patFrom`, from which on `pattern` is in effect (R206); `vecNext` the first fc in which the vector unit takes its next operation (R36). -/
structure Core where
  pad : Memory := []
  tells : AMap Tell := []
  bundles : Memory := []
  handles : Vector Word 32 := Vector.replicate 32 0#32
  ctx : Vector Ctx 4 := Vector.replicate 4 {}
  sails : Vector Sail 4 := Vector.replicate 4 {}
  pattern : Vector Nat 16 := Vector.replicate 16 4
  staged : Option (Vector Nat 16) := none
  patFrom : Nat := 0
  patOld : Vector Nat 16 := Vector.replicate 16 4
  tracks : List Track := []
  nextTrk : Nat := 0
  engine : Option EngineOp := none
  late : List SlotAcc := []
  accNo : Nat := 1
  quiet : List Nat := []
  seen : Nat := 0
  taken : AMap Tell := []
  vecNext : Nat := 0
  lands : List Landing := []
  appends : List Append := []
  mast : Mast := {}
  router : Router := {}
  decl : AMap Nat := []
  phase : Nat := 0
  winMax : Nat := 0
  shunt : Nat := 0
  xtabs : AMap XTable := []
  tsTiles : List TsTile := []
  masks : AMap (AMap Nat) := []
  geos : AMap Geo := []
  samp : Option (BitVec 512) := none
  saved : Option SavedState := none
  viol : ViolRec := {}
  ill : IllRec := {}
  stat : CoreStat := {}
  deriving DecidableEq, Repr

end Sys2Proof.Machine
end

