-- ==== Sys2Proof/Machine/StateFabric.lean ====
section
/-! DEFINITION. The state between the cores: fields, seams, flits in flight, and a partition's lashed group (07, 09). -/

namespace Sys2Proof.Machine

/-- The mesh mode of a field (Table 7.7). -/
inductive MeshMode where
  | normal
  | draining
  | fixedHop
  | dark
  deriving DecidableEq, Repr

/-- Where an overflow pass stands (R234). -/
inductive OvfPhase where
  | armed
  | sending
  | routine
  deriving DecidableEq, Repr

/-- An overflow pass being served on a field (R233, R234): the dispatching cores' tables (core, context, table), their phase index, the routine, and the passes left (expert, pass number). -/
structure OvfRun where
  pidx : Nat := 0
  tables : List (Nat × Nat × Nat)
  entry : Nat
  queue : List (Nat × Nat)
  phase : OvfPhase
  deriving DecidableEq, Repr

/-- A field: its mesh mode, owner, hop counter, row masks and column maps (R10 to R12, R94, R174 to R176, R219, R391). -/
structure FieldSt where
  mode : MeshMode := .dark
  part : Nat := 0
  owned : Bool := false
  hopPeriod : Nat := 0
  hopOrigin : Option Nat := none
  drained : Bool := false
  collCnt : Nat := 0
  escMask : AMap (AMap Nat) := []
  furlRow : AMap Nat := []
  spareLost : List Nat := []
  factRow : AMap Nat := []
  factSails : AMap Nat := []
  limited3 : Bool := false
  ovf : Option OvfRun := none
  deriving DecidableEq, Repr

/-- A link of a seam (R165, R166). -/
structure SeamLink where
  up : Bool := false
  pend : Bool := false
  spares : Nat := 0
  failed : Bool := false
  deriving DecidableEq, Repr

/-- A seam or a row of rim links (R176). -/
structure Seam where
  links : AMap SeamLink := []
  ceSym : Nat := 0
  ueCnt : Nat := 0
  retrains : Nat := 0
  gap : Bool := false
  deriving DecidableEq, Repr

/-- A data flit on its way (R156, R162). A pad flit, which its receiver's router expands into `pad` slots of zeros and the origin slot at byte offset `org`, has `pad` above 0
(R232). -/
structure Flit where
  src : Nat
  trk : Nat
  part : Nat
  dst : Nat
  ctx : Nat
  handle : Nat
  ofs : Nat
  tag : Byte
  hold : Bool
  data : Slot
  poison : Bool
  due : Nat
  vc : Nat
  sheet : Option (Nat × Nat) := none
  merged : Bool := false
  pad : Nat := 0
  org : Nat := 0
  deriving DecidableEq, Repr

/-- A reduction flit on its way to its node (R170); `node` marks the output of a node, sent by the router of core `src`, which holds no tracker entry; `due` is its due cycle (R164). -/
structure RedFlit where
  src : Nat
  trk : Nat
  part : Nat
  dst : Nat
  tree : Nat
  fidx : Nat
  tag : Nat
  place : Nat
  data : Slot
  poison : Bool
  due : Nat := 0
  node : Bool := false
  deriving DecidableEq, Repr

/-- A merged-read request on its way to its holder (R173). -/
structure MergeMsg where
  holder : Nat
  part : Nat
  group : Nat
  tag : Byte
  handle : Nat
  ofs : Nat
  sctx : Nat
  run : Nat
  want : Nat
  req : MergeReq
  deriving DecidableEq, Repr

/-- A VC0 message on its way to a core (R161, R168, R335). -/
structure Vc0Msg where
  part : Nat
  dst : Nat
  ctx : Nat
  handle : Nat
  ofs : Nat
  data : Slot
  deriving DecidableEq, Repr

/-- The fabric: what is in flight, the seams and the FAB_ block, with VC_HWM by router (R157, R176, R177). -/
structure Fabric where
  fields : AMap FieldSt := []
  seams : AMap Seam := []
  flits : List Flit := []
  reds : List RedFlit := []
  merges : List MergeMsg := []
  vc0 : List Vc0Msg := []
  retrainThr : Nat := 0x40
  lock : Bool := false
  ueTotal : Nat := 0
  isoTotal : Nat := 0
  vcHwm : AMap Nat := []
  log : ELog := {}
  deriving DecidableEq, Repr

/-- Where a luff item comes from (Table 8.17, R166, R361, R362): each corrected row of a mast by its due cycle, each late read by its tracker entry. -/
inductive LuffSrc where
  | corrected (core row due : Nat)
  | escalation (core sail : Nat)
  | late (core trk : Nat)
  | arrival (core trk : Nat)
  | node (router tree tag : Nat)
  | overflow (field : Nat)
  | retrain (seam link : Nat)
  | sheetWait (entry : Nat)
  | gateWait
  deriving DecidableEq, Repr

/-- A luff item: its stall cycle, whether it has begun and ended, and whether it stalls the boundary interval (R225, R226). -/
structure LuffItem where
  src : LuffSrc
  u : Nat
  begun : Bool := false
  ended : Bool := false
  boundary : Bool := false
  deriving DecidableEq, Repr

/-- A fault of the step under way: its code and whether it is of the step, image-related class (R437). -/
structure StepFault where
  code : Nat
  at' : Nat
  deriving DecidableEq, Repr

/-- Escalation quantities of one relative slot in the step under way (R96). -/
structure EscCount where
  passes : Nat := 0
  unres : Nat := 0
  blocked : Nat := 0
  top : Nat := 0
  deriving DecidableEq, Repr

/-- A lashed group: schedule cycle count, step count, luff line, step-fail line and quarantine (R115 to R119, R221 to R230). -/
structure Group where
  cyc : Nat := 0
  step : Nat := 0
  t0 : Nat := 0
  stepping : Bool := false
  inStep : Bool := false
  startReady : Bool := false
  items : List LuffItem := []
  stalled : Option Nat := none
  closed : Bool := false
  faults : List StepFault := []
  carry : List StepFault := []
  gate : Option Nat := none
  guarded : Bool := false
  window : Nat := 0
  quarNext : Bool := false
  quarantined : Bool := false
  held : Bool := false
  esc : AMap EscCount := []
  deriving DecidableEq, Repr

end Sys2Proof.Machine
end

