-- ==== Sys2Proof/Machine/Operands.lean ====
section
/-! DEFINITION. The operand forms of the instruction set: scratchpad operands, telltale accesses, registers, mast addresses (05, 06 R123, 08 R184 to R186). -/

namespace Sys2Proof.Machine

/-! ### Scratchpad operands (R184) -/

/-- A scratchpad operand, its fields apart (Table 8.2). -/
structure Spo where
  handle : Nat
  ofs : Nat
  tag : Nat
  mode : Nat
  deriving DecidableEq, Repr

/-- The operand at bit `lo` of a slot word. -/
def spoAt {n : Nat} (w : BitVec n) (lo : Nat) : Spo :=
  ⟨bitsN w lo 5, bitsN w (lo + 5) 14, bitsN w (lo + 19) 2, bitsN w (lo + 21) 3⟩

/-- Byte offset of an operand within its block. -/
def Spo.byte (o : Spo) : Nat := 16 * o.ofs

/-- PEEK or TAKE; FILL or HOLD; RELEASE (Table 8.3). -/
def Spo.reads (o : Spo) : Bool := o.mode == 0 || o.mode == 1

def Spo.writes (o : Spo) : Bool := o.mode == 2 || o.mode == 3

def Spo.take (o : Spo) : Bool := o.mode == 1

def Spo.hold (o : Spo) : Bool := o.mode == 3

/-- The tag a selection names for a sequence counter (Table 5.5). -/
def tagOf (seq : Byte) (sel : Nat) : Byte :=
  match sel with
  | 0 => seq
  | 1 => if seq = 0xFF#8 then 1#8 else seq + 1#8
  | 2 => if seq = 1#8 then 0xFF#8 else seq - 1#8
  | _ => 0#8

/-- SEQ advanced: after 0xFF comes 0x01 (R108). -/
def seqNext (seq : Byte) : Byte := if seq = 0xFF#8 then 1#8 else seq + 1#8

/-! ### Violations of Table 5.7 -/

/-- What the record of R121 keeps of one violation. -/
structure Viol where
  kind : Nat
  handle : Nat := 0
  slot : Nat := 0
  expTag : Byte := 0#8
  foundTag : Byte := 0#8
  foundSt : Nat := 0
  mode : Nat := 0
  deriving DecidableEq, Repr

/-- The code of a fill state (Table 5.4). -/
def TState.code : TState → Nat
  | .empty => 0
  | .full => 1
  | .held => 2
  | .poison => 3

/-! ### Blocks (R103, R104) -/

/-- First byte of a bank-relative slot: BANK and BASE of a handle entry. -/
def handleSlot (e : Word) : Nat := bitsN e 0 4 * 3072 + bitsN e 4 12

/-- A handle is valid when LEN is not 0 and BASE + LEN is at most 3,072. -/
def handleValid (e : Word) : Bool := bitsN e 16 12 != 0 && decide (bitsN e 4 12 + bitsN e 16 12 ≤ 3072)

/-- The entry at a physical handle. -/
def Core.handleAt (c : Core) (ph : Nat) : Word := c.handles.toList.getD ph 0#32

/-- A task context of a core. -/
def Core.tc (c : Core) (i : Nat) : Ctx := c.ctx.toList.getD i {}

/-- The core with a task context replaced. -/
def Core.setTc (c : Core) (i : Nat) (x : Ctx) : Core := if h : i < 4 then { c with ctx := c.ctx.set i x h } else c

/-- A virtual sail of a core. -/
def Core.sail (c : Core) (i : Nat) : Sail := c.sails.toList.getD i {}

/-- The core with a virtual sail replaced. -/
def Core.setSail (c : Core) (i : Nat) (x : Sail) : Core := if h : i < 4 then { c with sails := c.sails.set i x h } else c

/-- Bank latency of a byte address (Table 5.1). -/
def bankLat (a : Nat) : Nat := let b := a / 0x30000; if b < 4 then 2 else if b < 12 then 3 else 5

/-- An access resolved: the physical handle and the byte address, or the BOUND violation of R104. No slot is looked at, so FOUND_TAG and FOUND_STATE of the
violation are 0; SLOT is the first slot of the access, mod 65,536, and HANDLE its block; a RELEASE, for which Table 5.9 has no code, gives MODE 0b00, its low two bits. DESIGN CHOICE: notes/assumptions/78.md. -/
def Core.resolve (c : Core) (ctx : Nat) (h byte len : Nat) (write : Bool) (mode : Nat) : Except Viol (Nat × Nat) :=
  let x := c.tc ctx
  let ph := (x.tbase + h) % 32
  let e := c.handleAt ph
  let slot := handleSlot e + byte / 64
  if h < x.tcnt ∧ handleValid e = true ∧ byte + len ≤ bitsN e 16 12 * 64 ∧ !(write && bitAt e 28) then
    .ok (ph, handleSlot e * 64 + byte)
  else .error { kind := 4, handle := ph, slot := slot % 65536, mode := mode % 4 }

/-- A violation with the tag that its access expects. -/
def Viol.tagged (v : Viol) (x : Byte) : Viol := { v with expTag := x }

/-! ### Telltale accesses (Table 5.6) -/

/-- A slot's telltale. -/
def Core.tell (c : Core) (slot : Nat) : Tell := AMap.at c.tells {} slot

/-- The core with a slot's telltale replaced. -/
def Core.setTell (c : Core) (slot : Nat) (t : Tell) : Core := { c with tells := AMap.put c.tells slot t }

/-- The telltale of a slot as the reads of the fc see it: the state held at the start of the fc, whatever they have emptied since (R110). -/
def Core.seenTell (c : Core) (slot : Nat) : Tell := AMap.at c.taken (c.tell slot) slot

/-- A slot emptied in this fc, by a TAKE or a RELEASE; the other reads of the fc still see it as it was. -/
def Core.emptySlot (c : Core) (slot : Nat) : Core :=
  if (AMap.find c.taken slot).isSome then c
  else { c.setTell slot { c.tell slot with st := .empty } with taken := AMap.put c.taken slot (c.tell slot) }

/-- A read of one slot: the core after it, whether the data is poison, and the violation it raised. -/
def Core.readSlot (c : Core) (ph slot : Nat) (x : Byte) (take : Bool) : Core × Bool × Option Viol :=
  let t := c.seenTell slot
  let v : Viol := { kind := 1, handle := ph, slot := slot, expTag := x, foundTag := t.tag, foundSt := t.st.code, mode := b2n take }
  match t.st with
  | .empty => (c, true, some v)
  | st =>
    if t.tag ≠ x then (c, true, some { v with kind := 2 })
    else match st with
      | .full => (if take then c.emptySlot slot else c, false, none)
      | .held => (c, false, none)
      | _ => (if take then c.emptySlot slot else c, true, none)

/-- Whether a slot stands under some sail's retire fence (R112). -/
def Core.fenced (c : Core) (slot : Nat) : Bool :=
  c.sails.toList.any (fun s => match s.tile with
    | some t => (match t.fence with | some (lo, hi) => decide (lo ≤ slot) && decide (slot ≤ hi) | none => false)
    | none => false)

/-- A write of one slot with FILL or HOLD. -/
def Core.writeSlot (c : Core) (ph slot : Nat) (x : Byte) (hold : Bool) (d : Slot) (poison : Bool) : Core × Option Viol :=
  let t := c.tell slot
  if t.st ≠ .empty ∨ c.fenced slot = true then
    (c, some { kind := 3, handle := ph, slot := slot, expTag := x, foundTag := t.tag, foundSt := t.st.code, mode := if hold then 3 else 2 })
  else
    let c1 := { c with pad := Memory.writeN c.pad (64 * slot) d.toNat 64 }
    (c1.setTell slot ⟨if poison then .poison else if hold then .held else .full, x⟩, none)

/-- The outcome of a read: the core after it, the bytes as a number, the poison marker and the first violation. -/
structure ReadOut where
  core : Core
  data : Nat
  poison : Bool
  viol : Option Viol
  deriving DecidableEq, Repr

/-- Slots read one after another; the bytes of a poisoned slot read as 0xFF. -/
def readSlots (ph : Nat) (x : Byte) (take : Bool) : Nat → Nat → ReadOut → ReadOut
  | 0, _, r => r
  | n + 1, slot, r =>
    let (c', p, v) := r.core.readSlot ph slot x take
    readSlots ph x take n (slot + 1)
      ⟨c', r.data, r.poison || p, match r.viol with | some u => some u | none => v⟩

/-- The bytes of `len` from address `a`, each slot in `bad` reading as all ones. -/
def maskedBytes (m : Memory) (bad : Nat → Bool) (a : Nat) : Nat → Nat
  | 0 => 0
  | n + 1 => (if bad (a / 64) then 255 else (Memory.read m a).toNat) + 256 * maskedBytes m bad (a + 1) n

/-- A read of `len` bytes at byte offset `byte` of logical handle `h` of context `ctx` (R104, R109). -/
def Core.readBytes (c : Core) (ctx h byte len tag : Nat) (take : Bool) : ReadOut :=
  let x := tagOf (c.tc ctx).seq tag
  match c.resolve ctx h byte len false (b2n take) with
  | .error v => ⟨c, 2 ^ (8 * len) - 1, true, some (v.tagged x)⟩
  | .ok (ph, a) =>
    let bad := fun slot => (c.readSlot ph slot x take).2.1
    let r := readSlots ph x take ((a + len - 1) / 64 - a / 64 + 1) (a / 64) ⟨c, 0, false, none⟩
    { r with data := maskedBytes c.pad bad a len }

/-- A read through a scratchpad operand. -/
def Core.readSpo (c : Core) (ctx : Nat) (o : Spo) (len : Nat) : ReadOut := c.readBytes ctx o.handle o.byte len o.tag o.take

/-- A read of `count` items of `size` bytes that follow one another: the access is checked as a whole and raises one violation at most, and each item has its own
poison marker (R104, R115). -/
def Core.readItems (c : Core) (ctx h byte size count tag : Nat) (take : Bool) : Core × List (Nat × Bool) × Option Viol :=
  let x := tagOf (c.tc ctx).seq tag
  match c.resolve ctx h byte (size * count) false (b2n take) with
  | .error v => (c, List.replicate count (2 ^ (8 * size) - 1, true), some (v.tagged x))
  | .ok (ph, a) =>
    let bad := fun slot => (c.readSlot ph slot x take).2.1
    let item := fun i =>
      let b := a + size * i
      (maskedBytes c.pad bad b size, (List.range ((b + size - 1) / 64 - b / 64 + 1)).any (fun j => bad (b / 64 + j)))
    let r := readSlots ph x take ((a + size * count - 1) / 64 - a / 64 + 1) (a / 64) ⟨c, 0, false, none⟩
    (r.core, (List.range count).map item, r.viol)

/-- A resident structure read with PEEK and tag selection RES (R185). -/
def Core.readRes (c : Core) (ctx h byte len : Nat) : ReadOut := c.readBytes ctx h byte len 3 false

/-- Slots written one after another from a number, 64 bytes each. -/
def writeSlots (ph : Nat) (x : Byte) (hold poison : Bool) : Nat → Nat → Nat → Core × Option Viol → Core × Option Viol
  | 0, _, _, r => r
  | n + 1, slot, d, r =>
    let (c', v) := r.1.writeSlot ph slot x hold (BitVec.ofNat 512 d) poison
    writeSlots ph x hold poison n (slot + 1) (d >>> 512) (c', match r.2 with | some u => some u | none => v)

/-- A write of `n` whole slots at byte offset `byte` of logical handle `h`, with an explicit tag (R106, R109). -/
def Core.writeAt (c : Core) (ctx h byte n : Nat) (x : Byte) (hold : Bool) (d : Nat) (poison : Bool) : Core × Option Viol :=
  match c.resolve ctx h byte (64 * n) true (if hold then 3 else 2) with
  | .error v => (c, some (v.tagged x))
  | .ok (ph, a) => writeSlots ph x hold poison n (a / 64) d (c, none)

/-! ### Accesses on their way to the bank (R99, R102, R110) -/

/-- The order of accesses: by fc, in one fc reads before writes (R110), and each port's in the order of Table 5.2 (R100). -/
def SlotAcc.key (a : SlotAcc) : Nat := 16 * a.at' + (match a.work with | .write .. => 8 | .copy .. => 0) + a.ord % 8

/-- An access put behind those that reach their banks no later. -/
def insertAcc (a : SlotAcc) : List SlotAcc → List SlotAcc
  | [] => [a]
  | b :: r => if a.key < b.key then a :: b :: r else b :: insertAcc a r

/-- An access put on its way. -/
def Core.queue (c : Core) (a : SlotAcc) : Core := { c with late := insertAcc a c.late }

/-- Writes of one access to `n` slots from `slot` up, made `step` fc after one another from fc t on. -/
def queueWrites (ctx ord no ph : Nat) (x : Byte) (hold poison : Bool) (step : Nat) : Nat → Nat → Nat → Nat → Core → Core
  | 0, _, _, _, c => c
  | n + 1, slot, d, t, c => queueWrites ctx ord no ph x hold poison step n (slot + 1) (d >>> 512) (t + step)
      (c.queue ⟨t, ord, ctx, no, .write slot ph x hold (BitVec.ofNat 512 d) poison⟩)

/-- A write of `n` whole slots through a scratchpad operand, made from fc t on: resolved now, carried out when it reaches the bank (R99, R105). A silent one
raises no violation. `ord` is its place in Table 5.2. -/
def Core.writeSpo (c : Core) (ctx ord : Nat) (o : Spo) (n d : Nat) (poison silent : Bool) (step t : Nat) : Core × Option Viol :=
  let x := tagOf (c.tc ctx).seq o.tag
  match c.resolve ctx o.handle o.byte (64 * n) true o.mode with
  | .error v => (c, if silent then none else some (v.tagged x))
  | .ok (ph, a) =>
    if silent then (queueWrites ctx ord 0 ph x o.hold poison step n (a / 64) d t c, none)
    else ({ queueWrites ctx ord c.accNo ph x o.hold poison step n (a / 64) d t c with accNo := c.accNo + 1 }, none)

/-- A violation that an access raises at its bank: that of an access that has raised one already, or of number 0, is not recorded. -/
def Core.raised (c : Core) (a : SlotAcc) (slot : Nat) : Option Viol → Core × List (Nat × Viol × Nat)
  | none => (c, [])
  | some v => if a.no = 0 ∨ c.quiet.contains a.no = true then (c, [])
      else ({ c with quiet := c.quiet ++ [a.no] }, [(a.ctx, v, a.at' + bankLat (64 * slot) - 1)])

/-- An access reaches its bank (R99): the core after it, and the violation it raises with its context and fc. The read of a copy puts the write of its slot on its way,
L of the source bank later (R102). -/
def Core.act (c : Core) (a : SlotAcc) : Core × List (Nat × Viol × Nat) :=
  match a.work with
  | .write slot ph x hold d poison => let r := c.writeSlot ph slot x hold d poison; r.1.raised a slot r.2
  | .copy src sph stag take no dst dph dtag hold =>
    let r := c.readSlot sph src stag take
    let d : Slot := if r.2.1 then BitVec.allOnes 512 else Memory.slotAt c.pad (64 * src)
    let c1 := r.1.queue ⟨a.at' + bankLat (64 * src), 6, a.ctx, no, .write dst dph dtag hold d r.2.1⟩
    c1.raised a src r.2.2

/-- The core's accesses reach fc t: the telltales of an earlier fc are no longer seen (R110). -/
def Core.reach (c : Core) (t : Nat) : Core := if t ≤ c.seen then c else { c with seen := t, taken := [] }

/-- Accesses made before fc t carried out one after another, at most `n`. -/
def Core.settleGo (t : Nat) : Nat → Core × List (Nat × Viol × Nat) → Core × List (Nat × Viol × Nat)
  | 0, r => r
  | n + 1, r =>
    match r.1.late with
    | [] => r
    | a :: l =>
      if a.at' < t then
        let x := (({ r.1 with late := l } : Core).reach a.at').act a
        Core.settleGo t n (x.1, r.2 ++ x.2)
      else r

/-- Hand-overs whose fc has come (R40). -/
def Sail.handOver (y : Sail) (t : Nat) : Sail :=
  match y.hand with
  | some (i, u) => if u ≤ t ∧ y.opWait = false then { y with owner := i, hand := none } else y
  | none => y

/-- The core as an access made in fc t finds it: every slot access made earlier has reached its bank and every hand-over has taken effect; with the violations raised. -/
def Core.settled (c : Core) (t : Nat) : Core × List (Nat × Viol × Nat) :=
  let r := Core.settleGo t (2 * c.late.length) ({ c with sails := c.sails.map (fun y => y.handOver t) }, [])
  (r.1.reach t, r.2)

/-- The fc after the last access that is on its way. -/
def Core.lastAcc (c : Core) : Nat := (c.late.getLast?.map (fun a => a.at' + 1)).getD 0

/-- RELEASE of one slot: a HELD slot of the tag becomes EMPTY, anything else is unchanged (Table 5.6). -/
def Core.releaseSlot (c : Core) (slot : Nat) (x : Byte) : Core :=
  if (c.seenTell slot).st = .held ∧ (c.seenTell slot).tag = x then c.emptySlot slot else c

/-- A halyard write: HOLD with tag 0x00, without a check (R106, R111). -/
def Core.loadSlot (c : Core) (slot : Nat) (d : Slot) : Core :=
  { c with pad := Memory.writeN c.pad (64 * slot) d.toNat 64 }.setTell slot ⟨.held, 0#8⟩

/-- Slots FULL, HELD or POISON with a step tag, lowest first (R113). -/
def Core.leftovers (c : Core) : List Nat :=
  (c.tells.filter (fun p => p.2.st != .empty && p.2.tag != 0#8)).map (·.1)

/-- Every slot whose tag is not 0x00 set EMPTY, and the retire fences cleared (R117). -/
def Core.dropStepData (c : Core) : Core :=
  { c with
    tells := c.tells.map (fun p => (p.1, if p.2.tag == 0#8 then p.2 else { p.2 with st := .empty }))
    sails := c.sails.map (fun s => { s with tile := s.tile.map (fun t => { t with fence := none }) }) }

/-! ### Registers (R182): a bundle reads them as they stood at its start -/

/-- A scalar register as the bundle being issued sees it. -/
def Ctx.rdS (x : Ctx) (r : Nat) : SReg := match AMap.find x.oldS r with | some v => v | none => x.s.toList.getD r {}

/-- A vector register as the bundle being issued sees it. -/
def Ctx.rdV (x : Ctx) (r : Nat) : VReg := match AMap.find x.oldV r with | some v => v | none => x.v.toList.getD r {}

/-- A scalar register written, usable from cycle `at'`. -/
def Ctx.wrS (x : Ctx) (r : Nat) (v : SReg) (at' : Nat) : Ctx :=
  if h : r < 32 then
    { x with s := x.s.set r v h
             oldS := if (AMap.find x.oldS r).isSome then x.oldS else AMap.put x.oldS r x.s[r]
             busyS := AMap.put x.busyS r at' }
  else x

/-- A vector register written, usable from cycle `at'`. -/
def Ctx.wrV (x : Ctx) (r : Nat) (v : VReg) (at' : Nat) : Ctx :=
  if h : r < 32 then
    { x with v := x.v.set r v h
             oldV := if (AMap.find x.oldV r).isSome then x.oldV else AMap.put x.oldV r x.v[r]
             busyV := AMap.put x.busyV r at' }
  else x

/-- The bundle ends: later reads see what it wrote. -/
def Ctx.endBundle (x : Ctx) : Ctx := { x with oldS := [], oldV := [], bun := none, dead := false }

/-- Poison for a destination register: 0xFFFF in every 16-bit unit and the marker (R211). -/
def poisonS : SReg := ⟨0xFFFFFFFFFFFFFFFF#64, true⟩

def poisonV : VReg := ⟨BitVec.allOnes 2048, true⟩

/-! ### Mast addresses (Table 6.1, R124, R147) -/

/-- Where an access to the mast goes. -/
inductive MastAddr where
  | flat (pma : Nat)
  | paged (rid vpn ofs : Nat)
  | bad
  deriving DecidableEq, Repr

/-- The form of an address register. For one with a bit set that Table 6.1 calls zero the spec gives no outcome: it maps nothing, so its access raises a translation fault
(R147), logged with RID and VPN 0. DESIGN CHOICE: notes/assumptions/86.md. -/
def mastAddr (a : Dword) : MastAddr :=
  if bitAt a 63 then (if bitsN a 52 11 = 0 then .paged (bitsN a 36 16) (bitsN a 16 20) (bitsN a 0 16) else .bad)
  else (if bitsN a 29 34 = 0 then .flat (bitsN a 0 29) else .bad)

/-- The granule that (RID, VPN) maps, if any (R144). -/
def Mast.lookup (m : Mast) (rid vpn : Nat) : Option (Nat × TlbEnt) :=
  m.tlb.find? (fun p => p.2.rid == rid && p.2.vpn == vpn)

/-- The byte address of an access of `len` bytes, or the RID and VPN of the translation fault (R147). -/
def Mast.translate (m : Mast) (a : Dword) (len : Nat) (write : Bool) : Except (Nat × Nat) Nat :=
  match mastAddr a with
  | .flat pma => if pma + len ≤ m.pageBase * 0x10000 then .ok pma else .error (0, 0)
  | .paged rid vpn ofs =>
    if 0x10000 < ofs + len then .error (rid, vpn)
    else match m.lookup rid vpn with
      | some (g, e) => if write && !e.wr then .error (rid, vpn) else .ok (g * 0x10000 + ofs)
      | none => .error (rid, vpn)
  | .bad => .error (0, 0)

/-- The tier of a byte address: 0 for tier 1 (R122). -/
def tierOf (pma : Nat) : Nat := pma / 0x8000000 % 4

/-- The tier whose latency a read that faults takes: of the granule it names or matches, else the deepest tier of the page pool, at which paged reads are budgeted (R142). -/
def Mast.faultTier (m : Mast) (a : Dword) : Nat :=
  if bitAt a 63 then (match m.lookup (bitsN a 36 16) (bitsN a 16 20) with | some (g, _) => g / 2048 | none => m.tierMax) else bitsN a 27 2

/-- Nominal read latency of a tier (R125). -/
def tierLat (k : Nat) : Nat := 60 + 4 * k

/-- Path cycle of wide row i of an access that starts at `s0` (R125). -/
def pathCycle (s0 i : Nat) : Nat := s0 + ceilDiv (5 * i) 8

end Sys2Proof.Machine
end

