-- ==== Sys2Proof/Machine/Bundle.lean ====
section
/-! DEFINITION. The bundle: its slots and their fields, the registers it reads and writes, what it asks of the tracker (08 Tables 8.1, 8.6, 8.8, 8.12, 8.14). -/

namespace Sys2Proof.Machine

/-! ### Slots of a bundle (Table 8.1) -/

def bunPres (b : BitVec 256) (i : Nat) : Bool := bitAt b i
def bunSail (b : BitVec 256) : BitVec 80 := bits b 4 80
def bunVec (b : BitVec 256) : BitVec 44 := bits b 84 44
def bunMove (b : BitVec 256) : BitVec 80 := bits b 128 80
def bunCtrl (b : BitVec 256) : BitVec 48 := bits b 208 48

/-- The bundle that a program counter names (R178, R180). -/
def Core.bundleAt (c : Core) (pc : BitVec 13) : BitVec 256 := BitVec.ofNat 256 (Memory.readN c.bundles (32 * pc.toNat) 32)

/-! ### Fields of the sail slot (Table 8.6) -/

def sailOf (w : BitVec 80) : Nat := bitsN w 6 2
def mmRows (w : BitVec 80) : Nat := bitsN w 32 9 + 1
def mmAcc (w : BitVec 80) : Nat := 8 * bitsN w 41 6
def mmStart (w : BitVec 80) : Nat := bitsN w 47 2
def mmQhnd (w : BitVec 80) : Nat := bitsN w 51 5
def cmpVD (w : BitVec 80) : Nat := bitsN w 8 5
def cmpVA (w : BitVec 80) : Nat := bitsN w 13 5
def cmpVB (w : BitVec 80) : Nat := bitsN w 18 5
def cmpSD (w : BitVec 80) : Nat := bitsN w 23 5
def cmpSB (w : BitVec 80) : Nat := bitsN w 32 5

/-! ### Fields of the vector slot (Table 8.8) -/

def vOp (w : BitVec 44) : Nat := bitsN w 0 6
def vD (w : BitVec 44) : Nat := bitsN w 6 5
def vA (w : BitVec 44) : Nat := bitsN w 11 5
def vB (w : BitVec 44) : Nat := bitsN w 16 5
def vC (w : BitVec 44) : Nat := bitsN w 21 5
def vTy (w : BitVec 44) : Nat := bitsN w 26 2
def vBs (w : BitVec 44) : Bool := bitAt w 28
def vCc (w : BitVec 44) : Nat := bitsN w 29 3
def vSa (w : BitVec 44) : Nat := bitsN w 21 5
def vSub (w : BitVec 44) : Nat := bitsN w 26 5
def drSail (w : BitVec 44) : Nat := bitsN w 6 2
def drRow (w : BitVec 44) : Nat := bitsN w 8 9
def drFmt (w : BitVec 44) : Nat := bitsN w 41 2

/-! ### Fields of the move slot (Table 8.12) -/

def mvOp (w : BitVec 80) : Nat := bitsN w 0 6
def mvSpo (w : BitVec 80) : Spo := spoAt w 6
def mvAreg (w : BitVec 80) : Nat := bitsN w 30 5
def mvCount (w : BitVec 80) : Nat := bitsN w 54 12 + 1

/-! ### Fields of the control slot (Table 8.14) -/

def cOp (w : BitVec 48) : Nat := bitsN w 0 6
def cSd (w : BitVec 48) : Nat := bitsN w 6 5
def cSa (w : BitVec 48) : Nat := bitsN w 11 5
def cSb (w : BitVec 48) : Nat := bitsN w 16 5
def cIf (w : BitVec 48) : Bool := bitAt w 21

/-! ### Registers (R182) -/

/-- The scalar registers that a bundle reads or writes. -/
def bunSregs (b : BitVec 256) : List Nat :=
  let sl := bunSail b
  let v := bunVec b
  let m := bunMove b
  let c := bunCtrl b
  let bs := if vBs v then [vB v] else []
  (match bitsN sl 0 6 with
   | 5 | 6 => [cmpSD sl]
   | 8 => [cmpSB sl, cmpSD sl]
   | _ => []) ++
  (match vOp v with
   | 1 | 2 | 3 | 4 | 5 | 6 => bs
   | 7 => vD v :: bs
   | 8 => vC v :: bs
   | 0x0F | 0x10 | 0x11 => [vD v]
   | 0x18 => (if vSub v = 5 then [] else [vSa v]) ++ (if vSub v = 5 ∨ vSub v = 6 then [vD v] else [])
   | _ => []) ++
  (match mvOp m with
   | 1 | 2 | 9 => [mvAreg m]
   | 4 => [bitsN m 66 5]
   | _ => []) ++
  (match cOp c with
   | 1 | 2 | 0x0B | 0x0C => [cSd c]
   | 3 | 4 | 5 | 6 | 7 | 8 | 9 | 0x0A => [cSd c, cSa c] ++ (if cIf c then [] else [cSb c])
   | 0x0D | 0x0F => [bitsN c 6 5]
   | 0x13 | 0x14 => [cSa c]
   | _ => [])

/-- The vector registers that a bundle reads or writes. -/
def bunVregs (b : BitVec 256) : List Nat :=
  let sl := bunSail b
  let v := bunVec b
  let bs := if vBs v then [] else [vB v]
  (match bitsN sl 0 6 with
   | 5 | 6 => [cmpVA sl, cmpVB sl, cmpVD sl]
   | 7 => [cmpVD sl]
   | 8 => [cmpVA sl]
   | _ => []) ++
  (match vOp v with
   | 0x00 | 0x14 | 0x15 => []
   | 4 => [vD v, vA v, vC v] ++ bs
   | 1 | 2 | 3 | 5 | 6 | 8 => [vD v, vA v] ++ bs
   | 7 => vA v :: bs
   | 0x0F | 0x10 | 0x11 => [vA v]
   | 0x12 | 0x13 => [vD v]
   | 0x18 => (match vSub v with
     | 0 => [vD v]
     | 1 | 2 | 4 => [vD v, vA v]
     | 3 => [vD v, vA v, vB v]
     | 5 => [vA v, vB v]
     | _ => [])
   | _ => [vD v, vA v])

/-- Scalar (false) and vector (true) registers that the slots of a bundle write. -/
def bunDests (b : BitVec 256) : List (Bool × Nat) :=
  let sl := bunSail b
  let v := bunVec b
  let c := bunCtrl b
  (match bitsN sl 0 6 with
   | 5 | 6 => [(true, cmpVD sl), (false, cmpSD sl)]
   | 7 => [(true, cmpVD sl)]
   | 8 => [(false, cmpSD sl)]
   | _ => []) ++
  (match vOp v with
   | 0x00 | 0x13 | 0x14 | 0x15 => []
   | 0x07 | 0x0F | 0x10 | 0x11 => [(false, vD v)]
   | 0x18 => (match vSub v with
     | 3 => [(true, vD v), (false, vSa v)]
     | 5 | 6 => [(false, vD v)]
     | 7 => []
     | _ => [(true, vD v)])
   | _ => [(true, vD v)]) ++
  (if 1 ≤ cOp c ∧ cOp c ≤ 0x0B then [(false, cSd c)] else [])

/-! ### What a bundle asks for (R44, R45, R102, R195) -/

/-- The tracker entries that a bundle takes: by a tile load, an opened output tile, a long vector operation, and a move instruction of Table 2.7. -/
def bunEntries (b : BitVec 256) : Nat :=
  let sl := bunSail b
  let v := vOp (bunVec b)
  let m := mvOp (bunMove b)
  b2n (bitsN sl 0 6 == 1 || (bitsN sl 0 6 == 2 && (mmStart sl == 1 || mmStart sl == 2))) + b2n (decide (0x0A ≤ v) && decide (v ≤ 0x11)) +
    b2n (m == 1 || m == 2 || m == 3 || m == 6 || m == 7 || m == 9 || m == 0x0A)

/-- The scratchpad operands that a bundle's slots write, each with its number of slots. -/
def bunWrites (b : BitVec 256) : List (Spo × Nat) :=
  let v := bunVec b
  let m := bunMove b
  let c := bunCtrl b
  (match vOp v with
   | 0x13 => [(spoAt v 16, 4)]
   | 0x14 => [(spoAt v 17, if drFmt v = 1 then 2 else 4)]
   | _ => []) ++
  (match mvOp m with
   | 1 => [(mvSpo m, 2 * (bitsN m 35 5 + 1))]
   | 4 | 5 => [(mvSpo m, mvCount m)]
   | 7 => [(spoAt m 55, bitsN m 38 5 + 1)]
   | _ => []) ++
  (if cOp c = 0x0C then [(spoAt c 11, 1)] else [])

/-- Whether a bundle waits whole for the fill and copy engine or for room in a drain stage (R181). -/
def Core.bundleHeld (c : Core) (b : BitVec 256) : Bool :=
  ((mvOp (bunMove b) == 4 || mvOp (bunMove b) == 5) && c.engine.isSome) ||
  (vOp (bunVec b) == 0x14 && decide (32 ≤ (c.sail (drSail (bunVec b))).stage.length))

end Sys2Proof.Machine
end

