-- ==== Sys2Proof/Machine/StateHost.lean ====
section
/-! DEFINITION. The state of the host interface: links, functions, vectors, mailboxes, doorbell bits (22). -/

namespace Sys2Proof.Machine

/-- What the module has sent out of itself, oldest first. Function 0 is PF0, function p + 1 the VF of partition p. -/
inductive Sent where
  | write (fn : Nat) (addr : Nat) (len : Nat) (data : Nat)
  | msix (fn vec : Nat)
  | sheet (port : Nat) (kind : Nat) (frame : Nat)
  | spdm (code : Nat) (len : Nat) (data : Nat)
  | pldm (code : Nat) (data : Nat)
  | eth (kind : Nat) (data : Nat)
  | ibi (target : Nat) (data : Nat)
  deriving DecidableEq, Repr

/-- An MSI-X vector with its coalescing window, which ends at tick `winEnd` (R495, R496). A vector is masked after a function reset, as PCIe has it. -/
structure Vec where
  masked : Bool := true
  pend : Bool := false
  window : Bool := false
  winEnd : Nat := 0
  folded : Bool := false
  deriving DecidableEq, Repr

/-- A message that firmware has accepted and not yet answered (R499, R500). -/
structure MbxMsg where
  body : BitVec 512
  busy : Bool := false
  link : Nat := 0
  drop : Bool := false
  deriving DecidableEq, Repr

/-- A function: its mailboxes, doorbell bits, vectors, entry window and time-base latch (R395, R493, R498, R503). -/
structure Fn where
  out : BitVec 512 := 0#512
  full : Bool := false
  coll : Bool := false
  collided : Bool := false
  goLink : Nat := 0
  taken : Nat := 0
  inb : BitVec 512 := 0#512
  inFull : Bool := false
  received : Nat := 0
  msgs : List MbxMsg := []
  replies : List (BitVec 512) := []
  dblStat : Word := 0#32
  dblMask : Word := 0#32
  vecs : AMap Vec := []
  fnMask : Bool := false
  winIdx : Nat := 0
  tbHi : Word := 0#32
  deriving DecidableEq, Repr

/-- Configuration space of a function on one link (R490, R494). -/
structure CfgSpace where
  master : Bool := false
  sriov : Bool := false
  numVfs : Nat := 0
  deriving DecidableEq, Repr

/-- A host link (R489, R504). -/
structure HostLink where
  up : Bool := false
  rate : Nat := 0
  width : Nat := 0
  downCnt : Nat := 0
  cfg : AMap CfgSpace := []
  deriving DecidableEq, Repr

/-- The host interface. -/
structure HostIf where
  links : Vector HostLink 4 := Vector.replicate 4 {}
  fns : AMap Fn := []
  badAcc : Nat := 0
  dbErr : Nat := 0
  out : List Sent := []
  deriving DecidableEq, Repr

end Sys2Proof.Machine
end

