-- ==== Sys2Proof/Machine/StateReq.lean ====
section
/-! DEFINITION. The state of the request engine and the stream engine: entries, turns, queues, rings, stop sets (11, 12, 13, 14). -/

namespace Sys2Proof.Machine

/-- The state of a request entry (Table 11.3). -/
inductive EntSt where
  | free
  | queued
  | active
  | parked
  | draining
  | done
  deriving DecidableEq, Repr

/-- The fields of an entry that belong to a turn (Table 11.1). -/
structure Turn where
  prio : Nat := 0
  retain : Bool := false
  tq : Nat := 0
  pfo : Bool := false
  specK : Nat := 0
  specMode : Nat := 0
  limit : Nat := 0
  deadline : Nat := 0
  seed : Dword := 0#64
  stopset : Nat := 0
  autoId : Nat := 0
  cut : Nat := 0
  temp : BitVec 16 := 0#16
  topp : BitVec 16 := 0#16
  topk : Nat := 0
  pend : Nat := 0
  userTag : Nat := 0
  tEnq : Nat := 0
  op : Nat := 0
  start : Nat := 0
  ctr : Nat := 0
  deriving DecidableEq, Repr

/-- A completion record (Table 11.7); PHASE is set as it is written. `place` is the queue place that a rejection holds until it is written (R282). -/
structure Record where
  entry : Nat := 0
  status : Nat := 0
  cmd : Nat := 0
  detail : Nat := 0
  retained : Bool := false
  esc : EscCount := {}
  turnTokens : Nat := 0
  len : Nat := 0
  ringHead : Nat := 0
  userTag : Nat := 0
  tEnq : Nat := 0
  tFirst : Nat := 0
  tEnd : Nat := 0
  place : Option (Nat × Nat) := none
  deriving DecidableEq, Repr

/-- What a DRAINING entry, or one being closed, is doing (Table 11.5). -/
inductive Work where
  | none
  | record
  | parking
  | releasing
  | closing
  deriving DecidableEq, Repr

/-- A page of a session (R303, R308 to R314): its home core, VPN, granule, and whether MAP and INIT have answered. -/
structure Page where
  core : Nat
  vpn : Nat
  gran : Nat
  mapped : Bool := false
  ready : Bool := false
  deriving DecidableEq, Repr

/-- A request entry with what the engine keeps beside the table: DV, the held turn, the fields and automaton state as they were before the turn (R272), the turn's
counts, parking progress and the tick of the last request to its sled (R332), whether an FLR withdraws its records (R494), and, for an entry bound to a session slot, the slot with the epoch (R480) and the masked fields
of the turn's ring words (R483). -/
structure Entry where
  st : EntSt := .free
  cancel : Bool := false
  islot : Nat := 0
  igen : Nat := 0
  len : Nat := 0
  res : Bool := false
  cont : Bool := false
  rptWait : Bool := false
  sled : Bool := false
  rid : Option Nat := none
  sledPort : Nat := 0
  ringHead : Nat := 0
  autoState : Nat := 0
  dslot : Nat := 0
  turn : Turn := {}
  heldTurn : Option Turn := none
  before : Turn := {}
  autoBefore : Nat := 0
  flr : Bool := false
  dv : Nat := 0
  tokens : Nat := 0
  tFirst : Nat := 0
  ring0 : Nat := 0
  esc : EscCount := {}
  pages : List Page := []
  work : Work := .none
  reports : List Record := []
  cmdTag : Nat := 0
  cmdTick : Nat := 0
  byCmd : Bool := false
  sledPages : List Nat := []
  moved : Nat := 0
  unparkBad : Bool := false
  askAt : Nat := 0
  ended : Option Nat := none
  e2e : Option (Nat × Nat) := none
  masked : List (BitVec 48) := []
  deriving DecidableEq, Repr

/-- A table command that the request engine has given a field controller and whose answer it awaits (R312 to R314). -/
inductive PageOp where
  | map
  | init
  | unmap
  deriving DecidableEq, Repr

structure PageCmd where
  op : PageOp
  entry : Nat
  core : Nat
  rid : Nat
  vpn : Nat
  gran : Nat
  deriving DecidableEq, Repr

/-- A submission queue (R268, R497). -/
structure SubQ where
  base : Dword := 0#64
  size : Nat := 6
  en : Bool := false
  head : Nat := 0
  tail : Nat := 0
  deriving DecidableEq, Repr

/-- A completion ring or a stream ring (R280, R290). -/
structure OutRing where
  base : Dword := 0#64
  size : Nat := 6
  en : Bool := false
  tail : Nat := 0
  head : Nat := 0
  phase : Bool := true
  deriving DecidableEq, Repr

/-- The tokens of one COMMIT (R351), held until the end boundary. -/
structure Commit where
  slot : Nat
  words : List (BitVec 64)
  stamp : Nat
  cyc : Nat
  deriving DecidableEq, Repr

/-- A stop set (Table 12.4). -/
structure StopSet where
  ends : List Word := []
  seqs : List (List Word) := []
  deriving DecidableEq, Repr

/-- The ring-read engine of a partition (R295), with the words that it reads as they stood at GO. -/
structure RingRead where
  addr : Dword := 0#64
  entry : Nat := 0
  first : Nat := 0
  cnt : Nat := 1
  busy : Bool := false
  status : Nat := 0
  words : Nat := 0
  byPf : Bool := false
  link : Nat := 0
  source : List (BitVec 64) := []
  deriving DecidableEq, Repr

/-- An automaton of an image slot (R347, R348): its initial state and its place in the automaton area. -/
structure Auto where
  start : Nat
  ofs : Nat
  len : Nat
  deriving DecidableEq, Repr

/-- An automaton written to its place and waiting for the boundary, with the message that its reply answers (R348). -/
structure AutoLoad where
  slot : Nat
  id : Nat
  auto : Auto
  msg : BitVec 512
  deriving DecidableEq, Repr

/-- The stop-set staging window (R296). -/
structure Staging where
  data : AMap Word := []
  index : Nat := 0
  err : Bool := false
  pend : Option (Nat × StopSet) := none
  deriving DecidableEq, Repr

/-- A partition's part of the request and stream engines. `poolFull` holds the pages, as (entry, core, VPN), that a MAP has answered POOL_FULL for (R314); `window` the
entries as they stood at the last boundary (R285). -/
structure ReqPart where
  base : Nat := 0
  mirror : Option Nat := none
  quota : Nat := 0
  slotBase : Nat := 0
  slotCnt : Nat := 0
  urgent : Nat := 0
  urgentNext : Nat := 0
  halt : Bool := false
  rejects : Nat := 0
  weights : AMap Nat := []
  weightsNext : AMap Nat := []
  deficits : AMap Int := []
  visit : Nat := 0
  quantum : Bool := false
  sqs : AMap SubQ := []
  turnOf : Nat := 0
  cq : OutRing := {}
  held : List Record := []
  cqFull : Bool := false
  keff : AMap Nat := []
  commits : List Commit := []
  tallied : AMap (Nat × Nat) := []
  pageWork : List PageCmd := []
  poolFull : List (Nat × Nat × Nat) := []
  stopBase : Nat := 0
  stopCnt : Nat := 0
  nsr : Nat := 0
  srs : AMap OutRing := []
  stage : Staging := {}
  rr : RingRead := {}
  window : AMap Entry := []
  autoLoads : List AutoLoad := []
  deriving DecidableEq, Repr

/-- A position of an output queue (R289). -/
structure QPos where
  word : BitVec 64
  entry : Nat
  idx : Nat
  go : Option Nat := none
  mask : BitVec 48 := 0#48
  deriving DecidableEq, Repr

/-- A token on its way to its slot's output queue (R291). -/
structure Arrive where
  slot : Nat
  entry : Nat
  idx : Nat
  word : BitVec 64
  nth : Nat
  cut : Nat
  final : Bool
  mask : BitVec 48 := 0#48
  deriving DecidableEq, Repr

/-- The output queue of a decode slot with its spill register (R289 to R294). -/
structure OutQ where
  items : List QPos := []
  spill : Option QPos := none
  drops : Nat := 0
  poisons : Nat := 0
  arrived : Nat := 0
  fresh : Bool := false
  deriving DecidableEq, Repr

/-- The stream engine (R286 to R302). -/
structure Stream where
  ring : Memory := []
  qs : AMap OutQ := []
  arriving : List Arrive := []
  order : Nat := 0
  parity : Nat := 0
  sbDrop : Nat := 0
  flushSlot : Nat := 0
  stops : AMap StopSet := []
  deriving DecidableEq, Repr

/-- The park key slot of a partition: two XTS keys and one GMAC key (Table 21.3). -/
structure ParkKeys where
  xts : BitVec 256 × BitVec 256 := (0#256, 0#256)
  mac : BitVec 256 := 0#256
  deriving DecidableEq, Repr

/-- A page in a sled. The ciphertext of R326 stands here as what it encrypts, with the key, entry and generation that sealed it. -/
structure Sealed where
  data : Memory := []
  key : ParkKeys := {}
  entry : Nat := 0
  gen : Nat := 0
  model : Nat := 0
  group : Nat := 0
  layer : Nat := 0
  page : Nat := 0
  rank : Nat := 0
  next : Option Nat := none
  deriving DecidableEq, Repr

/-- A session directory entry (Table 13.7). -/
structure SledDir where
  first : Option Nat := none
  count : Nat := 0
  gen : Nat := 0
  deriving DecidableEq, Repr

/-- A stay port with its sled (R323 to R331). -/
structure StayPort where
  up : Bool := false
  rate : Nat := 0
  lanes : Nat := 0
  part : Nat := 0
  assigned : Bool := false
  cap : Nat := 0
  usable : Bool := false
  used : List Nat := []
  pages : AMap Sealed := []
  dir : AMap SledDir := []
  retry : Nat := 0
  poison : Nat := 0
  down : Nat := 0
  deriving DecidableEq, Repr

/-- The STY_ block (R331, R332). -/
structure Stay where
  ports : AMap StayPort := []
  timeout : Nat := 0x64
  lock : Bool := false
  log : ELog := {}
  kvOvf : AMap Nat := []
  tagFail : AMap Nat := []
  parkFail : AMap Nat := []
  deriving DecidableEq, Repr

/-- The request table with its park generations (R264, R326). -/
structure ReqTable where
  entries : AMap Entry := []
  parkGen : AMap Nat := []
  winIdx : Nat := 0
  deriving DecidableEq, Repr

end Sys2Proof.Machine
end

