-- ==== Sys2Proof/Machine/StateSheet.lean ====
section
/-! DEFINITION. The state of the sheet fabric, slices and module time (15). -/

namespace Sys2Proof.Machine

/-- Port check verdicts (Table 15.10). -/
inductive Verdict where
  | unused
  | down
  | checking
  | ok
  | miscabled
  | swapped
  | swapFixed
  | peerRefused
  | foreignPlan
  deriving DecidableEq, Repr

/-- A sheet port (R357, R367, Table 15.14): the plan's pairing, the peer found, the peer's own verdict once known, the tick at which its lanes locked, and the frames that
may still be in flight on it, as tick, kind and bits. -/
structure SheetPort where
  check : Verdict := .unused
  link : Bool := false
  enabled : Bool := false
  planSerial : Dword := 0#64
  planPort : Nat := 0
  peer : Option (Dword × Nat) := none
  peerGood : Option Bool := none
  own : Option Verdict := none
  upAt : Nat := 0
  flight : List (Nat × Nat × Nat) := []
  downCnt : Nat := 0
  retry : Nat := 0
  iso : Nat := 0
  deriving DecidableEq, Repr

/-- Slice states (Table 15.7). -/
inductive SliceSt where
  | none
  | waiting
  | up
  | suspect
  | lost
  | conflict
  deriving DecidableEq, Repr

/-- The sheet schedule of an image (Tables 15.3 to 15.5). -/
structure SheetSched where
  routes : List (BitVec 64) := []
  recvs : List (BitVec 128) := []
  gatePidx : Nat := 0
  gateDue : Nat := 0
  deriving DecidableEq, Repr

/-- A sheet send whose credits are outstanding. -/
structure SheetSend where
  core : Nat
  trk : Nat
  rank : Nat
  route : Nat
  left : Nat
  deriving DecidableEq, Repr

/-- A slot record of the boundary record (R363). -/
abbrev SlotRec := BitVec 128

/-- A partition's part of the sheet fabric. `agree` and `disagree` are the ranks whose records have been compared, `late` those whose stamp a SUSPECT slice waits for,
`downAt` the ticks since which ranks are unreachable, `held` the image slots that ranks hold LOADED with the matching rank (R365). -/
structure Slice where
  id : Nat := 0
  rank : Nat := 0
  mods : Nat := 0
  serials : List Dword := []
  st : SliceSt := .none
  agree : List Nat := []
  disagree : List Nat := []
  late : List Nat := []
  downAt : AMap Nat := []
  held : AMap (List Nat) := []
  lostMask : Nat := 0
  lostCnt : Nat := 0
  waits : Nat := 0
  stray : Nat := 0
  iso : Nat := 0
  seen : AMap Nat := []
  gates : AMap Bool := []
  stamps : AMap Nat := []
  record : Option (List SlotRec) := none
  notices : List (Nat × Nat × Bool) := []
  sends : List SheetSend := []
  turn : AMap Nat := []
  told : AMap Nat := []
  deriving DecidableEq, Repr

/-- The SHT_ block with the module's time role (R368, R372, R373); `sentAt` is the stamp of the TIME frame that waits for its answer, `lastTime` that of the last exchange. -/
structure Sheet where
  ports : AMap SheetPort := []
  lossMs : Nat := 0x32
  stampMs : Nat := 0x64
  swapFix : Bool := false
  lock : Bool := false
  planOwn : Dword := 0#64
  log : ELog := {}
  leader : Bool := false
  locked : Bool := false
  hold : Bool := false
  stepped : Bool := false
  tport : Nat := 0
  sentAt : Option Nat := none
  lastTime : Nat := 0
  offset : Word := 0#32
  delay : Word := 0#32
  deriving DecidableEq, Repr

end Sys2Proof.Machine
end

