-- ==== Sys2Proof/Machine/StateUnits.lean ====
section
/-! DEFINITION. The state of the recorder, power, heat, the crow's nest, configuration memory, firmware and the module's pins (17, 18, 20, 23, 24, 25, 26). -/

namespace Sys2Proof.Machine

/-! ### The event recorder (25) -/

/-- A record (Table 25.2). Its kind is never 0 while it is held. -/
structure EvrRec where
  kind : Nat
  sev : Nat := 0
  part : Nat := 0xFF
  field : Nat := 0xFF
  core : Nat := 0xFFFF
  count : Nat := 1
  ops : Nat := 0
  pcc : Nat := 0
  tb : Dword := 0#64
  value : Dword := 0#64
  aux : Dword := 0#64
  deriving DecidableEq, Repr

/-- What a flush copies: bins by 64h + k, the settable EVR_HSRC values, records by index, the counts (R552). -/
structure EvrData where
  bins : AMap Nat := []
  hsrc : AMap Word := []
  recs : AMap EvrRec := []
  dropped : Nat := 0
  missedS : Nat := 0
  missedE : Nat := 0
  deriving DecidableEq, Repr

/-- A flush image (R552). -/
structure EvrImage where
  cause : Nat
  seq : Nat
  ops : Nat
  pcc : Nat
  data : EvrData
  deriving DecidableEq, Repr

/-- A flush under way or waiting: its image once it has been copied, its slot, and whether an EVR_FLUSH message waits for its end (R553). -/
structure EvrFlush where
  cause : Nat
  slot : Nat := 0
  image : Option EvrImage := none
  msg : Option (BitVec 512) := none
  deriving DecidableEq, Repr

/-- The recorder. `frozen` is the tick at which the freeze reaches its limit. -/
structure Evr where
  data : EvrData := {}
  frozen : Option Nat := none
  frzS : Nat := 0
  frzE : Nat := 0
  flush : Option EvrFlush := none
  queue : List EvrFlush := []
  flushErr : Bool := false
  empty : Bool := false
  slot : Nat := 0
  next : Nat := 0
  flushes : Nat := 0
  seq : Nat := 0
  ops : Nat := 0
  pcc : Nat := 0
  vecSev : Nat := 5
  hidx : Nat := 0
  ridx : Nat := 0
  spaced : Option Nat := none
  faultDue : Bool := false
  ceSecond : Nat := 0
  debts : AMap Nat := []
  deriving DecidableEq, Repr

/-! ### Power (17) -/

/-- PWR_CORE_A and PWR_CORE_B of a core (Tables 17.11, 17.12), and a supply-limit demand. -/
structure CorePwr where
  volt : Nat := 0
  phases : BitVec 4 := 0#4
  st : Nat := 0
  curr : Nat := 0
  hwm : Nat := 0
  near : Nat := 0
  half : Bool := false
  reefed : Bool := false
  limitBy : Option Nat := none
  deriving DecidableEq, Repr

/-- PWR_FLD of a field (Table 17.10), the shunt stages armed for a neighbour's ramp, and the tick at which the field asked for its grant. -/
structure FieldPwr where
  st : Nat := 0
  curr : Nat := 0
  hwm : Nat := 0
  grantMs : Nat := 0
  armed : Bool := false
  waitAt : Nat := 0
  trip : Bool := false
  deriving DecidableEq, Repr

/-- PWR_CONV of a converter (Table 17.9). -/
structure Conv where
  curr : Nat := 0
  ok : Bool := false
  limit : Bool := false
  temp : Nat := 0
  limitCnt : Nat := 0
  deriving DecidableEq, Repr

/-- One action of the power policy (R404): a step of STEP_LIM, or one count of a partition's demand. -/
inductive PwrAct where
  | step
  | swal (part : Nat)
  deriving DecidableEq, Repr

/-- The power block (R396 to R414). `hist` holds the 1 ms mean input powers in W, newest first; `hold` the standing demands of R400, R406 and R407. -/
structure Pwr where
  ceil : Nat := 0xDC
  spare : Bool := false
  lock : Bool := false
  input : Nat := 0
  storeOk : Bool := false
  dips : Nat := 0
  volt : Nat := 0
  curr : Nat := 0
  power : Nat := 0
  powerHwm : Nat := 0
  rim0 : Bool := false
  rim1 : Bool := false
  rimCurr : Nat := 0
  convs : AMap Conv := []
  fields : AMap FieldPwr := []
  cores : AMap CorePwr := []
  log : ELog := {}
  hist : List Nat := []
  high : Nat := 0
  acts : List PwrAct := []
  lastAct : Nat := 0
  hold : AMap Nat := []
  holdup : Option Nat := none
  valid : Bool := false
  deriving DecidableEq, Repr

/-! ### Heat (18) -/

/-- THM_CORE_A and THM_CORE_B of a core, with its timers (R415 to R420). -/
structure CoreThm where
  diode : Int := 0
  ring : Int := 0
  dFail : Bool := false
  rFail : Bool := false
  dMiss : Nat := 0
  rMiss : Nat := 0
  stage1 : Bool := false
  suspect : Bool := false
  wide : Bool := false
  disCnt : Nat := 0
  hwm : Int := 0
  hotAt : Option Nat := none
  coolAt : Option Nat := none
  limit : Bool := false
  wideAt : Option Nat := none
  deriving DecidableEq, Repr

/-- THM_P of a partition, with the tick of R421; `gateNext` is GATED as the last evaluation gives it to the next boundary (R426). -/
structure PartThm where
  gated : Bool := false
  gateNext : Bool := false
  limit : Bool := false
  raises : Nat := 0
  lowered : Option Nat := none
  deriving DecidableEq, Repr

/-- A tray report kept for the windows of R427: its stamp, and its flow and outlet where valid. -/
structure TrayRpt where
  at' : Nat
  flow : Option Nat
  outlet : Option Int
  mean : Option (Int × Nat)
  deriving DecidableEq, Repr

/-- The thermal block (R415 to R433). Temperatures of the tray stand in 0.01 °C, flow in 0.01 L/min. `tierCalm` holds, by partition, the tick since which all its tiers
have governed below TIER_REEF - 3 °C, none while one does not (R421), and `hotCalm` the same of HOT_OFF (R135). -/
structure Thm where
  reefOn : Nat := 0x5A
  reefOff : Nat := 0x57
  tierReef : Nat := 0x5A
  lock : Bool := false
  cool : Nat := 0
  trayOk : Bool := false
  cause : Nat := 0
  strikes : Nat := 0
  inlet : Int := 0
  outlet : Int := 0
  flow : Nat := 0
  lastFlow : Option Nat := none
  qrem : Int := 0
  ceil : Nat := 0x898
  ceilCalc : Nat := 0x898
  qcap : Option Int := none
  pollAt : Option Nat := none
  hotCore : Nat := 0
  hotTemp : Int := 0
  parts : AMap PartThm := []
  cores : AMap CoreThm := []
  log : ELog := {}
  seq : Option Nat := none
  rpts : List TrayRpt := []
  first : Option Nat := none
  good : Nat := 0
  full : Nat := 0
  struckAt : Option Nat := none
  tierCalm : AMap (Option Nat) := []
  hotCalm : AMap (Option Nat) := []
  deriving DecidableEq, Repr

/-! ### The tally link and the crow's nest (20) -/

/-- A tally message (Table 20.2), without its CRC. -/
structure Tally where
  seq : Nat
  kind : Nat
  part : Nat := 0
  tq : Nat := 0
  stamp : Dword := 0#64
  gen : Nat := 0
  prompt : Nat := 0
  genTot : Nat := 0
  promptTot : Nat := 0
  epoch : Word := 0#32
  deriving DecidableEq, Repr

/-- A credit of the open interval: the stamp of its message and what it adds to a (PART, TQ) (R455, R457). -/
structure Credit where
  stamp : Nat
  key : Nat
  gen : Nat
  prompt : Nat
  deriving DecidableEq, Repr

/-- A closed record: its length, and its bytes as signed (R459). -/
structure CnRec where
  len : Nat
  bytes : Nat
  deriving DecidableEq, Repr

/-- An interval that has ended in meter time and is not closed yet (R457, R458): its bounds, flags, gaps, length in force, measurements. -/
structure MeterSpan where
  start : Nat
  stop : Nat
  flags : BitVec 16
  gaps : Nat
  secs : Nat
  marked : Bool
  read : MeterRead
  deriving DecidableEq, Repr

/-- The crow's nest: what its store keeps, and the open interval while `powered`. -/
structure Meter where
  powered : Bool := false
  serial : Dword := 0#64
  metro : Dword := 0#64
  unit : Dword := 0#64
  mt : Nat := 0
  start : Nat := 0
  tbStart : Option Nat := none
  lastMark : Option Nat := none
  marked : Bool := false
  flags : BitVec 16 := 0#16
  gaps : Nat := 0
  ended : List MeterSpan := []
  etotMj : Nat := 0
  interval : Nat := 2
  nextInterval : Nat := 2
  sealCnt : Nat := 0
  epoch : Option Word := none
  expect : Nat := 0
  base : AMap (Nat × Nat) := []
  credits : List Credit := []
  gapsAll : Nat := 0
  lastSeq : Nat := 0
  recs : AMap CnRec := []
  wrapped : Bool := false
  prevHash : BitVec 384 := 0#384
  deriving DecidableEq, Repr

/-- The relay registers and the request engine's end of the tally link (R454, R467). -/
structure Cnm where
  req : Bool := false
  lock : Bool := false
  present : Bool := false
  busOk : Bool := false
  sel : Nat := 0
  status : Nat := 0
  page : Nat := 0
  len : Nat := 0
  data : Nat := 0
  halted : Bool := false
  lastSerial : Option Dword := none
  seq : Nat := 0
  epoch : Word := 0#32
  totals : AMap (Nat × Nat) := []
  link : List Tally := []
  closed : Bool := false
  running : Bool := false
  meter : Meter := {}
  deriving DecidableEq, Repr

/-! ### Configuration memory (23) -/

/-- A region of the persistent register store: erase counts, the active sector, and its records (index, value, COUNT) in order (R515). -/
structure StoreRegion where
  erases : AMap Nat := []
  active : Nat := 0
  seq : Nat := 0
  recs : List (Nat × Word × Nat) := []
  deriving DecidableEq, Repr

/-- A stored firmware bank (R528): its header's HW_TYPE, UNIT_SERIAL, SWRAP and package length and whether its HMAC passes; the package's header, its WRAP zero, and its
segments; and what the package's header says (Table 24.1). Components are (VERSION, digest good) by kind. -/
structure FwBank where
  hwType : Word := 0x0000F001#32
  macOk : Bool := true
  serial : Dword := 0#64
  swrap : BitVec 320 := 0#320
  header : BitVec 4096 := 0#4096
  segs : List (Nat × BitVec 128) := []
  svn : Nat := 0
  setFmt : Nat := 0
  raise : Bool := false
  comps : AMap (Word × Bool) := []
  sig : BitVec 768 := 0#768
  len : Nat := 0
  deriving DecidableEq, Repr

/-- A directory copy (R529): SEQ; ACT, PREV and TRIAL of kinds 1 to 3; the trial counts; SET_ALT. -/
structure FwDir where
  seq : Nat := 0
  act : Vector Nat 3 := Vector.replicate 3 0
  prev : Vector Nat 3 := Vector.replicate 3 3
  trial : Vector Bool 3 := Vector.replicate 3 false
  fails : Nat := 0
  mhReady : Bool := false
  setAlt : Bool := false
  deriving DecidableEq, Repr

/-- One of the two devices of the configuration NVM (R508, R509). A region that holds nothing readable is absent here. -/
structure NvmDev where
  present : Bool := false
  copy : Option Nat := none
  store : StoreRegion := {}
  evr : AMap EvrImage := []
  dirs : AMap FwDir := []
  converted : Option Nat := none
  banks : AMap FwBank := []
  deriving DecidableEq, Repr

/-- A copy write under way (R513): target, image address, link. -/
structure CopyWrite where
  target : Nat
  addr : Nat
  link : Nat
  deriving DecidableEq, Repr

/-- The CFG_ block and the NVM. `prog` is the store record being programmed, `pend` the writes that wait, as (index, value, COUNT) (R514); `fieldOff`
is CFG_FIELD_OFF as start-up step 6 found it (R518). -/
structure Cfg where
  copyB : Bool := false
  aOk : Bool := false
  bOk : Bool := false
  fcalOk : Bool := false
  fcalRead : Bool := false
  gen : Dword := 0#64
  fcalVer : Nat := 0
  fcalDig : Nat := 0
  imgLo : Word := 0#32
  imgHi : Word := 0#32
  copySel : Bool := false
  write : Option CopyWrite := none
  status : Nat := 0
  prog : Option (Nat × Word × Nat) := none
  pend : List (Nat × Word × Nat) := []
  lastErr : Nat := 0
  errIdx : Nat := 0
  devErr : BitVec 2 := 0#2
  rwp : AMap Word := []
  wcnt : AMap Nat := []
  exh : List Nat := []
  fieldOff : BitVec 48 := 0#48
  digest : BitVec 384 := 0#384
  inUse : Option Nat := none
  ptpEn : Bool := false
  dev0 : NvmDev := {}
  dev1 : NvmDev := {}
  deriving DecidableEq, Repr

/-! ### Firmware (24) -/

/-- An activation or a revert, scheduled or begun: the message that it answers, the kinds still to be moved in their order, the fields and rim I/O
controllers still to be reloaded (R533 to R539). -/
structure FwAct where
  msg : Option (BitVec 512) := none
  kinds : Nat := 0
  bank : Nat := 3
  rig : Bool := false
  time : Dword := 0#64
  begun : Bool := false
  revert : Bool := false
  todo : List Nat := []
  fields : List Nat := []
  rios : List Nat := []
  deriving DecidableEq, Repr

/-- The firmware machinery and the FWU_ block (R543): versions running, the directory in force, the package being staged, the activation, the notices heard from
peers as (serial, ACT_TIME, signature). -/
structure Fw where
  romMode : Bool := false
  fallback : Bool := false
  last : Nat := 0
  mh : Word := 0#32
  setFmt : Nat := 0
  floor : Nat := 0
  dir : FwDir := {}
  staging : Option (BitVec 512) := none
  act : Option FwAct := none
  heard : List (Dword × Dword × BitVec 768) := []
  mhStop : Bool := false
  reloading : Option Nat := none
  fcVer : Word := 0#32
  fc : AMap Word := []
  rio : AMap Word := []
  step4At : Nat := 0
  deriving DecidableEq, Repr

/-! ### Pins, buses and Ethernet (26, 15) -/

/-- An I3C target's address: static, or as assigned (R462, R566). -/
structure Pins where
  mi3c : Option Nat := none
  cni3c : Option Nat := none
  ethUp : BitVec 2 := 0#2
  ethPort : Nat := 0
  ethDrops : Nat := 0
  ethSecond : Nat := 0
  ethRx : Nat := 0
  ptpLocked : Bool := false
  deriving DecidableEq, Repr

end Sys2Proof.Machine
end

