-- ==== Sys2Proof/Machine/StateSys.lean ====
section
/-! DEFINITION. The state of the module as a whole: security, clocks, start-up, and the units beside them. -/

namespace Sys2Proof.Machine

/-! ### Security (21) -/

/-- A session key slot of a partition (Table 21.3, R478): purpose 0 none, 1 IMAGE, 2 E2E. -/
structure KeySlot where
  purpose : Nat := 0
  gen : Nat := 0
  locked : Bool := false
  key : BitVec 256 := 0#256
  confirm : BitVec 384 := 0#384
  cLast : Nat := 0
  deriving DecidableEq, Repr

/-- The tag of an entry's last ended turn (R483). -/
structure TurnTag where
  status : Nat := 0
  first : Nat := 0
  cnt : Nat := 0
  tag : BitVec 128 := 0#128
  ctr : Nat := 0
  deriving DecidableEq, Repr

/-- A partition's part of the security engine (R473, R480, Tables 21.3 and 21.9). -/
structure SecPart where
  slots : AMap KeySlot := []
  ideReq : Bool := false
  ideReqNext : Bool := false
  ideRefuse : Nat := 0
  e2eFail : Nat := 0
  exchCnt : Nat := 0
  e2e : AMap (Nat × Bool) := []
  tagEntry : Nat := 0
  tags : AMap TurnTag := []
  deriving DecidableEq, Repr

/-- A selective IDE stream of a host link: the functions its requester-ID ranges cover, and of its six substreams the keys programmed and those
in use; with all six in use it is secure (R472). -/
structure IdeStream where
  fns : List Nat := []
  keys : BitVec 6 := 0#6
  going : BitVec 6 := 0#6
  deriving DecidableEq, Repr

/-- Where an SPDM requester and the module stand on one transport of a function (R470): how far the version exchange has come, the version chosen,
the sessions with whether each is established, and the large message being sent in chunks. -/
structure Spdm where
  phase : Nat := 0
  ver : Nat := 0
  sessions : AMap Bool := []
  chunk : Option (Nat × Nat) := none
  large : Option (Nat × Nat) := none
  deriving DecidableEq, Repr

/-- The security engine. -/
structure Sec where
  mctpEn : Bool := true
  lock : Bool := false
  selftestOk : Bool := false
  drbgOk : Bool := false
  draws : Nat := 0
  reseeds : Nat := 0
  spdmErr : Nat := 0
  unwrapFail : Nat := 0
  sigFail : Nat := 0
  parts : AMap SecPart := []
  ide : AMap (AMap IdeStream) := []
  spdm : AMap Spdm := []
  deriving DecidableEq, Repr

/-! ### Clocks, time base and start-up (16) -/

/-- CLK_P_SWAL of a partition (Table 16.13), with the swallow demands of power and heat of which REEF_SWAL is the greatest. -/
structure ClkPart where
  hostSwal : Nat := 0
  pwrSwal : Nat := 0
  thmSwal : Nat := 0
  reefSwal : Nat := 0
  eff : Nat := 0
  step : Nat := 3
  changes : Nat := 0
  deriving DecidableEq, Repr

/-- CLK_FLD of a field (Table 16.14), the ticks at which it left lock in service and at which its switch closed, and its controller's copy of the time base as the last
sync set it (R385). -/
structure ClkField where
  locked : Bool := false
  corners : BitVec 4 := 0#4
  lossCnt : Nat := 0
  skewHwm : Nat := 0
  unlockAt : Option Nat := none
  powerOn : Option Nat := none
  copy : Dword := 0#64
  deriving DecidableEq, Repr

/-- The clock block (R374 to R395). `down` says that the glide under way is to a slower step; `slew` is what a backward slew has to give up, `slewEnd` the tick at which it
has, `rateAt` that of the last change of the rate; a start's time before `startTick` is `startMs` in ms and `startNs` in ns. -/
structure Clk where
  stepReq : Nat := 0
  limit : Nat := 0
  step : Nat := 3
  gliding : Bool := false
  down : Bool := false
  refSel : Nat := 0
  failA : Bool := false
  failB : Bool := false
  monFail : Bool := false
  glides : Nat := 0
  refHold : Option Nat := none
  phase : Nat := 1
  cause : Nat := 1
  cfgB : Bool := false
  restarts : Nat := 0
  readyMs : Nat := 0
  startTick : Nat := 0
  startMs : Nat := 0
  startNs : Nat := 0
  tbSet : Dword := 0#64
  setRes : Nat := 0
  source : Nat := 0
  rate : Int := 0
  rateBefore : Int := 0
  slew : Option Nat := none
  slewEnd : Nat := 0
  rateAt : Option Nat := none
  firstLock : Bool := false
  parts : AMap ClkPart := []
  fields : AMap ClkField := []
  deriving DecidableEq, Repr

/-- Where the module stands: start-up done, SAFE, or shutting down (R389, R390, R445); `halTurn` is the partition after the last that the halyard served (R258). -/
structure Sys where
  ready : Bool := false
  safe : Bool := false
  shutdown : Bool := false
  struck : Bool := false
  lmap : List Nat := []
  gapH : Nat := 0
  gapV : Nat := 0
  fwMajor : Nat := 0
  mhVer : Nat := 0
  tests : List TestFail := []
  sec : Sec := {}
  clk : Clk := {}
  evr : Evr := {}
  pwr : Pwr := {}
  thm : Thm := {}
  cnm : Cnm := {}
  cfg : Cfg := {}
  fw : Fw := {}
  pins : Pins := {}
  halTurn : Nat := 0
  deriving DecidableEq, Repr

end Sys2Proof.Machine
end

