-- ==== Sys2Proof/Machine/StatePart.lean ====
section
/-! DEFINITION. The state of a partition: image slots, hoists, its group, its part of the request engine (09 to 15, 22). -/

namespace Sys2Proof.Machine

/-- The state of an image slot (Table 10.10). -/
inductive SlotState where
  | empty
  | hoisting
  | loaded
  | unloading
  deriving DecidableEq, Repr

/-- Why a slot unloads: an UNLOAD or REPLACE command, a partition reset, or the emptying of R443. -/
inductive UnloadFor where
  | command
  | replace
  | reset
  | lost
  deriving DecidableEq, Repr

/-- An image slot with its placement (R216, R252, R263), its generation (R270) and its unloading (R255); `joined` says that every member of the slice has held it LOADED (R371). -/
structure ImgSlot where
  st : SlotState := .empty
  rig : Dword := 0#64
  ox : Nat := 0
  oy : Nat := 0
  mx : Bool := false
  my : Bool := false
  placed : Bool := false
  digest : BitVec 384 := 0#384
  loads : Nat := 0
  gen : Nat := 0
  genDigest : Option (BitVec 384) := none
  draft : Bool := false
  kmax : Nat := 0
  nv : Nat := 0
  unloadFor : Option UnloadFor := none
  drainEnd : Option Nat := none
  stopped : Bool := false
  joined : Bool := false
  lostStatus : Nat := 0x21
  autos : AMap Auto := []
  models : List (Nat × Nat) := []
  sheet : SheetSched := {}
  deriving DecidableEq, Repr

/-- A hoist command in a partition's queue (R250). -/
structure HoistCmd where
  body : BitVec 256
  byVf : Bool
  tick : Nat
  deriving DecidableEq, Repr

/-- The phase of a running hoist (Table 10.12). -/
inductive HoistPhase where
  | accept
  | header
  | manifest
  | place
  | stream
  | load
  | done
  deriving DecidableEq, Repr

/-- A running hoist: what it has fetched, checked and written, the content key that the halyard holds for it (R242), and the lowest virtual core of which a row read back
proved uncorrectable. -/
structure Hoist where
  cmd : HoistCmd
  phase : HoistPhase := .accept
  accepted : Nat := 0
  header : BitVec 2048 := 0#2048
  scatter : List (Nat × Nat × Nat) := []
  seg : Nat := 0
  plain : Memory := []
  got : Nat := 0
  manLen : Nat := 0
  payLen : Nat := 0
  segLog2 : Nat := 0
  bytes : Nat := 0
  sec : Nat := 0
  digest : BitVec 384 := 0#384
  rig : Dword := 0#64
  place : Option (Nat × Nat × Bool × Bool) := none
  waitUnload : Bool := false
  abortReq : Bool := false
  lost : Bool := false
  keySlot : Option Nat := none
  key : BitVec 256 := 0#256
  badCore : Option Nat := none
  deriving DecidableEq, Repr

/-- PRT_HOIST_STAT (Table 10.15). -/
structure HoistStat where
  busy : Bool := false
  slot : Nat := 0
  phase : Nat := 0
  progress : Nat := 0
  last : Nat := 0
  rptLost : Bool := false
  deriving DecidableEq, Repr

/-- A recovery under way (R439): the dead cores, and what is still outstanding: spare checks, copies, the column and seam test. -/
structure Recov where
  dead : List Nat := []
  spares : List Nat := []
  copies : List Nat := []
  tests : List Nat := []
  deriving DecidableEq, Repr

/-- An image slot to be emptied at the next boundary (R443), with the status of its items. -/
structure Emptying where
  slot : Nat
  status : Nat
  deriving DecidableEq, Repr

/-- A partition. -/
structure Part where
  en : Bool := false
  grp : Group := {}
  flog : ELog := {}
  slots : Vector ImgSlot 4 := Vector.replicate 4 {}
  escMode : Nat := 0
  escModeNext : Nat := 0
  home : Nat := 0
  homeNext : Nat := 0
  coalUs : Nat := 0
  resetting : Bool := false
  resetAsked : Bool := false
  flrDiscard : Nat := 0
  queue : List HoistCmd := []
  waiting : List HoistCmd := []
  early : List (HoistCmd × Nat × Nat) := []
  hoist : Option Hoist := none
  hstat : HoistStat := {}
  cmdData : BitVec 256 := 0#256
  req : ReqPart := {}
  slice : Slice := {}
  recov : Option Recov := none
  emptying : List Emptying := []
  hot : Bool := false
  forceHot : Bool := false
  hotAsked : Bool := false
  refHwm : Nat := 0
  switches : Nat := 0
  parkKey : ParkKeys := {}
  record : BitVec 1024 := 0#1024
  signKey : Option (BitVec 776) := none
  deriving DecidableEq, Repr

end Sys2Proof.Machine
end

