-- ==== Sys2Proof/Machine/State.lean ====
section
/-! DEFINITION. The whole state of the module, its stops and its reset. -/

namespace Sys2Proof.Machine

/-- The mast block's own registers (R151, R152). -/
structure MstBlock where
  hotOn : Nat := 0x53
  hotOff : Nat := 0x50
  scrubEn : Bool := true
  lock : Bool := false
  ceTotal : Nat := 0
  ueTotal : Nat := 0
  log : ELog := {}
  deriving DecidableEq, Repr

/-- The crosstree copy: MST_XT_CTRL and MST_XT_STAT (Table 6.10). -/
structure ColCopy where
  field : Nat := 0
  cxp : Nat := 0
  row : Nat := 0
  go : Bool := false
  busy : Bool := false
  done : Bool := false
  err : Bool := false
  progress : Nat := 0
  deriving DecidableEq, Repr

/-- The module. -/
structure State where
  pending : List Instr
  tb : Dword := 0#64
  free : Nat := 0
  cores : AMap Core := []
  fab : Fabric := {}
  parts : AMap Part := []
  host : HostIf := {}
  table : ReqTable := {}
  stream : Stream := {}
  stay : Stay := {}
  sheet : Sheet := {}
  serial : Dword := 0#64
  grade : Nat := 0
  xt : ColCopy := {}
  mst : MstBlock := {}
  sys : Sys := {}
  deriving DecidableEq, Repr

/-- Why the machine stops: never. The spec gives every row of the operation table an effect, an illegal instruction and a refused access among them. -/
inductive Fault where
  /-- Raised by no command; it would stand for a row to which the spec gave no effect; safe. -/
  | noEffect
  deriving DecidableEq, Repr

/-- Why a command has no meaning. -/
inductive Refusal where
  /-- Raised by the dispatcher for a row that has no meaning yet; safe. -/
  | notModelled (mnemonic : String)
  deriving DecidableEq, Repr

/-- The outcome of a command. -/
abbrev Out := Host.Outcome State Fault Refusal

/-- The module right after reset. -/
def State.reset : State := { pending := [] }

end Sys2Proof.Machine
end

