-- ==== Sys2Proof/Machine/Ops.lean ====
section
/-! DEFINITION. The named operations over the state that every family shares. -/

namespace Sys2Proof.Machine

/-! ### Units by number -/

def State.core (s : State) (m : Nat) : Core := AMap.at s.cores {} m

def State.setCore (s : State) (m : Nat) (c : Core) : State := { s with cores := AMap.put s.cores m c }

def State.updCore (s : State) (m : Nat) (f : Core → Core) : State := s.setCore m (f (s.core m))

def State.updCtx (s : State) (m i : Nat) (f : Ctx → Ctx) : State := s.updCore m (fun c => c.setTc i (f (c.tc i)))

def State.updSail (s : State) (m i : Nat) (f : Sail → Sail) : State := s.updCore m (fun c => c.setSail i (f (c.sail i)))

def State.updMast (s : State) (m : Nat) (f : Mast → Mast) : State := s.updCore m (fun c => { c with mast := f c.mast })

def State.updRouter (s : State) (m : Nat) (f : Router → Router) : State := s.updCore m (fun c => { c with router := f c.router })

def State.field (s : State) (n : Nat) : FieldSt := AMap.at s.fab.fields {} n

def State.setField (s : State) (n : Nat) (x : FieldSt) : State := { s with fab := { s.fab with fields := AMap.put s.fab.fields n x } }

def State.updField (s : State) (n : Nat) (f : FieldSt → FieldSt) : State := s.setField n (f (s.field n))

def State.part (s : State) (p : Nat) : Part := AMap.at s.parts {} p

def State.setPart (s : State) (p : Nat) (x : Part) : State := { s with parts := AMap.put s.parts p x }

def State.updPart (s : State) (p : Nat) (f : Part → Part) : State := s.setPart p (f (s.part p))

def State.grp (s : State) (p : Nat) : Group := (s.part p).grp

def State.updGrp (s : State) (p : Nat) (f : Group → Group) : State := s.updPart p (fun x => { x with grp := f x.grp })

/-- The partition of a core: its field's owner. -/
def State.corePart (s : State) (m : Nat) : Nat := (s.field (m / 192)).part

/-- The fields of a partition. -/
def State.fieldsOf (s : State) (p : Nat) : List Nat :=
  (List.range 48).filter (fun n => (s.field n).owned && (s.field n).part == p)

/-- The physical cores of a partition's fields that serve the virtual grid. -/
def State.coresOf (s : State) (p : Nat) : List Nat :=
  ((s.fieldsOf p).flatMap (fun n => (List.range 192).map (fun c => n * 192 + c)))

/-- `f` at every core of a list. -/
def State.eachCore (s : State) (ms : List Nat) (f : Nat → Core → Core) : State := ms.foldl (fun s m => s.updCore m (f m)) s

/-- The time base reads `t` when the event occurs. -/
def State.atTick (s : State) (t : Dword) : State := { s with tb := if s.tb ≤ t then t else s.tb }

/-- Whether the partition steps the slot's image: LOADED, or UNLOADING and not yet drained (R252, R255). -/
def ImgSlot.serving (x : ImgSlot) : Bool := (x.st == .loaded || x.st == .unloading) && !x.stopped

/-- Whether the lasers of the stay and sheet ports may be lit: from start-up step 11 on, and never in SAFE (R390, Table 16.7). -/
def State.farOptics (s : State) : Bool := decide (11 ≤ s.sys.clk.phase) && !s.sys.safe

/-! ### Supplies (17) -/

def State.updPwr (s : State) (f : Pwr → Pwr) : State := { s with sys := { s.sys with pwr := f s.sys.pwr } }

def State.corePwr (s : State) (m : Nat) : CorePwr := AMap.at s.sys.pwr.cores {} m

def State.updCorePwr (s : State) (m : Nat) (f : CorePwr → CorePwr) : State := s.updPwr (fun x => { x with cores := AMap.upd x.cores {} m f })

def State.fieldPwr (s : State) (n : Nat) : FieldPwr := AMap.at s.sys.pwr.fields {} n

def State.updFieldPwr (s : State) (n : Nat) (f : FieldPwr → FieldPwr) : State := s.updPwr (fun x => { x with fields := AMap.upd x.fields {} n f })

/-- Whether an entry is a partition's: in its range (R264), or, away from rank 0 of a slice, one that it keeps for rank 0 (R363). -/
def ReqPart.owns (r : ReqPart) (e : Nat) : Bool :=
  match r.mirror with
  | none => decide (r.base ≤ e) && decide (e < r.base + r.quota)
  | some k => e / 262144 == k

/-! ### Logs (R152, R436) -/

/-- A record that arrives while 64 are held is dropped and counted. -/
def ELog.push (l : ELog) (r : Word × Word × Word) : ELog :=
  if l.recs.length < 64 then { l with recs := l.recs ++ [r] } else { l with lost := satAdd 255 l.lost 1 }

/-- POP removes the oldest record. -/
def ELog.pop (l : ELog) : ELog := { l with recs := l.recs.drop 1 }

/-- The low half of the time base. -/
def State.time32 (s : State) : Word := s.tb.setWidth 32

/-- The class of a fault code (Table 19.2): 0 image-related step, 1 hardware step, 2 core, 3 partition, 4 port, 5 module. -/
def faultClass (code : Nat) : Nat :=
  if code < 0x10 then 0 else if code < 0x20 then 1 else if code < 0x40 then 2 else if code < 0x50 then 3 else if code < 0x60 then 4 else 5

/-- A record of the partition fault log (Table 19.7). -/
def faultRecord (s : State) (p code field core items : Nat) : Word × Word × Word :=
  (packFields 32 [(0, 8, code), (8, 6, field), (14, 8, core), (22, 1, b2n (faultClass code == 0))],
   s.time32, packFields 32 [(0, 13, items), (16, 16, (s.grp p).step)])

/-! ### Signals to host software (R495, R496, R503) -/

def State.fn (s : State) (f : Nat) : Fn := AMap.at s.host.fns {} f

def State.updFn (s : State) (f : Nat) (g : Fn → Fn) : State := { s with host := { s.host with fns := AMap.upd s.host.fns {} f g } }

/-- Something sent out of the module. -/
def emit (s : State) (x : Sent) : State := { s with host := { s.host with out := s.host.out ++ [x] } }

def Fn.vec (f : Fn) (v : Nat) : Vec := AMap.at f.vecs {} v

def State.updVec (s : State) (f v : Nat) (g : Vec → Vec) : State := s.updFn f (fun x => { x with vecs := AMap.upd x.vecs {} v g })

/-- A vector's message: sent, or held in its pending bit while the vector is masked (R495). -/
def sendVec (s : State) (f v : Nat) : State :=
  let x := s.fn f
  if (x.vec v).masked || x.fnMask then s.updVec f v (fun y => { y with pend := true }) else emit s (.msix f v)

/-- Vectors that COAL_US coalesces: completion and stream vectors of a VF (R496). -/
def coalesced (f v : Nat) : Bool := f != 0 && (v == 3 || (decide (8 ≤ v) && decide (v ≤ 23)))

/-- A coalescing window opened by a message of a vector now (R496). -/
def Vec.opens (y : Vec) (s : State) (us : Nat) : Vec := { y with window := true, winEnd := s.tb.toNat + 1000 * us }

/-- A vector signalled: at once, or folded into the message that ends its coalescing window; a change of COAL_US leaves an open window as it is. -/
def signal (s : State) (f v : Nat) : State :=
  if !coalesced f v then sendVec s f v
  else if ((s.fn f).vec v).window then s.updVec f v (fun y => { y with folded := true })
  else if (s.part (f - 1)).coalUs = 0 then sendVec s f v
  else (sendVec s f v).updVec f v (fun y => y.opens s (s.part (f - 1)).coalUs)

/-- A vector signalled for a record that entered a log: none where the log was full (R495). -/
def signalLog (s : State) (l : ELog) (f v : Nat) : State := if l.recs.length < 64 then signal s f v else s

/-- The vector of a doorbell bit (Table 22.13). -/
def dblVec (b : Nat) : Nat := if b = 0 then 0 else if b ≤ 2 then 1 else 2

/-- A doorbell bit set; where it becomes set unmasked, its vector is signalled (R503). -/
def dblSet (s : State) (f b : Nat) : State :=
  let s1 := s.updFn f (fun x => { x with dblStat := setBits x.dblStat b 1 1 })
  if bitAt (s.fn f).dblStat b || bitAt (s.fn f).dblMask b then s1 else signal s1 f (dblVec b)

/-- An event bit set on a partition's VF and on PF0. -/
def dblBoth (s : State) (p b : Nat) : State := dblSet (dblSet s (p + 1) b) 0 b

/-! ### The event recorder (25 R544 to R554) -/

/-- Numbers that stand for no field and no core where a fault names none. -/
def noField : Nat := 64
def noCore : Nat := 256

def State.updEvr (s : State) (f : Evr → Evr) : State := { s with sys := { s.sys with evr := f s.sys.evr } }

/-- A value that the spec does not state, fresh at each reading. -/
def State.fresh (s : State) : Dword := (Config.freeValue s.free).setWidth 64

/-- The severity of a fault code (R548). -/
def sevOf (code : Nat) : Nat :=
  match faultClass code with
  | 0 | 1 => 3
  | 2 => 4
  | 3 => 5
  | 4 => 2
  | _ => 6

/-- Whether a held record takes in a happening at tick t (R549). -/
def EvrRec.sameAs (r x : EvrRec) : Bool :=
  r.kind == x.kind && r.part == x.part && r.field == x.field && r.core == x.core && decide (r.tb ≤ x.tb) && decide ((x.tb - r.tb).toNat < 1000000000)

/-- The event store's record to be replaced: the oldest of the lowest severity held. -/
def victim (rs : AMap EvrRec) : Option (Nat × EvrRec) :=
  (rs.filter (fun x => decide (32 ≤ x.1))).foldl (fun a x =>
    match a with
    | none => some x
    | some y => if x.2.sev < y.2.sev ∨ (x.2.sev = y.2.sev ∧ x.2.tb < y.2.tb) then some x else a) none

/-- A happening stored: in an empty slot of the event store, or in place of the victim where its severity allows; whether it was stored. -/
def EvrData.store (d : EvrData) (x : EvrRec) : EvrData × Bool :=
  match findUp (fun i => (AMap.find d.recs i).isNone) 224 32 with
  | some i => ({ d with recs := AMap.put d.recs i x }, true)
  | none =>
    match victim d.recs with
    | some (i, y) => if y.sev ≤ x.sev then ({ d with recs := AMap.put d.recs i x }, true) else ({ d with dropped := satAdd 0xFFFF d.dropped 1 }, false)
    | none => (d, false)

/-- A happening handed to the recorder (R549, R551), its VALUE and AUX free where the spec states none. The recorder works from start-up step 4. -/
def evrEvent (s : State) (kind sev part field core : Nat) (value aux : Option Dword) : State :=
  let e := s.sys.evr
  if s.sys.clk.phase < 4 then s
  else if e.frozen.isSome then
    s.updEvr (fun e => { e with data := { e.data with missedE := satAdd 0xFFFF e.data.missedE 1 }, frzE := satAdd 0xFFFFFFFF e.frzE 1 })
  else
    let x : EvrRec := { kind := kind, sev := sev, part := part, field := if field < 48 then field else 0xFF, core := if core < 192 then core else 0xFFFF,
                        ops := e.ops, pcc := e.pcc, tb := s.tb, value := value.getD s.fresh, aux := aux.getD ((Config.freeValue (s.free + 1)).setWidth 64) }
    match e.data.recs.find? (fun r => decide (32 ≤ r.1) && r.2.sameAs x) with
    | some (i, r) => s.updEvr (fun e => { e with data := { e.data with recs := AMap.put e.data.recs i { r with count := satAdd 0xFFFF r.count 1 } } })
    | none =>
      let (d, stored) := e.data.store x
      let s1 := { s.updEvr (fun e => { e with data := d }) with free := s.free + 2 }
      if stored && decide (e.vecSev ≤ sev) then signal s1 0 5 else s1

/-- The source and the filter of a histogram (R546): SRC, and the partition it admits, if not all. -/
def EvrData.source (d : EvrData) (h : Nat) : Nat × Option Nat :=
  if h < 24 then (h, none)
  else
    let w := AMap.at d.hsrc 0x800#32 h
    (bitsN w 0 5, if bitAt w 11 then none else some (bitsN w 5 6))

/-- One count in a bin, saturating. -/
def EvrData.count (d : EvrData) (h k : Nat) : EvrData := { d with bins := AMap.upd d.bins 0 (64 * h + k) (fun n => satAdd 0xFFFFFFFF n 1) }

/-- A value's bin: below the range the first, above it the last (R544). -/
def binOf (i : Int) : Nat := if i < 0 then 0 else min 63 i.toNat

/-- ⌊4 × log₂ (a / b)⌋, for a at least b. -/
def quarterLog (a b : Nat) : Int := if a < b ∨ b = 0 then -1 else Nat.log2 (a ^ 4 / b ^ 4)

/-- An extreme record's turn: the sample replaces the record only where it is strictly more extreme (R547). -/
def EvrData.extreme (d : EvrData) (x : EvrRec) (src : Nat) (low : Bool) : EvrData :=
  let i := 2 * src + b2n low
  let y := { x with aux := BitVec.ofNat 64 (src + 256 * b2n low) }
  match AMap.find d.recs i with
  | none => { d with recs := AMap.put d.recs i y }
  | some r => if (if low then x.value.toInt < r.value.toInt else r.value.toInt < x.value.toInt) then { d with recs := AMap.put d.recs i y } else d

/-- A sample of a source (R544 to R547): its bin in every histogram that follows the source, and the extreme records of a value source. -/
def evrSample (s : State) (src part field core : Nat) (value bin : Int) : State :=
  let e := s.sys.evr
  if s.sys.clk.phase < 4 then s
  else if e.frozen.isSome then
    s.updEvr (fun e => { e with data := { e.data with missedS := satAdd 0xFFFF e.data.missedS 1 }, frzS := satAdd 0xFFFFFFFF e.frzS 1 })
  else
    let hs := (List.range 64).filter (fun h => let c := e.data.source h; c.1 == src && (match c.2 with | none => true | some p => p == part))
    let d := hs.foldl (fun d h => d.count h (binOf bin)) e.data
    let x : EvrRec := { kind := 0x80, sev := 0, part := part, field := if field < 48 then field else 0xFF, core := if core < 192 then core else 0xFFFF,
                        ops := e.ops, pcc := e.pcc, tb := s.tb, value := BitVec.ofInt 64 value }
    s.updEvr (fun e => { e with data := if src < 16 then (d.extreme x src false).extreme x src true else d })

/-- The partition that a field belongs to, for the recorder. -/
def State.partOf (s : State) (n : Nat) : Nat := if (s.field n).owned then (s.field n).part else 0xFF

/-- An event of an index source: one in the bin of the unit concerned. -/
def evrIndex (s : State) (src part unit : Nat) : State := evrSample s src part noField noCore 0 unit

/-- A flush begins: the contents copied into the image for the next slot (R553). A fault that precedes the copy is covered (R557). -/
def beginFlush (s : State) (f : EvrFlush) : State :=
  s.updEvr (fun e => { e with
    flush := some { f with slot := e.next, image := some { cause := f.cause, seq := e.seq + 1, ops := e.ops, pcc := e.pcc, data := e.data } }
    seq := (e.seq + 1) % 2 ^ 32, next := (e.next + 1) % 64, faultDue := false
    spaced := if f.cause = 3 ∨ f.cause = 4 ∨ f.cause = 5 then some s.tb.toNat else e.spaced })

/-- A flush asked for: begun, or waiting behind the one that runs. -/
def askFlush (s : State) (f : EvrFlush) : State :=
  if s.sys.evr.flush.isSome then s.updEvr (fun e => { e with queue := e.queue ++ [f] }) else beginFlush s f

/-- A flush at once, the one that runs being abandoned (R554). -/
def urgentFlush (s : State) (cause : Nat) : State := beginFlush (s.updEvr (fun e => { e with flush := none, queue := [] })) { cause := cause }

/-- Whether a fault flush may begin: 60 s past the last flush of CAUSE 3, 4 or 5. -/
def flushSpaced (s : State) : Bool := match s.sys.evr.spaced with | none => true | some t => decide (t + 60000000000 ≤ s.tb.toNat)

/-- A fault handed to the recorder, which flushes on a partition-class or module-class one (R436, R548, R554). -/
def evrFault (s : State) (code part field core : Nat) (value : Option Dword) : State :=
  let s1 := evrEvent s code (sevOf code) part field core value none
  if faultClass code = 3 ∨ faultClass code = 5 then
    (if flushSpaced s && s1.sys.evr.flush.isNone then beginFlush s1 { cause := 3 } else s1.updEvr (fun e => { e with faultDue := true }))
  else s1

/-! ### Faults (R436) -/

/-- A fault in a partition's fault log, with the number of entries it completes as failed, and its vectors signalled (Table 19.7). -/
def logFault (s : State) (p code field core items : Nat) : State :=
  let s1 := s.updPart p (fun x => { x with flog := x.flog.push (faultRecord s p code field core items) })
  signalLog (signalLog s1 (s.part p).flog (p + 1) 5) (s.part p).flog 0 (64 + p)

/-- A fault of a partition, logged and handed to the recorder. -/
def raiseFaultN (s : State) (p code field core items : Nat) : State := evrFault (logFault s p code field core items) code p field core none

/-- A fault that completes no entry. -/
def raiseFault (s : State) (p code field core : Nat) : State := raiseFaultN s p code field core 0

/-- The enabled partitions. -/
def State.enabled (s : State) : List Nat := (s.parts.filter (fun x => x.2.en)).map (·.1)

/-- A fault of the module, or of a port that no partition owns: logged in every enabled partition's log, handed over once. -/
def raiseAll (s : State) (code field core : Nat) : State :=
  evrFault (s.enabled.foldl (fun s p => logFault s p code field core 0) s) code 0xFF field core none

/-- A record in the mast error log (Table 6.8). -/
def mstLog (s : State) (m tier kind row rid : Nat) : State :=
  let r := (packFields 32 [(0, 14, m), (14, 2, tier), (16, 3, kind)], packFields 32 [(0, 20, row)], packFields 32 [(0, 16, rid)])
  signalLog { s with mst := { s.mst with log := s.mst.log.push r } } s.mst.log 0 3

/-- A record in the fabric error log (Table 7.10). -/
def fabLog (s : State) (router kind seam link pkt rtr tree : Nat) : State :=
  let r := (packFields 32 [(0, 14, router), (14, 3, kind)],
       packFields 32 [(0, 7, seam), (7, 4, link), (11, 6, pkt), (17, 6, rtr), (23, 6, tree)], s.time32)
  signalLog { s with fab := { s.fab with log := s.fab.log.push r } } s.fab.log 0 3

/-- A record in the stay error log (Table 13.11). -/
def styLog (s : State) (port kind part entry spage : Nat) : State :=
  let r := (packFields 32 [(0, 5, port), (5, 3, kind), (8, 6, part)], packFields 32 [(0, 18, entry)], BitVec.ofNat 32 spage)
  signalLog { s with stay := { s.stay with log := s.stay.log.push r } } s.stay.log 0 3

end Sys2Proof.Machine
end

