-- ==== Sys2Proof/Machine/Flags.lean ====
section
/-! DEFINITION. The step-fail line, violation and illegal-instruction records, the tracker, and issue itself (02 R41 to R45, 05 R114 to R121, 08 R181 to R183, R211, R212). -/

namespace Sys2Proof.Machine

/-! ### The step-fail line -/

/-- The partition's step fails with a fault raised in a given schedule cycle; outside a step the fault waits for the next one (R116). -/
def failStepAt (s : State) (p code cyc : Nat) : State :=
  s.updGrp p (fun g => if g.inStep then { g with faults := g.faults ++ [⟨code, cyc⟩] } else { g with carry := g.carry ++ [⟨code, 0⟩] })

/-- The same for a fault raised now. -/
def failStep (s : State) (p code : Nat) : State := failStepAt s p code (s.grp p).cyc

/-- A fault of core `m`, raised in a given schedule cycle, that fails its partition's step, logged once. -/
def coreFaultAt (s : State) (m code cyc : Nat) : State :=
  let p := s.corePart m
  failStepAt (raiseFault s p code (m / 192) (m % 192)) p code cyc

/-- The same for a fault raised now. -/
def coreFault (s : State) (m code : Nat) : State := coreFaultAt s m code (s.grp (s.corePart m)).cyc

/-- A fault of core `m` that fails its partition's step, where its field has a partition; else it goes to the recorder alone. -/
def ownedFault (s : State) (m code : Nat) : State :=
  if (s.field (m / 192)).owned then coreFault s m code else evrFault s code 0xFF (m / 192) (m % 192) none

/-- Whether the step under way has failed. -/
def Group.failed (g : Group) : Bool := !g.faults.isEmpty

/-- Whether a fault was raised at least 20 fc before cycle `t`, so that a commit then is suppressed (R116). -/
def Group.failedBy (g : Group) (t : Nat) : Bool := g.faults.any (fun f => decide (f.at' + 20 ≤ t))

/-- A record of the first violation and the count with a further one: raised in an earlier fc of the same step, or in an earlier step, it takes the record's place (R121). -/
def ViolRec.add (r : ViolRec) (ctx : Nat) (v : Viol) (step cyc : Nat) : ViolRec :=
  if r.valid && !(decide (step < r.step) || (step == r.step && decide (cyc < r.at'))) then { r with count := satAdd 0xFFF r.count 1 }
  else { valid := true, kind := v.kind, ctx := ctx, handle := v.handle, slot := v.slot, expTag := v.expTag, foundTag := v.foundTag, foundSt := v.foundSt, mode := v.mode,
         count := satAdd 0xFFF r.count 1, step := step, at' := cyc }

/-- A violation raised in a given schedule cycle, recorded at its core: the first is kept, every one is counted (R121), and the step fails. A step that has failed by a violation
fails no second time; what counts is the earliest fc in which one was raised (R115, R116). -/
def violateAt (s0 : State) (m ctx : Nat) (v : Viol) (cyc : Nat) : State :=
  let s := evrIndex s0 19 (s0.partOf (m / 192)) (m / 192)
  let p := s.corePart m
  let s1 := s.updCore m (fun c => { c with viol := c.viol.add ctx v (s.grp p).step cyc })
  if (s1.grp p).faults.any (fun f => f.code == 1) then
    s1.updGrp p (fun g => { g with faults := g.faults.map (fun f => if f.code = 1 then { f with at' := min f.at' cyc } else f) })
  else coreFaultAt s1 m 0x01 cyc

/-- The fc of a violation by an access that is made now: that of its bank access, L - 1 later, where it was a slot that failed (R99, R116). -/
def violCycle (s : State) (m : Nat) (v : Viol) : Nat :=
  (s.grp (s.corePart m)).cyc + (if v.kind = 1 ∨ v.kind = 2 ∨ v.kind = 3 then bankLat (64 * v.slot) - 1 else 0)

/-- A violation raised by an access that is made now. -/
def violate (s : State) (m ctx : Nat) (v : Viol) : State := violateAt s m ctx v (violCycle s m v)

/-- The violation of an access, if it raised one. -/
def violateOpt (s : State) (m ctx : Nat) : Option Viol → State
  | none => s
  | some v => violate s m ctx v

/-- An illegal instruction at run time: the first is kept, and the step fails (R211, R212). -/
def illegal (s : State) (m ctx slot op cause : Nat) : State :=
  let s1 := s.updCore m (fun c =>
    if c.ill.valid then c
    else { c with ill := { valid := true, opcode := op, slot := slot, ctx := ctx, cause := cause, pc := (c.tc ctx).pc } })
  if (s1.grp (s1.corePart m)).faults.any (fun f => f.code == 2) then s1 else coreFault s1 m 0x02

/-- A translation fault of the access at an address: logged with its RID and VPN and the tier whose latency it takes, and the step fails (R142, R147). -/
def xlateFault (s : State) (m : Nat) (a : Dword) (e : Nat × Nat) : State :=
  coreFault (mstLog s m ((s.core m).mast.faultTier a) 2 e.2 e.1) m 0x03

/-! ### The operation tracker (R43 to R45) -/

/-- Entries that release themselves by cycle `t` released. -/
def Core.pruneTrk (c : Core) (t : Nat) : Core :=
  { c with tracks := c.tracks.filter (fun k => match k.due with | some d => decide (t < d) | none => true) }

/-- A further entry taken, or none where the quota is spent (R45). -/
def Core.takeTrk (c : Core) (ctx : Nat) (kind : TrackKind) (left : Nat) (due : Option Nat) : Option (Core × Nat) :=
  if (c.tracks.filter (fun k => k.ctx == ctx)).length < (c.tc ctx).quota then
    let ts := c.tracks ++ [{ id := c.nextTrk, ctx := ctx, kind := kind, left := left, due := due }]
    some ({ c with tracks := ts, nextTrk := c.nextTrk + 1,
                   stat := { c.stat with trkHwm := max c.stat.trkHwm (min ts.length 1024) } }, c.nextTrk)
  else none

/-- One of an entry's outstanding parts done; with the last, the entry is released (R44). -/
def Core.stepTrk (c : Core) (id : Nat) : Core :=
  { c with tracks := (c.tracks.map (fun k => if k.id = id then { k with left := k.left - 1 } else k)).filter (fun k => k.left != 0) }

/-- An entry released. -/
def Core.freeTrk (c : Core) (id : Nat) : Core := { c with tracks := c.tracks.filter (fun k => k.id != id) }

/-- The tracker overrun of R45. -/
def trkOverrun (s : State) (m ctx : Nat) : State := violate s m ctx { kind := 6 }

/-! ### What earlier accesses have done by a given fc (R99, R110) -/

/-- A core as accesses made in fc t find it, with the violations raised on the way recorded. -/
def State.settle (s : State) (m t : Nat) : State :=
  let r := (s.core m).settled t
  r.2.foldl (fun s v => violateAt s m v.1 v.2.1 v.2.2) (s.setCore m r.1)

/-- Every core of a partition that has an access on its way, as accesses made in fc t find it. -/
def State.settleAll (s : State) (p t : Nat) : State :=
  ((s.cores.filter (fun e => !e.2.late.isEmpty && s.corePart e.1 == p)).map (·.1)).foldl (fun s m => s.settle m t) s

/-- Every access of a partition's cores carried out. -/
def State.settleEnd (s : State) (p : Nat) : State :=
  ((s.cores.filter (fun e => !e.2.late.isEmpty && s.corePart e.1 == p)).map (·.1)).foldl (fun s m =>
    s.settle m ((s.core m).lastAcc + 8192)) s

/-! ### Issue (R36, R41, R45, R181 to R183, R226) -/

/-- Whether the group lets a context issue a bundle: in a step, not stalled, not closed by a luff timeout. A boundary item stalls the boundary interval only (R225). -/
def Group.issues (g : Group) (t : Nat) : Bool :=
  g.inStep && g.stalled.isNone && !g.closed && g.items.all (fun i => i.ended || i.boundary || decide (t < i.u))

/-- The context that the vector pattern names in fc `u`, 4 for none (R41, R206). -/
def Core.patternAt (c : Core) (u : Nat) : Nat := (if u < c.patFrom then c.patOld else c.pattern).toList.getD (u % 16) 4

/-- The first cycle from `t` on whose pattern entry names the context (R41). -/
def patternCycle (c : Core) (ctx t : Nat) : Option Nat :=
  findUp (fun u => c.patternAt u == ctx) (16 + (c.patFrom - t)) t

/-- The largest pending-write cycle of some registers. -/
def busyUntil (m : AMap Nat) (rs : List Nat) : Nat := rs.foldl (fun a r => max a (AMap.at m 0 r)) 0

/-- Whether TC0 of a core runs its field's overflow routine, issued by the sequencer inside the stall (R234). -/
def inRoutine (s : State) (q : Issue) : Bool :=
  q.ctx.val == 0 && (match (s.field (q.core.val / 192)).ovf with | some r => r.phase == .routine | none => false)

/-- The first fc from `u` on at which no write of an earlier bundle holds some registers back (R182). -/
def Ctx.readyAt (x : Ctx) (rs vs : List Nat) (u : Nat) : Nat :=
  max u (max (busyUntil x.busyS (rs.filter (fun r => (AMap.find x.oldS r).isNone))) (busyUntil x.busyV (vs.filter (fun r => (AMap.find x.oldV r).isNone))))

/-- The bundle at a context's program counter. -/
def Core.bundle (c : Core) (x : Ctx) : BitVec 256 := c.bundleAt x.pc

/-- The fc from which a bundle's registers are all free and its context may issue, R41 apart. A bundle that has begun to issue has its fc already. -/
def Core.bundleFrom (c : Core) (x : Ctx) (cyc : Nat) (rs vs : List Nat) : Nat :=
  match x.bun with
  | some t => x.readyAt rs vs t
  | none => x.readyAt (rs ++ bunSregs (c.bundle x)) (vs ++ bunVregs (c.bundle x)) (max cyc x.ready)

/-- The fc in which a bundle issues, for one of its slot instructions: with all its slots, none of them before its registers, the pattern entry of its vector slot, the
vector unit, the fill and copy engine and the drain stage allow it (R36, R41, R181, R182). None where it waits for something that has no known end. -/
def issueCycle (s : State) (q : Issue) (vec : Bool) (rs vs : List Nat) : Option Nat :=
  let c := s.core q.core
  let x := c.tc q.ctx
  let b := c.bundle x
  if x.loaded && !x.ended && !c.stat.furled then
    let t0 := c.bundleFrom x q.cyc rs vs
    match x.bun with
    | some _ =>
      if inRoutine s q || ((s.grp (s.corePart q.core)).inStep && !(s.grp (s.corePart q.core)).closed) then (if vec then patternCycle c q.ctx t0 else some t0) else none
    | none =>
      if c.bundleHeld b then none
      else match (if vec || bunPres b 1 then patternCycle c q.ctx (max t0 c.vecNext) else some t0) with
        | some t => if inRoutine s q || (s.grp (s.corePart q.core)).issues t then some t else none
        | none => none
  else none

/-- Whether a bundle waits under R41: the pattern entry of the fc in which it is ready names another context or none. -/
def waits41 (s : State) (q : Issue) (vec : Bool) (rs vs : List Nat) : Bool :=
  let c := s.core q.core
  let x := c.tc q.ctx
  x.bun.isNone && (vec || bunPres (c.bundle x) 1) && c.patternAt (c.bundleFrom x q.cyc rs vs) != q.ctx.val

/-- A bundle that waited under R41 is counted (R51). -/
def countWait (s : State) (q : Issue) (vec : Bool) (rs vs : List Nat) : State :=
  if waits41 s q vec rs vs then s.updCore q.core (fun c => { c with stat := { c.stat with vwait := satAdd 0xFFFF c.stat.vwait 1 } }) else s

/-- Whether the tracker has room, in fc t, for every entry that a context's bundle takes (R45). -/
def Core.bundleFits (c : Core) (i t : Nat) : Bool :=
  decide (((c.pruneTrk t).tracks.filter (fun k => k.ctx == i)).length + bunEntries (c.bundle (c.tc i)) ≤ (c.tc i).quota)

/-- A destination scalar register poisoned. -/
def poisonSReg (q : Issue) (r : Nat) (t : Nat) (s : State) : State := s.updCtx q.core q.ctx (fun x => x.wrS r poisonS t)

/-- A destination vector register poisoned. -/
def poisonVReg (q : Issue) (r : Nat) (t : Nat) (s : State) : State := s.updCtx q.core q.ctx (fun x => x.wrV r poisonV t)

/-- Destination slots poisoned from fc t, each that may be written: EMPTY, under no fence, in the block; the poison itself raises no violation (R115, R211). The spec does not say
whether Table 5.6 judges it. DESIGN CHOICE: notes/assumptions/78.md. -/
def poisonSlots (q : Issue) (o : Spo) (n t : Nat) (s : State) : State :=
  s.updCore q.core (fun c => (c.writeSpo q.ctx 5 o n (2 ^ (512 * n) - 1) true true 0 t).1)

/-- Accumulator rows poisoned. -/
def Sail.poisonRows (y : Sail) (base n : Nat) : Sail := { y with acc := (List.range n).foldl (fun m i => AMap.put m (base + i) poisonV) y.acc }

/-- What a sail-slot instruction would have written in its sail is poison: its accumulator rows, or its tile. -/
def poisonSail (q : Issue) (w : BitVec 80) (s : State) : State :=
  match bitsN w 0 6 with
  | 1 => s.updSail q.core (sailOf w) (fun y => { y with
      active := (match y.shadow with | some u => some u | none => y.active), shadow := some { kind := bitsN w 36 2, fmt := bitsN w 32 4, poison := true } })
  | 2 | 3 | 4 => s.updSail q.core (sailOf w) (fun y => y.poisonRows (mmAcc w) (min (mmRows w) (512 - mmAcc w)))
  | _ => s

/-- A bundle that the tracker turns away does not issue, and its destinations receive poison: registers, slots, accumulator rows, the shadow tile (R45, R115). -/
def poisonBundle (q : Issue) (b : BitVec 256) (t : Nat) (s : State) : State :=
  let s1 := (bunDests b).foldl (fun s d => if d.1 then poisonVReg q d.2 t s else poisonSReg q d.2 t s) s
  let s2 := (bunWrites b).foldl (fun s d => poisonSlots q d.1 d.2 t s) s1
  poisonSail q (bunSail b) s2

/-- The first slot of a bundle to issue settles the bundle's fc; where the tracker has no room for all its entries, the bundle is turned away (R45). -/
def beginBundle (s : State) (q : Issue) (t : Nat) : State :=
  let c := s.core q.core
  let x := c.tc q.ctx
  if x.bun.isSome then s
  else
    let fits := c.bundleFits q.ctx t
    let s1 := s.updCtx q.core q.ctx (fun x => { x with bun := some t, dead := !fits })
    if fits then s1 else poisonBundle q (c.bundle x) t (trkOverrun s1 q.core q.ctx)

/-- The module as a slot instruction issued in fc t finds it: what earlier accesses have done by then, the wait counted, the group's cycle count reached, due tracker
entries released, the bundle begun. -/
def issued (s : State) (q : Issue) (vec : Bool) (rs vs : List Nat) (t : Nat) : State :=
  let s0 := s.settle q.core t
  let s1 := if inRoutine s q then s0 else (countWait s0 q vec rs vs).updGrp (s.corePart q.core) (fun g => { g with cyc := max g.cyc t })
  beginBundle (s1.updCore q.core (fun c => c.pruneTrk t)) q t

/-- A slot instruction issued: `k` gives its effect, `dead` what is left of it in a bundle that the tracker turned away. Where the context cannot issue, the bundle waits
and nothing changes. -/
def issueOr (s : State) (q : Issue) (vec : Bool) (rs vs : List Nat) (dead k : State → Nat → State) : State :=
  match issueCycle s q vec rs vs with
  | none => s
  | some t =>
    let s1 := issued s q vec rs vs t
    if ((s1.core q.core).tc q.ctx).dead then dead s1 t else k s1 t

/-- A slot instruction other than the control slot's. -/
def issue (s : State) (q : Issue) (vec : Bool) (rs vs : List Nat) (k : State → Nat → State) : State := issueOr s q vec rs vs (fun s _ => s) k

/-- The bundle ends with its control slot: the program counter moves to `pc`, and later bundles see what it wrote. -/
def Ctx.leave (x : Ctx) (pc : BitVec 13) : Ctx := { x.endBundle with pc := pc }

/-- Where a context goes from the last bundle of a LOOP body: back while a running LOOP that ends there has passes left, else on; each LOOP that is done is over, and an
outer one that ends at the same bundle has its turn (R180, R204). -/
def Ctx.turn (x : Ctx) : List LoopRec → Ctx
  | [] => { x.leave (x.pc + 1#13) with loops := [] }
  | l :: r =>
    if x.pc = l.last then
      (if l.left = 0 then x.turn r else { x.leave l.first with loops := { l with left := l.left - 1 } :: r })
    else { x.leave (x.pc + 1#13) with loops := l :: r }

/-- The program counter after a bundle that does not branch. -/
def Ctx.advance (x : Ctx) : Ctx := x.turn x.loops

/-- A context's next bundle issues no earlier than cycle `t`. -/
def Ctx.holdTo (x : Ctx) (t : Nat) : Ctx := { x with ready := max x.ready t }

/-- A control-slot instruction issued: its effect, then the bundle's end. -/
def issueCtrl (s : State) (q : Issue) (rs : List Nat) (k : State → Nat → State) : State :=
  let endIt := fun (s : State) (t : Nat) => s.updCtx q.core q.ctx (fun x => x.advance.holdTo (t + 1))
  issueOr s q false rs [] endIt (fun s t => endIt (k s t) t)

/-- The first cause whose condition holds. -/
def firstCause : List (Bool × Nat) → Option Nat
  | [] => none
  | (b, c) :: r => if b then some c else firstCause r

/-- An instruction that a list of (condition, cause) pairs may make illegal: `bad` gives its poisoned destinations, `good` its effect. -/
def legalOr (s : State) (q : Issue) (slot op : Nat) (checks : List (Bool × Nat)) (bad good : State → State) : State :=
  match firstCause checks with
  | some cause => bad (illegal s q.core q.ctx slot op cause)
  | none => good s

/-- A read through an operand, its violation recorded. -/
def readOp (s : State) (q : Issue) (o : Spo) (len : Nat) : State × Nat × Bool :=
  let r := (s.core q.core).readSpo q.ctx o len
  (violateOpt (s.setCore q.core r.core) q.core q.ctx r.viol, r.data, r.poison)

/-- A write of whole slots made in fc t through an operand; `step` is 1 where the slots follow one another by an fc each. A broken bound is recorded at once, what the
slots' telltales say when the write reaches them (R99). `ord` is the write's place in Table 5.2. -/
def writeOp (s : State) (q : Issue) (ord : Nat) (o : Spo) (n d : Nat) (poison : Bool) (step t : Nat) : State :=
  let (c, v) := (s.core q.core).writeSpo q.ctx ord o n d poison false step t
  violateOpt (s.setCore q.core c) q.core q.ctx v

/-- The fc from the issue of a read to the use of its data: L of its bank (R99, Table 5.1). -/
def Core.readLat (c : Core) (ctx : Nat) (o : Spo) : Nat := match c.resolve ctx o.handle o.byte 16 false 0 with | .ok (_, a) => bankLat a | .error _ => 2

/-- A read of items that follow one another through an operand, its violation recorded. -/
def readItemsOp (s : State) (q : Issue) (o : Spo) (size count : Nat) : State × List (Nat × Bool) :=
  let (c, xs, v) := (s.core q.core).readItems q.ctx o.handle o.byte size count o.tag o.take
  (violateOpt (s.setCore q.core c) q.core q.ctx v, xs)

/-- A resident read by a unit of core m for a context, its violation recorded (R185). -/
def readResAt (s : State) (m ctx h byte len : Nat) : State × Nat × Bool :=
  let r := (s.core m).readRes ctx h byte len
  (violateOpt (s.setCore m r.core) m ctx r.viol, r.data, r.poison)

/-- An implicit resident read of an instruction. -/
def readResOp (s : State) (q : Issue) (h byte len : Nat) : State × Nat × Bool := readResAt s q.core q.ctx h byte len

end Sys2Proof.Machine
end

