-- ==== Sys2Proof/Machine/Luff.lean ====
section
/-! DEFINITION. The luff line: arming, stalling, ending and timing out of luff items (09 R225 to R230). -/

namespace Sys2Proof.Machine

/-- A source arms an item with a stall cycle; a second notice of the same item changes nothing (R225). -/
def armLuff (s : State) (p : Nat) (src : LuffSrc) (u : Nat) : State :=
  s.updGrp p (fun g => if g.items.any (fun i => i.src == src && !i.ended) then g
    else { g with items := g.items ++ [{ src := src, u := u, begun := match g.stalled with | some c => decide (u ≤ c) | none => false }] })

/-- A boundary item: it stalls the boundary interval, in which it begins (R225). -/
def armBoundary (s : State) (p : Nat) (src : LuffSrc) : State :=
  s.updGrp p (fun g => if g.items.any (fun i => i.src == src && !i.ended) then g
    else { g with items := g.items ++ [{ src := src, u := g.cyc, boundary := true, begun := !g.inStep }] })

/-- The bin of a luff source in the recorder's histogram 22 (Table 25.1). -/
def LuffSrc.code : LuffSrc → Nat
  | .corrected _ _ _ => 0
  | .escalation _ _ => 1
  | .overflow _ => 2
  | .retrain _ _ => 3
  | .late _ _ => 4
  | .arrival _ _ => 4
  | .node _ _ _ => 4
  | .sheetWait _ => 5
  | .gateWait => 5

/-- The item of a source ends. Its length in fc, a sample of the recorder, is timing that the model leaves out: a free value. -/
def endLuff (s : State) (p : Nat) (src : LuffSrc) : State :=
  let s1 := s.updGrp p (fun g => { g with items := g.items.map (fun i => if i.src == src then { i with ended := true } else i) })
  if (s.grp p).items.any (fun i => i.src == src && !i.ended) then
    let len := s.fresh.toNat
    evrIndex (evrSample { s1 with free := s1.free + 1 } 8 p noField noCore len (quarterLog len 1)) 22 p src.code
  else s1

/-- The item of a send whose flits are due from cycle u on; with no flit left, it ends (R164, R226). -/
def moveArrival (s : State) (p : Nat) (src : LuffSrc) (u : Option Nat) : State :=
  match u with
  | none => endLuff s p src
  | some u => s.updGrp p (fun g => { g with items := g.items.map (fun i =>
      if i.src == src then { i with u := u, begun := match g.stalled with | some c => decide (u ≤ c) | none => false } else i) })

/-- The smallest of some due cycles. -/
def firstDue (ds : List Nat) : Option Nat := ds.foldl (fun a d => match a with | none => some d | some u => some (min u d)) none

/-- The smallest stall cycle armed and not ended (R226). -/
def Group.nextStall (g : Group) : Option Nat :=
  (g.items.filter (fun i => !i.ended && !i.boundary)).foldl (fun a i => match a with | none => some i.u | some u => some (min u i.u)) none

end Sys2Proof.Machine
end

