-- ==== Sys2Proof/Machine/Feeder.lean ====
section
/-! DEFINITION. Descriptors, watch entries and the feeder's path of one row: rotation, capture, quantisation, accumulation (02, 03, 04). -/

namespace Sys2Proof.Machine

/-! ### The quantiser descriptor (Table 3.6) -/

def qdAfmt (d : BitVec 128) : Nat := bitsN d 0 4
def qdWfmt (d : BitVec 128) : Nat := bitsN d 4 4
def qdRot (d : BitVec 128) : Nat := bitsN d 8 2
def qdScN (d : BitVec 128) : Nat := bitsN d 16 7
def qdScRow (d : BitVec 128) : Nat := bitsN d 24 8
def qdClip (d : BitVec 128) : BitVec 16 := bits d 32 16
def qdSignBlk (d : BitVec 128) : Nat := bitsN d 48 5
def qdSignOfs (d : BitVec 128) : Nat := bitsN d 64 16
def qdScBlk (d : BitVec 128) : Nat := bitsN d 80 5

/-- Reserved bits zero and every field in its range (R70, R71). -/
def qdOk (d : BitVec 128) : Bool :=
  bitsN d 10 6 == 0 && bitsN d 23 1 == 0 && bitsN d 53 11 == 0 && bitsN d 85 43 == 0 &&
  decide (qdScN d ≤ 64) && (qdScN d == 0 || qdScRow d != 0) && !bitAt d 47 && decide ((qdClip d).toNat ≤ 0x7F80) &&
  pairOk (qdAfmt d) (qdWfmt d)

/-! ### The watch entry (Tables 4.1 and 4.2) -/

def wLo2 (w : BitVec 256) : BitVec 32 := bits w 0 32
def wHi2 (w : BitVec 256) : BitVec 32 := bits w 32 32
def wRungs (w : BitVec 256) : Nat := bitsN w 64 2
def wLayer (w : BitVec 256) : Bool := bitAt w 66
def wTensor (w : BitVec 256) : Nat := bitsN w 72 8

/-- The record of rung r, 1 to 3. -/
def wRung (w : BitVec 256) (r : Nat) : BitVec 48 := bits w (96 + 48 * (r - 1)) 48

def rQdBlk (x : BitVec 48) : Nat := bitsN x 0 5
def rQdOfs (x : BitVec 48) : Nat := bitsN x 5 11
def rRw (x : BitVec 48) : Nat := bitsN x 16 2
def rScl (x : BitVec 48) : Bool := bitAt x 18
def rTsAddr (x : BitVec 48) : Nat := 64 * bitsN x 20 23

/-- A row breaches its envelope (R81). -/
def breaches (w : BitVec 256) (n2 : BitVec 32) : Bool := nonFinite32 n2 || fLt (wHi2 w) n2 || fLt n2 (wLo2 w)

/-! ### One row through the feeder -/

/-- `n` BF16 elements from byte address `a`; those in a slot that `bad` names read as poison. -/
def rowElems (m : Memory) (bad : Nat → Bool) (a n : Nat) : List (BitVec 16) :=
  (List.range n).map (fun i => if bad ((a + 2 * i) / 64) then 0xFFFF#16 else BitVec.ofNat 16 (Memory.readN m (a + 2 * i) 2))

/-- Whether `len` bytes from address `a` touch a slot that `bad` names. -/
def touches (bad : Nat → Bool) (a len : Nat) : Bool := (List.range ((a + len - 1) / 64 - a / 64 + 1)).any (fun j => bad (a / 64 + j))

/-- Elements that a row must hold in scratchpad for a tile of K positions: the tile's slice, or the wider span around it (R64). -/
def rowSpan (rot k : Nat) : Nat := max k (rotSize rot)

/-- Spans rotated one after another. -/
def rotateAll (rot : Nat) : Nat → Nat → List (BitVec 16) → List (BitVec 16)
  | 0, _, xs => xs
  | j + 1, signs, xs =>
    let n := rotSize rot
    rotateSpan rot signs (xs.take n) ++ rotateAll rot j (signs >>> n) (xs.drop n)

/-- The slice of a row for one weight-tile operation after rotation: spans are rotated whole and the tile takes its own part (R64). Where the span is wider than the
tile, the row that ASRC names holds the whole span, from the span's start, and the tile's part begins kBase mod n elements in. DEDUCED: notes/assumptions/16.md. -/
def rotatedSlice (rot k kBase signs : Nat) (raw : List (BitVec 16)) : List (BitVec 16) :=
  let n := rotSize rot
  if n = 0 then raw.take k
  else
    let ys := rotateAll rot (rowSpan rot k / n) signs raw
    (ys.drop (if k < n then kBase % n else 0)).take k

/-- A slice captured and quantised (R67): its exact values with their scales, and what was captured. -/
def feed (d : BitVec 128) (k kBase signs had : Nat) (raw : List (BitVec 16)) : List (Num × Num) × Captured :=
  let cap := capture (qdClip d) (qdScN d) (qdScRow d) had (rotatedSlice (qdRot d) k kBase signs raw)
  (sliceValues (qdAfmt d) (quantSlice (qdAfmt d) (k / 32) cap.left), cap)

/-- The element codes that the slice is encoded in. -/
def feedCodes (d : BitVec 128) (k : Nat) (cap : Captured) : List Nat := (quantSlice (qdAfmt d) (k / 32) cap.left).flatMap (fun b => b.codes)

/-! ### The residue check (R49, R63) -/

/-- The sum of f over 0 to n - 1. -/
def sumInt (n : Nat) (f : Nat → Int) : Int := (List.range n).foldl (fun a i => a + f i) 0

/-- The checksum column at K position k: the residue of the 64 coded weights there. -/
def checkColumn (w : Nat → Nat → Int) (k : Nat) : Int := residue7 (sumInt 64 (fun n => w n k))

/-- Whether the check of a row fails: the checksum column's dot product with the row and the sum of the columns' exact dot products, which a fault has changed by `err`,
leave different residues. `w n k` is the code of the weight at column n and position k, `x k` that of the row's element. -/
def residueFails (len : Nat) (w : Nat → Nat → Int) (x : Nat → Int) (err : Int) : Bool :=
  residue7 (sumInt len (fun k => checkColumn w k * x k)) != residue7 (sumInt 64 (fun n => sumInt len (fun k => w n k * x k)) + err)

/-- The same for a multiply-mode row of element codes `xs` against a weight tile of format `wf`. -/
def mulCheckFails (af wf : Nat) (t : TileBits) (xs : List Nat) (err : Int) : Bool :=
  residueFails (tileK wf) (fun n k => intCode wf (tileElem wf t n k)) (fun k => intCode af (xs.getD k 0)) err

/-- The same for a distance-mode query of signed bytes `q` against the reference vectors: its codes are the bytes themselves (Table 3.5). -/
def distCheckFails (q : List Int) (r : Nat → List Int) (err : Int) : Bool := residueFails 64 (fun n k => (r n).getD k 0) (fun k => q.getD k 0) err

/-- An accumulator row in which a fault has changed a column: what the column then holds is a free value. -/
def spoilLane (v : VWord) (col free : Nat) : VWord := ofLanes32 (fun n => if n = col then lane32 (Config.freeValue free) n else lane32 v n)

/-- First sign bit of the span that holds K position `kBase`, counted from the sign vector's start (R65). -/
def signBit (d : BitVec 128) (k kBase : Nat) : Nat :=
  64 * qdSignOfs d + kBase / rowSpan (qdRot d) k * rowSpan (qdRot d) k

/-- A sidecar entry (Table 3.7). -/
def sideEntry (kpos : Nat) (v : BitVec 16) : Nat := v.toNat + 2 ^ 16 * (kpos % 2 ^ 16)

/-- Captured entries written from entry index `had` of a row's part of the buffer, those in a slot that may not be written left out (R112). -/
def putEntries (m : Memory) (fenced : Nat → Bool) (base : Nat) : Nat → List (Nat × BitVec 16) → Memory
  | _, [] => m
  | i, (k, v) :: r =>
    putEntries (if fenced ((base + 4 * i) / 64) then m else Memory.writeN m (base + 4 * i) (sideEntry k v) 4) fenced base (i + 1) r

/-- `n` entries of 0xFFFF_0000 (R74). -/
def blankEntries (m : Memory) (a : Nat) : Nat → Memory
  | 0 => m
  | n + 1 => blankEntries (Memory.writeN m a 0xFFFF0000 4) (a + 4) n

/-- The accumulator row as a register word. -/
def Sail.accRow (x : Sail) (r : Nat) : VReg := AMap.at x.acc {} r

/-- What the feeder captures of row r of a weight-tile operation, as its output tile stands (R67). -/
def rowFeed (d : BitVec 128) (t : Tile) (op : OpRec) (signs : Nat) (bad : Nat → Bool) (m : Memory) (o : OutTile) (r : Nat) : List (Num × Num) × Captured :=
  let k := tileK t.fmt
  feed d k op.kBase signs (AMap.at o.caps 0 r) (rowElems m bad (op.asrc + op.stride * r) (rowSpan (qdRot d) k))

/-- One row of a weight-tile operation: captured, quantised and added into its accumulator row (R29, R72). `bad` names the slots that read as poison, `sp` says that the
signs did; row 0 goes to accumulator row `acc0`. -/
def mmulRow (d : BitVec 128) (t : Tile) (op : OpRec) (acc0 signs : Nat) (bad : Nat → Bool) (sp : Bool) (r : Nat) (c : Core) (x : Sail) (o : OutTile) :
    Core × Sail × OutTile :=
  let had := AMap.at o.caps 0 r
  let (xs, cap) := rowFeed d t op signs bad c.pad o r
  let side := cap.side.map (fun p => (op.kBase + p.1, p.2))
  let row := acc0 + r
  let old := x.accRow row
  let new : VReg := if sp || touches bad (op.asrc + op.stride * r) op.stride || old.poison || t.poison then poisonV
    else ⟨accumulateRow old.val t.fmt t.data op.desc xs, false⟩
  ({ c with pad := match o.scBuf with | some b => putEntries c.pad c.fenced (b.2 + r * qdScRow d * 4) had side | none => c.pad },
   { x with acc := AMap.put x.acc row new, dist := x.dist.filter (· != row) },
   { o with caps := AMap.put o.caps r (had + side.length)
            sides := AMap.put o.sides r (AMap.at o.sides [] r ++ side)
            ovf := if cap.missed && !o.ovf.contains r then o.ovf ++ [r] else o.ovf })

/-! ### The repeat at a wider rung (R87, R89, R77) -/

/-- The weight tiles of one operation at rung `r` above the base, as 64-position tiles in ascending K order. -/
def rungTiles (c : Core) (w : BitVec 256) (qdOf : Nat → BitVec 128) (op : OpRec) : Nat → List TileBits
  | 0 => [BitVec.ofNat 33792 (Memory.readN c.pad op.tileSrc (tileBytes op.fmt))]
  | r + 1 =>
    let below := rungTiles c w qdOf op r
    let bf := if r = 0 then op.fmt else qdWfmt (qdOf r)
    let rec' := wRung w (r + 1)
    let k := tileK op.fmt
    let bytes := recordBytes k (rRw rec') (rScl rec')
    let resid := Memory.readN c.mast.data (rTsAddr rec' + op.idx * bytes) bytes
    let f := qdWfmt (qdOf (r + 1))
    if r = 0 then
      (List.range (k / 64)).map (fun j => widerTile bf (below.headD 0#33792) (64 * j) k (64 * j) resid (rRw rec') (rScl rec') f)
    else (List.range below.length).zip below |>.map (fun p => widerTile bf p.2 0 k (64 * p.1) resid (rRw rec') (rScl rec') f)

/-- A row's repeat under way: its sum, its captured entries and whether an outlier was missed. -/
structure Repeat where
  acc : VWord
  side : List (Nat × BitVec 16)
  missed : Bool
  deriving DecidableEq, Repr

/-- The K position of the first element that an operation's rows hold: its tile's, or that of the span around it (R64). -/
def OpRec.start (p : OpRec) : Nat := if tileK p.fmt < p.stride / 2 then p.kBase / (p.stride / 2) * (p.stride / 2) else p.kBase

/-- The source element of row r at a K position, kept since the base pass: that of the operation whose rows hold it, or of operation `op` (R33, R77). -/
def srcElem (m : Memory) (ops : List OpRec) (op : OpRec) (r k : Nat) : BitVec 16 :=
  let p := (ops.find? (fun p => decide (p.start ≤ k) && decide (k < p.start + p.stride / 2))).getD op
  BitVec.ofNat 16 (Memory.readN m (p.asrc + p.stride * r + 2 * (k - p.start)) 2)

/-- The elements of row r that a 64-position tile of the repeat at `kPos` needs: its slice, or the span of the rung's rotation around it. -/
def repeatElems (m : Memory) (d : BitVec 128) (ops : List OpRec) (op : OpRec) (r kPos : Nat) : List (BitVec 16) :=
  let n := rowSpan (qdRot d) 64
  (List.range n).map (fun i => srcElem m ops op r (kPos / n * n + i))

/-- One 64-position tile of the repeat added (R77: everything is recomputed with the rung's descriptor). Over an FJT2 base each 64-position tile of the wider format is a
weight-tile operation of its own, with SC_N captures of its own. DEDUCED: notes/assumptions/79.md. -/
def repeatTile (c : Core) (d : BitVec 128) (signAt : Nat → Nat) (ops : List OpRec) (op : OpRec) (r : Nat) (t : TileBits) (kPos : Nat) (a : Repeat) : Repeat :=
  let (xs, cap) := feed d 64 kPos (signAt kPos) a.side.length (repeatElems c.pad d ops op r kPos)
  ⟨accumulateRow a.acc (qdWfmt d) t op.desc xs, a.side ++ cap.side.map (fun p => (kPos + p.1, p.2)), a.missed || cap.missed⟩

/-- The 64-position tiles of an output tile's operations at rung `rung`, each with its operation and its place there. -/
def repeatTiles (c : Core) (w : BitVec 256) (qdOf : Nat → BitVec 128) (ops : List OpRec) (rung : Nat) : List (OpRec × Nat × TileBits) :=
  ops.flatMap (fun op => (List.range (tileK op.fmt / 64)).zip (rungTiles c w qdOf op rung) |>.map (fun p => (op, p.1, p.2)))

/-- A row's sum at rung `rung` as its accumulator row holds it, before the sidecar adds. -/
def repeatSum (c : Core) (w : BitVec 256) (qdOf : Nat → BitVec 128) (signAt : Nat → Nat) (ops : List OpRec) (start : VWord) (r rung : Nat) : Repeat :=
  (repeatTiles c w qdOf ops rung).foldl (fun a e => repeatTile c (qdOf rung) signAt ops e.1 r e.2.2 (e.1.kBase + 64 * e.2.1) a) ⟨start, [], false⟩

/-- A whole row repeated at rung `rung`, sidecar entries added in capture order: its value and whether an outlier was missed. -/
def repeatRow (c : Core) (w : BitVec 256) (qdOf : Nat → BitVec 128) (signAt : Nat → Nat) (ops : List OpRec) (start : VWord) (r rung : Nat) :
    VWord × Bool :=
  let d := qdOf rung
  let tiles := repeatTiles c w qdOf ops rung
  let a := repeatSum c w qdOf signAt ops start r rung
  let tileAt := fun k => ((tiles.find? (fun e => decide (e.1.kBase + 64 * e.2.1 ≤ k) && decide (k < e.1.kBase + 64 * e.2.1 + 64))).map (fun e => (e.2.2, e.1.kBase + 64 * e.2.1)))
  (a.side.foldl (fun v p => match tileAt p.1 with
      | some (t, k0) => sidecarAdd v (qdWfmt d) t (p.1 - k0) p.2
      | none => v) a.acc, a.missed)

end Sys2Proof.Machine
end

