-- ==== Sys2Proof/Machine/Place.lean ====
section
/-! DEFINITION. Placement: virtual rigs on physical cores, the column-shift map, and the translation of virtual destinations (01 R12, 09 R215 to R220). -/

namespace Sys2Proof.Machine

/-- Fields of a rig record (Table 9.3). -/
def rigWF (r : Dword) : Nat := bitsN r 0 3
def rigHF (r : Dword) : Nat := bitsN r 3 3
def rigSails4 (r : Dword) : Bool := bitAt r 6
def rigMinStep (r : Dword) : Nat := bitsN r 7 2
def rigMirx (r : Dword) : Bool := bitAt r 9
def rigMiry (r : Dword) : Bool := bitAt r 10
def rigFixed (r : Dword) : Bool := bitAt r 11
def rigMods (r : Dword) : Nat := bitsN r 20 3
def rigRank (r : Dword) : Nat := bitsN r 23 3

/-- Column-shift map (R12). -/
def physicalRow (cyv f : Nat) : Nat := if cyv < f then cyv else cyv + 1

/-- The furled row of a field's physical column; 15 where none is furled (R12, R219). -/
def FieldSt.furl (x : FieldSt) (cxp : Nat) : Nat := AMap.at x.furlRow 15 cxp

/-- Whether the grade has 40 fields, named by logical coordinates (R14, R216, R504). -/
def State.grade40 (s : State) : Bool := decide (2 ≤ s.grade)

/-- The physical field at coordinates (fx, fy); on a 40-field grade the coordinates are logical. -/
def State.fieldNo (s : State) (fx fy : Nat) : Nat := if s.grade40 then s.sys.lmap.getD (fy * 8 + fx) 48 else fy * 8 + fx

/-- Whether a field exists on the module's grade (R218). -/
def State.hasField (s : State) (n : Nat) : Bool := !s.grade40 || s.sys.lmap.contains n

/-- The coordinates of a physical field in the frame that placements use. -/
def State.fieldXY (s : State) (n : Nat) : Nat × Nat :=
  if s.grade40 then (match (List.range 40).find? (fun k => s.sys.lmap.getD k 48 == n) with | some k => (k % 8, k / 8) | none => (8, 8)) else (n % 8, n / 8)

/-- The physical coordinates of a field. -/
def physXY (n : Nat) : Nat × Nat := (n % 8, n / 8)

/-- Whether a slot's placement covers coordinates (fx, fy); a hoist that has not been placed covers none (R252). -/
def ImgSlot.covers (x : ImgSlot) (fx fy : Nat) : Bool :=
  x.st != .empty && (x.st != .hoisting || x.placed) && decide (x.ox ≤ fx) && decide (fx ≤ x.ox + rigWF x.rig) && decide (x.oy ≤ fy) && decide (fy ≤ x.oy + rigHF x.rig)

/-- The image slot of a partition whose placement covers a field. -/
def State.slotOfField (s : State) (n : Nat) : Option Nat :=
  let (fx, fy) := s.fieldXY n
  (List.range 4).find? (fun i => (((s.part (s.field n).part).slots.toList.getD i {}).covers fx fy))

/-- An image slot of a partition. -/
def State.img (s : State) (p i : Nat) : ImgSlot := (s.part p).slots.toList.getD i {}

/-- A partition's image slot changed. -/
def State.updImg (s : State) (p i : Nat) (f : ImgSlot → ImgSlot) : State :=
  s.updPart p (fun x => if h : i < 4 then { x with slots := x.slots.set i (f x.slots[i]) h } else x)

/-- Sails of the rig that a core runs: 4 or 3 (R2, R188). -/
def State.rigSails (s : State) (m : Nat) : Nat :=
  match s.slotOfField (m / 192) with
  | some i => if rigSails4 (s.img (s.corePart m) i).rig then 4 else 3
  | none => 3

/-- The physical core of virtual core (cxv, cyv) of virtual field (fxv, fyv) under a placement (R216, R218). -/
def placeCore (s : State) (x : ImgSlot) (fxv fyv cxv cyv : Nat) : Nat :=
  let fx := if x.mx then x.ox + rigWF x.rig - fxv else x.ox + fxv
  let cxp := if x.mx then 11 - cxv else cxv
  let fy := if x.my then x.oy + rigHF x.rig - fyv else x.oy + fyv
  let cym := if x.my then 14 - cyv else cyv
  let n := s.fieldNo fx fy
  n * 192 + physicalRow cym ((s.field n).furl cxp) * 12 + cxp

/-- The virtual coordinates (fxv, fyv, cxv, cyv) of a physical core under a placement; none for a spare or furled core. -/
def virtOf (s : State) (x : ImgSlot) (m : Nat) : Option (Nat × Nat × Nat × Nat) :=
  let n := m / 192
  let cxp := m % 192 % 12
  let cyp := m % 192 / 12
  let f := (s.field n).furl cxp
  if cyp = f then none
  else
    let cym := if cyp < f then cyp else cyp - 1
    let (fx, fy) := s.fieldXY n
    some (if x.mx then x.ox + rigWF x.rig - fx else fx - x.ox, if x.my then x.oy + rigHF x.rig - fy else fy - x.oy,
          if x.mx then 11 - cxp else cxp, if x.my then 14 - cym else cym)

/-- The placement that a core's image has. -/
def State.imgOf (s : State) (m : Nat) : ImgSlot :=
  match s.slotOfField (m / 192) with
  | some i => s.img (s.corePart m) i
  | none => {}

/-- The image slots of a partition whose placement covers a field. -/
def State.slotsOn (s : State) (p n : Nat) : List Nat :=
  let (fx, fy) := s.fieldXY n
  (List.range 4).filter (fun i => (s.img p i).covers fx fy)

/-- Whether a physical column has a spare: its furled row is 15 and its core there is not furled (R219). -/
def State.hasSpare (s : State) (n cxp : Nat) : Bool :=
  (s.field n).furl cxp == 15 && !(s.core (n * 192 + 15 * 12 + cxp)).stat.furled && !(s.field n).spareLost.contains cxp

/-- Hops and seam crossings between two physical cores (R155). -/
def hops (_s : State) (a b : Nat) : Nat × Nat :=
  let (fx, fy) := physXY (a / 192)
  let (gx, gy) := physXY (b / 192)
  let xa := fx * 12 + a % 12
  let xb := gx * 12 + b % 12
  let ya := fy * 16 + a % 192 / 12
  let yb := gy * 16 + b % 192 / 12
  ((max xa xb - min xa xb) + (max ya yb - min ya yb), (max fx gx - min fx gx) + (max fy gy - min fy gy))

/-- Arrival of flit i of a send issued in cycle `t` (R156). -/
def arrival (t ls h sx i : Nat) : Nat := t + ls + h + 4 * sx + 1 + (if sx = 0 then 1 else 2) * i

/-! ### Isolation along the route (R155, R167) -/

/-- Numbers from a to b, in either direction, both ends included. -/
def spanFrom (a b : Nat) : List Nat :=
  if a ≤ b then (List.range (b - a + 1)).map (a + ·) else (List.range (a - b + 1)).map (a - ·)

/-- The first router that the packet reaches in each field on its way: along X, then along Y. -/
def routeRouters (_s : State) (a b : Nat) : List Nat :=
  let (fx, fy) := physXY (a / 192)
  let (gx, gy) := physXY (b / 192)
  let row := a % 192 / 12
  let xs := (spanFrom fx gx).drop 1 |>.map (fun x => (fy * 8 + x) * 192 + row * 12 + (if fx < gx then 0 else 11))
  let ys := (spanFrom fy gy).drop 1 |>.map (fun y => (y * 8 + gx) * 192 + (if fy < gy then 0 else 15) * 12 + b % 12)
  [a] ++ xs ++ ys ++ [b]

/-- The first router on the way whose field belongs to another partition. -/
def refusedAt (s : State) (p a b : Nat) : Option Nat :=
  (routeRouters s a b).find? (fun m => !(s.field (m / 192)).owned || s.corePart m != p)

/-- The router at global coordinates (R155). -/
def routerAt (x y : Nat) : Nat := (y / 16 * 8 + x / 12) * 192 + y % 16 * 12 + x % 12

/-- Global coordinates of a router (R155). -/
def globalXY (m : Nat) : Nat × Nat := (m / 192 % 8 * 12 + m % 12, m / 192 / 8 * 16 + m % 192 / 12)

/-- Every router on the way from a to b: along X on the source's row, then along Y (R155). -/
def routeAll (a b : Nat) : List Nat :=
  let (xa, ya) := globalXY a
  let (xb, yb) := globalXY b
  (spanFrom xa xb).map (fun x => routerAt x ya) ++ ((spanFrom ya yb).drop 1).map (fun y => routerAt xb y)

/-- The seam and link between two neighbouring routers, where they lie in different fields (R154, R176). -/
def linkBetween (a b : Nat) : Option (Nat × Nat) :=
  let (fx, fy) := physXY (a / 192)
  let (gx, gy) := physXY (b / 192)
  if fx ≠ gx then some (fy * 7 + min fx gx, a % 192 / 12) else if fy ≠ gy then some (42 + min fy gy * 8 + fx, a % 12) else none

/-- The seam links that a packet from a to b crosses. -/
def routeLinks (a b : Nat) : List (Nat × Nat) := let r := routeAll a b; (r.zip (r.drop 1)).filterMap (fun x => linkBetween x.1 x.2)

/-- A packet refused: logged and counted, and the sending core fails its step (R167). -/
def isolate (s : State) (p src rtr : Nat) (fails : Bool) : State :=
  let s1 := fabLog s rtr 1 0 0 p (s.corePart rtr) 0
  let s2 := { s1 with fab := { s1.fab with isoTotal := satAdd 0xFFFFFFFF s1.fab.isoTotal 1 } }
  if fails && decide (src < 9216) then coreFault s2 src 0x07 else s2

/-! ### Rim and seam links (R154, R165, R166) -/

/-- The router at a link's end in the first of its seam's fields, or in the field beside the rim (R176). -/
def seamEnd (k l : Nat) : Nat :=
  if k < 42 then (k / 7 * 8 + k % 7) * 192 + 12 * l + 11
  else if k < 82 then (k - 42) * 192 + 180 + l
  else ((k - 82) * 8 + 7) * 192 + 12 * l + 11

/-- The router that receives what a packet from a to b brings through a seam link (R155, R176). -/
def seamReceiver (k l a b : Nat) : Nat :=
  let (fx, fy) := physXY (a / 192)
  let (gx, gy) := physXY (b / 192)
  if k < 42 ∧ fx < gx then (k / 7 * 8 + k % 7 + 1) * 192 + 12 * l
  else if 42 ≤ k ∧ k < 82 ∧ fy < gy then (k - 42 + 8) * 192 + l
  else seamEnd k l

/-- The seam count of uncorrectable flits, its log record, and the step-fail line of the flit's partition (R165). -/
def seamUe (s : State) (p m : Nat) (k link : Nat) : State :=
  let s1 := fabLog s m 0 k link 0 0 0
  let s2 := { s1 with fab := { s1.fab with ueTotal := satAdd 0xFFFFFFFF s1.fab.ueTotal 1, seams := AMap.upd s1.fab.seams {} k (fun x => { x with ueCnt := satAdd 0xFF x.ueCnt 1 }) } }
  failStep (raiseFault s2 p 0x05 (m / 192) (m % 192)) p 0x05

/-- The router at the east rim on a core's row, and the rim link that joins it (R154, R161). -/
def rimRouter (m : Nat) : Nat := routerAt 95 (globalXY m).2
def rimLink (m : Nat) : Nat × Nat := (82 + m / 192 / 8, m % 192 / 12)

/-- Where a flit enters the mesh: its source, or for one from another module the rim on its destination's row (R359). -/
def Flit.from (f : Flit) : Nat := if f.src < 9216 then f.src else rimRouter f.dst

/-- The rim and seam links that a flit crosses. -/
def Flit.links (f : Flit) : List (Nat × Nat) := (if f.src < 9216 then [] else [rimLink f.dst]) ++ routeLinks f.from f.dst

/-- The first of some links that has lost lane lock and is not retrained: it delivers its flits as poison (R165). -/
def lostOn (s : State) (ls : List (Nat × Nat)) : Option (Nat × Nat) :=
  ls.find? (fun x => let l := AMap.at (AMap.at s.fab.seams {} x.1).links {} x.2; !l.up && (l.pend || l.failed))

/-- The first such link on a packet's way. -/
def lostLink (s : State) (a b : Nat) : Option (Nat × Nat) := lostOn s (routeLinks a b)

/-- The fields on the two sides of a seam; a rim row has one (R176). -/
def seamFields (_s : State) (k : Nat) : List Nat :=
  if k < 42 then [k / 7 * 8 + k % 7, k / 7 * 8 + k % 7 + 1]
  else if k < 82 then [k - 42, k - 42 + 8]
  else [(k - 82) * 8 + 7]

def State.seam (s : State) (k : Nat) : Seam := AMap.at s.fab.seams {} k

def State.updSeam (s : State) (k : Nat) (f : Seam → Seam) : State := { s with fab := { s.fab with seams := AMap.upd s.fab.seams {} k f } }

def State.updSeamLink (s : State) (k l : Nat) (f : SeamLink → SeamLink) : State := s.updSeam k (fun x => { x with links := AMap.upd x.links {} l f })

/-- The one stepping partition on both sides of a seam, if there is one. -/
def seamPart (s : State) (k : Nat) : Option Nat :=
  match seamFields s k with
  | [a, b] => if (s.field a).owned && (s.field b).owned && (s.field a).part == (s.field b).part && (s.grp (s.field a).part).stepping then some (s.field a).part else none
  | _ => none

/-- Whether one of some links retrains at once: it is marked and joins fields of different partitions, fields that do not step, or the rim. Rim transit across it waits (R166). -/
def waitsOn (s : State) (ls : List (Nat × Nat)) : Bool :=
  ls.any (fun x => let l := AMap.at (AMap.at s.fab.seams {} x.1).links {} x.2; l.pend && !l.failed && (seamPart s x.1).isNone)

end Sys2Proof.Machine
end

