-- ==== Sys2Proof/Machine/Sail.lean ====
section
/-! DEFINITION. The sail-slot instructions (08 R188 to R191, 02 R24 to R35). -/

namespace Sys2Proof.Machine

/-- Causes common to the sail slot: SAIL below the rig's count and reserved bits from bit `lo` of width `n` zero. -/
def sailChecks (s : State) (q : Issue) (w : BitVec 80) (resv : List (Nat × Nat)) : List (Bool × Nat) :=
  [(!decide (sailOf w < s.rigSails q.core), 7), (resv.any (fun r => bitsN w r.1 r.2 != 0), 2)]

/-- A sail-slot instruction: illegal causes, with the poisoned destinations of `bad`; then ownership, without which it does not execute and what it would have written in
the sail is poison too (R40, R115); then its effect on the core. -/
def sailOp (s : State) (q : Issue) (w : BitVec 80) (checks : List (Bool × Nat)) (bad : State → State) (good : State → State) : State :=
  legalOr s q 0 (bitsN w 0 6) checks bad (fun s =>
    if ((s.core q.core).sail (sailOf w)).owner = q.ctx.val then good s
    else poisonSail q w (bad (violate s q.core q.ctx { kind := 5 })))

/-- SNOP (R179). -/
def execSnop (q : Issue) (_w : BitVec 80) (s : State) : Out := .next (issue s q false [] [] (fun s _ => s))

/-- Bytes of a tile load by KIND (R188). -/
def loadBytes (kind fmt : Nat) : Nat := match kind with | 0 => tileBytes fmt | 1 => 4096 | _ => 256

/-- A tile in the shadow tile; a shadow tile that it finds there goes to the cells (R26). -/
def Sail.shade (x : Sail) (t : Tile) : Sail := { x with active := (match x.shadow with | some u => some u | none => x.active), shadow := some t }

/-- MLDW (R26, R188): the tile is read into the shadow tile; an entry is held until the load completes. KIND 1 and 2 load no weights, and their WFMT names no format: any value is
legal there (DESIGN CHOICE: notes/assumptions/111.md). -/
def execMldw (q : Issue) (w : BitVec 80) (s : State) : Out :=
  let o := spoAt w 8
  let f := bitsN w 32 4
  let kind := bitsN w 36 2
  let spoil := fun (s : State) => s.updSail q.core (sailOf w) (fun x => x.shade { kind := kind, fmt := f, poison := true })
  .next (issue s q false [] [] (fun s _ =>
    sailOp s q w (sailChecks s q w [(38, 3), (41, 39)] ++ [(kind == 3, 2), (!o.reads, 3), (kind == 0 && !fmtOk f, 5)]) id (fun s =>
        match (s.core q.core).takeTrk q.ctx .tileLoad 1 none with
        | none => spoil (trkOverrun s q.core q.ctx)
        | some (c, id) =>
          let src := match c.resolve q.ctx o.handle o.byte (loadBytes kind f) false 0 with | .ok (_, a) => a | .error _ => 0
          let (s1, d, p) := readOp (s.setCore q.core c) q o (loadBytes kind f)
          s1.updSail q.core (sailOf w) (fun x =>
            { x.shade { kind := kind, fmt := f, data := BitVec.ofNat 33792 d, src := src, poison := p } with loads := x.loads ++ [id] }))))

/-- A load completes: the oldest one's entry is released, and with the last the sail switches to the tile at the row boundary (R26, R44). -/
def Core.loadDone (c : Core) (i : Nat) : Core :=
  let x := c.sail i
  match x.loads with
  | [] => c
  | id :: r =>
    let x1 := if r.isEmpty then { x with active := (match x.shadow with | some t => some t | none => x.active), shadow := none, opWait := false } else x
    (c.setSail i { x1 with loads := r }).freeTrk id

/-- The sail's tile for the operation that issues now: that of the last load in program order. DEDUCED: notes/assumptions/10.md. -/
def Sail.resident (x : Sail) : Option Tile := match x.shadow with | some t => some t | none => x.active

/-- The sail switched to that tile. -/
def Sail.switched (x : Sail) : Sail := { x with active := x.resident, shadow := none }

/-- Fc of the rotation stage (Table 2.4). -/
def rotLat (rot : Nat) : Nat := match rot with | 0 => 0 | 1 => 3 | 2 => 4 | _ => 5

/-- An operation of `rows` rows issued in fc t at `rate` fc a row, its first row reaching the array's end `lat` fc later: when it completes, unless it waits for its tile
(R27, R40). -/
def Sail.running (x : Sail) (t rows rate lat : Nat) : Sail :=
  { x with opEnd := max x.opEnd (t + (rows - 1) * rate + lat), opWait := x.opWait || !x.loads.isEmpty }

/-- The sidecar buffer of an output tile pre-filled: every slot must be EMPTY, under no fence, and stays EMPTY; one that is not raises an OVERWRITE and keeps its contents
(R74, R112). The physical handle and the byte address; none where the buffer breaks a bound. -/
def prefill (c : Core) (ctx blk bytes : Nat) (x : Byte) : Core × Option (Nat × Nat) × Option Viol :=
  match c.resolve ctx blk 0 bytes true 2 with
  | .error v => (c, none, some (v.tagged x))
  | .ok (ph, a) =>
    let slots := (List.range (ceilDiv bytes 64)).map (fun i => a / 64 + i)
    let bad := fun k => (c.tell k).st != .empty || c.fenced k
    let pad := slots.foldl (fun m k => if bad k then m else blankEntries m (64 * k) (min 16 ((a + bytes - 64 * k) / 4))) c.pad
    ({ c with pad := pad }, some (ph, a),
     (slots.find? bad).map (fun k => { kind := 3, handle := ph, slot := k, expTag := x, foundTag := (c.tell k).tag, foundSt := (c.tell k).st.code, mode := 2 }))

/-- The sidecar buffer's slots set FULL with the operation's tag, those under a fence left alone (R112). -/
def sealBuffer (c : Core) (a bytes : Nat) (x : Byte) : Core :=
  (List.range (ceilDiv bytes 64)).foldl (fun c i => if c.fenced (a / 64 + i) then c else c.setTell (a / 64 + i) ⟨.full, x⟩) c

/-- Rows of an operation, one after another, the first into accumulator row `acc0` (Table 8.5). -/
def mmulRows (d : BitVec 128) (t : Tile) (op : OpRec) (acc0 signs : Nat) (bad : Nat → Bool) (sp : Bool) : Nat → Nat → Core × Sail × OutTile → Core × Sail × OutTile
  | 0, _, a => a
  | n + 1, r, a => mmulRows d t op acc0 signs bad sp n (r + 1) (mmulRow d t op acc0 signs bad sp r a.1 a.2.1 a.2.2)

/-- The watch entry's place in scratchpad, which names the tensor whose weight tiles are counted (R86). -/
def tensorKey (c : Core) (ctx : Nat) (w : BitVec 80) : Nat :=
  match c.resolve ctx (mmQhnd w) (32 * bitsN w 67 10) 32 false 0 with | .ok (_, a) => a | .error _ => 0

/-- The watch entry read, the tracker entry taken and the buffer pre-filled when an output tile opens (R74, R190). None where the quota is spent. -/
def openTile (s : State) (q : Issue) (w : BitVec 80) (d : BitVec 128) : Option State :=
  let (s1, we, _) := readResOp s q (mmQhnd w) (32 * bitsN w 67 10) 32
  match (s1.core q.core).takeTrk q.ctx .outTile 1 none with
  | none => none
  | some (c, id) =>
    let x := c.sail (sailOf w)
    let rows := mmRows w
    let rowNums := (List.range rows).map (fun i => mmAcc w + i)
    let init := if mmStart w = 1 then [] else rowNums.foldl (fun m r => AMap.put m r (x.accRow r)) []
    let acc := if mmStart w = 1 then rowNums.foldl (fun m r => AMap.put m r ({} : VReg)) x.acc else x.acc
    let (c1, sc, v) := if qdScN d = 0 then (c, none, none) else prefill c q.ctx (qdScBlk d) (rows * qdScRow d * 4) (tagOf (c.tc q.ctx).seq (spoAt w 8).tag)
    let tile : OutTile := { ctx := q.ctx, rows := rows, acc0 := mmAcc w, watch := BitVec.ofNat 256 we, key := tensorKey c q.ctx w, qd := d, trk := id, scBuf := sc, init := init }
    some (violateOpt (s1.setCore q.core (c1.setSail (sailOf w) { x with acc := acc, tile := some tile })) q.core q.ctx v)

/-- A residue mismatch on virtual sail i: counted on the core, the physical sail no longer good, and the step failed; the masthead acts at the boundary (R49, R50). -/
def sailCheckFault (s : State) (m i : Nat) : State :=
  coreFault (s.updCore m (fun c => { c with stat := { c.stat with
    sailChk := satAdd 0xFF c.stat.sailChk 1, sailOk := setBits c.stat.sailOk (bitsN c.stat.sailMap (2 * i) 2) 1 0
    checkBad := if c.stat.checkBad.contains i then c.stat.checkBad else c.stat.checkBad ++ [i] } })) m 0x10

/-- What a fault in a sail does to the accumulator row it hits, and to the check of that row, which fails or does not. -/
def upsetRow (s : State) (m i row : Nat) (u : Upset) (fails : Bool) : State :=
  let s1 := if u.err = 0 then s else ({ s with free := s.free + 1 } : State).updSail m i (fun y =>
    if (y.accRow row).poison then y else { y with acc := AMap.put y.acc row ⟨spoilLane (y.accRow row).val u.col s.free, false⟩ })
  if fails then sailCheckFault s1 m i else s1

/-- The record index of a weight tile among its tensor's, and whether the tile is used for the first time: a tile loaded again from the same place, for another output tile, keeps its
record (R86). DEDUCED: notes/assumptions/80.md. -/
def recordOf (c : Core) (t : Tile) (key : Nat) : Nat × Bool :=
  let mine := c.tsTiles.filter (fun x => x.key == key)
  match findUp (fun i => mine[i]?.any (fun x => x.src == t.src && x.data == t.data)) mine.length 0 with
  | some i => (i, false)
  | none => (mine.length, true)

/-- The rows of one MMUL streamed: source reads with PEEK, sums, captures, fence and buffer (R29, R112, R190). Its K position is that of its output tile, counted from the tile's first
operation (R65, Table 3.7); of descriptors that differ in one output tile the first has named the buffer and the last gives SC_ROW (R74). DESIGN CHOICE: notes/assumptions/111.md.
The rows are looked at together, at issue. DEDUCED: notes/assumptions/6.md. -/
def streamRows (s : State) (q : Issue) (w : BitVec 80) (d : BitVec 128) (t : Tile) (o : OutTile) (up : Option Upset) (cyc : Nat) : State :=
  let asrc := spoAt w 8
  let k := tileK t.fmt
  let stride := 2 * rowSpan (qdRot d) k
  let rows := mmRows w
  let kBase := (o.ops.map (fun p => tileK p.fmt)).foldl (· + ·) 0
  let (s1, signs, sp) := if qdRot d = 0 then (s, 0, false)
    else readResOp s q (qdSignBlk d) (signBit d k kBase / 8) (rowSpan (qdRot d) k / 8)
  let c1 := s1.core q.core
  let r := c1.readSpo q.ctx asrc (stride * rows)
  let x := tagOf (c1.tc q.ctx).seq asrc.tag
  let place := c1.resolve q.ctx asrc.handle asrc.byte (stride * rows) false 0
  let a := match place with | .ok (_, a) => a | .error _ => 0
  let bad := fun k => match place with | .ok (ph, _) => (c1.readSlot ph k x false).2.1 | .error _ => true
  let (idx, new) := recordOf c1 t o.key
  let op : OpRec := { fmt := t.fmt, tileSrc := t.src, asrc := a, stride := stride, kBase := kBase, desc := bitAt w 49, idx := idx }
  let y0 := { (c1.sail (sailOf w)).running cyc rows (rowFc (qdAfmt d) t.fmt) (bankLat a + rotLat (qdRot d) + 12) with
    active := some t, shadow := none }
  let (c2, y, o2) := mmulRows d t op (mmAcc w) signs bad sp rows 0 (c1, y0, { o with qd := d })
  let lo := a / 64
  let hi := (a + stride * rows - 1) / 64
  let fence := match place with
    | .ok _ => (match o2.fence with | none => some (lo, hi) | some (l, h) => some (min l lo, max h hi))
    | .error _ => o2.fence
  let o3 := { o2 with ops := o2.ops ++ [op], fence := fence, last := bitAt w 50, scTag := x }
  let c3 := { c2.setSail (sailOf w) { y with tile := some o3 } with tsTiles := if new then c2.tsTiles ++ [⟨o.key, t.src, t.data⟩] else c2.tsTiles }
  let c4 := match o3.scBuf with
    | some b => if bitAt w 50 then sealBuffer c3 b.2 (o3.rows * qdScRow d * 4) x else c3
    | none => c3
  let s2 := violateOpt (s1.setCore q.core c4) q.core q.ctx r.viol
  match up with
  | some u => if u.row < rows then
      upsetRow s2 q.core (sailOf w) (mmAcc w + u.row) u
        (mulCheckFails (qdAfmt d) t.fmt t.data (feedCodes d k (rowFeed d t op signs bad c1.pad o u.row).2) u.err)
      else s2
  | none => s2

/-- MMUL (R190). `up` is the fault, if any, that strikes one of its block dot products; the residue check of R49 is computed from it. -/
def execMmul (q : Issue) (w : BitVec 80) (up : Option Upset) (s : State) : Out :=
  let asrc := spoAt w 8
  .next (issue s q false [] [] (fun s t' =>
    let x := (s.core q.core).sail (sailOf w)
    let (_, dn, _) := readResOp s q (mmQhnd w) (16 * bitsN w 56 11) 16
    let d : BitVec 128 := BitVec.ofNat 128 dn
    let opens := mmStart w == 1 || mmStart w == 2
    sailOp s q w (sailChecks s q w [(77, 3)] ++
        [(mmStart w == 3, 2), (asrc.mode != 0, 3), (decide (512 < mmAcc w + mmRows w), 2)]) id (fun s =>
      let (s1, _, _) := readResOp s q (mmQhnd w) (16 * bitsN w 56 11) 16
      legalOr s1 q 0 2
        [(!qdOk d, 5),
         ((match x.resident with | some t => t.kind != 0 || t.fmt != qdWfmt d | none => true), 5),
         (!opens && x.tile.isNone, 6), (opens && x.tile.isSome, 6)] id (fun s =>
        match (if opens then openTile s q w d else some s) with
        | none => poisonSail q w (trkOverrun s q.core q.ctx)
        | some s2 =>
          match x.resident, ((s2.core q.core).sail (sailOf w)).tile with
          | some t, some o => streamRows s2 q w d t o up t'
          | _, _ => s2))))

/-- FP32 rows loaded into accumulator rows from row `base` on. -/
def loadAccRows : List (Nat × Bool) → Nat → Sail → Sail
  | [], _, x => x
  | (d, p) :: r, base, x =>
    loadAccRows r (base + 1) { x with acc := AMap.put x.acc base (if p then poisonV else ⟨BitVec.ofNat 2048 d, false⟩), dist := x.dist.filter (· != base) }

/-- MACCL (R189): FP32 rows from scratchpad into the accumulator. -/
def execMaccl (q : Issue) (w : BitVec 80) (s : State) : Out :=
  let o := spoAt w 8
  .next (issue s q false [] [] (fun s _ =>
    sailOp s q w (sailChecks s q w [(47, 33)] ++ [(!o.reads, 3), (decide (512 < mmAcc w + mmRows w), 2)]) id (fun s =>
      let (s1, xs) := readItemsOp s q o 256 (mmRows w)
      s1.updSail q.core (sailOf w) (loadAccRows xs (mmAcc w)))))

/-- A vector of 64 signed bytes at byte offset `o` of some bits. -/
def bytes64 (d o : Nat) : List Int := (List.range 64).map (fun i => signedOf 8 (d >>> (8 * (o + i))))

/-- One query row against the resident reference vectors, added into an accumulator row; whether any lane saturated (R34). -/
def distRow (sq : Bool) (t : TileBits) (qd : Nat) (acc : VWord) : VWord × Bool :=
  let rs := (List.range 64).map (fun n =>
    satDist (signedOf 32 (lane32 acc n).toNat + distance sq (bytes64 qd 0) (bytes64 t.toNat (64 * n))))
  (ofLanes32 (fun n => (rs.getD n (0#32, false)).1), rs.any (·.2))

/-- Query rows one after another, the first into accumulator row `base`. -/
def distRows (sq fresh : Bool) (t : Tile) : List (Nat × Bool) → Nat → AMap VReg × Bool → AMap VReg × Bool
  | [], _, a => a
  | (d, p) :: r, base, a =>
    let old : VReg := if fresh then {} else AMap.at a.1 {} base
    let (v, sat) := distRow sq t.data d old.val
    distRows sq fresh t r (base + 1)
      (AMap.put a.1 base (if p || old.poison || t.poison then poisonV else ⟨v, false⟩), a.2 || sat)

/-- SDIST (R34, R191). START 0b00 on a sail where no SDIST has opened an accumulation is illegal, cause CONTEXT, as an MMUL's is (DESIGN CHOICE: notes/assumptions/111.md). `up` is the fault, if any, that strikes one of its dot products; the residue check of R49 is computed from it, of the query's dot products with
the reference vectors in either form. -/
def execSdist (q : Issue) (w : BitVec 80) (up : Option Upset) (s : State) : Out :=
  let o := spoAt w 8
  .next (issue s q false [] [] (fun s t' =>
    let x := (s.core q.core).sail (sailOf w)
    sailOp s q w (sailChecks s q w [(50, 30)] ++
        [(mmStart w == 3, 2), (!o.reads, 3), (decide (512 < mmAcc w + mmRows w), 2),
         ((match x.resident with | some t => t.kind != 1 | none => true), 5), (mmStart w == 0 && !x.distOpen, 6)]) id (fun s =>
      let lat := (s.core q.core).readLat q.ctx o
      let (s1, xs) := readItemsOp s q o 64 (mmRows w)
      match x.resident with
      | none => s1
      | some t =>
        let (acc, sat) := distRows (bitAt w 49) (mmStart w == 1) t xs (mmAcc w) (x.acc, false)
        let rows := (List.range (mmRows w)).map (mmAcc w + ·)
        let s2 := (s1.updSail q.core (sailOf w) (fun y => { (y.running t' (mmRows w) 4 (lat + 12)).switched with
            acc := acc, distOpen := true, dist := y.dist ++ rows.filter (fun r => !y.dist.contains r) })).updCtx q.core q.ctx
          (fun c => { c with distSat := c.distSat || sat })
        match up with
        | some u => if u.row < mmRows w then
            upsetRow s2 q.core (sailOf w) (mmAcc w + u.row) u (distCheckFails (bytes64 (xs.getD u.row (0, false)).1 0) (fun n => bytes64 t.data.toNat (64 * n)) u.err)
            else s2
        | none => s2)))

/-- The 64-bit mask of the lanes that meet a condition. -/
def maskOf (p : Nat → Bool) : Dword := BitVec.ofNat 64 ((List.range 64).foldr (fun i a => b2n (p i) + 2 * a) 0)

/-- SMAX and SMIN: each element from vA or vB, and the bit that names vB (R35, R188). -/
def cmpPick (q : Issue) (w : BitVec 80) (takeB : BitVec 32 → BitVec 32 → Bool) (s : State) : State :=
  issue s q false [cmpSD w] [cmpVA w, cmpVB w, cmpVD w] (fun s t =>
    sailOp s q w (sailChecks s q w [(28, 4), (37, 43)])
      (fun s => poisonSReg q (cmpSD w) (t + 2) (poisonVReg q (cmpVD w) (t + 2) s)) (fun s =>
        s.updCtx q.core q.ctx (fun x =>
          let a := x.rdV (cmpVA w)
          let b := x.rdV (cmpVB w)
          if a.poison || b.poison then (x.wrV (cmpVD w) poisonV (t + 2)).wrS (cmpSD w) poisonS (t + 2)
          else
            let fromB := fun i => takeB (lane32 a.val i) (lane32 b.val i)
            (x.wrV (cmpVD w) ⟨ofLanes32 (fun i => if fromB i then lane32 b.val i else lane32 a.val i), false⟩ (t + 2)).wrS
              (cmpSD w) ⟨maskOf fromB, false⟩ (t + 2))))

/-- SMAX. -/
def execSmax (q : Issue) (w : BitVec 80) (s : State) : Out := .next (cmpPick q w (fun a b => decide (a.toNat < b.toNat)) s)

/-- SMIN. -/
def execSmin (q : Issue) (w : BitVec 80) (s : State) : Out := .next (cmpPick q w (fun a b => decide (b.toNat < a.toNat)) s)

/-- SRANK (R35): ranks of the resident key vector. -/
def execSrank (q : Issue) (w : BitVec 80) (s : State) : Out :=
  .next (issue s q false [] [cmpVD w] (fun s t =>
    let x := (s.core q.core).sail (sailOf w)
    sailOp s q w (sailChecks s q w [(28, 4), (37, 43)] ++ [((match x.resident with | some u => u.kind != 2 | none => true), 5)])
      (poisonVReg q (cmpVD w) (t + 8)) (fun s =>
        match x.resident with
        | none => s
        | some u =>
          let keys := (List.range 64).map (fun i => (bits u.data (32 * i) 32 : BitVec 32))
          let v : VReg := if u.poison then poisonV else ⟨ofLanes32 (fun i => BitVec.ofNat 32 (rankOf keys i)), false⟩
          (s.updSail q.core (sailOf w) Sail.switched).updCtx q.core q.ctx (fun c => c.wrV (cmpVD w) v (t + 8)))))

/-- STHR (R35): keys of vA at or above the key in s[SB][31:0], counted. -/
def execSthr (q : Issue) (w : BitVec 80) (s : State) : Out :=
  .next (issue s q false [cmpSB w, cmpSD w] [cmpVA w] (fun s t =>
    sailOp s q w (sailChecks s q w [(28, 4), (37, 43)]) (poisonSReg q (cmpSD w) (t + 2)) (fun s =>
      s.updCtx q.core q.ctx (fun x =>
        let a := x.rdV (cmpVA w)
        let b := x.rdS (cmpSB w)
        let n := ((List.range 64).filter (fun i => decide (bitsN b.val 0 32 ≤ (lane32 a.val i).toNat))).length
        x.wrS (cmpSD w) (if a.poison || b.poison then poisonS else ⟨BitVec.ofNat 64 n, false⟩) (t + 2)))))

end Sys2Proof.Machine
end

