-- ==== Sys2Proof/Machine/Vector.lean ====
section
/-! DEFINITION. The arithmetic, comparison, conversion, reduction and load/store instructions of the vector slot (08 R192, R193, R196, R197). -/

namespace Sys2Proof.Machine

/-- Causes common to the register forms: TY not reserved, bits [43:32] zero, and TY among the types the opcode takes. -/
def vecChecks (w : BitVec 44) (tys : List Nat) : List (Bool × Nat) :=
  [(bitsN w 32 12 != 0, 2), (!tys.contains (vTy w), 2)]

/-- Operand B: vB, or s[VB] broadcast to every lane (R193). -/
def operandB (x : Ctx) (w : BitVec 44) : VReg :=
  if vBs w then
    let r := x.rdS (vB w)
    ⟨if vTy w = 1 then ofLanes16 (fun _ => bits r.val 0 16) else ofLanes32 (fun _ => bits r.val 0 32), r.poison⟩
  else x.rdV (vB w)

/-- A lane operation for the three operand types, over 64 or 128 lanes. -/
def byType (ty : Nat) (f : BitVec 32 → BitVec 32 → BitVec 32 → BitVec 32) (h : BitVec 16 → BitVec 16 → BitVec 16 → BitVec 16)
    (i : BitVec 32 → BitVec 32 → BitVec 32 → BitVec 32) (a b c : VWord) : VWord :=
  match ty with
  | 0 => ofLanes32 (fun n => f (lane32 a n) (lane32 b n) (lane32 c n))
  | 1 => ofLanes16 (fun n => h (lane16 a n) (lane16 b n) (lane16 c n))
  | _ => ofLanes32 (fun n => i (lane32 a n) (lane32 b n) (lane32 c n))

/-- A lanewise instruction: operands read, result written after `lat` cycles, poison carried (R115). -/
def lanewise (q : Issue) (w : BitVec 44) (tys : List Nat) (lat : Nat) (useC : Bool) (f : VWord → VWord → VWord → VWord) (s : State) : State :=
  issue s q true (if vBs w then [vB w] else []) ([vD w, vA w] ++ (if vBs w then [] else [vB w]) ++ (if useC then [vC w] else [])) (fun s t =>
    legalOr s q 1 (vOp w) (vecChecks w tys) (poisonVReg q (vD w) (t + lat)) (fun s =>
      s.updCtx q.core q.ctx (fun x =>
        let a := x.rdV (vA w)
        let b := operandB x w
        let c : VReg := if useC then x.rdV (vC w) else {}
        x.wrV (vD w) (if a.poison || b.poison || c.poison then poisonV else ⟨f a.val b.val c.val, false⟩) (t + lat))))

/-- VNOP (R179). -/
def execVnop (q : Issue) (_w : BitVec 44) (s : State) : Out := .next (issue s q true [] [] (fun s _ => s))

/-- VADD. -/
def execVadd (q : Issue) (w : BitVec 44) (s : State) : Out :=
  .next (lanewise q w [0, 1, 2] 4 false
    (byType (vTy w) (fun a b _ => fadd a b) (fun a b _ => (Num.add (dec16 a) (dec16 b)).to16) (fun a b _ => a + b)) s)

/-- VSUB. -/
def execVsub (q : Issue) (w : BitVec 44) (s : State) : Out :=
  .next (lanewise q w [0, 1, 2] 4 false
    (byType (vTy w) (fun a b _ => fsub a b) (fun a b _ => (Num.add (dec16 a) (Num.neg (dec16 b))).to16) (fun a b _ => a - b)) s)

/-- VMUL. -/
def execVmul (q : Issue) (w : BitVec 44) (s : State) : Out :=
  .next (lanewise q w [0, 1, 2] 4 false
    (byType (vTy w) (fun a b _ => fmul a b) (fun a b _ => (Num.mul (dec16 a) (dec16 b)).to16) (fun a b _ => a * b)) s)

/-- VFMA: rounded once. -/
def execVfma (q : Issue) (w : BitVec 44) (s : State) : Out :=
  .next (lanewise q w [0, 1, 2] 4 true
    (byType (vTy w) ffma (fun a b c => (Num.add (Num.mul (dec16 a) (dec16 b)) (dec16 c)).to16) (fun a b c => a * b + c)) s)

/-- VMIN: FP32 and INT32. -/
def execVmin (q : Issue) (w : BitVec 44) (s : State) : Out :=
  .next (lanewise q w [0, 2] 2 false (byType (vTy w) (fun a b _ => fmin a b) (fun a _ _ => a) (fun a b _ => if a.slt b then a else b)) s)

/-- VMAX: FP32 and INT32. -/
def execVmax (q : Issue) (w : BitVec 44) (s : State) : Out :=
  .next (lanewise q w [0, 2] 2 false (byType (vTy w) (fun a b _ => fmax a b) (fun a _ _ => a) (fun a b _ => if b.slt a then a else b)) s)

/-- Whether one lane meets a CC code (R192). -/
def ccMeets (ty cc : Nat) (a b : BitVec 32) : Bool :=
  let un := ty == 0 && (isNan32 a || isNan32 b)
  let lt := if ty = 0 then fLt a b else a.slt b
  let eq := if ty = 0 then fEq a b else a == b
  match cc with
  | 0 => eq
  | 1 => un || !eq
  | 2 => lt
  | 3 => !un && (lt || eq)
  | 4 => !un && !lt && !eq
  | 5 => !un && !lt
  | 6 => un
  | _ => false

/-- VCMP: bit i of s[VD] is set where lane i meets CC. -/
def execVcmp (q : Issue) (w : BitVec 44) (s : State) : Out :=
  .next (issue s q true ([vD w] ++ (if vBs w then [vB w] else [])) ([vA w] ++ (if vBs w then [] else [vB w])) (fun s t =>
    legalOr s q 1 (vOp w) (vecChecks w [0, 2] ++ [(vCc w == 7, 2)]) (poisonSReg q (vD w) (t + 2)) (fun s =>
      s.updCtx q.core q.ctx (fun x =>
        let a := x.rdV (vA w)
        let b := operandB x w
        x.wrS (vD w) (if a.poison || b.poison then poisonS
          else ⟨maskOf (fun i => ccMeets (vTy w) (vCc w) (lane32 a.val i) (lane32 b.val i)), false⟩) (t + 2)))))

/-- VSEL: lane i of vA where bit i of s[VC] is set, else of vB; 64 lanes of 32 bits (Table 2.6). -/
def execVsel (q : Issue) (w : BitVec 44) (s : State) : Out :=
  .next (issue s q true ([vC w] ++ (if vBs w then [vB w] else [])) ([vD w, vA w] ++ (if vBs w then [] else [vB w])) (fun s t =>
    legalOr s q 1 (vOp w) (vecChecks w [0, 1, 2]) (poisonVReg q (vD w) (t + 2)) (fun s =>
      s.updCtx q.core q.ctx (fun x =>
        let a := x.rdV (vA w)
        let b := operandB x w
        let m := x.rdS (vC w)
        x.wrV (vD w) (if a.poison || b.poison || m.poison then poisonV
          else ⟨ofLanes32 (fun i => if bitAt m.val i then lane32 a.val i else lane32 b.val i), false⟩) (t + 2)))))

/-- A lane value of a type as an exact number. -/
def laneNum (ty : Nat) (half : Bool) (a : VWord) (i : Nat) : Num :=
  match ty with
  | 0 => dec32 (lane32 a i)
  | 1 => dec16 (lane16 a (if half then 64 + i else i))
  | _ => ofInt32 (lane32 a i)

/-- VCVT's result: 64 values of the target type. Into BF16 they fill lanes 0 to 63; lanes 64 to 127 are the free value `rest`. From BF16 to BF16 nothing is rounded, and all 128 lanes
are copied as they are, NaN payloads with them. DESIGN CHOICE: notes/assumptions/7.md. -/
def convert (ty to' : Nat) (half : Bool) (a rest : VWord) : VWord :=
  if ty = 1 ∧ to' = 1 then a
  else match to' with
    | 0 => ofLanes32 (fun i => (laneNum ty half a i).to32)
    | 1 => ofLanes16 (fun i => if i < 64 then (laneNum ty half a i).to16 else lane16 rest i)
    | _ => if ty = 2 then a else ofLanes32 (fun i => (laneNum ty half a i).toInt32)

/-- VCVT (R60, R192). The free value stands for the lanes that the spec leaves open: notes/assumptions/7.md. -/
def execVcvt (q : Issue) (w : BitVec 44) (s : State) : Out :=
  .next (issue s q true [] [vD w, vA w] (fun s t =>
    legalOr s q 1 (vOp w) (vecChecks w [0, 1, 2] ++ [(vCc w % 4 == 3, 2)]) (poisonVReg q (vD w) (t + 2)) (fun s =>
      let rest := Config.freeValue s.free
      ({ s with free := s.free + 1 }).updCtx q.core q.ctx (fun x =>
        let a := x.rdV (vA w)
        x.wrV (vD w) (if a.poison then poisonV else ⟨convert (vTy w) (vCc w % 4) (decide (4 ≤ vCc w)) a.val rest, false⟩) (t + 2)))))

/-- A long operation: FP32 only, 64 lanes, a tracker entry until the result is written; the vector unit takes its next operation 2 fc later (R36, R44, R196). -/
def longOp (q : Issue) (w : BitVec 44) (f : BitVec 32 → BitVec 32) (s : State) : State :=
  issue s q true [] [vD w, vA w] (fun s0 t =>
    let s := s0.updCore q.core (fun c => { c with vecNext := max c.vecNext (t + 2) })
    legalOr s q 1 (vOp w) (vecChecks w [0]) (poisonVReg q (vD w) (t + 12)) (fun s =>
      match (s.core q.core).takeTrk q.ctx .longVec 1 (some (t + 12)) with
      | none => poisonVReg q (vD w) (t + 12) (trkOverrun s q.core q.ctx)
      | some (c, _) => (s.setCore q.core c).updCtx q.core q.ctx (fun x =>
          let a := x.rdV (vA w)
          x.wrV (vD w) (if a.poison then poisonV else ⟨ofLanes32 (fun i => f (lane32 a.val i)), false⟩) (t + 12))))

/-- VEXP. -/
def execVexp (q : Issue) (w : BitVec 44) (s : State) : Out := .next (longOp q w fexp s)

/-- VLOG. -/
def execVlog (q : Issue) (w : BitVec 44) (s : State) : Out := .next (longOp q w fln s)

/-- VRCP. -/
def execVrcp (q : Issue) (w : BitVec 44) (s : State) : Out := .next (longOp q w frcp s)

/-- VRSQ. -/
def execVrsq (q : Issue) (w : BitVec 44) (s : State) : Out := .next (longOp q w frsq s)

/-- VSQRT. -/
def execVsqrt (q : Issue) (w : BitVec 44) (s : State) : Out := .next (longOp q w fsqrt s)

/-- A reduction by the tree of R37: BF16 is widened to FP32 and takes seven levels. -/
def reduceLanes (ty : Nat) (f i : BitVec 32 → BitVec 32 → BitVec 32) (a : VWord) : BitVec 32 :=
  match ty with
  | 0 => treeReduce f 6 ((List.range 64).map (lane32 a))
  | 1 => treeReduce f 7 ((List.range 128).map (fun n => widen16 (lane16 a n)))
  | _ => treeReduce i 6 ((List.range 64).map (lane32 a))

/-- A lane reduction into s[VD][31:0], the register's upper half unchanged; a tracker entry until it is written (R37, R44). -/
def reduceOp (q : Issue) (w : BitVec 44) (f i : BitVec 32 → BitVec 32 → BitVec 32) (s : State) : State :=
  issue s q true [vD w] [vA w] (fun s t =>
    legalOr s q 1 (vOp w) (vecChecks w [0, 1, 2]) (poisonSReg q (vD w) (t + 8)) (fun s =>
      match (s.core q.core).takeTrk q.ctx .longVec 1 (some (t + 8)) with
      | none => poisonSReg q (vD w) (t + 8) (trkOverrun s q.core q.ctx)
      | some (c, _) => (s.setCore q.core c).updCtx q.core q.ctx (fun x =>
          let a := x.rdV (vA w)
          let old := x.rdS (vD w)
          x.wrS (vD w) (if a.poison then poisonS
            else ⟨setBits old.val 0 32 (reduceLanes (vTy w) f i a.val).toNat, old.poison⟩) (t + 8))))

/-- VRSUM. -/
def execVrsum (q : Issue) (w : BitVec 44) (s : State) : Out := .next (reduceOp q w fadd (fun a b => a + b) s)

/-- VRMAX. -/
def execVrmax (q : Issue) (w : BitVec 44) (s : State) : Out := .next (reduceOp q w fmax (fun a b => if b.slt a then a else b) s)

/-- VRMIN. -/
def execVrmin (q : Issue) (w : BitVec 44) (s : State) : Out := .next (reduceOp q w fmin (fun a b => if a.slt b then a else b) s)

/-- VLD: 256 bytes from scratchpad into vD, usable once the bank has answered: after L fc, and no sooner than its class allows (Tables 2.6, 5.1). DEDUCED:
notes/assumptions/81.md. -/
def execVld (q : Issue) (w : BitVec 44) (s : State) : Out :=
  let o := spoAt w 16
  .next (issue s q true [] [vD w] (fun s t =>
    let lat := max 2 ((s.core q.core).readLat q.ctx o)
    legalOr s q 1 (vOp w) [(bitsN w 43 1 != 0, 2), (bitsN w 40 2 == 3, 2), (!o.reads, 3)] (poisonVReg q (vD w) (t + lat)) (fun s =>
      let (s1, d, p) := readOp s q o 256
      s1.updCtx q.core q.ctx (fun x => x.wrV (vD w) ⟨BitVec.ofNat 2048 d, p⟩ (t + lat)))))

/-- VST: vD stored as 256 bytes, whole slots (R106). -/
def execVst (q : Issue) (w : BitVec 44) (s : State) : Out :=
  let o := spoAt w 16
  .next (issue s q true [] [vD w] (fun s t =>
    legalOr s q 1 (vOp w) [(bitsN w 43 1 != 0, 2), (bitsN w 40 2 == 3, 2), (!o.writes, 3), (o.ofs % 4 != 0, 4)] (poisonSlots q o 4 t) (fun s =>
      let r := ((s.core q.core).tc q.ctx).rdV (vD w)
      writeOp s q 3 o 4 r.val.toNat r.poison 0 t)))

/-- VKEY: the keys of R35; CC[2] picks the half of a BF16 vector. -/
def execVkey (q : Issue) (w : BitVec 44) (s : State) : Out :=
  .next (issue s q true [] [vD w, vA w] (fun s t =>
    legalOr s q 1 (vOp w) (vecChecks w [0, 1]) (poisonVReg q (vD w) (t + 2)) (fun s =>
      s.updCtx q.core q.ctx (fun x =>
        let a := x.rdV (vA w)
        let lane := fun i => if vTy w = 0 then lane32 a.val i else widen16 (lane16 a.val (if 4 ≤ vCc w then 64 + i else i))
        x.wrV (vD w) (if a.poison then poisonV else ⟨ofLanes32 (fun i => keyOf (lane i)), false⟩) (t + 2)))))

/-- VMASK's lanes: a 0 bit replaces its lane with -Inf (R197). -/
def maskLanes (ty : Nat) (half : Bool) (a : VWord) (m : Nat) : VWord :=
  if ty = 1 then ofLanes16 (fun i => if (m >>> i) % 2 = 1 then lane16 a i else 0xFF80#16)
  else ofLanes32 (fun i => if (m >>> (if half then 64 + i else i)) % 2 = 1 then lane32 a i else 0xFF800000#32)

/-- VMASK (R197). TY stands in [41:40], HALF in [42]; its latency as for VLD. -/
def execVmask (q : Issue) (w : BitVec 44) (s : State) : Out :=
  let o := spoAt w 16
  let ty := bitsN w 40 2
  let half := bitAt w 42
  .next (issue s q true [] [vD w, vA w] (fun s t =>
    let lat := max 2 ((s.core q.core).readLat q.ctx o)
    legalOr s q 1 (vOp w) [(bitsN w 43 1 != 0, 2), (!o.reads, 3), (decide (2 ≤ ty), 2), (ty == 1 && half, 2)]
      (poisonVReg q (vD w) (t + lat)) (fun s =>
      let (s1, m, p) := readOp s q o 16
      s1.updCtx q.core q.ctx (fun x =>
        let a := x.rdV (vA w)
        x.wrV (vD w) (if a.poison || p then poisonV else ⟨maskLanes ty half a.val m, false⟩) (t + lat)))))

end Sys2Proof.Machine
end

