-- ==== Sys2Proof/Machine/Drain.lean ====
section
/-! DEFINITION. Drains, sidecar adds, norm checks and escalation (03 R76, 04, 08 R194, R195). -/

namespace Sys2Proof.Machine

/-- The open output tile that a row of a sail belongs to. -/
def Sail.tileOf (x : Sail) (row : Nat) : Option OutTile :=
  match x.tile with
  | some o => if o.acc0 ≤ row ∧ row < o.acc0 + o.rows then some o else none
  | none => none

/-- A drained row in its destination form (R194): its bytes as a number and the slots it fills. -/
def drainForm (ofmt : Nat) (v : VWord) : Nat × Nat :=
  if ofmt = 1 then ((List.range 64).foldr (fun i a => (dec32 (lane32 v i)).to16.toNat + 2 ^ 16 * a) 0, 2) else (v.toNat, 4)

/-- A final row written to its destination with its telltale (R82, R195), at the address its VDRN resolved; one whose destination broke a bound is not written (R115). -/
def writeRow (s : State) (m : Nat) (d : DrainRow) : State :=
  match d.dst with
  | none => s
  | some (ph, a) =>
    let (n, k) := drainForm d.ofmt d.val
    let (c, v) := writeSlots ph d.tag d.hold d.poison k (a / 64) n (s.core m, none)
    violateOpt (s.setCore m c) m d.ctx v

/-- The row leaves the drain stage; with its last row the output tile retires (R33, R44, R195). -/
def leaveStage (c : Core) (i row : Nat) : Core :=
  let x := c.sail i
  let x1 := { x with stage := x.stage.filter (fun d => d.row != row) }
  match x.tileOf row with
  | none => c.setSail i x1
  | some o =>
    let o1 := { o with done := if o.done.contains row then o.done else o.done ++ [row] }
    if o1.done.length = o1.rows then (c.setSail i { x1 with tile := none }).freeTrk o.trk
    else c.setSail i { x1 with tile := some o1 }

/-- A row's result is final: written, and out of the stage. -/
def finalRow (s : State) (m i : Nat) (d : DrainRow) : State := (writeRow s m d).updCore m (fun c => leaveStage c i d.row)

/-- VDRN (R194, R195): a multiply-mode row stays in the stage until final; a distance-mode row, one that SDIST accumulates, is written 4 fc later. A DST that breaks a bound
is a violation, and what is lost is the write alone (R115). -/
def execVdrn (q : Issue) (w : BitVec 44) (s : State) : Out :=
  let o := spoAt w 17
  let i := drSail w
  .next (if 32 ≤ ((s.core q.core).sail i).stage.length then s else
    issue s q true [] [] (fun s t =>
      let c := s.core q.core
      let x := c.sail i
      let dist := x.dist.contains (drRow w)
      let slots := if drFmt w = 1 then 2 else 4
      legalOr s q 1 0x14 [(bitsN w 43 1 != 0, 2), (drFmt w == 3, 2), (!decide (i < s.rigSails q.core), 7), (!o.writes, 3), (o.ofs % 4 != 0, 4),
          (drFmt w == 2 && !dist, 5), (drFmt w != 2 && (dist || (x.tileOf (drRow w)).isNone), 5)] (poisonSlots q o slots t) (fun s =>
        let acc := x.accRow (drRow w)
        let tag := tagOf (c.tc q.ctx).seq o.tag
        let at' := c.resolve q.ctx o.handle o.byte (64 * slots) true o.mode
        let enter := fun (s : State) (dst : Option (Nat × Nat)) => s.updSail q.core i (fun y => { y with stage := y.stage ++ [{
            row := drRow w, ctx := q.ctx, dst := dst, tag := tag, hold := o.hold, ofmt := drFmt w, val := acc.val, poison := acc.poison, entries := 0 }] })
        match at' with
        | .error v =>
          let s1 := violate s q.core q.ctx (v.tagged tag)
          if dist then s1 else enter s1 none
        | .ok (ph, a) => if dist then writeOp s q 3 o slots acc.val.toNat acc.poison 0 (t + 5 - bankLat a) else enter s (some (ph, a)))))

/-- The weight-tile operation that holds a K position, with its tile read from scratchpad (R75, R76). -/
def opAt (o : OutTile) (k : Nat) : Option OpRec := o.ops.find? (fun p => decide (p.kBase ≤ k) && decide (k < p.kBase + tileK p.fmt))

/-- One sidecar entry added to a drained row (R76); an unused entry changes nothing. -/
def addEntry (c : Core) (o : OutTile) (e : Nat) (v : VWord) : VWord :=
  let k := e / 2 ^ 16 % 2 ^ 16
  if k = 0xFFFF then v
  else match opAt o k with
    | some p => sidecarAdd v p.fmt (BitVec.ofNat 33792 (Memory.readN c.pad p.tileSrc (tileBytes p.fmt))) (k - p.kBase) (BitVec.ofNat 16 e)
    | none => v

/-- The BOUND violation of a sidecar read where the buffer's handle breaks a bound (R104). -/
def scViol (c : Core) (o : OutTile) (n : Nat) : Viol :=
  match c.resolve o.ctx (qdScBlk o.qd) (4 * n) 4 false 1 with
  | .error v => v.tagged o.scTag
  | .ok (ph, a) => { kind := 4, handle := ph, slot := a / 64, expTag := o.scTag, mode := 1 }

/-- VSCA (R76, R195): entry ENTRY of a row in the stage, in order, read with TAKE (R112). A slot holds 16 entries; it is taken with the last of them, and the reads before
leave it as it is. DEDUCED: notes/assumptions/16.md. -/
def execVsca (q : Issue) (w : BitVec 44) (s : State) : Out :=
  let i := drSail w
  let ent := bitsN w 17 8
  .next (issue s q true [] [] (fun s _ =>
    let c := s.core q.core
    let x := c.sail i
    let d? := x.stage.find? (fun d => d.row == drRow w)
    let bad := match d?, x.tileOf (drRow w) with
      | some d, some o => d.entries != ent || !decide (ent < qdScRow o.qd) || qdScN o.qd == 0
      | _, _ => true
    legalOr s q 1 0x15 [(bitsN w 25 19 != 0, 2), (!decide (i < s.rigSails q.core), 7), (bad, 6)] id (fun s =>
      match d?, x.tileOf (drRow w) with
      | some d, some o =>
        let n := (d.row - o.acc0) * qdScRow o.qd + ent
        let r : Core × Bool × Option Viol × VWord := match o.scBuf with
          | some (ph, b) =>
            let a := b + 4 * n
            let y := c.readSlot ph (a / 64) o.scTag (n % 16 == 15 || n + 1 == o.rows * qdScRow o.qd)
            (y.1, y.2.1, y.2.2.map (fun v => { v with mode := 1 }), addEntry c o (Memory.readN c.pad a 4) d.val)
          | none => (c, true, some (scViol c o n), d.val)
        let d1 := { d with entries := ent + 1, poison := d.poison || r.2.1, val := if d.poison || r.2.1 then BitVec.allOnes 2048 else r.2.2.2 }
        let x1 := { x with stage := x.stage.map (fun y => if y.row = d.row then d1 else y) }
        violateOpt (s.setCore q.core (r.1.setSail i x1)) q.core q.ctx r.2.2.1
      | _, _ => s)))

/-! ### The norm check (R80 to R85) -/

/-- A row's sidecar adds are complete, so its check may begin (R195). -/
def DrainRow.ready (d : DrainRow) (o : OutTile) : Bool := qdScN o.qd == 0 || d.entries == qdScRow o.qd

/-- ESC_MODE of the core's partition (R95). -/
def State.escMode (s : State) (m : Nat) : Nat := (s.part (s.corePart m)).escMode

/-- The bit of the row mask that stands for a row of an output tile: the tile holds consecutive rows of the row group, which one it begins with is free (R94). DESIGN CHOICE:
notes/assumptions/15.md. -/
def groupBit (s : State) (m i : Nat) (o : OutTile) (row : Nat) : Nat :=
  ((Config.groupFirst (s.grp (s.corePart m)).step m i o.trk).val + (row - o.acc0)) % 512

/-- The rung at which the latched mask makes a row of a LAYER entry escalate at once, if it does (R94). -/
def maskRung (s : State) (m i : Nat) (o : OutTile) (row : Nat) : Option Nat :=
  let c := s.core m
  if wLayer o.watch && s.escMode m != 1 && s.escMode m != 2 then
    (AMap.find (AMap.at c.masks [] (c.tc o.ctx).lsel) (groupBit s m i o row)).map (fun r => min r (wRungs o.watch))
  else none

/-- Where a group counts the escalations of an input position of a decode slot: a verify window holds up to nine positions (R19, R96). -/
def escKey (slot pos : Nat) : Nat := 16 * slot + pos % 16

/-- Escalation counts of a row's decode slot and position in this step, of target-model rows only (R96). -/
def countEsc (s : State) (m i : Nat) (o : OutTile) (row : Nat) (f : EscCount → EscCount) : State :=
  { s with parts := match Config.rowSlot (s.grp (s.corePart m)).step m i o.trk (row - o.acc0) with
    | some (slot, pos) => (s.updGrp (s.corePart m) (fun g => { g with esc := AMap.upd g.esc {} (escKey slot pos) f })).parts
    | none => s.parts }

/-- A blocked row-tile counted on its core and for its request (R85, R96, R97). -/
def countBlocked (s : State) (m i : Nat) (o : OutTile) (row : Nat) : State :=
  countEsc (s.updCore m (fun c => { c with stat := { c.stat with escBlock := satAdd 0xFF c.stat.escBlock 1 } })) m i o row
    (fun e => { e with blocked := satAdd 0xFF e.blocked 1 })

/-- The result of a row's check, which ends only while the line is low (R92). -/
def rowNormCheck (s0 : State) (m i row : Nat) : State :=
  let s := s0.settle m (s0.grp (s0.corePart m)).cyc
  let x := (s.core m).sail i
  if (s0.grp (s0.corePart m)).stalled.isSome then s0 else
  match x.stage.find? (fun d => d.row == row), x.tileOf row with
  | some d, some o =>
    if !d.ready o || x.esc.any (fun e => e.row == row) then s
    else
      let hit := breaches o.watch (rowNorm d.val) || o.ovf.contains (row - o.acc0)
      let forced := maskRung s m i o row
      if !hit && forced.isNone then finalRow s m i d
      else if wRungs o.watch = 0 ∨ s.escMode m = 2 then finalRow (countBlocked s m i o row) m i d
      else
        let e : EscRow := { row := row, reached := 0, target := match forced with | some r => max r 1 | none => 1 }
        let s1 := s.updSail m i (fun y => { y with esc := y.esc ++ [e], phase := if y.phase = .idle then .armed else y.phase })
        armLuff s1 (s1.corePart m) (.escalation m i) ((s1.grp (s1.corePart m)).cyc + 20)
  | _, _ => s

/-- ROW_NORM_CHECK. -/
def execRowNormCheck (core : Fin 9216) (sail : Fin 4) (row : Fin 512) (s : State) : Out := .next (rowNormCheck s core sail row)

/-- The descriptor of rung r of a watch entry, read from its block as a resident structure (Table 4.2, R185). -/
def rungQd (c : Core) (o : OutTile) (r : Nat) : BitVec 128 := BitVec.ofNat 128 (c.readRes o.ctx (rQdBlk (wRung o.watch r)) (16 * rQdOfs (wRung o.watch r)) 16).data

/-- The read of the sign bits for rung r's rotation at a K position. -/
def signRead (c : Core) (o : OutTile) (r k : Nat) : ReadOut :=
  let d := rungQd c o r
  c.readRes o.ctx (qdSignBlk d) (signBit d 64 k / 8) (rowSpan (qdRot d) 64 / 8)

/-- Sign bits for the rung's rotation at a K position. -/
def rungSigns (c : Core) (o : OutTile) (r k : Nat) : Nat := (signRead c o r k).data

/-- The reads that a repeat at rung r makes of its descriptor and its sign vector (R77, R89). -/
def rungReads (c : Core) (o : OutTile) (r : Nat) : List ReadOut :=
  let d := rungQd c o r
  c.readRes o.ctx (rQdBlk (wRung o.watch r)) (16 * rQdOfs (wRung o.watch r)) 16 ::
    (if qdRot d = 0 then [] else (repeatTiles c o.watch (rungQd c o) o.ops r).map (fun e => signRead c o r (e.1.kBase + 64 * e.2.1)))

/-- The wide rows of a mast, first and last, of each topsail record that the repeat at rung r reads (R86, R89). -/
def topsailRows (o : OutTile) (r : Nat) : List (Nat × Nat) :=
  (List.range r).flatMap (fun i => o.ops.map (fun op =>
    let x := wRung o.watch (i + 1)
    let n := recordBytes (tileK op.fmt) (rRw x) (rScl x)
    let a := rTsAddr x + op.idx * n
    (a / 128, (a + n - 1) / 128)))

/-- Whether one of some rows, poisoned, bad or found uncorrectable, is among those that the repeat at rung r reads (R93, R127, R129). -/
def rungPoison (o : OutTile) (r : Nat) (hurt : List Nat) : Bool := hurt.any (fun row => (topsailRows o r).any (fun x => decide (x.1 ≤ row) && decide (row ≤ x.2)))

/-- The row mask of the layer set for a final row of a LAYER entry, at the higher rung (R94). -/
def setMask (s : State) (m i : Nat) (o : OutTile) (row rung : Nat) : State :=
  if wLayer o.watch && s.escMode m != 1 then
    s.updField (m / 192) (fun f =>
      let l := ((s.core m).tc o.ctx).lsel
      let old := AMap.at f.escMask [] l
      let b := groupBit s m i o row
      { f with escMask := AMap.put f.escMask l (AMap.put old b (max rung (AMap.at old 0 b))) })
  else s

/-- `n` runs of 256 bytes from byte a of a scratchpad that a sequencer saves into: the spec gives the saved state no layout, so they hold free values. A slot under a
retire fence is not written (R112). -/
def openBytes (s : State) (m a : Nat) : Nat → State
  | 0 => s
  | n + 1 => openBytes (({ s with free := s.free + 1 } : State).updCore m (fun c => { c with
      pad := (List.range 4).foldl (fun p i => if c.fenced (a / 64 + i) then p else Memory.writeN p (a + 64 * i) (bitsN (Config.freeValue s.free) (512 * i) 512) 64) c.pad })) m (a + 256) n

/-- A sequencer's save of `n` runs of 256 bytes into block h of a context; a broken bound and a fenced slot are violations (R104, R112). -/
def saveBlock (s : State) (m ctx h n : Nat) : State :=
  match (s.core m).resolve ctx h 0 (256 * n) true 2 with
  | .error v => violate s m ctx v
  | .ok (ph, a) =>
    violateOpt (openBytes s m a n) m ctx (((List.range (4 * n)).find? (fun k => (s.core m).fenced (a / 64 + k))).map (fun k =>
      let t := (s.core m).tell (a / 64 + k)
      { kind := 3, handle := ph, slot := a / 64 + k, foundTag := t.tag, foundSt := t.st.code, mode := 2 }))

/-- A sail's state saved into the 16 KiB staging block that its output tile's watch entry names (Table 4.1, R91). -/
def saveSail (s : State) (m i : Nat) : State :=
  match ((s.core m).sail i).tile with
  | some o => saveBlock s m o.ctx (bitsN o.watch 67 5) 64
  | none => s

/-- The rung descriptor's sidecar buffer for the j-th row of a pass: filled afresh as a whole before the pass's first row, except where it lies in the base pass's own buffer, whose other
rows keep their entries; then the captured entries of the row written (R74, R77, R89). The repeat's sidecar adds take them at once, so that a slot that was EMPTY is EMPTY
again. The violation of the fill, if any, and whether the buffer could be used. DEDUCED: notes/assumptions/79.md. -/
def repeatBuffer (c : Core) (o : OutTile) (d : BitVec 128) (j r : Nat) (side : List (Nat × BitVec 16)) : Core × Option Viol × Bool :=
  if qdScN d = 0 then (c, none, true)
  else match c.resolve o.ctx (qdScBlk d) 0 (o.rows * qdScRow d * 4) true 2 with
    | .error v => (c, some (v.tagged o.scTag), false)
    | .ok (ph, a) =>
      let n := qdScRow d
      let b := a + r * n * 4
      let own := fun k => match o.scBuf with | some x => decide (x.2 / 64 ≤ k) && decide (k ≤ (x.2 + o.rows * qdScRow o.qd * 4 - 1) / 64) | none => false
      let bad := fun k => c.fenced k || ((c.tell k).st != .empty && !own k)
      let fill := (List.range (o.rows * n)).filter (fun i => (j == 0 && !own ((a + 4 * i) / 64)) || (decide (r * n ≤ i) && decide (i < r * n + n)))
      let blank := fill.foldl (fun m i => if bad ((a + 4 * i) / 64) then m else Memory.writeN m (a + 4 * i) 0xFFFF0000 4) c.pad
      ({ c with pad := putEntries blank bad b 0 side },
       ((fill.map (fun i => (a + 4 * i) / 64)).find? bad).map (fun k => { kind := 3, handle := ph, slot := k, expTag := o.scTag, foundTag := (c.tell k).tag, foundSt := (c.tell k).st.code, mode := 2 }), true)

/-- A row's repeat at a rung, as one pass makes it: its value with its sidecar adds, its sum before them, whether an outlier was missed, and its captured entries. -/
structure Repeated where
  val : VWord
  sum : VWord
  missed : Bool
  side : List (Nat × BitVec 16)
  deriving DecidableEq, Repr

def repeated (c : Core) (o : OutTile) (row rung : Nat) : Repeated :=
  let start := (AMap.at o.init {} row).val
  let a := repeatSum c o.watch (rungQd c o) (rungSigns c o rung) o.ops start (row - o.acc0) rung
  let v := repeatRow c o.watch (rungQd c o) (rungSigns c o rung) o.ops start (row - o.acc0) rung
  ⟨v.1, a.acc, v.2, a.side⟩

/-- Whether the residue check of a repeated row finds a fault that strikes its first weight-tile operation (R49, R93). -/
def repeatFails (c : Core) (o : OutTile) (row rung : Nat) (err : Int) : Bool :=
  match repeatTiles c o.watch (rungQd c o) o.ops rung with
  | [] => false
  | e :: _ =>
    let d := rungQd c o rung
    let raw := repeatElems c.pad d o.ops e.1 (row - o.acc0) e.1.kBase
    mulCheckFails (qdAfmt d) (qdWfmt d) e.2.2 (feedCodes d 64 (feed d 64 e.1.kBase (rungSigns c o rung e.1.kBase) 0 raw).2) err

/-- A row leaves its escalation. -/
def endRow (s : State) (m i row : Nat) : State := s.updSail m i (fun y => { y with esc := y.esc.filter (fun k => k.row != row) })

/-- What a row's repeat leaves in accumulator row 504 + j, and in its drain stage entry `d`; `hurt` are the mast's rows that read as poison. -/
def passValue (s : State) (m i j : Nat) (o : OutTile) (d : DrainRow) (e : EscRow) (hurt : List Nat) (up : Option Upset) : State × DrainRow × Bool :=
  let c := s.core m
  let x := repeated c o e.row e.target
  let (c1, v, ok) := repeatBuffer c o (rungQd c o e.target) j (e.row - o.acc0) x.side
  let hit := match up with | some u => u.row == j && u.err != 0 | none => false
  let col := match up with | some u => u.col.val | none => 64
  let poison := (AMap.at o.init {} e.row).poison || d.poison || !ok || rungPoison o e.target hurt || (rungReads c o e.target).any (fun r => r.poison)
  let put := fun (w : VWord) => if hit then spoilLane w col s.free else w
  let s1 := violateOpt (({ s with free := if hit then s.free + 1 else s.free } : State).setCore m c1) m o.ctx v
  let s2 := s1.updSail m i (fun y => { y with acc := AMap.put y.acc (504 + j) (if poison then poisonV else ⟨put x.sum, false⟩) })
  let s3 := match up with | some u => if u.row = j ∧ repeatFails c o e.row e.target u.err = true then sailCheckFault s2 m i else s2 | none => s2
  (s3, { d with val := if poison then BitVec.allOnes 2048 else put x.val, poison := poison }, x.missed)

/-- One row of a pass, the j-th, accumulated in row 504 + j: repeated, checked, and final or bound for the next rung (R85, R91). A descriptor of the rung, or of one that the row
passes over, that breaks Table 3.6 or R25 is an illegal instruction: the row does not run, and its result is poison (R71, R211). A pass counts as one rung climb of its row, also where it passes over rungs (R94, R96). DEDUCED:
notes/assumptions/79.md. -/
def passRow (s0 : State) (m i j : Nat) (hurt : List Nat) (up : Option Upset) (e : EscRow) : State :=
  let x := (s0.core m).sail i
  match x.stage.find? (fun d => d.row == e.row), x.tileOf e.row with
  | some d, some o =>
    let s := violateOpt s0 m o.ctx ((rungReads (s0.core m) o e.target).findSome? (fun r => r.viol))
    if (List.range e.target).any (fun r => !qdOk (rungQd (s.core m) o (r + 1))) then
      endRow (finalRow (illegal s m o.ctx 0 2 5) m i { d with val := BitVec.allOnes 2048, poison := true }) m i e.row
    else
      let (s', d1, missed) := passValue s m i j o d e hurt up
      let hit := breaches o.watch (rowNorm d1.val) || missed
      let s1 := countEsc s' m i o e.row (fun k => { k with passes := satAdd 0xFFFF k.passes 1, top := max k.top e.target })
      if hit ∧ e.target < wRungs o.watch then
        s1.updSail m i (fun y => { y with esc := y.esc.map (fun k => if k.row = e.row then { k with reached := e.target, target := e.target + 1 } else k) })
      else
        let s2 := if hit then
            countEsc (s1.updCore m (fun c => { c with stat := { c.stat with escUnres := satAdd 0xFF c.stat.escUnres 1 } })) m i o e.row
              (fun k => { k with unres := satAdd 0xFF k.unres 1 })
          else s1
        endRow (finalRow (setMask s2 m i o e.row e.target) m i d1) m i e.row
  | _, _ => endRow s0 m i e.row

/-- The rows of the next pass: up to eight at the lowest rung any row is bound for, in ascending row order (R91). -/
def passRows (es : List EscRow) : List EscRow :=
  let r := es.foldl (fun a e => min a e.target) 3
  let rows := ((List.range 512).filterMap (fun n => es.find? (fun e => e.row == n && e.target == r)))
  rows.take 8

/-- ESCALATION_RESTORE_DONE (R91): the sequencer releases its luff request. -/
def execEscalationRestoreDone (core : Fin 9216) (sail : Fin 4) (s : State) : Out :=
  .next (if ((s.core core).sail sail).phase = .restoring then
    endLuff (s.updSail core sail (fun y => { y with phase := .idle })) (s.corePart core) (.escalation core sail)
  else s)

end Sys2Proof.Machine
end

