-- ==== Sys2Proof/Machine/Kv.lean ====
section
/-! DEFINITION. KV geometry, append records and page planes (13 R303 to R308, R315 to R317). -/

namespace Sys2Proof.Machine

/-! ### Geometry records (Table 13.1) -/

def Geo.space (g : Geo) : Nat := bitsN g.raw 32 4
def Geo.group (g : Geo) : Nat := bitsN g.raw 40 4
def Geo.nkvh (g : Geo) : Nat := bitsN g.raw 48 8
def Geo.hdCode (g : Geo) : Nat := bitsN g.raw 56 8
def Geo.hd (g : Geo) : Nat := match g.hdCode with | 1 => 64 | 2 => 128 | _ => 256
def Geo.scmax (g : Geo) : Nat := bitsN g.raw 64 8
def Geo.chunkLog2 (g : Geo) : Nat := bitsN g.raw 72 8
def Geo.nkvc (g : Geo) : Nat := bitsN g.raw 80 16
def Geo.kvidx (g : Geo) : Nat := bitsN g.raw 96 16
def Geo.maskOfs (g : Geo) : Nat := bitsN g.raw 112 16

/-- Elements of one position; of its keys; key tiles; record size (R304). -/
def Geo.elems (g : Geo) : Nat := 2 * g.nkvh * g.hd
def Geo.half (g : Geo) : Nat := g.elems / 2
def Geo.tiles (g : Geo) : Nat := g.half / 64
def Geo.recSize (g : Geo) : Nat := 128 * ceilDiv (g.elems / 2 + g.elems / 32 + 4 * g.scmax) 128

/-! ### The append record (Table 13.2) -/

/-- A row being quantised: element codes, scale codes, sidecar entries so far, and the slices that missed an outlier (R73, R315). -/
structure KvRow where
  codes : List Nat := []
  scales : List Nat := []
  side : List (Nat × BitVec 16) := []
  misses : Nat := 0
  deriving DecidableEq, Repr

/-- Slices of 64 elements one after another (R315). `signs` gives the sign bits from a K position. -/
def kvSlices (d : BitVec 128) (signs : Nat → Nat) (row : List (BitVec 16)) : Nat → Nat → KvRow → KvRow
  | 0, _, a => a
  | n + 1, i, a =>
    let k := 64 * i
    let span := rowSpan (qdRot d) 64
    let raw := (row.drop (k / span * span)).take span
    let cap := capture (qdClip d) (qdScN d) (qdScRow d) a.side.length (rotatedSlice (qdRot d) 64 k (signs k) raw)
    let bs := quantSlice (qdAfmt d) 2 cap.left
    kvSlices d signs row n (i + 1)
      { codes := a.codes ++ bs.flatMap (fun b => b.codes), scales := a.scales ++ bs.map (fun b => b.scale),
        side := a.side ++ cap.side.map (fun p => (k + p.1, p.2)), misses := a.misses + b2n cap.missed }

/-- A list of values of `w` bits packed, first lowest. -/
def packList (w : Nat) (xs : List Nat) : Nat := xs.foldr (fun x a => x % 2 ^ w + 2 ^ w * a) 0

/-- The record of one position as a number of RS bytes. -/
def kvRecord (g : Geo) (r : KvRow) : Nat :=
  let side := r.side.map (fun p => sideEntry p.1 p.2) ++ List.replicate (g.scmax - r.side.length) 0xFFFF0000
  packList 4 r.codes + 2 ^ (4 * g.elems) * (packList 8 r.scales + 2 ^ (8 * (g.elems / 32)) * packList 32 side)

/-! ### Placement in a page (R307, Table 13.3) -/

/-- The BF16 value of a value scale code. -/
def valueScale (e : Nat) : Nat := if e = 255 then 0x7FC0 else if e = 0 then 0x0040 else e * 128

/-- A nibble written at nibble index `i` from byte `a`. -/
def writeNibble (m : Memory) (a i v : Nat) : Memory :=
  let b := (Memory.read m (a + i / 2)).toNat
  Memory.write m (a + i / 2) (BitVec.ofNat 8 (if i % 2 = 0 then b / 16 * 16 + v % 16 else b % 16 + 16 * (v % 16)))

/-- Base of the value scales and of the sidecar plane. -/
def Geo.vscaleBase (g : Geo) : Nat := 4352 * g.tiles
def Geo.sideBase (g : Geo) : Nat := 4352 * g.tiles + 4 * g.half

/-- One position's record placed in the page at byte address `a`. -/
def placeRecord (g : Geo) (m : Memory) (a p rec' : Nat) : Memory :=
  let scale := fun b => (rec' >>> (4 * g.elems + 8 * b)) % 256
  let keys := (List.range g.tiles).foldl (fun m t =>
    let m1 := Memory.writeN m (a + 2176 * t + 32 * p) (rec' >>> (256 * t)) 32
    Memory.writeN m1 (a + 2176 * t + 2048 + 2 * p) (scale (2 * t) + 256 * scale (2 * t + 1)) 2) m
  let vals := (List.range g.half).foldl (fun m j =>
    writeNibble m (a + 2176 * (g.tiles + j / 64) + 32 * (j % 64)) p ((rec' >>> (4 * (g.half + j))) % 16)) keys
  let vsc := (List.range (g.half / 32)).foldl (fun m b =>
    Memory.writeN m (a + g.vscaleBase + 2 * (p * (g.half / 32) + b)) (valueScale (scale (g.half / 32 + b))) 2) vals
  Memory.writeN vsc (a + g.sideBase + 4 * p * g.scmax) (rec' >>> (4 * g.elems + 8 * (g.elems / 32))) (4 * g.scmax)

/-- The wide rows of a page, counted from its first, that the record of position p reaches: key tiles and their scales, value tiles, value scales, sidecar (Table 13.3). -/
def planeRows (g : Geo) (p : Nat) : List Nat :=
  let keys := (List.range g.tiles).flatMap (fun t => [2176 * t + 32 * p, 2176 * t + 2048 + 2 * p])
  let vals := (List.range g.half).map (fun j => 2176 * (g.tiles + j / 64) + 32 * (j % 64) + p / 2)
  let scls := (List.range (g.half / 32)).map (fun b => g.vscaleBase + 2 * (p * (g.half / 32) + b))
  let side := (List.range g.scmax).map (fun e => g.sideBase + 4 * (p * g.scmax + e))
  ((keys ++ vals ++ scls ++ side).map (· / 128)).eraseDups

/-- A page's initial image (R308). -/
def initPage (g : Geo) (m : Memory) (a : Nat) : Memory :=
  let m0 := Memory.clear m a 0x10000
  let m1 := (List.range g.tiles).foldl (fun m t => Memory.writeN m (a + 2176 * (g.tiles + t) + 2048) (packList 8 (List.replicate 128 0x7F)) 128) m0
  blankEntries m1 (a + g.sideBase) (64 * g.scmax)

end Sys2Proof.Machine
end

