-- ==== Sys2Proof/Machine/Sheet.lean ====
section
/-! DEFINITION. Sheet fabric operations that sends and boundaries share (15 R358, R359, R364, R365). -/

namespace Sys2Proof.Machine

def State.port (s : State) (i : Nat) : SheetPort := AMap.at s.sheet.ports {} i

def State.updPort (s : State) (i : Nat) (f : SheetPort → SheetPort) : State :=
  { s with sheet := { s.sheet with ports := AMap.upd s.sheet.ports {} i f } }

def State.slice (s : State) (p : Nat) : Slice := (s.part p).slice

def State.updSlice (s : State) (p : Nat) (f : Slice → Slice) : State := s.updPart p (fun x => { x with slice := f x.slice })

/-- Whether the module serves a slice under another rank 0: it holds no requests of its own and samples nothing (R362). -/
def State.isMember (s : State) (p : Nat) : Bool := (s.slice p).mods != 0 && (s.slice p).rank != 0

/-- A record of the sheet error log (Table 15.15). -/
def shtLog (s : State) (port kind part id rank check : Nat) : State :=
  let r := (packFields 32 [(0, 3, port), (3, 3, kind), (6, 6, part)],
       packFields 32 [(0, 16, id), (16, 3, rank), (19, 4, check)], s.time32)
  signalLog { s with sheet := { s.sheet with log := s.sheet.log.push r } } s.sheet.log 0 3

/-- Enabled ports whose verified peer is rank r of a slice, in ascending order (R358, R364). -/
def portsTo (s : State) (x : Slice) (r : Nat) : List Nat :=
  (List.range 8).filter (fun i => (s.port i).enabled && ((s.port i).peer.map (·.1)) == some (x.serials.getD r 0#64))

/-- The partition that has a slice identifier. -/
def partOfSlice (s : State) (id : Nat) : Option Nat :=
  if id = 0 then none else (List.range 64).find? (fun p => (s.part p).en && (s.slice p).id == id)

/-- A frame header (Table 15.6). -/
def frameHead (kind step id rank : Nat) (err : Bool) (route fidx nflit : Nat) (time : Nat) : BitVec 128 :=
  packFields 128 [(0, 4, kind), (4, 8, step), (12, 16, id), (28, 3, rank), (31, 1, b2n err), (32, 8, route), (40, 9, fidx), (49, 6, nflit), (64, 64, time)]

/-- A frame put on a port. It is in flight for at most 200 ns and 5 ns for each of 30 m (R357). -/
def putFrame (s : State) (i kind frame : Nat) : State :=
  (emit s (.sheet i kind frame)).updPort i (fun y => { y with flight := y.flight.filter (fun f => decide (s.tb.toNat ≤ f.1 + 350)) ++ [(s.tb.toNat, kind, frame)] })

/-- A frame of partition p sent to rank r on the next port in rotation; with no port, nothing leaves (R358). -/
def sendFrame (s : State) (p r : Nat) (kind : Nat) (err : Bool) (route fidx nflit : Nat) (time : Nat) (body : Nat) : State :=
  let x := s.slice p
  let ps := portsTo s x r
  match ps[(AMap.at x.turn 0 r) % ps.length]? with
  | none => s
  | some i =>
    let h := frameHead kind ((s.grp p).step % 256) x.id x.rank err route fidx nflit time
    (putFrame s i kind (h.toNat + 2 ^ 128 * body)).updSlice p (fun y => { y with turn := AMap.put y.turn r (AMap.at y.turn 0 r + 1) })

/-- The flits of a sheet send in frames of at most 64 (R358). `fl` are 512-bit flits with their poison marks. -/
def sendTensor (s : State) (p r route : Nat) : Nat → Nat → List (Slot × Bool) → Nat → State
  | 0, _, _, _ => s
  | n + 1, f, fl, head =>
    match fl with
    | [] => s
    | _ =>
      let now := fl.take 64
      let body := now.foldr (fun x a => x.1.toNat + 2 ^ 512 * (b2n x.2 + 2 * a)) 0
      sendTensor (sendFrame s p r 0 false route f (now.length - 1) s.tb.toNat (head + 2 ^ 64 * body)) p r route n (f + now.length) (fl.drop 64) head

/-- The receive entry for a rank's route among the images that a partition steps. -/
def recvEntry (s : State) (p rank route : Nat) : Option (BitVec 128) :=
  ((s.part p).slots.toList.flatMap (fun x => if x.serving then x.sheet.recvs else [])).find? (fun r => bitsN r 0 3 == rank && bitsN r 3 8 == route)

/-- A slot of an image that spans modules is no longer LOADED: every other rank is told (Table 15.8). -/
def slotGone (s : State) (p slot : Nat) : State :=
  let y := s.slice p
  if y.mods = 0 ∨ rigMods (s.img p slot).rig = 0 then s
  else (List.range (y.mods + 1)).foldl (fun s r => if r = y.rank then s else sendFrame s p r 4 true 0 0 0 s.tb.toNat (2 + 8 * slot)) s

/-- The ranks of a slice other than the module's own. -/
def otherRanks (y : Slice) : List Nat := (List.range (y.mods + 1)).filter (· != y.rank)

/-- Rank r told of a LOADED slot whose image spans modules and has the rank that matches this module's (Table 15.8). What a notice holds is the model's: notes/assumptions/110.md. -/
def tellHeld (s : State) (p slot r : Nat) : State :=
  let x := s.img p slot
  if x.st = .loaded ∧ rigMods x.rig ≠ 0 ∧ rigRank x.rig = (s.slice p).rank then sendFrame s p r 4 false 0 0 0 s.tb.toNat (4 + 8 * slot) else s

/-- Whether every member of a slice holds an image slot LOADED; so always for an image that spans no modules (Table 15.8). -/
def allHold (s : State) (p slot : Nat) : Bool :=
  let y := s.slice p
  y.mods == 0 || rigMods (s.img p slot).rig == 0 || (rigRank (s.img p slot).rig == y.rank && (otherRanks y).all (fun r => (AMap.at y.held [] r).contains slot))

/-- Whether a slot steps: it serves, and every member has held it LOADED since it became so (R371). -/
def slotSteps (s : State) (p slot : Nat) : Bool := (s.img p slot).serving && ((s.img p slot).joined || allHold s p slot)

/-- Whether a partition's slice lets it step (R365). -/
def sliceUp (s : State) (p : Nat) : Bool := (s.slice p).st == .none || (s.slice p).st == .up

/-! ### Whether a partition steps (R578) -/

/-- Whether a partition holds a slot that steps, LOADED or still draining (R255), is not quarantined, not struck, and not held by its slice. -/
def mayStep (s : State) (p : Nat) : Bool :=
  (s.part p).en && (List.range 4).any (slotSteps s p) && !(s.grp p).quarantined && sliceUp s p &&
  !s.sys.struck && !s.sys.shutdown

/-- STEPPING of PRT_STAT; a partition that holds in a recovery counts as stepping. -/
def isStepping (s : State) (p : Nat) : Bool := mayStep s p || (s.grp p).held

/-- Whether a core belongs to a partition that is stepping: in a step, or between two. -/
def State.coreSteps (s : State) (m : Nat) : Bool :=
  (s.field (m / 192)).owned && (isStepping s (s.corePart m) || (s.grp (s.corePart m)).inStep)

/-- The slice of a partition changes state: its members and host software are told (Table 15.8, Table 22.13). -/
def setSlice (s : State) (p : Nat) (st : SliceSt) : State :=
  if (s.slice p).st = st then s else dblBoth (s.updSlice p (fun x => { x with st := st })) p 7

end Sys2Proof.Machine
end

