-- ==== Sys2Proof/Machine/Move.lean ====
section
/-! DEFINITION. The move-slot instructions (08 R199 to R203, 05 R102, 06 R125, 07 R162, R170, R173, 09 R232, 13 R315). -/

namespace Sys2Proof.Machine

/-- MNOP (R179). -/
def execMnop (q : Issue) (_w : BitVec 80) (s : State) : Out := .next (issue s q false [] [] (fun s _ => s))

/-! ### The mast data path -/

/-- Path cycles of `n` rows from `s0`: none falls inside the mast's refresh window, and later ones keep their order (R125, R133). -/
def pathCycles (refEnd s0 n : Nat) : List Nat :=
  let cs := (List.range n).map (pathCycle s0)
  let within := fun c => decide (refEnd ≤ c + 240) && decide (c < refEnd)
  match (List.range n).find? (fun i => within (cs.getD i 0)) with
  | none => cs
  | some j => (List.range n).map (fun i => if i < j then cs.getD i 0 else pathCycle refEnd (i - j))

/-- A wide row as read: poison and bad rows are marked (R127, R129). -/
def Mast.rowRead (m : Mast) (a : Nat) : Row × Bool :=
  if m.poison.contains (a / 128) then (BitVec.allOnes 1024, true) else (Memory.rowAt m.data a, false)

/-- A wide row written with its poison marker. -/
def Mast.rowWrite (m : Mast) (a : Nat) (d : Row) (poison : Bool) : Mast :=
  { m with data := Memory.writeN m.data a d.toNat 128
           poison := if poison then (if m.poison.contains (a / 128) then m.poison else m.poison ++ [a / 128]) else m.poison.filter (· != a / 128) }

/-- Whether a partition's step is a guarded replay, in which late items luff (R118). -/
def State.guarded (s : State) (m : Nat) : Bool := (s.grp (s.corePart m)).guarded

/-- The latency at which Waldrig budgets a read: that of the pool's deepest tier for a paged address, that of its own tier for a flat one (R142). -/
def Mast.budgetTier (m : Mast) (a : Dword) : Nat := if bitAt a 63 then m.tierMax else bitsN a 27 2

/-- The path's last cycle after `n` rows that could start in cycle u, as the schedule budgets it: no row of an earlier access is late, and none falls in a refresh window
(R118, R133). In a guarded replay the schedule uses a read's data in the cycle in which its last row is so budgeted. DEDUCED: notes/assumptions/76.md. -/
def Mast.planned (m : Mast) (u n : Nat) : Nat := pathCycle (max u (m.plan + 1)) (n - 1)

/-- MRD (R125, R126): the rows of the read are captured and land at their due cycles. -/
def execMrd (q : Issue) (w : BitVec 80) (s : State) : Out :=
  let o := mvSpo w
  let n := bitsN w 35 5 + 1
  .next (issue s q false [mvAreg w] [] (fun s t =>
    let a := ((s.core q.core).tc q.ctx).rdS (mvAreg w)
    legalOr s q 2 0x01 [(bitsN w 40 40 != 0, 2), (!o.writes, 3), (o.ofs % 4 != 0, 4), (bitsN a.val 0 7 != 0, 4)] (poisonSlots q o (2 * n) t) (fun s =>
      match (s.core q.core).takeTrk q.ctx .mastRead n none with
      | none => trkOverrun (poisonSlots q o (2 * n) t s) q.core q.ctx
      | some (c, id) =>
        let tag := tagOf (c.tc q.ctx).seq o.tag
        match c.resolve q.ctx o.handle o.byte (128 * n) true o.mode with
        | .error v => violate (s.setCore q.core (c.freeTrk id)) q.core q.ctx (v.tagged tag)
        | .ok (ph, dst) =>
          let m := c.mast
          let pma := m.translate a.val (128 * n) false
          let start := fun (k : Nat) => max (t + tierLat k) (m.path + 1)
          let s0 := start (match pma with | .ok p => tierOf p | .error _ => m.faultTier a.val)
          let dues := pathCycles m.refEnd s0 n
          let want := m.planned (t + tierLat (m.budgetTier a.val)) n
          let row := fun i => match pma with | .ok p => m.rowRead (p + 128 * i) | .error _ => (BitVec.allOnes 1024, true)
          let lands := (List.range n).map (fun i => ({
            trk := id, ctx := q.ctx, handle := ph, addr := dst + 128 * i, tag := tag,
            hold := o.hold, due := dues.getD i 0, want := want, data := (row i).1, poison := (row i).2,
            row := (match pma with | .ok p => p / 128 + i | .error _ => 0), rid := 0 } : Landing))
          let s1 := s.setCore q.core { c with lands := c.lands ++ lands, mast := { m with path := dues.getLastD s0, plan := want } }
          let s2 := if s.guarded q.core && decide (want < dues.getLastD s0) then armLuff s1 (s.corePart q.core) (.late q.core id) want else s1
          match pma with | .ok _ => s2 | .error e => xlateFault s2 q.core a.val e)))

/-- MWR (R125): a poisoned row carries its marker into the ECC word; a faulting write is discarded (R147). -/
def execMwr (q : Issue) (w : BitVec 80) (s : State) : Out :=
  let o := mvSpo w
  let n := bitsN w 35 5 + 1
  .next (issue s q false [mvAreg w] [] (fun s t =>
    let a := ((s.core q.core).tc q.ctx).rdS (mvAreg w)
    legalOr s q 2 0x02 [(bitsN w 40 40 != 0, 2), (!o.reads, 3), (bitsN a.val 0 7 != 0, 4)] id (fun s =>
      match (s.core q.core).takeTrk q.ctx .mastWrite 1 none with
      | none => trkOverrun s q.core q.ctx
      | some (c, id) =>
        let ls := c.readLat q.ctx o
        let (s1, rows) := readItemsOp (s.setCore q.core c) q o 128 n
        match (s1.core q.core).mast.translate a.val (128 * n) true with
        | .error e => xlateFault (s1.updCore q.core (fun c => c.freeTrk id)) q.core a.val e
        | .ok p => s1.updMast q.core (fun m =>
            let s0 := max (t + ls + 2) (m.path + 1)
            let m1 := (List.range n).zip rows |>.foldl (fun m r => m.rowWrite (p + 128 * r.1) (BitVec.ofNat 1024 r.2.1) r.2.2) m
            { m1 with path := (pathCycles m.refEnd s0 n).getLastD s0, plan := m.planned (t + ls + 2) n }))))

/-! ### Mesh sends (R156, R162) -/

/-- The flits of a send, read from consecutive slots as one access (R104, R115). -/
def readFlits (s : State) (q : Issue) (o : Spo) (n : Nat) : State × List (Slot × Bool) :=
  let (s1, xs) := readItemsOp s q o 64 n
  (s1, xs.map (fun x => (BitVec.ofNat 512 x.1, x.2)))

/-- Flits put on their way into the mesh. -/
def launch (s : State) (fl : List Flit) : State := { s with fab := { s.fab with flits := s.fab.flits ++ fl } }

/-- In a guarded replay a send is armed for the cycle in which its first flit is due: a flit not yet visible then holds the group (R118, R164). -/
def guardDue (s : State) (m : Nat) (src : LuffSrc) (ds : List Nat) : State :=
  match firstDue ds with
  | some u => if s.guarded m then armLuff s (s.corePart m) src u else s
  | none => s

/-- A field that drains or runs fixed-hop accepts no injection on VC1 and VC2 (R174, R175). -/
def noInject (s : State) (m : Nat) : Bool := (s.field (m / 192)).mode == .draining || (s.field (m / 192)).mode == .fixedHop

/-- In fixed-hop mode a send on VC3 enters only in an fc in which the router's table names the local input; with no such entry it waits (R175). -/
def noInject3 (s : State) (m : Nat) : Bool := (s.field (m / 192)).mode == .fixedHop && !(s.core m).router.hop.any (fun e => e.contains 0)

/-- MSEND, FYV 7 being a sheet send, whose flits leave the mesh on the east rim link of the core's row (R165, R167, R359). -/
def execMsend (q : Issue) (w : BitVec 80) (s : State) : Out :=
  let src := mvSpo w
  let dst := spoAt w 46
  let fxv := bitsN w 30 3
  let fyv := bitsN w 33 3
  let cxv := bitsN w 36 4
  let cyv := bitsN w 40 4
  let f := bitsN w 70 9 + 1
  let vc3 := bitAt w 79
  .next (if (if vc3 then noInject3 s q.core else noInject s q.core) then s else issue s q false [] [] (fun s t =>
    let p := s.corePart q.core
    let x := s.imgOf q.core
    let sheet := fyv == 7
    legalOr s q 2 0x03
      [(!src.reads || !dst.writes, 3), (dst.ofs % 4 != 0, 4), (vc3 && ((s.field (q.core / 192)).mode != .fixedHop || sheet), 6),
       (!sheet && (decide (11 < cxv) || decide (14 < cyv) || decide (rigWF x.rig < fxv) || decide (rigHF x.rig < fyv)), 2),
       (sheet && (decide ((s.slice p).mods < fxv) || fxv == (s.slice p).rank || decide (x.sheet.routes.length ≤ 16 * cyv + cxv)), 2)] id (fun s =>
      match (s.core q.core).takeTrk q.ctx .meshSend 1 none with
      | none => trkOverrun s q.core q.ctx
      | some (c, id) =>
        let seq := (c.tc q.ctx).seq
        let ls := c.readLat q.ctx src
        let (s1, fl) := readFlits (s.setCore q.core c) q src f
        if sheet then
          match refusedAt s1 p q.core (rimRouter q.core) with
          | some m => isolate s1 p q.core m true
          | none =>
          let bad := lostOn s1 (routeLinks q.core (rimRouter q.core) ++ [rimLink q.core])
          let s1 := match bad with | some (k, l) => seamUe s1 p (seamReceiver k l q.core (rimRouter q.core)) k l | none => s1
          let fl := if bad.isSome then fl.map (fun _ => (BitVec.allOnes 512, true)) else fl
          let head := (packFields 64 [(0, 5, dst.handle), (5, 14, dst.ofs), (19, 8, (tagOf seq dst.tag).toNat), (27, 1, b2n dst.hold),
            (28, 16, (x.sheet.routes.getD (16 * cyv + cxv) 0#64).toNat)] : BitVec 64).toNat
          (sendTensor s1 p fxv (16 * cyv + cxv) (f + 1) 0 fl head).updSlice p
            (fun y => { y with sends := y.sends ++ [{ core := q.core, trk := id, rank := fxv, route := 16 * cyv + cxv, left := f }] })
        else
          let d := placeCore s1 x fxv fyv cxv cyv
          let (h, sx) := hops s1 q.core d
          let sent : List Flit := (List.range f).zip fl |>.map (fun e =>
            { src := q.core, trk := id, part := p, dst := d, ctx := bitsN w 44 2, handle := dst.handle, ofs := dst.byte + 64 * e.1,
              tag := tagOf seq dst.tag, hold := dst.hold, data := e.2.1, poison := e.2.2, due := arrival t ls h sx e.1, vc := if vc3 then 3 else 2 })
          guardDue (launch s1 sent) q.core (.arrival q.core id) (sent.map (·.due)))))

/-! ### Fill and copy (R102) -/

/-- The pattern repeated over `n` slots. -/
def fillData (p : BitVec 32) (n : Nat) : Nat := packList 32 (List.replicate (16 * n) p.toNat)

/-- MFILL: waits whole while the engine is busy; then slot i is written in fc t + Ld - 1 + i. -/
def execMfill (q : Issue) (w : BitVec 80) (s : State) : Out :=
  let o := mvSpo w
  let n := mvCount w
  .next (if (s.core q.core).engine.isSome then s else issue s q false [bitsN w 66 5] [] (fun s t =>
    let r := ((s.core q.core).tc q.ctx).rdS (bitsN w 66 5)
    legalOr s q 2 0x04 [(bitsN w 71 9 != 0 || bitsN w 30 24 != 0, 2), (!o.writes, 3), (o.ofs % 4 != 0, 4)] (poisonSlots q o n t) (fun s =>
      (writeOp s q 6 o n (fillData (bits r.val 0 32) n) r.poison 1 t).updCore q.core (fun c => { c with engine := some .fill }))))

/-- Whether two runs of `n` slots share one. -/
def runsMeet (a b n : Nat) : Bool := decide (a < b + n) && decide (b < a + n)

/-- The copy of `n` slots put on its way: slot i is read in fc t + Ls - 1 + i and written in fc t + Ls + Ld - 1 + i, each with its own marker (R102). The reads are one
access, numbered `no`, and the writes another, `no` + 1. -/
def queueCopy (ctx no sph src : Nat) (stag : Byte) (take : Bool) (dph dst : Nat) (dtag : Byte) (hold : Bool) (t : Nat) : Nat → Core → Core
  | 0, c => c
  | n + 1, c => (queueCopy ctx no sph src stag take dph dst dtag hold t n c).queue
      ⟨t + n, 5, ctx, no, .copy (src + n) sph stag take (no + 1) (dst + n) dph dtag hold⟩

/-- MCOPY: waits whole while the engine is busy. Ranges that share a slot are a block bound violation, recorded with the destination's handle and first slot (DESIGN CHOICE:
notes/assumptions/78.md). A source that breaks a bound reads as poison; a destination that does is
not written (R115). -/
def execMcopy (q : Issue) (w : BitVec 80) (s : State) : Out :=
  let dst := mvSpo w
  let src := spoAt w 30
  let n := mvCount w
  .next (if (s.core q.core).engine.isSome then s else issue s q false [] [] (fun s t =>
    legalOr s q 2 0x05 [(bitsN w 66 14 != 0, 2), (!dst.writes || !src.reads, 3), (dst.ofs % 4 != 0, 4)] (poisonSlots q dst n t) (fun s =>
      let c := s.core q.core
      let stag := tagOf (c.tc q.ctx).seq src.tag
      let dtag := tagOf (c.tc q.ctx).seq dst.tag
      match c.resolve q.ctx src.handle src.byte (64 * n) false (b2n src.take), c.resolve q.ctx dst.handle dst.byte (64 * n) true dst.mode with
      | .ok (sph, a), .ok (ph, b) =>
        if b / 64 ≤ (a + 64 * n - 1) / 64 ∧ a / 64 < b / 64 + n then
          violate s q.core q.ctx { kind := 4, handle := ph, slot := b / 64, expTag := dtag, mode := dst.mode }
        else s.setCore q.core { queueCopy q.ctx c.accNo sph (a / 64) stag src.take ph (b / 64) dtag dst.hold t n c with accNo := c.accNo + 2, engine := some .copy }
      | .error v, .ok _ =>
        (writeOp (violate s q.core q.ctx (v.tagged stag)) q 6 dst n (2 ^ (512 * n) - 1) true 1 (t + 2)).updCore q.core (fun c => { c with engine := some .copy })
      | .ok _, .error v => violate (readItemsOp s q src 64 n).1 q.core q.ctx (v.tagged dtag)
      | .error v, .error _ => violate s q.core q.ctx (v.tagged stag))))

/-- MREL: HELD slots of the tag become EMPTY (Table 5.6). -/
def execMrel (q : Issue) (w : BitVec 80) (s : State) : Out :=
  let o := mvSpo w
  let n := mvCount w
  .next (issue s q false [] [] (fun s _ =>
    legalOr s q 2 0x08 [(bitsN w 66 14 != 0 || bitsN w 30 24 != 0, 2), (o.mode != 4, 3), (o.ofs % 4 != 0, 4)] id (fun s =>
      let c := s.core q.core
      let x := tagOf (c.tc q.ctx).seq o.tag
      match c.resolve q.ctx o.handle o.byte (64 * n) false o.mode with
      | .error v => violate s q.core q.ctx (v.tagged x)
      | .ok (_, a) => s.setCore q.core ((List.range n).foldl (fun c i => c.releaseSlot (a / 64 + i) x) c))))

/-! ### Reductions and merged reads -/

/-- Fields of a reduction node entry (Table 7.3). -/
def rnValid (e : BitVec 32) : Bool := bitAt e 0
def rnNin (e : BitVec 32) : Nat := bitsN e 1 3
def rnIn (e : BitVec 32) (j : Nat) : Nat := bitsN e (4 + 3 * j) 3
def rnOut (e : BitVec 32) : Nat := bitsN e 19 3
def rnPin (e : BitVec 32) : Nat := bitsN e 22 3

/-- A router's entry for a tree. -/
def State.redEntry (s : State) (m tree : Nat) : BitVec 32 := AMap.at (s.core m).router.red 0#32 tree

/-- The place at which an entry lists LOCAL; 7, which no node has, where it lists none. -/
def localPlace (e : BitVec 32) : Nat := match (List.range (rnNin e)).find? (fun j => rnIn e j == 0) with | some j => j | none => 7

/-- RSEND (R170): the flits enter the core's own router, bound for its own place. -/
def execRsend (q : Issue) (w : BitVec 80) (s : State) : Out :=
  let src := mvSpo w
  let tree := bitsN w 30 6
  let fidx := bitsN w 36 9
  let f := bitsN w 45 9 + 1
  let dst := spoAt w 54
  .next (if noInject s q.core then s else issue s q false [] [] (fun s t =>
    let e := s.redEntry q.core tree
    let root := rnValid e && rnOut e == 0
    legalOr s q 2 0x06 [(bitsN w 78 2 != 0 || decide (512 < fidx + f) || (!root && (dst.handle != 0 || dst.ofs != 0)), 2),
        (!src.reads || !dst.writes, 3), (dst.ofs % 4 != 0, 4)] id (fun s =>
      match (s.core q.core).takeTrk q.ctx .meshSend 1 none with
      | none => trkOverrun s q.core q.ctx
      | some (c, id) =>
        let tag := tagOf (c.tc q.ctx).seq dst.tag
        let ls := c.readLat q.ctx src
        let c1 := if root then { c with router := { c.router with roots := c.router.roots.filter (fun r => !(r.tree == tree && r.tag == tag.toNat && r.fidx == fidx)) ++
          [{ tree := tree, fidx := fidx, n := f, tag := tag.toNat, ctx := q.ctx, handle := dst.handle, ofs := dst.byte, hold := dst.hold, tagByte := tag }] } } else c
        let (s1, fl) := readFlits (s.setCore q.core c1) q src f
        let sent : List RedFlit := (List.range f).zip fl |>.map (fun x =>
          { src := q.core, trk := id, part := s1.corePart q.core, dst := q.core, tree := tree, fidx := fidx + x.1, tag := tag.toNat,
            place := localPlace e, data := x.2.1, poison := x.2.2, due := t + ls + x.1 })
        guardDue { s1 with fab := { s1.fab with reds := s1.fab.reds ++ sent } } q.core (.arrival q.core id) (sent.map (·.due)))))

/-- The cycle in which the first slot of a merged read's response is due: the request's way to its holder, the longest wait for its entry's close, the read, and the way back
(R156, R164, R173). -/
def mergeDue (s : State) (c : Core) (q : Issue) (src : Spo) (h t : Nat) : Nat :=
  let (n, sx) := hops s q.core h
  arrival (t + n + 4 * sx + 1 + 64) (c.readLat q.ctx src) n sx 0

/-- MERGE (R173): a request on its way to the holder in the requester's own field. -/
def execMerge (q : Issue) (w : BitVec 80) (s : State) : Out :=
  let src := mvSpo w
  let dst := spoAt w 55
  let cxv := bitsN w 30 4
  let cyv := bitsN w 34 4
  let run := bitsN w 38 5 + 1
  let want := bitsN w 47 8
  .next (if noInject s q.core then s else issue s q false [] [] (fun s t =>
    legalOr s q 2 0x07 [(bitAt w 79 || decide (11 < cxv) || decide (14 < cyv) || decide (want < 2) || decide (180 < want), 2),
        (src.mode != 0 || !dst.writes, 3), (dst.ofs % 4 != 0, 4)] (poisonSlots q dst run t) (fun s =>
      match (s.core q.core).takeTrk q.ctx .merged run none with
      | none => trkOverrun (poisonSlots q dst run t s) q.core q.ctx
      | some (c, id) =>
        let seq := (c.tc q.ctx).seq
        let x := s.imgOf q.core
        let h := match virtOf s x q.core with | some (fx, fy, _, _) => placeCore s x fx fy cxv cyv | none => q.core
        let s1 := s.setCore q.core c
        let due := mergeDue s1 (s1.core h) q src h t
        let msg : MergeMsg := {
          holder := h, part := s1.corePart q.core, group := bitsN w 43 4, tag := tagOf seq src.tag,
          handle := src.handle, ofs := src.byte, sctx := q.ctx, run := run, want := want,
          req := { core := q.core, ctx := q.ctx, handle := dst.handle, ofs := dst.byte, tag := tagOf seq dst.tag, hold := dst.hold, trk := id, due := due } }
        guardDue { s1 with fab := { s1.fab with merges := s1.fab.merges ++ [msg] } } q.core (.arrival q.core id) [due])))

/-! ### KVAPQ (R202, R315) -/

/-- The read of the sign bits at a K position from the descriptor's sign block, a resident structure (R65, R185). -/
def kvSigns (c : Core) (ctx : Nat) (d : BitVec 128) (k : Nat) : ReadOut := c.readRes ctx (qdSignBlk d) (signBit d 64 k / 8) (rowSpan (qdRot d) 64 / 8)

/-- One row quantised into its record. -/
def kvOne (c : Core) (ctx : Nat) (g : Geo) (d : BitVec 128) (row : List (BitVec 16)) : KvRow :=
  kvSlices d (fun k => (kvSigns c ctx d k).data) row (g.elems / 64) 0 {}

/-- KVAPQ. -/
def execKvapq (q : Issue) (w : BitVec 80) (s : State) : Out :=
  let o := mvSpo w
  let npos := bitsN w 51 6 + 1
  .next (issue s q false [mvAreg w] [] (fun s t =>
    let a := ((s.core q.core).tc q.ctx).rdS (mvAreg w)
    let (s0, dn, _) := readResOp s q (bitsN w 35 5) (16 * bitsN w 40 11) 16
    let d : BitVec 128 := BitVec.ofNat 128 dn
    let g := AMap.at (s.core q.core).geos {} (bitsN a.val 32 4)
    let known := (AMap.find (s.core q.core).geos (bitsN a.val 32 4)).isSome
    legalOr s0 q 2 0x09
      [(bitsN w 57 23 != 0, 2), (!o.reads, 3),
       (!known || !qdOk d || qdAfmt d != 1 || qdWfmt d != 1 || qdRot d != g.hdCode || decide (g.scmax < qdScRow d), 5),
       (bitsN a.val 0 16 % g.recSize != 0, 4), (!bitAt a.val 63, 2)] id (fun s =>
      match (s.core q.core).takeTrk q.ctx .kvAppend 1 none with
      | none => trkOverrun s q.core q.ctx
      | some (c, id) =>
        let ls := c.readLat q.ctx o
        let (s1, xs) := readItemsOp (s.setCore q.core c) q o (2 * g.elems) npos
        let c1 := s1.core q.core
        let signs := if qdRot d = 0 then [] else (List.range (g.elems / 64)).map (fun k => kvSigns c1 q.ctx d (64 * k))
        match c1.mast.translate a.val (g.recSize * npos) true with
        | .error e => xlateFault (s1.updCore q.core (fun c => c.freeTrk id)) q.core a.val e
        | .ok pma =>
          let rows := xs.map (fun x => kvOne c1 q.ctx g d ((List.range g.elems).map (fun j => BitVec.ofNat 16 (x.1 >>> (16 * j)))))
          let n := npos * g.recSize / 128
          let st := max (t + ls + 2) (c1.mast.path + 1)
          let lastCyc := (pathCycles c1.mast.refEnd st n).getLastD st
          let ovf := rows.foldl (fun k r => k + r.misses) 0
          let s2 := violateOpt (s1.setCore q.core { c1 with
            mast := { c1.mast with path := lastCyc, plan := c1.mast.planned (t + ls + 2) n }
            appends := c1.appends ++ [{
              trk := id, space := g.space, pma := pma, recs := rows.map (kvRecord g), rs := g.recSize,
              poison := xs.map (fun x => x.2 || signs.any (fun r => r.poison)), due := lastCyc + 24 + 16 * npos }] }) q.core q.ctx (signs.findSome? (fun r => r.viol))
          { s2 with stay := { s2.stay with kvOvf := AMap.upd s2.stay.kvOvf 0 (s2.corePart q.core) (fun k => satAdd 0xFFFFFFFF k ovf) } })))

/-! ### XDISP (R203, R231, R232) -/

/-- Header fields (Table 9.5). -/
def xhNexp (h : BitVec 128) : Nat := bitsN h 0 12
def xhRows (h : BitVec 128) : Nat := bitsN h 12 9 + 1
def xhRl (h : BitVec 128) : Nat := bitsN h 21 9 + 1
def xhPidx (h : BitVec 128) : Nat := bitsN h 30 8
def xhEntry (h : BitVec 128) : Nat := bitsN h 38 13
def xhList (h : BitVec 128) : Nat := bitsN h 63 5
def xhStg (h : BitVec 128) : Nat := bitsN h 68 5

/-- Entry fields (Table 9.6). -/
def xeDest (e : BitVec 128) : Nat := bitsN e 14 5 + 1
def xeCap (e : BitVec 128) : Nat := bitsN e 45 9 + 1

/-- The expert table's header and one of its entries as they lie in a block. -/
def xtHeader (c : Core) (ctx tab : Nat) : BitVec 128 := BitVec.ofNat 128 (c.readRes ctx tab 0 16).data
def xtEntry (c : Core) (ctx tab e : Nat) : BitVec 128 := BitVec.ofNat 128 (c.readRes ctx tab (16 * (1 + e)) 16).data

/-- The key of a table in a core's dispatch state. -/
def xtKey (ctx tab : Nat) : Nat := 32 * ctx + tab

/-- The receivers of an entry: their physical cores, in order (R232). -/
def receivers (s : State) (m : Nat) (e : BitVec 128) : List Nat :=
  let v0 := bitsN e 10 4 * 12 + bitsN e 6 4
  (List.range (xeDest e)).map (fun j => placeCore s (s.imgOf m) (bitsN e 0 3) (bitsN e 3 3) ((v0 + j) % 12) ((v0 + j) / 12))

/-- A flit of a dispatch to a receiver, at slot `slot` of the entry's capacity region. -/
def dispFlit (s : State) (m ctx trk : Nat) (e : BitVec 128) (d slot : Nat) (data : Slot) (poison : Bool) : Flit :=
  let o := spoAt e 21
  { src := m, trk := trk, part := s.corePart m, dst := d, ctx := bitsN e 19 2, handle := o.handle, ofs := o.byte + 64 * slot,
    tag := tagOf ((s.core m).tc ctx).seq o.tag, hold := o.hold, data := data, poison := poison, due := 0, vc := 2 }

/-- The flits of one row to every receiver of an entry: RL slots at capacity slot k and the origin slot (R232). -/
def rowFlits (s : State) (m ctx trk : Nat) (rl : Nat) (e : BitVec 128) (k : Nat) (data : Nat → Slot × Bool) (origin : Slot) : List Flit :=
  ((List.range (xeDest e)).zip (receivers s m e)).flatMap (fun (j, d) =>
    (List.range rl).map (fun i => dispFlit s m ctx trk e d (k * rl + i) (data (j * rl + i)).1 (data (j * rl + i)).2) ++
      [dispFlit s m ctx trk e d (xeCap e * rl + k) origin false])

/-- An origin slot (R232). -/
def originSlot (s : State) (m row sel pass : Nat) : Slot :=
  let v := match virtOf s (s.imgOf m) m with | some v => v | none => (0, 0, 0, 0)
  packFields 512 [(0, 3, v.1), (3, 3, v.2.1), (6, 4, v.2.2.1), (10, 4, v.2.2.2), (16, 9, row), (25, 4, sel), (32, 32, pass)]

/-- The pad of capacity slot k: one flit to every receiver (R232). -/
def padFlits (s : State) (m ctx trk rl : Nat) (e : BitVec 128) (k : Nat) : List Flit :=
  (receivers s m e).map (fun d =>
    { dispFlit s m ctx trk e d (k * rl) 0#512 false with pad := rl, org := (spoAt e 21).byte + 64 * (xeCap e * rl + k) })

/-- The flits of an XDISP in the order in which they leave, each due at its uncontended arrival (R156, R164). DEDUCED: notes/assumptions/76.md. -/
def dueFlits (s : State) (t ls : Nat) : Nat → List Flit → List Flit
  | _, [] => []
  | i, f :: r =>
    let (h, sx) := hops s f.src f.dst
    { f with due := arrival t ls h sx i } :: dueFlits s t ls (i + 1) r

/-- The overflow list takes a record: four bytes of its block, written through the block's bounds and the retire fences (R104, R112, R232). -/
def listRecord (s : State) (q : Issue) (tab : Nat) (r : BitVec 32) (rowNo : Nat) : State :=
  let c := s.core q.core
  let key := xtKey q.ctx tab
  let x := AMap.at c.xtabs { xtab := tab, ctx := q.ctx } key
  match c.resolve q.ctx (xhList (xtHeader c q.ctx tab)) (4 * x.listed.length) 4 true 2 with
  | .error v => violate s q.core q.ctx v
  | .ok (ph, a) =>
    if c.fenced (a / 64) then
      violate s q.core q.ctx { kind := 3, handle := ph, slot := a / 64, foundTag := (c.tell (a / 64)).tag, foundSt := (c.tell (a / 64)).st.code, mode := 2 }
    else s.setCore q.core { c with pad := Memory.writeN c.pad a r.toNat 4, xtabs := AMap.put c.xtabs key { x with listed := x.listed ++ [r], rowNos := x.rowNos ++ [rowNo] } }

/-- One selection of a row: sent within capacity, or listed. The flits sent so far come along. -/
def dispatchOne (q : Issue) (tab trk rl rowNo sel ei rowSlot : Nat) (data : Nat → Slot × Bool) (a : State × List Flit) : State × List Flit :=
  let s := a.1
  let c := s.core q.core
  let key := xtKey q.ctx tab
  let x := AMap.at c.xtabs { xtab := tab, ctx := q.ctx } key
  let e := xtEntry c q.ctx tab ei
  let n := AMap.at x.sent 0 ei
  if n < xeCap e then
    (s.setCore q.core { c with xtabs := AMap.put c.xtabs key { x with sent := AMap.put x.sent ei (n + 1) } },
     a.2 ++ rowFlits s q.core q.ctx trk rl e n data (originSlot s q.core rowNo sel 0))
  else (listRecord s q tab (packFields 32 [(0, 16, rowSlot), (16, 4, sel), (20, 12, ei)]) rowNo, a.2)

/-- Every capacity slot that no row has taken padded, as the table closes. -/
def closeTable (q : Issue) (tab trk : Nat) (a : State × List Flit) : State × List Flit :=
  let s := a.1
  let c := s.core q.core
  let h := xtHeader c q.ctx tab
  let key := xtKey q.ctx tab
  let x := AMap.at c.xtabs { xtab := tab, ctx := q.ctx } key
  let fl := (List.range (xhNexp h)).flatMap (fun ei =>
    let e := xtEntry c q.ctx tab ei
    let n := AMap.at x.sent 0 ei
    (List.range (xeCap e - n)).flatMap (fun i => padFlits s q.core q.ctx trk (xhRl h) e (n + i)))
  (s.setCore q.core { c with xtabs := AMap.put c.xtabs key { x with rows := 0, sent := [] } }, a.2 ++ fl)

/-- Rows dispatched one after another, each row's selections in order: `slot0` is the physical slot of the first row, `w` the flits of a row, `fl` the flits of the rows left
and `recs` their selection records. -/
def dispatchRows (q : Issue) (tab trk rl w : Nat) : Nat → List (Slot × Bool) → List (Nat × Bool) → State × List Flit → State × List Flit
  | _, _, [], a => a
  | slot, fl, r :: recs, a =>
    let key := xtKey q.ctx tab
    let rowNo := (AMap.at (a.1.core q.core).xtabs { xtab := tab, ctx := q.ctx } key).rows
    let a1 := (List.range 16).foldl (fun a j =>
      let ei := bitsN (BitVec.ofNat 256 r.1) (16 * j) 16
      if ei = 0xFFFF then a else dispatchOne q tab trk rl rowNo j ei slot (fun k => fl.getD k (0#512, false)) a) a
    let s2 := a1.1.updCore q.core (fun c => { c with xtabs := AMap.upd c.xtabs { xtab := tab, ctx := q.ctx } key (fun x => { x with rows := x.rows + 1 }) })
    let a2 := if rowNo + 1 = xhRows (xtHeader (s2.core q.core) q.ctx tab) then closeTable q tab trk (s2, a1.2) else (s2, a1.2)
    dispatchRows q tab trk rl w (slot + w) (fl.drop w) recs a2

/-- The entries that selection records name. -/
def xtNamed (sel : List (Nat × Bool)) : List Nat :=
  ((sel.flatMap (fun r => (List.range 16).map (fun j => bitsN (BitVec.ofNat 256 r.1) (16 * j) 16))).filter (· != 0xFFFF)).eraseDups

/-- The entries that an XDISP reads: those that its selection records name, and every entry where the table closes with its rows (R231, R232). -/
def xtUsed (x : XTable) (h : BitVec 128) (sel : List (Nat × Bool)) : List Nat :=
  if xhRows h ≤ x.rows + sel.length then List.range (xhNexp h) else xtNamed sel

/-- The flits that a row of SRC holds: those of the table's expert with the most receivers (R232). DEDUCED: notes/assumptions/82.md. -/
def rowWidth (c : Core) (ctx tab : Nat) (h : BitVec 128) : Nat :=
  xhRl h * (List.range (xhNexp h)).foldl (fun a e => max a (xeDest (xtEntry c ctx tab e))) 1

/-- XDISP. The header, the selection records and the entries are read; a selection index at or above NEXP, other than 0xFFFF, or an entry whose DST is no write operand at a
slot's start, is illegal (R106, R211, R231). -/
def execXdisp (q : Issue) (w : BitVec 80) (s : State) : Out :=
  let src := mvSpo w
  let sel := spoAt w 30
  let rows := bitsN w 54 9 + 1
  let tab := bitsN w 63 5
  .next (if noInject s q.core then s else issue s q false [] [] (fun s t =>
    let c := s.core q.core
    let (s0, hn, hp) := readResOp s q tab 0 16
    let h : BitVec 128 := BitVec.ofNat 128 hn
    let recs := (c.readItems q.ctx sel.handle sel.byte 32 rows sel.tag false).2.1
    let past := hp || (xtNamed recs).any (fun e => decide (xhNexp h ≤ e))
    let used := if past then [] else xtUsed (AMap.at c.xtabs { xtab := tab, ctx := q.ctx } (xtKey q.ctx tab)) h recs
    let s1 := used.foldl (fun s e => (readResOp s q tab (16 * (1 + e)) 16).1) s0
    let dst := fun e => spoAt (xtEntry c q.ctx tab e) 21
    legalOr s1 q 2 0x0A [(bitsN w 68 12 != 0, 2), (!src.reads || !sel.reads, 3), (past, 2),
        (used.any (fun e => !(dst e).writes), 3), (used.any (fun e => (dst e).ofs % 4 != 0), 4)] id (fun s =>
      match (s.core q.core).takeTrk q.ctx .dispatch 1 none with
      | none => trkOverrun s q.core q.ctx
      | some (c, id) =>
        let wd := rowWidth c q.ctx tab h
        let ls := c.readLat q.ctx src
        let slot := match c.resolve q.ctx src.handle src.byte 64 false 0 with | .ok (_, a) => a / 64 | .error _ => 0
        let (s2, fl) := readFlits (s.setCore q.core c) q src (wd * rows)
        let (s3, recs) := readItemsOp s2 q sel 32 rows
        let (s4, sent) := dispatchRows q tab id (xhRl h) wd slot fl recs (s3, [])
        let out := dueFlits s4 t ls 0 sent
        guardDue (launch s4 out) q.core (.arrival q.core id) (out.map (·.due)))))

end Sys2Proof.Machine
end

