-- ==== Sys2Proof/Machine/Control.lean ====
section
/-! DEFINITION. The control-slot instructions (08 R204 to R206). -/

namespace Sys2Proof.Machine

/-- CNOP (R179): the bundle's end, and nothing else. -/
def execCnop (q : Issue) (w : BitVec 48) (s : State) : Out :=
  .next (issueCtrl s q [] (fun s _ => legalOr s q 3 0x00 [(bitsN w 6 42 != 0, 2)] id id))

/-- SLI. -/
def execSli (q : Issue) (w : BitVec 48) (s : State) : Out :=
  .next (issueCtrl s q [cSd w] (fun s t =>
    legalOr s q 3 0x01 [(bitsN w 11 5 != 0, 2)] (poisonSReg q (cSd w) (t + 1)) (fun s =>
      s.updCtx q.core q.ctx (fun x => x.wrS (cSd w) ⟨(bits w 16 32 : BitVec 32).signExtend 64, false⟩ (t + 1)))))

/-- SLIH. -/
def execSlih (q : Issue) (w : BitVec 48) (s : State) : Out :=
  .next (issueCtrl s q [cSd w] (fun s t =>
    legalOr s q 3 0x02 [(bitsN w 11 5 != 0, 2)] (poisonSReg q (cSd w) (t + 1)) (fun s =>
      s.updCtx q.core q.ctx (fun x =>
        let d := x.rdS (cSd w)
        x.wrS (cSd w) (if d.poison then poisonS else ⟨setBits d.val 32 32 (bitsN w 16 32), false⟩) (t + 1)))))

/-- Operand B: s[SB], or the 26-bit signed immediate. -/
def operandSb (x : Ctx) (w : BitVec 48) : SReg :=
  if cIf w then ⟨(bits w 22 26 : BitVec 26).signExtend 64, false⟩ else x.rdS (cSb w)

/-- A scalar operation of two operands, its result usable by the next bundle (R204). -/
def scalarOp (q : Issue) (w : BitVec 48) (f : Dword → Dword → Dword) (s : State) : State :=
  issueCtrl s q ([cSd w, cSa w] ++ (if cIf w then [] else [cSb w])) (fun s t =>
    s.updCtx q.core q.ctx (fun x =>
      let a := x.rdS (cSa w)
      let b := operandSb x w
      x.wrS (cSd w) (if a.poison || b.poison then poisonS else ⟨f a.val b.val, false⟩) (t + 1)))

/-- SADD. -/
def execSadd (q : Issue) (w : BitVec 48) (s : State) : Out := .next (scalarOp q w (fun a b => a + b) s)

/-- SSUB. -/
def execSsub (q : Issue) (w : BitVec 48) (s : State) : Out := .next (scalarOp q w (fun a b => a - b) s)

/-- SMUL: the low 64 bits. -/
def execSmul (q : Issue) (w : BitVec 48) (s : State) : Out := .next (scalarOp q w (fun a b => a * b) s)

/-- SAND. -/
def execSand (q : Issue) (w : BitVec 48) (s : State) : Out := .next (scalarOp q w (fun a b => a &&& b) s)

/-- SOR. -/
def execSor (q : Issue) (w : BitVec 48) (s : State) : Out := .next (scalarOp q w (fun a b => a ||| b) s)

/-- SXOR. -/
def execSxor (q : Issue) (w : BitVec 48) (s : State) : Out := .next (scalarOp q w (fun a b => a ^^^ b) s)

/-- SSHL: by operand B[5:0]. -/
def execSshl (q : Issue) (w : BitVec 48) (s : State) : Out := .next (scalarOp q w (fun a b => a <<< bitsN b 0 6) s)

/-- SSHR: logical, by operand B[5:0]. -/
def execSshr (q : Issue) (w : BitVec 48) (s : State) : Out := .next (scalarOp q w (fun a b => a >>> bitsN b 0 6) s)

/-- SLDS: 8 bytes of a 16-byte unit, usable after the bank's latency. -/
def execSlds (q : Issue) (w : BitVec 48) (s : State) : Out :=
  let o := spoAt w 11
  .next (issueCtrl s q [cSd w] (fun s t =>
    legalOr s q 3 0x0B [(bitsN w 36 12 != 0, 2), (!o.reads, 3)] (poisonSReg q (cSd w) (t + 1)) (fun s =>
      let lat := (s.core q.core).readLat q.ctx o
      let (s1, d, p) := readOp s q o 16
      s1.updCtx q.core q.ctx (fun x => x.wrS (cSd w) (if p then poisonS else ⟨BitVec.ofNat 64 (if bitAt w 35 then d >>> 64 else d), false⟩) (t + lat)))))

/-- SSTS: the register in the low 8 bytes of a slot whose rest is zero. -/
def execSsts (q : Issue) (w : BitVec 48) (s : State) : Out :=
  let o := spoAt w 11
  .next (issueCtrl s q [cSd w] (fun s t =>
    legalOr s q 3 0x0C [(bitsN w 35 13 != 0, 2), (!o.writes, 3), (o.ofs % 4 != 0, 4)] (poisonSlots q o 1 t) (fun s =>
      let d := ((s.core q.core).tc q.ctx).rdS (cSd w)
      writeOp s q 5 o 1 d.val.toNat d.poison 0 t)))

/-! ### Branches, loops and waits -/

/-- A branch condition (R204). -/
def condMeets (c : Nat) (a : Dword) : Bool :=
  match c with
  | 0 => a == 0#64
  | 1 => a != 0#64
  | 2 => a.msb
  | _ => !a.msb

/-- A branch bundle ends: at the target or at the following index, 4 fc later (R183). -/
def endBranch (q : Issue) (taken : Bool) (target : BitVec 13) (t : Nat) (s : State) : State :=
  s.updCtx q.core q.ctx (fun x => (if taken then x.leave target else x.advance).holdTo (t + 4))

/-- The end of a bundle that the tracker turned away, or whose branch or LOOP is illegal: its context goes on with the following one. -/
def passBy (q : Issue) (s : State) (t : Nat) : State := s.updCtx q.core q.ctx (fun x => x.advance.holdTo (t + 1))

/-- BR. -/
def execBr (q : Issue) (w : BitVec 48) (s : State) : Out :=
  .next (issueOr s q false [bitsN w 6 5] [] (passBy q) (fun s t =>
    let a := ((s.core q.core).tc q.ctx).rdS (bitsN w 6 5)
    if bitsN w 26 22 != 0 then endBranch q false 0#13 t (illegal s q.core q.ctx 3 0x0D 2)
    else endBranch q (condMeets (bitsN w 11 2) a.val) (bits w 13 13) t s))

/-- JMP. -/
def execJmp (q : Issue) (w : BitVec 48) (s : State) : Out :=
  .next (issueOr s q false [] [] (passBy q) (fun s t =>
    if bitsN w 26 22 != 0 then endBranch q false 0#13 t (illegal s q.core q.ctx 3 0x0E 2)
    else endBranch q true (bits w 13 13) t s))

/-- Where a LOOP leads: into its body, `n` times; with none, past END, where an outer LOOP that ends there too has its turn. -/
def Ctx.loop (x : Ctx) (n : Nat) (e : BitVec 13) : Ctx :=
  if n = 0 then ({ x with pc := e } : Ctx).turn x.loops
  else { x.leave (x.pc + 1#13) with loops := { first := x.pc + 1#13, last := e, left := n - 1 } :: x.loops }

/-- LOOP: the body from the next bundle to END, s[SA] times; zero times skips it. -/
def execLoop (q : Issue) (w : BitVec 48) (s : State) : Out :=
  .next (issueOr s q false [bitsN w 6 5] [] (passBy q) (fun s t =>
    let n := (((s.core q.core).tc q.ctx).rdS (bitsN w 6 5)).val.toNat
    if bitsN w 26 22 != 0 then passBy q (illegal s q.core q.ctx 3 0x0F 2) t
    else s.updCtx q.core q.ctx (fun x => (x.loop n (bits w 13 13)).holdTo (t + 1))))

/-- WAITC: nothing issues for COUNT schedule cycles. -/
def execWaitc (q : Issue) (w : BitVec 48) (s : State) : Out :=
  .next (issueCtrl s q [] (fun s t =>
    legalOr s q 3 0x10 [(bitsN w 22 26 != 0, 2)] id (fun s => s.updCtx q.core q.ctx (fun x => x.holdTo (t + 1 + (bitsN w 6 16 + 1))))))

/-- SEQADV (R108). -/
def execSeqadv (q : Issue) (w : BitVec 48) (s : State) : Out :=
  .next (issueCtrl s q [] (fun s _ =>
    legalOr s q 3 0x11 [(bitsN w 6 42 != 0, 2)] id (fun s => s.updCtx q.core q.ctx (fun x => { x with seq := seqNext x.seq }))))

/-- HAND (R40): a sail passes to another context, from the next fc on, or from the fc in which the weight-tile operation in flight completes. -/
def execHand (q : Issue) (w : BitVec 48) (s : State) : Out :=
  let i := bitsN w 6 2
  .next (issueCtrl s q [] (fun s t =>
    legalOr s q 3 0x12 [(bitsN w 10 38 != 0, 2), (!decide (i < s.rigSails q.core), 7)] id (fun s =>
      if ((s.core q.core).sail i).owner = q.ctx.val then s.updSail q.core i (fun y => { y with hand := some (bitsN w 8 2, max (t + 1) y.opEnd) })
      else violate s q.core q.ctx { kind := 5 })))

/-- HSET (R105): physical handle TBASE + LH rewritten. -/
def execHset (q : Issue) (w : BitVec 48) (s : State) : Out :=
  .next (issueCtrl s q [cSa w] (fun s _ =>
    let x := (s.core q.core).tc q.ctx
    let a := x.rdS (cSa w)
    let h := (x.tbase + bitsN w 6 5) % 32
    legalOr s q 3 0x13 [(bitsN w 16 32 != 0 || decide (x.tcnt ≤ bitsN w 6 5) || a.poison || bitsN a.val 29 3 != 0, 2)] id (fun s =>
      s.updCore q.core (fun c => if hh : h < 32 then { c with handles := c.handles.set h (bits a.val 0 32) hh } else c))))

/-- VPAT (R206): a pattern staged for the next PHASE. -/
def execVpat (q : Issue) (w : BitVec 48) (s : State) : Out :=
  .next (issueCtrl s q [cSa w] (fun s _ =>
    let a := ((s.core q.core).tc q.ctx).rdS (cSa w)
    let code := fun j => bitsN a.val (3 * j) 3
    legalOr s q 3 0x14 [(q.ctx.val != 0, 6), (bitsN w 6 5 != 0 || bitsN w 16 32 != 0 || a.poison || bitsN a.val 48 16 != 0 ||
        anyBelow 16 (fun j => decide (4 < code j)), 2)] id (fun s =>
      s.updCore q.core (fun c => { c with staged := some (Vector.ofFn (fun j : Fin 16 => code j)) }))))

/-! ### Phases and overflow points -/

/-- Held records of a dispatcher for an expert. -/
def heldOf (x : XTable) (e : Nat) : Nat := (x.listed.filter (fun r => bitsN r 20 12 == e)).length

/-- The dispatchers of a field that hold records of a table whose overflow point is a phase (R233). -/
def overflowTables (s : State) (n pidx : Nat) : List (Nat × Nat × Nat) :=
  (List.range 192).flatMap (fun i =>
    let m := n * 192 + i
    let c := s.core m
    (c.xtabs.filter (fun p => !p.2.listed.isEmpty && xhPidx (xtHeader c p.2.ctx p.2.xtab) == pidx)).map (fun p => (m, p.2.ctx, p.2.xtab)))

/-- The passes of an overflow, in ascending expert index (R233). -/
def overflowQueue (s : State) (ts : List (Nat × Nat × Nat)) : List (Nat × Nat) :=
  let one := fun (e : Nat) (d : Nat × Nat × Nat) =>
    let c := s.core d.1
    ceilDiv (heldOf (AMap.at c.xtabs { xtab := d.2.2, ctx := d.2.1 } (xtKey d.2.1 d.2.2)) e) (xeCap (xtEntry c d.2.1 d.2.2 e))
  (List.range 4096).flatMap (fun e =>
    let n := ts.foldl (fun a d => max a (one e d)) 0
    (List.range n).map (fun k => (e, k + 1)))

/-- At an overflow point with held records the field controller arms a pass, 24 cycles ahead (R233). -/
def overflowPoint (s : State) (m pidx t : Nat) : State :=
  let n := m / 192
  match (s.field n).ovf, overflowTables s n pidx with
  | none, d :: ts =>
    let s1 := s.updField n (fun f => { f with ovf := some {
      pidx := pidx, tables := d :: ts, entry := xhEntry (xtHeader (s.core d.1) d.2.1 d.2.2), queue := overflowQueue s (d :: ts), phase := .armed } })
    armLuff s1 (s.corePart m) (.overflow n) (t + 24)
  | _, _ => s

/-- On a rank other than 0, TC0 of virtual core 0 sends the commit gate (R362). -/
def commitGate (s : State) (m pidx t : Nat) : State :=
  let p := s.corePart m
  let x := s.imgOf m
  let y := s.slice p
  if y.mods != 0 && y.rank != 0 && x.sheet.gatePidx == pidx && virtOf s x m == some (0, 0, 0, 0) then
    (sendFrame s p 0 2 (s.grp p).failed 0 0 0 s.tb.toNat 0).updGrp p (fun g => { g with gate := some t })
  else s

/-- PHASE (R206, R236): the phase's declaration in force, a staged pattern in effect from the next fc on, the overflow point and the commit gate. In a routine that the sequencer runs, it puts
nothing in force on any core. -/
def execPhase (q : Issue) (w : BitVec 48) (s : State) : Out :=
  let pidx := bitsN w 6 8
  .next (issueCtrl s q [] (fun s t =>
    legalOr s q 3 0x15 [(bitsN w 14 34 != 0, 2), (q.ctx.val != 0, 6)] id (fun s =>
      if inRoutine s q then s
      else
        let s1 := s.updCore q.core (fun c => { c with
          phase := pidx, winMax := max c.winMax (AMap.at c.decl 0 pidx)
          shunt := if AMap.at c.decl 0 c.phase < AMap.at c.decl 0 pidx then t + 200 else c.shunt, pattern := c.staged.getD c.pattern, staged := none
          patFrom := if c.staged.isSome then t + 1 else c.patFrom, patOld := if c.staged.isSome then c.pattern else c.patOld })
        commitGate (overflowPoint s1 q.core pidx t) q.core pidx t)))

/-- ESCM (R94): OPEN clears the layer's mask, and the core latches the mask. -/
def execEscm (q : Issue) (w : BitVec 48) (s : State) : Out :=
  let l := bitsN w 6 2
  let n := q.core.val / 192
  .next (issueCtrl s q [] (fun s _ =>
    legalOr s q 3 0x16 [(bitsN w 9 39 != 0, 2)] id (fun s =>
      let s1 := if bitAt w 8 then s.updField n (fun f => { f with escMask := AMap.put f.escMask l [] }) else s
      (s1.updCore q.core (fun c => { c with masks := AMap.put c.masks l (AMap.at (s1.field n).escMask [] l) })).updCtx q.core q.ctx
        (fun x => { x with lsel := l }))))

/-- WSTEP: the context's step ends. -/
def execWstep (q : Issue) (w : BitVec 48) (s : State) : Out :=
  .next (issueCtrl s q [] (fun s _ =>
    legalOr s q 3 0x19 [(bitsN w 6 42 != 0, 2)] id (fun s => s.updCtx q.core q.ctx (fun x => { x with ended := true, loops := [] }))))

end Sys2Proof.Machine
end

