-- ==== Sys2Proof/Machine/Faults.lean ====
section
/-! DEFINITION. Faults beyond the step-fail line: ending a step at once, partition faults, dead cores and their recovery (09 R220, R230, 19 R439 to R443). -/

namespace Sys2Proof.Machine

/-! ### Ending a step at once (R230) -/

/-- An append of records placed into its page (R307). A plane row that a poisoned record reaches is written with the marker, and so is a row found uncorrectable, `bad` (R127,
R317); any other row that it writes loses its marker only where the whole of it is written, so one that has it keeps it. -/
def Mast.place (x : Mast) (g : Geo) (a : Append) (bad : Option Nat) : Mast :=
  let base := a.pma / 0x10000 * 0x10000
  let p0 := a.pma % 0x10000 / (max a.rs 1)
  let ps := (List.range a.recs.length).map (p0 + ·)
  let hurt := ((ps.zip a.poison).filter (·.2)).flatMap (fun r => (planeRows g r.1).map (base / 128 + ·)) ++ bad.toList
  { x with data := (ps.zip a.recs).foldl (fun d r => placeRecord g d base r.1 r.2) x.data
           poison := x.poison ++ (hurt.filter (fun r => !x.poison.contains r)).eraseDups }

/-- A core's saved state restored; SEQ and the handles stand as the routine left them. -/
def Core.restore (c : Core) : Core :=
  match c.saved with
  | none => c
  | some k => { c.setTc 0 { k.tc0 with seq := (c.tc 0).seq } with sails := k.sails, pattern := k.pattern, patFrom := 0, vecNext := k.vecNext, saved := none }

/-- A router's stores without what a step left in them. -/
def Router.dropStep (r : Router) : Router := { r with parts := [], sums := [], bad := [], roots := [], merges := [], waiting := [], closed := [] }

/-- An operation that completes outside its core: its entry is released when it has. -/
def TrackKind.travels : TrackKind → Bool
  | .tileLoad => false
  | .outTile => false
  | .longVec => false
  | _ => true

/-- A sail as a step is ended at once: its operations abandoned, a hand-over issued carried out. -/
def Sail.endStep (y : Sail) : Sail :=
  { y with phase := .idle, esc := [], stage := [], tile := none, loads := [], owner := (y.hand.map (·.1)).getD y.owner, hand := none, opEnd := 0, opWait := false }

/-- A core as the step is ended: sequencers restored, contexts waiting for the boundary, the entries of what runs inside the core released. -/
def Core.endStep (c0 : Core) : Core :=
  let c := c0.restore
  { c with
    tracks := c.tracks.filter (fun k => k.kind.travels), engine := none
    ctx := c.ctx.map (fun x => { x.endBundle with ended := true, loops := [] }), sails := c.sails.map Sail.endStep }

/-- The step of a partition ended at once: items abandoned, the line dropped, nothing further issued. Accesses, mast writes and sends already issued complete, and the end
boundary waits for their tracker entries only (R230). -/
def endStepNow (s0 : State) (p : Nat) : State :=
  if (s0.grp p).inStep then
    let s := s0.settleEnd p
    let s1 := s.updGrp p (fun g => { g with closed := true, stalled := none, items := g.items.filter (fun i => i.boundary) })
    let s2 := s1.eachCore (s1.coresOf p) (fun _ c => c.endStep)
    (s2.fieldsOf p).foldl (fun s n => s.updField n (fun f => { f with ovf := none })) s2
  else s0

/-! ### Partition-class faults (R442, R443) -/

/-- Whether an entry holds a decode slot of one of a partition's images. -/
def concerned (s : State) (p : Nat) (slots : List Nat) (e : Nat) (x : Entry) : Bool :=
  let r := (s.part p).req
  r.owns e && x.st == EntSt.active && slots.contains x.islot && x.ended.isNone

/-- Every entry that holds a decode slot of one of the images gets the status of a row-1 event (Table 11.6). -/
def markEntries (s : State) (p : Nat) (slots : List Nat) (status : Nat) : State :=
  { s with table := { s.table with entries := AMap.mapAll s.table.entries (fun e x =>
      if concerned s p slots e x then { x with ended := some status } else x) } }

/-- How many entries that is. -/
def itemCount (s : State) (p : Nat) (slots : List Nat) : Nat := (s.table.entries.filter (fun x => concerned s p slots x.1 x.2)).length

/-- A partition-class fault: logged, the step failed and ended at once, the entries concerned marked. -/
def partFault (s : State) (p code n c status : Nat) (slots : List Nat) : State :=
  let s0 := raiseFaultN s p code n c (itemCount s p slots)
  let s1 := if (s.grp p).inStep then failStep s0 p code else s0
  markEntries (endStepNow s1 p) p slots status

/-- Whether the placement that a hoist has chosen covers field n. -/
def Hoist.onField (h : Hoist) (s : State) (n : Nat) : Bool :=
  match h.place with
  | none => false
  | some (ox, oy, _, _) =>
    let (fx, fy) := s.fieldXY n
    decide (ox ≤ fx) && decide (fx ≤ ox + rigWF h.rig) && decide (oy ≤ fy) && decide (fy ≤ oy + rigHF h.rig)

/-- A fault of R443: besides, the image slots concerned are emptied at the boundary, and a hoist whose placement the field belongs to ends CORE_LOST (R262). -/
def lostFault (s : State) (p code n c status : Nat) (slots : List Nat) : State :=
  (partFault s p code n c status slots).updPart p (fun x =>
    { x with
      hoist := x.hoist.map (fun h => if h.onField s n then { h with lost := true } else h)
      emptying := x.emptying ++ (slots.filter (fun i => !(x.emptying.any (fun e => e.slot == i)))).map (fun i => ⟨i, status⟩) })

/-- A field taken out of service until the next start. -/
def darkField (s : State) (n : Nat) : State :=
  let s1 := s.updField n (fun f => { f with mode := .dark })
  let y := s1.sys
  { s1 with sys := { y with
      clk := { y.clk with fields := AMap.upd y.clk.fields {} n (fun c => { c with locked := false, corners := 0#4, unlockAt := none }) }
      pwr := { y.pwr with
        fields := AMap.upd y.pwr.fields {} n (fun c => { c with st := if c.st = 4 then 4 else 0 })
        cores := AMap.mapAll y.pwr.cores (fun m c => if m / 192 = n then { c with st := if c.st = 5 ∨ c.st = 6 then c.st else 0, volt := 0 } else c) }
      fw := { y.fw with fc := AMap.del y.fw.fc n, reloading := if y.fw.reloading = some n then none else y.fw.reloading } } }

/-- Whether something still holds a partition at its boundary: a recovery, a field out of lock, a field controller being reloaded (R376, R439, R535). -/
def stillHeld (s : State) (p : Nat) : Bool :=
  (s.part p).recov.isSome || (s.fieldsOf p).any (fun n => (AMap.at s.sys.clk.fields {} n).unlockAt.isSome || s.sys.fw.reloading == some n)

/-- The hold given up where nothing holds the partition any more. -/
def releaseHold (s : State) (p : Nat) : State := s.updGrp p (fun g => { g with held := stillHeld s p })

/-- The key of a physical column: field and column. -/
def colKey (m : Nat) : Nat := m / 192 * 12 + m % 12

/-- The dead core of a column copy that runs, in the lowest partition that has one. -/
def firstCopy (s : State) : Option Nat :=
  (s.parts.flatMap (fun x => match x.2.recov with | some r => r.dead.filter (fun d => r.copies.contains (colKey d)) | none => [])).head?

/-- MST_XT_CTRL and MST_XT_STAT show one copy: a copy that they show and that has been given up is no longer BUSY, and another that runs is shown next (Table 6.10).
DESIGN CHOICE: notes/assumptions/108.md. -/
def followCopy (s : State) : State :=
  let runs := s.parts.any (fun x => match x.2.recov with | some r => r.copies.contains (s.xt.field * 12 + s.xt.cxp) | none => false)
  if s.xt.busy && runs then s
  else
    let x := if s.xt.busy then { s.xt with busy := false, done := false, err := false, progress := s.fresh.toNat % 256 } else s.xt
    { s with xt := match firstCopy s with
      | none => x
      | some m => { x with field := m / 192, cxp := m % 12, row := m % 192 / 12, go := true, busy := true, progress := 0 } }

/-- A field's part of a running recovery given up; with nothing left to recover the partition no longer holds (R440). -/
def dropRecov (s : State) (p n : Nat) : State :=
  match (s.part p).recov with
  | none => s
  | some r =>
    let r1 : Recov := { dead := r.dead.filter (fun d => d / 192 != n), spares := r.spares.filter (fun k => k / 12 != n)
                        copies := r.copies.filter (fun k => k / 12 != n), tests := r.tests.filter (· != n) }
    followCopy (if r1.dead.isEmpty then releaseHold (s.updPart p (fun x => { x with recov := none })) p
    else s.updPart p (fun x => { x with recov := some r1 }))

/-- A field fault: items of the images on the field end with FIELD_LOST, and the field goes dark. -/
def fieldLost (s : State) (n code : Nat) : State :=
  let f := s.field n
  if f.owned then releaseHold (darkField (dropRecov (lostFault s f.part code n noCore 0x23 (s.slotsOn f.part n)) f.part n) n) f.part
  else darkField (evrFault s code 0xFF n noCore none) n

/-! ### Dead cores (R220, R439, R440) -/

/-- A core furled, its domain off; nothing of it is outstanding any more. -/
def furlCore (s : State) (m cause : Nat) : State :=
  let y := s.sys
  ({ s with sys := { y with pwr := { y.pwr with cores := AMap.mapAll y.pwr.cores (fun k c =>
      if k = m then { c with st := if c.st = 5 ∨ c.st = 6 then c.st else 0, volt := 0 } else c) } } }).updCore m (fun c => { c with
    stat := { c.stat with furled := true, furlCause := cause, sailCnt := 0, powered := 0#4 }, tracks := [], lands := [], appends := [], late := [], taken := [], engine := none })

/-- Vmax in mV (R399). -/
def vMax : Nat := 850

/-- A core whose domain is in regulation (Table 17.12: TRIM, VMAX, REEFED, HALF_RATE). -/
def CorePwr.on (c : CorePwr) : Bool := decide (1 ≤ c.st) && decide (c.st ≤ 4)

/-- The supply state that a core in regulation shows: HALF_RATE and REEFED over the voltage. -/
def CorePwr.show (c : CorePwr) : CorePwr :=
  if c.on then { c with st := if c.half then 4 else if c.reefed then 3 else if c.volt = vMax then 2 else 1 } else c

/-- A core's domain brought up within 0.55 V and Vmax, all four phases connected (R397, R399). -/
def powerCore (s : State) (m : Nat) : State :=
  s.updCorePwr m (fun c => if c.st = 0 then ({ c with st := 1, volt := max 550 (min vMax (Config.startVolt m)), phases := 15#4 } : CorePwr).show else c)

/-- A column's map with row g furled, the spare that it takes into the grid powered (R12, R397). -/
def mapSpare (s : State) (n cxp g : Nat) : State := (powerCore s (n * 192 + 180 + cxp)).updField n (fun x => { x with furlRow := AMap.put x.furlRow cxp g })

/-- A core lost with no spare to take its place: the field goes dark (R440, R443). -/
def coreLost (s : State) (m code : Nat) : State :=
  let n := m / 192
  let f := s.field n
  let s1 := lostFault s f.part code n (m % 192) 0x24 (s.slotsOn f.part n)
  dropRecov (if code = 0x42 then darkField s1 n else s1) f.part n

/-- A core dies: the step fails and ends, the core is furled, and its column recovers under R439, the spare's domain brought up, or is lost. -/
def coreDead (s : State) (m code cause : Nat) : State :=
  let n := m / 192
  let cxp := m % 12
  let g := m % 192 / 12
  let f := s.field n
  let spare := s.hasSpare n cxp && (List.range (15 - g)).all (fun i => !(s.core (n * 192 + (g + i) * 12 + cxp)).mast.failed)
  let s0 := furlCore s m cause
  if !f.owned then
    let s1 := evrFault s0 code 0xFF n (m % 192) none
    if f.furl cxp = g ∧ g ≠ 15 then s0
    else if !spare then fieldLost s1 n 0x42
    else if g = 15 then s1.updField n (fun x => { x with spareLost := x.spareLost ++ [cxp] })
    else mapSpare s1 n cxp g
  else if f.furl cxp = g ∧ g ≠ 15 then s0
  else
    let p := f.part
    let s1 := raiseFault s0 p code n (m % 192)
    let again := match (s.part p).recov with | some r => r.dead.any (fun d => colKey d == colKey m) | none => false
    if again then coreLost s1 m 0x42
    else if g = 15 ∧ f.furl cxp = 15 then s1.updField n (fun x => { x with spareLost := x.spareLost ++ [cxp] })
    else
      let s2 := if (s1.grp p).inStep then endStepNow (failStep s1 p code) p else s1
      if spare then
        let held := (powerCore s2 (n * 192 + 180 + cxp)).updGrp p (fun x => { x with held := true })
        followCopy ((held.updPart p (fun x =>
          let r := x.recov.getD {}
          { x with recov := some { dead := r.dead ++ [m], spares := r.spares ++ [colKey m], copies := r.copies ++ [colKey m],
                                   tests := if r.tests.contains n then r.tests else r.tests ++ [n] } })).updField n (fun x =>
          { x with mode := if x.mode = .normal then .draining else x.mode }))
      else coreLost s2 m 0x42

/-- A mast column has failed (R130): FAILED set, the failure logged with the tier and wide row that showed it, the core furled, the items of its images lost; with a spare the
new map applies at once, without a copy (R443). -/
def columnFail (s : State) (m : Nat) (code row : Nat) : State :=
  if (s.core m).mast.failed then s
  else
    let n := m / 192
    let cxp := m % 12
    let g := m % 192 / 12
    let f := s.field n
    let spare := s.hasSpare n cxp && decide (g < 15)
    let s1 := furlCore (mstLog (s.updMast m (fun x => { x with failed := true })) m (row / 0x100000 % 4) 5 (row % 0x100000) 0) m 7
    let s2 := if f.owned && f.furl cxp != g then coreLost s1 m code else s1
    if spare then mapSpare s2 n cxp g else s2

/-- The physical sails that a core's map uses (R47). -/
def CoreStat.mapped (x : CoreStat) : List Nat := (List.range x.sailCnt).map (fun i => bitsN x.sailMap (2 * i) 2)

/-- The regulator gates every physical sail that no virtual sail maps to (R47). -/
def CoreStat.gate (x : CoreStat) : CoreStat := { x with powered := x.mapped.foldl (fun a k => setBits a k 1 1) 0#4 }

/-- A sail check fault acted on at the boundary (R49): the virtual sail remapped onto an unused good sail where the image runs three, else the core dies. -/
def sailCheckAct (s : State) (m sail : Nat) : State :=
  let st := (s.core m).stat
  match (List.range 4).find? (fun k => bitAt st.sailOk k && !st.mapped.contains k) with
  | some k =>
    if s.rigSails m = 3 then
      s.updCore m (fun c => { c with stat := ({ c.stat with sailMap := setBits c.stat.sailMap (2 * sail) 2 k } : CoreStat).gate })
    else coreDead s m 0x24 3
  | none => coreDead s m 0x24 3

/-- Every sail check fault of a partition's cores acted on; each is dealt with once. -/
def sailChecksAct (s : State) (p : Nat) : State :=
  ((s.coresOf p).filter (fun m => !(s.core m).stat.checkBad.isEmpty)).foldl (fun s m =>
    (s.core m).stat.checkBad.foldl (fun s i => if (s.core m).stat.furled then s else sailCheckAct s m i)
      (s.updCore m (fun c => { c with stat := { c.stat with checkBad := [] } }))) s

end Sys2Proof.Machine
end

