-- ==== Sys2Proof/Machine/MastEvents.lean ====
section
/-! DEFINITION. What happens at the masts: landings, acknowledgements, refresh, outside traffic, translation tables, column copies (06, 13 R308, R316). -/

namespace Sys2Proof.Machine

/-! ### Errors found in a row (R128 to R130) -/

/-- A corrected row logged and counted. -/
def countCorrected (s : State) (m row tier : Nat) : State :=
  let s1 := (mstLog s m tier 0 row 0).updMast m (fun x => { x with ce := satAdd 0xFFFF x.ce 1 })
  let s2 := { s1 with mst := { s1.mst with ceTotal := satAdd 0xFFFFFFFF s1.mst.ceTotal 1 } }
  (evrIndex s2 18 (s.partOf (m / 192)) (m / 192)).updEvr (fun e => { e with ceSecond := e.ceSecond + 1 })

/-- A corrected row of a read: also queued for its write-back. -/
def corrected (s : State) (m row tier : Nat) : State :=
  (countCorrected s m row tier).updMast m (fun x => { x with writeBack := x.writeBack ++ [row + 0x100000 * tier] })

/-- An uncorrectable row logged and counted; a bad row's second one, or the fourth distinct row, fails the column. -/
def uncorrectable (s : State) (m row : Nat) : State :=
  let x := (s.core m).mast
  let rows := if x.ueRows.contains row then x.ueRows else x.ueRows ++ [row]
  let s1 := (mstLog s m (row / 0x100000 % 4) 1 (row % 0x100000) 0).updMast m (fun y =>
    { y with ue := satAdd 0xFF y.ue 1, ueRows := rows, reread := if y.bad.contains row || y.reread.contains row then y.reread else y.reread ++ [row] })
  let s2 := { s1 with mst := { s1.mst with ueTotal := satAdd 0xFFFFFFFF s1.mst.ueTotal 1 } }
  if x.bad.contains row ∨ 4 ≤ rows.length then columnFail s2 m 0x43 row else s2

/-! ### Escalation passes (R91, R93) -/

/-- The topsail rows that a sail's next pass reads. -/
def passReads (s : State) (m i : Nat) : List (Nat × Nat) :=
  let x := (s.core m).sail i
  (passRows x.esc).flatMap (fun e => match x.tileOf e.row with | some o => topsailRows o e.target | none => [])

/-- What the mast finds in some rows that are read inside a luff: a corrected one is logged, counted and written back, an uncorrectable or bad one logged, counted and read
again, and it fails the step (R128, R129). -/
def rowsFound (s : State) (m : Nat) (ce ue : List Nat) : State :=
  let s1 := ce.foldl (fun s r => corrected s m (r % 0x100000) (r / 0x100000 % 4)) s
  ue.foldl (fun s r => ownedFault (uncorrectable s m r) m 0x04) s1

/-- ESCALATION_PASS_END (R91): the pass's rows are drained, added and checked. Each pass is one luff item: with rows left the next pass's item begins as this one ends. `found`
are the rows with errors among the topsail rows that it reads, true for uncorrectable. A pass that reads an uncorrectable or bad row, or in which the residue check finds the
fault `up` in its row, fails the step (R93, R129). -/
def escalationPassEnd (s : State) (m i : Nat) (found : List (Nat × Bool)) (up : Option Upset) : State :=
  let x := (s.core m).sail i
  if x.phase = .passing then
    let p := s.corePart m
    let reads := passReads s m i
    let hit := fun (r : Nat) => reads.any (fun y => decide (y.1 ≤ r) && decide (r ≤ y.2))
    let y := (s.core m).mast
    let ue := ((y.bad.filter (fun r => hit r && !y.poison.contains r)) ++ (found.filter (fun f => f.2 && hit f.1)).map (·.1)).eraseDups
    let ce := ((found.filter (fun f => !f.2 && hit f.1)).map (·.1)).filter (fun r => !ue.contains r)
    let s0 := s.updCore m (fun c => { c with stat := { c.stat with escPass := satAdd 0xFFFF c.stat.escPass 1 } })
    let s1 := evrIndex (((List.range 8).zip (passRows x.esc)).foldl (fun s e => passRow s m i e.1 (y.poison ++ ue) up e.2) s0) 16 (s.partOf (m / 192)) (m / 192)
    let s2 := rowsFound s1 m ce ue
    if ((s2.core m).sail i).esc.isEmpty then (s2.updSail m i (fun y => { y with phase := .restoring })).updMast m (fun x => { x with gapTiers := [] })
    else armLuff (endLuff (s2.updMast m (fun x => { x with gapTiers := [0, 1, 2, 3] })) p (.escalation m i)) p (.escalation m i) ((s.grp p).stalled.getD (s.grp p).cyc)
  else s

/-- ESCALATION_PASS_END. -/
def execEscalationPassEnd (core : Fin 9216) (sail : Fin 4) (found : List (Fin 0x400000 × Bool)) (upset : Option Upset) (s : State) : Out :=
  .next (escalationPassEnd s core sail (found.map (fun f => (f.1.val, f.2))) upset)

/-! ### Landings and acknowledgements -/

/-- A landing written to its slot pair in its due cycle, after the accesses that reach the bank before it; the last row releases the read's tracker entry (R126). -/
def landRow (s0 : State) (m : Nat) (l : Landing) (poison : Bool) : State :=
  let s := s0.settle m (l.due + 1 - bankLat l.addr)
  let d := if poison then 2 ^ 1024 - 1 else l.data.toNat
  let (c, v) := writeSlots l.handle l.tag l.hold poison 2 (l.addr / 64) d (s.core m, none)
  violateOpt (s.setCore m (c.stepTrk l.trk)) m l.ctx v

/-- Whether a row may land: while the line is asserted only one that is due by the stalled cycle, in a guarded replay by the cycle of its use (R118, R126). -/
def mayLand (s : State) (m : Nat) (l : Landing) : Bool :=
  match (s.grp (s.corePart m)).stalled with
  | none => true
  | some u => decide (l.due ≤ u) || (s.guarded m && decide (l.want ≤ u))

/-- MAST_ROW_LAND: the front row of the landing buffer, with what its code finds. -/
def execMastRowLand (core : Fin 9216) (ecc : Ecc) (s : State) : Out :=
  .next (match (s.core core).lands with
  | [] => s
  | l :: r =>
    if !mayLand s core l then s
    else
      let p := s.corePart core
      let s1 := (s.updCore core (fun c => { c with lands := r })).updGrp p (fun g => if g.stalled.isSome then g else { g with cyc := max g.cyc l.due })
      let bad := (s.core core).mast.bad.contains l.row || ecc == .uncorrectable
      if l.poison then landRow s1 core l true
      else if bad then coreFault (uncorrectable (landRow s1 core l true) core l.row) core 0x04
      else if ecc = .corrected then
        landRow (armLuff (corrected s1 core (l.row % 0x100000) (l.row / 0x100000 % 4)) p (.corrected core l.row l.due) l.due) core l false
      else landRow s1 core l false)

/-- MAST_WRITE_ACK: the oldest outstanding write is acknowledged and its entry released (R125). -/
def execMastWriteAck (core : Fin 9216) (s : State) : Out :=
  .next (s.updCore core (fun c => match c.tracks.find? (fun k => k.kind == .mastWrite) with
    | some k => c.freeTrk k.id
    | none => c))

/-- The plane rows, counted from the page's first, that an append's records reach. -/
def appendRows (g : Geo) (a : Append) : List Nat :=
  ((List.range a.recs.length).flatMap (fun k => planeRows g (a.pma % 0x10000 / (max a.rs 1) + k))).eraseDups

/-- KVAPQ_ACK: the tier logic has placed the oldest append, and its entry is released (R316). Errors corrected while placing are logged and take no luff; a row found
uncorrectable, or marked bad, is rewritten with the poison pattern, logged, and fails the step (R129, R317). -/
def execKvapqAck (core : Fin 9216) (found : List (Fin 512 × Bool)) (s : State) : Out :=
  .next (match (s.core core).appends with
  | [] => s
  | a :: r =>
    let g := AMap.at (s.core core).geos {} a.space
    let base := a.pma / 0x10000 * 512
    let rows := appendRows g a
    let bad := rows.filter (fun k => found.contains (Fin.ofNat 512 k, true) || (s.core core).mast.bad.contains (base + k))
    let s1 := s.updCore core (fun c => ({ c with appends := r, mast := bad.foldl (fun m k => m.place g { a with recs := [] } (some (base + k))) (c.mast.place g a none) } : Core).freeTrk a.trk)
    let s2 := (rows.filter (fun k => found.contains (Fin.ofNat 512 k, false) && !bad.contains k)).foldl (fun s k =>
      countCorrected s core ((base + k) % 0x100000) ((base + k) / 0x100000 % 4)) s1
    bad.foldl (fun s k => coreFault (uncorrectable s core (base + k)) core 0x04) s2)

/-- TILE_LOAD_DONE (R26): the shadow loads hold their state while the line is asserted (R46). -/
def execTileLoadDone (core : Fin 9216) (sail : Fin 4) (s : State) : Out :=
  .next (if (s.grp (s.corePart core)).stalled.isSome then s else s.updCore core (fun c => c.loadDone sail))

/-- FILL_COPY_DONE (R102): the engine's last slot has reached its bank, and the engine is free. -/
def execFillCopyDone (core : Fin 9216) (s : State) : Out :=
  .next ((s.settle core (s.core core).lastAcc).updCore core (fun c => { c with engine := none }))

/-! ### Refresh (R131 to R138) -/

/-- A number of refresh operations on a tier. -/
def Tier.refresh (x : Tier) (n : Nat) : Tier := { x with debt := x.debt - n }

/-- The landings that wait at a mast when a window opens that ends at `e`: those due within it are moved, in order, to the cycles from `e` on, and no later access
passes them. `last` is the path cycle before; `cur` the access that is being moved, its first cycle and how many of its rows have gone (R133). -/
def moveLands (e : Nat) : Nat → Option (Nat × Nat × Nat) → List Landing → List Landing
  | _, _, [] => []
  | _, none, l :: r =>
    if e ≤ l.due + 240 ∧ l.due < e then { l with due := e } :: moveLands e e (some (l.trk, e, 1)) r else l :: moveLands e l.due none r
  | last, some (k, b, i), l :: r =>
    if l.trk = k then { l with due := pathCycle b i } :: moveLands e (pathCycle b i) (some (k, b, i + 1)) r
    else if last < l.due then l :: moveLands e l.due none r
    else { l with due := last + 1 } :: moveLands e (last + 1) (some (l.trk, last + 1, 1)) r

/-- The wide rows that the data path carries in n cycles (R125). -/
def windowRows (n : Nat) : Nat := 8 * n / 5

/-- A refresh window opened in cycle t: what is on the data path moves past it (R133), and an open service window loses the cycles that the two share (R206). In a guarded
replay each read whose rows are moved past its use arms a luff (R118). -/
def openWindow (s : State) (m t : Nat) : State :=
  let c := s.core m
  let ls := moveLands (t + 240) 0 none c.lands
  let moved := (c.lands.zip ls).filter (fun x => x.1.due != x.2.due && decide (x.2.want < x.2.due))
  let path := (ls.getLast?.map (·.due)).getD 0
  let lost := min c.mast.svcEnd (t + 240) - max t c.mast.refEnd
  let s1 := s.setCore m { c with lands := ls, mast := { c.mast with
    svcRows := c.mast.svcRows - windowRows lost, refEnd := t + 240, path := max path (if t ≤ c.mast.path ∧ c.mast.path < t + 240 then t + 240 else c.mast.path) } }
  if s.guarded m then moved.foldl (fun s x => armLuff s (s.corePart m) (.late m x.1.trk) x.1.want) s1 else s1

/-- REFW (R132): up to two operations for each tier in debt, then the write-backs and the re-reads of R128 and R129, and patrol scrub, whose corrections are logged and
counted where SCRUB_EN is set (R138). A failed self-check of a tier or of a TSV fails the column (R130): no wide row shows it, and the record's ROW is 0. DESIGN CHOICE:
notes/assumptions/83.md. -/
def execRefw (q : Issue) (w : BitVec 48) (found : RefFind) (s : State) : Out :=
  .next (issueCtrl s q [] (fun s t =>
    legalOr s q 3 0x17 [(bitsN w 6 42 != 0, 2)] id (fun s =>
      let s1 := (openWindow s q.core t).updMast q.core (fun m =>
        { m with tiers := m.tiers.map (fun x => x.refresh (min x.debt 2)), writeBack := [], reread := []
                 bad := m.bad ++ m.reread.filter (fun r => found.again.any (fun x => x.1.val * 0x100000 + x.2.val == r) && !m.bad.contains r) })
      let s2 := if s1.mst.scrubEn then found.scrub.foldl (fun s x => countCorrected s q.core x.2 x.1) s1 else s1
      match found.check with
      | some k => columnFail s2 q.core 0x43 (0x100000 * k.val)
      | none => s2)))

/-- A tier of a mast changed. -/
def Mast.updTier (m : Mast) (k : Fin 4) (f : Tier → Tier) : Mast := { m with tiers := m.tiers.set k (f m.tiers[k]) }

/-- REFRESH_DEBT_TICK (R131, R137): the debt rises by one; at 12 it is logged, at 16 the tier refreshes at once until the debt is 8 and the step fails. -/
def execRefreshDebtTick (core : Fin 9216) (tier : Fin 4) (s : State) : Out :=
  let d := ((s.core core).mast.tiers[tier]).debt + 1
  let p := s.corePart core
  let s1 := (s.updMast core (fun m => { m.updTier tier (fun x => { x with debt := d }) with debtHwm := max m.debtHwm d })).updPart p
    (fun x => if (s.field (core / 192)).owned then { x with refHwm := max x.refHwm d } else x)
  let s1' := s1.updEvr (fun e => { e with debts := AMap.upd e.debts 0 (4 * core + tier) (fun k => max k d) })
  .next (if !s.hasField (core / 192) then s
  else if d = 12 then mstLog s1' core tier 3 0 0
  else if 16 ≤ d then
    ownedFault ((mstLog s1' core tier 4 0 0).updMast core (fun m => m.updTier tier (fun x => { x with debt := 8 }))) core 0x09
  else s1')

/-- Whether a mast has an access outstanding: a read, a write or an append. -/
def Core.mastBusy (c : Core) : Bool := !c.lands.isEmpty || !c.appends.isEmpty || c.tracks.any (fun k => k.kind == .mastWrite || k.kind == .mastRead || k.kind == .kvAppend)

/-- Whether a partition's cores stand in a luff: the line asserted in a step, or a boundary item under way (R225). -/
def Group.luffed (g : Group) : Bool := if g.inStep then g.stalled.isSome else g.items.any (fun i => i.boundary && i.begun && !i.ended)

/-- REFRESH_CATCHUP (R136): a tier in debt refreshes while the partition does not step, or in a luff with the mast and the escalation sequencer idle; between two escalation
passes, one operation of each tier whose debt is 4 or more. One that lengthens a luff is a sample of H22 (Table 25.1; DEDUCED, log 105). -/
def execRefreshCatchup (core : Fin 9216) (tier : Fin 4) (s : State) : Out :=
  let g := s.grp (s.corePart core)
  let c := s.core core
  let d := (c.mast.tiers[tier]).debt
  let gap := c.mast.gapTiers.contains tier.val && c.sails.toList.any (fun y => y.phase == .passing)
  let free := !s.coreSteps core
  let ok := if free then decide (1 ≤ d)
    else if gap then decide (4 ≤ d)
    else g.luffed && !c.mastBusy && c.sails.toList.all (fun y => y.phase == .idle) && decide (1 ≤ d)
  .next (if ok then
    let s1 := s.updMast core (fun m => { m.updTier tier (fun x => x.refresh 1) with gapTiers := if free then m.gapTiers else m.gapTiers.filter (· != tier.val) })
    if free then s1 else evrIndex s1 22 (s.corePart core) 6
  else s)

/-- Whether every sensor of a partition's masts reads at or below HOT_OFF. -/
def tiersCool (s : State) (p : Nat) : Bool :=
  (s.coresOf p).all (fun m => (s.core m).mast.tiers.toList.all (fun x => decide (x.temp ≤ s.mst.hotOff) && !x.failed))

/-- HOT_OFF_DWELL_EXPIRE (R135): every sensor has read at or below HOT_OFF for 1 s at its tick; the partition is to return at its next boundary. -/
def execHotOffDwellExpire (pt : Timed (Fin 64)) (s : State) : Out :=
  let p := pt.val
  let t := pt.tick
  let dwell := match AMap.find s.sys.thm.hotCalm p with | some (some u) => decide (u + 1000000000 ≤ t.toNat) | some none => false | none => true
  .next (if tiersCool s p && dwell then (s.atTick t).updPart p (fun x => { x with hotAsked := false }) else s)

/-! ### Translation tables (R141 to R145) -/

/-- The lowest pool frame (a 4 KiB table) that no range holds: which free table the pool gives the spec does not say. DESIGN CHOICE: notes/assumptions/84.md. -/
def Mast.poolTake (m : Mast) : Option Nat := findUp (fun f => !m.tabs.contains f) (16 * m.pool) 80

/-- A 4 KiB table zeroed and taken. -/
def Mast.takeTable (m : Mast) (f : Nat) : Mast := { m with tabs := m.tabs ++ [f], data := Memory.clear m.data (4096 * f) 4096 }

/-- A table entry naming frame f (Table 6.3). -/
def tableEntry (f : Nat) : Nat := 1 + f * 4096

/-- The next table of an entry at `a`, allocated where it is missing. -/
def Mast.descend (m : Mast) (a : Nat) : Mast × Option Nat :=
  let e := Memory.readN m.data a 4
  if e % 2 = 1 then (m, some (e / 4096 % 2 ^ 17))
  else match m.poolTake with
    | none => (m, none)
    | some f => let m1 := m.takeTable f; ({ m1 with data := Memory.writeN m1.data a (tableEntry f) 4 }, some f)

/-- The address of the page entry of (RID, VPN), tables allocated on the way (R145). -/
def Mast.tableAddr (m : Mast) (rid vpn : Nat) : Mast × Option Nat :=
  match m.descend (0x10000 + 4 * rid) with
  | (m1, none) => (m1, none)
  | (m1, some f2) =>
    match m1.descend (4096 * f2 + 4 * (vpn / 1024)) with
    | (m2, none) => (m2, none)
    | (m2, some f3) => (m2, some (4096 * f3 + 4 * (vpn % 1024)))

/-- The address of the page entry where every level exists. -/
def Mast.walk (m : Mast) (rid vpn : Nat) : Option Nat :=
  let e1 := Memory.readN m.data (0x10000 + 4 * rid) 4
  if e1 % 2 = 0 then none
  else
    let e2 := Memory.readN m.data (4096 * (e1 / 4096 % 2 ^ 17) + 4 * (vpn / 1024)) 4
    if e2 % 2 = 0 then none else some (4096 * (e2 / 4096 % 2 ^ 17) + 4 * (vpn % 1024))

/-- A shadow entry (Table 6.4). -/
def shadowEntry (wr : Bool) (rid vpn : Nat) : Nat := 1 + 2 * b2n wr + 2 ^ 16 * rid + 2 ^ 32 * vpn

/-- Whether an UNMAP of a granule is held (R145). -/
def Mast.unmapHeld (m : Mast) (g : Nat) : Bool := m.held.any (fun h => match h with | .remove k => k == g | _ => false)

/-- MAP: the mast after it and the result code of Table 6.5. -/
def Mast.map' (m : Mast) (rid vpn g : Nat) (wr : Bool) : Mast × Nat :=
  if m.failed then (m, 6)
  else if g < m.pageBase ∨ m.tierMax < g / 2048 then (m, 1)
  else if Memory.readN m.data (8 * g) 8 % 2 = 1 ∧ m.unmapHeld g = false then (m, 2)
  else match m.tableAddr rid vpn with
    | (m1, none) => (m1, 4)
    | (m1, some a) =>
      if Memory.readN m1.data a 4 % 2 = 1 then (m1, 3)
      else ({ m1 with data := Memory.writeN (Memory.writeN m1.data a (1 + 2 * b2n wr + 2 ^ 16 * g) 4) (8 * g) (shadowEntry wr rid vpn) 8
                      held := m1.held ++ [.install g { wr := wr, rid := rid, vpn := vpn }] }, 0)

/-- UNMAP. -/
def Mast.unmap' (m : Mast) (rid vpn : Nat) : Mast × Nat :=
  if m.failed then (m, 6)
  else match m.walk rid vpn with
    | none => (m, 5)
    | some a =>
      let e := Memory.readN m.data a 4
      if e % 2 = 0 then (m, 5)
      else
        let g := e / 2 ^ 16 % 2 ^ 13
        ({ m with data := Memory.clear (Memory.clear m.data a 4) (8 * g) 8, held := m.held ++ [.remove g] }, 0)

/-- The frames of a range's second- and third-level tables. -/
def Mast.tablesOf (m : Mast) (rid : Nat) : List Nat :=
  let e1 := Memory.readN m.data (0x10000 + 4 * rid) 4
  if e1 % 2 = 0 then []
  else
    let f2 := e1 / 4096 % 2 ^ 17
    f2 :: (List.range 1024).filterMap (fun i =>
      let e2 := Memory.readN m.data (4096 * f2 + 4 * i) 4
      if e2 % 2 = 1 then some (e2 / 4096 % 2 ^ 17) else none)

/-- RELEASE: every page of the range removed and its tables returned. -/
def Mast.release' (m : Mast) (rid : Nat) : Mast × Nat :=
  if m.failed then (m, 6)
  else
    let gs := (List.range 8192).filter (fun g => let e := Memory.readN m.data (8 * g) 8; e % 2 == 1 && e / 2 ^ 16 % 2 ^ 16 == rid)
    let fs := m.tablesOf rid
    ({ m with data := Memory.clear (gs.foldl (fun d g => Memory.clear d (8 * g) 8) m.data) (0x10000 + 4 * rid) 4
              tabs := m.tabs.filter (fun f => !fs.contains f)
              held := m.held ++ gs.map (fun g => .remove g) }, 0)

/-- The TLB as the shadow in granule 0 has it. -/
def Mast.fromShadow (m : Mast) : AMap TlbEnt :=
  (List.range 8192).filterMap (fun g =>
    let e := Memory.readN m.data (8 * g) 8
    if e % 2 = 1 then some (g, { wr := e / 2 % 2 == 1, rid := e / 2 ^ 16 % 2 ^ 16, vpn := e / 2 ^ 32 % 2 ^ 20 }) else none)

/-- Held TLB updates applied in command order, at a step boundary (R145, R222). -/
def Mast.applyHeld (m : Mast) : Mast :=
  m.held.foldl (fun m h => match h with
    | .install g e => { m with tlb := AMap.put m.tlb g e }
    | .remove g => { m with tlb := AMap.del m.tlb g }
    | .reload => { m with tlb := m.fromShadow }) { m with held := [] }

/-! ### Answers to the request engine (R308, R313, R314) -/

/-- An entry's pages changed. -/
def updPages (s : State) (e : Nat) (f : List Page → List Page) : State :=
  { s with table := { s.table with entries := AMap.upd s.table.entries {} e (fun x => { x with pages := f x.pages }) } }

/-- The lowest granule of a mast that no page holds and no command is about to fill (R312, R313). -/
def freeGran (s : State) (p m : Nat) (skip : Nat) : Option Nat :=
  let x := (s.core m).mast
  let taken := (s.part p).req.pageWork.filterMap (fun w => if w.core = m ∧ w.op ≠ .unmap then some w.gran else none)
  let first := max x.pageBase skip
  findUp (fun g => ((AMap.find x.tlb g).isNone || x.poolFree.contains g) && !taken.contains g &&
    !(x.held.any (fun h => match h with | .install k _ => k == g | _ => false)) && !(x.outside.any (fun o => match o with | .place _ _ k _ => k == g | _ => false))) ((x.tierMax + 1) * 2048 - first) first

/-- The granule at which a page is mapped, its update held or not. -/
def Mast.granOf (m : Mast) (rid vpn : Nat) : Option Nat :=
  (m.walk rid vpn).bind (fun a => let e := Memory.readN m.data a 4; if e % 2 = 1 then some (e / 2 ^ 16 % 2 ^ 13) else none)

/-- A command that names a page of an entry. -/
def PageCmd.names (y : PageCmd) (m rid vpn : Nat) : Bool := y.core == m && y.rid == rid && y.vpn == vpn

/-- A page whose command is not answered OK: sought with the next free granule under BAD_PGN and PGN_BUSY; else no longer the entry's, for the look-ahead to seek again, and
under POOL_FULL only once a RELEASE has returned tables (R314). A page that its MAP had placed is unmapped first. -/
def seekAgain (s : State) (p : Nat) (w : PageCmd) (res : Nat) : State :=
  let m := w.core
  let s1 := s.updPart p (fun x => { x with req := { x.req with
    pageWork := x.req.pageWork.filter (fun y => !(y.op == .init && y.names m w.rid w.vpn))
    poolFull := x.req.poolFull ++ (if res = 4 then [(w.entry, m, w.vpn)] else []) } })
  let drop := fun (s : State) => updPages s w.entry (fun ps => ps.filter (fun g => !(g.core == m && g.vpn == w.vpn)))
  let un : List PageCmd := if w.op = .init then [{ w with op := .unmap }] else []
  if res = 1 ∨ res = 2 then
    match freeGran s1 p m (w.gran + 1) with
    | some g => (updPages s1 w.entry (fun ps => ps.map (fun y => if y.core = m ∧ y.vpn = w.vpn then { y with gran := g, mapped := false } else y))).updPart p (fun x =>
        { x with req := { x.req with pageWork := x.req.pageWork ++ un ++ [{ w with op := .map, gran := g }, { w with op := .init, gran := g }] } })
    | none => drop s1
  else drop s1

/-- What the request engine does with an answer to the first command of its kind for a page (R314). A page found MAPPED counts as mapped where it is, and its INIT goes there. -/
def answer (s : State) (p : Nat) (op : PageOp) (m rid vpn res : Nat) : State :=
  let ws := (s.part p).req.pageWork
  match ws.find? (fun w => w.op == op && w.names m rid vpn) with
  | none => s
  | some w =>
    let s1 := s.updPart p (fun x => { x with req := { x.req with pageWork := x.req.pageWork.filter (fun y => y != w) } })
    let mark := fun (f : Page → Page) (s : State) => updPages s w.entry (fun ps => ps.map (fun g => if g.core = m ∧ g.vpn = vpn then f g else g))
    match op with
    | .unmap => s1.updMast m (fun x => { x with poolFree := x.poolFree.filter (· != w.gran) })
    | .init => if res = 0 then mark (fun g => { g with ready := true }) s1 else seekAgain s1 p w res
    | .map =>
      if res = 0 then mark (fun g => { g with mapped := true, gran := w.gran }) s1
      else if res = 3 then
        let at' := ((s.core m).mast.granOf rid vpn).getD w.gran
        mark (fun g => { g with mapped := true, gran := at' }) (s1.updPart p (fun x => { x with req := { x.req with
          pageWork := x.req.pageWork.map (fun y => if y.op = .init ∧ y.names m rid vpn = true then { y with gran := at' } else y) } }))
      else seekAgain s1 p w res

end Sys2Proof.Machine
end

