-- ==== Sys2Proof/Machine/MeshEvents.lean ====
section
/-! DEFINITION. What happens in the mesh: arrivals, credits, reductions, merged reads, seams, fixed-hop mode (07). -/

namespace Sys2Proof.Machine

/-- Depth of a channel's buffers (Table 7.2). -/
def vcDepth (vc : Nat) : Nat := match vc with | 0 => 4 | 3 => 8 | _ => 16

/-- A packet has passed the buffers of the routers on its way: each held one flit of its channel at least, and no more than a buffer's depth. How many is timing that the
model leaves out: a free value. DESIGN CHOICE: notes/assumptions/88.md. -/
def passed (s : State) (vc : Nat) (route : List Nat) : State :=
  { s with free := s.free + 1, fab := { s.fab with
      vcHwm := ((List.range route.length).zip route).foldl (fun h x => AMap.upd h 0 x.2 (fun n => max n (min (vcDepth vc) (1 + bitsN (Config.freeValue s.free) (4 * x.1) 4)))) s.fab.vcHwm } }

/-- The seam link that spoiled an arrival. -/
def spoiltOn (a : Arrival) : Option (Nat × Nat) := a.spoilt.map (fun x => (x.1.val, x.2.val))

/-- An element taken out of a list of things in flight. -/
def takeAt {α : Type} (l : List α) (i : Nat) : Option (α × List α) := match l[i]? with | some x => some (x, delAt l i) | none => none

/-! ### Flits -/

/-- A sheet flit is visible: counted, the wait on it ended with the F-th, and its credit sent (R359, R361). -/
def sheetVisible (s : State) (p rank route : Nat) : State :=
  let x := s.slice p
  let key := 256 * rank + route
  let n := AMap.at x.seen 0 key + 1
  let s1 := s.updSlice p (fun y => { y with seen := AMap.put y.seen key n })
  let s2 := match recvEntry s p rank route with
    | some r => if n = bitsN r 11 9 + 1 then endLuff s1 p (.sheetWait key) else s1
    | none => s1
  sendFrame s2 p rank 1 false route 0 0 s2.tb.toNat 0

/-- A core as what arrives now finds it: accesses made in earlier cycles have reached their banks. -/
def State.settleNow (s : State) (m : Nat) : State := s.settle m (s.grp (s.corePart m)).cyc

/-- What a flit writes: its slot, or, for a pad, slots of zeros and an origin slot that names no row (R232). -/
def Flit.writes (c : Core) (f : Flit) (poison : Bool) : Core × Option Viol :=
  if f.pad = 0 then c.writeAt f.ctx f.handle f.ofs 1 f.tag f.hold f.data.toNat poison
  else
    let r := c.writeAt f.ctx f.handle f.ofs f.pad f.tag f.hold (if poison then 2 ^ (512 * f.pad) - 1 else 0) poison
    let o := r.1.writeAt f.ctx f.handle f.org 1 f.tag f.hold (if poison then 2 ^ 512 - 1 else 0xFFFFFFFF) poison
    (o.1, r.2.or o.2)

/-- A flit written at its destination under its telltale mode (R162). -/
def deliver (s0 : State) (f : Flit) (poison : Bool) : State :=
  let s := s0.settleNow f.dst
  let (c1, v) := f.writes (s.core f.dst) poison
  let c2 := if f.merged then c1.stepTrk f.trk else c1
  let s1 := violateOpt (s.setCore f.dst c2) f.dst f.ctx v
  match f.sheet with
  | some (r, route) => sheetVisible s1 f.part r route
  | none => s1

/-- In a guarded replay the item of a send, or of a merged read, waits for the flit due next, and ends with the last (R164). -/
def guardArrive (s : State) (f : Flit) : State :=
  if (s.grp f.part).guarded && f.sheet.isNone then
    let mine := fun (g : Flit) => if f.merged then g.merged && g.dst == f.dst && g.trk == f.trk else !g.merged && g.src == f.src && g.trk == f.trk
    moveArrival s f.part (.arrival (if f.merged then f.dst else f.src) f.trk) (firstDue ((s.fab.flits.filter mine).map (·.due)))
  else s

/-! ### Hop tables (R175) -/

/-- The router beyond a mesh port, if the grid has one (R153). -/
def meshBeyond (m port : Nat) : Option Nat :=
  let (x, y) := globalXY m
  match port with
  | 1 => if y = 0 then none else some (routerAt x (y - 1))
  | 2 => if x = 95 then none else some (routerAt (x + 1) y)
  | 3 => if y = 95 then none else some (routerAt x (y + 1))
  | 4 => if x = 0 then none else some (routerAt (x - 1) y)
  | _ => none

/-- The port by which what leaves through a port enters the next router. -/
def facing (port : Nat) : Nat := match port with | 1 => 3 | 2 => 4 | 3 => 1 | _ => 2

/-- The output to which a router moves the head flit of input x.2 in the fc of hop counter k, if one: the entry of (hop counter mod period) names the input for it. Of several the lowest.
DESIGN CHOICE: notes/assumptions/87.md. -/
def hopOut (s : State) (x : Nat × Nat) (k : Nat) : Option Nat :=
  let h := (s.core x.1).router.hop
  let e := h.getD (k % h.length) []
  (List.range 5).find? (fun o => e.getD o 7 == x.2)

/-- A flit's way by the hop tables from an input, at hop counter `k`, at most `n` fc long: the inputs whose buffers it stands in, and the router whose local output it leaves by. It waits
at an input until an entry names it, and a seam hop takes 5 fc (Table 7.1, R175). -/
def hopWay (s : State) : Nat → Nat → Nat × Nat → List (Nat × Nat) × Option Nat
  | 0, _, x => ([x], none)
  | n + 1, k, x =>
    match hopOut s x k with
    | none => hopWay s n (k + 1) x
    | some 0 => ([x], some x.1)
    | some o =>
      match meshBeyond x.1 o with
      | none => ([x], none)
      | some m => let r := hopWay s n (k + (if m / 192 = x.1 / 192 then 1 else 5)) (m, facing o); (x :: r.1, r.2)

/-- The way of a VC3 flit from its core's injection port; the hop counter at which it stands there is free. DESIGN CHOICE: notes/assumptions/87.md. -/
def Flit.hops (s : State) (f : Flit) : List (Nat × Nat) × Option Nat := hopWay s 65536 (Config.hopPhase f.src f.trk f.ofs) (f.src, 0)

/-- Whether the hop tables carry a flit to its destination's local output. -/
def hopReaches (s : State) (f : Flit) : Bool := (f.hops s).2 == some f.dst

/-- Whether a VC3 flit can find a buffer full: eight others on their way pass one of the inputs on its own way (Table 7.2, R175). -/
def hopFull (s : State) (f : Flit) : Bool :=
  let others := ((s.fab.flits.erase f).filter (fun g => g.vc == 3)).map (fun g => (g.hops s).1)
  ((f.hops s).1.drop 1).any (fun x => decide (8 ≤ (others.filter (fun w => w.contains x)).length))

/-- A flit's arrival, spoiled or not on the way. -/
def arrive (s1 : State) (f : Flit) (ue : Option (Nat × Nat)) : State :=
  match ue.or (lostOn s1 f.links) with
  | some (k, l) => deliver (seamUe s1 f.part (seamReceiver k l f.from f.dst) k l) f true
  | none => deliver s1 f f.poison

/-- MESH_FLIT_ARRIVE: the i-th flit in flight ends its journey. In fixed-hop mode only the hop tables move a flit, and one that finds its buffer full is dropped (R175). -/
def execMeshFlitArrive (i : Nat) (o : FlitEnd) (s : State) : Out :=
  .next (match takeAt s.fab.flits i with
  | none => s
  | some (f, r) =>
    let s1 := passed (guardArrive { s with fab := { s.fab with flits := r } } f) f.vc (routeAll f.from f.dst)
    match refusedAt s f.part f.from f.dst with
    | some m => isolate s1 f.part f.src m true
    | none =>
      match o with
      | .visible => if (f.vc = 3 ∧ hopReaches s f = false) ∨ (f.sheet.isSome ∧ waitsOn s f.links) then s else arrive s1 f none
      | .seamUe k l => arrive s1 f (some (k, l))
      | .collided m =>
        if f.vc = 3 then
          (if hopFull s f then (fabLog s1 m 3 0 0 0 0 0).updField (m.val / 192) (fun x => { x with collCnt := satAdd 0xFF x.collCnt 1 }) else s)
        else arrive s1 f none)

/-- DELIVERY_CREDIT_RETURN: nothing of the send is on its way any more, and its entry is released (R156). -/
def execDeliveryCreditReturn (core : Fin 9216) (trk : Nat) (s : State) : Out :=
  let out := s.fab.flits.any (fun f => f.src == core.val && f.trk == trk && !f.merged) || s.fab.reds.any (fun f => !f.node && f.src == core.val && f.trk == trk) ||
    (s.slice (s.corePart core)).sends.any (fun x => x.core == core.val && x.trk == trk)
  .next (if out then s else s.updCore core (fun c =>
    match c.tracks.find? (fun k => k.id == trk && (k.kind == .meshSend || k.kind == .dispatch)) with
    | some _ => c.freeTrk trk
    | none => c))

/-- Whether a message to core m crosses a dark field on the way from its rim link, so that it takes the management ring (R161). -/
def overRing (s : State) (m : Nat) : Bool :=
  let (fx, fy) := physXY (m / 192)
  ((List.range 8).drop (fx + 1)).any (fun x => (s.field (fy * 8 + x)).mode == .dark)

/-- Where a VC0 message to core m enters the mesh: at the rim link of its row, or by the port of its field's controller at (cxp 0, cyp 0) (R153, R161). -/
def vc0From (s : State) (m : Nat) : Nat := if overRing s m then m / 192 * 192 else rimRouter m

/-- The rim and seam links that a VC0 message to core m crosses. -/
def vc0Links (s : State) (m : Nat) : List (Nat × Nat) := if overRing s m then [] else rimLink m :: routeLinks (rimRouter m) m

/-- VC0_MESSAGE_DELIVER: written FULL with tag 0x01, or as poison where a link has spoiled it; a message whose partition is not its core's is discarded and logged
(R165, R168, R335). It waits while a link on its way retrains at once (R166). -/
def execVc0MessageDeliver (i : Arrival) (s : State) : Out :=
  .next (match takeAt s.fab.vc0 i.idx with
  | none => s
  | some (f, r) =>
    let src := vc0From s f.dst
    let s1 := passed { s with fab := { s.fab with vc0 := r } } 0 (routeAll src f.dst)
    if waitsOn s (vc0Links s f.dst) then s
    else if s.corePart f.dst != f.part then isolate s1 f.part 9216 f.dst false
    else
      let bad := (spoiltOn i).or (lostOn s1 (vc0Links s f.dst))
      let s2 := (match bad with | some (k, l) => seamUe s1 f.part (seamReceiver k l src f.dst) k l | none => s1).settleNow f.dst
      let (c, v) := (s2.core f.dst).writeAt f.ctx f.handle f.ofs 1 1#8 false f.data.toNat bad.isSome
      violateOpt (s2.setCore f.dst c) f.dst f.ctx v)

/-! ### Reductions (R170, R171) -/

/-- Lanes of two flits added (R170). -/
def addFlits (a b : Slot) : Slot :=
  (List.range 16).foldl (fun x i => setBits x (32 * i) 32 (fadd (bits a (32 * i) 32) (bits b (32 * i) 32)).toNat) 0#512

/-- The physical core of the virtual neighbour in a direction (Table 7.4). -/
def neighbour (s : State) (m dir : Nat) : Nat :=
  let x := s.imgOf m
  match virtOf s x m with
  | none => m
  | some (fx, fy, cx, cy) =>
    let gx := fx * 12 + cx
    let gy := fy * 15 + cy
    let (hx, hy) := match dir with
      | 1 => (gx, gy - 1)
      | 2 => (gx + 1, gy)
      | 3 => (gx, gy + 1)
      | _ => (gx - 1, gy)
    placeCore s x (hx / 12) (hy / 15) (hx % 12) (hy % 15)

/-- A node's result flit sent, due `due`: to its parent, or at the root to the block that the root's send named. In a guarded replay the first flit of a node's output
arms its item (R164). -/
def nodeOut (s0 : State) (m : Nat) (e : BitVec 32) (x : RedSum) : State :=
  if rnOut e = 0 then
    let s := s0.settleNow m
    match (s.core m).router.roots.find? (fun r => r.tree == x.tree && r.tag == x.tag && decide (r.fidx ≤ x.fidx) && decide (x.fidx < r.fidx + r.n)) with
    | none => s
    | some r =>
      let (c, v) := (s.core m).writeAt r.ctx r.handle (r.ofs + 64 * (x.fidx - r.fidx)) 1 r.tagByte r.hold x.data.toNat x.poison
      violateOpt (s.setCore m c) m r.ctx v
  else
    let d := neighbour s0 m (rnOut e)
    let (h, sx) := hops s0 m d
    let f : RedFlit := { src := m, trk := 0, part := s0.corePart m, dst := d, tree := x.tree, fidx := x.fidx, tag := x.tag, place := rnPin e, data := x.data, poison := x.poison
                         due := x.due + h + 4 * sx, node := true }
    guardDue { s0 with fab := { s0.fab with reds := s0.fab.reds ++ [f] } } m (.node m x.tree x.tag) [f.due]

/-- A sum that is complete and that no unfinished index below it holds back: results are sent in flit-index order (R170). -/
def Router.sendable (r : Router) (nin : Nat) (tree tag : Nat) : Option RedSum :=
  let mine := r.sums.filter (fun x => x.tree == tree && x.tag == tag)
  mine.find? (fun x => x.upto == nin && mine.all (fun y => decide (x.fidx ≤ y.fidx)) &&
    r.parts.all (fun y => !(y.tree == tree && y.tag == tag && decide (y.fidx < x.fidx))))

/-- The results of a node that may be sent, one after another, at most `n`. -/
def sendResults (m tree tag : Nat) (e : BitVec 32) : Nat → State → State
  | 0, s => s
  | n + 1, s =>
    match (s.core m).router.sendable (rnNin e) tree tag with
    | none => s
    | some x => sendResults m tree tag e n (nodeOut (s.updRouter m (fun r => { r with sums := r.sums.filter (fun z => z != x) })) m e x)

/-- A reduction flit that does not match its node: logged, poison for its flit index, and the step fails (R171). -/
def redMismatch (s : State) (f : RedFlit) : State :=
  let s1 := fabLog s f.dst 2 0 f.place f.part (s.corePart f.dst) f.tree
  let hit := fun (t i g : Nat) => t == f.tree && i == f.fidx && g == f.tag
  let s2 := s1.updRouter f.dst (fun r => { r with
    parts := r.parts.map (fun p => if hit p.tree p.fidx p.tag then { p with poison := true } else p)
    sums := r.sums.map (fun p => if hit p.tree p.fidx p.tag then { p with poison := true } else p)
    bad := r.bad ++ [(f.tree, f.fidx, f.tag)] })
  failStep (raiseFault s2 f.part 0x06 (f.dst / 192) (f.dst % 192)) f.part 0x06

/-- In a guarded replay the item of a reduction send, or of a node's output, waits for the flit due next, and ends with the last (R164). -/
def guardRed (s : State) (f : RedFlit) : State :=
  if (s.grp f.part).guarded then
    let mine := fun (g : RedFlit) => if f.node then g.node && g.src == f.src && g.tree == f.tree && g.tag == f.tag else !g.node && g.src == f.src && g.trk == f.trk
    moveArrival s f.part (if f.node then .node f.src f.tree f.tag else .arrival f.src f.trk) (firstDue ((s.fab.reds.filter mine).map (·.due)))
  else s

/-- REDUCTION_FLIT_ARRIVE: the i-th reduction flit reaches its node, as poison where a seam has spoiled it (R165). With 64 flits stored it waits (R171). -/
def execReductionFlitArrive (i : Arrival) (s : State) : Out :=
  .next (match takeAt s.fab.reds i.idx with
  | none => s
  | some (f0, rest) =>
    let s0 := passed (guardRed { s with fab := { s.fab with reds := rest } } f0) 1 (routeAll f0.src f0.dst)
    match refusedAt s f0.part f0.src f0.dst with
    | some m => isolate s0 f0.part f0.src m true
    | none =>
      let bad := (spoiltOn i).or (lostLink s f0.src f0.dst)
      let s1 := match bad with | some (k, l) => seamUe s0 f0.part (seamReceiver k l f0.src f0.dst) k l | none => s0
      let f := if bad.isSome || (s.core f0.dst).router.bad.contains (f0.tree, f0.fidx, f0.tag) then { f0 with poison := true } else f0
      let e := s.redEntry f.dst f.tree
      let r := (s.core f.dst).router
      let dup := r.parts.any (fun p => p.tree == f.tree && p.fidx == f.fidx && p.tag == f.tag && p.place == f.place) ||
        r.sums.any (fun p => p.tree == f.tree && p.fidx == f.fidx && p.tag == f.tag && decide (f.place < p.upto))
      if !rnValid e || decide (rnNin e ≤ f.place) || dup then redMismatch s1 f
      else if rnNin e = 1 then nodeOut s1 f.dst e { tree := f.tree, fidx := f.fidx, tag := f.tag, upto := 1, data := f.data, poison := f.poison, due := f.due }
      else if 64 ≤ r.parts.length + r.sums.length then s
      else s1.updRouter f.dst (fun r =>
        let r1 := if f.place = 0 then { r with sums := r.sums ++ [({ tree := f.tree, fidx := f.fidx, tag := f.tag, upto := 1, data := f.data, poison := f.poison, due := f.due } : RedSum)] }
          else { r with parts := r.parts ++ [({ tree := f.tree, fidx := f.fidx, tag := f.tag, place := f.place, data := f.data, poison := f.poison, due := f.due } : RedPart)] }
        { r1 with redHwm := max r1.redHwm (r1.parts.length + r1.sums.length) }))

/-- REDUCTION_ADD_DONE: addition j of a flit index completes where p_j is present, 3 fc after both are due; with the last, the result is complete, and results are sent in
flit-index order (R170). -/
def execReductionAddDone (core : Fin 9216) (tree : Fin 64) (fidx : Fin 512) (tag : BitVec 8) (s : State) : Out :=
  let r := (s.core core).router
  let key := fun (t i g : Nat) => t == tree.val && i == fidx.val && g == tag.toNat
  let e := s.redEntry core tree
  .next (match r.sums.find? (fun x => key x.tree x.fidx x.tag) with
  | none => s
  | some x =>
    match r.parts.find? (fun y => key y.tree y.fidx y.tag && y.place == x.upto) with
    | none => s
    | some y =>
      let poison := x.poison || y.poison
      let d := if poison then BitVec.allOnes 512 else addFlits x.data y.data
      let s1 := s.updRouter core (fun r => { r with
        parts := r.parts.filter (fun z => z != y)
        sums := r.sums.filter (fun z => z != x) ++ [{ x with upto := x.upto + 1, data := d, poison := poison, due := max x.due y.due + 3 }] })
      sendResults core tree tag.toNat e (s1.core core).router.sums.length s1)

/-! ### Merged reads (R173) -/

/-- The entry closes: the run is read once with PEEK and sent to every attached requester. -/
def mergeServe (s0 : State) (h : Nat) (en : MergeEnt) : State :=
  let s := s0.settleNow h
  let c := s.core h
  let slots : List (Slot × Bool) × Option Viol := match c.resolve en.ctx en.handle en.ofs (64 * en.run) false 0 with
    | .error v => ((List.replicate en.run (BitVec.allOnes 512, true)), some (v.tagged en.tag))
    | .ok (ph, a) => ((List.range en.run).map (fun i =>
        let r := c.readSlot ph (a / 64 + i) en.tag false
        (if r.2.1 then BitVec.allOnes 512 else Memory.slotAt c.pad (a + 64 * i), r.2.1)),
        (readSlots ph en.tag false en.run (a / 64) ⟨c, 0, false, none⟩).viol)
  let bad := slots.2.isSome
  let fl := en.reqs.flatMap (fun r =>
    let w := if (hops s h r.core).2 = 0 then 1 else 2
    (List.range en.run).zip slots.1 |>.map (fun x =>
    ({ src := h, trk := r.trk, part := s.corePart h, dst := r.core, ctx := r.ctx, handle := r.handle, ofs := r.ofs + 64 * x.1, tag := r.tag, hold := r.hold,
       data := if bad || r.poison then BitVec.allOnes 512 else x.2.1, poison := bad || r.poison || x.2.2, due := r.due + w * x.1, vc := 2, merged := true } : Flit)))
  launch (violateOpt s h en.ctx slots.2) fl

/-- An entry removed and its run served; where it closes with requests still to come, they will have missed it. -/
def mergeServed (s : State) (h : Nat) (en : MergeEnt) : State :=
  (mergeServe s h en).updRouter h (fun r => { r with
    merges := r.merges.filter (fun x => !(x.group == en.group && x.tag == en.tag))
    closed := if decide (en.want ≤ en.reqs.length) || r.closed.contains (en.group, en.tag) then r.closed else r.closed ++ [(en.group, en.tag)] })

/-- A request at its holder's router: it attaches to the entry of its key, closing it with the N-th, or opens an entry; with 16 open it waits (`full` counts the wait). -/
def mergeRequest (s : State) (h : Nat) (new : MergeEnt) (full : Nat) : State :=
  let r := (s.core h).router
  match r.merges.find? (fun e => e.group == new.group && e.tag == new.tag) with
  | some e =>
    let e1 := { e with reqs := e.reqs ++ new.reqs }
    let s2 := s.updRouter h (fun r => { r with merges := r.merges.map (fun y => if y.group = new.group ∧ y.tag = new.tag then e1 else y) })
    if e1.reqs.length = e1.want then mergeServed s2 h e1 else s2
  | none =>
    if 16 ≤ r.merges.length then
      s.updRouter h (fun r => { r with waiting := r.waiting ++ [new], mergeFull := satAdd 0xFF r.mergeFull full })
    else s.updRouter h (fun r => { r with
      merges := r.merges ++ [new], mergeMiss := if r.closed.contains (new.group, new.tag) then satAdd 0xFF r.mergeMiss 1 else r.mergeMiss })

/-- The requests that wait at a router taken up again, in order. -/
def mergeAdmit (s : State) (h : Nat) : State :=
  (s.core h).router.waiting.foldl (fun s w => mergeRequest s h w 0) (s.updRouter h (fun r => { r with waiting := [] }))

/-- An entry closed, and what waits taken up; a close among those may free a place for another, once for each that waits. -/
def mergeClose (s : State) (h : Nat) (en : MergeEnt) : State :=
  (s.core h).router.waiting.foldl (fun s _ => mergeAdmit s h) (mergeServed s h en)

/-- MERGE_REQUEST_ARRIVE: the i-th request attaches to its entry, opens one, or waits for one of the 16. One that a seam has spoiled is answered with poison (R165). DESIGN
CHOICE: notes/assumptions/89.md. -/
def execMergeRequestArrive (i : Arrival) (s : State) : Out :=
  .next (match takeAt s.fab.merges i.idx with
  | none => s
  | some (x, rest) =>
    let s0 := passed { s with fab := { s.fab with merges := rest } } 2 (routeAll x.req.core x.holder)
    match refusedAt s x.part x.req.core x.holder with
    | some m => isolate s0 x.part x.req.core m true
    | none =>
      let bad := (spoiltOn i).or (lostLink s x.req.core x.holder)
      let s1 := match bad with | some (k, l) => seamUe s0 x.part (seamReceiver k l x.req.core x.holder) k l | none => s0
      let s2 := mergeRequest s1 x.holder
        { group := x.group, tag := x.tag, handle := x.handle, ofs := x.ofs, ctx := x.sctx, run := x.run, want := x.want, reqs := [{ x.req with poison := bad.isSome }] } 1
      (s2.core x.holder).router.waiting.foldl (fun s _ => if (s.core x.holder).router.merges.length < 16 then mergeAdmit s x.holder else s) s2)

/-- MERGE_ENTRY_CLOSE: 64 fc after it opened. -/
def execMergeEntryClose (core : Fin 9216) (group : Fin 16) (tag : BitVec 8) (s : State) : Out :=
  .next (match (s.core core).router.merges.find? (fun e => e.group == group.val && e.tag == tag) with
  | some e => mergeClose s core e
  | none => s)

/-! ### Seams (R165, R166) -/

/-- The links of a seam: twelve where it is vertical (R154, R176). -/
def linkCount (k : Nat) : Nat := if 42 ≤ k ∧ k < 82 then 12 else 16

/-- A link marked for retraining: within one stepping partition it retrains as a boundary item (R166). -/
def markRetrain (s : State) (k l : Nat) : State :=
  let s1 := s.updSeamLink k l (fun x => { x with pend := true })
  match seamPart s k with
  | some p => armBoundary s1 p (.retrain k l)
  | none => s1

/-- SEAM_LANE_LOCK_LOSS. -/
def execSeamLaneLockLoss (k : Fin 88) (l : Fin 16) (s : State) : Out :=
  .next (if linkCount k ≤ l.val then s
  else markRetrain ((fabLog s (seamEnd k l) 0 k l 0 0 0).updSeamLink k l (fun x => { x with up := false })) k l)

/-- SEAM_ERROR_WINDOW: a link's 1 ms interval ends. The masthead's request to retrain the link has no row of its own (R166). DESIGN CHOICE: notes/assumptions/90.md. -/
def execSeamErrorWindow (k : Fin 88) (l : Fin 16) (w : SeamWindow) (s : State) : Out :=
  let s1 := s.updSeam k (fun x => { x with ceSym := x.ceSym + w.symbols })
  .next (if linkCount k ≤ l.val then s else if w.asked || decide (16 * s.fab.retrainThr < w.symbols) then markRetrain s1 k l else s1)

/-- Whether a link may retrain: at once, or, within one stepping partition, in its boundary interval (R166). -/
def mayRetrain (s : State) (k : Nat) : Bool := match seamPart s k with | some p => !(s.grp p).inStep | none => true

/-- SEAM_RETRAIN_DONE of a marked link: up to 8 failed lanes are mapped onto spares; more fail the link, and the items of the images that span the seam. -/
def execSeamRetrainDone (k : Fin 88) (l : Fin 16) (badLanes : Nat) (s : State) : Out :=
  let m := seamEnd k l
  let done := fun (s : State) => match seamPart s k with | some p => endLuff s p (.retrain k l) | none => s
  .next (if linkCount k ≤ l.val || !mayRetrain s k || !(AMap.at (s.seam k).links {} l).pend || (AMap.at (s.seam k).links {} l).failed then s
  else if badLanes ≤ 8 then
    done ((fabLog s m 4 k l 0 0 0).updSeam k (fun x => { x with
      retrains := satAdd 0xFF x.retrains 1, links := AMap.upd x.links {} l (fun y => { y with up := true, pend := false, spares := badLanes }) }))
  else
    let s1 := done ((fabLog s m 5 k l 0 0 0).updSeam k (fun x => { x with
      gap := true, retrains := satAdd 0xFF x.retrains 1, links := AMap.upd x.links {} l (fun y => { y with up := false, pend := false, failed := true }) }))
    match seamFields s k with
    | [a, b] =>
      let p := (s.field a).part
      let both := (s.slotsOn p a).filter (fun i => (s.slotsOn p b).contains i)
      if (s.field a).owned && (s.field b).owned && p == (s.field b).part && !both.isEmpty then lostFault s1 p 0x4A a noCore 0x23 both else s1
    | _ => s1)

/-! ### Fixed-hop mode (R174, R175) -/

/-- The fields that a mask names. -/
def fieldsIn (mask : BitVec 48) : List Nat := (List.range 48).filter (fun n => bitAt mask n)

/-- FIXED_HOP_ENTER: the fields stop accepting VC1 and VC2 and drain. -/
def execFixedHopEnter (fields : BitVec 48) (s : State) : Out :=
  .next ((fieldsIn fields).foldl (fun s n => s.updField n (fun f => if f.mode = .normal then { f with mode := .draining, drained := false } else f)) s)

/-- Whether a packet's way passes through a field. -/
def passesField (n a b : Nat) : Bool := (routeAll a b).any (fun m => m / 192 == n)

/-- Whether a field's VC0 to VC2 buffers and reduction stores are empty: nothing on its way through the field, waiting at a router, or held at a node (R174). -/
def fieldEmpty (s : State) (n : Nat) : Bool :=
  !(s.fab.flits.any (fun f => passesField n f.from f.dst)) && !(s.fab.reds.any (fun f => passesField n f.src f.dst)) &&
  !(s.fab.merges.any (fun f => passesField n f.req.core f.holder)) && !(s.fab.vc0.any (fun f => passesField n (vc0From s f.dst) f.dst)) &&
  allBelow 192 (fun c => let r := (s.core (n * 192 + c)).router; r.parts.isEmpty && r.sums.isEmpty && r.waiting.isEmpty && r.merges.isEmpty)

/-- FIXED_HOP_DRAIN_DONE. -/
def execFixedHopDrainDone (n : Fin 48) (s : State) : Out :=
  .next (if fieldEmpty s n then s.updField n (fun f => if f.mode = .draining then { f with drained := true } else f) else s)

/-- FIXED_HOP_DRAIN_TIMEOUT: the field reports a drain failure and is lost. -/
def execFixedHopDrainTimeout (n : Fin 48) (s : State) : Out :=
  .next (if (s.field n).mode = .draining ∧ (s.field n).drained = false then fieldLost (fabLog s (n.val * 192) 6 0 0 0 0 0) n 0x49 else s)

/-- FIXED_HOP_START_TICK: at the named tick the hop counters of the group's fields start at 0 together. -/
def execFixedHopStartTick (fields : BitVec 48) (t : Dword) (s : State) : Out :=
  .next (if (fieldsIn fields).all (fun n => (s.field n).mode == .draining && (s.field n).drained) then
    (fieldsIn fields).foldl (fun s n => s.updField n (fun f => { f with mode := .fixedHop, hopOrigin := some t.toNat })) (s.atTick t)
  else s.atTick t)

/-- FIXED_HOP_EXIT_TICK: the group leaves the mode, its VC3 buffers being empty: no VC3 flit starts, ends or passes in the group (R174). -/
def execFixedHopExitTick (fields : BitVec 48) (t : Dword) (s : State) : Out :=
  .next (if s.fab.flits.any (fun f => f.vc == 3 && (bitAt fields (f.dst / 192) || (f.hops s).1.any (fun x => bitAt fields (x.1 / 192)))) then s.atTick t
  else (fieldsIn fields).foldl (fun s n => s.updField n (fun f => if f.mode = .fixedHop then { f with mode := .normal, hopOrigin := none, drained := false } else f)) (s.atTick t))

/-- Inputs that an entry names for the output ports local, north, east, south, west, three bits each in that order; 5 to 7 name none, and the field controller's port, which brings
VC0 messages alone (R153, R161), has no place. The spec gives the entry no layout. DESIGN CHOICE: notes/assumptions/87.md. -/
def hopEntry (e : BitVec 15) : List Nat := (List.range 5).map (fun i => bitsN e (3 * i) 3)

/-- The table keeps the free slot: in every fc whose hop counter is 7 modulo 8 no mesh output is named (R175). -/
def hopOk (t : List (BitVec 15)) : Bool :=
  decide (1 ≤ t.length) && decide (t.length ≤ 256) &&
  allBelow (8 * t.length) (fun c => c % 8 != 7 || ((hopEntry (t.getD (c % t.length) 0#15)).drop 1).all (fun x => decide (4 < x)))

/-- HOP_TABLE_LOAD. HOP_PERIOD is one register of a field and each router has its own table: it shows the period of the last table loaded. DESIGN CHOICE:
notes/assumptions/87.md. -/
def execHopTableLoad (router : Fin 9216) (t : List (BitVec 15)) (s : State) : Out :=
  .next (if hopOk t then
    (s.updRouter router (fun r => { r with hop := t.map hopEntry })).updField (router.val / 192) (fun f => { f with hopPeriod := t.length - 1 })
  else s)

/-- FAB_FIELD of a field; zero for one that the grade lacks (Table 7.7, R176). -/
def fabField (s : State) (n : Nat) : Word :=
  let f := s.field n
  if !s.hasField n then 0#32
  else packFields 32 [(0, 2, match f.mode with | .normal => 0 | .draining => 1 | .fixedHop => 2 | .dark => 3), (2, 6, f.part), (8, 8, f.hopPeriod), (24, 8, f.collCnt)]

end Sys2Proof.Machine
end

