-- ==== Sys2Proof/Machine/Queue.lean ====
section
/-! DEFINITION. Shared operations of the request engine: entries, records, rings, pages, admission costs, parking (11, 12 R290, 13 R309 to R329). -/

namespace Sys2Proof.Machine

/-! ### Entries -/

def State.ent (s : State) (e : Nat) : Entry := AMap.at s.table.entries {} e

def State.setEnt (s : State) (e : Nat) (x : Entry) : State := { s with table := { s.table with entries := AMap.put s.table.entries e x } }

def State.updEnt (s : State) (e : Nat) (f : Entry → Entry) : State := s.setEnt e (f (s.ent e))

def State.req (s : State) (p : Nat) : ReqPart := (s.part p).req

def State.updReq (s : State) (p : Nat) (f : ReqPart → ReqPart) : State := s.updPart p (fun x => { x with req := f x.req })


/-- The entries of a partition that meet a condition, in ascending index. -/
def entriesOf (s : State) (p : Nat) (f : Nat → Entry → Bool) : List Nat :=
  (s.table.entries.filter (fun x => (s.req p).owns x.1 && f x.1 x.2)).map (·.1)

/-- A list put in ascending order of a key, equal keys in their own order. -/
def insertBy {α : Type} (k : α → Nat) (x : α) : List α → List α
  | [] => [x]
  | y :: r => if k x < k y then x :: y :: r else y :: insertBy k x r

def sortBy {α : Type} (k : α → Nat) (l : List α) : List α := l.foldl (fun a x => insertBy k x a) []

/-- LIMIT of a turn (R269). -/
def turnLimit (len cnt : Nat) (pfo : Bool) (maxNew : Nat) : Nat :=
  if pfo then len + cnt else if maxNew = 0 then 4194304 else min 4194304 (len + cnt + maxNew)

/-! ### The security engine's part of a partition (21) -/

def State.updSec (s : State) (f : Sec → Sec) : State := { s with sys := { s.sys with sec := f s.sys.sec } }

def State.secPart (s : State) (p : Nat) : SecPart := AMap.at s.sys.sec.parts {} p

def State.updSecPart (s : State) (p : Nat) (f : SecPart → SecPart) : State := s.updSec (fun x => { x with parts := AMap.upd x.parts {} p f })

/-- A stream in the secure state. -/
def IdeStream.secure (x : IdeStream) : Bool := x.going == 63#6

/-- Whether a function's traffic may use a link: IDE_REQ asks for a secure stream that covers the function (R473). -/
def ideOk (s : State) (link f : Nat) : Bool :=
  f == 0 || !(s.secPart (f - 1)).ideReq || (AMap.at s.sys.sec.ide [] link).any (fun x => x.2.secure && x.2.fns.contains f)

/-- A little-endian field after another: the bytes of a block as one number, first field lowest. -/
def catFields (fs : List (Nat × Nat)) : Nat := fs.foldr (fun f acc => f.2 % 256 ^ f.1 + 256 ^ f.1 * acc) 0

/-- K_in, K_out or K_tag of a session key: info "in", "out" or "tag", without a salt (R478). DESIGN CHOICE: notes/assumptions/26.md. -/
def e2eKey (k : BitVec 256) (info : Nat × Nat) : BitVec 256 := BitVec.ofNat 256 (Config.hkdf384 (0, 0) (32, k.toNat) info 32)

def infoIn : Nat × Nat := (2, 0x6E69)
def infoOut : Nat × Nat := (3, 0x74756F)
def infoTag : Nat × Nat := (3, 0x676174)

/-- The mask of ring word i of a bound entry: AES-256 under K_out of epoch, entry index and ring index (R482); zero for an entry that is not bound. -/
def wordMask (s : State) (p e i : Nat) (x : Entry) : BitVec 48 :=
  match x.e2e with
  | none => 0#48
  | some (k, epoch) =>
    (Config.aes256 (e2eKey (AMap.at (s.secPart p).slots {} k).key infoOut) (BitVec.ofNat 128 (catFields [(8, epoch), (4, e), (4, i)]))).setWidth 48

/-- A stream word as it leaves the module: bytes 0 to 5 masked. -/
def maskWord (w : BitVec 64) (m : BitVec 48) : BitVec 64 := w ^^^ m.setWidth 64

/-- The turn tag of a bound entry as the completion record of a turn is written (R483). -/
def turnTag (s : State) (p e : Nat) (r : Record) : State :=
  let x := s.ent e
  match x.e2e with
  | none => s
  | some (k, _) =>
    if r.cmd ≠ 1 ∧ r.cmd ≠ 2 then s
    else
      let first := r.ringHead - r.turnTokens
      let key := e2eKey (AMap.at (s.secPart p).slots {} k).key infoTag
      let aad := [(4, e), (1, r.status), (4, first), (4, r.turnTokens)] ++ x.masked.map (fun w => (6, w.toNat))
      let tag := Config.gmac256 key (BitVec.ofNat 96 (catFields [(8, x.turn.ctr), (4, e)])) (13 + 6 * x.masked.length) (catFields aad)
      s.updSecPart p (fun y => { y with tags := AMap.put y.tags e { status := r.status, first := first, cnt := r.turnTokens, tag := tag, ctr := x.turn.ctr } })

/-! ### Host memory -/

/-- Whether a function can master over a link: the link trained, the function present, its bus-master enable set (R490), a secure stream where IDE_REQ
asks for one (R473). -/
def canMaster (s : State) (link f : Nat) : Bool :=
  let l := s.host.links.toList.getD link {}
  let pf := AMap.at l.cfg {} 0
  l.up && (AMap.at l.cfg {} f).master && (f == 0 || (pf.sriov && decide (f ≤ pf.numVfs))) && ideOk s link f

/-- Whether a partition's ring traffic can leave over its home link. -/
def ringOk (s : State) (p : Nat) : Bool := canMaster s (s.part p).home (p + 1)

/-- A ring has no room: full, disabled, or its function cannot master (R280, R282, R290, R490). -/
def OutRing.full (r : OutRing) (ok : Bool) : Bool := !r.en || !ok || (r.tail + 1) % 2 ^ r.size == r.head

/-- The tail moved past a record, the phase inverting at a wrap (R280). -/
def OutRing.step (r : OutRing) : OutRing :=
  { r with tail := (r.tail + 1) % 2 ^ r.size, phase := if r.tail + 1 = 2 ^ r.size then !r.phase else r.phase }

/-! ### Completion records (Table 11.7) -/

def recordBits (r : Record) (phase : Bool) : BitVec 512 :=
  packFields 512 [(0, 18, r.entry), (31, 1, b2n phase), (32, 8, r.status), (40, 8, r.cmd), (48, 8, r.detail), (56, 1, b2n r.retained),
    (64, 16, r.esc.passes), (80, 8, r.esc.unres), (88, 8, r.esc.blocked), (96, 2, r.esc.top), (128, 23, r.turnTokens), (160, 23, r.len),
    (192, 32, r.ringHead), (224, 32, r.userTag), (256, 64, r.tEnq), (320, 64, r.tFirst), (384, 64, r.tEnd)]

/-- A record put into the completion ring, which has room, and its vector signalled. -/
def putRecord (s : State) (p : Nat) (r : Record) : State :=
  let q := (s.req p).cq
  let s1 := emit s (.write (p + 1) (q.base.toNat + 64 * q.tail) 64 (recordBits r q.phase).toNat)
  signal (s1.updReq p (fun x => { x with cq := x.cq.step })) (p + 1) 3

/-- A rejection: held, in its submission's queue place, until it is written (R269, R282). -/
def reject (s : State) (p e cmd status tag t : Nat) (place : Nat × Nat) : State :=
  s.updReq p (fun x => { x with rejects := satAdd 0xFFFFFFFF x.rejects 1, held := x.held ++
    [{ entry := e, status := status, cmd := cmd, userTag := tag, tEnq := t, tEnd := t, place := some place }] })

/-- The record of a turn that ends at tick t. -/
def turnRecord (e : Nat) (x : Entry) (status detail t : Nat) (kept : Bool) : Record :=
  { entry := e, status := status, cmd := x.turn.op, detail := detail, retained := kept, esc := x.esc, turnTokens := x.tokens, len := x.len,
    ringHead := x.ringHead, userTag := x.turn.userTag, tEnq := x.turn.tEnq, tFirst := x.tFirst, tEnd := t }

/-- The record of a PARK or CLOSE that ends at tick t. -/
def workRecord (e : Nat) (x : Entry) (status t : Nat) (kept : Bool) : Record :=
  { entry := e, status := status, cmd := if x.byCmd then (if status = 7 then 4 else 5) else 0, retained := kept, len := x.len, ringHead := x.ringHead,
    userTag := if x.byCmd then x.cmdTag else x.turn.userTag, tEnq := if x.byCmd then x.cmdTick else x.turn.tEnq, tEnd := t }

/-- A record that an FLR withdraws, counted (R494). -/
def countFlr (s : State) (p : Nat) : State := s.updPart p (fun x => { x with flrDiscard := satAdd 0xFFFF x.flrDiscard 1 })

/-- The CANCEL_LATE record of a held cancellation that a row-1 or row-2 ending overtook, held and counted as a rejection (R278, R283). -/
def lateCancel (s : State) (p e : Nat) (x : Entry) (t : Nat) : State :=
  if !x.cancel then s
  else if x.flr then countFlr s p
  else s.updReq p (fun q => { q with
    rejects := satAdd 0xFFFFFFFF q.rejects 1, held := q.held ++ [{ entry := e, status := 0x44, cmd := 3, userTag := x.cmdTag, tEnq := x.cmdTick, tEnd := t }] })

/-! ### Pages (R309 to R314) -/

/-- A KV space of an image on a partition: its first core's geometry, and the physical core of each place. -/
structure SpaceAt where
  geo : Geo
  homes : AMap Nat
  deriving DecidableEq, Repr

/-- The spaces of the image in a slot, keyed by (model, layer, group). -/
def spacesOf (s : State) (p i : Nat) : AMap SpaceAt :=
  ((s.coresOf p).filter (fun m => s.slotOfField (m / 192) == some i)).foldl (fun a m =>
    (s.core m).geos.foldl (fun a g =>
      AMap.upd a { geo := g.2, homes := [] } ((g.2.model * 1024 + g.2.layer) * 16 + g.2.group)
        (fun x => { x with homes := AMap.put x.homes g.2.kvidx m })) a) []

/-- Whether a model record of the image is its draft. -/
def ImgSlot.isDraft (x : ImgSlot) (model : Nat) : Bool := (x.models.getD model (0, 0)).2 == 2

/-- The home core and VPN of page j of a space of entry e (R310). -/
def pageHome (sp : SpaceAt) (e j : Nat) : Nat × Nat :=
  (AMap.at sp.homes 0 ((j / 2 ^ sp.geo.chunkLog2 + e % 262144) % max sp.geo.nkvc 1), sp.geo.space * 65536 + j)

/-- Valid positions of a space of an entry: LEN - 1 of the target's, DV of the draft's (R318, R346). -/
def validLen (x : Entry) (img : ImgSlot) (g : Geo) : Nat := if img.isDraft g.model then x.dv else x.len - 1

/-- The geometry that a page of an entry belongs to. -/
def pageGeo (s : State) (g : Page) : Geo := AMap.at (s.core g.core).geos {} (g.vpn / 65536)

/-- Whether a page holds a valid position. -/
def pageValid (s : State) (p : Nat) (x : Entry) (g : Page) : Bool :=
  decide (64 * (g.vpn % 65536) < validLen x (s.img p x.islot) (pageGeo s g))

/-- The order in which pages are chained: MODEL, LAYER, GROUP, PAGE (R327). -/
def pageKey (s : State) (g : Page) : Nat :=
  let y := pageGeo s g
  ((y.model * 1024 + y.layer) * 16 + y.group) * 65536 + g.vpn % 65536

/-- The pages of an entry that a park moves, in chain order. -/
def parkPages (s : State) (p e : Nat) : List Page :=
  let x := s.ent e
  sortBy (pageKey s) (x.pages.filter (fun g => g.ready && pageValid s p x g))

/-- A range identifier of the partition's pool that no entry holds. -/
def freeRid (s : State) (p : Nat) : Option Nat :=
  let used := s.table.entries.filterMap (fun x => if (s.req p).owns x.1 then x.2.rid else none)
  findUp (fun r => !used.contains r) 65536 0

/-- Commands still to come for a page: an UNMAP. -/
def unmapCmd (e : Nat) (rid : Nat) (g : Page) : PageCmd := { op := .unmap, entry := e, core := g.core, rid := rid, vpn := g.vpn, gran := g.gran }

/-- Every resident page of an entry released: unmapped at once (R313). The RID is kept until the UNMAPs have answered. -/
def releasePages (s : State) (p e : Nat) : State :=
  let x := s.ent e
  let out := match x.rid with | some rid => (x.pages.filter (·.mapped)).map (unmapCmd e rid) | none => []
  (s.updReq p (fun r => { r with
    pageWork := r.pageWork.filter (fun w => w.entry != e) ++ out, poolFull := r.poolFull.filter (fun x => x.1 != e) })).updEnt e (fun y => { y with pages := [] })

/-- Whether a release of an entry's pages still waits for an UNMAP. -/
def releasing (s : State) (p e : Nat) : Bool := (s.req p).pageWork.any (fun w => w.entry == e)

/-- Sled copies of an entry discarded: its sled pages return to the free pool, the directory names none. -/
def discardSled (s : State) (e : Nat) : State :=
  let x := s.ent e
  let free := fun (y : StayPort) => { y with used := y.used.filter (fun i => !x.sledPages.contains i), dir := AMap.del y.dir e }
  { (s.updEnt e (fun y => { y with sled := false, sledPages := [], moved := 0 })) with
    stay := { s.stay with ports := AMap.upd s.stay.ports {} x.sledPort free } }

/-! ### Parking (R324 to R327) -/

def State.sport (s : State) (i : Nat) : StayPort := AMap.at s.stay.ports {} i

def State.updSport (s : State) (i : Nat) (f : StayPort → StayPort) : State := { s with stay := { s.stay with ports := AMap.upd s.stay.ports {} i f } }

/-- N of R324 for a sled of usable capacity c. -/
def sledCap (c : Nat) : Nat := min 33521600 ((c - 0x80400000) / 65536)

def StayPort.freePages (y : StayPort) : Nat := y.cap - y.used.length

/-- The n lowest free pages of a sled. -/
def takeSled (y : StayPort) : Nat → Nat → List Nat → List Nat
  | 0, _, a => a
  | n + 1, i, a =>
    match findUp (fun k => !y.used.contains k) (y.cap - i) i with
    | some k => takeSled y n (k + 1) (a ++ [k])
    | none => a

/-- The sleds of a partition that are usable. -/
def sledsOf (s : State) (p : Nat) : List Nat :=
  (List.range 24).filter (fun i => (s.sport i).assigned && (s.sport i).part == p && (s.sport i).usable)

/-- The sled that a park chooses: the most free pages, the lowest port on a tie (R324). -/
def bestSled (s : State) (is : List Nat) : Option Nat :=
  is.foldl (fun a i => match a with
    | none => some i
    | some b => if (s.sport b).freePages < (s.sport i).freePages then some i else a) none

/-- A turn's fields made the entry's turn (Table 11.5), those of the last one kept in case it ends before its first commit (R272). -/
def takeTurn (x : Entry) (u : Turn) : Entry :=
  { x with
    st := .queued, cancel := false, turn := u, heldTurn := none, cont := false, tokens := 0, tFirst := 0, ring0 := x.ringHead, esc := {}
    autoState := u.start, work := .none, ended := none, unparkBad := false, masked := [], before := x.turn, autoBefore := x.autoState, flr := false }

/-- The entry's fields as they were before a turn that ends uncommitted (R272); the counter of a bound turn stays for its tag. -/
def Entry.undoTurn (x : Entry) : Entry := { x with turn := { x.before with ctr := x.turn.ctr }, autoState := x.autoBefore }

/-- The entry's pages and the RID are gone: what waited for that ends (R309, Table 11.5). -/
def settle (s : State) (p e t : Nat) : State :=
  let x := s.ent e
  if !x.pages.isEmpty || releasing s p e then s
  else
    let y := { x with rid := none }
    match x.work with
    | .releasing => s.setEnt e { y with st := .done, res := false, work := .none }
    | .closing => s.setEnt e (if y.reports.any (fun r => r.status == 7) then y else { y with reports := y.reports ++ [workRecord e x 7 t false] })
    | _ => s.setEnt e y

/-- A park that fails: counted and logged, the session staying resident (R21, R327). A held turn then takes over (Table 11.9). -/
def parkFailed (s : State) (p e : Nat) (fault : Option Nat) (res : Bool) (t : Nat) : State :=
  let x := s.ent e
  let s1 := { s with stay := { s.stay with parkFail := AMap.upd s.stay.parkFail 0 p (fun k => satAdd 0xFFFF k 1) } }
  let s2 := match fault with | some c => raiseFault s1 p c noField noCore | none => s1
  (discardSled s2 e).updEnt e (fun y =>
    let z := { y with st := .done, res := res, work := .none, reports := y.reports ++ [workRecord e x 0x2A t res], byCmd := false }
    match z.heldTurn with | some u => { takeTurn z u with res := true } | none => z)

/-- Parking confirmed: SLED 1, RES 0, the mast pages released (R21, R327). -/
def parkConfirmed (s : State) (p e t : Nat) : State :=
  let x := s.ent e
  settle ((releasePages s p e).updEnt e (fun y => { y with
    st := .parked, sled := true, res := false, work := .none, moved := 0
    reports := if x.byCmd then y.reports ++ [workRecord e x 8 t true] else y.reports, byCmd := false })) p e t

/-- Whether a page lies on a lost field or a failed mast column. -/
def pageLost (s : State) (g : Page) : Bool := (s.field (g.core / 192)).mode == .dark || (s.core g.core).mast.failed

/-- The reads of an entry's pages put in their masts' queues, where those serve the stay ports in service windows only (R139, R327). -/
def queueReads (s : State) (e gen : Nat) (gs : List Page) : State :=
  gs.foldl (fun s g => if s.coreSteps g.core then s.updMast g.core (fun m => { m with outside := m.outside ++ [.park e gen g.gran] }) else s) s

/-- A park begins: PARK_GEN rises, a sled is chosen, its pages are allocated (R326, R327). One without a page is confirmed at once, except that rank 0 of a
slice waits for the other ranks (R363). One that needs a lost page ends at once, with RES 0 (R443). -/
def beginPark (s : State) (p e t : Nat) : State :=
  let s0 := ({ s with table := { s.table with parkGen := AMap.upd s.table.parkGen 0 e (· + 1) } }).updEnt e (fun y => { y with st := .draining, work := .parking, moved := 0, sledPages := [], askAt := t })
  let n := (parkPages s p e).length
  let all := sledsOf s p
  let ups := all.filter (fun i => (s.sport i).up)
  if (parkPages s p e).any (pageLost s) then parkFailed s0 p e none false t
  else match bestSled s ups with
  | none => parkFailed s0 p e (some (if all.isEmpty then 0x54 else 0x50)) true t
  | some i =>
    if (s.sport i).freePages < n then parkFailed (styLog s0 i 5 p e 0) p e (some 0x54) true t
    else
      let ks := takeSled (s.sport i) n 0 []
      let s1 := (s0.updEnt e (fun y => { y with sledPort := i, sledPages := ks })).updSport i (fun y => { y with used := y.used ++ ks })
      if n = 0 then
        let s2 := s1.updSport i (fun y => { y with dir := AMap.put y.dir e { first := none, count := 0, gen := AMap.at s1.table.parkGen 0 e } })
        if (s.part p).slice.mods ≠ 0 ∧ (s.part p).slice.rank = 0 then s2 else parkConfirmed s2 p e t
      else queueReads s1 e (AMap.at s1.table.parkGen 0 e) (parkPages s p e)

/-- What follows the record of an ended turn, or of a CLOSE: a held turn, parking, release, a FREE entry (Table 11.5). Records that the entry still waits to write
come before the ended turn's own. -/
def afterRecord (s : State) (p e : Nat) (r : Record) (t : Nat) : State :=
  let x := s.ent e
  if r.status = 7 then s.setEnt e {}
  else if x.work ≠ .record ∨ x.reports.isEmpty = false then s
  else match x.heldTurn with
    | some u => s.updEnt e (fun y => { takeTurn y u with res := true })
    | none =>
      if x.turn.retain ∧ r.status < 0x20 then beginPark (s.updEnt e (fun y => { y with byCmd := false })) p e t
      else settle ((releasePages s p e).updEnt e (fun y => { y with work := .releasing })) p e t

end Sys2Proof.Machine
end

