-- ==== Sys2Proof/Machine/HoistReport.lean ====
section
/-! DEFINITION. Hoist commands and hoist reports (10 R250, R251, R261). -/

namespace Sys2Proof.Machine

/-! ### The command (Table 10.9) -/

def hcOp (b : BitVec 256) : Nat := bitsN b 0 8
def hcSlot (b : BitVec 256) : Nat := bitsN b 8 2
def hcReplace (b : BitVec 256) : Bool := bitAt b 10
def hcDrain (b : BitVec 256) : Bool := bitAt b 11
def hcLinks (b : BitVec 256) : Nat := bitsN b 12 4
def hcDrainMs (b : BitVec 256) : Nat := bitsN b 16 16
def hcTag (b : BitVec 256) : Nat := bitsN b 32 32
def hcListAddr (b : BitVec 256) : Nat := bitsN b 64 64
def hcListCnt (b : BitVec 256) : Nat := bitsN b 128 32
def hcTarget (b : BitVec 256) : Nat := bitsN b 160 32
def hcReport (b : BitVec 256) : Nat := bitsN b 192 64

/-- The function whose requester ID a command's reads and report carry (R251). -/
def HoistCmd.fn (c : HoistCmd) (p : Nat) : Nat := if c.byVf then p + 1 else 0

/-! ### The report (Table 10.11) -/

/-- What a report says beside its command. -/
structure HoistRpt where
  phase : Nat
  status : Nat
  bytes : Nat := 0
  sec : Nat := 0xFFFFFFFF
  vcore : Nat := 0xFFFFFFFF
  detail : Nat := 0
  digest : BitVec 384 := 0#384
  place : Nat := 0
  deriving DecidableEq, Repr

def reportBits (c : HoistCmd) (r : HoistRpt) (elapsed : Nat) : BitVec 1024 :=
  packFields 1024 [(0, 32, hcTag c.body), (32, 8, r.status), (40, 8, r.phase), (48, 8, hcSlot c.body), (64, 64, r.bytes), (128, 32, r.sec), (160, 32, r.vcore),
    (192, 32, r.detail), (256, 384, r.digest.toNat), (640, 64, elapsed), (704, 8, r.place)]

/-- PRT_HOIST_STAT after a report: LAST_STATUS, and SLOT and PHASE unless another command runs (Table 10.15). -/
def noteReport (x : Part) (c : HoistCmd) (r : HoistRpt) (ok : Bool) : Part :=
  let h := x.hstat
  let h1 := if x.hoist.isSome || !x.waiting.isEmpty then h else { h with slot := hcSlot c.body, phase := r.phase }
  { x with hstat := { h1 with last := r.status, rptLost := h.rptLost || !ok } }

/-- A report written through the commanding function over the home link, or lost, which the recorder keeps; its vector is signalled either way (R251, R490).
Before READY it waits (R392). -/
def writeReport (s : State) (p : Nat) (c : HoistCmd) (r : HoistRpt) : State :=
  if !s.sys.ready then s.updPart p (fun x => { x with early := x.early ++ [(c, r.phase, r.status)] })
  else
    let f := c.fn p
    let ok := canMaster s (s.part p).home f
    let s1 := if ok then emit s (.write f (hcReport c.body) 128 (reportBits c r (s.tb.toNat - c.tick)).toNat) else s
    let s2 := (if ok then s1 else evrEvent s1 0x84 2 p noField noCore (some (BitVec.ofNat 64 (hcTag c.body))) none).updPart p (fun x => noteReport x c r ok)
    if c.byVf then signal s2 (p + 1) 4 else signal s2 0 (128 + p)

/-- Every command that waits in a partition's queue reports ABORTED, in order (R262). -/
def abortQueue (s : State) (p : Nat) : State :=
  (s.part p).queue.foldl (fun s c => writeReport s p c { phase := if hcOp c.body = 2 then 7 else 0, status := 0x11 }) (s.updPart p (fun x => { x with queue := [] }))

end Sys2Proof.Machine
end

