-- ==== Sys2Proof/Machine/Request.lean ====
section
/-! DEFINITION. The request engine's commands: submissions, completion records, ring registers, releases (11). -/

namespace Sys2Proof.Machine

/-! ### Submissions (Table 11.2) -/

def sbOp (w : BitVec 512) : Nat := bitsN w 0 8
def sbRetain (w : BitVec 512) : Bool := bitAt w 8
def sbPfo (w : BitVec 512) : Bool := bitAt w 9
def sbMode (w : BitVec 512) : Nat := bitsN w 10 2
def sbK (w : BitVec 512) : Nat := bitsN w 12 4
def sbPrio (w : BitVec 512) : Nat := bitsN w 16 3
def sbSlot (w : BitVec 512) : Nat := bitsN w 19 2
def sbTq (w : BitVec 512) : Nat := bitsN w 24 8
def sbEntry (w : BitVec 512) : Nat := bitsN w 32 18
def sbCnt (w : BitVec 512) : Nat := bitsN w 128 32
def sbMaxNew (w : BitVec 512) : Nat := bitsN w 160 23
def sbDeadline (w : BitVec 512) : Nat := bitsN w 192 64
def sbStop (w : BitVec 512) : Nat := bitsN w 320 16
def sbAuto (w : BitVec 512) : Nat := bitsN w 336 12
def sbCut (w : BitVec 512) : Nat := bitsN w 348 4
def sbTemp (w : BitVec 512) : Nat := bitsN w 352 16
def sbTopp (w : BitVec 512) : Nat := bitsN w 368 16
def sbTopk (w : BitVec 512) : Nat := bitsN w 384 16
def sbTag (w : BitVec 512) : Nat := bitsN w 416 32

/-- Whether a submission sets a bit that its operation does not use. The bits used are given as (place, width). -/
def extraBits (w : BitVec 512) (used : List (Nat × Nat)) : Bool :=
  (used.foldl (fun x u => setBits x u.1 u.2 0) w) != 0#512

/-- The fields that each operation uses (R267). -/
def usedFields (op : Nat) : List (Nat × Nat) :=
  if op ≤ 2 then [(0, 21), (24, 26), (64, 119), (192, 208), (416, 32)]
  else if op = 3 then [(0, 9), (32, 18), (416, 32)] else [(0, 8), (32, 18), (416, 32)]

/-- TEMP, TOPP and TOPK in the ranges of R340. -/
def samplingOk (w : BitVec 512) : Bool :=
  (sbTemp w == 0 || (decide (0x3C80 ≤ sbTemp w) && decide (sbTemp w ≤ 0x4280))) &&
  decide (1 ≤ sbTopp w) && decide (sbTopp w ≤ 0x3F80) && decide (sbTopk w ≤ 1024)

/-- The session slot that an OPEN's tenant queue is bound to (R480). -/
def queueSlot (s : State) (p : Nat) (w : BitVec 512) : Option Nat :=
  let x := AMap.at (s.secPart p).e2e (0, false) (sbTq w)
  if x.2 then some x.1 else none

/-- The session slot of a submission's entry: the queue's for an OPEN, else the entry's own. -/
def boundSlot (s : State) (p op : Nat) (w : BitVec 512) : Option Nat :=
  if op = 1 then queueSlot s p w else (s.ent (sbEntry w)).e2e.map (·.1)

/-- Whether an AUTO_ID names no automaton that has taken effect in a slot; one whose load waits for the boundary does not count (Table 14.9). -/
def autoMissing (s : State) (p i id : Nat) : Bool :=
  (AMap.find (s.img p i).autos id).isNone || (s.req p).autoLoads.any (fun a => a.slot == i && a.id == id)

/-- Check 1 of Table 11.4. -/
def badSubmission (s : State) (p op : Nat) (w : BitVec 512) : Bool :=
  sbOp w != op || (op == 1 && (match queueSlot s p w with | some k => (AMap.at (s.secPart p).slots {} k).purpose != 2 | none => false)) || extraBits w (usedFields op) ||
  (decide (op ≤ 2) && (sbCut w == 0 || decide (8 < sbCut w) || decide (8 < sbK w) || sbMode w == 3 || (sbMode w != 0 && sbK w == 0) ||
    (op == 1 && sbCnt w == 0) || decide ((s.req p).stopCnt ≤ sbStop w) || !samplingOk w ||
    (sbAuto w != 0 && autoMissing s p (sbSlot w) (sbAuto w))))

/-- Check 4: whether the entry's state admits the operation (Table 11.5). A session whose pages are being released is on its way to DONE with RES 0, which
admits no CONTINUE. -/
def admits (x : Entry) (op : Nat) : Bool :=
  x.work != .closing && (match op with
  | 1 => x.st == .free
  | 2 => x.st == .parked || (x.st == .done && x.res) || (x.st == .draining && !x.cont && x.work != .releasing)
  | 3 => (x.st == .queued || x.st == .active) && !x.cancel
  | 4 => x.st == .done || x.st == .parked
  | _ => x.st == .done && x.res)

/-- Checks 1 to 8 of Table 11.4, in order, each with its status. -/
def acceptanceChecks (s : State) (p op : Nat) (w : BitVec 512) (t : Nat) : List (Bool × Nat) :=
  let x := s.ent (sbEntry w)
  let i := sbSlot w
  let img := s.img p i
  let turn := decide (op ≤ 2)
  let len := if op = 1 then 0 else x.len
  [(badSubmission s p op w, 0x40),
   (!(s.req p).owns (sbEntry w), 0x41),
   ((op == 1 || op == 2 || op == 5) && (s.grp p).quarantined, 0x42),
   (!admits x op, if op = 3 then 0x44 else 0x43),
   (op == 2 && i != x.islot, 0x46),
   (turn && img.st != .loaded, 0x45),
   (op == 2 && x.igen != img.gen, 0x46),
   (turn && sbMode w != 0 && (!img.draft || decide (img.kmax < sbK w)), 0x40),
   (turn && (decide (16384 < sbCnt w) || decide (4194304 < len + sbCnt w)), 0x47),
   (turn && decide (sbDeadline w < t), 0x48)]

/-- The fields of the turn that a submission starts (R269, R349). -/
def turnOfSub (s : State) (p op : Nat) (w : BitVec 512) (len t : Nat) : Turn :=
  { prio := sbPrio w, retain := sbRetain w, tq := sbTq w, pfo := sbPfo w, specK := sbK w, specMode := sbMode w
    limit := turnLimit len (sbCnt w) (sbPfo w) (sbMaxNew w), deadline := sbDeadline w, seed := bits w 256 64, stopset := sbStop w
    autoId := sbAuto w, cut := sbCut w, temp := bits w 352 16, topp := bits w 368 16, topk := sbTopk w, pend := sbCnt w
    userTag := sbTag w, tEnq := t, op := op
    start := match AMap.find (s.img p (sbSlot w)).autos (sbAuto w) with | some a => a.start | none => 0 }

/-- Byte address of an entry's output ring in the ring store, and of its input buffer (R286). -/
def ringBase (e : Nat) : Nat := e * 0x90000
def inputBase (e : Nat) : Nat := e * 0x90000 + 0x80000

/-- The prompt copied into the entry's input buffer. -/
def storePrompt (s : State) (e : Nat) (ws : List Word) : State :=
  { s with stream := { s.stream with ring := ((List.range ws.length).zip ws).foldl (fun m x => Memory.writeN m (inputBase e + 4 * x.1) x.2.toNat 4) s.stream.ring } }

/-- Whether the engine takes a submission from queue q now: the module up, this module's rank 0, the queue next in the round, the completion ring with room and nothing held
(R268, R282, R362, R490). -/
def canTake (s : State) (p q : Nat) : Bool :=
  let r := s.req p
  let live := fun k => (AMap.at r.sqs {} k).en && (AMap.at r.sqs {} k).head != (AMap.at r.sqs {} k).tail
  s.sys.ready && !s.sys.shutdown && (s.part p).en && (s.slice p).rank == 0 && !r.cqFull && !r.cq.full (ringOk s p) && ringOk s p && live q &&
  ((List.range 16).map (fun k => (r.turnOf + k) % 16)).find? live == some q

/-- The submission at the head of queue q taken. -/
def takeSub (s : State) (p q : Nat) : State :=
  s.updReq p (fun r => { r with turnOf := (q + 1) % 16, sqs := AMap.upd r.sqs {} q (fun x => { x with head := (x.head + 1) % 2 ^ x.size }) })

/-- What the buffer of a bound entry opens to under K_in: its counter C, and the prompt where the tag passes (R481). -/
def openPrompt (key : BitVec 256) (e op cnt : Nat) (b : List Word) : Nat × Option (List Word) :=
  let num := fun (ws : List Word) => catFields (ws.map (fun w => (4, w.toNat)))
  let c := num (b.take 2)
  let d := Config.gcmOpen (e2eKey key infoIn) (BitVec.ofNat 96 (catFields [(4, e), (8, c)])) 9 (catFields [(4, e), (1, op), (4, cnt)]) (4 * cnt)
    (num ((b.drop 2).take cnt)) (BitVec.ofNat 128 (num ((b.drop (2 + cnt)).take 4)))
  (c, d.map (fun v => (List.range cnt).map (fun i => BitVec.ofNat 32 (v / 2 ^ (32 * i)))))

/-- The counter and the prompt tokens that a submission's buffer gives: in clear, counter 0, for an entry that is not bound; none where R481 refuses it. -/
def takePrompt (s : State) (p op : Nat) (w : BitVec 512) (b : List Word) : Option (Nat × List Word) :=
  match boundSlot s p op w with
  | none => some (0, b.take (sbCnt w))
  | some k =>
    let x := AMap.at (s.secPart p).slots {} k
    match openPrompt x.key (sbEntry w) op (sbCnt w) b with
    | (c, some ws) => if x.cLast < c then some (c, ws) else none
    | (_, none) => none

/-- C_last of the slot that a submission's entry is bound to (R481). -/
def countPrompt (s : State) (p op : Nat) (w : BitVec 512) (c : Nat) : State :=
  match boundSlot s p op w with
  | none => s
  | some k => s.updSecPart p (fun y => { y with slots := AMap.upd y.slots {} k (fun z => { z with cLast := c }) })

/-- A submission taken: rejected with the status of the first check that fails, or of its prompt read, or applied with the prompt's counter. `prompt` is
the buffer at PROMPT_ADDR in words, as it stands in host memory, none where its read failed. -/
def submit (s : State) (p q op : Nat) (w : BitVec 512) (prompt : Option (List Word)) (t : Dword) (apply : Nat → State → State) : State :=
  if !canTake s p q then s
  else
    let s1 := takeSub (s.atTick t) p q
    let place := (q, (AMap.at (s.req p).sqs {} q).head)
    match firstCause (acceptanceChecks s1 p op w t.toNat) with
    | some c => reject s1 p (sbEntry w) (sbOp w) c (sbTag w) t.toNat place
    | none =>
      if 2 < op then apply 0 s1
      else match prompt with
        | none => reject s1 p (sbEntry w) (sbOp w) 0x49 (sbTag w) t.toNat place
        | some b =>
          match takePrompt s1 p op w b with
          | some (c, ws) => apply c (storePrompt (countPrompt s1 p op w c) (sbEntry w) ws)
          | none => reject (s1.updSecPart p (fun y => { y with e2eFail := satAdd 0xFFFF y.e2eFail 1 })) p (sbEntry w) (sbOp w) 0x40 (sbTag w) t.toNat place

/-- A submission whose own read fails: rejected with HOST_READ. What its record copies was never read: free values (R269, Table 11.8). DESIGN CHOICE:
notes/assumptions/92.md. -/
def submissionReadFails (s : State) (p q : Nat) (t : Dword) : State :=
  if !canTake s p q then s
  else
    let v := (Config.freeValue s.free).setWidth 64
    reject (takeSub (s.atTick t) p q) p (bitsN v 0 18) (bitsN v 18 8) 0x49 (bitsN v 32 32) t.toNat (q, (AMap.at (s.req p).sqs {} q).head)

/-- OPEN: a FREE entry becomes QUEUED, bound where its queue is (R480). -/
def execOpen (p : Fin 64) (q : Fin 16) (sub : BitVec 512) (prompt : Option (List Word)) (t : Dword) (s : State) : Out :=
  .next (submit s p q 1 sub prompt t (fun c s =>
    let img := s.img p (sbSlot sub)
    (s.setEnt (sbEntry sub) (takeTurn { st := .free, islot := sbSlot sub, igen := img.gen, res := true, e2e := (queueSlot s p sub).map (fun k => (k, c)) }
      { turnOfSub s p 1 sub 0 t.toNat with ctr := c })).updSecPart p (fun y => { y with tags := AMap.del y.tags (sbEntry sub) })))

/-- CONTINUE: from PARKED unparking begins; from DONE the turn queues; while DRAINING it is held, or parking is abandoned. -/
def execContinue (p : Fin 64) (q : Fin 16) (sub : BitVec 512) (prompt : Option (List Word)) (t : Dword) (s : State) : Out :=
  .next (submit s p q 2 sub prompt t (fun c s =>
    let e := sbEntry sub
    let x := s.ent e
    let u := { turnOfSub s p 2 sub x.len t.toNat with ctr := c }
    match x.st with
    | .parked => s.updEnt e (fun y => { takeTurn y u with res := false, moved := 0 })
    | .draining =>
      if x.work = .parking then
        (discardSled s e).updEnt e (fun y =>
          let z := if x.byCmd then { y with reports := y.reports ++ [workRecord e x 0x2A t.toNat true], byCmd := false } else y
          { takeTurn z u with res := true })
      else s.updEnt e (fun y => { y with cont := true, heldTurn := some u })
    | _ => s.updEnt e (fun y => takeTurn y u)))

/-- CANCEL: held for the next boundary. -/
def execCancel (p : Fin 64) (q : Fin 16) (sub : BitVec 512) (t : Dword) (s : State) : Out :=
  .next (submit s p q 3 sub none t (fun _ s =>
    s.updEnt (sbEntry sub) (fun y => { y with
      cancel := true, turn := { y.turn with retain := sbRetain sub }, cmdTag := sbTag sub, cmdTick := t.toNat })))

/-- CLOSE: pages and sled copies released, then the record, then a FREE entry. -/
def execClose (p : Fin 64) (q : Fin 16) (sub : BitVec 512) (t : Dword) (s : State) : Out :=
  .next (submit s p q 4 sub none t (fun _ s =>
    let e := sbEntry sub
    settle ((releasePages (discardSled s e) p e).updEnt e (fun y => { y with
      work := .closing, flr := false, byCmd := true, cmdTag := sbTag sub, cmdTick := t.toNat })) p e t.toNat))

/-- PARK: parking of a resident session begins. -/
def execPark (p : Fin 64) (q : Fin 16) (sub : BitVec 512) (t : Dword) (s : State) : Out :=
  .next (submit s p q 5 sub none t (fun _ s =>
    let e := sbEntry sub
    beginPark (s.updEnt e (fun y => { y with flr := false, byCmd := true, cmdTag := sbTag sub, cmdTick := t.toNat })) p e t.toNat))

/-! ### Completion records (R280 to R282) -/

/-- The next record to be written: rejections first, then entry records in ascending entry index (R282). -/
def nextRecord (s : State) (p : Nat) : Option (Option Nat × Record) :=
  match (s.req p).held with
  | r :: _ => some (none, r)
  | [] =>
    match entriesOf s p (fun _ x => !x.reports.isEmpty) with
    | e :: _ => (s.ent e).reports.head?.map (fun r => (some e, r))
    | [] => none

/-- RPT_WAIT set in every entry whose records wait for room (R282). -/
def markWaiting (s : State) (p : Nat) : State :=
  { s with table := { s.table with entries := AMap.mapAll s.table.entries (fun e x =>
      if (s.req p).owns e && !x.reports.isEmpty && !x.flr then { x with rptWait := true } else x) } }

/-- CQ_FULL set while the completion ring has no room, with its doorbell, and cleared once it has room and no record is held (R282). -/
def noteFull (s : State) (p : Nat) : State :=
  let r := s.req p
  if r.cq.full (ringOk s p) then (if r.cqFull then s else dblBoth (s.updReq p (fun q => { q with cqFull := true })) p 8)
  else if (nextRecord s p).isNone then s.updReq p (fun q => { q with cqFull := false }) else s

/-- SQ_HEAD: the next submission that the engine reads, or, while records are held, the place of the first rejection held in the queue (R282). -/
def ReqPart.sqHead (r : ReqPart) (q : Nat) : Nat :=
  match r.cqFull, r.held.filterMap (fun x => x.place.bind (fun y => if y.1 = q then some y.2 else none)) with
  | true, k :: _ => k
  | _, _ => (AMap.at r.sqs {} q).head

/-- What a record leaves in its entry once it is written or withdrawn; the mark of an FLR ends with the last that is due. -/
def shedRecord (s : State) (p e : Nat) (r : Record) (t : Nat) : State :=
  (afterRecord (s.updEnt e (fun x => { x with reports := x.reports.drop 1, rptWait := x.rptWait && decide (1 < x.reports.length) })) p e r t).updEnt e (fun x => { x with
    flr := x.flr && !(x.reports.isEmpty && x.work == .none && (x.st == .done || x.st == .parked || x.st == .free)) })

/-- One record is written; without room every record waits and CQ_FULL is set; one that an FLR withdraws is discarded and counted (R281, R282, R494). The rings of another rank
than rank 0 receive nothing (R362). -/
def recordWrite (s : State) (p t : Nat) : State :=
  match nextRecord s p with
  | none => noteFull s p
  | some (none, r) =>
    if (s.req p).cq.full (ringOk s p) then noteFull (markWaiting s p) p
    else noteFull ((putRecord s p r).updReq p (fun q => { q with held := q.held.drop 1 })) p
  | some (some e, r0) =>
    let x := s.ent e
    let r := if x.work = .record ∧ x.heldTurn.isSome = true ∧ x.reports.length = 1 then { r0 with retained := true } else r0
    if s.isMember p then shedRecord s p e r t
    else if x.flr then noteFull (shedRecord (countFlr s p) p e r t) p
    else if (s.req p).cq.full (ringOk s p) then noteFull (markWaiting s p) p
    else noteFull (shedRecord (turnTag (putRecord s p r) p e r) p e r t) p

/-- COMPLETION_RECORD_WRITE. -/
def execCompletionRecordWrite (p : Fin 64) (t : Dword) (s : State) : Out := .next (recordWrite (s.atTick t) p t.toNat)

/-- CQ_HEAD_WRITE: a head at or above the ring's size is ignored. -/
def execCqHeadWrite (p : Fin 64) (head : Nat) (s : State) : Out :=
  .next (noteFull (s.updReq p (fun r => if head < 2 ^ r.cq.size then { r with cq := { r.cq with head := head } } else r)) p)

/-- What a write of a ring's base and configuration does (R285, R302): ignored parts keep their value; a write while disabled starts the ring afresh. -/
def ringConfig (r : OutRing) (lo hi : Nat) (base : Option Dword) (size : Option Nat) (en : Option Bool) : OutRing :=
  let r1 := match base with
    | some b => if r.en then r else { r with base := b, tail := 0, head := 0, phase := true }
    | none => r
  let r2 := match size with
    | some k => if r.en || decide (k < lo) || decide (hi < k) then r1 else { r1 with size := k, tail := 0, head := 0, phase := true }
    | none => r1
  match en with
  | some b => { r2 with en := b }
  | none => r2

/-- CQ_CFG_WRITE: a write of CQ_BASE, or of SIZE_LOG2 and EN in CQ_CFG. -/
def execCqCfgWrite (p : Fin 64) (base : Option Dword) (size : Option Nat) (en : Option Bool) (s : State) : Out :=
  .next (noteFull (s.updReq p (fun r => { r with cq := ringConfig r.cq 6 19 base size en })) p)

/-- SQ_DOORBELL: a tail at or above the ring's size is ignored and counted (R497). -/
def execSqDoorbell (p : Fin 64) (q : Fin 16) (tail : BitVec 16) (s : State) : Out :=
  let x := AMap.at (s.req p).sqs {} q
  .next (if 2 ^ x.size ≤ tail.toNat then { s with host := { s.host with dbErr := satAdd 0xFFFF s.host.dbErr 1 } }
  else s.updReq p (fun r => { r with sqs := AMap.upd r.sqs {} q (fun y => { y with tail := tail.toNat }) }))

/-- A submission queue's configuration written: a restart or a withdrawal begins it afresh (R285, R497). -/
def SubQ.config (x : SubQ) (base : Option Dword) (size : Option Nat) (en : Option Bool) : SubQ :=
  let x1 := match base with | some b => if x.en then x else { x with base := b, head := 0, tail := 0 } | none => x
  let x2 := match size with
    | some k => if x.en || decide (k < 6) || decide (16 < k) then x1 else { x1 with size := k, head := 0, tail := 0 }
    | none => x1
  match en with
  | some true => { x2 with en := true }
  | some false => if x.en then { x2 with en := false, head := 0, tail := 0 } else x2
  | none => x2

/-- Whether a configuration write begins a submission queue afresh. -/
def SubQ.restarts (x : SubQ) (base : Option Dword) (size : Option Nat) (en : Option Bool) : Bool :=
  (!x.en && (base.isSome || (match size with | some k => decide (6 ≤ k) && decide (k ≤ 16) | none => false))) || (x.en && en == some false)

/-- SQ_CFG_WRITE. Rejections held in a queue that begins afresh no longer have a place in it. -/
def execSqCfgWrite (p : Fin 64) (q : Fin 16) (base : Option Dword) (size : Option Nat) (en : Option Bool) (s : State) : Out :=
  .next (s.updReq p (fun r => { r with
    sqs := AMap.upd r.sqs {} q (fun x => x.config base size en)
    held := if (AMap.at r.sqs {} q).restarts base size en then r.held.map (fun x => match x.place with | some y => (if y.1 = q.val then { x with place := none } else x) | none => x) else r.held }))

end Sys2Proof.Machine
end

