-- ==== Sys2Proof/Machine/Window.lean ====
section
/-! DEFINITION. Service windows: traffic from outside a core and the field controller's table commands at the mast interface (06 R139, R140, R145, 08 R206, 13 R308, R313, R314). -/

namespace Sys2Proof.Machine

/-- The wide rows of the data path that something at the interface takes: one for an access; for a command those that its walk reads and writes, tables taken on the way
apart. The spec states the walk and no such number. DESIGN CHOICE: notes/assumptions/85.md. -/
def Outside.rows : Outside → Nat
  | .access .. => 1
  | .map .. => 6
  | .unmap .. => 5
  | .release .. => 2
  | .park .. => 512
  | .place .. => 512
  | .rebuild => 512
  | .init .. => 512

/-- A command's result given (R145). -/
def Mast.giveResult (m : Mast) (r : Nat) : Mast := { m with answered := m.answered ++ [.result r] }

/-- Pages that INIT writes (R308): the granule's initial image, and no poison marker left in it. -/
def Mast.init' (m : Mast) (g : Geo) (gran : Nat) : Mast × Nat :=
  if m.failed then (m, 6)
  else if gran < m.pageBase ∨ m.tierMax < gran / 2048 then (m, 1)
  else ({ m with
    data := initPage g m.data (0x10000 * gran)
    poison := m.poison.filter (fun r => decide (r < 512 * gran) || decide (512 * gran + 512 ≤ r)) }, 0)

/-- An UNMAP carried out; with an entry's last one its release ends, an answer of NOT_MAPPED counting as done (R313, R314). -/
def serveUnmap (s : State) (m rid vpn : Nat) : State :=
  let p := s.corePart m
  let r := (s.core m).mast.unmap' rid vpn
  let who := (s.req p).pageWork.find? (fun w => w.op == .unmap && w.core == m && w.rid == rid && w.vpn == vpn)
  let s1 := answer (s.updMast m (fun _ => r.1.giveResult r.2)) p .unmap m rid vpn r.2
  match who with
  | some w => settle s1 p w.entry s.tb.toNat
  | none => s1

/-- A RELEASE carried out: every page of the range removed and its tables returned to the pool, so that pages of the core may be sought again (R314). -/
def serveRelease (s : State) (m rid : Nat) : State :=
  let p := s.corePart m
  let r := (s.core m).mast.release' rid
  let here := fun (w : PageCmd) => w.core == m && w.rid == rid
  let who := ((s.req p).pageWork.filter here).map (·.entry)
  let s1 := (s.updMast m (fun _ => r.1.giveResult r.2)).updReq p (fun x => { x with
    pageWork := x.pageWork.filter (fun w => !(here w && w.op == .unmap)), poolFull := x.poolFull.filter (fun f => f.2.1 != m) })
  who.foldl (fun s e => settle s p e s.tb.toNat) s1

/-- An access from outside the core. A write leaves no marker; a read of a poisoned row answers poison, and so does one of a row that is bad or found uncorrectable, which
fails the step; a corrected one is written back (R127 to R129). -/
def serveAccess (s : State) (m : Nat) (write : Bool) (addr : Nat) (d : Row) (found : List (Nat × Bool)) : State :=
  if write then s.updMast m (fun x => x.rowWrite addr d false)
  else
    let x := (s.core m).mast
    let row := addr / 128
    let bad := (x.bad.contains row || found.contains (row, true)) && !x.poison.contains row
    let r : Row × Bool := if bad then (BitVec.allOnes 1024, true) else x.rowRead addr
    let s1 := s.updMast m (fun x => { x with answered := x.answered ++ [.row false r.2 r.1] })
    rowsFound s1 m (if found.contains (row, false) && !x.poison.contains row && !bad then [row] else []) (if bad then [row] else [])

/-- The wide rows that a field controller's walk for (RID, VPN) reads: those of its entries in the three levels, and that of a granule's shadow entry (R145). -/
def Mast.walkRows (m : Mast) (rid vpn : Nat) (gran : Option Nat) : List Nat :=
  let a1 := 0x10000 + 4 * rid
  let e1 := Memory.readN m.data a1 4
  let a2 := 4096 * (e1 / 4096 % 2 ^ 17) + 4 * (vpn / 1024)
  let e2 := Memory.readN m.data a2 4
  let a3 := 4096 * (e2 / 4096 % 2 ^ 17) + 4 * (vpn % 1024)
  ((match gran with | some g => [8 * g] | none => []) ++ [a1] ++ (if e1 % 2 = 1 then a2 :: (if e2 % 2 = 1 then [a3] else []) else [])).map (· / 128)

/-- The errors in the rows that a walk reads: a corrected row arms its 8 fc luff, an uncorrectable or bad one fails the step (R128, R129, Table 8.17). Its result is then a
free value, and no table changes; none where the walk goes on. -/
def walkFound (s : State) (m : Nat) (rows : List Nat) (found : List (Nat × Bool)) : State × Option Nat :=
  let x := (s.core m).mast
  let ue := (rows.filter (fun r => (x.bad.contains r || found.contains (r, true)) && !x.poison.contains r)).eraseDups
  let ce := (rows.filter (fun r => found.contains (r, false) && !ue.contains r)).eraseDups
  let g := s.grp (s.corePart m)
  let arm := fun (s : State) (r : Nat) => if g.inStep && (s.field (m / 192)).owned then armLuff s (s.corePart m) (.corrected m r (g.cyc + 20)) (g.cyc + 20) else s
  let s1 := ce.foldl arm (rowsFound s m ce ue)
  if ue.isEmpty then (s1, none) else ({ s1 with free := s1.free + 1 }, some (s.fresh.toNat % 7))

/-- A command's answer, its walk's errors apart: `go` carries it out. -/
def serveWalk (s : State) (m : Nat) (op : PageOp) (rid vpn : Nat) (gran : Option Nat) (found : List (Nat × Bool)) (go : State → State) : State :=
  match walkFound s m ((s.core m).mast.walkRows rid vpn gran) found with
  | (s1, some r) => answer (s1.updMast m (fun x => x.giveResult r)) (s1.corePart m) op m rid vpn r
  | (s1, none) => go s1

/-! ### Pages unparked (13 R328) -/

/-- The partition whose range holds an entry. -/
def partOfEntry (s : State) (e : Nat) : Nat := ((s.parts.filter (fun x => x.2.req.owns e)).map (·.1)).headD 0

/-- A granule filled with bytes counted from its start. -/
def putGran (m : Memory) (g : Nat) (d : Memory) : Memory := d.foldl (fun m c => Memory.write m (65536 * g + c.1) c.2) (Memory.clear m (65536 * g) 65536)

/-- Whether every other rank of a slice has confirmed its share of a park or unpark of an entry; always so away from rank 0 and without a slice (R363). -/
def othersConfirm (s : State) (p e : Nat) : Bool :=
  let y := s.slice p
  y.mods == 0 || y.rank != 0 || allBelow (y.mods + 1) (fun r => r == 0 || y.notices.any (fun n => n.1 == r && n.2.1 == e && n.2.2))

/-- Away from rank 0, the outcome of a park (what 0) or unpark (what 1) reported to rank 0 in a notice (R363). -/
def noticeOut (s : State) (p e what : Nat) (ok : Bool) : State :=
  let y := s.slice p
  if y.mods = 0 ∨ y.rank = 0 then s
  else sendFrame (s.updEnt e (fun x => { x with reports := [] })) p 0 4 (!ok) 0 0 0 s.tb.toNat (what + 8 * (e % 262144))

/-- A check of an unpark has failed: the turn ends at the next boundary (R328). -/
def unparkFails (s : State) (p e port kind code spage : Nat) : State :=
  noticeOut ((raiseFault (styLog s port kind p e spage) p code noField noCore).updEnt e (fun y => { y with unparkBad := true })) p e 1 false

/-- The pages that hold a valid position of an entry, over every space of its image. -/
def neededPages (s : State) (p e : Nat) : List (Nat × Nat) :=
  let x := s.ent e
  (spacesOf s p x.islot).flatMap (fun sp => (List.range (ceilDiv (validLen x (s.img p x.islot) sp.2.geo) 64)).map (fun j => pageHome sp.2 e j))

/-- Whether every page with a valid position, and no other, is resident. -/
def pagesComplete (s : State) (p e : Nat) : Bool :=
  let x := s.ent e
  let need := neededPages s p e
  need.length == x.pages.length && need.all (fun h => x.pages.any (fun g => g.core == h.1 && g.vpn == h.2 && g.ready))

/-- A granule of the free list that a rolled-back page still maps, unmapped (R313). -/
def Mast.freeGranule (m : Mast) (g : Nat) : Mast :=
  match m.poolFree.contains g, AMap.find m.tlb g with
  | true, some o => { (m.unmap' o.rid o.vpn).1 with poolFree := m.poolFree.filter (· != g) }
  | _, _ => m

/-- A parked page's place in its home mast, on its way: listed among the entry's pages, not yet usable. -/
def listParked (s : State) (e rid t : Nat) (h : Nat × Nat) (g : Nat) : State :=
  s.updEnt e (fun y => { y with rid := some rid, moved := y.moved + 1, askAt := t, pages := y.pages ++ [{ core := h.1, vpn := h.2, gran := g }] })

/-- What an unpark's page leaves: with the last page that the directory counts, the session is resident, or the unpark has failed (R328). -/
def unparkStep (s : State) (p e : Nat) : State :=
  let x := s.ent e
  if x.moved = (AMap.at (s.sport x.sledPort).dir {} e).count then
    (if pagesComplete s p e then (if othersConfirm s p e then noticeOut (s.updEnt e (fun z => { z with res := true })) p e 1 true else s) else unparkFails s p e x.sledPort 4 0x53 0)
  else s

/-- A parked page placed in its granule of core m, under MAP and without INIT, and usable from then on. A range and VPN that a granule of the free list still maps takes that
granule (R313). Where the pool has no table left, the page is the chain's next again (R314). -/
def placeParked (s : State) (p m e vpn g : Nat) (d : Memory) : State :=
  let x := s.ent e
  if x.unparkBad || !x.pages.any (fun y => y.core == m && y.vpn == vpn && y.gran == g && !y.ready) then s
  else
    let rid := x.rid.getD 0
    let r := ((s.core m).mast.freeGranule g).map' rid vpn g true
    let k := if r.2 = 3 then (r.1.granOf rid vpn).getD g else g
    let drop := fun (y : Page) => !(y.core == m && y.vpn == vpn && !y.ready)
    if r.2 ≠ 0 ∧ r.2 ≠ 3 then s.updEnt e (fun y => { y with moved := y.moved - 1, pages := y.pages.filter drop })
    else
      let s1 := s.updMast m (fun _ => { r.1 with
        data := putGran r.1.data k d, poolFree := r.1.poolFree.filter (· != k)
        poison := r.1.poison.filter (fun j => decide (j < 512 * k) || decide (512 * k + 512 ≤ j)) })
      unparkStep (s1.updEnt e (fun y => { y with pages := y.pages.map (fun z => if z.core = m ∧ z.vpn = vpn then { z with gran := k, mapped := true, ready := true } else z) })) p e

/-- Something at the interface served. -/
def serveOne (s : State) (m : Nat) : Outside → State
  | .access w _ _ addr d found => serveAccess s m w addr d found
  | .map rid vpn g wr found => serveWalk s m .map rid vpn (some g) found (fun s =>
    let r := (s.core m).mast.map' rid vpn g wr
    answer (s.updMast m (fun _ => r.1.giveResult r.2)) (s.corePart m) .map m rid vpn r.2)
  | .unmap rid vpn found => serveWalk s m .unmap rid vpn none found (fun s => serveUnmap s m rid vpn)
  | .release rid found =>
    match walkFound s m [(0x10000 + 4 * rid) / 128] found with
    | (s1, some r) => s1.updMast m (fun x => x.giveResult r)
    | (s1, none) => serveRelease s1 m rid
  | .park _ _ _ => s
  | .place e vpn g d => placeParked s (s.corePart m) m e vpn g d
  | .rebuild => s.updMast m (fun x => if x.failed then x.giveResult 6 else ({ x with held := x.held ++ [.reload] } : Mast).giveResult 0)
  | .init rid vpn g =>
    let r := (s.core m).mast.init' (AMap.at (s.core m).geos {} (vpn / 65536)) g
    answer (s.updMast m (fun _ => r.1.giveResult r.2)) (s.corePart m) .init m rid vpn r.2

/-- Everything queued at the interface served in arrival order. -/
def serveAll (s : State) (m : Nat) : State :=
  (s.core m).mast.outside.foldl (fun s o => serveOne s m o) (s.updMast m (fun x => { x with outside := [], svcDone := 0 }))

/-- What an open service window carries, in arrival order, at most `n` things: each is served when its rows have gone; what is left waits for a later window (R139). -/
def serveWindow (m : Nat) : Nat → State → State
  | 0, s => s
  | n + 1, s =>
    let x := (s.core m).mast
    match x.outside with
    | [] => s
    | o :: r =>
      let need := o.rows - x.svcDone
      if need ≤ x.svcRows then
        serveWindow m n (serveOne (s.updMast m (fun x => { x with outside := r, svcDone := 0, svcRows := x.svcRows - need })) m o)
      else s.updMast m (fun x => { x with svcDone := x.svcDone + x.svcRows, svcRows := 0 })

/-- Whether a core's mast serves the outside at any time: its partition is not stepping (R139, R578). -/
def servesNow (s : State) (m : Nat) : Bool := !s.coreSteps m

/-- Something arrives at the interface: served at once, behind what waits, while the partition is not stepping, else queued for the open service window or the next. -/
def arriveOutside (s : State) (m : Nat) (o : Outside) : State :=
  let s1 := s.updMast m (fun x => { x with outside := x.outside ++ [o] })
  if servesNow s m then serveAll s1 m
  else
    if (s.grp (s.corePart m)).inStep && (s.grp (s.corePart m)).cyc < (s.core m).mast.svcEnd then serveWindow m (s1.core m).mast.outside.length s1 else s1

/-- OUTSIDE_MAST_ACCESS: refused where its partition differs from the core's and it does not carry the masthead's mark: a refused write is discarded, a refused read answers
poison, and an isolation event is logged (R140). -/
def execOutsideMastAccess (core : Fin 9216) (write mark : Bool) (part : Fin 64) (row : Fin 0x400000) (x : OutsideRow) (s : State) : Out :=
  .next (if !mark && (part.val != s.corePart core || !(s.field (core / 192)).owned) then
    let s1 := mstLog s core (tierOf (128 * row.val)) 6 0 part
    if write then s1 else s1.updMast core (fun m => { m with answered := m.answered ++ [.row true true (BitVec.allOnes 1024)] })
  else arriveOutside s core (.access write part mark (128 * row.val) x.data
    (match x.ecc with | .corrected => [(row.val, false)] | .uncorrectable => [(row.val, true)] | _ => [])))

/-- SVCW (R139, R206): a service window opens, and what waits is served; the cycles that it shares with a refresh window carry nothing. -/
def execSvcw (q : Issue) (w : BitVec 48) (s : State) : Out :=
  .next (issueCtrl s q [] (fun s t =>
    legalOr s q 3 0x18 [(bitsN w 6 42 != 0, 2)] id (fun s =>
      serveWindow q.core (s.core q.core).mast.outside.length (s.updMast q.core (fun m =>
        { m with svcEnd := t + m.svcLen, svcRows := windowRows (t + m.svcLen - max t (min m.refEnd (t + m.svcLen))) })))))

/-- What the mast finds in the rows that a walk reads, by wide row. -/
def foundRows (found : List (Fin 0x400000 × Bool)) : List (Nat × Bool) := found.map (fun f => (f.1.val, f.2))

/-- TLB_MAP (R145). -/
def execTlbMap (c : Found (Fin 9216) 0x400000) (rid : BitVec 16) (vpn : BitVec 20) (pgn : BitVec 13) (wr : Bool) (s : State) : Out :=
  .next (arriveOutside s c.val (.map rid.toNat vpn.toNat pgn.toNat wr (foundRows c.rows)))

/-- TLB_UNMAP. -/
def execTlbUnmap (c : Found (Fin 9216) 0x400000) (rid : BitVec 16) (vpn : BitVec 20) (s : State) : Out :=
  .next (arriveOutside s c.val (.unmap rid.toNat vpn.toNat (foundRows c.rows)))

/-- TLB_RELEASE. -/
def execTlbRelease (c : Found (Fin 9216) 0x400000) (rid : BitVec 16) (s : State) : Out :=
  .next (arriveOutside s c.val (.release rid.toNat (foundRows c.rows)))

/-- TLB_REBUILD: the TLB is reloaded from the shadow at the boundary. -/
def execTlbRebuild (core : Fin 9216) (s : State) : Out := .next (arriveOutside s core .rebuild)

/-- PAGE_INIT (R308): a page's initial image written for the space its VPN names. -/
def execPageInit (core : Fin 9216) (rid : BitVec 16) (vpn : BitVec 20) (pgn : BitVec 13) (s : State) : Out :=
  .next (arriveOutside s core (.init rid.toNat vpn.toNat pgn.toNat))

end Sys2Proof.Machine
end

