-- ==== Sys2Proof/Machine/Stream.lean ====
section
/-! DEFINITION. The stream engine: output queues, stream rings, ring reads, stop sets (12). -/

namespace Sys2Proof.Machine

/-! ### Stream words and positions (Tables 12.1 to 12.3) -/

def wFlag (w : BitVec 64) (b : Nat) (on : Bool) : BitVec 64 := setBits w (48 + b) 1 (b2n on)

/-- A new marker for a missing token: count 1, only GAP set (R292). -/
def newMarker (a : Arrive) (go : Option Nat) : QPos := { word := wFlag (BitVec.ofNat 64 1) 2 true, entry := a.entry, idx := a.idx, go := go }

/-- Whether a position is a marker of the token's entry whose range ends just before the token. -/
def QPos.endsAt (q : QPos) (a : Arrive) : Bool := bitAt q.word 50 && q.entry == a.entry && q.idx + bitsN q.word 0 32 == a.idx

/-- A marker's count raised, saturating. -/
def QPos.more (q : QPos) : QPos := { q with word := setBits q.word 0 32 (satAdd 0xFFFFFFFF (bitsN q.word 0 32) 1) }

def State.outq (s : State) (k : Nat) : OutQ := AMap.at s.stream.qs {} k

def State.updOutq (s : State) (k : Nat) (f : OutQ → OutQ) : State := { s with stream := { s.stream with qs := AMap.upd s.stream.qs {} k f } }

/-- The last element of a list changed. -/
def updLast {α : Type} (l : List α) (f : α → α) : List α := updAt l (l.length - 1) f

/-- A token stored, or its drop recorded by the first case of R292 that applies. -/
def OutQ.arrive (q : OutQ) (a : Arrive) (go : Option Nat) : OutQ :=
  let n := q.items.length
  match q.spill with
  | some m => if m.endsAt a then { q with spill := some m.more } else q
  | none =>
    if n < 63 then
      let w := if q.fresh then wFlag a.word 0 true else a.word
      { q with items := q.items ++ [{ word := w, entry := a.entry, idx := a.idx, go := go, mask := a.mask }], fresh := false }
    else match q.items.getLast? with
      | some m =>
        if m.endsAt a then { q with items := updLast q.items QPos.more }
        else if n = 63 then { q with items := q.items ++ [newMarker a go], drops := satAdd 0xFF q.drops 1 }
        else { q with spill := some (newMarker a go), drops := satAdd 0xFF q.drops 1 }
      | none => q

/-- Whether a token's arrival creates a gap marker (R292). -/
def OutQ.marks (q : OutQ) (a : Arrive) : Bool :=
  q.spill.isNone && decide (63 ≤ q.items.length) && (match q.items.getLast? with | some m => !m.endsAt a | none => false)

/-- The partition of a decode slot. -/
def slotOwner (s : State) (k : Nat) : Nat :=
  ((s.parts.filter (fun x => decide (x.2.req.slotBase ≤ k) && decide (k < x.2.req.slotBase + x.2.req.slotCnt))).map (·.1)).headD 0xFF

/-- Everything held made releasable: with the frame's CUT tokens or its last, the frame and all before it (R291). -/
def OutQ.release (q : OutQ) (order : Nat) : OutQ :=
  { q with items := q.items.map (fun x => if x.go.isNone then { x with go := some order } else x)
           spill := q.spill.map (fun x => if x.go.isNone then { x with go := some order } else x) }

/-- OUTPUT_QUEUE_TOKEN: the next token on its way to a slot's queue reaches it (R291, R292). -/
def execOutputQueueToken (slot : Fin 4096) (s : State) : Out :=
  .next (match s.stream.arriving.find? (fun a => a.slot == slot.val) with
  | none => s
  | some a =>
    let s1 := { s with stream := { s.stream with arriving := s.stream.arriving.erase a, order := s.stream.order + 1 } }
    let open' := a.final || decide (a.cut ≤ a.nth + 1)
    let p := slotOwner s slot
    let q := s.outq slot
    let s2 := evrSample s1 15 p noField noCore q.items.length q.items.length
    let s3 := if q.marks a then evrIndex s2 21 p p else s2
    s3.updOutq slot (fun q =>
      let q1 := { q.arrive a none with arrived := a.nth + 1 }
      if open' then q1.release s.stream.order else q1))

/-- The slots of a partition that feed stream ring r (R290). -/
def ringSlots (s : State) (p r : Nat) : List Nat :=
  let x := s.req p
  ((List.range x.slotCnt).filter (fun k => k % 2 ^ x.nsr == r)).map (x.slotBase + ·)

/-- The slot whose front position became releasable first, the lowest on a tie (R291). -/
def nextRelease (s : State) (p r : Nat) : Option (Nat × QPos) :=
  (ringSlots s p r).foldl (fun a k =>
    match (s.outq k).items with
    | x :: _ =>
      (match x.go, a with
       | some o, some (_, y) => if o < (y.go.getD 0) then some (k, x) else a
       | some _, none => some (k, x)
       | none, _ => a)
    | [] => a) none

/-- A stream ring record (Table 12.3). -/
def streamRecord (x : QPos) (slot : Nat) (phase : Bool) : BitVec 128 :=
  packFields 128 [(0, 64, (maskWord x.word x.mask).toNat), (64, 18, x.entry), (82, 12, slot), (95, 1, b2n phase), (96, 32, x.idx)]

/-- The front position leaves the queue; a marker in the spill register takes the freed place (R292). -/
def OutQ.pop (q : OutQ) : OutQ :=
  match q.spill with
  | some m => { q with items := q.items.drop 1 ++ [m], spill := none }
  | none => { q with items := q.items.drop 1 }

/-- STREAM_RECORD_WRITE: the next releasable position of ring r is written where the ring has room, with what the parity and sideband checks find (R289 to R291). On a parity failure
`parity` gives the bits of the word that read wrong, none where a parity bit did: the word is delivered as read, with POISON. -/
def execStreamRecordWrite (p : Fin 64) (r : Fin 16) (parity : Option (BitVec 64)) (sideBad : Bool) (s : State) : Out :=
  let ring := AMap.at (s.req p).srs {} r
  .next (if ring.full (ringOk s p) then s
  else match nextRelease s p r with
  | none => s
  | some (k, x) =>
    let s1 := s.updOutq k OutQ.pop
    if sideBad then { s1 with stream := { s1.stream with sbDrop := satAdd 0xFFFF s1.stream.sbDrop 1 } }
    else
      let s2 := if parity.isSome then
          ({ s1 with stream := { s1.stream with parity := satAdd 0xFFFF s1.stream.parity 1 } }).updOutq k (fun q => { q with poisons := satAdd 0xFF q.poisons 1 })
        else s1
      let y := match parity with | some f => { x with word := wFlag (x.word ^^^ f) 5 true } | none => x
      let s3 := emit s2 (.write (p + 1) (ring.base.toNat + 16 * ring.tail) 16 (streamRecord y k ring.phase).toNat)
      signal (s3.updReq p (fun q => { q with srs := AMap.upd q.srs {} r OutRing.step })) (p + 1) (8 + r))

/-- SR_HEAD_WRITE. -/
def execSrHeadWrite (p : Fin 64) (r : Fin 16) (head : Nat) (s : State) : Out :=
  .next (s.updReq p (fun q => { q with srs := AMap.upd q.srs {} r (fun x => if head < 2 ^ x.size then { x with head := head } else x) }))

/-- SR_CFG_WRITE. -/
def execSrCfgWrite (p : Fin 64) (r : Fin 16) (base : Option Dword) (size : Option Nat) (en : Option Bool) (s : State) : Out :=
  .next (s.updReq p (fun q => { q with srs := AMap.upd q.srs {} r (fun x => ringConfig x 6 20 base size en) }))

/-- STM_FLUSH_GO: every position and marker of a slot discarded; a virtual function flushes its own partition's slots only (R293, R302). -/
def execStmFlushGo (byVf : Option (Fin 64)) (slot : Fin 4096) (s : State) : Out :=
  let own := match byVf with
    | none => true
    | some p => decide ((s.req p).slotBase ≤ slot) && decide (slot < (s.req p).slotBase + (s.req p).slotCnt)
  let s1 := { s with stream := { s.stream with flushSlot := slot } }
  .next (if own then s1.updOutq slot (fun q => { q with items := [], spill := none, fresh := true }) else s1)

/-! ### Ring reads (R295) -/

/-- The end of a ring read: its status, and the vector of the function that started it. -/
def endRingRead (s : State) (p status words : Nat) : State :=
  let f := (s.req p).rr.byPf
  let s1 := s.updReq p (fun r => { r with rr := { r.rr with busy := false, status := status, words := words, source := [] } })
  if f then signal s1 0 (192 + p) else signal s1 (p + 1) 6

/-- Whether a ring read's range is good: count, entry, both bounds against RING_HEAD. -/
def ringRange (s : State) (p : Nat) : Bool :=
  let r := (s.req p).rr
  let x := s.ent r.entry
  decide (1 ≤ r.cnt) && decide (r.cnt ≤ 65536) && (s.req p).owns r.entry && x.st != .free && decide (r.first + r.cnt ≤ x.ringHead) && decide (x.ringHead - r.first ≤ 65536)

/-- Word i of an entry's output ring (R287). -/
def ringWord (s : State) (e i : Nat) : BitVec 64 := BitVec.ofNat 64 (Memory.readN s.stream.ring (ringBase e + 8 * (i % 65536)) 8)

/-- RING_READ_GO, ignored while a read runs. A word that is read before it is overwritten is what the ring holds now (R295). -/
def execRingReadGo (p : Fin 64) (byPf : Bool) (s : State) : Out :=
  .next (if (s.req p).rr.busy then s
  else
    let s1 := s.updReq p (fun r => { r with rr := { r.rr with byPf := byPf, link := (s.part p).home } })
    if ringRange s1 p then
      let r := (s.req p).rr
      s1.updReq p (fun y => { y with rr := { y.rr with
        busy := true, source := (List.range r.cnt).map (fun i => maskWord (ringWord s r.entry (r.first + i)) (wordMask s p r.entry (r.first + i) (s.ent r.entry))) } })
    else endRingRead s1 p 1 0)

/-- RING_READ_DONE: `n` words have been read and written; words that the ring store could not correct carry POISON. Short of the count, the next word was already overwritten, or the host write failed. -/
def execRingReadDone (p : Fin 64) (n : Nat) (bad : List Nat) (s : State) : Out :=
  let r := (s.req p).rr
  .next (if !r.busy || decide (r.cnt < n) then s
  else
    let ws := ((List.range n).zip r.source).map (fun x => if bad.contains (r.first + x.1) then wFlag x.2 5 true else x.2)
    let s1 := if n = 0 then s else emit s (.write (p + 1) r.addr.toNat (8 * n) (ws.foldr (fun w a => w.toNat + 2 ^ 64 * a) 0))
    let lost := decide (65536 < (s.ent r.entry).ringHead - (r.first + n))
    let media := (List.range n).any (fun i => bad.contains (r.first + i))
    endRingRead s1 p (if n < r.cnt then (if lost then 2 else 3) else if media then 4 else 0) n)

/-! ### Stop sets (R296) -/

/-- A staged stop set (Table 12.4). -/
def stagedSet (st : Staging) : StopSet :=
  let w := fun i => AMap.at st.data 0#32 i
  { ends := (List.range 16).map w
    seqs := (List.range 8).map (fun j => (List.range (bitsN (w (144 + j / 4)) (8 * (j % 4)) 8)).map (fun k => w (16 + 16 * j + k))) }

/-- Whether a staged set breaks a rule: a length above 16, or a reserved byte set. -/
def stagedBad (st : Staging) : Bool :=
  let w := fun i => AMap.at st.data 0#32 i
  anyBelow 8 (fun j => decide (16 < bitsN (w (144 + j / 4)) (8 * (j % 4)) 8)) || anyBelow 14 (fun i => w (146 + i) != 0#32)

/-- STOP_SET_LOAD: SS_CTRL written with LOAD; ignored while a load is pending. -/
def execStopSetLoad (p : Fin 64) (index : Fin 4096) (s : State) : Out :=
  .next (s.updReq p (fun r =>
    if r.stage.pend.isSome then r
    else if r.stopCnt ≤ index.val ∨ stagedBad r.stage then { r with stage := { r.stage with index := index, err := true } }
    else { r with stage := { r.stage with index := index, err := false, pend := some (index.val, stagedSet r.stage) } }))

end Sys2Proof.Machine
end

