-- ==== Sys2Proof/Machine/Stay.lean ====
section
/-! DEFINITION. The stay ports: pages written and read, links lost and trained, timeouts (13 R323 to R332). -/

namespace Sys2Proof.Machine

/-- A port-class fault: in the owner's fault log, or in every enabled partition's (R436). -/
def raisePort (s : State) (owner : Option Nat) (code : Nat) : State :=
  match owner with
  | some p => raiseFault s p code noField noCore
  | none => raiseAll s code noField noCore

/-- The owner of a stay port. -/
def stayOwner (s : State) (i : Nat) : Option Nat := if (s.sport i).assigned then some (s.sport i).part else none

/-- The bytes of a granule, counted from its start. -/
def granBytes (m : Memory) (g : Nat) : Memory :=
  (m.filter (fun c => decide (65536 * g ≤ c.1) && decide (c.1 < 65536 * g + 65536))).map (fun c => (c.1 - 65536 * g, c.2))

/-- Whether a granule holds a row marked bad or poisoned. -/
def granBad (m : Mast) (g : Nat) : Bool := (m.poison ++ m.bad).any (fun r => decide (512 * g ≤ r) && decide (r < 512 * g + 512))

/-- Parking confirmed once every page, and every rank, has confirmed. -/
def tryConfirm (s : State) (p e t : Nat) : State :=
  if othersConfirm s p e then
    noticeOut ((parkConfirmed s p e t).updSlice p (fun y => { y with notices := y.notices.filter (fun n => n.2.1 != e) })) p e 0 true
  else s

/-- Whether a column copy of the partition's recovery is still outstanding: its stay traffic then pauses, and resumes on the same PGNs (R329, Table 13.8;
DESIGN CHOICE, log 104: whichever column is copied). -/
def stayPaused (s : State) (p : Nat) : Bool := ((s.part p).recov.map (fun r => !r.copies.isEmpty)).getD false

/-- The rows of a granule that the mast's code finds uncorrectable, or that are bad; and those that it corrects (R128, R129). -/
def granErrors (m : Mast) (g : Nat) (found : List (Fin 512 × Bool)) : List Nat × List Nat :=
  let mine := fun (r : Nat) => decide (512 * g ≤ r) && decide (r < 512 * g + 512) && !m.poison.contains r
  let ue := ((m.bad ++ (found.filter (·.2)).map (fun f => 512 * g + f.1.val)).filter mine).eraseDups
  (ue, ((found.filter (fun f => !f.2)).map (fun f => 512 * g + f.1.val)).filter (fun r => mine r && !ue.contains r))

/-- PARK_PAGE_WRITE_DONE: the sled completes the write of an entry's next page, which has been read in its mast's service windows, or its park fails (R139, R326, R327). -/
def execParkPageWriteDone (e : Fin 262144) (w : Found ParkEnd 512) (t : Dword) (s0 : State) : Out :=
  let s := s0.atTick t
  let p := partOfEntry s e
  let x := s.ent e
  .next (if x.st ≠ .draining ∨ x.work ≠ .parking ∨ stayPaused s p = true then s
  else match (parkPages s p e)[x.moved]?, x.sledPages[x.moved]? with
  | some g, some k =>
    let mast := (s.core g.core).mast
    let gen := AMap.at s.table.parkGen 0 e
    let err := granErrors mast g.gran w.rows
    if mast.outside.contains (.park e gen g.gran) then s
    else if w.val ≠ .done ∨ granBad mast g.gran = true ∨ err.1.isEmpty = false then noticeOut (parkFailed (rowsFound s g.core err.2 err.1) p e none true t.toNat) p e 0 false
    else
      let y := pageGeo s g
      let pg : Sealed := { data := granBytes mast.data g.gran, key := (s.part p).parkKey, entry := e, gen := gen, model := y.model, group := y.group,
                           layer := y.layer, page := g.vpn % 65536, rank := (s.slice p).rank, next := x.sledPages[x.moved + 1]? }
      let s1 := ((rowsFound s g.core err.2 []).updSport x.sledPort (fun z => { z with pages := AMap.put z.pages k pg })).updEnt e (fun z => { z with moved := z.moved + 1, askAt := t.toNat })
      if x.moved + 1 = x.sledPages.length then
        tryConfirm (s1.updSport x.sledPort (fun z => { z with dir := AMap.put z.dir e { first := x.sledPages.head?, count := x.sledPages.length, gen := gen } })) p e t.toNat
      else s1
  | _, _ => s)

/-- The sled page at place n of an entry's chain. -/
def chainAt (y : StayPort) (first : Option Nat) : Nat → Option Nat
  | 0 => first
  | n + 1 => match chainAt y first n with | some k => (AMap.find y.pages k).bind (·.next) | none => none

/-- Whether an entry is being unparked and nothing holds it back. -/
def unparking (s : State) (p e : Nat) : Bool :=
  let x := s.ent e
  x.st == .queued && !x.res && x.sled && !x.unparkBad && (s.img p x.islot).st == .loaded && (s.img p x.islot).gen == x.igen &&
  (s.sport x.sledPort).up && !releasing s p e && x.pages.all (·.ready)

/-- UNPARK_PAGE_ARRIVE: the next page of the chain is read and checked, and placed in its home mast's service windows; without a granule or RID it waits, and so it does while
the page before it waits for its window (R139, R328, R329). -/
def execUnparkPageArrive (e : Fin 262144) (w : Timed UnparkIn) (s0 : State) : Out :=
  let o := w.val
  let t := w.tick
  let s := s0.atTick t
  let p := partOfEntry s e
  let x := s.ent e
  let y := s.sport x.sledPort
  let d := AMap.at y.dir {} e
  let gen := AMap.at s.table.parkGen 0 e
  .next (if !unparking s p e || stayPaused s p then s
  else if d.first.isNone || d.gen != gen then unparkFails s p e x.sledPort 4 0x53 0
  else match (chainAt y d.first x.moved).bind (fun k => (AMap.find y.pages k).map (fun g => (k, g))) with
  | none => unparkFails s p e x.sledPort 4 0x53 0
  | some (k, g) =>
    match o with
    | .poison => unparkFails (s.updSport x.sledPort (fun z => { z with poison := satAdd 0xFF z.poison 1 })) p e x.sledPort 2 0x52 k
    | .page good =>
      if !good || g.entry != e.val || g.gen != gen || g.rank != (s.slice p).rank || g.key != (s.part p).parkKey then unparkFails s p e x.sledPort 3 0x53 k
      else match AMap.find (spacesOf s p x.islot) ((g.model * 1024 + g.layer) * 16 + g.group) with
      | none => unparkFails s p e x.sledPort 4 0x53 k
      | some sp =>
        let h := pageHome sp e g.page
        if d.count ≤ x.moved ∨ validLen x (s.img p x.islot) sp.geo ≤ 64 * g.page ∨ x.pages.any (fun z => z.core == h.1 && z.vpn == h.2) = true then
          unparkFails s p e x.sledPort 4 0x53 k
        else match x.rid.or (freeRid s p), freeGran s p h.1 0 with
          | some rid, some gr => arriveOutside (listParked s e rid t.toNat h gr) h.1 (.place e h.2 gr g.data)
          | _, _ => s)

/-! ### A sled's layout (R324 to R326) -/

/-- Where a session's directory entry, a sled page's metadata record and its data lie. -/
def dirAddr (e : Nat) : Nat := 16 * e
def metaAddr (i : Nat) : Nat := 0x400000 + 64 * i
def pageAddr (i : Nat) : Nat := 0x80400000 + 65536 * i

/-- A sled page number in a record: 0xFFFF_FFFF for none. -/
def sledNum : Option Nat → Nat
  | some k => k
  | none => 0xFFFFFFFF

/-- A directory entry (Table 13.7). -/
def SledDir.bits (d : SledDir) : BitVec 128 := packFields 128 [(0, 32, sledNum d.first), (32, 32, d.count), (64, 32, d.gen)]

/-- Metadata bytes 0 to 15, which the tag covers with the ciphertext. -/
def Sealed.head (g : Sealed) : BitVec 128 :=
  packFields 128 [(0, 32, g.entry), (32, 32, g.gen), (64, 8, g.model), (72, 8, g.group), (80, 16, g.layer), (96, 16, g.page), (112, 8, g.rank)]

/-- The ciphertext of sled page i: AES-256-XTS of its 64 KiB with the tweak PARK_GEN × 2^32 + i. -/
def Sealed.cipher (g : Sealed) (i : Nat) : Nat := Config.xts256 g.key.xts (BitVec.ofNat 128 (g.gen * 2 ^ 32 + i)) (Memory.readN g.data 0 65536)

/-- The integrity tag of sled page i: GMAC under an IV of the page, PARK_GEN and ENTRY. -/
def Sealed.tag (g : Sealed) (i : Nat) : BitVec 128 :=
  Config.gmac256 g.key.mac (BitVec.ofNat 96 (catFields [(4, i), (4, g.gen), (4, g.entry)])) (16 + 65536) (g.head.toNat + 2 ^ 128 * g.cipher i)

/-- The metadata record of sled page i (Table 13.7). -/
def Sealed.record (g : Sealed) (i : Nat) : BitVec 512 :=
  packFields 512 [(0, 128, g.head.toNat), (128, 128, (g.tag i).toNat), (256, 32, sledNum g.next)]

/-- The byte that a sled holds at an address, where a park has written it. -/
def StayPort.byteAt (y : StayPort) (a : Nat) : Option Nat :=
  if a < 0x400000 then (AMap.find y.dir (a / 16)).map (fun d => bitsN d.bits (8 * (a % 16)) 8)
  else if a < 0x80400000 then (AMap.find y.pages ((a - 0x400000) / 64)).map (fun g => bitsN (g.record ((a - 0x400000) / 64)) (8 * ((a - 0x400000) % 64)) 8)
  else (AMap.find y.pages ((a - 0x80400000) / 65536)).map (fun g => g.cipher ((a - 0x80400000) / 65536) / 256 ^ ((a - 0x80400000) % 65536) % 256)

/-- Parks in progress on a port. -/
def parksOn (s : State) (i : Nat) : List Nat :=
  (s.table.entries.filter (fun x => x.2.st == .draining && x.2.work == .parking && x.2.sledPort == i)).map (·.1)

/-- STAY_LINK_DOWN: parks fail, unparks wait (R327, R329). -/
def execStayLinkDown (i : Fin 24) (t : Dword) (s0 : State) : Out :=
  let s := s0.atTick t
  let s1 := raisePort (styLog s i 0 (s.sport i).part 0 0) (stayOwner s i) 0x50
  let s2 := s1.updSport i (fun y => { y with up := false, rate := 0, lanes := 0, down := satAdd 0xFF y.down 1 })
  .next ((parksOn s i).foldl (fun s e => noticeOut (parkFailed s (partOfEntry s e) e none true t.toNat) (partOfEntry s e) e 0 false) s2)

/-- Whether the lasers of a stay port are lit: a port assigned to no partition stays dark (R572). -/
def stayLit (s : State) (i : Nat) : Bool := s.farOptics && (s.sport i).assigned

/-- STAY_LINK_UP: a lit port trains with 8 lanes, and its sled's type and capacity decide whether it is used (R323, R324). -/
def execStayLinkUp (i : Fin 24) (fast typeOk : Bool) (lanes cap retries : Nat) (s : State) : Out :=
  .next (if lanes < 8 || !stayLit s i then s
  else
    let n := if 0x80400000 ≤ cap then sledCap cap else 0
    let ok := typeOk && decide (1 ≤ n)
    let s1 := s.updSport i (fun y => { y with
      up := true, rate := if fast then 2 else 1, lanes := 8, cap := n, usable := ok, retry := satAdd 0xFFFF y.retry retries })
    if ok then s1 else raisePort (styLog s1 i 6 (s.sport i).part 0 0) (stayOwner s i) 0x55)

/-- STAY_REQUEST_TIMEOUT: a request of an entry's park or unpark has had no completion for TIMEOUT_MS: logged; a park whose write it was fails (R323, R327). -/
def execStayRequestTimeout (i : Fin 24) (e : Fin 262144) (t : Dword) (s0 : State) : Out :=
  if (s0.ent e).sledPort ≠ i ∨ !((parksOn s0 i).contains e.val || unparking s0 (partOfEntry s0 e) e) ∨ t.toNat ≤ (s0.ent e).askAt + 1000000 * s0.stay.timeout then .next s0
  else
  let s := (s0.atTick t).updEnt e (fun y => { y with askAt := t.toNat })
  let s1 := raisePort (styLog s i 1 (s.sport i).part e 0) (stayOwner s i) 0x51
  .next (if (parksOn s i).contains e.val then noticeOut (parkFailed s1 (partOfEntry s e) e none true t.toNat) (partOfEntry s e) e 0 false else s1)

end Sys2Proof.Machine
end

