-- ==== Sys2Proof/Machine/Turns.lean ====
section
/-! DEFINITION. What a boundary does to turns: commits and stop evaluation, endings, the look-ahead, admission, step records (11 R273 to R279, 12 R297 to R300, 13 R312 to R314, 14 R335 to R337, R351). -/

namespace Sys2Proof.Machine

/-! ### Commits (R19, R266, R297 to R300) -/

/-- What stop evaluation has found: status, DETAIL, and how many of the step's tokens stand. -/
structure StopHit where
  status : Nat
  detail : Nat
  kept : Nat
  deriving DecidableEq, Repr

/-- The first end token that a token equals. -/
def endHit (st : StopSet) (tok : Nat) : Option Nat :=
  (List.range 16).find? (fun j => match st.ends[j]? with | some w => w != 0xFFFFFFFF#32 && w.toNat == tok | none => false)

/-- The token at ring index n of an entry. -/
def ringTok (s : State) (e n : Nat) : Nat := bitsN (ringWord s e n) 0 32

/-- The first stop sequence that the turn's tokens complete at ring index n. -/
def seqHit (s : State) (e : Nat) (x : Entry) (st : StopSet) (n : Nat) : Option Nat :=
  (List.range 8).find? (fun j =>
    let q := st.seqs.getD j []
    let l := q.length
    decide (1 ≤ l) && decide (x.ring0 + l ≤ n + 1) &&
    allBelow l (fun k => ringTok s e (n + 1 - l + k) == (q.getD k 0#32).toNat))

/-- The first condition met by token i of a step, in the order of R298. -/
def tokenStop (s : State) (e : Nat) (x : Entry) (st : StopSet) (w : BitVec 64) (pos n : Nat) : Option (Nat × Nat) :=
  match endHit st (bitsN w 0 20) with
  | some j => some (0, j)
  | none =>
    match seqHit s e x st n with
    | some j => some (1, j)
    | none =>
      if x.turn.autoId ≠ 0 ∧ bitAt w 21 = true then some (2, 0)
      else if pos + 1 = x.turn.limit then some (3, 0)
      else none

/-- A stream word of a commit word (R288, Table 14.8). -/
def streamWord (w : BitVec 64) (first last stop : Bool) : BitVec 64 :=
  packFields 64 [(0, 20, bitsN w 0 20), (32, 16, bitsN w 32 16), (48, 1, b2n first), (49, 1, b2n last), (51, 1, b2n stop), (52, 1, b2n (bitAt w 20))]

/-- A word written to an entry's output ring (R287). -/
def putRing (s : State) (e n : Nat) (w : BitVec 64) : State :=
  { s with stream := { s.stream with ring := Memory.writeN s.stream.ring (ringBase e + 8 * (n % 65536)) w.toNat 8 } }

/-- The tokens of a step examined in ascending position, each into the output ring, up to a stop (R298, R299). -/
def evalTokens (e : Nat) (x : Entry) (st : StopSet) (len0 : Nat) : Nat → List (BitVec 64) → State → State × Option StopHit
  | _, [], s => (s, none)
  | i, w :: r, s =>
    let n := x.ringHead + i
    let s1 := putRing s e n (streamWord w (i == 0) false false)
    match tokenStop s1 e x st w (len0 + i) n with
    | some (c, d) => (putRing s1 e n (streamWord w (i == 0) true true), some ⟨c, d, i + 1⟩)
    | none => if r.isEmpty then (putRing s1 e n (streamWord w (i == 0) true false), none) else evalTokens e x st len0 (i + 1) r s1

/-- DV after a committed step (R336, R338): catch-up of at most 16,384 rows, then the proposals' inputs. -/
def nextDv (x : Entry) (k newLen : Nat) : Nat :=
  if x.turn.specMode = 0 then x.dv
  else
    let d := if 1 ≤ k then x.len + k - 1 else min (x.dv + 16384) (x.len + x.turn.pend)
    if newLen = 0 then 0 else min d (newLen - 1)

/-- The tokens of a frame put on their way to the slot's queue (R291). -/
def sendFrameTokens (s : State) (p e : Nat) (x : Entry) (k : Nat) : State :=
  { s with stream := { s.stream with arriving := s.stream.arriving ++ (List.range k).map (fun i =>
      { slot := x.dslot, entry := e, idx := x.ringHead + i, word := ringWord s e (x.ringHead + i), nth := i, cut := x.turn.cut, final := i + 1 == k
        mask := wordMask s p e (x.ringHead + i) x }) } }

/-- The masked fields of a bound turn's new ring words, for its tag (R483). -/
def maskedWords (s : State) (p e : Nat) (x : Entry) (k : Nat) : List (BitVec 48) :=
  if x.e2e.isNone then [] else (List.range k).map (fun i => (maskWord (ringWord s e (x.ringHead + i)) (wordMask s p e (x.ringHead + i) x)).setWidth 48)

/-- Billable tokens of a step: generated ones, and prompt ones of a first commit, by tenant queue (R22, R454). -/
def tally (s : State) (p tq gen prompt : Nat) : State :=
  s.updReq p (fun r => { r with tallied := AMap.upd r.tallied (0, 0) tq (fun x => (x.1 + gen, x.2 + prompt)) })

/-- A message put in the tally link's queue, numbered (R453, R454). -/
def sendTally (s : State) (m : Tally) : State :=
  let c := s.sys.cnm
  { s with sys := { s.sys with cnm := { c with link := c.link ++ [{ m with seq := c.seq, epoch := c.epoch }], seq := (c.seq + 1) % 2 ^ 32 } } }

/-- One TOKENS message for each tenant queue that has tokens in the step, with its running totals; rank 0 alone sends them in a slice (R454, R362). -/
def sendTokens (s : State) (p t : Nat) : State :=
  let s1 := s.updReq p (fun r => { r with tallied := [] })
  if (s.part p).slice.rank ≠ 0 then s1
  else ((s.req p).tallied.filter (fun x => x.2.1 != 0 || x.2.2 != 0)).foldl (fun s x =>
    let k := 256 * p + x.1
    let old := AMap.at s.sys.cnm.totals (0, 0) k
    let tot := ((old.1 + x.2.1) % 2 ^ 32, (old.2 + x.2.2) % 2 ^ 32)
    let s2 := { s with sys := { s.sys with cnm := { s.sys.cnm with totals := AMap.put s.sys.cnm.totals k tot } } }
    sendTally s2 { seq := 0, kind := 2, part := p, tq := x.1, stamp := BitVec.ofNat 64 t, gen := x.2.1, prompt := x.2.2, genTot := tot.1, promptTot := tot.2 }) s1

/-- A slot's commit applied; the stop found, if any (R266, R299, R300). -/
def applyCommit (s : State) (p e k : Nat) (c : Commit) : State × Option (Nat × Nat) :=
  let x := s.ent e
  let first := x.tFirst == 0 && x.tokens == 0
  let wait := c.stamp - x.turn.tEnq
  let sr := if first then tally (evrSample s 10 p noField noCore (wait / 1000) (quarterLog (wait + 1000) 1000)) p x.turn.tq 0 x.turn.pend else s
  let s0 := if first && x.sled then discardSled sr e else sr
  let y := s0.ent e
  let tf := if first then c.stamp else x.tFirst
  if x.turn.pfo then
    let len := x.len + x.turn.pend
    (s0.setEnt e { y with len := len, dv := nextDv x k len, turn := { x.turn with pend := 0 }, tFirst := tf }, some (4, 0))
  else
    let len0 := x.len + x.turn.pend
    let st := AMap.at s.stream.stops {} ((s.req p).stopBase + x.turn.stopset)
    let (s1, hit) := evalTokens e x st len0 0 c.words s0
    let n := match hit with | some h => h.kept | none => c.words.length
    let lastw := c.words.getD (n - 1) 0#64
    let s2 := evrSample (tally (sendFrameTokens s1 p e x n) p x.turn.tq n 0) 11 p noField noCore n n
    let z := { y with
      len := len0 + n, ringHead := x.ringHead + n, tokens := x.tokens + n, dv := nextDv x k (len0 + n), turn := { x.turn with pend := 0 }
      autoState := if x.turn.autoId = 0 then 0 else bitsN lastw 48 16, tFirst := tf, masked := y.masked ++ maskedWords s1 p e x n }
    (s2.setEnt e z, match hit with
      | some h => some (h.status, h.detail)
      | none => if x.turn.deadline < c.stamp then some (5, 0) else none)

/-! ### The look-ahead (R312 to R314) -/

/-- K_EFF (R337). -/
def keffOf (x : Entry) : Nat :=
  if x.turn.specMode = 0 ∨ 0 < x.turn.pend ∨ 16384 < x.len - x.dv then 0 else min x.turn.specK (x.turn.limit - x.len - 1)

/-- Pages that hold a position in [a, b] of a space, as (home core, VPN); a space ends with page 65,535 (R322). -/
def pagesIn (sp : SpaceAt) (e a b : Nat) : List (Nat × Nat) :=
  if b < a then [] else ((List.range (min b 4194303 / 64 + 1)).drop (a / 64)).map (fun j => pageHome sp e j)

/-- The pages that an entry's look-ahead keeps (R312); where the turn drafts, in a draft's spaces those of the catch-up rows from DV on as well, which the next step needs
(R314, R338, Table 14.9). DEDUCED: notes/assumptions/93.md. -/
def aheadPages (s : State) (p e : Nat) : List (Nat × Nat) :=
  let x := s.ent e
  (spacesOf s p x.islot).flatMap (fun sp =>
    (if (s.img p x.islot).isDraft sp.2.geo.model && x.turn.specMode != 0 then pagesIn sp.2 e x.dv (min (x.dv + 16384) (x.len - 1) - 1) else []) ++
    pagesIn sp.2 e (x.len - 1) (x.len + x.turn.pend + x.turn.specK + 63))

/-- The pages that an entry's next step needs (R314): the target's input positions, the draft's catch-up and proposal rows. -/
def stepPages (s : State) (p e : Nat) : List (Nat × Nat) :=
  let x := s.ent e
  let k := keffOf x
  (spacesOf s p x.islot).flatMap (fun sp =>
    if (s.img p x.islot).isDraft sp.2.geo.model then
      (if x.turn.specMode = 0 then [] else
        let top := if 1 ≤ k then x.len + k - 1 else min (x.dv + 16384) (x.len + x.turn.pend)
        if top = 0 then [] else pagesIn sp.2 e x.dv (top - 1))
    else pagesIn sp.2 e (x.len - 1) (x.len + x.turn.pend + k - 1))

/-- A page taken back from a core's free list, still mapped for the same range and VPN (R313). -/
def takeBack (s : State) (rid : Nat) (h : Nat × Nat) : Option Nat :=
  let m := (s.core h.1).mast
  m.poolFree.find? (fun g => match AMap.find m.tlb g with | some e => e.rid == rid && e.vpn == h.2 | none => false)

/-- One page sought for an entry: taken back, or its MAP and INIT issued, with an UNMAP of what a free granule still maps; not while it waits for tables (R314). -/
def seekPage (s : State) (p e rid : Nat) (h : Nat × Nat) : State :=
  if (s.ent e).pages.any (fun g => g.core == h.1 && g.vpn == h.2) then s
  else match takeBack s rid h with
    | some g =>
      (s.updMast h.1 (fun m => { m with poolFree := m.poolFree.filter (· != g) })).updEnt e (fun y => { y with
        pages := y.pages ++ [{ core := h.1, vpn := h.2, gran := g, mapped := true, ready := true }] })
    | none =>
      match if (s.req p).poolFull.contains (e, h.1, h.2) then none else freeGran s p h.1 0 with
      | none => s
      | some g =>
        let m := (s.core h.1).mast
        let cmd : PageCmd := { op := .map, entry := e, core := h.1, rid := rid, vpn := h.2, gran := g }
        let un := match m.poolFree.contains g, AMap.find m.tlb g with
          | true, some o => [{ cmd with op := .unmap, rid := o.rid, vpn := o.vpn }]
          | _, _ => []
        (s.updReq p (fun r => { r with pageWork := r.pageWork ++ un ++ [cmd, { cmd with op := .init }] })).updEnt e (fun y => { y with
          pages := y.pages ++ [{ core := h.1, vpn := h.2, gran := g }] })

/-- The look-ahead of one entry, which gets a RID when it first needs a page (R309). -/
def lookAhead (s : State) (p e : Nat) : State :=
  match (s.ent e).rid.or (freeRid s p) with
  | none => s
  | some rid =>
    match aheadPages s p e with
    | [] => s
    | hs => hs.foldl (fun s h => seekPage s p e rid h) (s.updEnt e (fun y => { y with rid := some rid }))

/-- Pages of an entry that hold no valid position and that the look-ahead does not want, none once its turn has ended, join the free lists (R313). -/
def dropPages (s : State) (p e : Nat) : State :=
  let x := s.ent e
  let keep := if x.st = .active ∨ (x.st = .queued ∧ x.res = true) then aheadPages s p e else []
  let go := x.pages.filter (fun g => g.ready && !pageValid s p x g && !keep.any (fun h => h.1 == g.core && h.2 == g.vpn))
  go.foldl (fun s g => (s.updMast g.core (fun m => { m with poolFree := m.poolFree ++ [g.gran] })).updEnt e (fun y => { y with pages := y.pages.filter (· != g) })) s

/-- Whether every page of a list is mapped and initialised for an entry. -/
def pagesReady (s : State) (e : Nat) (hs : List (Nat × Nat)) : Bool :=
  hs.all (fun h => (s.ent e).pages.any (fun g => g.core == h.1 && g.vpn == h.2 && g.mapped && g.ready))

/-! ### Endings (R278, Table 11.5) -/

/-- A turn that ends before its first commit, QUEUED or ACTIVE: the entry as it was before the turn. -/
def endUncommitted (s : State) (p e status t : Nat) (late : Bool) : State :=
  let x := s.ent e
  let lost := status == 0x29
  let s0 := if lost then discardSled s e else s
  let parked := x.sled && !lost
  let res := !parked && !lost && x.res && decide (status < 0x20)
  let s1 := if res then s0 else releasePages s0 p e
  let r := turnRecord e { x with tokens := 0 } status 0 t (parked || res)
  let s2 := (if late then lateCancel s1 p e x t else s1).updEnt e (fun y => { y.undoTurn with
    st := if parked then .parked else .done, res := res, cancel := false, work := .none, moved := 0, ended := none, unparkBad := false
    reports := y.reports ++ [r] })
  if res then dropPages s2 p e else settle s2 p e t

/-- An ACTIVE turn ends: DRAINING, its slot free, its record due, pages without a valid position given up (Table 11.5, R313). -/
def endActive (s : State) (p e status detail t : Nat) (late : Bool) : State :=
  let x := s.ent e
  if x.tFirst = 0 then endUncommitted s p e status t late
  else
    let r := turnRecord e x status detail t (x.turn.retain && decide (status < 0x20))
    dropPages ((if late then lateCancel s p e x t else s).updEnt e (fun y => { y with
      st := .draining, work := .record, cancel := false, ended := none, reports := y.reports ++ [r] })) p e

/-- Whether every page of a list is an entry's, its commands answered or not. -/
def pagesListed (s : State) (e : Nat) (hs : List (Nat × Nat)) : Bool :=
  hs.all (fun h => (s.ent e).pages.any (fun g => g.core == h.1 && g.vpn == h.2))

/-- Whether a CANCEL held for an entry reached the engine before tick t (R18): one stamped exactly on a boundary belongs to the step that begins there. -/
def Entry.cancelled (x : Entry) (t : Nat) : Bool := x.cancel && decide (x.cmdTick < t)

/-- An ACTIVE entry at an end boundary: the first row of Table 11.6 that applies. A turn that goes on looks ahead at once; one whose next step needs a page that its home
core cannot give ends with KV_EXHAUSTED before a cancellation is looked at (R314); a turn that a stop ends has no next step. DEDUCED: notes/assumptions/93.md. -/
def endingOf (s : State) (p e t : Nat) (stop : Option (Nat × Nat)) : State :=
  let x := s.ent e
  match x.ended, stop with
  | some c, _ => endActive s p e c 0 t true
  | none, some (c, d) => endActive s p e c d t true
  | none, none =>
    let s1 := lookAhead (dropPages s p e) p e
    if !s.isMember p && !pagesListed s1 e (stepPages s1 p e) then endActive s p e 0x28 0 t true
    else if x.cancelled t then endActive s p e 6 0 t false
    else s1

/-- The escalation quantities of a step added to those of a turn (R96). -/
def addEsc (a b : EscCount) : EscCount :=
  { passes := satAdd 0xFFFF a.passes b.passes, unres := satAdd 0xFF a.unres b.unres, blocked := satAdd 0xFF a.blocked b.blocked, top := max a.top b.top }

/-- The escalations of a slot's retained input positions: all of a prefill's, else as many as tokens were kept (R19, R96). -/
def slotEsc (esc : AMap EscCount) (j : Nat) (x : Entry) (kept : Nat) : EscCount :=
  (List.range (if 0 < x.turn.pend then 16 else min 16 kept)).foldl (fun a i => addEsc a (AMap.at esc {} (escKey j i))) {}

/-- Every slot's commit applied and every ending chosen, in ascending entry index, where the step committed; `esc` is what the step's rows escalated. -/
def settleStep (s : State) (p t : Nat) (ok : Bool) (esc : AMap EscCount) : State :=
  sendTokens ((entriesOf s p (fun _ x => x.st == .active)).foldl (fun s e =>
    let x := s.ent e
    let j := x.dslot - (s.req p).slotBase
    match ok, (s.req p).commits.find? (fun c => c.slot == j) with
    | true, some c =>
      let (s1, stop) := applyCommit s p e (AMap.at (s.req p).keff 0 j) c
      let s2 := s1.updEnt e (fun y => { y with esc := addEsc y.esc (slotEsc esc j x (y.ringHead - x.ringHead)) })
      endingOf s2 p e t stop
    | _, _ => endingOf s p e t none) s) p t

/-- A QUEUED entry's ending at a boundary whose stamp is t: cancellation, then deadline, then a stale binding, then a failed unpark (R276, R277, R279, R328). -/
def queuedEnding (s : State) (p t : Nat) (x : Entry) : Option Nat :=
  let img := s.img p x.islot
  if x.ended.isSome then x.ended
  else if x.unparkBad then some 0x29
  else if x.cancelled t then some 6
  else if x.turn.deadline < t then some 5
  else if x.igen = 0x3FFF ∨ (img.st = .loaded ∧ x.igen ≠ img.gen) then some 0x2B
  else none

/-- The endings of QUEUED turns. -/
def endQueued (s : State) (p t : Nat) : State :=
  (entriesOf s p (fun _ x => x.st == .queued)).foldl (fun s e =>
    match queuedEnding s p t (s.ent e) with
    | some c =>
      let s1 := if c = 0x29 then { s with stay := { s.stay with tagFail := AMap.upd s.stay.tagFail 0 p (fun k => satAdd 0xFFFF k 1) } } else s
      endUncommitted s1 p e c t (c != 6)
    | none => s) s

/-- The look-ahead of a partition at a boundary; an ACTIVE turn whose next step needs a page that its home core cannot give ends with KV_EXHAUSTED (R314). -/
def lookAheadAll (s : State) (p t : Nat) : State :=
  let es := entriesOf s p (fun _ x => x.st == .active || (x.st == .queued && x.res))
  let s1 := es.foldl (fun s e => lookAhead (dropPages s p e) p e) s
  (entriesOf s1 p (fun _ x => x.st == .active)).foldl (fun s e => if pagesListed s e (stepPages s p e) then s else endActive s p e 0x28 0 t true) s1

/-! ### Admission (R273 to R275) -/

/-- Whether heat and the meter leave a partition's admission open; in a strike and a shutdown none is (R426, R428, R445, R465). -/
def admissionOpen (s : State) (p : Nat) : Bool :=
  !(AMap.at s.sys.thm.parts {} p).gated && !s.sys.cnm.halted && !s.sys.struck && !s.sys.shutdown

/-- Whether an entry is eligible at a boundary whose start stamp is t: its turn, too, reached the engine before t (R18, R273). -/
def eligible (s : State) (p t e : Nat) : Bool :=
  let x := s.ent e
  let img := s.img p x.islot
  admissionOpen s p && x.st == .queued && x.res && decide (x.turn.tEnq < t) && !x.cancelled t && img.st == .loaded && allHold s p x.islot && x.igen == img.gen && !(s.grp p).quarantined && sliceUp s p &&
  ((stepPages s p e).isEmpty || x.rid.isSome) && pagesReady s e (stepPages s p e)

/-- A partition's free decode slots, in ascending order: none that an entry holds, none with a marker in its spill register (R292). -/
def freeSlots (s : State) (p : Nat) : List Nat :=
  let r := s.req p
  ((List.range r.slotCnt).map (r.slotBase + ·)).filter (fun k =>
    (s.outq k).spill.isNone && (entriesOf s p (fun _ x => x.st == .active && x.dslot == k)).isEmpty)

/-- The cost of admitting an entry (R274). -/
def admitCost (x : Entry) : Nat := 1024 + x.turn.pend

def ReqPart.deficit (r : ReqPart) (q : Nat) : Int := AMap.at r.deficits 0 q
def ReqPart.weight (r : ReqPart) (q : Nat) : Nat := AMap.at r.weights 1 q

/-- An entry admitted into the lowest-numbered free slot, its queue charged. -/
def admitEntry (s : State) (p e : Nat) : State :=
  match freeSlots s p with
  | [] => s
  | k :: _ =>
    let x := s.ent e
    (evrIndex (s.updEnt e (fun y => { y with st := .active, dslot := k })) 23 p p).updReq p (fun r =>
      { r with deficits := AMap.put r.deficits x.turn.tq (r.deficit x.turn.tq - admitCost x) })

/-- Urgent entries: eligible, with a deadline within URGENT_US of the start stamp, in ascending deadline (R275). -/
def urgentEntries (s : State) (p t : Nat) : List Nat :=
  let u := (s.req p).urgent
  if u = 0 then []
  else sortBy (fun e => (s.ent e).turn.deadline) ((entriesOf s p (fun _ x => x.st == .queued && decide (x.turn.deadline ≤ t + 1000 * u))).filter (eligible s p t))

/-- The head of a tenant queue: the highest PRIO, then the earliest T_ENQ, then the lowest index (R273). -/
def queueHead (s : State) (p t q : Nat) : Option Nat :=
  ((entriesOf s p (fun _ x => x.st == .queued && x.turn.tq == q)).filter (eligible s p t)).foldl (fun a e =>
    match a with
    | none => some e
    | some b =>
      let x := (s.ent e).turn
      let y := (s.ent b).turn
      if y.prio < x.prio ∨ (y.prio = x.prio ∧ x.tEnq < y.tEnq) then some e else a) none

/-- Weighted deficit round robin (R275): it ends with no free slot or no eligible entry. The fuel covers every visit that the deficits can need. -/
def roundRobin (p t : Nat) : Nat → State → State
  | 0, s => s
  | n + 1, s =>
    if (freeSlots s p).isEmpty || (entriesOf s p (fun e _ => eligible s p t e)).isEmpty then s
    else
      let r := s.req p
      let q := r.visit
      let s1 := if r.quantum then s else
        s.updReq p (fun r => { r with deficits := AMap.put r.deficits q (min (r.deficit q + r.weight q) (r.weight q + 17408)), quantum := true })
      match queueHead s1 p t q with
      | some h =>
        if (admitCost (s1.ent h) : Int) ≤ (s1.req p).deficit q then roundRobin p t n (admitEntry s1 p h)
        else roundRobin p t n (s1.updReq p (fun r => { r with visit := (q + 1) % 256, quantum := false }))
      | none => roundRobin p t n (s1.updReq p (fun r => { r with visit := (q + 1) % 256, quantum := false }))

/-- Visits enough for every free slot: a head costs at most 17,408, so that a queue of weight 1 pays for it within 17,408 rounds, and before that within as many as its deficit is below
0; each round visits 256 queues. -/
def visitFuel (r : ReqPart) : Nat := 256 * (17409 * (r.slotCnt + 1) + r.deficits.foldl (fun a x => a + x.2.natAbs) 0) + r.slotCnt

/-- Deficits of queues with no QUEUED entry are 0 (R274). -/
def clearDeficits (s : State) (p : Nat) : State :=
  let live := (entriesOf s p (fun _ x => x.st == .queued)).map (fun e => (s.ent e).turn.tq)
  s.updReq p (fun r => { r with deficits := r.deficits.filter (fun x => live.contains x.1) })

/-- Admission at a boundary whose start stamp is t. -/
def admitAll (s : State) (p t : Nat) : State :=
  let s0 := clearDeficits s p
  let s1 := (urgentEntries s0 p t).foldl (fun s e => admitEntry s p e) s0
  roundRobin p t (visitFuel (s1.req p)) s1

/-! ### Step records (R335) -/

/-- A step record (Table 14.2). -/
def stepRecord (e : Nat) (x : Entry) (k : Nat) : Slot :=
  packFields 512 [(0, 64, x.turn.seed.toNat), (64, 23, x.len), (87, 4, k), (91, 2, x.turn.specMode), (96, 23, x.dv), (128, 15, x.turn.pend),
    (144, 16, x.turn.temp.toNat), (160, 16, x.turn.topp.toNat), (176, 16, x.turn.topk), (192, 12, x.turn.autoId), (208, 16, x.autoState),
    (224, 18, e), (242, 12, x.dslot)]

/-- The sampler core of an image that serves relative slot j. -/
def samplerCore (s : State) (p i j : Nat) : Option Nat :=
  (s.coresOf p).find? (fun m => s.slotOfField (m / 192) == some i && (match (s.core m).samp with
    | some r => decide (bitsN r 96 16 ≤ j) && decide (j < bitsN r 96 16 + bitsN r 112 16)
    | none => false))

/-- Step records of the slots that take part in the step, each to its sampler core; a slot whose pages are not ready waits out the step (R146). None is sent into a field
in fixed-hop mode (R174). -/
def sendStepRecords (s : State) (p : Nat) : State :=
  if (s.fieldsOf p).any (fun n => (s.field n).mode == .fixedHop) then s
  else (entriesOf s p (fun _ x => x.st == .active && !s.isMember p)).foldl (fun s e =>
    let x := s.ent e
    let j := x.dslot - (s.req p).slotBase
    if !pagesReady s e (stepPages s p e) then s
    else
      let k := keffOf x
      let s1 := s.updReq p (fun r => { r with keff := AMap.put r.keff j k })
      match samplerCore s p x.islot j with
      | none => s1
      | some m =>
        let r := (s.core m).samp.getD 0#512
        { s1 with fab := { s1.fab with vc0 := s1.fab.vc0 ++ [{ part := p, dst := m, ctx := bitsN r 72 2, handle := bitsN r 80 5, ofs := 64 * (j - bitsN r 96 16), data := stepRecord e x k }] } }) s

end Sys2Proof.Machine
end

