-- ==== Sys2Proof/Machine/LuffEvents.lean ====
section
/-! DEFINITION. Luff items and overflow passes as they run: stalls, ends, timeouts, sequencer saves and routines (09 R225 to R234). -/

namespace Sys2Proof.Machine

/-- The sails whose escalation items have begun start their save (R91). -/
def beginSaves (s : State) (p : Nat) : State :=
  (s.grp p).items.foldl (fun s i =>
    match i.src with
    | .escalation m k => if i.begun && !i.ended then s.updSail m k (fun y => { y with phase := if y.phase = .armed then .saving else y.phase }) else s
    | _ => s) s

/-- The luff ceiling of each core of a partition counts in the declared-current window under way (R237). -/
def State.luffCurrent (s : State) (p : Nat) : State :=
  s.eachCore (s.coresOf p) (fun _ c => { c with winMax := max c.winMax (AMap.at c.decl 0 256) })

/-- LUFF_STALL_BEGIN: the group reaches the smallest stall cycle armed and not ended (R226). -/
def execLuffStallBegin (p : Fin 64) (s : State) : Out :=
  .next (match (s.grp p).nextStall with
  | none => s
  | some u =>
    if (s.grp p).stalled.isSome || !(s.grp p).inStep then s
    else beginSaves ((s.updGrp p (fun g => { g with
      cyc := max g.cyc u, stalled := some u, items := g.items.map (fun i => if i.u ≤ u ∧ !i.boundary then { i with begun := true } else i) })).luffCurrent p) p)

/-- LUFF_ITEM_END: the i-th item of a group ends: a corrected row's once it has begun, since it always costs its stall, a late read's once its rows have landed (R118, R226).
Items whose end another event reports (an escalation, an overflow, a retraining, a sheet wait) end with that event. -/
def execLuffItemEnd (p : Fin 64) (i : Nat) (s : State) : Out :=
  .next (match (s.grp p).items[i]? with
  | none => s
  | some x =>
    match x.src with
    | .corrected _ _ _ => if x.begun then endLuff s p x.src else s
    | .late m k => if (s.core m).lands.any (fun l => l.trk == k) then s else endLuff s p x.src
    | _ => s)

/-- LUFF_LINE_DROP: with every item at or below the stalled cycle ended, the line drops and the cores resume (R226, R227). -/
def execLuffLineDrop (p : Fin 64) (s : State) : Out :=
  .next (match (s.grp p).stalled with
  | none => s
  | some c =>
    if (s.grp p).items.all (fun i => i.ended || i.boundary || decide (c < i.u)) then
      s.updGrp p (fun g => { g with stalled := none, items := g.items.filter (fun i => !i.ended) })
    else s)

/-- Whether a flit, reduction flit or merged read of a core's tracker entry is on its way to a router of field n. -/
def lateAt (s : State) (m k n : Nat) : Bool :=
  s.fab.flits.any (fun f => (if f.merged then f.dst == m else f.src == m) && f.trk == k && f.dst / 192 == n) ||
  s.fab.reds.any (fun f => f.src == m && f.trk == k && !f.node && f.dst / 192 == n) ||
  (m / 192 == n && (s.core m).tracks.any (fun t => t.id == k && t.kind == .merged))

/-- Whether an item is armed in a field of its partition, whose controller times it (R229): that of its core, router or seam, that of the router at which a late send's flits
are due (R164), or any field for a wait on another module. -/
def LuffSrc.inField (x : LuffSrc) (s : State) (p n : Nat) : Bool :=
  match x with
  | .corrected m _ _ => m / 192 == n
  | .escalation m _ => m / 192 == n
  | .late m _ => m / 192 == n
  | .arrival m k => lateAt s m k n
  | .node m _ _ => m / 192 == n
  | .overflow f => f == n
  | .retrain k _ => (seamFields s k).contains n
  | .sheetWait _ => (s.fieldsOf p).contains n
  | .gateWait => (s.fieldsOf p).contains n

/-- LUFF_TIMEOUT: an item armed in field n that has begun reaches 4,096 fc; the step fails and is ended at once (R229, R230). -/
def execLuffTimeout (p : Fin 64) (n : Fin 48) (s : State) : Out :=
  .next (if (s.grp p).items.any (fun i => i.begun && !i.ended && i.src.inField s p n) then
    let s1 := endStepNow (failStep (raiseFault s p 0x08 n noCore) p 0x08) p
    s1.updGrp p (fun g => { g with items := [], stalled := none })
  else s)

/-! ### Overflow passes (R234) -/

/-- The cores of a field that take part in an overflow pass: those that are not furled. -/
def fieldCores (s : State) (n : Nat) : List Nat :=
  ((List.range 192).map (n * 192 + ·)).filter (fun m => !(s.core m).stat.furled && (s.core m).ctx.toList.any (·.loaded))

/-- The data of a listed row from its first physical slot on. -/
def listedData (c : Core) (slot k : Nat) : Slot × Bool := (Memory.slotAt c.pad (64 * (slot + k)), (c.tell (slot + k)).st == .poison)

/-- The held rows of one expert sent from a dispatcher's list in list order, up to its capacity, and its free slots padded (R234 step 2). -/
def passRows' (s : State) (d : Nat × Nat × Nat) (e pass : Nat) : State :=
  let (m, ctx, tab) := d
  let c := s.core m
  let key := xtKey ctx tab
  let x := AMap.at c.xtabs { xtab := tab, ctx := ctx } key
  let ent := xtEntry c ctx tab e
  let rl := xhRl (xtHeader c ctx tab)
  let both := (List.zip x.listed x.rowNos)
  let mine := (both.filter (fun r => bitsN r.1 20 12 == e)).take (xeCap ent)
  let rest := mine.foldl (fun l r => l.erase r) both
  let fl := (List.range (xeCap ent)).flatMap (fun k =>
    match mine[k]? with
    | some r => rowFlits s m ctx c.nextTrk rl ent k (listedData c (bitsN r.1 0 16)) (originSlot s m r.2 (bitsN r.1 16 4) pass)
    | none => padFlits s m ctx c.nextTrk rl ent k)
  launch (s.setCore m { c with
    nextTrk := c.nextTrk + 1, xtabs := AMap.put c.xtabs key { x with listed := rest.map (·.1), rowNos := rest.map (·.2) } }) fl

/-- A core's tables whose overflow point is a phase: those through which it has dispatched in this step. -/
def ownTables (c : Core) (pidx : Nat) : List (Nat × Nat) :=
  (c.xtabs.map (fun x => (x.2.ctx, x.2.xtab))).filter (fun x => xhPidx (xtHeader c x.1 x.2) == pidx)

/-- Every dispatcher of an overflow, with its table. -/
def dispatchers (s : State) (n pidx : Nat) : List (Nat × Nat × Nat) :=
  (fieldCores s n).flatMap (fun m => (ownTables (s.core m) pidx).map (fun x => (m, x.1, x.2)))

/-- A core's sail state and TC0's registers saved into the 32 KiB block OVF_STG that its table names; a core that has not dispatched takes the first listed table's handle
(Table 9.5, R234 step 1). DEDUCED: notes/assumptions/91.md. -/
def saveCore (s : State) (m : Nat) (r : OvfRun) : State :=
  match (ownTables (s.core m) r.pidx).head?.or (r.tables.head?.map (·.2)) with
  | some (ctx, tab) =>
    let h := (s.core m).readRes ctx tab 0 16
    saveBlock (violateOpt s m ctx h.viol) m ctx (xhStg (BitVec.ofNat 128 h.data)) 128
  | none => s

/-- A core's accesses that are on their way carried out, its state saved for the routine. -/
def stashCore (s0 : State) (m : Nat) (r : OvfRun) : State :=
  let s := s0.settle m (s0.core m).lastAcc
  saveCore (s.updCore m (fun c => { c with saved := some { tc0 := c.tc 0, sails := c.sails, pattern := c.pattern, vecNext := c.vecNext, nextTrk := c.nextTrk } })) m r

/-- SEQUENCER_SAVE_DONE: a sail's save ends and its passes begin; or, for an overflow pass, a core's save ends, and with the field's last the dispatch begins, once the field
accepts injection (R91, R174, R234). -/
def execSequencerSaveDone (core : Fin 9216) (sail : Option (Fin 4)) (s : State) : Out :=
  let n := core.val / 192
  let p := s.corePart core
  let begun := fun src => (s.grp p).items.any (fun i => i.src == src && i.begun && !i.ended)
  .next (match sail with
  | some k =>
    let y := (s.core core).sail k
    if (y.phase == .armed || y.phase == .saving) && begun (.escalation core k) then (saveSail s core k).updSail core k (fun z => { z with phase := .passing }) else s
  | none =>
    match (s.field n).ovf with
    | none => s
    | some r =>
      if r.phase ≠ .armed ∨ begun (.overflow n) = false then s
      else
        let s1 := if (s.core core).saved.isSome then s else stashCore s core r
        match r.queue with
        | (e, pass) :: _ =>
          if (fieldCores s1 n).all (fun m => (s1.core m).saved.isSome) && !noInject s core then
            (((dispatchers s1 n r.pidx).foldl (fun s d => passRows' s d e pass) s1)).updField n (fun f => { f with ovf := some { r with phase := .sending } })
          else s1
        | [] => s1)

/-- A core's TC0 started in the overflow routine. -/
def Core.startRoutine (c : Core) (entry e pass : Nat) : Core :=
  let x := c.tc 0
  let y := { x.endBundle with pc := BitVec.ofNat 13 entry, ended := false, loops := [], busyS := [], busyV := [], ready := 0,
                              s := (x.s.set 0 ⟨BitVec.ofNat 64 e, false⟩).set 1 ⟨BitVec.ofNat 64 pass, false⟩ }
  { c.setTc 0 y with pattern := Vector.replicate 16 0, patFrom := 0, vecNext := 0 }

/-- OVERFLOW_DISPATCH_DONE: all delivery credits of the pass have returned, and the routine runs (R234 step 3). -/
def execOverflowDispatchDone (n : Fin 48) (s : State) : Out :=
  .next (match (s.field n).ovf with
  | none => s
  | some r =>
    match r.queue with
    | (e, pass) :: _ =>
      if r.phase ≠ .sending ∨ s.fab.flits.any (fun f => f.src / 192 == n.val) = true then s
      else (s.eachCore (fieldCores s n) (fun _ c => c.startRoutine r.entry e pass)).updField n (fun f => { f with ovf := some { r with phase := .routine } })
    | [] => s)

/-- Whether a core is done with the routine: at WSTEP, with every entry that the routine has taken released (R234 step 4). -/
def Core.routineDone (c : Core) : Bool :=
  (c.tc 0).ended && c.tracks.all (fun k => k.ctx != 0 || k.due.isSome || decide (k.id < (c.saved.map (·.nextTrk)).getD 0))

/-- OVERFLOW_ROUTINE_DONE: every core has reached WSTEP and released its entries; the state is restored, and the pass's item ends; the next pass is an item of its own (R229, R233,
R234 step 4). -/
def execOverflowRoutineDone (n : Fin 48) (s : State) : Out :=
  .next (match (s.field n).ovf with
  | none => s
  | some r =>
    if r.phase ≠ .routine ∨ (fieldCores s n).any (fun m => !(s.core m).routineDone) = true then s
    else
      let s0 := (fieldCores s n).foldl (fun s m => s.settle m (s.core m).lastAcc) s
      let s1 := evrIndex (s0.eachCore (fieldCores s n) (fun _ c => c.restore)) 17 (s.partOf n) n
      match r.queue.drop 1 with
      | [] => endLuff (s1.updField n (fun f => { f with ovf := none })) (s.field n).part (.overflow n)
      | q =>
        let g := s.grp (s.field n).part
        armLuff (endLuff (s1.updField n (fun f => { f with ovf := some { r with queue := q, phase := .armed } })) (s.field n).part (.overflow n)) (s.field n).part (.overflow n) (g.stalled.getD g.cyc))

end Sys2Proof.Machine
end

