-- ==== Sys2Proof/Machine/Mailbox.lean ====
section
/-! DEFINITION. Mailboxes, doorbell bits and interrupt vectors of the functions (22 R495 to R503). -/

namespace Sys2Proof.Machine

/-! ### Messages (Tables 22.9 to 22.11) -/

def msgCode (m : BitVec 512) : Nat := bitsN m 0 8
def msgSeq (m : BitVec 512) : Nat := bitsN m 16 16

/-- The payload fields of a message code, as (place, width); none for a reserved code (Tables 22.10, 24.4, 25.x). -/
def msgFields (c : Nat) : Option (List (Nat × Nat)) :=
  match c with
  | 0x01 => some [(32, 256)]
  | 0x02 => some [(32, 2), (48, 12), (64, 128)]
  | 0x03 | 0x04 => some [(32, 25), (96, 128)]
  | 0x05 => some [(32, 8), (64, 64)]
  | 0x06 => some []
  | 0x40 => some [(64, 128)]
  | 0x41 => some [(32, 3), (40, 8), (48, 2), (64, 64)]
  | 0x42 | 0x44 => some []
  | 0x43 => some [(32, 3)]
  | 0x45 => some [(40, 8)]
  | 0x50 => some [(32, 16)]
  | 0x51 | 0x54 => some []
  | 0x52 => some [(64, 64)]
  | 0x53 => some [(32, 4), (64, 64)]
  | _ => none

/-- Whether a code is allowed on a function (Table 22.10). -/
def msgAllowed (f c : Nat) : Bool := if f = 0 then 5 ≤ c else decide (c ≤ 4) || c == 6

/-- Whether a message has a reserved code, FLAGS or a reserved payload bit set, or a key OP that does not match its code. -/
def msgBad (m : BitVec 512) : Bool :=
  match msgFields (msgCode m) with
  | none => true
  | some fs => (([(0, 8), (16, 16)] ++ fs).foldl (fun (x : BitVec 512) (u : Nat × Nat) => setBits x u.1 u.2 0) m) != 0#512 ||
      (msgCode m == 3 && bitsN m 32 8 != 1) || (msgCode m == 4 && bitsN m 32 8 != 2)

/-- A reply: CODE and SEQ copied, STATUS, DETAIL at byte 4, and the reply payload from byte 8. -/
def replyBits (m : BitVec 512) (status detail : Nat) (payload : List (Nat × Nat × Nat)) : BitVec 512 :=
  packFields 512 ([(0, 8, msgCode m), (8, 8, status), (16, 16, msgSeq m), (32, 8, detail)] ++ payload)

/-- A reply put in line for a function's in-mailbox. -/
def sendReply (s : State) (f : Nat) (r : BitVec 512) : State := s.updFn f (fun x => { x with replies := x.replies ++ [r] })

/-- The oldest accepted message of a code that is not being carried out; messages wait while the module is STRUCK (R428), and while an MH switch has stopped the application cores (R534). -/
def findMsg (s : State) (f code : Nat) : Option MbxMsg := if s.sys.struck || s.sys.fw.mhStop then none else (s.fn f).msgs.find? (fun m => msgCode m.body == code && !m.busy)

/-- Items discarded by a reset of a partition's function (R494). -/
def countDiscards (s : State) (p n : Nat) : State := s.updPart p (fun x => { x with flrDiscard := satAdd 0xFFFF x.flrDiscard n })

/-- An accepted message ends with its reply, which a reset of the function since its take discards. -/
def endMsg (s : State) (f : Nat) (m : MbxMsg) (status detail : Nat) (payload : List (Nat × Nat × Nat)) : State :=
  let s1 := s.updFn f (fun x => { x with msgs := x.msgs.erase m })
  if m.drop then (if f = 0 then s1 else countDiscards s1 (f - 1) 1) else sendReply s1 f (replyBits m.body status detail payload)

/-- The message being carried out with a body ends. -/
def endBody (s : State) (f : Nat) (body : BitVec 512) (status detail : Nat) (payload : List (Nat × Nat × Nat)) : State :=
  match (s.fn f).msgs.find? (fun m => m.busy && m.body == body) with
  | some m => endMsg s f m status detail payload
  | none => s

/-- An accepted message marked as being carried out. -/
def holdMsg (s : State) (f : Nat) (m : MbxMsg) : State := s.updFn f (fun x => { x with msgs := x.msgs.map (fun y => if y = m then { y with busy := true } else y) })

/-! ### The out-mailbox (R499, R502) -/

/-- MBX_OUT_DATA_WRITE: data register i stored; while FULL the message collides. -/
def execMbxOutDataWrite (f : Fin 65) (i : Fin 16) (v : Word) (s : State) : Out :=
  .next (s.updFn f (fun x => { x with
    out := setBits x.out (32 * i) 32 v.toNat, coll := x.coll || x.full, collided := x.collided || x.full }))

/-- MBX_OUT_GO: the message waits for its take, or a GO while FULL collides. -/
def execMbxOutGo (f : Fin 65) (link : Fin 4) (s : State) : Out :=
  .next (s.updFn f (fun x => if x.full then { x with coll := true, collided := true } else { x with full := true, collided := false, goLink := link }))

/-- Codes that wait for READY on PF0 (R502, Table 24.4). -/
def msgNeedsReady (c : Nat) : Bool := c == 0x05 || c == 0x41 || c == 0x42 || c == 0x45

/-- Codes that the ROM answers (24 R540). -/
def romCode (c : Nat) : Bool := c == 0x06 || c == 0x40 || c == 0x41

/-- STATUS with which a message is answered at its take without being carried out, if it is (Table 22.11). -/
def takeStatus (s : State) (f : Nat) (m : BitVec 512) (collided : Bool) : Option Nat :=
  if collided then some 3
  else if msgBad m then some 1
  else if !msgAllowed f (msgCode m) then some 2
  else if (s.sys.safe && msgNeedsReady (msgCode m) && !(s.sys.fw.romMode && msgCode m == 0x41)) || (s.sys.fw.romMode && !romCode (msgCode m)) || (f != 0 && !(s.part (f - 1)).en) then some 4
  else none

/-- Whether firmware takes a function's message now. -/
def mayTake (s : State) (f : Nat) : Bool :=
  let x := s.fn f
  x.full && decide (x.msgs.length + x.replies.length < 16) && !s.sys.shutdown && !s.sys.fw.mhStop && (if f = 0 then decide (4 ≤ s.sys.clk.phase) else s.sys.ready)

/-- The out-mailbox emptied by a take. -/
def takeOut (s : State) (f : Nat) : State :=
  dblSet (s.updFn f (fun x => { x with full := false, collided := false, taken := (x.taken + 1) % 65536 })) f 1

/-- MBX_TAKE. -/
def execMbxTake (f : Fin 65) (s : State) : Out :=
  let x := s.fn f
  .next (if !mayTake s f then s
  else
    let s1 := takeOut s f
    match takeStatus s f x.out x.collided with
    | some c => sendReply s1 f (replyBits x.out c 0 [])
    | none => s1.updFn f (fun y => { y with msgs := y.msgs ++ [{ body := x.out, link := x.goLink }] }))

/-- At the shutdown decision every FULL message is taken, and every accepted message is answered SHUTDOWN (R502). -/
def mailShutdown (s : State) (f : Nat) : State :=
  let x := s.fn f
  let s1 := if x.full then sendReply (takeOut s f) f (replyBits x.out (if x.collided then 3 else 5) 0 []) else s
  x.msgs.foldl (fun s m => endMsg s f m 5 0 []) s1

/-! ### The in-mailbox (R500) -/

/-- MBX_REPLY_WRITE: the next reply, while the in-mailbox is empty. -/
def execMbxReplyWrite (f : Fin 65) (s : State) : Out :=
  let x := s.fn f
  .next (match x.inFull, x.replies with
  | false, r :: rs =>
    let s1 := dblSet (s.updFn f (fun y => { y with inb := r, inFull := true, replies := rs })) f 0
    if bitsN r 8 8 = 3 then dblSet s1 f 2 else s1
  | _, _ => s)

/-- MBX_IN_DONE: no effect while FULL is 0. -/
def execMbxInDone (f : Fin 65) (s : State) : Out :=
  .next (s.updFn f (fun x => if x.inFull then { x with inFull := false, received := (x.received + 1) % 65536 } else x))

/-! ### Doorbell bits and vectors -/

/-- DBL_STAT_CLEAR: bits written 1 clear. -/
def execDblStatClear (f : Fin 65) (w : Word) (s : State) : Out := .next (s.updFn f (fun x => { x with dblStat := x.dblStat &&& ~~~w }))

/-- DBL_MASK_WRITE: a set bit whose mask bit is cleared signals its vector. Bits 31 to 12 are reserved. -/
def execDblMaskWrite (f : Fin 65) (w : Word) (s : State) : Out :=
  let old := s.fn f
  let new : Word := setBits 0#32 0 12 (bitsN w 0 12)
  let hit := (List.range 12).filter (fun b => bitAt old.dblStat b && bitAt old.dblMask b && !bitAt new b)
  .next (([0, 1, 2].filter (fun v => hit.any (fun b => dblVec b == v))).foldl (fun s v => signal s f v) (s.updFn f (fun x => { x with dblMask := new })))

/-- MSIX_UNMASK: an entry, or with none the function mask, is unmasked, and what its pending bits hold is sent. -/
def execMsixUnmask (f : Fin 65) (v : Option (Fin 256)) (s : State) : Out :=
  let send := fun (s : State) (k : Nat) =>
    if ((s.fn f).vec k).pend && !((s.fn f).vec k).masked && !(s.fn f).fnMask then emit (s.updVec f k (fun y => { y with pend := false })) (.msix f k) else s
  .next (match v with
  | some k => send (s.updVec f k (fun y => { y with masked := false })) k
  | none => ((s.fn f).vecs.map (·.1)).foldl send (s.updFn f (fun x => { x with fnMask := false })))

/-- COALESCE_EXPIRE: COAL_US after a vector's message, folded events go out as one message, which opens the next window (R496). -/
def execCoalesceExpire (f : Fin 65) (vt : Timed (Fin 64)) (s0 : State) : Out :=
  let v := vt.val
  let t := vt.tick
  let x := (s0.fn f).vec v
  let s := s0.atTick t
  let us := (s.part (f - 1)).coalUs
  .next (if !x.window || decide (t.toNat < x.winEnd) then s0
  else if x.folded then (sendVec s f v).updVec f v (fun y => if us = 0 then { y with folded := false, window := false } else ({ y with folded := false } : Vec).opens s us)
  else s.updVec f v (fun y => { y with window := false }))

end Sys2Proof.Machine
end

