-- ==== Sys2Proof/Machine/Settings.lean ====
section
/-! DEFINITION. Cycle swallowing and the time base: a partition's counts, slews and steps (16 R379, R380, R384 to R386). -/

namespace Sys2Proof.Machine

def State.updClk (s : State) (f : Clk → Clk) : State := { s with sys := { s.sys with clk := f s.sys.clk } }

def State.clkPart (s : State) (p : Nat) : ClkPart := AMap.at s.sys.clk.parts {} p

def State.updClkPart (s : State) (p : Nat) (f : ClkPart → ClkPart) : State := s.updClk (fun c => { c with parts := AMap.upd c.parts {} p f })

/-- Whether fabric cycle index j is swallowed under count S (R379). -/
def swallowed (S j : Nat) : Bool := decide (j * S / 16 < (j + 1) * S / 16)

/-- EFF and STEP of CLK_P_SWAL as they come into force: in the boundary interval, or at once while the partition does not step (R380). -/
def applySwal (s : State) (p : Nat) : State :=
  let step := s.sys.clk.step
  s.updClkPart p (fun c =>
    let e := max c.hostSwal c.reefSwal
    { c with eff := e, step := step, changes := if e = c.eff then c.changes else satAdd 0xFFFF c.changes 1 })

/-- A record in the power error log (Table 17.13), and its signal. -/
def pwrLog (s : State) (n c kind phase value : Nat) : State :=
  let r := (packFields 32 [(0, 6, n), (6, 8, c), (14, 3, kind), (17, 2, phase)], s.time32, packFields 32 [(0, 16, min value 0xFFFF)])
  signalLog (s.updPwr (fun x => { x with log := x.log.push r })) s.sys.pwr.log 0 3

/-- A field switched off on a supply short: TRIPPED and DARK until the next start, its items FIELD_LOST (Table 17.4). -/
def tripField (s : State) (n code value : Nat) : State :=
  fieldLost (pwrLog (s.updFieldPwr n (fun x => { x with st := 4, trip := true })) n 0 3 0 value) n code

/-- Trips that waited for a partition's boundary, and the 10 ms allowances that it ends (R406, R407). -/
def boundaryPower (s : State) (p : Nat) : State :=
  let s1 := ((s.fieldsOf p).filter (fun n => (s.fieldPwr n).st == 3 && (s.fieldPwr n).trip)).foldl (fun s n => tripField s n 0x45 (s.fieldPwr n).curr) s
  s1.updPwr (fun x => { x with cores := AMap.mapAll x.cores (fun m c => if c.limitBy.isSome && s.corePart m == p then { c with limitBy := none } else c) })

/-! ### The time base (R384 to R386) -/

/-- A rate correction that the spec leaves to the discipline, within ±500 ppm: a free value. -/
def freeRate (s : State) : Int := (s.fresh.toNat % 1000001 : Nat) - 500000

/-- A running backward slew given up. -/
def endSlew (s : State) : State := s.updClk (fun c => if c.slew.isSome then { c with rate := c.rateBefore, slew := none, rateAt := some s.tb.toNat } else c)

/-- Whether the rate may change again: 125 µs after its last change (R386). -/
def rateFree (s : State) : Bool := s.sys.clk.slew.isNone && (match s.sys.clk.rateAt with | some u => decide (u + 125000 ≤ s.tb.toNat) | none => true)

/-- A new rate correction at a message of the leader, where it may change. -/
def newRate (s : State) : State :=
  if rateFree s then ({ s with free := s.free + 1 }).updClk (fun c => { c with rate := freeRate s, rateAt := some s.tb.toNat }) else s

/-- Whether a step to `v` would go back by more than 1 µs after READY. -/
def backStep (s : State) (v : Nat) : Bool := s.sys.ready && decide (v + 1000 < s.tb.toNat)

/-- The time base moved to `v` in one step, or, where that is refused, by a slew at −500 ppm: the base gives up d ns while it counts 1,999 d (R386). The time that a start
has taken is kept over a step (Table 16.10). -/
def moveTime (s : State) (v : Dword) : State :=
  let s1 := endSlew s
  if backStep s v.toNat then
    let d := s.tb.toNat - v.toNat
    s1.updClk (fun c => { c with rateBefore := c.rate, rate := -500000, slew := some d, slewEnd := s.tb.toNat + 1999 * d, rateAt := some s.tb.toNat })
  else { (s1.updClk (fun c => { c with startNs := c.startNs + (s.tb.toNat - c.startTick), startTick := v.toNat, rateAt := none })) with tb := v }

end Sys2Proof.Machine
end

