-- ==== Sys2Proof/Machine/Boundary.lean ====
section
/-! DEFINITION. Step boundaries: the end of a step, the boundary interval, the start of the next, idle boundaries, quarantine (05 R113 to R120, 09 R222, R223, R236, R237, R578). -/

namespace Sys2Proof.Machine

/-! ### Quarantine (R119) -/

/-- FLD_CORE_VIOLA and FLD_CORE_VIOLB of a core, one above the other (Tables 5.8, 5.9). -/
def ViolRec.word (r : ViolRec) : Dword :=
  packFields 64 [(0, 4, r.kind), (4, 2, r.ctx), (6, 5, r.handle), (15, 1, b2n r.valid), (16, 16, r.slot),
    (32, 8, r.expTag.toNat), (40, 8, r.foundTag.toNat), (48, 2, r.foundSt), (50, 2, r.mode), (52, 12, r.count)]

/-- A partition quarantined: its slots' requests complete, admission halts, host software is told. -/
def quarantine (s : State) (p status : Nat) : State :=
  let s1 := markEntries s p [0, 1, 2, 3] status
  let s2 := (s1.updGrp p (fun g => { g with quarantined := true, quarNext := false, stepping := false, startReady := false })).updReq p (fun r => { r with halt := true })
  let s3 := if status = 0x20 then logFault s2 p 0x40 noField noCore (itemCount s p [0, 1, 2, 3]) else s2
  let ms := (s3.coresOf p).filter (fun m => (s3.core m).viol.valid)
  let s4 := evrFault s3 0x40 p noField noCore (some (BitVec.ofNat 64 ms.length))
  dblBoth ((ms.take 8).foldl (fun s m => evrEvent s 0x81 3 p (m / 192) (m % 192) (some (s.core m).viol.word) none) s4) p 9

/-- Whether a step failed by these faults counts toward R119 (R437). -/
def faultsCount (fs : List StepFault) : Bool := fs.all (fun f => decide (f.code < 0x10))

/-! ### The end boundary -/

/-- Whether the end boundary may be taken: every loaded context has issued WSTEP and every tracker entry has been released (R222). -/
def endReady (s : State) (p : Nat) : Bool :=
  (s.grp p).inStep && (s.grp p).stalled.isNone && decide (s.sys.cnm.link.length < 65536) &&
  (s.coresOf p).all (fun m => let c := s.core m; c.ctx.toList.all (fun x => !x.loaded || x.ended) && c.tracks.all (fun k => k.due.isSome))

/-- Whether a slot that took part in the step has not committed (R351). -/
def missingCommit (s : State) (p : Nat) : Bool :=
  let r := s.req p
  r.keff.any (fun k => !(entriesOf s p (fun _ x => x.st == .active && x.dslot == r.slotBase + k.1)).isEmpty && !r.commits.any (fun c => c.slot == k.1))

/-- LEFTOVER violations: those of a step that has not failed fail the next one, those of one that has are recorded and no more (R113, R116). No context's access raises one:
its record names CTX 0. DESIGN CHOICE: notes/assumptions/78.md. -/
def leftoverCheck (s : State) (p : Nat) (ok : Bool) : State :=
  (s.coresOf p).foldl (fun s0 m =>
    match (s0.core m).leftovers with
    | [] => s0
    | k :: _ =>
      let s := evrIndex s0 19 p (m / 192)
      let t := (s.core m).tell k
      let v : Viol := { kind := 7, slot := k, foundTag := t.tag, foundSt := t.st.code }
      let r := (s.core m).viol
      let s1 := s.updCore m (fun c => { c with viol := if r.valid then { r with count := satAdd 0xFFF r.count 1 } else
        { valid := true, kind := v.kind, ctx := 0, handle := 0, slot := v.slot, expTag := v.expTag, foundTag := v.foundTag, foundSt := v.foundSt, mode := v.mode, count := satAdd 0xFFF r.count 1 } })
      if !ok || (s1.grp p).carry.any (fun f => f.code == 1) then s1
      else (raiseFault s1 p 0x01 (m / 192) (m % 192)).updGrp p (fun g => { g with carry := g.carry ++ [⟨1, 0⟩] })) s

/-- The faults that fail the step under way: those that no commit precedes by less than 20 fc, away from rank 0 those no later than the gate, or all
where the step was ended at once (R116, R362). -/
def failingFaults (g : Group) (cs : List Commit) : List StepFault :=
  if g.closed then g.faults
  else match g.gate with
    | some c => g.faults.filter (fun f => decide (f.at' ≤ c))
    | none => g.faults.filter (fun f => cs.all (fun c => decide (f.at' + 20 ≤ c.cyc)))

/-- A group after its step: guarded replay and the 64-step window (R118, R119); boundary items that wait begin (R225). -/
def Group.afterStep (g : Group) (now : List StepFault) : Group :=
  let later := (if now.isEmpty then g.faults else []).map (fun f => { f with at' := 0 })
  let g1 := { g with
    inStep := false, closed := false, stalled := none, startReady := true
    items := (g.items.filter (fun (i : LuffItem) => i.boundary && !i.ended)).map (fun (i : LuffItem) => { i with begun := true })
    faults := [], carry := g.carry ++ later, gate := none, esc := [] }
  if now.isEmpty then (if g.guarded then { g1 with guarded := false, window := 64 } else { g1 with window := g.window - 1 })
  else { g1 with guarded := true }

/-- Slots that unload and whose drain limit has passed: their requests end, with the fault's status where one has lost the slot (R255 step 3, R356, R388, R443). -/
def drainEvents (s : State) (p : Nat) : State :=
  (List.range 4).foldl (fun s i =>
    let x := s.img p i
    if x.st = .unloading ∧ (match x.drainEnd with | some d => decide (d < s.tb.toNat) | none => true) = true then
      markEntries s p [i] (match x.unloadFor with | some .reset => 0x27 | some .lost => x.lostStatus | _ => 0x21)
    else s) s

/-- Slots lost under R443: LOADED ones unload at once, parks that need a page on a dark field or a failed mast ending PARK_FAILED with RES 0. -/
def emptySlots (s : State) (p : Nat) : State :=
  let s1 := (s.part p).emptying.foldl (fun s x =>
    if (s.img p x.slot).st = .loaded ∨ (s.img p x.slot).st = .unloading then
      let s1 := s.updImg p x.slot (fun y => { y with st := .unloading, unloadFor := if y.unloadFor = some .replace then some .replace else some .lost, drainEnd := none, lostStatus := x.status })
      let s1 := if (s.img p x.slot).st = .loaded then slotGone s1 p x.slot else s1
      (entriesOf s1 p (fun _ e => e.work == .parking && e.islot == x.slot)).foldl (fun s e =>
        if (s.ent e).pages.any (pageLost s) then parkFailed s p e none false s.tb.toNat else s) s1
    else s) s
  s1.updPart p (fun x => { x with emptying := [] })

/-- A partition reset taken at a boundary: every slot unloads with that boundary as its limit, QUEUED turns end, quarantine ends, hoists end ABORTED (R356, R262). -/
def resetSlots (s : State) (p : Nat) : State :=
  let s1 := markEntries s p [0, 1, 2, 3] 0x27
  let s2 := { s1 with table := { s1.table with entries := AMap.mapAll s1.table.entries (fun e x =>
      if (s.req p).owns e && x.st == EntSt.queued && x.ended.isNone then { x with ended := some 0x27 } else x) } }
  let s3 := (List.range 4).foldl (fun s i => s.updImg p i (fun x =>
    if x.st = SlotState.loaded then { x with st := .unloading, unloadFor := some .reset, drainEnd := none } else x)) s2
  let was := (s3.grp p).quarantined
  let busy := (List.range 4).any (fun i => (s3.img p i).st == SlotState.unloading)
  let s4 := ((abortQueue s3 p).updPart p (fun x => { x with resetAsked := false, resetting := busy, hoist := x.hoist.map (fun h => { h with abortReq := true }) })).updGrp p (fun g => { g with quarantined := false, quarNext := false })
  let s5 := s4.updReq p (fun r => { r with halt := false })
  let s6 := if was then dblBoth s5 p 9 else s5
  let y := s6.slice p
  if y.mods = 0 then s6 else (List.range (y.mods + 1)).foldl (fun s r => if r = y.rank then s else sendFrame s p r 4 true 0 0 0 s.tb.toNat 3) s6

/-- What a boundary does to the slots before anything else: lost ones emptied, then a reset that was asked for, or drain limits (R255, R356, R443). -/
def slotEvents (s : State) (p : Nat) : State :=
  if (s.part p).resetAsked then resetSlots (emptySlots s p) p else drainEvents (emptySlots s p) p

/-- Slots without an ACTIVE request stop stepping once they unload (R255 step 4). -/
def stopDrained (s : State) (p : Nat) : State :=
  (List.range 4).foldl (fun s i =>
    if (s.img p i).st = .unloading ∧ (entriesOf s p (fun _ x => x.st == .active && x.islot == i)).isEmpty = true then s.updImg p i (fun x => { x with stopped := true }) else s) s

/-- The held TLB updates of a partition's masts applied; what waits at a mast is served first where its partition steps no longer (R139, R145). -/
def applyTlbs (s : State) (p : Nat) : State :=
  (s.coresOf p).foldl (fun s m => (if servesNow s m then serveAll s m else s).updMast m Mast.applyHeld) s

/-- What a step that was ended at once has left in the fabric beside tracked sends: partial results and requests of its own (R230). -/
def dropTravel (s : State) (p : Nat) : State :=
  { s with fab := { s.fab with reds := s.fab.reds.filter (fun x => x.part != p), merges := s.fab.merges.filter (fun x => x.part != p)
                               flits := s.fab.flits.filter (fun x => !(x.merged && x.part == p)) } }

/-- The entries of a partition as they stand at a boundary, for the entry window (R265, R285). -/
def keepWindow (s : State) (p : Nat) : State :=
  s.updReq p (fun r => { r with window := s.table.entries.filter (fun x => r.owns x.1) })

/-- What the boundary record says of an entry: 0 nothing, 1 ACTIVE, 2 being parked, 3 being unparked, 4 being released. -/
def announced (x : Entry) : Nat :=
  if x.st == .active then 1 else if x.work == .parking then 2 else if x.st == .queued && !x.res && x.sled then 3
  else if x.work == .releasing || x.work == .closing then 4 else 0

/-- A slot record of the boundary record for an entry of which the last record said `old` (R363). -/
def slotRecord (s : State) (p e old : Nat) : SlotRec :=
  let x := s.ent e
  let now := announced x
  packFields 128 [(0, 18, e), (18, 23, x.len), (41, 23, x.dv), (64, 15, x.turn.pend), (79, 4, if now = 1 then keffOf x else 0),
    (83, 1, b2n (now == 1 && old != 1)), (84, 1, b2n (now != 1 && old == 1)), (85, 1, b2n (now == 2 && old != 2)), (86, 1, b2n (now == 3 && old != 3)),
    (87, 1, b2n (now == 4 && old != 4)), (88, 1, b2n (s.grp p).guarded)]

/-- The boundary record: every entry that is ACTIVE, or of which the last record said something else (R363). -/
def boundaryRecord (s : State) (p : Nat) : List SlotRec :=
  let old := (s.slice p).told
  (entriesOf s p (fun e x => announced x == 1 || announced x != AMap.at old 0 e)).map (fun e => slotRecord s p e (AMap.at old 0 e))

/-- The end stamp sent to every other rank of a slice, with the boundary record from rank 0 (R223, R363). -/
def sendStamps (s : State) (p t : Nat) : State :=
  let y := s.slice p
  if y.mods = 0 then s
  else
    let body := if y.rank = 0 then (boundaryRecord s p).foldr (fun r a => r.toNat + 2 ^ 128 * a) 0 else 0
    let told := if y.rank = 0 then (entriesOf s p (fun _ x => announced x != 0)).foldl (fun a e => AMap.put a e (announced (s.ent e))) [] else []
    let begun := fun (e : Nat) => (AMap.at told 0 e == 2 || AMap.at told 0 e == 3) && AMap.at told 0 e != AMap.at y.told 0 e
    let s1 := s.updSlice p (fun x => { x with stamps := AMap.put x.stamps y.rank t, told := told, notices := x.notices.filter (fun n => !begun n.2.1) })
    (List.range (y.mods + 1)).foldl (fun s r => if r = y.rank then s else sendFrame s p r 3 false 0 0 0 t body) s1

/-- ACTIVE entries that a row-1 event has marked outside a step end (R442). -/
def endMarked (s : State) (p t : Nat) : State :=
  (entriesOf s p (fun _ x => x.st == .active && x.ended.isSome)).foldl (fun s e => endActive s p e ((s.ent e).ended.getD 0) 0 t true) s

/-- A slice whose items have been failed waits for its members again (Table 15.8). -/
def lostToWaiting (s : State) (p : Nat) : State := if (s.slice p).st = .lost then setSlice s p .waiting else s

/-! ### Settings that a boundary applies (R222, R578) -/

/-- Automata whose every copy is written take effect, and their messages are answered (R348). -/
def applyAutos (s : State) (p : Nat) : State :=
  let ls := (s.req p).autoLoads
  let s1 := ls.foldl (fun s a => s.updImg p a.slot (fun x => { x with autos := AMap.put x.autos a.id a.auto })) s
  ls.foldl (fun s a => endBody s (p + 1) a.msg 0 0 []) (s1.updReq p (fun r => { r with autoLoads := [] }))

/-- GATED as the last evaluation gave it (R426). -/
def applyGate (s : State) (p : Nat) : State :=
  { s with sys := { s.sys with thm := { s.sys.thm with parts := AMap.upd s.sys.thm.parts {} p (fun y => { y with gated := y.gateNext }) } } }

/-- ESC_MODE, HOME, weights, URGENT_US, stop sets, automata, the refresh schedule, the swallow count, IDE_REQ, GATED. -/
def applySettings (s0 : State) (p : Nat) : State :=
  let s := applyGate s0 p
  let x := s.part p
  let hot := x.forceHot || x.hotAsked
  let s1 := s.updPart p (fun y => { y with
    escMode := y.escModeNext, home := y.homeNext, hot := hot, switches := if hot = y.hot then y.switches else satAdd 0xFFFF y.switches 1 })
  let s2 := s1.updReq p (fun r => { r with urgent := r.urgentNext, weights := r.weightsNext, stage := { r.stage with pend := none } })
  let s3 := match x.req.stage.pend with
    | some (i, st) => { s2 with stream := { s2.stream with stops := AMap.put s2.stream.stops (x.req.stopBase + i) st } }
    | none => s2
  let s4 := { s3 with sys := { s3.sys with sec := { s3.sys.sec with parts := AMap.upd s3.sys.sec.parts {} p (fun y => { y with ideReq := y.ideReqNext }) } } }
  applyAutos (applySwal s4 p) p

/-! ### Admissions, cancellations and slot changes -/

/-- The entries of a partition dealt with for a step that starts at stamp t: QUEUED turns ended, pages sought, turns admitted. Another rank of a slice than
rank 0 only seeks the pages of what rank 0 has admitted (R275 to R279, R312, R362, R363). -/
def serveQueues (s : State) (p t : Nat) : State :=
  if s.isMember p then (entriesOf s p (fun _ x => x.st == .active)).foldl (fun s e => lookAhead (dropPages s p e) p e) s
  else admitAll (lookAheadAll (endQueued s p t) p t) p t

/-- Whether a slice's partition has told the others its end stamp for the step that ended. -/
def stampSent (s : State) (p : Nat) : Bool := (s.slice p).mods != 0 && (AMap.find (s.slice p).stamps (s.slice p).rank).isSome

/-- Whether a slice's partition has taken its end boundary and not yet told the others: it held there (R439), or a field controller's reload was due (R535). -/
def stampDue (s : State) (p : Nat) : Bool := (s.slice p).mods != 0 && !(s.grp p).inStep && (s.grp p).step != 0 && !stampSent s p

/-- Whether the next field of an FC activation belongs to a partition, whose hold comes before its end stamp is sent (R535). -/
def reloadDue (s : State) (p : Nat) : Bool :=
  match s.sys.fw.act with
  | none => false
  | some a => a.todo.head? == some 2 && s.sys.fw.reloading.isNone &&
      (match a.fields.find? (fun n => (s.fieldPwr n).st == 3) with | some n => (s.field n).owned && (s.field n).part == p | none => false)

/-- The end boundary told to the slice at tick t: rank 0 first deals with its queues. -/
def tellEnd (s : State) (p t : Nat) : State :=
  sendStamps (if (s.slice p).mods ≠ 0 ∧ (s.slice p).rank = 0 then serveQueues (applySettings s p) p (t + 400) else s) p t

/-- STEP_END_BOUNDARY: the step ends at tick t: LEFTOVER, commits or failure, quarantine, endings, held TLB updates (R222). In a slice a partition that holds
there sends its end stamp by this command again, once the hold has ended (R223, R439, R535). -/
def execStepEndBoundary (p : Fin 64) (t : Dword) (s0 : State) : Out :=
  .next (if !endReady s0 p then (if stampDue s0 p && !(s0.grp p).held then tellEnd (s0.atTick t) p t.toNat else s0)
  else
    let s := (boundaryPower ((s0.atTick t).settleEnd p) p).luffCurrent p
    let g0 := s.grp p
    let cs := (s.req p).commits
    let now0 := failingFaults g0 cs
    let miss := now0.isEmpty && missingCommit s p
    let s1 := if miss then raiseFault s p 0x02 noField noCore else s
    let now1 := if miss then [⟨0x02, g0.cyc⟩] else now0
    let held := !now1.isEmpty && ((s.slice p).st == .suspect || (s.slice p).st == .lost)
    let s1 := if held then raiseFault s1 p 0x14 noField noCore else s1
    let now := if held then now1 ++ [⟨0x14, g0.cyc⟩] else now1
    let ok := now.isEmpty
    let s2 := leftoverCheck s1 p ok
    let bad := !ok && faultsCount now && (g0.guarded || decide (0 < g0.window))
    let s2 := if g0.closed then dropTravel s2 p else s2
    let s3 := sailChecksAct (s2.updGrp p (fun g => g.afterStep now)) p
    let s4 := if g0.quarNext then quarantine s3 p 0x22 else if bad && mayStep s3 p then quarantine s3 p 0x20 else s3
    let s5 := slotEvents s4 p
    let ns := t.toNat - g0.t0
    let s5 := if ok then evrSample s5 9 p noField noCore (ns / 1000) (quarterLog ns 1000) else evrIndex s5 20 p p
    let s6 := settleStep s5 p t.toNat ok g0.esc
    let s7 := stopDrained (applyTlbs s6 p) p
    let s8 := if ok then s7 else s7.eachCore (s7.coresOf p) (fun _ c => c.dropStepData)
    let s9 := s8.updReq p (fun r => { r with commits := [], keff := [] })
    keepWindow (lostToWaiting (if (s9.grp p).held || reloadDue s9 p then s9 else tellEnd s9 p t.toNat) p) p)

/-! ### The start boundary -/

/-- A context at a start boundary: at its entry for the schedule in force, SEQ 0x01 (R108, R206, R248). -/
def Ctx.start (x : Ctx) (hot : Bool) : Ctx :=
  { x.endBundle with pc := if hot then x.entryH else x.entryN, seq := 1#8, ended := !x.loaded, ready := 0, loops := [], busyS := [], busyV := [] }

/-- A sail at a start boundary: a hand-over issued has taken effect, and no operation is under way (R40). -/
def Sail.start (y : Sail) : Sail := { y with owner := (y.hand.map (·.1)).getD y.owner, hand := none, opEnd := 0, opWait := false }

/-- A mast at a start boundary: cycles count from 0, no window is open. -/
def Mast.start (m : Mast) : Mast := { m with path := 0, plan := 0, refEnd := 0, svcEnd := 0, svcRows := 0, svcDone := 0, gapTiers := [] }

/-- A core at a start boundary: phase 0 in force, cycle counts from 0, nothing of the last step left in its router. The step that ended and its interval have taken `past` fc
of the 200 for which a PHASE arms the shunt stage (R222, R403). -/
def Core.start (c : Core) (hot : Bool) (past : Nat) : Core :=
  { c with
    ctx := c.ctx.map (fun x => x.start hot), sails := c.sails.map Sail.start, mast := c.mast.start, router := c.router.dropStep
    phase := 0, winMax := max c.winMax (AMap.at c.decl 0 0), shunt := c.shunt - past, tracks := [], xtabs := [], tsTiles := [], late := [], quiet := [], seen := 0, taken := [], patFrom := 0, vecNext := 0 }

/-- Whether the other ranks' end stamps and, away from rank 0, the boundary record have arrived (R223, R363). -/
def sliceReady (s : State) (p t : Nat) : Bool :=
  let y := s.slice p
  y.mods == 0 || ((s.grp p).step == 0 || (allBelow (y.mods + 1) (fun r => (AMap.find y.stamps r).isSome) &&
    y.stamps.all (fun x => decide (x.2 + 400 ≤ t)) && (y.rank == 0 || y.record.isSome)))

/-- The image slot that the boundary record's entries are bound to away from rank 0: the first LOADED slot whose image spans modules, else the first LOADED. -/
def memberSlot (s : State) (p : Nat) : Nat :=
  let loaded := (List.range 4).filter (fun i => (s.img p i).st == .loaded)
  ((loaded.find? (fun i => decide (rigMods (s.img p i).rig ≠ 0))).or loaded.head?).getD 0

/-- Where a rank other than 0 keeps what it holds for rank 0's entry e: apart from its own partitions' request entries. -/
def mirrorKey (p e : Nat) : Nat := 262144 * (p + 1) + e

/-- Away from rank 0, the boundary record applied: lengths, rollbacks, allocation, parking and release by its flags; a record that no longer asks for a park or
unpark under way ends it (R363). -/
def applyRecord (s : State) (p t : Nat) : State :=
  match (s.slice p).record with
  | none => s
  | some rs =>
    if (s.slice p).rank = 0 then s
    else rs.foldl (fun s r =>
      let e := mirrorKey p (bitsN r 0 18)
      let i := memberSlot s p
      let s0 := if (s.ent e).sled && (s.ent e).res && decide ((s.ent e).len < bitsN r 18 23) then discardSled s e else s
      let s1 := s0.updEnt e (fun x => { x with
        len := bitsN r 18 23, dv := bitsN r 41 23, turn := { x.turn with pend := bitsN r 64 15 }, islot := i, igen := (s.img p i).gen
        st := if bitAt r 84 then .done else if bitAt r 83 then .active else x.st, res := x.res || bitAt r 83 })
      let x := s.ent e
      let s2 :=
        if bitAt r 85 then
          let s2 := beginPark s1 p e t
          if (s2.ent e).work = .parking then s2 else noticeOut s2 p e 0 (s2.ent e).sled
        else if x.work = .parking then (discardSled s1 e).updEnt e (fun y => { y with st := if bitAt r 83 then .active else .done, work := .none })
        else if x.st = .queued ∧ !x.res ∧ bitsN r 83 5 = 0 then
          (if x.unparkBad then discardSled (releasePages s1 p e) e else releasePages s1 p e).updEnt e (fun y => { y with st := if x.unparkBad then .done else .parked })
        else s1
      let s3 := if bitAt r 86 then s2.updEnt e (fun x => { x with st := .queued, res := false, moved := 0, unparkBad := false }) else s2
      let s4 := if bitAt r 88 then s3.updGrp p (fun g => { g with guarded := true }) else s3
      if bitAt r 87 then settle ((releasePages s4 p e).updEnt e (fun x => { x with work := .releasing })) p e t else s4) s

/-- Slots that every member holds LOADED step from here on (R371). -/
def joinSlots (s : State) (p : Nat) : State :=
  (List.range 4).foldl (fun s i => if (s.img p i).st = .loaded ∧ allHold s p i = true then s.updImg p i (fun x => { x with joined := true }) else s) s

/-- What has met the slots of a partition since its end boundary: faults raised in a hold, a reset asked for (R356, R442, R443). -/
def holdEvents (s : State) (p t : Nat) : State := joinSlots (stopDrained (endMarked (slotEvents s p) p t) p) p

/-- STEP_START_BOUNDARY: the boundary interval's changes take effect against the stamp t, and the next step starts, unless no slot is left to step. -/
def execStepStartBoundary (p : Fin 64) (t : Dword) (s0 : State) : Out :=
  let g := s0.grp p
  .next (if g.inStep || g.held || g.items.any (fun i => i.boundary && !i.ended) || !mayStep s0 p || !sliceReady s0 p t.toNat then s0
  else
    let s := holdEvents (s0.atTick t) p t.toNat
    if !mayStep s p then s
    else
      let s1 := applySettings (applyRecord s p t.toNat) p
      let s2 := if (s.slice p).mods ≠ 0 ∧ (s.slice p).rank = 0 then s1 else serveQueues s1 p t.toNat
      let hot := (s2.part p).hot
      let live := (s2.coresOf p).filter (fun m => match s2.slotOfField (m / 192) with | some i => slotSteps s2 p i | none => false)
      let s3 := s2.eachCore live (fun _ c => c.start hot (g.cyc + 24))
      let s4 := s3.updGrp p (fun g => { g with
        inStep := true, stepping := true, startReady := false, cyc := 0, step := g.step + 1, t0 := t.toNat, faults := g.carry, carry := [], items := [], stalled := none, closed := false })
      let s5 := s4.updSlice p (fun y => { y with seen := [], gates := [], stamps := [], record := none })
      keepWindow (sendStepRecords (s5.updReq p (fun r => { r with commits := [], keff := [] })) p) p)

/-- IDLE_BOUNDARY: the boundary work that needs no step, for a partition that does not step (R578). -/
def execIdleBoundary (p : Fin 64) (t : Dword) (s0 : State) : Out :=
  .next (if (s0.grp p).inStep || isStepping s0 p || t.toNat % 1000000 != 0 then s0
  else
    let s := boundaryPower (s0.atTick t) p
    let s1 := endMarked (slotEvents s p) p t.toNat
    let s2 := applySettings (applyTlbs s1 p) p
    keepWindow (lostToWaiting ((stopDrained (endQueued s2 p t.toNat) p).updGrp p (fun g => { g with stepping := false })) p) p)

/-! ### The entry window (R265, R271, R285, R311) -/

/-- The code of STATE (Table 11.3). -/
def EntSt.code : EntSt → Nat
  | .free => 0
  | .queued => 1
  | .active => 2
  | .parked => 3
  | .draining => 4
  | .done => 5

/-- PAGE_ROOT (Table 13.4). -/
def Entry.pageRoot (x : Entry) : Nat := x.rid.getD 0 + 2 ^ 16 * b2n x.rid.isSome + (if x.sled then 2 ^ 17 * x.sledPort else 0)

/-- A request entry's 64 bytes (Table 11.1). -/
def Entry.bits (x : Entry) : BitVec 512 :=
  if x.st = .free then 0#512
  else
    let u := x.turn
    packFields 512 [(0, 3, x.st.code), (3, 3, u.prio), (6, 1, b2n u.retain), (7, 1, b2n x.cancel), (8, 8, u.tq), (16, 2, x.islot), (18, 14, x.igen),
      (32, 23, x.len), (55, 1, b2n x.res), (56, 1, b2n x.cont), (57, 1, b2n u.pfo), (58, 4, u.specK), (62, 2, u.specMode),
      (64, 23, u.limit), (87, 1, b2n x.rptWait), (88, 1, b2n x.sled), (96, 32, x.pageRoot), (128, 64, u.deadline), (192, 64, u.seed.toNat),
      (256, 32, x.ringHead), (288, 16, u.stopset), (304, 12, u.autoId), (316, 4, u.cut), (320, 16, x.autoState), (336, 12, x.dslot),
      (352, 16, u.temp.toNat), (368, 16, u.topp.toNat), (384, 16, u.topk), (400, 15, u.pend), (416, 32, u.userTag), (448, 64, u.tEnq)]

/-- REQ_WIN[i]: word i of the entry that REQ_WIN_IDX names, as it stood at its partition's last boundary; a virtual function sees its own partition's entries (R285). -/
def reqWin (s : State) (f i : Nat) : Nat :=
  let e := if f = 0 then s.table.winIdx else (s.fn f).winIdx
  let p := partOfEntry s e
  if f ≠ 0 ∧ f ≠ p + 1 then 0 else bitsN (AMap.at (s.req p).window {} e).bits (32 * i) 32

/-! ### Declared current (R236, R237) -/

/-- IMAGE_CURRENT_WINDOW: a core's mean output current over a 64 fc window, in mA, against 1.1 times the largest declaration in force within it, the luff ceiling's among them
while the group stalls or stands between two steps. -/
def execImageCurrentWindow (core : Fin 9216) (mean : Nat) (s : State) : Out :=
  let p := s.corePart core
  let g := s.grp p
  let c := s.core core
  let now := max (AMap.at c.decl 0 c.phase) (if g.inStep && g.stalled.isNone then 0 else AMap.at c.decl 0 256)
  let limit := max c.winMax now
  let s1 := s.updCore core (fun c => { c with winMax := now })
  .next (if 10 * mean ≤ 11 * limit ∨ mayStep s p = false then s1
  else (endStepNow (failStep (raiseFault s1 p 0x41 (core / 192) (core % 192)) p 0x41) p).updGrp p (fun g => { g with quarNext := true }))

end Sys2Proof.Machine
end

