-- ==== Sys2Proof/Machine/SheetEvents.lean ====
section
/-! DEFINITION. The sheet fabric: frames, waits and gates, slices, the cabling check, time between modules (15). -/

namespace Sys2Proof.Machine

/-! ### Frame headers (Table 15.6) -/

def fhStep (h : BitVec 128) : Nat := bitsN h 4 8
def fhId (h : BitVec 128) : Nat := bitsN h 12 16
def fhRank (h : BitVec 128) : Nat := bitsN h 28 3
def fhErr (h : BitVec 128) : Bool := bitAt h 31
def fhRoute (h : BitVec 128) : Nat := bitsN h 32 8
def fhFidx (h : BitVec 128) : Nat := bitsN h 40 9
def fhNflit (h : BitVec 128) : Nat := bitsN h 49 6 + 1
def fhTime (h : BitVec 128) : Nat := bitsN h 64 64

/-- The partition that accepts a frame on a port, if any (R364). -/
def accepts (s : State) (i : Nat) (h : BitVec 128) : Option Nat :=
  match partOfSlice s (fhId h) with
  | none => none
  | some p => if (s.port i).enabled && ((s.port i).peer.map (·.1)) == some ((s.slice p).serials.getD (fhRank h) 0#64) then some p else none

/-- A frame refused: logged and counted on its port and for the partition it names (R364). -/
def refuseFrame (s : State) (i : Nat) (h : BitVec 128) : State :=
  let who := partOfSlice s (fhId h)
  let s1 := (shtLog s i 2 (who.getD 0) (fhId h) (fhRank h) 0).updPort i (fun y => { y with iso := satAdd 0xFFFF y.iso 1 })
  match who with
  | some p => s1.updSlice p (fun y => { y with iso := satAdd 0xFFFF y.iso 1 })
  | none => s1

/-- A frame that its receiver accepts acted on, or refused. -/
def onFrame (s : State) (i : Nat) (h : BitVec 128) (f : Nat → State → State) : State :=
  match accepts s i h with
  | some p => f p s
  | none => refuseFrame s i h

/-- Stray flits: each discarded, logged and counted; the step fails (R361). -/
def stray (s : State) (i p : Nat) (h : BitVec 128) (n : Nat) : State :=
  let s1 := (iter n 0 (fun _ s => shtLog s i 3 p (fhId h) (fhRank h) 0) s).updSlice p (fun y => { y with stray := satAdd 0xFFFF y.stray n })
  failStep (raiseFault s1 p 0x0A noField noCore) p 0x0A

/-- The flits of a TENSOR frame on their way into the mesh. `dst` is the frame's own destination word: handle, offset, tag, retention and the route's core. -/
def tensorFlits (s : State) (p : Nat) (h : BitVec 128) (dst : BitVec 64) (fl : List (Slot × Bool)) : List Flit :=
  let i := ((List.range 4).find? (fun i => (s.img p i).serving && (s.img p i).sheet.recvs.any (fun r => bitsN r 0 3 == fhRank h && bitsN r 3 8 == fhRoute h))).getD 0
  let d := placeCore s (s.img p i) (bitsN dst 28 3) (bitsN dst 31 3) (bitsN dst 34 4) (bitsN dst 38 4)
  ((List.range fl.length).zip fl).map (fun e =>
    { src := 9216, trk := 0, part := p, dst := d, ctx := bitsN dst 42 2, handle := bitsN dst 0 5, ofs := 16 * bitsN dst 5 14 + 64 * (fhFidx h + e.1),
      tag := bits dst 19 8, hold := bitAt dst 27, data := e.2.1, poison := e.2.2, due := 0, vc := 2, sheet := some (fhRank h, fhRoute h) })

/-- SHEET_TENSOR_FRAME: delivered into the mesh, stray, or refused with a CREDIT that has ERR set. -/
def execSheetTensorFrame (i : Fin 8) (h : BitVec 128) (dst : BitVec 64) (fl : List (BitVec 512 × Bool)) (s : State) : Out :=
  .next (match accepts s i h with
  | none =>
    let own := match partOfSlice s (fhId h) with | some p => (s.slice p).rank | none => 0
    emit (refuseFrame s i h) (.sheet i 1 (frameHead 1 (fhStep h) (fhId h) own true (fhRoute h) (fhFidx h) (fhNflit h - 1) s.tb.toNat).toNat)
  | some p =>
    let key := 256 * fhRank h + fhRoute h
    let n := AMap.at (s.slice p).seen 0 key + (s.fab.flits.filter (fun f => f.part == p && f.sheet == some (fhRank h, fhRoute h))).length
    match recvEntry s p (fhRank h) (fhRoute h) with
    | none => stray s i p h fl.length
    | some r =>
      if fhStep h ≠ (s.grp p).step % 256 then stray s i p h fl.length
      else
        let room := bitsN r 11 9 + 1 - n
        let s1 := launch s (tensorFlits s p h dst (fl.take room))
        if room < fl.length then stray s1 i p h (fl.length - room) else s1)

/-- SHEET_CREDIT_FRAME: flits of a send credited; with the last its tracker entry is released. A refusal fails the sender's step (R359, R364). -/
def execSheetCreditFrame (i : Fin 8) (h : BitVec 128) (s : State) : Out :=
  .next (onFrame s i h (fun p s =>
    match (s.slice p).sends.find? (fun x => x.rank == fhRank h && x.route == fhRoute h) with
    | none => s
    | some x =>
      let y := { x with left := x.left - fhNflit h }
      let s1 := s.updSlice p (fun z => { z with sends := if y.left = 0 then z.sends.erase x else z.sends.map (fun k => if k = x then y else k) })
      let s2 := if y.left = 0 then s1.updCore x.core (fun c => c.freeTrk x.trk) else s1
      if fhErr h then coreFault s2 x.core 0x07 else s2))

/-- SHEET_GATE_FRAME: a rank's outcome at rank 0; a failure asserts the step-fail line (R362). -/
def execSheetGateFrame (i : Fin 8) (h : BitVec 128) (s : State) : Out :=
  .next (onFrame s i h (fun p s =>
    if (s.slice p).rank ≠ 0 ∨ fhStep h ≠ (s.grp p).step % 256 then s
    else
      let s1 := s.updSlice p (fun y => { y with gates := AMap.put y.gates (fhRank h) (fhErr h) })
      let s2 := if fhErr h then failStep (raiseFault s1 p 0x13 noField noCore) p 0x13 else s1
      if allBelow ((s2.slice p).mods + 1) (fun r => r == 0 || (AMap.find (s2.slice p).gates r).isSome) then endLuff s2 p .gateWait else s2))

/-- SHEET_WAIT_ARM: at DUE - 20 with flits missing (R361). -/
def execSheetWaitArm (p : Fin 64) (rank : Fin 8) (route : Fin 256) (s : State) : Out :=
  let key := 256 * rank.val + route.val
  .next (match recvEntry s p rank route with
  | none => s
  | some r =>
    if (s.grp p).inStep ∧ AMap.at (s.slice p).seen 0 key < bitsN r 11 9 + 1 then
      armLuff (s.updSlice p (fun y => { y with waits := satAdd 0xFFFFFFFF y.waits 1 })) p (.sheetWait key) (bitsN r 32 32)
    else s)

/-- GATE_DUE_ARM: at GATE_DUE - 20 with a gate missing (R362). -/
def execGateDueArm (p : Fin 64) (s : State) : Out :=
  let y := s.slice p
  let due := ((s.part p).slots.toList.filter ImgSlot.serving).foldl (fun a x => max a x.sheet.gateDue) 0
  .next (if y.mods != 0 && y.rank == 0 && (s.grp p).inStep && anyBelow (y.mods + 1) (fun r => r != 0 && (AMap.find y.gates r).isNone) then
    armLuff (s.updSlice p (fun y => { y with waits := satAdd 0xFFFFFFFF y.waits 1 })) p .gateWait due
  else s)

/-! ### Slices (R365, R366) -/

/-- Whether a rank is reachable on an enabled port. -/
def reachable (s : State) (p r : Nat) : Bool := r == (s.slice p).rank || !(portsTo s (s.slice p) r).isEmpty

/-- The ticks since which ranks are unreachable, kept; a slice that has lost a rank waits for its stamp (Table 15.8). -/
def noteReach (s : State) (p : Nat) : State :=
  s.updSlice p (fun y =>
    let gone := (otherRanks y).filter (fun r => !reachable s p r)
    { y with
      downAt := gone.map (fun r => (r, (AMap.find y.downAt r).getD s.tb.toNat))
      late := if y.st = .up ∨ y.st = .suspect then y.late ++ gone.filter (fun r => !y.late.contains r) else y.late })

/-- A slice that has what it needs comes UP: every other rank reachable, its record the same, its slots LOADED with the matching rank; a SUSPECT one comes back once every
member is reachable and the stamps that it waits for are there (Table 15.8). -/
def checkSlice (s0 : State) (p : Nat) : State :=
  let s := noteReach s0 p
  let y := s.slice p
  let all := (otherRanks y).all (reachable s p)
  match y.st with
  | .waiting =>
    if all && (otherRanks y).all (fun r => y.agree.contains r) && (List.range 4).all (fun i => (s.img p i).st != .loaded || allHold s p i) then
      setSlice (s.updSlice p (fun y => { y with late := [] })) p .up
    else s
  | .suspect => if all && y.late.all (fun r => (AMap.find y.stamps r).isSome) then setSlice (s.updSlice p (fun y => { y with late := [] })) p .up else s
  | .up => if all then s else setSlice s p .suspect
  | _ => s

/-- Every slice partition's state judged anew. -/
def checkSlices (s : State) : State := (List.range 64).foldl (fun s p => if (s.slice p).st = .none then s else checkSlice s p) s

/-- Whether rank r has been unreachable for SLICE_LOSS_MS at tick t (R365, R388). -/
def lossPassed (s : State) (p t r : Nat) : Bool :=
  !reachable s p r && (match AMap.find (s.slice p).downAt r with | some u => decide (u + 1000000 * s.sheet.lossMs < t) | none => false)

/-- Whether rank r's end stamp is missing `wait` ns after this module's own (R223, R365, R388). DEDUCED: notes/assumptions/110.md. -/
def stampPassed (s : State) (p t r wait : Nat) : Bool :=
  let y := s.slice p
  (AMap.find y.stamps r).isNone && (match AMap.find y.stamps y.rank with | some u => decide (u + wait < t) | none => false)

/-- A slice LOST through rank r, and through every other rank whose time has passed too: sends that wait for a lost rank's credits are given up, its step fails, its items end
with SLICE_LOST (R366). -/
def loseSlice (s : State) (p r : Nat) : State :=
  let y := s.slice p
  let t := s.tb.toNat
  let lost := (otherRanks y).filter (fun k => k == r || lossPassed s p t k || stampPassed s p t k (1000000 * s.sheet.stampMs))
  let s0 := (y.sends.filter (fun x => lost.contains x.rank)).foldl (fun s x => s.updCore x.core (fun c => c.freeTrk x.trk)) s
  let s1 := setSlice (shtLog s0 0 4 p y.id r 0) p .lost
  let s2 := s1.updSlice p (fun y => { y with
    lostMask := lost.foldl (fun a k => a + 2 ^ k) 0, lostCnt := satAdd 0xFFFF y.lostCnt 1, late := [], sends := y.sends.filter (fun x => !lost.contains x.rank)
    agree := y.agree.filter (reachable s p) })
  let s3 := if (s2.grp p).inStep then failStep s2 p 0x14 else s2
  partFault s3 p 0x4B noField noCore 0x25 [0, 1, 2, 3]

/-- SHEET_END_STAMP_FRAME: a member's stamp, with the boundary record from rank 0 (R223, R363). -/
def execSheetEndStampFrame (i : Fin 8) (h : BitVec 128) (recs : List (BitVec 128)) (s : State) : Out :=
  .next (onFrame s i h (fun p s =>
    let s1 := s.updSlice p (fun y => { y with
      stamps := AMap.put y.stamps (fhRank h) (fhTime h)
      record := if fhRank h = 0 then some recs else y.record })
    checkSlice s1 p))

/-- SHEET_NOTICE_FRAME: what 0 a park's outcome, 1 an unpark's, 2 slot e no longer LOADED, 3 a reset, 4 slot e LOADED with the sender's rank (R356, R363, Table 15.8). -/
def execSheetNoticeFrame (i : Fin 8) (h : BitVec 128) (what : Fin 5) (ok : Bool) (e : Fin 262144) (s : State) : Out :=
  .next (onFrame s i h (fun p s =>
    let r := fhRank h
    if what.val = 4 then checkSlice (s.updSlice p (fun y => { y with held := AMap.upd y.held [] r (fun l => if l.contains e.val then l else l ++ [e.val]) })) p
    else if 2 ≤ what.val then
      let s1 := s.updSlice p (fun y => { y with held := if what.val = 3 then AMap.del y.held r else AMap.upd y.held [] r (fun l => l.filter (· != e.val)) })
      (if ((s.slice p).st = .up ∧ what.val = 3) ∨ (s.slice p).st = .suspect then loseSlice s1 p r else s1)
    else
      let s1 := s.updSlice p (fun y => { y with notices := y.notices ++ [(fhRank h, e.val, ok)] })
      let x := s1.ent e
      if what.val = 0 then
        (if x.work ≠ .parking then s1
         else if !ok then parkFailed s1 p e none true s1.tb.toNat
         else if x.moved = x.sledPages.length then tryConfirm s1 p e s1.tb.toNat else s1)
      else if !ok then s1.updEnt e (fun y => { y with unparkBad := true })
      else if x.st = .queued ∧ !x.res ∧ pagesComplete s1 p e ∧ othersConfirm s1 p e then s1.updEnt e (fun y => { y with res := true }) else s1))

/-- SLICE_STAMP_LATE: a member's stamp is 1 ms late. -/
def execSliceStampLate (p : Fin 64) (rt : Timed (Fin 8)) (s0 : State) : Out :=
  let r := rt.val
  let t := rt.tick
  let y := s0.slice p
  .next (if (y.st = .up ∨ y.st = .suspect) ∧ stampPassed s0 p t.toNat r 1000000 = true ∧ (otherRanks y).contains r.val = true then
    setSlice ((s0.atTick t).updSlice p (fun y => { y with late := if y.late.contains r.val then y.late else y.late ++ [r.val] })) p .suspect
  else s0)

/-- SLICE_LOSS_TIMEOUT: no enabled port to a member for SLICE_LOSS_MS. -/
def execSliceLossTimeout (p : Fin 64) (rt : Timed (Fin 8)) (s : State) : Out :=
  let r := rt.val
  let t := rt.tick
  .next (if (s.slice p).st = .suspect ∧ lossPassed s p t.toNat r = true ∧ (otherRanks (s.slice p)).contains r.val = true then loseSlice (s.atTick t) p r else s)

/-- STAMP_WAIT_TIMEOUT: a member's stamp missing for STAMP_WAIT_MS. -/
def execStampWaitTimeout (p : Fin 64) (rt : Timed (Fin 8)) (s : State) : Out :=
  let r := rt.val
  let t := rt.tick
  .next (if (s.slice p).st = .suspect ∧ stampPassed s p t.toNat r (1000000 * s.sheet.stampMs) = true ∧ (otherRanks (s.slice p)).contains r.val = true then
    loseSlice (s.atTick t) p r
  else s)

/-! ### Time between modules (R368) -/

/-- The lowest enabled port whose peer has the lowest serial below the module's own. -/
def timePeer (s : State) : Option Nat :=
  (List.range 8).foldl (fun a i =>
    match (s.port i).enabled, (s.port i).peer with
    | true, some (x, _) =>
      if x.toNat < s.serial.toNat then
        (match a with
         | none => some i
         | some j => if x.toNat < (((s.port j).peer.map (·.1)).getD 0#64).toNat then some i else a)
      else a
    | _, _ => a) none

/-- The module's time role judged anew: it follows the joined peer with the lowest serial, or leads. Where the leader that it had is lost, the next lock
may step the time base once more (R386, Table 15.12), and without another the module runs free (Table 16.12). -/
def updRole (s : State) : State :=
  let had := s.sheet.locked || s.sheet.hold
  match timePeer s with
  | none =>
    { s with
      sheet := { s.sheet with leader := true, locked := false, hold := false, stepped := s.sheet.stepped && !had, tport := 0, sentAt := none }
      sys := { s.sys with clk := { s.sys.clk with source := if s.sys.clk.source = 2 then 0 else s.sys.clk.source } } }
  | some i =>
    let same := !s.sheet.leader && ((s.port s.sheet.tport).peer.map (·.1)) == ((s.port i).peer.map (·.1))
    { s with
      sheet := { s.sheet with
        leader := false, tport := i, locked := s.sheet.locked && same, stepped := s.sheet.stepped && (same || !had)
        sentAt := if same then s.sheet.sentAt else none, lastTime := if same then s.sheet.lastTime else s.tb.toNat }
      sys := { s.sys with pins := { s.sys.pins with ptpLocked := false }
                          clk := { s.sys.clk with source := if s.sys.clk.source = 1 then 0 else s.sys.clk.source } } }

/-- The one-way delay and the offset to the peer (own time minus the peer's) that an exchange gives: sent at t1, received by the peer at t2, answered at t3, received at
t4, with the port pair's calibrated asymmetry (R368). -/
def timeExchange (s : State) (i t1 t2 t3 t4 : Nat) : Int × Int :=
  let delay := ((t4 - t1 : Int) - (t3 - t2)) / 2 + Config.asymmetry s.serial i (((s.port i).peer.map (·.2)).getD 0)
  (delay, t4 - (t3 + delay))

/-- SHEET_TIME_FRAME: on the port of a follower the answer to its own frame, with the peer's receive stamp; at first lock the time base steps. From a peer with a higher
serial a question, which is answered with its receive stamp (R368). -/
def execSheetTimeFrame (i : Fin 8) (h : BitVec 128) (x : Timed Dword) (s0 : State) : Out :=
  let recv := x.val
  let t := x.tick
  let s := s0.atTick t
  .next (if !(s0.port i).enabled then s0
  else if !s.sheet.leader && s.sheet.tport == i.val then
    match s.sheet.sentAt with
    | none => s0
    | some t1 =>
      let (delay, offset) := timeExchange s i t1 recv.toNat (fhTime h) t.toNat
      let s1 := if s.sheet.stepped then s else (moveTime s (s.tb - BitVec.ofInt 64 offset)).updClk (fun c => { c with firstLock := true })
      let s2 := newRate (s1.updClk (fun c => { c with source := 2 }))
      { s2 with sheet := { s2.sheet with
          offset := BitVec.ofInt 32 offset, delay := BitVec.ofInt 32 delay, locked := true, hold := false, stepped := true, sentAt := none, lastTime := s2.tb.toNat } }
  else if (match (s.port i).peer with | some x => decide (s.serial.toNat < x.1.toNat) | none => false) then
    putFrame s i 6 ((frameHead 6 0 0 0 false 0 0 0 t.toNat).toNat + 2 ^ 128 * t.toNat)
  else s0)

/-- TIME_EXCHANGE_TICK: a follower sends its TIME frame, stamped with the time base as it stands. The links' retries since the last tick, of which no row tells, are free values. DESIGN CHOICE:
notes/assumptions/110.md. -/
def execTimeExchangeTick (s1 : State) : Out :=
  let s := { s1 with
    free := s1.free + 1
    sheet := { s1.sheet with ports := AMap.mapAll s1.sheet.ports (fun i y => if y.link then { y with retry := satAdd 0xFFFF y.retry ((Config.freeValue s1.free).toNat / 2 ^ (16 * i) % 2 ^ 16) } else y) } }
  .next (if s.sheet.leader || !(s.port s.sheet.tport).enabled then s
  else
    let s2 := putFrame s s.sheet.tport 6 (frameHead 6 0 0 0 false 0 0 0 s.tb.toNat).toNat
    { s2 with sheet := { s2.sheet with sentAt := some s.tb.toNat } })

/-- TIME_HOLD_TIMEOUT: exchanges stopped for 10 ms, as the time base stands. -/
def execTimeHoldTimeout (s : State) : Out :=
  .next (if s.sheet.leader || s.sheet.hold || decide (s.tb.toNat ≤ s.sheet.lastTime + 10000000) then s
  else raisePort { shtLog s s.sheet.tport 6 0 0 0 0 with sheet := { (shtLog s s.sheet.tport 6 0 0 0 0).sheet with hold := true, locked := false } } none 0x58)

/-! ### The cabling check (R367) -/

/-- The code of a verdict (Table 15.10). -/
def Verdict.code : Verdict → Nat
  | .unused => 0
  | .down => 1
  | .checking => 2
  | .ok => 3
  | .miscabled => 4
  | .swapped => 5
  | .swapFixed => 6
  | .peerRefused => 7
  | .foreignPlan => 8

/-- The planned ports to a peer. -/
def plannedTo (s : State) (x : Dword) : List Nat := (List.range 8).filter (fun j => (s.port j).planSerial == x)

/-- A port's own verdict on the peer it has found; none while it depends on ports to the same peer that are not up. -/
def ownVerdict (s : State) (i : Nat) (timeout : Bool) : Option Verdict :=
  let y := s.port i
  match y.peer with
  | none => none
  | some (x, q) =>
    if x = y.planSerial ∧ q = y.planPort then some .ok
    else if x ≠ y.planSerial then some .miscabled
    else
      let js := plannedTo s x
      let found := js.filterMap (fun j => (s.port j).peer)
      if !timeout && !js.all (fun j => (s.port j).peer.isSome) then none
      else
        let actual := found.filterMap (fun z => if z.1 = x then some z.2 else none)
        let plan := js.map (fun j => (s.port j).planPort)
        if sortBy id actual = sortBy id plan then some (if s.sheet.swapFix then .swapFixed else .swapped) else some .miscabled

/-- Whether a verdict is good. -/
def Verdict.good (v : Verdict) : Bool := v == .ok || v == .swapFixed

/-- The peer of a port that has been enabled told which slots its slices hold LOADED. -/
def tellPeer (s : State) (i : Nat) : State :=
  (List.range 64).foldl (fun s p =>
    ((otherRanks (s.slice p)).filter (fun r => (s.slice p).mods != 0 && some ((s.slice p).serials.getD r 0#64) == (s.port i).peer.map (·.1))).foldl (fun s r =>
      (List.range 4).foldl (fun s k => tellHeld s p k r) s) s) s

/-- A port's verdict shown: enabled only where both ends judge it good. -/
def showVerdict (s : State) (i : Nat) (v : Verdict) : State :=
  let y := s.port i
  let shown := if v.good then (match y.peerGood with | some true => v | some false => .peerRefused | none => .checking) else v
  if y.check = shown then s.updPort i (fun z => { z with own := some v })
  else
    let s1 := s.updPort i (fun z => { z with own := some v, check := shown, enabled := shown.good })
    let s2 := if shown = .ok ∨ shown = .checking then s1 else raisePort (shtLog s1 i 1 0 0 0 shown.code) none 0x57
    checkSlices (if shown.good then tellPeer (updRole s2) i else updRole s2)

/-- Every port to the same peer judged. -/
def judgePorts (s : State) (i : Nat) (timeout : Bool) : State :=
  (List.range 8).foldl (fun s j =>
    if j = i ∨ ((s.port j).planSerial = (s.port i).planSerial ∧ (s.port j).peer.isSome ∧ (s.port j).check = .checking) then
      (match ownVerdict s j timeout with | some v => showVerdict s j v | none => s)
    else s) s

/-- Whether the lasers of a sheet port are lit: a port whose plan entry is UNUSED stays dark (R572). -/
def sheetLit (s : State) (i : Nat) : Bool := s.farOptics && (s.port i).planSerial != 0#64

/-- SHEET_PORT_LINK_UP: the lanes of a lit port lock and the identity exchange begins; under a foreign plan none does. -/
def execSheetPortLinkUp (x : Timed (Fin 8)) (s0 : State) : Out :=
  let i := x.val
  let t := x.tick
  let s := s0.atTick t
  .next (if !sheetLit s0 i then s0
  else
    let s1 := s.updPort i (fun y => { y with link := true, upAt := t.toNat, flight := [], peer := none, peerGood := none, own := none, enabled := false })
    if s.sheet.planOwn ≠ s.serial then raisePort (shtLog (s1.updPort i (fun y => { y with check := .foreignPlan })) i 1 0 0 0 8) none 0x57
    else putFrame (s1.updPort i (fun y => { y with check := .checking })) i 5 ((frameHead 5 0 0 0 false 0 0 0 t.toNat).toNat + 2 ^ 128 * (s.serial.toNat + 2 ^ 64 * i.val)))

/-- SHEET_IDENT_FRAME: the peer's serial and port, its own verdict once it has one, and whether its record of a shared slice agrees. -/
def execSheetIdentFrame (i : Fin 8) (serial : Dword) (port : Fin 8) (peerGood agrees : Option Bool) (s : State) : Out :=
  .next (if (s.port i).link = false ∨ (s.port i).check = .foreignPlan then s
  else
    let s1 := s.updPort i (fun y => { y with peer := some (serial, port.val), peerGood := peerGood })
    let s2 := (List.range 64).foldl (fun s p =>
      let y := s.slice p
      let rs := (List.range (y.mods + 1)).filter (fun r => r != y.rank && y.serials.getD r 0#64 == serial)
      match rs, agrees with
      | r :: _, some true =>
        let s1 := s.updSlice p (fun z => { z with agree := if z.agree.contains r then z.agree else z.agree ++ [r], disagree := z.disagree.filter (· != r) })
        if y.st = .conflict ∧ (s1.slice p).disagree.isEmpty = true then setSlice s1 p .waiting else s1
      | r :: _, some false =>
        let s := s.updSlice p (fun z => { z with agree := z.agree.filter (· != r), disagree := if z.disagree.contains r then z.disagree else z.disagree ++ [r] })
        if y.st = .waiting ∨ y.st = .up then raiseFault (setSlice (shtLog s i 5 p y.id r 0) p .conflict) p 0x57 noField noCore else s
      | _, _ => s) s1
    checkSlices (judgePorts s2 i false))

/-- The tick at which the first of the planned ports to a port's planned peer came up. -/
def firstUp (s : State) (i : Nat) : Option Nat :=
  ((plannedTo s (s.port i).planSerial).filter (fun j => (s.port j).link)).foldl (fun a j => match a with | none => some (s.port j).upAt | some u => some (min u (s.port j).upAt)) none

/-- CABLING_VERDICT_TIMEOUT: 2 s after the first planned port to a peer came up, waiting verdicts are reached. -/
def execCablingVerdictTimeout (x : Timed (Fin 8)) (s : State) : Out :=
  let i := x.val
  let t := x.tick
  .next (match firstUp s i with
  | some u => if u + 2000000000 < t.toNat then judgePorts (s.atTick t) i true else s
  | none => s)

/-- The frames in flight on a port that has gone down sent again on the lowest other enabled port to the same peer (R367). -/
def resend (s : State) (i lost : Nat) : State :=
  let y := s.port i
  let fs := y.flight.filter (fun f => decide (s.tb.toNat ≤ f.1 + 350))
  match (List.range 8).find? (fun j => j != i && (s.port j).enabled && (s.port j).peer.map (·.1) == y.peer.map (·.1)) with
  | none => s
  | some j => (fs.drop (fs.length - lost)).foldl (fun s f => putFrame s j f.2.1 f.2.2) s

/-- SHEET_PORT_LINK_DOWN: lane lock lost; what was in flight is sent again, and the port is judged anew at its next link-up. -/
def execSheetPortLinkDown (x : PortLoss) (s0 : State) : Out :=
  let i := x.port
  .next (if (s0.port i).link = false then s0
  else
    let s := resend (s0.atTick x.tick) i x.lost
    let s1 := (shtLog s i 0 0 0 0 0).updPort i (fun y => { y with
      link := false, enabled := false, flight := [], peer := none, peerGood := none, own := none, downCnt := satAdd 0xFF y.downCnt 1
      check := if y.check = .foreignPlan then .foreignPlan else .down })
    let s2 := updRole (raisePort s1 none 0x56)
    checkSlices s2)

end Sys2Proof.Machine
end

