-- ==== Sys2Proof/Machine/Legal.lean ====
section
/-! DEFINITION. The loader's check of a bundle (08 R179, R182, R185, R210). -/

namespace Sys2Proof.Machine

/-- What the loader knows of the image while it checks a core: sails, slice, routes, the handle count that an LH must stay below, whether PHASE and VPAT may stand where it looks,
the rig's extent, the length of the CORE_STATE section, the TOPSAIL sections as (DEST, LENGTH). -/
structure LegalCtx where
  sails : Nat
  mods : Nat
  rank : Nat
  routes : Nat
  tcnt : Nat
  tc0 : Bool
  wf : Nat
  hf : Nat
  csLen : Nat := 0
  tops : List (Nat × Nat) := []
  deriving DecidableEq, Repr

/-- Any of some fields, given by place and width, is not zero. -/
def anySet {n : Nat} (w : BitVec n) (fs : List (Nat × Nat)) : Bool := fs.any (fun f => bitsN w f.1 f.2 != 0)

/-! ### Causes of each slot -/

/-- The sail slot (Tables 8.5 and 8.6). -/
def sailCauses (x : LegalCtx) (w : BitVec 80) : List (Bool × Nat) :=
  let o := spoAt w 8
  let sail := [(decide (x.sails ≤ sailOf w), 7)]
  let wide := decide (512 < mmAcc w + mmRows w)
  match bitsN w 0 6 with
  | 0x00 => []
  | 0x01 => sail ++ [(anySet w [(38, 3), (41, 39)] || bitsN w 36 2 == 3, 2), (!o.reads, 3), (bitsN w 36 2 == 0 && !fmtOk (bitsN w 32 4), 5)]
  | 0x02 => sail ++ [(anySet w [(77, 3)] || mmStart w == 3 || wide, 2), (o.mode != 0, 3)]
  | 0x03 => sail ++ [(anySet w [(47, 33)] || wide, 2), (!o.reads, 3)]
  | 0x04 => sail ++ [(anySet w [(50, 30)] || mmStart w == 3 || wide, 2), (!o.reads, 3)]
  | 0x05 | 0x06 | 0x07 | 0x08 => sail ++ [(anySet w [(28, 4), (37, 43)], 2)]
  | _ => [(true, 1)]

/-- The operand types that a register form of the vector slot takes. -/
def vecTypes (op : Nat) : List Nat :=
  if op = 5 ∨ op = 6 ∨ op = 7 then [0, 2] else if 0x0A ≤ op ∧ op ≤ 0x0E then [0] else if op = 0x16 then [0, 1] else [0, 1, 2]

/-- The vector slot (Tables 8.7 and 8.8). -/
def vecCauses (x : LegalCtx) (w : BitVec 44) : List (Bool × Nat) :=
  let op := vOp w
  let o := spoAt w 16
  let d := spoAt w 17
  if op = 0 then []
  else if op ≤ 0x11 ∨ op = 0x16 then
    vecChecks w (vecTypes op) ++ [((op == 7 && vCc w == 7) || (op == 9 && vCc w % 4 == 3), 2)]
  else if op = 0x12 ∨ op = 0x13 then [(bitsN w 43 1 != 0 || bitsN w 40 2 == 3, 2), (if op = 0x12 then !o.reads else !o.writes, 3), (op == 0x13 && o.ofs % 4 != 0, 4)]
  else if op = 0x17 then [(bitsN w 43 1 != 0 || decide (2 ≤ bitsN w 40 2) || (bitsN w 40 2 == 1 && bitAt w 42), 2), (!o.reads, 3)]
  else if op = 0x14 then
    [(decide (x.sails ≤ bitsN w 6 2), 7), (bitsN w 43 1 != 0 || bitsN w 41 2 == 3, 2), (!d.writes, 3), (d.ofs % 4 != 0, 4)]
  else if op = 0x15 then [(decide (x.sails ≤ bitsN w 6 2), 7), (anySet w [(25, 19)], 2)]
  else if op = 0x18 then [(decide (7 < bitsN w 26 5), 1), (bitsN w 31 13 != 0, 2)]
  else [(true, 1)]

/-- The move slot (Tables 8.11 and 8.12, R201). -/
def moveCauses (x : LegalCtx) (w : BitVec 80) : List (Bool × Nat) :=
  let o := mvSpo w
  let fyv := bitsN w 33 3
  match mvOp w with
  | 0x00 => []
  | 0x01 => [(anySet w [(40, 40)], 2), (!o.writes, 3), (o.ofs % 4 != 0, 4)]
  | 0x02 => [(anySet w [(40, 40)], 2), (!o.reads, 3)]
  | 0x03 =>
    let d := spoAt w 46
    let cx := bitsN w 36 4
    let cy := bitsN w 40 4
    [(!o.reads || !d.writes, 3), (d.ofs % 4 != 0, 4), (bitAt w 79, 6),
     (if fyv = 7 then decide (x.mods < bitsN w 30 3) || bitsN w 30 3 == x.rank || decide (x.routes ≤ 16 * cy + cx)
      else decide (11 < cx) || decide (14 < cy) || decide (x.wf < bitsN w 30 3) || decide (x.hf < fyv), 2)]
  | 0x04 => [(anySet w [(30, 24), (71, 9)], 2), (!o.writes, 3), (o.ofs % 4 != 0, 4)]
  | 0x05 => let c := spoAt w 30
    [(anySet w [(66, 14)], 2), (!o.writes || !c.reads, 3), (o.ofs % 4 != 0, 4)]
  | 0x06 => let d := spoAt w 54
    [(anySet w [(78, 2)] || decide (512 < bitsN w 36 9 + bitsN w 45 9 + 1), 2), (!o.reads || !d.writes, 3), (d.ofs % 4 != 0, 4)]
  | 0x07 => let d := spoAt w 55
    [(bitAt w 79 || decide (11 < bitsN w 30 4) || decide (14 < bitsN w 34 4) || decide (bitsN w 47 8 < 2) || decide (180 < bitsN w 47 8), 2),
     (o.mode != 0 || !d.writes, 3), (d.ofs % 4 != 0, 4)]
  | 0x08 => [(anySet w [(30, 24), (66, 14)], 2), (o.mode != 4, 3), (o.ofs % 4 != 0, 4)]
  | 0x09 => [(anySet w [(57, 23)], 2), (!o.reads, 3)]
  | 0x0A => [(anySet w [(68, 12)], 2), (!o.reads || !(spoAt w 30).reads, 3)]
  | _ => [(true, 1)]

/-- Reserved fields of a control-slot opcode (Table 8.14). The tables give some fields to one instruction of a row only; which of them are reserved in the row's others is the model's
choice. DESIGN CHOICE: notes/assumptions/13.md. -/
def ctrlReserved : Nat → List (Nat × Nat)
  | 0x00 | 0x11 | 0x17 | 0x18 | 0x19 => [(6, 42)]
  | 0x01 | 0x02 => [(11, 5)]
  | 0x0B => [(36, 12)]
  | 0x0C => [(35, 13)]
  | 0x0D | 0x0E | 0x0F => [(26, 22)]
  | 0x10 => [(22, 26)]
  | 0x12 => [(10, 38)]
  | 0x13 => [(16, 32)]
  | 0x14 => [(6, 5), (16, 32)]
  | 0x15 => [(14, 34)]
  | 0x16 => [(9, 39)]
  | _ => []

/-- The control slot (Tables 8.13 and 8.14, R206). -/
def ctrlCauses (x : LegalCtx) (w : BitVec 48) : List (Bool × Nat) :=
  let op := cOp w
  let o := spoAt w 11
  [(decide (0x19 < op), 1), (anySet w (ctrlReserved op), 2), ((op == 0x0B && !o.reads) || (op == 0x0C && !o.writes), 3), (op == 0x0C && o.ofs % 4 != 0, 4),
   (op == 0x12 && decide (x.sails ≤ bitsN w 6 2), 7), ((op == 0x14 || op == 0x15) && !x.tc0, 6), (op == 0x13 && decide (x.tcnt ≤ bitsN w 6 5), 2)]

/-! ### Operands' offsets -/

/-- The scratchpad operands that a bundle holds: a slot's opcode says where they lie. -/
def bunSpos (b : BitVec 256) : List Spo :=
  let v := bunVec b
  let m := bunMove b
  let k := bunCtrl b
  (if bunPres b 0 && [1, 2, 3, 4].contains (bitsN (bunSail b) 0 6) then [spoAt (bunSail b) 8] else []) ++
  (if bunPres b 1 then (match vOp v with | 0x12 | 0x13 | 0x17 => [spoAt v 16] | 0x14 => [spoAt v 17] | _ => []) else []) ++
  (if bunPres b 2 then mvSpo m :: (match mvOp m with
    | 0x03 => [spoAt m 46] | 0x05 => [spoAt m 30] | 0x06 => [spoAt m 54] | 0x07 => [spoAt m 55] | 0x0A => [spoAt m 30] | _ => []) else []) ++
  (if bunPres b 3 && (cOp k == 0x0B || cOp k == 0x0C) then [spoAt k 11] else [])

/-! ### Destination registers -/

/-- Whether a list names some element twice. -/
def twice : List (Bool × Nat) → Bool
  | [] => false
  | d :: r => r.contains d || twice r

/-- The cause for which a bundle is refused, if it is: slots in order, then the rule of one destination. -/
def bundleCause (x : LegalCtx) (b : BitVec 256) : Option Nat :=
  let slot := fun (i : Nat) (w : Nat) (cs : List (Bool × Nat)) => if bunPres b i then cs else [(w != 0, 2)]
  firstCause (slot 0 (bunSail b).toNat (sailCauses x (bunSail b)) ++ slot 1 (bunVec b).toNat (vecCauses x (bunVec b)) ++
    slot 2 (bunMove b).toNat (moveCauses x (bunMove b)) ++ slot 3 (bunCtrl b).toNat (ctrlCauses x (bunCtrl b)) ++ [((bunSpos b).any (fun o => decide (12287 < o.ofs)), 2), (twice (bunDests b), 2)])

/-! ### The contexts that can run a bundle -/

/-- Where a context can go on after bundle k: targets and loop ends are written in the control slot (R183, R204). -/
def bunNext (b : BitVec 256) (k : Nat) : List Nat :=
  let w := bunCtrl b
  let dst := bitsN w 13 13
  if !bunPres b 3 then [k + 1]
  else match cOp w with
    | 0x0D => [k + 1, dst]
    | 0x0E => [dst]
    | 0x0F => [k + 1, dst + 1]
    | 0x19 => []
    | _ => [k + 1]

/-- Bundles reached from those waiting, as bits of a number; each is looked at once. A store of 8,192 bundles holds `n` of the image and zeros above them, empty bundles that lead
on to its end, after which the index wraps to 0 (R179, R180). -/
def reachGo (code : Nat → BitVec 256) (n : Nat) : Nat → List Nat → Nat → Nat
  | 0, _, seen => seen
  | _ + 1, [], seen => seen
  | f + 1, k :: l, seen =>
    let j := if n ≤ k then 0 else k
    if seen.testBit j = true then reachGo code n f l seen else reachGo code n f (bunNext (code j) j ++ l) (seen ||| 1 <<< j)

/-- The bundles of a core that a context can reach from its entries. -/
def reached (code : Nat → BitVec 256) (n : Nat) (x : Ctx) : Nat :=
  if x.loaded then reachGo code n (2 * n + 4) [x.entryN.toNat, x.entryH.toNat] 0 else 0

/-- The loaded contexts that can reach bundle k. -/
def runners (masks : List Nat) (k : Nat) : List Nat := (List.range 4).filter (fun i => (masks.getD i 0).testBit k)

end Sys2Proof.Machine
end

