-- ==== Sys2Proof/Machine/Image.lean ====
section
/-! DEFINITION. Model images: header, manifest and section checks, placement, and loading a core from its mast (09 R215 to R217, 10 R241 to R249). -/

namespace Sys2Proof.Machine

/-! ### The header (Tables 10.1, 10.2) -/

def hdN (h : BitVec 2048) (byte n : Nat) : Nat := bitsN h (8 * byte) (8 * n)

def hdSegLog2 (h : BitVec 2048) : Nat := hdN h 16 4
def hdManLen (h : BitVec 2048) : Nat := hdN h 32 8
def hdPayLen (h : BitVec 2048) : Nat := hdN h 40 8

/-- Whether a scatter list breaks a rule of R250. -/
def scatterBad (sc : List (Nat × Nat × Nat)) : Bool :=
  let n := sc.length
  ((List.range n).zip sc).any (fun e => e.2.1 % 4096 != 0 || (e.1 + 1 != n && e.2.2.1 % 4096 != 0) || e.2.2.2 != 0)

/-- Segments of the stream. -/
def segCount (h : BitVec 2048) : Nat := ceilDiv (hdManLen h + hdPayLen h) (2 ^ hdSegLog2 h)

/-- The FORMAT checks of the header, in the order of Table 10.12. -/
def headerFormatBad (sc : List (Nat × Nat × Nat)) (h : BitVec 2048) : Bool :=
  let mode := hdN h 12 2
  scatterBad sc || hdN h 0 8 != 0x00474D494A465156 || hdN h 8 2 != 1 || decide (hdSegLog2 h < 20) || decide (24 < hdSegLog2 h) ||
  hdManLen h % 64 != 0 || decide (hdManLen h < 256) || decide (0x4000000 < hdManLen h) || hdPayLen h % 64 != 0 ||
  hdN h 24 8 != 256 + hdManLen h + hdPayLen h + 16 * segCount h || (sc.map (·.2.1)).foldl (· + ·) 0 != hdN h 24 8 || decide (2 ^ 32 < segCount h) ||
  hdN h 20 4 != 0 || hdN h 56 8 != 0 || hdN h 208 48 != 0 ||
  (mode == 1 && (hdN h 161 7 != 0 || hdN h 14 2 != 0)) || (mode == 2 && hdN h 104 104 != 0)

/-! ### The manifest (Tables 10.3 to 10.6) -/

/-- A number in the decrypted stream. -/
def imgN (m : Memory) (a n : Nat) : Nat := Memory.readN m a n

def manRig (m : Memory) : Dword := BitVec.ofNat 64 (imgN m 24 8)
def manNcore (m : Memory) : Nat := imgN m 20 4
def manNsec (m : Memory) : Nat := imgN m 32 4
def manModels (m : Memory) : List (Nat × Nat) := (List.range 4).map (fun i => (imgN m (64 + 8 * i) 2, imgN m (66 + 8 * i) 1))

/-- Directory entry of virtual core v (Table 10.4). -/
def dirAt (v : Nat) : Nat := 96 + 32 * v
def dirPool (m : Memory) (v : Nat) : Nat := imgN m (dirAt v) 2
def dirPage (m : Memory) (v : Nat) : Nat := imgN m (dirAt v + 2) 2
def dirTier (m : Memory) (v : Nat) : Nat := imgN m (dirAt v + 4) 1
def dirSvc (m : Memory) (v : Nat) : Nat := imgN m (dirAt v + 6) 2

/-- Section entry i (Table 10.5). -/
def secAt (m : Memory) (i : Nat) : Nat := 96 + 32 * manNcore m + 80 * i
def secOfs (m : Memory) (i : Nat) : Nat := imgN m (secAt m i) 8
def secLen (m : Memory) (i : Nat) : Nat := imgN m (secAt m i + 8) 4
def secDest (m : Memory) (i : Nat) : Nat := imgN m (secAt m i + 12) 4
def secCore (m : Memory) (i : Nat) : Nat := imgN m (secAt m i + 16) 4
def secKind (m : Memory) (i : Nat) : Nat := imgN m (secAt m i + 20) 1
def secModel (m : Memory) (i : Nat) : Nat := imgN m (secAt m i + 21) 1
def secLayer (m : Memory) (i : Nat) : Nat := imgN m (secAt m i + 22) 2

/-- Whether a rig record breaks R215. -/
def rigBad (r : Dword) : Bool :=
  bitsN r 26 38 != 0 || (bitAt r 18 && !rigMirx r) || (bitAt r 19 && !rigMiry r) || decide (rigMods r < rigRank r) || decide (5 < rigHF r)

/-- Whether the fixed part and the directory break R243, R244. -/
def fixedBad (m : Memory) (manLen : Nat) : Bool :=
  let r := manRig m
  imgN m 18 2 != 0 || imgN m 36 4 != 0 || imgN m 56 8 != 0 || rigBad r || manNcore m != (rigWF r + 1) * (rigHF r + 1) * 180 ||
  imgN m 40 8 != 96 || imgN m 48 8 != 96 + 32 * manNcore m || decide (manLen < 96 + 32 * manNcore m + 80 * manNsec m + 96) ||
  (manModels m).any (fun x => decide (2 < x.2) || (x.2 != 0 && (x.1 == 0 || decide (1024 < x.1)))) || anyBelow 4 (fun i => imgN m (67 + 8 * i) 5 != 0) ||
  anyBelow (manNcore m) (fun v => decide (dirPool m v < 8) || decide (256 < dirPool m v) || decide (3 < dirTier m v) || imgN m (dirAt v + 5) 1 != 0 ||
    decide (dirSvc m v < 16) || decide (4096 < dirSvc m v) || imgN m (dirAt v + 8) 24 != 0)

/-- Whether section i breaks R245 or R246, given where it must begin. -/
def sectionBad (m : Memory) (i ofs : Nat) : Bool :=
  let k := secKind m i
  let v := secCore m i
  let d := secDest m i
  let mdl := (manModels m).getD (secModel m i) (0, 0)
  secOfs m i != ofs || secLen m i == 0 || decide ((if k = 1 then 0x400000 else 0x100000) < secLen m i) || d % 128 != 0 || decide (2 ^ 29 ≤ d) ||
  decide (manNcore m ≤ v) || k == 0 || decide (5 < k) || decide (3 < secModel m i) || imgN m (secAt m i + 24) 8 != 0 ||
  (if k = 1 then secLayer m i != 0 || d != (5 + dirPool m v) * 0x10000 else decide (mdl.1 ≤ secLayer m i)) ||
  decide (d < (5 + dirPool m v) * 0x10000) || decide (dirPage m v * 0x10000 < d + 128 * ceilDiv (secLen m i) 128)

/-- Where each section begins: the first at 0, each later one at the rounded end of the one before (R245). -/
def sectionsBad (m : Memory) (payLen : Nat) : Nat → Nat → Nat → Bool
  | 0, _, ofs => ofs != payLen
  | n + 1, i, ofs => sectionBad m i ofs || sectionsBad m payLen n (i + 1) (ofs + 64 * ceilDiv (secLen m i) 64)

/-- Whether two sections of a core share a wide row. -/
def sectionsMeet (m : Memory) : Bool :=
  anyBelow (manNsec m) (fun i => anyBelow i (fun j => secCore m i == secCore m j &&
    decide (secDest m i / 128 < secDest m j / 128 + ceilDiv (secLen m j) 128) && decide (secDest m j / 128 < secDest m i / 128 + ceilDiv (secLen m i) 128)))

/-- Whether some virtual core has not exactly one CORE_STATE section. -/
def coreStatesBad (m : Memory) : Bool :=
  anyBelow (manNcore m) (fun v => ((List.range (manNsec m)).filter (fun i => secCore m i == v && secKind m i == 1)).length != 1)

/-- The LAYOUT checks of phase MANIFEST. -/
def manifestLayoutBad (m : Memory) (manLen payLen : Nat) : Bool :=
  fixedBad m manLen || sectionsBad m payLen (manNsec m) 0 0 || coreStatesBad m || sectionsMeet m

/-- Total length of the TOPSAIL sections. -/
def topsailBytes (m : Memory) : Nat := ((List.range (manNsec m)).filter (fun i => secKind m i == 4)).foldl (fun a i => a + secLen m i) 0

/-- The digest of the manifest, and of its signed part. -/
def manDigest (m : Memory) (manLen : Nat) : BitVec 384 := Config.sha384 manLen (imgN m 0 manLen)

/-- Whether the manifest's signature verifies under the partition's image-signing key (R243). -/
def signatureOk (key : Option (BitVec 776)) (m : Memory) (manLen : Nat) : Bool :=
  match key with
  | none => false
  | some k => Config.ecdsaVerify k (Config.sha384 (manLen - 96) (imgN m 0 (manLen - 96))) (BitVec.ofNat 768 (imgN m (manLen - 96) 96))

/-! ### Placement (R217, R253) -/

/-- Whether the seam that joins two physical neighbours has failed and counts as a gap (R443). -/
def seamGap (s : State) (a b : Nat) : Bool :=
  let k := min a b
  if a / 8 = b / 8 then (max a b == k + 1 && (AMap.at s.fab.seams {} (k / 8 * 7 + k % 8)).gap)
  else max a b == k + 8 && (AMap.at s.fab.seams {} (42 + k)).gap

/-- Whether the pair of fields east (or south) of coordinates (fx, fy) is a gap: by the grade, or by a failed seam (R14, R217). -/
def gapEast (s : State) (fx fy : Nat) : Bool :=
  (s.grade40 && s.sys.gapH.testBit (fy * 7 + fx)) || seamGap s (s.fieldNo fx fy) (s.fieldNo (fx + 1) fy)

def gapSouth (s : State) (fx fy : Nat) : Bool :=
  (s.grade40 && s.sys.gapV.testBit (fy * 8 + fx)) || seamGap s (s.fieldNo fx fy) (s.fieldNo fx (fy + 1))

/-- Rows of fields in the frame of placements. -/
def State.fieldRows (s : State) : Nat := if s.grade40 then 5 else 6

/-- Whether the fields of a placement are all the partition's, not dark, without a gap, and free of other slots. -/
def fieldsFit (s : State) (p i : Nat) (r : Dword) (ox oy : Nat) : Bool :=
  let w := rigWF r + 1
  let h := rigHF r + 1
  decide (ox + w ≤ 8) && decide (oy + h ≤ s.fieldRows) &&
  allBelow (w * h) (fun k =>
    let fx := ox + k % w
    let fy := oy + k / w
    let f := s.field (s.fieldNo fx fy)
    f.owned && f.part == p && f.mode != .dark &&
    !anyBelow 4 (fun j => j != i && (s.img p j).covers fx fy) &&
    (k % w + 1 == w || !gapEast s fx fy) && (k / w + 1 == h || !gapSouth s fx fy))

/-- Whether the sail count fits: a 4-sail rig needs a 4-sail grade and no field limited to three sails (R2, R48). -/
def sailsFit (s : State) (r : Dword) (ox oy : Nat) : Bool :=
  let w := rigWF r + 1
  !rigSails4 r || (s.grade % 2 == 0 && allBelow (w * (rigHF r + 1)) (fun k => !(s.field (s.fieldNo (ox + k % w) (oy + k / w))).limited3))

/-- Whether the slice has the image's modules, and this module its rank. -/
def sliceFits (s : State) (p : Nat) (r : Dword) : Bool := (s.slice p).mods == rigMods r && (s.slice p).rank == rigRank r

/-- The placements to judge, in the loader's order. -/
def candidates (s : State) (r : Dword) : List (Nat × Nat × Bool × Bool) :=
  if rigFixed r then [(bitsN r 12 3, bitsN r 15 3, bitAt r 18, bitAt r 19)]
  else (List.range s.fieldRows).flatMap (fun oy => (List.range 8).flatMap (fun ox =>
    ([(false, false), (true, false), (false, true), (true, true)].filter (fun m => (!m.1 || rigMirx r) && (!m.2 || rigMiry r))).map (fun m => (ox, oy, m.1, m.2))))

/-- The first placement that fits. -/
def choosePlace (s : State) (p i : Nat) (r : Dword) : Option (Nat × Nat × Bool × Bool) :=
  (candidates s r).find? (fun c => fieldsFit s p i r c.1 c.2.1 && sailsFit s r c.1 c.2.1 && sliceFits s p r)

/-- DETAIL of a NO_FIT report (R261). -/
def noFitDetail (s : State) (p i : Nat) (r : Dword) : Nat :=
  let cs := candidates s r
  let fit := cs.filter (fun c => fieldsFit s p i r c.1 c.2.1)
  b2n (rigSails4 r && (s.grade % 2 != 0 || fit.any (fun c => sliceFits s p r && !sailsFit s r c.1 c.2.1))) + 2 * b2n fit.isEmpty + 4 * b2n (!sliceFits s p r)

/-- The physical fields of a slot's placement. -/
def slotFields (s : State) (p i : Nat) : List Nat :=
  (s.fieldsOf p).filter (fun n => let (fx, fy) := s.fieldXY n; (s.img p i).covers fx fy)

/-- The physical cores of a placement. -/
def slotCores (s : State) (p i : Nat) : List Nat := (slotFields s p i).flatMap (fun n => (List.range 192).map (n * 192 + ·))

/-- The physical core of virtual core index v of a placement (R244). -/
def coreOfIndex (s : State) (x : ImgSlot) (v : Nat) : Nat :=
  let f := v / 180
  let w := rigWF x.rig + 1
  placeCore s x (f % w) (f / w) (v % 12) (v % 180 / 12)

/-! ### Loading a core from its mast (R248, R249) -/

/-- The base of a core's CORE_STATE section in its mast. -/
def csBase (m : Mast) : Nat := (5 + m.pool) * 0x10000

/-- A context from its record (Table 10.8). -/
def loadCtx (m : Memory) (a : Nat) : Ctx :=
  let q := fun b n => Memory.readN m (a + b) n
  { loaded := q 0 1 % 2 == 1, tbase := q 1 1, tcnt := q 2 1, entryN := BitVec.ofNat 13 (q 4 2), entryH := BitVec.ofNat 13 (q 6 2), quota := q 8 2
    ended := true, s := Vector.ofFn (fun i : Fin 32 => if i.val < 6 then ⟨BitVec.ofNat 64 (q (16 + 8 * i.val) 8), false⟩ else {}) }

/-- The run records copied into scratchpad as halyard writes: HELD with tag 0x00. -/
def loadRuns (c : Core) (a : Nat) : Nat → Nat → Core
  | 0, _ => c
  | n + 1, i =>
    let r : BitVec 64 := BitVec.ofNat 64 (Memory.readN c.mast.data (a + 8 * i) 8)
    let c1 := (List.range (bitsN r 16 16)).foldl (fun (c : Core) k => c.loadSlot (bitsN r 0 16 + k) (Memory.slotAt c.mast.data (128 * bitsN r 32 22 + 64 * k))) c
    loadRuns c1 a n (i + 1)

/-- A core loaded from the section copies in its mast. -/
def loadCore (c : Core) : Core :=
  let m := c.mast.data
  let b := csBase c.mast
  let q := fun a n => Memory.readN m (b + a) n
  let nb := q 1164 2
  let c1 := { c with
    handles := Vector.ofFn (fun i : Fin 32 => BitVec.ofNat 32 (q (4 * i.val) 4))
    ctx := Vector.ofFn (fun i : Fin 4 => loadCtx m (b + 128 + 64 * i.val))
    router := { c.router with red := (List.range 64).map (fun i => (i, BitVec.ofNat 32 (q (384 + 4 * i) 4))) }
    decl := (List.range 257).map (fun i => (i, q (640 + 2 * i) 2))
    pattern := Vector.ofFn (fun i : Fin 16 => q 1154 6 / 2 ^ (3 * i.val) % 8)
    staged := none
    sails := Vector.ofFn (fun i : Fin 4 => { owner := q 1160 1 / 4 ^ i.val % 4 })
    bundles := (List.range (32 * nb)).foldl (fun d k => Memory.write d k (Memory.read m (b + 4096 + k))) []
    pad := [], tells := [], tracks := [], lands := [], appends := [], engine := none, phase := 0, winMax := 0, shunt := 0, xtabs := [], tsTiles := [], masks := [], saved := none
    late := [], quiet := [], seen := 0, taken := [], patFrom := 0, vecNext := 0 }
  loadRuns c1 (b + 4096 + 32 * nb) (q 1166 2) 0

/-- The opposite direction (Table 7.4). -/
def oppositePort (d : Nat) : Nat := match d with | 1 => 3 | 2 => 4 | 3 => 1 | _ => 2

/-- The loader's PINs: every entry with a parent names the input of the parent that points back to it (R172); one whose parent has no such input keeps PIN 0. DESIGN CHOICE:
notes/assumptions/94.md. -/
def writePins (s : State) (ms : List Nat) : State :=
  ms.foldl (fun s m => s.updRouter m (fun r => { r with red := r.red.map (fun e =>
    if rnValid e.2 && rnOut e.2 != 0 then
      let parent := s.redEntry (neighbour s m (rnOut e.2)) e.1
      match (List.range (rnNin parent)).find? (fun j => rnIn parent j == oppositePort (rnOut e.2)) with
      | some j => (e.1, setBits e.2 22 3 j)
      | none => e
    else e) })) s

/-- A core whose image is gone: bundles, handles, reduction entries and contexts invalid, every slot EMPTY with tag 0x00 (R255). -/
def eraseCore (c : Core) : Core :=
  { c with
    pad := [], tells := [], bundles := [], handles := Vector.replicate 32 0#32, ctx := Vector.replicate 4 {}, sails := Vector.replicate 4 {}
    tracks := [], lands := [], appends := [], engine := none, decl := [], phase := 0, winMax := 0, shunt := 0, xtabs := [], tsTiles := [], masks := [], geos := [], samp := none
    saved := none, staged := none, pattern := Vector.replicate 16 4, late := [], quiet := [], seen := 0, taken := [], patFrom := 0, vecNext := 0
    router := { c.router with red := [], parts := [], sums := [], roots := [], merges := [], closed := [], waiting := [] }
    mast := { c.mast with data := [], poison := [], pool := 0, pageBase := 0, tierMax := 0, svcLen := 0, poolFree := [], tabs := [], tlb := [], held := [], outside := [], svcRows := 0, svcDone := 0, gapTiers := [] } }

/-! ### Checks of phase LOAD -/

/-- Whether a core's quotas break R43. -/
def quotasBad (c : Core) : Bool := decide (1024 < c.ctx.toList.foldl (fun a x => a + x.quota) 0)

/-- The largest current declaration of a core's CORE_STATE section, in mA (R236). -/
def topDecl (c : Core) : Nat := (List.range 257).foldl (fun a i => max a (Memory.readN c.mast.data (csBase c.mast + 640 + 2 * i) 2)) 0

/-- Whether a core-state field breaks Table 10.7 or 10.8, or a current declaration R402: among others a section of `len` bytes that does not hold its bundles and run records, or a
run from outside the core's flat region (R246, R247). -/
def coreStateBad (c : Core) (len : Nat) : Bool :=
  let q := fun a n => Memory.readN c.mast.data (csBase c.mast + a) n
  decide (6400 < topDecl c) || q 1161 3 != 0 || q 1164 2 == 0 || decide (8192 < q 1164 2) || decide (1024 < q 1166 2) || decide (len < 4096 + 32 * q 1164 2 + 8 * q 1166 2) || q 1168 2928 != 0 ||
  anyBelow 16 (fun i => decide (4 < q 1154 6 / 2 ^ (3 * i) % 8)) ||
  anyBelow 4 (fun i => let r := fun b n => q (128 + 64 * i + b) n
    decide (1 < r 0 1) || r 3 1 != 0 || decide (8191 < r 4 2) || decide (8191 < r 6 2) || r 10 6 != 0 || decide (32 < r 1 1 + r 2 1) ||
      (r 0 1 == 1 && (r 2 1 == 0 || decide (31 < r 1 1)))) ||
  anyBelow 32 (fun i => decide (2 ^ 29 ≤ q (4 * i) 4)) ||
  anyBelow 64 (fun i =>
    let e : BitVec 32 := BitVec.ofNat 32 (q (384 + 4 * i) 4)
    rnValid e && (rnNin e == 0 || decide (5 < rnNin e) || anyBelow (rnNin e) (fun j => decide (4 < rnIn e j)) || decide (4 < rnOut e) || bitsN e 22 10 != 0 ||
      (rnNin e == 1 && rnIn e 0 != 0))) ||
  anyBelow (q 1166 2) (fun i => let k := q (4096 + 32 * q 1164 2 + 8 * i) 8
    let src := 128 * (k / 2 ^ 32 % 2 ^ 22)
    k / 2 ^ 54 != 0 || decide (0xC000 < k % 65536 + k / 65536 % 65536) || decide (src < csBase c.mast) ||
      decide (c.mast.pageBase * 0x10000 < src + 64 * (k / 65536 % 65536)))

/-- Whether a core's flat region or page pool breaks R141. -/
def poolBad (c : Core) : Bool :=
  decide (c.mast.pageBase < 5 + c.mast.pool) || decide (2048 * (c.mast.tierMax + 1) ≤ c.mast.pageBase)

/-- Bundle k of a core. -/
def codeAt (c : Core) (k : Nat) : BitVec 256 := BitVec.ofNat 256 (Memory.readN c.bundles (32 * k) 32)

/-- How many bundles a core's image has. -/
def codeLen (c : Core) : Nat := Memory.readN c.mast.data (csBase c.mast + 1164) 2

/-- For each context, the bundles that it can reach. -/
def reachOf (c : Core) : List Nat := (List.range 4).map (fun i => reached (codeAt c) (codeLen c) (c.tc i))

/-- What the loader knows at a bundle that some contexts can reach: LH must stay below every one's TCNT, and PHASE and VPAT stand only where TC0 alone runs. A bundle that none reaches
belongs to the overflow routine, if to anything, which TC0 runs. DEDUCED: notes/assumptions/57.md. -/
def LegalCtx.atBundle (x : LegalCtx) (c : Core) (rs : List Nat) : LegalCtx :=
  { x with tcnt := rs.foldl (fun a i => min a (c.tc i).tcnt) x.tcnt, tc0 := x.tc0 && rs.all (· == 0) }

/-- The first bundle of a core that breaks R210, with its cause. -/
def firstBadBundle (x : LegalCtx) (c : Core) : Option (Nat × Nat) :=
  let ms := reachOf c
  (List.range (codeLen c)).findSome? (fun k => (bundleCause (x.atBundle c (runners ms k)) (codeAt c k)).map (fun z => (k, z)))

end Sys2Proof.Machine
end

