-- ==== Sys2Proof/Machine/LoadCheck.lean ====
section
/-! DEFINITION. The checks of phase LOAD, and what a loaded image gives the request and sheet engines (03 R71, 04 R79, R88, 10 R259, 13 R304, R305, 14 R334, 15 R360). -/

namespace Sys2Proof.Machine

/-! ### Descriptors and watch entries, found through the MMUL instructions that name them (R71, R79) -/

/-- The MMUL words of a core's bundles, each with the loaded contexts that can reach it, or all where none can. -/
def mmulWords (c : Core) : List (List Nat × BitVec 80) :=
  let ms := reachOf c
  (List.range (codeLen c)).filterMap (fun k =>
    let b := codeAt c k
    let rs := runners ms k
    if bunPres b 0 && bitsN (bunSail b) 0 6 == 2 then some (if rs.isEmpty then (List.range 4).filter (fun i => (c.tc i).loaded) else rs, bunSail b) else none)

/-- The KVAPQ words of a core's bundles, each with the contexts that can reach it. -/
def kvWords (c : Core) : List (List Nat × BitVec 80) :=
  let ms := reachOf c
  (List.range (codeLen c)).filterMap (fun k =>
    let b := codeAt c k
    let rs := runners ms k
    if bunPres b 2 && mvOp (bunMove b) == 9 then some (if rs.isEmpty then (List.range 4).filter (fun i => (c.tc i).loaded) else rs, bunMove b) else none)

/-- What some contexts read at an offset of a logical handle. -/
def resReads (c : Core) (is : List Nat) (h byte len : Nat) : List (Nat × Nat) :=
  is.filterMap (fun i => let r := c.readRes i h byte len; if r.viol.isNone then some (i, r.data) else none)

/-- The weight formats one rung above a format, and whether the plane must carry its scales (Table 4.3). -/
def nextFormats (f : Nat) : List Nat × Bool :=
  match f with
  | 9 => ([1], true)
  | 1 | 2 => ([3, 4], false)
  | 8 => ([3, 4], true)
  | 3 | 4 => ([5], false)
  | _ => ([], false)

/-- Where a topsail plane that starts at an address ends: the loader knows it by the TOPSAIL sections that follow one another from there, at most `n` of them; a plane in no section
holds `rec` bytes, those of the records of the operations that its program lists. DEDUCED: notes/assumptions/42.md. -/
def planeEnd (tops : List (Nat × Nat)) (rec : Nat) : Nat → Nat → Nat
  | 0, a => a + rec
  | n + 1, a =>
    match tops.find? (fun x => decide (x.1 ≤ a) && decide (a < x.1 + x.2)) with
    | some x => max (a + rec) (if tops.any (fun y => y.1 == x.1 + 128 * ceilDiv x.2 128) then planeEnd tops rec n (x.1 + 128 * ceilDiv x.2 128) else x.1 + x.2)
    | none => a + rec

/-- Whether rung r of a watch entry breaks R79 or R71, given the number of its output tile's operations, the base format and the format below it. -/
def rungBad (y : LegalCtx) (c : Core) (ctx : Nat) (w : BitVec 256) (n base r below : Nat) : Bool :=
  let x := wRung w r
  let d : BitVec 128 := BitVec.ofNat 128 (c.readRes ctx (rQdBlk x) (16 * rQdOfs x) 16).data
  !(nextFormats below).1.contains (qdWfmt d) || !qdOk d || ((nextFormats below).2 && !rScl x) || rRw x == 3 ||
  decide (2 ^ 29 < planeEnd y.tops (n * recordBytes (tileK base) (rRw x) (rScl x)) y.tops.length (rTsAddr x))

/-- The rungs of a watch entry in turn. -/
def rungsBad (y : LegalCtx) (c : Core) (ctx : Nat) (w : BitVec 256) (ops base : Nat) : Nat → Nat → Nat → Bool
  | 0, _, _ => false
  | n + 1, r, below =>
    let x := wRung w r
    rungBad y c ctx w ops base r below ||
      rungsBad y c ctx w ops base n (r + 1) (qdWfmt (BitVec.ofNat 128 (c.readRes ctx (rQdBlk x) (16 * rQdOfs x) 16).data))

/-- Whether a watch entry of an output tile with base format f breaks R79. A bound of −0.0 equals 0.0 and does not count as negative. DEDUCED: notes/assumptions/95.md. -/
def watchBad (y : LegalCtx) (c : Core) (ctx : Nat) (w : BitVec 256) (ops f : Nat) : Bool :=
  let neg := fun (v : BitVec 32) => v.msb && v != 0x80000000#32
  isNan32 (wLo2 w) || isNan32 (wHi2 w) || neg (wLo2 w) || neg (wHi2 w) || fLt (wHi2 w) (wLo2 w) || rungsBad y c ctx w ops f (wRungs w) 1 f

/-- The operations of the output tile that MMUL word i of a core opens: itself and the words that continue it, as the program lists them. -/
def tileOps (ws : List (List Nat × BitVec 80)) (i : Nat) : Nat :=
  match ws[i]? with
  | none => 1
  | some u => 1 + (((ws.drop (i + 1)).filter (fun x => sailOf x.2 == sailOf u.2)).takeWhile (fun x => mmStart x.2 != 1 && mmStart x.2 != 2)).length

/-- The descriptor and the watch entry that an MMUL word names, as read by each context that can run it. -/
def descReads (c : Core) (u : List Nat × BitVec 80) : List (Nat × Nat) := resReads c u.1 (mmQhnd u.2) (16 * bitsN u.2 56 11) 16

def watchReads (c : Core) (u : List Nat × BitVec 80) : List (Nat × Nat) :=
  if mmStart u.2 = 1 ∨ mmStart u.2 = 2 then resReads c u.1 (mmQhnd u.2) (32 * bitsN u.2 67 10) 32 else []

/-- The descriptor that a KVAPQ word names (R202). -/
def kvReads (c : Core) (u : List Nat × BitVec 80) : List (Nat × Nat) := resReads c u.1 (bitsN u.2 35 5) (16 * bitsN u.2 40 11) 16

/-- DETAIL of the first object of a core that breaks a check, if any: cause, object and bundle index (Table 10.11). -/
def illegalDetail (x : LegalCtx) (c : Core) : Option Nat :=
  match firstBadBundle x c with
  | some (k, cause) => some (cause + 2 ^ 16 * (k % 65536))
  | none =>
    let ws := mmulWords c
    if ws.any (fun u => (descReads c u).any (fun r => !qdOk (BitVec.ofNat 128 r.2))) || (kvWords c).any (fun u => (kvReads c u).any (fun r => !qdOk (BitVec.ofNat 128 r.2))) then some (5 + 16)
    else if ((List.range ws.length).zip ws).any (fun (i, u) => (watchReads c u).any (fun r =>
        watchBad x c r.1 (BitVec.ofNat 256 r.2) (tileOps ws i) (qdWfmt (BitVec.ofNat 128 (c.readRes r.1 (mmQhnd u.2) (16 * bitsN u.2 56 11) 16).data)))) then some (5 + 32)
    else if quotasBad c then some (2 + 48)
    else if coreStateBad c x.csLen then some (2 + 64)
    else none

/-! ### The records that the loader reads out of TABLES sections -/

/-- The sections of a kind for virtual core v. -/
def sectionsOf (m : Memory) (v k : Nat) : List Nat := (List.range (manNsec m)).filter (fun i => secCore m i == v && secKind m i == k)

/-- The first four bytes of a section's copy in a core's mast. -/
def secMagic (c : Core) (m : Memory) (i : Nat) : Nat := Memory.readN c.mast.data (secDest m i) 4

/-- The 64-byte records with a magic number among a core's TABLES sections, with their sections. -/
def tableRecs (c : Core) (m : Memory) (v magic : Nat) : List (Nat × BitVec 512) :=
  ((sectionsOf m v 5).filter (fun i => secLen m i == 64 && secMagic c m i == magic)).map (fun i =>
    (i, BitVec.ofNat 512 (Memory.readN c.mast.data (secDest m i) 64)))

/-- The KV geometry records of a core (R304). -/
def geoRecs (c : Core) (m : Memory) (v : Nat) : List Geo :=
  (tableRecs c m v 0x3147564B).map (fun r => { model := secModel m r.1, layer := secLayer m r.1, raw := r.2 })

/-- The sampler records of a core (R334). -/
def sampRecs (c : Core) (m : Memory) (v : Nat) : List (BitVec 512) := (tableRecs c m v 0x31504D53).map (·.2)

/-- Whether the mask table in a granule breaks Table 13.5, names the reserved block code, or does not lie within the core's flat region (R305, R321). -/
def maskBad (c : Core) (gran : Nat) : Bool :=
  let a := 0x10000 * gran
  let q := fun o n => Memory.readN c.mast.data (a + o) n
  let ntp := q 0 2
  let nbd := q 2 2
  let nexc := q 8 4
  let bd := 64 + ntp * ntp / 8
  let exc := bd + 64 * ceilDiv nbd 256
  let block := fun i => 2 ^ 32 * q (exc + 520 * i) 4 + q (exc + 520 * i + 4) 4
  decide (gran < 5 + c.mast.pool) || ntp % 64 != 0 || decide (8192 < ntp) || decide (4096 < nbd) || decide (65535 < nexc) || q 4 1 == 3 || decide (3 < q 4 1) || q 5 3 != 0 ||
  q 12 52 != 0 || decide (0x10000 * c.mast.pageBase < a + exc + 520 * nexc) || anyBelow nbd (fun d => q (bd + d / 4) 1 / 4 ^ (d % 4) % 4 == 3) ||
  anyBelow (nexc - 1) (fun i => decide (block (i + 1) ≤ block i))

/-- Whether a geometry record breaks Table 13.1 or R305. -/
def geoBad (c : Core) (g : Geo) : Bool :=
  decide (15 < bitsN g.raw 32 8) || decide (15 < bitsN g.raw 40 8) || g.nkvh == 0 || decide (16 < g.nkvh) || g.hdCode == 0 || decide (3 < g.hdCode) ||
  decide (64 < g.scmax) || decide (6 < g.chunkLog2) || g.nkvc == 0 || decide (1440 < g.nkvc) || decide (g.nkvc ≤ g.kvidx) || bitsN g.raw 128 384 != 0 ||
  decide (65536 < 36 * g.elems + 256 * g.scmax) || decide (1024 < g.recSize) ||
  (g.maskOfs != 0 && maskBad c g.maskOfs)

/-- Whether some element of a list comes twice. -/
def repeats : List Nat → Bool
  | [] => false
  | x :: r => r.contains x || repeats r

/-- Whether two records of one space disagree in anything but KVIDX; SPACE is each core's own number (Table 13.1). -/
def geoDiffer (a b : Geo) : Bool := setBits a.raw 96 16 0 != setBits b.raw 96 16 0

/-- The lowest virtual core one of whose geometry records breaks R305, by itself or beside the others of its space. -/
def geosBad (gs : List (Nat × Core × Geo)) : Option Nat :=
  let key := fun (g : Geo) => (g.model * 1024 + g.layer) * 16 + g.group
  (gs.find? (fun x =>
    let mates := (gs.filter (fun y => key y.2.2 == key x.2.2)).map (·.2.2)
    geoBad x.2.1 x.2.2 || mates.any (geoDiffer x.2.2) || mates.length != x.2.2.nkvc || repeats (mates.map Geo.kvidx))).map (·.1)

/-- Whether a sampler record breaks Table 14.1. -/
def sampBad (c : Core) (r : BitVec 512) : Bool :=
  let nv := bitsN r 32 32
  nv % 64 != 0 || nv == 0 || decide (1048576 < nv) || decide (8 < bitsN r 64 8) || decide (3 < bitsN r 72 8) || decide (31 < bitsN r 80 8) ||
  bitsN r 88 8 != 0 || bitsN r 112 16 == 0 || decide (4096 < bitsN r 112 16) || bitsN r 160 352 != 0 ||
  (bitsN r 128 16 != 0 && (decide (bitsN r 128 16 < 5 + c.mast.pool) || decide (c.mast.pageBase < bitsN r 128 16 + bitsN r 144 16)))

/-- Whether the ranges of some sampler records do not cover relative slots 0 to 4,095 exactly once (R334). -/
def slotsUncovered (rs : List (BitVec 512)) : Bool :=
  (rs.map (fun r => bitsN r 112 16)).foldl (· + ·) 0 != 4096 ||
  anyBelow 4096 (fun j => !rs.any (fun r => decide (bitsN r 96 16 ≤ j) && decide (j < bitsN r 96 16 + bitsN r 112 16)))

/-- The lowest virtual core whose sampler record breaks Table 14.1 or differs from another's; where every record stands and the ranges do not cover the slots, the first record's
core, or 0xFFFF_FFFF where the image has none (R334). -/
def sampsBad (rs : List (Nat × Core × BitVec 512)) : Option Nat :=
  let same := fun (r : BitVec 512) => setBits (setBits r 96 16 0) 112 16 0
  ((rs.find? (fun x => sampBad x.2.1 x.2.2 || rs.any (fun y => same y.2.2 != same x.2.2))).map (·.1)).or
    (if slotsUncovered (rs.map (·.2.2)) then some ((rs.head?.map (·.1)).getD 0xFFFFFFFF) else none)

/-- The sheet schedule that starts at a mast address (Tables 15.3 to 15.5). -/
def readSched (d : Memory) (a : Nat) : SheetSched :=
  let nr := Memory.readN d (a + 4) 2
  let nv := Memory.readN d (a + 6) 2
  { routes := (List.range nr).map (fun i => BitVec.ofNat 64 (Memory.readN d (a + 64 + 8 * i) 8))
    recvs := (List.range nv).map (fun i => BitVec.ofNat 128 (Memory.readN d (a + 64 + 8 * nr + 16 * i) 16))
    gatePidx := Memory.readN d (a + 8) 1, gateDue := Memory.readN d (a + 12) 4 }

/-- Whether a sheet schedule at an address breaks R360. -/
def schedBad (d : Memory) (a : Nat) : Bool :=
  let x := readSched d a
  decide (256 < x.routes.length) || decide (1024 < x.recvs.length) || Memory.readN d (a + 9) 3 != 0 || Memory.readN d (a + 16) 48 != 0 ||
  x.routes.any (fun r => bitsN r 16 48 != 0) || x.recvs.any (fun r => bitsN r 20 12 != 0 || bitsN r 64 64 != 0) || repeats (x.recvs.map (fun r => bitsN r 0 11))

/-- Where the sheet schedules of an image begin in the mast of its virtual core 0. -/
def schedAt (c : Core) (m : Memory) : List Nat := ((sectionsOf m 0 5).filter (fun i => secMagic c m i == 0x31534853)).map (secDest m)

/-- Whether an image's sheet schedule is missing, doubled or bad. -/
def sheetBad (c : Core) (m : Memory) (mods : Nat) : Bool :=
  mods != 0 && (match schedAt c m with
    | [a] => schedBad c.mast.data a
    | _ => true)

/-! ### Layer coverage (R88) -/

/-- The mast address from which a run record loaded a scratchpad address, if one did. -/
def runSource (c : Core) (a : Nat) : Option Nat :=
  let b := csBase c.mast
  let q := fun o n => Memory.readN c.mast.data (b + o) n
  let base := 4096 + 32 * q 1164 2
  (List.range (q 1166 2)).findSome? (fun i =>
    let r : BitVec 64 := BitVec.ofNat 64 (q (base + 8 * i) 8)
    let lo := 64 * bitsN r 0 16
    if lo ≤ a ∧ a < lo + 64 * bitsN r 16 16 then some (128 * bitsN r 32 22 + (a - lo)) else none)

/-- The watch entries that the MMULs of a core name: for every context that runs the word, the mast address from which a run record brings the entry and its RUNGS; none where no run
record brings it (an MRD does, at run time). -/
def namedEntries (c : Core) : List (Option (Nat × Nat)) :=
  (mmulWords c).flatMap (fun u =>
    let w := u.2
    if mmStart w = 1 ∨ mmStart w = 2 then
      u.1.filterMap (fun i =>
        match c.resolve i (mmQhnd w) (32 * bitsN w 67 10) 32 false 0 with
        | .ok (_, a) => some ((runSource c a).map (fun pma => (pma, wRungs (BitVec.ofNat 256 (Memory.readN c.pad a 32)))))
        | .error _ => none)
    else [])

/-- The layers (model, layer) that topsail planes cover on one core: those whose TABLES sections hold a watch entry with RUNGS of 1 or more that a run record brings and an MMUL names.
Where an MMUL names an entry that no run record brings, the layers of the core's TOPSAIL sections count as well. DEDUCED: notes/assumptions/42.md. -/
def coveredOn (c : Core) (m : Memory) (v : Nat) : List (Nat × Nat) :=
  let es := namedEntries c
  let layer := fun (kind pma : Nat) =>
    ((sectionsOf m v kind).find? (fun k => decide (secDest m k ≤ pma) && decide (pma < secDest m k + secLen m k))).map (fun k => (secModel m k, secLayer m k))
  (if es.contains none then (sectionsOf m v 4).map (fun k => (secModel m k, secLayer m k)) else []) ++
  es.filterMap (fun e => e.bind (fun x => if x.2 = 0 then none else layer 5 x.1))

/-- A list without repeats. -/
def nub {α : Type} [BEq α] (l : List α) : List α := l.foldl (fun a x => if a.contains x then a else a ++ [x]) []

/-- Whether some model has more than ⌊0.4 L⌋ layers covered. -/
def coverageBad (m : Memory) (ls : List (Nat × Nat)) : Bool :=
  let us := nub ls
  anyBelow 4 (fun i => decide (4 * ((manModels m).getD i (0, 0)).1 / 10 < (us.filter (fun l => l.1 == i)).length))

end Sys2Proof.Machine
end

