-- ==== Sys2Proof/Machine/ClockOps.lean ====
section
/-! DEFINITION. The module clock step and core voltages, shared by hoisting, power and heat (16 R377 to R380, 17 R399 to R401). -/

namespace Sys2Proof.Machine

/-! ### Swallow demands -/

/-- A change of a partition's counts takes effect at once while it does not step (R380). -/
def swalNow (s : State) (p : Nat) : State := if isStepping s p then s else applySwal s p

/-- REEF_SWAL: the larger of the power and the thermal demand (R404). -/
def setReef (s : State) (p : Nat) : State := swalNow (s.updClkPart p (fun c => { c with reefSwal := max c.pwrSwal c.thmSwal })) p

/-- A standing demand of a partition under R400, R406 or R407, kept until the next start. -/
def holdDemand (s : State) (p S : Nat) : State :=
  let s1 := s.updPwr (fun x => { x with hold := AMap.upd x.hold 0 p (max S) })
  setReef (s1.updClkPart p (fun c => { c with pwrSwal := max c.pwrSwal S })) p

/-! ### Voltage (R397 to R401) -/

/-- A core's floor at a clock step, as self-test measured it. -/
def floorOf (s : State) (m step : Nat) : Nat := Config.coreFloor m step (s.corePwr m).half

/-- FLOOR of PWR_CORE_A: the floor at the step in force once self-test has measured it (R399). -/
def shownFloor (s : State) (m : Nat) : Nat := if s.hasField (m / 192) && decide (8 < s.sys.clk.phase) then floorOf s m s.sys.clk.step else 0

/-- LIMITING of PWR_STAT: the power policy holds STEP_LIM or a swallow demand (R404). -/
def limiting (s : State) : Bool := s.sys.clk.limit != 0 || s.sys.clk.parts.any (fun x => x.2.pwrSwal != 0)

/-- The items of a core that no spare replaces and that cannot run at half rate are lost (R400 step 3). -/
def slowLost (s : State) (m : Nat) : State := coreDead s m 0x21 4

/-- A slow core (R400): furled where its column has a spare, else at half rate, else lost. -/
def slowCore (s : State) (m : Nat) : State :=
  let n := m / 192
  let f := s.field n
  let s1 := pwrLog s n (m % 192) 5 0 (s.corePwr m).curr
  if (s.corePwr m).half then slowLost s1 m
  else if s.hasSpare n (m % 12) then coreDead s1 m 0x21 4
  else
    let s2 := (s1.updCorePwr m (fun c => ({ c with half := true }).show)).updCore m (fun c => { c with stat := { c.stat with halfRate := true } })
    if f.owned then holdDemand (raiseFault s2 f.part 0x26 n (m % 192)) f.part 8 else evrFault s2 0x26 0xFF n (m % 192) none

/-- Before a glide to a faster step: cores that cannot reach it are handled under R400, the others raised to its floor plus 15 mV (R401). -/
def raiseVolts (s : State) (step : Nat) : State :=
  let on := fun (s : State) => (s.sys.pwr.cores.filter (fun x => x.2.on)).map (·.1)
  let slow := (on s).filter (fun m => decide (vMax < floorOf s m step))
  let s1 := slow.foldl slowCore s
  let again := slow.filter (fun m => (s1.corePwr m).on && decide (vMax < floorOf s1 m step))
  let s2 := again.foldl slowLost s1
  (on s2).foldl (fun s m => s.updCorePwr m (fun c => ({ c with volt := max c.volt (min vMax (Config.coreFloor m step c.half + 15)) }).show)) s2

/-! ### Supplies that carry less (R406, R407) -/

/-- The largest current declaration of a core, in mA. -/
def maxDecl (s : State) (m : Nat) : Nat := (s.core m).decl.foldl (fun a x => max a x.2) 0

/-- The smallest swallow count that brings `d` to a limit; above 8 there is none. -/
def countFor (d limit : Nat) : Nat := ((List.range 9).find? (fun k => decide (d * (16 - k) ≤ limit * 16))).getD 9

/-- What R406 asks of a core on three phases, at the failure and of every image loaded later; in a field without an owner no image runs. -/
def reefCore (s : State) (m : Nat) : State :=
  let n := m / 192
  let f := s.field n
  let d := maxDecl s m
  if d ≤ 4800 ∨ f.owned = false then s
  else if s.sys.pwr.spare && s.hasSpare n (m % 12) then coreDead s m 0x22 5
  else
    let k := countFor d 4800
    if 8 < k then coreDead s m 0x22 5
    else (holdDemand s f.part k).updCorePwr m (fun c => { c with limitBy := some (s.tb.toNat + 10000000) })

/-- A field on one mast-step converter (R407): its partition's demand follows H, and above 8 the field trips at the next boundary, at once where no partition owns it. -/
def supplyJudge (s : State) (n : Nat) : State :=
  let ok := fun k => (AMap.at s.sys.pwr.convs {} k).ok
  if (s.fieldPwr n).st ≠ 3 ∨ ok (2 * n) = ok (2 * n + 1) then s
  else
    let S := countFor (s.fieldPwr n).hwm 150
    if 8 < S then (if (s.field n).owned then s.updFieldPwr n (fun x => { x with trip := true }) else tripField s n 0x45 (s.fieldPwr n).hwm)
    else if (s.field n).owned && decide (0 < S) then holdDemand s (s.field n).part S else s

/-! ### The module step (R377, R378) -/

/-- Whether a partition's running hoist has an image whose placement has passed: it is in STREAM or later. -/
def streaming (x : Part) : Bool := match x.hoist with | some h => h.phase == .stream || h.phase == .load || h.phase == .done | none => false

/-- MIN_STEP of every image held by a LOADED slot, or by a HOISTING one from STREAM on. -/
def heldSteps (s : State) : List Nat :=
  s.parts.flatMap (fun p => (p.2.slots.toList.filter (fun x => x.st == .loaded || (x.st == .hoisting && streaming p.2))).map (fun x => rigMinStep x.rig))

/-- The floor: the fastest of them, 3 when no image is held. -/
def clockFloor (s : State) : Nat := (heldSteps s).foldl min 3

/-- The module step: the slower of STEP_REQ and the power policy's limit, never slower than the floor. -/
def wantedStep (s : State) : Nat := min (max s.sys.clk.stepReq s.sys.clk.limit) (clockFloor s)

/-- A glide to a step begins. -/
def glideTo (s : State) (k : Nat) : State :=
  let s1 := if k < s.sys.clk.step then raiseVolts s k else s
  let s2 := s1.updClk (fun c => { c with step := k, gliding := true, down := decide (c.step < k), glides := satAdd 0xFF c.glides 1 })
  (List.range 64).foldl swalNow s2

/-- A glide to the wanted step, where the module is READY and stands at another. -/
def retarget (s : State) : State := if s.sys.ready && s.sys.clk.step != wantedStep s then glideTo s (wantedStep s) else s

/-- A glide down to the wanted step, where an image that held the floor is gone. -/
def relax (s : State) : State := if s.sys.ready && decide (s.sys.clk.step < wantedStep s) then glideTo s (wantedStep s) else s

end Sys2Proof.Machine
end

