-- ==== Sys2Proof/Machine/Hoist.lean ====
section
/-! DEFINITION. Hoisting and unloading (10 R250 to R262, R579, R580). -/

namespace Sys2Proof.Machine

def State.updHoist (s : State) (p : Nat) (f : Hoist → Hoist) : State := s.updPart p (fun x => { x with hoist := x.hoist.map f })

/-! ### Ending a hoist (R260) -/

/-- The slot of an ended hoist EMPTY again, its cores erased; it keeps the digest of its generation (R270). -/
def clearSlot (s : State) (p i : Nat) : State :=
  (s.eachCore (slotCores s p i) (fun _ c => eraseCore c)).updImg p i (fun x =>
    { st := .empty, loads := x.loads, gen := x.gen, genDigest := x.genDigest })

/-- PLACE of a report. -/
def placeByte : Option (Nat × Nat × Bool × Bool) → Nat
  | none => 0
  | some (ox, oy, mx, my) => ox + 8 * oy + 64 * b2n mx + 128 * b2n my

/-- The code of a phase (Table 10.12). -/
def HoistPhase.code : HoistPhase → Nat
  | .accept => 0
  | .header => 1
  | .manifest => 2
  | .place => 3
  | .stream => 4
  | .load => 5
  | .done => 6

/-- A running hoist ends with a status: a HOISTING slot is erased, an old image that still serves stays as it was (R580). -/
def endHoist (s : State) (p : Nat) (status : Nat) (sec vcore detail : Nat) : State :=
  match (s.part p).hoist with
  | none => s
  | some h =>
    let i := hcSlot h.cmd.body
    let s1 := if (s.img p i).st = .hoisting then clearSlot s p i else s
    let s2 := s1.updSec (fun x => { x with
      unwrapFail := if status = 6 then satAdd 0xFFFF x.unwrapFail 1 else x.unwrapFail, sigFail := if status = 8 then satAdd 0xFFFF x.sigFail 1 else x.sigFail })
    let s3 := relax (s2.updPart p (fun x => { x with hoist := none, hstat := { x.hstat with busy := false } }))
    writeReport s3 p h.cmd { phase := h.phase.code, status := status, bytes := h.bytes, sec := sec, vcore := vcore, detail := detail, digest := h.digest, place := placeByte h.place }

/-- A hoist ends without naming a section or a core. -/
def failHoist (s : State) (p status : Nat) : State := endHoist s p status 0xFFFFFFFF 0xFFFFFFFF 0

/-! ### Submission (R250, R392) -/

/-- A command handed in through either path: through the mailbox of a virtual function its message is answered with the entry into the queue. Before step 10 has made the
partitions the register of the physical function takes commands for any of them (R392). -/
def takeCommand (s : State) (p : Nat) (byVf : Bool) (ops : Nat → Bool) (t : Dword) : Option (State × HoistCmd) :=
  let early := !byVf && !s.sys.ready && decide (4 ≤ s.sys.clk.phase) && decide (s.sys.clk.phase ≤ 10)
  if (!(s.part p).en && !early) || s.sys.shutdown then none
  else if byVf then
    match findMsg s (p + 1) 1 with
    | none => none
    | some m =>
      let b : BitVec 256 := bits m.body 32 256
      if ops (hcOp b) then some (endMsg (s.atTick t) (p + 1) m 0 0 [], { body := b, byVf := true, tick := t.toNat }) else none
  else if ops (hcOp (s.part p).cmdData) then some (s.atTick t, { body := (s.part p).cmdData, byVf := false, tick := t.toNat })
  else none

/-- A command put into the queue, eight deep. -/
def enqueue (s : State) (p : Nat) (c : HoistCmd) : State :=
  if 8 ≤ (s.part p).queue.length then writeReport s p c { phase := if hcOp c.body = 2 then 7 else 0, status := 3 }
  else s.updPart p (fun x => { x with queue := x.queue ++ [c] })

/-- HOIST: any command but UNLOAD and ABORT; a reserved OP is refused as it is taken. -/
def execHoist (p : Fin 64) (byVf : Bool) (t : Dword) (s : State) : Out :=
  .next (match takeCommand s p byVf (fun o => o != 2 && o != 3) t with
  | some (s1, c) => enqueue s1 p c
  | none => s)

/-- The slot whose hoist an UNLOAD of slot i aborts: it is HOISTING, or a REPLACE is unloading it (R579). -/
def abortsSlot (s : State) (p i : Nat) : Bool :=
  match (s.part p).hoist with
  | some h => hcSlot h.cmd.body == i && ((s.img p i).st == .hoisting || h.waitUnload)
  | none => false

/-- Whether a command breaks a rule of its own fields (BAD_COMMAND). -/
def badCommand (c : HoistCmd) : Bool :=
  let b := c.body
  (hcOp b != 1 && hcOp b != 2) || hcTarget b != 0 || hcReport b % 64 != 0 ||
  (hcOp b == 1 && (hcListAddr b % 16 != 0 || hcListCnt b == 0 || decide (65536 < hcListCnt b)))

/-- An abort asked of a partition's hoist: once it is in LOAD it runs to its own outcome (Table 10.14). -/
def askAbort (s : State) (p : Nat) : State := s.updHoist p (fun h => { h with abortReq := h.abortReq || decide (h.phase.code ≤ 4) })

/-- UNLOAD: queued, or at once as ABORT. -/
def execUnload (p : Fin 64) (byVf : Bool) (t : Dword) (s : State) : Out :=
  .next (match takeCommand s p byVf (fun o => o == 2) t with
  | some (s1, c) =>
    if abortsSlot s1 p (hcSlot c.body) then
      (if badCommand c then writeReport s1 p c { phase := 7, status := 1 } else writeReport (askAbort s1 p) p c { phase := 7, status := 0 })
    else enqueue s1 p c
  | none => s)

/-- HOIST_ABORT: the running hoist up to STREAM, else the first waiting one, with the TAG named; otherwise LATE (Table 10.14). -/
def execHoistAbort (p : Fin 64) (byVf : Bool) (t : Dword) (s : State) : Out :=
  .next (match takeCommand s p byVf (fun o => o == 3) t with
  | none => s
  | some (s1, c) =>
    let target := hcTarget c.body
    let running := match (s1.part p).hoist with | some h => hcTag h.cmd.body == target && decide (h.phase.code ≤ 4) | none => false
    if hcReport c.body % 64 != 0 then writeReport s1 p c { phase := 7, status := 1 }
    else if running then writeReport (askAbort s1 p) p c { phase := 7, status := 0 }
    else match (s1.part p).queue.find? (fun q => hcOp q.body == 1 && hcTag q.body == target) with
      | some q => writeReport (writeReport (s1.updPart p (fun x => { x with queue := x.queue.erase q })) p q { phase := 0, status := 0x11 }) p c { phase := 7, status := 0 }
      | none => writeReport s1 p c { phase := 7, status := 0x12 })

/-! ### The queue taken: ACCEPT and HEADER -/

/-- A slot starts to unload, its drain limit counted from tick t (R255). -/
def beginUnload (s : State) (p i : Nat) (why : UnloadFor) (c : HoistCmd) (t : Nat) : State :=
  slotGone (s.updImg p i (fun x => { x with
    st := .unloading, unloadFor := some why, stopped := false
    drainEnd := if hcDrain c.body && hcDrainMs c.body != 0 then some (t + 1000000 * hcDrainMs c.body) else none })) p i

/-- Whether the halyard can read for a command: over some link of LINKS that is trained and carries the function (R251, R473). -/
def canRead (s : State) (p : Nat) (c : HoistCmd) : Bool :=
  (List.range 4).any (fun i => (hcLinks c.body).testBit i && canMaster s i (c.fn p))

/-- The key-encryption key of UNIT mode: salt header bytes 0 to 63, info "VQFJ image", the ephemeral point, the unit serial (R476). -/
def imageKek (s : State) (h : BitVec 2048) : BitVec 256 :=
  let point : BitVec 776 := bits h 512 776
  BitVec.ofNat 256 (Config.hkdf384 (64, bitsN h 0 512) (48, (Config.ukaEcdh s.serial point).toNat)
    (115, catFields [(10, 0x6567616D69204A465156), (97, point.toNat), (8, s.serial.toNat)]) 32)

/-- The key that wraps a content key: derived from the unit's identity, or a session slot's of purpose IMAGE (R476). -/
def wrapKey (s : State) (p : Nat) (h : BitVec 2048) : Option (BitVec 256) :=
  let k := AMap.at (s.secPart p).slots {} (hdN h 14 2)
  if hdN h 12 2 = 1 then (if Config.onCurve (bits h 512 776) then some (imageKek s h) else none)
  else if hdN h 12 2 = 2 ∧ hdN h 14 2 ≤ 15 ∧ k.purpose = 1 then some k.key
  else none

/-- The content key that the security engine unwraps and installs in the halyard, if it can (Table 10.2, R242, R476). -/
def contentKey (s : State) (p : Nat) (h : BitVec 2048) : Option (BitVec 256) :=
  if !s.sys.sec.selftestOk || !s.sys.sec.drbgOk then none
  else (wrapKey s p h).bind (fun k => Config.keyUnwrap k (bits h (if hdN h 12 2 = 1 then 1344 else 512) 320))

/-- A hoist whose header is read and whose content key, if it unwraps, is `key`. -/
def readHeader (s : State) (p : Nat) (c : HoistCmd) (inp : HoistIn) (key : Option (BitVec 256)) : State :=
  match inp.badEntry with
  | some k => endHoist s p 4 0xFFFFFFFF 0xFFFFFFFF k
  | none =>
    if !canRead s p c then failHoist s p 4
    else if decide (hcListCnt c.body ≠ inp.scatter.length) || headerFormatBad inp.scatter inp.header then failHoist s p 5
    else match key with
      | none => failHoist s p 6
      | some k => (s.updHoist p (fun h => { h with phase := .manifest, key := k })).updPart p (fun x => { x with hstat := { x.hstat with phase := 2 } })

/-- The hoist of an accepted command, its header checked. -/
def startHoist (s : State) (p : Nat) (c : HoistCmd) (inp : HoistIn) : State :=
  let i := hcSlot c.body
  let h : Hoist := {
    cmd := c, phase := .header, accepted := s.tb.toNat, header := inp.header, scatter := inp.scatter
    manLen := hdManLen inp.header, payLen := hdPayLen inp.header, segLog2 := hdSegLog2 inp.header
    keySlot := if hdN inp.header 12 2 = 2 then some (hdN inp.header 14 2) else none }
  let s1 := (s.updPart p (fun x => { x with hoist := some h, hstat := { x.hstat with busy := true, slot := i, phase := 1, progress := 0 } })).updImg p i (fun x =>
    if x.st = .empty then { x with st := .hoisting } else x)
  readHeader s1 p c inp (contentKey s1 p inp.header)

/-- Hoists that run on the module: the halyard serves four at once (R258). -/
def hoistsRunning (s : State) : Nat := (s.parts.filter (fun x => x.2.hoist.isSome)).length

/-- HOIST_QUEUE_TAKE: the next command starts, with what the halyard reads for it. -/
def execHoistQueueTake (p : Fin 64) (inp : HoistIn) (t : Dword) (s0 : State) : Out :=
  let x := s0.part p
  .next (match x.queue, x.hoist, x.waiting with
  | c :: r, none, [] =>
    if !s0.sys.ready || s0.sys.shutdown || s0.sys.struck || s0.sys.fw.mhStop || (hcOp c.body == 1 && decide (4 ≤ hoistsRunning s0)) then s0
    else
      let s := (s0.atTick t).updPart p (fun y => { y with queue := r })
      let i := hcSlot c.body
      let st := (s.img p i).st
      if badCommand c then writeReport s p c { phase := if hcOp c.body = 2 then 7 else 0, status := 1 }
      else if hcOp c.body = 2 then
        (match st with
         | .empty => writeReport s p c { phase := 7, status := 0 }
         | .loaded => (beginUnload s p i .command c t.toNat).updPart p (fun y => { y with waiting := [c], hstat := { y.hstat with busy := true, slot := i, phase := 7 } })
         | _ => s.updPart p (fun y => { y with waiting := [c], hstat := { y.hstat with busy := true, slot := i, phase := 7 } }))
      else if st = .empty ∨ (st = .loaded ∧ hcReplace c.body = true) then startHoist s p c inp
      else writeReport s p c { phase := 0, status := 2 }
  | _, _, _ => s0)

/-! ### MANIFEST and PLACE -/

/-- The status with which the manifest ends the hoist, if any check fails (Table 10.12). -/
def manifestStatus (s : State) (p : Nat) (h : Hoist) : Option Nat :=
  let m := h.plain
  firstCause [(!signatureOk (s.part p).signKey m h.manLen, 8), (imgN m 16 2 != s.sys.fwMajor, 0x0A), (manifestLayoutBad m h.manLen h.payLen, 0x0C),
    (decide (128000000000 < topsailBytes m), 0x0E)]

/-- STREAM begins: the masts of the placement are zeroed below the page pool and take the image's layout (R254). -/
def startStream (s : State) (p : Nat) : State :=
  match (s.part p).hoist with
  | none => s
  | some h =>
    let i := hcSlot h.cmd.body
    let (ox, oy, mx, my) := h.place.getD (0, 0, false, false)
    let s1 := s.updImg p i (fun x => { x with st := .hoisting, rig := h.rig, ox := ox, oy := oy, mx := mx, my := my, placed := true, unloadFor := none, drainEnd := none, stopped := false })
    let x := s1.img p i
    let s2 := (List.range (manNcore h.plain)).foldl (fun s v => s.updCore (coreOfIndex s x v) (fun c =>
      let e := eraseCore c
      { e with mast := { e.mast with
        data := Memory.clear c.mast.data 0 (dirPage h.plain v * 0x10000), poison := c.mast.poison.filter (fun k => decide (512 * dirPage h.plain v ≤ k))
        pool := dirPool h.plain v, pageBase := dirPage h.plain v, tierMax := dirTier h.plain v, svcLen := dirSvc h.plain v } })) s1
    retarget ((s2.updHoist p (fun h => { h with phase := .stream, waitUnload := false })).updPart p (fun y => { y with hstat := { y.hstat with phase := 4 } }))

/-- The manifest is complete: its checks, then PLACE, then STREAM or, under REPLACE, the unloading of the old image (R580), which R443 may have begun by then. -/
def checkManifest (s : State) (p : Nat) (t : Nat) : State :=
  match (s.part p).hoist with
  | none => s
  | some h =>
    match manifestStatus s p h with
    | some c => failHoist (if c = 8 then s else s.updHoist p (fun h => { h with digest := manDigest h.plain h.manLen })) p c
    | none =>
      let i := hcSlot h.cmd.body
      let rig := manRig h.plain
      let s1 := (s.updHoist p (fun h => { h with phase := .place, rig := rig, digest := manDigest h.plain h.manLen })).updPart p (fun y => { y with hstat := { y.hstat with phase := 3 } })
      match choosePlace s1 p i rig with
      | none => endHoist s1 p 0x0B 0xFFFFFFFF 0xFFFFFFFF (noFitDetail s1 p i rig)
      | some c =>
        let s2 := s1.updHoist p (fun h => { h with place := some c })
        match (s2.img p i).st with
        | .loaded => (beginUnload s2 p i .replace h.cmd t).updHoist p (fun h => { h with waitUnload := true })
        | .unloading => s2.updHoist p (fun h => { h with waitUnload := true })
        | _ => startStream s2 p

/-! ### STREAM -/

/-- Whether a field's recovery of a dead core is under way: the halyard pauses the field meanwhile (R262). -/
def recovering (s : State) (p n : Nat) : Bool :=
  match (s.part p).recov with
  | some r => r.dead.any (fun d => d / 192 == n)
  | none => false

/-- Whether a router delivers halyard traffic of partition p to a core, and its mast takes it: the field is p's and lies in a placement being hoisted (R140, R256). -/
def halyardMay (s : State) (p m : Nat) : Bool :=
  let n := m / 192
  (s.field n).owned && (s.field n).part == p && (s.slotsOn p n).any (fun i => (s.img p i).st == .hoisting)

/-- Section i delivered to its core, or discarded and logged (R256). -/
def deliverSection (s : State) (p : Nat) (h : Hoist) (i d : Nat) : State :=
  let m := h.plain
  let dst := coreOfIndex s (s.img p (hcSlot h.cmd.body)) (secCore m i)
  if halyardMay s p dst then s.updMast dst (fun y => { y with data := Memory.writeN y.data (secDest m i) d (secLen m i) })
  else isolate s p 9216 dst false

/-- Sections that have arrived whole, checked and delivered; the first with a wrong digest stops it, and so does one bound for a field that pauses. -/
def deliverSections : Nat → State → Nat → Hoist → State × Hoist × Option Nat
  | 0, s, _, h => (s, h, none)
  | n + 1, s, p, h =>
    let m := h.plain
    let i := h.sec
    if h.got < h.manLen + secOfs m i + secLen m i ∨ recovering s p (coreOfIndex s (s.img p (hcSlot h.cmd.body)) (secCore m i) / 192) = true then (s, h, none)
    else
      let d := imgN m (h.manLen + secOfs m i) (secLen m i)
      if Config.sha384 (secLen m i) d != BitVec.ofNat 384 (imgN m (secAt m i + 32) 48) then (s, h, some i)
      else deliverSections n (deliverSection s p h i d) p { h with sec := i + 1, bytes := h.bytes + secLen m i }

/-! ### LOAD and DONE -/

/-- What the loader knows while it checks virtual core v. -/
def legalCtx (h : Hoist) (c : Core) (routes v : Nat) : LegalCtx :=
  { sails := if rigSails4 h.rig then 4 else 3, mods := rigMods h.rig, rank := rigRank h.rig, routes := routes, wf := rigWF h.rig, hf := rigHF h.rig
    tcnt := c.ctx.toList.foldl (fun a x => if x.loaded then max a x.tcnt else a) 0, tc0 := (c.tc 0).loaded
    csLen := (sectionsOf h.plain v 1).foldl (fun a i => max a (secLen h.plain i)) 0, tops := (sectionsOf h.plain v 4).map (fun i => (secDest h.plain i, secLen h.plain i)) }

/-- Whether the largest declarations of a placed field's cores add up to more than 480 A (R402). -/
def fieldHeavy (core : Nat → Core) (f : Nat) : Bool := decide (480000 < (List.range 180).foldl (fun a k => a + topDecl (core (180 * f + k))) 0)

/-- The status, virtual core and DETAIL of the first LOAD check that fails (Table 10.12). -/
def loadFailure (s : State) (p : Nat) (h : Hoist) (badCore : Option Nat) : Option (Nat × Nat × Nat) :=
  let m := h.plain
  let x := s.img p (hcSlot h.cmd.body)
  let vs := List.range (manNcore m)
  let core := fun v => s.core (coreOfIndex s x v)
  let routes := match schedAt (core 0) m with | a :: _ => (readSched (core 0).mast.data a).routes.length | [] => 0
  let gs := vs.flatMap (fun v => (geoRecs (core v) m v).map (fun g => (v, core v, g)))
  let rs := vs.flatMap (fun v => (sampRecs (core v) m v).map (fun r => (v, core v, r)))
  match vs.findSome? (fun v => ((illegalDetail (legalCtx h (core v) routes v) (core v)).or (if v % 180 = 0 ∧ fieldHeavy core (v / 180) = true then some (2 + 64) else none)).map (fun d => (v, d))) with
  | some (v, d) => some (0x0D, v, d)
  | none =>
    match vs.find? (fun v => poolBad (core v) || repeats ((geoRecs (core v) m v).map Geo.space) || decide (1 < (sampRecs (core v) m v).length)) with
    | some v => some (0x0C, v, 0)
    | none =>
      match ((geosBad gs).or (sampsBad rs)).or (if sheetBad (core 0) m (rigMods h.rig) then some 0 else none) with
      | some v => some (0x0C, v, 0)
      | none =>
      if coverageBad m (vs.flatMap (fun v => coveredOn (core v) m v)) then some (0x0E, 0xFFFFFFFF, 0)
      else badCore.map (fun v => (0x10, v, 0))

/-- The slot becomes LOADED: its generation, its models, its sheet schedule; a quarantine ends; cores on three phases are judged by the new declarations; the report is
written (R119, R270, R406). -/
def finishHoist (s : State) (p : Nat) : State :=
  match (s.part p).hoist with
  | none => s
  | some h =>
    let i := hcSlot h.cmd.body
    let m := h.plain
    let x := s.img p i
    let c0 := s.core (coreOfIndex s x 0)
    let same := x.genDigest == some h.digest
    let samp := (slotCores s p i).findSome? (fun k => (s.core k).samp)
    let s1 := s.updImg p i (fun x => { x with
      st := .loaded, digest := h.digest, loads := (x.loads + 1) % 256, gen := if same then x.gen else (x.gen + 1) % 0x3FFF, genDigest := some h.digest
      draft := (manModels m).any (fun y => y.2 == 2), kmax := match samp with | some r => bitsN r 64 8 | none => 0, nv := match samp with | some r => bitsN r 32 32 | none => 0
      autos := [], models := manModels m, sheet := match schedAt c0 m with | a :: _ => readSched c0.mast.data a | [] => {} })
    let s2 := if same then s1 else { s1 with table := { s1.table with entries := AMap.mapAll s1.table.entries (fun e y =>
      if (s1.req p).owns e && y.st != EntSt.free && y.islot == i then { y with igen := 0x3FFF } else y) } }
    let s3 := if (s2.grp p).quarantined then
        dblBoth ((s2.updGrp p (fun g => { g with quarantined := false, quarNext := false, guarded := false, window := 0 })).updReq p (fun r => { r with halt := false })) p 9
      else s2
    let ns := ((slotCores s p i).map (· / 192)).eraseDups
    let s4 := (slotCores s p i).foldl (fun s m => if (s.corePwr m).reefed then reefCore s m else s) <| ns.foldl (fun s n => s.updFieldPwr n (fun y => { y with hwm := 0 })) (s3.updHoist p (fun h => { h with phase := .done }))
    let s5 := (otherRanks (s4.slice p)).foldl (fun s r => if (s.slice p).mods = 0 then s else tellHeld s p i r) s4
    endHoist s5 p 0 0xFFFFFFFF 0xFFFFFFFF 0

/-- LOAD: every core loaded from its mast and checked. The slot is LOADED once no glide runs (R378). -/
def loadImage (s : State) (p : Nat) : State :=
  match (s.part p).hoist with
  | none => s
  | some h =>
    let m := h.plain
    let x := s.img p (hcSlot h.cmd.body)
    let ms := (List.range (manNcore m)).map (fun v => (v, coreOfIndex s x v))
    let s1 := ms.foldl (fun s e => s.updCore e.2 (fun c =>
      let c1 := loadCore c
      { c1 with geos := (geoRecs c1 m e.1).foldl (fun a g => AMap.put a g.space g) [], samp := (sampRecs c1 m e.1).head? })) s
    let s2 := (writePins s1 (ms.map (·.2))).updHoist p (fun h => { h with phase := .load })
    match loadFailure s2 p h h.badCore with
    | some (c, v, d) => endHoist (if c = 0x10 then raiseFault s2 p 0x04 (coreOfIndex s2 x v / 192) (coreOfIndex s2 x v % 192) else s2) p c 0xFFFFFFFF v d
    | none =>
      let s3 := (s2.updHoist p (fun h => { h with phase := .done })).updPart p (fun y => { y with hstat := { y.hstat with phase := 6 } })
      if s3.sys.clk.gliding then s3 else finishHoist s3 p

/-- The payload delivered as far as it has arrived, and the image loaded once it is whole. -/
def advanceHoist (s : State) (p : Nat) : State :=
  match (s.part p).hoist with
  | none => s
  | some h =>
    if h.phase ≠ .stream then s
    else
      let (s1, h1, bad) := deliverSections (manNsec h.plain - h.sec) s p h
      let s2 := s1.updPart p (fun y => { y with hoist := some h1, hstat := { y.hstat with progress := if h1.payLen = 0 then 0 else min 255 (256 * h1.bytes / h1.payLen) } })
      match bad with
      | some i => endHoist s2 p 9 i (secCore h1.plain i) 0
      | none => if h1.sec = manNsec h1.plain then loadImage s2 p else s2

/-- A hoist that paused for a recovery goes on, or ends as what has met it meanwhile says (R262). -/
def resumeHoist (s : State) (p : Nat) : State :=
  match (s.part p).hoist with
  | none => s
  | some h => if h.phase ≠ .stream then s else if h.lost then failHoist s p 0x0F else if h.abortReq then failHoist s p 0x11 else advanceHoist s p

/-- Decrypted payload that awaits delivery. -/
def Hoist.stored (h : Hoist) : Nat := if h.phase = .stream then h.got - (h.manLen + secOfs h.plain h.sec) else 0

/-- The section that a stream offset falls in. -/
def sectionAt (h : Hoist) (a : Nat) : Nat :=
  match (List.range (manNsec h.plain)).find? (fun i => decide (a < h.manLen + secOfs h.plain i + 64 * ceilDiv (secLen h.plain i) 64)) with
  | some i => i
  | none => 0xFFFFFFFF

/-- The scatter entry that holds a byte of the file. -/
def scatterAt : List (Nat × Nat × Nat) → Nat → Nat → Nat
  | [], _, k => k
  | e :: l, a, k => if a < e.2.1 ∨ l.isEmpty then k else scatterAt l (a - e.2.1) (k + 1)

/-- The IV of segment j: NONCE and j (R242). -/
def segIv (h : BitVec 2048) (j : Nat) : BitVec 96 := packFields 96 [(0, 64, hdN h 48 8), (64, 32, j)]

/-- The length of the next segment's plaintext. -/
def Hoist.segLen (h : Hoist) : Nat := min (2 ^ h.segLog2) (h.manLen + h.payLen - h.got)

/-- A segment's plaintext taken, or the AUTH ending of one whose tag has failed: it is written nowhere. -/
def takeSegment (s : State) (p : Nat) (h : Hoist) (plain badCore : Option Nat) : State :=
  match plain with
  | none => endHoist s p 7 (if h.phase = .stream then sectionAt h h.got else 0xFFFFFFFF) 0xFFFFFFFF 0
  | some d =>
    let h1 := { h with plain := Memory.writeN h.plain h.got d h.segLen, got := h.got + h.segLen, seg := h.seg + 1, badCore := badCore }
    let s1 := s.updHoist p (fun _ => h1)
    advanceHoist (if h1.phase = .manifest ∧ h1.manLen ≤ h1.got then checkManifest s1 p s.tb.toNat else s1) p

/-- Whether the halyard's store of 64 MiB is full (R257). -/
def storeFull (s : State) : Bool := decide (0x4000000 ≤ s.parts.foldl (fun a x => a + (match x.2.hoist with | some h => h.stored | none => 0)) 0)

/-- Whether a partition's hoist asks the halyard for a segment, or has to be stopped at one; while the store is full none is fetched (R257). -/
def fetching (full : Bool) (x : Part) : Bool :=
  match x.hoist with
  | some h => !h.waitUnload && (h.phase == .manifest || h.phase == .stream) && (h.lost || h.abortReq || (!full && decide (h.got < h.manLen + h.payLen)))
  | none => false

/-- The partition whose hoist is served next, in rotation (R258). -/
def halyardNext (s : State) : Option Nat := ((List.range 64).map (fun k => (s.sys.halTurn + k) % 64)).find? (fun p => fetching (storeFull s) (s.part p))

/-- HALYARD_SEGMENT: the next segment of the stream, or the stop that an abort or a lost core asks for (R242, R258, R262). -/
def execHalyardSegment (p : Fin 64) (seg : SegIn) (t : Dword) (s0 : State) : Out :=
  .next (match (s0.part p).hoist with
  | none => s0
  | some h =>
    if halyardNext s0 ≠ some p.val then s0
    else
      let s1 := s0.atTick t
      let s := { s1 with sys := { s1.sys with halTurn := (p.val + 1) % 64 } }
      if h.lost then failHoist s p 0x0F
      else if h.abortReq then failHoist s p 0x11
      else if !canRead s p h.cmd then endHoist s p 4 0xFFFFFFFF 0xFFFFFFFF (scatterAt h.scatter (256 + h.seg * (2 ^ h.segLog2 + 16)) 0)
      else takeSegment s p h (Config.gcmOpen h.key (segIv h.header h.seg) 256 h.header.toNat h.segLen seg.data seg.tag) seg.badCore)

/-- HOST_READ_TIMEOUT for a hoist: the read of scatter entry k failed or timed out. -/
def hoistReadFails (s : State) (p k : Nat) : State :=
  match (s.part p).hoist with
  | some h => if h.waitUnload || h.phase == .done then s else endHoist s p 4 0xFFFFFFFF 0xFFFFFFFF k
  | none => s

/-! ### Unloading (R255) -/

/-- UNLOAD_DRAIN_LIMIT: requests of the image that still hold a decode slot end at the next boundary. -/
def execUnloadDrainLimit (p : Fin 64) (slot : Fin 4) (t : Dword) (s0 : State) : Out :=
  let s := s0.atTick t
  let x := s.img p slot
  .next (if x.st = .unloading ∧ (match x.drainEnd with | some d => decide (d < t.toNat) | none => true) = true then
    markEntries s p [slot.val] (match x.unloadFor with | some .reset => 0x27 | some .lost => x.lostStatus | _ => 0x21)
  else s)

/-- Whether an entry still needs the masts of its slot: it holds a decode slot, parks, or will park once its record is written. -/
def needsMasts (x : Entry) : Bool :=
  x.st == .active || x.work == .parking || (x.st == .draining && x.work == .record && x.turn.retain && x.heldTurn.isNone)

/-- An entry of an erased slot brought into line (R255 step 5, R443 steps 4 and 5). -/
def eraseEntry (s : State) (p e status : Nat) : State :=
  let x := s.ent e
  if x.st = .free ∨ x.st = .parked then s
  else
    let s1 := (s.updReq p (fun r => { r with pageWork := r.pageWork.filter (fun w => w.entry != e) })).updEnt e (fun y => { y with pages := [], rid := none })
    let s2 := match x.st with
      | .done => s1.updEnt e (fun y => { y with res := false })
      | .queued =>
        if x.sled then s1.updEnt e (fun y => { y with res := false, moved := 0 })
        else if 1 ≤ x.len then s1.updEnt e (fun y => { y with ended := some (y.ended.getD status) })
        else s1
      | _ => s1
    settle s2 p e s.tb.toNat

/-- UNLOAD_ERASE_DONE: the masts erased, the slot EMPTY, the report written; a REPLACE goes on into STREAM. -/
def execUnloadEraseDone (p : Fin 64) (slot : Fin 4) (t : Dword) (s0 : State) : Out :=
  let x := s0.img p slot
  .next (if x.st ≠ .unloading ∨ x.stopped = false ∨ (entriesOf s0 p (fun _ e => e.islot == slot.val && needsMasts e)).isEmpty = false then s0
  else
    let s := s0.atTick t
    let status := match x.unloadFor with | some .lost => x.lostStatus | some .reset => 0x27 | _ => 0x21
    let s1 := (entriesOf s p (fun _ e => e.islot == slot.val)).foldl (fun s e => eraseEntry s p e status) s
    let gone := (s1.req p).autoLoads.filter (fun a => a.slot == slot.val)
    let s2 := gone.foldl (fun s a => endBody s (p + 1) a.msg 0 4 []) (s1.updReq p (fun r => { r with autoLoads := r.autoLoads.filter (fun a => a.slot != slot.val) }))
    let s3 := clearSlot s2 p slot
    let s4 := if x.unloadFor = some .lost ∨ x.unloadFor = some .reset then dblBoth s3 p 6 else s3
    let s5 := s4.updPart p (fun y => { y with resetting := y.resetting && y.slots.toList.any (fun z => z.st == .unloading) })
    let s6 := match (s5.part p).hoist with
      | some h =>
        if h.waitUnload && hcSlot h.cmd.body == slot.val then
          (if h.lost then failHoist s5 p 0x0F else if h.abortReq then failHoist s5 p 0x11 else advanceHoist (startStream s5 p) p)
        else s5
      | none => s5
    let s7 := ((s6.part p).waiting.filter (fun c => hcSlot c.body == slot.val)).foldl (fun s c => writeReport s p c { phase := 7, status := 0 }) s6
    retarget (s7.updPart p (fun y =>
      let w := y.waiting.filter (fun c => hcSlot c.body != slot.val)
      { y with waiting := w, hstat := { y.hstat with busy := y.hoist.isSome || !w.isEmpty } })))

end Sys2Proof.Machine
end

