-- ==== Sys2Proof/Machine/Recorder.lean ====
section
/-! DEFINITION. The event recorder's own commands: freeze, dump, clear, flush, sources; and the removal of log records (25, 06 R152). -/

namespace Sys2Proof.Machine

/-! ### The flush image (Table 25.2, R552) -/

/-- The 64 bytes of a record. -/
def EvrRec.bits (r : EvrRec) : BitVec 512 :=
  packFields 512 [(0, 8, r.kind), (8, 3, r.sev), (16, 8, r.part), (24, 8, r.field), (32, 16, r.core), (48, 16, r.count), (64, 32, r.ops), (96, 16, r.pcc),
    (128, 64, r.tb.toNat), (192, 64, r.value.toNat), (256, 64, r.aux.toNat)]

/-- EVR_HSRC[h] as it reads. -/
def EvrData.hsrcWord (d : EvrData) (h : Nat) : Word := if h < 24 then packFields 32 [(0, 5, h), (11, 1, 1)] else AMap.at d.hsrc 0x800#32 h

/-- Image bytes 0x1000 to 0x9FFF. -/
def EvrData.body (d : EvrData) : Nat :=
  let bins := d.bins.foldl (fun a x => a + x.2 * 2 ^ (32 * x.1)) 0
  let recs := d.recs.foldl (fun a x => a + x.2.bits.toNat * 2 ^ (512 * x.1)) 0
  let src := (List.range 64).foldl (fun a h => a + (d.hsrcWord h).toNat * 2 ^ (32 * h)) 0
  bins + recs * 2 ^ (8 * 0x4000) + (src + d.dropped * 2 ^ 2048 + d.missedS * 2 ^ 2080 + d.missedE * 2 ^ 2112) * 2 ^ (8 * 0x8000)

/-- The 40 KiB image as one little-endian number. -/
def EvrImage.bytes (x : EvrImage) : Nat :=
  let head := (packFields 512 [(0, 32, 0x52455156), (32, 16, 1), (48, 8, x.cause), (64, 32, x.seq), (96, 32, x.ops), (128, 16, x.pcc)]).toNat
  let body := x.data.body
  head + (Config.sha384 (64 + 0x9000) (head + body * 2 ^ 512)).toNat * 2 ^ 512 + body * 2 ^ (8 * 0x1000)

/-! ### Messages (Table 25.4) -/

/-- Whether PF0 may issue requests to host memory on a link. -/
def pfMaster (s : State) (link : Nat) : Bool :=
  let l := s.host.links.toList.getD link {}
  l.up && (AMap.at l.cfg {} 0).master

/-- EVR_FREEZE: a limit of 0 means 1,000 ms. -/
def execEvrFreeze (t : Dword) (s0 : State) : Out :=
  .next (match findMsg s0 0 0x50 with
  | none => s0
  | some m =>
    let s := s0.atTick t
    let ms := bitsN m.body 32 16
    if 10000 < ms then endMsg s 0 m 0 4 []
    else if s.sys.evr.frozen.isSome then endMsg s 0 m 0 1 []
    else endMsg (s.updEvr (fun e => { e with frozen := some (t.toNat + 1000000 * (if ms = 0 then 1000 else ms)), frzS := 0, frzE := 0 })) 0 m 0 0 [])

/-- EVR_THAW: its reply gives the counts of this freeze. -/
def execEvrThaw (t : Dword) (s0 : State) : Out :=
  .next (match findMsg s0 0 0x51 with
  | none => s0
  | some m =>
    let s := s0.atTick t
    let e := s.sys.evr
    if e.frozen.isNone then endMsg s 0 m 0 1 []
    else endMsg (s.updEvr (fun e => { e with frozen := none })) 0 m 0 0 [(64, 32, e.frzS), (96, 32, e.frzE)])

/-- EVR_FREEZE_LIMIT: past the limit the recorder thaws, stores FREEZE_EXPIRED and signals vector 5, once whatever VEC_SEV is. -/
def execEvrFreezeLimit (t : Dword) (s0 : State) : Out :=
  .next (match s0.sys.evr.frozen with
  | none => s0
  | some l =>
    if t.toNat ≤ l then s0
    else
      let quiet := evrEvent ((s0.atTick t).updEvr (fun e => { e with frozen := none, vecSev := 7 })) 0x88 1 0xFF noField noCore none none
      signal (quiet.updEvr (fun e => { e with vecSev := s0.sys.evr.vecSev })) 0 5)

/-- EVR_DUMP: the image of the contents written to host memory over the link that carried the message. CAUSE and SEQ of a dump are free. -/
def execEvrDump (s : State) : Out :=
  .next (match findMsg s 0 0x52 with
  | none => s
  | some m =>
    let a := bitsN m.body 64 64
    if a % 4096 ≠ 0 then endMsg s 0 m 0 4 []
    else if !pfMaster s m.link then endMsg s 0 m 0 2 []
    else
      let e := s.sys.evr
      let x : EvrImage := { cause := s.fresh.toNat % 256, seq := s.fresh.toNat / 256 % 2 ^ 32, ops := e.ops, pcc := e.pcc, data := e.data }
      endMsg (emit { s with free := s.free + 1 } (.write 0 a 0xA000 x.bytes)) 0 m 0 0 [])

/-- EVR_CLEAR: selected histograms, the event store, the extreme records, the missed and dropped counts. -/
def execEvrClear (s : State) : Out :=
  .next (match findMsg s 0 0x53 with
  | none => s
  | some m =>
    let sel := fun b => bitAt m.body (32 + b)
    let mask := bitsN m.body 64 64
    endMsg (s.updEvr (fun e =>
      let d := e.data
      let d1 := if sel 0 then { d with bins := d.bins.filter (fun x => !mask.testBit (x.1 / 64)) } else d
      let d2 := if sel 1 then { d1 with recs := d1.recs.filter (fun x => decide (x.1 < 32)) } else d1
      let d3 := if sel 2 then { d2 with recs := d2.recs.filter (fun x => decide (32 ≤ x.1)) } else d2
      { e with data := if sel 3 then { d3 with dropped := 0, missedS := 0, missedE := 0 } else d3 })) 0 m 0 0 [])

/-- EVR_FLUSH: answered when its flush ends. -/
def execEvrFlush (t : Dword) (s0 : State) : Out :=
  .next (match findMsg s0 0 0x54 with
  | none => s0
  | some m => askFlush (holdMsg (s0.atTick t) 0 m) { cause := 5, msg := some m.body })

/-- EVR_PERIODIC_FLUSH. -/
def execEvrPeriodicFlush (t : Dword) (s : State) : Out :=
  .next (if s.sys.clk.phase < 4 then s else askFlush (s.atTick t) { cause := 4 })

/-- EVR_FAULT_FLUSH_SPACING: 60 s after the last flush, the faults that arrived meanwhile are covered by one flush. -/
def execEvrFaultFlushSpacing (t : Dword) (s0 : State) : Out :=
  let s := s0.atTick t
  .next (if s0.sys.evr.faultDue && flushSpaced s && s0.sys.evr.flush.isNone then beginFlush s { cause := 3 } else s0)

def State.updCfg (s : State) (f : Cfg → Cfg) : State := { s with sys := { s.sys with cfg := f s.sys.cfg } }

/-- A slot of a device's recorder region written, and the following one erased (R553). -/
def NvmDev.putEvr (d : NvmDev) (k : Nat) (x : EvrImage) : NvmDev := { d with evr := AMap.del (AMap.put d.evr k x) ((k + 1) % 64) }

/-- RECORDER_FLUSH_DONE: the writes to devices 0 and 1 end; the message is answered, and a flush that waits begins. -/
def execRecorderFlushDone (ok0 ok1 : Bool) (t : Dword) (s0 : State) : Out :=
  .next (match s0.sys.evr.flush with
  | none => s0
  | some f =>
    let s := s0.atTick t
    let c := s.sys.cfg
    let a := ok0 && c.dev0.present
    let b := ok1 && c.dev1.present
    let s1 := match f.image with
      | none => s
      | some x => s.updCfg (fun c => { c with dev0 := if a then c.dev0.putEvr f.slot x else c.dev0, dev1 := if b then c.dev1.putEvr f.slot x else c.dev1 })
    let s2 := s1.updEvr (fun e => { e with flush := none, slot := f.slot, flushes := satAdd 0xFFFF e.flushes 1, flushErr := e.flushErr || (!a && !b) })
    let s3 := if !a && !b then signal s2 0 5 else s2
    let s4 := match f.msg with | some m => endBody s3 0 m 0 (if !a && !b then 3 else 0) [] | none => s3
    match s4.sys.evr.queue with
    | g :: r => beginFlush (s4.updEvr (fun e => { e with queue := r })) g
    | [] => if s4.sys.evr.faultDue && flushSpaced s4 then beginFlush s4 { cause := 3 } else s4)

/-- EVR_HSRC_WRITE (R546): a settable histogram's source; its bins are cleared. SRC above 23 leaves SRC as it is. -/
def execEvrHsrcWrite (h : Fin 64) (w : Word) (s : State) : Out :=
  .next (if h.val < 24 then s
  else s.updEvr (fun e =>
    let old := AMap.at e.data.hsrc 0x800#32 h
    let src := if 23 < bitsN w 0 5 then bitsN old 0 5 else bitsN w 0 5
    { e with data := { e.data with
        hsrc := AMap.put e.data.hsrc h (packFields 32 [(0, 5, src), (5, 6, bitsN w 5 6), (11, 1, b2n (bitAt w 11))])
        bins := e.data.bins.filter (fun x => x.1 / 64 != h.val) } }))

end Sys2Proof.Machine
end

