-- ==== Sys2Proof/Machine/Clock.lean ====
section
/-! DEFINITION. The clock block in service: steps and glides, lock and its loss, reference oscillators, the time base, shutdown (16 R374 to R386, R395, 19 R445). -/

namespace Sys2Proof.Machine

def State.clkField (s : State) (n : Nat) : ClkField := AMap.at s.sys.clk.fields {} n

def State.updClkField (s : State) (n : Nat) (f : ClkField → ClkField) : State := s.updClk (fun c => { c with fields := AMap.upd c.fields {} n f })

/-! ### Orderly shutdown (R445) -/

/-- CLOSE sent once to the crow's nest, on the power-fail event or at shutdown (R454). -/
def sendClose (s : State) : State :=
  if s.sys.cnm.closed then s
  else
    let s1 := sendTally s { seq := 0, kind := 4, stamp := s.tb }
    { s1 with sys := { s1.sys with cnm := { s1.sys.cnm with closed := true } } }

/-- Every sail idled (R428 steps 2 and 3): each partition's step is failed and ended at once, its decode slots' entries get the status, its hoists are ABORTED. -/
def idleSails (s : State) (code status : Nat) : State :=
  s.enabled.foldl (fun s p =>
    let n := itemCount s p [0, 1, 2, 3]
    let s1 := if code = 0x4C then raiseFaultN s p code noField noCore n else s
    let s2 := if (s1.grp p).inStep then failStep s1 p code else s1
    let s3 := markEntries (endStepNow s2 p) p [0, 1, 2, 3] status
    let s4 := if (s3.part p).hoist.isSome then failHoist s3 p 0x11 else s3
    s4.updGrp p (fun g => { g with stepping := false })) s

/-- Every UNLOAD that waits for its slot reports ABORTED at a shutdown (Table 19.3). -/
def abortWaiting (s : State) (p : Nat) : State :=
  (s.part p).waiting.foldl (fun s c => writeReport s p c { phase := 7, status := 0x11 }) (s.updPart p (fun x => { x with waiting := [] }))

/-- A module-class fault: logged everywhere, admission closed, every item answered, commands that wait among them, the recorder flushed (Table 19.3). -/
def orderlyShutdown (s : State) (code : Nat) : State :=
  if s.sys.shutdown then s
  else
    let n := fun (s : State) => { s with sys := { s.sys with shutdown := true } }
    let s1 := n (idleSails (raiseAll s code noField noCore) code 0x23)
    let s2 := s1.enabled.foldl (fun s p => endMarked (abortWaiting (abortQueue s p) p) p s.tb.toNat) s1
    let s3 := (List.range 65).foldl (fun s f => dblSet (mailShutdown s f) f 5) s2
    urgentFlush (sendClose s3) 2

/-! ### Steps and glides -/

/-- CLK_STEP_REQ_WRITE (R378). -/
def execClkStepReqWrite (v : Fin 4) (s : State) : Out := .next (retarget (s.updClk (fun c => { c with stepReq := v })))

/-- GLIDE_END: hoists that waited for the glide become LOADED, or end as what has met them meanwhile says (Table 10.14); a target that has moved meanwhile starts the next glide (R377, R378). -/
def execGlideEnd (t : Dword) (s0 : State) : Out :=
  .next (if !s0.sys.clk.gliding then s0
  else
    let s1 := retarget ((s0.atTick t).updClk (fun c => { c with gliding := false }))
    if s1.sys.clk.gliding then s1
    else s1.enabled.foldl (fun s p => match (s.part p).hoist with
      | some h => if h.phase ≠ .done then s else if h.lost then failHoist s p 0x0F else if h.abortReq then failHoist s p 0x11 else finishHoist s p
      | none => s) s1)

/-! ### Lock (R375, R376) -/

/-- CORNER_LOCK_LOSS: a corner out of lock for 1 µs; the field's partition fails its step and holds at its boundary. -/
def execCornerLockLoss (n : Fin 48) (corner : Fin 4) (t : Dword) (s0 : State) : Out :=
  let c := s0.clkField n
  .next (if !c.locked && c.unlockAt.isNone then s0
  else
    let s := (s0.atTick t).updClkField n (fun c => { c with
      corners := setBits c.corners corner 1 0, locked := false, unlockAt := some (c.unlockAt.getD t.toNat), lossCnt := if c.locked then satAdd 0xFF c.lossCnt 1 else c.lossCnt })
    let f := s.field n
    if !f.owned || !c.locked then s
    else
      let s1 := if (s.grp f.part).inStep then failStep s f.part 0x11 else s
      s1.updGrp f.part (fun g => { g with held := true }))

/-- The next field, in ascending index, asks for its quiet window (R408, R409). -/
def requestGrant (s0 : State) : State :=
  let s := if (List.range 48).any (fun n => (s0.fieldPwr n).st == 2) then s0 else s0.updPwr (fun x => { x with fields := AMap.mapAll x.fields (fun _ y => { y with armed := false }) })
  if s.sys.clk.phase ≠ 7 ∨ (List.range 48).any (fun n => (s.fieldPwr n).st == 1 || (s.fieldPwr n).st == 2) = true then s
  else
    let off := s.sys.cfg.fieldOff.toNat
    let present := fun n => !s.grade40 || s.sys.lmap.contains n
    match (List.range 48).find? (fun n => present n && !off.testBit n && (s.fieldPwr n).st == 0 && !(s.fieldPwr n).trip && (s.clkField n).powerOn.isNone) with
    | some n => s.updFieldPwr n (fun x => { x with st := 1, waitAt := s.tb.toNat })
    | none => s

/-- A field controller loaded from the FC image chosen at this start (24 R524, R540). -/
def loadController (s : State) (n : Nat) : State := { s with sys := { s.sys with fw := { s.sys.fw with fc := AMap.put s.sys.fw.fc n s.sys.fw.fcVer } } }

/-- The 100 µs of a field out of lock have passed at tick t (R376, R388). -/
def ClkField.tooLate (c : ClkField) (t : Nat) : Bool := match c.unlockAt with | some u => decide (u + 100000 < t) | none => false

/-- The 1 ms of a field's power-on has passed at tick t (R375, R388, R409). -/
def ClkField.lockLate (c : ClkField) (t : Nat) : Bool := match c.powerOn with | some u => decide (u + 1000000 < t) | none => false

/-- A field that fails its power-on is switched off and stays DARK; the sequence goes on without it. -/
def powerFails (s : State) (n code st : Nat) : State := requestGrant (fieldLost (s.updFieldPwr n (fun x => { x with st := st, trip := true })) n code)

/-- A measurement of the largest phase difference between adjacent cores, in ps: the spec says of no row that it carries one, so it is a free value. DESIGN CHOICE:
notes/assumptions/109.md. -/
def ClkField.skew (c : ClkField) (s : State) : ClkField := { c with skewHwm := max c.skewHwm (s.fresh.toNat % 256) }

/-- A field has locked at its power-on: ON, its core regulators up, its controller loaded (R409). -/
def fieldOn (s : State) (n : Nat) : State :=
  let s1 := (s.updFieldPwr n (fun x => { x with st := 3 })).updClkField n (fun c => ({ c with locked := true, corners := 15#4 } : ClkField).skew s)
  let s2 := (List.range 192).foldl (fun s c => powerCore s (n * 192 + c)) { s1 with free := s1.free + 1 }
  requestGrant (loadController (supplyJudge s2 n) n)

/-- FIELD_RELOCK: all four corners report lock. In service the partition replays from its boundary, and at power-on the field is ON, unless its time has passed. -/
def execFieldRelock (n : Fin 48) (t : Dword) (s0 : State) : Out :=
  let c := s0.clkField n
  .next (if (s0.fieldPwr n).st = 2 then
    (if c.lockLate t.toNat then powerFails (s0.atTick t) n 0x47 0 else fieldOn (s0.atTick t) n)
  else if c.unlockAt.isNone then s0
  else if c.tooLate t.toNat then fieldLost (s0.atTick t) n 0x47
  else
    let s := (s0.atTick t).updClkField n (fun c => ({ c with locked := true, corners := 15#4, unlockAt := none } : ClkField).skew s0)
    let f := s.field n
    let s1 := { s with free := s.free + 1 }
    if f.owned then releaseHold (raiseFault s1 f.part 0x11 n noCore) f.part else s1)

/-- RELOCK_TIMEOUT: 100 µs without relock; the field goes dark. -/
def execRelockTimeout (n : Fin 48) (t : Dword) (s0 : State) : Out :=
  .next (if (s0.clkField n).tooLate t.toNat then fieldLost (s0.atTick t) n 0x47 else s0)

/-- FIELD_LOCK_TIMEOUT: not locked within 1 ms of power-on. -/
def execFieldLockTimeout (n : Fin 48) (t : Dword) (s0 : State) : Out :=
  .next (if (s0.fieldPwr n).st = 2 ∧ (s0.clkField n).lockLate t.toNat = true then powerFails (s0.atTick t) n 0x47 0 else s0)

/-! ### Reference oscillators (R383) -/

/-- The oscillator that a window judges failed beyond those that have stopped: more than 200 ppm apart, and further from the monitor by more than 10 ppm. -/
def refJudge (stopA stopB stopM : Bool) (dAB dAM dBM : Nat) : Option Bool :=
  if stopA || stopB || stopM || decide (dAB ≤ 200) || (decide (dAM ≤ dBM + 10) && decide (dBM ≤ dAM + 10)) then none
  else some (decide (dAM < dBM))

/-- REF_OSC_CHECK: A, B and the monitor compared over 1 ms, as distances in ppm. -/
def execRefOscCheck (stopA stopB stopM : Bool) (dAB dAM dBM : Nat) (t : Dword) (s0 : State) : Out :=
  let s := s0.atTick t
  let c := s.sys.clk
  let j := refJudge stopA stopB stopM dAB dAM dBM
  let a := c.failA || stopA || j == some false
  let b := c.failB || stopB || j == some true
  let active := c.refSel
  let lost := if active = 0 then a else b
  let other := if active = 0 then b else a
  let s1 := s.updClk (fun c => { c with
    failA := a, failB := b, monFail := c.monFail || stopM, refSel := if lost && !other then 1 - active else active
    refHold := if a && b && c.refHold.isNone then some t.toNat else c.refHold })
  let odd := !stopA && !stopB && !a && !b && decide (200 < dAB) && j.isNone
  .next (if (a && !c.failA) || (b && !c.failB) then raiseAll s1 0x5D noField noCore
  else if odd then evrEvent s1 0x5D 2 0xFF noField noCore none none
  else s1)

/-- REF_HOLD_TIMEOUT: 10 s after both references failed the module shuts down. -/
def execRefHoldTimeout (t : Dword) (s0 : State) : Out :=
  .next (match s0.sys.clk.refHold with
  | some u => if t.toNat ≤ u + 10000000000 then s0 else orderlyShutdown (s0.atTick t) 0x60
  | none => s0)

/-! ### The time base (R384 to R386, R395) -/

/-- TIME_BASE_SYNC: the copy of every powered field's controller adopts the rim's value (R385). -/
def execTimeBaseSync (t : Dword) (s0 : State) : Out :=
  let s := s0.atTick t
  .next (((List.range 48).filter (fun n => (s.fieldPwr n).st == 3)).foldl (fun s n => s.updClkField n (fun c => { c with copy := s.tb })) s)

/-- Whether the module follows a peer or is locked to IEEE 1588. -/
def timeLocked (s : State) : Bool := (!s.sheet.leader && (timePeer s).isSome) || s.sys.pins.ptpLocked

/-- CLK_TB_SET_GO: a host set, refused while locked; a backward one after READY slews. -/
def execClkTbSetGo (t : Dword) (s0 : State) : Out :=
  let s := s0.atTick t
  let v := s.sys.clk.tbSet
  .next (if timeLocked s then s.updClk (fun c => { c with setRes := 2 })
  else (moveTime s v).updClk (fun c => if backStep s v.toNat then { c with setRes := 3 } else { c with setRes := 1, source := 3 }))

/-- CLK_TB_LO_READ: CLK_TB_HI latched for the function that reads. -/
def execClkTbLoRead (f : Fin 65) (t : Dword) (s0 : State) : Out :=
  .next ((s0.atTick t).updFn f (fun x => { x with tbHi := (t >>> 32).setWidth 32 }))

/-- SLEW_DONE: once the difference has been given up the rate is restored. -/
def execSlewDone (t : Dword) (s : State) : Out :=
  .next (if s.sys.clk.slew.isSome && decide (s.sys.clk.slewEnd ≤ t.toNat) then endSlew (s.atTick t) else s)

/-- HOST_SWAL_WRITE: a count above 8 is ignored (Table 16.13). -/
def execHostSwalWrite (p : Fin 64) (v : Fin 16) (s : State) : Out :=
  .next (if 8 < v.val then s else swalNow (s.updClkPart p (fun c => { c with hostSwal := v })) p)

end Sys2Proof.Machine
end

