-- ==== Sys2Proof/Machine/Meter.lean ====
section
/-! DEFINITION. The tally link and the crow's nest meter: messages, credits, intervals, signed records, the relay (20). -/

namespace Sys2Proof.Machine

def State.updCnm (s : State) (f : Cnm → Cnm) : State := { s with sys := { s.sys with cnm := f s.sys.cnm } }

def State.updMeter (s : State) (f : Meter → Meter) : State := s.updCnm (fun c => { c with meter := f c.meter })

/-! ### The message (Table 20.2) -/

/-- One byte taken into a CRC-32 of the IEEE 802.3 polynomial, least significant bit first. -/
def crc32Byte (c : BitVec 32) (b : Nat) : BitVec 32 :=
  iter 8 0 (fun _ x => if bitAt x 0 then (x >>> 1) ^^^ 0xEDB88320#32 else x >>> 1) (c ^^^ BitVec.ofNat 32 (b % 256))

/-- The CRC-32 of n bytes, lowest address first. -/
def crc32 (n bytes : Nat) : BitVec 32 := ~~~((List.range n).foldl (fun c i => crc32Byte c (bytes / 256 ^ i)) 0xFFFFFFFF#32)

/-- Bytes 0 to 35 of a message, which its CRC covers. -/
def Tally.body (x : Tally) : Nat :=
  catFields [(4, x.seq), (1, x.kind), (1, x.part), (1, x.tq), (1, 0), (8, x.stamp.toNat), (4, x.gen), (4, x.prompt), (4, x.genTot), (4, x.promptTot), (4, x.epoch.toNat)]

/-- The 40 bytes of a message on the link. -/
def Tally.bytes (x : Tally) : Nat := x.body + 256 ^ 36 * (crc32 36 x.body).toNat

/-! ### The request engine's end (R453, R454) -/

/-- A START message: the unit serial in GEN and PROMPT (Table 20.2). -/
def sendStart (s : State) : State :=
  sendTally s { seq := 0, kind := 1, stamp := s.tb, gen := bitsN s.serial 0 32, prompt := bitsN s.serial 32 32 }

/-- TALLY_START_SEND: once the request engine is loaded. -/
def execTallyStartSend (t : Dword) (s : State) : Out := .next (if s.sys.cnm.running then sendStart (s.atTick t) else s)

/-- TALLY_MARK_SEND. -/
def execTallyMarkSend (t : Dword) (s : State) : Out :=
  .next (if s.sys.cnm.running then sendTally (s.atTick t) { seq := 0, kind := 3, stamp := t } else s)

/-! ### Closing an interval (R456 to R461) -/

/-- INTERVAL's lengths in seconds (Table 20.7). -/
def intervalSecs (code : Nat) : Nat :=
  match code with
  | 0 => 1
  | 1 => 10
  | 2 => 60
  | 3 => 300
  | _ => 900

/-- The multiple of INTERVAL_S at which the open interval ends, in ms of meter time. -/
def Meter.endAt (m : Meter) : Nat := (m.start / (1000 * intervalSecs m.interval) + 1) * (1000 * intervalSecs m.interval)

/-- Credits added up by (PART, TQ), in ascending order; zero amounts make no entry. -/
def entriesFor (cs : List Credit) : AMap (Nat × Nat) :=
  (cs.foldl (fun a c => AMap.upd a (0, 0) c.key (fun x => (x.1 + c.gen, x.2 + c.prompt))) ([] : AMap (Nat × Nat))).filter (fun x => x.2.1 != 0 || x.2.2 != 0)

/-- An entry's bytes (Table 20.5). -/
def entryBytes (k : Nat) (v : Nat × Nat) : List (Nat × Nat) :=
  [(1, k / 256), (1, k % 256), (6, 0), (4, min v.1 0xFFFFFFFF), (4, min v.2 0xFFFFFFFF)]

/-- A record's header (Table 20.3). -/
def recordHeader (m : Meter) (x : MeterSpan) (tb0 tb1 nent : Nat) (flags : BitVec 16) : List (Nat × Nat) :=
  [(4, 0x31524E43), (2, 1), (2, flags.toNat), (4, m.lastSeq + 1), (4, nent), (8, m.serial.toNat), (8, m.unit.toNat), (8, x.start), (8, x.stop),
   (8, tb0), (8, tb1), (8, x.read.energy), (2, x.read.vMin), (2, x.read.vMax), (4, x.read.pMax), (2, x.secs), (2, m.sealCnt), (4, x.gaps),
   (8, m.metro.toNat), (48, m.prevHash.toNat), (48, 0)]

/-- The store's 1 GiB, the oldest records making room (R461). -/
def makeRoom : Nat → AMap CnRec → AMap CnRec
  | 0, rs => rs
  | n + 1, rs => if (rs.foldl (fun a x => a + x.2.len) 0) ≤ 2 ^ 30 then rs else makeRoom n (rs.drop 1)

/-- The value of TB_START and TB_END in a NO_TALLY record (R458). -/
def noStamp : Nat := 0xFFFFFFFFFFFFFFFF

/-- A record closed with TB_END `tbEnd`, or as NO_TALLY, signed and stored; what it credits carries a stamp below TB_END, and a NO_TALLY interval holds
no stamp (R457 to R459, R461). -/
def Meter.close (m : Meter) (x : MeterSpan) (tbEnd : Option Nat) : Meter :=
  let tb0 := match tbEnd with | some _ => m.tbStart.getD noStamp | none => noStamp
  let tb1 := tbEnd.getD noStamp
  let in' := fun (c : Credit) => tbEnd.isSome && decide (c.stamp < tb1)
  let mine := m.credits.filter in'
  let es := entriesFor mine
  let sat := es.any (fun e => decide (0xFFFFFFFF ≤ e.2.1) || decide (0xFFFFFFFF ≤ e.2.2))
  let flags := setBits (setBits (setBits x.flags 4 1 (max (bitsN x.flags 4 1) (b2n x.read.fault))) 7 1 (b2n tbEnd.isNone)) 8 1 (b2n sat)
  let body := recordHeader m x tb0 tb1 es.length flags ++ es.flatMap (fun e => entryBytes e.1 e.2)
  let len := 192 + 16 * es.length
  let sig := Config.meterSign m.serial (Config.sha384 len (catFields body))
  let bytes := catFields (body ++ [(96, sig.toNat)])
  let rs := AMap.put m.recs (m.lastSeq + 1) { len := len + 96, bytes := bytes }
  let kept := makeRoom rs.length rs
  { m with
    recs := kept, wrapped := m.wrapped || decide (kept.length < rs.length), lastSeq := m.lastSeq + 1
    prevHash := Config.sha384 (len + 96) bytes, credits := m.credits.filter (fun c => !in' c), tbStart := some tb1 }

/-- Ended intervals in which no MARK arrived close as soon as they stand first (R458). -/
def Meter.settle : Nat → Meter → Meter
  | 0, m => m
  | n + 1, m =>
    match m.ended with
    | x :: r => if x.marked then m else Meter.settle n (({ m with ended := r } : Meter).close x none)
    | [] => m

/-- The open interval ended at meter time `stop` with what was measured, and the next one opened: its length as last written (R456). -/
def Meter.endSpan (m : Meter) (stop : Nat) (r : MeterRead) (flag : BitVec 16) : Meter :=
  let x : MeterSpan := { start := m.start, stop := stop, flags := m.flags ||| flag, gaps := m.gaps, secs := intervalSecs m.interval, marked := m.marked, read := r }
  let n := if m.nextInterval = m.interval then 0#16 else 0x40#16
  { m with
    ended := m.ended ++ [x], start := stop, mt := stop, flags := n, gaps := 0, marked := false
    etotMj := m.etotMj + r.energy, interval := m.nextInterval }

/-- Every ended interval closed at once: with a free TB_END where MARKs arrived in it, since none arrives at or after its end (R457, R460). -/
def Meter.closeAll (free : Nat) : Nat → Meter → Meter
  | 0, m => m
  | n + 1, m =>
    match m.ended with
    | x :: r =>
      Meter.closeAll (free + 1) n (({ m with ended := r } : Meter).close x (if x.marked then some ((Config.freeValue free).setWidth 64).toNat else none))
    | [] => m

/-- The records closed by `m`, compared with those before: an in-band interrupt and PF vector 4 at each close (R462, Table 22.8). -/
def State.meterDone (s : State) (m : Meter) : State :=
  let k := m.lastSeq - s.sys.cnm.meter.lastSeq
  iter k 0 (fun _ s => let s1 := emit s (.ibi 1 1); if 4 ≤ s1.sys.clk.phase then signal s1 0 4 else s1) (s.updMeter (fun _ => m))

/-- The open interval closed early with POWER_DOWN (R460); meter time never steps back (R387). -/
def powerDown (s : State) (mt : Nat) (r : MeterRead) : State :=
  let m := s.sys.cnm.meter.endSpan (max s.sys.cnm.meter.start mt) r 2#16
  let n := m.ended.length
  { s.meterDone (m.closeAll s.free n) with free := s.free + n }

/-! ### Messages received (R453, R455, R457) -/

/-- The next message of the link, taken when it is of the kind that arrives; none of it is left where both copies fail their CRC. -/
def takeTally (s : State) (kind : Nat) (ok0 ok1 : Bool) : State × Option Tally :=
  match s.sys.cnm.link with
  | m :: r => if m.kind ≠ kind then (s, none) else (s.updCnm (fun c => { c with link := r }), if (ok0 || ok1) && s.sys.cnm.meter.powered then some m else none)
  | [] => (s, none)

/-- A message's epoch and number: a new epoch drops every baseline; a gap within one sets TALLY_GAP. -/
def Meter.number (m : Meter) (x : Tally) : Meter :=
  if m.epoch ≠ some x.epoch then { m with epoch := some x.epoch, base := [], expect := (x.seq + 1) % 2 ^ 32 }
  else if x.seq = m.expect then { m with expect := (x.seq + 1) % 2 ^ 32 }
  else { m with expect := (x.seq + 1) % 2 ^ 32, flags := setBits m.flags 3 1 1, gaps := satAdd 0xFFFFFFFF m.gaps 1, gapsAll := satAdd 0xFFFF m.gapsAll 1 }

/-- METER_TALLY_START. -/
def execMeterTallyStart (ok0 ok1 : Bool) (s : State) : Out :=
  .next (match takeTally s 1 ok0 ok1 with
  | (s1, some x) => s1.updMeter (fun m => ({ m.number x with unit := BitVec.ofNat 64 (x.gen + 2 ^ 32 * x.prompt) } : Meter))
  | (s1, none) => s1)

/-- METER_TALLY_TOKENS: the differences of the running totals, or GEN and PROMPT where no baseline is held. -/
def execMeterTallyTokens (ok0 ok1 : Bool) (s : State) : Out :=
  .next (match takeTally s 2 ok0 ok1 with
  | (s1, some x) =>
    let k := 256 * x.part + x.tq
    s1.updMeter (fun m0 =>
      let m := m0.number x
      let g := match AMap.find m.base k with
        | some b => ((x.genTot + 2 ^ 32 - b.1) % 2 ^ 32, (x.promptTot + 2 ^ 32 - b.2) % 2 ^ 32)
        | none => (x.gen, x.prompt)
      { m with base := AMap.put m.base k (x.genTot, x.promptTot), credits := m.credits ++ [{ stamp := x.stamp.toNat, key := k, gen := g.1, prompt := g.2 }] })
  | (s1, none) => s1)

/-- METER_TALLY_MARK: TIME_STEP where two MARKs stand more than 1 µs off 1 ms apart (R458); an interval that has ended closes. -/
def execMeterTallyMark (ok0 ok1 : Bool) (s : State) : Out :=
  .next (match takeTally s 3 ok0 ok1 with
  | (s1, some x) =>
    let m := s1.sys.cnm.meter.number x
    let v := x.stamp.toNat
    let jump := match m.lastMark with | some u => decide (v < u + 999000) || decide (u + 1001000 < v) | none => false
    let m1 : Meter := { m with lastMark := some v, tbStart := some (m.tbStart.getD v) }
    match m1.ended with
    | y :: r =>
      let y1 := if jump then { y with flags := setBits y.flags 2 1 1 } else y
      let m2 := (({ m1 with ended := r } : Meter).close y1 (some v)).settle r.length
      s1.meterDone { m2 with marked := true }
    | [] => s1.updMeter (fun _ => { m1 with marked := true, flags := if jump then setBits m1.flags 2 1 1 else m1.flags })
  | (s1, none) => s1)

/-- METER_TALLY_CLOSE: the open interval closes with POWER_DOWN and the next opens at once (R460). -/
def execMeterTallyClose (ok0 ok1 : Bool) (mt : Nat) (r : MeterRead) (s : State) : Out :=
  .next (match takeTally s 4 ok0 ok1 with
  | (s1, some x) => powerDown (s1.updMeter (fun m => m.number x)) mt r
  | (s1, none) => s1)

/-! ### The meter's own events -/

/-- METER_INPUT_LOSS: the open interval closes on the meter's hold-up; no interval is open until its supply comes up again. -/
def execMeterInputLoss (mt : Nat) (r : MeterRead) (s : State) : Out :=
  .next (if s.sys.cnm.meter.powered then (powerDown s mt r).updMeter (fun m => { m with powered := false }) else s)

/-- METER_POWER_UP: an interval with POWER_UP opens. A meter whose hold-up has run out starts anew; one that replaces another brings its own serial,
METRO_ID and record chain, and INTERVAL at its default (R460, R465). A change of INTERVAL waiting for the boundary takes effect with the interval that opens (R456). -/
def execMeterPowerUp (restarted : Bool) (fresh : Option (Dword × Dword)) (mt : Nat) (s : State) : Out :=
  .next (if s.sys.cnm.meter.powered then s
  else ({ s with sys := { s.sys with pins := { s.sys.pins with cni3c := none } } }).updMeter (fun m0 =>
    let m : Meter := match fresh with | some x => { serial := x.1, metro := x.2 } | none => m0
    let m1 : Meter := if restarted || fresh.isSome then { m with epoch := none, base := [], gapsAll := 0, tbStart := none, lastMark := none, credits := [], ended := [] } else m
    let at' := max m1.start mt
    { m1 with
      powered := true, mt := at', start := at', marked := false, gaps := 0, interval := m1.nextInterval
      flags := setBits 1#16 6 1 (max (bitsN m1.flags 6 1) (b2n (m1.nextInterval != m1.interval))) }))

/-- METER_INTERVAL_END: the open interval ends at its multiple of INTERVAL_S; without a MARK it is NO_TALLY (R456, R458). -/
def execMeterIntervalEnd (r : MeterRead) (s : State) : Out :=
  let m := s.sys.cnm.meter
  .next (if !m.powered then s
  else
    let m1 := m.endSpan m.endAt r 0#16
    s.meterDone (m1.settle m1.ended.length))

/-- METER_SEAL_EVENT (R464). -/
def execMeterSealEvent (s : State) : Out :=
  .next (s.updMeter (fun m => { m with sealCnt := satAdd 0xFFFF m.sealCnt 1, flags := setBits m.flags 5 1 1 }))

/-! ### The relay (R462, R465, R467) -/

/-- What the masthead finds on the internal bus: PRESENT and BUS_OK, and the halt that METER_REQ asks for while no meter answers. -/
def relaySees (s : State) (present bus : Bool) : State :=
  s.updCnm (fun c => { c with present := present && bus, busOk := bus, halted := c.req && !(present && bus) })

/-- METER_CHANGE where the meter's serial differs from the one that the masthead last saw (R465). -/
def noteSerial (s : State) : State :=
  let c := s.sys.cnm
  if !c.present || c.lastSerial == some c.meter.serial then s
  else
    let s1 := s.updCnm (fun c => { c with lastSerial := some c.meter.serial })
    if c.lastSerial.isSome then evrEvent s1 0x86 1 0xFF noField noCore (some c.meter.serial) none else s1

/-- CNM_FETCH_GO: the record that CNM_SEL names, or the certificate chain, through the relay. -/
def execCnmFetchGo (present bus : Bool) (s0 : State) : Out :=
  let s := noteSerial (relaySees s0 present bus)
  let c := s.sys.cnm
  let m := c.meter
  .next (s.updCnm (fun c =>
    if !bus then { c with status := 4 }
    else if !present then { c with status := 3 }
    else if c.sel = 0xFFFFFFFF then let x := Config.meterChain m.serial; { c with status := 0, len := x.1 % 2 ^ 20, data := x.2 }
    else match AMap.find m.recs c.sel with
      | some x => { c with status := 0, len := x.len, data := x.bytes }
      | none => { c with status := if m.lastSeq < c.sel then 2 else 1 }))

/-- CNM_INTERVAL_WRITE: a code outside Table 20.7 is ignored, and a meter without power takes none. -/
def execCnmIntervalWrite (v : Fin 8) (s : State) : Out :=
  .next (if decide (4 < v.val) || !s.sys.cnm.meter.powered then s else s.updMeter (fun m => { m with nextInterval := v }))

end Sys2Proof.Machine
end

