-- ==== Sys2Proof/Machine/Security.lean ====
section
/-! DEFINITION. The security engine: SPDM, IDE key management, session keys, image-signing keys (21). -/

namespace Sys2Proof.Machine

/-- Whether the engine carries out key operations and signatures (R469). -/
def engineOk (s : State) : Bool := s.sys.sec.selftestOk && s.sys.sec.drbgOk

/-- A draw of the DRBG counted. -/
def drawn (s : State) : State := s.updSec (fun x => { x with draws := x.draws + 1 })

/-- DRBG_RESEED; a health test that fails leaves DRBG_OK at 0 until the next start. -/
def execDrbgReseed (healthy : Bool) (s : State) : Out :=
  .next (s.updSec (fun x => { x with reseeds := x.reseeds + 1, drbgOk := x.drbgOk && healthy }))

/-! ### SPDM (R470, R471): message and error codes as DSP0274 numbers them -/

def spdmKey : SpdmAt → Nat
  | .doe f => f
  | .vdm => 65
  | .i3c => 66

def spdmFn : SpdmAt → Nat
  | .doe f => f
  | _ => 0

/-- Whether the responder hears a request: from start-up step 4, over MCTP only while MCTP_EN is 1 (Table 21.9). -/
def spdmHears (s : State) (a : SpdmAt) : Bool :=
  decide (4 ≤ s.sys.clk.phase) && (match a with | .doe _ => true | _ => s.sys.sec.mctpEn)

def State.spdm (s : State) (a : SpdmAt) : Spdm := AMap.at s.sys.sec.spdm {} (spdmKey a)

def State.updSpdm (s : State) (a : SpdmAt) (f : Spdm → Spdm) : State := s.updSec (fun x => { x with spdm := AMap.upd x.spdm {} (spdmKey a) f })

/-- An error response, counted in SPDM_ERR. -/
def spdmErr (s : State) (code : Nat) : State :=
  emit (s.updSec (fun x => { x with spdmErr := satAdd 0xFFFF x.spdmErr 1 })) (.spdm 0x7F 1 code)

/-- A response; above 4 KiB it is announced as large and fetched in chunks (Table 21.1). -/
def spdmReply (s : State) (a : SpdmAt) (code len data : Nat) : State :=
  if len ≤ 4096 then emit s (.spdm code len data) else spdmErr (s.updSpdm a (fun x => { x with large := some (len, data) })) 0x0F

/-- A request admitted: heard, and with the version exchange far enough. -/
def spdmAsk (s : State) (a : SpdmAt) (phase : Nat) (go : State → State) : State :=
  if !spdmHears s a then s else if (s.spdm a).phase < phase then spdmErr s 0x04 else go s

/-- GET_VERSION: 1.2 and 1.3; the connection starts anew. -/
def execGetVersion (a : SpdmAt) (s : State) : Out :=
  .next (spdmAsk s a 0 (fun s => spdmReply (s.updSpdm a (fun _ => { phase := 1 })) a 0x04 2 0x1312))

/-- CERT, CHAL, MEAS with signature, MEAS_FRESH, ENCRYPT, MAC, KEY_EX, HBEAT, CHUNK. -/
def spdmCaps : Nat := 0x2 + 0x4 + 0x10 + 0x20 + 0x40 + 0x80 + 0x200 + 0x2000 + 0x20000

/-- GET_CAPABILITIES with the version that the requester chose. -/
def execGetCapabilities (a : SpdmAt) (ver : Fin 256) (s : State) : Out :=
  .next (spdmAsk s a 1 (fun s =>
    if ver.val = 0x12 ∨ ver.val = 0x13 then spdmReply (s.updSpdm a (fun x => { x with phase := max x.phase 2, ver := ver })) a 0x61 4 spdmCaps else spdmErr s 0x41))

/-- NEGOTIATE_ALGORITHMS: whether the requester offers ECDSA P-384, SHA-384, secp384r1 and AES-256-GCM. -/
def execNegotiateAlgorithms (a : SpdmAt) (offers : Bool) (s : State) : Out :=
  .next (spdmAsk s a 2 (fun s => if offers then spdmReply (s.updSpdm a (fun x => { x with phase := 3 })) a 0x63 0 0 else spdmErr s 0x01))

/-- GET_DIGESTS: slot 0 alone is filled. -/
def execGetDigests (a : SpdmAt) (s : State) : Out :=
  .next (spdmAsk s a 3 (fun s =>
    let c := Config.idChain s.serial
    spdmReply s a 0x01 49 (catFields [(1, 1), (48, (Config.sha384 c.1 c.2).toNat)])))

/-- GET_CERTIFICATE: part of the identity chain. -/
def execGetCertificate (a : SpdmAt) (slot : Fin 8) (offset len : Nat) (s : State) : Out :=
  .next (spdmAsk s a 3 (fun s =>
    let c := Config.idChain s.serial
    if slot.val ≠ 0 ∨ c.1 ≤ offset then spdmErr s 0x01
    else let n := min len (c.1 - offset); spdmReply s a 0x02 n (c.2 / 256 ^ offset % 256 ^ n)))

/-- The identity key's signature over a response that follows a transcript. -/
def signOver (s : State) (transcript : BitVec 384) (len data : Nat) : Nat :=
  (Config.idSign s.serial (Config.sha384 (48 + len) (catFields [(48, transcript.toNat), (len, data)]))).toNat

/-- CHALLENGE: a fresh nonce and a signature. -/
def execChallenge (a : SpdmAt) (slot : Fin 8) (transcript : BitVec 384) (s : State) : Out :=
  .next (spdmAsk s a 3 (fun s =>
    if slot.val ≠ 0 then spdmErr s 0x01
    else if !engineOk s then spdmErr s 0x05
    else
      let c := Config.idChain s.serial
      let d := catFields [(48, (Config.sha384 c.1 c.2).toNat), (32, (Config.drbg s.sys.sec.draws).toNat)]
      spdmReply (drawn s) a 0x03 176 (catFields [(80, d), (96, signOver s transcript 80 d)])))

/-! ### Measurements (Table 21.2) -/

def slotStateCode : SlotState → Nat
  | .empty => 0
  | .hoisting => 1
  | .loaded => 2
  | .unloading => 3

/-- Block 0x10 + k of a partition: state, generation, image digest. -/
def slotBlock (s : State) (p k : Nat) : Nat :=
  let x := s.img p k
  catFields [(4, slotStateCode x.st), (4, x.gen), (48, if x.st = .loaded then x.digest.toNat else 0)]

/-- SHA-384 of a list of digests, concatenated. -/
def hashAll (ds : List (BitVec 384)) : BitVec 384 := Config.sha384 (48 * ds.length) (catFields (ds.map (fun d => (48, d.toNat))))

/-- Block 0x14: the digest of a partition's image-signing key. -/
def signKeyDigest (s : State) (p : Nat) : BitVec 384 := match (s.part p).signKey with | some k => Config.sha384 97 k.toNat | none => 0#384

/-- A measurement block of a function's responder: its length and content. -/
def measurement (s : State) (f i : Nat) : Option (Nat × Nat) :=
  let dig := fun (d : BitVec 384) => some (48, d.toNat)
  match i with
  | 1 => dig (Config.romDigest false)
  | 2 => dig (Config.romDigest true)
  | 3 => dig (Config.fwDigest 1 s.sys.fw.mh)
  | 4 => dig (hashAll ((List.range 48).map (fun n => Config.fwDigest 2 (AMap.at s.sys.fw.fc 0#32 n))))
  | 5 => dig (hashAll ((List.range 4).map (fun n => Config.fwDigest 3 (AMap.at s.sys.fw.rio 0#32 n))))
  | 6 => dig s.sys.cfg.digest
  | 7 => some (16, catFields [(8, s.grade), (8, s.serial.toNat)])
  | 8 => some (16, catFields [(8, s.sys.cnm.meter.metro.toNat), (8, s.sys.cnm.meter.serial.toNat)])
  | 9 => some (Config.ukaCert s.serial)
  | 0x10 | 0x11 | 0x12 | 0x13 => if f = 0 then none else some (56, slotBlock s (f - 1) (i - 0x10))
  | 0x14 => if f = 0 then none else dig (signKeyDigest s (f - 1))
  | 0x15 => if f = 0 then none else dig (Config.sha384 128 (s.part (f - 1)).record.toNat)
  | 0x20 => if f ≠ 0 then none
      else dig (Config.sha384 14336 (catFields ((List.range 64).flatMap (fun p => (List.range 4).map (fun k => (56, slotBlock s p k))))))
  | _ => none

/-- The indices of a function's blocks (R471). -/
def blockList (f : Nat) : List Nat := [1, 2, 3, 4, 5, 6, 7, 8, 9] ++ (if f = 0 then [0x20] else [0x10, 0x11, 0x12, 0x13, 0x14, 0x15])

/-- Blocks as they stand in a response: index, length, content. -/
def blockBytes (s : State) (f : Nat) (is : List Nat) : List (Nat × Nat) :=
  is.flatMap (fun i => match measurement s f i with | some m => [(1, i), (2, m.1), (m.1, m.2)] | none => [])

/-- GET_MEASUREMENTS: index 0 asks how many there are, 0xFF for all; the state at the moment of signing. -/
def execGetMeasurements (a : SpdmAt) (index : Fin 256) (sign : Bool) (transcript : BitVec 384) (s : State) : Out :=
  .next (spdmAsk s a 3 (fun s =>
    let is := if index.val = 0 then [] else if index.val = 0xFF then blockList (spdmFn a) else [index.val]
    if is.any (fun i => !(blockList (spdmFn a)).contains i) then spdmErr s 0x01
    else if sign && !engineOk s then spdmErr s 0x05
    else
      let fs := (1, if index.val = 0 then (blockList (spdmFn a)).length else is.length) :: blockBytes s (spdmFn a) is
      let len := fs.foldl (fun n f => n + f.1) 0
      let d := catFields fs
      if sign then
        let e := catFields [(len, d), (32, (Config.drbg s.sys.sec.draws).toNat)]
        spdmReply (drawn s) a 0x60 (len + 128) (catFields [(len + 32, e), (96, signOver s transcript (len + 32) e)])
      else spdmReply s a 0x60 len d))

/-! ### Secured sessions -/

/-- The session numbers in use on a function, over all its transports. -/
def sessionsOf (s : State) (f : Nat) : List Nat :=
  ((if f = 0 then [SpdmAt.doe 0, .vdm, .i3c] else [SpdmAt.doe (Fin.ofNat 65 f)]).flatMap (fun a => (s.spdm a).sessions)).map (·.1)

/-- KEY_EXCHANGE: the third session of a function is refused. -/
def execKeyExchange (a : SpdmAt) (slot : Fin 8) (transcript : BitVec 384) (s : State) : Out :=
  .next (spdmAsk s a 3 (fun s =>
    if slot.val ≠ 0 then spdmErr s 0x01
    else if !engineOk s then spdmErr s 0x05
    else match findUp (fun k => !(sessionsOf s (spdmFn a)).contains k) 2 0 with
      | none => spdmErr s 0x0A
      | some k =>
        let d := catFields [(2, k), (32, (Config.drbg s.sys.sec.draws).toNat), (97, (Config.ephemeral s.sys.sec.draws).toNat)]
        spdmReply ((drawn s).updSpdm a (fun x => { x with sessions := AMap.put x.sessions k false })) a 0x64 227
          (catFields [(131, d), (96, signOver s transcript 131 d)])))

/-- FINISH: the session is established where its verify data is right. -/
def execFinish (a : SpdmAt) (id : Fin 2) (good : Bool) (s : State) : Out :=
  .next (spdmAsk s a 3 (fun s =>
    match AMap.find (s.spdm a).sessions id with
    | some false => if good then spdmReply (s.updSpdm a (fun x => { x with sessions := AMap.put x.sessions id true })) a 0x65 0 0
        else spdmErr (s.updSpdm a (fun x => { x with sessions := AMap.del x.sessions id })) 0x06
    | some true => spdmErr s 0x04
    | none => spdmErr s 0x02))

/-- END_SESSION. -/
def execEndSession (a : SpdmAt) (id : Fin 2) (s : State) : Out :=
  .next (spdmAsk s a 3 (fun s =>
    if AMap.find (s.spdm a).sessions id = some true then spdmReply (s.updSpdm a (fun x => { x with sessions := AMap.del x.sessions id })) a 0x6C 0 0 else spdmErr s 0x02))

/-- HEARTBEAT. -/
def execHeartbeat (a : SpdmAt) (id : Fin 2) (s : State) : Out :=
  .next (spdmAsk s a 3 (fun s => if AMap.find (s.spdm a).sessions id = some true then spdmReply s a 0x68 0 0 else spdmErr s 0x02))

/-- CHUNK_SEND: the chunks of one large request arrive in order; the request itself follows as its own command. -/
def execChunkSend (a : SpdmAt) (handle : Fin 256) (seq : Fin 65536) (last : Bool) (s : State) : Out :=
  .next (spdmAsk s a 3 (fun s =>
    let fits := if seq.val = 0 then true else (s.spdm a).chunk == some (handle.val, seq.val)
    if !fits then spdmErr (s.updSpdm a (fun x => { x with chunk := none })) 0x01
    else spdmReply (s.updSpdm a (fun x => { x with chunk := if last then none else some (handle.val, seq.val + 1) })) a 0x05 3 (handle.val + 256 * seq.val)))

/-- CHUNK_GET: the next 4 KiB, less the chunk's own header, of the large response announced last. -/
def execChunkGet (a : SpdmAt) (seq : Fin 65536) (s : State) : Out :=
  .next (spdmAsk s a 3 (fun s =>
    match (s.spdm a).large with
    | none => spdmErr s 0x04
    | some (len, d) =>
      let at' := 4032 * seq.val
      if len ≤ at' then spdmErr s 0x01
      else
        let n := min 4032 (len - at')
        let s1 := if len ≤ at' + n then s.updSpdm a (fun x => { x with large := none }) else s
        spdmReply s1 a 0x06 n (d / 256 ^ at' % 256 ^ n)))

/-! ### IDE (R472) -/

/-- IDE_KM over an established session of PF0's DOE, about stream k of a link whose requester-ID ranges cover the functions given: the acknowledgement goes out
as a vendor-defined response. -/
def execIdeKm (id : Fin 2) (link k : Fin 4) (op : IdeOp) (fns : List (Fin 65)) (s : State) : Out :=
  .next (spdmAsk s (.doe 0) 3 (fun s =>
    if AMap.find (s.spdm (.doe 0)).sessions id ≠ some true then spdmErr s 0x02
    else if !engineOk s then spdmErr s 0x05
    else
      let upd := fun (g : IdeStream → IdeStream) => s.updSec (fun x => { x with ide := AMap.upd x.ide [] link (fun m => AMap.upd m {} k (fun y => { g y with fns := fns.map (·.val) })) })
      match op with
      | .query => spdmReply s (.doe 0) 0x7E 1 1
      | .keyProg i => spdmReply (upd (fun y => { y with keys := setBits y.keys i 1 1 })) (.doe 0) 0x7E 1 3
      | .setGo i => spdmReply (upd (fun y => { y with going := setBits y.going i 1 (bitsN y.keys i 1) })) (.doe 0) 0x7E 1 6
      | .setStop i => spdmReply (upd (fun y => { y with going := setBits y.going i 1 0, keys := setBits y.keys i 1 0 })) (.doe 0) 0x7E 1 6))

/-! ### Session keys (R477 to R479) -/

def keySlotNo (m : BitVec 512) : Nat := bitsN m 40 8
def keyPurpose (m : BitVec 512) : Nat := bitsN m 48 8
def keyLock (m : BitVec 512) : Bool := bitAt m 56
def keyReqAddr (m : BitVec 512) : Nat := bitsN m 96 64
def keyReplyAddr (m : BitVec 512) : Nat := bitsN m 160 64

/-- Whether a session slot of a partition is in use (R479). -/
def slotInUse (s : State) (p k : Nat) : Bool :=
  (match (s.part p).hoist with | some h => h.keySlot == some k && decide (1 ≤ h.phase.code) && decide (h.phase.code ≤ 5) | none => false) ||
  !(entriesOf s p (fun _ x => x.st != .free && (match x.e2e with | some b => b.1 == k | none => false))).isEmpty

/-- The reply buffer written (Table 21.4) and the message answered: the signature stands where the request was read and the engine signs. -/
def keyReply (s : State) (p : Nat) (m : MbxMsg) (req : Option (BitVec 1024)) (status : Nat) (mpub : BitVec 776) (confirm : BitVec 384) : State :=
  let k := keySlotNo m.body
  let head := catFields [(1, status), (1, k), (2, 0), (4, (AMap.at (s.secPart p).slots {} k).gen), (97, mpub.toNat), (7, 0), (48, confirm.toNat)]
  let sig := match req with
    | some r => if engineOk s then (Config.idSign s.serial (Config.sha384 297 (catFields [(128, r.toNat), (160, head), (8, s.serial.toNat), (1, p)]))).toNat else 0
    | none => 0
  let s1 := if ringOk s p && decide (keyReplyAddr m.body % 64 = 0) then emit s (.write (p + 1) (keyReplyAddr m.body) 256 (catFields [(160, head), (96, sig)])) else s
  endMsg s1 (p + 1) m 0 status []

/-- KEY_EXCH's checks (Table 21.5); a request that cannot be read is answered as for SIGNKEY. -/
def keyExchChecks (s : State) (p : Nat) (m : BitVec 512) (req : Option (BitVec 1024)) : List (Bool × Nat) :=
  let k := keySlotNo m
  let x := AMap.at (s.secPart p).slots {} k
  let r := req.getD 0#1024
  [(decide (15 < k) || (keyPurpose m != 1 && keyPurpose m != 2) || keyReqAddr m % 64 != 0 || keyReplyAddr m % 64 != 0, 1),
   (!engineOk s, 5), (req.isNone || !ringOk s p, 6), (r >>> 776 != 0#1024 || !Config.onCurve (r.setWidth 776), 1), (x.locked, 2), (slotInUse s p k, 3)]

/-- K_slot and K_confirm from Z and the transcript hash T: salt "VQFJ-KX", info T followed by "key" or "confirm" (R478). -/
def slotKeys (z T : BitVec 384) : BitVec 256 × BitVec 384 :=
  let kdf := fun (word : Nat × Nat) (n : Nat) => Config.hkdf384 (7, 0x584B2D4A465156) (48, z.toNat) (48 + word.1, catFields [(48, T.toNat), word]) n
  (BitVec.ofNat 256 (kdf (3, 0x79656B) 32), BitVec.ofNat 384 (kdf (7, 0x6D7269666E6F63) 48))

/-- KEY_EXCH: a session key derived and installed, GEN raised. -/
def keyExch (s : State) (p : Nat) (req : Option (BitVec 1024)) : State :=
  match findMsg s (p + 1) 3 with
  | none => s
  | some m =>
    match firstCause (keyExchChecks s p m.body req) with
    | some c => keyReply s p m req c 0#776 0#384
    | none =>
      let k := keySlotNo m.body
      let epub := (req.getD 0#1024).setWidth 776
      let mpub := Config.ephemeral s.sys.sec.draws
      let T := Config.sha384 205 (catFields [(97, epub.toNat), (97, mpub.toNat), (8, s.serial.toNat), (1, p), (1, k), (1, keyPurpose m.body)])
      let ks := slotKeys (Config.ecdh s.sys.sec.draws epub) T
      let s1 := (drawn s).updSecPart p (fun y => { y with
        exchCnt := satAdd 0xFFFF y.exchCnt 1
        slots := AMap.upd y.slots {} k (fun z => ({ purpose := keyPurpose m.body, gen := (z.gen + 1) % 2 ^ 32, locked := keyLock m.body, key := ks.1, confirm := ks.2, cLast := 0 } : KeySlot)) })
      keyReply s1 p m req 0 mpub (Config.hmac384 ks.2 48 T.toNat)

def execKeyExch (p : Fin 64) (req : Option (BitVec 1024)) (s : State) : Out := .next (keyExch s p req)

/-- KEY_CLEAR's CMAC: over "clear", SLOT and GEN. -/
def clearMac (x : KeySlot) (k : Nat) : BitVec 384 := Config.hmac384 x.confirm 10 (catFields [(5, 0x7261656C63), (1, k), (4, x.gen)])

/-- KEY_CLEAR's checks (Table 21.5): an empty slot holds no K_confirm, so that no CMAC is right. -/
def keyClearChecks (s : State) (p : Nat) (m : BitVec 512) (req : Option (BitVec 1024)) : List (Bool × Nat) :=
  let k := keySlotNo m
  let x := AMap.at (s.secPart p).slots {} k
  let r := req.getD 0#1024
  [(decide (15 < k) || keyReqAddr m % 64 != 0 || keyReplyAddr m % 64 != 0, 1), (!engineOk s, 5), (req.isNone || !ringOk s p, 6),
    (r >>> 384 != 0#1024, 1), (x.purpose == 0 || r.setWidth 384 != clearMac x k, 4), (slotInUse s p k, 3)]

/-- KEY_CLEAR: the slot's key erased. -/
def keyClear (s : State) (p : Nat) (req : Option (BitVec 1024)) : State :=
  match findMsg s (p + 1) 4 with
  | none => s
  | some m =>
    let k := keySlotNo m.body
    match firstCause (keyClearChecks s p m.body req) with
    | some c => keyReply s p m req c 0#776 0#384
    | none => keyReply (s.updSecPart p (fun y => { y with slots := AMap.upd y.slots {} k (fun z => ({ gen := z.gen } : KeySlot)) })) p m req 0 0#776 0#384

def execKeyClear (p : Fin 64) (req : Option (BitVec 1024)) (s : State) : Out := .next (keyClear s p req)

/-! ### Image-signing keys (R475, Table 22.10) -/

/-- SIGNKEY's checks, in order, each with its DETAIL (Table 22.10). -/
def signkeyChecks (s : State) (m : MbxMsg) (point : Option (BitVec 776)) : List (Bool × Nat) :=
  let p := bitsN m.body 32 8
  let k := point.getD 0#776
  [(decide (63 < p), 1), ((s.part p).slots.toList.any (fun x => x.st == .hoisting || x.st == .loaded), 3),
    (point.isNone || !canMaster s m.link 0, 6), (k != 0#776 && !Config.onCurve k, 1)]

/-- SIGNKEY, carried out at READY: an all-zero point clears the slot. -/
def signkey (s : State) (point : Option (BitVec 776)) : State :=
  match findMsg s 0 5 with
  | none => s
  | some m =>
    let p := bitsN m.body 32 8
    let k := point.getD 0#776
    if !s.sys.ready then s
    else match firstCause (signkeyChecks s m point) with
      | some c => endMsg s 0 m 0 c []
      | none => endMsg (s.updPart p (fun x => { x with signKey := if k = 0#776 then none else some k })) 0 m 0 0 []

def execSignkey (point : Option (BitVec 776)) (s : State) : Out := .next (signkey s point)

end Sys2Proof.Machine
end

