-- ==== Sys2Proof/Machine/Recovery.lean ====
section
/-! DEFINITION. Recovery of a dead core: spare check, column copy, column test (06 R149, R150, 09 R220, 19 R439, R440). -/

namespace Sys2Proof.Machine

/-- The dead core of a column under recovery. -/
def deadIn (s : State) (p key : Nat) : Option Nat :=
  match (s.part p).recov with
  | some r => r.dead.find? (fun d => colKey d == key)
  | none => none

def State.updRecov (s : State) (p : Nat) (f : Recov → Recov) : State := s.updPart p (fun x => { x with recov := x.recov.map f })

/-- SPARE_CHECK_DONE: a spare that fails its check abandons the recovery under NO_SPARE. -/
def execSpareCheckDone (n : Fin 48) (col : Fin 12) (pass : Bool) (s : State) : Out :=
  let p := (s.field n).part
  let key := n.val * 12 + col.val
  .next (match (s.part p).recov, deadIn s p key with
  | some r, some m =>
    if !r.spares.contains key then s
    else if pass then s.updRecov p (fun r => { r with spares := r.spares.filter (· != key) })
    else coreLost s m 0x42
  | _, _ => s)

/-- The contents that a column copy carries into a mast, its TLB reloaded from the shadow among them; its tiers, counts and marks of failure stay its own. -/
def Mast.receive (dst src : Mast) : Mast :=
  { dst with data := src.data, poison := src.poison, bad := src.bad, pool := src.pool, pageBase := src.pageBase, tierMax := src.tierMax, svcLen := src.svcLen
             poolFree := src.poolFree, tabs := src.tabs, tlb := src.fromShadow, held := src.held, holds := true }

/-- The mast contents at rows g to 14 of a column each one row down, lowest first, with what the loader read of them. -/
def copyDown (s : State) (n col : Nat) : Nat → Nat → State
  | 0, _ => s
  | k + 1, row =>
    let src := s.core (n * 192 + row * 12 + col)
    copyDown (s.updCore (n * 192 + (row + 1) * 12 + col) (fun c => { c with mast := c.mast.receive src.mast, geos := src.geos, samp := src.samp })) n col k (row - 1)

/-- A core at row g or below in a column, one row lower. -/
def shiftCore (key g m : Nat) : Nat := if colKey m = key ∧ g ≤ m % 192 / 12 then m + 12 else m

/-- The homes of a partition's pages, and of the commands about them, follow the copy. -/
def shiftPages (s : State) (p key g : Nat) : State :=
  let s1 := { s with table := { s.table with entries := AMap.mapAll s.table.entries (fun e x =>
    if (s.req p).owns e then { x with pages := x.pages.map (fun (h : Page) => ({ h with core := shiftCore key g h.core } : Page)) } else x) } }
  s1.updReq p (fun r => { r with pageWork := r.pageWork.map (fun (w : PageCmd) => ({ w with core := shiftCore key g w.core } : PageCmd)) })

/-- The cores below row g of a column reloaded from the sections that their masts now hold, those of an image that waits for a glide to be LOADED among them. -/
def reloadColumn (s : State) (n col g : Nat) : State :=
  match s.slotOfField n with
  | none => s
  | some i =>
    let p := (s.field n).part
    let waits := match (s.part p).hoist with | some h => hcSlot h.cmd.body == i && h.phase == .done | none => false
    if (s.img p i).st = .loaded ∨ (s.img p i).st = .unloading ∨ waits = true then
      s.eachCore (((List.range 16).filter (fun r => decide (g < r))).map (fun r => n * 192 + r * 12 + col)) (fun _ c => loadCore c)
    else s

/-- A field whose recovery was given up stays in service: the new maps of its dead cores' columns apply at once, without a copy (R443 step 6). -/
def mapWithoutCopy (s : State) (n : Nat) (dead : List Nat) : State :=
  (dead.foldl (fun s m => mapSpare s n (m % 12) (m % 192 / 12)) s).updField n (fun f =>
    { f with mode := if f.mode = .dark then .dark else .normal, hopOrigin := none, drained := false })

/-- MST_XT_CTRL and MST_XT_STAT as a copy ends, if they show it: chunks moved up to the bad row where one ended it, of 65,536 chunks of 16 wide rows (R149, R150). DESIGN CHOICE:
notes/assumptions/108.md. -/
def endCopy (s : State) (key : Nat) (bad : Option Nat) : State :=
  if s.xt.busy && s.xt.field * 12 + s.xt.cxp == key then
    { s with xt := { s.xt with busy := false, done := bad.isNone, err := bad.isSome, progress := match bad with | none => 255 | some w => w % 0x100000 / 4096 } }
  else s

/-- COLUMN_COPY_DONE: the copy of a dead core's column ends; `bad` names the row of the column whose mast held an uncorrectable row, and that row (R150). -/
def execColumnCopyDone (n : Fin 48) (col : Fin 12) (bad : Option (Fin 16 × Fin 0x400000)) (s : State) : Out :=
  let p := (s.field n).part
  let key := n.val * 12 + col.val
  .next (match (s.part p).recov, deadIn s p key with
  | some r, some m =>
    if !r.copies.contains key then s
    else
      let g := m % 192 / 12
      let s0 := endCopy s key (bad.map (fun b => b.2.val))
      match bad with
      | none =>
        let s1 := copyDown s0 n col (15 - g) 14
        followCopy ((reloadColumn (shiftPages s1 p key g) n col g).updRecov p (fun r => { r with copies := r.copies.filter (· != key) }))
      | some (row, wide) =>
        let q := n.val * 192 + row.val * 12 + col.val
        let s1 := mstLog (s0.updMast q (fun x => { x with failed := true })) q (wide / 0x100000) 5 (wide % 0x100000) 0
        mapWithoutCopy (coreLost (furlCore s1 q 7) m 0x44) n (r.dead.filter (fun d => d / 192 == n.val) ++ [m])
  | _, _ => s)

/-- Whether nothing of a field's recovery is outstanding but its test. -/
def testDue (r : Recov) (n : Nat) : Bool := r.tests.contains n && !r.copies.any (fun k => k / 12 == n) && !r.spares.any (fun k => k / 12 == n)

/-- COLUMN_TEST_DONE: the new maps apply and the dead cores' masts are zeroed; with every field recovered the partition replays (R439 steps 8 to 10), and a hoist that
paused goes on (R262). -/
def execColumnTestDone (n : Fin 48) (pass : Bool) (s : State) : Out :=
  let p := (s.field n).part
  .next (match (s.part p).recov with
  | none => s
  | some r =>
    if !testDue r n then s
    else if !pass then fieldLost s n 0x48
    else
      let dead := r.dead.filter (fun d => d / 192 == n.val)
      let s1 := dead.foldl (fun s m => (s.updField n (fun f => { f with furlRow := AMap.put f.furlRow (m % 12) (m % 192 / 12) })).updCore m eraseCore) s
      let s2 := writePins s1 ((List.range 192).map (n.val * 192 + ·))
      resumeHoist (dropRecov (s2.updField n (fun f => { f with mode := if f.mode = .dark then .dark else .normal, hopOrigin := none, drained := false })) p n) p)

end Sys2Proof.Machine
end

