-- ==== Sys2Proof/Machine/HostEvents.lean ====
section
/-! DEFINITION. Function resets, links, configuration writes and partition resets (22 R489 to R494, 15 R356). -/

namespace Sys2Proof.Machine

def State.updLink (s : State) (i : Nat) (f : HostLink → HostLink) : State :=
  if h : i < 4 then { s with host := { s.host with links := s.host.links.set i (f s.host.links[i]) h } } else s

/-- Configuration space of a function on a link. -/
def State.cfgOf (s : State) (i f : Nat) : CfgSpace := AMap.at (s.host.links.toList.getD i {}).cfg {} f

/-- PARTITION_RESET: at the next step boundary, or at once where the partition is not stepping. -/
def askReset (s : State) (p : Nat) : State :=
  if !(s.part p).en then s
  else if isStepping s p || (s.grp p).inStep then s.updPart p (fun x => { x with resetAsked := true })
  else resetSlots (emptySlots s p) p

def execPartitionReset (p : Fin 64) (t : Dword) (s : State) : Out := .next (askReset (s.atTick t) p)

/-- A function's mailboxes, doorbell bits, vectors and latches at their reset values; messages taken from it complete and lose their replies (R494, R498, R499). -/
def Fn.reset (x : Fn) : Fn := { msgs := x.msgs.map (fun m => { m with drop := true }) }

/-- The rings of a partition disabled, its submissions withdrawn. -/
def disableRings (r : ReqPart) : ReqPart :=
  { r with sqs := AMap.mapAll r.sqs (fun _ q => { q with en := false, head := 0, tail := 0 }), cq := { r.cq with en := false }, srs := AMap.mapAll r.srs (fun _ q => { q with en := false }) }

/-- The output queues of a partition's slots emptied; how many positions they held. -/
def dropStreams (s : State) (p : Nat) : State × Nat :=
  let r := s.req p
  let ks := (List.range r.slotCnt).map (r.slotBase + ·)
  let n := ks.foldl (fun a k => a + (s.outq k).items.length + b2n (s.outq k).spill.isSome) 0 + (s.stream.arriving.filter (fun a => ks.contains a.slot)).length
  let s1 := ks.foldl (fun s k => if (s.outq k).items.isEmpty && (s.outq k).spill.isNone then s else s.updOutq k (fun q => { q with items := [], spill := none })) s
  ({ s1 with stream := { s1.stream with arriving := s1.stream.arriving.filter (fun a => !ks.contains a.slot) } }, n)

/-- Whether an entry has a record due, or will have one by the reset. -/
def recordDue (x : Entry) : Bool := x.st == .queued || x.st == .active || x.st == .draining || x.work != .none || !x.reports.isEmpty

/-- The entries whose records, held or produced by the reset, an FLR withdraws (R494). -/
def markFlr (s : State) (p : Nat) : State :=
  { s with table := { s.table with entries := AMap.mapAll s.table.entries (fun e x => if (s.req p).owns e && recordDue x then { x with flr := true } else x) } }

/-- A ring read that an FLR ends. How many words had been written by then is timing that the model leaves out: a free value within the count (R295). DESIGN CHOICE:
notes/assumptions/96.md. -/
def RingRead.done (r : RingRead) (free : Nat) : Nat := (Config.freeValue free).toNat % (r.cnt + 1)

def RingRead.abort (r : RingRead) (free : Nat) : RingRead :=
  if r.busy then { r with busy := false, status := 5, words := r.done free, source := [] } else r

/-- The words that a partition's ring read has written when an FLR ends it, in ascending index (R295). -/
def abortedWrite (s : State) (p : Nat) : State :=
  let r := (s.req p).rr
  if r.busy && r.done s.free != 0 then emit s (.write (p + 1) r.addr.toNat (8 * r.done s.free) ((r.source.take (r.done s.free)).foldr (fun w a => w.toNat + 2 ^ 64 * a) 0)) else s

/-- An FLR of a partition's function on its home link. -/
def flrPartition (s : State) (p : Nat) : State :=
  let x := s.fn (p + 1)
  let replies := x.replies.length + b2n x.inFull
  let r0 := s.req p
  let s1 := noteFull ((abortedWrite s p).updReq p (fun r => { disableRings r with rr := r.rr.abort s.free, held := [] })) p
  let s2 := if r0.rr.busy && r0.rr.byPf then signal s1 0 (192 + p) else s1
  let (s3, n) := dropStreams s2 p
  let s4 := s3.updFn (p + 1) Fn.reset
  askReset (countDiscards (markFlr s4 p) p (replies + n + r0.held.length + b2n (r0.rr.busy && !r0.rr.byPf))) p

/-- CQ_FULL of the partitions whose enabled rings a link carries, as the link now stands (R282, R490). -/
def noteRings (s : State) (i : Nat) : State :=
  (s.enabled.filter (fun p => (s.part p).home == i && (s.req p).cq.en)).foldl (fun s p => noteFull s p) s

/-- HOST_FLR. -/
def execHostFlr (f : Fin 65) (link : Fin 4) (t : Dword) (s0 : State) : Out :=
  let s := (s0.atTick t).updLink link (fun l => { l with cfg := AMap.del l.cfg f })
  .next (if f.val = 0 then noteRings (s.updFn 0 Fn.reset) link
  else if (s.part (f - 1)).home = link.val then flrPartition s (f - 1) else s)

/-- Every function's configuration space on a link reset, its IDE streams with it; completion rings that it carried are full from here on (R490). -/
def resetLink (s : State) (i : Nat) : State :=
  noteRings ((s.updLink i (fun l => { l with cfg := [] })).updSec (fun x => { x with ide := AMap.del x.ide i })) i

/-- HOST_PERST. -/
def execHostPerst (link : Fin 4) (s : State) : Out := .next (resetLink s link)

/-- HOST_LINK_DOWN. -/
def execHostLinkDown (link : Fin 4) (s : State) : Out :=
  .next ((resetLink s link).updLink link (fun l => if l.up then { l with up := false, rate := 0, width := 0, downCnt := satAdd 0xFF l.downCnt 1 } else l))

/-- HOST_LINK_UP: x16, x8 or x4 at 16, 32 or 64 GT/s in FLIT mode, from start-up step 3 on (R489, Table 16.4). -/
def execHostLinkUp (link : Fin 4) (rate : Fin 4) (width : Fin 32) (flit : Bool) (s : State) : Out :=
  .next (if flit && rate.val != 0 && (width.val == 4 || width.val == 8 || width.val == 16) && decide (3 ≤ s.sys.clk.phase) then
    s.updLink link (fun l => { l with up := true, rate := rate, width := width, cfg := [] })
  else s)

/-- Whether a function is present on a link (R490). -/
def present (s : State) (i f : Nat) : Bool :=
  (s.host.links.toList.getD i {}).up && (f == 0 || ((s.cfgOf i 0).sriov && decide (f ≤ (s.cfgOf i 0).numVfs)))

/-- PCIE_CONFIG_WRITE: bus-master enable of a present function; SR-IOV enable and NumVFs of PF0. -/
def execPcieConfigWrite (link : Fin 4) (f : Fin 65) (master : Option Bool) (sriov : Option Bool) (numVfs : Option (Fin 65)) (s : State) : Out :=
  .next (if !present s link f then s
  else noteRings (s.updLink link (fun l => { l with cfg := AMap.upd l.cfg {} f (fun c => { c with
    master := master.getD c.master
    sriov := if f.val = 0 then sriov.getD c.sriov else c.sriov
    numVfs := if f.val = 0 && !c.sriov then (match numVfs with | some n => n.val | none => c.numVfs) else c.numVfs }) })) link)

/-- BAD_REGISTER_ACCESS: ignored or read as zero, and counted; a request to a virtual function over a link without the secure stream that its IDE_REQ asks
for is refused as a whole and counted for its partition (R473). -/
def execBadRegisterAccess (via : Option (Fin 64 × Fin 4)) (s : State) : Out :=
  .next (match via with
  | some (p, link) =>
    if ideOk s link (p + 1) then { s with host := { s.host with badAcc := satAdd 0xFFFF s.host.badAcc 1 } }
    else s.updSecPart p (fun x => { x with ideRefuse := satAdd 0xFFFF x.ideRefuse 1 })
  | none => { s with host := { s.host with badAcc := satAdd 0xFFFF s.host.badAcc 1 } })

/-- INFO (Table 22.10). -/
def execInfo (f : Fin 65) (s : State) : Out :=
  .next (match findMsg s f 6 with
  | none => s
  | some m => endMsg s f m 0 0 [(64, 64, s.serial.toNat), (128, 8, s.grade), (136, 8, if f.val = 0 then 0xFF else f.val - 1),
      (144, 1, b2n s.sys.ready), (145, 1, b2n s.sys.safe), (160, 32, s.sys.mhVer)])

/-! ### Automata (14 R347, R348) -/

/-- Bytes of one mask of an automaton, padded to 64. -/
def maskBytes (nv : Nat) : Nat := 64 * ceilDiv nv 512

/-- `n` bytes at offset `a` of a file. -/
def fileN (d a n : Nat) : Nat := d / 2 ^ (8 * a) % 2 ^ (8 * n)

/-- Header fields of an automaton (Table 14.4). -/
def auNv (d : Nat) : Nat := fileN d 4 4
def auStates (d : Nat) : Nat := fileN d 8 4
def auMasks (d : Nat) : Nat := fileN d 12 2
def auExcs (d : Nat) : Nat := fileN d 16 4
def auState (d : Nat) : Nat := fileN d 24 8
def auMask (d : Nat) : Nat := fileN d 32 8
def auExc (d : Nat) : Nat := fileN d 40 8

/-- A rule of Table 14.4 broken in the header. -/
def autoHeadBad (d : Nat) : Bool :=
  fileN d 0 4 != 0x31414A46 || auStates d == 0 || decide (65536 < auStates d) || auMasks d == 0 || decide (4096 < auMasks d) || fileN d 20 4 != 0 ||
  auState d % 64 != 0 || auMask d % 64 != 0 || auExc d % 64 != 0 || fileN d 48 16 != 0

/-- Whether some two of a list of (start, length) regions meet; an empty region meets none. -/
def regionsMeet : List (Nat × Nat) → Bool
  | [] => false
  | a :: r => r.any (fun b => a.2 != 0 && b.2 != 0 && decide (a.1 < b.1 + b.2) && decide (b.1 < a.1 + a.2)) || regionsMeet r

/-- The token of an exception entry. -/
def excToken (d i : Nat) : Nat := fileN d (auExc d + 8 * i) 4

/-- Any other rule of R347 or Tables 14.5 and 14.6 broken. -/
def autoBodyBad (d len : Nat) : Bool :=
  let rs := [(0, 64), (auState d, 16 * auStates d), (auMask d, maskBytes (auNv d) * auMasks d), (auExc d, 8 * auExcs d)]
  rs.any (fun r => decide (len < r.1 + r.2)) || regionsMeet rs || decide (auStates d ≤ fileN d 14 2) ||
  anyBelow (auStates d) (fun i =>
    let q := fileN d (auState d + 16 * i) 16
    let first := q / 2 ^ 32 % 2 ^ 32
    let cnt := q / 2 ^ 64 % 2 ^ 32
    decide (auMasks d ≤ q % 4096) || q / 2 ^ 13 % 8 != 0 || decide (auStates d ≤ q / 2 ^ 16 % 65536) || q / 2 ^ 96 != 0 || decide (auExcs d < first + cnt) ||
    anyBelow (cnt - 1) (fun k => decide (excToken d (first + k + 1) ≤ excToken d (first + k)))) ||
  anyBelow (auExcs d) (fun i =>
    let q := fileN d (auExc d + 8 * i) 8
    decide (auNv d ≤ q % 2 ^ 32) || decide (auStates d ≤ q / 2 ^ 32 % 65536) || q / 2 ^ 48 != 0)

/-- Some mask allows no token. -/
def emptyMask (d : Nat) : Bool := anyBelow (auMasks d) (fun i => fileN d (auMask d + maskBytes (auNv d) * i) (maskBytes (auNv d)) % 2 ^ auNv d == 0)

/-- The lowest 64-byte aligned place of `len` bytes in an area that no automaton takes. -/
def autoPlace (used : List (Nat × Nat)) (size len : Nat) : Option Nat :=
  (0 :: used.map (fun u => 64 * ceilDiv (u.1 + u.2) 64)).foldl (fun a o =>
    if o + len ≤ size ∧ (used.any (fun u => decide (u.1 < o + len) && decide (o < u.1 + u.2))) = false then
      (match a with | some b => some (min b o) | none => some o) else a) none

/-- The automata that a slot holds or is about to hold, as (place, length). -/
def autoUsed (s : State) (p i : Nat) : List (Nat × Nat) :=
  (s.img p i).autos.map (fun a => (a.2.ofs, a.2.len)) ++ ((s.req p).autoLoads.filter (fun a => a.slot == i)).map (fun a => (a.auto.ofs, a.auto.len))

/-- The sampler cores of a slot, and the sampler record of the first. -/
def samplerCores (s : State) (p i : Nat) : List Nat := (slotCores s p i).filter (fun c => (s.core c).samp.isSome)

def samplerRecord (s : State) (p i : Nat) : BitVec 512 := match samplerCores s p i with | c :: _ => (s.core c).samp.getD 0#512 | [] => 0#512

/-- Bytes of a slot's automaton area; AUTO_BASE 0 means none (Table 14.1). -/
def autoSize (s : State) (p i : Nat) : Nat :=
  let r := samplerRecord s p i
  if bitsN r 128 16 = 0 then 0 else 0x10000 * bitsN r 144 16

/-- The place of the automaton that a message brings, if it fits. -/
def autoSpot (s : State) (p : Nat) (m : BitVec 512) : Option Nat :=
  autoPlace (autoUsed s p (bitsN m 32 2)) (autoSize s p (bitsN m 32 2)) (bitsN m 128 64)

/-- The checks of AUTO_LOAD, in order, each with its DETAIL (Table 22.10). -/
def autoChecks (s : State) (p : Nat) (m : BitVec 512) (file : Option Nat) : List (Bool × Nat) :=
  let i := bitsN m 32 2
  let id := bitsN m 48 12
  let len := bitsN m 128 64
  let img := s.img p i
  let busy := !(entriesOf s p (fun _ x => (x.st == .queued || x.st == .active) && x.islot == i && x.turn.autoId == id)).isEmpty
  let d := file.getD 0
  [(id == 0 || bitsN m 64 64 % 64 != 0 || decide (len < 64), 8), (img.st != .loaded, 4), (busy, 6), ((autoSpot s p m).isNone, 5),
    (file.isNone || !ringOk s p, 7), (autoHeadBad d, 1), (auNv d != img.nv, 3), (autoBodyBad d len, 1), (emptyMask d, 2)]

/-- AUTO_LOAD: the oldest such message of the partition's function is checked; a good automaton is written to every sampler core and takes effect at a boundary. -/
def autoLoad (s : State) (p : Nat) (file : Option Nat) : State :=
  match findMsg s (p + 1) 2 with
  | none => s
  | some m =>
    match firstCause (autoChecks s p m.body file) with
    | some c => endMsg s (p + 1) m 0 c []
    | none =>
      let i := bitsN m.body 32 2
      let d := file.getD 0
      let len := bitsN m.body 128 64
      let ofs := (autoSpot s p m.body).getD 0
      let base := 0x10000 * bitsN (samplerRecord s p i) 128 16
      let s1 := s.eachCore (samplerCores s p i) (fun _ c => { c with mast := { c.mast with data := Memory.writeN c.mast.data (base + ofs) d len } })
      (holdMsg s1 (p + 1) m).updReq p (fun r => { r with
        autoLoads := r.autoLoads ++ [{ slot := i, id := bitsN m.body 48 12, auto := { start := fileN d 14 2, ofs := ofs, len := len }, msg := m.body }] })

def execAutoLoad (p : Fin 64) (file : Option Nat) (s : State) : Out := .next (autoLoad s p file)

end Sys2Proof.Machine
end

