-- ==== Sys2Proof/Machine/Restart.lean ====
section
/-! DEFINITION. The module off and the module restarted: what each keeps (16 R393, 17 R410, R411, 19 R445, 25 R555). -/

namespace Sys2Proof.Machine

/-- What the factory fixes in a field (R12, R47, R391). -/
def FieldSt.factory (f : FieldSt) : FieldSt := { factRow := f.factRow, factSails := f.factSails }

/-- A device of the configuration NVM with its contents, not yet found present. -/
def NvmDev.unseen (d : NvmDev) : NvmDev := { d with present := false }

/-- A device across the end of a start: a copy write cut short may have erased its copy, a stage cut short leaves its bank invalid (R522, R530, R542). -/
def lostWrite (s : State) (d : Nat) (x : NvmDev) : NvmDev :=
  let x1 := match s.sys.cfg.write with
    | some w => if w.target = d ∧ s.fresh.getLsbD d then { x with copy := none } else x
    | none => x
  if s.sys.fw.staging.isSome then
    let used := fun b => s.sys.fw.dir.act.toList.contains b || s.sys.fw.dir.prev.toList.contains b
    { x1 with banks := AMap.del x1.banks (if used 0 then 1 else 0) }
  else x1

/-- The module without power: the factory's values, the NVM, the crow's nest and what the host has been sent remain. A valid input that returned
during hold-up is kept in `valid` (R411). -/
def coldState (s : State) : State :=
  { State.reset with
    pending := s.pending, free := s.free + 1, serial := s.serial, grade := s.grade
    fab := { fields := AMap.mapAll s.fab.fields (fun _ f => f.factory) }
    host := { out := s.host.out }
    sys := { lmap := s.sys.lmap, gapH := s.sys.gapH, gapV := s.sys.gapV
             pwr := { valid := s.sys.pwr.valid }
             pins := { cni3c := s.sys.pins.cni3c }
             cnm := { meter := s.sys.cnm.meter, lastSerial := s.sys.cnm.lastSerial }
             cfg := { dev0 := lostWrite s 0 s.sys.cfg.dev0.unseen, dev1 := lostWrite s 1 s.sys.cfg.dev1.unseen }
             fw := { floor := s.sys.fw.floor } } }

/-- The recorder across a restart from step 4: its memory, counts and slots, no freeze, no flush (R555). -/
def Evr.warm (e : Evr) : Evr :=
  { data := e.data, slot := e.slot, next := e.next, seq := e.seq, ops := e.ops, pcc := e.pcc, spaced := e.spaced }

/-- A restart from start-up step 4 (R393): beside what a cold start keeps, the time base, the links and supplies of the rim, and the recorder. -/
def warmState (s : State) (cause : Nat) : State :=
  let c := coldState s
  { c with
    tb := s.tb
    sheet := { c.sheet with stepped := s.sys.clk.firstLock }
    host := { c.host with links := s.host.links.map (fun l => { up := l.up, rate := l.rate, width := l.width }) }
    sys := { c.sys with
      clk := { phase := 4, cause := cause, restarts := satAdd 0xFFFF s.sys.clk.restarts 1, startTick := s.tb.toNat, source := s.sys.clk.source
               rate := s.sys.clk.rate, rateBefore := s.sys.clk.rateBefore, slew := s.sys.clk.slew, slewEnd := s.sys.clk.slewEnd, rateAt := s.sys.clk.rateAt
               firstLock := s.sys.clk.firstLock }
      evr := s.sys.evr.warm
      pwr := { valid := s.sys.pwr.valid, input := s.sys.pwr.input, storeOk := s.sys.pwr.storeOk, rim0 := s.sys.pwr.rim0, rim1 := s.sys.pwr.rim1
               convs := AMap.mapAll s.sys.pwr.convs (fun _ x => { ok := x.ok, temp := x.temp }) }
      fw := { c.sys.fw with step4At := s.tb.toNat } } }

/-- The records that a partition's entries and queue places still owe. -/
def owed (s : State) (p : Nat) : Nat := (s.req p).held.length + (entriesOf s p (fun _ _ => true)).foldl (fun a e => a + (s.ent e).reports.length) 0

/-- A partition reset at once (R356), with the records that this brings written while their ring has room. -/
def resetNow (s : State) (p : Nat) : State :=
  let t := s.tb.toNat
  let s1 := endQueued (endMarked (resetSlots (emptySlots (endStepNow s p) p) p) p t) p t
  iter (owed s1 p) 0 (fun _ s => recordWrite s p t) s1

/-- A restart with cause HOST: every partition reset first. -/
def hostRestart (s : State) : State := warmState (s.enabled.foldl resetNow s) 3

/-- PIN_RESET: RST_N held low for 1 ms; during hold-up the hold-up sequence governs, and before step 4 the start goes on from its own step (R393, R577). -/
def execPinReset (t : Dword) (s : State) : Out :=
  .next (if s.sys.pwr.holdup.isSome || decide (s.sys.clk.phase < 4) then s else warmState (s.atTick t) 2)

/-- HOST_RESTART: GO of MHG_RESET acts where its key is 0x4D52. -/
def execHostRestart (key : BitVec 16) (t : Dword) (s : State) : Out :=
  .next (if key = 0x4D52#16 ∧ 4 ≤ s.sys.clk.phase ∧ s.sys.pwr.holdup.isNone = true then hostRestart (s.atTick t) else s)

/-- The flush before a WATCHDOG restart, where it is possible: the contents written into the next slot of every device that is present. The spec gives it no CAUSE, so that
is a free value. DESIGN CHOICE: notes/assumptions/52.md. -/
def watchdogFlush (s : State) : State :=
  let s1 := urgentFlush { s with free := s.free + 1 } (s.fresh.toNat % 256)
  match s1.sys.evr.flush.bind (fun f => f.image.map (fun x => (f.slot, x))) with
  | none => s1
  | some (k, x) => (s1.updCfg (fun c => { c with
      dev0 := if c.dev0.present then c.dev0.putEvr k x else c.dev0, dev1 := if c.dev1.present then c.dev1.putEvr k x else c.dev1 })).updEvr (fun e => { e with
      flush := none, slot := k, flushes := satAdd 0xFFFF e.flushes 1 })

/-- MASTHEAD_WATCHDOG: whether the recorder could be flushed first (Table 16.6) comes with it; its memory is kept in any case (R555). -/
def execMastheadWatchdog (x : Timed Bool) (s0 : State) : Out :=
  let flushed := x.val
  let t := x.tick
  let s := s0.atTick t
  .next (if s0.sys.pwr.holdup.isSome || decide (s0.sys.clk.phase < 4) then s0 else warmState (if flushed then watchdogFlush s else s) 4)

/-- The field switches open: every field DARK, what its masts and cores held lost (Table 17.5). -/
def fieldsOff (s : State) : State :=
  let s1 := (List.range 48).foldl (fun s n => if (s.fieldPwr n).st = 0 then s else darkField (s.updFieldPwr n (fun x => { x with st := 0 })) n) s
  { s1 with cores := [], fab := { s1.fab with flits := [], reds := [], merges := [], vc0 := [] } }

/-- HOLDUP_FIELDS_OFF: 20 ms into hold-up, or within an orderly shutdown, the field switches open (Tables 17.5, 19.3). -/
def execHoldupFieldsOff (t : Dword) (s : State) : Out :=
  .next (if s.sys.pwr.holdup.isSome || s.sys.shutdown then fieldsOff (s.atTick t) else s)

/-- HOLDUP_RIM_OFF: the rim switch opens and the module is off. -/
def execHoldupRimOff (t : Dword) (s : State) : Out :=
  .next (if s.sys.pwr.holdup.isSome then coldState (s.atTick t)
  else if s.sys.shutdown then (coldState (s.atTick t)).updPwr (fun x => { x with valid := false })
  else s)

/-- INPUT_VALID: the input has stayed valid for 100 ms and start-up begins; during hold-up the sequence still runs to its end (R398, R411). -/
def execInputValid (s : State) : Out := .next (s.updPwr (fun x => { x with valid := true }))

end Sys2Proof.Machine
end

