-- ==== Sys2Proof/Machine/Power.lean ====
section
/-! DEFINITION. Power delivery: the input, voltages, the power policy, supply faults, field power-on, hold-up (17). -/

namespace Sys2Proof.Machine

/-! ### The input (R398, R410) -/

/-- INPUT_DIP: under 20 µs below 44 V; carried and counted. -/
def execInputDip (s : State) : Out := .next (s.updPwr (fun x => { x with dips := satAdd 0xFF x.dips 1 }))

/-- The input enters a state of Table 17.2, logged with its voltage in 10 mV. -/
def enterInput (s : State) (st volt : Nat) : State := pwrLog (s.updPwr (fun x => { x with input := st, volt := volt })) 0 0 6 0 volt

/-- INPUT_LOW: 44 to 46 V; from now on the ceiling is bounded by V × 480 A. -/
def execInputLow (volt : BitVec 16) (t : Dword) (s : State) : Out :=
  .next (if s.sys.pwr.holdup.isSome || s.sys.pwr.input == 1 then s else enterInput (s.atTick t) 1 volt.toNat)

/-- INPUT_HIGH: 60 to 62 V; each entry is logged. -/
def execInputHigh (volt : BitVec 16) (t : Dword) (s : State) : Out :=
  .next (if s.sys.pwr.holdup.isSome || s.sys.pwr.input == 2 then s else enterInput (s.atTick t) 2 volt.toNat)

def State.updThm (s : State) (f : Thm → Thm) : State := { s with sys := { s.sys with thm := f s.sys.thm } }

/-- A record in the thermal error log (Table 18.8). -/
def thmLog (s : State) (n c kind tier value : Nat) : State :=
  let r := (packFields 32 [(0, 6, n), (6, 8, c), (14, 4, kind), (18, 2, tier)], s.time32, packFields 32 [(0, 16, value)])
  signalLog (s.updThm (fun x => { x with log := x.log.push r })) s.sys.thm.log 0 3

/-- An event bit set on every function. -/
def dblAll (s : State) (b : Nat) : State := (List.range 65).foldl (fun s f => dblSet s f b) s

/-- A strike (R428): the coolant state STRUCK unless it is SHUTDOWN, which only a start leaves (Table 18.2), every sail idled, entries that hold a decode slot to end with STRIKE, host software told. -/
def strike (s : State) (cause : Nat) (restore : Bool) : State :=
  let s1 := thmLog (s.updThm (fun x => { x with
    cool := if x.cool = 4 then 4 else 3, cause := cause, strikes := satAdd 0xFF x.strikes 1, good := 0, struckAt := if restore then some s.tb.toNat else none })) 0 0 7 0 s.sys.thm.flow
  let s2 := idleSails s1 0x4C 0x26
  let s3 := { s2 with sys := { s2.sys with struck := true } }
  dblAll s3 10

/-- INPUT_LOSS: hold-up begins; the power-fail event, the strike without a restoration window, the recorder's flush (R410, R430, R517). -/
def execInputLoss (volt : BitVec 16) (t : Dword) (s0 : State) : Out :=
  .next (if s0.sys.pwr.holdup.isSome then s0
  else
    let s := enterInput (s0.atTick t) 3 volt.toNat
    let s1 := (raiseAll s 0x63 noField noCore).updPwr (fun x => { x with holdup := some t.toNat, valid := false, storeOk := false })
    let s2 := dblSet s1 0 4
    let s3 := strike s2 4 false
    let s4 := { s3 with sys := { s3.sys with shutdown := true } }
    urgentFlush (sendClose (s4.updCfg (fun c => { c with pend := [] }))) 1)

/-- HOLDUP_STORE_CHARGED: the store holds 700 J. -/
def execHoldupStoreCharged (s : State) : Out := .next (s.updPwr (fun x => { x with storeOk := x.holdup.isNone }))

/-! ### Adaptive voltage (R399, R400) -/

/-- AVS_TRIM_TICK: the worst margin of the last 10 µs in ps; a core in reefing stage 1 lowers from 25 ps instead of 45. While a glide downward runs none is lowered (R377). -/
def execAvsTrimTick (core : Fin 9216) (margin : Nat) (s : State) : Out :=
  let h := AMap.at s.sys.thm.cores {} core
  let hi := if h.stage1 || h.suspect then 25 else 45
  .next (if !(s.corePwr core).on then s
  else s.updCorePwr core (fun c => ({ c with
    volt := if margin < 20 then min vMax (c.volt + 5) else if hi < margin ∧ (s.sys.clk.gliding && s.sys.clk.down) = false then max 550 (c.volt - 5) else c.volt }).show))

/-- TIMING_NEAR_MISS. -/
def execTimingNearMiss (core : Fin 9216) (s : State) : Out :=
  .next (if !(s.corePwr core).on then s
  else s.updCorePwr core (fun c => ({ c with volt := min vMax (c.volt + 20), near := satAdd 0x3F c.near 1 }).show))

/-- SLOW_CORE_TIMEOUT. -/
def execSlowCoreTimeout (core : Fin 9216) (t : Dword) (s : State) : Out :=
  .next (if (s.corePwr core).on && (s.corePwr core).volt == vMax then slowCore (s.atTick t) core else s)

/-! ### The power policy (R404) -/

/-- A persistent register (Table 23.6). -/
def State.rwp (s : State) (i : Nat) : Word := AMap.at s.sys.cfg.rwp 0#32 i

/-- The power ceiling in force, in W. -/
def ceiling (s : State) : Nat :=
  let x := s.sys.pwr
  let c := min (100 * x.ceil) (10 * s.sys.thm.ceil)
  if x.input = 1 then min c (x.volt * 480 / 100) else c

/-- A converter reading taken. -/
def convRead (s : State) (r : Nat × Nat × Bool × Nat) : State :=
  s.updPwr (fun x => { x with convs := AMap.upd x.convs {} r.1 (fun c => { c with
    curr := r.2.1, limit := r.2.2.1, temp := r.2.2.2, limitCnt := if r.2.2.1 && !c.limit then satAdd 0xFF c.limitCnt 1 else c.limitCnt }) })

/-- The measurements of a millisecond taken, with the user calibration of the input (R520), and sampled by the recorder. -/
def takePower (s : State) (i : PowerIn) : State :=
  let w := s.rwp 2
  let mv := ((i.mv : Int) + signedOf 16 (bitsN w 0 16)).toNat
  let ma := ((i.ma : Int) + 10 * signedOf 16 (bitsN w 16 16)).toNat
  let p := mv * ma / 1000000
  let s1 := s.updPwr (fun x => { x with
    input := if x.holdup.isNone && decide (46000 ≤ mv) && decide (mv ≤ 60000) then 0 else x.input
    volt := min 0xFFFF (mv / 10), curr := min 0xFFFF (ma / 100), power := min 0xFFFF (p / 10), powerHwm := max x.powerHwm (min 0xFFFF (p / 10)), rimCurr := min 0x1FF i.rim
    hist := (p :: x.hist).take 1000, high := if 26000 < p then x.high + 1 else 0 })
  let s2 := i.convs.foldl convRead s1
  let s3 := i.fields.foldl (fun s r => s.updFieldPwr r.1 (fun x => { x with curr := r.2, hwm := max x.hwm r.2 })) s2
  let s3 := (i.fields.map (·.1)).foldl supplyJudge s3
  let s4 := i.cores.foldl (fun s r => s.updCorePwr r.1 (fun x => { x with curr := r.2.1, hwm := max x.hwm r.2.2 })) s3
  evrSample (evrSample s4 3 0xFF noField noCore p (p / 500)) 4 0xFF noField noCore (mv / 100) (((mv / 10 : Nat) - 4400 : Int) / 30)

/-- A partition's measured share: the current of its fields. -/
def share (s : State) (p : Nat) : Nat := (s.fieldsOf p).foldl (fun a n => a + (s.fieldPwr n).curr) 0

/-- The stepping partition with the largest measured share whose demand can still rise; the lowest on a tie. -/
def widest (s : State) : Option Nat :=
  (s.enabled.filter (fun p => isStepping s p && decide ((s.clkPart p).pwrSwal < 8))).foldl (fun a p =>
    match a with | none => some p | some q => if share s q < share s p then some p else a) none

/-- A partition's power demand set. -/
def setPwrSwal (s : State) (p v : Nat) : State := setReef (s.updClkPart p (fun c => { c with pwrSwal := v })) p

def setLimit (s : State) (v : Nat) : State := retarget (s.updClk (fun c => { c with limit := v }))

/-- One lowering: STEP_LIM down to the floor, then swallow demands. -/
def lowerPower (s : State) : State :=
  let l := s.sys.clk.limit
  if l + 1 ≤ clockFloor s then (setLimit s (l + 1)).updPwr (fun x => { x with acts := .step :: x.acts, lastAct := s.tb.toNat })
  else match widest s with
    | some p => (setPwrSwal s p ((s.clkPart p).pwrSwal + 1)).updPwr (fun x => { x with acts := .swal p :: x.acts, lastAct := s.tb.toNat })
    | none => s

/-- The latest action undone; a standing demand stays. -/
def raisePower (s : State) : State :=
  match s.sys.pwr.acts with
  | [] => s
  | a :: r =>
    let s1 := s.updPwr (fun x => { x with acts := r, lastAct := s.tb.toNat })
    match a with
    | .step => setLimit s1 (s.sys.clk.limit - 1)
    | .swal p => setPwrSwal s1 p (max ((s.clkPart p).pwrSwal - 1) (AMap.at s.sys.pwr.hold 0 p))

/-- The 26 kW rule: the floor, and every stepping partition at 8. -/
def clampPower (s : State) : State :=
  let fl := clockFloor s
  let n := fl - s.sys.clk.limit
  let ps := s.enabled.filter (isStepping s)
  let sw := ps.flatMap (fun p => List.replicate (8 - (s.clkPart p).pwrSwal) (PwrAct.swal p))
  let s1 := setLimit s (max fl s.sys.clk.limit)
  let s2 := ps.foldl (fun s p => setPwrSwal s p 8) s1
  (pwrLog s2 0 0 7 0 s.sys.pwr.power).updPwr (fun x => { x with acts := sw ++ List.replicate n .step ++ x.acts, high := 0, lastAct := s.tb.toNat })

/-- POWER_POLICY_TICK. The 100 ms and 1 s means exist once as many measurements do. -/
def execPowerPolicyTick (i : PowerIn) (t : Dword) (s0 : State) : Out :=
  let s := takePower (s0.atTick t) i
  let x := s.sys.pwr
  let sum := fun n => (x.hist.take n).foldl (· + ·) 0
  .next (if x.holdup.isSome then s
  else if 10 ≤ x.high then clampPower s
  else if 100 ≤ x.hist.length ∧ 100 * ceiling s < sum 100 then (if x.lastAct + 10000000 ≤ t.toNat then lowerPower s else s)
  else if 1000 ≤ x.hist.length ∧ 10 * sum 1000 < 9 * 1000 * ceiling s then (if x.lastAct + 100000000 ≤ t.toNat then raisePower s else s)
  else s)

/-! ### Supply faults (R405 to R407) -/

/-- A core whose regulator has failed: off, dark, furled with cause REGULATOR. -/
def regFails (s : State) (m value : Nat) : State :=
  coreDead (pwrLog (s.updCorePwr m (fun c => { c with st := 5, volt := 0 })) (m / 192) (m % 192) 1 0 value) m 0x22 5

/-- PHASE_FAILURE: the first leaves the core REEFED, a second fails its regulator. -/
def execPhaseFailure (core : Fin 9216) (phase : Fin 4) (value : BitVec 16) (t : Dword) (s0 : State) : Out :=
  let c := s0.corePwr core
  let n := core.val / 192
  .next (if !c.on || !bitAt c.phases phase then s0
  else
    let s := (s0.atTick t).updCorePwr core (fun c => { c with phases := setBits c.phases phase 1 0 })
    if c.reefed then regFails s core value.toNat
    else
      let s1 := pwrLog (s.updCorePwr core (fun c => ({ c with reefed := true }).show)) n (core % 192) 0 phase value.toNat
      let f := s1.field n
      if !f.owned then evrFault s1 0x25 0xFF n (core % 192) none
      else reefCore (raiseFault s1 f.part 0x25 n (core % 192)) core)

/-- REGULATOR_FAILURE. -/
def execRegulatorFailure (core : Fin 9216) (value : BitVec 16) (t : Dword) (s : State) : Out :=
  .next (if (s.corePwr core).on then regFails (s.atTick t) core value.toNat else s)

/-- CORE_SHORT: the power gate opens; the core is GATED and furled with cause SHORT. -/
def execCoreShort (core : Fin 9216) (value : BitVec 16) (t : Dword) (s : State) : Out :=
  .next (if (s.corePwr core).on then
    coreDead (pwrLog ((s.atTick t).updCorePwr core (fun c => { c with st := 6, volt := 0 })) (core / 192) (core % 192) 2 0 value.toNat) core 0x23 6
  else s)

/-- A field whose owner, if any, gets a port-class fault. -/
def raiseFieldPort (s : State) (n code : Nat) : State :=
  if (s.field n).owned then raiseFault s (s.field n).part code n noCore else raiseAll s code n noCore

/-- A field trips; one that was being powered on makes way for the next (R408). -/
def tripNow (s : State) (n value : Nat) : State :=
  if (s.fieldPwr n).st = 2 then requestGrant (tripField s n 0x45 value) else tripField s n 0x45 value

/-- CONVERTER_FAILURE: the pair's other converter carries the field at 150 A; without it, or above 8, the field trips (R407). -/
def execConverterFailure (k : Fin 96) (value : BitVec 16) (t : Dword) (s0 : State) : Out :=
  let n := k.val / 2
  .next (if (AMap.at s0.sys.pwr.convs {} k).ok = false then s0
  else
    let s := (s0.atTick t).updPwr (fun x => { x with convs := AMap.upd x.convs {} k (fun c => { c with ok := false, curr := 0 }) })
    let s1 := raiseFieldPort (pwrLog s n 0 4 (k % 2) value.toNat) n 0x59
    if (s1.fieldPwr n).st ≠ 2 ∧ (s1.fieldPwr n).st ≠ 3 then s1
    else if (AMap.at s1.sys.pwr.convs {} (4 * n + 1 - k)).ok = false then tripNow s1 n value.toNat
    else supplyJudge s1 n)

/-- FIELD_SUPPLY_SHORT: a field that is ramping or on trips (R408, R409). -/
def execFieldSupplyShort (n : Fin 48) (value : BitVec 16) (t : Dword) (s : State) : Out :=
  .next (if (s.fieldPwr n).st = 2 ∨ (s.fieldPwr n).st = 3 then tripNow (s.atTick t) n value.toNat else s)

/-- Both rim converters lost (R445): the fault raised, every partition's step failed and its sails idle, the field switches open. The rim has no power: no link is up, and
nothing of this leaves the module or reaches its NVM. The rim switch opens next (HOLDUP_RIM_OFF). -/
def rimPower (s : State) : State :=
  let s0 := { s with host := { s.host with links := s.host.links.map (fun l => { l with up := false, rate := 0, width := 0 }) } }
  let s1 := idleSails (raiseAll s0 0x61 noField noCore) 0x61 0x23
  let s2 := fieldsOff { s1 with sys := { s1.sys with shutdown := true, evr := { s1.sys.evr with flush := none, queue := [] } } }
  { s2 with host := { s2.host with out := s.host.out } }

/-- RIM_CONVERTER_FAILURE: the other converter carries the rim; with both lost the module shuts down (R445). -/
def execRimConverterFailure (i : Fin 2) (value : BitVec 16) (t : Dword) (s0 : State) : Out :=
  let x := s0.sys.pwr
  let ok := if i.val = 0 then x.rim0 else x.rim1
  .next (if !ok then s0
  else
    let s := (s0.atTick t).updPwr (fun x => if i.val = 0 then { x with rim0 := false } else { x with rim1 := false })
    let s1 := raiseAll (pwrLog s 0 0 4 i value.toNat) 0x59 noField noCore
    if s.sys.pwr.rim0 || s.sys.pwr.rim1 then s1 else rimPower s1)

/-- PHASE_LIMIT_EXPIRE: 10 ms after a phase failure without a boundary; the step fails and is ended at once (R406). -/
def execPhaseLimitExpire (core : Fin 9216) (t : Dword) (s0 : State) : Out :=
  .next (match (s0.corePwr core).limitBy with
  | none => s0
  | some u =>
    if t.toNat ≤ u then s0
    else
      let s := (s0.atTick t).updCorePwr core (fun c => { c with limitBy := none })
      let p := s.corePart core
      if (s.grp p).inStep then endStepNow (failStep (raiseFault s p 0x12 (core / 192) (core % 192)) p 0x12) p else s)

/-! ### Field power-on (R408, R409) -/

/-- Fields that share a seam with field n. -/
def seamNeighbours (n : Nat) : List Nat :=
  let x := n % 8
  let y := n / 8
  (if 0 < x then [n - 1] else []) ++ (if x < 7 then [n + 1] else []) ++ (if 0 < y then [n - 8] else []) ++ (if y < 5 then [n + 8] else [])

/-- A field's ramp begins after its wait; the shunt and boost stages of its powered neighbours are armed throughout it (R403, R409). -/
def ramp (s : State) (n : Nat) : State :=
  let wait := min 50 ((s.tb.toNat - (s.fieldPwr n).waitAt) / 1000000)
  let s1 := (s.updFieldPwr n (fun x => { x with st := 2, grantMs := wait })).updClkField n (fun c => { c with powerOn := some s.tb.toNat })
  (seamNeighbours n).foldl (fun s k => if (s.fieldPwr k).st = 3 then s.updFieldPwr k (fun x => { x with armed := true }) else s) s1

/-- Whether a powered field that shares a seam with field n is at peak; `peaks` are the highest 1.8 V currents of the last 100 µs, in A. -/
def atPeak (s : State) (n : Nat) (peaks : List (Nat × Nat)) : Bool :=
  (seamNeighbours n).any (fun k => ((s.fieldPwr k).st == 2 || (s.fieldPwr k).st == 3) && peaks.any (fun x => x.1 == k && decide (240 < x.2)))

/-- QUIET_WINDOW_GRANT: the masthead's evaluation each 100 µs; no grant while a neighbour is at peak. -/
def execQuietWindowGrant (n : Fin 48) (peaks : List (Nat × Nat)) (t : Dword) (s : State) : Out :=
  .next (if (s.fieldPwr n).st = 1 ∧ atPeak s n peaks = false then ramp (s.atTick t) n else s)

/-- GRANT_TIMEOUT: granted once 50 ms have passed. -/
def execGrantTimeout (n : Fin 48) (t : Dword) (s : State) : Out :=
  .next (if (s.fieldPwr n).st = 1 ∧ (s.fieldPwr n).waitAt + 50000000 < t.toNat then ramp (s.atTick t) n else s)

/-- FIELD_RAMP_TIMEOUT: not in regulation 1 ms after the switch closed. -/
def execFieldRampTimeout (n : Fin 48) (value : BitVec 16) (t : Dword) (s : State) : Out :=
  .next (if (s.fieldPwr n).st = 2 ∧ (s.clkField n).lockLate t.toNat = true then powerFails (pwrLog (s.atTick t) n 0 3 0 value.toNat) n 0x45 4 else s)

end Sys2Proof.Machine
end

