-- ==== Sys2Proof/Machine/Thermal.lean ====
section
/-! DEFINITION. Heat, reefing and coolant: sensors, reefing stages, trips, the tray, strike and its end (18). -/

namespace Sys2Proof.Machine

/-! ### Governing temperatures (R416, R417) -/

def State.coreThm (s : State) (m : Nat) : CoreThm := AMap.at s.sys.thm.cores {} m

def State.updCoreThm (s : State) (m : Nat) (f : CoreThm → CoreThm) : State := s.updThm (fun x => { x with cores := AMap.upd x.cores {} m f })

def State.partThm (s : State) (p : Nat) : PartThm := AMap.at s.sys.thm.parts {} p

def State.updPartThm (s : State) (p : Nat) (f : PartThm → PartThm) : State := s.updThm (fun x => { x with parts := AMap.upd x.parts {} p f })

/-- Mesh neighbours of a core, across seams (R374). -/
def meshNeighbours (m : Nat) : List Nat :=
  let x := m / 192 % 8 * 12 + m % 12
  let y := m / 1536 * 16 + m % 192 / 12
  let core : Nat → Nat → Nat := fun x y => (y / 16 * 8 + x / 12) * 192 + y % 16 * 12 + x % 12
  (if 0 < x then [core (x - 1) y] else []) ++ (if x < 95 then [core (x + 1) y] else []) ++
  (if 0 < y then [core x (y - 1)] else []) ++ (if y < 95 then [core x (y + 1)] else [])

/-- The higher reading of a core's working sensors. -/
def CoreThm.own (c : CoreThm) : Option Int :=
  match c.dFail, c.rFail with
  | false, false => some (max c.diode c.ring)
  | false, true => some c.diode
  | true, false => some c.ring
  | true, true => none

/-- What a failed factory calibration adds to every governing temperature (R519). -/
def calRaise (s : State) : Int := if s.sys.cfg.fcalRead && !s.sys.cfg.fcalOk then 3 else 0

/-- The greatest of some temperatures. -/
def hottest (l : List Int) : Option Int := l.foldl (fun a x => match a with | none => some x | some y => some (max x y)) none

/-- A core's governing temperature; where no neighbour works either, the spec states none and the value is free. -/
def coreTemp (s : State) (m : Nat) : Int :=
  calRaise s + (match (s.coreThm m).own with
  | some v => v
  | none =>
    match hottest (((meshNeighbours m).filter (fun k => s.hasField (k / 192))).filterMap (fun k => (s.coreThm k).own)) with
    | some v => v + 3
    | none => ((s.fresh.toNat % 191 : Nat) : Int) - 40)

/-- A tier's governing temperature; none where all four sensors of its mast have failed. -/
def tierTemp (s : State) (m k : Nat) : Option Int :=
  let ts := (s.core m).mast.tiers.toList
  match ts[k]? with
  | none => none
  | some x =>
    if !x.failed then some (x.temp + calRaise s)
    else (hottest ((ts.filter (fun y => !y.failed)).map (·.temp))).map (fun v => v + 4 + calRaise s)

/-- Whether a tier's governing temperature, if it has one, is at least v. -/
def tierAtLeast (s : State) (v : Int) (k : Nat × Nat) : Bool := match tierTemp s k.1 k.2 with | some g => decide (v ≤ g) | none => false

/-- The cores of a partition whose sensors have been sampled. -/
def sampledCores (s : State) (p : Nat) : List Nat := (s.sys.thm.cores.map (·.1)).filter (fun m => (s.field (m / 192)).owned && s.corePart m == p)

/-- The tiers of a partition's masts. -/
def partTiers (s : State) (p : Nat) : List (Nat × Nat) := (s.coresOf p).flatMap (fun m => (List.range 4).map (fun k => (m, k)))

/-- HOT_T of a partition. -/
def partHot (s : State) (p : Nat) : Int := (hottest ((sampledCores s p).map (coreTemp s))).getD 0

/-- A port-class fault of a core's field: its partition's, or every enabled one's. -/
def raiseCorePort (s : State) (m code : Nat) : State :=
  if (s.field (m / 192)).owned then raiseFault s (s.corePart m) code (m / 192) (m % 192) else raiseAll s code (m / 192) (m % 192)

/-- A sensor found failed. -/
def sensorFails (s : State) (m tier : Nat) (v : Int) : State := raiseCorePort (thmLog s (m / 192) (m % 192) 0 tier (wrapInt 16 v)) m 0x5A

/-! ### Reefing (R418 to R421) -/

/-- A partition's thermal demand set; a rise from 0 is logged, every rise counted. -/
def setThmSwal (s : State) (p v : Nat) : State :=
  let old := (s.clkPart p).thmSwal
  if v = old then s
  else
    let s1 := if old = 0 then thmLog s 0 0 2 0 (wrapInt 16 (partHot s p)) else s
    let s2 := if old < v then s1.updPartThm p (fun x => { x with raises := satAdd 0xFFFF x.raises 1 }) else s1
    setReef (s2.updClkPart p (fun c => { c with thmSwal := v })) p

/-- Whether a core or a tier of a partition stands at its limit. -/
def atLimit (s : State) (p : Nat) : Bool :=
  (sampledCores s p).any (fun m => (s.coreThm m).limit) || (partTiers s p).any (tierAtLeast s 95)

/-- A unit of a partition reaches 95 °C: the demand is set to 8 and LIMIT is logged. -/
def reachLimit (s : State) (m tier : Nat) (v : Int) : State :=
  let s1 := thmLog s (m / 192) (m % 192) 3 tier (wrapInt 16 v)
  if (s.field (m / 192)).owned then (setThmSwal s1 (s.corePart m) 8).updPartThm (s.corePart m) (fun x => { x with limit := true }) else s1

/-- A core judged by its governing temperature: limits, stage 1, timers, high-water marks. -/
def judgeCore (s : State) (m : Nat) : State :=
  let g := coreTemp s m
  let t := s.tb.toNat
  let x := s.sys.thm
  let c := s.coreThm m
  let s1 := s.updCoreThm m (fun c => { c with
    hwm := max c.hwm g, limit := decide (95 ≤ g)
    stage1 := c.stage1 || decide ((x.reefOn : Int) ≤ g), hotAt := if c.stage1 then c.hotAt else if (x.reefOn : Int) ≤ g then some t else none
    coolAt := if g < (x.reefOff : Int) then some (c.coolAt.getD t) else none })
  let s2 := if 95 ≤ g ∧ c.limit = false then reachLimit s1 m 0 g else s1
  let s3 := if (s2.field (m / 192)).owned then s2.updPartThm (s2.corePart m) (fun y => { y with limit := atLimit s2 (s2.corePart m) }) else s2
  let best := s3.sys.thm.cores.foldl (fun (a : Option (Nat × Int)) k =>
    let v := coreTemp s3 k.1
    match a with | none => some (k.1, v) | some b => if b.2 < v then some (k.1, v) else a) none
  match best with
  | some b => s3.updThm (fun y => { y with hotCore := b.1, hotTemp := b.2 })
  | none => s3

/-- A reading of one sensor: (reading, failed, samples missed) after it, and whether it fails now. -/
def sense (old : Int) (failed : Bool) (miss : Nat) (r : Option Int) : Int × Bool × Nat × Bool :=
  if failed then (old, true, miss, false)
  else match r with
    | some v => if v < -40 ∨ 150 < v then (v, true, 0, true) else (v, false, 0, false)
    | none => if 10 ≤ miss + 1 then (old, true, 0, true) else (old, false, miss + 1, false)

/-- CORE_SENSOR_SAMPLE: both sensors read, or giving no valid reading; ten samples without one are the 1 ms of R416. A core whose field the grade lacks has none (R432). -/
def execCoreSensorSample (core : Fin 9216) (diode ring : Option Int) (t : Dword) (s0 : State) : Out :=
  let s := s0.atTick t
  let c := s.coreThm core
  let (d, df, dm, dNow) := sense c.diode c.dFail c.dMiss diode
  let (r, rf, rm, rNow) := sense c.ring c.rFail c.rMiss ring
  let gap := (d - r).natAbs
  let both := !df && !rf
  let wide := both && decide (3 < gap)
  let s1 := s.updCoreThm core (fun c => { c with
    diode := d, ring := r, dFail := df, rFail := rf, dMiss := dm, rMiss := rm, wide := wide, disCnt := if wide && !c.wide then satAdd 0xFFF c.disCnt 1 else c.disCnt
    wideAt := if both && decide (8 < gap) then some (c.wideAt.getD t.toNat) else none })
  let s2 := if dNow then sensorFails s1 core 0 d else s1
  let s3 := if rNow then sensorFails s2 core 0 r else s2
  .next (if !s0.hasField (core / 192) then s0 else judgeCore s3 core)

/-- DISAGREE_TIMEOUT: more than 8 °C apart for more than 1 s; the core is held at its floor until the next start. -/
def execDisagreeTimeout (core : Fin 9216) (t : Dword) (s0 : State) : Out :=
  let c := s0.coreThm core
  .next (match c.wideAt with
  | none => s0
  | some u =>
    if t.toNat ≤ u + 1000000000 || c.suspect then s0
    else
      let s := (s0.atTick t).updCoreThm core (fun c => { c with suspect := true, stage1 := true, hotAt := some (c.hotAt.getD t.toNat) })
      raiseCorePort (thmLog s (core / 192) (core % 192) 1 0 (c.diode - c.ring).natAbs) core 0x5B)

/-- STAGE1_RELEASE: below REEF_OFF for 100 ms, unless R418 holds the core. -/
def execStage1Release (core : Fin 9216) (t : Dword) (s0 : State) : Out :=
  let c := s0.coreThm core
  .next (match c.coolAt with
  | none => s0
  | some u => if c.stage1 && !c.suspect && decide (u + 100000000 ≤ t.toNat) then (s0.atTick t).updCoreThm core (fun c => { c with stage1 := false, hotAt := none }) else s0)

/-- The tick since which something has been calm, by partition. -/
def calmSince (m : AMap (Option Nat)) (p : Nat) (hot : Bool) (t : Nat) : AMap (Option Nat) :=
  if hot then AMap.put m p none else if AMap.find m p = some none then AMap.put m p (some t) else m

/-- The calm of a partition's tiers kept for R135 and R421. -/
def noteCalm (s : State) (p : Nat) : State :=
  s.updThm (fun y => { y with
    tierCalm := calmSince y.tierCalm p ((partTiers s p).any (tierAtLeast s ((s.sys.thm.tierReef : Int) - 3))) s.tb.toNat
    hotCalm := calmSince y.hotCalm p (!tiersCool s p) s.tb.toNat })

/-- The tiers of a mast that a reading has taken to 95 °C: the one sampled, and those failed ones that govern by its reading (R417). -/
def newLimits (s0 s : State) (m : Nat) : List Nat := (List.range 4).filter (fun k => tierAtLeast s 95 (m, k) && !tierAtLeast s0 95 (m, k))

/-- TIER_SENSOR_SAMPLE: a sample without a valid reading is the 1 ms of R416. Above HOT_ON, or with no working sensor, the partition turns to its hot schedule (R135,
R417). A mast whose field the grade lacks has no reading (R151). -/
def execTierSensorSample (core : Fin 9216) (tier : Fin 4) (reading : Option Int) (t : Dword) (s0 : State) : Out :=
  let s := s0.atTick t
  let x := (s.core core).mast.tiers[tier]
  let bad := match reading with | some v => decide (v < -40) || decide (150 < v) | none => true
  let s1 := if x.failed then s
    else
      let s1 := s.updMast core (fun m => m.updTier tier (fun y => { y with temp := reading.getD y.temp, failed := bad }))
      if bad then sensorFails s1 core tier (reading.getD x.temp) else s1
  let p := s1.corePart core
  .next (if !s0.hasField (core / 192) then s0
  else if !(s1.field (core / 192)).owned then s1
  else
    let hot := (List.range 4).any (fun k => tierTemp s1 core k == none || tierAtLeast s1 (s1.mst.hotOn + 1) (core.val, k))
    let s2 := if hot then s1.updPart p (fun y => { y with hotAsked := true }) else s1
    let s3 := (newLimits s s1 core).foldl (fun a k => reachLimit a core k ((tierTemp s1 core k).getD 0)) (noteCalm s2 p)
    s3.updPartThm p (fun y => { y with limit := atLimit s3 p }))

/-- Whether stage 2 raises a partition's demand at tick t (R421). -/
def demandUp (s : State) (p t : Nat) : Bool :=
  let x := s.sys.thm
  (sampledCores s p).any (fun m => let c := s.coreThm m
    c.stage1 && decide ((x.reefOn : Int) ≤ coreTemp s m) && (match c.hotAt with | some u => decide (u + 10000000 ≤ t) | none => false)) ||
  (partTiers s p).any (tierAtLeast s x.tierReef)

/-- Whether it may be lowered. -/
def demandDown (s : State) (p t : Nat) : Bool :=
  (sampledCores s p).all (fun m => match (s.coreThm m).coolAt with | some u => decide (u + 100000000 ≤ t) | none => false) &&
  (match AMap.find s.sys.thm.tierCalm p with | some (some u) => decide (u + 100000000 ≤ t) | some none => false | none => true) &&
  (match (s.partThm p).lowered with | some u => decide (u + 100000000 ≤ t) | none => true)

/-- THERMAL_DEMAND_TICK: every partition's demand raised or lowered by one. -/
def execThermalDemandTick (t : Dword) (s0 : State) : Out :=
  let s := s0.atTick t
  .next (s.enabled.foldl (fun s p =>
    let d := (s.clkPart p).thmSwal
    if demandUp s p t.toNat then setThmSwal s p (min 8 (d + 1))
    else if 0 < d ∧ demandDown s p t.toNat = true then (setThmSwal s p (d - 1)).updPartThm p (fun x => { x with lowered := some t.toNat })
    else s) s)

/-- THERMAL_TRIP: the comparator of a field finds a core at 105 °C for 1 ms or a tier at 100 °C for 10 ms (R422). -/
def execThermalTrip (n : Fin 48) (core : Fin 192) (tier : Fin 4) (value : BitVec 8) (t : Dword) (s : State) : Out :=
  .next (if (s.fieldPwr n).st = 3 then tripField (thmLog (s.atTick t) n core 4 tier value.toNat) n 0x46 (s.fieldPwr n).curr else s)

/-! ### The tray (R423 to R425, R567) -/

/-- One byte taken into the CRC-16 of a tray report: polynomial 0x1021, no reflection. -/
def crcByte (c : BitVec 16) (b : BitVec 8) : BitVec 16 :=
  iter 8 0 (fun _ x => if bitAt x 15 then (x <<< 1) ^^^ 0x1021#16 else x <<< 1) (c ^^^ (b.setWidth 16 <<< 8))

/-- The CRC-16 of the first n bytes of a report. -/
def trayCrc (r : BitVec 96) (n : Nat) : BitVec 16 := (List.range n).foldl (fun c i => crcByte c (bits r (8 * i) 8)) 0xFFFF#16

/-- A report's values after the user calibration, none where invalid: inlet and outlet in 0.01 °C, flow in 0.01 L/min (R423, R520). -/
def trayValues (s : State) (r : BitVec 96) : Option Int × Option Int × Option Nat :=
  let tr := s.rwp 0
  let ti := signedOf 16 (bitsN r 0 16) + signedOf 16 (bitsN tr 0 16)
  let to' := signedOf 16 (bitsN r 16 16) + signedOf 16 (bitsN tr 16 16)
  let fl := ((bitsN r 32 16 : Int) * (10000 + signedOf 16 (bitsN (s.rwp 1) 0 16)) / 10000).toNat
  let ok := fun (v : Int) => decide (-1000 ≤ v) && decide (v ≤ 10000)
  (if bitAt r 48 && ok ti then some ti else none, if bitAt r 49 && ok to' then some to' else none, if bitAt r 50 && decide (fl ≤ 8000) then some fl else none)

/-- Whether a poll counts as a missed report (R567). -/
def trayMissed (s : State) (r : Option (BitVec 96)) : Bool :=
  match r with
  | none => true
  | some r => trayCrc r 10 != bits r 80 16 || s.sys.thm.seq == some (bitsN r 56 8)

/-- Q_cap as a count of 1/60,000 W: flow in 0.01 L/min times 3.97 kJ/(L·K) times K (R424). -/
def qCapOf (fl : Nat) (ti : Int) : Int := fl * 397 * (5500 - ti)

/-- 22 kW in the same count. -/
def q22 : Int := 2200 * 600000

/-- The condition of SLOW. -/
def slowCond (x : Thm) (fl : Nat) : Bool := decide (fl < 2560) || (match x.qcap with | some q => decide (q < q22) | none => false)

/-- The mean governing temperature of all powered cores, as sum and number. -/
def meanTemp (s : State) : Option (Int × Nat) :=
  let ms := (s.sys.pwr.cores.filter (fun x => x.2.on)).map (·.1)
  if ms.isEmpty then none else some (ms.foldl (fun a m => a + coreTemp s m) 0, ms.length)

/-- The triggers of R427, given the reports of the last second: 0 none. -/
def trigger (x : Thm) (t : Nat) (fl : Option Nat) (to' : Option Int) (mean : Option (Int × Nat)) : Nat :=
  let low := match fl with
    | some f =>
      if f < 640 ∧ (x.rpts.any (fun r => match r.flow with | some g => decide (2560 ≤ g) | none => false)) = true then 1
      else if f < 320 ∧ (x.rpts.all (fun r => match r.flow with | some g => decide (g < 320) | none => true)) = true ∧
          (match x.first with | some u => decide (u + 1000000000 ≤ t) | none => false) = true then 2
      else 0
    | none => 0
  if low ≠ 0 then low
  else if x.cool ≠ 2 then 0
  else match to' with
    | some v => if x.rpts.any (fun r => match r.outlet with | some w => decide (200 ≤ v - w) | none => false) then 3 else 0
    | none =>
      match mean with
      | some (a, n) => if x.rpts.any (fun r => match r.mean with | some (b, k) => decide (3 * (n * k : Int) ≤ a * k - b * n) | none => false) then 3 else 0
      | none => 0

/-- AGE of THM_TRAY_B: the milliseconds since the last valid report, saturating (R423). -/
def trayAge (s : State) : Nat := match s.sys.thm.lastFlow with | some u => min 0xFFFF ((s.tb.toNat - u) / 1000000) | none => 0xFFFF

/-- The registers and the three values of R424 from one report. -/
def takeTray (s : State) (missed : Bool) (ti to' : Option Int) (fl : Option Nat) : State :=
  let t := s.tb.toNat
  let s1 := s.updThm (fun x =>
    let y := { x with
      trayOk := if missed then x.trayOk else ti.isSome && to'.isSome && fl.isSome
      inlet := ti.getD x.inlet, outlet := to'.getD x.outlet, flow := fl.getD x.flow
      lastFlow := if fl.isSome then some t else x.lastFlow, first := x.first.or (fl.map (fun _ => t)), pollAt := some (x.pollAt.getD t) }
    let z := match fl, ti, to' with
      | some f, some i, some o => { y with qrem := (f * 397 * (o - i) : Int) / 600000 }
      | _, _, _ => y
    match fl, ti with
    | some f, some i => { z with qcap := some (qCapOf f i), ceilCalc := min 2200 (min (2200 * f / 2560) (qCapOf f i / 600000).toNat) }
    | _, _ => z)
  let s3 := match fl with | some f => evrSample s1 5 0xFF noField noCore f (f / 100 : Nat) | none => s1
  let s4 := match ti with | some v => evrSample s3 6 0xFF noField noCore (v / 100) (v / 100 - 10) | none => s3
  match ti, to' with
  | some a, some b => evrSample s4 7 0xFF noField noCore (b - a) (2 * (b - a) / 100)
  | _, _ => s4

/-- The coolant state re-evaluated at a poll outside STRUCK and SHUTDOWN (Table 18.2). -/
def coolNext (x : Thm) (t : Nat) (fl : Option Nat) (inOk : Bool) : Thm :=
  let since := (x.lastFlow.or x.pollAt).getD t
  match fl with
  | none => { x with cool := if since + 300000000 ≤ t then 2 else x.cool, full := 0, good := 0 }
  | some f =>
    let bad := slowCond x f
    let good := x.good + 1
    let full := if bad || !inOk then 0 else x.full + 1
    let c1 := if x.cool = 2 ∧ 3 ≤ good then 0 else x.cool
    let c2 := if c1 = 0 ∧ bad = true then 1 else if c1 = 1 ∧ 3 ≤ full then 0 else c1
    { x with cool := c2, good := good, full := full }

/-- A strike lifted (R429): host software told, and each partition takes a new start boundary. A report that shows the condition of SLOW counts for none of its three. -/
def liftStrike (s : State) (cool : Nat) : State :=
  let s1 := thmLog (s.updThm (fun x => { x with cool := cool, struckAt := none, good := 3, full := 0 })) 0 0 8 0 s.sys.thm.flow
  let s2 := if cool = 1 then thmLog s1 0 0 5 0 s.sys.thm.flow else s1
  dblAll { s2 with sys := { s2.sys with struck := false } } 10

/-- In BLIND the coolant ceiling is 11 kW; otherwise it is the value last computed (R424). -/
def coolCeil (x : Thm) : Thm := { x with ceil := if x.cool = 2 then 1100 else x.ceilCalc }

/-- What a poll does beyond its values: restoration while STRUCK, else the coolant state and the triggers. -/
def judgeTray (s : State) (ti to' : Option Int) (fl : Option Nat) (mean : Option (Int × Nat)) : State :=
  let t := s.tb.toNat
  let x := s.sys.thm
  if x.cool = 4 then s
  else if x.cool = 3 then
    let c := trigger x t fl to' mean
    let s0 := if c ≠ 0 then thmLog s 0 0 7 0 x.flow else s
    match x.struckAt with
    | none => s0
    | some ts =>
      let good := match fl with | some f => if 2560 ≤ f then x.good + 1 else 0 | none => 0
      if 3 ≤ good ∧ t ≤ ts + 2000000000 then liftStrike s0 (if slowCond x (fl.getD 0) then 1 else 0)
      else s0.updThm (fun y => { y with good := good })
  else
    let y := coolNext x t fl ti.isSome
    let s1 := s.updThm (fun _ => y)
    let s2 := if y.cool = x.cool then s1 else if y.cool = 1 then thmLog s1 0 0 5 0 y.flow else if y.cool = 2 then thmLog s1 0 0 6 0 y.flow else s1
    let c := trigger s2.sys.thm t fl to' mean
    if c ≠ 0 then strike s2 c true else s2

/-- TRAY_POLL: the 12 bytes read, none where the hub does not acknowledge or gives fewer. -/
def execTrayPoll (r : Option (BitVec 96)) (t : Dword) (s0 : State) : Out :=
  let s := s0.atTick t
  let missed := trayMissed s r
  let (ti, to', fl) := if missed then (none, none, none) else trayValues s (r.getD 0#96)
  let s1 := if missed then s else s.updThm (fun x => { x with seq := some (bitsN (r.getD 0#96) 56 8) })
  let s2 := (takeTray s1 missed ti to' fl).updThm (fun x => { x with rpts := x.rpts.filter (fun r => decide (t.toNat ≤ r.at' + 1000000000)) })
  let mean := meanTemp s2
  let s3 := judgeTray s2 ti to' fl mean
  .next (s3.updThm (fun x => coolCeil { x with rpts := x.rpts ++ [{ at' := t.toNat, flow := fl, outlet := to', mean := mean }] }))

/-! ### Gating and the end of a strike (R426, R429) -/

/-- The enabled partition with the highest governing core temperature, the lowest on a tie. -/
def hottestPart (s : State) : Option Nat :=
  s.enabled.foldl (fun a p => match a with | none => some p | some q => if partHot s q < partHot s p then some p else a) none

/-- GATING_TICK: what each partition's next boundary applies (R426). -/
def execGatingTick (t : Dword) (s0 : State) : Out :=
  let s := s0.atTick t
  let x := s.sys.thm
  let warm := x.cool == 1 || x.cool == 2
  .next (s.enabled.foldl (fun s' p => s'.updPartThm p (fun y => { y with
    gateNext := atLimit s p || (warm && (hottestPart s == some p || (sampledCores s p).any (fun m => decide ((x.reefOn : Int) - 5 ≤ coreTemp s m)))) })) s)

/-- STRIKE_RESTORE_DEADLINE: no restoration by T_s + 2 s; the module shuts down. -/
def execStrikeRestoreDeadline (t : Dword) (s0 : State) : Out :=
  .next (match s0.sys.thm.struckAt with
  | none => s0
  | some ts =>
    if s0.sys.thm.cool ≠ 3 ∨ t.toNat ≤ ts + 2000000000 then s0
    else orderlyShutdown (thmLog ((s0.atTick t).updThm (fun x => { x with cool := 4, struckAt := none })) 0 0 9 0 s0.sys.thm.flow) 0x62)

/-- THM_CTRL_WRITE: REEF_ON and REEF_OFF stay unless REEF_OFF lies below REEF_ON; a set lock holds all three (R432). -/
def thmCtrl (x : Thm) (on off tier : Nat) (lock : Bool) : Thm :=
  let y := if x.lock then x else { x with reefOn := if off < on then on else x.reefOn, reefOff := if off < on then off else x.reefOff, tierReef := tier }
  { y with lock := x.lock || lock }

def execThmCtrlWrite (w : Word) (s : State) : Out := .next (s.updThm (fun x => thmCtrl x (bitsN w 0 8) (bitsN w 8 8) (bitsN w 16 8) (bitAt w 24)))

end Sys2Proof.Machine
end

