-- ==== Sys2Proof/Machine/Nvm.lean ====
section
/-! DEFINITION. Configuration copies and their writer, persistent registers, the loading of the configuration (23). -/

namespace Sys2Proof.Machine

/-! ### A configuration copy (R510, R511) -/

/-- `n` bytes at offset `a` of a copy. -/
def cfN (img a n : Nat) : Nat := img / 256 ^ a % 256 ^ n

/-- Whether the running masthead firmware accepts a settings format (R531). -/
def fmtAccepted (s : State) (f : Nat) : Bool := f == s.sys.fw.setFmt || f == Config.setFmtOf (s.sys.fwMajor - 1)

/-- Checks 2 to 5 of R511. -/
def goodImage (s : State) (img : Nat) : Bool :=
  cfN img 0 4 == 0x46435156 && cfN img 8 4 == 0xD230 && fmtAccepted s (cfN img 4 2) &&
  cfN img 0xD200 48 == (Config.sha384 0xD200 (cfN img 0 0xD200)).toNat &&
  (cfN img 24 8 == 0 || cfN img 24 8 == s.serial.toNat) &&
  cfN img 12 4 == 0 && cfN img 32 32 == 0 && cfN img 0x4E 178 == 0 && allBelow 64 (fun p => cfN img (0x2207 + 64 * p) 57 == 0)

/-- A device of the NVM: 0 or 1. -/
def State.nvm (s : State) (d : Bool) : NvmDev := if d then s.sys.cfg.dev1 else s.sys.cfg.dev0

def State.updNvm (s : State) (d : Bool) (f : NvmDev → NvmDev) : State :=
  s.updCfg (fun c => if d then { c with dev1 := f c.dev1 } else { c with dev0 := f c.dev0 })

/-- Copy A or B verified (R511). -/
def copyGood (s : State) (b : Bool) : Bool := (s.nvm b).present && (match (s.nvm b).copy with | some img => goodImage s img | none => false)

/-- The result of a verification shown in CFG_STAT. -/
def noteCopy (s : State) (b ok : Bool) : State := s.updCfg (fun c => if b then { c with bOk := ok } else { c with aOk := ok })

/-! ### The store of the persistent registers (R514 to R516) -/

/-- The record with the highest COUNT of an index. -/
def newest (rs : List (Nat × Word × Nat)) (i : Nat) : Option (Nat × Word × Nat) :=
  rs.foldl (fun a r => if r.1 ≠ i then a else match a with | none => some r | some b => if b.2.2 ≤ r.2.2 then some r else a) none

/-- The erased sector with the lowest erase count. -/
def StoreRegion.fresh (r : StoreRegion) : Nat :=
  (List.range 256).foldl (fun a k => if k = r.active then a else if a = r.active ∨ AMap.at r.erases 0 k < AMap.at r.erases 0 a then k else a) r.active

/-- A record appended; a full sector is changed first. -/
def StoreRegion.append (r : StoreRegion) (x : Nat × Word × Nat) : StoreRegion :=
  if r.recs.length < 255 then { r with recs := r.recs ++ [x] }
  else
    { erases := AMap.upd r.erases 0 r.active (· + 1), active := r.fresh, seq := r.seq + 1
      recs := (List.range 64).filterMap (newest r.recs) ++ [x] }

/-- The next waiting record begins to be programmed, unless the copy writer holds the bus. -/
def storeNext (c : Cfg) : Cfg :=
  if c.prog.isSome || c.write.isSome then c
  else match c.pend with
    | x :: r => { c with prog := some x, pend := r }
    | [] => c

/-- Whether a value lies outside the ranges of Table 23.9. -/
def rwpRange (i : Nat) (v : Word) : Bool :=
  let off := fun (lo b : Nat) => let x := signedOf 16 (bitsN v lo 16); decide (x < -(b : Int)) || decide ((b : Int) < x)
  match i with
  | 0 => off 0 500 || off 16 500
  | 1 => off 0 500
  | 2 => off 0 500 || off 16 2000
  | _ => false

/-- A value without the reserved bits of its register. -/
def rwpMask (i : Nat) (v : Word) : Word :=
  match i with
  | 1 | 5 => v &&& 0xFFFF#32
  | 3 => v &&& 1#32
  | _ => v

/-- RWP_WRITE: range, exhaustion, then the value at once and a store record; a write whose record has not begun replaces it (R514, R516). -/
def execRwpWrite (i : Fin 64) (v : Word) (s : State) : Out :=
  let n := i.val
  .next (if n = 6 ∨ n = 7 ∨ 16 ≤ n then s
  else s.updCfg (fun c =>
    if 100000 ≤ AMap.at c.wcnt 0 n then { c with lastErr := 2, errIdx := n }
    else if rwpRange n v then { c with lastErr := 1, errIdx := n }
    else
      let w := rwpMask n v
      let c1 := { c with rwp := AMap.put c.rwp n w }
      if c.pend.any (fun x => x.1 == n) then { c1 with pend := c.pend.map (fun x => if x.1 = n then (x.1, w, x.2.2) else x) }
      else
        let k := AMap.at c.wcnt 0 n + 1
        storeNext { c1 with wcnt := AMap.put c.wcnt n k, pend := c.pend ++ [(n, w, k)], exh := if k = 100000 then c.exh ++ [n] else c.exh }))

/-- RWP_RECORD_PROGRAMMED: the record stands on the devices that took it; a device that did not is noted (R514). -/
def execRwpRecordProgrammed (ok0 ok1 : Bool) (s : State) : Out :=
  .next (s.updCfg (fun c =>
    match c.prog with
    | none => c
    | some x =>
      let a := ok0 && c.dev0.present
      let b := ok1 && c.dev1.present
      let put := fun (d : NvmDev) => { d with store := d.store.append x }
      let c1 := { c with
        prog := none, dev0 := if a then put c.dev0 else c.dev0, dev1 := if b then put c.dev1 else c.dev1
        devErr := setBits (setBits c.devErr 0 1 (max (bitsN c.devErr 0 1) (b2n !a))) 1 1 (max (bitsN c.devErr 1 1) (b2n !b)) }
      storeNext (if a && b then c1 else { c1 with lastErr := 3, errIdx := x.1 })))

/-- The persistent registers as a start finds them: of each index the record with the highest COUNT on a device that is present (R515). -/
def loadRwp (s : State) : State :=
  s.updCfg (fun c =>
    let rs := (if c.dev0.present then c.dev0.store.recs else []) ++ (if c.dev1.present then c.dev1.store.recs else [])
    let xs := (List.range 64).filterMap (newest rs)
    { c with rwp := xs.foldl (fun m x => AMap.put m x.1 x.2.1) c.rwp, wcnt := xs.foldl (fun m x => AMap.put m x.1 x.2.2) c.wcnt
             exh := (xs.filter (fun x => decide (100000 ≤ x.2.2))).map (·.1) })

/-! ### The copy writer (R513) -/

/-- CFG_COPY_GO: CFG_IMG_CTRL written with GO and COPY; ignored while BUSY. -/
def execCfgCopyGo (copy : Bool) (link : Fin 4) (s : State) : Out :=
  .next (s.updCfg (fun c =>
    if c.write.isSome then c
    else { c with copySel := copy, write := some { target := b2n copy, addr := (c.imgHi ++ c.imgLo).toNat, link := link } }))

/-- What the writer ends with: the image as read, and whether erasing, programming and comparing succeeded. -/
def copyDone (s : State) (img : Option Nat) (progOk : Bool) : State :=
  match s.sys.cfg.write with
  | none => s
  | some w =>
    let b := decide (w.target = 1)
    let fin := fun (s : State) (c : Nat) => s.updCfg (fun x => storeNext { x with write := none, status := c })
    match img with
    | none => fin s 3
    | some d =>
      if !pfMaster s w.link then fin s 3
      else if !goodImage s d then fin s 1
      else
        let other := copyGood s !b
        let s1 := if s.sys.safe then s else noteCopy s (!b) other
        if !s.sys.safe && !other then fin s1 2
        else if !(s1.nvm b).present then fin s1 5
        else if !progOk then fin (s1.updNvm b (fun x => { x with copy := none })) 4
        else fin (s1.updNvm b (fun x => { x with copy := some d })) 0

/-- CFG_COPY_DONE. -/
def execCfgCopyDone (img : Option Nat) (progOk : Bool) (s : State) : Out := .next (copyDone s img progOk)

/-! ### Loading (R512, Tables 23.3 to 23.5) -/

/-- A field left at its reset value, with its offset in the copy (CFG_VALUE). -/
def notLoaded (s : State) (ofs : Nat) : State := evrEvent s 0x82 1 0xFF noField noCore none (some (BitVec.ofNat 64 ofs))

/-- A field loaded where its value is accepted, else logged. -/
def loadIf (s : State) (ok : Bool) (ofs : Nat) (f : State → State) : State := if ok then f s else notLoaded s ofs

/-- A pair of thresholds loaded where the lower one lies below the higher, else both logged. -/
def loadPair (s : State) (on off ofs : Nat) (f : State → State) : State := if off < on then f s else notLoaded (notLoaded s ofs) (ofs + 1)

/-- The module settings of Table 23.4, LOCKS last. -/
def loadModule (s : State) (img : Nat) : State :=
  let b := fun i => cfN img (0x40 + i) 1
  let bit := fun (i k : Nat) => (b i).testBit k
  let s1 := s.updClk (fun c => { c with stepReq := b 0 % 4 })
  let s2 := loadIf s1 (decide (50 ≤ b 1) && decide (b 1 ≤ 220)) 0x41 (fun s => s.updPwr (fun x => { x with ceil := b 1 }))
  let s3 := ((s2.updPwr (fun x => { x with spare := bit 2 0 })).updCnm (fun x => { x with req := bit 2 1 })).updCfg (fun x => { x with ptpEn := bit 2 2 })
  let s4 := s3.updSec (fun x => { x with mctpEn := bit 2 3 })
  let s5 := loadIf s4 (decide (b 3 % 8 ≤ 4)) 0x43 (fun s => s.updMeter (fun m => { m with nextInterval := b 3 % 8 }))
  let s6 := loadPair s5 (b 4) (b 5) 0x44 (fun s => s.updThm (fun x => { x with reefOn := b 4, reefOff := b 5 }))
  let s7 := s6.updThm (fun x => { x with tierReef := b 6 })
  let s8 := loadPair s7 (b 7) (b 8) 0x47 (fun s => { s with mst := { s.mst with hotOn := b 7, hotOff := b 8 } })
  let s9 := { s8 with fab := { s8.fab with retrainThr := b 9 } }
  let s10 := loadIf s9 (b 10 != 0) 0x4A (fun s => { s with stay := { s.stay with timeout := b 10 } })
  let s11 := loadIf s10 (b 11 != 0) 0x4B (fun s => { s with sheet := { s.sheet with lossMs := b 11 } })
  let s12 := loadIf s11 (b 12 != 0) 0x4C (fun s => { s with sheet := { s.sheet with stampMs := b 12 } })
  let s13 := { s12 with
    mst := { s12.mst with lock := bit 13 0 }, fab := { s12.fab with lock := bit 13 1 }, stay := { s12.stay with lock := bit 13 2 }
    sheet := { s12.sheet with lock := bit 13 3 } }
  ((s13.updPwr (fun x => { x with lock := bit 13 4 })).updThm (fun x => { x with lock := bit 13 5 })).updCnm (fun x => { x with lock := bit 13 6 })
    |>.updSec (fun x => { x with lock := bit 13 7 })

/-- The cabling plan (Table 15.9). -/
def loadPlan (s : State) (img : Nat) : State :=
  let s1 := { s with sheet := { s.sheet with planOwn := BitVec.ofNat 64 (cfN img 0x100 8), swapFix := (cfN img 0x108 1).testBit 0 } }
  (List.range 8).foldl (fun s i =>
    { s with sheet := { s.sheet with ports := AMap.upd s.sheet.ports {} i (fun x =>
        let peer := BitVec.ofNat 64 (cfN img (0x110 + 16 * i) 8)
        { x with planSerial := peer, planPort := cfN img (0x118 + 16 * i) 1 % 8, check := if peer = 0#64 then .unused else if s1.sheet.planOwn ≠ s1.serial then .foreignPlan else .down }) } }) s1

/-- A partition's policy, weights and image-signing key (Table 23.5). -/
def loadPolicy (img p : Nat) (s : State) : State :=
  let a := 0x2200 + 64 * p
  let m := cfN img (a + 4) 1
  let nsr := cfN img (a + 6) 1 % 8
  let ws := ((List.range 256).map (fun q => (q, cfN img (0x3200 + 512 * p + 2 * q) 2))).filter (fun x => decide (1 < x.2))
  let urg := cfN img a 4 % 2 ^ 20
  let s1 := s.updPart p (fun x => { x with escMode := m % 4, escModeNext := m % 4, home := m / 4 % 4, homeNext := m / 4 % 4, coalUs := cfN img (a + 5) 1 })
  let s2 := s1.updReq p (fun r => { r with urgent := urg, urgentNext := urg, weights := ws, weightsNext := ws })
  let s3 := loadIf s2 (decide (nsr ≤ 4)) (a + 6) (fun s => s.updReq p (fun r => { r with nsr := nsr }))
  let s4 := s3.updSecPart p (fun x => { x with ideReq := m.testBit 4, ideReqNext := m.testBit 4 })
  let k : BitVec 776 := BitVec.ofNat 776 (cfN img (0xB200 + 128 * p) 97)
  if k = 0#776 then s4
  else if Config.onCurve k then s4.updPart p (fun x => { x with signKey := some k })
  else evrEvent s4 0x83 2 p noField noCore none (some (BitVec.ofNat 64 p))

/-- A verified copy taken as the configuration of this start. -/
def loadConfig (s : State) (img : Nat) (b : Bool) : State :=
  let s1 := s.updCfg (fun c => { c with copyB := b, inUse := some img, gen := BitVec.ofNat 64 (cfN img 16 8), digest := BitVec.ofNat 384 (cfN img 0xD200 48) })
  let s2 := s1.updClk (fun c => { c with cfgB := b })
  (List.range 64).foldl (fun s p => loadPolicy img p s) (loadPlan (loadModule s2 img) img)

/-! ### Partition records (R354, R355) -/

/-- A partition record of the copy in use (Table 15.2). -/
def cfRecord (img p : Nat) : BitVec 1024 := BitVec.ofNat 1024 (cfN img (0x200 + 128 * p) 128)

def rcEn (r : BitVec 1024) : Bool := bitAt r 0
def rcRank (r : BitVec 1024) : Nat := bitsN r 8 3
def rcMods (r : BitVec 1024) : Nat := bitsN r 11 3
def rcSlice (r : BitVec 1024) : Nat := bitsN r 16 16
def rcFields (r : BitVec 1024) : List Nat := (List.range 48).filter (fun n => bitAt r (32 + n))
def rcStay (r : BitVec 1024) : List Nat := (List.range 24).filter (fun n => bitAt r (96 + n))
def rcSlots (r : BitVec 1024) : Nat × Nat := (bitsN r 128 12, bitsN r 144 13)
def rcReqs (r : BitVec 1024) : Nat × Nat := (bitsN r 160 18, bitsN r 192 19)
def rcStops (r : BitVec 1024) : Nat × Nat := (bitsN r 224 12, bitsN r 240 13)
def rcSerial (r : BitVec 1024) (k : Nat) : Dword := bits r (512 + 64 * k) 64

/-- Whether a record is at fault by itself. -/
def recordBad (s : State) (r : BitVec 1024) : Bool :=
  let past := fun (x : Nat × Nat) (n : Nat) => decide (n < x.1 + x.2)
  let ks := List.range (rcMods r + 1)
  (rcFields r).any (fun n => !s.hasField n) || past (rcSlots r) 4096 || past (rcReqs r) 262144 || past (rcStops r) 4096 ||
  (if rcSlice r = 0 then rcMods r != 0
   else rcSerial r (rcRank r) != s.serial || ks.any (fun k => rcSerial r k == 0#64) || ks.any (fun k => ks.any (fun j => j != k && rcSerial r j == rcSerial r k)))

/-- Whether two records are at fault together. -/
def recordsClash (a b : BitVec 1024) : Bool :=
  let meet := fun (x y : Nat × Nat) => x.2 != 0 && y.2 != 0 && decide (x.1 < y.1 + y.2) && decide (y.1 < x.1 + x.2)
  (rcFields a).any (fun n => (rcFields b).contains n) || (rcStay a).any (fun n => (rcStay b).contains n) || meet (rcSlots a) (rcSlots b) ||
  meet (rcReqs a) (rcReqs b) || meet (rcStops a) (rcStops b) || (rcSlice a != 0 && rcSlice a == rcSlice b)

/-- The enabled records, by partition. -/
def recordsOf (img : Nat) : List (Nat × BitVec 1024) := ((List.range 64).map (fun p => (p, cfRecord img p))).filter (fun x => rcEn x.2)

/-- The partitions whose records are refused. -/
def refusedRecords (s : State) (img : Nat) : List Nat :=
  let rs := recordsOf img
  (rs.filter (fun x => recordBad s x.2 || rs.any (fun y => y.1 != x.1 && recordsClash x.2 y.2))).map (·.1)

/-- A partition brought into being from its accepted record, with its park keys drawn (Table 21.3). -/
def makePartition (s : State) (p : Nat) (r : BitVec 1024) : State :=
  let one := rcSlice r == 0
  let n := s.sys.sec.draws
  let k : ParkKeys := { xts := (Config.drbg n, Config.drbg (n + 1)), mac := Config.drbg (n + 2) }
  let s1 := (drawn (drawn (drawn s))).updPart p (fun x => { x with
    en := true, record := r, parkKey := if engineOk s then k else {}
    slice := { x.slice with
      id := rcSlice r, rank := if one then 0 else rcRank r, mods := rcMods r, st := if one then .none else .waiting
      serials := if one then [s.serial] else (List.range (rcMods r + 1)).map (rcSerial r) } })
  let s2 := s1.updReq p (fun q => { q with
    base := (rcReqs r).1, quota := (rcReqs r).2, slotBase := (rcSlots r).1, slotCnt := (rcSlots r).2, mirror := if one || rcRank r == 0 then none else some (p + 1), stopBase := (rcStops r).1, stopCnt := (rcStops r).2 })
  let s3 := (rcFields r).foldl (fun s n => s.updField n (fun f => { f with owned := true, part := p, mode := if (s.fieldPwr n).st = 3 then .normal else .dark })) s2
  (rcStay r).foldl (fun s i => s.updSport i (fun y => { y with assigned := true, part := p })) s3

/-- Step 10: records checked together, partitions made, refusals logged (R355). A field that no accepted record names is DARK. -/
def makePartitions (s : State) (img : Nat) : State :=
  let bad := refusedRecords s img
  let s1 := ((recordsOf img).filter (fun x => !bad.contains x.1)).foldl (fun s x => makePartition s x.1 x.2) s
  let s2 := bad.foldl (fun s p => evrFault (s.enabled.foldl (fun s k => logFault s k 0x5C noField noCore 0) s) 0x5C p noField noCore none) s1
  (List.range 48).foldl (fun s n => if (s.field n).owned then s else s.updField n (fun f => { f with mode := .dark })) s2

end Sys2Proof.Machine
end

