-- ==== Sys2Proof/Machine/Firmware.lean ====
section
/-! DEFINITION. Firmware: banks and their directory, staging, activation, trial, confirmation, revert (24). -/

namespace Sys2Proof.Machine

def State.updFw (s : State) (f : Fw → Fw) : State := { s with sys := { s.sys with fw := f s.sys.fw } }

/-- MAJOR of a version (R525). -/
def fwMaj (v : Word) : Nat := bitsN v 24 8

/-! ### Banks and the directory (R528, R529) -/

/-- A bank on a device, if it is valid (R528). -/
def bankOn (s : State) (d : Bool) (b : Nat) : Option FwBank :=
  if !(s.nvm d).present then none
  else match AMap.find (s.nvm d).banks b with
    | some x => if x.macOk && x.hwType == 0x0000F001#32 && x.serial == s.serial then some x else none
    | none => none

/-- A bank, on device 0 first. -/
def bankOf (s : State) (b : Nat) : Option FwBank := (bankOn s false b).orElse (fun _ => bankOn s true b)

/-- The version of a kind in a bank. -/
def bankVer (s : State) (b k : Nat) : Option Word := (bankOf s b).bind (fun x => (AMap.find x.comps k).map (·.1))

/-- The highest component version in a bank. -/
def FwBank.top (x : FwBank) : Nat := x.comps.foldl (fun a c => max a c.2.1.toNat) 0

/-- ACT, PREV or TRIAL of kind k, 1 to 3. -/
def FwDir.actOf (d : FwDir) (k : Nat) : Nat := d.act.toList.getD (k - 1) 3
def FwDir.prevOf (d : FwDir) (k : Nat) : Nat := d.prev.toList.getD (k - 1) 3
def FwDir.onTrial (d : FwDir) (k : Nat) : Bool := d.trial.toList.getD (k - 1) false

/-- The kinds on trial. -/
def FwDir.trials (d : FwDir) : List Nat := [1, 2, 3].filter d.onTrial

/-- A kind's entries changed. -/
def FwDir.setKind (d : FwDir) (k act prev : Nat) (trial : Bool) : FwDir :=
  { d with act := d.act.setIfInBounds (k - 1) act, prev := d.prev.setIfInBounds (k - 1) prev, trial := d.trial.setIfInBounds (k - 1) trial }

/-- A bank that no entry of the directory names; the fall-back bank is never free. -/
def bankFree (s : State) (b : Nat) : Bool := decide (b < 2) && !s.sys.fw.dir.act.toList.contains b && !s.sys.fw.dir.prev.toList.contains b

/-- The directory copy of a device to be replaced: the one with the lower SEQ. -/
def lowerCopy (m : AMap FwDir) : Nat :=
  match AMap.find m 0, AMap.find m 1 with
  | none, _ => 0
  | _, none => 1
  | some a, some b => if b.seq < a.seq then 1 else 0

/-- The directory written to both devices. -/
def writeDir (s : State) (d : FwDir) : State :=
  let e := { d with seq := d.seq + 1 }
  let put := fun (x : NvmDev) => if x.present then { x with dirs := AMap.put x.dirs (lowerCopy x.dirs) e } else x
  ((s.updNvm false put).updNvm true put).updFw (fun f => { f with dir := e })

/-- The directory that readers use. -/
def readDir (s : State) : FwDir :=
  let best := fun (m : AMap FwDir) => m.foldl (fun (a : Option FwDir) x => match a with | none => some x.2 | some y => if y.seq < x.2.seq then some x.2 else a) none
  let on := fun d => if (s.nvm d).present then best (s.nvm d).dirs else none
  ((on false).orElse (fun _ => on true)).getD {}

/-! ### Booting (R532, R540) -/

/-- The source of a kind: its ACT bank on device 0, then 1, then the fall-back bank; the digest of the component passes and SVN is not below FLOOR. -/
def fwSource (s : State) (k : Nat) : Option (Bool × FwBank × Word) :=
  let good := fun (fall : Bool) (x : Option FwBank) => x.bind (fun b =>
    if b.svn < s.sys.fw.floor then none else match AMap.find b.comps k with | some (v, true) => some (fall, b, v) | _ => none)
  let a := s.sys.fw.dir.actOf k
  (good false (bankOn s false a)).orElse (fun _ => (good false (bankOn s true a)).orElse (fun _ =>
    (good true (bankOn s false 2)).orElse (fun _ => good true (bankOn s true 2))))

/-- An MH that is not on trial starts with SET_ALT set: it is cleared, the converted area erased (R532). -/
def clearAlt (s : State) : State :=
  if s.sys.fw.dir.setAlt && !s.sys.fw.dir.onTrial 1 then
    writeDir ((s.updNvm false (fun x => { x with converted := none })).updNvm true (fun x => { x with converted := none })) { s.sys.fw.dir with setAlt := false }
  else s

/-- Start-up step 4: MH booted, SET_ALT cleared where MH is not on trial, RIO loaded; without an MH source the ROM runs (R540). -/
def romBoot (s0 : State) : State :=
  let s := s0.updFw (fun f => { f with dir := readDir s0 })
  match fwSource s 1 with
  | none => s.updFw (fun f => { f with romMode := true })
  | some (fall, b, v) =>
    let s1 := { s.updFw (fun f => { f with mh := v, fallback := fall, setFmt := b.setFmt }) with
      sys := { (s.updFw (fun f => { f with mh := v, fallback := fall, setFmt := b.setFmt })).sys with mhVer := v.toNat, fwMajor := fwMaj v } }
    let s2 := clearAlt s1
    let r := match fwSource s2 3 with | some (_, _, v) => v | none => 0#32
    let f := match fwSource s2 2 with | some (_, _, v) => v | none => 0#32
    s2.updFw (fun x => { x with rio := (List.range 4).map (fun i => (i, r)), fcVer := f })

/-- An MH on trial converts a copy of another settings format, and uses the converted copy from then on (R532). -/
def convertSettings (s : State) (img : Nat) : State × Nat :=
  let f := s.sys.fw
  if !f.dir.onTrial 1 then (s, img)
  else if f.dir.setAlt then
    (match ((s.nvm false).converted).orElse (fun _ => (s.nvm true).converted) with | some c => (s, c) | none => (s, img))
  else if cfN img 4 2 = f.setFmt then (s, img)
  else
    let c := Config.convert img f.setFmt
    let put := fun (x : NvmDev) => if x.present then { x with converted := some c } else x
    (writeDir ((s.updNvm false put).updNvm true put) { f.dir with setAlt := true }, c)

/-! ### The end of a message -/

/-- LAST_RESULT, the reply and PF vector 6. -/
def fwEnd (s : State) (body : Option (BitVec 512)) (code : Nat) (payload : List (Nat × Nat × Nat)) : State :=
  let s1 := s.updFw (fun f => { f with last := code })
  signal (match body with | some b => endBody s1 0 b 0 code payload | none => s1) 0 6

/-- A message refused, or done, as it is taken. -/
def fwAnswer (s : State) (m : MbxMsg) (code : Nat) (sig : Bool) : State :=
  let s1 := endMsg (s.updFw (fun f => { f with last := code })) 0 m 0 code []
  if sig then signal s1 0 6 else s1

/-- Whether a stage, an activation or a trial is in progress. -/
def fwBusy (s : State) : Bool := s.sys.fw.staging.isSome || s.sys.fw.act.isSome || !s.sys.fw.dir.trials.isEmpty

/-! ### Staging (R526, R530, R531) -/

def pkN (h : BitVec 4096) (a n : Nat) : Nat := h.toNat / 256 ^ a % 256 ^ n

/-- The component records of a package: kind, version, offset, length. -/
def pkComps (h : BitVec 4096) : List (Nat × Word × Nat × Nat) :=
  (List.range (min 3 (pkN h 16 2))).map (fun k =>
    let a := 128 + 80 * k
    (pkN h a 1, BitVec.ofNat 32 (pkN h (a + 4) 4), pkN h (a + 8) 8, pkN h (a + 16) 4))

/-- The plaintext length of a package's payload: 1 MiB segments, each with its tag. -/
def pkPlain (len : Nat) : Nat := let t := len - 512; t - 16 * ceilDiv t (2 ^ 20 + 16)

/-- Whether a package breaks a layout rule (FORMAT). -/
def pkBad (h : BitVec 4096) (len : Nat) : Bool :=
  let cs := pkComps h
  pkN h 0 8 != 0x00474B5057465156 || pkN h 20 8 != len || decide (16773120 < len) || decide (len < 512) || pkN h 16 2 == 0 || decide (3 < pkN h 16 2) ||
  pkN h 18 2 / 2 != 0 || pkN h 28 36 != 0 || pkN h 112 16 != 0 || pkN h 464 48 != 0 ||
  cs.any (fun c => c.1 == 0 || decide (3 < c.1) || decide (2 ^ 22 < c.2.2.2) || decide (pkPlain len < c.2.2.1 + c.2.2.2)) ||
  (List.range cs.length).any (fun k => pkN h (128 + 80 * k + 1) 3 != 0 || pkN h (128 + 80 * k + 20) 12 != 0) ||
  [1, 2, 3].any (fun k => decide (1 < (cs.filter (fun c => c.1 == k)).length)) || (!cs.any (fun c => c.1 == 1) && pkN h 14 2 != 0)

/-- The firmware signature: over SHA-384 of bytes 0 to 367 with WRAP zero. -/
def pkSigned (h : BitVec 4096) : Bool :=
  Config.ecdsaVerify Config.fwKey (Config.sha384 368 ((setBits h 512 320 0).toNat % 256 ^ 368)) (bits h 2944 768)

/-- The content key of a package: WRAP opened under KP (R526, R527). -/
def pkKey (h : BitVec 4096) : Option (BitVec 256) := Config.keyUnwrap Config.productKey (bits h 512 320)

/-- The ciphertext length of segment j of a package: 1 MiB, but for the last one what is left. -/
def pkSegLen (len j : Nat) : Nat := min (2 ^ 20) (pkPlain len - 2 ^ 20 * j)

/-- Segment j opened: IV NONCE and j, the header with WRAP zero as additional data (R526). -/
def pkSegment (h : BitVec 4096) (len : Nat) (key : BitVec 256) (j : Nat) (seg : Nat × BitVec 128) : Option Nat :=
  Config.gcmOpen key (packFields 96 [(0, 64, pkN h 104 8), (64, 32, j)]) 512 (setBits h 512 320 0).toNat (pkSegLen len j) seg.1 seg.2

/-- The plaintext payload of a package, if every segment's tag passes. -/
def pkText (h : BitVec 4096) (len : Nat) (key : BitVec 256) (segs : List (Nat × BitVec 128)) : Option Nat :=
  if segs.length ≠ ceilDiv (len - 512) (2 ^ 20 + 16) then none
  else (List.range segs.length).foldl (fun (a : Option Nat) j => a.bind (fun d =>
    (pkSegment h len key j (segs.getD j (0, 0#128))).map (fun x => d + x * 256 ^ (2 ^ 20 * j)))) (some 0)

/-- Whether a package is authentic: its content key unwraps, every segment tag passes, and SHA-384 of each component is the digest of its record. -/
def pkAuthentic (x : PkgIn) (len : Nat) : Bool :=
  match (pkKey x.header).bind (fun k => pkText x.header len k x.segs) with
  | none => false
  | some d => (List.range (min 3 (pkN x.header 16 2))).all (fun k =>
      let a := 128 + 80 * k
      let n := pkN x.header (a + 16) 4
      Config.sha384 n (d / 256 ^ pkN x.header (a + 8) 8 % 256 ^ n) == bits x.header (8 * (a + 32)) 384)

/-- Whether a set of versions is accepted with the masthead at a major (R531, Table 24.3). -/
def rimFits (major : Nat) (v : Word) : Bool := fwMaj v == major || fwMaj v + 1 == major

/-- Whether a package fits: MH one major around the running one, FC and RIO with the package's own MH or the running one. -/
def pkFits (s : State) (h : BitVec 4096) : Bool :=
  let n := s.sys.fwMajor
  let cs := pkComps h
  let own := match cs.find? (fun c => c.1 == 1) with | some c => fwMaj c.2.1 | none => n
  s.sys.fw.romMode || cs.all (fun c => if c.1 = 1 then decide (n ≤ fwMaj c.2.1 + 1) && decide (fwMaj c.2.1 ≤ n + 1) else rimFits n c.2.1 || rimFits own c.2.1)

/-- FW_STAGE: taken up where a bank is free and nothing else runs. -/
def execFwStage (s : State) : Out :=
  .next (match findMsg s 0 0x40 with
  | none => s
  | some m =>
    if fwBusy s then fwAnswer s m 9 true
    else if !bankFree s 0 && !bankFree s 1 then fwAnswer s m 7 true
    else if bitsN m.body 64 64 % 4096 ≠ 0 then fwAnswer s m 2 true
    else (holdMsg s 0 m).updFw (fun f => { f with staging := some m.body }))

/-- The checks of a staged package, in order, each with its DETAIL (Table 24.5). -/
def stageChecks (s : State) (body : BitVec 512) (x : PkgIn) : List (Bool × Nat) :=
  let link := match (s.fn 0).msgs.find? (fun m => m.body == body) with | some m => m.link | none => 0
  let h := x.header
  [(!pfMaster s link, 1), (pkBad h (bitsN body 128 64), 2), (!pkSigned h, 3), (pkN h 8 4 != 0xF001, 4), (decide (pkN h 12 2 < s.sys.fw.floor), 5), (!pkAuthentic x (bitsN body 128 64), 6), (!pkFits s h, 8)]

/-- The bank that a staged package becomes: WRAP zero in the stored copy, the content key wrapped under KS in the bank header (R527, R528). -/
def stagedBank (s : State) (body : BitVec 512) (x : PkgIn) : FwBank :=
  let h := x.header
  { serial := s.serial, swrap := Config.keyWrap (Config.storageKey s.serial) ((pkKey h).getD 0#256), header := setBits h 512 320 0, segs := x.segs, svn := pkN h 12 2, setFmt := pkN h 14 2, raise := pkN h 18 2 % 2 == 1
    comps := (pkComps h).foldl (fun (a : AMap (Word × Bool)) c => AMap.put a c.1 (c.2.1, true)) [], sig := bits h 2944 768, len := bitsN body 128 64 }

/-- What a stage ends with. -/
def stageDone (s : State) (pkg : Option PkgIn) (progOk : Bool) : State :=
  match s.sys.fw.staging with
  | none => s
  | some body =>
    let s0 := s.updFw (fun f => { f with staging := none })
    let b := if bankFree s 0 then 0 else 1
    match pkg with
    | none => fwEnd s0 (some body) 1 []
    | some x =>
      match firstCause (stageChecks s body x) with
      | some c => fwEnd s0 (some body) c []
      | none =>
        let bank := stagedBank s body x
        let put := fun (y : NvmDev) => if y.present then { y with banks := if progOk then AMap.put y.banks b bank else AMap.del y.banks b } else y
        let s1 := (s0.updNvm false put).updNvm true put
        if progOk then fwEnd s1 (some body) 0 [(64, 8, b), (96, 32, bank.top)] else fwEnd s1 (some body) 0x0A []

/-- FW_STAGE_COMPLETE. -/
def execFwStageComplete (pkg : Option PkgIn) (progOk : Bool) (s : State) : Out := .next (stageDone s pkg progOk)

/-! ### Activation (R533 to R535) -/

/-- The kinds of a mask, in ascending order. -/
def kindList (m : Nat) : List Nat := [1, 2, 3].filter (fun k => m.testBit (k - 1))

/-- Whether moving MH to a bank crosses a major. -/
def crosses (s : State) (b : Nat) : Bool := match bankVer s b 1 with | some v => fwMaj v != s.sys.fwMajor | none => false

/-- The order of R531: MH first, but last on a downgrade across a major; then FC, RIO. -/
def fwOrder (s : State) (ks : List Nat) (b : Nat) : List Nat :=
  match bankVer s b 1 with
  | some v => if fwMaj v < s.sys.fwMajor then ks.filter (· != 1) ++ ks.filter (· == 1) else ks
  | none => ks

/-- Whether the combination after an activation is accepted (R531). -/
def actFits (s : State) (ks : List Nat) (b : Nat) : Bool :=
  let n := s.sys.fwMajor
  let ver := fun (k : Nat) => if ks.contains k then bankVer s b k else bankVer s (s.sys.fw.dir.actOf k) k
  let mh := match ver 1 with | some v => fwMaj v | none => n
  s.sys.fw.romMode || (decide (n ≤ mh + 1) && decide (mh ≤ n + 1) && [2, 3].all (fun k => match ver k with | some v => rimFits mh v | none => true))

/-- The fields whose controllers run. -/
def litFields (s : State) : List Nat := (List.range 48).filter (fun n => (s.fieldPwr n).st == 3)

/-- The activation ends: TRIAL, or IDLE after a revert. -/
def endAct (s : State) (a : FwAct) : State :=
  let s1 := s.updFw (fun f => { f with act := none })
  match a.msg with
  | some b => fwEnd s1 (some b) 0 []
  | none => fwEnd s1 none 0x0E []

/-- The next kind of an activation taken up: MH across a major restarts the module (R534); a kind with nothing to reload is passed over. -/
def nextKind (s : State) (a : FwAct) : List Nat → State
  | [] => endAct s a
  | k :: r =>
    let bank := s.sys.fw.dir.actOf k
    if k = 1 then
      (if crosses s bank then hostRestart s else s.updFw (fun f => { f with mhStop := true, act := some { a with todo := k :: r } }))
    else if k = 2 then
      let s1 := s.updFw (fun f => { f with fcVer := (bankVer s bank 2).getD f.fcVer })
      (match litFields s with
      | [] => nextKind s1 a r
      | ns => s1.updFw (fun f => { f with act := some { a with todo := k :: r, fields := ns } }))
    else s.updFw (fun f => { f with act := some { a with todo := k :: r, rios := [0, 1, 2, 3] } })

/-- The directory written at ACT_TIME, and the first kind taken up; in ROM mode the module restarts (R533, R540). -/
def beginAct (s : State) (a : FwAct) : State :=
  let ks := kindList a.kinds
  let d := ks.foldl (fun (d : FwDir) k => d.setKind k a.bank (d.actOf k) true) s.sys.fw.dir
  let s1 := writeDir s { d with fails := if ks.contains 1 then 0 else d.fails, mhReady := if ks.contains 1 then false else d.mhReady }
  if s.sys.fw.romMode then hostRestart s1
  else nextKind s1 { a with begun := true } (fwOrder s ks a.bank)

/-- The slice peers of the module, each once. -/
def slicePeers (s : State) : List Dword :=
  (s.enabled.flatMap (fun p => if (s.slice p).st = .none then [] else (s.slice p).serials)).foldl (fun a x => if x = s.serial ∨ a.contains x = true then a else a ++ [x]) []

/-- A notice to every slice peer: an activation's tick and signature, or its cancellation (R536). -/
def fwNotices (s : State) (cancel : Bool) (time : Dword) (sig : BitVec 768) : State :=
  (slicePeers s).foldl (fun s x =>
    match (List.range 8).find? (fun j => (s.port j).enabled && (match (s.port j).peer with | some y => y.1 == x | none => false)) with
    | some j => emit s (.sheet j 4 (b2n cancel + 2 * time.toNat + 2 ^ 65 * sig.toNat))
    | none => s) s

/-- A scheduled activation cancelled, its message answered. -/
def cancelAct (s : State) (code : Nat) : State :=
  match s.sys.fw.act with
  | some a => fwEnd (s.updFw (fun f => { f with act := none })) a.msg code []
  | none => s

/-- A rig activation cancelled with a notice to the peers. -/
def cancelRig (s : State) (a : FwAct) : State := fwNotices (cancelAct s 0x0B) true a.time 0#768

/-- The signature of the bank that an activation names. -/
def actSig (s : State) (a : FwAct) : BitVec 768 := match bankOf s a.bank with | some x => x.sig | none => 0#768

/-- The refusals of FW_ACTIVATE, in order, each with its DETAIL (Table 24.5). -/
def actChecks (s : State) (m : BitVec 512) (t : Dword) : List (Bool × Nat) :=
  let ks := kindList (bitsN m 32 3)
  let b := bitsN m 40 8
  let time := bits m 64 64
  let held := s.parts.any (fun p => p.2.slots.toList.any (fun x => x.st == .hoisting || x.st == .loaded))
  [(ks.isEmpty || decide (2 < b) || ks.any (fun k => (bankVer s b k).isNone) || (s.sys.fw.romMode && time != 0#64), 2), (fwBusy s, 9), (!actFits s ks b, 8),
    (time != 0#64 && decide (time < t), 0x0C), (ks.contains 1 && crosses s b && held && !bitAt m 49, 9)]

/-- FW_ACTIVATE: its refusals, then scheduled, or begun at once for an ACT_TIME of 0. -/
def execFwActivate (t : Dword) (s0 : State) : Out :=
  .next (match findMsg s0 0 0x41 with
  | none => s0
  | some m =>
    let s := s0.atTick t
    let b := bitsN m.body 40 8
    let time := bits m.body 64 64
    let rig := bitAt m.body 48
    if !s.sys.ready && !s.sys.fw.romMode then s
    else match firstCause (actChecks s m.body t) with
      | some c => fwAnswer s m c true
      | none =>
        let a : FwAct := { msg := some m.body, kinds := bitsN m.body 32 3, bank := b, rig := rig, time := time }
        let s1 := (holdMsg s 0 m).updFw (fun f => { f with act := some a })
        let s2 := if rig then fwNotices s1 false time (match bankOf s b with | some x => x.sig | none => 0#768) else s1
        if time ≠ 0#64 then s2 else if rig && !(slicePeers s).all (fun x => s.sys.fw.heard.contains (x, time, actSig s a)) then cancelRig s2 a else beginAct s2 a)

/-- FW_ACT_TIME: the activation begins, unless the module is struck or shutting down (R542). -/
def execFwActTime (t : Dword) (s : State) : Out :=
  .next (match s.sys.fw.act with
  | some a => if a.begun || decide (t < a.time) || s.sys.struck || s.sys.shutdown then s else beginAct (s.atTick t) a
  | none => s)

/-- FW_RIG_NOTICE_DEADLINE: 100 ms before ACT_TIME, without a matching notice from every peer. -/
def execFwRigNoticeDeadline (t : Dword) (s0 : State) : Out :=
  .next (match s0.sys.fw.act with
  | some a =>
    if a.begun || !a.rig || decide (t.toNat + 100000000 ≤ a.time.toNat) then s0
    else
      let s := s0.atTick t
      if (slicePeers s).all (fun x => s.sys.fw.heard.contains (x, a.time, actSig s a)) then s else cancelRig s a
  | none => s0)

/-- FW_ACTIVATION_NOTICE: a peer's notice is kept; a cancel notice before ACT_TIME − 10 ms cancels. -/
def execFwActivationNotice (peer : Dword) (cancel : Bool) (time : Dword) (sig : BitVec 768) (t : Dword) (s0 : State) : Out :=
  let s := s0.atTick t
  .next (if !cancel then s.updFw (fun f => { f with heard := if f.heard.contains (peer, time, sig) then f.heard else f.heard ++ [(peer, time, sig)] })
  else
    let s1 := s.updFw (fun f => { f with heard := f.heard.filter (fun x => !(x.1 == peer && x.2.1 == time)) })
    match s1.sys.fw.act with
    | some a => if !a.begun && a.rig && decide (t.toNat + 10000000 < a.time.toNat) then cancelRig s1 a else s1
    | none => s1)

/-- FW_ABORT: before ACT_TIME − 10 ms. What the cancelled FW_ACTIVATE is answered with the spec does not state. -/
def execFwAbort (t : Dword) (s0 : State) : Out :=
  .next (match findMsg s0 0 0x44 with
  | none => s0
  | some m =>
    let s := s0.atTick t
    match s.sys.fw.act with
    | some a =>
      if !a.begun && decide (t.toNat + 10000000 < a.time.toNat) then
        let s1 := { (cancelAct s (s.fresh.toNat % 256)) with free := s.free + 1 }
        fwAnswer (if a.rig then fwNotices s1 true a.time 0#768 else s1) m 0 false
      else fwAnswer s m 0x0C false
    | none => fwAnswer s m 0x0C false)

/-- The kind under way ends and the next begins. -/
def kindDone (s : State) (a : FwAct) : State := nextKind s a (a.todo.drop 1)

/-- MH_SWITCH_DONE: the new MH runs. -/
def execMhSwitchDone (s : State) : Out :=
  .next (match s.sys.fw.mhStop, s.sys.fw.act with
  | true, some a =>
    let b := s.sys.fw.dir.actOf 1
    let v := (bankVer s b 1).getD s.sys.fw.mh
    let s0 := if s.sys.fw.dir.onTrial 1 then writeDir s { s.sys.fw.dir with mhReady := true } else s
    let s1 := s0.updFw (fun f => { f with mhStop := false, mh := v, setFmt := (bankOf s b).elim f.setFmt (·.setFmt) })
    let s2 := clearAlt { s1 with sys := { s1.sys with mhVer := v.toNat } }
    match (if a.revert && s1.sys.fw.dir.setAlt then (s2.nvm s2.sys.cfg.copyB).copy else s2.sys.cfg.inUse) with
    | some img =>
      let x := convertSettings s2 img
      kindDone (x.1.updCfg (fun c => { c with inUse := some x.2, digest := BitVec.ofNat 384 (cfN x.2 0xD200 48) })) a
    | none => kindDone s2 a
  | _, _ => s)

/-- The next field of an FC activation: one that has gone dark is passed over. -/
def skipDark (s : State) (a : FwAct) : FwAct := { a with fields := a.fields.filter (fun n => (s.fieldPwr n).st == 3) }

/-- Fields all done: the kind ends; else the activation stands at the next one. -/
def fcNext (s : State) (a : FwAct) : State :=
  let b := skipDark s a
  if b.fields.isEmpty then kindDone s b else s.updFw (fun f => { f with act := some b })

/-- FC_FIELD_ACTIVATE: the reload of the next field's controller begins at its partition's end boundary, which then holds, and ends (R535). -/
def execFcFieldActivate (n : Fin 48) (ends : Bool) (t : Dword) (s0 : State) : Out :=
  let s := s0.atTick t
  .next (match s.sys.fw.act with
  | none => s0
  | some a0 =>
    let a := skipDark s a0
    let p := (s.field n).part
    let own := (s.field n).owned
    if a.todo.head? ≠ some 2 then s0
    else if a.fields.isEmpty then kindDone s a
    else if a.fields.head? ≠ some n.val then s0
    else if ends then
      (if s.sys.fw.reloading ≠ some n.val then s0
      else
        let s1 := loadController (s.updFw (fun f => { f with reloading := none })) n
        fcNext (if own then releaseHold s1 p else s1) { a with fields := a.fields.drop 1 })
    else if s.sys.fw.reloading.isSome || (own && ((s.grp p).inStep || (s.part p).recov.isSome || (mayStep s p && stampSent s p))) then s0
    else
      let s1 := s.updFw (fun f => { f with reloading := some n.val, act := some a })
      if own && mayStep s p then s1.updGrp p (fun g => { g with held := true }) else s1)

/-- RIO_ACTIVATE_DONE: the next rim I/O controller runs the new firmware. -/
def execRioActivateDone (i : Fin 4) (s : State) : Out :=
  .next (match s.sys.fw.act with
  | none => s
  | some a =>
    if a.todo.head? ≠ some 3 ∨ a.rios.head? ≠ some i.val then s
    else
      let v := (bankVer s (s.sys.fw.dir.actOf 3) 3).getD (AMap.at s.sys.fw.rio 0#32 i)
      let s1 := s.updFw (fun f => { f with rio := AMap.put f.rio i v })
      let b := { a with rios := a.rios.drop 1 }
      if b.rios.isEmpty then kindDone s1 b else s1.updFw (fun f => { f with act := some b }))

/-! ### Confirmation and revert (R537 to R539) -/

/-- FW_CONFIRM: SET_ALT settled, trials ended, FLOOR raised; `progOk` says whether the writes succeeded. -/
def execFwConfirm (progOk : Bool) (s : State) : Out :=
  .next (match findMsg s 0 0x42 with
  | none => s
  | some m =>
    let d := s.sys.fw.dir
    if !s.sys.ready then s
    else if s.sys.fw.staging.isSome || s.sys.fw.act.isSome then fwAnswer s m 9 true
    else if d.trials.isEmpty then fwAnswer s m 0x0D true
    else
      let conv := ((s.nvm false).converted).orElse (fun _ => (s.nvm true).converted)
      let okCopy := fun (s : State) (b : Bool) => copyGood s (!b) && progOk
      let put := fun (s : State) (b : Bool) => s.updNvm b (fun x => if x.present then { x with copy := conv } else x)
      let bad := d.setAlt && (!okCopy s true || !okCopy (put s true) false)
      if bad || !progOk then fwAnswer s m 0x0A true
      else
        let s1 := if d.setAlt then ((put (put s true) false).updNvm false (fun x => { x with converted := none })).updNvm true (fun x => { x with converted := none }) else s
        let d1 := d.trials.foldl (fun (d : FwDir) k => d.setKind k (d.actOf k) 3 false) { d with setAlt := false, prev := Vector.replicate 3 3 }
        let s2 := writeDir s1 d1
        let banks := d.trials.filterMap (fun k => (bankOf s2 (d.actOf k)).map (fun x => (d.actOf k, x)))
        let s3 := banks.foldl (fun s x =>
          if x.2.raise then
            let put2 := fun (y : NvmDev) => if y.present then { y with banks := AMap.put y.banks 2 x.2 } else y
            ((s.updNvm false put2).updNvm true put2).updFw (fun f => { f with floor := max f.floor x.2.svn })
          else s) s2
        fwAnswer s3 m 0 true)

/-- Kinds on trial moved back: ACT from PREV, no trial. -/
def revertKinds (s : State) (ks : List Nat) : State := writeDir s (ks.foldl (fun (d : FwDir) k => d.setKind k (d.prevOf k) 3 false) s.sys.fw.dir)

/-- FW_REVERT. -/
def execFwRevert (t : Dword) (s0 : State) : Out :=
  .next (match findMsg s0 0 0x43 with
  | none => s0
  | some m =>
    let s := s0.atTick t
    let ks := kindList (bitsN m.body 32 3)
    let on := ks.filter s.sys.fw.dir.onTrial
    if ks.isEmpty then fwAnswer s m 2 true
    else if s.sys.fw.staging.isSome || s.sys.fw.act.isSome then fwAnswer s m 9 true
    else if on.isEmpty then fwAnswer s m 0x0D true
    else
      let s1 := revertKinds (holdMsg s 0 m) on
      nextKind s1 { msg := some m.body, begun := true, revert := true } (fwOrder s1 on (s1.sys.fw.dir.actOf 1)))

/-- FW_FALLBACK: a confirmed bank at or above FLOOR copied into the fall-back bank. -/
def execFwFallback (progOk : Bool) (s : State) : Out :=
  .next (match findMsg s 0 0x45 with
  | none => s
  | some m =>
    let b := bitsN m.body 40 8
    let d := s.sys.fw.dir
    if !s.sys.ready then s
    else match bankOf s b with
      | none => fwAnswer s m 2 false
      | some x =>
        match firstCause [(decide (2 < b), 2), (fwBusy s, 9), (!(List.any [1, 2, 3] (fun k => d.actOf k == b && !d.onTrial k)), 0x0D), (decide (x.svn < s.sys.fw.floor), 5), (!progOk, 0x0A)] with
        | some c => fwAnswer s m c false
        | none =>
          let put := fun (y : NvmDev) => if y.present then { y with banks := AMap.put y.banks 2 x } else y
          fwAnswer ((s.updNvm false put).updNvm true put) m 0 false)

/-- An automatic revert ends: LAST_RESULT REVERTED and PF vector 6 (R537). -/
def autoReverted (s : State) : State := signal (s.updFw (fun f => { f with last := 0x0E })) 0 6

/-- FW_MH_TRIAL_TIMEOUT: 300 s past step 4 without READY; the second failed start reverts every kind on trial (R537). -/
def execFwMhTrialTimeout (t : Dword) (s0 : State) : Out :=
  let f := s0.sys.fw
  .next (if !f.dir.onTrial 1 || s0.sys.ready || decide (t.toNat ≤ f.step4At + 300000000000) || decide (s0.sys.clk.phase < 4) || s0.sys.pwr.holdup.isSome then s0
  else
    let s := writeDir (s0.atTick t) { f.dir with fails := f.dir.fails + 1 }
    if s.sys.fw.dir.fails < 2 then warmState s 4
    else autoReverted (warmState (revertKinds s f.dir.trials) 4))

/-- FC_HEARTBEAT_LOSS: FC reverted for every field, each at its partition's end boundary (R537). -/
def execFcHeartbeatLoss (n : Fin 48) (t : Dword) (s0 : State) : Out :=
  .next (if !s0.sys.fw.dir.onTrial 2 || s0.sys.fw.act.isSome || (s0.fieldPwr n).st != 3 then s0
  else
    let s := revertKinds (s0.atTick t) [2]
    nextKind s { begun := true, revert := true } [2])

end Sys2Proof.Machine
end

