-- ==== Sys2Proof/Machine/Startup.lean ====
section
/-! DEFINITION. Start-up: the steps of Table 16.4, self-test and the furl maps, SAFE, READY (16 R389 to R393). -/

namespace Sys2Proof.Machine

/-! ### Steps 1 to 4 -/

/-- The converters of the fields that exist, in regulation, and the rim's pair (steps 2 and 3). -/
def railsOn (s : State) : State :=
  s.updPwr (fun x => { x with
    rim0 := true, rim1 := true
    convs := (List.range 96).filterMap (fun k => if s.hasField (k / 2) then some (k, ({ AMap.at x.convs {} k with ok := true } : Conv)) else none) })

/-- The newest valid slot of the recorder region on a device that is present: its index and image (R555). -/
def newestSlot (s : State) : Option (Nat × EvrImage) :=
  ((if (s.nvm false).present then (s.nvm false).evr else []) ++ (if (s.nvm true).present then (s.nvm true).evr else [])).foldl
    (fun a x => match a with | none => some x | some y => if y.2.seq < x.2.seq then some x else a) none

/-- The recorder as step 4 finds it; at a power cycle PCC rises and a flush follows (R550, R555). -/
def startRecorder (s : State) (kept : Bool) : State :=
  let cold := s.sys.clk.cause == 1
  let s1 := if !cold && kept then s
    else s.updEvr (fun _ => match newestSlot s with
      | some (k, x) => { data := x.data, ops := x.ops, pcc := x.pcc, seq := x.seq, slot := k, next := (k + 1) % 64 }
      | none => { empty := true })
  if cold then askFlush (s1.updEvr (fun e => { e with pcc := (e.pcc + 1) % 65536 })) { cause := 6 } else s1

/-- SAFE: the start goes no further (R390, R540). -/
def enterSafe (s : State) : State :=
  dblSet { (s.updClk (fun c => { c with phase := 5 })) with sys := { (s.updClk (fun c => { c with phase := 5 })).sys with safe := true } } 0 11

/-- Step 4: processors booted, the recorder, the persistent registers, the security engine's self-test. -/
def stepFour (s : State) (i : StartIn) : State :=
  let s1 := s.updCfg (fun c => { c with dev0 := { c.dev0 with present := i.nvm0 }, dev1 := { c.dev1 with present := i.nvm1 } })
  let s2 := loadRwp (romBoot (s1.updSec (fun x => { x with selftestOk := i.kat, drbgOk := i.drbg })))
  let s3 := noteSerial (relaySees (startRecorder s2 i.kept) i.meter i.bus)
  if s3.sys.fw.romMode then enterSafe s3 else s3.updClk (fun c => { c with phase := 5 })

/-! ### Steps 5 and 6 -/

/-- Step 5: copy A verified, else copy B, else SAFE (R511). -/
def stepFive (s : State) : State :=
  let a := copyGood s false
  let s1 := noteCopy s false a
  let b := !a && copyGood s1 true
  let s2 := if a then s1 else noteCopy s1 true b
  match (if a then (s2.nvm false).copy else if b then (s2.nvm true).copy else none) with
  | some img =>
    let x := convertSettings s2 img
    let s3 := loadConfig x.1 x.2 b
    (relaySees s3 s3.sys.cnm.present s3.sys.cnm.busOk).updClk (fun c => { c with phase := 6 })
  | none => evrFault (enterSafe s2) 0x64 0xFF noField noCore none

/-- Step 6: factory calibration read, CFG_FIELD_OFF latched (R518, R519); the first field asks for its grant. -/
def stepSix (s : State) (i : StartIn) : State :=
  let off : BitVec 48 := BitVec.ofNat 48 ((AMap.at s.sys.cfg.rwp 0#32 4).toNat + 2 ^ 32 * bitsN (AMap.at s.sys.cfg.rwp 0#32 5) 0 16)
  let s1 := s.updCfg (fun c => { c with fcalRead := true, fcalOk := i.calOk, fcalVer := i.calVer, fcalDig := i.calDig, fieldOff := off })
  let s2 := if i.calOk then s1 else evrEvent s1 0x87 2 0xFF noField noCore none none
  requestGrant (s2.updClk (fun c => { c with phase := 7 }))

/-! ### Steps 7 to 9 -/

/-- A glide to a step, without judging cores: their floors are measured by self-test (R391, R401). -/
def startGlide (s : State) (k : Nat) : State :=
  let s1 := s.updPwr (fun x => { x with cores := AMap.mapAll x.cores (fun m c => ({ c with volt := max c.volt (min vMax (Config.coreFloor m k false + 15)) } : CorePwr).show) })
  (List.range 64).foldl swalNow (s1.updClk (fun c => { c with step := k, gliding := true, down := decide (c.step < k), glides := satAdd 0xFF c.glides 1 }))

/-- Step 7 ends: every locked field stands in fixed-hop mode for self-test, and the glide to STEP_1250 begins (R391). -/
def stepSeven (s : State) : State :=
  startGlide (((litFields s).foldl (fun s n => s.updField n (fun f => { f with mode := .fixedHop })) s).updClk (fun c => { c with phase := 8 })) 0

/-- Cores that a supply fault has taken since their field came up: they fail self-test (R391, R405). -/
def lostCores (s : State) : List TestFail :=
  (s.sys.pwr.cores.filter (fun x => x.2.st == 5 || x.2.st == 6)).filterMap (fun x => if h : x.1 < 9216 then some { core := ⟨x.1, h⟩, sails := 0#4, mast := false, other := true } else none)

/-- Step 8 ends, with what it found and the cores that the supply has lost: every failure recorded; a failed mast column is marked and logged (R130), no wide row showing it; a failed router or seam link has its consequence (R153, R166). -/
def stepEight (s : State) (i : StartIn) : State :=
  let fails := i.fails ++ lostCores s
  let s1 := fails.foldl (fun s x =>
    let s1 := evrFault s 0x20 0xFF (x.core.val / 192) (x.core.val % 192) none
    if x.mast then mstLog (s1.updMast x.core (fun m => { m with failed := true })) x.core 0 5 0 0 else s1) s
  let s2 := i.routers.foldl (fun s m => fieldLost s (m.val / 192) 0x48) s1
  let s3 := (List.range 88).foldl (fun s k =>
    if (seamFields s k).all (fun n => (s.fieldPwr n).st == 3) then
      s.updSeam k (fun x => { x with links := (List.range (linkCount k)).map (fun l => (l, ({ AMap.at x.links {} l with up := true } : SeamLink))) })
    else s) s2
  let s4 := (i.seams.filter (fun x => decide (x.2.val < linkCount x.1))).foldl (fun s x =>
    evrFault (fabLog (s.updSeam x.1 (fun y => { y with gap := true, links := AMap.upd y.links {} x.2 (fun z => { z with up := false, failed := true }) })) (seamEnd x.1 x.2) 5 x.1 x.2 0 0 0)
      0x4A 0xFF ((seamFields s x.1).headD noField) noCore none) s3
  { (s4.updClk (fun c => { c with phase := 9 })) with sys := { (s4.updClk (fun c => { c with phase := 9 })).sys with tests := fails } }

/-- Good physical sails of a core: the factory mask without those that failed. -/
def goodSails (f : FieldSt) (ts : List TestFail) (m : Nat) : List Nat :=
  (List.range 4).filter (fun k => (AMap.at f.factSails 15 (m % 192)).testBit k && !ts.any (fun x => x.core.val == m && bitAt x.sails k))

/-- How a core stands after self-test: failed outright, or short of its fourth sail only (R48, R391). -/
def coreFails (f : FieldSt) (ts : List TestFail) (m : Nat) : Bool :=
  ts.any (fun x => x.core.val == m && (x.mast || x.other)) || decide ((goodSails f ts m).length < 3)

def sailShort (s : State) (f : FieldSt) (ts : List TestFail) (m : Nat) : Bool :=
  s.grade % 2 == 0 && !coreFails f ts m && (goodSails f ts m).length == 3

/-- A column's failing rows after self-test beside its factory furl; of cores short of a sail the first is furled where nothing else is, the rest stay. -/
def columnFurls (s : State) (f : FieldSt) (ts : List TestFail) (n col : Nat) : List Nat :=
  let rows := (List.range 16).filter (fun r => AMap.find f.factRow col != some r)
  let at' := fun r => n * 192 + r * 12 + col
  let hard := rows.filter (fun r => coreFails f ts (at' r))
  if !hard.isEmpty || (AMap.find f.factRow col).isSome then hard else (rows.filter (fun r => sailShort s f ts (at' r))).take 1

/-- The rows of a column that are furled at this start. -/
def furledRows (s : State) (f : FieldSt) (ts : List TestFail) (n col : Nat) : List Nat :=
  (match AMap.find f.factRow col with | some r => [r] | none => []) ++ columnFurls s f ts n col

/-- The sail map of a core: the first `cnt` of its good sails. -/
def sailMapOf (good : List Nat) (cnt : Nat) : BitVec 8 := ((List.range cnt).zip good).foldl (fun w x => setBits w (2 * x.1) 2 x.2) 0#8

/-- FLD_CORE_STAT of a core as step 9 fills it. -/
def startStat (s : State) (f : FieldSt) (ts : List TestFail) (lim : Bool) (m : Nat) : CoreStat :=
  let n := m / 192
  let col := m % 12
  let row := m % 192 / 12
  let good := goodSails f ts m
  let fact := AMap.find f.factRow col == some row
  let furled := fact || (columnFurls s f ts n col).contains row
  let mast := ts.any (fun x => x.core.val == m && x.mast)
  let cnt := if furled then 0 else if s.grade % 2 = 1 then 3 else min 4 good.length
  CoreStat.gate { sailOk := good.foldl (fun w k => setBits w k 1 1) 0#4, sailMap := sailMapOf good cnt, sailCnt := cnt, field3s := lim
                  furled := furled, furlCause := if fact then 1 else if furled then (if mast then 7 else 2) else 0 }

/-- Step 9 for one field: its column maps, its cores' status, and DARK where a column cannot fill its rows (R391). -/
def startField (ts : List TestFail) (s : State) (n : Nat) : State :=
  let f := s.field n
  let cols := (List.range 12).map (fun col => (col, furledRows s f ts n col))
  let lim := s.grade % 2 == 0 && (List.range 192).any (fun c => sailShort s f ts (n * 192 + c) && !(furledRows s f ts n (c % 12)).contains (c / 12))
  let s1 := s.updField n (fun f => { f with
    furlRow := cols.filterMap (fun x => match x.2 with | [r] => if r = 15 then none else some (x.1, r) | _ => none)
    spareLost := cols.filterMap (fun x => if x.2 = [15] then some x.1 else none), limited3 := lim })
  let s2 := (List.range 192).foldl (fun s c => s.updCore (n * 192 + c) (fun x => { x with stat := startStat s f ts lim (n * 192 + c) })) s1
  if cols.any (fun x => decide (1 < x.2.length)) then darkField s2 n else s2

/-- Step 9 ends: maps built; the domains of spares and furled cores are off again (R397). -/
def stepNine (s : State) : State :=
  let s1 := (litFields s).foldl (startField s.sys.tests) s
  (s1.updPwr (fun x => { x with cores := AMap.mapAll x.cores (fun m c =>
    if (s1.field (m / 192)).furl (m % 12) = m % 192 / 12 ∨ (s1.core m).stat.furled = true then ({} : CorePwr) else c) })).updClk (fun c => { c with phase := 10 })

/-! ### Steps 10 to 12 -/

/-- Step 10 ends: partitions made; the request engine draws its epoch and sends START (R355, R453, R454). -/
def stepTen (s : State) : State :=
  let s1 := makePartitions s (s.sys.cfg.inUse.getD 0)
  let e := (Config.drbg s1.sys.sec.draws).setWidth 32
  sendStart (((drawn s1).updCnm (fun c => { c with running := true, epoch := e, seq := 0, totals := [] })).updClk (fun c => { c with phase := 11 }))

/-- Step 11 ends: the module's time role is settled, and the glide to the module step begins. -/
def stepEleven (s : State) : State :=
  let s1 := (updRole s).updClk (fun c => { c with phase := 12 })
  if s1.sys.clk.step = wantedStep s1 then s1 else glideTo s1 (wantedStep s1)

/-- READY: reports that waited are written in the order in which their commands arrived, every function is told (R392, Table 22.13). Commands for a partition that step 10
has not made are dropped. DESIGN CHOICE: notes/assumptions/109.md. -/
def goReady (s : State) (t : Dword) : State :=
  let s1 := s.updClk (fun c => { c with readyMs := c.startMs + (c.startNs + (t.toNat - c.startTick)) / 1000000 })
  let s2 := { s1 with sys := { s1.sys with ready := true } }
  let s3 := if s2.sys.fw.dir.onTrial 1 then writeDir s2 { s2.sys.fw.dir with mhReady := true } else s2
  let due := sortBy (fun x => x.2.1.tick) (s3.parts.flatMap (fun x => x.2.early.map (fun r => (x.1, r))))
  let s4 := due.foldl (fun s x => writeReport s x.1 x.2.1 { phase := x.2.2.1, status := x.2.2.2 })
    { s3 with parts := AMap.mapAll s3.parts (fun _ y => { y with early := [], queue := if y.en then y.queue else [] }) }
  dblAll s4 3

/-- START_UP_STEP_DONE: the step in progress ends with what it finds. Step 1 waits for a valid input, step 7 for the last field, steps 8 and 12 for their glides, the last of them to the step that is wanted by then (R378). -/
def execStartUpStepDone (i : StartIn) (t : Dword) (s0 : State) : Out :=
  let s := s0.atTick t
  .next (if s0.sys.safe || s0.sys.ready || s0.sys.shutdown || s0.sys.pwr.holdup.isSome then s0
  else match s0.sys.clk.phase with
  | 1 => if s0.sys.pwr.valid then s0.updClk (fun c => { c with phase := 2 }) else s0
  | 2 => (railsOn s0).updClk (fun c => { c with phase := 3 })
  | 3 => (({ s0 with tb := 0#64 }).updClk (fun c => { c with phase := 4, startMs := i.ms, startTick := 0 })).updFw (fun f => { f with step4At := 0 })
  | 4 => stepFour s i
  | 5 => stepFive s
  | 6 => stepSix s i
  | 7 => if (List.range 48).any (fun n => (s.fieldPwr n).st == 1 || (s.fieldPwr n).st == 2) then s0 else stepSeven s
  | 8 => if s.sys.clk.gliding then s0 else stepEight s i
  | 9 => stepNine s
  | 10 => stepTen s
  | 11 => stepEleven s
  | 12 => if s.sys.clk.gliding then s0 else if s.sys.clk.step ≠ wantedStep s then glideTo s (wantedStep s) else goReady s t
  | _ => s0)

end Sys2Proof.Machine
end

