-- ==== Sys2Proof/Machine/Registers.lean ====
section
/-! DEFINITION. Plain register writes, the clearing of records and logs, and the recorder's samples of each second (00 R6, 05 R121, 06 R151, R152, 08 R212, 25 R545). -/

namespace Sys2Proof.Machine

/-! ### Logs and records cleared -/

/-- ELOG_POP. -/
def execElogPop (l : LogSel) (s : State) : Out :=
  .next (match l with
  | .mst => { s with mst := { s.mst with log := s.mst.log.pop } }
  | .fab => { s with fab := { s.fab with log := s.fab.log.pop } }
  | .stay => { s with stay := { s.stay with log := s.stay.log.pop } }
  | .sheet => { s with sheet := { s.sheet with log := s.sheet.log.pop } }
  | .pwr => s.updPwr (fun x => { x with log := x.log.pop })
  | .thm => s.updThm (fun x => { x with log := x.log.pop })
  | .part p => s.updPart p (fun x => { x with flog := x.flog.pop }))

/-- VIOL_RECORD_CLEAR: both registers but VCNT. -/
def execViolRecordClear (core : Fin 9216) (s : State) : Out := .next (s.updCore core (fun c => { c with viol := { count := c.viol.count } }))

/-- ILL_RECORD_CLEAR. -/
def execIllRecordClear (core : Fin 9216) (s : State) : Out := .next (s.updCore core (fun c => { c with ill := {} }))

/-- MST_CTRL_WRITE: a pair that would leave HOT_OFF at or above HOT_ON leaves both as they are; the other fields take effect. -/
def execMstCtrlWrite (w : Word) (s : State) : Out :=
  let on := bitsN w 0 8
  let off := bitsN w 8 8
  let m := s.mst
  let m1 := if !m.lock && decide (off < on) then { m with hotOn := on, hotOff := off } else m
  .next { s with mst := { m1 with scrubEn := bitAt w 16, lock := m.lock || bitAt w 17 } }

/-! ### Plain registers (R6) -/

/-- A word of a register pair replaced. -/
def setHalf (x : Dword) (hi : Bool) (v : Word) : Dword := if hi then setBits x 32 32 v.toNat else setBits x 0 32 v.toNat

/-- A ring-read register of a partition, which a running read protects (R295). -/
def rrWrite (s : State) (p : Nat) (f : RingRead → RingRead) : State := s.updReq p (fun r => if r.rr.busy then r else { r with rr := f r.rr })

/-- The staging window of a partition, which a pending load protects (R296). -/
def stageWrite (s : State) (p : Nat) (f : Staging → Staging) : State := s.updReq p (fun r => if r.stage.pend.isSome then r else { r with stage := f r.stage })

/-- REGISTER_WRITE. -/
def regWrite (s : State) : RegWrite → State
  | .forceHot p v => s.updPart p (fun x => { x with forceHot := v })
  | .fabCtrl thr lock => { s with fab := { s.fab with retrainThr := if s.fab.lock then s.fab.retrainThr else thr, lock := s.fab.lock || lock } }
  | .rptLost p => s.updPart p (fun x => { x with hstat := { x.hstat with rptLost := false } })
  | .hoistData p i v => s.updPart p (fun x => { x with cmdData := setBits x.cmdData (32 * i) 32 v.toNat })
  | .winIdx f e => if f.val = 0 then { s with table := { s.table with winIdx := e } } else s.updFn f (fun x => { x with winIdx := e })
  | .urgent p us => s.updReq p (fun r => { r with urgentNext := us })
  | .weight p q w => if w.val = 0 then s else s.updReq p (fun r => { r with weightsNext := AMap.put r.weightsNext q w })
  | .nsr p v => s.updReq p (fun r => if decide (4 < v.val) || r.srs.any (fun x => x.2.en) then r else { r with nsr := v })
  | .flushSlot slot => { s with stream := { s.stream with flushSlot := slot } }
  | .stopData p i v => stageWrite s p (fun x => { x with data := AMap.put x.data i v })
  | .stopIndex p i => stageWrite s p (fun x => { x with index := i })
  | .rrAddr p hi v => rrWrite s p (fun x => { x with addr := setHalf x.addr hi v })
  | .rrEntry p e => rrWrite s p (fun x => { x with entry := e })
  | .rrFirst p v => rrWrite s p (fun x => { x with first := v.toNat })
  | .rrCnt p n => rrWrite s p (fun x => { x with cnt := n })
  | .styCtrl ms lock => { s with stay := { s.stay with timeout := if s.stay.lock || ms.val == 0 then s.stay.timeout else ms, lock := s.stay.lock || lock } }
  | .shtCtrl loss stamp lock => { s with sheet := { s.sheet with
      lossMs := if s.sheet.lock || loss.val == 0 then s.sheet.lossMs else loss
      stampMs := if s.sheet.lock || stamp.val == 0 then s.sheet.stampMs else stamp
      lock := s.sheet.lock || lock } }
  | .tbSet hi v => s.updClk (fun c => { c with tbSet := setHalf c.tbSet hi v })
  | .pwrCtrl ceil spare lock => s.updPwr (fun x => { x with
      ceil := if x.lock || decide (ceil.val < 50) || decide (220 < ceil.val) then x.ceil else ceil
      spare := if x.lock then x.spare else spare
      lock := x.lock || lock })
  | .meterReq v lock => s.updCnm (fun c =>
      let r := if c.lock then c.req else v
      { c with req := r, halted := r && !c.present, lock := c.lock || lock })
  | .cnmSel v => s.updCnm (fun c => { c with sel := v.toNat })
  | .cnmPage page => s.updCnm (fun c => { c with page := page })
  | .secCtrl mctp lock => s.updSec (fun x => { x with mctpEn := if x.lock then x.mctpEn else mctp, lock := x.lock || lock })
  | .ideReq p v => s.updSecPart p (fun x => { x with ideReqNext := v })
  | .e2e p q slot en => s.updSecPart p (fun x => if (AMap.at x.slots {} slot).purpose = 2 then { x with e2e := AMap.put x.e2e q (slot.val, en) } else x)
  | .tagEntry p e => s.updSecPart p (fun x => { x with tagEntry := e })
  | .outColl f => s.updFn f (fun x => { x with coll := false })
  | .prtCtrl p byVf esc home coal => s.updPart p (fun x => if byVf then { x with coalUs := coal } else { x with escModeNext := esc, homeNext := home, coalUs := coal })
  | .imgAddr hi v => s.updCfg (fun c => if c.write.isSome then c else if hi then { c with imgHi := v } else { c with imgLo := v })
  | .imgCopy b => s.updCfg (fun c => if c.write.isSome then c else { c with copySel := b })
  | .flushErr => s.updEvr (fun e => { e with flushErr := false })
  | .vecSev v => s.updEvr (fun e => { e with vecSev := v })
  | .hidx h => s.updEvr (fun e => { e with hidx := h })
  | .ridx r => s.updEvr (fun e => { e with ridx := r })

def execRegisterWrite (r : RegWrite) (s : State) : Out := .next (regWrite s r)

/-! ### Samples of each second (Table 25.1) -/

/-- Whether a core serves its partition's grid: neither in its column's furled row nor powered off as a spare (R12, R219). -/
def servesGrid (s : State) (m : Nat) : Bool := (s.field (m / 192)).owned && (s.field (m / 192)).furl (m % 12) != m % 192 / 12

/-- Every core of every owned field that serves a grid. -/
def gridCores (s : State) : List Nat := (List.range 9216).filter (servesGrid s)

/-- CORE_T and CORE_V of a powered core. -/
def sampleCore (s : State) (m : Nat) : State :=
  let p := s.partOf (m / 192)
  let v := (s.corePwr m).volt
  let s1 := evrSample s 0 p (m / 192) (m % 192) (coreTemp s m) (coreTemp s m - 40)
  evrSample s1 2 p (m / 192) (m % 192) v (((v : Int) - 550) / 5)

/-- TIER_T and DEBT of a mast's tier k. -/
def sampleTier (s : State) (m k : Nat) : State :=
  let p := s.partOf (m / 192)
  let d := max (AMap.at s.sys.evr.debts 0 (4 * m + k)) (((s.core m).mast.tiers.toList.getD k {}).debt)
  let s1 := match tierTemp s m k with
    | some g => evrSample s 1 p (m / 192) (m % 192) g (g - 40)
    | none => s
  evrSample s1 13 p (m / 192) (m % 192) d d

/-- SWAL of a stepping partition. -/
def sampleSwal (s : State) (p : Nat) : State :=
  if isStepping s p then evrSample s 14 p noField noCore (s.clkPart p).eff (s.clkPart p).eff else s

/-- The second's dropped Ethernet frames, as one event. -/
def sampleDrops (s : State) : State :=
  let n := s.sys.pins.ethSecond
  let s1 := if n = 0 then s else evrEvent s 0x85 1 0xFF noField noCore (some (BitVec.ofNat 64 n)) none
  { s1 with sys := { s1.sys with pins := { s1.sys.pins with ethSecond := 0, ethRx := 0 } } }

/-- EVR_SECOND_SAMPLE: one more operating second, and the samples that are taken once per second; CE_RATE and the debts count anew. -/
def execEvrSecondSample (t : Dword) (s0 : State) : Out :=
  .next (if s0.sys.clk.phase < 4 then s0
  else
    let s := (s0.atTick t).updEvr (fun e => { e with ops := (e.ops + 1) % 2 ^ 32 })
    let s1 := ((s.sys.pwr.cores.filter (fun x => x.2.on)).map (·.1)).foldl sampleCore s
    let s2 := ((gridCores s).flatMap (fun m => (List.range 4).map (fun k => (m, k)))).foldl (fun s x => sampleTier s x.1 x.2) s1
    let n := s.sys.evr.ceSecond
    let s3 := evrSample s2 12 0xFF noField noCore n (quarterLog (n + 1) 1)
    let s4 := s.enabled.foldl sampleSwal s3
    sampleDrops (s4.updEvr (fun e => { e with ceSecond := 0, debts := [] })))

end Sys2Proof.Machine
end

