-- ==== Sys2Proof/Machine/Pins.lean ====
section
/-! DEFINITION. The management buses, the Ethernet ports, IEEE 1588, and reads of host memory that fail (10 R259, 15 R369, 20 R462, 26 R565, R566). -/

namespace Sys2Proof.Machine

def State.updPins (s : State) (f : Pins → Pins) : State := { s with sys := { s.sys with pins := f s.sys.pins } }

/-- ALERT_N as masthead firmware drives it from step 4 on, low where true (R565, Table 16.7). -/
def alertLow (s : State) : Bool :=
  decide (4 ≤ s.sys.clk.phase) && (s.sys.thm.cool == 3 || s.sys.thm.cool == 4 || s.sys.pwr.holdup.isSome || s.sys.shutdown || s.sys.safe)

/-! ### PLDM and I3C (R566) -/

/-- Whether the management I3C target answers: from start-up step 4. -/
def mgmtHears (s : State) : Bool := decide (4 ≤ s.sys.clk.phase)

/-- PLDM_GET_PDR: the descriptor record of a handle. -/
def execPldmGetPdr (handle : Nat) (s : State) : Out := .next (if mgmtHears s then emit s (.pldm 0x51 (Config.pdr handle).2) else s)

/-- A sensor's value, in the unit of the register that shows it. -/
def sensorValue (s : State) : Sensor → Nat
  | .inputPower => s.sys.pwr.power
  | .inlet => wrapInt 16 s.sys.thm.inlet
  | .outlet => wrapInt 16 s.sys.thm.outlet
  | .flow => s.sys.thm.flow
  | .hottest => wrapInt 16 s.sys.thm.hotTemp
  | .coolant => s.sys.thm.cool

/-- The command code of a reading: GetSensorReading for a numeric sensor, the state sensor's own for the coolant state (DSP0248). -/
def sensorCode : Sensor → Nat
  | .coolant => 0x21
  | _ => 0x11

/-- PLDM_GET_SENSOR_READING. -/
def execPldmGetSensorReading (x : Sensor) (s : State) : Out := .next (if mgmtHears s then emit s (.pldm (sensorCode x) (sensorValue s x)) else s)

/-- I3C_DYNAMIC_ADDRESS: SETDASA or ENTDAA gives an address to a target that has none, the crow's nest's or the management one. -/
def execI3cDynamicAddress (crow : Bool) (addr : Fin 128) (s : State) : Out :=
  .next (if crow then (if s.sys.cnm.meter.powered then s.updPins (fun x => { x with cni3c := some (x.cni3c.getD addr) }) else s)
  else if mgmtHears s then s.updPins (fun x => { x with mi3c := some (x.mi3c.getD addr) }) else s)

/-! ### Ethernet (R369, Table 15.11) -/

/-- The ports' state after one of them changes: the masthead sends on port 0, and on port 1 while port 0 is down. With both down no time transmitter is heard,
and the time base runs free (Table 16.12). -/
def setPort (s : State) (i : Nat) (up : Bool) : State :=
  let s1 := s.updPins (fun x =>
    let u := setBits x.ethUp i 1 (b2n up)
    { x with ethUp := u, ethPort := if bitAt u 0 then 0 else 1, ptpLocked := x.ptpLocked && u != 0#2 })
  if s.sys.pins.ptpLocked && !s1.sys.pins.ptpLocked then s1.updClk (fun c => { c with source := if c.source = 1 then 0 else c.source }) else s1

/-- ETHERNET_LINK_DOWN. -/
def execEthernetLinkDown (i : Fin 2) (s : State) : Out := .next (setPort s i false)

/-- Whether the Ethernet optics are lit: from the end of step 4; in SAFE no link is trained (R390, Table 16.7). -/
def ethLit (s : State) : Bool := decide (5 ≤ s.sys.clk.phase) && !s.sys.safe

/-- ETHERNET_LINK_UP. -/
def execEthernetLinkUp (i : Fin 2) (s : State) : Out := .next (if ethLit s then setPort s i true else s)

/-- Bytes that 40 Gb/s carries in a second. -/
def ethLimit : Nat := 5000000000

/-- ETHERNET_FRAME: frames beyond the limit of the second are dropped and counted. What the masthead makes of the rest is not architectural state. -/
def execEthernetFrame (i : Fin 2) (_use : EthUse) (len : Fin 9217) (s : State) : Out :=
  .next (if !bitAt s.sys.pins.ethUp i then s
  else s.updPins (fun x =>
    if x.ethRx + len.val ≤ ethLimit then { x with ethRx := x.ethRx + len.val } else { x with ethSecond := x.ethSecond + 1, ethDrops := x.ethDrops + 1 }))

/-- PTP_MESSAGE: a leader whose configuration enables IEEE 1588 takes the transmitter's time: in one step at first lock, by its rate afterwards (R368, R386). -/
def execPtpMessage (i : Fin 2) (now : Dword) (t : Dword) (s0 : State) : Out :=
  .next (if !(s0.sheet.leader && s0.sys.cfg.ptpEn && bitAt s0.sys.pins.ethUp i) then s0
  else
    let s := s0.atTick t
    let s1 := if s.sheet.stepped then s else (moveTime s now).updClk (fun c => { c with firstLock := true })
    let s2 := newRate s1
    ({ s2 with sheet := { s2.sheet with stepped := true } }).updClk (fun c => { c with source := 1 }) |>.updPins (fun x => { x with ptpLocked := true }))

/-! ### Reads of host memory that fail (R259, R490) -/

/-- A prompt that cannot be read: the submission is rejected with HOST_READ (Table 11.8). -/
def promptReadFails (s : State) (p q : Nat) (sub : BitVec 512) (t : Dword) : State :=
  if sbOp sub = 1 ∨ sbOp sub = 2 then submit s p q (sbOp sub) sub none t (fun _ s => s) else s

/-- HOST_READ_TIMEOUT: the item ends as it does where its read is not issued. -/
def execHostReadTimeout (r : ReadItem) (t : Dword) (s0 : State) : Out :=
  let s := s0.atTick t
  .next (match r with
  | .hoist p k => hoistReadFails s p k
  | .submission p q => submissionReadFails s p q t
  | .prompt p q sub => promptReadFails s p q sub t
  | .autoLoad p => autoLoad s p none
  | .keyExch p => keyExch s p none
  | .keyClear p => keyClear s p none
  | .signKey => signkey s none
  | .fwStage => stageDone s none true
  | .cfgCopy => copyDone s none true)

end Sys2Proof.Machine
end

