-- ==== Sys2Proof/Machine/Sampler.lean ====
section
/-! DEFINITION. The sampler sub-operations of the vector slot (08 R198, 14 R339 to R351). -/

namespace Sys2Proof.Machine


/-- Causes common to the sampler forms: bits [31] and [43:32] are zero. -/
def vsmpChecks (w : BitVec 44) : List (Bool × Nat) := [(bitsN w 31 13 != 0, 2)]

/-- 64-bit product and sum of the generator (R339). -/
def rngMix (h : Dword) : Dword :=
  let h1 := (h ^^^ (h >>> 30)) * 0xBF58476D1CE4E5B9#64
  let h2 := (h1 ^^^ (h1 >>> 27)) * 0x94D049BB133111EB#64
  h2 ^^^ (h2 >>> 31)

/-- u for the seed-and-position word `w` and the counter word c = t + n * 2^20 (R339). -/
def rngValue (w : Dword) (c : Nat) : BitVec 32 :=
  let h := rngMix (w + BitVec.ofNat 64 (c + 1) * 0x9E3779B97F4A7C15#64)
  (Num.fin false (2 * (h >>> 41).toNat + 1) (-24)).to32

/-- VSMP RNG. -/
def execVsmpRng (q : Issue) (w : BitVec 44) (s : State) : Out :=
  .next (issue s q true [vSa w] [vD w] (fun s t =>
    legalOr s q 1 0x18 (vsmpChecks w) (poisonVReg q (vD w) (t + 6)) (fun s =>
      s.updCtx q.core q.ctx (fun x =>
        let c := x.rdV (vD w)
        let a := x.rdS (vSa w)
        x.wrV (vD w) (if c.poison || a.poison then poisonV else ⟨ofLanes32 (fun i => rngValue a.val (lane32 c.val i).toNat), false⟩) (t + 6)))))

/-- The factor of a temperature (R341 step 2). -/
def tempFactor (temp : BitVec 16) : BitVec 32 := if temp = 0#16 then 0x3F800000#32 else frcp (widen16 temp)

/-- VSMP TEMP. -/
def execVsmpTemp (q : Issue) (w : BitVec 44) (s : State) : Out :=
  .next (issue s q true [vSa w] [vD w, vA w] (fun s t =>
    legalOr s q 1 0x18 (vsmpChecks w) (poisonVReg q (vD w) (t + 4)) (fun s =>
      s.updCtx q.core q.ctx (fun x =>
        let a := x.rdV (vA w)
        let p := x.rdS (vSa w)
        let r := tempFactor (bits p.val 0 16)
        x.wrV (vD w) (if a.poison || p.poison then poisonV
          else ⟨ofLanes32 (fun i => if isNan32 (lane32 a.val i) then 0xFF800000#32 else fmul (lane32 a.val i) r), false⟩) (t + 4)))))

/-- VSMP TOPK: keys above the boundary key, or equal to it with an id at or below the boundary id, stay. -/
def execVsmpTopk (q : Issue) (w : BitVec 44) (s : State) : Out :=
  .next (issue s q true [vSa w] [vD w, vA w] (fun s t =>
    legalOr s q 1 0x18 (vsmpChecks w) (poisonVReg q (vD w) (t + 2)) (fun s =>
      s.updCtx q.core q.ctx (fun x =>
        let a := x.rdV (vA w)
        let d := x.rdV (vD w)
        let b := x.rdS (vSa w)
        let kap := bitsN b.val 0 32
        let beta := bitsN b.val 32 20
        let keep := fun i => decide (kap < (lane32 a.val i).toNat) || ((lane32 a.val i).toNat == kap && decide ((lane32 d.val i).toNat ≤ beta))
        x.wrV (vD w) (if a.poison || d.poison || b.poison then poisonV
          else ⟨ofLanes32 (fun i => if keep i then lane32 a.val i else 0#32), false⟩) (t + 2)))))

/-- The running sums before each lane, from a carry. -/
def prefixSums (a : VWord) : Nat → Nat → BitVec 32 → List (BitVec 32) × BitVec 32
  | 0, _, c => ([], c)
  | n + 1, i, c =>
    let r := prefixSums a n (i + 1) (fadd c (lane32 a i))
    (c :: r.1, r.2)

/-- VSMP TOPP: lanes whose exclusive prefix lies below the bound pass; the carry becomes the whole sum. -/
def execVsmpTopp (q : Issue) (w : BitVec 44) (s : State) : Out :=
  .next (issue s q true [vSa w] [vD w, vA w, vB w] (fun s t =>
    legalOr s q 1 0x18 (vsmpChecks w) (fun s => poisonSReg q (vSa w) (t + 10) (poisonVReg q (vD w) (t + 10) s)) (fun s =>
      s.updCtx q.core q.ctx (fun x =>
        let a := x.rdV (vA w)
        let b := x.rdV (vB w)
        let c := x.rdS (vSa w)
        if a.poison || b.poison || c.poison then (x.wrV (vD w) poisonV (t + 10)).wrS (vSa w) poisonS (t + 10)
        else
          let (ps, tot) := prefixSums a.val 64 0 (bits c.val 0 32)
          (x.wrV (vD w) ⟨ofLanes32 (fun i => if fLt (ps.getD i 0#32) (bits c.val 32 32) then lane32 b.val i else 0x7FC00000#32), false⟩ (t + 10)).wrS
            (vSa w) ⟨setBits c.val 0 32 tot.toNat, false⟩ (t + 10)))))

/-- VSMP AMASK: lanes whose mask bit is 0 become the quiet NaN. -/
def execVsmpAmask (q : Issue) (w : BitVec 44) (s : State) : Out :=
  .next (issue s q true [vSa w] [vD w, vA w] (fun s t =>
    legalOr s q 1 0x18 (vsmpChecks w) (poisonVReg q (vD w) (t + 2)) (fun s =>
      s.updCtx q.core q.ctx (fun x =>
        let a := x.rdV (vA w)
        let m := x.rdS (vSa w)
        x.wrV (vD w) (if a.poison || m.poison then poisonV
          else ⟨ofLanes32 (fun i => if bitAt m.val i then lane32 a.val i else 0x7FC00000#32), false⟩) (t + 2)))))

/-- The better of a best so far (key, id, valid) and a lane: greater key, then lower id. -/
def drawBetter (b : Nat × Nat × Bool) (key id : Nat) : Nat × Nat × Bool :=
  if id = 0xFFFFFFFF then b
  else if !b.2.2 || decide (b.1 < key) || (b.1 == key && decide (id % 2 ^ 20 < b.2.1)) then (key, id % 2 ^ 20, true)
  else b

/-- VSMP DRAW. -/
def execVsmpDraw (q : Issue) (w : BitVec 44) (s : State) : Out :=
  .next (issue s q true [vD w] [vA w, vB w] (fun s t =>
    legalOr s q 1 0x18 (vsmpChecks w) (poisonSReg q (vD w) (t + 4)) (fun s =>
      s.updCtx q.core q.ctx (fun x =>
        let a := x.rdV (vA w)
        let b := x.rdV (vB w)
        let d := x.rdS (vD w)
        let r := (List.range 64).foldl (fun e i => drawBetter e (lane32 a.val i).toNat (lane32 b.val i).toNat)
          (bitsN d.val 0 32, bitsN d.val 32 20, bitAt d.val 52)
        x.wrS (vD w) (if a.poison || b.poison || d.poison then poisonS
          else ⟨packFields 64 [(0, 32, r.1), (32, 20, r.2.1), (52, 1, b2n r.2.2)], false⟩) (t + 4)))))

/-- Whether a proposal is accepted (R343, R344). -/
def acceptTest (sa d : Dword) : Bool :=
  if bitAt sa 63 then
    let u : BitVec 32 := bits sa 0 32
    let p : BitVec 32 := bits d 0 32
    let qd : BitVec 32 := bits d 32 32
    if fEq qd 0#32 then fLt 0#32 p else (fLt (fmul u qd) p || fEq (fmul u qd) p)
  else bitsN sa 0 20 == bitsN d 0 20

/-- VSMP ACCEPT. -/
def execVsmpAccept (q : Issue) (w : BitVec 44) (s : State) : Out :=
  .next (issue s q true [vSa w, vD w] [] (fun s t =>
    legalOr s q 1 0x18 (vsmpChecks w) (poisonSReg q (vD w) (t + 2)) (fun s =>
      s.updCtx q.core q.ctx (fun x =>
        let a := x.rdS (vSa w)
        let d := x.rdS (vD w)
        x.wrS (vD w) (if a.poison || d.poison then poisonS else ⟨BitVec.ofNat 64 (b2n (acceptTest a.val d.val)), false⟩) (t + 2)))))

/-! ### COMMIT (R351) -/

def cmCount (a : Dword) : Nat := bitsN a 0 4
def cmHandle (a : Dword) : Nat := bitsN a 4 5
def cmOfs (a : Dword) : Nat := bitsN a 9 14
def cmSlot (a : Dword) : Nat := bitsN a 23 12

/-- A COMMIT is illegal with a count of 0 or above K_EFF + 1, without a step record, or a second time in a step. -/
def commitBad (r : ReqPart) (a : Dword) : Bool :=
  match AMap.find r.keff (cmSlot a) with
  | none => true
  | some k => cmCount a == 0 || decide (k + 1 < cmCount a) || r.commits.any (fun c => c.slot == cmSlot a)

/-- The commit words of a number, first word lowest. -/
def commitWords (d : Nat) : Nat → List (BitVec 64)
  | 0 => []
  | n + 1 => BitVec.ofNat 64 d :: commitWords (d >>> 64) n

/-- VSMP COMMIT: the words of a slot are committed, stamped with the tick at which it issues; a fault raised 20 fc before suppresses it (R116). -/
def execVsmpCommit (q : Issue) (wt : Timed (BitVec 44)) (s : State) : Out :=
  let w := wt.val
  let now := wt.tick
  .next (issue s q true [vSa w] [] (fun s t =>
    let a := ((s.core q.core).tc q.ctx).rdS (vSa w)
    let p := s.corePart q.core
    legalOr s q 1 0x18 (vsmpChecks w ++ [(a.poison || commitBad (s.part p).req a.val, 2)]) id (fun s =>
      let o : Spo := ⟨cmHandle a.val, cmOfs a.val, 0, 1⟩
      let (s1, d, _) := readOp (s.settleAll p t) q o (8 * cmCount a.val)
      if (s1.grp p).failedBy t then s1
      else s1.updPart p (fun x => { x with req := { x.req with commits := x.req.commits ++
        [{ slot := cmSlot a.val, words := commitWords d (cmCount a.val), stamp := max s1.tb.toNat now.toNat, cyc := t }] } }))))

end Sys2Proof.Machine
end

