-- ==== Sys2Proof/Machine/Dispatch.lean ====
section
/-! DEFINITION. What each command does: one arm, one meaning. -/

namespace Sys2Proof.Machine

def exec (cmd : Instr) (s : State) : Host.Outcome State Fault Refusal :=
  match cmd with
  | .snop q w => Sys2Proof.Machine.execSnop q w s
  | .mldw q w => Sys2Proof.Machine.execMldw q w s
  | .mmul q w upset => Sys2Proof.Machine.execMmul q w upset s
  | .maccl q w => Sys2Proof.Machine.execMaccl q w s
  | .sdist q w upset => Sys2Proof.Machine.execSdist q w upset s
  | .smax q w => Sys2Proof.Machine.execSmax q w s
  | .smin q w => Sys2Proof.Machine.execSmin q w s
  | .srank q w => Sys2Proof.Machine.execSrank q w s
  | .sthr q w => Sys2Proof.Machine.execSthr q w s
  | .vnop q w => Sys2Proof.Machine.execVnop q w s
  | .vadd q w => Sys2Proof.Machine.execVadd q w s
  | .vsub q w => Sys2Proof.Machine.execVsub q w s
  | .vmul q w => Sys2Proof.Machine.execVmul q w s
  | .vfma q w => Sys2Proof.Machine.execVfma q w s
  | .vmin q w => Sys2Proof.Machine.execVmin q w s
  | .vmax q w => Sys2Proof.Machine.execVmax q w s
  | .vcmp q w => Sys2Proof.Machine.execVcmp q w s
  | .vsel q w => Sys2Proof.Machine.execVsel q w s
  | .vcvt q w => Sys2Proof.Machine.execVcvt q w s
  | .vexp q w => Sys2Proof.Machine.execVexp q w s
  | .vlog q w => Sys2Proof.Machine.execVlog q w s
  | .vrcp q w => Sys2Proof.Machine.execVrcp q w s
  | .vrsq q w => Sys2Proof.Machine.execVrsq q w s
  | .vsqrt q w => Sys2Proof.Machine.execVsqrt q w s
  | .vrsum q w => Sys2Proof.Machine.execVrsum q w s
  | .vrmax q w => Sys2Proof.Machine.execVrmax q w s
  | .vrmin q w => Sys2Proof.Machine.execVrmin q w s
  | .vld q w => Sys2Proof.Machine.execVld q w s
  | .vst q w => Sys2Proof.Machine.execVst q w s
  | .vdrn q w => Sys2Proof.Machine.execVdrn q w s
  | .vsca q w => Sys2Proof.Machine.execVsca q w s
  | .vkey q w => Sys2Proof.Machine.execVkey q w s
  | .vmask q w => Sys2Proof.Machine.execVmask q w s
  | .vsmpRng q w => Sys2Proof.Machine.execVsmpRng q w s
  | .vsmpTemp q w => Sys2Proof.Machine.execVsmpTemp q w s
  | .vsmpTopk q w => Sys2Proof.Machine.execVsmpTopk q w s
  | .vsmpTopp q w => Sys2Proof.Machine.execVsmpTopp q w s
  | .vsmpAmask q w => Sys2Proof.Machine.execVsmpAmask q w s
  | .vsmpDraw q w => Sys2Proof.Machine.execVsmpDraw q w s
  | .vsmpAccept q w => Sys2Proof.Machine.execVsmpAccept q w s
  | .vsmpCommit q w => Sys2Proof.Machine.execVsmpCommit q w s
  | .mnop q w => Sys2Proof.Machine.execMnop q w s
  | .mrd q w => Sys2Proof.Machine.execMrd q w s
  | .mwr q w => Sys2Proof.Machine.execMwr q w s
  | .msend q w => Sys2Proof.Machine.execMsend q w s
  | .mfill q w => Sys2Proof.Machine.execMfill q w s
  | .mcopy q w => Sys2Proof.Machine.execMcopy q w s
  | .rsend q w => Sys2Proof.Machine.execRsend q w s
  | .merge q w => Sys2Proof.Machine.execMerge q w s
  | .mrel q w => Sys2Proof.Machine.execMrel q w s
  | .kvapq q w => Sys2Proof.Machine.execKvapq q w s
  | .xdisp q w => Sys2Proof.Machine.execXdisp q w s
  | .cnop q w => Sys2Proof.Machine.execCnop q w s
  | .sli q w => Sys2Proof.Machine.execSli q w s
  | .slih q w => Sys2Proof.Machine.execSlih q w s
  | .sadd q w => Sys2Proof.Machine.execSadd q w s
  | .ssub q w => Sys2Proof.Machine.execSsub q w s
  | .smul q w => Sys2Proof.Machine.execSmul q w s
  | .sand q w => Sys2Proof.Machine.execSand q w s
  | .sor q w => Sys2Proof.Machine.execSor q w s
  | .sxor q w => Sys2Proof.Machine.execSxor q w s
  | .sshl q w => Sys2Proof.Machine.execSshl q w s
  | .sshr q w => Sys2Proof.Machine.execSshr q w s
  | .slds q w => Sys2Proof.Machine.execSlds q w s
  | .ssts q w => Sys2Proof.Machine.execSsts q w s
  | .br q w => Sys2Proof.Machine.execBr q w s
  | .jmp q w => Sys2Proof.Machine.execJmp q w s
  | .loop q w => Sys2Proof.Machine.execLoop q w s
  | .waitc q w => Sys2Proof.Machine.execWaitc q w s
  | .seqadv q w => Sys2Proof.Machine.execSeqadv q w s
  | .hand q w => Sys2Proof.Machine.execHand q w s
  | .hset q w => Sys2Proof.Machine.execHset q w s
  | .vpat q w => Sys2Proof.Machine.execVpat q w s
  | .phase q w => Sys2Proof.Machine.execPhase q w s
  | .escm q w => Sys2Proof.Machine.execEscm q w s
  | .refw q w found => Sys2Proof.Machine.execRefw q w found s
  | .svcw q w => Sys2Proof.Machine.execSvcw q w s
  | .wstep q w => Sys2Proof.Machine.execWstep q w s
  | .tileLoadDone core sail => Sys2Proof.Machine.execTileLoadDone core sail s
  | .mastRowLand core ecc => Sys2Proof.Machine.execMastRowLand core ecc s
  | .mastWriteAck core => Sys2Proof.Machine.execMastWriteAck core s
  | .kvapqAck core found => Sys2Proof.Machine.execKvapqAck core found s
  | .outsideMastAccess core write mark part row data => Sys2Proof.Machine.execOutsideMastAccess core write mark part row data s
  | .meshFlitArrive i o => Sys2Proof.Machine.execMeshFlitArrive i o s
  | .deliveryCreditReturn core trk => Sys2Proof.Machine.execDeliveryCreditReturn core trk s
  | .vc0MessageDeliver i => Sys2Proof.Machine.execVc0MessageDeliver i s
  | .reductionFlitArrive i => Sys2Proof.Machine.execReductionFlitArrive i s
  | .reductionAddDone core tree fidx tag => Sys2Proof.Machine.execReductionAddDone core tree fidx tag s
  | .mergeRequestArrive i => Sys2Proof.Machine.execMergeRequestArrive i s
  | .mergeEntryClose core group tag => Sys2Proof.Machine.execMergeEntryClose core group tag s
  | .rowNormCheck core sail row => Sys2Proof.Machine.execRowNormCheck core sail row s
  | .escalationPassEnd core sail found upset => Sys2Proof.Machine.execEscalationPassEnd core sail found upset s
  | .escalationRestoreDone core sail => Sys2Proof.Machine.execEscalationRestoreDone core sail s
  | .overflowDispatchDone n => Sys2Proof.Machine.execOverflowDispatchDone n s
  | .overflowRoutineDone n => Sys2Proof.Machine.execOverflowRoutineDone n s
  | .luffStallBegin p => Sys2Proof.Machine.execLuffStallBegin p s
  | .luffItemEnd p i => Sys2Proof.Machine.execLuffItemEnd p i s
  | .luffLineDrop p => Sys2Proof.Machine.execLuffLineDrop p s
  | .luffTimeout p n => Sys2Proof.Machine.execLuffTimeout p n s
  | .stepEndBoundary p t => Sys2Proof.Machine.execStepEndBoundary p t s
  | .stepStartBoundary p t => Sys2Proof.Machine.execStepStartBoundary p t s
  | .idleBoundary p t => Sys2Proof.Machine.execIdleBoundary p t s
  | .imageCurrentWindow core mean => Sys2Proof.Machine.execImageCurrentWindow core mean s
  | .refreshDebtTick core tier => Sys2Proof.Machine.execRefreshDebtTick core tier s
  | .refreshCatchup core tier => Sys2Proof.Machine.execRefreshCatchup core tier s
  | .hotOffDwellExpire p => Sys2Proof.Machine.execHotOffDwellExpire p s
  | .tlbMap core rid vpn pgn wr => Sys2Proof.Machine.execTlbMap core rid vpn pgn wr s
  | .tlbUnmap core rid vpn => Sys2Proof.Machine.execTlbUnmap core rid vpn s
  | .tlbRelease core rid => Sys2Proof.Machine.execTlbRelease core rid s
  | .tlbRebuild core => Sys2Proof.Machine.execTlbRebuild core s
  | .pageInit core rid vpn pgn => Sys2Proof.Machine.execPageInit core rid vpn pgn s
  | .columnCopyDone n col bad => Sys2Proof.Machine.execColumnCopyDone n col bad s
  | .seamLaneLockLoss k l => Sys2Proof.Machine.execSeamLaneLockLoss k l s
  | .seamErrorWindow k l x => Sys2Proof.Machine.execSeamErrorWindow k l x s
  | .seamRetrainDone k l badLanes => Sys2Proof.Machine.execSeamRetrainDone k l badLanes s
  | .fixedHopEnter fields => Sys2Proof.Machine.execFixedHopEnter fields s
  | .fixedHopDrainDone n => Sys2Proof.Machine.execFixedHopDrainDone n s
  | .fixedHopDrainTimeout n => Sys2Proof.Machine.execFixedHopDrainTimeout n s
  | .fixedHopStartTick fields t => Sys2Proof.Machine.execFixedHopStartTick fields t s
  | .fixedHopExitTick fields t => Sys2Proof.Machine.execFixedHopExitTick fields t s
  | .hopTableLoad router t => Sys2Proof.Machine.execHopTableLoad router t s
  | .sheetTensorFrame i h dst fl => Sys2Proof.Machine.execSheetTensorFrame i h dst fl s
  | .sheetCreditFrame i h => Sys2Proof.Machine.execSheetCreditFrame i h s
  | .sheetGateFrame i h => Sys2Proof.Machine.execSheetGateFrame i h s
  | .sheetEndStampFrame i h recs => Sys2Proof.Machine.execSheetEndStampFrame i h recs s
  | .sheetNoticeFrame i h what ok e => Sys2Proof.Machine.execSheetNoticeFrame i h what ok e s
  | .sheetIdentFrame i serial port peerGood agrees => Sys2Proof.Machine.execSheetIdentFrame i serial port peerGood agrees s
  | .sheetTimeFrame i h recv => Sys2Proof.Machine.execSheetTimeFrame i h recv s
  | .sheetWaitArm p rank route => Sys2Proof.Machine.execSheetWaitArm p rank route s
  | .gateDueArm p => Sys2Proof.Machine.execGateDueArm p s
  | .sheetPortLinkUp i => Sys2Proof.Machine.execSheetPortLinkUp i s
  | .sheetPortLinkDown i => Sys2Proof.Machine.execSheetPortLinkDown i s
  | .cablingVerdictTimeout i => Sys2Proof.Machine.execCablingVerdictTimeout i s
  | .timeExchangeTick => Sys2Proof.Machine.execTimeExchangeTick s
  | .timeHoldTimeout => Sys2Proof.Machine.execTimeHoldTimeout s
  | .sliceStampLate p r => Sys2Proof.Machine.execSliceStampLate p r s
  | .sliceLossTimeout p r => Sys2Proof.Machine.execSliceLossTimeout p r s
  | .stampWaitTimeout p r => Sys2Proof.Machine.execStampWaitTimeout p r s
  | .sqDoorbell p q tail => Sys2Proof.Machine.execSqDoorbell p q tail s
  | .openReq p q sub prompt t => Sys2Proof.Machine.execOpen p q sub prompt t s
  | .continueReq p q sub prompt t => Sys2Proof.Machine.execContinue p q sub prompt t s
  | .cancelReq p q sub t => Sys2Proof.Machine.execCancel p q sub t s
  | .closeReq p q sub t => Sys2Proof.Machine.execClose p q sub t s
  | .parkReq p q sub t => Sys2Proof.Machine.execPark p q sub t s
  | .completionRecordWrite p t => Sys2Proof.Machine.execCompletionRecordWrite p t s
  | .cqHeadWrite p head => Sys2Proof.Machine.execCqHeadWrite p head s
  | .sqCfgWrite p q base size en => Sys2Proof.Machine.execSqCfgWrite p q base size en s
  | .cqCfgWrite p base size en => Sys2Proof.Machine.execCqCfgWrite p base size en s
  | .parkPageWriteDone e o t => Sys2Proof.Machine.execParkPageWriteDone e o t s
  | .unparkPageArrive e o => Sys2Proof.Machine.execUnparkPageArrive e o s
  | .stayLinkDown i t => Sys2Proof.Machine.execStayLinkDown i t s
  | .stayLinkUp i fast typeOk lanes cap retries => Sys2Proof.Machine.execStayLinkUp i fast typeOk lanes cap retries s
  | .stayRequestTimeout i e t => Sys2Proof.Machine.execStayRequestTimeout i e t s
  | .outputQueueToken slot => Sys2Proof.Machine.execOutputQueueToken slot s
  | .streamRecordWrite p r parity sideBad => Sys2Proof.Machine.execStreamRecordWrite p r parity sideBad s
  | .srHeadWrite p r head => Sys2Proof.Machine.execSrHeadWrite p r head s
  | .srCfgWrite p r base size en => Sys2Proof.Machine.execSrCfgWrite p r base size en s
  | .stmFlushGo byVf slot => Sys2Proof.Machine.execStmFlushGo byVf slot s
  | .ringReadGo p byPf => Sys2Proof.Machine.execRingReadGo p byPf s
  | .ringReadDone p n bad => Sys2Proof.Machine.execRingReadDone p n bad s
  | .stopSetLoad p index => Sys2Proof.Machine.execStopSetLoad p index s
  | .autoLoad p file => Sys2Proof.Machine.execAutoLoad p file s
  | .tallyStartSend t => Sys2Proof.Machine.execTallyStartSend t s
  | .tallyMarkSend t => Sys2Proof.Machine.execTallyMarkSend t s
  | .meterTallyStart ok0 ok1 => Sys2Proof.Machine.execMeterTallyStart ok0 ok1 s
  | .meterTallyTokens ok0 ok1 => Sys2Proof.Machine.execMeterTallyTokens ok0 ok1 s
  | .meterTallyMark ok0 ok1 => Sys2Proof.Machine.execMeterTallyMark ok0 ok1 s
  | .meterTallyClose ok0 ok1 mt r => Sys2Proof.Machine.execMeterTallyClose ok0 ok1 mt r s
  | .meterInputLoss mt r => Sys2Proof.Machine.execMeterInputLoss mt r s
  | .meterPowerUp restarted fresh mt => Sys2Proof.Machine.execMeterPowerUp restarted fresh mt s
  | .meterIntervalEnd r => Sys2Proof.Machine.execMeterIntervalEnd r s
  | .meterSealEvent => Sys2Proof.Machine.execMeterSealEvent s
  | .cnmFetchGo present bus => Sys2Proof.Machine.execCnmFetchGo present bus s
  | .cnmIntervalWrite v => Sys2Proof.Machine.execCnmIntervalWrite v s
  | .clkStepReqWrite v => Sys2Proof.Machine.execClkStepReqWrite v s
  | .glideEnd t => Sys2Proof.Machine.execGlideEnd t s
  | .cornerLockLoss n corner t => Sys2Proof.Machine.execCornerLockLoss n corner t s
  | .fieldRelock n t => Sys2Proof.Machine.execFieldRelock n t s
  | .relockTimeout n t => Sys2Proof.Machine.execRelockTimeout n t s
  | .fieldLockTimeout n t => Sys2Proof.Machine.execFieldLockTimeout n t s
  | .refOscCheck stopA stopB stopM dAB dAM dBM t => Sys2Proof.Machine.execRefOscCheck stopA stopB stopM dAB dAM dBM t s
  | .refHoldTimeout t => Sys2Proof.Machine.execRefHoldTimeout t s
  | .timeBaseSync t => Sys2Proof.Machine.execTimeBaseSync t s
  | .clkTbSetGo t => Sys2Proof.Machine.execClkTbSetGo t s
  | .clkTbLoRead f t => Sys2Proof.Machine.execClkTbLoRead f t s
  | .slewDone t => Sys2Proof.Machine.execSlewDone t s
  | .hostSwalWrite p v => Sys2Proof.Machine.execHostSwalWrite p v s
  | .inputValid => Sys2Proof.Machine.execInputValid s
  | .pinReset t => Sys2Proof.Machine.execPinReset t s
  | .hostRestart key t => Sys2Proof.Machine.execHostRestart key t s
  | .mastheadWatchdog flushed => Sys2Proof.Machine.execMastheadWatchdog flushed s
  | .inputLoss volt t => Sys2Proof.Machine.execInputLoss volt t s
  | .holdupFieldsOff t => Sys2Proof.Machine.execHoldupFieldsOff t s
  | .holdupRimOff t => Sys2Proof.Machine.execHoldupRimOff t s
  | .inputDip => Sys2Proof.Machine.execInputDip s
  | .inputLow volt t => Sys2Proof.Machine.execInputLow volt t s
  | .inputHigh volt t => Sys2Proof.Machine.execInputHigh volt t s
  | .avsTrimTick core margin => Sys2Proof.Machine.execAvsTrimTick core margin s
  | .timingNearMiss core => Sys2Proof.Machine.execTimingNearMiss core s
  | .slowCoreTimeout core t => Sys2Proof.Machine.execSlowCoreTimeout core t s
  | .powerPolicyTick i t => Sys2Proof.Machine.execPowerPolicyTick i t s
  | .phaseFailure core phase value t => Sys2Proof.Machine.execPhaseFailure core phase value t s
  | .regulatorFailure core value t => Sys2Proof.Machine.execRegulatorFailure core value t s
  | .coreShort core value t => Sys2Proof.Machine.execCoreShort core value t s
  | .converterFailure k value t => Sys2Proof.Machine.execConverterFailure k value t s
  | .fieldSupplyShort n value t => Sys2Proof.Machine.execFieldSupplyShort n value t s
  | .rimConverterFailure i value t => Sys2Proof.Machine.execRimConverterFailure i value t s
  | .phaseLimitExpire core t => Sys2Proof.Machine.execPhaseLimitExpire core t s
  | .quietWindowGrant n peaks t => Sys2Proof.Machine.execQuietWindowGrant n peaks t s
  | .grantTimeout n t => Sys2Proof.Machine.execGrantTimeout n t s
  | .fieldRampTimeout n value t => Sys2Proof.Machine.execFieldRampTimeout n value t s
  | .coreSensorSample core diode ring t => Sys2Proof.Machine.execCoreSensorSample core diode ring t s
  | .tierSensorSample core tier reading t => Sys2Proof.Machine.execTierSensorSample core tier reading t s
  | .disagreeTimeout core t => Sys2Proof.Machine.execDisagreeTimeout core t s
  | .stage1Release core t => Sys2Proof.Machine.execStage1Release core t s
  | .thermalDemandTick t => Sys2Proof.Machine.execThermalDemandTick t s
  | .thermalTrip n core tier value t => Sys2Proof.Machine.execThermalTrip n core tier value t s
  | .trayPoll r t => Sys2Proof.Machine.execTrayPoll r t s
  | .gatingTick t => Sys2Proof.Machine.execGatingTick t s
  | .strikeRestoreDeadline t => Sys2Proof.Machine.execStrikeRestoreDeadline t s
  | .spareCheckDone n col pass => Sys2Proof.Machine.execSpareCheckDone n col pass s
  | .columnTestDone n pass => Sys2Proof.Machine.execColumnTestDone n pass s
  | .hostFlr f link t => Sys2Proof.Machine.execHostFlr f link t s
  | .hostPerst link => Sys2Proof.Machine.execHostPerst link s
  | .hostLinkDown link => Sys2Proof.Machine.execHostLinkDown link s
  | .hostLinkUp link rate width flit => Sys2Proof.Machine.execHostLinkUp link rate width flit s
  | .msixUnmask f v => Sys2Proof.Machine.execMsixUnmask f v s
  | .coalesceExpire f v => Sys2Proof.Machine.execCoalesceExpire f v s
  | .mbxOutGo f link => Sys2Proof.Machine.execMbxOutGo f link s
  | .mbxTake f => Sys2Proof.Machine.execMbxTake f s
  | .mbxReplyWrite f => Sys2Proof.Machine.execMbxReplyWrite f s
  | .mbxInDone f => Sys2Proof.Machine.execMbxInDone f s
  | .dblStatClear f w => Sys2Proof.Machine.execDblStatClear f w s
  | .dblMaskWrite f w => Sys2Proof.Machine.execDblMaskWrite f w s
  | .info f => Sys2Proof.Machine.execInfo f s
  | .partitionReset p t => Sys2Proof.Machine.execPartitionReset p t s
  | .hoist p byVf t => Sys2Proof.Machine.execHoist p byVf t s
  | .unload p byVf t => Sys2Proof.Machine.execUnload p byVf t s
  | .hoistAbort p byVf t => Sys2Proof.Machine.execHoistAbort p byVf t s
  | .hoistQueueTake p inp t => Sys2Proof.Machine.execHoistQueueTake p inp t s
  | .halyardSegment p seg t => Sys2Proof.Machine.execHalyardSegment p seg t s
  | .unloadDrainLimit p slot t => Sys2Proof.Machine.execUnloadDrainLimit p slot t s
  | .unloadEraseDone p slot t => Sys2Proof.Machine.execUnloadEraseDone p slot t s
  | .getVersion a => Sys2Proof.Machine.execGetVersion a s
  | .getCapabilities a ver => Sys2Proof.Machine.execGetCapabilities a ver s
  | .negotiateAlgorithms a offers => Sys2Proof.Machine.execNegotiateAlgorithms a offers s
  | .getDigests a => Sys2Proof.Machine.execGetDigests a s
  | .getCertificate a slot offset len => Sys2Proof.Machine.execGetCertificate a slot offset len s
  | .challenge a slot transcript => Sys2Proof.Machine.execChallenge a slot transcript s
  | .getMeasurements a index sign transcript => Sys2Proof.Machine.execGetMeasurements a index sign transcript s
  | .keyExchange a slot transcript => Sys2Proof.Machine.execKeyExchange a slot transcript s
  | .finish a id good => Sys2Proof.Machine.execFinish a id good s
  | .endSession a id => Sys2Proof.Machine.execEndSession a id s
  | .heartbeat a id => Sys2Proof.Machine.execHeartbeat a id s
  | .chunkSend a handle seq last => Sys2Proof.Machine.execChunkSend a handle seq last s
  | .chunkGet a seq => Sys2Proof.Machine.execChunkGet a seq s
  | .ideKm id link k op fns => Sys2Proof.Machine.execIdeKm id link k op fns s
  | .keyExch p req => Sys2Proof.Machine.execKeyExch p req s
  | .keyClear p req => Sys2Proof.Machine.execKeyClear p req s
  | .signkey point => Sys2Proof.Machine.execSignkey point s
  | .drbgReseed healthy => Sys2Proof.Machine.execDrbgReseed healthy s
  | .cfgCopyGo copy link => Sys2Proof.Machine.execCfgCopyGo copy link s
  | .cfgCopyDone img progOk => Sys2Proof.Machine.execCfgCopyDone img progOk s
  | .rwpWrite i v => Sys2Proof.Machine.execRwpWrite i v s
  | .rwpRecordProgrammed ok0 ok1 => Sys2Proof.Machine.execRwpRecordProgrammed ok0 ok1 s
  | .fwStage => Sys2Proof.Machine.execFwStage s
  | .fwStageComplete pkg progOk => Sys2Proof.Machine.execFwStageComplete pkg progOk s
  | .fwActivate t => Sys2Proof.Machine.execFwActivate t s
  | .fwActTime t => Sys2Proof.Machine.execFwActTime t s
  | .fcFieldActivate n ends t => Sys2Proof.Machine.execFcFieldActivate n ends t s
  | .fwRigNoticeDeadline t => Sys2Proof.Machine.execFwRigNoticeDeadline t s
  | .fwActivationNotice peer cancel time sig t => Sys2Proof.Machine.execFwActivationNotice peer cancel time sig t s
  | .fwConfirm progOk => Sys2Proof.Machine.execFwConfirm progOk s
  | .fwRevert t => Sys2Proof.Machine.execFwRevert t s
  | .fwAbort t => Sys2Proof.Machine.execFwAbort t s
  | .fwFallback progOk => Sys2Proof.Machine.execFwFallback progOk s
  | .fwMhTrialTimeout t => Sys2Proof.Machine.execFwMhTrialTimeout t s
  | .fcHeartbeatLoss n t => Sys2Proof.Machine.execFcHeartbeatLoss n t s
  | .evrFreeze t => Sys2Proof.Machine.execEvrFreeze t s
  | .evrThaw t => Sys2Proof.Machine.execEvrThaw t s
  | .evrDump => Sys2Proof.Machine.execEvrDump s
  | .evrClear => Sys2Proof.Machine.execEvrClear s
  | .evrFlush t => Sys2Proof.Machine.execEvrFlush t s
  | .evrFreezeLimit t => Sys2Proof.Machine.execEvrFreezeLimit t s
  | .evrPeriodicFlush t => Sys2Proof.Machine.execEvrPeriodicFlush t s
  | .evrFaultFlushSpacing t => Sys2Proof.Machine.execEvrFaultFlushSpacing t s
  | .evrHsrcWrite h w => Sys2Proof.Machine.execEvrHsrcWrite h w s
  | .evrSecondSample t => Sys2Proof.Machine.execEvrSecondSample t s
  | .elogPop l => Sys2Proof.Machine.execElogPop l s
  | .violRecordClear core => Sys2Proof.Machine.execViolRecordClear core s
  | .illRecordClear core => Sys2Proof.Machine.execIllRecordClear core s
  | .mstCtrlWrite w => Sys2Proof.Machine.execMstCtrlWrite w s
  | .thmCtrlWrite w => Sys2Proof.Machine.execThmCtrlWrite w s
  | .badRegisterAccess via => Sys2Proof.Machine.execBadRegisterAccess via s
  | .registerWrite r => Sys2Proof.Machine.execRegisterWrite r s
  | .pldmGetPdr handle => Sys2Proof.Machine.execPldmGetPdr handle s
  | .pldmGetSensorReading x => Sys2Proof.Machine.execPldmGetSensorReading x s
  | .i3cDynamicAddress crow addr => Sys2Proof.Machine.execI3cDynamicAddress crow addr s
  | .ptpMessage i now t => Sys2Proof.Machine.execPtpMessage i now t s
  | .startUpStepDone i t => Sys2Proof.Machine.execStartUpStepDone i t s
  | .sequencerSaveDone core sail => Sys2Proof.Machine.execSequencerSaveDone core sail s
  | .fillCopyDone core => Sys2Proof.Machine.execFillCopyDone core s
  | .pcieConfigWrite link f master sriov numVfs => Sys2Proof.Machine.execPcieConfigWrite link f master sriov numVfs s
  | .mbxOutDataWrite f i v => Sys2Proof.Machine.execMbxOutDataWrite f i v s
  | .holdupStoreCharged => Sys2Proof.Machine.execHoldupStoreCharged s
  | .ethernetLinkDown i => Sys2Proof.Machine.execEthernetLinkDown i s
  | .ethernetLinkUp i => Sys2Proof.Machine.execEthernetLinkUp i s
  | .ethernetFrame i use len => Sys2Proof.Machine.execEthernetFrame i use len s
  | .hostReadTimeout r t => Sys2Proof.Machine.execHostReadTimeout r t s
  | .recorderFlushDone ok0 ok1 t => Sys2Proof.Machine.execRecorderFlushDone ok0 ok1 t s
  | .mhSwitchDone => Sys2Proof.Machine.execMhSwitchDone s
  | .rioActivateDone i => Sys2Proof.Machine.execRioActivateDone i s

end Sys2Proof.Machine
end

