-- ==== Sys2Proof/Machine/Step.lean ====
section
/-! DEFINITION. One step: the command at the front of the queue is carried out; an empty queue idles. -/

namespace Sys2Proof.Machine

/-- The module without the command at the front of its queue. -/
def State.popped (s : State) : State := { s with pending := s.pending.drop 1 }

/-- The block's step. DESIGN CHOICE: on an empty queue nothing happens; time passes only through commands, each with its tick: notes/assumptions/2.md. -/
def step (s : State) : Host.Outcome State Fault Refusal :=
  match s.pending with
  | [] => .next s
  | c :: _ => exec c s.popped

/-- The command that a table word spells put at the front of the queue. -/
def State.withFetchWord (s : State) (nbits w : Nat) : State :=
  match decodeTableWord nbits w with
  | some c => { s with pending := c :: s.pending }
  | none => s

end Sys2Proof.Machine
end

