-- ==== Sys2Proof/WellFormed.lean ====
section
/-! DEFINITION. What a command must satisfy beyond the ranges that its operand types already give. -/

namespace Sys2Proof

/-- `n` bits of a word from bit `lo` up, as a number. -/
def bitsOf {n : Nat} (w : BitVec n) (lo k : Nat) : Nat := (w.toNat >>> lo) % 2 ^ k

/-- Bits 5:0 of a slot word hold the opcode of its row (08 Tables 8.4, 8.7, 8.11 and 8.13). -/
def opIs {n : Nat} (w : BitVec n) (op : Nat) : Bool := bitsOf w 0 6 == op

/-- Byte 0 of a submission holds OP (11 Table 11.2). -/
def subIs (w : BitVec 512) (op : Nat) : Bool := bitsOf w 0 8 == op

/-- A well-formed command: a slot word has its row's opcode and a submission its row's OP; a hop table (07 R175), a frame's flits and a boundary
record (15 Tables 15.4 and 15.6) have a length that the spec admits. -/
def Instr.wf : Instr → Bool
  | .snop _ w => opIs w 0x00
  | .mldw _ w => opIs w 0x01
  | .mmul _ w _ => opIs w 0x02
  | .maccl _ w => opIs w 0x03
  | .sdist _ w _ => opIs w 0x04
  | .smax _ w => opIs w 0x05
  | .smin _ w => opIs w 0x06
  | .srank _ w => opIs w 0x07
  | .sthr _ w => opIs w 0x08
  | .vnop _ w => opIs w 0x00
  | .vadd _ w => opIs w 0x01
  | .vsub _ w => opIs w 0x02
  | .vmul _ w => opIs w 0x03
  | .vfma _ w => opIs w 0x04
  | .vmin _ w => opIs w 0x05
  | .vmax _ w => opIs w 0x06
  | .vcmp _ w => opIs w 0x07
  | .vsel _ w => opIs w 0x08
  | .vcvt _ w => opIs w 0x09
  | .vexp _ w => opIs w 0x0A
  | .vlog _ w => opIs w 0x0B
  | .vrcp _ w => opIs w 0x0C
  | .vrsq _ w => opIs w 0x0D
  | .vsqrt _ w => opIs w 0x0E
  | .vrsum _ w => opIs w 0x0F
  | .vrmax _ w => opIs w 0x10
  | .vrmin _ w => opIs w 0x11
  | .vld _ w => opIs w 0x12
  | .vst _ w => opIs w 0x13
  | .vdrn _ w => opIs w 0x14
  | .vsca _ w => opIs w 0x15
  | .vkey _ w => opIs w 0x16
  | .vmask _ w => opIs w 0x17
  | .vsmpRng _ w => opIs w 0x18 && bitsOf w 26 5 == 0
  | .vsmpTemp _ w => opIs w 0x18 && bitsOf w 26 5 == 1
  | .vsmpTopk _ w => opIs w 0x18 && bitsOf w 26 5 == 2
  | .vsmpTopp _ w => opIs w 0x18 && bitsOf w 26 5 == 3
  | .vsmpAmask _ w => opIs w 0x18 && bitsOf w 26 5 == 4
  | .vsmpDraw _ w => opIs w 0x18 && bitsOf w 26 5 == 5
  | .vsmpAccept _ w => opIs w 0x18 && bitsOf w 26 5 == 6
  | .vsmpCommit _ w => opIs w.val 0x18 && bitsOf w.val 26 5 == 7
  | .mnop _ w => opIs w 0x00
  | .mrd _ w => opIs w 0x01
  | .mwr _ w => opIs w 0x02
  | .msend _ w => opIs w 0x03
  | .mfill _ w => opIs w 0x04
  | .mcopy _ w => opIs w 0x05
  | .rsend _ w => opIs w 0x06
  | .merge _ w => opIs w 0x07
  | .mrel _ w => opIs w 0x08
  | .kvapq _ w => opIs w 0x09
  | .xdisp _ w => opIs w 0x0A
  | .cnop _ w => opIs w 0x00
  | .sli _ w => opIs w 0x01
  | .slih _ w => opIs w 0x02
  | .sadd _ w => opIs w 0x03
  | .ssub _ w => opIs w 0x04
  | .smul _ w => opIs w 0x05
  | .sand _ w => opIs w 0x06
  | .sor _ w => opIs w 0x07
  | .sxor _ w => opIs w 0x08
  | .sshl _ w => opIs w 0x09
  | .sshr _ w => opIs w 0x0A
  | .slds _ w => opIs w 0x0B
  | .ssts _ w => opIs w 0x0C
  | .br _ w => opIs w 0x0D
  | .jmp _ w => opIs w 0x0E
  | .loop _ w => opIs w 0x0F
  | .waitc _ w => opIs w 0x10
  | .seqadv _ w => opIs w 0x11
  | .hand _ w => opIs w 0x12
  | .hset _ w => opIs w 0x13
  | .vpat _ w => opIs w 0x14
  | .phase _ w => opIs w 0x15
  | .escm _ w => opIs w 0x16
  | .refw _ w _ => opIs w 0x17
  | .svcw _ w => opIs w 0x18
  | .wstep _ w => opIs w 0x19
  | .hopTableLoad _ t => decide (1 ≤ t.length) && decide (t.length ≤ 256)
  | .sheetTensorFrame _ _ _ fl => decide (1 ≤ fl.length) && decide (fl.length ≤ 64)
  | .sheetEndStampFrame _ _ recs => decide (recs.length ≤ 4096)
  | .openReq _ _ sub _ _ => subIs sub 1
  | .continueReq _ _ sub _ _ => subIs sub 2
  | .cancelReq _ _ sub _ => subIs sub 3
  | .closeReq _ _ sub _ => subIs sub 4
  | .parkReq _ _ sub _ => subIs sub 5
  | .tileLoadDone .. | .mastRowLand .. | .mastWriteAck .. | .kvapqAck .. | .outsideMastAccess .. | .meshFlitArrive .. | .deliveryCreditReturn ..
  | .vc0MessageDeliver .. | .reductionFlitArrive .. | .reductionAddDone .. | .mergeRequestArrive .. | .mergeEntryClose .. | .rowNormCheck ..
  | .escalationPassEnd .. | .escalationRestoreDone .. | .overflowDispatchDone .. | .overflowRoutineDone .. | .luffStallBegin .. | .luffItemEnd ..
  | .luffLineDrop .. | .luffTimeout .. | .stepEndBoundary .. | .stepStartBoundary .. | .idleBoundary .. | .imageCurrentWindow ..
  | .refreshDebtTick .. | .refreshCatchup .. | .hotOffDwellExpire .. | .tlbMap .. | .tlbUnmap .. | .tlbRelease .. | .tlbRebuild .. | .pageInit ..
  | .columnCopyDone .. | .seamLaneLockLoss .. | .seamErrorWindow .. | .seamRetrainDone .. | .fixedHopEnter .. | .fixedHopDrainDone ..
  | .fixedHopDrainTimeout .. | .fixedHopStartTick .. | .fixedHopExitTick .. | .sheetCreditFrame .. | .sheetGateFrame .. | .sheetNoticeFrame ..
  | .sheetIdentFrame .. | .sheetTimeFrame .. | .sheetWaitArm .. | .gateDueArm .. | .sheetPortLinkUp .. | .sheetPortLinkDown ..
  | .cablingVerdictTimeout .. | .timeExchangeTick .. | .timeHoldTimeout .. | .sliceStampLate .. | .sliceLossTimeout .. | .stampWaitTimeout ..
  | .sqDoorbell .. | .completionRecordWrite .. | .cqHeadWrite .. | .sqCfgWrite .. | .cqCfgWrite .. | .parkPageWriteDone .. | .unparkPageArrive ..
  | .stayLinkDown .. | .stayLinkUp .. | .stayRequestTimeout .. | .outputQueueToken .. | .streamRecordWrite .. | .srHeadWrite .. | .srCfgWrite ..
  | .stmFlushGo .. | .ringReadGo .. | .ringReadDone .. | .stopSetLoad .. | .autoLoad .. | .tallyStartSend .. | .tallyMarkSend ..
  | .meterTallyStart .. | .meterTallyTokens .. | .meterTallyMark .. | .meterTallyClose .. | .meterInputLoss .. | .meterPowerUp ..
  | .meterIntervalEnd .. | .meterSealEvent .. | .cnmFetchGo .. | .cnmIntervalWrite .. | .clkStepReqWrite .. | .glideEnd .. | .cornerLockLoss ..
  | .fieldRelock .. | .relockTimeout .. | .fieldLockTimeout .. | .refOscCheck .. | .refHoldTimeout .. | .timeBaseSync .. | .clkTbSetGo ..
  | .clkTbLoRead .. | .slewDone .. | .hostSwalWrite .. | .inputValid .. | .pinReset .. | .hostRestart .. | .mastheadWatchdog .. | .inputLoss ..
  | .holdupFieldsOff .. | .holdupRimOff .. | .inputDip .. | .inputLow .. | .inputHigh .. | .avsTrimTick .. | .timingNearMiss .. | .slowCoreTimeout ..
  | .powerPolicyTick .. | .phaseFailure .. | .regulatorFailure .. | .coreShort .. | .converterFailure .. | .fieldSupplyShort ..
  | .rimConverterFailure .. | .phaseLimitExpire .. | .quietWindowGrant .. | .grantTimeout .. | .fieldRampTimeout .. | .coreSensorSample ..
  | .tierSensorSample .. | .disagreeTimeout .. | .stage1Release .. | .thermalDemandTick .. | .thermalTrip .. | .trayPoll .. | .gatingTick ..
  | .strikeRestoreDeadline .. | .spareCheckDone .. | .columnTestDone .. | .hostFlr .. | .hostPerst .. | .hostLinkDown .. | .hostLinkUp ..
  | .msixUnmask .. | .coalesceExpire .. | .mbxOutGo .. | .mbxTake .. | .mbxReplyWrite .. | .mbxInDone .. | .dblStatClear .. | .dblMaskWrite ..
  | .info .. | .partitionReset .. | .hoist .. | .unload .. | .hoistAbort .. | .hoistQueueTake .. | .halyardSegment .. | .unloadDrainLimit ..
  | .unloadEraseDone .. | .getVersion .. | .getCapabilities .. | .negotiateAlgorithms .. | .getDigests .. | .getCertificate .. | .challenge ..
  | .getMeasurements .. | .keyExchange .. | .finish .. | .endSession .. | .heartbeat .. | .chunkSend .. | .chunkGet .. | .ideKm .. | .keyExch ..
  | .keyClear .. | .signkey .. | .drbgReseed .. | .cfgCopyGo .. | .cfgCopyDone .. | .rwpWrite .. | .rwpRecordProgrammed .. | .fwStage ..
  | .fwStageComplete .. | .fwActivate .. | .fwActTime .. | .fcFieldActivate .. | .fwRigNoticeDeadline .. | .fwActivationNotice .. | .fwConfirm ..
  | .fwRevert .. | .fwAbort .. | .fwFallback .. | .fwMhTrialTimeout .. | .fcHeartbeatLoss .. | .evrFreeze .. | .evrThaw .. | .evrDump ..
  | .evrClear .. | .evrFlush .. | .evrFreezeLimit .. | .evrPeriodicFlush .. | .evrFaultFlushSpacing .. | .evrHsrcWrite .. | .evrSecondSample ..
  | .elogPop .. | .violRecordClear .. | .illRecordClear .. | .mstCtrlWrite .. | .thmCtrlWrite .. | .badRegisterAccess .. | .registerWrite ..
  | .pldmGetPdr .. | .pldmGetSensorReading .. | .i3cDynamicAddress .. | .ptpMessage .. | .startUpStepDone .. | .sequencerSaveDone ..
  | .fillCopyDone .. | .pcieConfigWrite .. | .mbxOutDataWrite .. | .holdupStoreCharged .. | .ethernetLinkDown .. | .ethernetLinkUp ..
  | .ethernetFrame .. | .hostReadTimeout .. | .recorderFlushDone .. | .mhSwitchDone .. | .rioActivateDone .. => true

end Sys2Proof
end

