-- ==== Sys2Proof/Safety.lean ====
section
/-! DEFINITION. What the claims are stated in: completion, frames and the invariants of the block. -/

namespace Sys2Proof.Machine

/-- A command completes in a next state of which `P` holds. -/
def Does (c : Instr) (s : State) (P : State → Prop) : Prop := ∃ t, exec c s = .next t ∧ P t

/-- A log within its bounds: at most 64 records, LOST within its byte (06 R152). -/
def ELog.ok (l : ELog) : Bool := decide (l.recs.length ≤ 64) && decide (l.lost ≤ 255)

/-- Every log of the module within its bounds: the mast block's, the fabric block's, the stay ports', the sheet ports', power's, heat's, and each partition's fault log. -/
def State.logsOk (s : State) : Bool :=
  s.mst.log.ok && s.fab.log.ok && s.stay.log.ok && s.sheet.log.ok && s.sys.pwr.log.ok && s.sys.thm.log.ok && s.parts.all (fun e => e.2.flog.ok)

/-- The memories of a core in their canonical form. -/
def Core.memsOk (c : Core) : Bool := Memory.wf c.pad && Memory.wf c.bundles && Memory.wf c.mast.data

/-- The memories of every core in their canonical form. -/
def State.memsOk (s : State) : Bool := s.cores.all (fun e => e.2.memsOk)

/-- What the factory fixes, and no command changes (00 R6, ROF; 22 R504). -/
def State.factory (s : State) : Dword × Nat × List Nat × Nat × Nat := (s.serial, s.grade, s.sys.lmap, s.sys.gapH, s.sys.gapV)

/-! ### What a slot instruction leaves alone (02 R39, 08 R182) -/

/-- A scalar register, after every write so far. -/
def Ctx.sAt (x : Ctx) (r : Nat) : SReg := x.s.toList.getD r {}

/-- A vector register, after every write so far. -/
def Ctx.vAt (x : Ctx) (r : Nat) : VReg := x.v.toList.getD r {}

/-- Of a context, only its registers with their timing, its program counter, its next cycle, its loops and the state of the bundle being issued may differ. -/
def Ctx.onlyRegs (x y : Ctx) : Prop :=
  { y with pc := x.pc, s := x.s, v := x.v, oldS := x.oldS, oldV := x.oldV, busyS := x.busyS, busyV := x.busyV, ready := x.ready, loops := x.loops, bun := x.bun, dead := x.dead } = x

/-- Of a core, only its contexts, its tracker and its two counts of waits and of entries may differ. -/
def Core.onlyCtx (c d : Core) : Prop :=
  { d with ctx := c.ctx, tracks := c.tracks, nextTrk := c.nextTrk, stat := { d.stat with vwait := c.stat.vwait, trkHwm := c.stat.trkHwm } } = c

/-- Of a core, its scratchpad, its telltales, what the fc has emptied of them and the writes on their way to them may differ as well. -/
def Core.onlyPad (c d : Core) : Prop := Core.onlyCtx c { d with pad := c.pad, tells := c.tells, taken := c.taken, late := c.late, accNo := c.accNo }

/-- Of the partitions, only a group's cycle count may differ. -/
def onlyCyc (s t : State) : Prop := ∀ p, { t.part p with grp := { t.grp p with cyc := (s.grp p).cyc } } = s.part p

/-- Of the whole module, only the core and the partitions may differ. -/
def onlyCore (m : Nat) (s t : State) : Prop := { t with cores := s.cores, parts := s.parts } = s ∧ ∀ j, j ≠ m → t.core j = s.core j

/-- A register instruction of one context: nothing else of the module differs. -/
def regFrame (q : Issue) (s t : State) : Prop :=
  onlyCore q.core s t ∧ onlyCyc s t ∧ Core.onlyCtx (s.core q.core) (t.core q.core) ∧
  (∀ j, j ≠ q.ctx.val → (t.core q.core).tc j = (s.core q.core).tc j) ∧ Ctx.onlyRegs ((s.core q.core).tc q.ctx) ((t.core q.core).tc q.ctx)

/-- A slot instruction issues in fc `k`, in a bundle that the tracker takes (02 R41, R45, 08 R181, R182). `s` is the module as an access made in fc `k` finds it: `s0` with
what every earlier access of the core has done by then (05 R99). -/
def issuesAt (s0 : State) (q : Issue) (vec : Bool) (rs vs : List Nat) (k : Nat) (s : State) : Prop :=
  issueCycle s0 q vec rs vs = some k ∧ s = s0.settle q.core k ∧
  match ((s.core q.core).tc q.ctx).bun with
  | some _ => ((s.core q.core).tc q.ctx).dead = false
  | none => (s.core q.core).bundleFits q.ctx k = true

/-- The context writes scalar register `d`, and nothing else differs. -/
def writesS (q : Issue) (d : Nat) (v : SReg) (s t : State) : Prop :=
  let x := (s.core q.core).tc q.ctx
  let y := (t.core q.core).tc q.ctx
  y.sAt d = v ∧ (∀ r, r ≠ d → y.sAt r = x.sAt r) ∧ (∀ r, y.vAt r = x.vAt r) ∧ regFrame q s t

/-- The context writes vector register `d`, and nothing else differs. -/
def writesV (q : Issue) (d : Nat) (v : VReg) (s t : State) : Prop :=
  let x := (s.core q.core).tc q.ctx
  let y := (t.core q.core).tc q.ctx
  y.vAt d = v ∧ (∀ r, r ≠ d → y.vAt r = x.vAt r) ∧ (∀ r, y.sAt r = x.sAt r) ∧ regFrame q s t

/-- The context writes no register: it moves on. -/
def writesNone (q : Issue) (s t : State) : Prop :=
  let x := (s.core q.core).tc q.ctx
  let y := (t.core q.core).tc q.ctx
  (∀ r, y.sAt r = x.sAt r) ∧ (∀ r, y.vAt r = x.vAt r) ∧ regFrame q s t

/-- The registers that a two-operand scalar instruction waits for. -/
def scalarRegs (w : BitVec 48) : List Nat := [cSd w, cSa w] ++ (if cIf w then [] else [cSb w])

/-- The vector and scalar registers that a lane instruction waits for (08 R193). -/
def laneSregs (w : BitVec 44) : List Nat := if vBs w then [vB w] else []

def laneVregs (w : BitVec 44) (useC : Bool) : List Nat := [vD w, vA w] ++ (if vBs w then [] else [vB w]) ++ (if useC then [vC w] else [])

/-- An instruction of one context that reads or writes scratchpad: nothing else of the module differs. -/
def padFrame (q : Issue) (s t : State) : Prop :=
  onlyCore q.core s t ∧ onlyCyc s t ∧ Core.onlyPad (s.core q.core) (t.core q.core) ∧
  (∀ j, j ≠ q.ctx.val → (t.core q.core).tc j = (s.core q.core).tc j) ∧ Ctx.onlyRegs ((s.core q.core).tc q.ctx) ((t.core q.core).tc q.ctx)

/-- A scratchpad read that meets no violation (Table 5.6): the block resolves to byte `a`, and each of the slots of the `len` bytes from `a` is FULL or HELD with tag `x` as the fc
found it (R110). -/
def readsWell (q : Issue) (s : State) (o : Spo) (len a : Nat) : Prop :=
  let c := s.core q.core
  (∃ ph, c.resolve q.ctx o.handle o.byte len false (b2n o.take) = .ok (ph, a)) ∧
  ∀ j, a / 64 ≤ j → j ≤ (a + len - 1) / 64 → ((c.seenTell j).st = .full ∨ (c.seenTell j).st = .held) ∧ (c.seenTell j).tag = tagOf (c.tc q.ctx).seq o.tag

/-- The telltale of a slot after a read of it: TAKE empties a slot that the fc found FULL (Table 5.6); one that the fc has emptied already is as before (R110). -/
def Core.readTell (c : Core) (take : Bool) (j : Nat) : Tell :=
  if take ∧ (c.seenTell j).st = .full ∧ (AMap.find c.taken j).isNone then { c.tell j with st := .empty } else c.tell j

/-- The scratchpad bytes stay; the telltales of the slots read are as `readTell` says, every other as before; to the reads of the fc every slot still is as the fc found it (R110). -/
def readsPad (q : Issue) (o : Spo) (len a : Nat) (s t : State) : Prop :=
  (t.core q.core).pad = (s.core q.core).pad ∧ (∀ j, (t.core q.core).seenTell j = (s.core q.core).seenTell j) ∧
  ∀ j, (t.core q.core).tell j = if a / 64 ≤ j ∧ j ≤ (a + len - 1) / 64 then (s.core q.core).readTell o.take j else (s.core q.core).tell j

/-- A scratchpad write whose operand is good (05 R104): the block resolves to physical handle `ph` and byte `a`. -/
def writesWell (q : Issue) (s : State) (o : Spo) (n ph a : Nat) : Prop :=
  (s.core q.core).resolve q.ctx o.handle o.byte (64 * n) true o.mode = .ok (ph, a)

/-- The `n` slots from `a`'s hold the number `d`, least significant byte first, with the telltale `x`; every other byte and telltale of the core is as before. -/
def writesPad (q : Issue) (n a d : Nat) (x : Tell) (s t : State) : Prop :=
  (∀ b, Memory.read (t.core q.core).pad b =
    if 64 * (a / 64) ≤ b ∧ b < 64 * (a / 64) + 64 * n then BitVec.ofNat 8 (d >>> (8 * (b - 64 * (a / 64)))) else Memory.read (s.core q.core).pad b) ∧
  ∀ j, (t.core q.core).tell j = if a / 64 ≤ j ∧ j < a / 64 + n then x else (s.core q.core).tell j

/-- The telltale that a write leaves (Table 5.6). -/
def tellOf (q : Issue) (s : State) (o : Spo) (poison : Bool) : Tell :=
  ⟨if poison then .poison else if o.hold then .held else .full, tagOf ((s.core q.core).tc q.ctx).seq o.tag⟩

/-- A write of `n` slots made from fc `k` on, `step` fc apart, in place `ord` of Table 5.2 (05 R99, R100, R102): no byte and no telltale has changed yet, and the slots' writes are on their way. Where no other
access of the core is, the scratchpad is in its canonical form and every slot is EMPTY and under no fence, every access made after the last of them finds the slots written,
and nothing else of the scratchpad changed. -/
def writesLater (q : Issue) (ord : Nat) (o : Spo) (n ph a d : Nat) (poison : Bool) (step k : Nat) (s t : State) : Prop :=
  let c := s.core q.core
  (t.core q.core).pad = c.pad ∧ (t.core q.core).tells = c.tells ∧ (t.core q.core).accNo = c.accNo + 1 ∧
  (t.core q.core).late = (queueWrites q.ctx ord c.accNo ph (tagOf (c.tc q.ctx).seq o.tag) o.hold poison step n (a / 64) d k c).late ∧
  (c.late = [] → Memory.wf c.pad = true → (∀ j, a / 64 ≤ j → j < a / 64 + n → (c.tell j).st = .empty ∧ c.fenced j = false) →
    ∀ u, k + step * n < u → writesPad q n a d (tellOf q s o poison) s (t.settle q.core u))

/-- A slot instruction whose core differs as `C` says: nothing else of the module differs, and no other context. -/
def slotFrame (q : Issue) (C : Core → Core → Prop) (s t : State) : Prop :=
  onlyCore q.core s t ∧ onlyCyc s t ∧ C (s.core q.core) (t.core q.core) ∧ ∀ j, j ≠ q.ctx.val → (t.core q.core).tc j = (s.core q.core).tc j

/-- Of a core, its scratchpad, its telltales and one sail may differ besides its contexts. -/
def Core.onlySail (i : Nat) (c d : Core) : Prop :=
  Core.onlyPad c { d with sails := c.sails } ∧ ∀ j, j ≠ i → d.sail j = c.sail j

/-- A further tracker entry fits the context's quota in cycle `k` (02 R45). -/
def hasRoom (q : Issue) (s : State) (k : Nat) : Prop :=
  (((s.core q.core).pruneTrk k).tracks.filter (fun e => e.ctx == q.ctx.val)).length < ((s.core q.core).tc q.ctx).quota

/-- The entry has been taken, behind those still held in cycle `k` (02 R44). -/
def tookEntry (q : Issue) (kind : TrackKind) (left : Nat) (due : Option Nat) (k : Nat) (s t : State) : Prop :=
  (t.core q.core).tracks = ((s.core q.core).pruneTrk k).tracks ++
    [{ id := (s.core q.core).nextTrk, ctx := q.ctx, kind := kind, left := left, due := due }]

/-- A sail-slot word that is legal and whose sail the context owns (02 R40, 08 R188). -/
def sailLegal (q : Issue) (w : BitVec 80) (resv : List (Nat × Nat)) (s : State) : Prop :=
  sailOf w < s.rigSails q.core ∧ (∀ r ∈ resv, bitsN w r.1 r.2 = 0) ∧ ((s.core q.core).sail (sailOf w)).owner = q.ctx.val

/-- The registers of the context, all but scalar `d` and vector `e`, are as before. -/
def keepsRegs (q : Issue) (d e : Option Nat) (s t : State) : Prop :=
  (∀ r, d ≠ some r → ((t.core q.core).tc q.ctx).sAt r = ((s.core q.core).tc q.ctx).sAt r) ∧
  ∀ r, e ≠ some r → ((t.core q.core).tc q.ctx).vAt r = ((s.core q.core).tc q.ctx).vAt r

/-- The descriptor that an MMUL reads (03 Table 3.6). -/
def mmDescriptor (q : Issue) (w : BitVec 80) (s : State) : BitVec 128 :=
  BitVec.ofNat 128 ((s.core q.core).readRes q.ctx (mmQhnd w) (16 * bitsN w 56 11) 16).data

/-- Where a context stands after bundle `pc`, with the LOOPs that are running: each that ends here with no pass left is over; one that ends here with passes left turns back;
else the next bundle follows (08 R180, R204). -/
def afterBody (pc : BitVec 13) (ls : List LoopRec) : BitVec 13 × List LoopRec :=
  match ls.dropWhile (fun l => l.last == pc && l.left == 0) with
  | [] => (pc + 1#13, [])
  | l :: r => if l.last = pc then (l.first, { l with left := l.left - 1 } :: r) else (pc + 1#13, l :: r)

/-- Nothing of a core is on its way: no slot access, no hand-over. -/
def Core.still (c : Core) : Prop := c.late = [] ∧ ∀ i, (c.sail i).hand = none

/-! ### What an event leaves alone -/

/-- Only one core may differ in the module, as `C` says. -/
def onlyOneCore (m : Nat) (C : Core → Core → Prop) (s t : State) : Prop :=
  { t with cores := s.cores } = s ∧ (∀ j, j ≠ m → t.core j = s.core j) ∧ C (s.core m) (t.core m)

/-- Only one group may differ in the module. -/
def onlyGroup (p : Nat) (s t : State) : Prop :=
  { t with parts := s.parts } = s ∧ (∀ j, j ≠ p → t.part j = s.part j) ∧ { t.part p with grp := s.grp p } = s.part p

/-- Only one field may differ in the module. -/
def onlyField (n : Nat) (s t : State) : Prop :=
  { t with fab := { t.fab with fields := s.fab.fields } } = s ∧ ∀ j, j ≠ n → t.field j = s.field j

/-- Only one partition may differ in the module, besides the time base. -/
def onlyPart (p : Nat) (s t : State) : Prop := { t with tb := s.tb, parts := s.parts } = s ∧ ∀ j, j ≠ p → t.part j = s.part j

/-- Only one partition's part of the request and stream engines may differ. -/
def onlyReq (p : Nat) (s t : State) : Prop := { t with parts := s.parts } = s ∧ (∀ j, j ≠ p → t.part j = s.part j) ∧ { t.part p with req := s.req p } = s.part p

/-- Only the settings block of the module may differ: clocks, power, heat, meter, configuration, firmware, recorder, security, pins. -/
def onlySys (s t : State) : Prop := { t with sys := s.sys } = s

/-- Only the host interface may differ. -/
def onlyHost (s t : State) : Prop := { t with host := s.host } = s

/-- What a message that leaves the module adds, oldest first, is `x` and then whatever else the command sends. -/
def sends (x : Sent) (s t : State) : Prop := ∃ l, t.host.out = s.host.out ++ x :: l

/-- LOST_MASK of a slice that is lost through rank r: that rank, and every other whose time has passed too (15 R365, R366, Table 15.16). -/
def lostMaskOf (s : State) (p r : Nat) : Nat :=
  ((otherRanks (s.slice p)).filter (fun k => k == r || lossPassed s p s.tb.toNat k || stampPassed s p s.tb.toNat k (1000000 * s.sheet.stampMs))).foldl (fun a k => a + 2 ^ k) 0

/-! ### Submissions and rings (11, 12) -/

/-- The engine takes the submission at the head of queue `q` and accepts it: all checks of Table 11.4 pass, and the prompt was read, its counter and tag good where the entry is bound (21 R481). -/
def acceptsSub (s : State) (p q op : Nat) (w : BitVec 512) (prompt : Option (List Word)) (t : Dword) : Prop :=
  let s1 := takeSub (s.atTick t) p q
  canTake s p q = true ∧ firstCause (acceptanceChecks s1 p op w t.toNat) = none ∧
  (op ≤ 2 → ∃ b, prompt = some b ∧ ∀ k, boundSlot s1 p op w = some k → let x := AMap.at (s1.secPart p).slots {} k
    x.cLast < (openPrompt x.key (sbEntry w) op (sbCnt w) b).1 ∧ (openPrompt x.key (sbEntry w) op (sbCnt w) b).2.isSome = true)

/-- A submission has left queue `q`; no other queue, no entry but `e`, no core and no message in the mesh differs. -/
def subFrame (p q e : Nat) (s t : State) : Prop :=
  (let x := AMap.at (s.req p).sqs {} q; AMap.at (t.req p).sqs {} q = { x with head := (x.head + 1) % 2 ^ x.size }) ∧
  (∀ j, j ≠ q → AMap.at (t.req p).sqs {} j = AMap.at (s.req p).sqs {} j) ∧ (∀ j, j ≠ e → t.ent j = s.ent j) ∧ (∀ j, j ≠ p → t.part j = s.part j) ∧
  t.cores = s.cores ∧ t.fab = s.fab ∧ t.sheet = s.sheet

/-- A size field that is in range. -/
def inSize (lo hi : Nat) : Option Nat → Bool
  | some k => decide (lo ≤ k) && decide (k ≤ hi)
  | none => false

/-- A ring of the module's own after a write of its base, size and enable (R285, R302): while it is enabled, base and size keep; else a write of either starts it afresh. -/
def ringSet (lo hi : Nat) (x y : OutRing) (base : Option Dword) (size : Option Nat) (en : Option Bool) : Prop :=
  y.en = en.getD x.en ∧
  (x.en = true → { y with en := true } = x) ∧
  (x.en = false → y.base = base.getD x.base ∧ y.size = (if inSize lo hi size then size.getD x.size else x.size) ∧
    (if base.isSome || inSize lo hi size then y.tail = 0 ∧ y.head = 0 ∧ y.phase = true else y.tail = x.tail ∧ y.head = x.head ∧ y.phase = x.phase))

end Sys2Proof.Machine
end

