-- ==== Sys2Proof/Certificates/Slice0/Obligations.lean ====
section
/-! DEFINITION. The statements for the provers. -/

open Sys2Proof Sys2Proof.Machine

/-- O1. A step carries out the command at the front of the queue, on the module with the rest of the queue; on an empty queue the module idles (DESIGN CHOICE: log entry 2). -/
def Obligations.StepRunsFrontCommand : Prop :=
  (∀ (c : Instr) (r : List Instr) (s : State), step { s with pending := c :: r } = exec c { s with pending := r }) ∧
  ∀ s : State, s.pending = [] → step s = .next s

/-- O2. E8M0 scales (03 R54) and FJT2 elements (03 R59): the exact value of every code. -/
def Obligations.FormatElements : Prop :=
  (∀ c : Byte, decE8M0 c.toNat = if c = 0xFF#8 then .nan else .fin false 1 ((c.toNat : Int) - 127)) ∧
  ∀ c : BitVec 2, (c = 0b00#2 → decElem 9 c.toNat = .fin false 0 0) ∧ (c = 0b01#2 → decElem 9 c.toNat = .fin false 1 0) ∧
    (c = 0b11#2 → decElem 9 c.toNat = .fin true 1 0) ∧ (c = 0b10#2 → decElem 9 c.toNat = .fin false 0 0)

/-- O3. The scalar operations of 08 R204: s[SD] becomes the operation of s[SA] and operand B, poison where an operand is poison, and nothing else of the
module changes but the context's place. SLI and SLIH: the sign-extended immediate, or the immediate in the upper half. -/
def Obligations.ScalarAluResults : Prop :=
  (∀ (q : Issue) (w : BitVec 48) (s0 s : State) (k : Nat), issuesAt s0 q false (scalarRegs w) [] k s →
    let a := ((s.core q.core).tc q.ctx).rdS (cSa w)
    let b := operandSb ((s.core q.core).tc q.ctx) w
    let r := fun (v : Dword) => writesS q (cSd w) (if a.poison || b.poison then poisonS else ⟨v, false⟩) s
    Does (.sadd q w) s0 (r (a.val + b.val)) ∧
    Does (.ssub q w) s0 (r (a.val - b.val)) ∧
    Does (.smul q w) s0 (r (a.val * b.val)) ∧
    Does (.sand q w) s0 (r (a.val &&& b.val)) ∧
    Does (.sor q w) s0 (r (a.val ||| b.val)) ∧
    Does (.sxor q w) s0 (r (a.val ^^^ b.val)) ∧
    Does (.sshl q w) s0 (r (a.val <<< (b.val.toNat % 64))) ∧
    Does (.sshr q w) s0 (r (a.val >>> (b.val.toNat % 64)))) ∧
  ∀ (q : Issue) (w : BitVec 48) (s0 s : State) (k : Nat), issuesAt s0 q false [cSd w] [] k s → bitsN w 11 5 = 0 →
    let d := ((s.core q.core).tc q.ctx).rdS (cSd w)
    let imm : BitVec 32 := w.extractLsb' 16 32
    Does (.sli q w) s0 (writesS q (cSd w) ⟨imm.signExtend 64, false⟩ s) ∧
    Does (.slih q w) s0 (writesS q (cSd w) (if d.poison then poisonS else ⟨imm ++ d.val.setWidth 32, false⟩) s)

/-- O4. SLDS and SSTS (08 R204, 05 R99, Table 5.6): a 64-bit half of a 16-byte unit into s[SD]; a write on its way of s[SD] into the low 8 bytes of a slot whose other bytes
are zero. -/
def Obligations.ScalarScratchpad : Prop :=
  ∀ (q : Issue) (w : BitVec 48) (s0 s : State) (k ph a : Nat), issuesAt s0 q false [cSd w] [] k s →
    let o := spoAt w 11
    (bitsN w 36 12 = 0 → o.reads = true → readsWell q s o 16 a →
      Does (.slds q w) s0 (fun t =>
        ((t.core q.core).tc q.ctx).sAt (cSd w) =
          ⟨BitVec.ofNat 64 (Memory.readN (s.core q.core).pad (if bitAt w 35 then a + 8 else a) 8), false⟩ ∧
        keepsRegs q (some (cSd w)) none s t ∧ readsPad q o 16 a s t ∧ padFrame q s t)) ∧
    (bitsN w 35 13 = 0 → o.writes = true → o.ofs % 4 = 0 → writesWell q s o 1 ph a →
      Does (.ssts q w) s0 (fun t =>
        let r := ((s.core q.core).tc q.ctx).rdS (cSd w)
        writesLater q 5 o 1 ph a r.val.toNat r.poison 0 k s t ∧ keepsRegs q none none s t ∧ padFrame q s t))

/-- O5. The empty operations (08 R179): no register, no memory and no flag of the core differs; CNOP ends the bundle. SEQADV and WSTEP (05 R108, 08 R206): SEQ advances,
0x01 following 0xFF; the context's step ends. -/
def Obligations.EmptyOperationsAndMarkers : Prop :=
  (∀ (q : Issue) (s0 s : State) (k : Nat) (w : BitVec 80) (v : BitVec 44) (c : BitVec 48),
    (issuesAt s0 q false [] [] k s → Does (.snop q w) s0 (writesNone q s) ∧ Does (.mnop q w) s0 (writesNone q s)) ∧
    (issuesAt s0 q true [] [] k s → Does (.vnop q v) s0 (writesNone q s)) ∧
    (issuesAt s0 q false [] [] k s → bitsN c 6 42 = 0 → Does (.cnop q c) s0 (fun t => writesNone q s t ∧
      let x := (s.core q.core).tc q.ctx
      let y := (t.core q.core).tc q.ctx
      (y.pc, y.loops) = afterBody x.pc x.loops ∧ y.ready = max x.ready (k + 1) ∧ y.bun = none))) ∧
  ∀ (q : Issue) (w : BitVec 48) (s0 s : State) (k : Nat), issuesAt s0 q false [] [] k s → bitsN w 6 42 = 0 →
    let x := (s.core q.core).tc q.ctx
    Does (.seqadv q w) s0 (fun t =>
      let y := (t.core q.core).tc q.ctx
      y.seq = (if x.seq = 0xFF#8 then 0x01#8 else x.seq + 1#8) ∧ keepsRegs q none none s t ∧ slotFrame q Core.onlyCtx s t ∧
      Ctx.onlyRegs x { y with seq := x.seq }) ∧
    Does (.wstep q w) s0 (fun t =>
      let y := (t.core q.core).tc q.ctx
      y.ended = true ∧ y.loops = [] ∧ keepsRegs q none none s t ∧ slotFrame q Core.onlyCtx s t ∧ Ctx.onlyRegs x { y with ended := x.ended })

/-- O6. Branches, loops and waits (08 R183, R204, R206): where the context goes next and when. At the last bundle of a LOOP body the context turns back while passes are
left; a LOOP that is done is over, and an outer one that ends at the same bundle has its turn; a LOOP of no passes goes on as from its END. -/
def Obligations.BranchesAndLoops : Prop :=
  ∀ (q : Issue) (w : BitVec 48) (s0 s : State) (k : Nat),
    let x := (s.core q.core).tc q.ctx
    let y := fun (t : State) => (t.core q.core).tc q.ctx
    let a := (x.rdS (bitsN w 6 5)).val
    let goes := fun (t : State) (z : BitVec 13 × List LoopRec) (u : Nat) => writesNone q s t ∧ ((y t).pc, (y t).loops) = z ∧ (y t).ready = max x.ready u ∧ (y t).bun = none
    let onward := afterBody x.pc x.loops
    (issuesAt s0 q false [bitsN w 6 5] [] k s → bitsN w 26 22 = 0 →
      Does (.br q w) s0 (fun t => goes t
        (if (bitsN w 11 2 = 0 ∧ a = 0#64) ∨ (bitsN w 11 2 = 1 ∧ a ≠ 0#64) ∨ (bitsN w 11 2 = 2 ∧ a.toInt < 0) ∨ (bitsN w 11 2 = 3 ∧ 0 ≤ a.toInt)
         then (w.extractLsb' 13 13, x.loops) else onward) (k + 4))) ∧
    (issuesAt s0 q false [bitsN w 6 5] [] k s → bitsN w 26 22 = 0 →
      Does (.loop q w) s0 (fun t => goes t
        (if a = 0#64 then afterBody (w.extractLsb' 13 13) x.loops
         else (x.pc + 1#13, { first := x.pc + 1#13, last := w.extractLsb' 13 13, left := a.toNat - 1 } :: x.loops)) (k + 1))) ∧
    (issuesAt s0 q false [] [] k s → bitsN w 26 22 = 0 → Does (.jmp q w) s0 (fun t => goes t (w.extractLsb' 13 13, x.loops) (k + 4))) ∧
    (issuesAt s0 q false [] [] k s → bitsN w 22 26 = 0 → Does (.waitc q w) s0 (fun t => goes t onward (k + 1 + (bitsN w 6 16 + 1))))

/-- O7. HAND, HSET and VPAT (02 R40, R41, 05 R105): a sail passes to another context from the next fc on or when its weight-tile operation ends, a handle entry is rewritten, a pattern is staged; nothing else of the core differs. -/
def Obligations.HandlesAndPatterns : Prop :=
  ∀ (q : Issue) (w : BitVec 48) (s0 s : State) (k : Nat),
    let c := s.core q.core
    let x := c.tc q.ctx
    let a := x.rdS (cSa w)
    (issuesAt s0 q false [] [] k s → bitsN w 10 38 = 0 → bitsN w 6 2 < s.rigSails q.core → (c.sail (bitsN w 6 2)).owner = q.ctx.val →
      Does (.hand q w) s0 (fun t =>
        let u := max (k + 1) (c.sail (bitsN w 6 2)).opEnd
        (t.core q.core).sail (bitsN w 6 2) = { c.sail (bitsN w 6 2) with hand := some (bitsN w 8 2, u) } ∧
        (c.late = [] → (c.sail (bitsN w 6 2)).opWait = false → ∀ v, u ≤ v → (((t.settle q.core v).core q.core).sail (bitsN w 6 2)).owner = bitsN w 8 2) ∧
        keepsRegs q none none s t ∧ slotFrame q (Core.onlySail (bitsN w 6 2)) s t)) ∧
    (issuesAt s0 q false [cSa w] [] k s → a.poison = false →
      (bitsN w 16 32 = 0 → bitsN w 6 5 < x.tcnt → bitsN a.val 29 3 = 0 →
        Does (.hset q w) s0 (fun t =>
          (∀ h, h < 32 → (t.core q.core).handleAt h = if h = (x.tbase + bitsN w 6 5) % 32 then a.val.setWidth 32 else c.handleAt h) ∧
          keepsRegs q none none s t ∧ slotFrame q (fun c d => Core.onlyCtx c { d with handles := c.handles }) s t)) ∧
      (q.ctx.val = 0 → bitsN w 6 5 = 0 → bitsN w 16 32 = 0 → bitsN a.val 48 16 = 0 → (∀ j, j < 16 → bitsN a.val (3 * j) 3 ≤ 4) →
        Does (.vpat q w) s0 (fun t => (∃ p, (t.core q.core).staged = some p ∧ ∀ j : Fin 16, p[j] = bitsN a.val (3 * j) 3) ∧
          keepsRegs q none none s t ∧ slotFrame q (fun c d => Core.onlyCtx c { d with staged := c.staged }) s t)))

/-- O8. PHASE and ESCM (08 R206, 09 R236, 17 R403, 04 R94). With no held records and no gate to send, PHASE changes its core only. ESCM with OPEN clears the field's mask of the
layer; the core latches the mask. -/
def Obligations.PhasesAndMasks : Prop :=
  ∀ (q : Issue) (w : BitVec 48) (s0 s : State) (k : Nat), issuesAt s0 q false [] [] k s →
    let c := s.core q.core
    let n := q.core.val / 192
    (q.ctx.val = 0 → bitsN w 14 34 = 0 → inRoutine s q = false → (∀ j, j < 192 → (s.core (n * 192 + j)).xtabs = []) → (s.slice (s.corePart q.core)).mods = 0 →
      Does (.phase q w) s0 (fun t =>
        let d := t.core q.core
        d.phase = bitsN w 6 8 ∧ d.winMax = max c.winMax (AMap.at c.decl 0 (bitsN w 6 8)) ∧
        d.shunt = (if AMap.at c.decl 0 c.phase < AMap.at c.decl 0 (bitsN w 6 8) then k + 200 else c.shunt) ∧ d.staged = none ∧
        (∀ u, k < u → c.staged.isSome = true → d.patternAt u = (c.staged.getD c.pattern).toList.getD (u % 16) 4) ∧ (∀ u, c.staged = none ∨ (c.patFrom ≤ u ∧ u ≤ k) → d.patternAt u = c.patternAt u) ∧
        keepsRegs q none none s t ∧
        slotFrame q (fun c d => Core.onlyCtx c { d with
          phase := c.phase, winMax := c.winMax, shunt := c.shunt, pattern := c.pattern, staged := c.staged, patFrom := c.patFrom, patOld := c.patOld }) s t)) ∧
    (bitsN w 9 39 = 0 →
      Does (.escm q w) s0 (fun t =>
        let l := bitsN w 6 2
        let m := if bitAt w 8 then [] else AMap.at (s.field n).escMask [] l
        AMap.at (t.field n).escMask [] l = m ∧ (∀ j, j ≠ l → AMap.at (t.field n).escMask [] j = AMap.at (s.field n).escMask [] j) ∧
        { t.field n with escMask := (s.field n).escMask } = s.field n ∧ (∀ j, j ≠ n → t.field j = s.field j) ∧
        { t.fab with fields := s.fab.fields } = s.fab ∧ AMap.find (t.core q.core).masks l = some m ∧ ((t.core q.core).tc q.ctx).lsel = l ∧ keepsRegs q none none s t ∧
        slotFrame q (fun c d => Core.onlyCtx c { d with masks := c.masks }) s { t with fab := s.fab }))

/-- O9. REFW and SVCW (06 R132, R133, R138, R139, 08 R206): up to two refreshes for each tier in debt, the write-backs done, re-read rows that fail again gone bad; landings
due in the window moved past it, and an open service window shortened by what the two share; a row that scrub corrects logged and counted without a luff; a failed check
furling the core with cause DRAMCOL (R130). A service window carries what waits, in arrival order, as far as its rows go, and none in a refresh window. What the refresh
window finds is an operand (log entry 29). -/
def Obligations.RefreshAndServiceWindows : Prop :=
  ∀ (q : Issue) (w : BitVec 48) (found : RefFind) (s0 s : State) (k : Nat), issuesAt s0 q false [] [] k s → bitsN w 6 42 = 0 → s.guarded q.core = false →
    let c := s.core q.core
    let m := c.mast
    (found.check = none → found.scrub = [] ∨ s.mst.scrubEn = false →
      Does (.refw q w found) s0 (fun t =>
        let d := t.core q.core
        let n := d.mast
        n.refEnd = k + 240 ∧ n.writeBack = [] ∧ n.reread = [] ∧ n.svcRows = m.svcRows - 8 * (min m.svcEnd (k + 240) - max k m.refEnd) / 5 ∧
        (∀ i : Fin 4, n.tiers[i] = { m.tiers[i] with debt := m.tiers[i].debt - 2 }) ∧
        (∀ r, r ∈ n.bad ↔ r ∈ m.bad ∨ (r ∈ m.reread ∧ ∃ x ∈ found.again, x.1.val * 0x100000 + x.2.val = r)) ∧
        (∀ l, c.lands = [l] → d.lands = [if k ≤ l.due ∧ l.due < k + 240 then { l with due := k + 240 } else l]) ∧
        (c.lands = [] → d.lands = [] ∧ n.path = if k ≤ m.path ∧ m.path < k + 240 then k + 240 else m.path) ∧
        { n with refEnd := m.refEnd, writeBack := m.writeBack, reread := m.reread, tiers := m.tiers, bad := m.bad, path := m.path, svcRows := m.svcRows } = m ∧
        keepsRegs q none none s t ∧ slotFrame q (fun c d => Core.onlyCtx c { d with mast := c.mast, lands := c.lands }) s t)) ∧
    (∀ x, found.check = none → found.scrub = [x] → s.mst.scrubEn = true →
      Does (.refw q w found) s0 (fun t =>
        let n := (t.core q.core).mast
        n.ce = min 0xFFFF (m.ce + 1) ∧ t.mst.ceTotal = min 0xFFFFFFFF (s.mst.ceTotal + 1) ∧ n.writeBack = [] ∧
        t.mst.log = s.mst.log.push (packFields 32 [(0, 14, q.core.val), (14, 2, x.1.val), (16, 3, 0)], packFields 32 [(0, 20, x.2.val)], packFields 32 [(0, 16, 0)]) ∧
        ∀ j, (t.grp j).items = (s.grp j).items)) ∧
    (∀ i, found.check = some i → m.failed = false →
      Does (.refw q w found) s0 (fun t =>
        (t.core q.core).mast.failed = true ∧ (t.core q.core).stat.furled = true ∧ (t.core q.core).stat.furlCause = 7)) ∧
    let rows := 8 * (k + m.svcLen - max k (min m.refEnd (k + m.svcLen))) / 5
    let serves := fun (P : Mast → Prop) => Does (.svcw q w) s0 (fun t =>
      P (t.core q.core).mast ∧ keepsRegs q none none s t ∧ slotFrame q (fun c d => Core.onlyCtx c { d with mast := c.mast }) s t)
    (m.outside = [] → serves (fun n => n = { m with svcEnd := k + m.svcLen, svcRows := rows })) ∧
    (∀ a r, m.outside = a :: r → m.svcDone = 0 → rows = 0 → serves (fun n => n = { m with svcEnd := k + m.svcLen, svcRows := 0 })) ∧
    (∀ part mark addr d found, m.outside = [.access true part mark addr d found] → m.svcDone = 0 → 1 ≤ rows → Memory.wf m.data = true →
      serves (fun n =>
        (∀ b, Memory.read n.data b = if addr ≤ b ∧ b < addr + 128 then BitVec.ofNat 8 (d.toNat >>> (8 * (b - addr))) else Memory.read m.data b) ∧
        (∀ r, r ∈ n.poison ↔ r ∈ m.poison ∧ r ≠ addr / 128) ∧
        { n with data := m.data, poison := m.poison } = { m with outside := [], svcEnd := k + m.svcLen, svcRows := rows - 1 })) ∧
    (∀ part mark addr d, m.outside = [.access false part mark addr d []] → m.svcDone = 0 → 1 ≤ rows → addr / 128 ∉ m.bad →
      serves (fun n => n = { m with
        outside := [], svcEnd := k + m.svcLen, svcRows := rows - 1, answered := m.answered ++ [.row false (m.rowRead addr).2 (m.rowRead addr).1] }))

/-- O10. An illegal instruction (08 R211, R212): the core's first one is kept with its opcode, slot, context, cause and index, and the partition's step fails with fault
0x02. A read of an EMPTY slot (05 Table 5.6, R115, R116): the destination is poisoned, the first violation is kept, the step fails with fault 0x01. -/
def Obligations.IllegalInstructionAndEmptyRead : Prop :=
  (∀ (q : Issue) (w : BitVec 48) (s0 s : State) (k : Nat), issuesAt s0 q false [] [] k s → (s.grp (s.corePart q.core)).inStep = true → bitsN w 6 42 ≠ 0 →
    let c := s.core q.core
    let after := fun (op : Nat) (t : State) =>
      (t.core q.core).ill = (if c.ill.valid then c.ill else
        { valid := true, opcode := op, slot := 3, ctx := q.ctx, cause := 2, pc := (c.tc q.ctx).pc }) ∧
      (∃ f ∈ (t.grp (s.corePart q.core)).faults, f.code = 2) ∧ keepsRegs q none none s t
    Does (.cnop q w) s0 (after 0x00) ∧ Does (.seqadv q w) s0 (fun t => after 0x11 t ∧ ((t.core q.core).tc q.ctx).seq = (c.tc q.ctx).seq) ∧
    Does (.wstep q w) s0 (fun t => after 0x19 t ∧ ((t.core q.core).tc q.ctx).ended = (c.tc q.ctx).ended)) ∧
  ∀ (q : Issue) (w : BitVec 48) (s0 s : State) (k ph a : Nat), issuesAt s0 q false [cSd w] [] k s → (s.grp (s.corePart q.core)).inStep = true →
    let o := spoAt w 11
    let c := s.core q.core
    bitsN w 36 12 = 0 → o.reads = true → c.resolve q.ctx o.handle o.byte 16 false (b2n o.take) = .ok (ph, a) → (c.seenTell (a / 64)).st = .empty → c.viol.valid = false →
      Does (.slds q w) s0 (fun t =>
        let v := (t.core q.core).viol
        ((t.core q.core).tc q.ctx).sAt (cSd w) = ⟨BitVec.allOnes 64, true⟩ ∧ keepsRegs q (some (cSd w)) none s t ∧
        v.valid = true ∧ v.kind = 1 ∧ v.ctx = q.ctx ∧ v.handle = ph ∧ v.slot = a / 64 ∧ v.foundTag = (c.seenTell (a / 64)).tag ∧ v.foundSt = 0 ∧
        v.expTag = tagOf (c.tc q.ctx).seq o.tag ∧ (∃ f ∈ (t.grp (s.corePart q.core)).faults, f.code = 1) ∧ (t.core q.core).pad = c.pad ∧
        (t.core q.core).tells = c.tells)

/-- O11. The lane arithmetic of 08 R192 and R193 in its three operand types; poison of an operand poisons the result. -/
def Obligations.LaneArithmetic : Prop :=
  ∀ (q : Issue) (w : BitVec 44) (s0 s : State) (k : Nat), bitsN w 32 12 = 0 → vTy w ≠ 3 →
    let x := (s.core q.core).tc q.ctx
    let a := x.rdV (vA w)
    let b := operandB x w
    let c := x.rdV (vC w)
    let two := fun (v : VWord) => writesV q (vD w) (if a.poison || b.poison then poisonV else ⟨v, false⟩) s
    let three := fun (v : VWord) => writesV q (vD w) (if a.poison || b.poison || c.poison then poisonV else ⟨v, false⟩) s
    let f32 := fun (f : BitVec 32 → BitVec 32 → BitVec 32) => ofLanes32 (fun n => f (lane32 a.val n) (lane32 b.val n))
    let f16 := fun (f : BitVec 16 → BitVec 16 → BitVec 16) => ofLanes16 (fun n => f (lane16 a.val n) (lane16 b.val n))
    (issuesAt s0 q true (laneSregs w) (laneVregs w false) k s →
      (vTy w = 0 → Does (.vadd q w) s0 (two (f32 fadd)) ∧ Does (.vsub q w) s0 (two (f32 fsub)) ∧ Does (.vmul q w) s0 (two (f32 fmul)) ∧
        Does (.vmin q w) s0 (two (f32 fmin)) ∧ Does (.vmax q w) s0 (two (f32 fmax))) ∧
      (vTy w = 1 → Does (.vadd q w) s0 (two (f16 (fun a b => (Machine.Num.add (dec16 a) (dec16 b)).to16))) ∧
        Does (.vsub q w) s0 (two (f16 (fun a b => (Machine.Num.add (dec16 a) (Machine.Num.neg (dec16 b))).to16))) ∧
        Does (.vmul q w) s0 (two (f16 (fun a b => (Machine.Num.mul (dec16 a) (dec16 b)).to16)))) ∧
      (vTy w = 2 → Does (.vadd q w) s0 (two (f32 (fun a b => a + b))) ∧ Does (.vsub q w) s0 (two (f32 (fun a b => a - b))) ∧
        Does (.vmul q w) s0 (two (f32 (fun a b => a * b))) ∧ Does (.vmin q w) s0 (two (f32 (fun a b => if a.toInt < b.toInt then a else b))) ∧
        Does (.vmax q w) s0 (two (f32 (fun a b => if b.toInt < a.toInt then a else b))))) ∧
    (issuesAt s0 q true (laneSregs w) (laneVregs w true) k s →
      (vTy w = 0 → Does (.vfma q w) s0 (three (ofLanes32 (fun n => ffma (lane32 a.val n) (lane32 b.val n) (lane32 c.val n))))) ∧
      (vTy w = 1 → Does (.vfma q w) s0 (three (ofLanes16 (fun n =>
        (Machine.Num.add (Machine.Num.mul (dec16 (lane16 a.val n)) (dec16 (lane16 b.val n))) (dec16 (lane16 c.val n))).to16)))) ∧
      (vTy w = 2 → Does (.vfma q w) s0 (three (ofLanes32 (fun n => lane32 a.val n * lane32 b.val n + lane32 c.val n)))))

/-- O12. Comparison, selection, conversion and keys (08 R192, 02 R35). The lanes of a BF16 conversion that the spec leaves open are a free value (log entry 7). -/
def Obligations.CompareSelectConvert : Prop :=
  ∀ (q : Issue) (w : BitVec 44) (s0 s : State) (k : Nat), bitsN w 32 12 = 0 →
    let x := (s.core q.core).tc q.ctx
    let a := x.rdV (vA w)
    let b := operandB x w
    let m := x.rdS (vC w)
    (issuesAt s0 q true ([vD w] ++ laneSregs w) ([vA w] ++ (if vBs w then [] else [vB w])) k s → vTy w = 0 ∨ vTy w = 2 → vCc w ≠ 7 →
      Does (.vcmp q w) s0 (writesS q (vD w) (if a.poison || b.poison then poisonS
        else ⟨maskOf (fun i => ccMeets (vTy w) (vCc w) (lane32 a.val i) (lane32 b.val i)), false⟩) s)) ∧
    (issuesAt s0 q true ([vC w] ++ laneSregs w) (laneVregs w false) k s → vTy w ≠ 3 →
      Does (.vsel q w) s0 (writesV q (vD w) (if a.poison || b.poison || m.poison then poisonV
        else ⟨ofLanes32 (fun i => if m.val.getLsbD i then lane32 a.val i else lane32 b.val i), false⟩) s)) ∧
    (issuesAt s0 q true [] [vD w, vA w] k s → vTy w ≠ 3 → vCc w % 4 ≠ 3 →
      Does (.vcvt q w) s0 (fun t => t.free = s.free + 1 ∧ writesV q (vD w) (if a.poison then poisonV
        else ⟨convert (vTy w) (vCc w % 4) (decide (4 ≤ vCc w)) a.val (Config.freeValue s.free), false⟩) s { t with free := s.free })) ∧
    (issuesAt s0 q true [] [vD w, vA w] k s → vTy w = 0 ∨ vTy w = 1 →
      Does (.vkey q w) s0 (writesV q (vD w) (if a.poison then poisonV
        else ⟨ofLanes32 (fun i => keyOf (if vTy w = 0 then lane32 a.val i else widen16 (lane16 a.val (if 4 ≤ vCc w then 64 + i else i)))), false⟩) s))

/-- O13. The long operations and the reductions (02 R36, R37, R44, 08 R192, R196): one tracker entry each until the result is written; after a long operation the vector unit
takes its next one 2 fc later; a reduction leaves the upper half of its register. -/
def Obligations.LongOperationsAndReductions : Prop :=
  ∀ (q : Issue) (w : BitVec 44) (s0 s : State) (k : Nat), bitsN w 32 12 = 0 → hasRoom q s k →
    let x := (s.core q.core).tc q.ctx
    let a := x.rdV (vA w)
    let d := x.rdS (vD w)
    let long := fun (f : BitVec 32 → BitVec 32) (t : State) => tookEntry q .longVec 1 (some (k + 12)) k s t ∧
      (t.core q.core).vecNext = max (s.core q.core).vecNext (k + 2) ∧
      writesV q (vD w) (if a.poison then poisonV else ⟨ofLanes32 (fun i => f (lane32 a.val i)), false⟩) s
        (t.updCore q.core (fun d => { d with vecNext := (s.core q.core).vecNext }))
    let red := fun (r : BitVec 32) (t : State) => tookEntry q .longVec 1 (some (k + 8)) k s t ∧
      writesS q (vD w) (if a.poison then poisonS else ⟨d.val.extractLsb' 32 32 ++ r, d.poison⟩) s t
    (issuesAt s0 q true [] [vD w, vA w] k s → vTy w = 0 →
      Does (.vexp q w) s0 (long fexp) ∧ Does (.vlog q w) s0 (long fln) ∧ Does (.vrcp q w) s0 (long frcp) ∧ Does (.vrsq q w) s0 (long frsq) ∧
      Does (.vsqrt q w) s0 (long fsqrt)) ∧
    (issuesAt s0 q true [vD w] [vA w] k s → vTy w ≠ 3 →
      Does (.vrsum q w) s0 (red (reduceLanes (vTy w) fadd (fun a b => a + b) a.val)) ∧
      Does (.vrmax q w) s0 (red (reduceLanes (vTy w) fmax (fun a b => if b.slt a then a else b) a.val)) ∧
      Does (.vrmin q w) s0 (red (reduceLanes (vTy w) fmin (fun a b => if a.slt b then a else b) a.val)))

/-- O14. VLD, VST and VMASK (08 R192, R197, 05 Table 5.6): 256 bytes from scratchpad, a write on its way of 256 bytes as four whole slots, and lanes whose bit is 0
replaced with -Inf; for VMASK TY 0b10, and BF16 with HALF 1, are illegal, and TY 0b11 for all three. -/
def Obligations.VectorScratchpad : Prop :=
  ∀ (q : Issue) (w : BitVec 44) (s0 s : State) (k ph a : Nat), bitsN w 43 1 = 0 →
    let o := spoAt w 16
    let x := (s.core q.core).tc q.ctx
    let ty := bitsN w 40 2
    let half := bitAt w 42
    (issuesAt s0 q true [] [vD w] k s → ty ≠ 3 →
      (o.reads = true → readsWell q s o 256 a →
        Does (.vld q w) s0 (fun t => ((t.core q.core).tc q.ctx).vAt (vD w) = ⟨BitVec.ofNat 2048 (Memory.readN (s.core q.core).pad a 256), false⟩ ∧
          keepsRegs q none (some (vD w)) s t ∧ readsPad q o 256 a s t ∧ padFrame q s t)) ∧
      (o.writes = true → o.ofs % 4 = 0 → writesWell q s o 4 ph a →
        Does (.vst q w) s0 (fun t => let r := x.rdV (vD w)
          writesLater q 3 o 4 ph a r.val.toNat r.poison 0 k s t ∧ keepsRegs q none none s t ∧ padFrame q s t))) ∧
    (issuesAt s0 q true [] [vD w, vA w] k s → o.reads = true → ty = 0 ∨ (ty = 1 ∧ half = false) → readsWell q s o 16 a →
      Does (.vmask q w) s0 (fun t =>
        let m := Memory.readN (s.core q.core).pad a 16
        let v := x.rdV (vA w)
        ((t.core q.core).tc q.ctx).vAt (vD w) = (if v.poison then poisonV
          else ⟨if ty = 1 then ofLanes16 (fun i => if m.testBit i then lane16 v.val i else 0xFF80#16)
            else ofLanes32 (fun i => if m.testBit (if half then 64 + i else i) then lane32 v.val i else 0xFF800000#32), false⟩) ∧
        keepsRegs q none (some (vD w)) s t ∧ readsPad q o 16 a s t ∧ padFrame q s t)) ∧
    (issuesAt s0 q true [] [vD w] k s → ty = 3 → (s.core q.core).ill.valid = false →
      Does (.vld q w) s0 (fun t => ((t.core q.core).tc q.ctx).vAt (vD w) = poisonV ∧ keepsRegs q none (some (vD w)) s t ∧
        (t.core q.core).ill = { valid := true, opcode := vOp w, slot := 1, ctx := q.ctx, cause := 2, pc := x.pc }) ∧
      Does (.vst q w) s0 (fun t => keepsRegs q none none s t ∧ (t.core q.core).pad = (s.core q.core).pad ∧
        (t.core q.core).ill = { valid := true, opcode := vOp w, slot := 1, ctx := q.ctx, cause := 2, pc := x.pc })) ∧
    (issuesAt s0 q true [] [vD w, vA w] k s → o.reads = true → ty = 2 ∨ ty = 3 ∨ (ty = 1 ∧ half = true) → (s.core q.core).ill.valid = false →
      Does (.vmask q w) s0 (fun t => ((t.core q.core).tc q.ctx).vAt (vD w) = poisonV ∧ keepsRegs q none (some (vD w)) s t ∧
        (t.core q.core).ill = { valid := true, opcode := vOp w, slot := 1, ctx := q.ctx, cause := 2, pc := x.pc }))

/-- O15. The random value u(i, n, t) (14 R339): the procedure, and that its result is an exact FP32 value from 2^-24 to 1 - 2^-24. -/
def Obligations.RandomValues : Prop :=
  ∀ (seed i : Dword) (n t : Nat), n < 4 → t < 2 ^ 20 →
    let w := seed ^^^ (i * 0x9E3779B97F4A7C15#64)
    let h0 := w + BitVec.ofNat 64 (t + n * 2 ^ 20 + 1) * 0x9E3779B97F4A7C15#64
    let h1 := (h0 ^^^ (h0 >>> 30)) * 0xBF58476D1CE4E5B9#64
    let h2 := (h1 ^^^ (h1 >>> 27)) * 0x94D049BB133111EB#64
    let b := ((h2 ^^^ (h2 >>> 31)) >>> 41).toNat
    b < 2 ^ 23 ∧ ∃ (m : Nat) (e : Int), -47 ≤ e ∧ dec32 (rngValue w (t + n * 2 ^ 20)) = .fin false m e ∧ m * 2 ^ (e + 47).toNat = (2 * b + 1) * 2 ^ 23

/-- O16. The sampler's register operations (14 R339 to R344, R350). -/
def Obligations.SamplerOperations : Prop :=
  ∀ (q : Issue) (w : BitVec 44) (s0 s : State) (k : Nat), bitsN w 31 13 = 0 →
    let x := (s.core q.core).tc q.ctx
    let a := x.rdV (vA w)
    let b := x.rdV (vB w)
    let d := x.rdV (vD w)
    let r := x.rdS (vSa w)
    let e := x.rdS (vD w)
    (issuesAt s0 q true [vSa w] [vD w] k s →
      Does (.vsmpRng q w) s0 (writesV q (vD w) (if d.poison || r.poison then poisonV
        else ⟨ofLanes32 (fun i => rngValue r.val (lane32 d.val i).toNat), false⟩) s)) ∧
    (issuesAt s0 q true [vSa w] [vD w, vA w] k s →
      Does (.vsmpTemp q w) s0 (writesV q (vD w) (if a.poison || r.poison then poisonV
        else ⟨ofLanes32 (fun i => if isNan32 (lane32 a.val i) then 0xFF800000#32
          else fmul (lane32 a.val i) (if bits r.val 0 16 = 0#16 then 0x3F800000#32 else frcp (widen16 (bits r.val 0 16)))), false⟩) s) ∧
      Does (.vsmpTopk q w) s0 (writesV q (vD w) (if a.poison || d.poison || r.poison then poisonV
        else ⟨ofLanes32 (fun i => if bitsN r.val 0 32 < (lane32 a.val i).toNat ∨ (bitsN r.val 0 32 = (lane32 a.val i).toNat ∧ (lane32 d.val i).toNat ≤ bitsN r.val 32 20)
          then lane32 a.val i else 0#32), false⟩) s) ∧
      Does (.vsmpAmask q w) s0 (writesV q (vD w) (if a.poison || r.poison then poisonV
        else ⟨ofLanes32 (fun i => if r.val.getLsbD i then lane32 a.val i else 0x7FC00000#32), false⟩) s)) ∧
    (issuesAt s0 q true [vSa w] [vD w, vA w, vB w] k s → a.poison = false → b.poison = false → r.poison = false →
      Does (.vsmpTopp q w) s0 (fun t =>
        let ps := prefixSums a.val 64 0 (bits r.val 0 32)
        let y := (t.core q.core).tc q.ctx
        y.vAt (vD w) = ⟨ofLanes32 (fun i => if fLt (ps.1.getD i 0#32) (bits r.val 32 32) then lane32 b.val i else 0x7FC00000#32), false⟩ ∧
        y.sAt (vSa w) = ⟨r.val.extractLsb' 32 32 ++ ps.2, false⟩ ∧ keepsRegs q (some (vSa w)) (some (vD w)) s t ∧ regFrame q s t)) ∧
    (issuesAt s0 q true [vD w] [vA w, vB w] k s →
      Does (.vsmpDraw q w) s0 (fun t => ∃ key id valid,
        (key, id, valid) = (List.range 64).foldl (fun e i => drawBetter e (lane32 a.val i).toNat (lane32 b.val i).toNat) (bitsN e.val 0 32, bitsN e.val 32 20, bitAt e.val 52) ∧
        writesS q (vD w) (if a.poison || b.poison || e.poison then poisonS else ⟨packFields 64 [(0, 32, key), (32, 20, id), (52, 1, b2n valid)], false⟩) s t)) ∧
    (issuesAt s0 q true [vSa w, vD w] [] k s →
      Does (.vsmpAccept q w) s0 (writesS q (vD w) (if r.poison || e.poison then poisonS else ⟨if acceptTest r.val e.val then 1#64 else 0#64, false⟩) s))

/-- O17. VSMP COMMIT (14 R351, 05 R116): a slot's words are committed with the tick's stamp, unless a fault was raised 20 fc before, which suppresses the commit. -/
def Obligations.CommitAppendsWords : Prop :=
  ∀ (q : Issue) (w : BitVec 44) (now : Dword) (s0 s : State) (k a : Nat), issuesAt s0 q true [vSa w] [] k s → bitsN w 31 13 = 0 →
    let p := s.corePart q.core
    let r := ((s.core q.core).tc q.ctx).rdS (vSa w)
    let o : Spo := ⟨cmHandle r.val, cmOfs r.val, 0, 1⟩
    r.poison = false → commitBad (s.part p).req r.val = false → (∀ e ∈ s.cores, s.corePart e.1 = p → e.2.late = []) → readsWell q s o (8 * cmCount r.val) a →
      Does (.vsmpCommit q ⟨w, now⟩) s0 (fun t =>
        (t.part p).req = (if ((s.grp p).failedBy k) then (s.part p).req else
          { (s.part p).req with commits := (s.part p).req.commits ++
            [{ slot := cmSlot r.val, words := (List.range (cmCount r.val)).map (fun i => BitVec.ofNat 64 (Memory.readN (s.core q.core).pad (a + 8 * i) 8)),
               stamp := max s.tb.toNat now.toNat, cyc := k }] }) ∧
        keepsRegs q none none s t ∧ readsPad q o (8 * cmCount r.val) a s t ∧
        onlyCyc s { t with parts := AMap.upd t.parts {} p (fun x => { x with req := (s.part p).req }) } ∧ onlyCore q.core s t ∧
        Core.onlyPad (s.core q.core) (t.core q.core))

/-- O18. MLDW, MACCL and TILE_LOAD_DONE (02 R26, R44, R46, 08 R188, R189): a tile read into the shadow tile with an entry of its own until its load completes, FP32 rows into
the accumulator, and the oldest load's completion, which holds still while the line is asserted; with the last one the sail switches. -/
def Obligations.TileAndAccumulatorLoads : Prop :=
  ∀ (q : Issue) (w : BitVec 80) (s0 s : State) (k a : Nat),
    let o := spoAt w 8
    let c := s.core q.core
    let i := sailOf w
    (issuesAt s0 q false [] [] k s → sailLegal q w [(38, 3), (41, 39)] s → o.reads = true → bitsN w 36 2 ≠ 3 →
      (bitsN w 36 2 = 0 → fmtOk (bitsN w 32 4) = true) → hasRoom q s k → readsWell q s o (loadBytes (bitsN w 36 2) (bitsN w 32 4)) a →
      Does (.mldw q w) s0 (fun t =>
        let n := loadBytes (bitsN w 36 2) (bitsN w 32 4)
        let y := (t.core q.core).sail i
        y.shadow = some { kind := bitsN w 36 2, fmt := bitsN w 32 4, data := BitVec.ofNat 33792 (Memory.readN c.pad a n), src := a, poison := false } ∧
        y.active = (match (c.sail i).shadow with | some u => some u | none => (c.sail i).active) ∧ y.loads = (c.sail i).loads ++ [c.nextTrk] ∧
        { y with shadow := (c.sail i).shadow, active := (c.sail i).active, loads := (c.sail i).loads } = c.sail i ∧
        tookEntry q .tileLoad 1 none k s t ∧ readsPad q o n a s t ∧ keepsRegs q none none s t ∧ slotFrame q (Core.onlySail i) s t)) ∧
    (issuesAt s0 q false [] [] k s → sailLegal q w [(47, 33)] s → o.reads = true → mmAcc w + mmRows w ≤ 512 →
      readsWell q s o (256 * mmRows w) a →
      Does (.maccl q w) s0 (fun t =>
        let y := (t.core q.core).sail i
        let mine := fun (r : Nat) => mmAcc w ≤ r ∧ r < mmAcc w + mmRows w
        (∀ r, y.accRow r = if mine r then ⟨BitVec.ofNat 2048 (Memory.readN c.pad (a + 256 * (r - mmAcc w)) 256), false⟩ else (c.sail i).accRow r) ∧
        (∀ r, r ∈ y.dist ↔ r ∈ (c.sail i).dist ∧ ¬ mine r) ∧ { y with acc := (c.sail i).acc, dist := (c.sail i).dist } = c.sail i ∧
        readsPad q o (256 * mmRows w) a s t ∧ keepsRegs q none none s t ∧ slotFrame q (Core.onlySail i) s t)) ∧
    ∀ (m : Fin 9216) (j : Fin 4) (id : Nat) (r : List Nat), ((s.core m).sail j).loads = id :: r →
      ((s.grp (s.corePart m)).stalled.isSome = true → Does (.tileLoadDone m j) s (fun t => t = s)) ∧
      ((s.grp (s.corePart m)).stalled = none → Does (.tileLoadDone m j) s (fun t =>
        let x := (s.core m).sail j
        (t.core m).sail j = (if r = [] then
          { x with loads := [], opWait := false, shadow := none, active := (match x.shadow with | some u => some u | none => x.active) } else { x with loads := r }) ∧
        (∀ e, e ∈ (t.core m).tracks ↔ e ∈ (s.core m).tracks ∧ e.id ≠ id) ∧
        (∀ r, r ≠ m.val → t.core r = s.core r) ∧ (∀ r, r ≠ j.val → (t.core m).sail r = (s.core m).sail r) ∧
        { t.core m with sails := (s.core m).sails, tracks := (s.core m).tracks } = s.core m ∧ { t with cores := s.cores } = s))

/-- O19. SDIST, SMAX, SMIN, SRANK and STHR (02 R34, R35, 08 R188, R191): distances added row by row, elementwise extremes with the mask of the lanes from vB, ranks of the
resident keys, and the count of keys at or above a threshold. -/
def Obligations.CompareModes : Prop :=
  ∀ (q : Issue) (w : BitVec 80) (s0 s : State) (k a : Nat),
    let o := spoAt w 8
    let c := s.core q.core
    let i := sailOf w
    let x := c.tc q.ctx
    let va := x.rdV (cmpVA w)
    let vb := x.rdV (cmpVB w)
    let resv := [(28, 4), (37, 43)]
    let pick := fun (takeB : BitVec 32 → BitVec 32 → Prop) [DecidableRel takeB] (t : State) =>
      let y := (t.core q.core).tc q.ctx
      y.vAt (cmpVD w) = (if va.poison || vb.poison then poisonV
        else ⟨ofLanes32 (fun n => if takeB (lane32 va.val n) (lane32 vb.val n) then lane32 vb.val n else lane32 va.val n), false⟩) ∧
      y.sAt (cmpSD w) = (if va.poison || vb.poison then poisonS
        else ⟨maskOf (fun n => decide (takeB (lane32 va.val n) (lane32 vb.val n))), false⟩) ∧
      keepsRegs q (some (cmpSD w)) (some (cmpVD w)) s t ∧ regFrame q s t
    (∀ u, issuesAt s0 q false [] [] k s → sailLegal q w [(50, 30)] s → mmStart w ≠ 3 → o.reads = true → mmAcc w + mmRows w ≤ 512 →
      (c.sail i).resident = some u → u.kind = 1 → (mmStart w = 0 → (c.sail i).distOpen = true) → readsWell q s o (64 * mmRows w) a →
      Does (.sdist q w none) s0 (fun t =>
        let rows := (List.range (mmRows w)).map (fun j => (Memory.readN c.pad (a + 64 * j) 64, false))
        let r := distRows (bitAt w 49) (mmStart w == 1) u rows (mmAcc w) ((c.sail i).acc, false)
        let y := (t.core q.core).sail i
        y = { ((c.sail i).running k (mmRows w) 4 (bankLat a + 12)).switched with acc := r.1, distOpen := true, dist := y.dist } ∧
        (∀ n, n ∈ y.dist ↔ n ∈ (c.sail i).dist ∨ (mmAcc w ≤ n ∧ n < mmAcc w + mmRows w)) ∧ ((t.core q.core).tc q.ctx).distSat = (x.distSat || r.2) ∧
        readsPad q o (64 * mmRows w) a s t ∧ keepsRegs q none none s t ∧ slotFrame q (Core.onlySail i) s t)) ∧
    (issuesAt s0 q false [cmpSD w] [cmpVA w, cmpVB w, cmpVD w] k s → sailLegal q w resv s →
      Does (.smax q w) s0 (pick (fun a b => a.toNat < b.toNat)) ∧ Does (.smin q w) s0 (pick (fun a b => b.toNat < a.toNat))) ∧
    (∀ u, issuesAt s0 q false [] [cmpVD w] k s → sailLegal q w resv s → (c.sail i).resident = some u → u.kind = 2 →
      Does (.srank q w) s0 (fun t =>
        let keys := (List.range 64).map (fun n => (bits u.data (32 * n) 32 : BitVec 32))
        ((t.core q.core).tc q.ctx).vAt (cmpVD w) = (if u.poison then poisonV else ⟨ofLanes32 (fun n => BitVec.ofNat 32 (rankOf keys n)), false⟩) ∧
        (t.core q.core).sail i = (c.sail i).switched ∧ keepsRegs q none (some (cmpVD w)) s t ∧ slotFrame q (Core.onlySail i) s t)) ∧
    (issuesAt s0 q false [cmpSB w, cmpSD w] [cmpVA w] k s → sailLegal q w resv s →
      Does (.sthr q w) s0 (writesS q (cmpSD w) (let b := x.rdS (cmpSB w)
        if va.poison || b.poison then poisonS
        else ⟨BitVec.ofNat 64 ((List.range 64).filter (fun n => decide (bitsN b.val 0 32 ≤ (lane32 va.val n).toNat))).length, false⟩) s))

/-- O20. MMUL opening an output tile without outlier capture and rotation (02 R28, R29, 08 R190): the tile is open with its entry, rows, watch entry and fence; every
accumulator row of it is the row sum of its source over +0.0 or over what it held; every other row, sail and register is as before. -/
def Obligations.MatrixMultiplyOpens : Prop :=
  ∀ (q : Issue) (w : BitVec 80) (s0 s : State) (k a : Nat) (u : Tile),
    let o := spoAt w 8
    let c := s.core q.core
    let i := sailOf w
    let d := mmDescriptor q w s
    let n := 2 * tileK u.fmt
    issuesAt s0 q false [] [] k s → sailLegal q w [(77, 3)] s → mmStart w = 1 ∨ mmStart w = 2 → o.mode = 0 → mmAcc w + mmRows w ≤ 512 →
    (c.readRes q.ctx (mmQhnd w) (16 * bitsN w 56 11) 16).viol = none → (c.readRes q.ctx (mmQhnd w) (32 * bitsN w 67 10) 32).viol = none →
    qdOk d = true → qdScN d = 0 → qdRot d = 0 → (c.sail i).resident = some u → u.kind = 0 → u.fmt = qdWfmt d → u.poison = false → (c.sail i).tile = none →
    hasRoom q s k → readsWell q s o (n * mmRows w) a →
      Does (.mmul q w none) s0 (fun t =>
        let y := (t.core q.core).sail i
        let x := c.sail i
        let mine := fun (r : Nat) => mmAcc w ≤ r ∧ r < mmAcc w + mmRows w
        (∀ r, y.accRow r = if mine r then
            (let old : VReg := if mmStart w = 1 then {} else x.accRow r
             if old.poison then poisonV
             else ⟨accumulateRow old.val u.fmt u.data (bitAt w 49)
               (feed d (tileK u.fmt) 0 0 0 (rowElems c.pad (fun _ => false) (a + n * (r - mmAcc w)) (tileK u.fmt))).1, false⟩)
          else x.accRow r) ∧
        (∃ e, y.tile = some e ∧ e.ctx = q.ctx ∧ e.rows = mmRows w ∧ e.acc0 = mmAcc w ∧ e.qd = d ∧ e.last = bitAt w 50 ∧ e.trk = c.nextTrk ∧
          e.watch = BitVec.ofNat 256 (c.readRes q.ctx (mmQhnd w) (32 * bitsN w 67 10) 32).data ∧
          e.fence = some (a / 64, (a + n * mmRows w - 1) / 64) ∧ e.ops.length = 1 ∧ e.done = []) ∧
        y.active = some u ∧ y.shadow = none ∧ (∀ r, r ∈ y.dist ↔ r ∈ x.dist ∧ ¬ mine r) ∧
        y.opEnd = max x.opEnd (k + (mmRows w - 1) * rowFc (qdAfmt d) u.fmt + (bankLat a + 12)) ∧ y.opWait = (x.opWait || !x.loads.isEmpty) ∧
        { y with acc := x.acc, tile := x.tile, active := x.active, shadow := x.shadow, dist := x.dist, opEnd := x.opEnd, opWait := x.opWait } = x ∧
        tookEntry q .outTile 1 none k s t ∧ (∃ z ∈ (t.core q.core).tsTiles, z.src = u.src ∧ z.data = u.data) ∧ (∀ z ∈ c.tsTiles, z ∈ (t.core q.core).tsTiles) ∧
        (t.core q.core).tells = c.tells ∧ (∀ b, Memory.read (t.core q.core).pad b = Memory.read c.pad b) ∧
        keepsRegs q none none s t ∧ slotFrame q (fun c d => Core.onlySail i c { d with tsTiles := c.tsTiles }) s t)

/-- O21. The residue check (02 R49, R50, 03 R63): a fault that changes the sum of a query row's dot products by no multiple of 7 leaves residues that differ, so the core
counts it, the physical sail is no longer good, and the step fails with fault 0x10; one that changes it by a multiple of 7 passes. A read of the mast that no translation
maps (06 R147): the access is logged with its RID and VPN as KIND 2, and the step fails with fault 0x03. -/
def Obligations.MismatchAndTranslationFaults : Prop :=
  (∀ (q : Issue) (w : BitVec 80) (s0 s : State) (k a : Nat) (u : Tile) (e : Upset),
    let o := spoAt w 8
    let c := s.core q.core
    let i := sailOf w
    issuesAt s0 q false [] [] k s → (s.grp (s.corePart q.core)).inStep = true → sailLegal q w [(50, 30)] s → mmStart w = 1 → o.reads = true →
    mmAcc w + mmRows w ≤ 512 → (c.sail i).resident = some u → u.kind = 1 → readsWell q s o (64 * mmRows w) a → e.row < mmRows w →
      Does (.sdist q w (some e)) s0 (fun t =>
        if e.err % 7 = 0 then (t.core q.core).stat.sailChk = c.stat.sailChk ∧ (t.core q.core).stat.checkBad = c.stat.checkBad
        else
          (t.core q.core).stat.sailChk = min 255 (c.stat.sailChk + 1) ∧ i ∈ (t.core q.core).stat.checkBad ∧
          bitAt (t.core q.core).stat.sailOk (bitsN c.stat.sailMap (2 * i) 2) = false ∧
          ∃ f ∈ (t.grp (s.corePart q.core)).faults, f.code = 0x10)) ∧
  ∀ (q : Issue) (w : BitVec 80) (s0 s : State) (k ph dst rid vpn : Nat),
    let o := mvSpo w
    let c := s.core q.core
    let n := bitsN w 35 5 + 1
    let a := (c.tc q.ctx).rdS (mvAreg w)
    issuesAt s0 q false [mvAreg w] [] k s → (s.grp (s.corePart q.core)).inStep = true → bitsN w 40 40 = 0 → o.writes = true → o.ofs % 4 = 0 →
    bitsN a.val 0 7 = 0 → hasRoom q s k → c.resolve q.ctx o.handle o.byte (128 * n) true o.mode = .ok (ph, dst) →
    c.mast.translate a.val (128 * n) false = .error (rid, vpn) →
      Does (.mrd q w) s0 (fun t =>
        t.mst.log = s.mst.log.push (packFields 32 [(0, 14, q.core.val), (14, 2, c.mast.faultTier a.val), (16, 3, 2)], packFields 32 [(0, 20, vpn)],
          packFields 32 [(0, 16, rid)]) ∧
        ∃ f ∈ (t.grp (s.corePart q.core)).faults, f.code = 3)

/-- O22. VDRN and VSCA (03 R76, 05 R112, 08 R194, R195): a row of an open output tile enters the drain stage; a row that SDIST accumulates is on its way to its slots in its
drained form, to be visible 5 fc on; one sidecar entry is added to a row of the stage, its slot taken with the last entry that it holds. -/
def Obligations.DrainsAndSidecars : Prop :=
  ∀ (q : Issue) (w : BitVec 44) (s0 s : State) (k ph a : Nat),
    let o := spoAt w 17
    let c := s.core q.core
    let i := drSail w
    let x := c.sail i
    let n := if drFmt w = 1 then 2 else 4
    issuesAt s0 q true [] [] k s → i < s.rigSails q.core →
    (((s0.core q.core).sail i).stage.length < 32 → bitsN w 43 1 = 0 → drFmt w ≠ 3 → o.writes = true → o.ofs % 4 = 0 →
      c.resolve q.ctx o.handle o.byte (64 * n) true o.mode = .ok (ph, a) →
      (∀ e, x.tileOf (drRow w) = some e → drRow w ∉ x.dist → drFmt w ≠ 2 →
        Does (.vdrn q w) s0 (fun t =>
          (t.core q.core).sail i = { x with stage := x.stage ++ [{
            row := drRow w, ctx := q.ctx, dst := some (ph, a), tag := tagOf (c.tc q.ctx).seq o.tag, hold := o.hold, ofmt := drFmt w,
            val := (x.accRow (drRow w)).val, poison := (x.accRow (drRow w)).poison, entries := 0 }] } ∧
          (t.core q.core).pad = c.pad ∧ (t.core q.core).tells = c.tells ∧ keepsRegs q none none s t ∧ slotFrame q (Core.onlySail i) s t)) ∧
      (drRow w ∈ x.dist → drFmt w = 2 →
        Does (.vdrn q w) s0 (fun t =>
          writesLater q 3 o 4 ph a (x.accRow (drRow w)).val.toNat (x.accRow (drRow w)).poison 0 (k + 5 - bankLat a) s t ∧
          keepsRegs q none none s t ∧ padFrame q s t))) ∧
    (bitsN w 25 19 = 0 → ∀ d e b, x.stage.find? (fun d => d.row == drRow w) = some d → x.tileOf (drRow w) = some e → e.scBuf = some b →
      d.entries = bitsN w 17 8 → bitsN w 17 8 < qdScRow e.qd → qdScN e.qd ≠ 0 →
      let m := (d.row - e.acc0) * qdScRow e.qd + bitsN w 17 8
      let y := b.2 + 4 * m
      (c.seenTell (y / 64)).st = .full → (c.seenTell (y / 64)).tag = e.scTag →
        Does (.vsca q w) s0 (fun t =>
          (t.core q.core).sail i = { x with stage := x.stage.map (fun z => if z.row = d.row
            then { d with entries := d.entries + 1, val := if d.poison then BitVec.allOnes 2048 else addEntry c e (Memory.readN c.pad y 4) d.val } else z) } ∧
          (t.core q.core).pad = c.pad ∧
          (∀ j, (t.core q.core).tell j = if j = y / 64 then c.readTell (m % 16 == 15 || m + 1 == e.rows * qdScRow e.qd) j else c.tell j) ∧
          keepsRegs q none none s t ∧ slotFrame q (Core.onlySail i) s t))

/-- O23. Fill, copy and release (05 R99, R102, R109, Table 5.6): MFILL puts its pattern on its way to whole slots, one an fc, and holds the engine; MCOPY of one slot reads it in
its fc and stores it L of the source bank later; MREL empties the HELD slots of its tag; FILL_COPY_DONE frees the engine. -/
def Obligations.FillCopyRelease : Prop :=
  ∀ (q : Issue) (w : BitVec 80) (s0 s : State) (k ph a : Nat),
    let o := mvSpo w
    let c := s.core q.core
    let n := mvCount w
    ((s0.core q.core).engine = none → issuesAt s0 q false [bitsN w 66 5] [] k s → bitsN w 71 9 = 0 → bitsN w 30 24 = 0 → o.writes = true → o.ofs % 4 = 0 →
      writesWell q s o n ph a →
      Does (.mfill q w) s0 (fun t =>
        let r := (c.tc q.ctx).rdS (bitsN w 66 5)
        writesLater q 6 o n ph a (fillData (r.val.extractLsb' 0 32) n) r.poison 1 k s t ∧ (t.core q.core).engine = some .fill ∧
        keepsRegs q none none s t ∧ slotFrame q (fun c d => Core.onlyPad c { d with engine := c.engine }) s t)) ∧
    (∀ sph b, let src := spoAt w 30
      (s0.core q.core).engine = none → issuesAt s0 q false [] [] k s → n = 1 → bitsN w 66 14 = 0 → o.writes = true → src.reads = true → o.ofs % 4 = 0 →
      writesWell q s o 1 ph a → ¬ (a / 64 ≤ (b + 63) / 64 ∧ b / 64 < a / 64 + 1) →
      c.resolve q.ctx src.handle src.byte 64 false (b2n src.take) = .ok (sph, b) →
      Does (.mcopy q w) s0 (fun t =>
        (t.core q.core).pad = c.pad ∧ (t.core q.core).tells = c.tells ∧ (t.core q.core).late.length = c.late.length + 1 ∧
        (c.late = [] → Memory.wf c.pad = true → (c.tell (a / 64)).st = .empty → c.fenced (a / 64) = false →
          (c.seenTell (b / 64)).st = .full ∨ (c.seenTell (b / 64)).st = .held → (c.seenTell (b / 64)).tag = tagOf (c.tc q.ctx).seq src.tag → ∀ u, k + bankLat b < u →
          let d := (t.settle q.core u).core q.core
          (∀ x, Memory.read d.pad x =
            if 64 * (a / 64) ≤ x ∧ x < 64 * (a / 64) + 64 then Memory.read c.pad (64 * (b / 64) + (x - 64 * (a / 64))) else Memory.read c.pad x) ∧
          ∀ j, d.tell j = if j = a / 64 then tellOf q s o false else if j = b / 64 then c.readTell src.take j else c.tell j) ∧
        (t.core q.core).engine = some .copy ∧ keepsRegs q none none s t ∧ slotFrame q (fun c d => Core.onlyPad c { d with engine := c.engine }) s t)) ∧
    (issuesAt s0 q false [] [] k s → bitsN w 66 14 = 0 → bitsN w 30 24 = 0 → o.mode = 4 → o.ofs % 4 = 0 →
      c.resolve q.ctx o.handle o.byte (64 * n) false o.mode = .ok (ph, a) →
      Does (.mrel q w) s0 (fun t =>
        (∀ j, (t.core q.core).tell j =
          if a / 64 ≤ j ∧ j < a / 64 + n ∧ (c.seenTell j).st = .held ∧ (c.seenTell j).tag = tagOf (c.tc q.ctx).seq o.tag ∧ (AMap.find c.taken j).isNone
          then { c.tell j with st := .empty } else c.tell j) ∧
        (t.core q.core).pad = c.pad ∧ keepsRegs q none none s t ∧ padFrame q s t)) ∧
    ∀ m : Fin 9216, (s.core m).late = [] → Does (.fillCopyDone m) s (fun t =>
      (t.core m).engine = none ∧ { t.core m with engine := (s.core m).engine, sails := (s.core m).sails } = s.core m ∧
      (∀ j, j ≠ m.val → t.core j = s.core j) ∧ { t with cores := s.cores } = s)

/-- O24. MRD and MWR (06 R122, R125, R126): the rows of a flat read are captured in order, bound for successive slot pairs, the path is taken to the last row's cycle, and
one entry is held until the last lands; the row of a write stands in the mast, every other mast byte as before, and one entry is held until the acknowledgement. -/
def Obligations.MastReadsAndWrites : Prop :=
  (∀ (q : Issue) (w : BitVec 80) (s0 s : State) (k ph dst pma : Nat),
    let o := mvSpo w
    let c := s.core q.core
    let n := bitsN w 35 5 + 1
    let a := (c.tc q.ctx).rdS (mvAreg w)
    issuesAt s0 q false [mvAreg w] [] k s → bitsN w 40 40 = 0 → o.writes = true → o.ofs % 4 = 0 → bitsN a.val 0 7 = 0 → hasRoom q s k →
    c.resolve q.ctx o.handle o.byte (128 * n) true o.mode = .ok (ph, dst) → c.mast.translate a.val (128 * n) false = .ok pma →
    (s.grp (s.corePart q.core)).guarded = false →
      Does (.mrd q w) s0 (fun t =>
        let d := t.core q.core
        let dues := pathCycles c.mast.refEnd (max (k + tierLat (tierOf pma)) (c.mast.path + 1)) n
        d.lands = c.lands ++ (List.range n).map (fun i => {
          trk := c.nextTrk, ctx := q.ctx, handle := ph, addr := dst + 128 * i, tag := tagOf (c.tc q.ctx).seq o.tag, hold := o.hold, due := dues.getD i 0,
          want := c.mast.planned (k + tierLat (c.mast.budgetTier a.val)) n, data := (c.mast.rowRead (pma + 128 * i)).1, poison := (c.mast.rowRead (pma + 128 * i)).2, row := pma / 128 + i, rid := 0 }) ∧
        tookEntry q .mastRead n none k s t ∧ { d.mast with path := c.mast.path, plan := c.mast.plan } = c.mast ∧ d.mast.path = dues.getLastD (max (k + tierLat (tierOf pma)) (c.mast.path + 1)) ∧
        d.mast.plan = c.mast.planned (k + tierLat (c.mast.budgetTier a.val)) n ∧
        keepsRegs q none none s t ∧ slotFrame q (fun c d => Core.onlyCtx c { d with lands := c.lands, mast := c.mast }) s t)) ∧
  ∀ (q : Issue) (w : BitVec 80) (s0 s : State) (k a pma : Nat),
    let o := mvSpo w
    let c := s.core q.core
    let n := bitsN w 35 5 + 1
    let r := (c.tc q.ctx).rdS (mvAreg w)
    issuesAt s0 q false [mvAreg w] [] k s → bitsN w 40 40 = 0 → o.reads = true → bitsN r.val 0 7 = 0 → hasRoom q s k → n = 1 →
    Memory.wf c.mast.data = true → readsWell q s o 128 a → c.mast.translate r.val 128 true = .ok pma →
      Does (.mwr q w) s0 (fun t =>
        let d := t.core q.core
        (∀ b, Memory.read d.mast.data b = if pma ≤ b ∧ b < pma + 128 then Memory.read c.pad (a + (b - pma)) else Memory.read c.mast.data b) ∧
        (∀ x, x ∈ d.mast.poison ↔ x ∈ c.mast.poison ∧ x ≠ pma / 128) ∧
        { d.mast with data := c.mast.data, poison := c.mast.poison, path := c.mast.path, plan := c.mast.plan } = c.mast ∧ tookEntry q .mastWrite 1 none k s t ∧
        readsPad q o 128 a s t ∧ keepsRegs q none none s t ∧ slotFrame q (fun c d => Core.onlyPad c { d with mast := c.mast }) s t)

/-- O25. MSEND, RSEND and MERGE (07 R156, R162, R164, R170, R173): one flit on its way to the core of the virtual coordinates, one reduction flit into the core's own router,
one merged request on its way to the holder; one entry each. In a guarded replay (05 R118, 07 R164) each of them arms a luff item. -/
def Obligations.MeshSends : Prop :=
  ∀ (q : Issue) (w : BitVec 80) (s0 s : State) (k a : Nat),
    let src := mvSpo w
    let c := s.core q.core
    let p := s.corePart q.core
    let seq := (c.tc q.ctx).seq
    let x := s.imgOf q.core
    let arms := fun (t : State) => ∃ i ∈ (t.grp p).items, i.src = .arrival q.core c.nextTrk ∧ i.ended = false
    issuesAt s0 q false [] [] k s → hasRoom q s k → src.reads = true → noInject s0 q.core = false →
    (let dst := spoAt w 46
     bitsN w 33 3 ≠ 7 → bitsN w 70 9 = 0 → bitAt w 79 = false → dst.writes = true → dst.ofs % 4 = 0 → bitsN w 36 4 ≤ 11 → bitsN w 40 4 ≤ 14 → bitsN w 30 3 ≤ rigWF x.rig →
     bitsN w 33 3 ≤ rigHF x.rig → readsWell q s src 64 a →
     ((s.grp p).guarded = true → (s.grp p).items = [] → Does (.msend q w) s0 arms) ∧
     ((s.grp p).guarded = false →
      Does (.msend q w) s0 (fun t =>
        (∃ f : Flit, t.fab.flits = s.fab.flits ++ [f] ∧ f.src = q.core ∧ f.trk = c.nextTrk ∧ f.part = p ∧
          f.dst = placeCore s x (bitsN w 30 3) (bitsN w 33 3) (bitsN w 36 4) (bitsN w 40 4) ∧ f.ctx = bitsN w 44 2 ∧ f.handle = dst.handle ∧ f.ofs = 16 * dst.ofs ∧
          f.tag = tagOf seq dst.tag ∧ f.hold = dst.hold ∧ f.data = BitVec.ofNat 512 (Memory.readN c.pad a 64) ∧ f.poison = false ∧ f.vc = 2) ∧
        { t.fab with flits := s.fab.flits } = s.fab ∧ tookEntry q .meshSend 1 none k s t ∧ readsPad q src 64 a s t ∧ keepsRegs q none none s t ∧
        slotFrame q Core.onlyPad s { t with fab := s.fab }))) ∧
    (let dst := spoAt w 54
     let e := s.redEntry q.core (bitsN w 30 6)
     bitsN w 78 2 = 0 → bitsN w 45 9 = 0 → dst.writes = true → dst.ofs % 4 = 0 → rnValid e = true → rnOut e ≠ 0 → dst.handle = 0 → dst.ofs = 0 → readsWell q s src 64 a →
     ((s.grp p).guarded = true → (s.grp p).items = [] → Does (.rsend q w) s0 arms) ∧
     ((s.grp p).guarded = false →
      Does (.rsend q w) s0 (fun t =>
        t.fab.reds = s.fab.reds ++ [{
          src := q.core, trk := c.nextTrk, part := p, dst := q.core, tree := bitsN w 30 6, fidx := bitsN w 36 9, tag := (tagOf seq dst.tag).toNat,
          place := localPlace e, data := BitVec.ofNat 512 (Memory.readN c.pad a 64), poison := false, due := k + bankLat a }] ∧
        { t.fab with reds := s.fab.reds } = s.fab ∧ tookEntry q .meshSend 1 none k s t ∧ readsPad q src 64 a s t ∧ keepsRegs q none none s t ∧
        slotFrame q Core.onlyPad s { t with fab := s.fab }))) ∧
    (let dst := spoAt w 55
     bitAt w 79 = false → bitsN w 30 4 ≤ 11 → bitsN w 34 4 ≤ 14 → 2 ≤ bitsN w 47 8 → bitsN w 47 8 ≤ 180 → src.mode = 0 → dst.writes = true → dst.ofs % 4 = 0 →
     ((s.grp p).guarded = true → (s.grp p).items = [] → Does (.merge q w) s0 arms) ∧
     ((s.grp p).guarded = false →
      Does (.merge q w) s0 (fun t =>
        (∃ m : MergeMsg, t.fab.merges = s.fab.merges ++ [m] ∧
          (∀ v, virtOf s x q.core = some v → m.holder = placeCore s x v.1 v.2.1 (bitsN w 30 4) (bitsN w 34 4)) ∧ m.part = p ∧ m.group = bitsN w 43 4 ∧
          m.tag = tagOf seq src.tag ∧ m.handle = src.handle ∧ m.ofs = src.byte ∧ m.sctx = q.ctx ∧ m.run = bitsN w 38 5 + 1 ∧ m.want = bitsN w 47 8 ∧
          m.req = { core := q.core, ctx := q.ctx, handle := dst.handle, ofs := dst.byte, tag := tagOf seq dst.tag, hold := dst.hold, trk := c.nextTrk, due := m.req.due }) ∧
        { t.fab with merges := s.fab.merges } = s.fab ∧ tookEntry q .merged (bitsN w 38 5 + 1) none k s t ∧ (t.core q.core).tells = c.tells ∧
        (t.core q.core).pad = c.pad ∧ keepsRegs q none none s t ∧ slotFrame q Core.onlyPad s { t with fab := s.fab })))

/-- O26. KVAPQ (13 R202, R315, R316): the positions are quantised with the descriptor and their records queued for the tier logic, one entry held, the overflows of every
slice of every row counted for the partition. -/
def Obligations.KvAppendQueues : Prop :=
  ∀ (q : Issue) (w : BitVec 80) (s0 s : State) (k a pma : Nat) (g : Geo),
    let o := mvSpo w
    let c := s.core q.core
    let r := (c.tc q.ctx).rdS (mvAreg w)
    let n := bitsN w 51 6 + 1
    let dr := c.readRes q.ctx (bitsN w 35 5) (16 * bitsN w 40 11) 16
    let d : BitVec 128 := BitVec.ofNat 128 dr.data
    issuesAt s0 q false [mvAreg w] [] k s → hasRoom q s k → bitsN w 57 23 = 0 → o.reads = true → o.take = false → dr.viol = none →
    AMap.find c.geos (bitsN r.val 32 4) = some g → qdOk d = true → qdAfmt d = 1 → qdWfmt d = 1 → qdRot d = g.hdCode → qdScRow d ≤ g.scmax →
    bitsN r.val 0 16 % g.recSize = 0 → bitAt r.val 63 = true → readsWell q s o (2 * g.elems * n) a → c.mast.translate r.val (g.recSize * n) true = .ok pma →
    0 < g.elems → (qdRot d = 0 ∨ ∀ j, j < g.elems / 64 → (kvSigns c q.ctx d (64 * j)).viol = none) →
      Does (.kvapq q w) s0 (fun t =>
        let item := fun (j : Nat) => Memory.readN c.pad (a + 2 * g.elems * j) (2 * g.elems)
        let rows := (List.range n).map (fun j => kvOne c q.ctx g d ((List.range g.elems).map (fun i => BitVec.ofNat 16 (item j >>> (16 * i)))))
        let spoilt := decide (qdRot d ≠ 0) && (List.range (g.elems / 64)).any (fun j => (kvSigns c q.ctx d (64 * j)).poison)
        (∃ e : Append, (t.core q.core).appends = c.appends ++ [e] ∧ e.trk = c.nextTrk ∧ e.space = g.space ∧ e.pma = pma ∧ e.rs = g.recSize ∧
          e.poison = List.replicate n spoilt ∧ e.recs = rows.map (kvRecord g)) ∧
        AMap.at t.stay.kvOvf 0 (s.corePart q.core) = min 0xFFFFFFFF (AMap.at s.stay.kvOvf 0 (s.corePart q.core) + (rows.map (fun r => r.misses)).sum) ∧
        { (t.core q.core).mast with path := c.mast.path, plan := c.mast.plan } = c.mast ∧ tookEntry q .kvAppend 1 none k s t ∧ (t.core q.core).pad = c.pad ∧ keepsRegs q none none s t ∧
        slotFrame q (fun c d => Core.onlyPad c { d with appends := c.appends, mast := c.mast }) s { t with stay := s.stay } ∧ { t.stay with kvOvf := s.stay.kvOvf } = s.stay)

/-- O27. XDISP of one row that selects one expert with room, in a table that the row does not close (09 R231, R232): each receiver gets its part of the row at the expert's next
capacity slot and the origin slot behind the capacity region, and the table counts the row and the selection. -/
def Obligations.ExpertDispatchSends : Prop :=
  ∀ (q : Issue) (w : BitVec 80) (s0 s : State) (k a b ei : Nat),
    let src := mvSpo w
    let sel := spoAt w 30
    let tab := bitsN w 63 5
    let c := s.core q.core
    let hr := c.readRes q.ctx tab 0 16
    let h := xtHeader c q.ctx tab
    let x := AMap.at c.xtabs { xtab := tab, ctx := q.ctx } (xtKey q.ctx tab)
    let e := xtEntry c q.ctx tab ei
    let dst := spoAt e 21
    let m := AMap.at x.sent 0 ei
    issuesAt s0 q false [] [] k s → hasRoom q s k → noInject s0 q.core = false → s.guarded q.core = false → bitsN w 68 12 = 0 → bitsN w 54 9 = 0 → src.mode = 0 →
    sel.mode = 0 → hr.viol = none → hr.poison = false → readsWell q s src (64 * rowWidth c q.ctx tab h) a → readsWell q s sel 32 b →
    bitsN (BitVec.ofNat 256 (Memory.readN c.pad b 32)) 0 16 = ei → ei < xhNexp h → ei ≠ 0xFFFF →
    (∀ j, 0 < j → j < 16 → bitsN (BitVec.ofNat 256 (Memory.readN c.pad b 32)) (16 * j) 16 = 0xFFFF) →
    (c.readRes q.ctx tab (16 * (1 + ei)) 16).viol = none → dst.writes = true → dst.ofs % 4 = 0 → m < xeCap e → x.rows + 1 < xhRows h →
      Does (.xdisp q w) s0 (fun t =>
        (∃ fl, t.fab.flits = s.fab.flits ++ fl ∧ fl.length = xeDest e * (xhRl h + 1) ∧
          ∀ j i, j < xeDest e → i ≤ xhRl h → ∃ f, fl[j * (xhRl h + 1) + i]? = some f ∧
            f.src = q.core ∧ f.trk = c.nextTrk ∧ f.dst = (receivers s q.core e).getD j 0 ∧ f.ctx = bitsN e 19 2 ∧ f.handle = dst.handle ∧
            f.tag = tagOf (c.tc q.ctx).seq dst.tag ∧ f.hold = dst.hold ∧
            (if i < xhRl h then f.data = BitVec.ofNat 512 (Memory.readN c.pad (a + 64 * (j * xhRl h + i)) 64) ∧ f.ofs = dst.byte + 64 * (m * xhRl h + i)
             else f.data = originSlot s q.core x.rows 0 0 ∧ f.ofs = dst.byte + 64 * (xeCap e * xhRl h + m))) ∧
        (let y := AMap.at (t.core q.core).xtabs { xtab := tab, ctx := q.ctx } (xtKey q.ctx tab)
         y.rows = x.rows + 1 ∧ AMap.at y.sent 0 ei = m + 1 ∧ (∀ j, j ≠ ei → AMap.at y.sent 0 j = AMap.at x.sent 0 j) ∧ y.listed = x.listed) ∧
        { t.fab with flits := s.fab.flits } = s.fab ∧ tookEntry q .dispatch 1 none k s t ∧ (t.core q.core).pad = c.pad ∧ (t.core q.core).tells = c.tells ∧
        keepsRegs q none none s t ∧ slotFrame q (fun c d => Core.onlyPad c { d with xtabs := c.xtabs }) s { t with fab := s.fab })

/-- O28. Landings, acknowledgements and outside traffic of a mast (06 R125, R126, R139, R140, 13 R307, R316): a clean row fills its slot pair, and while the line is asserted
only one due by the stalled cycle lands; the oldest write's entry is released; the oldest append is placed; an access from outside is served at once between steps, waits
within one, and is refused across partitions. An uncorrectable row (R127, R129) poisons its slot pair, is counted and queued for its re-read, and the step fails with fault
0x04. -/
def Obligations.MastTraffic : Prop :=
  ∀ (m : Fin 9216) (s : State),
    let c := s.core m
    let p := s.corePart m
    let free := fun (l : Landing) => Memory.wf c.pad = true ∧ ∀ j, l.addr / 64 ≤ j → j < l.addr / 64 + 2 → (c.tell j).st = .empty ∧ c.fenced j = false
    (∀ l r, c.lands = l :: r → c.still → (s.grp p).stalled = none → l.poison = false → l.row ∉ c.mast.bad → free l →
      Does (.mastRowLand m .clean) s (fun t =>
        let d := t.core m
        (∀ b, Memory.read d.pad b = if 64 * (l.addr / 64) ≤ b ∧ b < 64 * (l.addr / 64) + 128
          then BitVec.ofNat 8 (l.data.toNat >>> (8 * (b - 64 * (l.addr / 64)))) else Memory.read c.pad b) ∧
        (∀ j, d.tell j = if l.addr / 64 ≤ j ∧ j < l.addr / 64 + 2 then ⟨if l.hold then .held else .full, l.tag⟩ else c.tell j) ∧
        d.lands = r ∧ d.tracks = (c.stepTrk l.trk).tracks ∧
        { d with pad := c.pad, tells := c.tells, seen := c.seen, taken := c.taken, lands := c.lands, tracks := c.tracks } = c ∧
        (t.grp p).cyc = max (s.grp p).cyc l.due ∧ onlyCore m s t ∧ onlyCyc s t)) ∧
    (∀ l r u ecc, c.lands = l :: r → (s.grp p).stalled = some u → (s.grp p).guarded = false → u < l.due → Does (.mastRowLand m ecc) s (fun t => t = s)) ∧
    (∀ k, c.tracks.find? (fun k => k.kind == .mastWrite) = some k →
      Does (.mastWriteAck m) s (onlyOneCore m (fun c d => d = { c with tracks := c.tracks.filter (fun e => e.id != k.id) }) s)) ∧
    (∀ a r, c.appends = a :: r → (∀ b ∈ a.poison, b = false) →
      (∀ k ∈ appendRows (AMap.at c.geos {} a.space) a, a.pma / 0x10000 * 512 + k ∉ c.mast.bad) →
      Does (.kvapqAck m []) s (onlyOneCore m (fun c d =>
        d.appends = r ∧ d.tracks = c.tracks.filter (fun e => e.id != a.trk) ∧
        d.mast = { c.mast with data := (((List.range a.recs.length).zip a.recs).foldl
          (fun x e => placeRecord (AMap.at c.geos {} a.space) x (a.pma / 0x10000 * 0x10000) (a.pma % 0x10000 / max a.rs 1 + e.1) e.2) c.mast.data) } ∧
        { d with appends := c.appends, tracks := c.tracks, mast := c.mast } = c) s)) ∧
    (∀ (write mark : Bool) (q : Fin 64) (row : Fin 0x400000) (x : Row) (ecc : Ecc),
      (mark = true ∨ (q.val = p ∧ (s.field (m / 192)).owned = true) →
        ((s.coreSteps m = true → (s.grp p).inStep = false ∨ c.mast.svcEnd ≤ (s.grp p).cyc →
          Does (.outsideMastAccess m write mark q row ⟨x, ecc⟩) s (onlyOneCore m (fun c d => ∃ found,
            d = { c with mast := { c.mast with outside := c.mast.outside ++ [.access write q mark (128 * row.val) x found] } }) s)) ∧
        (s.coreSteps m = false → c.mast.outside = [] → c.mast.svcDone = 0 → write = true ∨ (row.val ∉ c.mast.bad ∧ ecc = .clean) →
          Does (.outsideMastAccess m write mark q row ⟨x, ecc⟩) s (onlyOneCore m (fun c d =>
            d.mast.answered = (if write then c.mast.answered else
              c.mast.answered ++ [.row false (c.mast.rowRead (128 * row.val)).2 (c.mast.rowRead (128 * row.val)).1]) ∧
            (Memory.wf c.mast.data = true → ∀ b, Memory.read d.mast.data b = if write = true ∧ 128 * row.val ≤ b ∧ b < 128 * row.val + 128
              then BitVec.ofNat 8 (x.toNat >>> (8 * (b - 128 * row.val))) else Memory.read c.mast.data b) ∧
            (∀ n, n ∈ d.mast.poison ↔ n ∈ c.mast.poison ∧ ¬ (write = true ∧ n = row.val)) ∧
            { d with mast := { d.mast with answered := c.mast.answered, data := c.mast.data, poison := c.mast.poison } } = c) s)) ∧
        (s.coreSteps m = false → c.mast.outside = [] → c.mast.svcDone = 0 → write = false → row.val ∉ c.mast.bad → row.val ∉ c.mast.poison →
          (ecc = .uncorrectable → c.mast.ueRows = [] → c.mast.reread = [] →
            Does (.outsideMastAccess m write mark q row ⟨x, ecc⟩) s (fun t =>
              let n := (t.core m).mast
              n.answered = c.mast.answered ++ [.row false true (BitVec.allOnes 1024)] ∧ n.ue = min 0xFF (c.mast.ue + 1) ∧ n.reread = [row.val] ∧
              t.mst.ueTotal = min 0xFFFFFFFF (s.mst.ueTotal + 1) ∧ ∀ b, Memory.read n.data b = Memory.read c.mast.data b)) ∧
          (ecc = .corrected →
            Does (.outsideMastAccess m write mark q row ⟨x, ecc⟩) s (fun t =>
              let n := (t.core m).mast
              n.answered = c.mast.answered ++ [.row false false (c.mast.rowRead (128 * row.val)).1] ∧ n.ce = min 0xFFFF (c.mast.ce + 1) ∧
              n.writeBack = c.mast.writeBack ++ [row.val] ∧ t.mst.ceTotal = min 0xFFFFFFFF (s.mst.ceTotal + 1) ∧
              ∀ b, Memory.read n.data b = Memory.read c.mast.data b))))) ∧
      (mark = false → q.val ≠ p →
        Does (.outsideMastAccess m write mark q row ⟨x, ecc⟩) s (fun t =>
          t.mst.log = s.mst.log.push (packFields 32 [(0, 14, m.val), (14, 2, tierOf (128 * row.val)), (16, 3, 6)], 0#32, packFields 32 [(0, 16, q.val)]) ∧
          (t.core m).mast.answered = (if write then c.mast.answered else c.mast.answered ++ [.row true true (BitVec.allOnes 1024)]) ∧
          { t.core m with mast := { (t.core m).mast with answered := c.mast.answered } } = c ∧ ∀ j, t.grp j = s.grp j))) ∧
    ∀ l r, c.lands = l :: r → c.still → (s.grp p).stalled = none → l.poison = false → c.mast.bad = [] → c.mast.ueRows = [] → c.mast.reread = [] →
      (s.grp p).inStep = true → free l →
      Does (.mastRowLand m .uncorrectable) s (fun t =>
        let d := t.core m
        (∀ j, l.addr / 64 ≤ j → j < l.addr / 64 + 2 → d.tell j = ⟨.poison, l.tag⟩) ∧ d.mast.ue = min 0xFF (c.mast.ue + 1) ∧ d.mast.ueRows = [l.row] ∧
        d.mast.reread = [l.row] ∧ t.mst.ueTotal = min 0xFFFFFFFF (s.mst.ueTotal + 1) ∧ ∃ f ∈ (t.grp p).faults, f.code = 4)

/-- O29. Refresh (06 R131, R132, R135, R136, R137): the debt rises with a tick; at 16 the tier refreshes at once to 8 and the step fails with fault 0x09; a catch-up between steps pays
one; after a cool second the partition is to return to the normal schedule. -/
def Obligations.RefreshDebt : Prop :=
  ∀ (m : Fin 9216) (k : Fin 4) (s : State),
    let c := s.core m
    let p := s.corePart m
    (s.hasField (m / 192) = true → c.mast.tiers[k].debt < 11 →
      Does (.refreshDebtTick m k) s (fun t =>
        let d := t.core m
        d.mast.tiers[k] = { c.mast.tiers[k] with debt := c.mast.tiers[k].debt + 1 } ∧ (∀ j : Fin 4, j ≠ k → d.mast.tiers[j] = c.mast.tiers[j]) ∧
        d.mast.debtHwm = max c.mast.debtHwm (c.mast.tiers[k].debt + 1) ∧
        { d with mast := { d.mast with tiers := c.mast.tiers, debtHwm := c.mast.debtHwm } } = c ∧ (∀ j, j ≠ m.val → t.core j = s.core j) ∧
        (t.part p).refHwm = (if (s.field (m / 192)).owned then max (s.part p).refHwm (c.mast.tiers[k].debt + 1) else (s.part p).refHwm) ∧
        { t.part p with refHwm := (s.part p).refHwm } = s.part p ∧ t.mst = s.mst ∧ t.fab = s.fab ∧ t.host = s.host ∧ t.table = s.table)) ∧
    (s.hasField (m / 192) = true → (s.field (m / 192)).owned = true → c.mast.tiers[k].debt = 15 → (s.grp p).inStep = true →
      Does (.refreshDebtTick m k) s (fun t =>
        (t.core m).mast.tiers[k] = { c.mast.tiers[k] with debt := 8 } ∧ (∀ j : Fin 4, j ≠ k → (t.core m).mast.tiers[j] = c.mast.tiers[j]) ∧
        t.mst.log = s.mst.log.push (packFields 32 [(0, 14, m.val), (14, 2, k.val), (16, 3, 4)], 0#32, 0#32) ∧ ∃ f ∈ (t.grp p).faults, f.code = 9)) ∧
    (s.coreSteps m = false → 1 ≤ c.mast.tiers[k].debt →
      Does (.refreshCatchup m k) s (onlyOneCore m (fun c d =>
        d.mast.tiers[k] = { c.mast.tiers[k] with debt := c.mast.tiers[k].debt - 1 } ∧ (∀ j : Fin 4, j ≠ k → d.mast.tiers[j] = c.mast.tiers[j]) ∧
        { d with mast := { d.mast with tiers := c.mast.tiers } } = c) s)) ∧
    ∀ (q : Fin 64) (now : Dword), (∀ j, j ∈ s.coresOf q → ∀ x ∈ (s.core j).mast.tiers.toList, x.temp ≤ s.mst.hotOff ∧ x.failed = false) →
      (∀ u, AMap.find s.sys.thm.hotCalm q = some u → ∃ v, u = some v ∧ v + 1000000000 ≤ now.toNat) →
      Does (.hotOffDwellExpire ⟨q, now⟩) s (fun t => { t with tb := s.tb, parts := s.parts } = s ∧ t.part q = { s.part q with hotAsked := false } ∧ ∀ j, j ≠ q.val → t.part j = s.part j)

/-- O30. The mast tables and pages (06 R139, R141 to R145, 13 R308): MAP and UNMAP write the page entry and the shadow, answer, and hold the TLB change for the next boundary; RELEASE
removes every page of a range; REBUILD holds a reload; PAGE_INIT writes a page's initial image. While the core's partition steps, and no service window is open, each of
them waits. The rows that a walk reads are free of errors here (what the mast finds in them is an operand: log entry 76). -/
def Obligations.MastTables : Prop :=
  ∀ (m : Fin 9216) (rid : BitVec 16) (vpn : BitVec 20) (g : BitVec 13) (s : State),
    let x := (s.core m).mast
    let p := s.corePart m
    let ok := x.answered ++ [.result 0]
    let frame := fun (t : State) => { t.core m with mast := x } = s.core m ∧ (∀ j, j ≠ m.val → t.core j = s.core j) ∧ t.fab = s.fab ∧ t.mst = s.mst ∧ t.host = s.host
    (x.failed = false → s.coreSteps m = false → x.outside = [] → x.svcDone = 0 → x.bad = [] → (s.req p).pageWork = [] →
      (∀ wr y a, x.pageBase ≤ g.toNat → g.toNat / 2048 ≤ x.tierMax → Memory.readN x.data (8 * g.toNat) 8 % 2 = 0 → x.tableAddr rid.toNat vpn.toNat = (y, some a) →
        Memory.readN y.data a 4 % 2 = 0 →
        Does (.tlbMap ⟨m, []⟩ rid vpn g wr) s (fun t =>
          (t.core m).mast = { y with
            answered := y.answered ++ [.result 0]
            data := (Memory.writeN (Memory.writeN y.data a (1 + 2 * (if wr then 1 else 0) + 2 ^ 16 * g.toNat) 4) (8 * g.toNat)
              (1 + 2 * (if wr then 1 else 0) + 2 ^ 16 * rid.toNat + 2 ^ 32 * vpn.toNat) 8)
            held := y.held ++ [.install g.toNat { wr := wr, rid := rid.toNat, vpn := vpn.toNat }] } ∧ frame t)) ∧
      (∀ a, x.walk rid.toNat vpn.toNat = some a → Memory.readN x.data a 4 % 2 = 1 →
        Does (.tlbUnmap ⟨m, []⟩ rid vpn) s (fun t =>
          let h := Memory.readN x.data a 4 / 2 ^ 16 % 2 ^ 13
          (t.core m).mast = { x with answered := ok, data := Memory.clear (Memory.clear x.data a 4) (8 * h) 8, held := x.held ++ [.remove h] } ∧ frame t)) ∧
      Does (.tlbRelease ⟨m, []⟩ rid) s (fun t => (t.core m).mast = { (x.release' rid.toNat).1 with answered := ok } ∧ frame t) ∧
      Does (.tlbRebuild m) s (fun t => (t.core m).mast = { x with answered := ok, held := x.held ++ [.reload] } ∧ frame t) ∧
      (x.pageBase ≤ g.toNat → g.toNat / 2048 ≤ x.tierMax →
        Does (.pageInit m rid vpn g) s (fun t =>
          (t.core m).mast = { x with
            answered := ok
            data := initPage (AMap.at (s.core m).geos {} (vpn.toNat / 65536)) x.data (0x10000 * g.toNat)
            poison := x.poison.filter (fun r => decide (r < 512 * g.toNat) || decide (512 * g.toNat + 512 ≤ r)) } ∧ frame t))) ∧
    (∀ found, s.coreSteps m = true → (s.grp p).inStep = false ∨ x.svcEnd ≤ (s.grp p).cyc →
      let waits := fun (o : Outside) (t : State) => (t.core m).mast = { x with outside := x.outside ++ [o] } ∧ frame t
      (∀ wr, Does (.tlbMap ⟨m, found⟩ rid vpn g wr) s (waits (.map rid.toNat vpn.toNat g.toNat wr (foundRows found)))) ∧
      Does (.tlbUnmap ⟨m, found⟩ rid vpn) s (waits (.unmap rid.toNat vpn.toNat (foundRows found))) ∧
      Does (.tlbRelease ⟨m, found⟩ rid) s (waits (.release rid.toNat (foundRows found))) ∧ Does (.tlbRebuild m) s (waits .rebuild) ∧
      Does (.pageInit m rid vpn g) s (waits (.init rid.toNat vpn.toNat g.toNat)))

/-- O31. Arrivals in the mesh (07 R156, R161, R162, R165, R168, R170, R173): a flit is written under its telltale mode, a VC0 message FULL with tag 0x01, the first input of a node
opens its sum, a merged request opens its entry, and a send with nothing on its way releases its entry. What passes leaves the high-water marks of the routers' buffers at a
free value (log entry 88). A flit spoiled on a seam is counted and written as poison, and the step fails with fault 0x05. One that would leave its partition (R155, R167) is
refused: logged as KIND 1, counted, its sender's step failed with fault 0x07, and no scratchpad written. -/
def Obligations.MeshArrivals : Prop :=
  let wrote := fun (dst a : Nat) (x : Slot) (y : Tell) (s t : State) =>
    let c := s.core dst
    let d := t.core dst
    (∀ b, Memory.read d.pad b = if 64 * (a / 64) ≤ b ∧ b < 64 * (a / 64) + 64 then BitVec.ofNat 8 (x.toNat >>> (8 * (b - 64 * (a / 64)))) else Memory.read c.pad b) ∧
    (∀ j, d.tell j = if j = a / 64 then y else c.tell j) ∧ { d with pad := c.pad, tells := c.tells, seen := c.seen, taken := c.taken } = c ∧ (∀ j, j ≠ dst → t.core j = s.core j)
  let goes := fun (s t : State) (fab : Fabric) => { t.fab with vcHwm := s.fab.vcHwm } = fab ∧ { t with cores := s.cores, fab := s.fab, free := s.free } = s
  let room := fun (s : State) (dst a : Nat) => (s.core dst).still ∧ Memory.wf (s.core dst).pad = true ∧ ((s.core dst).tell (a / 64)).st = .empty ∧ (s.core dst).fenced (a / 64) = false
  (∀ (i ph a : Nat) (f : Flit) (s : State), s.fab.flits[i]? = some f → refusedAt s f.part f.from f.dst = none → f.sheet = none → f.merged = false → f.pad = 0 → f.vc ≠ 3 →
    (s.grp f.part).guarded = false → room s f.dst a →
    (s.core f.dst).resolve f.ctx f.handle f.ofs 64 true (if f.hold then 3 else 2) = .ok (ph, a) →
      (f.poison = false → lostOn s f.links = none →
        Does (.meshFlitArrive i .visible) s (fun t => goes s t { s.fab with flits := s.fab.flits.eraseIdx i } ∧
          wrote f.dst a f.data ⟨if f.hold then .held else .full, f.tag⟩ s t)) ∧
      (∀ k l, (s.grp f.part).inStep = true → Does (.meshFlitArrive i (.seamUe k l)) s (fun t =>
        wrote f.dst a f.data ⟨.poison, f.tag⟩ s t ∧ t.fab.ueTotal = min 0xFFFFFFFF (s.fab.ueTotal + 1) ∧
        (t.seam k).ueCnt = min 0xFF ((s.seam k).ueCnt + 1) ∧ ∃ x ∈ (t.grp f.part).faults, x.code = 5))) ∧
  (∀ (i ph a : Nat) (f : Vc0Msg) (s : State), s.fab.vc0[i]? = some f → s.corePart f.dst = f.part → room s f.dst a →
    lostOn s (vc0Links s f.dst) = none → waitsOn s (vc0Links s f.dst) = false → (s.core f.dst).resolve f.ctx f.handle f.ofs 64 true 2 = .ok (ph, a) →
      Does (.vc0MessageDeliver ⟨i, none⟩) s (fun t => goes s t { s.fab with vc0 := s.fab.vc0.eraseIdx i } ∧ wrote f.dst a f.data ⟨.full, 0x01#8⟩ s t)) ∧
  (∀ (i : Nat) (f : RedFlit) (s : State), s.fab.reds[i]? = some f →
    let e := s.redEntry f.dst f.tree
    let r := (s.core f.dst).router
    refusedAt s f.part f.src f.dst = none → lostLink s f.src f.dst = none → (s.grp f.part).guarded = false → rnValid e = true → 1 < rnNin e → f.place = 0 → r.parts = [] →
    r.sums = [] → (f.tree, f.fidx, f.tag) ∉ r.bad →
      Does (.reductionFlitArrive ⟨i, none⟩) s (fun t => goes s t { s.fab with reds := s.fab.reds.eraseIdx i } ∧
        (t.core f.dst).router = { r with
          sums := [{ tree := f.tree, fidx := f.fidx, tag := f.tag, upto := 1, data := f.data, poison := f.poison, due := f.due }], redHwm := max r.redHwm 1 } ∧
        { t.core f.dst with router := r } = s.core f.dst ∧ (∀ j, j ≠ f.dst → t.core j = s.core j))) ∧
  (∀ (i : Nat) (x : MergeMsg) (s : State), s.fab.merges[i]? = some x →
    let r := (s.core x.holder).router
    refusedAt s x.part x.req.core x.holder = none → lostLink s x.req.core x.holder = none → r.merges = [] → r.waiting = [] → (x.group, x.tag) ∉ r.closed →
      Does (.mergeRequestArrive ⟨i, none⟩) s (fun t => goes s t { s.fab with merges := s.fab.merges.eraseIdx i } ∧
        (t.core x.holder).router = { r with
          merges := [{ group := x.group, tag := x.tag, handle := x.handle, ofs := x.ofs, ctx := x.sctx, run := x.run, want := x.want, reqs := [{ x.req with poison := false }] }] } ∧
        { t.core x.holder with router := r } = s.core x.holder ∧ (∀ j, j ≠ x.holder → t.core j = s.core j))) ∧
  (∀ (m : Fin 9216) (k : Track) (s : State), (s.core m).tracks.find? (fun e => e.id == k.id && (e.kind == .meshSend || e.kind == .dispatch)) = some k →
    s.fab.flits.all (fun f => f.merged || f.src != m.val || f.trk != k.id) = true → s.fab.reds.all (fun f => f.node || f.src != m.val || f.trk != k.id) = true →
    (s.slice (s.corePart m)).sends.all (fun x => x.core != m.val || x.trk != k.id) = true →
      Does (.deliveryCreditReturn m k.id) s (onlyOneCore m (fun c d => d = { c with tracks := c.tracks.filter (fun e => e.id != k.id) }) s)) ∧
  ∀ (i rtr : Nat) (o : FlitEnd) (f : Flit) (s : State), s.fab.flits[i]? = some f → f.src < 9216 → refusedAt s f.part f.src f.dst = some rtr →
    (s.grp (s.corePart f.src)).inStep = true →
      Does (.meshFlitArrive i o) s (fun t =>
        t.fab.flits = s.fab.flits.eraseIdx i ∧ t.fab.isoTotal = min 0xFFFFFFFF (s.fab.isoTotal + 1) ∧
        t.fab.log = s.fab.log.push (packFields 32 [(0, 14, rtr), (14, 3, 1)],
          packFields 32 [(0, 7, 0), (7, 4, 0), (11, 6, f.part), (17, 6, s.corePart rtr), (23, 6, 0)], s.tb.setWidth 32) ∧
        (∃ x ∈ (t.grp (s.corePart f.src)).faults, x.code = 7) ∧ t.cores = s.cores)

/-- O32. Reduction sums and merge closes (07 R170, R173): an addition in fixed order completes and leaves the sum with one more input; an entry that closes before its last request serves its run to
every requester that has attached and is remembered as closed. -/
def Obligations.ReductionsAndMerges : Prop :=
  ∀ (m : Fin 9216) (s : State),
    let r := (s.core m).router
    (∀ (tree : Fin 64) (fidx : Fin 512) (tag : BitVec 8) (x : RedSum) (y : RedPart),
      r.sums = [x] → r.parts = [y] → x.tree = tree → x.fidx = fidx → x.tag = tag.toNat → y.tree = tree → y.fidx = fidx → y.tag = tag.toNat → y.place = x.upto →
      x.upto + 1 ≠ rnNin (s.redEntry m tree) → x.poison = false → y.poison = false →
      Does (.reductionAddDone m tree fidx tag) s (onlyOneCore m (fun c d => d = { c with router := { r with
        parts := [], sums := [{ x with upto := x.upto + 1, data := addFlits x.data y.data, due := max x.due y.due + 3 }] } }) s)) ∧
    ∀ (g : Fin 16) (tag : BitVec 8) (e : MergeEnt) (ph a : Nat), r.merges = [e] → r.waiting = [] → e.group = g → e.tag = tag → e.reqs.length < e.want → (e.group, e.tag) ∉ r.closed →
      (s.core m).still → (s.core m).taken = [] → (∀ q ∈ e.reqs, q.poison = false) →
      (s.core m).resolve e.ctx e.handle e.ofs (64 * e.run) false 0 = .ok (ph, a) → 0 < e.run →
      (∀ j, a / 64 ≤ j → j < a / 64 + e.run → (((s.core m).tell j).st = .full ∨ ((s.core m).tell j).st = .held) ∧ ((s.core m).tell j).tag = e.tag) →
      Does (.mergeEntryClose m g tag) s (fun t =>
        t.fab.flits = s.fab.flits ++ e.reqs.flatMap (fun q => (List.range e.run).map (fun i => {
          src := m, trk := q.trk, part := s.corePart m, dst := q.core, ctx := q.ctx, handle := q.handle, ofs := q.ofs + 64 * i, tag := q.tag, hold := q.hold,
          data := Memory.slotAt (s.core m).pad (a + 64 * i), poison := false,
          due := q.due + (if (hops s m q.core).2 = 0 then 1 else 2) * i, vc := 2, merged := true })) ∧
        { t.core m with seen := (s.core m).seen } = { s.core m with router := { r with merges := [], closed := r.closed ++ [(e.group, e.tag)] } } ∧ (∀ j, j ≠ m.val → t.core j = s.core j) ∧
        { t with cores := s.cores, fab := { t.fab with flits := s.fab.flits } } = s)

/-- O33. Seams (07 R165, R166): a lane's loss of lock takes the link down and marks it for retraining; errors above the threshold, or a request of the masthead, mark it; the retraining of a marked link that ends with up to 8 bad lanes
brings the link back up. Within one stepping partition a link retrains in the boundary interval only (R166). -/
def Obligations.SeamRetraining : Prop :=
  ∀ (k : Fin 88) (l : Fin 16) (n : Nat) (asked : Bool) (s : State),
    let x := s.seam k
    let y := AMap.at x.links {} l
    let rec' := fun (kind : Nat) => (packFields 32 [(0, 14, seamEnd k l), (14, 3, kind)], packFields 32 [(0, 7, k.val), (7, 4, l.val), (11, 6, 0), (17, 6, 0), (23, 6, 0)], s.tb.setWidth 32)
    let others := fun (t : State) => (∀ j, j ≠ k.val → t.seam j = s.seam j) ∧ (∀ j, j ≠ l.val → AMap.at (t.seam k).links {} j = AMap.at x.links {} j) ∧ t.fab.fields = s.fab.fields ∧ t.fab.flits = s.fab.flits
    l.val < linkCount k →
    Does (.seamLaneLockLoss k l) s (fun t => AMap.at (t.seam k).links {} l = { y with up := false, pend := true } ∧ t.fab.log = s.fab.log.push (rec' 0) ∧ others t ∧ t.cores = s.cores) ∧
    Does (.seamErrorWindow k l ⟨n, asked⟩) s (fun t => (t.seam k).ceSym = x.ceSym + n ∧
      AMap.at (t.seam k).links {} l = (if asked = true ∨ 16 * s.fab.retrainThr < n then { y with pend := true } else y) ∧ others t ∧ t.cores = s.cores) ∧
    (mayRetrain s k = true → y.pend = true → y.failed = false → n ≤ 8 →
      Does (.seamRetrainDone k l n) s (fun t => AMap.at (t.seam k).links {} l = { y with up := true, pend := false, spares := n } ∧
        (t.seam k).retrains = min 0xFF (x.retrains + 1) ∧ t.fab.log = s.fab.log.push (rec' 4) ∧ others t ∧ t.cores = s.cores)) ∧
    (mayRetrain s k = true → y.pend = true → y.failed = false → 8 < n →
      Does (.seamRetrainDone k l n) s (fun t => AMap.at (t.seam k).links {} l = { y with up := false, pend := false, failed := true } ∧
        (t.seam k).gap = true ∧ (t.seam k).retrains = min 0xFF (x.retrains + 1))) ∧
    (mayRetrain s k = false ∨ y.pend = false → Does (.seamRetrainDone k l n) s (fun t => t = s))

/-- O34. Fixed-hop mode (07 R174, R175): fields drain, start their counters together at a tick, and leave; a field that drains late is lost; a table with its free slot is loaded. -/
def Obligations.FixedHopMode : Prop :=
  ∀ (fs : BitVec 48) (n : Fin 48) (x : Dword) (s : State),
    Does (.fixedHopEnter fs) s (fun t => (∀ j, t.field j = if j < 48 ∧ fs.getLsbD j = true ∧ (s.field j).mode = .normal
      then { s.field j with mode := .draining, drained := false } else s.field j) ∧ { t with fab := { t.fab with fields := s.fab.fields } } = s) ∧
    (fieldEmpty s n = true → (s.field n).mode = .draining →
      Does (.fixedHopDrainDone n) s (fun t => t.field n = { s.field n with drained := true } ∧ onlyField n s t)) ∧
    ((s.field n).mode = .draining → (s.field n).drained = false → (s.field n).owned = false →
      Does (.fixedHopDrainTimeout n) s (fun t => (t.field n).mode = .dark ∧
        t.fab.log = s.fab.log.push (packFields 32 [(0, 14, n.val * 192), (14, 3, 6)], packFields 32 [(0, 7, 0), (7, 4, 0), (11, 6, 0), (17, 6, 0), (23, 6, 0)], s.tb.setWidth 32))) ∧
    ((∀ j, j < 48 → fs.getLsbD j = true → (s.field j).mode = .draining ∧ (s.field j).drained = true) →
      Does (.fixedHopStartTick fs x) s (fun t => (∀ j, t.field j = if j < 48 ∧ fs.getLsbD j = true
        then { s.field j with mode := .fixedHop, hopOrigin := some x.toNat } else s.field j) ∧ { t with fab := { t.fab with fields := s.fab.fields } } = s.atTick x)) ∧
    ((∀ f ∈ s.fab.flits, f.vc = 3 → bitAt fs (f.dst / 192) = false ∧ ∀ y ∈ (f.hops s).1, bitAt fs (y.1 / 192) = false) →
      Does (.fixedHopExitTick fs x) s (fun t => (∀ j, t.field j = if j < 48 ∧ fs.getLsbD j = true ∧ (s.field j).mode = .fixedHop
        then { s.field j with mode := .normal, hopOrigin := none, drained := false } else s.field j) ∧ { t with fab := { t.fab with fields := s.fab.fields } } = s.atTick x)) ∧
    ∀ (m : Fin 9216) (e : List (BitVec 15)), hopOk e = true →
      Does (.hopTableLoad m e) s (fun t => (t.core m).router.hop = e.map hopEntry ∧ (t.field (m / 192)).hopPeriod = e.length - 1 ∧
        { t.core m with router := { (t.core m).router with hop := (s.core m).router.hop } } = s.core m ∧ (∀ j, j ≠ m.val → t.core j = s.core j) ∧
        { t.field (m / 192) with hopPeriod := (s.field (m / 192)).hopPeriod } = s.field (m / 192) ∧ onlyField (m / 192) s { t with cores := s.cores })

/-- O35. A row breaches its envelope when s is not finite, above HI2 or below LO2, and a column that is not finite makes s so (04 R81). -/
def Obligations.EnvelopeBreach : Prop :=
  (∀ (w : BitVec 256) (s : BitVec 32), breaches w s = true ↔
    nonFinite32 s = true ∨ fLt (w.extractLsb' 32 32) s = true ∨ fLt s (w.extractLsb' 0 32) = true) ∧
  ∀ (v : VWord) (i : Nat) (w : BitVec 256), i < 64 → nonFinite32 (lane32 v i) = true → nonFinite32 (rowNorm v) = true ∧ breaches w (rowNorm v) = true

/-- O36. The norm check and escalation (04 R81, R85, R91, R94): a row within its envelope becomes final; one that breaches with a rung left joins the escalation and arms a luff item
20 fc ahead; a pass whose row no longer breaches makes it final and restores; the restored sail releases its item. A row whose DST broke a bound at its VDRN is written nowhere. -/
def Obligations.EscalationOfRows : Prop :=
  ∀ (m : Fin 9216) (i : Fin 4) (row : Fin 512) (s : State) (d : DrainRow) (o : OutTile),
    let c := s.core m
    let x := c.sail i
    let p := s.corePart m
    let lands := fun (v : VWord) (t : State) =>
      let f := drainForm d.ofmt v
      match d.dst with
      | none => (t.core m).pad = c.pad ∧ (t.core m).tells = c.tells
      | some (_, a) =>
        (∀ b, Memory.read (t.core m).pad b = if 64 * (a / 64) ≤ b ∧ b < 64 * (a / 64) + 64 * f.2
          then BitVec.ofNat 8 (f.1 >>> (8 * (b - 64 * (a / 64)))) else Memory.read c.pad b) ∧
        (∀ j, (t.core m).tell j = if a / 64 ≤ j ∧ j < a / 64 + f.2
          then ⟨if d.poison then .poison else if d.hold then .held else .full, d.tag⟩ else c.tell j)
    let free := ∀ ph a, d.dst = some (ph, a) → Memory.wf c.pad = true ∧ ∀ j, a / 64 ≤ j → j < a / 64 + 4 → (c.tell j).st = .empty ∧ c.fenced j = false
    x.stage.find? (fun d => d.row == row.val) = some d → x.tileOf row = some o →
    ((s.grp p).stalled = none → c.still → d.ready o = true → x.esc.any (fun e => e.row == row.val) = false → maskRung s m i o row = none →
      (breaches o.watch (rowNorm d.val) = false → row.val - o.acc0 ∉ o.ovf → free →
        Does (.rowNormCheck m i row) s (fun t => lands d.val t ∧ ((t.core m).sail i).stage = x.stage.filter (fun e => e.row != row.val) ∧ ((t.core m).sail i).esc = x.esc ∧
          onlyOneCore m (fun c e => { e with pad := c.pad, tells := c.tells, seen := c.seen, taken := c.taken, sails := c.sails, tracks := c.tracks } = c) s t)) ∧
      (breaches o.watch (rowNorm d.val) = true → wRungs o.watch ≠ 0 → s.escMode m ≠ 2 → (s.grp p).items.all (fun e => e.src != .escalation m i || e.ended) = true →
        Does (.rowNormCheck m i row) s (fun t =>
          (t.core m).sail i = { x with esc := x.esc ++ [{ row := row, reached := 0, target := 1 }], phase := if x.phase = .idle then .armed else x.phase } ∧
          (∃ e, (t.grp p).items = (s.grp p).items ++ [e] ∧ e.src = .escalation m i ∧ e.u = (s.grp p).cyc + 20 ∧ e.ended = false) ∧ (t.core m).pad = c.pad ∧ (t.core m).tells = c.tells)) ∧
      (breaches o.watch (rowNorm d.val) = true → wRungs o.watch = 0 ∨ s.escMode m = 2 →
        Does (.rowNormCheck m i row) s (fun t => (t.core m).stat.escBlock = min 0xFF (c.stat.escBlock + 1) ∧ ((t.core m).sail i).esc = x.esc))) ∧
    ((s.grp p).stalled.isSome = true → Does (.rowNormCheck m i row) s (fun t => t = s)) ∧
    (∀ e, x.phase = .passing → x.esc = [e] → e.row = row → 1 ≤ e.target → e.target ≤ 3 → wLayer o.watch = false →
      (∀ r, r < e.target → qdOk (rungQd c o (r + 1)) = true) → qdScN (rungQd c o e.target) = 0 → (∀ r ∈ rungReads c o e.target, r.viol = none ∧ r.poison = false) →
      rungPoison o e.target (c.mast.poison ++ c.mast.bad) = false →
      d.poison = false → (AMap.at o.init {} row.val).poison = false →
      (let r := repeatRow c o.watch (rungQd c o) (rungSigns c o e.target) o.ops (AMap.at o.init {} row).val (row - o.acc0) e.target
       breaches o.watch (rowNorm r.1) = false → r.2 = false → free →
        Does (.escalationPassEnd m i [] none) s (fun t => lands r.1 t ∧ ((t.core m).sail i).phase = .restoring ∧ ((t.core m).sail i).esc = [] ∧
          (t.core m).stat.escPass = min 0xFFFF (c.stat.escPass + 1)))) ∧
    (x.phase = .restoring →
      Does (.escalationRestoreDone m i) s (fun t => (t.core m).sail i = { x with phase := .idle } ∧ (∀ e ∈ (t.grp p).items, e.src = .escalation m i → e.ended = true) ∧
        (∀ j, j ≠ m.val → t.core j = s.core j) ∧ (t.core m).pad = c.pad))

/-- O37. The luff line (09 R225 to R230): the group stalls at the smallest armed cycle; a corrected row's item ends once it has begun, a late read's once its rows have landed; with all ended the line drops; a timeout in a field in
which an item is armed fails and ends the step with fault 0x08, and what the step has sent completes. -/
def Obligations.LuffLine : Prop :=
  ∀ (p : Fin 64) (s : State),
    let g := s.grp p
    (∀ u, g.nextStall = some u → g.stalled = none → g.inStep = true →
      Does (.luffStallBegin p) s (fun t => (t.grp p).stalled = some u ∧ (t.grp p).cyc = max g.cyc u ∧
        (t.grp p).items = g.items.map (fun i => if i.u ≤ u ∧ i.boundary = false then { i with begun := true } else i) ∧ { t with cores := s.cores, parts := s.parts } = s)) ∧
    (∀ (i : Nat) (x : LuffItem) (m a b : Nat), g.items[i]? = some x →
      (x.src = .corrected m a b ∧ x.begun = true) ∨ (x.src = .late m a ∧ ∀ l ∈ (s.core m).lands, l.trk ≠ a) →
      Does (.luffItemEnd p i) s (fun t => (t.grp p).items = g.items.map (fun y => if y.src = x.src then { y with ended := true } else y) ∧
        { t.grp p with items := g.items } = g ∧ t.cores = s.cores ∧ t.fab = s.fab ∧ ∀ j, j ≠ p.val → t.part j = s.part j)) ∧
    (∀ (i : Nat) (x : LuffItem) (m a b : Nat), g.items[i]? = some x →
      (x.src = .corrected m a b ∧ x.begun = false) ∨ (x.src = .late m a ∧ ∃ l ∈ (s.core m).lands, l.trk = a) → Does (.luffItemEnd p i) s (fun t => t = s)) ∧
    (∀ c, g.stalled = some c → (∀ i ∈ g.items, i.ended = true ∨ i.boundary = true ∨ c < i.u) →
      Does (.luffLineDrop p) s (fun t => t.grp p = { g with stalled := none, items := g.items.filter (fun i => !i.ended) } ∧ onlyGroup p s t)) ∧
    (∀ n : Fin 48, (∃ i ∈ g.items, i.begun = true ∧ i.ended = false ∧ i.src.inField s p n = true) → g.inStep = true →
      Does (.luffTimeout p n) s (fun t => (t.grp p).items = [] ∧ (t.grp p).stalled = none ∧ (t.grp p).closed = true ∧
        (∃ f ∈ (t.grp p).faults, f.code = 8) ∧ t.fab.flits = s.fab.flits ∧ ∀ m ∈ s.coresOf p, ∀ e ∈ (t.core m).tracks, e.kind.travels = true)) ∧
    (∀ n : Fin 48, (∀ i ∈ g.items, i.begun = true → i.ended = false → i.src.inField s p n = false) → Does (.luffTimeout p n) s (fun t => t = s))

/-- O38. Overflow passes and saves (04 R91, 09 R233, R234): a save starts the passes of a sail, or keeps what an overflow pass overwrites, and
changes no scratchpad byte outside its staging block (what the block then holds is open: log entry 77); with nothing on its way the routine runs on every
core with its expert and pass; at its end, with every entry that it took released, the state is restored and the next pass saved
for. -/
def Obligations.OverflowPasses : Prop :=
  let block := fun (c : Core) (ctx h n : Nat) (st : Option Nat) =>
    ∃ ph a, st = some a ∧ c.resolve ctx h 0 (64 * n) true 2 = .ok (ph, a) ∧ ∀ j, j < n → c.fenced (a / 64 + j) = false
  let keeps := fun (n : Nat) (st : Option Nat) (c d : Core) =>
    Memory.wf c.pad = true → ∀ b, (∀ a, st = some a → b < a ∨ a + 64 * n ≤ b) → Memory.read d.pad b = Memory.read c.pad b
  (∀ (m : Fin 9216) (k : Fin 4) (st : Option Nat) (s : State),
    let x := (s.core m).sail k
    x.phase = .armed ∨ x.phase = .saving → (∃ i ∈ (s.grp (s.corePart m)).items, i.src = .escalation m k ∧ i.begun = true ∧ i.ended = false) →
    (match x.tile with | none => st = none | some o => block (s.core m) o.ctx (bitsN o.watch 67 5) 256 st) →
      Does (.sequencerSaveDone m (some k)) s (fun t => onlyOneCore m (fun c d => d.sail k = { x with phase := .passing } ∧ (∀ j, j ≠ k.val → d.sail j = c.sail j) ∧
        keeps 256 st c d ∧ { d with sails := c.sails, pad := c.pad } = c) s { t with free := s.free })) ∧
  (∀ (m : Fin 9216) (st : Option Nat) (s : State) (r : OvfRun),
    let c := s.core m
    (s.field (m / 192)).ovf = some r → r.phase = .armed → (∃ j ∈ fieldCores s (m / 192), j ≠ m.val ∧ (s.core j).saved = none) → c.still →
    (∃ i ∈ (s.grp (s.corePart m)).items, i.src = .overflow (m / 192) ∧ i.begun = true ∧ i.ended = false) →
    (match (ownTables c r.pidx).head?.or (r.tables.head?.map (·.2)) with
      | none => st = none
      | some (ctx, tab) => (c.readRes ctx tab 0 16).viol = none ∧ block c ctx (xhStg (xtHeader c ctx tab)) 512 st) →
      Does (.sequencerSaveDone m none) s (fun t => onlyOneCore m (fun c d => keeps 512 st c d ∧
        { d with pad := c.pad } = { c with saved := some { tc0 := c.tc 0, sails := c.sails, pattern := c.pattern, vecNext := c.vecNext, nextTrk := c.nextTrk } })
        s { t with free := s.free })) ∧
  ∀ (n : Fin 48) (s : State) (r : OvfRun) (e pass : Nat) (rest : List (Nat × Nat)), (s.field n).ovf = some r → r.queue = (e, pass) :: rest →
    (r.phase = .sending → (∀ f ∈ s.fab.flits, f.src / 192 ≠ n.val) →
      Does (.overflowDispatchDone n) s (fun t => (t.field n).ovf = some { r with phase := .routine } ∧
        (∀ m ∈ fieldCores s n, let y := (t.core m).tc 0
          y.pc = BitVec.ofNat 13 r.entry ∧ y.ended = false ∧ y.sAt 0 = ⟨BitVec.ofNat 64 e, false⟩ ∧ y.sAt 1 = ⟨BitVec.ofNat 64 pass, false⟩ ∧
          (∀ j, 2 ≤ j → y.sAt j = ((s.core m).tc 0).sAt j) ∧ (t.core m).pad = (s.core m).pad) ∧
        (∀ m, m ∉ fieldCores s n → t.core m = s.core m) ∧ onlyField n s { t with cores := s.cores })) ∧
    (r.phase = .routine → (∀ m ∈ fieldCores s n, (s.core m).routineDone = true ∧ (s.core m).still) → rest ≠ [] →
      Does (.overflowRoutineDone n) s (fun t => (t.field n).ovf = some { r with queue := rest, phase := .armed } ∧
        (∀ m ∈ fieldCores s n, ∀ k, (s.core m).saved = some k →
          (t.core m).sails = k.sails ∧ (t.core m).pattern = k.pattern ∧ (t.core m).saved = none ∧ (t.core m).tc 0 = { k.tc0 with seq := ((s.core m).tc 0).seq }) ∧
        ∀ m, m ∉ fieldCores s n → t.core m = s.core m))

/-- O39. Boundaries (05 R108, R116, 09 R222, R223, R236, R237, R578): an end boundary closes the step and clears its commits and step records; a start boundary opens the next one at cycle 0 with the
faults that were carried over, every context of a core that serves a LOADED slot at its entry, SEQ 0x01, with phase 0 in force and nothing under way; an idle boundary leaves a partition that does not
step; a window within 1.1 times the declarations in force changes nothing but the one that the next is held to, one above them fails the step. -/
def Obligations.StepBoundaries : Prop :=
  ∀ (p : Fin 64) (x : Dword) (s : State),
    (endReady s p = true →
      Does (.stepEndBoundary p x) s (fun t => (t.grp p).inStep = false ∧ (t.grp p).closed = false ∧ (t.grp p).stalled = none ∧ (t.req p).commits = [] ∧ (t.req p).keff = [])) ∧
    ((s.grp p).inStep = false → (s.grp p).held = false → (∀ i ∈ (s.grp p).items, i.boundary = true → i.ended = true) → mayStep s p = true → sliceReady s p x.toNat = true →
      (s.part p).resetAsked = false → (s.part p).emptying = [] → (∃ i, i < 4 ∧ (s.img p i).st = .loaded ∧ slotSteps s p i = true) →
      Does (.stepStartBoundary p x) s (fun t =>
        let g := t.grp p
        g.inStep = true ∧ g.stepping = true ∧ g.cyc = 0 ∧ g.step = (s.grp p).step + 1 ∧ g.t0 = x.toNat ∧ g.carry = [] ∧ g.items = [] ∧ g.stalled = none ∧ g.closed = false ∧
        (t.req p).commits = [] ∧
        ∀ m ∈ s.coresOf p, ∀ i, s.slotOfField (m / 192) = some i → (s.img p i).st = .loaded → slotSteps s p i = true →
          (t.core m).phase = 0 ∧ (t.core m).tracks = [] ∧ (t.core m).late = [] ∧ (t.core m).vecNext = 0 ∧
          ∀ k : Fin 4, let y := (t.core m).tc k
            y.seq = 1#8 ∧ y.pc = (if (t.part p).hot then y.entryH else y.entryN) ∧ y.ended = !y.loaded ∧ y.loops = [] ∧ y.bun = none)) ∧
    ((s.grp p).inStep = false → isStepping s p = false → x.toNat % 1000000 = 0 →
      Does (.idleBoundary p x) s (fun t => (t.grp p).stepping = false ∧ (t.grp p).inStep = false)) ∧
    ∀ (m : Fin 9216) (mean : Nat),
      let g := s.grp (s.corePart m)
      let now := max (AMap.at (s.core m).decl 0 (s.core m).phase) (if g.inStep = true ∧ g.stalled = none then 0 else AMap.at (s.core m).decl 0 256)
      (10 * mean ≤ 11 * max (s.core m).winMax now ∨ mayStep s (s.corePart m) = false →
        Does (.imageCurrentWindow m mean) s (onlyOneCore m (fun c d => d = { c with winMax := now }) s)) ∧
      (mayStep s (s.corePart m) = true → g.inStep = true → 11 * max (s.core m).winMax now < 10 * mean →
        Does (.imageCurrentWindow m mean) s (fun t => (t.grp (s.corePart m)).quarNext = true ∧ (t.grp (s.corePart m)).closed = true ∧
          ∃ f ∈ (t.grp (s.corePart m)).faults, f.code = 0x41))

/-- O40. Frames of the sheet fabric (15 R359 to R364): accepted flits enter the mesh, credits release the send, a gate's outcome and a stamp are kept, a reset notice loses the slice, and so does any loss that a SUSPECT member reports;
a frame that no partition accepts is refused, logged and counted. -/
def Obligations.SheetFrames : Prop :=
  ∀ (i : Fin 8) (h : BitVec 128) (s : State),
    (∀ p, accepts s i h = some p →
      let y := s.slice p
      (∀ r dst fl, recvEntry s p (fhRank h) (fhRoute h) = some r → fhStep h = (s.grp p).step % 256 →
        AMap.at y.seen 0 (256 * fhRank h + fhRoute h) + (s.fab.flits.filter (fun f => f.part == p && f.sheet == some (fhRank h, fhRoute h))).length + fl.length ≤ bitsN r 11 9 + 1 →
        Does (.sheetTensorFrame i h dst fl) s (fun t => t.fab.flits = s.fab.flits ++ tensorFlits s p h dst fl ∧ { t with fab := { t.fab with flits := s.fab.flits } } = s)) ∧
      (∀ x, y.sends = [x] → x.rank = fhRank h → x.route = fhRoute h → x.left ≤ fhNflit h → fhErr h = false →
        Does (.sheetCreditFrame i h) s (fun t => (t.slice p).sends = [] ∧ { t.slice p with sends := y.sends } = y ∧
          t.core x.core = { s.core x.core with tracks := (s.core x.core).tracks.filter (fun k => k.id != x.trk) } ∧ { t with cores := s.cores, parts := s.parts } = s)) ∧
      (y.rank = 0 → fhStep h = (s.grp p).step % 256 → fhErr h = true → (s.grp p).inStep = true →
        Does (.sheetGateFrame i h) s (fun t => AMap.find (t.slice p).gates (fhRank h) = some true ∧ ∃ f ∈ (t.grp p).faults, f.code = 0x13)) ∧
      (∀ recs, Does (.sheetEndStampFrame i h recs) s (fun t => AMap.find (t.slice p).stamps (fhRank h) = some (fhTime h) ∧
        (t.slice p).record = (if fhRank h = 0 then some recs else y.record) ∧ t.cores = s.cores ∧ t.table = s.table ∧
        (y.st = .suspect → (∀ k ∈ otherRanks y, reachable s p k = true) → y.late = [fhRank h] → (t.slice p).st = .up ∧ (t.slice p).late = []))) ∧
      (∀ (what : Fin 5) ok e, (what.val = 3 ∧ y.st = .up) ∨ (2 ≤ what.val ∧ what.val ≤ 3 ∧ y.st = .suspect) →
        Does (.sheetNoticeFrame i h what ok e) s (fun t => (t.slice p).st = .lost ∧ (t.slice p).lostMask = lostMaskOf s p (fhRank h) ∧ (t.slice p).lostCnt = min 0xFFFF (y.lostCnt + 1)))) ∧
    (accepts s i h = none → Does (.sheetGateFrame i h) s (fun t => (t.port i).iso = min 0xFFFF ((s.port i).iso + 1) ∧
      t.sheet.log = s.sheet.log.push (packFields 32 [(0, 3, i.val), (3, 3, 2), (6, 6, (partOfSlice s (fhId h)).getD 0)],
        packFields 32 [(0, 16, fhId h), (16, 3, fhRank h), (19, 4, 0)], s.tb.setWidth 32) ∧ t.cores = s.cores ∧ t.fab = s.fab))

/-- O41. Waits, slices and timeouts of the sheet fabric (15 R361, R362, R365, R366): a wait arms an item; a late stamp makes the slice SUSPECT, and one that stays missing, or a
member that stays unreachable, LOST, each at a tick at which its time has passed and at no earlier one. -/
def Obligations.SheetWaitsAndSlices : Prop :=
  ∀ (p : Fin 64) (r : Fin 8) (route : Fin 256) (now : Dword) (s : State),
    let y := s.slice p
    let g := s.grp p
    (∀ e, recvEntry s p r route = some e → g.inStep = true → AMap.at y.seen 0 (256 * r.val + route.val) < bitsN e 11 9 + 1 → g.items = [] → g.stalled = none →
      Does (.sheetWaitArm p r route) s (fun t => (t.slice p).waits = min 0xFFFFFFFF (y.waits + 1) ∧
        (t.grp p).items = [{ src := .sheetWait (256 * r.val + route.val), u := bitsN e 32 32 }] ∧ { t with parts := s.parts } = s)) ∧
    (y.mods ≠ 0 → y.rank = 0 → g.inStep = true → y.gates = [] → g.items = [] → g.stalled = none →
      Does (.gateDueArm p) s (fun t => (t.slice p).waits = min 0xFFFFFFFF (y.waits + 1) ∧
        (t.grp p).items = [{ src := .gateWait, u := ((s.part p).slots.toList.filter ImgSlot.serving).foldl (fun a x => max a x.sheet.gateDue) 0 }] ∧ { t with parts := s.parts } = s)) ∧
    (y.st = .up → (otherRanks y).contains r.val = true → stampPassed s p now.toNat r 1000000 = true → y.late = [] →
      Does (.sliceStampLate p ⟨r, now⟩) s (fun t => (t.slice p).st = .suspect ∧ (t.slice p).late = [r.val] ∧ { t.slice p with st := y.st, late := y.late } = y ∧ t.cores = s.cores ∧ t.fab = s.fab)) ∧
    (y.st = .suspect → (otherRanks y).contains r.val = true → lossPassed s p now.toNat r = true →
      Does (.sliceLossTimeout p ⟨r, now⟩) s (fun t => (t.slice p).st = .lost ∧ (t.slice p).lostMask = lostMaskOf (s.atTick now) p r ∧ (t.slice p).lostCnt = min 0xFFFF (y.lostCnt + 1))) ∧
    (y.st = .suspect → (otherRanks y).contains r.val = true → stampPassed s p now.toNat r (1000000 * s.sheet.stampMs) = true →
      Does (.stampWaitTimeout p ⟨r, now⟩) s (fun t => (t.slice p).st = .lost ∧ (t.slice p).lostMask = lostMaskOf (s.atTick now) p r ∧ (t.slice p).lostCnt = min 0xFFFF (y.lostCnt + 1))) ∧
    ((stampPassed s p now.toNat r 1000000 = false → Does (.sliceStampLate p ⟨r, now⟩) s (fun t => t = s)) ∧
     (lossPassed s p now.toNat r = false → Does (.sliceLossTimeout p ⟨r, now⟩) s (fun t => t = s)) ∧
     (stampPassed s p now.toNat r (1000000 * s.sheet.stampMs) = false → Does (.stampWaitTimeout p ⟨r, now⟩) s (fun t => t = s)))

/-- O42. Sheet ports and time between modules (15 R367, R368, 16 R390, 26 R572): the link-up of a lit port begins the check and that of a dark one changes nothing, a peer as planned on both ends is OK, a foreign one MISCABLED, a lost link closes the port and
its frames in flight go by another; a follower sends its question, keeps the delay and the offset that the answer gives, steps its time base at first lock, and holds when exchanges
stop; the followed module answers. -/
def Obligations.SheetPortsAndTime : Prop :=
  ∀ (i : Fin 8) (now : Dword) (s : State),
    let y := s.port i
    let tb := (s.atTick now).tb
    ((s.sys.clk.phase < 11 ∨ s.sys.safe = true ∨ y.planSerial = 0#64) → Does (.sheetPortLinkUp ⟨i, now⟩) s (fun t => t = s)) ∧
    (11 ≤ s.sys.clk.phase → s.sys.safe = false → y.planSerial ≠ 0#64 → s.sheet.planOwn = s.serial →
      let frame := (frameHead 5 0 0 0 false 0 0 0 now.toNat).toNat + 2 ^ 128 * (s.serial.toNat + 2 ^ 64 * i.val)
      Does (.sheetPortLinkUp ⟨i, now⟩) s (fun t =>
        t.port i = { y with
          link := true, upAt := now.toNat, flight := [(tb.toNat, 5, frame)], peer := none, peerGood := none, own := none, enabled := false, check := .checking } ∧
        (∀ j, j ≠ i.val → t.port j = s.port j) ∧ t.host.out = s.host.out ++ [.sheet i 5 frame] ∧
        { t with tb := s.tb, sheet := { t.sheet with ports := s.sheet.ports }, host := s.host } = s)) ∧
    (y.link = true → y.check = .checking → ∀ port : Fin 8, y.planPort = port →
      Does (.sheetIdentFrame i y.planSerial port (some true) none) s (fun t => (t.port i).peer = some (y.planSerial, port.val) ∧ (t.port i).check = .ok ∧ (t.port i).enabled = true)) ∧
    (∀ x q u, y.peer = some (x, q) → x ≠ y.planSerial → y.check = .checking → firstUp s i = some u → u + 2000000000 < now.toNat →
      Does (.cablingVerdictTimeout ⟨i, now⟩) s (fun t => (t.port i).check = .miscabled ∧ (t.port i).enabled = false)) ∧
    (∀ lost, y.link = true → y.check ≠ .foreignPlan →
      Does (.sheetPortLinkDown ⟨i, lost, now⟩) s (fun t => (t.port i).link = false ∧ (t.port i).enabled = false ∧ (t.port i).peer = none ∧ (t.port i).check = .down ∧
        (t.port i).downCnt = min 0xFF (y.downCnt + 1) ∧
        (∀ j, j ≠ i.val → { t.port j with flight := (s.port j).flight } = s.port j) ∧
        ∀ (f : Nat × Nat × Nat) (j : Nat), y.flight = [f] → lost = 1 → tb.toNat ≤ f.1 + 350 →
          (List.range 8).find? (fun k => k != i.val && (s.port k).enabled && (s.port k).peer.map (·.1) == y.peer.map (·.1)) = some j → sends (.sheet j f.2.1 f.2.2) s t)) ∧
    (∀ h recv t1, s.sheet.leader = false → s.sheet.tport = i → y.enabled = true → s.sheet.sentAt = some t1 →
      let x := timeExchange s i t1 recv.toNat (fhTime h) now.toNat
      (s.sheet.stepped = true → Does (.sheetTimeFrame i h ⟨recv, now⟩) s (fun t =>
        t.sheet = { s.sheet with offset := BitVec.ofInt 32 x.2, delay := BitVec.ofInt 32 x.1, locked := true, hold := false, sentAt := none, lastTime := tb.toNat } ∧
        t.tb = tb ∧ t.sys.clk.source = 2 ∧ t.cores = s.cores ∧ t.parts = s.parts ∧ t.fab = s.fab)) ∧
      (s.sheet.stepped = false → backStep (s.atTick now) (tb - BitVec.ofInt 64 x.2).toNat = false → Does (.sheetTimeFrame i h ⟨recv, now⟩) s (fun t =>
        t.tb = tb - BitVec.ofInt 64 x.2 ∧ t.sheet.stepped = true ∧ t.sheet.locked = true ∧ t.sys.clk.firstLock = true ∧ t.cores = s.cores ∧ t.parts = s.parts))) ∧
    (∀ h recv x, s.sheet.leader = true → y.enabled = true → y.peer = some x → s.serial.toNat < x.1.toNat →
      Does (.sheetTimeFrame i h ⟨recv, now⟩) s (fun t => sends (.sheet i 6 ((frameHead 6 0 0 0 false 0 0 0 now.toNat).toNat + 2 ^ 128 * now.toNat)) s t ∧ t.cores = s.cores ∧
        t.parts = s.parts ∧ t.sys = s.sys)) ∧
    (s.sheet.leader = false → (s.port s.sheet.tport).enabled = true →
      Does .timeExchangeTick s (fun t => t.host.out = s.host.out ++ [.sheet s.sheet.tport 6 (frameHead 6 0 0 0 false 0 0 0 s.tb.toNat).toNat] ∧
        t.sheet.sentAt = some s.tb.toNat ∧ { t.sheet with ports := s.sheet.ports, sentAt := s.sheet.sentAt } = s.sheet ∧
        (∀ j, { t.port j with retry := (s.port j).retry, flight := (s.port j).flight } = s.port j) ∧
        { t with free := s.free, host := s.host, sheet := s.sheet } = s)) ∧
    (s.sheet.leader = false → s.sheet.hold = false → s.sheet.lastTime + 10000000 < s.tb.toNat →
      Does .timeHoldTimeout s (fun t => t.sheet.hold = true ∧ t.sheet.locked = false ∧ t.sheet.ports = s.sheet.ports ∧ t.cores = s.cores ∧ t.fab = s.fab))

/-- O43. Submissions (11 R269, R273 to R279, Table 11.5): an accepted OPEN, CONTINUE, CANCEL, CLOSE or PARK changes its entry as its operation says, a rejected one becomes a record, and so does one whose
prompt 21 R481 refuses; a doorbell moves the queue's tail or is counted. -/
def Obligations.Submissions : Prop :=
  ∀ (p : Fin 64) (q : Fin 16) (w : BitVec 512) (t : Dword) (s : State),
    let e := sbEntry w
    let x := s.ent e
    let sq := AMap.at (s.req p).sqs {} q
    (∀ pr c ws, acceptsSub s p q 1 w (some pr) t → takePrompt (takeSub (s.atTick t) p q) p 1 w pr = some (c, ws) →
      Does (.openReq p q w (some pr) t) s (fun u => subFrame p q e s u ∧ u.stream = (storePrompt s e ws).stream ∧
        let y := u.ent e
        y.st = .queued ∧ y.res = true ∧ y.sled = false ∧ y.len = 0 ∧ y.ringHead = 0 ∧ y.islot = sbSlot w ∧ y.igen = (s.img p (sbSlot w)).gen ∧
        y.turn = { turnOfSub s p 1 w 0 t.toNat with ctr := c })) ∧
    (∀ pr c ws, acceptsSub s p q 2 w (some pr) t → takePrompt (takeSub (s.atTick t) p q) p 2 w pr = some (c, ws) →
      Does (.continueReq p q w (some pr) t) s (fun u => subFrame p q e s u ∧ u.stream = (storePrompt s e ws).stream ∧
        let y := u.ent e
        let n := { turnOfSub s p 2 w x.len t.toNat with ctr := c }
        y.len = x.len ∧ y.ringHead = x.ringHead ∧
        (x.st ≠ .draining → y.st = .queued ∧ y.turn = n ∧ y.res = (if x.st = .parked then false else x.res)) ∧
        (x.st = .draining → x.work = .parking → y.st = .queued ∧ y.turn = n ∧ y.res = true ∧ y.sled = false) ∧
        (x.st = .draining → x.work ≠ .parking → y = { x with cont := true, heldTurn := some n }))) ∧
    (acceptsSub s p q 3 w none t →
      Does (.cancelReq p q w t) s (fun u => subFrame p q e s u ∧ u.stream = s.stream ∧
        u.ent e = { x with cancel := true, turn := { x.turn with retain := sbRetain w }, cmdTag := sbTag w, cmdTick := t.toNat })) ∧
    (acceptsSub s p q 4 w none t →
      Does (.closeReq p q w t) s (fun u => subFrame p q e s u ∧ u.stream = s.stream ∧
        (u.ent e).work = .closing ∧ (u.ent e).pages = [] ∧ (u.ent e).sled = false ∧ (u.ent e).cmdTag = sbTag w)) ∧
    (∀ i, acceptsSub s p q 5 w none t → bestSled s ((sledsOf s p).filter (fun i => (s.sport i).up)) = some i →
      (parkPages s p e).any (pageLost s) = false → (parkPages s p e).length ≤ (s.sport i).freePages → parkPages s p e ≠ [] →
      Does (.parkReq p q w t) s (fun u => subFrame p q e s { u with cores := s.cores } ∧ u.stream = s.stream ∧
        (∀ m, let c := s.core m
          u.core m = { c with mast := { c.mast with outside := c.mast.outside ++ ((parkPages s p e).filter (fun g => g.core == m && s.coreSteps m)).map (fun g =>
            .park e (AMap.at s.table.parkGen 0 e + 1) g.gran) } }) ∧
        (u.ent e).st = .draining ∧ (u.ent e).work = .parking ∧ (u.ent e).sledPort = i ∧ (u.ent e).moved = 0 ∧ (u.ent e).pages = x.pages ∧
        AMap.at u.table.parkGen 0 e = AMap.at s.table.parkGen 0 e + 1 ∧ ∀ j, j ≠ i → u.sport j = s.sport j)) ∧
    (acceptsSub s p q 5 w none t → (parkPages s p e).any (pageLost s) = true → x.heldTurn = none →
      Does (.parkReq p q w t) s (fun u => subFrame p q e s u ∧ (u.ent e).st = .done ∧ (u.ent e).res = false ∧
        AMap.at u.stay.parkFail 0 p = min 0xFFFF (AMap.at s.stay.parkFail 0 p + 1) ∧ ∃ k, (u.ent e).reports = x.reports ++ [k] ∧ k.status = 0x2A)) ∧
    (∀ op c, canTake s p q = true → firstCause (acceptanceChecks (takeSub (s.atTick t) p q) p op w t.toNat) = some c →
      let turned := fun (u : State) => subFrame p q e s u ∧ u.table = s.table ∧ u.stream = s.stream ∧
        (u.req p).rejects = min 0xFFFFFFFF ((s.req p).rejects + 1) ∧
        (u.req p).held = (s.req p).held ++ [{ entry := e, status := c, cmd := sbOp w, userTag := sbTag w, tEnq := t.toNat, tEnd := t.toNat, place := some (q.val, sq.head) }]
      (op = 1 → ∀ pr, Does (.openReq p q w pr t) s turned) ∧ (op = 2 → ∀ pr, Does (.continueReq p q w pr t) s turned) ∧
      (op = 3 → Does (.cancelReq p q w t) s turned) ∧ (op = 4 → Does (.closeReq p q w t) s turned) ∧ (op = 5 → Does (.parkReq p q w t) s turned)) ∧
    (∀ b op, let s1 := takeSub (s.atTick t) p q
      canTake s p q = true → firstCause (acceptanceChecks s1 p op w t.toNat) = none → takePrompt s1 p op w b = none →
      let refused := fun (u : State) => subFrame p q e s u ∧ u.table = s.table ∧ u.stream = s.stream ∧ (u.secPart p).slots = (s.secPart p).slots ∧
        (u.secPart p).e2eFail = min 0xFFFF ((s.secPart p).e2eFail + 1) ∧
        (u.req p).held = (s.req p).held ++ [{ entry := e, status := 0x40, cmd := sbOp w, userTag := sbTag w, tEnq := t.toNat, tEnd := t.toNat, place := some (q.val, sq.head) }]
      (op = 1 → Does (.openReq p q w (some b) t) s refused) ∧ (op = 2 → Does (.continueReq p q w (some b) t) s refused)) ∧
    ∀ tail : BitVec 16,
      (tail.toNat < 2 ^ sq.size → Does (.sqDoorbell p q tail) s (fun u => AMap.at (u.req p).sqs {} q = { sq with tail := tail.toNat } ∧
        (∀ j, j ≠ q.val → AMap.at (u.req p).sqs {} j = AMap.at (s.req p).sqs {} j) ∧ onlyReq p s u)) ∧
      (2 ^ sq.size ≤ tail.toNat → Does (.sqDoorbell p q tail) s (fun u => u = { s with host := { s.host with dbErr := min 0xFFFF (s.host.dbErr + 1) } }))

/-- O44. Completion and stream rings, output queues, ring reads and stop sets (11 R280 to R285, 12 R289 to R296, R302). -/
def Obligations.RingsAndQueues : Prop :=
  (∀ (p : Fin 64) (t : Dword) (s : State),
    let r := s.req p
    (∀ x rest, r.held = x :: rest → r.cq.full (ringOk s p) = false →
      Does (.completionRecordWrite p t) s (fun u => sends (.write (p + 1) (r.cq.base.toNat + 64 * r.cq.tail) 64 (recordBits x r.cq.phase).toNat) s u ∧
        (u.req p).held = rest ∧ (u.req p).cq = r.cq.step ∧ u.table = s.table ∧ u.cores = s.cores)) ∧
    (∀ e l x rest, s.isMember p = false → r.held = [] → entriesOf s p (fun _ y => !y.reports.isEmpty) = e :: l → (s.ent e).reports = x :: rest → x.status = 7 → (s.ent e).work = .closing →
      ((s.ent e).flr = false → r.cq.full (ringOk s p) = false →
        Does (.completionRecordWrite p t) s (fun u => sends (.write (p + 1) (r.cq.base.toNat + 64 * r.cq.tail) 64 (recordBits x r.cq.phase).toNat) s u ∧
          (u.req p).cq = r.cq.step ∧ u.ent e = {} ∧ ∀ j, j ≠ e → u.ent j = s.ent j)) ∧
      ((s.ent e).flr = true → r.cqFull = true →
        Does (.completionRecordWrite p t) s (fun u => u.host.out = s.host.out ∧ (u.req p).cq = r.cq ∧ (u.part p).flrDiscard = min 0xFFFF ((s.part p).flrDiscard + 1) ∧
          u.ent e = {} ∧ ∀ j, j ≠ e → u.ent j = s.ent j))) ∧
    (∀ x rest, r.held = x :: rest → r.cq.full (ringOk s p) = true → r.cqFull = false →
      Does (.completionRecordWrite p t) s (fun u => (u.req p).cqFull = true ∧ (u.req p).held = r.held ∧ (u.req p).cq = r.cq ∧
        bitAt (u.fn (p + 1)).dblStat 8 = true ∧ bitAt (u.fn 0).dblStat 8 = true ∧
        ∀ e, u.ent e = if r.owns e = true ∧ (s.ent e).reports ≠ [] ∧ (s.ent e).flr = false then { s.ent e with rptWait := true } else s.ent e)) ∧
    (let noted := fun (c : OutRing) (u : State) => (u.req p).cq = c ∧ (c.full (ringOk s p) = true → (u.req p).cqFull = true) ∧
        (c.full (ringOk s p) = false → nextRecord s p = none → (u.req p).cqFull = false) ∧ (∀ j, j ≠ p.val → u.part j = s.part j) ∧ u.cores = s.cores ∧ u.table = s.table ∧
        (c.full (ringOk s p) = false ∨ r.cqFull = true → onlyReq p s u);
      (∀ head, Does (.cqHeadWrite p head) s (noted (if head < 2 ^ r.cq.size then { r.cq with head := head } else r.cq))) ∧
      (∀ base size en, Does (.cqCfgWrite p base size en) s (fun u => ringSet 6 19 r.cq (u.req p).cq base size en ∧ noted (u.req p).cq u))) ∧
    (∀ (q : Fin 16) base size en, let x := AMap.at r.sqs {} q
      Does (.sqCfgWrite p q base size en) s (fun u => let y := AMap.at (u.req p).sqs {} q
        y.en = en.getD x.en ∧ (x.en = true → y.base = x.base ∧ y.size = x.size ∧ (if en = some false then y.head = 0 ∧ y.tail = 0 else y.head = x.head ∧ y.tail = x.tail)) ∧
        (x.en = false → y.base = base.getD x.base ∧ y.size = (if inSize 6 16 size then size.getD x.size else x.size) ∧
          (if base.isSome || inSize 6 16 size then y.head = 0 ∧ y.tail = 0 else y.head = x.head ∧ y.tail = x.tail)) ∧
        (∀ j, j ≠ q.val → AMap.at (u.req p).sqs {} j = AMap.at r.sqs {} j) ∧ onlyReq p s u)) ∧
    (∀ (k : Fin 16) head, let x := AMap.at r.srs {} k
      Does (.srHeadWrite p k head) s (fun u => AMap.at (u.req p).srs {} k = (if head < 2 ^ x.size then { x with head := head } else x) ∧
        (∀ j, j ≠ k.val → AMap.at (u.req p).srs {} j = AMap.at r.srs {} j) ∧ onlyReq p s u)) ∧
    (∀ (k : Fin 16) base size en, Does (.srCfgWrite p k base size en) s (fun u => ringSet 6 20 (AMap.at r.srs {} k) (AMap.at (u.req p).srs {} k) base size en ∧
        (∀ j, j ≠ k.val → AMap.at (u.req p).srs {} j = AMap.at r.srs {} j) ∧ onlyReq p s u)) ∧
    (∀ (k : Fin 16) slot x, let g := AMap.at r.srs {} k
      g.full (ringOk s p) = false → nextRelease s p k = some (slot, x) →
      Does (.streamRecordWrite p k none false) s (fun u =>
        sends (.write (p + 1) (g.base.toNat + 16 * g.tail) 16 (streamRecord x slot g.phase).toNat) s u ∧ AMap.at (u.req p).srs {} k = g.step ∧
        u.outq slot = (s.outq slot).pop ∧ (∀ j, j ≠ slot → u.outq j = s.outq j) ∧ u.stream.parity = s.stream.parity) ∧
      (∀ f, Does (.streamRecordWrite p k (some f) false) s (fun u =>
        sends (.write (p + 1) (g.base.toNat + 16 * g.tail) 16 (streamRecord { x with word := setBits (x.word ^^^ f) 53 1 1 } slot g.phase).toNat) s u ∧
        u.stream.parity = min 0xFFFF (s.stream.parity + 1) ∧ (u.outq slot).poisons = min 0xFF ((s.outq slot).poisons + 1))) ∧
      Does (.streamRecordWrite p k none true) s (fun u => u.host.out = s.host.out ∧ u.outq slot = (s.outq slot).pop ∧ u.stream.sbDrop = min 0xFFFF (s.stream.sbDrop + 1) ∧
        u.parts = s.parts)) ∧
    (∀ byPf, r.rr.busy = false →
      Does (.ringReadGo p byPf) s (fun u => let y := (u.req p).rr
        y.addr = r.rr.addr ∧ y.entry = r.rr.entry ∧ y.first = r.rr.first ∧ y.cnt = r.rr.cnt ∧ y.byPf = byPf ∧
        (if ringRange s p then y.busy = true ∧ y.source = (List.range r.rr.cnt).map (fun i =>
            maskWord (ringWord s r.rr.entry (r.rr.first + i)) (wordMask s p r.rr.entry (r.rr.first + i) (s.ent r.rr.entry)))
          else y.busy = false ∧ y.status = 1 ∧ y.words = 0) ∧ u.cores = s.cores ∧ u.table = s.table)) ∧
    (r.rr.busy = true → 1 ≤ r.rr.cnt → r.rr.source.length = r.rr.cnt →
      Does (.ringReadDone p r.rr.cnt []) s (fun u => (u.req p).rr.busy = false ∧ (u.req p).rr.status = 0 ∧ (u.req p).rr.words = r.rr.cnt ∧
        sends (.write (p + 1) r.rr.addr.toNat (8 * r.rr.cnt) (r.rr.source.foldr (fun w a => w.toNat + 2 ^ 64 * a) 0)) s u ∧ u.stream = s.stream)) ∧
    (∀ i : Fin 4096, r.stage.pend = none →
      Does (.stopSetLoad p i) s (fun u => (u.req p).stage = (if r.stopCnt ≤ i.val ∨ stagedBad r.stage = true then { r.stage with index := i, err := true }
        else { r.stage with index := i, err := false, pend := some (i.val, stagedSet r.stage) }) ∧ onlyReq p s u))) ∧
  ∀ (k : Fin 4096) (s : State),
    let q := s.outq k
    (∀ a, s.stream.arriving.find? (fun a => a.slot == k.val) = some a → q.spill = none → q.items.length < 63 →
      Does (.outputQueueToken k) s (fun u =>
        (u.outq k).items.map (fun x => (x.word, x.entry, x.idx)) =
          q.items.map (fun x => (x.word, x.entry, x.idx)) ++ [(if q.fresh then setBits a.word 48 1 1 else a.word, a.entry, a.idx)] ∧
        ((a.final = true ∨ a.cut ≤ a.nth + 1) → ∀ x ∈ (u.outq k).items, x.go.isSome = true) ∧
        (a.final = false → a.nth + 1 < a.cut → ((u.outq k).items.map (·.go)) = q.items.map (·.go) ++ [none]) ∧
        (u.outq k).drops = q.drops ∧ (u.outq k).fresh = false ∧ (u.outq k).arrived = a.nth + 1 ∧ u.stream.arriving = s.stream.arriving.erase a ∧
        (∀ j, j ≠ k.val → u.outq j = s.outq j) ∧ u.cores = s.cores ∧ u.parts = s.parts)) ∧
    (∀ a m, s.stream.arriving.find? (fun a => a.slot == k.val) = some a → q.spill = none → q.items.length = 63 → q.items.getLast? = some m → m.endsAt a = false →
      Does (.outputQueueToken k) s (fun u => (u.outq k).items.length = 64 ∧ ((u.outq k).items.getLast?.map (fun x => (x.word, x.entry, x.idx))) =
          some (setBits (BitVec.ofNat 64 1) 50 1 1, a.entry, a.idx) ∧ (u.outq k).drops = min 0xFF (q.drops + 1))) ∧
    ∀ f : Option (Fin 64), Does (.stmFlushGo f k) s (fun u => u.stream.flushSlot = k.val ∧ (∀ j, j ≠ k.val → u.outq j = s.outq j) ∧ u.parts = s.parts ∧ u.cores = s.cores ∧
      u.outq k = if (match f with | none => true | some p => decide ((s.req p).slotBase ≤ k.val) && decide (k.val < (s.req p).slotBase + (s.req p).slotCnt))
        then { q with items := [], spill := none, fresh := true } else q)

/-- O45. Parking and unparking over the stay ports (13 R324, R326 to R330): a page written goes to its sled page with what seals it, the last confirms the park, a failed write ends it with the
session resident, and while a column copy of the partition is outstanding its pages wait (whichever column: the model's choice, log entry 104); a page that arrives poisoned or does not match fails
the turn; a link lost, or trained where the port is lit (26 R572), and a timeout. -/
def Obligations.ParkingAndUnparking : Prop :=
  (∀ (e : Fin 262144) (t : Dword) (s : State),
    let p := partOfEntry s e
    let x := s.ent e
    (stayPaused s p = true → ∀ o found, Does (.parkPageWriteDone e ⟨o, found⟩ t) s (fun u => u = s.atTick t)) ∧
    (x.st = .draining → x.work = .parking → stayPaused s p = false → ∀ g k, (parkPages s p e)[x.moved]? = some g → x.sledPages[x.moved]? = some k →
      granBad (s.core g.core).mast g.gran = false → (s.core g.core).mast.outside = [] →
      (x.moved + 1 ≠ x.sledPages.length →
        Does (.parkPageWriteDone e ⟨.done, []⟩ t) s (fun u => u.ent e = { x with moved := x.moved + 1, askAt := t.toNat } ∧
          (∃ y, AMap.find (u.sport x.sledPort).pages k = some y ∧ y.data = granBytes (s.core g.core).mast.data g.gran ∧ y.key = (s.part p).parkKey ∧ y.entry = e ∧
            y.gen = AMap.at s.table.parkGen 0 e ∧ y.page = g.vpn % 65536 ∧ y.next = x.sledPages[x.moved + 1]?) ∧
          (∀ j, j ≠ x.sledPort → u.sport j = s.sport j) ∧ u.cores = s.cores ∧ u.parts = s.parts)) ∧
      (x.moved + 1 = x.sledPages.length → (s.slice p).mods = 0 →
        Does (.parkPageWriteDone e ⟨.done, []⟩ t) s (fun u => (u.ent e).st = .parked ∧ (u.ent e).sled = true ∧ (u.ent e).res = false ∧ (u.ent e).pages = [] ∧ u.cores = s.cores ∧
          AMap.at (u.sport x.sledPort).dir {} e = { first := x.sledPages.head?, count := x.sledPages.length, gen := AMap.at s.table.parkGen 0 e })) ∧
      (∀ o, o ≠ .done → (s.slice p).mods = 0 → x.heldTurn = none →
        Does (.parkPageWriteDone e ⟨o, []⟩ t) s (fun u => (u.ent e).st = .done ∧ (u.ent e).res = true ∧ (u.ent e).sled = false ∧ (u.ent e).pages = x.pages ∧
          (u.ent e).reports = x.reports ++ [workRecord e x 0x2A t.toNat true] ∧
          AMap.at u.stay.parkFail 0 p = min 0xFFFF (AMap.at s.stay.parkFail 0 p + 1) ∧ u.cores = s.cores ∧ u.parts = s.parts)) ∧
      (∀ row : Fin 512, (s.slice p).mods = 0 → x.heldTurn = none → (s.core g.core).mast.ueRows = [] →
        Does (.parkPageWriteDone e ⟨.done, [(row, true)]⟩ t) s (fun u => (u.ent e).st = .done ∧ (u.ent e).res = true ∧ (u.ent e).sled = false ∧
          (u.core g.core).mast.ue = min 0xFF ((s.core g.core).mast.ue + 1) ∧ (u.core g.core).mast.ueRows = [512 * g.gran + row.val])))) ∧
  (∀ (e : Fin 262144) (t : Dword) (s : State),
    let p := partOfEntry s e
    let x := s.ent e
    let y := s.sport x.sledPort
    let d := AMap.at y.dir {} e
    let gen := AMap.at s.table.parkGen 0 e
    (stayPaused s p = true → ∀ o, Does (.unparkPageArrive e ⟨o, t⟩) s (fun u => u = s.atTick t)) ∧
    ∀ k g, unparking s p e = true → stayPaused s p = false → s.isMember p = false → d.first.isSome = true → d.gen = gen → chainAt y d.first x.moved = some k → AMap.find y.pages k = some g →
      Does (.unparkPageArrive e ⟨.poison, t⟩) s (fun u => u.ent e = { x with unparkBad := true } ∧ (u.sport x.sledPort).poison = min 0xFF (y.poison + 1) ∧ u.cores = s.cores) ∧
      Does (.unparkPageArrive e ⟨(.page false), t⟩) s (fun u => u.ent e = { x with unparkBad := true } ∧ u.cores = s.cores) ∧
      (g.entry ≠ e.val ∨ g.gen ≠ gen ∨ g.key ≠ (s.part p).parkKey →
        Does (.unparkPageArrive e ⟨(.page true), t⟩) s (fun u => u.ent e = { x with unparkBad := true } ∧ u.cores = s.cores)) ∧
      (∀ sp rid gr, g.entry = e.val → g.gen = gen → g.rank = (s.slice p).rank → g.key = (s.part p).parkKey →
        AMap.find (spacesOf s p x.islot) ((g.model * 1024 + g.layer) * 16 + g.group) = some sp → x.moved + 1 < d.count → 64 * g.page < validLen x (s.img p x.islot) sp.geo →
        (∀ z ∈ x.pages, z.core ≠ (pageHome sp e g.page).1 ∨ z.vpn ≠ (pageHome sp e g.page).2) → x.rid.or (freeRid s p) = some rid →
        freeGran s p (pageHome sp e g.page).1 0 = some gr → (((s.core (pageHome sp e g.page).1).mast.freeGranule gr).map' rid (pageHome sp e g.page).2 gr true).2 = 0 →
        let h := pageHome sp e g.page
        (s.core h.1).mast.outside = [] → (s.core h.1).mast.svcDone = 0 →
        (s.coreSteps h.1 = true → (s.grp (s.corePart h.1)).inStep = false ∨ (s.core h.1).mast.svcEnd ≤ (s.grp (s.corePart h.1)).cyc →
          Does (.unparkPageArrive e ⟨(.page true), t⟩) s (fun u =>
            u.ent e = { x with rid := some rid, moved := x.moved + 1, askAt := t.toNat, pages := x.pages ++ [{ core := h.1, vpn := h.2, gran := gr }] } ∧
            (u.core h.1).mast = { (s.core h.1).mast with outside := [.place e h.2 gr g.data] } ∧ (∀ j, j ≠ h.1 → u.core j = s.core j))) ∧
        (s.coreSteps h.1 = false → Does (.unparkPageArrive e ⟨(.page true), t⟩) s (fun u =>
          u.ent e = { x with rid := some rid, moved := x.moved + 1, askAt := t.toNat, pages := x.pages ++ [{ core := h.1, vpn := h.2, gran := gr, mapped := true, ready := true }] } ∧
          (u.core h.1).mast.data = putGran (((s.core h.1).mast.freeGranule gr).map' rid h.2 gr true).1.data gr g.data ∧ (∀ j, j ≠ h.1 → u.core j = s.core j) ∧ u.stay = s.stay ∧ u.parts = s.parts)))) ∧
  ∀ (i : Fin 24) (t : Dword) (s : State),
    let y := s.sport i
    let logged := fun (kind entry : Nat) (u : State) => u.stay.log = s.stay.log.push (packFields 32 [(0, 5, i.val), (5, 3, kind), (8, 6, y.part)],
      packFields 32 [(0, 18, entry)], 0#32)
    (parksOn s i = [] → Does (.stayLinkDown i t) s (fun u => u.sport i = { y with up := false, rate := 0, lanes := 0, down := min 0xFF (y.down + 1) } ∧ logged 0 0 u ∧
      (∀ j, j ≠ i.val → u.sport j = s.sport j) ∧ u.table = s.table ∧ u.cores = s.cores)) ∧
    (∀ fast typeOk lanes cap retries,
      ((lanes < 8 ∨ s.sys.clk.phase < 11 ∨ s.sys.safe = true ∨ y.assigned = false) → Does (.stayLinkUp i fast typeOk lanes cap retries) s (fun u => u = s)) ∧
      (8 ≤ lanes → 11 ≤ s.sys.clk.phase → s.sys.safe = false → y.assigned = true → Does (.stayLinkUp i fast typeOk lanes cap retries) s (fun u =>
        let n := if 0x80400000 ≤ cap then min 33521600 ((cap - 0x80400000) / 65536) else 0
        let ok := typeOk && decide (1 ≤ n)
        u.sport i = { y with up := true, rate := if fast then 2 else 1, lanes := 8, cap := n, usable := ok, retry := min 0xFFFF (y.retry + retries) } ∧
        (if ok then u.stay.log = s.stay.log else logged 6 0 u) ∧ (∀ j, j ≠ i.val → u.sport j = s.sport j) ∧ u.table = s.table ∧ u.cores = s.cores))) ∧
    ∀ e : Fin 262144,
      (e.val ∉ parksOn s i → unparking s (partOfEntry s e) e = true → (s.ent e).sledPort = i → (s.ent e).askAt + 1000000 * s.stay.timeout < t.toNat →
        Does (.stayRequestTimeout i e t) s (fun u => logged 1 e u ∧ u.stay.ports = s.stay.ports ∧ u.ent e = { s.ent e with askAt := t.toNat } ∧
          (∀ j, j ≠ e.val → u.ent j = s.ent j) ∧ u.cores = s.cores)) ∧
      (t.toNat ≤ (s.ent e).askAt + 1000000 * s.stay.timeout → Does (.stayRequestTimeout i e t) s (fun u => u = s))

/-- O46. The tally link and the crow's nest (20 R453 to R467): messages sent and taken, differences of running totals, MARKs that close an interval, CLOSE and a lost input that close it at once, the
meter's own events, the relay. -/
def Obligations.MeterAndTallyLink : Prop :=
  ∀ s : State,
    let c := s.sys.cnm
    let m := c.meter
    let sent := fun (t : Dword) (x : Tally) (u : State) =>
      u = { s.atTick t with sys := { s.sys with cnm := { c with link := c.link ++ [{ x with seq := c.seq, epoch := c.epoch }], seq := (c.seq + 1) % 2 ^ 32 } } }
    let onlyMeter := fun (r : List Tally) (n : Meter) (u : State) => u = { s with sys := { s.sys with cnm := { c with link := r, meter := n } } }
    let span := fun (stop : Nat) (flag : BitVec 16) (r : MeterRead) =>
      ({ start := m.start, stop := stop, flags := m.flags ||| flag, gaps := m.gaps, secs := intervalSecs m.interval, marked := m.marked, read := r } : MeterSpan)
    (c.running = true → ∀ t : Dword,
      Does (.tallyStartSend t) s (sent t { seq := 0, kind := 1, stamp := (s.atTick t).tb, gen := bitsN s.serial 0 32, prompt := bitsN s.serial 32 32 }) ∧
      Does (.tallyMarkSend t) s (sent t { seq := 0, kind := 3, stamp := t })) ∧
    (∀ x r ok0 ok1, c.link = x :: r → m.powered = true → ok0 = true ∨ ok1 = true →
      (x.kind = 1 →
        (m.epoch ≠ some x.epoch → Does (.meterTallyStart ok0 ok1) s (onlyMeter r { m with epoch := some x.epoch, base := [], expect := (x.seq + 1) % 2 ^ 32, unit := BitVec.ofNat 64 (x.gen + 2 ^ 32 * x.prompt) })) ∧
        (m.epoch = some x.epoch → x.seq ≠ m.expect → Does (.meterTallyStart ok0 ok1) s (onlyMeter r { m with
          expect := (x.seq + 1) % 2 ^ 32, flags := setBits m.flags 3 1 1, gaps := min 0xFFFFFFFF (m.gaps + 1), gapsAll := min 0xFFFF (m.gapsAll + 1), unit := BitVec.ofNat 64 (x.gen + 2 ^ 32 * x.prompt) }))) ∧
      (x.kind = 2 → m.epoch = some x.epoch → x.seq = m.expect →
        let k := 256 * x.part + x.tq
        Does (.meterTallyTokens ok0 ok1) s (onlyMeter r { m with
          expect := (x.seq + 1) % 2 ^ 32, base := AMap.put m.base k (x.genTot, x.promptTot), credits := m.credits ++ [{
            stamp := x.stamp.toNat, key := k
            gen := (match AMap.find m.base k with | some b => (x.genTot + 2 ^ 32 - b.1) % 2 ^ 32 | none => x.gen)
            prompt := (match AMap.find m.base k with | some b => (x.promptTot + 2 ^ 32 - b.2) % 2 ^ 32 | none => x.prompt) }] })) ∧
      (x.kind = 3 → m.epoch = some x.epoch → x.seq = m.expect → m.lastMark = some (x.stamp.toNat - 1000000) → 1000000 ≤ x.stamp.toNat →
        (m.ended = [] → Does (.meterTallyMark ok0 ok1) s (onlyMeter r { m with
          expect := (x.seq + 1) % 2 ^ 32, lastMark := some x.stamp.toNat, tbStart := some (m.tbStart.getD x.stamp.toNat), marked := true })) ∧
        (∀ y, m.ended = [y] → Does (.meterTallyMark ok0 ok1) s (fun u => u.sys.cnm.meter.ended = [] ∧ u.sys.cnm.meter.lastSeq = m.lastSeq + 1 ∧
          u.sys.cnm.meter.tbStart = some x.stamp.toNat ∧ u.sys.cnm.meter.marked = true ∧ sends (.ibi 1 1) s u ∧
          (∀ k ∈ u.sys.cnm.meter.credits, x.stamp.toNat ≤ k.stamp) ∧ u.cores = s.cores ∧ u.parts = s.parts))) ∧
      (x.kind = 4 → m.epoch = some x.epoch → x.seq = m.expect → m.ended = [] → ∀ mt rd, Does (.meterTallyClose ok0 ok1 mt rd) s (fun u =>
        u.sys.cnm.meter.ended = [] ∧ u.sys.cnm.meter.lastSeq = m.lastSeq + 1 ∧ u.sys.cnm.meter.start = max m.start mt ∧ u.sys.cnm.meter.etotMj = m.etotMj + rd.energy ∧
        u.sys.cnm.meter.marked = false ∧ u.sys.cnm.meter.powered = true ∧ sends (.ibi 1 1) s u))) ∧
    (m.powered = true → m.ended = [] → ∀ rd : MeterRead,
      (∀ mt, Does (.meterInputLoss mt rd) s (fun u => u.sys.cnm.meter.powered = false ∧ u.sys.cnm.meter.ended = [] ∧ u.sys.cnm.meter.lastSeq = m.lastSeq + 1 ∧
        u.sys.cnm.meter.etotMj = m.etotMj + rd.energy ∧ sends (.ibi 1 1) s u)) ∧
      (m.marked = true → Does (.meterIntervalEnd rd) s (onlyMeter c.link { m with
        ended := [span m.endAt 0#16 rd], start := m.endAt, mt := m.endAt, flags := if m.nextInterval = m.interval then 0#16 else 0x40#16, gaps := 0, marked := false
        etotMj := m.etotMj + rd.energy, interval := m.nextInterval })) ∧
      (m.marked = false → Does (.meterIntervalEnd rd) s (fun u => u.sys.cnm.meter.ended = [] ∧ u.sys.cnm.meter.lastSeq = m.lastSeq + 1 ∧
        u.sys.cnm.meter.tbStart = some 0xFFFFFFFFFFFFFFFF ∧ u.sys.cnm.meter.start = m.endAt ∧ sends (.ibi 1 1) s u))) ∧
    (m.powered = false →
      (∀ mt, Does (.meterPowerUp false none mt) s (fun u => u = { s with sys := { s.sys with
        pins := { s.sys.pins with cni3c := none }, cnm := { c with meter := { m with
          powered := true, mt := max m.start mt, start := max m.start mt, marked := false, gaps := 0, interval := m.nextInterval
          flags := setBits 1#16 6 1 (max (bitsN m.flags 6 1) (if m.nextInterval = m.interval then 0 else 1)) } } } })) ∧
      (∀ again serial metro mt, Does (.meterPowerUp again (some (serial, metro)) mt) s (fun u => let y := u.sys.cnm.meter
        y.powered = true ∧ y.serial = serial ∧ y.metro = metro ∧ y.recs = [] ∧ y.lastSeq = 0 ∧ y.prevHash = 0#384 ∧ y.credits = [] ∧ y.flags = 1#16 ∧ y.start = mt ∧ y.interval = 2))) ∧
    Does .meterSealEvent s (onlyMeter c.link { m with sealCnt := min 0xFFFF (m.sealCnt + 1), flags := setBits m.flags 5 1 1 }) ∧
    (let f := fun (u : State) => u.sys.cnm.meter = m ∧ u.sys.cnm.sel = c.sel ∧ u.cores = s.cores ∧ u.parts = s.parts;
      Does (.cnmFetchGo false false) s (fun u => f u ∧ u.sys.cnm.status = 4 ∧ u.sys.cnm.busOk = false) ∧
      Does (.cnmFetchGo false true) s (fun u => f u ∧ u.sys.cnm.status = 3 ∧ u.sys.cnm.present = false) ∧
      (c.sel = 0xFFFFFFFF → Does (.cnmFetchGo true true) s (fun u => f u ∧ u.sys.cnm.status = 0 ∧ u.sys.cnm.data = (Config.meterChain m.serial).2)) ∧
      (∀ x, c.sel ≠ 0xFFFFFFFF → AMap.find m.recs c.sel = some x →
        Does (.cnmFetchGo true true) s (fun u => f u ∧ u.sys.cnm.status = 0 ∧ u.sys.cnm.len = x.len ∧ u.sys.cnm.data = x.bytes ∧ u.sys.cnm.present = true)) ∧
      (c.sel ≠ 0xFFFFFFFF → AMap.find m.recs c.sel = none →
        Does (.cnmFetchGo true true) s (fun u => f u ∧ u.sys.cnm.status = if m.lastSeq < c.sel then 2 else 1))) ∧
    ∀ v : Fin 8, (v.val ≤ 4 → m.powered = true → Does (.cnmIntervalWrite v) s (onlyMeter c.link { m with nextInterval := v })) ∧ (4 < v.val ∨ m.powered = false → Does (.cnmIntervalWrite v) s (fun u => u = s))

/-- O47. The clock block (16 R375 to R386, R388, R395, R445): steps and glides, corners out of lock and the limits of their relock, references, the time base, its copies and
its slews, swallow counts. -/
def Obligations.ClockAndTimeBase : Prop :=
  ∀ (s : State) (t : Dword),
    let c := s.sys.clk
    let now := s.atTick t
    let onlyClk := fun (u : State) => { u with tb := s.tb, sys := { u.sys with clk := c } } = s
    (∀ v : Fin 4, let w := min (max v.val c.limit) (clockFloor s)
      (s.sys.ready = false ∨ w = c.step → Does (.clkStepReqWrite v) s (fun u => u.sys.clk = { c with stepReq := v } ∧ u.tb = s.tb ∧ onlyClk u)) ∧
      (s.sys.ready = true → w ≠ c.step → Does (.clkStepReqWrite v) s (fun u => u.sys.clk.step = w ∧ u.sys.clk.gliding = true))) ∧
    (c.gliding = true → s.sys.ready = false ∨ c.step = wantedStep s → (∀ p ∈ s.enabled, ∀ h, (s.part p).hoist = some h → h.phase ≠ .done) →
      Does (.glideEnd t) s (fun u => u = { now with sys := { s.sys with clk := { c with gliding := false } } })) ∧
    (c.gliding = true → s.sys.ready = true → c.step ≠ wantedStep s → Does (.glideEnd t) s (fun u => u.sys.clk.step = wantedStep s ∧ u.sys.clk.gliding = true)) ∧
    (∀ (n : Fin 48) (k : Fin 4), let x := s.clkField n
      x.locked = true →
      Does (.cornerLockLoss n k t) s (fun u =>
        u.clkField n = { x with corners := setBits x.corners k 1 0, locked := false, unlockAt := some (x.unlockAt.getD t.toNat), lossCnt := min 0xFF (x.lossCnt + 1) } ∧
        (∀ j, j ≠ n.val → u.clkField j = s.clkField j) ∧ u.cores = s.cores ∧ u.fab = s.fab ∧
        ((s.field n).owned = true → let p := (s.field n).part
          (u.grp p).held = true ∧ ((s.grp p).inStep = true → ∃ f ∈ (u.grp p).faults, f.code = 0x11) ∧ ∀ j, j ≠ p → u.part j = s.part j) ∧
        ((s.field n).owned = false → u.parts = s.parts))) ∧
    (∀ n : Fin 48, let x := s.clkField n
      (∀ v, (s.fieldPwr n).st ≠ 2 → x.unlockAt = some v →
        (t.toNat ≤ v + 100000 →
          Does (.fieldRelock n t) s (fun u => { u.clkField n with skewHwm := x.skewHwm } = { x with locked := true, corners := 15#4, unlockAt := none } ∧ x.skewHwm ≤ (u.clkField n).skewHwm ∧
            (∀ j, j ≠ n.val → u.clkField j = s.clkField j) ∧ u.cores = s.cores ∧ ((s.field n).owned = false → u.parts = s.parts) ∧
            ((s.field n).owned = true → (s.part (s.field n).part).recov = none → s.sys.fw.reloading = none →
              (∀ j ∈ s.fieldsOf (s.field n).part, j ≠ n.val → (s.clkField j).unlockAt = none) → (u.grp (s.field n).part).held = false))) ∧
        (v + 100000 < t.toNat → Does (.fieldRelock n t) s (fun u => (u.field n).mode = .dark) ∧ Does (.relockTimeout n t) s (fun u => (u.field n).mode = .dark)) ∧
        (t.toNat ≤ v + 100000 → Does (.relockTimeout n t) s (fun u => u = s))) ∧
      ((s.fieldPwr n).st = 2 →
        (x.lockLate t.toNat = false → (AMap.at s.sys.pwr.convs {} (2 * n)).ok = (AMap.at s.sys.pwr.convs {} (2 * n + 1)).ok →
          Does (.fieldRelock n t) s (fun u => (u.fieldPwr n).st = 3 ∧ (u.clkField n).locked = true ∧ (u.clkField n).corners = 15#4 ∧
            (∀ k, k < 192 → (s.corePwr (n * 192 + k)).st = 0 → (u.corePwr (n * 192 + k)).on = true ∧ 550 ≤ (u.corePwr (n * 192 + k)).volt ∧ (u.corePwr (n * 192 + k)).volt ≤ 850) ∧
            AMap.at u.sys.fw.fc 0#32 n = s.sys.fw.fcVer ∧ u.parts = s.parts ∧ u.cores = s.cores)) ∧
        (x.lockLate t.toNat = true → Does (.fieldRelock n t) s (fun u => (u.field n).mode = .dark) ∧ Does (.fieldLockTimeout n t) s (fun u => (u.field n).mode = .dark)) ∧
        (x.lockLate t.toNat = false → Does (.fieldLockTimeout n t) s (fun u => u = s)))) ∧
    (c.failA = false → c.failB = false → c.refHold = none →
      (∀ stopM a b d, a ≤ 200 → Does (.refOscCheck false false stopM a b d t) s (fun u => u.sys.clk = { c with monFail := c.monFail || stopM })) ∧
      (∀ a b d, 200 < a → d + 10 < b → Does (.refOscCheck false false false a b d t) s (fun u =>
        u.sys.clk = { c with failA := true, refSel := if c.refSel = 0 then 1 else c.refSel } ∧ u.cores = s.cores)) ∧
      (∀ stopM a b d, Does (.refOscCheck false true stopM a b d t) s (fun u =>
        u.sys.clk = { c with failB := true, monFail := c.monFail || stopM, refSel := if c.refSel = 0 then c.refSel else 1 - c.refSel } ∧ u.cores = s.cores)) ∧
      (∀ stopM a b d, Does (.refOscCheck true true stopM a b d t) s (fun u =>
        u.sys.clk = { c with failA := true, failB := true, monFail := c.monFail || stopM, refHold := some t.toNat } ∧ u.cores = s.cores))) ∧
    (∀ v, c.refHold = some v → (v + 10000000000 < t.toNat → s.sys.shutdown = false → Does (.refHoldTimeout t) s (fun u => u.sys.shutdown = true)) ∧
      (t.toNat ≤ v + 10000000000 → Does (.refHoldTimeout t) s (fun u => u = s))) ∧
    Does (.timeBaseSync t) s (fun u => u.tb = now.tb ∧ onlyClk u ∧ ∀ n, n < 48 →
      u.clkField n = if (s.fieldPwr n).st = 3 then { s.clkField n with copy := now.tb } else s.clkField n) ∧
    (timeLocked s = true → Does (.clkTbSetGo t) s (fun u => u = { now with sys := { s.sys with clk := { c with setRes := 2 } } })) ∧
    (timeLocked s = false →
      let e := if c.slew.isSome then { c with rate := c.rateBefore, slew := none } else c
      (s.sys.ready = false ∨ now.tb.toNat ≤ c.tbSet.toNat + 1000 →
        Does (.clkTbSetGo t) s (fun u => u = { s with tb := c.tbSet, sys := { s.sys with clk := { e with
          startNs := c.startNs + (now.tb.toNat - c.startTick), startTick := c.tbSet.toNat, rateAt := none, setRes := 1, source := 3 } } })) ∧
      (s.sys.ready = true → c.tbSet.toNat + 1000 < now.tb.toNat →
        let d := now.tb.toNat - c.tbSet.toNat
        Does (.clkTbSetGo t) s (fun u => u = { now with sys := { s.sys with clk := { e with
          rateBefore := e.rate, rate := -500000, slew := some d, slewEnd := now.tb.toNat + 1999 * d, rateAt := some now.tb.toNat, setRes := 3 } } }))) ∧
    (∀ f : Fin 65, Does (.clkTbLoRead f t) s (fun u => (u.fn f).tbHi = t.extractLsb' 32 32 ∧ u.tb = now.tb ∧ (∀ j, j ≠ f.val → u.fn j = s.fn j) ∧ { u with tb := s.tb, host := s.host } = s)) ∧
    (∀ v, c.slew = some v →
      (c.slewEnd ≤ t.toNat → Does (.slewDone t) s (fun u => u = { now with sys := { s.sys with clk := { c with rate := c.rateBefore, slew := none, rateAt := some now.tb.toNat } } })) ∧
      (t.toNat < c.slewEnd → Does (.slewDone t) s (fun u => u = s))) ∧
    ∀ (p : Fin 64) (v : Fin 16), let x := s.clkPart p
      (8 < v.val → Does (.hostSwalWrite p v) s (fun u => u = s)) ∧
      (v.val ≤ 8 → isStepping s p = true → Does (.hostSwalWrite p v) s (fun u => u.clkPart p = { x with hostSwal := v } ∧ onlyClk u)) ∧
      (v.val ≤ 8 → isStepping s p = false → Does (.hostSwalWrite p v) s (fun u => (u.clkPart p).hostSwal = v ∧ (u.clkPart p).eff = max v.val x.reefSwal ∧ (u.clkPart p).step = c.step ∧
        (∀ j, j ≠ p.val → u.clkPart j = s.clkPart j) ∧ onlyClk u))

/-- O48. Start-up, restarts and hold-up (16 R389 to R393, 17 R398, R410, R411, 19 R445): each step of Table 16.4 leads to the next; a restart goes back to step 4 with the crow's nest and the factory's
values kept; a lost input closes the module down; the switches open. -/
def Obligations.StartRestartAndHoldup : Prop :=
  ∀ (s : State) (t : Dword),
    let x := s.sys.pwr
    (∀ i : StartIn, s.sys.safe = false → s.sys.ready = false → s.sys.shutdown = false → x.holdup = none →
      let goes := fun (P : State → Prop) => Does (.startUpStepDone i t) s P
      (s.sys.clk.phase = 1 → x.valid = true → goes (fun u => u = { s with sys := { s.sys with clk := { s.sys.clk with phase := 2 } } })) ∧
      (s.sys.clk.phase = 2 → goes (fun u => u.sys.clk.phase = 3 ∧ u.sys.pwr.rim0 = true ∧ u.sys.pwr.rim1 = true)) ∧
      (s.sys.clk.phase = 3 → goes (fun u => u.sys.clk.phase = 4 ∧ u.tb = 0#64 ∧ u.sys.clk.startMs = i.ms)) ∧
      (s.sys.clk.phase = 4 → goes (fun u => u.sys.clk.phase = 5)) ∧
      (s.sys.clk.phase = 5 → copyGood s false = true → goes (fun u => u.sys.clk.phase = 6)) ∧
      (s.sys.clk.phase = 5 → copyGood s false = false → (s.nvm true).present = false → goes (fun u => u.sys.safe = true ∧ u.sys.clk.phase = 5)) ∧
      (s.sys.clk.phase = 6 → goes (fun u => u.sys.clk.phase = 7 ∧ u.sys.cfg.fcalRead = true ∧ u.sys.cfg.fcalOk = i.calOk)) ∧
      (s.sys.clk.phase = 7 → (∀ n, n < 48 → (s.fieldPwr n).st ≠ 1 ∧ (s.fieldPwr n).st ≠ 2) → goes (fun u => u.sys.clk.phase = 8 ∧ u.sys.clk.step = 0 ∧ u.sys.clk.gliding = true ∧
        ∀ n ∈ litFields s, (u.field n).mode = .fixedHop)) ∧
      (s.sys.clk.phase = 8 → s.sys.clk.gliding = false → goes (fun u => u.sys.clk.phase = 9 ∧ u.sys.tests = i.fails ++ lostCores s)) ∧
      (s.sys.clk.phase = 9 → goes (fun u => u.sys.clk.phase = 10)) ∧
      (s.sys.clk.phase = 10 → goes (fun u => u.sys.clk.phase = 11 ∧ u.sys.cnm.running = true ∧ u.sys.cnm.seq = 1)) ∧
      (s.sys.clk.phase = 11 → s.sys.clk.step = wantedStep s → goes (fun u => u.sys.clk.phase = 12)) ∧
      (s.sys.clk.phase = 12 → s.sys.clk.gliding = false →
        (s.sys.clk.step = wantedStep s → goes (fun u => u.sys.ready = true)) ∧
        (s.sys.clk.step ≠ wantedStep s → goes (fun u => u.sys.clk.step = wantedStep s ∧ u.sys.clk.gliding = true)))) ∧
    (x.holdup = none → 4 ≤ s.sys.clk.phase →
      let warm := fun (cause : Nat) (u : State) => u.sys.clk.phase = 4 ∧ u.sys.clk.cause = cause ∧ u.sys.ready = false ∧ u.cores = [] ∧ u.parts = [] ∧ u.table = {} ∧ u.stream = {} ∧
        u.pending = s.pending ∧ u.serial = s.serial ∧ u.grade = s.grade
      let kept := fun (u : State) => u.tb = (s.atTick t).tb ∧ u.sys.cnm.meter = s.sys.cnm.meter ∧ u.sys.clk.restarts = min 0xFFFF (s.sys.clk.restarts + 1) ∧
        ∀ n, (u.field n).factRow = (s.field n).factRow ∧ (u.field n).factSails = (s.field n).factSails
      Does (.pinReset t) s (fun u => warm 2 u ∧ kept u) ∧ (∀ flushed, Does (.mastheadWatchdog ⟨flushed, t⟩) s (fun u => warm 4 u ∧ kept u ∧ u.sys.evr.data = s.sys.evr.data ∧
        (flushed = true → u.sys.evr.seq = (s.sys.evr.seq + 1) % 2 ^ 32 ∧ u.sys.evr.slot = s.sys.evr.next))) ∧
      (s.enabled = [] → Does (.hostRestart 0x4D52#16 t) s (fun u => warm 3 u ∧ kept u)) ∧
      (∀ key, key ≠ 0x4D52#16 → Does (.hostRestart key t) s (fun u => u = s))) ∧
    (∀ volt, x.holdup = none → Does (.inputLoss volt t) s (fun u => u.sys.shutdown = true ∧ u.sys.struck = true ∧ ∃ f, u.sys.evr.flush = some f ∧ f.cause = 1)) ∧
    (∀ h, x.holdup = some h → Does (.holdupFieldsOff t) s (fun u => u.cores = [] ∧ u.fab.flits = [] ∧ u.fab.reds = [] ∧ u.fab.merges = [] ∧ u.sys.cnm.meter = s.sys.cnm.meter) ∧
      Does (.holdupRimOff t) s (fun u => u.cores = [] ∧ u.parts = [] ∧ u.sys.clk = {} ∧ u.sys.ready = false ∧ u.sys.cnm.meter = s.sys.cnm.meter ∧ u.sys.pwr.valid = x.valid ∧
        u.serial = s.serial ∧ u.pending = s.pending)) ∧
    Does .inputValid s (fun u => u = { s with sys := { s.sys with pwr := { x with valid := true } } }) ∧
    Does .holdupStoreCharged s (fun u => u = { s with sys := { s.sys with pwr := { x with storeOk := x.holdup.isNone } } }) ∧
    Does .inputDip s (fun u => u = { s with sys := { s.sys with pwr := { x with dips := min 0xFF (x.dips + 1) } } }) ∧
    ∀ volt : BitVec 16, x.holdup = none →
      let entered := fun (k : Nat) (u : State) => u.sys.pwr = { x with
        input := k, volt := volt.toNat, log := x.log.push (packFields 32 [(0, 6, 0), (6, 8, 0), (14, 3, 6), (17, 2, 0)], (s.atTick t).time32, packFields 32 [(0, 16, volt.toNat)]) } ∧
        u.cores = s.cores ∧ u.parts = s.parts ∧ u.fab = s.fab
      (x.input ≠ 1 → Does (.inputLow volt t) s (entered 1)) ∧ (x.input ≠ 2 → Does (.inputHigh volt t) s (entered 2))

/-- O49. Power (17 R399 to R409, 19 R445): voltages trimmed and raised, a slow core at half rate, the policy's measurements and its lowering, phases, regulators, shorts, converters, switches and the
quiet window. -/
def Obligations.PowerDelivery : Prop :=
  ∀ (s : State) (t : Dword),
    let onlyPwr := fun (u : State) => { u with tb := s.tb, sys := { u.sys with pwr := s.sys.pwr } } = s
    (∀ m : Fin 9216, let c := s.corePwr m
      let n := m.val / 192
      let f := s.field n
      c.on = true →
      (∀ margin, let h := AMap.at s.sys.thm.cores {} m
        Does (.avsTrimTick m margin) s (fun u => (u.corePwr m).volt =
          (if margin < 20 then min 850 (c.volt + 5)
          else if (if h.stage1 || h.suspect then 25 else 45) < margin ∧ ¬(s.sys.clk.gliding = true ∧ s.sys.clk.down = true) then max 550 (c.volt - 5) else c.volt) ∧
          (∀ j, j ≠ m.val → u.corePwr j = s.corePwr j) ∧ onlyPwr u)) ∧
      Does (.timingNearMiss m) s (fun u => (u.corePwr m).volt = min 850 (c.volt + 20) ∧ (u.corePwr m).near = min 0x3F (c.near + 1) ∧
        (∀ j, j ≠ m.val → u.corePwr j = s.corePwr j) ∧ onlyPwr u) ∧
      (c.volt = 850 → c.half = false → s.hasSpare n (m % 12) = false →
        Does (.slowCoreTimeout m t) s (fun u => (u.corePwr m).half = true ∧ (u.core m).stat.halfRate = true ∧ (∀ j, j ≠ m.val → u.core j = s.core j) ∧
          (f.owned = true → (u.clkPart f.part).pwrSwal = max (s.clkPart f.part).pwrSwal 8) ∧ (f.owned = false → u.parts = s.parts ∧ u.sys.clk = s.sys.clk))) ∧
      (∀ (k : Fin 4) v, bitAt c.phases k = true → c.reefed = false → f.owned = true → maxDecl s m ≤ 4800 →
        Does (.phaseFailure m k v t) s (fun u => (u.corePwr m).reefed = true ∧ (u.corePwr m).phases = setBits c.phases k 1 0 ∧ u.cores = s.cores ∧ u.fab = s.fab ∧
          u.sys.pwr.log = s.sys.pwr.log.push (packFields 32 [(0, 6, n), (6, 8, m % 192), (14, 3, 0), (17, 2, k.val)], (s.atTick t).time32, packFields 32 [(0, 16, min v.toNat 0xFFFF)]))) ∧
      (∀ v, f.owned = false →
        Does (.regulatorFailure m v t) s (fun u => (u.corePwr m).st = 5 ∧ (u.corePwr m).volt = 0 ∧ (u.core m).stat.furled = true ∧ (u.core m).stat.furlCause = 5 ∧ (u.core m).stat.sailCnt = 0) ∧
        Does (.coreShort m v t) s (fun u => (u.corePwr m).st = 6 ∧ (u.corePwr m).volt = 0 ∧ (u.core m).stat.furled = true ∧ (u.core m).stat.furlCause = 6 ∧ (u.core m).stat.sailCnt = 0)) ∧
      (∀ v, f.owned = true → f.furl (m % 12) ≠ m % 192 / 12 → m % 192 / 12 ≠ 15 → s.hasSpare n (m % 12) = true →
        (∀ k, m % 192 / 12 ≤ k → k < 15 → (s.core (n * 192 + k * 12 + m % 12)).mast.failed = false) → (s.part f.part).recov = none → (s.grp f.part).inStep = false →
        let recovers := fun (u : State) => (u.core m).stat.furled = true ∧ (u.grp f.part).held = true ∧
          ((s.corePwr (n * 192 + 180 + m % 12)).st = 0 → (u.corePwr (n * 192 + 180 + m % 12)).on = true) ∧
          ∃ r, (u.part f.part).recov = some r ∧ r.dead = [m.val] ∧ r.copies = [n * 12 + m % 12] ∧ r.tests = [n]
        Does (.regulatorFailure m v t) s recovers ∧ Does (.coreShort m v t) s recovers)) ∧
    (∀ m : Fin 9216, ∀ v, (s.corePwr m).limitBy = some v → v < t.toNat →
      ((s.grp (s.corePart m)).inStep = true → Does (.phaseLimitExpire m t) s (fun u => (u.grp (s.corePart m)).closed = true ∧ ∃ f ∈ (u.grp (s.corePart m)).faults, f.code = 0x12)) ∧
      ((s.grp (s.corePart m)).inStep = false → Does (.phaseLimitExpire m t) s (fun u => u.corePwr m = { s.corePwr m with limitBy := none } ∧ onlyPwr u))) ∧
    (∀ i : PowerIn,
      let s1 := takePower (s.atTick t) i
      let x := s1.sys.pwr
      let mv := ((i.mv : Int) + signedOf 16 (bitsN (s.rwp 2) 0 16)).toNat
      let ma := ((i.ma : Int) + 10 * signedOf 16 (bitsN (s.rwp 2) 16 16)).toNat
      (s.sys.pwr.hist.length < 99 → s.sys.pwr.high < 9 → (∀ r ∈ i.fields, (AMap.at s.sys.pwr.convs {} (2 * r.1)).ok = (AMap.at s.sys.pwr.convs {} (2 * r.1 + 1)).ok) → Does (.powerPolicyTick i t) s (fun u =>
        u.sys.pwr.volt = min 0xFFFF (mv / 10) ∧ u.sys.pwr.curr = min 0xFFFF (ma / 100) ∧ u.sys.pwr.power = min 0xFFFF (mv * ma / 1000000 / 10) ∧
        u.sys.pwr.hist = mv * ma / 1000000 :: s.sys.pwr.hist ∧ u.sys.clk = s.sys.clk ∧ u.cores = s.cores ∧ u.parts = s.parts)) ∧
      (∀ n c, s.sys.pwr.hist.length < 99 → s.sys.pwr.high < 9 → i.fields = [(n, c)] → (s.fieldPwr n).st = 3 → (s.field n).owned = true →
        (AMap.at s.sys.pwr.convs {} (2 * n)).ok ≠ (AMap.at s.sys.pwr.convs {} (2 * n + 1)).ok → let w := countFor (max (s.fieldPwr n).hwm c) 150
        w ≤ 8 → Does (.powerPolicyTick i t) s (fun u => (u.clkPart (s.field n).part).pwrSwal = max (s.clkPart (s.field n).part).pwrSwal w ∧ u.cores = s.cores)) ∧
      (x.holdup = none → x.high < 10 → 100 ≤ x.hist.length → 100 * ceiling s1 < (x.hist.take 100).foldl (· + ·) 0 → x.lastAct + 10000000 ≤ t.toNat → s1.sys.clk.step = wantedStep s1 →
        s1.sys.clk.limit + 1 ≤ clockFloor s1 → Does (.powerPolicyTick i t) s (fun u => u.sys.clk.limit = s1.sys.clk.limit + 1 ∧ u.sys.pwr.acts = .step :: x.acts ∧ u.sys.pwr.lastAct = (s.atTick t).tb.toNat))) ∧
    (∀ (k : Fin 96) v, let n := k.val / 2
      let c := AMap.at s.sys.pwr.convs {} k
      c.ok = true →
      let other := (AMap.at s.sys.pwr.convs {} (4 * n + 1 - k)).ok
      (((s.fieldPwr n).st ≠ 2 ∧ (s.fieldPwr n).st ≠ 3) ∨ ((s.fieldPwr n).st = 2 ∧ other = true) →
        Does (.converterFailure k v t) s (fun u => AMap.at u.sys.pwr.convs {} k = { c with ok := false, curr := 0 } ∧ u.fieldPwr n = s.fieldPwr n ∧ u.fab = s.fab ∧ u.cores = s.cores)) ∧
      ((s.fieldPwr n).st = 3 → other = true → ∀ w, w = countFor (s.fieldPwr n).hwm 150 →
        ((s.field n).owned = true →
          (w ≤ 8 → Does (.converterFailure k v t) s (fun u => (AMap.at u.sys.pwr.convs {} k).ok = false ∧ (u.clkPart (s.field n).part).pwrSwal = max (s.clkPart (s.field n).part).pwrSwal w ∧ u.fab = s.fab ∧ u.cores = s.cores)) ∧
          (8 < w → Does (.converterFailure k v t) s (fun u => (u.fieldPwr n).trip = true ∧ (u.fieldPwr n).st = 3 ∧ u.fab = s.fab ∧ u.cores = s.cores))) ∧
        ((s.field n).owned = false → 8 < w → Does (.converterFailure k v t) s (fun u => (u.field n).mode = .dark))) ∧
      ((s.fieldPwr n).st = 2 ∨ (s.fieldPwr n).st = 3 → other = false → Does (.converterFailure k v t) s (fun u => (u.field n).mode = .dark))) ∧
    (∀ v, s.sys.pwr.rim0 = true →
      (s.sys.pwr.rim1 = true → Does (.rimConverterFailure 0 v t) s (fun u => u.sys.pwr.rim0 = false ∧ u.sys.pwr.rim1 = true ∧ u.cores = s.cores ∧ u.fab = s.fab)) ∧
      (s.sys.pwr.rim1 = false → Does (.rimConverterFailure 0 v t) s (fun u => u.sys.shutdown = true ∧ u.cores = [] ∧ u.fab.flits = [] ∧ u.sys.pwr.rim0 = false ∧ u.sys.cnm.meter = s.sys.cnm.meter ∧
        (∀ l : Fin 4, u.host.links[l].up = false) ∧ ∀ p ∈ s.enabled, (u.grp p).stepping = false ∧ ((s.grp p).inStep = true → (u.grp p).closed = true ∧ ∃ f ∈ (u.grp p).faults, f.code = 0x61)))) ∧
    ∀ n : Fin 48,
      let now := (s.atTick t).tb.toNat
      (∀ v, (s.fieldPwr n).st = 2 ∨ (s.fieldPwr n).st = 3 → Does (.fieldSupplyShort n v t) s (fun u => (u.field n).mode = .dark) ∧
        ((s.field n).owned = false → Does (.fieldSupplyShort n v t) s (fun u => (u.fieldPwr n).st = 4 ∧ (u.fieldPwr n).trip = true ∧ u.cores = s.cores))) ∧
      (∀ v, (s.fieldPwr n).st = 2 →
        ((s.clkField n).lockLate t.toNat = true → Does (.fieldRampTimeout n v t) s (fun u => (u.field n).mode = .dark)) ∧
        ((s.clkField n).lockLate t.toNat = false → Does (.fieldRampTimeout n v t) s (fun u => u = s))) ∧
      ((s.fieldPwr n).st = 1 →
        let ramps := fun (wait : Nat) (u : State) => u.fieldPwr n = { s.fieldPwr n with st := 2, grantMs := wait } ∧ u.clkField n = { s.clkField n with powerOn := some now } ∧
          (∀ j, j ≠ n.val → u.fieldPwr j = if j ∈ seamNeighbours n ∧ (s.fieldPwr j).st = 3 then { s.fieldPwr j with armed := true } else s.fieldPwr j) ∧ u.cores = s.cores ∧ u.parts = s.parts
        (∀ peaks, (atPeak s n peaks = false → Does (.quietWindowGrant n peaks t) s (ramps (min 50 ((now - (s.fieldPwr n).waitAt) / 1000000)))) ∧
          (atPeak s n peaks = true → Does (.quietWindowGrant n peaks t) s (fun u => u = s))) ∧
        ((s.fieldPwr n).waitAt + 50000000 < t.toNat → Does (.grantTimeout n t) s (ramps 50)) ∧
        (t.toNat ≤ (s.fieldPwr n).waitAt + 50000000 → Does (.grantTimeout n t) s (fun u => u = s)))

/-- O50. Heat, the tray and recovery (18 R416 to R432, 19 R439, R440): sensors, reefing stage 1 and 2, gating, the tray's values, strikes and their end; a spare checked, a column copied and tested. -/
def Obligations.HeatAndRecovery : Prop :=
  ∀ (s : State) (t : Dword),
    let x := s.sys.thm
    (∀ m : Fin 9216, let c := s.coreThm m
      (∀ r r', s.hasField (m / 192) = false → Does (.coreSensorSample m r r' t) s (fun u => u = s)) ∧
      (∀ d r : Int, s.hasField (m / 192) = true → c.dFail = false → c.rFail = false → -40 ≤ d → d ≤ 150 → -40 ≤ r → r ≤ 150 →
        Does (.coreSensorSample m (some d) (some r) t) s (fun u => let y := u.coreThm m
          y.diode = d ∧ y.ring = r ∧ y.dFail = false ∧ y.rFail = false ∧ y.wide = decide (3 < (d - r).natAbs) ∧
          y.stage1 = (c.stage1 || decide ((x.reefOn : Int) ≤ calRaise s + max d r)) ∧ y.suspect = c.suspect ∧ (∀ j, j ≠ m.val → u.coreThm j = s.coreThm j) ∧ u.cores = s.cores ∧ u.parts = s.parts)) ∧
      (s.hasField (m / 192) = true → c.dFail = false → c.dMiss = 9 → Does (.coreSensorSample m none none t) s (fun u => (u.coreThm m).dFail = true ∧ (u.coreThm m).diode = c.diode ∧ u.cores = s.cores)) ∧
      (∀ v, c.wideAt = some v → v + 1000000000 < t.toNat → c.suspect = false → Does (.disagreeTimeout m t) s (fun u =>
        (u.coreThm m).suspect = true ∧ (u.coreThm m).stage1 = true ∧ (∀ j, j ≠ m.val → u.coreThm j = s.coreThm j) ∧ u.cores = s.cores)) ∧
      (∀ v, c.coolAt = some v → c.stage1 = true → v + 100000000 ≤ t.toNat →
        (c.suspect = false → Does (.stage1Release m t) s (fun u => u.coreThm m = { c with stage1 := false, hotAt := none } ∧ { u with tb := s.tb, sys := { u.sys with thm := x } } = s)) ∧
        (c.suspect = true → Does (.stage1Release m t) s (fun u => u = s)))) ∧
    (∀ (m : Fin 9216) (k : Fin 4) (v : Int), s.hasField (m / 192) = true → ((s.core m).mast.tiers[k]).failed = false → -40 ≤ v → v ≤ 150 →
      Does (.tierSensorSample m k (some v) t) s (fun u => (u.core m).mast.tiers[k] = { (s.core m).mast.tiers[k] with temp := v } ∧ (u.core m).mast.data = (s.core m).mast.data ∧
        (∀ j, j ≠ m.val → u.core j = s.core j) ∧
        ((s.field (m / 192)).owned = true → ((s.mst.hotOn : Int) < v + calRaise s → (u.part (s.corePart m)).hotAsked = true) ∧
          (tierAtLeast s 95 (m.val, k.val) = false → 95 ≤ v + calRaise s → (u.clkPart (s.corePart m)).thmSwal = 8 ∧ (u.partThm (s.corePart m)).limit = true)))) ∧
    (∀ (m : Fin 9216) (k : Fin 4) r, s.hasField (m / 192) = false → Does (.tierSensorSample m k r t) s (fun u => u = s)) ∧
    (∀ p, s.enabled = [p] → let d := (s.clkPart p).thmSwal
      (demandUp (s.atTick t) p t.toNat = true → Does (.thermalDemandTick t) s (fun u => (u.clkPart p).thmSwal = min 8 (d + 1) ∧ (d < 8 → (u.clkPart p).reefSwal = max (s.clkPart p).pwrSwal (d + 1)))) ∧
      (demandUp (s.atTick t) p t.toNat = false → 0 < d → demandDown (s.atTick t) p t.toNat = true →
        Does (.thermalDemandTick t) s (fun u => (u.clkPart p).thmSwal = d - 1 ∧ (u.partThm p).lowered = some t.toNat))) ∧
    (∀ (n : Fin 48) core k v, (s.fieldPwr n).st = 3 → Does (.thermalTrip n core k v t) s (fun u => (u.field n).mode = .dark)) ∧
    (∀ r ti to' fl, trayMissed s (some r) = false → trayValues s r = (some ti, some to', some fl) →
      (x.cool = 0 ∨ x.cool = 1 → 640 ≤ fl → Does (.trayPoll (some r) t) s (fun u => let y := u.sys.thm
        y.inlet = ti ∧ y.outlet = to' ∧ y.flow = fl ∧ y.trayOk = true ∧ trayAge u = 0 ∧ y.seq = some (bitsN r 56 8) ∧ (y.cool = 0 ∨ y.cool = 1) ∧ y.qrem = (fl * 397 * (to' - ti) : Int) / 600000 ∧
        u.cores = s.cores ∧ u.parts = s.parts)) ∧
      (x.cool = 0 ∨ x.cool = 1 → fl < 640 → (∃ y ∈ x.rpts, t.toNat ≤ y.at' + 1000000000 ∧ ∃ g, y.flow = some g ∧ 2560 ≤ g) → Does (.trayPoll (some r) t) s (fun u => u.sys.struck = true))) ∧
    (x.cool ≠ 1 → x.cool ≠ 2 → Does (.gatingTick t) s (fun u => (∀ p ∈ s.enabled, u.partThm p = { s.partThm p with gateNext := atLimit s p }) ∧ { u with tb := s.tb, sys := { u.sys with thm := x } } = s)) ∧
    (∀ v, x.struckAt = some v → x.cool = 3 →
      (v + 2000000000 < t.toNat → s.sys.shutdown = false → Does (.strikeRestoreDeadline t) s (fun u => u.sys.shutdown = true)) ∧
      (t.toNat ≤ v + 2000000000 → Does (.strikeRestoreDeadline t) s (fun u => u = s))) ∧
    (∀ w : Word, let on := bitsN w 0 8
      let off := bitsN w 8 8
      Does (.thmCtrlWrite w) s (fun u => u = { s with sys := { s.sys with thm := { x with
        reefOn := if x.lock = false ∧ off < on then on else x.reefOn, reefOff := if x.lock = false ∧ off < on then off else x.reefOff
        tierReef := if x.lock then x.tierReef else bitsN w 16 8, lock := x.lock || bitAt w 24 } } })) ∧
    ∀ (n : Fin 48) (r : Recov), let p := (s.field n).part
      (s.part p).recov = some r →
      (∀ (col : Fin 12) m, let key := n.val * 12 + col.val
        deadIn s p key = some m →
        (key ∈ r.spares →
          Does (.spareCheckDone n col true) s (fun u => (u.part p).recov = some { r with spares := r.spares.filter (· != key) } ∧ { u with parts := s.parts } = s) ∧
          (m / 192 = n.val → Does (.spareCheckDone n col false) s (fun u => (u.field n).mode = .dark))) ∧
        (key ∈ r.copies → m / 192 = n.val →
          Does (.columnCopyDone n col none) s (fun u => (∀ k, m % 192 / 12 < k → k < 16 → (u.core (n.val * 192 + k * 12 + col.val)).mast.data = (s.core (n.val * 192 + (k - 1) * 12 + col.val)).mast.data) ∧
            (∀ j, colKey j ≠ key → u.core j = s.core j) ∧ (u.part p).recov = some { r with copies := r.copies.filter (· != key) } ∧ u.fab = s.fab ∧
              (s.xt.busy = true → s.xt.field * 12 + s.xt.cxp = key → u.xt.done = true ∧ u.xt.err = false)) ∧
          ∀ (row : Fin 16) wide, Does (.columnCopyDone n col (some (row, wide))) s (fun u => (u.core (n.val * 192 + row.val * 12 + col.val)).mast.failed = true ∧
            (s.xt.busy = true → s.xt.field * 12 + s.xt.cxp = key → u.xt.err = true ∧ u.xt.done = false) ∧ AMap.at (u.field n).furlRow 15 col = m % 192 / 12))) ∧
      (testDue r n = true →
        Does (.columnTestDone n false) s (fun u => (u.field n).mode = .dark) ∧
        ((s.field n).mode ≠ .dark → Does (.columnTestDone n true) s (fun u => (u.field n).mode = .normal ∧ (u.field n).hopOrigin = none ∧
          ((s.part p).hoist = none → ∀ m ∈ r.dead, m / 192 = n.val → (u.core m).mast.data = []))))

/-- O51. The host interface (22 R489 to R503): links, function resets, configuration space, mailboxes, doorbell bits, vectors and their coalescing, INFO, refused accesses. -/
def Obligations.HostInterface : Prop :=
  (∀ (p : Fin 64) (t : Dword) (s : State), (s.part p).en = true → isStepping s p = true →
    Does (.partitionReset p t) s (fun u => u.part p = { s.part p with resetAsked := true } ∧ onlyPart p s u) ∧
    ∀ (f : Fin 65) (link : Fin 4), f.val = p.val + 1 → (s.part p).home = link.val →
      Does (.hostFlr f link t) s (fun u => u.fn f = { msgs := (s.fn f).msgs.map (fun m => { m with drop := true }) } ∧ (u.part p).resetAsked = true ∧
        (∀ e, u.ent e = if (s.req p).owns e = true ∧ recordDue (s.ent e) = true then { s.ent e with flr := true } else s.ent e) ∧ (u.req p).held = [] ∧ (u.req p).rr.busy = false ∧
        (u.req p).cq.en = false ∧ (u.req p).cqFull = true ∧ (∀ q, (AMap.at (u.req p).sqs {} q).en = false) ∧ (∀ r, (AMap.at (u.req p).srs {} r).en = false) ∧ u.cores = s.cores)) ∧
  (∀ (link : Fin 4) (t : Dword) (s : State), let l := s.host.links[link]
    let linkIs := fun (x : HostLink) (u : State) => u.host.links[link] = x ∧ (∀ j : Fin 4, j ≠ link → u.host.links[j] = s.host.links[j]) ∧ u.cores = s.cores ∧ u.fab = s.fab ∧
      ((∀ p ∈ s.enabled, (s.part p).home = link.val → (s.req p).cq.en = false) → u.parts = s.parts) ∧
      ∀ p, { u.part p with req := { u.req p with cqFull := (s.req p).cqFull } } = s.part p
    Does (.hostFlr 0 link t) s (fun u => linkIs { l with cfg := AMap.del l.cfg 0 } u ∧
      ((∀ p ∈ s.enabled, (s.part p).home = link.val → (s.req p).cq.en = false) →
        u.fn 0 = { msgs := (s.fn 0).msgs.map (fun m => { m with drop := true }) } ∧ ∀ j, j ≠ 0 → u.fn j = s.fn j)) ∧
    Does (.hostPerst link) s (linkIs { l with cfg := [] }) ∧
    (l.up = true → Does (.hostLinkDown link) s (linkIs { up := false, rate := 0, width := 0, downCnt := min 0xFF (l.downCnt + 1), cfg := [] })) ∧
    (∀ (rate : Fin 4) (width : Fin 32), rate ≠ 0 → width = 4 ∨ width = 8 ∨ width = 16 → 3 ≤ s.sys.clk.phase →
      Does (.hostLinkUp link rate width true) s (linkIs { l with up := true, rate := rate, width := width, cfg := [] })) ∧
    (∀ rate width, Does (.hostLinkUp link rate width false) s (fun u => u = s)) ∧
    ∀ (f : Fin 65) master sriov numVfs, let c := s.cfgOf link f
      (present s link f = false → Does (.pcieConfigWrite link f master sriov numVfs) s (fun u => u = s)) ∧
      (present s link f = true → Does (.pcieConfigWrite link f master sriov numVfs) s (fun u => u.cfgOf link f = {
        master := master.getD c.master, sriov := if f = 0 then sriov.getD c.sriov else c.sriov
        numVfs := match numVfs with | some n => if f = 0 ∧ c.sriov = false then n.val else c.numVfs | none => c.numVfs } ∧ u.cores = s.cores ∧
          ∀ p, { u.part p with req := { u.req p with cqFull := (s.req p).cqFull } } = s.part p))) ∧
  (∀ (f : Fin 65) (s : State), let x := s.fn f
    let fnIs := fun (y : Fn) (u : State) => u.fn f = y ∧ (∀ j, j ≠ f.val → u.fn j = s.fn j) ∧ onlyHost s u
    (∀ (i : Fin 16) v, Does (.mbxOutDataWrite f i v) s (fnIs { x with out := setBits x.out (32 * i) 32 v.toNat, coll := x.coll || x.full, collided := x.collided || x.full })) ∧
    (∀ link : Fin 4, Does (.mbxOutGo f link) s (fnIs (if x.full then { x with coll := true, collided := true } else { x with full := true, collided := false, goLink := link }))) ∧
    (mayTake s f = true → Does (.mbxTake f) s (fun u => (u.fn f).full = false ∧ (u.fn f).taken = (x.taken + 1) % 65536 ∧ bitAt (u.fn f).dblStat 1 = true ∧
      (∀ c, takeStatus s f x.out x.collided = some c → (u.fn f).replies = x.replies ++ [replyBits x.out c 0 []] ∧ (u.fn f).msgs = x.msgs) ∧
      (takeStatus s f x.out x.collided = none → (u.fn f).msgs = x.msgs ++ [{ body := x.out, link := x.goLink }] ∧ (u.fn f).replies = x.replies) ∧ onlyHost s u)) ∧
    (∀ r rs, x.inFull = false → x.replies = r :: rs → Does (.mbxReplyWrite f) s (fun u => (u.fn f).inb = r ∧ (u.fn f).inFull = true ∧ (u.fn f).replies = rs ∧ bitAt (u.fn f).dblStat 0 = true ∧
      (bitsN r 8 8 = 3 → bitAt (u.fn f).dblStat 2 = true) ∧ onlyHost s u)) ∧
    Does (.mbxInDone f) s (fnIs (if x.inFull then { x with inFull := false, received := (x.received + 1) % 65536 } else x)) ∧
    (∀ w, Does (.dblStatClear f w) s (fnIs { x with dblStat := x.dblStat &&& ~~~w })) ∧
    (∀ w, (∀ b, b < 12 → bitAt x.dblStat b = true → bitAt x.dblMask b = true → bitAt w b = true) → Does (.dblMaskWrite f w) s (fnIs { x with dblMask := w &&& 0xFFF#32 })) ∧
    (∀ w b, b < 12 → bitAt x.dblStat b = true → bitAt x.dblMask b = true → bitAt w b = false → x.fnMask = false → (x.vec (dblVec b)).masked = false →
      Does (.dblMaskWrite f w) s (fun u => (u.fn f).dblMask = w &&& 0xFFF#32 ∧ (u.fn f).dblStat = x.dblStat ∧ .msix f (dblVec b) ∈ u.host.out ∧ onlyHost s u)) ∧
    (∀ k : Fin 256, x.fnMask = false →
      ((x.vec k).pend = true → Does (.msixUnmask f (some k)) s (fun u => u.host.out = s.host.out ++ [.msix f k] ∧ (u.fn f).vec k = { x.vec k with masked := false, pend := false } ∧ onlyHost s u)) ∧
      ((x.vec k).pend = false → Does (.msixUnmask f (some k)) s (fun u => u.host.out = s.host.out ∧ (u.fn f).vec k = { x.vec k with masked := false } ∧ onlyHost s u))) ∧
    (x.vecs = [] → Does (.msixUnmask f none) s (fnIs { x with fnMask := false })) ∧
    (∀ (v : Fin 64) (t : Dword), (x.vec v).window = true → let us := (s.part (f - 1)).coalUs
      (t.toNat < (x.vec v).winEnd → Does (.coalesceExpire f ⟨v, t⟩) s (fun u => u = s)) ∧
      ((x.vec v).winEnd ≤ t.toNat → (x.vec v).folded = false → Does (.coalesceExpire f ⟨v, t⟩) s (fun u => (u.fn f).vec v = { x.vec v with window := false } ∧ u.host.out = s.host.out ∧
        onlyHost s { u with tb := s.tb })) ∧
      ((x.vec v).winEnd ≤ t.toNat → (x.vec v).folded = true → x.fnMask = false → (x.vec v).masked = false → Does (.coalesceExpire f ⟨v, t⟩) s (fun u => u.host.out = s.host.out ++ [.msix f v] ∧
        onlyHost s { u with tb := s.tb } ∧ (u.fn f).vec v = if us = 0 then { x.vec v with folded := false, window := false }
          else { x.vec v with folded := false, window := true, winEnd := (s.atTick t).tb.toNat + 1000 * us }))) ∧
    ∀ m, findMsg s f 6 = some m → m.drop = false → Does (.info f) s (fun u => (u.fn f).msgs = x.msgs.erase m ∧ (u.fn f).replies = x.replies ++ [replyBits m.body 0 0
      [(64, 64, s.serial.toNat), (128, 8, s.grade), (136, 8, if f = 0 then 0xFF else f.val - 1), (144, 1, b2n s.sys.ready), (145, 1, b2n s.sys.safe), (160, 32, s.sys.mhVer)]] ∧ onlyHost s u)) ∧
  ∀ s : State,
    Does (.badRegisterAccess none) s (fun u => u = { s with host := { s.host with badAcc := min 0xFFFF (s.host.badAcc + 1) } }) ∧
    ∀ (p : Fin 64) (link : Fin 4), ideOk s link (p + 1) = false →
      Does (.badRegisterAccess (some (p, link))) s (fun u => u.secPart p = { s.secPart p with ideRefuse := min 0xFFFF ((s.secPart p).ideRefuse + 1) } ∧ u.host = s.host ∧ onlySys s u)

/-- O52. Hoisting and unloading (10 R250 to R262, R579, 14 R348): commands queue, are aborted, start with their header checked, take their segments and end with a report; a slot drains, is erased and is EMPTY; an
automaton is checked and written to the sampler cores. -/
def Obligations.HoistingAndUnloading : Prop :=
  ∀ (p : Fin 64) (t : Dword) (s : State),
    let x := s.part p
    let b := x.cmdData
    let cmd : HoistCmd := { body := b, byVf := false, tick := t.toNat }
    let reports := fun (c : HoistCmd) (phase status : Nat) (u : State) => sends (.write (c.fn p) (hcReport c.body) 128 (reportBits c { phase := phase, status := status } ((s.atTick t).tb.toNat - c.tick)).toNat) s u ∧
      (u.part p).hstat.last = status
    x.en = true → s.sys.shutdown = false →
    (hcOp b ≠ 2 → hcOp b ≠ 3 → x.queue.length < 8 → Does (.hoist p false t) s (fun u => u.part p = { x with queue := x.queue ++ [cmd] } ∧ onlyPart p s u)) ∧
    (∀ m, findMsg s (p + 1) 1 = some m → m.drop = false → hcOp (bits m.body 32 256) ≠ 2 → hcOp (bits m.body 32 256) ≠ 3 → x.queue.length < 8 →
      Does (.hoist p true t) s (fun u => u.part p = { x with queue := x.queue ++ [{ body := bits m.body 32 256, byVf := true, tick := t.toNat }] } ∧
        (u.fn (p + 1)).replies = (s.fn (p + 1)).replies ++ [replyBits m.body 0 0 []] ∧ (u.fn (p + 1)).msgs = (s.fn (p + 1)).msgs.erase m)) ∧
    (hcOp b = 2 → abortsSlot s p (hcSlot b) = false → x.queue.length < 8 → Does (.unload p false t) s (fun u => u.part p = { x with queue := x.queue ++ [cmd] } ∧ onlyPart p s u)) ∧
    (∀ h, hcOp b = 2 → badCommand cmd = false → x.hoist = some h → abortsSlot s p (hcSlot b) = true →
      Does (.unload p false t) s (fun u => (u.part p).hoist = some { h with abortReq := h.abortReq || decide (h.phase.code ≤ 4) } ∧ (u.part p).queue = x.queue ∧ u.cores = s.cores)) ∧
    (∀ h, hcOp b = 3 → hcReport b % 64 = 0 → x.hoist = some h → hcTag h.cmd.body = hcTarget b → h.phase.code ≤ 4 →
      Does (.hoistAbort p false t) s (fun u => (u.part p).hoist = some { h with abortReq := true } ∧ (u.part p).queue = x.queue ∧ u.cores = s.cores)) ∧
    (s.sys.ready = true → canMaster s x.home 0 = true → hcOp b = 3 → hcReport b % 64 = 0 → x.hoist = none → x.queue = [] →
      Does (.hoistAbort p false t) s (fun u => reports cmd 7 0x12 u ∧ u.cores = s.cores)) ∧
    (∀ c r inp, x.queue = c :: r → x.hoist = none → hcOp c.body = 1 → 4 ≤ hoistsRunning s → Does (.hoistQueueTake p inp t) s (fun u => u = s)) ∧
    (∀ c r inp, x.queue = c :: r → x.hoist = none → x.waiting = [] → s.sys.ready = true → s.sys.shutdown = false → s.sys.struck = false → s.sys.fw.mhStop = false → (hcOp c.body = 1 → hoistsRunning s < 4) → let i := hcSlot c.body
      (badCommand c = true → canMaster s x.home (c.fn p) = true → Does (.hoistQueueTake p inp t) s (fun u => reports c (if hcOp c.body = 2 then 7 else 0) 1 u ∧ (u.part p).queue = r ∧ u.cores = s.cores)) ∧
      (badCommand c = false → hcOp c.body = 2 → (s.img p i).st = .loaded →
        Does (.hoistQueueTake p inp t) s (fun u => (u.img p i).st = .unloading ∧ (u.part p).waiting = [c] ∧ (u.part p).queue = r ∧ (u.part p).hstat.busy = true ∧ u.cores = s.cores)) ∧
      (badCommand c = false → hcOp c.body = 1 → (s.img p i).st = .empty → inp.badEntry = none → canRead s p c = true → hcListCnt c.body = inp.scatter.length →
        headerFormatBad inp.scatter inp.header = false →
        (∀ k, contentKey s p inp.header = some k →
          Does (.hoistQueueTake p inp t) s (fun u => (u.img p i).st = .hoisting ∧ (∃ h, (u.part p).hoist = some h ∧ h.cmd = c ∧ h.phase = .manifest ∧ h.header = inp.header ∧ h.key = k ∧ h.got = 0) ∧
            (u.part p).queue = r ∧ (u.part p).hstat.busy = true ∧ u.cores = s.cores)) ∧
        (contentKey s p inp.header = none →
          Does (.hoistQueueTake p inp t) s (fun u => (u.img p i).st = .empty ∧ (u.part p).hoist = none ∧ (u.part p).queue = r ∧ (u.part p).hstat.last = 6 ∧ (u.part p).hstat.busy = false)))) ∧
    (∀ h, x.hoist = some h → halyardNext s = some p.val → h.phase = .manifest → h.lost = false →
      let n := min (2 ^ h.segLog2) (h.manLen + h.payLen - h.got)
      let opened := fun (seg : SegIn) => Config.gcmOpen h.key (packFields 96 [(0, 64, hdN h.header 48 8), (64, 32, h.seg)]) 256 h.header.toNat n seg.data seg.tag
      (∀ (seg : SegIn) d, h.abortReq = false → canRead s p h.cmd = true → opened seg = some d → h.got + n < h.manLen →
        Does (.halyardSegment p seg t) s (fun u =>
          (u.part p).hoist = some { h with plain := Memory.writeN h.plain h.got d n, got := h.got + n, seg := h.seg + 1, badCore := seg.badCore } ∧
          (∀ j, j ≠ p.val → u.part j = s.part j) ∧ u.cores = s.cores)) ∧
      (∀ seg : SegIn, h.abortReq = true ∨ opened seg = none → s.sys.ready = true → Does (.halyardSegment p seg t) s (fun u => (u.part p).hoist = none ∧ (u.part p).hstat.busy = false ∧
        ((s.img p (hcSlot h.cmd.body)).st = .hoisting → (u.img p (hcSlot h.cmd.body)).st = .empty) ∧
        (u.part p).hstat.last = (if h.abortReq then 0x11 else if canRead s p h.cmd then 7 else 4)))) ∧
    (∀ i : Fin 4, let y := s.img p i
      (y.st = .unloading → y.unloadFor = some .command → y.drainEnd = none → Does (.unloadDrainLimit p i t) s (fun u => u.cores = s.cores ∧ u.parts = s.parts ∧
        ∀ e, concerned s p [i.val] e (s.ent e) = true → u.ent e = { s.ent e with ended := some 0x21 })) ∧
      (y.st = .unloading → y.stopped = true → y.unloadFor = some .command → entriesOf s p (fun _ e => e.islot == i.val) = [] → (∀ a ∈ (s.req p).autoLoads, a.slot ≠ i.val) →
        x.hoist = none → x.waiting = [] → s.sys.clk.step = wantedStep s →
        Does (.unloadEraseDone p i t) s (fun u => (u.img p i).st = .empty ∧ (u.img p i).loads = y.loads ∧ (u.img p i).gen = y.gen ∧ (u.part p).hstat.busy = false ∧
          ∀ m ∈ slotCores s p i, (u.core m).bundles = [] ∧ (u.core m).mast.data = [] ∧ ((u.core m).tc 0).loaded = false))) ∧
    ∀ m file, findMsg s (p + 1) 2 = some m →
      (∀ c, firstCause (autoChecks s p m.body file) = some c → m.drop = false → Does (.autoLoad p file) s (fun u => (u.fn (p + 1)).replies = (s.fn (p + 1)).replies ++ [replyBits m.body 0 c []] ∧ onlyHost s u)) ∧
      (∀ d o, file = some d → firstCause (autoChecks s p m.body file) = none → autoSpot s p m.body = some o → Does (.autoLoad p file) s (fun u => let i := bitsN m.body 32 2
        (u.req p).autoLoads = (s.req p).autoLoads ++ [{ slot := i, id := bitsN m.body 48 12, auto := { start := fileN d 14 2, ofs := o, len := bitsN m.body 128 64 }, msg := m.body }] ∧
        (∀ k, k ∉ samplerCores s p i → u.core k = s.core k) ∧
        (samplerCores s p i = [] ∨ (samplerCores s p i).Nodup → ∀ k ∈ samplerCores s p i, (u.core k).mast.data =
          Memory.writeN (s.core k).mast.data (0x10000 * bitsN (samplerRecord s p i) 128 16 + o) d (bitsN m.body 128 64))))

/-- O53. The security engine (21 R469 to R479, 22 Table 22.10): SPDM requests answered where the exchange has come far enough, sessions, IDE keys, session keys derived and cleared, signing keys, the DRBG. -/
def Obligations.SecurityEngine : Prop :=
  (∀ (a : SpdmAt) (s : State), spdmHears s a = true →
    let x := s.spdm a
    let sec := s.sys.sec
    let f := spdmFn a
    let answers := fun (code len data draws : Nat) (y : Spdm) (u : State) => u.host.out = s.host.out ++ [.spdm code len data] ∧ u.spdm a = y ∧ u.sys.sec.draws = sec.draws + draws ∧
      (∀ b, spdmKey b ≠ spdmKey a → u.spdm b = s.spdm b) ∧ u.cores = s.cores ∧ u.parts = s.parts
    let errs := fun (code : Nat) (y : Spdm) (u : State) => answers 0x7F 1 code 0 y u ∧ u.sys.sec.spdmErr = min 0xFFFF (sec.spdmErr + 1)
    let chain := Config.idChain s.serial
    Does (.getVersion a) s (answers 0x04 2 0x1312 0 { phase := 1 }) ∧
    (∀ v : Fin 256, 1 ≤ x.phase → (v = 0x12 ∨ v = 0x13 → Does (.getCapabilities a v) s (answers 0x61 4 spdmCaps 0 { x with phase := max x.phase 2, ver := v })) ∧
      (v ≠ 0x12 → v ≠ 0x13 → Does (.getCapabilities a v) s (errs 0x41 x))) ∧
    (2 ≤ x.phase → Does (.negotiateAlgorithms a true) s (answers 0x63 0 0 0 { x with phase := 3 }) ∧ Does (.negotiateAlgorithms a false) s (errs 0x01 x)) ∧
    (x.phase < 3 → Does (.getDigests a) s (errs 0x04 x)) ∧
    (3 ≤ x.phase →
      Does (.getDigests a) s (answers 0x01 49 (catFields [(1, 1), (48, (Config.sha384 chain.1 chain.2).toNat)]) 0 x) ∧
      (∀ slot o n, (slot ≠ 0 ∨ chain.1 ≤ o → Does (.getCertificate a slot o n) s (errs 0x01 x)) ∧
        (slot = 0 → o < chain.1 → n ≤ 4096 → Does (.getCertificate a slot o n) s (answers 0x02 (min n (chain.1 - o)) (chain.2 / 256 ^ o % 256 ^ min n (chain.1 - o)) 0 x))) ∧
      (∀ tr, engineOk s = true → Does (.challenge a 0 tr) s (fun u => ∃ d, answers 0x03 176 d 1 x u)) ∧ (∀ tr, engineOk s = false → Does (.challenge a 0 tr) s (errs 0x05 x)) ∧
      (∀ (i : Fin 256) tr, i ≠ 0 → i ≠ 0xFF → (blockList f).contains i.val = false → Does (.getMeasurements a i false tr) s (errs 0x01 x)) ∧
      (∀ (i : Fin 256) tr n d, i ≠ 0 → i ≠ 0xFF → (blockList f).contains i.val = true → measurement s f i = some (n, d) →
        (n ≤ 4092 → Does (.getMeasurements a i false tr) s (answers 0x60 (n + 4) (catFields [(1, 1), (1, i), (2, n), (n, d)]) 0 x)) ∧
        (engineOk s = true → n ≤ 3964 → Does (.getMeasurements a i true tr) s (fun u => ∃ d', answers 0x60 (n + 132) d' 1 x u))) ∧
      (∀ tr, engineOk s = true →
        (sessionsOf s f = [] → Does (.keyExchange a 0 tr) s (fun u => ∃ d, answers 0x64 227 d 1 { x with sessions := AMap.put x.sessions 0 false } u)) ∧
        ((sessionsOf s f).contains 0 = true → (sessionsOf s f).contains 1 = true → Does (.keyExchange a 0 tr) s (errs 0x0A x))) ∧
      (∀ id : Fin 2,
        (AMap.find x.sessions id = some false → Does (.finish a id true) s (answers 0x65 0 0 0 { x with sessions := AMap.put x.sessions id true }) ∧
          Does (.finish a id false) s (errs 0x06 { x with sessions := AMap.del x.sessions id })) ∧
        (AMap.find x.sessions id = some true → Does (.heartbeat a id) s (answers 0x68 0 0 0 x) ∧ Does (.endSession a id) s (answers 0x6C 0 0 0 { x with sessions := AMap.del x.sessions id })) ∧
        (AMap.find x.sessions id = none → Does (.heartbeat a id) s (errs 0x02 x) ∧ Does (.endSession a id) s (errs 0x02 x) ∧ Does (.finish a id true) s (errs 0x02 x))) ∧
      (∀ h : Fin 256, Does (.chunkSend a h 0 false) s (answers 0x05 3 h 0 { x with chunk := some (h.val, 1) }) ∧ Does (.chunkSend a h 0 true) s (answers 0x05 3 h 0 { x with chunk := none })) ∧
      (∀ (q : Fin 65536) n d, x.large = some (n, d) → 4032 * q.val < n →
        let k := min 4032 (n - 4032 * q.val)
        Does (.chunkGet a q) s (answers 0x06 k (d / 256 ^ (4032 * q.val) % 256 ^ k) 0 (if n ≤ 4032 * q.val + k then { x with large := none } else x))))) ∧
  (∀ (id : Fin 2) (link k : Fin 4) (fns : List (Fin 65)) (s : State), spdmHears s (.doe 0) = true → 3 ≤ (s.spdm (.doe 0)).phase → AMap.find (s.spdm (.doe 0)).sessions id = some true → engineOk s = true →
    let y := AMap.at (AMap.at s.sys.sec.ide [] link) {} k
    let becomes := fun (op : IdeOp) (z : IdeStream) => Does (.ideKm id link k op fns) s (fun u => AMap.at (AMap.at u.sys.sec.ide [] link) {} k = z ∧
      (∀ j, j ≠ link.val → AMap.at u.sys.sec.ide [] j = AMap.at s.sys.sec.ide [] j) ∧ u.cores = s.cores ∧ u.parts = s.parts)
    becomes .query y ∧ ∀ i : Fin 6, becomes (.keyProg i) { y with keys := setBits y.keys i 1 1, fns := fns.map (·.val) } ∧
      becomes (.setGo i) { y with going := setBits y.going i 1 (bitsN y.keys i 1), fns := fns.map (·.val) } ∧
      becomes (.setStop i) { y with going := setBits y.going i 1 0, keys := setBits y.keys i 1 0, fns := fns.map (·.val) }) ∧
  (∀ (p : Fin 64) (req : Option (BitVec 1024)) (s : State),
    let sp := s.secPart p
    let answered := fun (m : MbxMsg) (detail : Nat) (u : State) => (u.fn (p + 1)).replies = (s.fn (p + 1)).replies ++ [replyBits m.body 0 detail []] ∧ (u.fn (p + 1)).msgs = (s.fn (p + 1)).msgs.erase m ∧
      u.cores = s.cores ∧ u.parts = s.parts
    (∀ m, findMsg s (p + 1) 3 = some m → m.drop = false → let k := keySlotNo m.body
      (∀ c, firstCause (keyExchChecks s p m.body req) = some c → Does (.keyExch p req) s (fun u => answered m c u ∧ (u.secPart p).slots = sp.slots ∧ u.sys.sec.draws = s.sys.sec.draws)) ∧
      (firstCause (keyExchChecks s p m.body req) = none → Does (.keyExch p req) s (fun u => answered m 0 u ∧ u.sys.sec.draws = s.sys.sec.draws + 1 ∧ (u.secPart p).exchCnt = min 0xFFFF (sp.exchCnt + 1) ∧
        (∃ d, .write (p + 1) (keyReplyAddr m.body) 256 d ∈ u.host.out) ∧ (∀ j, j ≠ k → AMap.at (u.secPart p).slots {} j = AMap.at sp.slots {} j) ∧
        let z := AMap.at (u.secPart p).slots {} k
        z.purpose = keyPurpose m.body ∧ z.gen = ((AMap.at sp.slots {} k).gen + 1) % 2 ^ 32 ∧ z.locked = keyLock m.body ∧ z.cLast = 0))) ∧
    (∀ m, findMsg s (p + 1) 4 = some m → m.drop = false → let k := keySlotNo m.body
      (∀ c, firstCause (keyClearChecks s p m.body req) = some c → Does (.keyClear p req) s (fun u => answered m c u ∧ (u.secPart p).slots = sp.slots)) ∧
      (firstCause (keyClearChecks s p m.body req) = none → Does (.keyClear p req) s (fun u => answered m 0 u ∧ AMap.at (u.secPart p).slots {} k = { gen := (AMap.at sp.slots {} k).gen } ∧
        ∀ j, j ≠ k → AMap.at (u.secPart p).slots {} j = AMap.at sp.slots {} j)))) ∧
  ∀ s : State,
    (∀ m point, findMsg s 0 5 = some m → m.drop = false → s.sys.ready = true → let p := bitsN m.body 32 8
      (∀ c, firstCause (signkeyChecks s m point) = some c → Does (.signkey point) s (fun u => (u.fn 0).replies = (s.fn 0).replies ++ [replyBits m.body 0 c []] ∧ onlyHost s u)) ∧
      (∀ k, point = some k → firstCause (signkeyChecks s m point) = none → Does (.signkey point) s (fun u => (u.fn 0).replies = (s.fn 0).replies ++ [replyBits m.body 0 0 []] ∧
        u.part p = { s.part p with signKey := if k = 0#776 then none else some k } ∧ (∀ j, j ≠ p → u.part j = s.part j) ∧ u.cores = s.cores))) ∧
    ∀ healthy, Does (.drbgReseed healthy) s (fun u => u = { s with sys := { s.sys with sec := { s.sys.sec with reseeds := s.sys.sec.reseeds + 1, drbgOk := s.sys.sec.drbgOk && healthy } } })

/-- O54. Configuration memory and firmware (23 R513 to R516, 24 R526 to R542): copies and persistent registers written; packages staged, activated, confirmed, reverted, copied into the fall-back bank. -/
def Obligations.ConfigurationAndFirmware : Prop :=
  ∀ (s : State) (t : Dword),
    let c := s.sys.cfg
    let f := s.sys.fw
    let onlyCfg := fun (y : Cfg) (u : State) => u = { s with sys := { s.sys with cfg := y } }
    let replied := fun (m : MbxMsg) (code : Nat) (u : State) => u.sys.fw.last = code ∧ ∃ l, (u.fn 0).replies = l ++ [replyBits m.body 0 code []]
    (∀ copy (link : Fin 4), (c.write = none → Does (.cfgCopyGo copy link) s (onlyCfg { c with copySel := copy, write := some { target := b2n copy, addr := (c.imgHi ++ c.imgLo).toNat, link := link } })) ∧
      (c.write ≠ none → Does (.cfgCopyGo copy link) s (fun u => u = s))) ∧
    (∀ w, c.write = some w →
      (∀ ok, Does (.cfgCopyDone none ok) s (fun u => u.sys.cfg.status = 3 ∧ u.sys.cfg.write = none ∧ u.sys.cfg.dev0 = c.dev0 ∧ u.sys.cfg.dev1 = c.dev1)) ∧
      (∀ d, pfMaster s w.link = true → goodImage s d = false → Does (.cfgCopyDone (some d) true) s (fun u => u.sys.cfg.status = 1 ∧ u.sys.cfg.write = none ∧ u.sys.cfg.dev0 = c.dev0 ∧ u.sys.cfg.dev1 = c.dev1)) ∧
      (∀ d, let b := decide (w.target = 1)
        pfMaster s w.link = true → goodImage s d = true → copyGood s (!b) = true → s.sys.safe = false → (s.nvm b).present = true →
        Does (.cfgCopyDone (some d) true) s (fun u => u.sys.cfg.status = 0 ∧ u.sys.cfg.write = none ∧ (u.nvm b).copy = some d ∧ u.nvm (!b) = s.nvm (!b)))) ∧
    (∀ (i : Fin 64) v, (i = 6 ∨ i = 7 ∨ 16 ≤ i.val → Does (.rwpWrite i v) s (fun u => u = s)) ∧
      (i ≠ 6 → i ≠ 7 → i.val < 16 →
        (100000 ≤ AMap.at c.wcnt 0 i → Does (.rwpWrite i v) s (onlyCfg { c with lastErr := 2, errIdx := i })) ∧
        (AMap.at c.wcnt 0 i < 100000 → rwpRange i v = true → Does (.rwpWrite i v) s (onlyCfg { c with lastErr := 1, errIdx := i })) ∧
        (AMap.at c.wcnt 0 i < 99999 → rwpRange i v = false → c.pend = [] → c.prog = none → c.write = none → let k := AMap.at c.wcnt 0 i + 1
          Does (.rwpWrite i v) s (onlyCfg { c with rwp := AMap.put c.rwp i (rwpMask i v), wcnt := AMap.put c.wcnt i k, prog := some (i.val, rwpMask i v, k) })))) ∧
    (∀ x, c.prog = some x → c.dev0.present = true → c.dev1.present = true →
      (c.pend = [] → c.devErr = 0#2 → Does (.rwpRecordProgrammed true true) s (onlyCfg { c with
        prog := none, dev0 := { c.dev0 with store := c.dev0.store.append x }, dev1 := { c.dev1 with store := c.dev1.store.append x } })) ∧
      Does (.rwpRecordProgrammed true false) s (fun u => u.sys.cfg.lastErr = 3 ∧ u.sys.cfg.errIdx = x.1 ∧ bitAt u.sys.cfg.devErr 1 = true ∧ u.sys.cfg.dev0.store = c.dev0.store.append x ∧ u.sys.cfg.dev1 = c.dev1)) ∧
    (∀ m, findMsg s 0 0x40 = some m → m.drop = false →
      (fwBusy s = true → Does .fwStage s (fun u => replied m 9 u ∧ u.sys.fw.staging = f.staging)) ∧
      (fwBusy s = false → bankFree s 0 = true → bitsN m.body 64 64 % 4096 = 0 → Does .fwStage s (fun u => u.sys.fw = { f with staging := some m.body } ∧ (u.fn 0).replies = (s.fn 0).replies ∧ u.cores = s.cores))) ∧
    (∀ body x, f.staging = some body →
      (∀ k ok, firstCause (stageChecks s body x) = some k → Does (.fwStageComplete (some x) ok) s (fun u => u.sys.fw.last = k ∧ u.sys.fw.staging = none ∧ u.sys.cfg = c)) ∧
      (firstCause (stageChecks s body x) = none → ∀ d, (s.nvm d).present = true → let b := if bankFree s 0 then 0 else 1
        Does (.fwStageComplete (some x) true) s (fun u => u.sys.fw.last = 0 ∧ u.sys.fw.staging = none ∧ AMap.find (u.nvm d).banks b = some (stagedBank s body x) ∧
          ∀ j, j ≠ b → AMap.find (u.nvm d).banks j = AMap.find (s.nvm d).banks j))) ∧
    (∀ m, findMsg s 0 0x41 = some m → m.drop = false → s.sys.ready = true →
      (∀ k, firstCause (actChecks (s.atTick t) m.body t) = some k → Does (.fwActivate t) s (fun u => replied m k u ∧ u.sys.fw.act = f.act ∧ u.sys.fw.dir = f.dir)) ∧
      (firstCause (actChecks (s.atTick t) m.body t) = none → bits m.body 64 64 ≠ 0#64 → Does (.fwActivate t) s (fun u =>
        u.sys.fw.act = some { msg := some m.body, kinds := bitsN m.body 32 3, bank := bitsN m.body 40 8, rig := bitAt m.body 48, time := bits m.body 64 64 } ∧ u.sys.fw.dir = f.dir ∧ u.cores = s.cores))) ∧
    (∀ a, f.act = some a → a.begun = false → ¬ t < a.time → s.sys.struck = false → s.sys.shutdown = false → f.romMode = false →
      (a.kinds = 2 → litFields s ≠ [] → Does (.fwActTime t) s (fun u => u.sys.fw.dir.actOf 2 = a.bank ∧ u.sys.fw.dir.prevOf 2 = f.dir.actOf 2 ∧ u.sys.fw.dir.onTrial 2 = true ∧
        u.sys.fw.act = some { a with begun := true, todo := [2], fields := litFields s } ∧ u.cores = s.cores)) ∧
      (a.kinds = 4 → Does (.fwActTime t) s (fun u => u.sys.fw.dir.actOf 3 = a.bank ∧ u.sys.fw.dir.onTrial 3 = true ∧ u.sys.fw.act = some { a with begun := true, todo := [3], rios := [0, 1, 2, 3] })) ∧
      (a.kinds = 1 → crosses s a.bank = false → Does (.fwActTime t) s (fun u => u.sys.fw.dir.actOf 1 = a.bank ∧ u.sys.fw.dir.onTrial 1 = true ∧ u.sys.fw.mhStop = true ∧ u.sys.fw.act = some { a with begun := true, todo := [1] }))) ∧
    (∀ a (n : Fin 48), f.act = some a → a.todo.head? = some 2 → (∀ k ∈ a.fields, (s.fieldPwr k).st = 3) → a.fields.head? = some n.val →
      (f.reloading = none → (s.field n).owned = false → Does (.fcFieldActivate n false t) s (fun u => u.sys.fw.reloading = some n.val ∧ u.parts = s.parts ∧ u.cores = s.cores)) ∧
      (f.reloading = none → (s.field n).owned = true → (s.grp (s.field n).part).inStep = false → (s.part (s.field n).part).recov = none → mayStep s (s.field n).part = true → stampSent s (s.field n).part = false →
        Does (.fcFieldActivate n false t) s (fun u => u.sys.fw.reloading = some n.val ∧ (u.grp (s.field n).part).held = true)) ∧
      (f.reloading = some n.val → a.fields.drop 1 ≠ [] → Does (.fcFieldActivate n true t) s (fun u => AMap.at u.sys.fw.fc 0#32 n = f.fcVer ∧ u.sys.fw.reloading = none ∧
        u.sys.fw.act = some { a with fields := a.fields.drop 1 }))) ∧
    (∀ a (i : Fin 4) r, f.act = some a → a.todo.head? = some 3 → a.rios = i.val :: r → r ≠ [] → Does (.rioActivateDone i) s (fun u =>
      AMap.at u.sys.fw.rio 0#32 i = (bankVer s (f.dir.actOf 3) 3).getD (AMap.at f.rio 0#32 i) ∧ u.sys.fw.act = some { a with rios := r })) ∧
    (∀ a, f.act = some a → a.todo = [1] → f.mhStop = true → Does .mhSwitchDone s (fun u => u.sys.fw.mhStop = false ∧ u.sys.fw.mh = (bankVer s (f.dir.actOf 1) 1).getD f.mh ∧ u.sys.fw.act = none)) ∧
    (∀ a, f.act = some a → a.begun = false → a.rig = true →
      (a.time.toNat < t.toNat + 100000000 → (slicePeers s).all (fun x => f.heard.contains (x, a.time, actSig s a)) = false → Does (.fwRigNoticeDeadline t) s (fun u => u.sys.fw.act = none ∧ u.sys.fw.last = 0x0B ∧ u.sys.fw.dir = f.dir)) ∧
      ((slicePeers s).all (fun x => f.heard.contains (x, a.time, actSig s a)) = true → Does (.fwRigNoticeDeadline t) s (fun u => u.sys = s.sys)) ∧
      (∀ peer sig time, t.toNat + 10000000 < a.time.toNat → Does (.fwActivationNotice peer true time sig t) s (fun u => u.sys.fw.act = none ∧ u.sys.fw.last = 0x0B ∧ u.sys.fw.dir = f.dir))) ∧
    (∀ peer sig time, Does (.fwActivationNotice peer false time sig t) s (fun u => u.sys.fw = { f with heard := if f.heard.contains (peer, time, sig) then f.heard else f.heard ++ [(peer, time, sig)] } ∧ u.cores = s.cores)) ∧
    (∀ m, findMsg s 0 0x44 = some m → m.drop = false →
      (f.act = none → Does (.fwAbort t) s (replied m 0x0C)) ∧
      (∀ a, f.act = some a → a.begun = false → t.toNat + 10000000 < a.time.toNat → Does (.fwAbort t) s (fun u => replied m 0 u ∧ u.sys.fw.act = none ∧ u.sys.fw.dir = f.dir))) ∧
    (∀ m, findMsg s 0 0x42 = some m → m.drop = false → s.sys.ready = true → f.staging = none → f.act = none →
      (f.dir.trials = [] → Does (.fwConfirm true) s (fun u => replied m 0x0D u ∧ u.sys.fw.dir = f.dir)) ∧
      (f.dir.trials ≠ [] → f.dir.setAlt = false → Does (.fwConfirm true) s (fun u => replied m 0 u ∧ u.sys.fw.dir.trials = [] ∧ u.sys.fw.dir.act = f.dir.act ∧ u.sys.fw.dir.prev = Vector.replicate 3 3 ∧ f.floor ≤ u.sys.fw.floor))) ∧
    (∀ m, findMsg s 0 0x43 = some m → f.staging = none → f.act = none → (kindList (bitsN m.body 32 3)).filter f.dir.onTrial = [2] → litFields s ≠ [] →
      Does (.fwRevert t) s (fun u => u.sys.fw.dir.actOf 2 = f.dir.prevOf 2 ∧ u.sys.fw.dir.prevOf 2 = 3 ∧ u.sys.fw.dir.onTrial 2 = false ∧ ∃ a, u.sys.fw.act = some a ∧ a.revert = true ∧ a.todo = [2] ∧ a.fields = litFields s)) ∧
    (∀ m x, findMsg s 0 0x45 = some m → m.drop = false → s.sys.ready = true → let b := bitsN m.body 40 8
      bankOf s b = some x → b ≤ 2 → fwBusy s = false → (∃ k ∈ [1, 2, 3], f.dir.actOf k = b ∧ f.dir.onTrial k = false) → f.floor ≤ x.svn →
      Does (.fwFallback true) s (fun u => replied m 0 u ∧ ∀ d, (s.nvm d).present = true → AMap.find (u.nvm d).banks 2 = some x)) ∧
    (f.dir.onTrial 1 = true → s.sys.ready = false → f.step4At + 300000000000 < t.toNat → 4 ≤ s.sys.clk.phase → s.sys.pwr.holdup = none →
      Does (.fwMhTrialTimeout t) s (fun u => u.sys.clk.phase = 4 ∧ u.sys.clk.cause = 4 ∧ u.parts = [] ∧ u.cores = [] ∧ (1 ≤ f.dir.fails → u.sys.fw.last = 0x0E))) ∧
    ∀ n : Fin 48, f.dir.onTrial 2 = true → f.act = none → (s.fieldPwr n).st = 3 →
      Does (.fcHeartbeatLoss n t) s (fun u => u.sys.fw.dir.actOf 2 = f.dir.prevOf 2 ∧ u.sys.fw.dir.onTrial 2 = false ∧ ∃ a, u.sys.fw.act = some a ∧ a.revert = true ∧ a.todo = [2] ∧ a.fields = litFields s)

/-- O55. The event recorder (25 R544 to R556): freeze and thaw, dump, clear, flushes and what ends them, histogram sources, the samples of each second. -/
def Obligations.EventRecorder : Prop :=
  ∀ (s : State) (t : Dword),
    let e := s.sys.evr
    let replied := fun (m : MbxMsg) (detail : Nat) (l : List (Nat × Nat × Nat)) (u : State) => (u.fn 0).replies = (s.fn 0).replies ++ [replyBits m.body 0 detail l] ∧ u.cores = s.cores ∧ u.parts = s.parts
    let flushes := fun (cause : Nat) (u : State) => u.sys.evr.seq = (e.seq + 1) % 2 ^ 32 ∧ u.sys.evr.next = (e.next + 1) % 64 ∧
      ∃ g, u.sys.evr.flush = some g ∧ g.cause = cause ∧ g.slot = e.next ∧ g.image = some { cause := cause, seq := e.seq + 1, ops := e.ops, pcc := e.pcc, data := e.data }
    (∀ m, findMsg s 0 0x50 = some m → m.drop = false → let ms := bitsN m.body 32 16
      (10000 < ms → Does (.evrFreeze t) s (fun u => replied m 4 [] u ∧ u.sys.evr = e)) ∧
      (ms ≤ 10000 → e.frozen = none → Does (.evrFreeze t) s (fun u => replied m 0 [] u ∧ u.sys.evr = { e with frozen := some (t.toNat + 1000000 * (if ms = 0 then 1000 else ms)), frzS := 0, frzE := 0 })) ∧
      (ms ≤ 10000 → e.frozen ≠ none → Does (.evrFreeze t) s (fun u => replied m 1 [] u ∧ u.sys.evr = e))) ∧
    (∀ m, findMsg s 0 0x51 = some m → m.drop = false →
      (e.frozen = none → Does (.evrThaw t) s (fun u => replied m 1 [] u ∧ u.sys.evr = e)) ∧
      (e.frozen ≠ none → Does (.evrThaw t) s (fun u => replied m 0 [(64, 32, e.frzS), (96, 32, e.frzE)] u ∧ u.sys.evr = { e with frozen := none }))) ∧
    (∀ l, e.frozen = some l → (l < t.toNat → Does (.evrFreezeLimit t) s (fun u => u.sys.evr.frozen = none ∧ u.cores = s.cores ∧ u.parts = s.parts)) ∧ (t.toNat ≤ l → Does (.evrFreezeLimit t) s (fun u => u = s))) ∧
    (∀ m, findMsg s 0 0x52 = some m → m.drop = false → let a := bitsN m.body 64 64
      (a % 4096 ≠ 0 → Does .evrDump s (fun u => replied m 4 [] u ∧ u.host.out = s.host.out)) ∧
      (a % 4096 = 0 → pfMaster s m.link = true → Does .evrDump s (fun u => replied m 0 [] u ∧ u.sys = s.sys ∧ ∃ d, u.host.out = s.host.out ++ [.write 0 a 0xA000 d]))) ∧
    (∀ m, findMsg s 0 0x53 = some m → m.drop = false → Does .evrClear s (fun u => replied m 0 [] u ∧
      let d := u.sys.evr.data
      (∀ h k, k < 64 → AMap.at d.bins 0 (64 * h + k) = if bitAt m.body 32 = true ∧ (bitsN m.body 64 64).testBit h = true then 0 else AMap.at e.data.bins 0 (64 * h + k)) ∧
      (∀ r, AMap.find d.recs r = if (32 ≤ r ∧ bitAt m.body 33 = true) ∨ (r < 32 ∧ bitAt m.body 34 = true) then none else AMap.find e.data.recs r) ∧
      d.dropped = (if bitAt m.body 35 then 0 else e.data.dropped) ∧ d.missedS = (if bitAt m.body 35 then 0 else e.data.missedS) ∧ d.missedE = (if bitAt m.body 35 then 0 else e.data.missedE) ∧ d.hsrc = e.data.hsrc)) ∧
    (∀ m, findMsg s 0 0x54 = some m →
      (e.flush = none → Does (.evrFlush t) s (fun u => flushes 5 u ∧ (u.fn 0).replies = (s.fn 0).replies)) ∧
      (e.flush ≠ none → Does (.evrFlush t) s (fun u => u.sys.evr = { e with queue := e.queue ++ [{ cause := 5, msg := some m.body }] }))) ∧
    (4 ≤ s.sys.clk.phase → e.flush = none → Does (.evrPeriodicFlush t) s (flushes 4)) ∧
    (e.faultDue = true → flushSpaced (s.atTick t) = true → e.flush = none → Does (.evrFaultFlushSpacing t) s (fun u => flushes 3 u ∧ u.sys.evr.faultDue = false)) ∧
    (∀ g x, e.flush = some g → g.image = some x → g.msg = none → e.queue = [] → e.faultDue = false →
      (s.sys.cfg.dev0.present = true → s.sys.cfg.dev1.present = true → Does (.recorderFlushDone true true t) s (fun u => u.sys.evr = { e with flush := none, slot := g.slot, flushes := min 0xFFFF (e.flushes + 1) } ∧
        u.sys.cfg.dev0 = s.sys.cfg.dev0.putEvr g.slot x ∧ u.sys.cfg.dev1 = s.sys.cfg.dev1.putEvr g.slot x ∧ u.cores = s.cores)) ∧
      Does (.recorderFlushDone false false t) s (fun u => u.sys.evr.flushErr = true ∧ u.sys.evr.flush = none ∧ u.sys.cfg = s.sys.cfg)) ∧
    (∀ (h : Fin 64) w, (h.val < 24 → Does (.evrHsrcWrite h w) s (fun u => u = s)) ∧
      (24 ≤ h.val → bitsN w 0 5 ≤ 23 → Does (.evrHsrcWrite h w) s (fun u => AMap.at u.sys.evr.data.hsrc 0x800#32 h = w &&& 0xFFF#32 ∧
        (∀ k, k < 64 → AMap.at u.sys.evr.data.bins 0 (64 * h + k) = 0) ∧ (∀ j k, j ≠ h.val → k < 64 → AMap.at u.sys.evr.data.bins 0 (64 * j + k) = AMap.at e.data.bins 0 (64 * j + k)) ∧
        u.sys.evr.data.recs = e.data.recs ∧ onlySys s u))) ∧
    (4 ≤ s.sys.clk.phase → Does (.evrSecondSample t) s (fun u => u.sys.evr.ops = (e.ops + 1) % 2 ^ 32 ∧ u.sys.evr.ceSecond = 0 ∧ u.sys.evr.debts = [] ∧ u.sys.pins.ethSecond = 0 ∧ u.sys.pins.ethRx = 0 ∧
      u.cores = s.cores ∧ u.parts = s.parts))

/-- O56. Registers, buses and failed reads (00 R6, 05 R121, 06 R151, R152, 08 R212, 15 R369, 10 R259, 26 R566): records and logs cleared, locks that hold their fields, values that are ignored, sensors read, an address
given once, Ethernet within its rate, IEEE 1588, a prompt or an image that cannot be read. -/
def Obligations.RegistersAndBuses : Prop :=
  ∀ s : State,
    Does (.elogPop .mst) s (fun u => u = { s with mst := { s.mst with log := { s.mst.log with recs := s.mst.log.recs.drop 1 } } }) ∧
    Does (.elogPop .fab) s (fun u => u = { s with fab := { s.fab with log := { s.fab.log with recs := s.fab.log.recs.drop 1 } } }) ∧
    Does (.elogPop .stay) s (fun u => u = { s with stay := { s.stay with log := { s.stay.log with recs := s.stay.log.recs.drop 1 } } }) ∧
    Does (.elogPop .sheet) s (fun u => u = { s with sheet := { s.sheet with log := { s.sheet.log with recs := s.sheet.log.recs.drop 1 } } }) ∧
    Does (.elogPop .pwr) s (fun u => u = { s with sys := { s.sys with pwr := { s.sys.pwr with log := { s.sys.pwr.log with recs := s.sys.pwr.log.recs.drop 1 } } } }) ∧
    Does (.elogPop .thm) s (fun u => u = { s with sys := { s.sys with thm := { s.sys.thm with log := { s.sys.thm.log with recs := s.sys.thm.log.recs.drop 1 } } } }) ∧
    (∀ p : Fin 64, Does (.elogPop (.part p)) s (fun u => u.part p = { s.part p with flog := { (s.part p).flog with recs := (s.part p).flog.recs.drop 1 } } ∧ onlyPart p s u)) ∧
    (∀ m : Fin 9216, Does (.violRecordClear m) s (onlyOneCore m (fun c d => d = { c with viol := { count := c.viol.count } }) s) ∧
      Does (.illRecordClear m) s (onlyOneCore m (fun c d => d = { c with ill := {} }) s)) ∧
    (∀ w, let m := s.mst
      let ok := m.lock = false ∧ bitsN w 8 8 < bitsN w 0 8
      (ok → Does (.mstCtrlWrite w) s (fun u => u = { s with mst := { m with hotOn := bitsN w 0 8, hotOff := bitsN w 8 8, scrubEn := bitAt w 16, lock := m.lock || bitAt w 17 } })) ∧
      (¬ ok → Does (.mstCtrlWrite w) s (fun u => u = { s with mst := { m with scrubEn := bitAt w 16, lock := m.lock || bitAt w 17 } }))) ∧
    (∀ (x : Fin 256) lock, s.fab.lock = false → Does (.registerWrite (.fabCtrl x lock)) s (fun u => u = { s with fab := { s.fab with retrainThr := x, lock := lock } })) ∧
    (∀ (x : Fin 256) lock, s.fab.lock = true → Does (.registerWrite (.fabCtrl x lock)) s (fun u => u = s)) ∧
    (∀ (x : Fin 256) spare lock, s.sys.pwr.lock = false → Does (.registerWrite (.pwrCtrl x spare lock)) s (fun u => u.sys.pwr = { s.sys.pwr with
      ceil := if 50 ≤ x.val ∧ x.val ≤ 220 then x.val else s.sys.pwr.ceil, spare := spare, lock := lock } ∧ onlySys s u)) ∧
    (∀ (ms : Fin 256) lock, s.stay.lock = false → Does (.registerWrite (.styCtrl ms lock)) s (fun u => u = { s with stay := { s.stay with timeout := if ms = 0 then s.stay.timeout else ms, lock := lock } })) ∧
    (∀ (p : Fin 64) (q : Fin 256) (w : Fin 65536), w ≠ 0 → Does (.registerWrite (.weight p q w)) s (fun u => (u.req p).weightsNext = AMap.put (s.req p).weightsNext q w ∧ (u.req p).weights = (s.req p).weights ∧ onlyReq p s u)) ∧
    (∀ (p : Fin 64) byVf esc home coal, Does (.registerWrite (.prtCtrl p byVf esc home coal)) s (fun u => (u.part p).coalUs = coal.val ∧ (u.part p).escMode = (s.part p).escMode ∧ (u.part p).home = (s.part p).home ∧
      (byVf = true → (u.part p).escModeNext = (s.part p).escModeNext ∧ (u.part p).homeNext = (s.part p).homeNext) ∧ (byVf = false → (u.part p).escModeNext = esc.val ∧ (u.part p).homeNext = home.val) ∧ onlyPart p s u)) ∧
    (∀ (p : Fin 64) (n : Fin 131072), (s.req p).rr.busy = true → Does (.registerWrite (.rrCnt p n)) s (fun u => u.req p = s.req p ∧ onlyReq p s u)) ∧
    (4 ≤ s.sys.clk.phase →
      (∀ h, Does (.pldmGetPdr h) s (fun u => u = { s with host := { s.host with out := s.host.out ++ [.pldm 0x51 (Config.pdr h).2] } })) ∧
      Does (.pldmGetSensorReading .inputPower) s (fun u => u = { s with host := { s.host with out := s.host.out ++ [.pldm 0x11 s.sys.pwr.power] } }) ∧
      Does (.pldmGetSensorReading .flow) s (fun u => u = { s with host := { s.host with out := s.host.out ++ [.pldm 0x11 s.sys.thm.flow] } }) ∧
      Does (.pldmGetSensorReading .coolant) s (fun u => u = { s with host := { s.host with out := s.host.out ++ [.pldm 0x21 s.sys.thm.cool] } }) ∧
      (∀ a : Fin 128, Does (.i3cDynamicAddress false a) s (fun u => u.sys.pins = { s.sys.pins with mi3c := some (s.sys.pins.mi3c.getD a) } ∧ onlySys s u))) ∧
    (∀ a : Fin 128, s.sys.cnm.meter.powered = true → Does (.i3cDynamicAddress true a) s (fun u => u.sys.pins = { s.sys.pins with cni3c := some (s.sys.pins.cni3c.getD a) } ∧ onlySys s u)) ∧
    (∀ i : Fin 2, let x := s.sys.pins
      Does (.ethernetLinkDown i) s (fun u => bitAt u.sys.pins.ethUp i = false ∧ (∀ j : Fin 2, j ≠ i → bitAt u.sys.pins.ethUp j = bitAt x.ethUp j) ∧ u.sys.pins.ethPort = (if bitAt u.sys.pins.ethUp 0 then 0 else 1) ∧ onlySys s u) ∧
      (5 ≤ s.sys.clk.phase → s.sys.safe = false → Does (.ethernetLinkUp i) s (fun u => bitAt u.sys.pins.ethUp i = true ∧ u.sys.pins.ethPort = (if bitAt u.sys.pins.ethUp 0 then 0 else 1) ∧ onlySys s u)) ∧
      (∀ k (n : Fin 9217), bitAt x.ethUp i = true →
        (x.ethRx + n.val ≤ 5000000000 → Does (.ethernetFrame i k n) s (fun u => u = { s with sys := { s.sys with pins := { x with ethRx := x.ethRx + n.val } } })) ∧
        (5000000000 < x.ethRx + n.val → Does (.ethernetFrame i k n) s (fun u => u = { s with sys := { s.sys with pins := { x with ethSecond := x.ethSecond + 1, ethDrops := x.ethDrops + 1 } } }))) ∧
      (∀ now t, s.sheet.leader = true → s.sys.cfg.ptpEn = true → bitAt x.ethUp i = true → s.sys.clk.slew = none →
        let at' := s.atTick t
        let led := fun (u : State) => u.sheet.stepped = true ∧ u.sys.pins.ptpLocked = true ∧ u.sys.clk.source = 1 ∧ u.cores = s.cores ∧ u.parts = s.parts
        (s.sheet.stepped = false → s.sys.ready = false ∨ at'.tb.toNat ≤ now.toNat + 1000 → Does (.ptpMessage i now t) s (fun u => u.tb = now ∧ u.sys.clk.firstLock = true ∧ led u)) ∧
        (s.sheet.stepped = false → s.sys.ready = true → now.toNat + 1000 < at'.tb.toNat → Does (.ptpMessage i now t) s (fun u => u.tb = at'.tb ∧ u.sys.clk.rate = -500000 ∧
          u.sys.clk.slew = some (at'.tb.toNat - now.toNat) ∧ led u)) ∧
        (s.sheet.stepped = true → Does (.ptpMessage i now t) s (fun u => u.tb = at'.tb ∧ (rateFree at' = false → u.sys.clk.rate = s.sys.clk.rate) ∧
          (rateFree at' = true → -500000 ≤ u.sys.clk.rate ∧ u.sys.clk.rate ≤ 500000 ∧ u.sys.clk.rateAt = some at'.tb.toNat) ∧ led u)) ∧
        (s.sheet.leader = true → Does (.ptpMessage i now t) { s with sheet := { s.sheet with leader := false } } (fun u => u = { s with sheet := { s.sheet with leader := false } })))) ∧
    ∀ t : Dword,
      (∀ (p : Fin 64) (q : Fin 16) (w : BitVec 512), sbOp w = 1 → canTake s p q = true → firstCause (acceptanceChecks (takeSub (s.atTick t) p q) p 1 w t.toNat) = none →
        Does (.hostReadTimeout (.prompt p q w) t) s (fun u => subFrame p q (sbEntry w) s u ∧ u.table = s.table ∧
          (u.req p).held = (s.req p).held ++ [{ entry := sbEntry w, status := 0x49, cmd := 1, userTag := sbTag w, tEnq := t.toNat, tEnd := t.toNat, place := some (q.val, (AMap.at (s.req p).sqs {} q).head) }])) ∧
      (∀ (p : Fin 64) (q : Fin 16), canTake s p q = true →
        Does (.hostReadTimeout (.submission p q) t) s (fun u => u.table = s.table ∧ u.cores = s.cores ∧ (AMap.at (u.req p).sqs {} q).head = ((AMap.at (s.req p).sqs {} q).head + 1) % 2 ^ (AMap.at (s.req p).sqs {} q).size ∧
          (u.req p).rejects = min 0xFFFFFFFF ((s.req p).rejects + 1) ∧ ∃ x, (u.req p).held = (s.req p).held ++ [x] ∧ x.status = 0x49 ∧ x.tEnq = t.toNat ∧ x.tEnd = t.toNat)) ∧
      ∀ (p : Fin 64) (k : Fin 65536) h, (s.part p).hoist = some h → h.waitUnload = false → h.phase ≠ .done → s.sys.ready = true →
        Does (.hostReadTimeout (.hoist p k) t) s (fun u => (u.part p).hoist = none ∧ (u.part p).hstat.last = 4 ∧ (u.part p).hstat.busy = false)

/-- O57. A step takes one command from the queue and leaves the others in their order (no command puts one in), and no command changes what the factory fixed (00 R6, 22 R504). -/
def Obligations.StepKeepsQueueAndFactory : Prop :=
  ∀ (c : Instr) (r : List Instr) (s t : State), step { s with pending := c :: r } = .next t → t.pending = r ∧ t.factory = s.factory

/-- O58. Every step keeps every log within its 64 records and its count of lost ones within its byte (06 R152, 22 R499). -/
def Obligations.StepKeepsLogs : Prop :=
  ∀ s t : State, s.logsOk = true → step s = .next t → t.logsOk = true

/-- O59. Every step keeps every scratchpad, bundle store and mast in its canonical form: addresses rise strictly and no listed byte is blank. That form is the model's own (log entry 1). -/
def Obligations.StepKeepsMemories : Prop :=
  ∀ s t : State, s.memsOk = true → step s = .next t → t.memsOk = true

/-- O60. The reset values of the settings (06 R151, 07 R176, 13 R331, 15 R372, 16 R395, 17 R413, 18, 21 R488), and of telltales and fields (05 R107), and that right after reset every
log is within its bounds and every memory in its canonical form. -/
def Obligations.ResetState : Prop :=
  let s := State.reset
  s.mst.hotOn = 0x53 ∧ s.mst.hotOff = 0x50 ∧ s.mst.scrubEn = true ∧ s.fab.retrainThr = 0x40 ∧ s.stay.timeout = 0x64 ∧ s.sheet.lossMs = 0x32 ∧
  s.sheet.stampMs = 0x64 ∧ s.sys.clk.step = 3 ∧ s.sys.clk.phase = 1 ∧ s.sys.clk.cause = 1 ∧ s.sys.pwr.ceil = 0xDC ∧ s.sys.thm.reefOn = 0x5A ∧
  s.sys.thm.reefOff = 0x57 ∧ s.sys.thm.tierReef = 0x5A ∧ s.sys.thm.ceil = 0x898 ∧ trayAge s = 0xFFFF ∧ s.sys.sec.mctpEn = true ∧
  (∀ m j, (s.core m).tell j = ⟨.empty, 0x00#8⟩) ∧ (∀ n, (s.field n).mode = .dark) ∧ s.logsOk = true ∧ s.memsOk = true
end

