-- ==== Sys2Proof/Laws/Maps.lean ====
section
/-! SUPPORT. What the maps by number answer after a change. -/

namespace Sys2Proof.Machine

variable {α : Type}

@[simp] theorem AMap.find_nil (k : Nat) : AMap.find ([] : AMap α) k = none := rfl

@[simp] theorem AMap.at_nil (d : α) (k : Nat) : AMap.at ([] : AMap α) d k = d := rfl

theorem AMap.at_eq_find (m : AMap α) (d : α) (k : Nat) : AMap.at m d k = (AMap.find m k).getD d := by
  induction m with
  | nil => rfl
  | cons x r ih =>
    obtain ⟨k', v⟩ := x
    unfold AMap.at AMap.find
    split
    · rfl
    · exact ih

@[simp] theorem AMap.find_put_same (m : AMap α) (k : Nat) (v : α) : AMap.find (AMap.put m k v) k = some v := by
  induction m with
  | nil => simp [AMap.put, AMap.find]
  | cons x r ih =>
    obtain ⟨k', v'⟩ := x
    unfold AMap.put
    split
    · simp [AMap.find]
    · split
      · simp [AMap.find]
      · rename_i h
        have : k' ≠ k := fun e => h e.symm
        simpa [AMap.find, this] using ih

theorem AMap.find_put_ne (m : AMap α) {j k : Nat} (v : α) (h : j ≠ k) : AMap.find (AMap.put m k v) j = AMap.find m j := by
  induction m with
  | nil => simp [AMap.put, AMap.find, Ne.symm h]
  | cons x r ih =>
    obtain ⟨k', v'⟩ := x
    unfold AMap.put
    split
    · simp [AMap.find, Ne.symm h]
    · split
      · rename_i e
        subst e
        simp [AMap.find, Ne.symm h]
      · by_cases e : k' = j
        · simp [AMap.find, e]
        · simpa [AMap.find, e] using ih

@[simp] theorem AMap.at_put_same (m : AMap α) (d : α) (k : Nat) (v : α) : AMap.at (AMap.put m k v) d k = v := by
  simp [AMap.at_eq_find]

theorem AMap.at_put_ne (m : AMap α) (d : α) {j k : Nat} (v : α) (h : j ≠ k) : AMap.at (AMap.put m k v) d j = AMap.at m d j := by
  simp [AMap.at_eq_find, AMap.find_put_ne m v h]

theorem AMap.at_put (m : AMap α) (d : α) (j k : Nat) (v : α) : AMap.at (AMap.put m k v) d j = if j = k then v else AMap.at m d j := by
  split
  · rename_i h
    subst h
    simp
  · rename_i h
    exact AMap.at_put_ne m d v h

@[simp] theorem AMap.at_upd_same (m : AMap α) (d : α) (k : Nat) (f : α → α) : AMap.at (AMap.upd m d k f) d k = f (AMap.at m d k) := by
  simp [AMap.upd]

theorem AMap.at_upd_ne (m : AMap α) (d : α) {j k : Nat} (f : α → α) (h : j ≠ k) : AMap.at (AMap.upd m d k f) d j = AMap.at m d j := by
  simp [AMap.upd, AMap.at_put_ne m d _ h]

/-- Every value of a map meets a condition. -/
def AMap.All (P : α → Prop) (m : AMap α) : Prop := ∀ x ∈ m, P x.2

theorem AMap.All.nil (P : α → Prop) : AMap.All P ([] : AMap α) := by
  intro x h
  cases h

theorem AMap.All.put {P : α → Prop} {m : AMap α} {k : Nat} {v : α} (hm : AMap.All P m) (hv : P v) : AMap.All P (AMap.put m k v) := by
  induction m with
  | nil =>
    intro x h
    simp [AMap.put] at h
    subst h
    exact hv
  | cons y r ih =>
    obtain ⟨k', v'⟩ := y
    have hr : AMap.All P r := fun x h => hm x (List.mem_cons_of_mem _ h)
    have h0 : P v' := hm (k', v') (List.mem_cons_self ..)
    unfold AMap.put
    split
    · intro x h
      rcases List.mem_cons.mp h with h | h
      · subst h; exact hv
      · exact hm x h
    · split
      · intro x h
        rcases List.mem_cons.mp h with h | h
        · subst h; exact hv
        · exact hr x h
      · intro x h
        rcases List.mem_cons.mp h with h | h
        · subst h; exact h0
        · exact ih hr x h

theorem AMap.All.at {P : α → Prop} {m : AMap α} {d : α} (hm : AMap.All P m) (hd : P d) (k : Nat) : P (AMap.at m d k) := by
  induction m with
  | nil => exact hd
  | cons y r ih =>
    obtain ⟨k', v'⟩ := y
    unfold AMap.at
    split
    · exact hm (k', v') (List.mem_cons_self ..)
    · exact ih fun x h => hm x (List.mem_cons_of_mem _ h)

theorem AMap.All.upd {P : α → Prop} {m : AMap α} {d : α} {k : Nat} {f : α → α} (hm : AMap.All P m) (hd : P d) (hf : ∀ x, P x → P (f x)) :
    AMap.All P (AMap.upd m d k f) := hm.put (hf _ (hm.at hd k))

theorem AMap.All.mapAll {P : α → Prop} {m : AMap α} {f : Nat → α → α} (hm : AMap.All P m) (hf : ∀ k x, P x → P (f k x)) : AMap.All P (AMap.mapAll m f) := by
  intro x h
  obtain ⟨y, hy, rfl⟩ := List.mem_map.mp h
  exact hf y.1 y.2 (hm y hy)

end Sys2Proof.Machine
end

