-- ==== Sys2Proof/Laws/State.lean ====
section
/-! SUPPORT. What each unit of the state reads as after each update of another. -/

namespace Sys2Proof.Machine

/-! ### A core, a field, a partition, an entry after an update -/

@[simp] theorem State.core_setCore_same (s : State) (m : Nat) (c : Core) : (s.setCore m c).core m = c := by simp [State.core, State.setCore]

theorem State.core_setCore_ne (s : State) {j m : Nat} (c : Core) (h : j ≠ m) : (s.setCore m c).core j = s.core j := by
  simp [State.core, State.setCore, AMap.at_put_ne _ _ _ h]

@[simp] theorem State.core_updCore_same (s : State) (m : Nat) (f : Core → Core) : (s.updCore m f).core m = f (s.core m) := by simp [State.updCore]

theorem State.core_updCore_ne (s : State) {j m : Nat} (f : Core → Core) (h : j ≠ m) : (s.updCore m f).core j = s.core j := by
  simp [State.updCore, State.core_setCore_ne _ _ h]

@[simp] theorem State.field_updField_same (s : State) (n : Nat) (f : FieldSt → FieldSt) : (s.updField n f).field n = f (s.field n) := by
  simp [State.updField, State.setField, State.field]

theorem State.field_updField_ne (s : State) {j n : Nat} (f : FieldSt → FieldSt) (h : j ≠ n) : (s.updField n f).field j = s.field j := by
  simp [State.updField, State.setField, State.field, AMap.at_put_ne _ _ _ h]

@[simp] theorem State.part_updPart_same (s : State) (p : Nat) (f : Part → Part) : (s.updPart p f).part p = f (s.part p) := by
  simp [State.updPart, State.setPart, State.part]

theorem State.part_updPart_ne (s : State) {j p : Nat} (f : Part → Part) (h : j ≠ p) : (s.updPart p f).part j = s.part j := by
  simp [State.updPart, State.setPart, State.part, AMap.at_put_ne _ _ _ h]

@[simp] theorem State.grp_updGrp_same (s : State) (p : Nat) (f : Group → Group) : (s.updGrp p f).grp p = f (s.grp p) := by simp [State.updGrp, State.grp]

@[simp] theorem State.req_updReq_same (s : State) (p : Nat) (f : ReqPart → ReqPart) : (s.updReq p f).req p = f (s.req p) := by simp [State.updReq, State.req]

@[simp] theorem State.ent_updEnt_same (s : State) (e : Nat) (f : Entry → Entry) : (s.updEnt e f).ent e = f (s.ent e) := by
  simp [State.updEnt, State.setEnt, State.ent]

theorem State.ent_updEnt_ne (s : State) {j e : Nat} (f : Entry → Entry) (h : j ≠ e) : (s.updEnt e f).ent j = s.ent j := by
  simp [State.updEnt, State.setEnt, State.ent, AMap.at_put_ne _ _ _ h]

@[simp] theorem State.fn_updFn_same (s : State) (f : Nat) (g : Fn → Fn) : (s.updFn f g).fn f = g (s.fn f) := by simp [State.updFn, State.fn]

theorem State.fn_updFn_ne (s : State) {j f : Nat} (g : Fn → Fn) (h : j ≠ f) : (s.updFn f g).fn j = s.fn j := by
  simp [State.updFn, State.fn, AMap.at_upd_ne _ _ _ h]

@[simp] theorem State.clkPart_updClkPart_same (s : State) (p : Nat) (f : ClkPart → ClkPart) : (s.updClkPart p f).clkPart p = f (s.clkPart p) := by
  simp [State.updClkPart, State.updClk, State.clkPart]

@[simp] theorem State.corePwr_updCorePwr_same (s : State) (m : Nat) (f : CorePwr → CorePwr) : (s.updCorePwr m f).corePwr m = f (s.corePwr m) := by
  simp [State.updCorePwr, State.updPwr, State.corePwr]

@[simp] theorem State.fieldPwr_updFieldPwr_same (s : State) (n : Nat) (f : FieldPwr → FieldPwr) : (s.updFieldPwr n f).fieldPwr n = f (s.fieldPwr n) := by
  simp [State.updFieldPwr, State.updPwr, State.fieldPwr]

@[simp] theorem State.secPart_updSecPart_same (s : State) (p : Nat) (f : SecPart → SecPart) : (s.updSecPart p f).secPart p = f (s.secPart p) := by
  simp [State.updSecPart, State.updSec, State.secPart]

/-! ### The fields that an update leaves alone -/

@[simp] theorem State.pending_setCore (s : State) (m : Nat) (c : Core) : (s.setCore m c).pending = s.pending := rfl
@[simp] theorem State.tb_setCore (s : State) (m : Nat) (c : Core) : (s.setCore m c).tb = s.tb := rfl
@[simp] theorem State.free_setCore (s : State) (m : Nat) (c : Core) : (s.setCore m c).free = s.free := rfl
@[simp] theorem State.fab_setCore (s : State) (m : Nat) (c : Core) : (s.setCore m c).fab = s.fab := rfl
@[simp] theorem State.parts_setCore (s : State) (m : Nat) (c : Core) : (s.setCore m c).parts = s.parts := rfl
@[simp] theorem State.host_setCore (s : State) (m : Nat) (c : Core) : (s.setCore m c).host = s.host := rfl
@[simp] theorem State.table_setCore (s : State) (m : Nat) (c : Core) : (s.setCore m c).table = s.table := rfl
@[simp] theorem State.stream_setCore (s : State) (m : Nat) (c : Core) : (s.setCore m c).stream = s.stream := rfl
@[simp] theorem State.stay_setCore (s : State) (m : Nat) (c : Core) : (s.setCore m c).stay = s.stay := rfl
@[simp] theorem State.sheet_setCore (s : State) (m : Nat) (c : Core) : (s.setCore m c).sheet = s.sheet := rfl
@[simp] theorem State.serial_setCore (s : State) (m : Nat) (c : Core) : (s.setCore m c).serial = s.serial := rfl
@[simp] theorem State.grade_setCore (s : State) (m : Nat) (c : Core) : (s.setCore m c).grade = s.grade := rfl
@[simp] theorem State.xt_setCore (s : State) (m : Nat) (c : Core) : (s.setCore m c).xt = s.xt := rfl
@[simp] theorem State.mst_setCore (s : State) (m : Nat) (c : Core) : (s.setCore m c).mst = s.mst := rfl
@[simp] theorem State.sys_setCore (s : State) (m : Nat) (c : Core) : (s.setCore m c).sys = s.sys := rfl

@[simp] theorem State.pending_updCore (s : State) (m : Nat) (f : Core → Core) : (s.updCore m f).pending = s.pending := rfl
@[simp] theorem State.tb_updCore (s : State) (m : Nat) (f : Core → Core) : (s.updCore m f).tb = s.tb := rfl
@[simp] theorem State.free_updCore (s : State) (m : Nat) (f : Core → Core) : (s.updCore m f).free = s.free := rfl
@[simp] theorem State.fab_updCore (s : State) (m : Nat) (f : Core → Core) : (s.updCore m f).fab = s.fab := rfl
@[simp] theorem State.parts_updCore (s : State) (m : Nat) (f : Core → Core) : (s.updCore m f).parts = s.parts := rfl
@[simp] theorem State.host_updCore (s : State) (m : Nat) (f : Core → Core) : (s.updCore m f).host = s.host := rfl
@[simp] theorem State.table_updCore (s : State) (m : Nat) (f : Core → Core) : (s.updCore m f).table = s.table := rfl
@[simp] theorem State.stream_updCore (s : State) (m : Nat) (f : Core → Core) : (s.updCore m f).stream = s.stream := rfl
@[simp] theorem State.stay_updCore (s : State) (m : Nat) (f : Core → Core) : (s.updCore m f).stay = s.stay := rfl
@[simp] theorem State.sheet_updCore (s : State) (m : Nat) (f : Core → Core) : (s.updCore m f).sheet = s.sheet := rfl
@[simp] theorem State.serial_updCore (s : State) (m : Nat) (f : Core → Core) : (s.updCore m f).serial = s.serial := rfl
@[simp] theorem State.grade_updCore (s : State) (m : Nat) (f : Core → Core) : (s.updCore m f).grade = s.grade := rfl
@[simp] theorem State.xt_updCore (s : State) (m : Nat) (f : Core → Core) : (s.updCore m f).xt = s.xt := rfl
@[simp] theorem State.mst_updCore (s : State) (m : Nat) (f : Core → Core) : (s.updCore m f).mst = s.mst := rfl
@[simp] theorem State.sys_updCore (s : State) (m : Nat) (f : Core → Core) : (s.updCore m f).sys = s.sys := rfl

@[simp] theorem State.pending_updField (s : State) (n : Nat) (f : FieldSt → FieldSt) : (s.updField n f).pending = s.pending := rfl
@[simp] theorem State.tb_updField (s : State) (n : Nat) (f : FieldSt → FieldSt) : (s.updField n f).tb = s.tb := rfl
@[simp] theorem State.free_updField (s : State) (n : Nat) (f : FieldSt → FieldSt) : (s.updField n f).free = s.free := rfl
@[simp] theorem State.cores_updField (s : State) (n : Nat) (f : FieldSt → FieldSt) : (s.updField n f).cores = s.cores := rfl
@[simp] theorem State.parts_updField (s : State) (n : Nat) (f : FieldSt → FieldSt) : (s.updField n f).parts = s.parts := rfl
@[simp] theorem State.host_updField (s : State) (n : Nat) (f : FieldSt → FieldSt) : (s.updField n f).host = s.host := rfl
@[simp] theorem State.table_updField (s : State) (n : Nat) (f : FieldSt → FieldSt) : (s.updField n f).table = s.table := rfl
@[simp] theorem State.stream_updField (s : State) (n : Nat) (f : FieldSt → FieldSt) : (s.updField n f).stream = s.stream := rfl
@[simp] theorem State.stay_updField (s : State) (n : Nat) (f : FieldSt → FieldSt) : (s.updField n f).stay = s.stay := rfl
@[simp] theorem State.sheet_updField (s : State) (n : Nat) (f : FieldSt → FieldSt) : (s.updField n f).sheet = s.sheet := rfl
@[simp] theorem State.serial_updField (s : State) (n : Nat) (f : FieldSt → FieldSt) : (s.updField n f).serial = s.serial := rfl
@[simp] theorem State.grade_updField (s : State) (n : Nat) (f : FieldSt → FieldSt) : (s.updField n f).grade = s.grade := rfl
@[simp] theorem State.xt_updField (s : State) (n : Nat) (f : FieldSt → FieldSt) : (s.updField n f).xt = s.xt := rfl
@[simp] theorem State.mst_updField (s : State) (n : Nat) (f : FieldSt → FieldSt) : (s.updField n f).mst = s.mst := rfl
@[simp] theorem State.sys_updField (s : State) (n : Nat) (f : FieldSt → FieldSt) : (s.updField n f).sys = s.sys := rfl

@[simp] theorem State.pending_updPart (s : State) (p : Nat) (f : Part → Part) : (s.updPart p f).pending = s.pending := rfl
@[simp] theorem State.tb_updPart (s : State) (p : Nat) (f : Part → Part) : (s.updPart p f).tb = s.tb := rfl
@[simp] theorem State.free_updPart (s : State) (p : Nat) (f : Part → Part) : (s.updPart p f).free = s.free := rfl
@[simp] theorem State.cores_updPart (s : State) (p : Nat) (f : Part → Part) : (s.updPart p f).cores = s.cores := rfl
@[simp] theorem State.fab_updPart (s : State) (p : Nat) (f : Part → Part) : (s.updPart p f).fab = s.fab := rfl
@[simp] theorem State.host_updPart (s : State) (p : Nat) (f : Part → Part) : (s.updPart p f).host = s.host := rfl
@[simp] theorem State.table_updPart (s : State) (p : Nat) (f : Part → Part) : (s.updPart p f).table = s.table := rfl
@[simp] theorem State.stream_updPart (s : State) (p : Nat) (f : Part → Part) : (s.updPart p f).stream = s.stream := rfl
@[simp] theorem State.stay_updPart (s : State) (p : Nat) (f : Part → Part) : (s.updPart p f).stay = s.stay := rfl
@[simp] theorem State.sheet_updPart (s : State) (p : Nat) (f : Part → Part) : (s.updPart p f).sheet = s.sheet := rfl
@[simp] theorem State.serial_updPart (s : State) (p : Nat) (f : Part → Part) : (s.updPart p f).serial = s.serial := rfl
@[simp] theorem State.grade_updPart (s : State) (p : Nat) (f : Part → Part) : (s.updPart p f).grade = s.grade := rfl
@[simp] theorem State.xt_updPart (s : State) (p : Nat) (f : Part → Part) : (s.updPart p f).xt = s.xt := rfl
@[simp] theorem State.mst_updPart (s : State) (p : Nat) (f : Part → Part) : (s.updPart p f).mst = s.mst := rfl
@[simp] theorem State.sys_updPart (s : State) (p : Nat) (f : Part → Part) : (s.updPart p f).sys = s.sys := rfl

@[simp] theorem State.pending_updGrp (s : State) (p : Nat) (f : Group → Group) : (s.updGrp p f).pending = s.pending := rfl
@[simp] theorem State.tb_updGrp (s : State) (p : Nat) (f : Group → Group) : (s.updGrp p f).tb = s.tb := rfl
@[simp] theorem State.free_updGrp (s : State) (p : Nat) (f : Group → Group) : (s.updGrp p f).free = s.free := rfl
@[simp] theorem State.cores_updGrp (s : State) (p : Nat) (f : Group → Group) : (s.updGrp p f).cores = s.cores := rfl
@[simp] theorem State.fab_updGrp (s : State) (p : Nat) (f : Group → Group) : (s.updGrp p f).fab = s.fab := rfl
@[simp] theorem State.host_updGrp (s : State) (p : Nat) (f : Group → Group) : (s.updGrp p f).host = s.host := rfl
@[simp] theorem State.table_updGrp (s : State) (p : Nat) (f : Group → Group) : (s.updGrp p f).table = s.table := rfl
@[simp] theorem State.stream_updGrp (s : State) (p : Nat) (f : Group → Group) : (s.updGrp p f).stream = s.stream := rfl
@[simp] theorem State.stay_updGrp (s : State) (p : Nat) (f : Group → Group) : (s.updGrp p f).stay = s.stay := rfl
@[simp] theorem State.sheet_updGrp (s : State) (p : Nat) (f : Group → Group) : (s.updGrp p f).sheet = s.sheet := rfl
@[simp] theorem State.serial_updGrp (s : State) (p : Nat) (f : Group → Group) : (s.updGrp p f).serial = s.serial := rfl
@[simp] theorem State.grade_updGrp (s : State) (p : Nat) (f : Group → Group) : (s.updGrp p f).grade = s.grade := rfl
@[simp] theorem State.xt_updGrp (s : State) (p : Nat) (f : Group → Group) : (s.updGrp p f).xt = s.xt := rfl
@[simp] theorem State.mst_updGrp (s : State) (p : Nat) (f : Group → Group) : (s.updGrp p f).mst = s.mst := rfl
@[simp] theorem State.sys_updGrp (s : State) (p : Nat) (f : Group → Group) : (s.updGrp p f).sys = s.sys := rfl

@[simp] theorem State.pending_updReq (s : State) (p : Nat) (f : ReqPart → ReqPart) : (s.updReq p f).pending = s.pending := rfl
@[simp] theorem State.tb_updReq (s : State) (p : Nat) (f : ReqPart → ReqPart) : (s.updReq p f).tb = s.tb := rfl
@[simp] theorem State.free_updReq (s : State) (p : Nat) (f : ReqPart → ReqPart) : (s.updReq p f).free = s.free := rfl
@[simp] theorem State.cores_updReq (s : State) (p : Nat) (f : ReqPart → ReqPart) : (s.updReq p f).cores = s.cores := rfl
@[simp] theorem State.fab_updReq (s : State) (p : Nat) (f : ReqPart → ReqPart) : (s.updReq p f).fab = s.fab := rfl
@[simp] theorem State.host_updReq (s : State) (p : Nat) (f : ReqPart → ReqPart) : (s.updReq p f).host = s.host := rfl
@[simp] theorem State.table_updReq (s : State) (p : Nat) (f : ReqPart → ReqPart) : (s.updReq p f).table = s.table := rfl
@[simp] theorem State.stream_updReq (s : State) (p : Nat) (f : ReqPart → ReqPart) : (s.updReq p f).stream = s.stream := rfl
@[simp] theorem State.stay_updReq (s : State) (p : Nat) (f : ReqPart → ReqPart) : (s.updReq p f).stay = s.stay := rfl
@[simp] theorem State.sheet_updReq (s : State) (p : Nat) (f : ReqPart → ReqPart) : (s.updReq p f).sheet = s.sheet := rfl
@[simp] theorem State.serial_updReq (s : State) (p : Nat) (f : ReqPart → ReqPart) : (s.updReq p f).serial = s.serial := rfl
@[simp] theorem State.grade_updReq (s : State) (p : Nat) (f : ReqPart → ReqPart) : (s.updReq p f).grade = s.grade := rfl
@[simp] theorem State.xt_updReq (s : State) (p : Nat) (f : ReqPart → ReqPart) : (s.updReq p f).xt = s.xt := rfl
@[simp] theorem State.mst_updReq (s : State) (p : Nat) (f : ReqPart → ReqPart) : (s.updReq p f).mst = s.mst := rfl
@[simp] theorem State.sys_updReq (s : State) (p : Nat) (f : ReqPart → ReqPart) : (s.updReq p f).sys = s.sys := rfl

@[simp] theorem State.pending_updFn (s : State) (k : Nat) (f : Fn → Fn) : (s.updFn k f).pending = s.pending := rfl
@[simp] theorem State.tb_updFn (s : State) (k : Nat) (f : Fn → Fn) : (s.updFn k f).tb = s.tb := rfl
@[simp] theorem State.free_updFn (s : State) (k : Nat) (f : Fn → Fn) : (s.updFn k f).free = s.free := rfl
@[simp] theorem State.cores_updFn (s : State) (k : Nat) (f : Fn → Fn) : (s.updFn k f).cores = s.cores := rfl
@[simp] theorem State.fab_updFn (s : State) (k : Nat) (f : Fn → Fn) : (s.updFn k f).fab = s.fab := rfl
@[simp] theorem State.parts_updFn (s : State) (k : Nat) (f : Fn → Fn) : (s.updFn k f).parts = s.parts := rfl
@[simp] theorem State.table_updFn (s : State) (k : Nat) (f : Fn → Fn) : (s.updFn k f).table = s.table := rfl
@[simp] theorem State.stream_updFn (s : State) (k : Nat) (f : Fn → Fn) : (s.updFn k f).stream = s.stream := rfl
@[simp] theorem State.stay_updFn (s : State) (k : Nat) (f : Fn → Fn) : (s.updFn k f).stay = s.stay := rfl
@[simp] theorem State.sheet_updFn (s : State) (k : Nat) (f : Fn → Fn) : (s.updFn k f).sheet = s.sheet := rfl
@[simp] theorem State.serial_updFn (s : State) (k : Nat) (f : Fn → Fn) : (s.updFn k f).serial = s.serial := rfl
@[simp] theorem State.grade_updFn (s : State) (k : Nat) (f : Fn → Fn) : (s.updFn k f).grade = s.grade := rfl
@[simp] theorem State.xt_updFn (s : State) (k : Nat) (f : Fn → Fn) : (s.updFn k f).xt = s.xt := rfl
@[simp] theorem State.mst_updFn (s : State) (k : Nat) (f : Fn → Fn) : (s.updFn k f).mst = s.mst := rfl
@[simp] theorem State.sys_updFn (s : State) (k : Nat) (f : Fn → Fn) : (s.updFn k f).sys = s.sys := rfl

@[simp] theorem State.pending_updEnt (s : State) (e : Nat) (f : Entry → Entry) : (s.updEnt e f).pending = s.pending := rfl
@[simp] theorem State.tb_updEnt (s : State) (e : Nat) (f : Entry → Entry) : (s.updEnt e f).tb = s.tb := rfl
@[simp] theorem State.free_updEnt (s : State) (e : Nat) (f : Entry → Entry) : (s.updEnt e f).free = s.free := rfl
@[simp] theorem State.cores_updEnt (s : State) (e : Nat) (f : Entry → Entry) : (s.updEnt e f).cores = s.cores := rfl
@[simp] theorem State.fab_updEnt (s : State) (e : Nat) (f : Entry → Entry) : (s.updEnt e f).fab = s.fab := rfl
@[simp] theorem State.parts_updEnt (s : State) (e : Nat) (f : Entry → Entry) : (s.updEnt e f).parts = s.parts := rfl
@[simp] theorem State.host_updEnt (s : State) (e : Nat) (f : Entry → Entry) : (s.updEnt e f).host = s.host := rfl
@[simp] theorem State.stream_updEnt (s : State) (e : Nat) (f : Entry → Entry) : (s.updEnt e f).stream = s.stream := rfl
@[simp] theorem State.stay_updEnt (s : State) (e : Nat) (f : Entry → Entry) : (s.updEnt e f).stay = s.stay := rfl
@[simp] theorem State.sheet_updEnt (s : State) (e : Nat) (f : Entry → Entry) : (s.updEnt e f).sheet = s.sheet := rfl
@[simp] theorem State.serial_updEnt (s : State) (e : Nat) (f : Entry → Entry) : (s.updEnt e f).serial = s.serial := rfl
@[simp] theorem State.grade_updEnt (s : State) (e : Nat) (f : Entry → Entry) : (s.updEnt e f).grade = s.grade := rfl
@[simp] theorem State.xt_updEnt (s : State) (e : Nat) (f : Entry → Entry) : (s.updEnt e f).xt = s.xt := rfl
@[simp] theorem State.mst_updEnt (s : State) (e : Nat) (f : Entry → Entry) : (s.updEnt e f).mst = s.mst := rfl
@[simp] theorem State.sys_updEnt (s : State) (e : Nat) (f : Entry → Entry) : (s.updEnt e f).sys = s.sys := rfl

@[simp] theorem State.pending_updClk (s : State) (f : Clk → Clk) : (s.updClk f).pending = s.pending := rfl
@[simp] theorem State.tb_updClk (s : State) (f : Clk → Clk) : (s.updClk f).tb = s.tb := rfl
@[simp] theorem State.free_updClk (s : State) (f : Clk → Clk) : (s.updClk f).free = s.free := rfl
@[simp] theorem State.cores_updClk (s : State) (f : Clk → Clk) : (s.updClk f).cores = s.cores := rfl
@[simp] theorem State.fab_updClk (s : State) (f : Clk → Clk) : (s.updClk f).fab = s.fab := rfl
@[simp] theorem State.parts_updClk (s : State) (f : Clk → Clk) : (s.updClk f).parts = s.parts := rfl
@[simp] theorem State.host_updClk (s : State) (f : Clk → Clk) : (s.updClk f).host = s.host := rfl
@[simp] theorem State.table_updClk (s : State) (f : Clk → Clk) : (s.updClk f).table = s.table := rfl
@[simp] theorem State.stream_updClk (s : State) (f : Clk → Clk) : (s.updClk f).stream = s.stream := rfl
@[simp] theorem State.stay_updClk (s : State) (f : Clk → Clk) : (s.updClk f).stay = s.stay := rfl
@[simp] theorem State.sheet_updClk (s : State) (f : Clk → Clk) : (s.updClk f).sheet = s.sheet := rfl
@[simp] theorem State.serial_updClk (s : State) (f : Clk → Clk) : (s.updClk f).serial = s.serial := rfl
@[simp] theorem State.grade_updClk (s : State) (f : Clk → Clk) : (s.updClk f).grade = s.grade := rfl
@[simp] theorem State.xt_updClk (s : State) (f : Clk → Clk) : (s.updClk f).xt = s.xt := rfl
@[simp] theorem State.mst_updClk (s : State) (f : Clk → Clk) : (s.updClk f).mst = s.mst := rfl

@[simp] theorem State.pending_updPwr (s : State) (f : Pwr → Pwr) : (s.updPwr f).pending = s.pending := rfl
@[simp] theorem State.tb_updPwr (s : State) (f : Pwr → Pwr) : (s.updPwr f).tb = s.tb := rfl
@[simp] theorem State.free_updPwr (s : State) (f : Pwr → Pwr) : (s.updPwr f).free = s.free := rfl
@[simp] theorem State.cores_updPwr (s : State) (f : Pwr → Pwr) : (s.updPwr f).cores = s.cores := rfl
@[simp] theorem State.fab_updPwr (s : State) (f : Pwr → Pwr) : (s.updPwr f).fab = s.fab := rfl
@[simp] theorem State.parts_updPwr (s : State) (f : Pwr → Pwr) : (s.updPwr f).parts = s.parts := rfl
@[simp] theorem State.host_updPwr (s : State) (f : Pwr → Pwr) : (s.updPwr f).host = s.host := rfl
@[simp] theorem State.table_updPwr (s : State) (f : Pwr → Pwr) : (s.updPwr f).table = s.table := rfl
@[simp] theorem State.stream_updPwr (s : State) (f : Pwr → Pwr) : (s.updPwr f).stream = s.stream := rfl
@[simp] theorem State.stay_updPwr (s : State) (f : Pwr → Pwr) : (s.updPwr f).stay = s.stay := rfl
@[simp] theorem State.sheet_updPwr (s : State) (f : Pwr → Pwr) : (s.updPwr f).sheet = s.sheet := rfl
@[simp] theorem State.serial_updPwr (s : State) (f : Pwr → Pwr) : (s.updPwr f).serial = s.serial := rfl
@[simp] theorem State.grade_updPwr (s : State) (f : Pwr → Pwr) : (s.updPwr f).grade = s.grade := rfl
@[simp] theorem State.xt_updPwr (s : State) (f : Pwr → Pwr) : (s.updPwr f).xt = s.xt := rfl
@[simp] theorem State.mst_updPwr (s : State) (f : Pwr → Pwr) : (s.updPwr f).mst = s.mst := rfl

@[simp] theorem State.pending_updThm (s : State) (f : Thm → Thm) : (s.updThm f).pending = s.pending := rfl
@[simp] theorem State.tb_updThm (s : State) (f : Thm → Thm) : (s.updThm f).tb = s.tb := rfl
@[simp] theorem State.free_updThm (s : State) (f : Thm → Thm) : (s.updThm f).free = s.free := rfl
@[simp] theorem State.cores_updThm (s : State) (f : Thm → Thm) : (s.updThm f).cores = s.cores := rfl
@[simp] theorem State.fab_updThm (s : State) (f : Thm → Thm) : (s.updThm f).fab = s.fab := rfl
@[simp] theorem State.parts_updThm (s : State) (f : Thm → Thm) : (s.updThm f).parts = s.parts := rfl
@[simp] theorem State.host_updThm (s : State) (f : Thm → Thm) : (s.updThm f).host = s.host := rfl
@[simp] theorem State.table_updThm (s : State) (f : Thm → Thm) : (s.updThm f).table = s.table := rfl
@[simp] theorem State.stream_updThm (s : State) (f : Thm → Thm) : (s.updThm f).stream = s.stream := rfl
@[simp] theorem State.stay_updThm (s : State) (f : Thm → Thm) : (s.updThm f).stay = s.stay := rfl
@[simp] theorem State.sheet_updThm (s : State) (f : Thm → Thm) : (s.updThm f).sheet = s.sheet := rfl
@[simp] theorem State.serial_updThm (s : State) (f : Thm → Thm) : (s.updThm f).serial = s.serial := rfl
@[simp] theorem State.grade_updThm (s : State) (f : Thm → Thm) : (s.updThm f).grade = s.grade := rfl
@[simp] theorem State.xt_updThm (s : State) (f : Thm → Thm) : (s.updThm f).xt = s.xt := rfl
@[simp] theorem State.mst_updThm (s : State) (f : Thm → Thm) : (s.updThm f).mst = s.mst := rfl

@[simp] theorem State.pending_updEvr (s : State) (f : Evr → Evr) : (s.updEvr f).pending = s.pending := rfl
@[simp] theorem State.tb_updEvr (s : State) (f : Evr → Evr) : (s.updEvr f).tb = s.tb := rfl
@[simp] theorem State.free_updEvr (s : State) (f : Evr → Evr) : (s.updEvr f).free = s.free := rfl
@[simp] theorem State.cores_updEvr (s : State) (f : Evr → Evr) : (s.updEvr f).cores = s.cores := rfl
@[simp] theorem State.fab_updEvr (s : State) (f : Evr → Evr) : (s.updEvr f).fab = s.fab := rfl
@[simp] theorem State.parts_updEvr (s : State) (f : Evr → Evr) : (s.updEvr f).parts = s.parts := rfl
@[simp] theorem State.host_updEvr (s : State) (f : Evr → Evr) : (s.updEvr f).host = s.host := rfl
@[simp] theorem State.table_updEvr (s : State) (f : Evr → Evr) : (s.updEvr f).table = s.table := rfl
@[simp] theorem State.stream_updEvr (s : State) (f : Evr → Evr) : (s.updEvr f).stream = s.stream := rfl
@[simp] theorem State.stay_updEvr (s : State) (f : Evr → Evr) : (s.updEvr f).stay = s.stay := rfl
@[simp] theorem State.sheet_updEvr (s : State) (f : Evr → Evr) : (s.updEvr f).sheet = s.sheet := rfl
@[simp] theorem State.serial_updEvr (s : State) (f : Evr → Evr) : (s.updEvr f).serial = s.serial := rfl
@[simp] theorem State.grade_updEvr (s : State) (f : Evr → Evr) : (s.updEvr f).grade = s.grade := rfl
@[simp] theorem State.xt_updEvr (s : State) (f : Evr → Evr) : (s.updEvr f).xt = s.xt := rfl
@[simp] theorem State.mst_updEvr (s : State) (f : Evr → Evr) : (s.updEvr f).mst = s.mst := rfl

@[simp] theorem State.pending_updSec (s : State) (f : Sec → Sec) : (s.updSec f).pending = s.pending := rfl
@[simp] theorem State.tb_updSec (s : State) (f : Sec → Sec) : (s.updSec f).tb = s.tb := rfl
@[simp] theorem State.free_updSec (s : State) (f : Sec → Sec) : (s.updSec f).free = s.free := rfl
@[simp] theorem State.cores_updSec (s : State) (f : Sec → Sec) : (s.updSec f).cores = s.cores := rfl
@[simp] theorem State.fab_updSec (s : State) (f : Sec → Sec) : (s.updSec f).fab = s.fab := rfl
@[simp] theorem State.parts_updSec (s : State) (f : Sec → Sec) : (s.updSec f).parts = s.parts := rfl
@[simp] theorem State.host_updSec (s : State) (f : Sec → Sec) : (s.updSec f).host = s.host := rfl
@[simp] theorem State.table_updSec (s : State) (f : Sec → Sec) : (s.updSec f).table = s.table := rfl
@[simp] theorem State.stream_updSec (s : State) (f : Sec → Sec) : (s.updSec f).stream = s.stream := rfl
@[simp] theorem State.stay_updSec (s : State) (f : Sec → Sec) : (s.updSec f).stay = s.stay := rfl
@[simp] theorem State.sheet_updSec (s : State) (f : Sec → Sec) : (s.updSec f).sheet = s.sheet := rfl
@[simp] theorem State.serial_updSec (s : State) (f : Sec → Sec) : (s.updSec f).serial = s.serial := rfl
@[simp] theorem State.grade_updSec (s : State) (f : Sec → Sec) : (s.updSec f).grade = s.grade := rfl
@[simp] theorem State.xt_updSec (s : State) (f : Sec → Sec) : (s.updSec f).xt = s.xt := rfl
@[simp] theorem State.mst_updSec (s : State) (f : Sec → Sec) : (s.updSec f).mst = s.mst := rfl

@[simp] theorem State.pending_updCfg (s : State) (f : Cfg → Cfg) : (s.updCfg f).pending = s.pending := rfl
@[simp] theorem State.tb_updCfg (s : State) (f : Cfg → Cfg) : (s.updCfg f).tb = s.tb := rfl
@[simp] theorem State.free_updCfg (s : State) (f : Cfg → Cfg) : (s.updCfg f).free = s.free := rfl
@[simp] theorem State.cores_updCfg (s : State) (f : Cfg → Cfg) : (s.updCfg f).cores = s.cores := rfl
@[simp] theorem State.fab_updCfg (s : State) (f : Cfg → Cfg) : (s.updCfg f).fab = s.fab := rfl
@[simp] theorem State.parts_updCfg (s : State) (f : Cfg → Cfg) : (s.updCfg f).parts = s.parts := rfl
@[simp] theorem State.host_updCfg (s : State) (f : Cfg → Cfg) : (s.updCfg f).host = s.host := rfl
@[simp] theorem State.table_updCfg (s : State) (f : Cfg → Cfg) : (s.updCfg f).table = s.table := rfl
@[simp] theorem State.stream_updCfg (s : State) (f : Cfg → Cfg) : (s.updCfg f).stream = s.stream := rfl
@[simp] theorem State.stay_updCfg (s : State) (f : Cfg → Cfg) : (s.updCfg f).stay = s.stay := rfl
@[simp] theorem State.sheet_updCfg (s : State) (f : Cfg → Cfg) : (s.updCfg f).sheet = s.sheet := rfl
@[simp] theorem State.serial_updCfg (s : State) (f : Cfg → Cfg) : (s.updCfg f).serial = s.serial := rfl
@[simp] theorem State.grade_updCfg (s : State) (f : Cfg → Cfg) : (s.updCfg f).grade = s.grade := rfl
@[simp] theorem State.xt_updCfg (s : State) (f : Cfg → Cfg) : (s.updCfg f).xt = s.xt := rfl
@[simp] theorem State.mst_updCfg (s : State) (f : Cfg → Cfg) : (s.updCfg f).mst = s.mst := rfl

@[simp] theorem State.pending_updCnm (s : State) (f : Cnm → Cnm) : (s.updCnm f).pending = s.pending := rfl
@[simp] theorem State.tb_updCnm (s : State) (f : Cnm → Cnm) : (s.updCnm f).tb = s.tb := rfl
@[simp] theorem State.free_updCnm (s : State) (f : Cnm → Cnm) : (s.updCnm f).free = s.free := rfl
@[simp] theorem State.cores_updCnm (s : State) (f : Cnm → Cnm) : (s.updCnm f).cores = s.cores := rfl
@[simp] theorem State.fab_updCnm (s : State) (f : Cnm → Cnm) : (s.updCnm f).fab = s.fab := rfl
@[simp] theorem State.parts_updCnm (s : State) (f : Cnm → Cnm) : (s.updCnm f).parts = s.parts := rfl
@[simp] theorem State.host_updCnm (s : State) (f : Cnm → Cnm) : (s.updCnm f).host = s.host := rfl
@[simp] theorem State.table_updCnm (s : State) (f : Cnm → Cnm) : (s.updCnm f).table = s.table := rfl
@[simp] theorem State.stream_updCnm (s : State) (f : Cnm → Cnm) : (s.updCnm f).stream = s.stream := rfl
@[simp] theorem State.stay_updCnm (s : State) (f : Cnm → Cnm) : (s.updCnm f).stay = s.stay := rfl
@[simp] theorem State.sheet_updCnm (s : State) (f : Cnm → Cnm) : (s.updCnm f).sheet = s.sheet := rfl
@[simp] theorem State.serial_updCnm (s : State) (f : Cnm → Cnm) : (s.updCnm f).serial = s.serial := rfl
@[simp] theorem State.grade_updCnm (s : State) (f : Cnm → Cnm) : (s.updCnm f).grade = s.grade := rfl
@[simp] theorem State.xt_updCnm (s : State) (f : Cnm → Cnm) : (s.updCnm f).xt = s.xt := rfl
@[simp] theorem State.mst_updCnm (s : State) (f : Cnm → Cnm) : (s.updCnm f).mst = s.mst := rfl

@[simp] theorem State.pending_updFw (s : State) (f : Fw → Fw) : (s.updFw f).pending = s.pending := rfl
@[simp] theorem State.tb_updFw (s : State) (f : Fw → Fw) : (s.updFw f).tb = s.tb := rfl
@[simp] theorem State.free_updFw (s : State) (f : Fw → Fw) : (s.updFw f).free = s.free := rfl
@[simp] theorem State.cores_updFw (s : State) (f : Fw → Fw) : (s.updFw f).cores = s.cores := rfl
@[simp] theorem State.fab_updFw (s : State) (f : Fw → Fw) : (s.updFw f).fab = s.fab := rfl
@[simp] theorem State.parts_updFw (s : State) (f : Fw → Fw) : (s.updFw f).parts = s.parts := rfl
@[simp] theorem State.host_updFw (s : State) (f : Fw → Fw) : (s.updFw f).host = s.host := rfl
@[simp] theorem State.table_updFw (s : State) (f : Fw → Fw) : (s.updFw f).table = s.table := rfl
@[simp] theorem State.stream_updFw (s : State) (f : Fw → Fw) : (s.updFw f).stream = s.stream := rfl
@[simp] theorem State.stay_updFw (s : State) (f : Fw → Fw) : (s.updFw f).stay = s.stay := rfl
@[simp] theorem State.sheet_updFw (s : State) (f : Fw → Fw) : (s.updFw f).sheet = s.sheet := rfl
@[simp] theorem State.serial_updFw (s : State) (f : Fw → Fw) : (s.updFw f).serial = s.serial := rfl
@[simp] theorem State.grade_updFw (s : State) (f : Fw → Fw) : (s.updFw f).grade = s.grade := rfl
@[simp] theorem State.xt_updFw (s : State) (f : Fw → Fw) : (s.updFw f).xt = s.xt := rfl
@[simp] theorem State.mst_updFw (s : State) (f : Fw → Fw) : (s.updFw f).mst = s.mst := rfl

@[simp] theorem pending_emit (s : State) (x : Sent) : (emit s x).pending = s.pending := rfl
@[simp] theorem tb_emit (s : State) (x : Sent) : (emit s x).tb = s.tb := rfl
@[simp] theorem free_emit (s : State) (x : Sent) : (emit s x).free = s.free := rfl
@[simp] theorem cores_emit (s : State) (x : Sent) : (emit s x).cores = s.cores := rfl
@[simp] theorem fab_emit (s : State) (x : Sent) : (emit s x).fab = s.fab := rfl
@[simp] theorem parts_emit (s : State) (x : Sent) : (emit s x).parts = s.parts := rfl
@[simp] theorem table_emit (s : State) (x : Sent) : (emit s x).table = s.table := rfl
@[simp] theorem stream_emit (s : State) (x : Sent) : (emit s x).stream = s.stream := rfl
@[simp] theorem stay_emit (s : State) (x : Sent) : (emit s x).stay = s.stay := rfl
@[simp] theorem sheet_emit (s : State) (x : Sent) : (emit s x).sheet = s.sheet := rfl
@[simp] theorem serial_emit (s : State) (x : Sent) : (emit s x).serial = s.serial := rfl
@[simp] theorem grade_emit (s : State) (x : Sent) : (emit s x).grade = s.grade := rfl
@[simp] theorem xt_emit (s : State) (x : Sent) : (emit s x).xt = s.xt := rfl
@[simp] theorem mst_emit (s : State) (x : Sent) : (emit s x).mst = s.mst := rfl
@[simp] theorem sys_emit (s : State) (x : Sent) : (emit s x).sys = s.sys := rfl
@[simp] theorem State.pending_atTick (s : State) (t : Dword) : (s.atTick t).pending = s.pending := rfl
@[simp] theorem State.free_atTick (s : State) (t : Dword) : (s.atTick t).free = s.free := rfl
@[simp] theorem State.cores_atTick (s : State) (t : Dword) : (s.atTick t).cores = s.cores := rfl
@[simp] theorem State.fab_atTick (s : State) (t : Dword) : (s.atTick t).fab = s.fab := rfl
@[simp] theorem State.parts_atTick (s : State) (t : Dword) : (s.atTick t).parts = s.parts := rfl
@[simp] theorem State.host_atTick (s : State) (t : Dword) : (s.atTick t).host = s.host := rfl
@[simp] theorem State.table_atTick (s : State) (t : Dword) : (s.atTick t).table = s.table := rfl
@[simp] theorem State.stream_atTick (s : State) (t : Dword) : (s.atTick t).stream = s.stream := rfl
@[simp] theorem State.stay_atTick (s : State) (t : Dword) : (s.atTick t).stay = s.stay := rfl
@[simp] theorem State.sheet_atTick (s : State) (t : Dword) : (s.atTick t).sheet = s.sheet := rfl
@[simp] theorem State.serial_atTick (s : State) (t : Dword) : (s.atTick t).serial = s.serial := rfl
@[simp] theorem State.grade_atTick (s : State) (t : Dword) : (s.atTick t).grade = s.grade := rfl
@[simp] theorem State.xt_atTick (s : State) (t : Dword) : (s.atTick t).xt = s.xt := rfl
@[simp] theorem State.mst_atTick (s : State) (t : Dword) : (s.atTick t).mst = s.mst := rfl
@[simp] theorem State.sys_atTick (s : State) (t : Dword) : (s.atTick t).sys = s.sys := rfl
@[simp] theorem State.tb_atTick (s : State) (t : Dword) : (s.atTick t).tb = if s.tb ≤ t then t else s.tb := rfl

end Sys2Proof.Machine
end

