-- ==== Sys2Proof/Laws/Issue.lean ====
section
/-! SUPPORT. What issuing a slot instruction does, once for every slot instruction. -/

namespace Sys2Proof.Machine

theorem getD_set_same {α : Type} (l : List α) (i : Nat) (v d : α) (h : i < l.length) : (l.set i v).getD i d = v := by
  simp [List.getD, h]

theorem getD_set_ne {α : Type} (l : List α) {i j : Nat} (v d : α) (h : j ≠ i) : (l.set i v).getD j d = l.getD j d := by
  simp [List.getD, List.getElem?_set_ne (Ne.symm h)]

@[simp] theorem bitsN_lt {n : Nat} (x : BitVec n) (lo w : Nat) : bitsN x lo w < 2 ^ w := Nat.mod_lt _ (Nat.two_pow_pos w)

/-! ### Contexts of a core -/

@[simp] theorem Core.tc_setTc_same (c : Core) (i : Fin 4) (x : Ctx) : (c.setTc i x).tc i = x := by
  simp [Core.setTc, Core.tc, getD_set_same]

theorem Core.tc_setTc_ne (c : Core) {i j : Nat} (x : Ctx) (h : j ≠ i) : (c.setTc i x).tc j = c.tc j := by
  unfold Core.setTc Core.tc
  split
  · simp [Vector.getElem?_set, Ne.symm h]
  · rfl

theorem Core.onlyCtx_setTc {c d : Core} (h : Core.onlyCtx c d) (i : Nat) (x : Ctx) : Core.onlyCtx c (d.setTc i x) := by
  unfold Core.setTc
  split <;> exact h

@[simp] theorem Core.tc_pruneTrk (c : Core) (t i : Nat) : (c.pruneTrk t).tc i = c.tc i := rfl

theorem Core.onlyCtx_pruneTrk (c : Core) (t : Nat) : Core.onlyCtx c (c.pruneTrk t) := rfl

/-! ### Registers of a context -/

theorem Ctx.sAt_wrS_same (x : Ctx) {r : Nat} (v : SReg) (t : Nat) (h : r < 32) : (x.wrS r v t).sAt r = v := by
  simp [Ctx.wrS, Ctx.sAt, h, getD_set_same]

theorem Ctx.sAt_wrS_ne (x : Ctx) {r j : Nat} (v : SReg) (t : Nat) (h : j ≠ r) : (x.wrS r v t).sAt j = x.sAt j := by
  unfold Ctx.wrS Ctx.sAt
  split
  · simp [Vector.getElem?_set, Ne.symm h]
  · rfl

@[simp] theorem Ctx.vAt_wrS (x : Ctx) (r : Nat) (v : SReg) (t j : Nat) : (x.wrS r v t).vAt j = x.vAt j := by
  unfold Ctx.wrS
  split <;> rfl

theorem Ctx.vAt_wrV_same (x : Ctx) {r : Nat} (v : VReg) (t : Nat) (h : r < 32) : (x.wrV r v t).vAt r = v := by
  simp [Ctx.wrV, Ctx.vAt, h, getD_set_same]

theorem Ctx.vAt_wrV_ne (x : Ctx) {r j : Nat} (v : VReg) (t : Nat) (h : j ≠ r) : (x.wrV r v t).vAt j = x.vAt j := by
  unfold Ctx.wrV Ctx.vAt
  split
  · simp [Vector.getElem?_set, Ne.symm h]
  · rfl

@[simp] theorem Ctx.sAt_wrV (x : Ctx) (r : Nat) (v : VReg) (t j : Nat) : (x.wrV r v t).sAt j = x.sAt j := by
  unfold Ctx.wrV
  split <;> rfl

theorem Ctx.onlyRegs_wrS {x y : Ctx} (h : Ctx.onlyRegs x y) (r : Nat) (v : SReg) (t : Nat) : Ctx.onlyRegs x (y.wrS r v t) := by
  unfold Ctx.wrS
  split <;> exact h

theorem Ctx.onlyRegs_wrV {x y : Ctx} (h : Ctx.onlyRegs x y) (r : Nat) (v : VReg) (t : Nat) : Ctx.onlyRegs x (y.wrV r v t) := by
  unfold Ctx.wrV
  split <;> exact h

theorem Ctx.onlyRegs_refl (x : Ctx) : Ctx.onlyRegs x x := rfl

@[simp] theorem Ctx.sAt_holdTo (x : Ctx) (t j : Nat) : (x.holdTo t).sAt j = x.sAt j := rfl

@[simp] theorem Ctx.vAt_holdTo (x : Ctx) (t j : Nat) : (x.holdTo t).vAt j = x.vAt j := rfl

theorem Ctx.onlyRegs_holdTo {x y : Ctx} (h : Ctx.onlyRegs x y) (t : Nat) : Ctx.onlyRegs x (y.holdTo t) := h

theorem Ctx.onlyRegs_leave {x y : Ctx} (h : Ctx.onlyRegs x y) (pc : BitVec 13) : Ctx.onlyRegs x (y.leave pc) := h

theorem Ctx.turn_eq (x : Ctx) (ls : List LoopRec) : ∃ pc l, x.turn ls = { x.leave pc with loops := l } := by
  induction ls with
  | nil => exact ⟨_, _, rfl⟩
  | cons l r ih =>
    unfold Ctx.turn
    split
    · split
      · exact ih
      · exact ⟨_, _, rfl⟩
    · exact ⟨_, _, rfl⟩

/-- A bundle's end moves the context on, and ends the bundle: nothing else of the context differs. -/
theorem Ctx.advance_eq (x : Ctx) : ∃ pc l, x.advance = { x.leave pc with loops := l } := Ctx.turn_eq x x.loops

@[simp] theorem Ctx.sAt_advance (x : Ctx) (j : Nat) : x.advance.sAt j = x.sAt j := by
  obtain ⟨pc, l, h⟩ := x.advance_eq
  rw [h]; rfl

@[simp] theorem Ctx.vAt_advance (x : Ctx) (j : Nat) : x.advance.vAt j = x.vAt j := by
  obtain ⟨pc, l, h⟩ := x.advance_eq
  rw [h]; rfl

theorem Ctx.onlyRegs_advance {x y : Ctx} (h : Ctx.onlyRegs x y) : Ctx.onlyRegs x y.advance := by
  obtain ⟨pc, l, e⟩ := y.advance_eq
  rw [e]; exact h

/-- With no loop running a bundle that does not branch goes on to the next. -/
theorem Ctx.advance_nil {x : Ctx} (h : x.loops = []) : x.advance = x.leave (x.pc + 1#13) := by
  unfold Ctx.advance; rw [h]; show ({ x.leave (x.pc + 1#13) with loops := [] } : Ctx) = _
  unfold Ctx.leave Ctx.endBundle; rw [h]

/-! ### Issue -/

theorem countWait_tc (s : State) (q : Issue) (vec : Bool) (rs vs : List Nat) (m i : Nat) : ((countWait s q vec rs vs).core m).tc i = (s.core m).tc i := by
  unfold countWait
  split
  · by_cases h : m = q.core.val
    · subst h; simp; rfl
    · rw [State.core_updCore_ne _ _ h]
  · rfl

theorem onlyCyc_refl (s : State) : onlyCyc s s := fun _ => rfl

theorem onlyCyc_of_parts {s t : State} (h : t.parts = s.parts) : onlyCyc s t := by
  intro p
  have : t.part p = s.part p := by simp [State.part, h]
  simp [State.grp, this]

/-- The module with the group's cycle count reached and the wait counted. -/
def inCycle (r : Bool) (p : Nat) (s : State) (q : Issue) (vec : Bool) (rs vs : List Nat) (t : Nat) : State :=
  (if r then s else (countWait s q vec rs vs).updGrp p (fun g => { g with cyc := max g.cyc t })).updCore q.core (fun c => c.pruneTrk t)

@[simp] theorem inCycle_tc (r : Bool) (p : Nat) (s : State) (q : Issue) (vec : Bool) (rs vs : List Nat) (t i : Nat) :
    ((inCycle r p s q vec rs vs t).core q.core).tc i = (s.core q.core).tc i := by
  unfold inCycle
  simp only [State.core_updCore_same, Core.tc_pruneTrk]
  split
  · rfl
  · exact countWait_tc s q vec rs vs q.core i

/-- Reaching a fc changes nothing of the module but its core's tracker and waits and the group's cycle count. -/
theorem inCycle_frame (r : Bool) (p : Nat) (s : State) (q : Issue) (vec : Bool) (rs vs : List Nat) (t : Nat) :
    onlyCore q.core s (inCycle r p s q vec rs vs t) ∧ onlyCyc s (inCycle r p s q vec rs vs t) ∧
    ∃ w, (inCycle r p s q vec rs vs t).core q.core = { (s.core q.core).pruneTrk t with stat := { (s.core q.core).stat with vwait := w } } := by
  have hc : ∀ j, j ≠ q.core.val → (countWait s q vec rs vs).core j = s.core j := by
    intro j hj
    unfold countWait
    split
    · exact State.core_updCore_ne _ _ hj
    · rfl
  have hp : (countWait s q vec rs vs).parts = s.parts := by unfold countWait; split <;> rfl
  have ho : { countWait s q vec rs vs with cores := s.cores, parts := s.parts } = s := by unfold countWait; split <;> rfl
  have hx : ∃ w, (countWait s q vec rs vs).core q.core = { s.core q.core with stat := { (s.core q.core).stat with vwait := w } } := by
    unfold countWait
    split
    · exact ⟨_, by simp; rfl⟩
    · exact ⟨_, rfl⟩
  refine ⟨⟨?_, ?_⟩, ?_, ?_⟩
  · unfold inCycle
    split
    · rfl
    · simpa [State.updCore, State.setCore, State.updGrp, State.updPart, State.setPart] using ho
  · intro j hj
    unfold inCycle
    simp only [State.core_updCore_ne _ _ hj]
    split
    · rfl
    · exact hc j hj
  · intro p'
    unfold inCycle
    split
    · rfl
    · by_cases h : p' = p
      · subst h
        simp [State.part, State.grp, State.updGrp, State.updPart, State.setPart, State.updCore, State.setCore, hp]
      · have : ((countWait s q vec rs vs).updGrp p (fun g => { g with cyc := max g.cyc t })).part p' = s.part p' := by
          unfold State.updGrp
          rw [State.part_updPart_ne _ _ h]
          simp [State.part, hp]
        show ({ State.part _ p' with grp := _ } : Part) = _
        have e : ∀ (u : State) (f : Core → Core), (u.updCore q.core f).part p' = u.part p' := fun _ _ => rfl
        simp only [e, State.grp, this]
  · unfold inCycle
    simp only [State.core_updCore_same]
    split
    · exact ⟨_, rfl⟩
    · obtain ⟨w, h⟩ := hx
      refine ⟨w, ?_⟩
      show ((countWait s q vec rs vs).core q.core).pruneTrk t = _
      rw [h]; rfl

/-- A context update keeps what issue kept. -/
theorem regFrame_updCtx {s u : State} {q : Issue} {f : Ctx → Ctx}
    (hf : ∀ y, Ctx.onlyRegs ((s.core q.core).tc q.ctx) y → Ctx.onlyRegs ((s.core q.core).tc q.ctx) (f y)) (h : regFrame q s u) : regFrame q s (u.updCtx q.core q.ctx f) := by
  obtain ⟨⟨h1, h2⟩, h3, h4, h5, h6⟩ := h
  refine ⟨⟨h1, ?_⟩, ?_, ?_, ?_, ?_⟩
  · intro j hj
    rw [State.updCtx, State.core_updCore_ne _ _ hj]
    exact h2 j hj
  · exact h3
  · rw [State.updCtx, State.core_updCore_same]
    exact Core.onlyCtx_setTc h4 _ _
  · intro j hj
    rw [State.updCtx, State.core_updCore_same, Core.tc_setTc_ne _ _ hj]
    exact h5 j hj
  · rw [State.updCtx, State.core_updCore_same, Core.tc_setTc_same]
    exact hf _ h6

theorem regFrame_refl (q : Issue) (s : State) : regFrame q s s := ⟨⟨rfl, fun _ _ => rfl⟩, onlyCyc_refl s, rfl, fun _ _ => rfl, rfl⟩

theorem regFrame_inCycle (r : Bool) (p : Nat) (s : State) (q : Issue) (vec : Bool) (rs vs : List Nat) (t : Nat) : regFrame q s (inCycle r p s q vec rs vs t) := by
  obtain ⟨h1, h2, w, h3⟩ := inCycle_frame r p s q vec rs vs t
  refine ⟨h1, h2, ?_, fun j _ => inCycle_tc r p s q vec rs vs t j, by rw [inCycle_tc]; exact Ctx.onlyRegs_refl _⟩
  rw [h3]; rfl

@[simp] theorem State.tc_updCtx_same (s : State) (m : Nat) (i : Fin 4) (f : Ctx → Ctx) : ((s.updCtx m i f).core m).tc i = f ((s.core m).tc i) := by
  simp [State.updCtx]

theorem issued_eq (s0 : State) (q : Issue) (vec : Bool) (rs vs : List Nat) (k : Nat) :
    issued s0 q vec rs vs k = beginBundle (inCycle (inRoutine s0 q) (s0.corePart q.core) (s0.settle q.core k) q vec rs vs k) q k := rfl

theorem Core.bundleFits_congr {c d : Core} {i t : Nat} (ht : d.tracks = (c.pruneTrk t).tracks) (hb : d.bundles = c.bundles) (hx : d.tc i = c.tc i) :
    d.bundleFits i t = c.bundleFits i t := by
  have h : (d.pruneTrk t).tracks = (c.pruneTrk t).tracks := by
    simp only [Core.pruneTrk, ht, List.filter_filter, Bool.and_self]
  unfold Core.bundleFits Core.bundle Core.bundleAt
  rw [h, hx, hb]

/-- What issue leaves, once for every slot instruction whose bundle the tracker takes: of the module as accesses made in the fc find it, only the group's cycle count, the
core's due tracker entries and waits, and that the bundle is being issued. -/
theorem issued_spec {s0 s : State} {q : Issue} {vec : Bool} {rs vs : List Nat} {k : Nat} (h : issuesAt s0 q vec rs vs k s) :
    regFrame q s (issued s0 q vec rs vs k) ∧
    ((issued s0 q vec rs vs k).core q.core).tc q.ctx = { (s.core q.core).tc q.ctx with bun := some ((((s.core q.core).tc q.ctx).bun).getD k), dead := false } ∧
    ((issued s0 q vec rs vs k).core q.core).tracks = ((s.core q.core).pruneTrk k).tracks := by
  obtain ⟨-, hs, hb⟩ := h
  subst hs
  rw [issued_eq]
  generalize hs : s0.settle q.core k = s at *
  obtain ⟨h1, h2, w, h3⟩ := inCycle_frame (inRoutine s0 q) (s0.corePart q.core) s q vec rs vs k
  have h4 := regFrame_inCycle (inRoutine s0 q) (s0.corePart q.core) s q vec rs vs k
  have h5 := inCycle_tc (inRoutine s0 q) (s0.corePart q.core) s q vec rs vs k q.ctx
  generalize inCycle (inRoutine s0 q) (s0.corePart q.core) s q vec rs vs k = u at *
  unfold beginBundle
  simp only [h5]
  cases hz : ((s.core q.core).tc q.ctx).bun with
  | some b =>
    rw [hz] at hb
    simp only [Option.isSome_some, if_true]
    refine ⟨h4, ?_, by rw [h3]⟩
    rw [h5]
    generalize (s.core q.core).tc q.ctx = x at *
    cases x
    simp only at hz hb
    subst hz hb
    exact rfl
  | none =>
    rw [hz] at hb
    have hf : (u.core q.core).bundleFits q.ctx k = true :=
      (Core.bundleFits_congr (by rw [h3]) (by rw [h3]; rfl) h5).trans hb
    simp only [Option.isSome_none, hf, Bool.not_true, if_true, Bool.false_eq_true, if_false]
    refine ⟨regFrame_updCtx (f := fun x => { x with bun := some k, dead := false }) (fun y hy => hy) h4, ?_, ?_⟩
    · rw [State.tc_updCtx_same, h5]; rfl
    · have e : ((u.updCtx q.core q.ctx (fun x => { x with bun := some k, dead := false })).core q.core).tracks = (u.core q.core).tracks := by
        rw [State.updCtx, State.core_updCore_same]; unfold Core.setTc; split <;> rfl
      rw [e, h3]

/-- A slot instruction that issues has its effect on the module as `issued_spec` says. -/
theorem issueOr_some {s0 s : State} {q : Issue} {vec : Bool} {rs vs : List Nat} {k : Nat} (h : issuesAt s0 q vec rs vs k s) (dead f : State → Nat → State) :
    issueOr s0 q vec rs vs dead f = f (issued s0 q vec rs vs k) k := by
  have h2 := (issued_spec h).2.1
  simp only [issueOr, h.1, h2, Bool.false_eq_true, if_false]

theorem issue_some {s0 s : State} {q : Issue} {vec : Bool} {rs vs : List Nat} {k : Nat} (h : issuesAt s0 q vec rs vs k s) (f : State → Nat → State) :
    issue s0 q vec rs vs f = f (issued s0 q vec rs vs k) k := issueOr_some h _ f

theorem issueCtrl_some {s0 s : State} {q : Issue} {rs : List Nat} {k : Nat} (h : issuesAt s0 q false rs [] k s) (f : State → Nat → State) :
    issueCtrl s0 q rs f = (f (issued s0 q false rs [] k) k).updCtx q.core q.ctx (fun x => x.advance.holdTo (k + 1)) := by
  unfold issueCtrl
  exact issueOr_some h _ _

/-- A slot instruction that cannot issue waits. -/
theorem issue_none {s : State} {q : Issue} {vec : Bool} {rs vs : List Nat} (h : issueCycle s q vec rs vs = none) (f : State → Nat → State) :
    issue s q vec rs vs f = s := by
  simp [issue, issueOr, h]

/-- On a core with no access on its way and no hand-over issued, an access finds the module as it stands, in its own fc. -/
theorem settle_quiet {s : State} {m : Nat} (t : Nat) (h : (s.core m).late = []) (hh : (s.core m).sails.map (fun y => y.handOver t) = (s.core m).sails) :
    s.settle m t = s.setCore m ((s.core m).reach t) := by
  unfold State.settle Core.settled
  rw [h, hh]
  generalize hc : s.core m = c at *
  cases c
  simp only at h
  subst h
  rfl

end Sys2Proof.Machine
end

