-- ==== Sys2Proof/Laws/Memory.lean ====
section
/-! SUPPORT. What a byte memory reads after a write, and that every operation keeps its canonical form. -/

namespace Sys2Proof.Machine

theorem Memory.read_below {lo a : Nat} {m : Memory} (h : Memory.wfFrom lo m = true) (ha : a < lo) : Memory.read m a = Memory.blank := by
  induction m generalizing lo with
  | nil => rfl
  | cons x r ih =>
    obtain ⟨k, b⟩ := x
    simp [Memory.wfFrom] at h
    have : k ≠ a := by omega
    simp [Memory.read, this]
    exact ih h.2 (by omega)

theorem Memory.wfFrom_mono {lo lo' : Nat} {m : Memory} (h : Memory.wfFrom lo m = true) (hl : lo' ≤ lo) : Memory.wfFrom lo' m = true := by
  cases m with
  | nil => rfl
  | cons x r =>
    obtain ⟨k, b⟩ := x
    simp [Memory.wfFrom] at h ⊢
    exact ⟨⟨by omega, h.1.2⟩, h.2⟩

theorem Memory.wfFrom_write {lo a : Nat} {m : Memory} {b : Byte} (h : Memory.wfFrom lo m = true) (ha : lo ≤ a) :
    Memory.wfFrom lo (Memory.write m a b) = true := by
  induction m generalizing lo with
  | nil =>
    unfold Memory.write
    split
    · rfl
    · rename_i hb
      simp [Memory.wfFrom, ha, hb]
  | cons x r ih =>
    obtain ⟨k, c⟩ := x
    have hh := h
    simp [Memory.wfFrom] at h
    unfold Memory.write
    split
    · split
      · exact hh
      · rename_i hk hb
        simp [Memory.wfFrom, ha, hb, h.1.2, h.2]
        omega
    · split
      · rename_i hk
        subst hk
        split
        · exact Memory.wfFrom_mono h.2 (by omega)
        · rename_i hb
          simp [Memory.wfFrom, ha, hb, h.2]
      · simp [Memory.wfFrom, h.1.1, h.1.2]
        exact ih h.2 (by omega)

/-- A write keeps the canonical form. -/
theorem Memory.wf_write {m : Memory} (a : Nat) (b : Byte) (h : Memory.wf m = true) : Memory.wf (Memory.write m a b) = true :=
  Memory.wfFrom_write h (Nat.zero_le a)

/-- A write of many bytes keeps the canonical form. -/
theorem Memory.wf_writeN {m : Memory} (a v n : Nat) (h : Memory.wf m = true) : Memory.wf (Memory.writeN m a v n) = true := by
  induction n generalizing m a v with
  | zero => exact h
  | succ n ih => exact ih _ _ (Memory.wf_write _ _ h)

theorem Memory.wfFrom_filter {lo : Nat} {m : Memory} (p : Host.Cell → Bool) (h : Memory.wfFrom lo m = true) : Memory.wfFrom lo (m.filter p) = true := by
  induction m generalizing lo with
  | nil => rfl
  | cons x r ih =>
    obtain ⟨k, b⟩ := x
    simp [Memory.wfFrom] at h
    have hr := ih h.2
    simp only [List.filter_cons]
    split
    · simp [Memory.wfFrom, h.1.1, h.1.2, hr]
    · exact Memory.wfFrom_mono hr (by omega)

/-- Clearing a range keeps the canonical form. -/
theorem Memory.wf_clear {m : Memory} (a n : Nat) (h : Memory.wf m = true) : Memory.wf (Memory.clear m a n) = true := Memory.wfFrom_filter _ h

theorem Memory.wf_nil : Memory.wf [] = true := rfl

/-- A byte written reads back. -/
theorem Memory.read_write_same {m : Memory} (a : Nat) (b : Byte) (h : Memory.wf m = true) : Memory.read (Memory.write m a b) a = b := by
  suffices H : ∀ lo, Memory.wfFrom lo m = true → Memory.read (Memory.write m a b) a = b from H 0 h
  clear h
  induction m with
  | nil =>
    intro lo _
    unfold Memory.write
    split
    · rename_i hb; simp [Memory.read, hb]
    · simp [Memory.read]
  | cons x r ih =>
    obtain ⟨k, c⟩ := x
    intro lo h
    have hh := h
    simp [Memory.wfFrom] at h
    unfold Memory.write
    split
    · rename_i hk
      split
      · rename_i hb
        have : k ≠ a := by omega
        simp [Memory.read, this, hb]
        exact Memory.read_below h.2 (by omega)
      · simp [Memory.read]
    · split
      · rename_i hk
        subst hk
        split
        · rename_i hb
          rw [hb]
          exact Memory.read_below h.2 (by omega)
        · simp [Memory.read]
      · rename_i h1 h2
        have : k ≠ a := fun e => h2 e.symm
        simpa [Memory.read, this] using ih _ h.2

/-- A write leaves every other byte alone. -/
theorem Memory.read_write_ne {m : Memory} {a j : Nat} (b : Byte) (hj : j ≠ a) : Memory.read (Memory.write m a b) j = Memory.read m j := by
  induction m with
  | nil =>
    unfold Memory.write
    split
    · rfl
    · simp [Memory.read, Ne.symm hj]
  | cons x r ih =>
    obtain ⟨k, c⟩ := x
    unfold Memory.write
    split
    · split
      · rfl
      · simp [Memory.read, Ne.symm hj]
    · split
      · rename_i hk
        subst hk
        split
        · simp [Memory.read, Ne.symm hj]
        · simp [Memory.read, Ne.symm hj]
      · by_cases e : k = j
        · simp [Memory.read, e]
        · simpa [Memory.read, e] using ih

/-- A write of `n` bytes leaves every byte outside them alone. -/
theorem Memory.read_writeN_outside {m : Memory} (a v n : Nat) {j : Nat} (h : j < a ∨ a + n ≤ j) : Memory.read (Memory.writeN m a v n) j = Memory.read m j := by
  induction n generalizing m a v with
  | zero => rfl
  | succ n ih =>
    unfold Memory.writeN
    rw [ih (a + 1) (v / 256) (by omega), Memory.read_write_ne _ (by omega)]

end Sys2Proof.Machine
end

