-- ==== Sys2Proof/Laws/Pad.lean ====
section
/-! SUPPORT. What a scratchpad read and a scratchpad write do when they meet no violation (05 Table 5.6). -/

namespace Sys2Proof.Machine

/-- An access resolves by the handle table and the context's base and count alone. -/
theorem Core.resolve_congr {c d : Core} {i : Nat} (hh : d.handles = c.handles) (hx : d.tc i = c.tc i) (h byte len : Nat) (wr : Bool) (mode : Nat) :
    d.resolve i h byte len wr mode = c.resolve i h byte len wr mode := by
  simp [Core.resolve, Core.handleAt, hh, hx]

theorem Core.tell_setTell (c : Core) (j k : Nat) (t : Tell) : (c.setTell k t).tell j = if j = k then t else c.tell j := by
  simp [Core.setTell, Core.tell, AMap.at_put]

/-- What emptying a slot does: the fc still sees every slot as it found it, and no telltale but the slot's changes. -/
theorem Core.emptySlot_eff (c : Core) (slot : Nat) :
    { c.emptySlot slot with tells := c.tells, taken := c.taken } = c ∧ (∀ j, (c.emptySlot slot).seenTell j = c.seenTell j) ∧
    (∀ j, (c.emptySlot slot).tell j = if j = slot ∧ (AMap.find c.taken j).isNone then { c.tell j with st := .empty } else c.tell j) ∧
    ∀ j, j ≠ slot → AMap.find (c.emptySlot slot).taken j = AMap.find c.taken j := by
  unfold Core.emptySlot
  split
  · rename_i h
    refine ⟨rfl, fun _ => rfl, ?_, fun _ _ => rfl⟩
    intro j
    by_cases e : j = slot
    · subst e
      have : ¬ (AMap.find c.taken j).isNone := by simp only [Option.isSome_iff_exists] at h; obtain ⟨x, hx⟩ := h; simp [hx]
      simp [this]
    · simp [e]
  · rename_i h
    have hn : AMap.find c.taken slot = none := by simpa using h
    refine ⟨rfl, ?_, ?_, ?_⟩
    · intro j
      by_cases e : j = slot
      · subst e
        simp only [Core.seenTell, AMap.at_eq_find, AMap.find_put_same, Option.getD_some, hn, Option.getD_none]
      · have ht : ({ c.setTell slot { c.tell slot with st := .empty } with taken := AMap.put c.taken slot (c.tell slot) } : Core).tell j = c.tell j := by
          have := Core.tell_setTell c j slot { c.tell slot with st := .empty }
          rw [if_neg e] at this
          exact this
        simp only [Core.seenTell, ht]
        rw [AMap.at_put_ne _ _ _ e]
    · intro j
      have := Core.tell_setTell c j slot { c.tell slot with st := .empty }
      refine Eq.trans this ?_
      by_cases e : j = slot
      · subst e; simp [hn]
      · simp [e]
    · intro j e
      exact AMap.find_put_ne _ _ e

/-- A read of one good slot. -/
theorem Core.readSlot_good {c : Core} {slot : Nat} {x : Byte} (ph : Nat) (take : Bool) (hs : (c.seenTell slot).st = .full ∨ (c.seenTell slot).st = .held)
    (ht : (c.seenTell slot).tag = x) :
    ∃ d, c.readSlot ph slot x take = (d, false, none) ∧ { d with tells := c.tells, taken := c.taken } = c ∧ (∀ j, d.seenTell j = c.seenTell j) ∧
      (∀ j, d.tell j = if j = slot then c.readTell take j else c.tell j) ∧ ∀ j, j ≠ slot → AMap.find d.taken j = AMap.find c.taken j := by
  have same : ∀ (p : Prop) [Decidable p] (j : Nat), (if p then c.tell j else c.tell j) = c.tell j := fun p _ j => ite_self _
  rcases hs with h | h
  · cases take
    · refine ⟨c, by simp [Core.readSlot, h, ht], rfl, fun _ => rfl, ?_, fun _ _ => rfl⟩
      intro j; simp [Core.readTell]
    · obtain ⟨h1, h2, h3, h4⟩ := Core.emptySlot_eff c slot
      refine ⟨c.emptySlot slot, by simp [Core.readSlot, h, ht], h1, h2, ?_, h4⟩
      intro j
      rw [h3]
      by_cases e : j = slot
      · subst e; simp [Core.readTell, h]
      · simp [e]
  · refine ⟨c, by simp [Core.readSlot, h, ht], rfl, fun _ => rfl, ?_, fun _ _ => rfl⟩
    intro j
    by_cases e : j = slot
    · subst e; simp [Core.readTell, h]
    · simp [e]

/-- Good slots read one after another. -/
theorem readSlots_good (ph : Nat) (x : Byte) (take : Bool) (n : Nat) : ∀ (slot : Nat) (r : ReadOut), r.poison = false → r.viol = none →
    (∀ j, slot ≤ j → j < slot + n → ((r.core.seenTell j).st = .full ∨ (r.core.seenTell j).st = .held) ∧ (r.core.seenTell j).tag = x) →
    let r' := readSlots ph x take n slot r
    r'.poison = false ∧ r'.viol = none ∧ { r'.core with tells := r.core.tells, taken := r.core.taken } = r.core ∧ (∀ j, r'.core.seenTell j = r.core.seenTell j) ∧
      (∀ j, r'.core.tell j = if slot ≤ j ∧ j < slot + n then r.core.readTell take j else r.core.tell j) := by
  induction n with
  | zero =>
    intro slot r hp hv _
    refine ⟨hp, hv, rfl, fun _ => rfl, ?_⟩
    intro j
    have : ¬ (slot ≤ j ∧ j < slot + 0) := by omega
    rw [if_neg this]
    rfl
  | succ n ih =>
    intro slot r hp hv hg
    obtain ⟨d, hd, hc, hsn, hj, htk⟩ := Core.readSlot_good (c := r.core) ph take (hg slot (Nat.le_refl _) (by omega)).1 (hg slot (Nat.le_refl _) (by omega)).2
    have e : readSlots ph x take (n + 1) slot r = readSlots ph x take n (slot + 1) ⟨d, r.data, r.poison || false, r.viol⟩ := by
      simp only [readSlots, hd, hv]
    rw [e]
    have hg' : ∀ j, slot + 1 ≤ j → j < slot + 1 + n → ((d.seenTell j).st = .full ∨ (d.seenTell j).st = .held) ∧ (d.seenTell j).tag = x := by
      intro j h1 h2
      rw [hsn]
      exact hg j (by omega) (by omega)
    obtain ⟨h1, h2, h3, h5, h4⟩ := ih (slot + 1) ⟨d, r.data, r.poison || false, r.viol⟩ (by simp [hp]) hv hg'
    refine ⟨h1, h2, ?_, fun j => (h5 j).trans (hsn j), ?_⟩
    · exact (congrArg (fun c : Core => { c with tells := r.core.tells, taken := r.core.taken }) h3).trans hc
    · intro j
      rw [h4]
      by_cases hs : j = slot
      · subst hs
        have : ¬ (j + 1 ≤ j ∧ j < j + 1 + n) := by omega
        simp [this, hj]
      · have e1 : d.tell j = r.core.tell j := by rw [hj]; simp [hs]
        have e2 : d.readTell take j = r.core.readTell take j := by simp only [Core.readTell, hsn, htk j hs, e1]
        simp only [e1, e2]
        by_cases c : slot ≤ j ∧ j < slot + (n + 1)
        · rw [if_pos c, if_pos (by omega)]
        · rw [if_neg c, if_neg (by omega)]

theorem maskedBytes_good (m : Memory) (bad : Nat → Bool) (n : Nat) : ∀ a, (∀ b, a ≤ b → b < a + n → bad (b / 64) = false) → maskedBytes m bad a n = Memory.readN m a n := by
  induction n with
  | zero => intro a _; rfl
  | succ n ih =>
    intro a h
    rw [maskedBytes, Memory.readN, h a (Nat.le_refl _) (by omega), ih (a + 1) (fun b h1 h2 => h b (by omega) (by omega))]
    simp

/-- A read that meets no violation gives the bytes, empties the FULL slots it takes, and changes nothing else. -/
theorem Core.readBytes_well {c : Core} {i h byte len tag : Nat} {take : Bool} {ph a : Nat} (hl : 0 < len)
    (hr : c.resolve i h byte len false (b2n take) = .ok (ph, a))
    (hg : ∀ j, a / 64 ≤ j → j ≤ (a + len - 1) / 64 → ((c.seenTell j).st = .full ∨ (c.seenTell j).st = .held) ∧ (c.seenTell j).tag = tagOf (c.tc i).seq tag) :
    ∃ d, c.readBytes i h byte len tag take = ⟨d, Memory.readN c.pad a len, false, none⟩ ∧ { d with tells := c.tells, taken := c.taken } = c ∧
      (∀ j, d.seenTell j = c.seenTell j) ∧ ∀ j, d.tell j = if a / 64 ≤ j ∧ j ≤ (a + len - 1) / 64 then c.readTell take j else c.tell j := by
  have hn : a / 64 ≤ (a + len - 1) / 64 := Nat.div_le_div_right (by omega)
  obtain ⟨h1, h2, h3, h5, h4⟩ := readSlots_good ph (tagOf (c.tc i).seq tag) take ((a + len - 1) / 64 - a / 64 + 1) (a / 64) ⟨c, 0, false, none⟩ rfl rfl
    (fun j p q => hg j p (by omega))
  refine ⟨(readSlots ph (tagOf (c.tc i).seq tag) take ((a + len - 1) / 64 - a / 64 + 1) (a / 64) ⟨c, 0, false, none⟩).core, ?_, h3, h5, ?_⟩
  · have hm : maskedBytes c.pad (fun slot => (c.readSlot ph slot (tagOf (c.tc i).seq tag) take).2.1) a len = Memory.readN c.pad a len := by
      apply maskedBytes_good
      intro b p q
      have b1 : a / 64 ≤ b / 64 := Nat.div_le_div_right p
      have b2 : b / 64 ≤ (a + len - 1) / 64 := Nat.div_le_div_right (by omega)
      obtain ⟨d, hd, -⟩ := Core.readSlot_good (c := c) ph take (hg _ b1 b2).1 (hg _ b1 b2).2
      simp [hd]
    simp only [Core.readBytes, hr, hm]
    generalize hz : readSlots ph (tagOf (c.tc i).seq tag) take ((a + len - 1) / 64 - a / 64 + 1) (a / 64) ⟨c, 0, false, none⟩ = z at *
    obtain ⟨zc, zd, zp, zv⟩ := z
    simp only at h1 h2
    subst h1 h2
    rfl
  · intro j
    rw [h4]
    have : (a / 64 ≤ j ∧ j < a / 64 + ((a + len - 1) / 64 - a / 64 + 1)) ↔ (a / 64 ≤ j ∧ j ≤ (a + len - 1) / 64) := by omega
    simp [this]

/-- What `n` bytes written from `a` up read as afterwards. -/
theorem Memory.read_writeN {m : Memory} (a v n : Nat) (h : Memory.wf m = true) (b : Nat) :
    Memory.read (Memory.writeN m a v n) b = if a ≤ b ∧ b < a + n then BitVec.ofNat 8 (v >>> (8 * (b - a))) else Memory.read m b := by
  induction n generalizing m a v with
  | zero =>
    have : ¬ (a ≤ b ∧ b < a + 0) := by omega
    rw [if_neg this]; rfl
  | succ n ih =>
    rw [Memory.writeN, ih _ _ (Memory.wf_write a _ h)]
    by_cases e : b = a
    · subst e
      have h1 : ¬ (b + 1 ≤ b ∧ b < b + 1 + n) := by omega
      have h2 : b ≤ b ∧ b < b + (n + 1) := by omega
      rw [if_neg h1, if_pos h2, Memory.read_write_same _ _ h]
      simp
    · by_cases e2 : a ≤ b ∧ b < a + (n + 1)
      · have h1 : a + 1 ≤ b ∧ b < a + 1 + n := by omega
        rw [if_pos h1, if_pos e2]
        have : 8 * (b - a) = 8 + 8 * (b - (a + 1)) := by omega
        rw [this, Nat.shiftRight_add]
        simp [Nat.shiftRight_eq_div_pow]
      · have h1 : ¬ (a + 1 ≤ b ∧ b < a + 1 + n) := by omega
        rw [if_neg h1, if_neg e2, Memory.read_write_ne _ e]

/-- A write of one EMPTY slot under no fence. -/
theorem Core.writeSlot_good {c : Core} {slot : Nat} (ph : Nat) (x : Byte) (hold : Bool) (d : Slot) (poison : Bool) (hs : (c.tell slot).st = .empty)
    (hf : c.fenced slot = false) :
    ∃ c1, c.writeSlot ph slot x hold d poison = (c1, none) ∧ c1.pad = Memory.writeN c.pad (64 * slot) d.toNat 64 ∧
      (∀ j, c1.tell j = if j = slot then ⟨if poison then .poison else if hold then .held else .full, x⟩ else c.tell j) ∧
      { c1 with pad := c.pad, tells := c.tells } = c ∧ ∀ j, c1.fenced j = c.fenced j := by
  have e : c.writeSlot ph slot x hold d poison = ({ c with pad := Memory.writeN c.pad (64 * slot) d.toNat 64 }.setTell slot
      ⟨if poison then .poison else if hold then .held else .full, x⟩, none) := by
    simp [Core.writeSlot, hs, hf]
  rw [e]
  generalize Memory.writeN c.pad (64 * slot) d.toNat 64 = m
  refine ⟨_, rfl, rfl, ?_, rfl, fun _ => rfl⟩
  intro j
  rw [Core.tell_setTell]
  rfl

/-- Good slots written one after another. -/
theorem writeSlots_good (ph : Nat) (x : Byte) (hold poison : Bool) (n : Nat) : ∀ (slot d : Nat) (c : Core), Memory.wf c.pad = true →
    (∀ j, slot ≤ j → j < slot + n → (c.tell j).st = .empty ∧ c.fenced j = false) →
    let r := writeSlots ph x hold poison n slot d (c, none)
    r.2 = none ∧ { r.1 with pad := c.pad, tells := c.tells } = c ∧ Memory.wf r.1.pad = true ∧
      (∀ b, Memory.read r.1.pad b = if 64 * slot ≤ b ∧ b < 64 * slot + 64 * n then BitVec.ofNat 8 (d >>> (8 * (b - 64 * slot))) else Memory.read c.pad b) ∧
      ∀ j, r.1.tell j = if slot ≤ j ∧ j < slot + n then ⟨if poison then .poison else if hold then .held else .full, x⟩ else c.tell j := by
  induction n with
  | zero =>
    intro slot d c hw _
    refine ⟨rfl, rfl, hw, ?_, ?_⟩
    · intro b
      have : ¬ (64 * slot ≤ b ∧ b < 64 * slot + 64 * 0) := by omega
      rw [if_neg this]; rfl
    · intro j
      have : ¬ (slot ≤ j ∧ j < slot + 0) := by omega
      rw [if_neg this]; rfl
  | succ n ih =>
    intro slot d c hw hg
    obtain ⟨c1, h0, hpad, htell, hrest, hfen⟩ := Core.writeSlot_good (c := c) ph x hold (BitVec.ofNat 512 d) poison (hg slot (Nat.le_refl _) (by omega)).1
      (hg slot (Nat.le_refl _) (by omega)).2
    have e : writeSlots ph x hold poison (n + 1) slot d (c, none) = writeSlots ph x hold poison n (slot + 1) (d >>> 512) (c1, none) := by
      rw [writeSlots, h0]
    rw [e]
    obtain ⟨h1, h2, h3, h4, h5⟩ := ih (slot + 1) (d >>> 512) c1 (by rw [hpad]; exact Memory.wf_writeN _ _ _ hw) (by
      intro j p q
      rw [htell, hfen, if_neg (by omega : j ≠ slot)]
      exact hg j (by omega) (by omega))
    refine ⟨h1, (congrArg (fun z : Core => { z with pad := c.pad, tells := c.tells }) h2).trans hrest, h3, ?_, ?_⟩
    · intro b
      rw [h4, hpad, Memory.read_writeN _ _ _ hw]
      by_cases p : 64 * slot ≤ b ∧ b < 64 * slot + 64
      · have p1 : ¬ (64 * (slot + 1) ≤ b ∧ b < 64 * (slot + 1) + 64 * n) := by omega
        have p2 : 64 * slot ≤ b ∧ b < 64 * slot + 64 * (n + 1) := by omega
        rw [if_neg p1, if_pos p, if_pos p2]
        apply BitVec.eq_of_toNat_eq
        simp only [BitVec.toNat_ofNat, Nat.shiftRight_eq_div_pow]
        have hk : 8 * (b - 64 * slot) ≤ 504 := by omega
        generalize 8 * (b - 64 * slot) = k at hk
        apply Nat.eq_of_testBit_eq
        intro i
        have t512 : ∀ m, Nat.testBit (d % 2 ^ 512) m = (decide (m < 512) && d.testBit m) := fun m => Nat.testBit_mod_two_pow ..
        simp only [Nat.testBit_mod_two_pow, ← Nat.shiftRight_eq_div_pow, Nat.testBit_shiftRight, t512]
        by_cases hi : i < 8
        · have : k + i < 512 := by omega
          simp [hi, this]
        · simp [hi]
      · by_cases p2 : 64 * slot ≤ b ∧ b < 64 * slot + 64 * (n + 1)
        · have p1 : 64 * (slot + 1) ≤ b ∧ b < 64 * (slot + 1) + 64 * n := by omega
          rw [if_pos p1, if_pos p2, ← Nat.shiftRight_add]
          congr 2
          omega
        · have p1 : ¬ (64 * (slot + 1) ≤ b ∧ b < 64 * (slot + 1) + 64 * n) := by omega
          rw [if_neg p1, if_neg p, if_neg p2]
    · intro j
      rw [h5, htell]
      by_cases p : j = slot
      · have p1 : ¬ (slot + 1 ≤ j ∧ j < slot + 1 + n) := by omega
        have p2 : slot ≤ j ∧ j < slot + (n + 1) := by omega
        rw [if_neg p1, if_pos p, if_pos p2]
      · have p2 : (slot + 1 ≤ j ∧ j < slot + 1 + n) ↔ (slot ≤ j ∧ j < slot + (n + 1)) := by omega
        simp only [p2, if_neg p]

/-- A write that meets no violation stores whole slots, sets their telltales, and changes nothing else. -/
theorem Core.writeAt_well {c : Core} {i h byte n d : Nat} {x : Byte} {hold poison : Bool} {ph a : Nat} (hw : Memory.wf c.pad = true)
    (hr : c.resolve i h byte (64 * n) true (if hold then 3 else 2) = .ok (ph, a))
    (hg : ∀ j, a / 64 ≤ j → j < a / 64 + n → (c.tell j).st = .empty ∧ c.fenced j = false) :
    let r := c.writeAt i h byte n x hold d poison
    r.2 = none ∧ { r.1 with pad := c.pad, tells := c.tells } = c ∧ Memory.wf r.1.pad = true ∧
      (∀ b, Memory.read r.1.pad b =
        if 64 * (a / 64) ≤ b ∧ b < 64 * (a / 64) + 64 * n then BitVec.ofNat 8 (d >>> (8 * (b - 64 * (a / 64)))) else Memory.read c.pad b) ∧
      ∀ j, r.1.tell j = if a / 64 ≤ j ∧ j < a / 64 + n then ⟨if poison then .poison else if hold then .held else .full, x⟩ else c.tell j := by
  have e : c.writeAt i h byte n x hold d poison = writeSlots ph x hold poison n (a / 64) d (c, none) := by simp [Core.writeAt, hr]
  rw [e]
  exact writeSlots_good ph x hold poison n (a / 64) d c hw hg

end Sys2Proof.Machine
end

