-- ==== Sys2Proof/Laws/Late.lean ====
section
/-! SUPPORT. What writes on their way to the bank do when they reach it (05 R99, R102, R110). -/

namespace Sys2Proof.Machine

/-- The accesses of a write of `n` slots, made `step` fc after one another from fc t on. -/
def slotAccs (ctx ord no ph : Nat) (x : Byte) (hold poison : Bool) (step : Nat) : Nat → Nat → Nat → Nat → List SlotAcc
  | 0, _, _, _ => []
  | n + 1, slot, d, t => ⟨t, ord, ctx, no, .write slot ph x hold (BitVec.ofNat 512 d) poison⟩ :: slotAccs ctx ord no ph x hold poison step n (slot + 1) (d >>> 512) (t + step)

/-- An access no earlier than every other goes last. -/
theorem insertAcc_last (a : SlotAcc) (l : List SlotAcc) (h : ∀ b ∈ l, b.key ≤ a.key) : insertAcc a l = l ++ [a] := by
  induction l with
  | nil => rfl
  | cons b r ih =>
    have hb : ¬ a.key < b.key := Nat.not_lt.mpr (h b (List.mem_cons_self ..))
    rw [insertAcc, if_neg hb, ih (fun c hc => h c (List.mem_cons_of_mem _ hc))]
    rfl

/-- Writes queued behind everything that is on its way. -/
theorem queueWrites_eq (ctx ord no ph : Nat) (x : Byte) (hold poison : Bool) (step n : Nat) : ∀ (slot d t : Nat) (c : Core), (∀ b ∈ c.late, b.key ≤ 16 * t + 8 + ord % 8) →
    queueWrites ctx ord no ph x hold poison step n slot d t c = { c with late := c.late ++ slotAccs ctx ord no ph x hold poison step n slot d t } := by
  induction n with
  | zero => intro slot d t c _; simp [queueWrites, slotAccs]
  | succ n ih =>
    intro slot d t c h
    have e : c.queue ⟨t, ord, ctx, no, .write slot ph x hold (BitVec.ofNat 512 d) poison⟩ =
        { c with late := c.late ++ [⟨t, ord, ctx, no, .write slot ph x hold (BitVec.ofNat 512 d) poison⟩] } := by
      rw [Core.queue, insertAcc_last _ _ h]
    rw [queueWrites, e, ih]
    · simp [slotAccs]
    · intro b hb
      rcases List.mem_append.mp hb with hb | hb
      · exact Nat.le_trans (h b hb) (by omega)
      · rw [List.mem_singleton.mp hb]
        simp only [SlotAcc.key]
        omega

theorem slotAccs_length (ctx ord no ph : Nat) (x : Byte) (hold poison : Bool) (step n slot d t : Nat) :
    (slotAccs ctx ord no ph x hold poison step n slot d t).length = n := by
  induction n generalizing slot d t with
  | zero => rfl
  | succ n ih => simp [slotAccs, ih]

/-- A core whose reads of this fc are forgotten, or set otherwise; a write looks at none of them (R110). -/
def Core.atFc (c : Core) (n : Nat) (k : AMap Tell) : Core := { c with seen := n, taken := k }

theorem Core.reach_eq (c : Core) (t : Nat) : ∃ n k, c.reach t = c.atFc n k := by
  unfold Core.reach
  split
  · exact ⟨c.seen, c.taken, rfl⟩
  · exact ⟨t, [], rfl⟩

theorem Core.writeSlot_atFc (c : Core) (ph slot : Nat) (x : Byte) (hold : Bool) (d : Slot) (poison : Bool) (n : Nat) (k : AMap Tell) :
    (c.atFc n k).writeSlot ph slot x hold d poison = ((c.writeSlot ph slot x hold d poison).1.atFc n k, (c.writeSlot ph slot x hold d poison).2) := by
  have h1 : (c.atFc n k).tell slot = c.tell slot := rfl
  have h2 : (c.atFc n k).fenced slot = c.fenced slot := rfl
  by_cases h : (c.tell slot).st ≠ .empty ∨ c.fenced slot = true
  · simp only [Core.writeSlot, h1, h2, if_pos h]
  · have h3 : (c.atFc n k).pad = c.pad := rfl
    simp only [Core.writeSlot, h1, h2, if_neg h, h3]
    generalize Memory.writeN c.pad (64 * slot) d.toNat 64 = m
    rfl

theorem writeSlots_atFc (ph : Nat) (x : Byte) (hold poison : Bool) (i : Nat) (m : AMap Tell) (n : Nat) : ∀ (slot d : Nat) (c : Core) (v : Option Viol),
    (writeSlots ph x hold poison n slot d (c.atFc i m, v)).1 = (writeSlots ph x hold poison n slot d (c, v)).1.atFc i m := by
  induction n with
  | zero => intro slot d c v; rfl
  | succ n ih =>
    intro slot d c v
    simp only [writeSlots, Core.writeSlot_atFc, ih]

/-- Writes of good slots that have reached their bank have stored what they carry, and raised nothing. -/
theorem settleGo_slotAccs (ctx ord no ph : Nat) (x : Byte) (hold poison : Bool) (step u n : Nat) : ∀ (N slot d t : Nat) (c : Core) (vs : List (Nat × Viol × Nat)),
    n ≤ N → c.late = slotAccs ctx ord no ph x hold poison step n slot d t → t + step * n < u →
    (∀ j, slot ≤ j → j < slot + n → (c.tell j).st = .empty ∧ c.fenced j = false) →
    ∃ i k, Core.settleGo u N (c, vs) = ((writeSlots ph x hold poison n slot d ({ c with late := [] }, none)).1.atFc i k, vs) := by
  induction n with
  | zero =>
    intro N slot d t c vs _ hl _ _
    have hl' : c.late = [] := hl
    have hc : ({ c with late := [] } : Core).atFc c.seen c.taken = c := by rw [← hl']; rfl
    refine ⟨c.seen, c.taken, ?_⟩
    cases N <;> simp [Core.settleGo, hl', writeSlots, hc]
  | succ n ih =>
    intro N slot d t c vs hN hl hu hg
    obtain ⟨N, rfl⟩ : ∃ M, N = M + 1 := ⟨N - 1, by omega⟩
    have ht : t < u := by
      have : 0 ≤ step * (n + 1) := Nat.zero_le _
      omega
    have hu' : t + step + step * n < u := by
      rw [Nat.mul_succ] at hu
      omega
    obtain ⟨h1, h2⟩ := hg slot (Nat.le_refl _) (by omega)
    generalize hq : slotAccs ctx ord no ph x hold poison step n (slot + 1) (d >>> 512) (t + step) = r at *
    rw [slotAccs, hq] at hl
    obtain ⟨i0, k0, hr⟩ := Core.reach_eq ({ c with late := r } : Core) t
    have g1 : (({ c with late := r } : Core).tell slot).st = .empty := h1
    have g2 : ({ c with late := r } : Core).fenced slot = false := h2
    have k1 : ((({ c with late := [] } : Core)).tell slot).st = .empty := h1
    have k2 : ({ c with late := [] } : Core).fenced slot = false := h2
    obtain ⟨c1, w1, -, w3, w4, w5⟩ := Core.writeSlot_good (c := { c with late := r }) ph x hold (BitVec.ofNat 512 d) poison g1 g2
    have hc1 : c1.late = r := congrArg Core.late w4
    have w0 : ({ c with late := [] } : Core).writeSlot ph slot x hold (BitVec.ofNat 512 d) poison = ({ c1 with late := [] }, none) := by
      have : c1 = (({ c with late := r } : Core).writeSlot ph slot x hold (BitVec.ofNat 512 d) poison).1 := by rw [w1]
      rw [this]
      simp [Core.writeSlot, k1, k2, g1, g2, Core.setTell]
    have e : (({ c with late := r } : Core).reach t).act ⟨t, ord, ctx, no, .write slot ph x hold (BitVec.ofNat 512 d) poison⟩ = (c1.atFc i0 k0, []) := by
      simp only [hr, Core.act, Core.writeSlot_atFc, w1, Core.raised]
    obtain ⟨i1, k1', hi⟩ := ih N (slot + 1) (d >>> 512) (t + step) (c1.atFc i0 k0) vs (by omega) (by rw [hq]; exact hc1) hu' (by
      intro j p p2
      have e1 : (c1.atFc i0 k0).tell j = c1.tell j := rfl
      have e2 : (c1.atFc i0 k0).fenced j = c1.fenced j := rfl
      rw [e1, e2, w3, w5, if_neg (by omega : j ≠ slot)]
      exact hg j (by omega) (by omega))
    refine ⟨i1, k1', ?_⟩
    have e3 : ({ c1.atFc i0 k0 with late := [] } : Core) = ({ c1 with late := [] } : Core).atFc i0 k0 := rfl
    simp only [Core.settleGo, hl, ht, if_true, e, List.append_nil]
    rw [hi, e3, writeSlots_atFc, writeSlots, w0]
    rfl

/-- A hand-over changes no retire fence. -/
theorem Core.fenced_handOver (c : Core) (t j : Nat) : ({ c with sails := c.sails.map (fun y => y.handOver t) } : Core).fenced j = c.fenced j := by
  have h : ∀ y : Sail, (y.handOver t).tile = y.tile := by
    intro y
    unfold Sail.handOver
    split
    · split <;> rfl
    · rfl
  simp [Core.fenced, Vector.toList_map, List.any_map, Function.comp_def, h]

/-- Where nothing but a write of good slots is on its way, the module that a later access of the core finds has the slots written. -/
theorem settle_slotAccs {s : State} {m ctx ord no ph n slot d t u step : Nat} {x : Byte} {hold poison : Bool}
    (hl : (s.core m).late = slotAccs ctx ord no ph x hold poison step n slot d t) (hw : Memory.wf (s.core m).pad = true) (hu : t + step * n < u)
    (hg : ∀ j, slot ≤ j → j < slot + n → ((s.core m).tell j).st = .empty ∧ (s.core m).fenced j = false) :
    (∀ b, Memory.read ((s.settle m u).core m).pad b =
      if 64 * slot ≤ b ∧ b < 64 * slot + 64 * n then BitVec.ofNat 8 (d >>> (8 * (b - 64 * slot))) else Memory.read (s.core m).pad b) ∧
    ∀ j, ((s.settle m u).core m).tell j =
      if slot ≤ j ∧ j < slot + n then ⟨if poison then .poison else if hold then .held else .full, x⟩ else (s.core m).tell j := by
  have hlen : (s.core m).late.length = n := by rw [hl, slotAccs_length]
  have e := settleGo_slotAccs ctx ord no ph x hold poison step u n (2 * (s.core m).late.length) slot d t
    { s.core m with sails := (s.core m).sails.map (fun y => y.handOver u) } [] (by omega) hl hu (by
      intro j p p2
      rw [Core.fenced_handOver]
      exact hg j p p2)
  obtain ⟨-, h2, -, h4, h5⟩ := writeSlots_good ph x hold poison n slot d
    { s.core m with sails := (s.core m).sails.map (fun y => y.handOver u), late := [] } hw (by
      intro j p p2
      refine ⟨(hg j p p2).1, ?_⟩
      have := Core.fenced_handOver (s.core m) u j
      exact this.trans (hg j p p2).2)
  obtain ⟨i1, k1, e⟩ := e
  obtain ⟨i2, k2, hr⟩ := Core.reach_eq ((writeSlots ph x hold poison n slot d
    ({ s.core m with sails := (s.core m).sails.map (fun y => y.handOver u), late := [] }, none)).1.atFc i1 k1) u
  have es : s.settle m u = s.setCore m (((writeSlots ph x hold poison n slot d
      ({ s.core m with sails := (s.core m).sails.map (fun y => y.handOver u), late := [] }, none)).1.atFc i1 k1).atFc i2 k2) := by
    unfold State.settle Core.settled
    rw [e]
    simp only [hr]
    rfl
  rw [es, State.core_setCore_same]
  exact ⟨h4, h5⟩

end Sys2Proof.Machine
end

