-- ==== Sys2Proof/Tests/Slice0.lean ====
section
/-! SUPPORT. Tests: for each statement a state and operands that meet its hypotheses, with a field or two of what the command leaves, and ill-formed commands that
the checks of WellFormed refuse. -/

open Sys2Proof Sys2Proof.Machine
namespace Sys2Proof.Tests

set_option Elab.async false

/-! ### Small states -/

/-- A word of `n` bits from (place, value) pairs. -/
def word (n : Nat) (l : List (Nat × Nat)) : BitVec n := BitVec.ofNat n (l.foldl (fun a p => a + p.2 * 2 ^ p.1) 0)

/-- An operand of handle 0 at bit `lo`: offset in 16-byte units, tag selection, mode (Table 8.2). -/
def spo (lo ofs tag mode : Nat) : List (Nat × Nat) := [(lo + 5, ofs), (lo + 19, tag), (lo + 21, mode)]

/-- A core whose TC0 has handle 0, a block of the whole of bank 0, a tracker quota of 2, and every cycle of the vector pattern. -/
def core0 : Core := {
  ctx := (Vector.replicate 4 {}).set 0 { loaded := true, tcnt := 1, quota := 2, s := (Vector.replicate 32 {}).set 1 ⟨5#64, false⟩ }
  handles := Vector.replicate 32 0x0C000000#32
  pattern := Vector.replicate 16 0 }

/-- The core with TC0 changed. -/
def Core.ctx0 (c : Core) (f : Ctx → Ctx) : Core := c.setTc 0 (f (c.tc 0))

/-- The core with a scalar register of TC0 set. -/
def Core.sReg (c : Core) (r : Fin 32) (v : Dword) : Core := Core.ctx0 c (fun x => { x with s := x.s.set r ⟨v, false⟩ })

/-- The core with a vector register of TC0 set. -/
def Core.vReg (c : Core) (r : Fin 32) (v : VWord) : Core := Core.ctx0 c (fun x => { x with v := x.v.set r ⟨v, false⟩ })

/-- The first `n` slots of the scratchpad FULL with tag 0x01. -/
def Core.fill (c : Core) (n : Nat) : Core := { c with tells := (List.range n).map (fun j => (j, ⟨.full, 1#8⟩)) }

/-- A module in the step of partition 0, which owns field 0, with `c` as its core 0. -/
def mod (c : Core) : State := {
  pending := [], cores := [(0, c)], parts := [(0, { en := true, grp := { stepping := true, inStep := true } })]
  fab := { fields := [(0, { owned := true, mode := .normal })] } }

/-- TC0 of core 0 from schedule cycle 0 on. -/
def q0 : Issue := ⟨0, 0, 0⟩

/-- What a command leaves; the state before it, where it stops. -/
def after (c : Instr) (s : State) : State := match exec c s with | .next t => t | _ => s

/-- TC0 of core 0 after a command. -/
def tc0 (c : Instr) (s : State) : Ctx := ((after c s).core 0).tc 0

/-- The step's state, the one before it where it stops. -/
def stepped (s : State) : State := match step s with | .next t => t | _ => s

/-! ### Checks of the hypotheses -/

/-- The place that an address check allows, as data that can be compared. -/
def resolved {ε α : Type} (r : Except ε α) : Option α := match r with | .ok x => some x | .error _ => none

def refusedBy {ε α : Type} (r : Except ε α) : Option ε := match r with | .ok _ => none | .error e => some e

theorem resolved_ok {ε α : Type} {r : Except ε α} {x : α} (h : resolved r = some x) : r = .ok x := by
  cases r with
  | ok y => exact congrArg Except.ok (Option.some.inj h)
  | error _ => cases h

theorem refused_error {ε α : Type} {r : Except ε α} {e : ε} (h : refusedBy r = some e) : r = .error e := by
  cases r with
  | ok _ => cases h
  | error f => exact congrArg Except.error (Option.some.inj h)

/-- All of the slots of `len` bytes from `a` meet `f`. -/
theorem slots_all {a len : Nat} {f : Nat → Prop} (h : ∀ d, d < (a + len - 1) / 64 + 1 - a / 64 → f (a / 64 + d)) (j : Nat) (h1 : a / 64 ≤ j)
    (h2 : j ≤ (a + len - 1) / 64) : f j := by
  have := h (j - a / 64) (by omega)
  rwa [Nat.add_sub_cancel' h1] at this

theorem readsWell_of {q : Issue} {s : State} {o : Spo} {len ph a : Nat}
    (h : resolved ((s.core q.core).resolve q.ctx o.handle o.byte len false (b2n o.take)) = some (ph, a) ∧
      ∀ d, d < (a + len - 1) / 64 + 1 - a / 64 → (((s.core q.core).seenTell (a / 64 + d)).st = .full ∨ ((s.core q.core).seenTell (a / 64 + d)).st = .held) ∧
        ((s.core q.core).seenTell (a / 64 + d)).tag = tagOf ((s.core q.core).tc q.ctx).seq o.tag) : readsWell q s o len a :=
  ⟨⟨ph, resolved_ok h.1⟩, slots_all h.2⟩

theorem writesWell_of {q : Issue} {s : State} {o : Spo} {n ph a : Nat}
    (h : resolved ((s.core q.core).resolve q.ctx o.handle o.byte (64 * n) true o.mode) = some (ph, a)) : writesWell q s o n ph a := resolved_ok h

/-- Nothing is on its way to a core, and `n` slots from `k` on may be written. -/
abbrev roomAt (c : Core) (k n : Nat) : Prop := c.late = [] ∧ Memory.wf c.pad = true ∧ ∀ d, d < n → (c.tell (k + d)).st = .empty ∧ c.fenced (k + d) = false

/-- The first slot of a bundle issues in fc `k`, on a core with nothing on its way. -/
abbrev starts (s : State) (q : Issue) (vec : Bool) (rs vs : List Nat) (k : Nat) : Prop :=
  issueCycle s q vec rs vs = some k ∧ s = s.settle q.core k ∧ ((s.core q.core).tc q.ctx).bun = none ∧ (s.core q.core).bundleFits q.ctx k = true

theorem starts_issuesAt {s : State} {q : Issue} {vec : Bool} {rs vs : List Nat} {k : Nat} (h : starts s q vec rs vs k) : issuesAt s q vec rs vs k s := by
  refine ⟨h.1, h.2.1, ?_⟩
  rw [h.2.2.1]
  exact h.2.2.2

theorem still_of {c : Core} (h : c.late = [] ∧ ∀ i : Fin 4, (c.sails[i]).hand = none) : c.still := by
  refine ⟨h.1, fun i => ?_⟩
  by_cases hi : i < 4
  · have := h.2 ⟨i, hi⟩
    simpa [Core.sail, hi] using this
  · simp [Core.sail, hi]

/-- A core as the accesses made in fc 9999 find it. -/
def landed (c : Instr) (s : State) : Core := ((after c s).settle 0 9999).core 0

/-! ### The queue -/

theorem test_front_of_queue_runs : (stepped { mod core0 with pending := [.wstep q0 0x19#48] }).pending = [] ∧
    (((stepped { mod core0 with pending := [.wstep q0 0x19#48] }).core 0).tc 0).ended = true := by decide +kernel

theorem test_empty_queue_idles : State.reset.pending = [] ∧ step State.reset = .next State.reset := ⟨rfl, rfl⟩

/-! ### Formats (R54, R59) -/

theorem test_e8m0_ends : decE8M0 0 = .fin false 1 (-127) ∧ decE8M0 254 = .fin false 1 127 ∧ decE8M0 255 = .nan := by decide

theorem test_fjt2_elements : decElem 9 1 = .fin false 1 0 ∧ decElem 9 3 = .fin true 1 0 ∧ decElem 9 2 = .fin false 0 0 := by decide

/-! ### The control slot -/

def wAdd : BitVec 48 := word 48 [(0, 3), (6, 2), (11, 1), (16, 1)]

theorem test_sadd : starts (mod core0) q0 false (scalarRegs wAdd) [] 0 ∧ (tc0 (.sadd q0 wAdd) (mod core0)).sAt 2 = ⟨10#64, false⟩ := by decide +kernel

/-- The immediate form, SB's highest register aside: the lowest immediate, -2^25. -/
def wAddI : BitVec 48 := word 48 [(0, 3), (6, 31), (11, 1), (21, 1), (47, 1)]

theorem test_sadd_immediate : starts (mod core0) q0 false (scalarRegs wAddI) [] 0 ∧
    (tc0 (.sadd q0 wAddI) (mod core0)).sAt 31 = ⟨0#64 - 33554427#64, false⟩ := by decide +kernel

theorem test_sli_slih : starts (mod core0) q0 false [1] [] 0 ∧ bitsN (word 48 [(0, 1), (6, 1), (16, 0x80000000)]) 11 5 = 0 ∧
    (tc0 (.sli q0 (word 48 [(0, 1), (6, 1), (16, 0x80000000)])) (mod core0)).sAt 1 = ⟨0xFFFFFFFF80000000#64, false⟩ ∧
    (tc0 (.slih q0 (word 48 [(0, 2), (6, 1), (16, 3)])) (mod core0)).sAt 1 = ⟨0x0000000300000005#64, false⟩ := by decide +kernel

/-- SLDS of the upper half of the last unit of slot 0. -/
def wLds : BitVec 48 := word 48 ([(0, 0x0B), (6, 2), (35, 1)] ++ spo 11 3 0 1)

def padCore : Core := { Core.fill core0 1 with pad := [(56, 0x77#8), (63, 0x80#8)] }

theorem test_slds_hyps : starts (mod padCore) q0 false [cSd wLds] [] 0 ∧ bitsN wLds 36 12 = 0 ∧ (spoAt wLds 11).reads = true ∧
    readsWell q0 (mod padCore) (spoAt wLds 11) 16 48 :=
  ⟨by decide +kernel, by decide, by decide, readsWell_of (ph := 0) (by decide +kernel)⟩

theorem test_slds : (tc0 (.slds q0 wLds) (mod padCore)).sAt 2 = ⟨0x8000000000000077#64, false⟩ ∧
    ((after (.slds q0 wLds) (mod padCore)).core 0).tell 0 = ⟨.empty, 1#8⟩ := by decide +kernel

/-- SSTS of s1 with HOLD and tag 0x00 into the bank's last slot. -/
def wSts : BitVec 48 := word 48 ([(0, 0x0C), (6, 1)] ++ spo 11 (4 * 3071) 3 3)

theorem test_ssts_hyps : starts (mod core0) q0 false [cSd wSts] [] 0 ∧ bitsN wSts 35 13 = 0 ∧ (spoAt wSts 11).writes = true ∧
    (spoAt wSts 11).ofs % 4 = 0 ∧ writesWell q0 (mod core0) (spoAt wSts 11) 1 0 (64 * 3071) ∧ roomAt ((mod core0).core 0) 3071 1 :=
  ⟨by decide +kernel, by decide, by decide, by decide, writesWell_of (by decide +kernel), by decide +kernel⟩

theorem test_ssts : (landed (.ssts q0 wSts) (mod core0)).tell 3071 = ⟨.held, 0#8⟩ ∧ (landed (.ssts q0 wSts) (mod core0)).pad = [(196544, 5#8)] ∧
    ((after (.ssts q0 wSts) (mod core0)).core 0).pad = [] := by decide +kernel

theorem test_empty_operations : starts (mod core0) q0 false [] [] 0 ∧ starts (mod core0) q0 true [] [] 0 ∧
    bitsN (0#48) 6 42 = 0 ∧ (((mod core0).core q0.core).tc q0.ctx).loops = [] ∧ (tc0 (.cnop q0 0#48) (mod core0)).pc = 1#13 := by decide +kernel

/-- The sequence counter at its last value. -/
def seqCore : Core := Core.ctx0 core0 (fun x => { x with seq := 0xFF#8 })

theorem test_seqadv_wraps : starts (mod seqCore) q0 false [] [] 0 ∧ bitsN (0x11#48) 6 42 = 0 ∧
    (tc0 (.seqadv q0 0x11#48) (mod seqCore)).seq = 1#8 := by decide +kernel

/-- BR and LOOP on s1, target the last bundle. -/
def wBr (cond reg : Nat) : BitVec 48 := word 48 [(0, 0x0D), (6, reg), (11, cond), (13, 0x1FFF)]

theorem test_br : starts (mod core0) q0 false [bitsN (wBr 1 1) 6 5] [] 0 ∧ bitsN (wBr 1 1) 26 22 = 0 ∧
    (tc0 (.br q0 (wBr 0 0)) (mod core0)).pc = 0x1FFF#13 ∧ (tc0 (.br q0 (wBr 0 1)) (mod core0)).pc = 1#13 ∧
    (tc0 (.br q0 (wBr 1 1)) (mod core0)).pc = 0x1FFF#13 ∧ (tc0 (.br q0 (wBr 1 0)) (mod core0)).pc = 1#13 ∧
    (tc0 (.br q0 (wBr 2 1)) (mod core0)).pc = 1#13 ∧ (tc0 (.br q0 (wBr 3 0)) (mod core0)).pc = 0x1FFF#13 ∧
    (tc0 (.br q0 (wBr 2 1)) (mod (Core.sReg core0 1 0x8000000000000000#64))).pc = 0x1FFF#13 := by decide +kernel

theorem test_loop : (tc0 (.loop q0 (word 48 [(0, 0x0F), (6, 1), (13, 9)])) (mod core0)).loops = [⟨1#13, 9#13, 4⟩] ∧
    (tc0 (.loop q0 (word 48 [(0, 0x0F), (6, 0), (13, 9)])) (mod core0)).pc = 10#13 := by decide +kernel

theorem test_jmp_waitc : bitsN (0x10#48) 22 26 = 0 ∧ (tc0 (.jmp q0 (word 48 [(0, 0x0E), (13, 7)])) (mod core0)).ready = 4 ∧
    (tc0 (.waitc q0 0x10#48) (mod core0)).ready = 2 := by decide +kernel

/-- A context at the last bundle of a loop with `n` passes left. -/
def loopCore (n : Nat) : Core := Core.ctx0 core0 (fun x => { x with pc := 9#13, loops := [⟨3#13, 9#13, n⟩] })

theorem test_loop_turns : starts (mod (loopCore 1)) q0 false [] [] 0 ∧ starts (mod (loopCore 0)) q0 false [] [] 0 ∧
    (((mod (loopCore 1)).core q0.core).tc q0.ctx).loops = ⟨3#13, 9#13, 1⟩ :: [] ∧
    (tc0 (.cnop q0 0#48) (mod (loopCore 1))).pc = 3#13 ∧ (tc0 (.cnop q0 0#48) (mod (loopCore 1))).loops = [⟨3#13, 9#13, 0⟩] ∧
    (tc0 (.cnop q0 0#48) (mod (loopCore 0))).pc = 10#13 ∧ (tc0 (.cnop q0 0#48) (mod (loopCore 0))).loops = [] := by decide +kernel

def wHand : BitVec 48 := word 48 [(0, 0x12), (6, 2), (8, 3)]

theorem test_hand : starts (mod core0) q0 false [] [] 0 ∧ bitsN wHand 10 38 = 0 ∧ bitsN wHand 6 2 < (mod core0).rigSails q0.core ∧
    (((mod core0).core q0.core).sail (bitsN wHand 6 2)).owner = q0.ctx.val ∧ ((mod core0).core q0.core).late = [] ∧
    (((mod core0).core q0.core).sail (bitsN wHand 6 2)).opWait = false ∧ (((after (.hand q0 wHand) (mod core0)).core 0).sail 2).owner = 0 ∧
    ((landed (.hand q0 wHand) (mod core0)).sail 2).owner = 3 := by decide +kernel

/-- HSET of the window's one handle from s1, which holds 5. -/
def wHset : BitVec 48 := word 48 [(0, 0x13), (11, 1)]

theorem test_hset : starts (mod core0) q0 false [cSa wHset] [] 0 ∧ ((((mod core0).core q0.core).tc q0.ctx).rdS (cSa wHset)).poison = false ∧
    bitsN wHset 16 32 = 0 ∧ bitsN wHset 6 5 < (((mod core0).core q0.core).tc q0.ctx).tcnt ∧ bitsN (5#64) 29 3 = 0 ∧
    ((after (.hset q0 wHset) (mod core0)).core 0).handleAt 0 = 5#32 := by decide +kernel

/-- VPAT from s1: entries 0, 1, 2, 3, 4 and then 0. -/
def patCore : Core := Core.sReg core0 1 (word 64 [(3, 1), (6, 2), (9, 3), (12, 4)])

def wVpat : BitVec 48 := word 48 [(0, 0x14), (11, 1)]

theorem test_vpat : starts (mod patCore) q0 false [cSa wVpat] [] 0 ∧ bitsN wVpat 6 5 = 0 ∧ bitsN wVpat 16 32 = 0 ∧
    (let a := (((mod patCore).core q0.core).tc q0.ctx).rdS (cSa wVpat)
     a.poison = false ∧ bitsN a.val 48 16 = 0 ∧ ∀ j, j < 16 → bitsN a.val (3 * j) 3 ≤ 4) ∧
    (((after (.vpat q0 wVpat) (mod patCore)).core 0).staged.map (fun p => p.toList.take 6)) = some [0, 1, 2, 3, 4, 0] := by decide +kernel

def wPhase : BitVec 48 := word 48 [(0, 0x15), (6, 255)]

theorem test_phase : starts (mod core0) q0 false [] [] 0 ∧ bitsN wPhase 14 34 = 0 ∧
    (∀ j, j < 192 → ((mod core0).core (q0.core.val / 192 * 192 + j)).xtabs = []) ∧ ((mod core0).slice ((mod core0).corePart q0.core)).mods = 0 ∧
    ((after (.phase q0 wPhase) (mod core0)).core 0).phase = 255 := by decide +kernel

/-- ESCM of layer 3 with OPEN. -/
def wEscm : BitVec 48 := word 48 [(0, 0x16), (6, 3), (8, 1)]

theorem test_escm : starts (mod core0) q0 false [] [] 0 ∧ bitsN wEscm 9 39 = 0 ∧ (tc0 (.escm q0 wEscm) (mod core0)).lsel = 3 := by decide +kernel

/-- A mast with debts of 0, 1, 2 and 3, a row that is being read again, and a write waiting for a service window. -/
def mastCore : Core := { core0 with mast := {
  tiers := ((((Vector.replicate 4 {}).set 1 { debt := 1 })).set 2 { debt := 2 }).set 3 { debt := 3 }
  reread := [7], svcLen := 64, outside := [.access true 0 false 128 0x55#1024 []] } }

/-- The same with another queue, window length or end of a refresh window. -/
def svcCore (o : List Outside) (len refEnd : Nat) : Core := { mastCore with mast := { mastCore.mast with outside := o, svcLen := len, refEnd := refEnd } }

theorem test_refw : starts (mod mastCore) q0 false [] [] 0 ∧ bitsN (0x17#48) 6 42 = 0 ∧ (mod mastCore).guarded q0.core = false ∧
    ((mod mastCore).core q0.core).lands = [] ∧ ({ again := [(0, 7)] } : RefFind).scrub = [] ∧
    ((after (.refw q0 0x17#48 { again := [(0, 7)] }) (mod mastCore)).core 0).mast.bad = [7] ∧ ((after (.refw q0 0x17#48 { again := [(1, 7)] }) (mod mastCore)).core 0).mast.bad = [] ∧
    (((after (.refw q0 0x17#48 {}) (mod mastCore)).core 0).mast.tiers.toList.map (fun x => x.debt)) = [0, 0, 0, 1] := by decide +kernel

/-- A row due in the window moves past it; a scrubbed row is counted; a failed check furls the core. -/
theorem test_refw_finds :
    ((after (.refw q0 0x17#48 {}) (mod { mastCore with lands := [{ trk := 0, ctx := 0, handle := 0, addr := 0, tag := 0, hold := false, due := 60, want := 60, data := 0, poison := false, row := 0, rid := 0 }] })).core 0).lands.map (·.due) = [240] ∧
    (mod mastCore).mst.scrubEn = true ∧ ((after (.refw q0 0x17#48 { scrub := [(1, 5)] }) (mod mastCore)).core 0).mast.ce = 1 ∧
    ((mod mastCore).core q0.core).mast.failed = false ∧ ((after (.refw q0 0x17#48 { check := some 2 }) (mod mastCore)).core 0).mast.failed = true := by decide +kernel

/-- A window of 64 fc carries 102 rows; none, where a refresh window lies over it, or where it has no length. -/
theorem test_svcw : ((mod mastCore).core 0).mast.outside = [.access true 0 false 128 0x55#1024 []] ∧ ((mod mastCore).core 0).mast.svcDone = 0 ∧
    1 ≤ 8 * (0 + 64 - max 0 (min ((mod mastCore).core 0).mast.refEnd (0 + 64))) / 5 ∧ Memory.wf ((mod mastCore).core 0).mast.data = true ∧
    ((after (.svcw q0 0x18#48) (mod mastCore)).core 0).mast.data = [(128, 0x55#8)] ∧ ((after (.svcw q0 0x18#48) (mod mastCore)).core 0).mast.svcRows = 101 ∧
    ((after (.svcw q0 0x18#48) (mod mastCore)).core 0).mast.svcEnd = 64 := by decide +kernel

theorem test_svcw_waits : starts (mod (svcCore [.rebuild] 64 64)) q0 false [] [] 0 ∧ ((mod (svcCore [] 64 0)).core 0).mast.outside = [] ∧
    8 * (0 + 64 - max 0 (min ((mod (svcCore [.rebuild] 64 64)).core 0).mast.refEnd (0 + 64))) / 5 = 0 ∧
    ((after (.svcw q0 0x18#48) (mod (svcCore [.rebuild] 64 64))).core 0).mast.outside = [.rebuild] ∧
    ((mod (svcCore [.access false 0 false 128 0 []] 64 0)).core 0).mast.bad = [] ∧
    ((after (.svcw q0 0x18#48) (mod (svcCore [.access false 0 false 128 0 []] 64 0))).core 0).mast.answered = [.row false false 0] := by decide +kernel

/-- CNOP with its last reserved bit set. -/
def wBadCnop : BitVec 48 := word 48 [(47, 1)]

theorem test_illegal_cnop : starts (mod core0) q0 false [] [] 0 ∧ ((mod core0).grp ((mod core0).corePart q0.core)).inStep = true ∧ bitsN wBadCnop 6 42 ≠ 0 ∧
    ((after (.cnop q0 wBadCnop) (mod core0)).core 0).ill = ⟨true, 0, 3, 0, 2, 0#13⟩ ∧
    ((after (.cnop q0 wBadCnop) (mod core0)).grp 0).faults = [⟨2, 0⟩] := by decide +kernel

theorem test_empty_read : starts (mod core0) q0 false [cSd wLds] [] 0 ∧ ((mod core0).grp ((mod core0).corePart q0.core)).inStep = true ∧
    resolved (((mod core0).core q0.core).resolve q0.ctx 0 48 16 false 0) = some (0, 48) ∧ (((mod core0).core q0.core).tell 0).st = .empty ∧
    ((mod core0).core q0.core).viol.valid = false ∧ (tc0 (.slds q0 wLds) (mod core0)).sAt 2 = ⟨BitVec.allOnes 64, true⟩ ∧
    ((after (.slds q0 wLds) (mod core0)).grp 0).faults = [⟨1, 1⟩] := by decide +kernel

/-! ### The vector slot -/

/-- A register with one value in each of its 64 lanes. -/
def lanes (x : BitVec 32) : VWord := ofLanes32 (fun _ => x)

/-- v1 holds 1.5 in each lane, v2 -2.0, v3 0.25. -/
def vecCore : Core := Core.vReg (Core.vReg (Core.vReg core0 1 (lanes 0x3FC00000#32)) 2 (lanes 0xC0000000#32)) 3 (lanes 0x3E800000#32)

/-- A register form: vD 4, vA 1, vB 2, vC 3. -/
def wV (op ty cc : Nat) : BitVec 44 := word 44 [(0, op), (6, 4), (11, 1), (16, 2), (21, 3), (26, ty), (29, cc)]

/-- Lane 63 of v4 after a command. -/
def last (c : Instr) (s : State) : BitVec 32 := lane32 ((tc0 c s).vAt 4).val 63

theorem test_lane_arithmetic : bitsN (wV 1 0 0) 32 12 = 0 ∧ vTy (wV 1 0 0) ≠ 3 ∧
    starts (mod vecCore) q0 true (laneSregs (wV 1 0 0)) (laneVregs (wV 1 0 0) false) 0 ∧
    starts (mod vecCore) q0 true (laneSregs (wV 4 0 0)) (laneVregs (wV 4 0 0) true) 0 ∧
    last (.vadd q0 (wV 1 0 0)) (mod vecCore) = 0xBF000000#32 ∧ last (.vsub q0 (wV 2 0 0)) (mod vecCore) = 0x40600000#32 ∧
    last (.vmul q0 (wV 3 0 0)) (mod vecCore) = 0xC0400000#32 ∧ last (.vfma q0 (wV 4 0 0)) (mod vecCore) = 0xC0300000#32 ∧
    last (.vmin q0 (wV 5 0 0)) (mod vecCore) = 0xC0000000#32 ∧ last (.vmax q0 (wV 6 0 0)) (mod vecCore) = 0x3FC00000#32 := by decide +kernel

/-- BF16 and INT32: the upper BF16 of a lane is 1.5 against -2.0, its lower one 0; the most negative number wraps. -/
theorem test_lane_types : vTy (wV 1 1 0) = 1 ∧ vTy (wV 1 2 0) = 2 ∧ last (.vadd q0 (wV 1 1 0)) (mod vecCore) = 0xBF000000#32 ∧
    last (.vadd q0 (wV 1 2 0)) (mod (Core.vReg (Core.vReg vecCore 1 (lanes 0x80000000#32)) 2 (lanes 0x80000001#32))) = 1#32 ∧
    last (.vmin q0 (wV 5 2 0)) (mod vecCore) = 0xC0000000#32 := by decide +kernel

theorem test_vcmp : starts (mod vecCore) q0 true ([vD (wV 7 0 2)] ++ laneSregs (wV 7 0 2)) ([vA (wV 7 0 2)] ++ (if vBs (wV 7 0 2) then [] else [vB (wV 7 0 2)])) 0 ∧
    vCc (wV 7 0 6) ≠ 7 ∧ ((tc0 (.vcmp q0 (wV 7 0 2)) (mod vecCore)).sAt 4).val = 0#64 ∧ ((tc0 (.vcmp q0 (wV 7 0 4)) (mod vecCore)).sAt 4).val = BitVec.allOnes 64 := by
  decide +kernel

theorem test_vsel : starts (mod (Core.sReg vecCore 3 1#64)) q0 true ([vC (wV 8 0 0)] ++ laneSregs (wV 8 0 0)) (laneVregs (wV 8 0 0) false) 0 ∧
    last (.vsel q0 (wV 8 0 0)) (mod (Core.sReg vecCore 3 0x8000000000000000#64)) = 0x3FC00000#32 ∧
    last (.vsel q0 (wV 8 0 0)) (mod (Core.sReg vecCore 3 1#64)) = 0xC0000000#32 := by decide +kernel

theorem test_vcvt_vkey : starts (mod vecCore) q0 true [] [vD (wV 9 0 2), vA (wV 9 0 2)] 0 ∧ vCc (wV 9 0 6) % 4 ≠ 3 ∧
    last (.vcvt q0 (wV 9 0 2)) (mod vecCore) = 2#32 ∧ last (.vkey q0 (wV 0x16 0 0)) (mod vecCore) = 0xBFC00000#32 := by decide +kernel

theorem test_long : bitsN (wV 0x0C 0 0) 32 12 = 0 ∧ hasRoom q0 (mod vecCore) 0 ∧ last (.vrcp q0 (wV 0x0C 0 0)) (mod (Core.vReg vecCore 1 (lanes 0x40000000#32))) = 0x3F000000#32 := by
  unfold hasRoom; decide +kernel

theorem test_reductions : starts (mod vecCore) q0 true [vD (wV 0x0F 0 0)] [vA (wV 0x0F 0 0)] 0 ∧
    ((tc0 (.vrsum q0 (wV 0x0F 0 0)) (mod (Core.sReg vecCore 4 0x700000000#64))).sAt 4).val = 0x742C00000#64 ∧
    ((tc0 (.vrmin q0 (wV 0x11 2 0)) (mod vecCore)).sAt 4).val = 0x3FC00000#64 := by decide +kernel

/-- VLD into v4 and VST of v1, of the first four slots. -/
def wVld : BitVec 44 := word 44 ([(0, 0x12), (6, 4)] ++ spo 16 0 0 0)
def wVst : BitVec 44 := word 44 ([(0, 0x13), (6, 1)] ++ spo 16 4 0 2)

def vldCore : Core := { Core.fill vecCore 4 with pad := [(255, 0xC0#8)] }

theorem test_vld_hyps : bitsN wVld 43 1 = 0 ∧ starts (mod vldCore) q0 true [] [vD wVld] 0 ∧ (spoAt wVld 16).reads = true ∧
    readsWell q0 (mod vldCore) (spoAt wVld 16) 256 0 := ⟨by decide, by decide +kernel, by decide, readsWell_of (ph := 0) (by decide +kernel)⟩

theorem test_vld : last (.vld q0 wVld) (mod vldCore) = 0xC0000000#32 := by decide +kernel

theorem test_vst_hyps : bitsN wVst 43 1 = 0 ∧ starts (mod vecCore) q0 true [] [vD wVst] 0 ∧ (spoAt wVst 16).writes = true ∧ (spoAt wVst 16).ofs % 4 = 0 ∧
    writesWell q0 (mod vecCore) (spoAt wVst 16) 4 0 64 ∧ roomAt ((mod vecCore).core 0) 1 4 :=
  ⟨by decide, by decide +kernel, by decide, by decide, writesWell_of (by decide +kernel), by decide +kernel⟩

theorem test_vst : ((landed (.vst q0 wVst) (mod vecCore)).tells.map (fun x => x.1)) = [1, 2, 3, 4] := by decide +kernel

/-- The reserved type is illegal for both. -/
theorem test_vld_vst_illegal : starts (mod vldCore) q0 true [] [vD (wVld ||| word 44 [(40, 3)])] 0 ∧ bitsN (wVld ||| word 44 [(40, 3)]) 40 2 = 3 ∧ ((mod vldCore).core 0).ill.valid = false ∧
    ((after (.vld q0 (wVld ||| word 44 [(40, 3)])) (mod vldCore)).core 0).ill.cause = 2 ∧
    (((landed (.vst q0 (wVst ||| word 44 [(40, 3)])) (mod vecCore)).tells.map (fun x => x.2.st)) = [.poison, .poison, .poison, .poison]) := by decide +kernel

/-- VMASK of v1 with type and half: only the masks' lowest bit is set. -/
def wVmask (ty half : Nat) : BitVec 44 := word 44 ([(0, 0x17), (6, 4), (11, 1), (40, ty), (42, half)] ++ spo 16 0 0 0)

def maskCore : Core := { Core.fill vecCore 1 with pad := [(0, 1#8)] }

theorem test_vmask_hyps : starts (mod maskCore) q0 true [] [vD (wVmask 0 1), vA (wVmask 0 1)] 0 ∧ bitsN (wVmask 0 1) 43 1 = 0 ∧
    (bitsN (wVmask 0 1) 40 2 = 0 ∧ bitsN (wVmask 1 0) 40 2 = 1 ∧ bitAt (wVmask 1 0) 42 = false) ∧
    readsWell q0 (mod maskCore) (spoAt (wVmask 0 1) 16) 16 0 ∧ readsWell q0 (mod maskCore) (spoAt (wVmask 1 0) 16) 16 0 :=
  ⟨by decide +kernel, by decide, by decide, readsWell_of (ph := 0) (by decide +kernel), readsWell_of (ph := 0) (by decide +kernel)⟩

theorem test_vmask : lane32 ((tc0 (.vmask q0 (wVmask 0 0)) (mod maskCore)).vAt 4).val 0 = 0x3FC00000#32 ∧
    last (.vmask q0 (wVmask 0 0)) (mod maskCore) = 0xFF800000#32 ∧ lane32 ((tc0 (.vmask q0 (wVmask 0 1)) (mod maskCore)).vAt 4).val 0 = 0xFF800000#32 ∧
    lane32 ((tc0 (.vmask q0 (wVmask 1 0)) (mod maskCore)).vAt 4).val 0 = 0xFF800000#32 := by decide +kernel

theorem test_vmask_illegal : ((mod maskCore).core 0).ill.valid = false ∧ bitsN (wVmask 2 0) 40 2 = 2 ∧ (bitsN (wVmask 1 1) 40 2 = 1 ∧ bitAt (wVmask 1 1) 42 = true) ∧
    ((after (.vmask q0 (wVmask 2 0)) (mod maskCore)).core 0).ill.cause = 2 ∧ ((after (.vmask q0 (wVmask 1 1)) (mod maskCore)).core 0).ill.opcode = 0x17 := by decide +kernel

/-! ### The sampler -/

/-- The first output of the generator of R339 for a zero seed is 0xE220A8397B1DCDAF, as its procedure gives by hand. -/
theorem test_rng_first : rngValue 0#64 0 = 0x3F6220A9#32 := by decide +kernel

theorem test_rng_ranges : (3 : Nat) < 4 ∧ 2 ^ 20 - 1 < 2 ^ 20 ∧ (0 : Nat) < 4 := by decide

/-- A sampler form: vD 4, vA 1, vB 2, SA 3. -/
def wS (sub : Nat) : BitVec 44 := word 44 [(0, 0x18), (6, 4), (11, 1), (16, 2), (21, 3), (26, sub)]

/-- A logit of 1.5 at temperature 2.0 (BF16) is 0.75; a quiet NaN is -Inf. -/
theorem test_vsmp_temp : bitsN (wS 1) 31 13 = 0 ∧ starts (mod vecCore) q0 true [vSa (wS 1)] [vD (wS 1), vA (wS 1)] 0 ∧
    last (.vsmpTemp q0 (wS 1)) (mod (Core.sReg vecCore 3 0x4000#64)) = 0x3F400000#32 ∧
    last (.vsmpTemp q0 (wS 1)) (mod (Core.vReg vecCore 1 (lanes 0x7FC00000#32))) = 0xFF800000#32 := by decide +kernel

/-- Keys of 9 against a boundary key of 9: ids up to the boundary id 5 stay. -/
theorem test_vsmp_topk : last (.vsmpTopk q0 (wS 2)) (mod (Core.sReg (Core.vReg (Core.vReg core0 1 (lanes 9#32)) 4 (lanes 5#32)) 3 0x500000009#64)) = 9#32 ∧
    last (.vsmpTopk q0 (wS 2)) (mod (Core.sReg (Core.vReg (Core.vReg core0 1 (lanes 9#32)) 4 (lanes 6#32)) 3 0x500000009#64)) = 0#32 := by decide +kernel

/-- Weights of 1.5 against a bound of 3.0: the first two lanes pass, and the carry becomes 96.0. -/
theorem test_vsmp_topp : starts (mod vecCore) q0 true [vSa (wS 3)] [vD (wS 3), vA (wS 3), vB (wS 3)] 0 ∧
    (let y := tc0 (.vsmpTopp q0 (wS 3)) (mod (Core.sReg vecCore 3 0x4040000000000000#64))
     lane32 (y.vAt 4).val 1 = 0xC0000000#32 ∧ lane32 (y.vAt 4).val 2 = 0x7FC00000#32 ∧ (y.sAt 3).val = 0x4040000042C00000#64) := by decide +kernel

theorem test_vsmp_amask : last (.vsmpAmask q0 (wS 4)) (mod vecCore) = 0x7FC00000#32 ∧
    last (.vsmpAmask q0 (wS 4)) (mod (Core.sReg vecCore 3 0x8000000000000000#64)) = 0x3FC00000#32 := by decide +kernel

/-- Equal keys go to the lowest id: the best so far has id 3, the lanes id 2. -/
theorem test_vsmp_draw : starts (mod vecCore) q0 true [vD (wS 5)] [vA (wS 5), vB (wS 5)] 0 ∧
    ((tc0 (.vsmpDraw q0 (wS 5)) (mod (Core.sReg (Core.vReg (Core.vReg core0 1 (lanes 9#32)) 2 (lanes 2#32)) 4 0x0010000300000009#64))).sAt 4).val = 0x0010000200000009#64 := by
  decide +kernel

/-- EXACT, and REJECT with a Q of 0. -/
theorem test_vsmp_accept : starts (mod core0) q0 true [vSa (wS 6), vD (wS 6)] [] 0 ∧
    ((tc0 (.vsmpAccept q0 (wS 6)) (mod (Core.sReg (Core.sReg core0 3 7#64) 4 0xF00007#64))).sAt 4).val = 1#64 ∧
    ((tc0 (.vsmpAccept q0 (wS 6)) (mod (Core.sReg (Core.sReg core0 3 0x8000000000000000#64) 4 0#64))).sAt 4).val = 0#64 := by decide +kernel

/-- COMMIT of two words of relative slot 9, whose step record has K_EFF 1, from the first slot. -/
def commitState (fs : List StepFault) : State :=
  let c := { Core.fill (Core.sReg core0 3 (word 64 [(0, 2), (23, 9)])) 1 with pad := [(0, 0x11#8), (8, 0x22#8)] }
  { mod c with parts := [(0, { en := true, grp := { stepping := true, inStep := true, faults := fs }, req := { keff := [(9, 1)] } })] }

theorem test_commit_hyps : starts (commitState []) q0 true [vSa (wS 7)] [] 0 ∧ bitsN (wS 7) 31 13 = 0 ∧
    (let r := (((commitState []).core q0.core).tc q0.ctx).rdS (vSa (wS 7))
     r.poison = false ∧ commitBad ((commitState []).part 0).req r.val = false ∧ readsWell q0 (commitState []) ⟨cmHandle r.val, cmOfs r.val, 0, 1⟩ (8 * cmCount r.val) 0) :=
  ⟨by decide +kernel, by decide, by decide +kernel, by decide +kernel, readsWell_of (ph := 0) (by decide +kernel)⟩

theorem test_commit : (((after (.vsmpCommit q0 ⟨(wS 7), 0⟩) (commitState [])).part 0).req.commits.map (fun c => (c.slot, c.words))) = [(9, [0x11#64, 0x22#64])] ∧
    ((after (.vsmpCommit { q0 with cyc := 20 } ⟨(wS 7), 0⟩) (commitState [⟨1, 0⟩])).part 0).req.commits = [] ∧
    ((after (.vsmpCommit { q0 with cyc := 19 } ⟨(wS 7), 0⟩) (commitState [⟨1, 0⟩])).part 0).req.commits.length = 1 := by decide +kernel

/-! ### The sail slot -/

/-- MLDW of sail 2: KIND and format, from the block's start. -/
def wMldw (kind fmt : Nat) : BitVec 80 := word 80 ([(0, 1), (6, 2), (32, fmt), (36, kind)] ++ spo 8 0 0 0)

/-- The slots that the test's loads and rows read, FULL, the first bytes of the third 64 and of the third 256 being 0x7F. -/
def sailCore : Core := { Core.fill core0 64 with pad := [(128, 0x7F#8), (512, 0x7F#8)] }

theorem test_mldw_hyps : starts (mod sailCore) q0 false [] [] 0 ∧
    (sailOf (wMldw 1 0) < (mod sailCore).rigSails q0.core ∧ (∀ r ∈ [(38, 3), (41, 39)], bitsN (wMldw 1 0) r.1 r.2 = 0) ∧
      (((mod sailCore).core q0.core).sail (sailOf (wMldw 1 0))).owner = q0.ctx.val) ∧
    (spoAt (wMldw 1 0) 8).reads = true ∧ bitsN (wMldw 1 0) 36 2 ≠ 3 ∧ fmtOk 9 = true ∧ hasRoom q0 (mod sailCore) 0 ∧
    readsWell q0 (mod sailCore) (spoAt (wMldw 1 0) 8) (loadBytes (bitsN (wMldw 1 0) 36 2) (bitsN (wMldw 1 0) 32 4)) 0 ∧
    readsWell q0 (mod sailCore) (spoAt (wMldw 0 9) 8) (loadBytes (bitsN (wMldw 0 9) 36 2) (bitsN (wMldw 0 9) 32 4)) 0 :=
  ⟨by decide +kernel, by decide +kernel, by decide, by decide, by decide, by unfold hasRoom; decide +kernel, readsWell_of (ph := 0) (by decide +kernel),
    readsWell_of (ph := 0) (by decide +kernel)⟩

theorem test_mldw : (((after (.mldw q0 (wMldw 2 0)) (mod sailCore)).core 0).sail 2).shadow.map (fun u => (u.kind, bitsN u.data 1024 8)) = some (2, 0x7F) ∧
    (((after (.mldw q0 (wMldw 2 0)) (mod sailCore)).core 0).tracks.map (fun k => (k.id, k.kind, k.left))) = [(0, .tileLoad, 1)] := by decide +kernel

/-- MACCL of three rows into rows 504 to 506: the byte of the third row. -/
def wMaccl : BitVec 80 := word 80 ([(0, 3), (6, 2), (32, 2), (41, 63)] ++ spo 8 0 0 0)

theorem test_maccl_hyps : sailOf wMaccl < (mod sailCore).rigSails q0.core ∧ (∀ r ∈ [(47, 33)], bitsN wMaccl r.1 r.2 = 0) ∧ (spoAt wMaccl 8).reads = true ∧
    mmAcc wMaccl + mmRows wMaccl ≤ 512 ∧ readsWell q0 (mod sailCore) (spoAt wMaccl 8) (256 * mmRows wMaccl) 0 :=
  ⟨by decide +kernel, by decide, by decide, by decide, readsWell_of (ph := 0) (by decide +kernel)⟩

theorem test_maccl : ((((after (.maccl q0 wMaccl) (mod sailCore)).core 0).sail 2).accRow 506) = ⟨0x7F#2048, false⟩ := by decide +kernel

/-- A sail whose load is under way. -/
def loadingCore : Core := { core0 with
  sails := (Vector.replicate 4 {}).set 3 { shadow := some { kind := 1 }, loads := [7] }, tracks := [{ id := 7, ctx := 0, kind := .tileLoad }] }

theorem test_tile_load_done : (((mod loadingCore).core 0).sail 3).loads = [7] ∧ ((mod loadingCore).grp ((mod loadingCore).corePart 0)).stalled = none ∧ ((after (.tileLoadDone 0 3) (mod loadingCore)).core 0).tracks = [] ∧
    (((after (.tileLoadDone 0 3) (mod loadingCore)).core 0).sail 3).active = some { kind := 1 } := by decide +kernel

/-- SDIST of one row on sail 2, whose resident vectors are zero: squared distances, of 0x7F and 63 zeros. -/
def wSdist : BitVec 80 := word 80 ([(0, 4), (6, 2), (47, 1), (49, 1)] ++ spo 8 32 0 0)

def distCore : Core := { sailCore with sails := (Vector.replicate 4 {}).set 2 { active := some { kind := 1 } } }

theorem test_sdist_hyps : starts (mod distCore) q0 false [] [] 0 ∧ sailOf wSdist < (mod distCore).rigSails q0.core ∧
    (∀ r ∈ [(50, 30)], bitsN wSdist r.1 r.2 = 0) ∧ mmStart wSdist = 1 ∧ (spoAt wSdist 8).reads = true ∧ mmAcc wSdist + mmRows wSdist ≤ 512 ∧
    (((mod distCore).core q0.core).sail (sailOf wSdist)).resident = some { kind := 1 } ∧ ((mod distCore).grp ((mod distCore).corePart q0.core)).inStep = true ∧
    readsWell q0 (mod distCore) (spoAt wSdist 8) (64 * mmRows wSdist) 512 :=
  ⟨by decide +kernel, by decide +kernel, by decide, by decide, by decide, by decide, by decide +kernel, by decide +kernel, readsWell_of (ph := 0) (by decide +kernel)⟩

theorem test_sdist : lane32 ((((after (.sdist q0 wSdist none) (mod distCore)).core 0).sail 2).accRow 0).val 63 = 16129#32 ∧
    (((after (.sdist q0 wSdist none) (mod distCore)).core 0).sail 2).dist = [0] := by decide +kernel

/-- A fault of 6 shows in the residues, one of 7 does not. -/
theorem test_residues : ((⟨0, 63, 6⟩ : Upset).row < mmRows wSdist ∧ (⟨0, 63, 6⟩ : Upset).err % 7 ≠ 0 ∧ (⟨0, 63, -7⟩ : Upset).err % 7 = 0) ∧
    (((after (.sdist q0 wSdist (some ⟨0, 63, 6⟩)) (mod distCore)).grp 0).faults.map (·.code)) = [0x10] ∧
    ((after (.sdist q0 wSdist (some ⟨0, 63, 6⟩)) (mod distCore)).core 0).stat.sailChk = 1 ∧
    ((after (.sdist q0 wSdist (some ⟨0, 63, -7⟩)) (mod distCore)).core 0).stat.sailChk = 0 := by decide +kernel

/-- A compare form on sail 0: vD 4, vA 1, vB 2, SD 5, SB 1. -/
def wC (op : Nat) : BitVec 80 := word 80 [(0, op), (8, 4), (13, 1), (18, 2), (23, 5), (32, 1)]

theorem test_smax_smin : starts (mod vecCore) q0 false [cmpSD (wC 5)] [cmpVA (wC 5), cmpVB (wC 5), cmpVD (wC 5)] 0 ∧
    (∀ r ∈ [(28, 4), (37, 43)], bitsN (wC 5) r.1 r.2 = 0) ∧ sailOf (wC 5) < (mod vecCore).rigSails q0.core ∧
    last (.smax q0 (wC 5)) (mod vecCore) = 0xC0000000#32 ∧
    last (.smin q0 (wC 6)) (mod vecCore) = 0x3FC00000#32 := by decide +kernel

def rankCore : Core := { core0 with sails := (Vector.replicate 4 {}).set 0 { active := some { kind := 2 } } }

theorem test_srank_hyps : starts (mod rankCore) q0 false [] [cmpVD (wC 7)] 0 ∧ (((mod rankCore).core q0.core).sail 0).owner = 0 ∧
    (((mod rankCore).core q0.core).sail 0).resident = some { kind := 2 } := by decide +kernel

/-- Ranks: greater keys first, equal ones by place. -/
theorem test_rank : rankOf [5#32, 9#32, 5#32] 0 = 1 ∧ rankOf [5#32, 9#32, 5#32] 1 = 0 ∧ rankOf [5#32, 9#32, 5#32] 2 = 2 := by decide

/-- All 64 keys of v1 are at the threshold in s1. -/
theorem test_sthr : starts (mod vecCore) q0 false [cmpSB (wC 8), cmpSD (wC 8)] [cmpVA (wC 8)] 0 ∧
    ((tc0 (.sthr q0 (wC 8)) (mod (Core.sReg vecCore 1 0x3FC00000#64))).sAt 5).val = 64#64 ∧
    ((tc0 (.sthr q0 (wC 8)) (mod (Core.sReg vecCore 1 0x3FC00001#64))).sAt 5).val = 0#64 := by decide +kernel

/-- Slots 0 to 15 FULL with tag 0x01, slots 60 and 61 HELD with tag 0x00: a descriptor (AFMT and WFMT 5) in slot 60, a watch entry of zeros with HI2 = +Inf in slot 61;
a resident tile of weight 1.0 in its first place; a source row whose first element is 1.0. -/
def mmulCore : Core := { core0 with
  tells := (List.range 16).map (fun j => (j, (⟨.full, 1#8⟩ : Tell))) ++ [(60, ⟨.held, 0#8⟩), (61, ⟨.held, 0#8⟩)]
  pad := [(0, 0x80#8), (1, 0x3F#8), (3840, 0x55#8), (3910, 0x80#8), (3911, 0x7F#8)]
  sails := (Vector.replicate 4 {}).set 1 { active := some { kind := 0, fmt := 5, data := word 33792 [(0, 64), (32768, 127)] } } }

/-- MMUL of one row on sail 1 with START ZERO, its descriptor and watch entry in the block of handle 0. -/
def wMmul (start : Nat) : BitVec 80 := word 80 ([(0, 2), (6, 1), (47, start), (50, 1), (56, 240), (67, 122)] ++ spo 8 0 0 0)

def mmulTile : Tile := { kind := 0, fmt := 5, data := word 33792 [(0, 64), (32768, 127)] }

theorem test_mmul_hyps : starts (mod mmulCore) q0 false [] [] 0 ∧
    (sailOf (wMmul 1) < (mod mmulCore).rigSails q0.core ∧ (∀ r ∈ [(77, 3)], bitsN (wMmul 1) r.1 r.2 = 0) ∧ (((mod mmulCore).core q0.core).sail (sailOf (wMmul 1))).owner = q0.ctx.val) ∧
    (mmStart (wMmul 1) = 1 ∧ mmStart (wMmul 2) = 2) ∧ (spoAt (wMmul 1) 8).mode = 0 ∧ mmAcc (wMmul 1) + mmRows (wMmul 1) ≤ 512 ∧
    (((mod mmulCore).core 0).readRes q0.ctx (mmQhnd (wMmul 1)) (16 * bitsN (wMmul 1) 56 11) 16).viol = none ∧
    (((mod mmulCore).core 0).readRes q0.ctx (mmQhnd (wMmul 1)) (32 * bitsN (wMmul 1) 67 10) 32).viol = none ∧
    (let d := mmDescriptor q0 (wMmul 1) (mod mmulCore)
     qdOk d = true ∧ qdScN d = 0 ∧ qdRot d = 0 ∧ qdWfmt d = 5) ∧
    (((mod mmulCore).core 0).sail 1).resident = some mmulTile ∧ (mmulTile.kind = 0 ∧ mmulTile.poison = false) ∧ (((mod mmulCore).core 0).sail 1).tile = none ∧
    hasRoom q0 (mod mmulCore) 0 ∧ readsWell q0 (mod mmulCore) (spoAt (wMmul 1) 8) (2 * tileK 5 * mmRows (wMmul 1)) 0 :=
  ⟨by decide +kernel, by decide +kernel, by decide, by decide, by decide, by decide +kernel, by decide +kernel, by decide +kernel, by rfl, by decide, by decide +kernel,
    by unfold hasRoom; decide +kernel, readsWell_of (ph := 0) (by decide +kernel)⟩

/-- MRD of one row from s3 into slots 8 and 9: byte 128 of the mast, or, past the flat area's end, no translation. -/
def wMrd : BitVec 80 := word 80 ([(0, 1), (30, 3)] ++ spo 6 32 0 2)

def mrdCore : Core := { Core.sReg core0 3 128#64 with mast := { pageBase := 1, data := [(255, 0x66#8)] } }

theorem test_mrd_hyps : starts (mod mrdCore) q0 false [mvAreg wMrd] [] 0 ∧ bitsN wMrd 40 40 = 0 ∧ (mvSpo wMrd).writes = true ∧ (mvSpo wMrd).ofs % 4 = 0 ∧
    bitsN (128#64) 0 7 = 0 ∧ hasRoom q0 (mod mrdCore) 0 ∧ ((mod mrdCore).grp ((mod mrdCore).corePart q0.core)).guarded = false ∧
    ((mod mrdCore).core 0).resolve q0.ctx (mvSpo wMrd).handle (mvSpo wMrd).byte 128 true (mvSpo wMrd).mode = .ok (0, 512) ∧
    ((mod mrdCore).core 0).mast.translate 128#64 128 false = .ok 128 ∧ ((mod core0).core 0).mast.translate 0#64 128 false = .error (0, 0) :=
  ⟨by decide +kernel, by decide, by decide, by decide, by decide, by unfold hasRoom; decide +kernel, by decide +kernel, resolved_ok (by decide +kernel), resolved_ok (by decide +kernel), refused_error (by decide +kernel)⟩

theorem test_mrd : ((after (.mrd q0 wMrd) (mod mrdCore)).core 0).lands.map (fun l => (l.addr, l.due, l.row, l.data.toNat / 2 ^ 1016)) = [(512, 60, 1, 0x66)] ∧
    ((after (.mrd q0 wMrd) (mod core0)).grp 0).faults = [⟨3, 0⟩] ∧ ((after (.mrd q0 wMrd) (mod core0)).mst.log.recs.length) = 1 := by decide +kernel

/-- MWR of the first two slots, which hold 0x11 in their first byte, over row 1. -/
def wMwr : BitVec 80 := word 80 ([(0, 2), (30, 3)] ++ spo 6 0 0 0)

def mwrCore : Core := { Core.fill mrdCore 2 with pad := [(0, 0x11#8)] }

theorem test_mwr_hyps : starts (mod mwrCore) q0 false [mvAreg wMwr] [] 0 ∧ bitsN wMwr 40 40 = 0 ∧ (mvSpo wMwr).reads = true ∧ bitsN wMwr 35 5 + 1 = 1 ∧
    Memory.wf ((mod mwrCore).core 0).mast.data = true ∧ hasRoom q0 (mod mwrCore) 0 ∧ readsWell q0 (mod mwrCore) (mvSpo wMwr) 128 0 ∧
    ((mod mwrCore).core 0).mast.translate 128#64 128 true = .ok 128 :=
  ⟨by decide +kernel, by decide, by decide, by decide, by decide +kernel, by unfold hasRoom; decide +kernel, readsWell_of (ph := 0) (by decide +kernel), resolved_ok (by decide +kernel)⟩

theorem test_mwr : ((after (.mwr q0 wMwr) (mod mwrCore)).core 0).mast.data = [(128, 0x11#8)] := by decide +kernel

/-! ### Drains and sidecars -/

/-- VDRN of row 5 of sail 0 into slots 8 to 11, in FP32 or, for an open output tile, BF16; its tile covers rows 5 to 6. -/
def wVdrn (fmt : Nat) : BitVec 44 := word 44 ([(0, 0x14), (8, 5), (41, fmt)] ++ spo 17 32 0 2)

def openTileOf (d : BitVec 128) : OutTile := { ctx := 0, rows := 2, acc0 := 5, watch := 0#256, qd := d, scBuf := some (0, 2048), scTag := 1#8 }

def drainCore : Core := { core0 with sails := (Vector.replicate 4 {}).set 0 { tile := some (openTileOf 0#128), acc := [(5, ⟨lanes 0x3F800000#32, false⟩)] } }

/-- Row 5 of sail 0 accumulates distances. -/
def distRowCore : Core := { core0 with sails := (Vector.replicate 4 {}).set 0 { dist := [5], acc := [(5, ⟨lanes 9#32, false⟩)] } }

theorem test_vdrn_hyps : starts (mod drainCore) q0 true [] [] 0 ∧ drSail (wVdrn 0) < (mod drainCore).rigSails q0.core ∧
    (((mod drainCore).core 0).sail 0).stage.length < 32 ∧ bitsN (wVdrn 0) 43 1 = 0 ∧ (spoAt (wVdrn 0) 17).writes = true ∧ (spoAt (wVdrn 0) 17).ofs % 4 = 0 ∧
    (((mod drainCore).core 0).sail 0).tileOf (drRow (wVdrn 1)) = some (openTileOf 0#128) ∧ drFmt (wVdrn 1) = 1 ∧
    ((mod drainCore).core 0).resolve q0.ctx (spoAt (wVdrn 1) 17).handle (spoAt (wVdrn 1) 17).byte 128 true 2 = .ok (0, 512) ∧
    starts (mod distRowCore) q0 true [] [] 0 ∧ 5 ∈ (((mod distRowCore).core 0).sail 0).dist ∧ drRow (wVdrn 2) = 5 ∧ drFmt (wVdrn 2) = 2 ∧
    ((mod distRowCore).core 0).resolve q0.ctx (spoAt (wVdrn 2) 17).handle (spoAt (wVdrn 2) 17).byte 256 true 2 = .ok (0, 512) ∧ roomAt ((mod distRowCore).core 0) 8 4 :=
  ⟨by decide +kernel, by decide +kernel, by decide +kernel, by decide, by decide, by decide, by decide +kernel, by decide, resolved_ok (by decide +kernel), by decide +kernel,
    by decide +kernel, by decide, by decide, resolved_ok (by decide +kernel), by decide +kernel⟩

theorem test_vdrn : (((after (.vdrn q0 (wVdrn 1)) (mod drainCore)).core 0).sail 0).stage.map (fun d => (d.row, d.dst, d.ofmt, d.entries)) = [(5, some (0, 512), 1, 0)] ∧
    ((landed (.vdrn q0 (wVdrn 2)) (mod distRowCore)).tells.map (fun x => x.1)) = [8, 9, 10, 11] := by decide +kernel

/-- A row in the stage whose tile captures one outlier a row; its buffer at byte 2048. -/
def scaDesc : BitVec 128 := word 128 [(16, 1), (24, 1)]

def stageRow : DrainRow := ⟨5, 0, some (0, 512), 1#8, false, 0, lanes 0#32, false, 0⟩

def scaCore : Core := { core0 with
  sails := (Vector.replicate 4 {}).set 0 { tile := some (openTileOf scaDesc), stage := [stageRow] }, tells := [(32, ⟨.full, 1#8⟩)], pad := [(2050, 0xFF#8), (2051, 0xFF#8)] }

def wVsca : BitVec 44 := word 44 [(0, 0x15), (8, 5)]

theorem test_vsca_hyps : starts (mod scaCore) q0 true [] [] 0 ∧ bitsN wVsca 25 19 = 0 ∧
    (((mod scaCore).core 0).sail 0).stage.find? (fun d => d.row == drRow wVsca) = some stageRow ∧ (((mod scaCore).core 0).sail 0).tileOf (drRow wVsca) = some (openTileOf scaDesc) ∧
    stageRow.entries = bitsN wVsca 17 8 ∧ bitsN wVsca 17 8 < qdScRow scaDesc ∧ qdScN scaDesc ≠ 0 ∧
    (((mod scaCore).core 0).seenTell ((2048 + 4 * ((5 - 5) * qdScRow scaDesc + 0)) / 64)) = ⟨.full, 1#8⟩ := by decide +kernel

theorem test_vsca : (((after (.vsca q0 wVsca) (mod scaCore)).core 0).sail 0).stage.map (fun d => d.entries) = [1] := by decide +kernel

/-! ### Fill, copy, release -/

/-- MFILL of slot 3 from s1, MCOPY of slot 0 to slot 3 with TAKE, MREL of slot 0. -/
def wFill : BitVec 80 := word 80 ([(0, 4), (66, 1)] ++ spo 6 12 0 2)
def wCopy : BitVec 80 := word 80 ([(0, 5)] ++ spo 6 12 0 2 ++ spo 30 0 0 1)
def wRel : BitVec 80 := word 80 ([(0, 8)] ++ spo 6 0 0 4)

theorem test_mfill_hyps : ((mod core0).core 0).engine = none ∧ starts (mod core0) q0 false [bitsN wFill 66 5] [] 0 ∧ bitsN wFill 71 9 = 0 ∧ bitsN wFill 30 24 = 0 ∧
    (mvSpo wFill).writes = true ∧ (mvSpo wFill).ofs % 4 = 0 ∧ writesWell q0 (mod core0) (mvSpo wFill) (mvCount wFill) 0 192 ∧ roomAt ((mod core0).core 0) 3 1 :=
  ⟨by decide +kernel, by decide +kernel, by decide, by decide, by decide, by decide, writesWell_of (by decide +kernel), by decide +kernel⟩

theorem test_mfill : Memory.read (landed (.mfill q0 wFill) (mod core0)).pad 252 = 5#8 ∧ ((mod { core0 with engine := some .fill }).core 0).late = [] ∧ ((after (.mfill q0 wFill) (mod core0)).core 0).engine = some .fill ∧
    ((after (.fillCopyDone 0) (mod { core0 with engine := some .fill })).core 0).engine = none := by decide +kernel

theorem test_mcopy_hyps : starts (mod padCore) q0 false [] [] 0 ∧ mvCount wCopy = 1 ∧ bitsN wCopy 66 14 = 0 ∧ (mvSpo wCopy).writes = true ∧ (spoAt wCopy 30).reads = true ∧
    (mvSpo wCopy).ofs % 4 = 0 ∧ (spoAt wCopy 30).ofs % 4 = 0 ∧ readsWell q0 (mod padCore) (spoAt wCopy 30) 64 0 ∧ writesWell q0 (mod padCore) (mvSpo wCopy) 1 0 192 ∧ roomAt ((mod padCore).core 0) 3 1 ∧
    ¬ (192 / 64 ≤ (0 + 63) / 64 ∧ 0 / 64 < 192 / 64 + 1) ∧ ((mod padCore).core 0).resolve q0.ctx 0 0 64 false 1 = .ok (0, 0) ∧ ((mod padCore).core 0).engine = none :=
  ⟨by decide +kernel, by decide, by decide, by decide, by decide, by decide, by decide, readsWell_of (ph := 0) (by decide +kernel), writesWell_of (by decide +kernel), by decide +kernel, by decide,
    resolved_ok (by decide +kernel), by decide +kernel⟩

theorem test_mcopy : (landed (.mcopy q0 wCopy) (mod padCore)).tells = [(0, ⟨.empty, 1#8⟩), (3, ⟨.full, 1#8⟩)] ∧
    (landed (.mcopy q0 wCopy) (mod padCore)).pad = [(56, 0x77#8), (63, 0x80#8), (248, 0x77#8), (255, 0x80#8)] := by decide +kernel

def heldCore : Core := { core0 with tells := [(0, ⟨.held, 1#8⟩), (1, ⟨.full, 1#8⟩)] }

theorem test_mrel : starts (mod heldCore) q0 false [] [] 0 ∧ bitsN wRel 66 14 = 0 ∧ bitsN wRel 30 24 = 0 ∧ (mvSpo wRel).mode = 4 ∧ (mvSpo wRel).ofs % 4 = 0 ∧
    resolved (((mod heldCore).core 0).resolve q0.ctx 0 0 (64 * mvCount wRel) false 4) = some (0, 0) ∧
    ((after (.mrel q0 wRel) (mod heldCore)).core 0).tells = [(0, ⟨.empty, 1#8⟩), (1, ⟨.full, 1#8⟩)] ∧ ((after (.mrel q0 wRel) (mod padCore)).core 0).tells = [(0, ⟨.full, 1#8⟩)] := by decide +kernel

/-! ### Mesh sends, appends, dispatch -/

/-- MSEND of slot 0 to slot 5 of context 2 of virtual core (11, 14) of field (0, 0). -/
def wSend : BitVec 80 := word 80 ([(0, 3), (36, 11), (40, 14), (44, 2)] ++ spo 6 0 0 0 ++ spo 46 20 0 2)

theorem test_msend_hyps : starts (mod padCore) q0 false [] [] 0 ∧ hasRoom q0 (mod padCore) 0 ∧ (mvSpo wSend).reads = true ∧ bitsN wSend 33 3 ≠ 7 ∧ bitsN wSend 70 9 = 0 ∧
    bitAt wSend 79 = false ∧ (spoAt wSend 46).writes = true ∧ (spoAt wSend 46).ofs % 4 = 0 ∧ bitsN wSend 36 4 ≤ 11 ∧ bitsN wSend 40 4 ≤ 14 ∧
    bitsN wSend 30 3 ≤ rigWF ((mod padCore).imgOf q0.core).rig ∧ bitsN wSend 33 3 ≤ rigHF ((mod padCore).imgOf q0.core).rig ∧ readsWell q0 (mod padCore) (mvSpo wSend) 64 0 :=
  ⟨by decide +kernel, by unfold hasRoom; decide +kernel, by decide, by decide, by decide, by decide, by decide, by decide, by decide, by decide, by decide +kernel, by decide +kernel,
    readsWell_of (ph := 0) (by decide +kernel)⟩

/-- No row is furled: virtual row 14 is physical row 14, and core (11, 14) is 179. -/
theorem test_msend : (after (.msend q0 wSend) (mod padCore)).fab.flits.map (fun f => (f.dst, f.ctx, f.ofs, f.vc, f.data.toNat / 2 ^ 504)) = [(179, 2, 320, 2, 0x80)] := by decide +kernel

/-- RSEND on tree 63, whose entry has two inputs, LOCAL the second, and an output. -/
def wRsend : BitVec 80 := word 80 ([(0, 6), (30, 63), (36, 511)] ++ spo 6 0 0 0 ++ spo 54 0 0 2)

def redCore : Core := { padCore with router := { red := [(63, word 32 [(0, 1), (1, 2), (4, 1), (7, 0), (19, 2)])] } }

theorem test_rsend_hyps : starts (mod redCore) q0 false [] [] 0 ∧ hasRoom q0 (mod redCore) 0 ∧ bitsN wRsend 78 2 = 0 ∧ bitsN wRsend 45 9 = 0 ∧ (spoAt wRsend 54).writes = true ∧
    (spoAt wRsend 54).ofs = 0 ∧ (spoAt wRsend 54).handle = 0 ∧ rnValid ((mod redCore).redEntry q0.core (bitsN wRsend 30 6)) = true ∧
    rnOut ((mod redCore).redEntry q0.core (bitsN wRsend 30 6)) ≠ 0 ∧ readsWell q0 (mod redCore) (mvSpo wRsend) 64 0 :=
  ⟨by decide +kernel, by unfold hasRoom; decide +kernel, by decide, by decide, by decide, by decide, by decide, by decide +kernel, by decide +kernel, readsWell_of (ph := 0) (by decide +kernel)⟩

theorem test_rsend : (after (.rsend q0 wRsend) (mod redCore)).fab.reds.map (fun f => (f.tree, f.fidx, f.tag, f.place)) = [(63, 511, 1, 1)] := by decide +kernel

/-- MERGE of a run of 32 slots from virtual core (3, 4), 180 requesters. -/
def wMerge : BitVec 80 := word 80 ([(0, 7), (30, 3), (34, 4), (38, 31), (43, 15), (47, 180)] ++ spo 6 0 0 0 ++ spo 55 0 0 2)

/-- The same core in a guarded replay. -/
def guardedState (c : Core) : State := { mod c with parts := [(0, { en := true, grp := { stepping := true, inStep := true, guarded := true } })] }

theorem test_sends_guarded : starts (guardedState redCore) q0 false [] [] 0 ∧ noInject (guardedState redCore) 0 = false ∧ ((guardedState redCore).grp 0).guarded = true ∧ ((guardedState redCore).grp 0).items = [] ∧
    ((after (.msend q0 wSend) (guardedState redCore)).grp 0).items.map (·.src) = [.arrival 0 0] ∧
    ((after (.rsend q0 wRsend) (guardedState redCore)).grp 0).items.map (·.src) = [.arrival 0 0] ∧
    ((after (.merge q0 wMerge) (guardedState redCore)).grp 0).items.map (·.src) = [.arrival 0 0] := by decide +kernel

theorem test_merge : bitAt wMerge 79 = false ∧ bitsN wMerge 30 4 ≤ 11 ∧ bitsN wMerge 34 4 ≤ 14 ∧ 2 ≤ bitsN wMerge 47 8 ∧ bitsN wMerge 47 8 ≤ 180 ∧ (mvSpo wMerge).mode = 0 ∧
    (mvSpo wMerge).reads = true ∧ (spoAt wMerge 55).writes = true ∧ (spoAt wMerge 55).ofs % 4 = 0 ∧ virtOf (mod padCore) ((mod padCore).imgOf q0.core) 0 = some (0, 0, 0, 0) ∧
    (after (.merge q0 wMerge) (mod padCore)).fab.merges.map (fun m => (m.holder, m.group, m.run, m.want)) = [(51, 15, 32, 180)] := by decide +kernel

/-- A KV geometry of one KV head of 64 elements and no sidecar entries; a descriptor of MXFP4 with that rotation and no capture, and its signs, in slot 60. -/
def kvGeo : Geo := { raw := word 512 [(48, 1), (56, 1)] }

def kvCore : Core := { Core.sReg core0 3 (word 64 [(16, 5), (36, 9), (63, 1)]) with
  tells := (List.range 4).map (fun j => (j, (⟨.full, 1#8⟩ : Tell))) ++ [(60, ⟨.held, 0#8⟩)]
  pad := [(0, 0x80#8), (1, 0x3F#8), (3840, 0x11#8), (3841, 1#8), (3844, 0x80#8), (3845, 0x7F#8), (3848, 0xE4#8), (3849, 1#8)]
  geos := [(0, kvGeo)], mast := { tlb := [(20, { wr := true, rid := 9, vpn := 5 })] } }

def wKv : BitVec 80 := word 80 ([(0, 9), (30, 3), (40, 240)] ++ spo 6 0 0 0)

theorem test_kvapq_hyps : starts (mod kvCore) q0 false [mvAreg wKv] [] 0 ∧ hasRoom q0 (mod kvCore) 0 ∧ bitsN wKv 57 23 = 0 ∧ (mvSpo wKv).reads = true ∧ (mvSpo wKv).take = false ∧
    (((mod kvCore).core 0).readRes q0.ctx (bitsN wKv 35 5) (16 * bitsN wKv 40 11) 16).viol = none ∧ AMap.find ((mod kvCore).core 0).geos 0 = some kvGeo ∧
    (let d : BitVec 128 := BitVec.ofNat 128 (((mod kvCore).core 0).readRes q0.ctx (bitsN wKv 35 5) (16 * bitsN wKv 40 11) 16).data
     qdOk d = true ∧ qdAfmt d = 1 ∧ qdWfmt d = 1 ∧ qdRot d = kvGeo.hdCode ∧ qdScRow d ≤ kvGeo.scmax) ∧
    (let r := (((mod kvCore).core 0).tc 0).rdS (mvAreg wKv)
     bitsN r.val 32 4 = 0 ∧ bitsN r.val 0 16 % kvGeo.recSize = 0 ∧ bitAt r.val 63 = true ∧ resolved (((mod kvCore).core 0).mast.translate r.val (kvGeo.recSize * 1) true) = some 1310720) ∧
    readsWell q0 (mod kvCore) (mvSpo wKv) (2 * kvGeo.elems * 1) 0 :=
  ⟨by decide +kernel, by unfold hasRoom; decide +kernel, by decide, by decide, by decide, by decide +kernel, by decide +kernel, by decide +kernel, by decide +kernel,
    readsWell_of (ph := 0) (by decide +kernel)⟩

theorem test_kvapq : ((after (.kvapq q0 wKv) (mod kvCore)).core 0).appends.map (fun a => (a.space, a.pma, a.rs, a.recs.length)) = [(0, 1310720, 128, 1)] := by decide +kernel

/-- An expert table of one expert at slot 60: one destination (the receiver of entry word), capacity 2, rows of one slot, two rows. -/
def xdCore : Core := { core0 with
  tells := [(0, ⟨.full, 1#8⟩), (1, ⟨.full, 1#8⟩), (60, ⟨.held, 0#8⟩)]
  handles := core0.handles.set 1 0x000103C0#32
  ctx := core0.ctx.set 0 { core0.tc 0 with tcnt := 2 }
  pad := [(64, 0#8), (65, 0#8)] ++ (List.range 30).map (fun i => (66 + i, 0xFF#8)) ++ [(3840, 1#8), (3841, 0x10#8), (3861, 0x28#8)] }

def wXd : BitVec 80 := word 80 ([(0, 0x0A), (63, 1)] ++ spo 6 0 0 0 ++ spo 30 4 0 0)

theorem test_xdisp_entry : (let e := xtEntry ((mod xdCore).core 0) 0 1 0
    (spoAt e 21).writes = true ∧ (spoAt e 21).ofs % 4 = 0 ∧ 0 < xeCap e) ∧ (((mod xdCore).core 0).readRes q0.ctx 1 16 16).viol = none ∧
    (((mod xdCore).core 0).readRes q0.ctx 1 0 16).poison = false ∧ rowWidth ((mod xdCore).core 0) 0 1 (xtHeader ((mod xdCore).core 0) 0 1) = 1 ∧
    noInject (mod xdCore) 0 = false ∧ (mod xdCore).guarded 0 = false ∧ ((mod xdCore).core 0).xtabs = [] := by decide +kernel

theorem test_xdisp_hyps : starts (mod xdCore) q0 false [] [] 0 ∧ hasRoom q0 (mod xdCore) 0 ∧ bitsN wXd 68 12 = 0 ∧ bitsN wXd 54 9 = 0 ∧ (mvSpo wXd).mode = 0 ∧ (spoAt wXd 30).mode = 0 ∧
    (mvSpo wXd).ofs % 4 = 0 ∧ (((mod xdCore).core 0).readRes q0.ctx 1 0 16).viol = none ∧ xhNexp (xtHeader ((mod xdCore).core 0) 0 1) = 1 ∧
    xhRows (xtHeader ((mod xdCore).core 0) 0 1) = 2 ∧ (xeDest (xtEntry ((mod xdCore).core 0) 0 1 0), xeCap (xtEntry ((mod xdCore).core 0) 0 1 0), xhRl (xtHeader ((mod xdCore).core 0) 0 1)) = (1, 2, 1) ∧
    (let x : BitVec 256 := BitVec.ofNat 256 (Memory.readN ((mod xdCore).core 0).pad 64 32)
     bitsN x 0 16 = 0 ∧ ∀ j, j < 16 → 0 < j → bitsN x (16 * j) 16 = 0xFFFF) ∧
    readsWell q0 (mod xdCore) (mvSpo wXd) 64 0 ∧ readsWell q0 (mod xdCore) (spoAt wXd 30) 32 64 :=
  ⟨by decide +kernel, by unfold hasRoom; decide +kernel, by decide, by decide, by decide, by decide, by decide, by decide +kernel, by decide +kernel, by decide +kernel, by decide +kernel,
    by decide +kernel, readsWell_of (ph := 0) (by decide +kernel), readsWell_of (ph := 0) (by decide +kernel)⟩

theorem test_xdisp : (after (.xdisp q0 wXd) (mod xdCore)).fab.flits.length = 2 ∧ ((after (.xdisp q0 wXd) (mod xdCore)).core 0).xtabs.map (fun x => (x.2.rows, x.2.sent)) = [(1, [(0, 1)])] := by
  decide +kernel

/-! ### Mast events -/

/-- A row of 0x99 in its last byte on its way to slots 4 and 5, a write and an append waiting for their answers. -/
def landing : Landing := ⟨7, 0, 0, 256, 1#8, true, 90, 90, BitVec.ofNat 1024 (0x99 * 2 ^ 1016), false, 3, 0⟩

def landCore : Core := { core0 with
  lands := [landing], tracks := [{ id := 7, ctx := 0, kind := .mastRead }, { id := 8, ctx := 0, kind := .mastWrite }, { id := 9, ctx := 0, kind := .kvAppend }]
  appends := [⟨9, 0, 0, [], 128, [], 0⟩] }

theorem test_land_hyps : ((mod landCore).core 0).lands = landing :: [] ∧ landing.poison = false ∧ landing.row ∉ ((mod landCore).core 0).mast.bad ∧
    Memory.wf ((mod landCore).core 0).pad = true ∧ (∀ d, d < 2 → (((mod landCore).core 0).tell (4 + d)).st = .empty ∧ ((mod landCore).core 0).fenced (4 + d) = false) ∧
    ((mod landCore).core 0).mast.bad = [] ∧ ((mod landCore).core 0).mast.ueRows = [] ∧ ((mod landCore).core 0).mast.reread = [] ∧ ((mod landCore).grp 0).inStep = true := by decide +kernel

theorem test_land : ((after (.mastRowLand 0 .clean) (mod landCore)).core 0).tells = [(4, ⟨.held, 1#8⟩), (5, ⟨.held, 1#8⟩)] ∧
    ((after (.mastRowLand 0 .clean) (mod landCore)).core 0).pad = [(383, 0x99#8)] ∧ ((after (.mastRowLand 0 .clean) (mod landCore)).grp 0).cyc = 90 := by decide +kernel

theorem test_land_uncorrectable : ((after (.mastRowLand 0 .uncorrectable) (mod landCore)).core 0).tells = [(4, ⟨.poison, 1#8⟩), (5, ⟨.poison, 1#8⟩)] ∧
    ((after (.mastRowLand 0 .uncorrectable) (mod landCore)).core 0).mast.reread = [3] ∧ (after (.mastRowLand 0 .uncorrectable) (mod landCore)).mst.ueTotal = 1 ∧
    ((after (.mastRowLand 0 .uncorrectable) (mod landCore)).grp 0).faults = [⟨4, 90⟩] := by decide +kernel

theorem test_acks : ((mod landCore).core 0).tracks.find? (fun k => k.kind == .mastWrite) = some { id := 8, ctx := 0, kind := .mastWrite } ∧
    ((mod landCore).core 0).appends = ⟨9, 0, 0, [], 128, [], 0⟩ :: [] ∧ ((after (.mastWriteAck 0) (mod landCore)).core 0).tracks.map (fun k => k.id) = [7, 9] ∧
    ((after (.kvapqAck 0 []) (mod landCore)).core 0).tracks.map (fun k => k.id) = [7, 8] := by decide +kernel

/-- The module between two steps. -/
def rest (c : Core) : State := { mod c with parts := [(0, { en := true, grp := { stepping := true } })] }

theorem test_outside : ((mod core0).field (0 / 192)).owned = true ∧ ((mod core0).grp 0).inStep = true ∧ ((mod core0).core 0).mast.svcEnd ≤ ((mod core0).grp 0).cyc ∧ ((rest core0).grp 0).inStep = false ∧
    ((after (.outsideMastAccess 0 true false 0 4194303 ⟨1#1024, .clean⟩) (mod core0)).core 0).mast.outside = [.access true 0 false (128 * 4194303) 1#1024 []] ∧
    ((after (.outsideMastAccess 0 true false 0 4194303 ⟨1#1024, .clean⟩) (rest core0)).core 0).mast.data = [(128 * 4194303, 1#8)] ∧
    ((after (.outsideMastAccess 0 false false 63 0 ⟨0#1024, .clean⟩) (rest core0)).core 0).mast.answered = [.row true true (BitVec.allOnes 1024)] := by decide +kernel

/-- Tier 2 with a debt of 10, of 14 and of 15. -/
def debtCore (n : Nat) : Core := { core0 with mast := { tiers := (Vector.replicate 4 {}).set 2 { debt := n } } }

theorem test_refresh_debt : ((mod (debtCore 10)).core 0).mast.tiers[(2 : Fin 4)].debt < 11 ∧ ((mod (debtCore 15)).core 0).mast.tiers[(2 : Fin 4)].debt = 15 ∧
    1 ≤ ((rest (debtCore 10)).core 0).mast.tiers[(2 : Fin 4)].debt ∧
    (((after (.refreshDebtTick 0 2) (mod (debtCore 10))).core 0).mast.tiers.toList.map (fun x => x.debt)) = [0, 0, 11, 0] ∧
    (((after (.refreshDebtTick 0 2) (mod (debtCore 15))).core 0).mast.tiers.toList.map (fun x => x.debt)) = [0, 0, 8, 0] ∧
    ((after (.refreshDebtTick 0 2) (mod (debtCore 15))).grp 0).faults = [⟨9, 0⟩] ∧
    (((after (.refreshCatchup 0 2) (rest (debtCore 10))).core 0).mast.tiers.toList.map (fun x => x.debt)) = [0, 0, 9, 0] := by decide +kernel

/-- A partition without a field, on the hot schedule. -/
def hotState : State := { State.reset with parts := [(5, { en := true, hotAsked := true })] }

theorem test_hot_off : hotState.coresOf (5 : Fin 64) = [] ∧ ((after (.hotOffDwellExpire ⟨5, 0⟩) hotState).part 5).hotAsked = false := by decide +kernel

/-- A page table whose two upper levels lead to the page entry of range 0, page 0 at 0x12000. -/
def tableMast : Mast := { pageBase := 20, tierMax := 3, data := [(0x10000, 0x01#8), (0x10001, 0x10#8), (0x10002, 0x01#8), (0x11000, 0x01#8), (0x11001, 0x20#8), (0x11002, 0x01#8)] }

/-- The same with page 0 mapped to granule 20. -/
def mappedMast : Mast := { tableMast with data := tableMast.data ++ [(0x12000, 1#8), (0x12002, 20#8)] }

theorem test_tables : ((rest { core0 with mast := tableMast }).core 0).mast.failed = false ∧ tableMast.pageBase ≤ (8191#13).toNat ∧ (8191#13).toNat / 2048 ≤ tableMast.tierMax ∧
    Memory.readN tableMast.data (8 * 8191) 8 % 2 = 0 ∧ tableMast.tableAddr 0 0 = (tableMast, some 0x12000) ∧ Memory.readN tableMast.data 0x12000 4 % 2 = 0 ∧
    mappedMast.walk 0 0 = some 0x12000 ∧ Memory.readN mappedMast.data 0x12000 4 % 2 = 1 ∧ ((rest { core0 with mast := mappedMast }).req 0).pageWork = [] ∧
    ((after (.tlbMap ⟨0, []⟩ 0#16 0#20 8191#13 true) (rest { core0 with mast := tableMast })).core 0).mast.held = [.install 8191 ⟨true, 0, 0⟩] ∧
    Memory.readN ((after (.tlbMap ⟨0, []⟩ 0#16 0#20 8191#13 true) (rest { core0 with mast := tableMast })).core 0).mast.data 0x12000 4 = 3 + 8191 * 2 ^ 16 ∧
    ((after (.tlbUnmap ⟨0, []⟩ 0#16 0#20) (rest { core0 with mast := mappedMast })).core 0).mast.held = [.remove 20] ∧
    ((after (.tlbRebuild 0) (rest { core0 with mast := mappedMast })).core 0).mast.held = [.reload] := by decide +kernel

/-! ### The mesh -/

def aFlit (dst : Nat) : Flit := ⟨0, 7, 0, dst, 0, 0, 128, 2#8, false, 0x77#512, false, 0, 2, none, false, 0, 0⟩

/-- Core 1 as `core0`; core 0 with a send outstanding; what is in flight. -/
def meshState (f : Fabric) : State := { mod { core0 with tracks := [{ id := 7, ctx := 0, kind := .meshSend }] } with
  cores := [(0, { core0 with tracks := [{ id := 7, ctx := 0, kind := .meshSend }] }), (1, core0)], fab := { f with fields := [(0, { owned := true, mode := .normal })] } }

theorem test_mesh_still : ((meshState {}).core 1).still ∧ ((mod landCore).core 0).still := ⟨still_of (by decide +kernel), still_of (by decide +kernel)⟩

theorem test_flit_arrives : (meshState { flits := [aFlit 1] }).fab.flits[0]? = some (aFlit 1) ∧ refusedAt (meshState { flits := [aFlit 1] }) 0 0 1 = none ∧
    lostLink (meshState { flits := [aFlit 1] }) 0 1 = none ∧ ((meshState { flits := [aFlit 1] }).grp 0).guarded = false ∧ ((meshState { flits := [aFlit 1] }).grp 0).inStep = true ∧
    Memory.wf ((meshState { flits := [aFlit 1] }).core 1).pad = true ∧ resolved (((meshState { flits := [aFlit 1] }).core 1).resolve 0 0 128 64 true 2) = some (0, 128) ∧
    (((meshState { flits := [aFlit 1] }).core 1).tell 2).st = .empty ∧ ((meshState { flits := [aFlit 1] }).core 1).fenced 2 = false ∧
    ((after (.meshFlitArrive 0 .visible) (meshState { flits := [aFlit 1] })).core 1).tells = [(2, ⟨.full, 2#8⟩)] ∧
    ((after (.meshFlitArrive 0 .visible) (meshState { flits := [aFlit 1] })).core 1).pad = [(128, 0x77#8)] ∧
    ((after (.meshFlitArrive 0 (.seamUe 0 3)) (meshState { flits := [aFlit 1] })).core 1).tells = [(2, ⟨.poison, 2#8⟩)] ∧
    ((after (.meshFlitArrive 0 (.seamUe 0 3)) (meshState { flits := [aFlit 1] })).seam 0).ueCnt = 1 := by decide +kernel

/-- Field 1 belongs to no partition. -/
theorem test_flit_refused : refusedAt (meshState { flits := [aFlit 192] }) 0 0 192 = some 192 ∧ ((meshState { flits := [aFlit 192] }).grp ((meshState { flits := [aFlit 192] }).corePart 0)).inStep = true ∧
    ((after (.meshFlitArrive 0 .visible) (meshState { flits := [aFlit 192] })).grp 0).faults = [⟨7, 0⟩] ∧
    (after (.meshFlitArrive 0 .visible) (meshState { flits := [aFlit 192] })).fab.isoTotal = 1 := by decide +kernel

theorem test_vc0 : (meshState { vc0 := [⟨0, 1, 0, 0, 192, 5#512⟩] }).fab.vc0[0]? = some ⟨0, 1, 0, 0, 192, 5#512⟩ ∧ (meshState { vc0 := [⟨0, 1, 0, 0, 192, 5#512⟩] }).corePart 1 = 0 ∧
    lostLink (meshState {}) (routerAt 95 (globalXY 1).2) 1 = none ∧
    resolved (((meshState {}).core 1).resolve 0 0 192 64 true 2) = some (0, 192) ∧
    ((after (.vc0MessageDeliver ⟨0, none⟩) (meshState { vc0 := [⟨0, 1, 0, 0, 192, 5#512⟩] })).core 1).tells = [(3, ⟨.full, 1#8⟩)] := by decide +kernel

def aRed (place : Nat) : RedFlit := ⟨0, 7, 0, 1, 63, 5, 1, place, 0#512, false, 0, false⟩

def redState (r : Router) : State := { meshState { reds := [aRed 0] } with
  cores := [(1, { core0 with router := { r with red := [(63, word 32 [(0, 1), (1, 3), (4, 1), (7, 0), (19, 2)])] } })] }

theorem test_reduction_arrives : (redState {}).fab.reds[0]? = some (aRed 0) ∧ refusedAt (redState {}) 0 0 1 = none ∧ lostLink (redState {}) 0 1 = none ∧ ((redState {}).grp 0).guarded = false ∧ rnValid ((redState {}).redEntry 1 63) = true ∧
    1 < rnNin ((redState {}).redEntry 1 63) ∧ ((redState {}).core 1).router.parts = [] ∧ ((redState {}).core 1).router.sums = [] ∧
    ((after (.reductionFlitArrive ⟨0, none⟩) (redState {})).core 1).router.sums = [⟨63, 5, 1, 1, 0#512, false, 0⟩] := by decide +kernel

theorem test_reduction_adds : ((redState { sums := [⟨63, 5, 1, 1, 0x3F800000#512, false, 7⟩], parts := [⟨63, 5, 1, 1, 0x40000000#512, false, 9⟩] }).core 1).router.sums =
      [⟨63, 5, 1, 1, 0x3F800000#512, false, 7⟩] ∧ 1 + 1 ≠ rnNin ((redState {}).redEntry 1 63) ∧
    ((after (.reductionAddDone 1 63 5 1#8) (redState { sums := [⟨63, 5, 1, 1, 0x3F800000#512, false, 7⟩], parts := [⟨63, 5, 1, 1, 0x40000000#512, false, 9⟩] })).core 1).router.sums =
      [⟨63, 5, 1, 2, 0x40400000#512, false, 12⟩] := by decide +kernel

def aMerge : MergeMsg := ⟨1, 0, 15, 1#8, 0, 0, 0, 1, 2, ⟨0, 0, 0, 64, 1#8, false, 7, 0, false⟩⟩

theorem test_merge_arrives : (meshState { merges := [aMerge] }).fab.merges[0]? = some aMerge ∧ refusedAt (meshState { merges := [aMerge] }) 0 0 1 = none ∧
    lostLink (meshState { merges := [aMerge] }) 0 1 = none ∧ ((meshState { merges := [aMerge] }).core 1).router.waiting = [] ∧
    ((meshState { merges := [aMerge] }).core 1).router.merges = [] ∧ (15, 1#8) ∉ ((meshState { merges := [aMerge] }).core 1).router.closed ∧
    ((after (.mergeRequestArrive ⟨0, none⟩) (meshState { merges := [aMerge] })).core 1).router.merges.map (fun e => (e.group, e.want, e.reqs.length)) = [(15, 2, 1)] := by decide +kernel

/-- The holder of an open entry of one requester, its slot 0 FULL with the entry's tag. -/
def holderState : State := { meshState {} with cores := [(1, { Core.fill core0 1 with router := { merges := [⟨15, 1#8, 0, 0, 0, 1, 2, [aMerge.req]⟩] } })] }

theorem test_merge_still : (holderState.core 1).still ∧ ∀ q ∈ [aMerge.req], q.poison = false := ⟨still_of (by decide +kernel), by decide⟩

theorem test_merge_closes : (holderState.core 1).router.waiting = [] ∧ (15, 1#8) ∉ (holderState.core 1).router.closed ∧ resolved ((holderState.core 1).resolve 0 0 0 64 false 0) = some (0, 0) ∧
    ((holderState.core 1).tell 0).st = .full ∧ ((holderState.core 1).tell 0).tag = 1#8 ∧
    (after (.mergeEntryClose 1 15 1#8) holderState).fab.flits.map (fun f => (f.src, f.dst, f.ofs, f.merged)) = [(1, 0, 64, true)] ∧
    ((after (.mergeEntryClose 1 15 1#8) holderState).core 1).router.closed = [(15, 1#8)] := by decide +kernel

/-- A merge entry that its second request fills closes without being remembered, and the request that waited opens its own. -/
theorem test_merge_admits :
    (let s : State := { meshState { merges := [aMerge] } with cores := [(1, { Core.fill core0 1 with router := {
      merges := [⟨15, 1#8, 0, 0, 0, 1, 2, [aMerge.req]⟩], waiting := [⟨3, 1#8, 0, 0, 0, 1, 2, [aMerge.req]⟩] } })] }
     let t := after (.mergeRequestArrive ⟨0, none⟩) s
     t.fab.flits.length = 2 ∧ (t.core 1).router.closed = [] ∧ (t.core 1).router.waiting = [] ∧ (t.core 1).router.merges.map (·.group) = [3]) := by decide +kernel

/-- In a guarded replay a send arms its item, which ends as its flit arrives. -/
theorem test_guarded_send :
    (let s0 := mod padCore
     let s : State := { s0 with parts := AMap.mapAll s0.parts (fun _ p => { p with grp := { p.grp with guarded := true } }) }
     let t := after (.msend q0 wSend) s
     (t.grp 0).items.map (fun i => (i.src, i.ended)) = [(.arrival 0 0, false)] ∧
     ((after (.meshFlitArrive 0 .visible) t).grp 0).items.map (·.ended) = [true]) := by decide +kernel

theorem test_credit : ((meshState {}).core 0).tracks.find? (fun e => e.id == 7 && (e.kind == .meshSend || e.kind == .dispatch)) = some { id := 7, ctx := 0, kind := .meshSend } ∧
    ((meshState {}).slice 0).sends = [] ∧ ((after (.deliveryCreditReturn 0 7) (meshState {})).core 0).tracks = [] := by decide +kernel

/-! ### Seams and fixed-hop mode -/

def seamState : State := { mod core0 with fab := { (mod core0).fab with seams := [(87, { links := [(15, { up := true, pend := true })] })] } }

theorem test_seam : (AMap.at (seamState.seam 87).links {} 15).pend = true ∧ 16 * seamState.fab.retrainThr = 1024 ∧
    AMap.at ((after (.seamLaneLockLoss 0 0) (mod core0)).seam 0).links {} 0 = { pend := true } ∧
    AMap.at ((after (.seamErrorWindow 0 0 ⟨1024, false⟩) (mod core0)).seam 0).links {} 0 = {} ∧ AMap.at ((after (.seamErrorWindow 0 0 ⟨1025, false⟩) (mod core0)).seam 0).links {} 0 = { pend := true } ∧
    AMap.at ((after (.seamErrorWindow 0 0 ⟨0, true⟩) (mod core0)).seam 0).links {} 0 = { pend := true } ∧ mayRetrain seamState 87 = true ∧
    AMap.at ((after (.seamRetrainDone 87 15 8) seamState).seam 87).links {} 15 = { up := true, spares := 8 } ∧
    AMap.at ((after (.seamRetrainDone 87 15 9) seamState).seam 87).links {} 15 = { failed := true } := by decide +kernel

/-- Field 0 draining; with nothing of it in flight. -/
def drainState (m : MeshMode) (d own : Bool) : State := { State.reset with fab := { fields := [(0, { owned := own, mode := m, drained := d })] } }

theorem test_fixed_hop : fieldEmpty (drainState .draining false false) (0 : Fin 48) = true ∧ ((drainState .draining true true).field 0).drained = true ∧
    (∀ j, j < 48 → (1#48).getLsbD j = true → ((drainState .draining true true).field j).mode = .draining ∧ ((drainState .draining true true).field j).drained = true) ∧
    ((after (.fixedHopEnter 1#48) (mod core0)).field 0).mode = .draining ∧ ((after (.fixedHopDrainDone 0) (drainState .draining false false)).field 0).drained = true ∧
    ((after (.fixedHopDrainTimeout 0) (drainState .draining false false)).field 0).mode = .dark ∧
    ((after (.fixedHopStartTick 1#48 9#64) (drainState .draining true true)).field 0).hopOrigin = some 9 ∧
    ((after (.fixedHopExitTick 1#48 9#64) (drainState .fixedHop true true)).field 0).mode = .normal := by decide +kernel

/-- One entry whose bits of the injecting cycle all name no output. -/
theorem test_hop_table : hopOk [0x7FFF#15] = true ∧ hopOk [] = false ∧ ((after (.hopTableLoad 0 [0x7FFF#15]) (mod core0)).core 0).router.hop.length = 1 := by decide +kernel

/-! ### Norm checks, escalation, luffs -/

/-- A watch entry: LO2, HI2 and the number of rungs. -/
def watchOf (lo hi rungs : Nat) : BitVec 256 := word 256 [(0, lo), (32, hi), (64, rungs)]

theorem test_breaches : breaches (watchOf 0x3F800000 0x40000000 0) 0x40000000#32 = false ∧ breaches (watchOf 0x3F800000 0x40000000 0) 0x40000001#32 = true ∧
    breaches (watchOf 0x3F800000 0x40000000 0) 0x3F7FFFFF#32 = true ∧ breaches (watchOf 0 0x7F800000 0) 0x7F800000#32 = true := by decide +kernel

theorem test_non_finite_column : nonFinite32 (lane32 (lanes 0x7F800000#32) 63) = true ∧ nonFinite32 (rowNorm (lanes 0x7F800000#32)) = true := by decide +kernel

/-- Row 5 of sail 0 in the stage with lanes of zero, final or bound for an escalation; its tile holds rows 5 and 6. -/
def escCore (w : BitVec 256) (es : List EscRow) (ph : EscPhase) : Core := { core0 with
  sails := (Vector.replicate 4 {}).set 0 { tile := some { openTileOf 0#128 with watch := w }, stage := [stageRow], esc := es, phase := ph } }

theorem test_norm_check_hyps : (((mod (escCore (watchOf 0 0x7F800000 0) [] .idle)).core 0).sail 0).stage.find? (fun d => d.row == 5) = some stageRow ∧
    (((mod (escCore (watchOf 0 0x7F800000 0) [] .idle)).core 0).sail 0).tileOf 5 = some { openTileOf 0#128 with watch := watchOf 0 0x7F800000 0 } ∧
    stageRow.ready { openTileOf 0#128 with watch := watchOf 0 0x7F800000 0 } = true ∧
    maskRung (mod (escCore (watchOf 0 0x7F800000 0) [] .idle)) 0 0 { openTileOf 0#128 with watch := watchOf 0 0x7F800000 0 } 5 = none ∧
    breaches (watchOf 0 0x7F800000 0) (rowNorm stageRow.val) = false ∧ breaches (watchOf 1 0x7F800000 3) (rowNorm stageRow.val) = true ∧ 5 - 5 ∉ (openTileOf 0#128).ovf ∧
    wRungs (watchOf 1 0x7F800000 3) ≠ 0 ∧ wRungs (watchOf 1 0x7F800000 0) = 0 ∧ (mod core0).escMode 0 ≠ 2 ∧
    (∀ d, d < 4 → (((mod (escCore (watchOf 0 0x7F800000 0) [] .idle)).core 0).tell (8 + d)).st = .empty) := by decide +kernel

theorem test_norm_check : (((after (.rowNormCheck 0 0 5) (mod (escCore (watchOf 0 0x7F800000 0) [] .idle))).core 0).tells.map (fun x => x.1)) = [8, 9, 10, 11] ∧
    (((after (.rowNormCheck 0 0 5) (mod (escCore (watchOf 1 0x7F800000 3) [] .idle))).core 0).sail 0).esc = [⟨5, 0, 1⟩] ∧
    ((after (.rowNormCheck 0 0 5) (mod (escCore (watchOf 1 0x7F800000 3) [] .idle))).grp 0).items = [{ src := .escalation 0 0, u := 20 }] := by decide +kernel

/-- A blocked row is counted on its core, whichever request it belongs to. -/
theorem test_norm_blocked : ((after (.rowNormCheck 0 0 5) (mod (escCore (watchOf 1 0x7F800000 0) [] .idle))).core 0).stat.escBlock = 1 := by decide +kernel

theorem test_norm_still : ((mod (escCore (watchOf 0 0x7F800000 0) [] .idle)).core 0).still ∧ ((mod (escCore (watchOf 0 0x7F800000 0) [] .idle)).grp 0).stalled = none ∧
    (((mod (escCore (watchOf 0 0x7F800000 0) [] .idle)).core 0).sail 0).esc.any (fun e => e.row == 5) = false ∧
    ((mod core0).grp 0).items.all (fun e => e.src != .escalation 0 0 || e.ended) = true ∧ Memory.wf ((mod (escCore (watchOf 0 0x7F800000 0) [] .idle)).core 0).pad = true ∧
    ∀ d, d < 4 → ((mod (escCore (watchOf 0 0x7F800000 0) [] .idle)).core 0).fenced (8 + d) = false :=
  ⟨still_of (by decide +kernel), by decide +kernel, by decide +kernel, by decide +kernel, by decide +kernel, by decide +kernel⟩

/-- The same, its watch entry naming one rung whose descriptor (AFMT and WFMT 5) stands in slot 60. -/
def passCore (es : List EscRow) (ph : EscPhase) : Core := { escCore (watchOf 0 0x7F800000 1 ||| word 256 [(101, 240)]) es ph with tells := [(60, ⟨.held, 0#8⟩)], pad := [(3840, 0x55#8)] }

def passTile : OutTile := { openTileOf 0#128 with watch := watchOf 0 0x7F800000 1 ||| word 256 [(101, 240)] }

theorem test_pass_hyps : (((mod (passCore [⟨5, 0, 1⟩] .passing)).core 0).sail 0).phase = .passing ∧ (((mod (passCore [⟨5, 0, 1⟩] .passing)).core 0).sail 0).tileOf 5 = some passTile ∧
    wLayer passTile.watch = false ∧
    (let o := passTile
     let c := (mod (passCore [⟨5, 0, 1⟩] .passing)).core 0
     let r := repeatRow c o.watch (rungQd c o) (rungSigns c o 1) o.ops (AMap.at o.init {} 5).val (5 - o.acc0) 1
     breaches o.watch (rowNorm r.1) = false ∧ r.2 = false ∧ qdOk (rungQd c o 1) = true ∧ qdScN (rungQd c o 1) = 0 ∧ (∀ r ∈ rungReads c o 1, r.viol = none ∧ r.poison = false) ∧
     rungPoison o 1 (c.mast.poison ++ c.mast.bad) = false ∧ stageRow.poison = false ∧ (AMap.at o.init {} 5).poison = false ∧ Memory.wf c.pad = true ∧
     ∀ d, d < 4 → (c.tell (8 + d)).st = .empty ∧ c.fenced (8 + d) = false) := by decide +kernel

theorem test_pass_end : (((after (.escalationPassEnd 0 0 [] none) (mod (passCore [⟨5, 0, 1⟩] .passing))).core 0).sail 0).phase = .restoring ∧
    (((after (.escalationPassEnd 0 0 [] none) (mod (passCore [⟨5, 0, 1⟩] .passing))).core 0).tells.map (·.1)) = [8, 9, 10, 11, 60] ∧
    ((after (.escalationPassEnd 0 0 [] none) (mod (passCore [⟨5, 0, 1⟩] .passing))).core 0).stat.escPass = 1 ∧
    (((after (.escalationRestoreDone 0 0) (mod (passCore [] .restoring))).core 0).sail 0).phase = .idle := by decide +kernel

/-- A group with luff items: one that has begun, and one that the stalled cycle has not reached. -/
def luffState (st : Option Nat) (b e : Bool) : State := { mod core0 with
  parts := [(0, { en := true, grp := { stepping := true, inStep := true, stalled := st, items := [⟨.corrected 0 3 60, 40, b, e, false⟩, ⟨.late 0 7, 90, false, false, false⟩] } })] }

theorem test_luff : ((luffState none false false).grp 0).nextStall = some 40 ∧ ((luffState none false false).grp 0).inStep = true ∧
    ((luffState (some 40) true true).grp 0).stalled = some 40 ∧ (∀ i ∈ ((luffState (some 40) true true).grp 0).items, i.ended = true ∨ i.boundary = true ∨ 40 < i.u) ∧
    (∃ i ∈ ((luffState (some 40) true false).grp 0).items, i.begun = true ∧ i.ended = false) ∧
    ((after (.luffStallBegin 0) (luffState none false false)).grp 0).stalled = some 40 ∧ ((after (.luffStallBegin 0) (luffState none false false)).grp 0).cyc = 40 ∧
    ((after (.luffItemEnd 0 0) (luffState (some 40) true false)).grp 0).items.map (fun i => i.ended) = [true, false] ∧
    ((after (.luffItemEnd 0 0) (luffState none false false)).grp 0).items.map (fun i => i.ended) = [false, false] ∧
    ((luffState none false false).core 0).lands = [] ∧ ((after (.luffItemEnd 0 1) (luffState none false false)).grp 0).items.map (fun i => i.ended) = [false, true] ∧
    ((after (.luffLineDrop 0) (luffState (some 40) true true)).grp 0).stalled = none ∧ ((after (.luffLineDrop 0) (luffState (some 40) true false)).grp 0).stalled = some 40 := by
  decide +kernel

/-- A timed-out group without a core. -/
def lateState : State := { State.reset with parts := [(3, { en := true, grp := { inStep := true, items := [⟨.overflow 0, 40, true, false, false⟩] } })] }

theorem test_luff_timeout : (∃ i ∈ (lateState.grp (3 : Fin 64)).items, i.begun = true ∧ i.ended = false ∧ i.src.inField lateState 3 0 = true) ∧
    (∀ i ∈ (lateState.grp (3 : Fin 64)).items, i.begun = true → i.ended = false → i.src.inField lateState 3 1 = false) ∧ (lateState.grp (3 : Fin 64)).inStep = true ∧
    after (.luffTimeout 3 1) lateState = lateState ∧ ((after (.luffTimeout 3 0) lateState).grp 3).items = [] ∧
    ((after (.luffTimeout 3 0) lateState).grp 3).faults.map (fun f => f.code) = [8] := by decide +kernel

/-! ### Overflow passes -/

/-- Cores 0 and 1 of field 0 take part in an overflow pass for expert 3, pass 1, and, after it, one for expert 4; the item has begun. -/
def ovfState (ph : OvfPhase) (c : Core) (begun : Bool) : State := { mod c with
  cores := [(0, c), (1, c)]
  fab := { fields := [(0, { owned := true, mode := .normal, ovf := some { tables := [], entry := 77, queue := [(3, 1), (4, 2)], phase := ph } })] }
  parts := [(0, { en := true, grp := { stepping := true, inStep := true, items := [⟨.overflow 0, 40, begun, false, false⟩, ⟨.escalation 0 0, 40, begun, false, false⟩] } })] }

theorem test_overflow_save : fieldCores (ovfState .armed core0 true) 0 = [0, 1] ∧ ((ovfState .armed core0 true).core 1).saved = none ∧
    ((after (.sequencerSaveDone 0 none) (ovfState .armed core0 true)).core 0).saved.isSome = true ∧
    (((ovfState .armed (escCore 0#256 [⟨5, 0, 1⟩] .saving) true).core 0).sail 0).phase = .saving ∧
    (((after (.sequencerSaveDone 0 (some 0)) (ovfState .armed (escCore 0#256 [⟨5, 0, 1⟩] .saving) true)).core 0).sail 0).phase = .passing := by decide +kernel

theorem test_overflow_dispatch : (∀ f ∈ (ovfState .sending core0 true).fab.flits, f.src / 192 ≠ 0) ∧
    ((((after (.overflowDispatchDone 0) (ovfState .sending core0 true)).core 1).tc 0).pc = 77#13) ∧
    (((after (.overflowDispatchDone 0) (ovfState .sending core0 true)).core 1).tc 0).sAt 1 = ⟨1#64, false⟩ := by decide +kernel

/-- The routine has ended on both cores, whose registers stood at 5 before it. -/
def doneCore : Core := { Core.ctx0 core0 (fun x => { x with ended := true, s := x.s.set 1 ⟨9#64, false⟩ }) with saved := some { tc0 := core0.tc 0, sails := core0.sails, pattern := core0.pattern } }

theorem test_overflow_routine : (∀ m ∈ fieldCores (ovfState .routine doneCore true) 0, (((ovfState .routine doneCore true).core m).tc 0).ended = true) ∧
    (((after (.overflowRoutineDone 0) (ovfState .routine doneCore true)).core 1).tc 0).sAt 1 = ⟨5#64, false⟩ ∧
    ((after (.overflowRoutineDone 0) (ovfState .routine doneCore true)).field 0).ovf.map (fun r => r.queue) = some [(4, 2)] := by decide +kernel

/-! ### Boundaries -/

/-- Partition 3, with image slot 0 LOADED on no field; in a step, or between two, or without an image. -/
def stepState (inStep : Bool) (img : SlotState) : State := { State.reset with
  parts := [(3, { en := true, slots := (Vector.replicate 4 {}).set 0 { st := img }, grp := { inStep := inStep, step := 7, carry := [⟨1, 0⟩] }, req := { commits := [⟨0, [], 0, 0⟩], keff := [(0, 0)] } })] }

theorem test_step_end : endReady (stepState true .loaded) (3 : Fin 64) = true ∧ ((after (.stepEndBoundary 3 0#64) (stepState true .loaded)).grp 3).inStep = false ∧
    ((after (.stepEndBoundary 3 0#64) (stepState true .loaded)).req 3).commits = [] := by decide +kernel

theorem test_step_start : ((stepState false .loaded).grp 3).held = false ∧ ((stepState false .loaded).part 3).resetAsked = false ∧ ((stepState false .loaded).part 3).emptying = [] ∧
    ((stepState false .loaded).img 3 0).st = .loaded ∧ slotSteps (stepState false .loaded) 3 0 = true ∧ mayStep (stepState false .loaded) 3 = true ∧ sliceReady (stepState false .loaded) 3 9 = true ∧
    (∀ i ∈ ((stepState false .loaded).grp 3).items, i.boundary = true → i.ended = true) ∧
    ((after (.stepStartBoundary 3 9#64) (stepState false .loaded)).grp 3).step = 8 ∧ ((after (.stepStartBoundary 3 9#64) (stepState false .loaded)).grp 3).faults = [⟨1, 0⟩] := by decide +kernel

theorem test_idle_boundary : isStepping (stepState false .empty) 3 = false ∧ (1000000#64).toNat % 1000000 = 0 ∧ (0#64).toNat % 1000000 = 0 ∧
    ((after (.idleBoundary 3 1000000#64) (stepState false .empty)).grp 3).stepping = false := by decide +kernel

/-- A declared current of 1000 mA in phase 0. -/
def windowState (m : Nat) : State := { mod { core0 with decl := [(0, 1000)], winMax := 1000 } with
  parts := [(0, { en := true, slots := (Vector.replicate 4 {}).set 0 { st := .loaded }, grp := { stepping := true, inStep := true, step := m } })] }

theorem test_current_window : mayStep (windowState 0) 0 = true ∧ ((after (.imageCurrentWindow 0 1100) (windowState 0)).grp 0).quarNext = false ∧
    ((after (.imageCurrentWindow 0 1101) (windowState 0)).grp 0).quarNext = true := by decide +kernel

/-! ### The sheet fabric -/

/-- Partition 0 is rank 0 of a slice of two modules with identifier 9; port 7 leads to rank 1, whose serial is 0xBB. Slot 0's image receives 4 flits of rank 1 on route 2. -/
def sheetState (f : Slice → Slice) : State := { State.reset with
  serial := 0xAA#64
  parts := [(0, { en := true, grp := { inStep := true }, slots := (Vector.replicate 4 {}).set 0 { st := .loaded, sheet := { recvs := [word 128 [(0, 1), (3, 2), (11, 3), (32, 500)]], gateDue := 700 } }
                  slice := f { id := 9, rank := 0, mods := 1, serials := [0xAA#64, 0xBB#64], st := .up } })]
  sheet := { planOwn := 0xAA#64, ports := [(7, { check := .ok, link := true, enabled := true, planSerial := 0xBB#64, planPort := 3, peer := some (0xBB#64, 3), peerGood := some true })] } }

/-- A frame of rank 1 on route 2 with its ERR bit. -/
def sheetHead (err : Bool) : BitVec 128 := frameHead 0 0 9 1 err 2 0 0 77

theorem test_sheet_hyps : accepts (sheetState id) 7 (sheetHead false) = some 0 ∧ accepts (sheetState id) 6 (sheetHead false) = none ∧ fhStep (sheetHead false) = ((sheetState id).grp 0).step % 256 ∧
    (recvEntry (sheetState id) 0 1 2).isSome = true ∧ fhErr (sheetHead true) = true ∧ fhErr (sheetHead false) = false ∧ ((sheetState id).slice 0).rank = 0 ∧ ((sheetState id).grp 0).inStep = true := by decide +kernel

theorem test_tensor : (after (.sheetTensorFrame 7 (sheetHead false) 0#64 [(5#512, false), (6#512, true)]) (sheetState id)).fab.flits.map (fun f => (f.src, f.sheet, f.poison)) =
      [(9216, some (1, 2), false), (9216, some (1, 2), true)] ∧
    (after (.sheetTensorFrame 7 (sheetHead false) 0#64 (List.replicate 5 (0#512, false))) (sheetState id)).fab.flits.length = 4 := by decide +kernel

/-- A send of core 0 whose last flit's credit is outstanding. -/
def creditState : State := { sheetState (fun y => { y with sends := [⟨0, 7, 1, 2, 1⟩] }) with cores := [(0, { tracks := [{ id := 7, ctx := 0, kind := .meshSend }] })] }

theorem test_credit_frame : accepts creditState 7 (sheetHead false) = some 0 ∧ (creditState.slice 0).sends = [⟨0, 7, 1, 2, 1⟩] ∧ 1 ≤ fhNflit (sheetHead false) ∧
    ((after (.sheetCreditFrame 7 (sheetHead false)) creditState).slice 0).sends = [] ∧ ((after (.sheetCreditFrame 7 (sheetHead false)) creditState).core 0).tracks = [] := by decide +kernel

theorem test_gate_stamp_notice : ((after (.sheetGateFrame 7 (sheetHead true)) (sheetState id)).grp 0).faults.map (fun f => f.code) = [0x13] ∧
    AMap.find ((after (.sheetEndStampFrame 7 (sheetHead false) []) (sheetState id)).slice 0).stamps 1 = some 77 ∧
    ((after (.sheetNoticeFrame 7 (sheetHead false) 3 true 0) (sheetState id)).slice 0).st = .lost ∧
    ((after (.sheetGateFrame 6 (sheetHead true)) (sheetState id)).port 6).iso = 1 := by decide +kernel

theorem test_sheet_waits : (recvEntry (sheetState id) (0 : Fin 64) (1 : Fin 8) (2 : Fin 256)).isSome = true ∧ AMap.at ((sheetState id).slice 0).seen 0 258 < 4 ∧
    ((sheetState id).grp 0).items = [] ∧ ((sheetState id).slice 0).gates = [] ∧ ((sheetState id).slice 0).mods ≠ 0 ∧
    ((after (.sheetWaitArm 0 1 2) (sheetState id)).grp 0).items.map (fun i => i.u) = [500] ∧ ((after (.gateDueArm 0) (sheetState id)).grp 0).items.map (fun i => i.u) = [700] := by decide +kernel

/-- The same slice with its own end stamp at 0, and, SUSPECT, with no way to rank 1 since tick 0. -/
def stampState : State := sheetState (fun y => { y with stamps := [(0, 0)] })

def suspectState : State := { sheetState (fun y => { y with st := .suspect, stamps := [(0, 0)], downAt := [(1, 0)] }) with sheet := {} }

theorem test_slice_late_lost : (stampState.slice 0).st = .up ∧ (otherRanks (stampState.slice 0)).contains 1 = true ∧ stampPassed stampState 0 1000001 1 1000000 = true ∧
    stampPassed stampState 0 1000000 1 1000000 = false ∧ (stampState.slice 0).late = [] ∧ (suspectState.slice 0).st = .suspect ∧ lossPassed suspectState 0 50000001 1 = true ∧
    lossPassed suspectState 0 50000000 1 = false ∧ stampPassed suspectState 0 100000001 1 (1000000 * suspectState.sheet.stampMs) = true ∧
    ((after (.sliceStampLate 0 ⟨1, 1000001#64⟩) stampState).slice 0).st = .suspect ∧ ((after (.sliceLossTimeout 0 ⟨1, 50000001#64⟩) suspectState).slice 0).lostMask = 2 ∧
    ((after (.stampWaitTimeout 0 ⟨1, 100000001#64⟩) suspectState).slice 0).st = .lost := by decide +kernel

/-- Port 7 before its check, during it, and with a peer that the plan does not name. -/
def portState (f : SheetPort → SheetPort) : State := { sheetState id with
  sheet := { planOwn := 0xAA#64, ports := [(7, f { planSerial := 0xBB#64, planPort := 3, link := true, check := .checking })], tport := 7, stepped := true } }

/-- A state at READY. -/
def atReady (s : State) : State := { s with sys := { s.sys with clk := { s.sys.clk with phase := 12 } } }

theorem test_ports : ((portState id).port 7).planSerial ≠ 0#64 ∧ (portState id).sheet.planOwn = (portState id).serial ∧ ((portState id).port 7).link = true ∧ ((portState id).port 7).check = .checking ∧
    ((after (.sheetPortLinkUp ⟨7, 0⟩) (atReady (portState id))).port 7).check = .checking ∧ (after (.sheetPortLinkUp ⟨7, 0⟩) (portState id)).host.out = [] ∧
    sheetLit (atReady (portState id)) 7 = true ∧
    (after (.sheetPortLinkUp ⟨7, 0⟩) (atReady (portState id))).host.out = [.sheet 7 5 ((frameHead 5 0 0 0 false 0 0 0 0).toNat + 2 ^ 128 * (0xAA + 2 ^ 64 * 7))] ∧
    ((after (.sheetIdentFrame 7 0xBB#64 3 (some true) none) (portState id)).port 7).check = .ok ∧
    ((after (.cablingVerdictTimeout ⟨7, 2000000001#64⟩) (portState (fun y => { y with peer := some (0xCC#64, 3) }))).port 7).check = .miscabled ∧
    firstUp (portState (fun y => { y with peer := some (0xCC#64, 3) })) 7 = some 0 ∧ ((after (.sheetPortLinkDown ⟨7, 0, 0⟩) (portState id)).port 7).downCnt = 1 := by decide +kernel

/-- A frame in flight on port 7 goes by port 2, whose peer is the same; a module that the peer follows answers its question. -/
theorem test_resend_answer :
    (let s : State := { portState id with sheet := { ports := [(2, { enabled := true, peer := some (0xBB#64, 1) }), (7, { link := true, check := .ok, enabled := true, peer := some (0xBB#64, 3), flight := [(5, 0, 77)] })], leader := true } }
     (after (.sheetPortLinkDown ⟨7, 1, 355⟩) s).host.out = [.sheet 2 0 77] ∧ (after (.sheetPortLinkDown ⟨7, 1, 356⟩) s).host.out = [] ∧
     (after (.sheetTimeFrame 7 (sheetHead false) ⟨0, 9⟩) s).host.out = [.sheet 7 6 ((frameHead 6 0 0 0 false 0 0 0 9).toNat + 2 ^ 128 * 9)]) := by decide +kernel

/-- A follower on port 7 whose question left at tick 3. -/
def followState (known : Bool) : State :=
  let s := portState (fun y => { y with enabled := true })
  { s with sheet := { s.sheet with sentAt := some 3, stepped := known } }

theorem test_sheet_time : (followState true).sheet.leader = false ∧ (followState true).sheet.tport = (7 : Fin 8) ∧ ((followState true).port 7).enabled = true ∧
    (after (.sheetTimeFrame 7 (sheetHead false) ⟨5, 9⟩) (followState true)).sheet.locked = true ∧ (after (.sheetTimeFrame 7 (sheetHead false) ⟨5, 9⟩) (followState true)).sheet.lastTime = 9 ∧
    (after .timeExchangeTick { followState true with tb := 4 }).sheet.sentAt = some 4 ∧ (portState id).sheet.hold = false ∧
    (after .timeHoldTimeout { portState id with tb := 10000001#64 }).sheet.hold = true := by decide +kernel

/-- Before READY no step goes back too far. -/
theorem test_time_first_lock : (followState false).sheet.stepped = false ∧ (∀ v, backStep ((followState false).atTick 9) v = false) ∧
    (after (.sheetTimeFrame 7 (sheetHead false) ⟨5, 9⟩) (followState false)).sys.clk.firstLock = true := ⟨by decide +kernel, fun _ => rfl, by decide +kernel⟩

/-! ### Requests -/

/-- A module up with partition 0's home link 0 trained and its function a bus master; entry 0, stop set 0, decode slots 0 and 1; queue 0 with one submission. -/
def reqState (f : ReqPart → ReqPart) (e : Entry) : State := { State.reset with
  sys := { ready := true }
  table := { entries := [(0, e)] }
  host := { links := (Vector.replicate 4 {}).set 0 { up := true, cfg := [(0, { master := true, sriov := true, numVfs := 64 }), (1, { master := true })] } }
  parts := [(0, { en := true, slots := (Vector.replicate 4 {}).set 0 { st := .loaded, gen := 3 }
                  req := f { quota := 1, stopCnt := 1, slotCnt := 2, sqs := [(0, { en := true, tail := 1 })], cq := { en := true }, srs := [(0, { en := true })] } })] }

/-- A submission for entry 0 with a prompt of one token; and one that names the entry alone. -/
def subTurn (op : Nat) : BitVec 512 := word 512 [(0, op), (128, 1), (192, 1000), (348, 1), (368, 0x3F80), (416, 0x77)]
def subBare (op : Nat) : BitVec 512 := word 512 [(0, op), (416, 0x77)]

def prompt1 : List Word := [5#32]

/-- An entry whose turn has ended, resident; one that is parked. -/
def doneEntry : Entry := { st := .done, res := true, len := 9, igen := 3 }

theorem test_accepts : (canTake (reqState id {}) 0 0 = true ∧ firstCause (acceptanceChecks (takeSub ((reqState id {}).atTick 1000#64) 0 0) 0 1 (subTurn 1) 1000) = none ∧
      boundSlot (takeSub ((reqState id {}).atTick 1000#64) 0 0) 0 1 (subTurn 1) = none) ∧
    (firstCause (acceptanceChecks (takeSub ((reqState id doneEntry).atTick 0#64) 0 0) 0 2 (subTurn 2) 0) = none ∧
      boundSlot (takeSub ((reqState id doneEntry).atTick 0#64) 0 0) 0 2 (subTurn 2) = none) ∧
    firstCause (acceptanceChecks (takeSub ((reqState id { st := .draining, work := .record, igen := 3 }).atTick 0#64) 0 0) 0 2 (subTurn 2) 0) = none ∧
    firstCause (acceptanceChecks (takeSub ((reqState id { st := .draining, work := .parking, igen := 3 }).atTick 0#64) 0 0) 0 2 (subTurn 2) 0) = none ∧
    firstCause (acceptanceChecks (takeSub ((reqState id { st := .queued }).atTick 0#64) 0 0) 0 3 (subBare 3) 0) = none ∧
    firstCause (acceptanceChecks (takeSub ((reqState id doneEntry).atTick 0#64) 0 0) 0 4 (subBare 4) 0) = none ∧
    firstCause (acceptanceChecks (takeSub ((reqState id doneEntry).atTick 0#64) 0 0) 0 5 (subBare 5) 0) = none := by decide +kernel

theorem test_open_continue : ((after (.openReq 0 0 (subTurn 1) (some prompt1) 1000#64) (reqState id {})).ent 0).st = .queued ∧
    ((after (.openReq 0 0 (subTurn 1) (some prompt1) 1000#64) (reqState id {})).ent 0).igen = 3 ∧
    Memory.readN (after (.openReq 0 0 (subTurn 1) (some prompt1) 1000#64) (reqState id {})).stream.ring 0x80000 4 = 5 ∧
    ((after (.continueReq 0 0 (subTurn 2) (some prompt1) 0#64) (reqState id doneEntry)).ent 0).turn.op = 2 ∧
    ((after (.continueReq 0 0 (subTurn 2) (some prompt1) 0#64) (reqState id { st := .draining, work := .record, igen := 3 })).ent 0).cont = true := by decide +kernel

/-- Queue 0 bound to session slot 3, which holds an E2E key and has taken counter 5: a buffer with counter 1 is refused, whatever its tag. -/
def boundState : State := { reqState id {} with
  sys := { (reqState id {}).sys with sec := { parts := [(0, { e2e := [(0, (3, true))], slots := [(3, { purpose := 2, cLast := 5 })] })] } } }

theorem test_prompt_bound : canTake boundState 0 0 = true ∧ firstCause (acceptanceChecks (takeSub (boundState.atTick 1000#64) 0 0) 0 1 (subTurn 1) 1000) = none ∧
    boundSlot (takeSub (boundState.atTick 1000#64) 0 0) 0 1 (subTurn 1) = some 3 := by decide +kernel

theorem test_prompt_refused : takePrompt (takeSub (boundState.atTick 1000#64) 0 0) 0 1 (subTurn 1) [1#32, 0#32] = none := by
  have h : (AMap.at ((takeSub (boundState.atTick 1000#64) 0 0).secPart 0).slots {} 3).cLast = 5 := by decide +kernel
  have c : ∀ k e op n, (openPrompt k e op n [1#32, 0#32]).1 = 1 := fun _ _ _ _ => rfl
  unfold takePrompt
  rw [test_prompt_bound.2.2]
  simp only
  split
  · rename_i c' ws e
    have hc := c (AMap.at ((takeSub (boundState.atTick 1000#64) 0 0).secPart 0).slots {} 3).key (sbEntry (subTurn 1)) 1 (sbCnt (subTurn 1))
    rw [e] at hc
    simp only at hc
    rw [h, hc]; rfl
  · rfl

/-- The check value of CRC-32 over the ASCII string "123456789" (IEEE 802.3). -/
theorem test_crc32 : crc32 9 (catFields [(9, 0x393837363534333231)]) = 0xCBF43926#32 := by decide +kernel

theorem test_cancel_close : ((after (.cancelReq 0 0 (subBare 3) 0#64) (reqState id { st := .queued })).ent 0).cancel = true ∧
    ((after (.closeReq 0 0 (subBare 4) 0#64) (reqState id doneEntry)).ent 0).reports.map (fun r => (r.status, r.cmd, r.userTag)) = [(7, 4, 0x77)] := by decide +kernel

/-- A deadline before the tick is LATE: status 0x48; a queue index at the ring's size is counted. -/
theorem test_reject : firstCause (acceptanceChecks (takeSub ((reqState id {}).atTick 1001#64) 0 0) 0 1 (subTurn 1) 1001) = some 0x48 ∧
    ((after (.openReq 0 0 (subTurn 1) (some prompt1) 1001#64) (reqState id {})).req 0).held.map (fun r => r.status) = [0x48] ∧
    (AMap.at ((after (.sqDoorbell 0 0 63#16) (reqState id {})).req 0).sqs {} 0).tail = 63 ∧ (after (.sqDoorbell 0 0 64#16) (reqState id {})).host.dbErr = 1 := by decide +kernel

/-- A session with one page in granule 20 of core 0, and a sled behind port 23. -/
def kvEntry : Entry := { doneEntry with rid := some 4, pages := [⟨0, 0, 20, true, true⟩] }

def parkState (e : Entry) : State := { reqState id e with
  cores := [(0, { core0 with geos := [(0, kvGeo)], mast := { data := [(1310720, 0x42#8)] } })]
  fab := { fields := [(0, { owned := true, mode := .normal })] }
  stay := { ports := [(23, { up := true, assigned := true, cap := 10, usable := true })] } }

theorem test_park : bestSled (parkState kvEntry) ((sledsOf (parkState kvEntry) 0).filter (fun i => ((parkState kvEntry).sport i).up)) = some 23 ∧
    (parkPages (parkState kvEntry) 0 0).length = 1 ∧ (parkPages (parkState kvEntry) 0 0).any (pageLost (parkState kvEntry)) = false ∧ 1 ≤ ((parkState kvEntry).sport 23).freePages ∧
    ((after (.parkReq 0 0 (subBare 5) 0#64) (parkState kvEntry)).ent 0).work = .parking ∧ ((after (.parkReq 0 0 (subBare 5) 0#64) (parkState kvEntry)).ent 0).sledPages = [0] := by decide +kernel

/-- The page's field is dark: the park fails, and the session is not resident any more. -/
theorem test_park_lost :
    (let s : State := { parkState kvEntry with fab := {} }
     (parkPages s 0 0).any (pageLost s) = true ∧ ((after (.parkReq 0 0 (subBare 5) 0#64) s).ent 0).res = false ∧
     ((after (.parkReq 0 0 (subBare 5) 0#64) s).ent 0).reports.map (·.status) = [0x2A]) := by decide +kernel

/-- The same with its one page being written, as the first of two or as the last. -/
def movingState (ks : List Nat) : State := parkState { kvEntry with st := .draining, work := .parking, sledPort := 23, sledPages := ks }

theorem test_park_page : partOfEntry (movingState [3]) (0 : Fin 262144) = 0 ∧ (parkPages (movingState [3]) 0 0)[0]? = some ⟨0, 0, 20, true, true⟩ ∧ granBad ((movingState [3]).core 0).mast 20 = false ∧
    ((movingState [3]).slice 0).mods = 0 ∧ 0 + 1 ≠ ((movingState [3, 4]).ent 0).sledPages.length ∧
    ((after (.parkPageWriteDone 0 ⟨.done, []⟩ 0#64) (movingState [3, 4])).ent 0).moved = 1 ∧
    ((AMap.find ((after (.parkPageWriteDone 0 ⟨.done, []⟩ 0#64) (movingState [3, 4])).sport 23).pages 3).map (fun y => (y.data, y.next))) = some ([(0, 0x42#8)], some 4) ∧
    ((after (.parkPageWriteDone 0 ⟨.done, []⟩ 0#64) (movingState [3])).ent 0).st = .parked ∧
    ((after (.parkPageWriteDone 0 ⟨.error, []⟩ 0#64) (movingState [3])).ent 0).reports.map (fun r => r.status) = [0x2A] ∧ ((movingState [3]).core 0).mast.outside = [] ∧
    ((after (.parkPageWriteDone 0 ⟨.done, [(511, true)]⟩ 0#64) (movingState [3])).core 0).mast.ueRows = [512 * 20 + 511] := by decide +kernel

/-- A parked session queued again, its first page at sled page 3. -/
def unparkState (key : ParkKeys) : State := { parkState { doneEntry with st := .queued, res := false, sled := true, sledPort := 23 } with
  stay := { ports := [(23, { up := true, assigned := true, cap := 10, usable := true, dir := [(0, ⟨some 3, 2, 0⟩)], pages := [(3, { data := [(7, 0x42#8)], key := key, next := some 4 })] })] } }

theorem test_unpark : unparking (unparkState {}) 0 0 = true ∧ chainAt ((unparkState {}).sport 23) (some 3) 0 = some 3 ∧
    ((AMap.find ((unparkState {}).sport 23).pages 3).map (fun g => (g.entry, g.gen, g.rank))) = some (0, 0, 0) ∧
    ((after (.unparkPageArrive 0 ⟨.poison, 0#64⟩) (unparkState {})).sport 23).poison = 1 ∧ ((after (.unparkPageArrive 0 ⟨(.page false), 0#64⟩) (unparkState {})).ent 0).unparkBad = true ∧
    ((after (.unparkPageArrive 0 ⟨(.page true), 0#64⟩) (unparkState { mac := 1#256 })).ent 0).unparkBad = true := by decide +kernel

theorem test_stay_links : parksOn (parkState kvEntry) (23 : Fin 24) = [] ∧ (0 : Fin 262144).val ∉ parksOn (parkState kvEntry) 23 ∧
    ((after (.stayLinkDown 23 0#64) (parkState kvEntry)).sport 23).up = false ∧ ((after (.stayLinkUp 23 true true 8 0x80410000 0) (atReady (parkState kvEntry))).sport 23).usable = true ∧ stayLit (atReady (parkState kvEntry)) 23 = true ∧
    ((after (.stayLinkUp 23 true true 8 0x8040FFFF 0) (atReady (parkState kvEntry))).sport 23).usable = false ∧ (after (.stayLinkUp 23 true true 7 0x80410000 0) (parkState kvEntry)).stay.log.recs = [] ∧
    unparking (unparkState {}) 0 0 = true ∧ (0 : Fin 262144).val ∉ parksOn (unparkState {}) 23 ∧ (after (.stayRequestTimeout 23 0 100000001#64) (unparkState {})).stay.log.recs.length = 1 := by decide +kernel

/-- The same with the page's space in core 0, whose table has room, and a session longer than one page; struck, so that no partition steps. -/
def placeState : State := { unparkState {} with
  sys := { ready := true, struck := true }
  cores := [(0, { core0 with geos := [(0, kvGeo)], mast := tableMast })]
  fab := { fields := [(0, { owned := true, mode := .normal })] } }

theorem test_unpark_place : unparking placeState 0 0 = true ∧ (AMap.find (spacesOf placeState 0 0) 0).map (fun sp => (sp.homes, pageHome sp 0 0)) = some ([(0, 0)], (0, 0)) ∧
    64 * 0 < validLen (placeState.ent 0) (placeState.img 0 0) kvGeo ∧ (placeState.ent 0).rid.or (freeRid placeState 0) = some 0 ∧ freeGran placeState 0 0 0 = some 20 ∧
    (((placeState.core 0).mast.freeGranule 20).map' 0 0 20 true).2 = 0 ∧ placeState.ent 0 = { placeState.ent 0 with pages := [] } ∧ ((after (.unparkPageArrive 0 ⟨(.page true), 0#64⟩) placeState).ent 0).pages = [⟨0, 0, 20, true, true⟩] := by decide +kernel

/-- The stay traffic of a partition pauses while a column of it is copied, and only then. -/
theorem test_stay_pauses : let s := (movingState [3]).updPart 0 (fun x => { x with recov := some { dead := [0], copies := [0] } })
    stayPaused s 0 = true ∧ ((after (.parkPageWriteDone 0 ⟨.done, []⟩ 0#64) s).ent 0).st = .draining ∧ stayPaused (movingState [3]) 0 = false ∧
    stayPaused (unparkState {}) 0 = false ∧ stayPaused placeState 0 = false := by decide +kernel

/-! ### Rings and output queues -/

/-- Output queue 0 with `n` positions of entry 0, the first ones releasable, and a token on its way to it. -/
def queueState (n : Nat) (go : Option Nat) (fin : Bool) : State := { reqState id {} with
  stream := { qs := [(0, { items := List.replicate n { word := 7#64, entry := 0, idx := 5, go := go }, fresh := true })], arriving := [⟨0, 0, 9, 3#64, 0, 2, fin, 0#48⟩] } }

theorem test_queue_token : ((queueState 62 none true).outq 0).spill = none ∧ ((queueState 62 none true).outq 0).items.length < 63 ∧
    (((after (.outputQueueToken 0) (queueState 62 none true)).outq 0).items.getLast?.map (·.word)) = some 0x1000000000003#64 ∧
    (((after (.outputQueueToken 0) (queueState 62 none false)).outq 0).items.getLast?.map (·.go)) = some none ∧
    ((queueState 63 none true).outq 0).items.getLast?.map (fun m => m.endsAt ⟨0, 0, 9, 3#64, 0, 2, true, 0#48⟩) = some false ∧
    (((after (.outputQueueToken 0) (queueState 63 none true)).outq 0).items.getLast?.map (·.word)) = some 0x4000000000001#64 := by decide +kernel

theorem test_stream_record : (AMap.at ((queueState 2 (some 0) true).req 0).srs {} (0 : Fin 16)).full (ringOk (queueState 2 (some 0) true) 0) = false ∧
    (nextRelease (queueState 2 (some 0) true) 0 0).map (·.1) = some 0 ∧
    (after (.streamRecordWrite 0 0 none false) (queueState 2 (some 0) true)).host.out.head? = some (.write 1 0 16 (7 + 2 ^ 95 + 5 * 2 ^ 96)) ∧
    (after (.streamRecordWrite 0 0 (some 1#64) false) (queueState 2 (some 0) true)).stream.parity = 1 ∧ (after (.streamRecordWrite 0 0 none true) (queueState 2 (some 0) true)).stream.sbDrop = 1 ∧
    ((after (.stmFlushGo none 0) (queueState 2 none true)).outq 0).items = [] ∧ ((after (.stmFlushGo (some 0) 4095) (queueState 2 none true)).outq 0).items.length = 2 := by decide +kernel

/-- A record held for partition 0; a CLOSE record of entry 0; the ring with one free place or none. -/
def heldState (held : List Record) (e : Entry) (head : Nat) : State := reqState (fun r => { r with held := held, cq := { r.cq with tail := 63, head := head } }) e

theorem test_completion_record : (heldState [] { st := .done, work := .closing, reports := [{ status := 7, cmd := 4 }] } 62).isMember 0 = false ∧
    ((heldState [{ status := 0x48 }] {} 62).ent 0).flr = false ∧ ((heldState [{ status := 0x48 }] {} 62).req 0).cq.full (ringOk (heldState [{ status := 0x48 }] {} 62) 0) = false ∧
    ((after (.completionRecordWrite 0 0#64) (heldState [{ status := 0x48 }] {} 62)).req 0).cq = { en := true, tail := 0, head := 62, phase := false } ∧
    entriesOf (heldState [] { st := .done, work := .closing, reports := [{ status := 7, cmd := 4 }] } 62) 0 (fun _ y => !y.reports.isEmpty) = [0] ∧
    (after (.completionRecordWrite 0 0#64) (heldState [] { st := .done, work := .closing, reports := [{ status := 7, cmd := 4 }] } 62)).ent 0 = {} ∧
    ((heldState [{ status := 0x48 }] {} 0).req 0).cq.full (ringOk (heldState [{ status := 0x48 }] {} 0) 0) = true ∧
    ((after (.completionRecordWrite 0 0#64) (heldState [{ status := 0x48 }] {} 0)).req 0).cqFull = true ∧
    bitAt ((after (.completionRecordWrite 0 0#64) (heldState [{ status := 0x48 }] {} 0)).fn 1).dblStat 8 = true := by decide +kernel

/-- A record that a reset of the function withdraws is counted, not written, while the ring stands still (22 R494). -/
def flrState : State := reqState (fun r => { r with cqFull := true }) { st := .done, work := .closing, flr := true, reports := [{ status := 7, cmd := 4 }] }

theorem test_completion_withdrawn : flrState.isMember 0 = false ∧ entriesOf flrState 0 (fun _ y => !y.reports.isEmpty) = [0] ∧ (flrState.ent 0).flr = true ∧ (flrState.req 0).cqFull = true ∧
    ((after (.completionRecordWrite 0 0#64) flrState).part 0).flrDiscard = 1 ∧ (after (.completionRecordWrite 0 0#64) flrState).ent 0 = {} := by decide +kernel

theorem test_ring_registers : ((after (.cqHeadWrite 0 64) (reqState id {})).req 0).cq.head = 0 ∧ ((after (.cqHeadWrite 0 63) (reqState id {})).req 0).cq.head = 63 ∧
    ((after (.cqCfgWrite 0 (some 128#64) (some 19) none) (reqState id {})).req 0).cq = { en := true } ∧
    (AMap.at ((after (.sqCfgWrite 0 1 none (some 17) (some true)) (reqState id {})).req 0).sqs {} 1) = { en := true } ∧
    (AMap.at ((after (.srHeadWrite 0 0 1) (reqState id {})).req 0).srs {} 0).head = 1 ∧
    (AMap.at ((after (.srCfgWrite 0 1 (some 64#64) (some 20) none) (reqState id {})).req 0).srs {} 1) = { base := 64#64, size := 20 } := by decide +kernel

/-- A ring read of one word of entry 0, which has two words in its ring. -/
def ringReadState (busy : Bool) : State := { reqState (fun r => { r with rr := { first := 1, cnt := 1, busy := busy, addr := 0x100#64, source := [0x77#64] } }) { st := .done, ringHead := 2 } with
  stream := { ring := [(8, 0x77#8)] } }

theorem test_ring_read : ((ringReadState false).req 0).rr.busy = false ∧ ringRange (ringReadState false) 0 = true ∧ ((after (.ringReadGo 0 true) (ringReadState false)).req 0).rr.busy = true ∧ ((after (.ringReadGo 0 true) (ringReadState false)).req 0).rr.source = [0x77#64] ∧
    ((ringReadState true).req 0).rr.busy = true ∧ (after (.ringReadDone 0 1 []) (ringReadState true)).host.out.head? = some (.write 1 0x100 8 0x77) ∧
    ((after (.ringReadDone 0 1 []) (ringReadState true)).req 0).rr.words = 1 := by decide +kernel

theorem test_stop_set : ((reqState id {}).req 0).stage.pend = none ∧ ((after (.stopSetLoad 0 0) (reqState id {})).req 0).stage.pend.map (·.1) = some 0 ∧
    ((after (.stopSetLoad 0 1) (reqState id {})).req 0).stage.err = true := by decide +kernel

/-! ### The meter -/

/-- A powered meter in epoch 1 that expects message 5, with one message on the link. -/
def tally (kind stamp : Nat) : Tally := { seq := 5, kind := kind, stamp := BitVec.ofNat 64 stamp, epoch := 1#32, part := 2, tq := 3, gen := 4, prompt := 6, genTot := 3, promptTot := 16 }

def meter0 : Meter := { powered := true, epoch := some 1#32, expect := 5, start := 1000, base := [(515, (0xFFFFFFFF, 10))], lastMark := some 1000000, tbStart := some 7 }

def meterState (m : Meter) (l : List Tally) : State := { State.reset with sys := { cnm := { running := true, meter := m, link := l, sel := 1 } } }

def aRead : MeterRead := { energy := 9 }

def aSpan : MeterSpan := ⟨0, 60000, 0#16, 0, 60, true, aRead⟩

theorem test_tally_sent : (meterState meter0 []).sys.cnm.running = true ∧ ((after (.tallyMarkSend 9#64) (meterState meter0 [])).sys.cnm.link.map (fun x => (x.kind, x.stamp))) = [(3, 9#64)] ∧
    ((after (.tallyStartSend 9#64) (meterState meter0 [])).sys.cnm.link.map (·.kind)) = [1] := by decide +kernel

theorem test_tally_taken : (after (.meterTallyStart true false) (meterState { meter0 with epoch := none } [tally 1 0])).sys.cnm.meter.base = [] ∧
    (after (.meterTallyStart true false) (meterState { meter0 with expect := 4 } [tally 1 0])).sys.cnm.meter.gaps = 1 ∧
    (after (.meterTallyTokens false true) (meterState meter0 [tally 2 8])).sys.cnm.meter.credits.map (fun c => (c.key, c.gen, c.prompt)) = [(515, 4, 6)] ∧
    (after (.meterTallyTokens false false) (meterState meter0 [tally 2 8])).sys.cnm.meter.credits = [] := by decide +kernel

theorem test_tally_mark : (meterState meter0 [tally 3 2000000]).sys.cnm.meter.lastMark = some (2000000 - 1000000) ∧
    (after (.meterTallyMark true true) (meterState meter0 [tally 3 2000000])).sys.cnm.meter.marked = true ∧
    (after (.meterTallyMark true true) (meterState { meter0 with ended := [aSpan], credits := [⟨1999999, 515, 1, 1⟩, ⟨2000000, 515, 1, 1⟩] } [tally 3 2000000])).sys.cnm.meter.credits.length = 1 ∧
    (after (.meterTallyClose true true 1234 aRead) (meterState meter0 [tally 4 0])).sys.cnm.meter.start = 1234 := by decide +kernel

theorem test_intervals : ((after (.meterIntervalEnd aRead) (meterState { meter0 with marked := true } [])).sys.cnm.meter.ended.map (fun x => (x.start, x.stop, x.secs))) = [(1000, 60000, 60)] ∧
    (after (.meterIntervalEnd aRead) (meterState meter0 [])).sys.cnm.meter.tbStart = some 0xFFFFFFFFFFFFFFFF ∧
    (after (.meterInputLoss 1500 aRead) (meterState meter0 [])).sys.cnm.meter.powered = false ∧
    (after (.meterPowerUp false none 7) (meterState { meter0 with powered := false } [])).sys.cnm.meter.flags = 1#16 ∧
    (after .meterSealEvent (meterState meter0 [])).sys.cnm.meter.sealCnt = 1 := by decide +kernel

theorem test_relay : (after (.cnmFetchGo true true) (meterState { meter0 with recs := [(1, ⟨288, 0x31524E43⟩)], lastSeq := 1 } [])).sys.cnm.len = 288 ∧
    (after (.cnmFetchGo true true) (meterState meter0 [])).sys.cnm.status = 2 ∧ (after (.cnmFetchGo true true) (meterState { meter0 with lastSeq := 3 } [])).sys.cnm.status = 1 ∧
    (after (.cnmIntervalWrite 4) (meterState meter0 [])).sys.cnm.meter.nextInterval = 4 ∧ (after (.cnmIntervalWrite 5) (meterState meter0 [])).sys.cnm.meter.nextInterval = 2 := by decide +kernel

/-! ### The clock block -/

/-- Field 5 belongs to partition 2, whose step runs; the clock block as given. -/
def clkState (ready : Bool) (c : Clk) : State := { State.reset with
  tb := 0#64, sys := { ready := ready, clk := c }
  parts := [(2, { en := true, grp := { inStep := true, held := true } })], fab := { fields := [(5, { owned := true, part := 2 })] } }

theorem test_steps : min (max (1 : Fin 4).val (clkState true {}).sys.clk.limit) (clockFloor (clkState true {})) = 1 ∧ (clkState true {}).sys.clk.step = 3 ∧
    (after (.clkStepReqWrite 1) (clkState true {})).sys.clk.step = 1 ∧ (after (.clkStepReqWrite 1) (clkState true {})).sys.clk.gliding = true ∧
    (after (.clkStepReqWrite 1) (clkState false {})).sys.clk.step = 3 ∧ wantedStep (clkState true { step := 0, gliding := true }) = 0 ∧
    (after (.glideEnd 9#64) (clkState true { step := 0, gliding := true })).sys.clk.gliding = false ∧ wantedStep (clkState true { step := 0, stepReq := 2, gliding := true }) = 2 ∧
    (after (.glideEnd 9#64) (clkState true { step := 0, stepReq := 2, gliding := true })).sys.clk.step = 2 ∧ (clkState true {}).part 2 = { en := true, grp := { inStep := true, held := true } } := by decide +kernel

/-- Field 5 locked, or out of lock since tick 50. -/
def lockState (f : ClkField) : State := clkState true { fields := [(5, f)] }

theorem test_lock_loss : ((lockState { locked := true, corners := 15#4 }).clkField 5).locked = true ∧
    ((after (.cornerLockLoss 5 3 50#64) (lockState { locked := true, corners := 15#4 })).clkField 5).corners = 7#4 ∧
    ((after (.cornerLockLoss 5 3 50#64) (lockState { locked := true, corners := 15#4 })).grp 2).faults.map (fun f => f.code) = [0x11] := by decide +kernel

theorem test_relock : ((lockState { unlockAt := some 50 }).fieldPwr 5).st ≠ 2 ∧ ((lockState {}).part 2).recov = none ∧ (lockState {}).sys.fw.reloading = none ∧
    (∀ j ∈ (lockState { unlockAt := some 50 }).fieldsOf 2, j ≠ 5 → ((lockState { unlockAt := some 50 }).clkField j).unlockAt = none) ∧
    ((after (.fieldRelock 5 60#64) (lockState { unlockAt := some 50 })).grp 2).held = false ∧ ((after (.fieldRelock 5 100051#64) (lockState { unlockAt := some 50 })).field 5).mode = .dark ∧
    ((after (.relockTimeout 5 100051#64) (lockState { unlockAt := some 50 })).field 5).mode = .dark ∧
    ((after (.relockTimeout 5 100050#64) (lockState { unlockAt := some 50 })).field 5).mode = ((lockState {}).field 5).mode := by decide +kernel

/-- The field at its first lock, powered since tick 0. -/
def firstLock : State := { clkState false { phase := 7 } with
  sys := { clk := { phase := 7, fields := [(5, { powerOn := some 0 })] }, pwr := { fields := [(5, { st := 2 })], convs := [(10, { ok := true }), (11, { ok := true })] }, fw := { fcVer := 0x12#32 } } }

theorem test_first_lock : (firstLock.fieldPwr 5).st = 2 ∧ ((after (.fieldRelock 5 1#64) firstLock).fieldPwr 5).st = 3 ∧ (firstLock.clkField 5).lockLate 1000000 = false ∧
    (firstLock.clkField 5).lockLate 1000001 = true ∧ (AMap.at firstLock.sys.pwr.convs {} (2 * (5 : Fin 48))).ok = (AMap.at firstLock.sys.pwr.convs {} (2 * (5 : Fin 48) + 1)).ok ∧
    (firstLock.corePwr (5 * 192 + 7)).st = 0 ∧ ((after (.fieldRelock 5 1#64) firstLock).corePwr (5 * 192 + 7)).phases = 15#4 := by decide +kernel

theorem test_lock_timeout : AMap.at (after (.fieldRelock 5 1#64) firstLock).sys.fw.fc 0#32 5 = 0x12#32 ∧ ((after (.fieldRelock 5 1000001#64) firstLock).field 5).mode = .dark ∧
    ((after (.fieldLockTimeout 5 1000001#64) firstLock).field 5).mode = .dark ∧ ((after (.fieldLockTimeout 5 1000000#64) firstLock).fieldPwr 5).st = 2 := by decide +kernel

theorem test_references : (clkState true {}).sys.clk.failA = false ∧ (clkState true {}).sys.clk.failB = false ∧ (clkState true {}).sys.clk.refHold = none ∧
    (after (.refOscCheck false false false 201 11 0 9#64) (clkState true {})).sys.clk.failA = true ∧ (after (.refOscCheck false false false 201 10 0 9#64) (clkState true {})).sys.clk.failA = false ∧
    (after (.refOscCheck true true false 0 0 0 9#64) (clkState true {})).sys.clk.refHold = some 9 ∧
    (after (.refHoldTimeout 10000000010#64) (clkState true { refHold := some 9 })).sys.shutdown = true ∧
    (after (.refHoldTimeout 10000000009#64) (clkState true { refHold := some 9 })).sys.shutdown = false := by decide +kernel

theorem test_time_base : timeLocked (clkState true {}) = false ∧ timeLocked { clkState true {} with sys := { pins := { ptpLocked := true } } } = true ∧
    (after (.clkTbSetGo 9#64) { clkState true {} with sys := { pins := { ptpLocked := true } } }).sys.clk.setRes = 2 ∧
    (after (.clkTbSetGo 1001#64) (clkState true { tbSet := 1#64 })).tb = 1#64 ∧ (after (.clkTbSetGo 1002#64) (clkState true { tbSet := 1#64 })).sys.clk.slew = some 1001 ∧
    ((after (.clkTbLoRead 64 0x500000001#64) (clkState true {})).fn 64).tbHi = 5#32 ∧ (after (.slewDone 9#64) (clkState true { slew := some 4, slewEnd := 9, rate := -500000 })).sys.clk.rate = 0 ∧
    (after (.slewDone 8#64) (clkState true { slew := some 4, slewEnd := 9, rate := -500000 })).sys.clk.rate = -500000 ∧
    ((after (.timeBaseSync 9#64) { clkState true {} with sys := { pwr := { fields := [(5, { st := 3 })] } } }).clkField 5).copy = 9#64 := by decide +kernel

theorem test_swallow : isStepping (clkState true {}) 2 = true ∧ isStepping (clkState true {}) 1 = false ∧ ((after (.hostSwalWrite 2 8) (clkState true {})).clkPart 2).eff = 0 ∧
    ((after (.hostSwalWrite 1 8) (clkState true {})).clkPart 1).eff = 8 ∧ ((after (.hostSwalWrite 1 9) (clkState true {})).clkPart 1).hostSwal = 0 := by decide +kernel

/-! ### Start-up, restarts, hold-up -/

def startState (phase : Nat) : State := { State.reset with
  serial := 9#64, sys := { clk := { phase := phase, step := 0 }, pwr := { valid := true }, cnm := { meter := { serial := 4#64 } } }, fab := { fields := [(5, { factRow := [(1, 2)] })] } }

def phaseAfter (c : Instr) (k : Nat) : Nat := (after c (startState k)).sys.clk.phase

theorem test_start_steps : (startState 1).sys.safe = false ∧ (startState 1).sys.ready = false ∧ (startState 1).sys.shutdown = false ∧ (startState 1).sys.pwr.holdup = none ∧
    [1, 2, 3, 4, 6].map (phaseAfter (.startUpStepDone {} 7#64)) = [2, 3, 4, 5, 7] := by decide +kernel

theorem test_start_steps_on : (∀ n, n < 48 → ((startState 7).fieldPwr n).st ≠ 1 ∧ ((startState 7).fieldPwr n).st ≠ 2) ∧ (startState 8).sys.clk.gliding = false ∧ (startState 11).sys.clk.step = wantedStep (startState 11) ∧
    [7, 8, 9, 10, 11].map (phaseAfter (.startUpStepDone {} 7#64)) = [8, 9, 10, 11, 12] ∧ (after (.startUpStepDone {} 7#64) (startState 12)).sys.ready = true ∧
    wantedStep ({ startState 12 with sys := { clk := { phase := 12, step := 0, stepReq := 2 } } }) = 2 ∧
    (after (.startUpStepDone {} 7#64) { startState 12 with sys := { clk := { phase := 12, step := 0, stepReq := 2 } } }).sys.clk.step = 2 := by decide +kernel

theorem test_start_safe : copyGood (startState 5) false = false ∧ ((startState 5).nvm true).present = false ∧ (after (.startUpStepDone {} 7#64) (startState 5)).sys.safe = true := by decide +kernel

theorem test_restart : (startState 12).enabled = [] ∧ (after (.pinReset 7#64) (startState 12)).sys.clk.cause = 2 ∧ (after (.hostRestart 0x4D52#16 7#64) (startState 12)).sys.clk.cause = 3 ∧
    (after (.mastheadWatchdog ⟨true, 7#64⟩) (startState 12)).sys.cnm.meter.serial = 4#64 ∧ (after (.mastheadWatchdog ⟨true, 7#64⟩) (startState 12)).sys.evr.seq = 1 ∧
    (after (.mastheadWatchdog ⟨false, 7#64⟩) (startState 12)).sys.evr.seq = 0 ∧ ((after (.pinReset 7#64) (startState 12)).field 5).factRow = [(1, 2)] ∧
    (after (.hostRestart 0#16 7#64) (startState 12)).sys.clk.cause = 1 := by decide +kernel

def heldUp : State := { startState 12 with sys := { (startState 12).sys with pwr := { valid := true, holdup := some 5 } }, cores := [(0, core0)] }

theorem test_holdup : (after (.inputLoss 4300#16 7#64) (startState 12)).sys.evr.flush.map (·.cause) = some 1 ∧ (after (.inputLoss 4300#16 7#64) (startState 12)).sys.struck = true ∧
    heldUp.sys.pwr.holdup = some 5 ∧ (after (.holdupFieldsOff 7#64) heldUp).cores = [] ∧ (after (.holdupRimOff 7#64) heldUp).sys.clk.phase = 1 ∧
    (after (.holdupRimOff 7#64) heldUp).sys.pwr.valid = true ∧ (startState 12).sys.pwr.input ≠ 1 ∧ (after (.inputLow 4500#16 7#64) (startState 12)).sys.pwr.volt = 4500 ∧
    (after (.inputHigh 6100#16 7#64) (startState 12)).sys.pwr.input = 2 ∧ (after .inputDip (startState 12)).sys.pwr.dips = 1 := by decide +kernel

/-! ### Power -/

/-- Partition 2 owns field 5; core 960 stands in its first row and column. -/
def pwrState (c : CorePwr) : State := { State.reset with
  sys := { pwr := { cores := [(960, c)], fields := [(5, { st := 3, hwm := 250, curr := 200 })], convs := [(10, { ok := true }), (11, { ok := true })], rim0 := true, rim1 := true } }
  parts := [(2, { en := true })], cores := [(960, core0)], fab := { fields := [(5, { owned := true, part := 2, mode := .normal })] } }

def onCore : CorePwr := { st := 1, volt := 700, phases := 15#4 }

/-- The same with the column's spare lost. -/
def noSpare (c : CorePwr) : State := { pwrState c with fab := { fields := [(5, { owned := true, part := 2, mode := .normal, spareLost := [0] })] } }

theorem test_voltage : ((pwrState onCore).corePwr 960).on = true ∧ ((after (.avsTrimTick 960 19) (pwrState onCore)).corePwr 960).volt = 705 ∧
    ((after (.avsTrimTick 960 46) (pwrState onCore)).corePwr 960).volt = 695 ∧ ((after (.avsTrimTick 960 45) (pwrState onCore)).corePwr 960).volt = 700 ∧
    ((after (.timingNearMiss 960) (pwrState onCore)).corePwr 960).volt = 720 ∧ (noSpare onCore).hasSpare 5 ((960 : Fin 9216) % 12) = false ∧
    ((after (.slowCoreTimeout 960 1#64) (noSpare { onCore with volt := 850 })).corePwr 960).half = true ∧
    ((after (.slowCoreTimeout 960 1#64) (noSpare { onCore with volt := 850 })).clkPart 2).pwrSwal = 8 := by decide +kernel

theorem test_phases : bitAt onCore.phases (3 : Fin 4) = true ∧ maxDecl (pwrState onCore) (960 : Fin 9216) ≤ 4800 ∧
    ((after (.phaseFailure 960 3 7#16 1#64) (pwrState onCore)).corePwr 960).phases = 7#4 ∧ ((after (.phaseFailure 960 3 7#16 1#64) (pwrState onCore)).corePwr 960).st = 3 ∧
    (pwrState onCore).hasSpare 5 ((960 : Fin 9216) % 12) = true ∧ ((pwrState onCore).field 5).furl ((960 : Fin 9216) % 12) ≠ 0 ∧ ((pwrState onCore).part 2).recov = none ∧
    ((after (.regulatorFailure 960 7#16 1#64) (pwrState onCore)).corePwr 960).st = 5 ∧ ((after (.coreShort 960 7#16 1#64) (pwrState onCore)).part 2).recov.map (·.dead) = some [960] := by decide +kernel

theorem test_phase_limit : (({ pwrState { onCore with limitBy := some 8 } with parts := [(2, { en := true, grp := { inStep := true } })] }).grp 2).inStep = true ∧
    ((after (.phaseLimitExpire 960 9#64) { pwrState { onCore with limitBy := some 8 } with parts := [(2, { en := true, grp := { inStep := true } })] }).grp 2).closed = true := by decide +kernel

theorem test_converters : countFor 250 150 = 7 ∧ (AMap.at (pwrState onCore).sys.pwr.convs {} (4 * 5 + 1 - (10 : Fin 96))).ok = true ∧ ((pwrState onCore).fieldPwr 5).hwm = 250 ∧
    ((after (.converterFailure 10 7#16 1#64) (pwrState onCore)).clkPart 2).pwrSwal = 7 ∧
    (after (.rimConverterFailure 0 7#16 1#64) (pwrState onCore)).sys.pwr.rim0 = false ∧ ((after (.fieldSupplyShort 5 7#16 1#64) (pwrState onCore)).field 5).mode = .dark ∧
    (after (.rimConverterFailure 0 7#16 1#64) { pwrState onCore with sys := { pwr := { rim0 := true, valid := true } } }).sys.shutdown = true := by decide +kernel

/-- The pair's other converter has been lost, in service or while the field ramps; a maximum of 320 A asks for a count above 8. -/
def pairState (st hwm : Nat) (other own : Bool) : State := { pwrState onCore with
  sys := { pwr := { fields := [(5, { st := st, hwm := hwm })], convs := [(10, { ok := true }), (11, { ok := other })] } }, fab := { fields := [(5, { owned := own, part := 2, mode := .normal })] } }

theorem test_pairs : countFor 320 150 = 9 ∧ ((after (.converterFailure 10 7#16 1#64) (pairState 3 320 true true)).fieldPwr 5).trip = true ∧
    ((after (.converterFailure 10 7#16 1#64) (pairState 3 320 true false)).field 5).mode = .dark ∧ ((after (.converterFailure 10 7#16 1#64) (pairState 2 0 false true)).field 5).mode = .dark ∧
    ((after (.converterFailure 10 7#16 1#64) (pairState 2 0 true true)).fieldPwr 5).st = 2 := by decide +kernel

/-- A field on one converter has reached 250 A by this tick. -/
theorem test_demand_follows : ((pairState 3 160 false true).field 5).owned = true ∧ countFor (max ((pairState 3 160 false true).fieldPwr 5).hwm 250) 150 = 7 ∧
    ((after (.powerPolicyTick ⟨54000, 460000, 0, [], [(5, 250)], []⟩ 1#64) (pairState 3 160 false true)).clkPart 2).pwrSwal = 7 := by decide +kernel

/-- Field 9 waits for its quiet window, field 10 is on. -/
def rampState (st : Nat) : State := { State.reset with sys := { pwr := { fields := [(9, { st := st }), (10, { st := 3 })] }, clk := { fields := [(9, { powerOn := some 0 })] } } }

theorem test_ramp : ((rampState 1).fieldPwr 9).st = 1 ∧ atPeak (rampState 1) 9 [(10, 240)] = false ∧ atPeak (rampState 1) 9 [(10, 241)] = true ∧
    ((after (.quietWindowGrant 9 [(10, 240)] 3000000#64) (rampState 1)).fieldPwr 9) = { st := 2, grantMs := 3 } ∧
    ((after (.quietWindowGrant 9 [(10, 241)] 3000000#64) (rampState 1)).fieldPwr 9).st = 1 ∧
    ((after (.grantTimeout 9 50000001#64) (rampState 1)).fieldPwr 10).armed = true ∧ ((after (.grantTimeout 9 50000000#64) (rampState 1)).fieldPwr 9).st = 1 := by decide +kernel

theorem test_ramp_fails : ((after (.fieldRampTimeout 9 7#16 1000001#64) (rampState 2)).field 9).mode = .dark ∧ ((after (.fieldRampTimeout 9 7#16 1000000#64) (rampState 2)).fieldPwr 9).st = 2 ∧
    ((after (.fieldSupplyShort 9 7#16 1#64) (rampState 2)).fieldPwr 9).st = 4 := by decide +kernel

/-- 54 V and 460 A, with 99 ms of history at 24 kW, the floor at step 3. -/
def policyState (hist : List Nat) : State := { pwrState onCore with tb := 0#64, sys := { (pwrState onCore).sys with pwr := { hist := hist, valid := true } } }

theorem test_policy : (policyState []).sys.pwr.hist.length < 99 ∧ (after (.powerPolicyTick ⟨54000, 460000, 0, [], [], []⟩ 20000000#64) (policyState [])).sys.pwr.power = 2484 ∧
    100 ≤ (takePower ((policyState (List.replicate 99 24000)).atTick 20000000#64) ⟨54000, 460000, 0, [], [], []⟩).sys.pwr.hist.length ∧
    (after (.powerPolicyTick ⟨54000, 460000, 0, [], [], []⟩ 20000000#64) (policyState (List.replicate 99 24000))).sys.clk.limit = 1 := by decide +kernel

/-! ### Heat -/

/-- Partition 2 owns field 5; core 960's sensors stand at `c`, the block at `x`. -/
def thmState (x : Thm) : State := { pwrState onCore with sys := { (pwrState onCore).sys with thm := x } }

theorem test_core_sensor : (thmState {}).hasField (960 / 192) = true ∧ ((thmState {}).coreThm 960).dFail = false ∧ ((after (.coreSensorSample 960 (some 90) (some 86) 9#64) (thmState {})).coreThm 960).stage1 = true ∧
    ((after (.coreSensorSample 960 (some 90) (some 86) 9#64) (thmState {})).coreThm 960).wide = true ∧
    ((after (.coreSensorSample 960 none none 9#64) (thmState { cores := [(960, { dMiss := 9 })] })).coreThm 960).dFail = true ∧
    ((after (.disagreeTimeout 960 1000000010#64) (thmState { cores := [(960, { wideAt := some 9 })] })).coreThm 960).suspect = true ∧
    ((after (.stage1Release 960 100000009#64) (thmState { cores := [(960, { coolAt := some 9, stage1 := true })] })).coreThm 960).stage1 = false := by decide +kernel

theorem test_tier_sensor : (((thmState {}).core 960).mast.tiers[(0 : Fin 4)]).failed = false ∧ ((thmState {}).field (960 / 192)).owned = true ∧
    ((after (.tierSensorSample 960 0 (some 84) 9#64) (thmState {})).part 2).hotAsked = true ∧ ((after (.tierSensorSample 960 0 (some 83) 9#64) (thmState {})).part 2).hotAsked = false ∧
    tierAtLeast (thmState {}) 95 ((960 : Fin 9216).val, 0) = false ∧ ((after (.tierSensorSample 960 0 (some 95) 9#64) (thmState {})).clkPart 2).thmSwal = 8 := by decide +kernel

/-- Core 960 at 90 °C in stage 1 since tick 9, or cool for 100 ms with a demand of 3. -/
def demandState (hot : Bool) : State := { thmState { cores := [(960, if hot then { diode := 90, ring := 90, stage1 := true, hotAt := some 9 } else { coolAt := some 9 })] } with
  parts := [(2, { en := true })], cores := [] }

theorem test_demand : (demandState true).enabled = [2] ∧ demandUp ((demandState true).atTick 100000009#64) 2 100000009 = true ∧
    ((after (.thermalDemandTick 100000009#64) (demandState true)).clkPart 2).thmSwal = 1 := by decide +kernel

/-- 20.00 °C in, 30.00 °C out, 32.00 L/min, all valid, sequence 4, with its CRC. -/
def trayReport (flow : Nat) : BitVec 96 :=
  let r := word 96 [(0, 2000), (16, 3000), (32, flow), (48, 7), (56, 4)]
  setBits r 80 16 (trayCrc r 10).toNat

theorem test_tray : trayMissed (thmState {}) (some (trayReport 3200)) = false ∧ trayValues (thmState {}) (trayReport 3200) = (some 2000, some 3000, some 3200) ∧
    (after (.trayPoll (some (trayReport 3200)) 9#64) (thmState {})).sys.thm.qrem = 2117 ∧ trayAge (after (.trayPoll (some (trayReport 3200)) 9#64) (thmState {})) = 0 ∧
    (after (.trayPoll (some (trayReport 639)) 9#64) (thmState { rpts := [⟨5, some 2560, none, none⟩] })).sys.struck = true ∧
    (after (.trayPoll (some (trayReport 640)) 9#64) (thmState { rpts := [⟨5, some 2560, none, none⟩] })).sys.struck = false := by decide +kernel

theorem test_strike_and_gating : (after (.strikeRestoreDeadline 2000000010#64) (thmState { struckAt := some 9, cool := 3 })).sys.shutdown = true ∧
    ((after (.gatingTick 9#64) (demandState true)).partThm 2).gateNext = false ∧ ((after (.thermalTrip 5 0 0 105#8 9#64) (thmState {})).field 5).mode = .dark ∧
    (after (.thmCtrlWrite (word 32 [(0, 80), (8, 79), (16, 70)])) (thmState {})).sys.thm.reefOn = 80 ∧ (after (.thmCtrlWrite (word 32 [(0, 80), (8, 80)])) (thmState {})).sys.thm.reefOn = 0x5A := by decide +kernel

/-- Field 5 recovers its column 0, whose row 14 has died; the masts of rows 14 and 15 hold data. -/
def recovState (r : Recov) : State := { pwrState {} with
  parts := [(2, { en := true, recov := some r })], fab := { fields := [(5, { owned := true, part := 2, mode := .normal, furlRow := [(0, 14)] })] }
  cores := [(1128, { mast := { data := [(1, 0x41#8)] } }), (1140, { mast := { data := [(1, 0x42#8)] } })] }

def aRecov : Recov := { dead := [1128], spares := [60], copies := [60], tests := [5] }

theorem test_recovery_passes : (recovState aRecov).hasField 5 = true ∧ testDue { dead := [1128], tests := [5] } 5 = true ∧ ((recovState { dead := [1128], tests := [5] }).field 5).mode ≠ .dark ∧
    ((after (.columnTestDone 5 true) (recovState { dead := [1128], tests := [5] })).field 5).mode = .normal ∧
    ((after (.columnTestDone 5 true) (recovState { dead := [1128], tests := [5] })).core 1128).mast.data = [] := by decide +kernel

theorem test_recovery : deadIn (recovState aRecov) 2 (5 * 12 + 0) = some 1128 ∧ ((recovState aRecov).corePwr (5 * 192 + 180 + 0)).st = 0 ∧
    ((after (.spareCheckDone 5 0 true) (recovState aRecov)).part 2).recov = some { aRecov with spares := [] } ∧ ((after (.spareCheckDone 5 0 false) (recovState aRecov)).field 5).mode = .dark ∧
    ((after (.columnCopyDone 5 0 none) (recovState { aRecov with spares := [] })).core 1140).mast.data = [(1, 0x41#8)] ∧
    ((after (.columnCopyDone 5 0 (some (15, 7))) (recovState { aRecov with spares := [] })).core 1140).mast.failed = true ∧
    (after (.columnCopyDone 5 0 none) { recovState { aRecov with spares := [] } with xt := { busy := true, field := 5, cxp := 0 } }).xt.done = true ∧
    (after (.columnCopyDone 5 0 (some (15, 7))) { recovState { aRecov with spares := [] } with xt := { busy := true, field := 5, cxp := 0 } }).xt.err = true ∧
    testDue { dead := [1128], tests := [5] } 5 = true ∧ ((after (.columnTestDone 5 false) (recovState { dead := [1128], tests := [5] })).field 5).mode = .dark := by decide +kernel

/-! ### The host interface -/

/-- Partition 0 steps; function 1 as given, on home link 0 with a message being carried out and its rings enabled. -/
def hostState (x : Fn) : State := { reqState id {} with
  host := { (reqState id {}).host with fns := [(0, x), (1, x)] } }

def steppingState : State := { hostState { msgs := [{ body := 6#512, busy := true }] } with
  parts := [(0, { en := true, grp := { inStep := true, stepping := true, held := true }, req := { sqs := [(0, { en := true, tail := 1 })], cq := { en := true }, srs := [(0, { en := true })] } })] }

theorem test_reset_function : (steppingState.part 0).en = true ∧ isStepping steppingState 0 = true ∧ ((1 : Fin 65)).val = (0 : Fin 64).val + 1 ∧ (steppingState.part 0).home = (0 : Fin 4).val ∧
    ((after (.partitionReset 0 1#64) steppingState).part 0).resetAsked = true ∧ ((after (.hostFlr 1 0 1#64) steppingState).fn 1).msgs.map (·.drop) = [true] ∧
    ((after (.hostFlr 1 0 1#64) steppingState).req 0).cq.en = false ∧ ((after (.hostFlr 0 0 1#64) steppingState).fn 0).msgs.map (·.drop) = [true] := by decide +kernel

theorem test_links : (hostState {}).host.links[(0 : Fin 4)].up = true ∧ (after (.hostLinkDown 0) (hostState {})).host.links[0].downCnt = 1 ∧ (after (.hostPerst 0) (hostState {})).host.links[0].cfg = [] ∧
    (after (.hostLinkUp 3 3 16 true) { hostState {} with sys := { clk := { phase := 3 } } }).host.links[3].width = 16 ∧ present (hostState {}) 0 64 = true ∧ present (hostState {}) 1 0 = false ∧
    ((after (.pcieConfigWrite 0 64 (some true) (some false) none) (hostState {})).cfgOf 0 64) = { master := true } ∧
    ((after (.pcieConfigWrite 0 0 none (some false) (some 3)) (hostState {})).cfgOf 0 0) = { master := true, sriov := false, numVfs := 64 } := by decide +kernel

theorem test_out_mailbox : ((after (.mbxOutDataWrite 1 15 0x80000000#32) (hostState {})).fn 1).out = word 512 [(511, 1)] ∧ ((after (.mbxOutGo 1 0) (hostState { full := true })).fn 1).coll = true ∧
    mayTake (hostState { full := true, out := 6#512 }) 1 = true ∧ takeStatus (hostState {}) 1 6#512 false = none ∧ takeStatus (hostState {}) 1 7#512 false = some 1 ∧
    ((after (.mbxTake 1) (hostState { full := true, out := 6#512 })).fn 1).msgs.map (·.body) = [6#512] ∧
    ((after (.mbxTake 1) (hostState { full := true, out := 7#512 })).fn 1).replies = [word 512 [(0, 7), (8, 1)]] ∧
    findMsg (hostState { msgs := [{ body := 6#512 }] }) 1 6 = some { body := 6#512 } ∧
    ((after (.info 1) (hostState { msgs := [{ body := 6#512 }] })).fn 1).replies = [word 512 [(0, 6), (144, 1)]] := by decide +kernel

theorem test_in_mailbox : ((after (.mbxReplyWrite 1) (hostState { replies := [word 512 [(8, 3)]] })).fn 1).dblStat = 5#32 ∧ ((after (.mbxInDone 1) (hostState { inFull := true })).fn 1).received = 1 ∧
    ((after (.dblStatClear 1 1#32) (hostState { dblStat := 5#32 })).fn 1).dblStat = 4#32 ∧ ((after (.dblMaskWrite 1 0xFFFFFFFF#32) (hostState {})).fn 1).dblMask = 0xFFF#32 ∧
    (after (.dblMaskWrite 1 0#32) (hostState { dblStat := 8#32, dblMask := 8#32, vecs := [(2, { masked := false })] })).host.out = [.msix 1 2] := by decide +kernel

theorem test_vectors : (after (.msixUnmask 1 (some 0)) (hostState { vecs := [(0, { pend := true })] })).host.out = [.msix 1 0] ∧ (after (.msixUnmask 1 (some 0)) (hostState {})).host.out = [] ∧
    ((after (.msixUnmask 1 none) (hostState { fnMask := true })).fn 1).fnMask = false ∧
    (after (.coalesceExpire 1 ⟨8, 0#64⟩) (hostState { vecs := [(8, { masked := false, window := true, folded := true })] })).host.out = [.msix 1 8] ∧
    (after (.coalesceExpire 1 ⟨8, 0#64⟩) (hostState { vecs := [(8, { masked := false, window := true })] })).host.out = [] ∧ (after (.badRegisterAccess none) (hostState {})).host.badAcc = 1 := by decide +kernel

theorem test_insecure : ideOk { hostState {} with sys := { sec := { parts := [(0, { ideReq := true })] } } } 0 1 = false ∧
    ((after (.badRegisterAccess (some (0, 0))) { hostState {} with sys := { sec := { parts := [(0, { ideReq := true })] } } }).secPart 0).ideRefuse = 1 := by decide +kernel

/-! ### Hoisting -/

/-- Partition 0 with a command in its registers, one in its queue, and its hoist and slot 0 as given. -/
def hoistState (data : BitVec 256) (q : List HoistCmd) (h : Option Hoist) (x : ImgSlot) : State := { reqState id {} with
  sys := { ready := true, clk := { step := 0 }, sec := { selftestOk := true, drbgOk := true } }
  parts := [(0, { en := true, cmdData := data, queue := q, hoist := h, slots := (Vector.replicate 4 {}).set 0 x, hstat := { busy := true }, req := { quota := 2, base := 0 } })] }

/-- Commands with LINKS 1 and a report at 0x1000. -/
def aCmd (op : Nat) : BitVec 256 := word 256 ([(0, op), (12, 1), (32, 7), (192, 0x1000)] ++ if op = 1 then [(64, 0x2000), (128, 1)] else [])

def queued1 (op : Nat) : HoistCmd := ⟨aCmd op, false, 0⟩

/-- A manifest of 256 bytes and a payload of 64 in segments of 1 MiB. -/
def aHeader : BitVec 2048 := word 2048 [(0, 0x00474D494A465156), (64, 1), (96, 1), (128, 20), (192, 592), (256, 256), (320, 64)]

def hoistIn : HoistIn := ⟨none, [(0, 592, 0)], aHeader⟩

/-- The same with an engine that unwraps no key. -/
def noKeys (s : State) : State := { s with sys := { s.sys with sec := { s.sys.sec with drbgOk := false } } }

theorem test_hoist_queued : ((hoistState (aCmd 1) [] none {}).part 0).queue.length < 8 ∧ hcOp (aCmd 1) ≠ 2 ∧ hcOp (aCmd 1) ≠ 3 ∧
    ((after (.hoist 0 false 0#64) (hoistState (aCmd 1) [] none {})).part 0).queue = [queued1 1] ∧ abortsSlot (hoistState (aCmd 2) [] none {}) 0 (hcSlot (aCmd 2)) = false ∧
    ((after (.unload 0 false 0#64) (hoistState (aCmd 2) [] none {})).part 0).queue = [queued1 2] := by decide +kernel

/-- The same hoist handed in through the virtual function's mailbox. -/
def mailedHoist : State := { hoistState 0#256 [] none {} with host := { (reqState id {}).host with fns := [(1, { msgs := [{ body := word 512 [(0, 1), (32, (aCmd 1).toNat)] }] })] } }

theorem test_hoist_mailed : (findMsg mailedHoist 1 1).isSome = true ∧ hcOp (bits (word 512 [(0, 1), (32, (aCmd 1).toNat)]) 32 256) = 1 ∧
    ((after (.hoist 0 true 0#64) mailedHoist).part 0).queue.map (·.byVf) = [true] ∧ ((after (.hoist 0 true 0#64) mailedHoist).fn 1).msgs = [] := by decide +kernel

def running (ph : HoistPhase) (f : Hoist → Hoist) : Option Hoist := some (f { cmd := queued1 1, phase := ph, manLen := 2 ^ 21, payLen := 64, segLog2 := 20 })

theorem test_hoist_aborted : abortsSlot (hoistState (aCmd 2) [] (running .manifest id) { st := .hoisting }) 0 (hcSlot (aCmd 2)) = true ∧
    ((after (.unload 0 false 0#64) (hoistState (aCmd 2) [] (running .manifest id) { st := .hoisting })).part 0).hoist.map (·.abortReq) = some true ∧
    hcTag (queued1 1).body = hcTarget (aCmd 3 ||| word 256 [(160, 7)]) ∧ HoistPhase.stream.code ≤ 4 ∧
    ((after (.hoistAbort 0 false 0#64) (hoistState (aCmd 3 ||| word 256 [(160, 7)]) [] (running .stream id) { st := .hoisting })).part 0).hoist.map (·.abortReq) = some true ∧
    canMaster (hoistState (aCmd 3) [] none {}) 0 0 = true ∧ ((after (.hoistAbort 0 false 0#64) (hoistState (aCmd 3) [] none {})).part 0).hstat.last = 0x12 := by decide +kernel

theorem test_queue_taken : badCommand (queued1 1) = false ∧ badCommand (queued1 0) = true ∧ ((after (.hoistQueueTake 0 hoistIn 0#64) (hoistState 0#256 [queued1 0] none {})).part 0).hstat.last = 1 ∧
    ((after (.hoistQueueTake 0 hoistIn 0#64) (hoistState 0#256 [queued1 2] none { st := .loaded })).img 0 0).st = .unloading ∧
    canRead (hoistState 0#256 [queued1 1] none {}) 0 (queued1 1) = true ∧ headerFormatBad hoistIn.scatter aHeader = false ∧ hoistsRunning (hoistState 0#256 [queued1 1] none {}) = 0 ∧ hcListCnt (aCmd 1) = hoistIn.scatter.length ∧ contentKey (noKeys (hoistState 0#256 [queued1 1] none {})) 0 aHeader = none ∧
    ((after (.hoistQueueTake 0 hoistIn 0#64) (noKeys (hoistState 0#256 [queued1 1] none {}))).part 0).hstat.last = 6 := by decide +kernel

/-- Four hoists run: a fifth waits. -/
def fourHoists : State := { hoistState 0#256 [queued1 1] none {} with parts := (hoistState 0#256 [queued1 1] none {}).parts ++ [1, 2, 3, 4].map (fun p => (p, { en := true, hoist := running .stream id })) }

theorem test_fifth_hoist_waits : hoistsRunning fourHoists = 4 ∧ after (.hoistQueueTake 0 hoistIn 0#64) fourHoists = fourHoists := by decide +kernel

theorem test_segment_stops : halyardNext (hoistState 0#256 [] (running .manifest id) { st := .hoisting }) = some 0 ∧
    ((after (.halyardSegment 0 ⟨5, 0#128, none⟩ 0#64) (hoistState 0#256 [] (running .manifest (fun h => { h with cmd := ⟨0#256, false, 0⟩ })) { st := .hoisting })).part 0).hstat.last = 4 ∧
    ((after (.halyardSegment 0 ⟨5, 0#128, none⟩ 0#64) (hoistState 0#256 [] (running .manifest (fun h => { h with abortReq := true })) { st := .hoisting })).img 0 0).st = .empty := by decide +kernel

theorem test_unload : (after (.unloadDrainLimit 0 0 0#64) { hoistState 0#256 [] none { st := .unloading, unloadFor := some .command } with table := { entries := [(0, { st := .active })] } }).table.entries.map
      (fun e => e.2.ended) = [some 0x21] ∧
    wantedStep (hoistState 0#256 [] none { st := .unloading, unloadFor := some .command, stopped := true }) = 0 ∧
    ((after (.unloadEraseDone 0 0 0#64) (hoistState 0#256 [] none { st := .unloading, unloadFor := some .command, stopped := true, loads := 3 })).img 0 0) = { loads := 3 } := by decide +kernel

/-- A message that loads automaton 5 of one state into slot 0, whose file's magic is wrong. -/
def autoState : State := { hoistState 0#256 [] none { st := .loaded } with
  host := { (reqState id {}).host with fns := [(1, { msgs := [{ body := word 512 [(0, 2), (48, 5), (128, 64)] }] })] } }

theorem test_auto_load : firstCause (autoChecks autoState 0 (word 512 [(0, 2), (48, 5), (128, 64)]) (some 0)) = some 5 ∧
    ((after (.autoLoad 0 (some 0)) autoState).fn 1).replies = [word 512 [(0, 2), (32, 5)]] := by decide +kernel

/-- What the halyard does with 8 bytes that it has opened: it keeps them. Whether a segment opens is the cipher's affair, which is open here. -/
theorem test_segment_taken : ((takeSegment (hoistState 0#256 [] (running .manifest (fun h => { h with segLog2 := 3 })) { st := .hoisting }) 0
    { cmd := queued1 1, phase := .manifest, manLen := 2 ^ 21, payLen := 64, segLog2 := 3 } (some 5) none).part 0).hoist.map (fun h => (h.got, h.plain)) = some (8, [(0, 5#8)]) := by decide +kernel

/-- One state that allows tokens 0 to 7: magic, vocabulary, counts, the areas at 64, 128 and 192, and its mask. -/
def autoFile : Nat := 0x31414A46 + 8 * 2 ^ 32 + 2 ^ 64 + 2 ^ 96 + 64 * 2 ^ 192 + 128 * 2 ^ 256 + 192 * 2 ^ 320 + 0xFF * 2 ^ 1024

/-- The slot stands on field 0, whose core 0 samples, with an area for automata in row 0x20000. -/
def autoReady : State := { hoistState 0#256 [] none { st := .loaded, nv := 8 } with
  host := { (reqState id {}).host with fns := [(1, { msgs := [{ body := word 512 [(0, 2), (48, 5), (128, 192)] }] })] }
  fab := { fields := [(0, { owned := true, mode := .normal })] }, cores := [(0, { samp := some (word 512 [(128, 2), (144, 1)]) })] }

theorem test_auto_loaded : firstCause (autoChecks autoReady 0 (word 512 [(0, 2), (48, 5), (128, 192)]) (some autoFile)) = none ∧ samplerCores autoReady 0 0 = [0] ∧
    autoSpot autoReady 0 (word 512 [(0, 2), (48, 5), (128, 192)]) = some 0 ∧
    ((after (.autoLoad 0 (some autoFile)) autoReady).req 0).autoLoads.map (fun a => (a.slot, a.id, a.auto)) = [(0, 5, ⟨0, 0, 192⟩)] ∧
    AMap.find ((after (.autoLoad 0 (some autoFile)) autoReady).core 0).mast.data (0x20000 + 128) = some 0xFF#8 := by decide +kernel

/-! ### The security engine. What rests on an algorithm of Config is open in these states too: such a hypothesis, as that a point lies on the curve, has no witness in numbers. -/

def spdmState (x : Spdm) : State := { hoistState 0#256 [] none {} with
  sys := { ready := true, clk := { phase := 4 }, sec := { selftestOk := true, drbgOk := true, spdm := [(0, x)] } }
  host := { (reqState id {}).host with fns := [(0, { msgs := [{ body := word 512 [(0, 5), (32, 64)] }, { body := 5#512 }] }), (1, { msgs := [{ body := word 512 [(0, 3), (40, 16)] }, { body := word 512 [(0, 4), (40, 1)] }] })] } }

theorem test_spdm_versions : spdmHears (spdmState {}) (.doe 0) = true ∧ (after (.getVersion (.doe 0)) (spdmState { phase := 3 })).host.out = [.spdm 0x04 2 0x1312] ∧
    ((after (.getCapabilities (.doe 0) 0x13) (spdmState { phase := 1 })).spdm (.doe 0)) = { phase := 2, ver := 0x13 } ∧
    (after (.getCapabilities (.doe 0) 0x11) (spdmState { phase := 1 })).host.out = [.spdm 0x7F 1 0x41] ∧
    ((after (.negotiateAlgorithms (.doe 0) true) (spdmState { phase := 2 })).spdm (.doe 0)).phase = 3 ∧ (after (.getDigests (.doe 0)) (spdmState { phase := 2 })).sys.sec.spdmErr = 1 := by decide +kernel

theorem test_spdm_answers : (after (.getDigests (.doe 0)) (spdmState { phase := 3 })).host.out.length = 1 ∧ (after (.getCertificate (.doe 0) 1 0 64) (spdmState { phase := 3 })).sys.sec.spdmErr = 1 ∧
    engineOk (spdmState {}) = true ∧ (after (.challenge (.doe 0) 0 0#384) (spdmState { phase := 3 })).sys.sec.draws = 1 ∧ (blockList 0).contains 7 = true ∧ (blockList 0).contains 0x10 = false ∧
    measurement (spdmState {}) 0 7 = some (16, 0) ∧ (after (.getMeasurements (.doe 0) 7 false 0#384) (spdmState { phase := 3 })).host.out = [.spdm 0x60 20 (1 + 7 * 256 + 16 * 65536)] ∧
    (after (.getMeasurements (.doe 0) 0x10 false 0#384) (spdmState { phase := 3 })).sys.sec.spdmErr = 1 ∧ (after (.getMeasurements (.doe 0) 7 true 0#384) (spdmState { phase := 3 })).sys.sec.draws = 1 := by
  decide +kernel

theorem test_sessions : sessionsOf (spdmState { phase := 3 }) 0 = [] ∧ ((after (.keyExchange (.doe 0) 0 0#384) (spdmState { phase := 3 })).spdm (.doe 0)).sessions = [(0, false)] ∧
    (after (.keyExchange (.doe 0) 0 0#384) (spdmState { phase := 3, sessions := [(0, true), (1, true)] })).sys.sec.spdmErr = 1 ∧
    ((after (.finish (.doe 0) 1 true) (spdmState { phase := 3, sessions := [(1, false)] })).spdm (.doe 0)).sessions = [(1, true)] ∧
    ((after (.endSession (.doe 0) 1) (spdmState { phase := 3, sessions := [(1, true)] })).spdm (.doe 0)).sessions = [] ∧
    (after (.heartbeat (.doe 0) 1) (spdmState { phase := 3 })).sys.sec.spdmErr = 1 ∧ ((after (.chunkSend (.doe 0) 255 0 false) (spdmState { phase := 3 })).spdm (.doe 0)).chunk = some (255, 1) ∧
    (after (.chunkGet (.doe 0) 1) (spdmState { phase := 3, large := some (4033, 5 * 256 ^ 4032) })).host.out = [.spdm 0x06 1 5] := by decide +kernel

theorem test_ide : AMap.find ((spdmState { phase := 3, sessions := [(1, true)] }).spdm (.doe 0)).sessions 1 = some true ∧
    AMap.at (AMap.at (after (.ideKm 1 3 2 (.keyProg 5) [1]) (spdmState { phase := 3, sessions := [(1, true)] })).sys.sec.ide [] 3) {} 2 = { fns := [1], keys := 32#6 } := by decide +kernel

theorem test_session_keys : firstCause (keyExchChecks (spdmState {}) 0 (word 512 [(0, 3), (40, 16)]) none) = some 1 ∧ ((after (.keyExch 0 none) (spdmState {})).fn 1).replies = [word 512 [(0, 3), (32, 1)]] ∧
    firstCause (keyClearChecks (spdmState {}) 0 (word 512 [(0, 4), (40, 1)]) (some 0#1024)) = some 4 ∧ ((after (.keyClear 0 (some 0#1024)) (spdmState {})).fn 1).replies = [word 512 [(0, 4), (32, 4)]] := by
  decide +kernel

theorem test_signing_key : ((after (.signkey (some 0#776)) (spdmState {})).fn 0).replies = [word 512 [(0, 5), (32, 1)]] ∧
    firstCause (signkeyChecks (spdmState {}) { body := 5#512 } (some 0#776)) = none ∧ (after (.drbgReseed false) (spdmState {})).sys.sec.drbgOk = false := by decide +kernel

/-! ### Configuration memory and firmware -/

/-- Both devices present; messages for the firmware in function 0; bank 1 holds a version of each kind. -/
def bankOne : FwBank := { comps := [(1, (0x01000002#32, true)), (2, (0x01000003#32, true)), (3, (0x01000004#32, true))] }

def fwState (c : Cfg) (f : Fw) (body : BitVec 512) : State := { hoistState 0#256 [] none {} with
  tb := 0#64
  sys := {
    ready := true
    cfg := { c with dev0 := { c.dev0 with present := true, banks := [(1, bankOne)] }, dev1 := { c.dev1 with present := true } }
    fw := f
    fwMajor := 1
    clk := { phase := 12 }
    pwr := { fields := [(0, { st := 3 }), (1, { st := 3 })] } }
  host := { (reqState id {}).host with fns := [(0, { msgs := [{ body := body }] })] } }

theorem test_config_copy : (after (.cfgCopyGo true 2) (fwState { imgLo := 16#32 } {} 0#512)).sys.cfg.write = some { target := 1, addr := 16, link := 2 } ∧
    (after (.cfgCopyDone none true) (fwState { write := some { target := 1, addr := 16, link := 0 } } {} 0#512)).sys.cfg.status = 3 ∧ pfMaster (fwState {} {} 0#512) 0 = true ∧
    goodImage (fwState {} {} 0#512) 0 = false ∧ (after (.cfgCopyDone (some 0) true) (fwState { write := some { target := 1, addr := 16, link := 0 } } {} 0#512)).sys.cfg.status = 1 := by decide +kernel

theorem test_registers_kept : rwpRange 0 0x01F4#32 = false ∧ rwpRange 0 0x01F5#32 = true ∧ (after (.rwpWrite 15 9#32) (fwState {} {} 0#512)).sys.cfg.prog = some (15, 9#32, 1) ∧
    (after (.rwpWrite 0 0x01F5#32) (fwState {} {} 0#512)).sys.cfg.lastErr = 1 ∧ (after (.rwpWrite 3 1#32) (fwState { wcnt := [(3, 100000)] } {} 0#512)).sys.cfg.lastErr = 2 ∧
    (after (.rwpWrite 6 1#32) (fwState {} {} 0#512)).sys.cfg.rwp = [] ∧
    (after (.rwpRecordProgrammed true true) (fwState { prog := some (15, 9#32, 1) } {} 0#512)).sys.cfg.dev1.store.recs = [(15, 9#32, 1)] ∧
    (after (.rwpRecordProgrammed true false) (fwState { prog := some (15, 9#32, 1) } {} 0#512)).sys.cfg.devErr = 2#2 := by decide +kernel

theorem test_stage : bankFree (fwState {} {} 0#512) 0 = false ∧ bankFree (fwState {} { dir := { act := Vector.replicate 3 1 } } 0#512) 0 = true ∧
    (after .fwStage (fwState {} { dir := { act := Vector.replicate 3 1 } } 0x40#512)).sys.fw.staging = some 0x40#512 ∧ fwBusy (fwState {} { staging := some 0#512 } 0x40#512) = true ∧
    (after .fwStage (fwState {} { staging := some 0#512 } 0x40#512)).sys.fw.last = 9 ∧ firstCause (stageChecks (fwState {} {} 0x40#512) 0x40#512 ⟨0#4096, []⟩) = some 2 ∧
    (after (.fwStageComplete (some ⟨0#4096, []⟩) true) (fwState {} { staging := some 0x40#512 } 0x40#512)).sys.fw.last = 2 := by decide +kernel

/-- FW_ACTIVATE of kind FC from bank 1 at tick 20. -/
def actMsg : BitVec 512 := word 512 [(0, 0x41), (32, 2), (40, 1), (64, 20)]

def actOf (kinds : Nat) (f : FwAct → FwAct) : FwAct := f { kinds := kinds, bank := 1, time := 20#64 }

theorem test_activate : firstCause (actChecks ((fwState {} {} actMsg).atTick 20#64) actMsg 20#64) = none ∧ firstCause (actChecks ((fwState {} {} actMsg).atTick 21#64) actMsg 21#64) = some 0x0C ∧
    (after (.fwActivate 20#64) (fwState {} {} actMsg)).sys.fw.act = some (actOf 2 (fun a => { a with msg := some actMsg })) ∧ (after (.fwActivate 21#64) (fwState {} {} actMsg)).sys.fw.last = 0x0C ∧
    litFields (fwState {} { act := some (actOf 2 id) } 0#512) = [0, 1] ∧ crosses (fwState {} { act := some (actOf 1 id) } 0#512) 1 = false ∧
    (after (.fwActTime 20#64) (fwState {} { act := some (actOf 2 id) } 0#512)).sys.fw.act = some (actOf 2 (fun a => { a with begun := true, todo := [2], fields := [0, 1] })) ∧
    (after (.fwActTime 20#64) (fwState {} { act := some (actOf 1 id) } 0#512)).sys.fw.mhStop = true ∧ (after (.fwActTime 20#64) (fwState {} { act := some (actOf 4 id) } 0#512)).sys.fw.dir.actOf 3 = 1 := by
  decide +kernel

theorem test_reload : (after (.fcFieldActivate 0 false 30#64) (fwState {} { act := some (actOf 2 (fun a => { a with begun := true, todo := [2], fields := [0, 1] })) } 0#512)).sys.fw.reloading = some 0 ∧
    (after (.fcFieldActivate 0 true 30#64) (fwState {} { fcVer := 7#32, reloading := some 0, act := some (actOf 2 (fun a => { a with begun := true, todo := [2], fields := [0, 1] })) } 0#512)).sys.fw.fc = [(0, 7#32)] ∧
    (after (.rioActivateDone 0) (fwState {} { dir := { act := Vector.replicate 3 1 }, act := some (actOf 4 (fun a => { a with begun := true, todo := [3], rios := [0, 1] })) } 0#512)).sys.fw.rio = [(0, 0x01000004#32)] ∧
    (after .mhSwitchDone (fwState {} { dir := { act := Vector.replicate 3 1 }, mhStop := true, act := some (actOf 1 (fun a => { a with begun := true, todo := [1] })) } 0#512)).sys.fw.mh = 0x01000002#32 := by
  decide +kernel

/-- A partition of a two-module slice on field 0 while an FC activation stands at that field; or no activation. -/
def fcSlice (act : Option FwAct) (inStep : Bool) : State := { fwState {} { act := act } 0#512 with
  fab := { fields := [(0, { owned := true, part := 0 })] }
  parts := [(0, { en := true, slots := (Vector.replicate 4 {}).set 0 { st := .loaded }, grp := { inStep := inStep, step := 7 }, slice := { id := 1, st := .up, mods := 1, rank := 1, serials := [7#64, 0#64] } })] }

theorem test_hold_before_stamp : endReady (fcSlice (some (actOf 2 (fun a => { a with begun := true, todo := [2], fields := [0, 1] }))) true) 0 = true ∧
    ((after (.stepEndBoundary 0 40#64) (fcSlice (some (actOf 2 (fun a => { a with begun := true, todo := [2], fields := [0, 1] }))) true)).slice 0).stamps = [] ∧
    ((after (.stepEndBoundary 0 40#64) (fcSlice none true)).slice 0).stamps = [(1, 40)] ∧ ((after (.stepEndBoundary 0 50#64) (fcSlice none false)).slice 0).stamps = [(1, 50)] := by decide +kernel

theorem test_reload_hold : mayStep (fcSlice (some (actOf 2 (fun a => { a with begun := true, todo := [2], fields := [0, 1] }))) false) 0 = true ∧
    stampSent (fcSlice (some (actOf 2 (fun a => { a with begun := true, todo := [2], fields := [0, 1] }))) false) 0 = false ∧
    ((after (.fcFieldActivate 0 false 30#64) (fcSlice (some (actOf 2 (fun a => { a with begun := true, todo := [2], fields := [0, 1] }))) false)).grp 0).held = true := by decide +kernel

theorem test_notices : slicePeers { fwState {} {} 0#512 with parts := [(0, { en := true, slice := { id := 1, st := .up, mods := 1, serials := [0#64, 7#64] } })] } = [7#64] ∧
    (after (.fwRigNoticeDeadline 9#64) { fwState {} { act := some (actOf 2 (fun a => { a with rig := true })) } 0#512 with
      parts := [(0, { en := true, slice := { id := 1, st := .up, mods := 1, serials := [0#64, 7#64] } })] }).sys.fw.last = 0x0B ∧
    (after (.fwActivationNotice 7#64 false 20#64 0#768 9#64) (fwState {} {} 0#512)).sys.fw.heard = [(7#64, 20#64, 0#768)] ∧
    (after (.fwActivationNotice 7#64 true 20#64 0#768 9#64) (fwState {} { act := some (actOf 2 (fun a => { a with rig := true, time := 10000010#64 })) } 0#512)).sys.fw.act = none ∧
    (after (.fwAbort 9#64) (fwState {} { act := some (actOf 2 (fun a => { a with time := 10000010#64 })) } 0x44#512)).sys.fw.act = none ∧ (after (.fwAbort 9#64) (fwState {} {} 0x44#512)).sys.fw.last = 0x0C := by
  decide +kernel

def onTrial : FwDir := { act := Vector.replicate 3 1, prev := Vector.replicate 3 0, trial := (Vector.replicate 3 false).set 1 true }

theorem test_trials : onTrial.trials = [2] ∧ (after (.fwConfirm true) (fwState {} { dir := onTrial } 0x42#512)).sys.fw.dir.trials = [] ∧ (after (.fwConfirm true) (fwState {} {} 0x42#512)).sys.fw.last = 0x0D ∧
    (after (.fwRevert 9#64) (fwState {} { dir := onTrial } (word 512 [(0, 0x43), (32, 2)]))).sys.fw.dir.actOf 2 = 0 ∧ bankOf (fwState {} {} 0#512) 1 ≠ none ∧
    ((after (.fwFallback true) (fwState {} { dir := { act := Vector.replicate 3 1 } } (word 512 [(0, 0x45), (40, 1)]))).nvm true).banks.map (·.1) = [2] ∧
    (after (.fcHeartbeatLoss 0 9#64) (fwState {} { dir := onTrial } 0#512)).sys.fw.act.map (·.todo) = some [2] ∧
    (after (.fwMhTrialTimeout 300000000001#64) { fwState {} {} 0#512 with sys := { clk := { phase := 9 }, fw := { dir := { trial := Vector.replicate 3 true, fails := 1 } } } }).sys.fw.last = 0x0E := by
  decide +kernel

/-! ### The recorder -/

def evrState (e : Evr) (body : BitVec 512) : State := { fwState {} {} body with sys := { (fwState {} {} body).sys with evr := e } }

theorem test_freeze : (after (.evrFreeze 9#64) (evrState {} (word 512 [(0, 0x50), (32, 10000)]))).sys.evr.frozen = some 10000000009 ∧
    ((after (.evrFreeze 9#64) (evrState {} (word 512 [(0, 0x50), (32, 10001)]))).fn 0).replies = [word 512 [(0, 0x50), (32, 4)]] ∧
    (after (.evrThaw 9#64) (evrState { frozen := some 20, frzS := 3 } 0x51#512)).sys.evr.frozen = none ∧ (after (.evrFreezeLimit 21#64) (evrState { frozen := some 20 } 0#512)).sys.evr.frozen = none ∧
    (after (.evrFreezeLimit 20#64) (evrState { frozen := some 20 } 0#512)).sys.evr.frozen = some 20 := by decide +kernel

theorem test_dump_and_clear : ((after .evrDump (evrState {} (word 512 [(0, 0x52), (64, 1)]))).fn 0).replies = [word 512 [(0, 0x52), (32, 4)]] ∧ (after .evrDump (evrState {} 0x52#512)).host.out.length = 1 ∧
    (after .evrClear (evrState { data := { bins := [(0, 4), (64, 5)], dropped := 2 } } (word 512 [(0, 0x53), (32, 9), (64, 2)]))).sys.evr.data.bins = [(0, 4)] := by decide +kernel

theorem test_flush : ((after (.evrFlush 9#64) (evrState {} 0x54#512)).sys.evr.flush.map (fun g => (g.cause, g.slot))) = some (5, 0) ∧
    (after (.evrFlush 9#64) (evrState { flush := some { cause := 4 } } 0x54#512)).sys.evr.queue.length = 1 ∧ (after (.evrPeriodicFlush 9#64) (evrState {} 0#512)).sys.evr.seq = 1 ∧
    flushSpaced ((evrState { faultDue := true } 0#512).atTick 9#64) = true ∧ (after (.evrFaultFlushSpacing 9#64) (evrState { faultDue := true } 0#512)).sys.evr.faultDue = false ∧
    (after (.recorderFlushDone true true 9#64) (evrState { flush := some { cause := 4, slot := 3, image := some ⟨4, 1, 0, 0, {}⟩ } } 0#512)).sys.cfg.dev1.evr.map (·.1) = [3] ∧
    (after (.evrHsrcWrite 24 (word 32 [(0, 23), (5, 63), (12, 1)])) (evrState {} 0#512)).sys.evr.data.hsrc = [(24, word 32 [(0, 23), (5, 63)])] ∧
    (after (.evrHsrcWrite 23 0#32) (evrState {} 0#512)).sys.evr.data.hsrc = [] ∧ (after (.evrSecondSample 9#64) (evrState { ops := 0xFFFFFFFF } 0#512)).sys.evr.ops = 0 := by decide +kernel

/-! ### Registers and buses -/

theorem test_log_pop : (after (.elogPop .mst) { fwState {} {} 0#512 with mst := { log := { recs := [(1#32, 2#32, 3#32)] } } }).mst.log.recs = [] ∧
    ((after (.violRecordClear 0) { fwState {} {} 0#512 with cores := [(0, { viol := { count := 3, valid := true } })] }).core 0).viol = { count := 3 } := by decide +kernel

theorem test_thresholds : (after (.mstCtrlWrite (word 32 [(0, 81), (8, 80), (17, 1)])) (fwState {} {} 0#512)).mst.hotOn = 81 ∧ (after (.mstCtrlWrite (word 32 [(0, 80), (8, 80)])) (fwState {} {} 0#512)).mst.hotOn = 0x53 ∧
    (after (.registerWrite (.fabCtrl 9 true)) (fwState {} {} 0#512)).fab.retrainThr = 9 ∧ (after (.registerWrite (.pwrCtrl 220 true false)) (fwState {} {} 0#512)).sys.pwr.ceil = 220 ∧
    (after (.registerWrite (.pwrCtrl 221 true false)) (fwState {} {} 0#512)).sys.pwr.ceil = 0xDC ∧ (after (.registerWrite (.styCtrl 0 false)) (fwState {} {} 0#512)).stay.timeout = 0x64 ∧
    ((after (.registerWrite (.weight 3 255 65535)) (fwState {} {} 0#512)).req 3).weightsNext = [(255, 65535)] ∧ ((after (.registerWrite (.prtCtrl 3 true 2 1 9)) (fwState {} {} 0#512)).part 3).escModeNext = 0 ∧
    ((ringReadState true).req 0).rr.busy = true ∧ ((after (.registerWrite (.rrCnt 0 9)) (ringReadState true)).req 0).rr.cnt = 1 := by decide +kernel

theorem test_buses : (after (.pldmGetSensorReading .coolant) (fwState {} {} 0#512)).host.out = [.pldm 0x21 0] ∧ (after (.i3cDynamicAddress false 9) (fwState {} {} 0#512)).sys.pins.mi3c = some 9 ∧
    (after (.i3cDynamicAddress true 9) (meterState meter0 [])).sys.pins.cni3c = some 9 := by decide +kernel

/-- Both Ethernet ports up; the module leads its slice and follows IEEE 1588. -/
def ethState (rx : Nat) (stepped ready : Bool) : State := { State.reset with
  sys := { ready := ready, clk := { phase := 12 }, cfg := { ptpEn := true }, pins := { ethUp := 3#2, ethRx := rx } }, sheet := { leader := true, stepped := stepped } }

theorem test_ethernet : (after (.ethernetLinkDown 0) (ethState 0 false false)).sys.pins.ethPort = 1 ∧ (after (.ethernetLinkUp 0) { ethState 0 false false with sys := { clk := { phase := 5 } } }).sys.pins.ethUp = 1#2 ∧
    (after (.ethernetFrame 1 .telemetry 64) (ethState 4999999936 false false)).sys.pins.ethRx = 5000000000 ∧ (after (.ethernetFrame 1 .telemetry 65) (ethState 4999999936 false false)).sys.pins.ethDrops = 1 ∧
    (after (.ptpMessage 1 77#64 5#64) (ethState 0 false false)).tb = 77#64 ∧ (after (.ptpMessage 1 77#64 5#64) (ethState 0 true true)).tb = 5#64 := by decide +kernel

theorem test_host_read_timeout : ((after (.hostReadTimeout (.prompt 0 0 (subTurn 1)) 0#64) (reqState id {})).req 0).held.map (fun r => r.status) = [0x49] ∧
    ((after (.hostReadTimeout (.hoist 0 5) 0#64) (hoistState 0#256 [] (running .manifest id) { st := .hoisting })).part 0).hstat.last = 4 := by decide +kernel

/-! ### Further hypotheses -/

theorem test_phase_routine : inRoutine (mod core0) q0 = false ∧ q0.ctx.val = 0 := by decide +kernel

theorem test_commit_quiet : ∀ e ∈ (commitState []).cores, (commitState []).corePart e.1 = (commitState []).corePart q0.core → e.2.late = [] := by decide +kernel

/-- The group of core 0 stalled in cycle 40. -/
def stalledState (c : Core) : State := { mod c with parts := [(0, { en := true, grp := { stepping := true, inStep := true, stalled := some 40 } })] }

/-- While the line is asserted no tile load completes, no norm check acts, and a row due later does not land. -/
theorem test_stalled : ((stalledState loadingCore).grp ((stalledState loadingCore).corePart 0)).stalled.isSome = true ∧
    after (.tileLoadDone 0 3) (stalledState loadingCore) = stalledState loadingCore ∧
    after (.rowNormCheck 0 0 5) (stalledState (escCore (watchOf 0 0x7F800000 0) [] .idle)) = stalledState (escCore (watchOf 0 0x7F800000 0) [] .idle) ∧
    ((stalledState landCore).grp 0).guarded = false ∧ 40 < landing.due ∧ after (.mastRowLand 0 .clean) (stalledState landCore) = stalledState landCore := by decide +kernel

theorem test_sends_free : noInject (mod padCore) 0 = false ∧ ((mod padCore).grp 0).guarded = false := by decide +kernel

theorem test_kvapq_signs : 0 < kvGeo.elems ∧ ∀ j, j < kvGeo.elems / 64 →
    (kvSigns ((mod kvCore).core 0) q0.ctx (BitVec.ofNat 128 (((mod kvCore).core 0).readRes q0.ctx (bitsN wKv 35 5) (16 * bitsN wKv 40 11) 16).data) (64 * j)).viol = none := by
  refine ⟨by decide +kernel, fun j h => ?_⟩
  have e : kvGeo.elems / 64 = 2 := by decide +kernel
  rw [e] at h
  obtain rfl | rfl : j = 0 ∨ j = 1 := by omega
  all_goals decide +kernel

theorem test_fields_exist : (mod core0).hasField 0 = true ∧ (thmState {}).hasField 5 = true ∧ ({ thmState {} with grade := 40 }).hasField 5 = false ∧
    after (.tierSensorSample 960 0 (some 84) 9#64) { thmState {} with grade := 40 } = { thmState {} with grade := 40 } := by decide +kernel

/-- A command for a mast in mid-step waits for a service window. -/
theorem test_tables_wait : ((mod { core0 with mast := tableMast }).grp 0).inStep = true ∧ ((mod { core0 with mast := tableMast }).core 0).mast.svcEnd ≤ ((mod { core0 with mast := tableMast }).grp 0).cyc ∧
    ((after (.tlbRebuild 0) (mod { core0 with mast := tableMast })).core 0).mast.outside = [.rebuild] ∧
    ((after (.pageInit 0 1#16 2#20 3#13) (mod { core0 with mast := tableMast })).core 0).mast.outside = [.init 1 2 3] := by decide +kernel

/-- A seam inside one partition, which is in mid-step or between two. -/
def seamWithin (inStep : Bool) : State := { State.reset with
  parts := [(0, { en := true, grp := { stepping := true, inStep := inStep, startReady := true, items := [⟨.retrain 0 1, 0, true, false, true⟩] } })]
  fab := { fields := [(0, { owned := true, mode := .normal }), (1, { owned := true, mode := .normal })], seams := [(0, { links := [(1, { pend := true })] })] } }

theorem test_seam_waits : (1 : Nat) < linkCount 0 ∧ mayRetrain seamState 87 = true ∧ mayRetrain (seamWithin true) 0 = false ∧
    after (.seamRetrainDone 0 1 0) (seamWithin true) = seamWithin true := by decide +kernel

/-- A core with no retire fence fences no slot. -/
theorem unfenced_of {c : Core} (h : c.sails.toList.all (fun s => match s.tile with | some t => t.fence.isNone | none => true) = true) (j : Nat) :
    c.fenced j = false := by
  rw [Core.fenced, List.any_eq_false]
  intro s hs
  have := List.all_eq_true.1 h s hs
  cases e : s.tile with
  | none => simp
  | some t => rw [e] at this; simp only [Option.isNone_iff_eq_none] at this; simp [this]

theorem test_saves_unfenced : ∀ j, j < 256 → ((mod (escCore 0#256 [⟨5, 0, 1⟩] .saving)).core 0).fenced j = false :=
  fun j _ => unfenced_of (by decide +kernel) j

/-- The save of the sail's tile goes to the block of handle 0; a core that has dispatched through no table saves none. -/
theorem test_saves_block : resolved (((mod (escCore 0#256 [⟨5, 0, 1⟩] .saving)).core 0).resolve 0 0 0 (64 * 256) true 2) = some (0, 0) ∧
    ownTables ((ovfState .armed core0 true).core 0) 0 = [] ∧
    ((ovfState .routine doneCore true).core 1).routineDone = true := by decide +kernel

theorem test_cores_still : ((ovfState .armed core0 true).core 0).still ∧ ((ovfState .routine doneCore true).core 0).still ∧ ((ovfState .routine doneCore true).core 1).still :=
  ⟨still_of (by decide +kernel), still_of (by decide +kernel), still_of (by decide +kernel)⟩

theorem test_rows_spare : ∀ k, k < 15 → ((pwrState onCore).core (5 * 192 + k * 12 + 960 % 12)).mast.failed = false := by decide +kernel

/-- Partitions whose rings stand apart from link 2, or are off. -/
theorem test_rings_elsewhere : (∀ p ∈ (hostState {}).enabled, ((hostState {}).part p).home = (2 : Fin 4).val → ((hostState {}).req p).cq.en = false) ∧
    ((after (.hostFlr 0 2 1#64) (hostState {})).fn 0).msgs = [] := by decide +kernel

theorem test_abort_well_formed : badCommand ⟨aCmd 2, false, 0⟩ = false ∧ hcReport (aCmd 3) % 64 = 0 ∧ (mod core0).sys.shutdown = false := by decide +kernel

theorem test_submission_lost : canTake (reqState id {}) 0 0 = true ∧ ((after (.hostReadTimeout (.submission 0 0) 5#64) (reqState id {})).req 0).held.map (fun r => (r.status, r.tEnd)) = [(0x49, 5)] ∧
    (AMap.at ((after (.hostReadTimeout (.submission 0 0) 5#64) (reqState id {})).req 0).sqs {} 0).head = 1 := by decide +kernel

theorem test_window_quiet : (max (AMap.at ((windowState 0).core 0).decl 0 ((windowState 0).core 0).phase) 0 = 1000) ∧ ((windowState 0).grp 0).inStep = true ∧ ((windowState 0).grp 0).stalled = none ∧
    ((after (.imageCurrentWindow 0 1100) (windowState 0)).core 0).winMax = 1000 ∧ mayStep State.reset 0 = false := by decide +kernel

/-- The boundary of a partition whose one core serves the LOADED slot. -/
def servedState : State := { mod { core0 with phase := 7, vecNext := 40, tracks := [{ id := 7, ctx := 0, kind := .outTile }] } with
  parts := [(0, { en := true, slots := (Vector.replicate 4 {}).set 0 { st := .loaded, placed := true }, grp := { stepping := true, step := 4 } })] }

theorem test_step_starts_cores : (servedState.grp 0).held = false ∧ mayStep servedState 0 = true ∧ sliceReady servedState 0 9 = true ∧ 0 ∈ servedState.coresOf 0 ∧
    servedState.slotOfField 0 = some 0 ∧ (servedState.img 0 0).st = .loaded ∧ slotSteps servedState 0 0 = true ∧ (servedState.part 0).resetAsked = false ∧ (servedState.part 0).emptying = [] ∧
    ((after (.stepStartBoundary 0 9#64) servedState).core 0).phase = 0 ∧ ((after (.stepStartBoundary 0 9#64) servedState).core 0).tracks = [] ∧
    (((after (.stepStartBoundary 0 9#64) servedState).core 0).tc 0).seq = 1#8 := by decide +kernel

/-! ### Every command and every step -/

theorem test_invariants_at_reset : State.reset.logsOk = true ∧ State.reset.memsOk = true := by decide +kernel

theorem test_step_takes_one : (stepped { mod core0 with pending := [.violRecordClear 0, .wstep q0 0x19#48] }).pending = [.wstep q0 0x19#48] := by decide +kernel

/-- A state that is not at reset and meets both: a log with a record, a scratchpad with a byte. -/
theorem test_invariants_elsewhere : ({ mod { core0 with pad := [(63, 0x80#8)] } with mst := { log := { recs := [(1#32, 2#32, 3#32)], lost := 0 } } }).logsOk = true ∧
    ({ mod { core0 with pad := [(63, 0x80#8)] } with mst := { log := { recs := [(1#32, 2#32, 3#32)], lost := 0 } } }).memsOk = true ∧ (mod { core0 with pad := [(63, 0#8)] }).memsOk = false := by decide +kernel

/-! ### Ill-formed commands -/

theorem test_wf_opcode : (Instr.sadd q0 wAdd).wf = true ∧ (Instr.ssub q0 wAdd).wf = false ∧ (Instr.vadd q0 0#44).wf = false ∧ (Instr.mldw q0 0#80).wf = false ∧ (Instr.mrd q0 0#80).wf = false := by
  decide +kernel

/-- VSMP of function 1 is no RNG. -/
theorem test_wf_sampler : (Instr.vsmpTemp q0 (word 44 [(0, 0x18), (26, 1)])).wf = true ∧ (Instr.vsmpRng q0 (word 44 [(0, 0x18), (26, 1)])).wf = false := by decide +kernel

theorem test_wf_submission : (Instr.cancelReq 0 0 (subBare 3) 0#64).wf = true ∧ (Instr.cancelReq 0 0 (subBare 4) 0#64).wf = false := by decide +kernel

theorem test_wf_lengths : (Instr.hopTableLoad 0 (List.replicate 256 0#15)).wf = true ∧ (Instr.hopTableLoad 0 []).wf = false ∧ (Instr.hopTableLoad 0 (List.replicate 257 0#15)).wf = false ∧
    (Instr.sheetTensorFrame 0 0#128 0#64 [(0#512, false)]).wf = true ∧ (Instr.sheetTensorFrame 0 0#128 0#64 []).wf = false ∧
    (Instr.sheetTensorFrame 0 0#128 0#64 (List.replicate 65 (0#512, false))).wf = false ∧ (Instr.sheetEndStampFrame 0 0#128 []).wf = true ∧
    (Instr.sheetEndStampFrame 0 0#128 (List.replicate 4097 0#128)).wf = false := by decide +kernel

end Sys2Proof.Tests
end

namespace Sys2Proof.Machine

/-!
## What every command leaves: the queue behind it and the factory's values (00 R6, 22 R504)

`State.fixed` holds both. One rule per operation of the model says that it keeps them (`fixed_…`); one per command, that it completes and keeps them (`keeps_…`).
The rules stand in the order of the model's files, and each uses those of the operations that its own calls.
-/

/-- The factory's values that the settings block holds. -/
def Sys.factory (y : Sys) : List Nat × Nat × Nat := (y.lmap, y.gapH, y.gapV)

/-- What no command changes: the queue behind it and the factory's values. -/
def State.fixed (s : State) : List Instr × Dword × Nat × List Nat × Nat × Nat := (s.pending, s.serial, s.grade, s.sys.factory)

/-- The command completes, and changes nothing of `State.fixed`. -/
def Keeps (s : State) (o : Out) : Prop := ∃ t, o = .next t ∧ t.fixed = s.fixed

theorem State.fixed_eq_iff (s t : State) : t.fixed = s.fixed ↔ t.pending = s.pending ∧ t.factory = s.factory := Prod.ext_iff

@[simp] theorem keeps_next (s t : State) : Keeps s (.next t) ↔ t.fixed = s.fixed := by simp [Keeps]

@[simp] theorem State.fixed_mk (q : List Instr) (tb : Dword) (free : Nat) (cores : AMap Core) (fab : Fabric) (parts : AMap Part) (host : HostIf) (table : ReqTable)
    (stream : Stream) (stay : Stay) (sheet : Sheet) (serial : Dword) (grade : Nat) (xt : ColCopy) (mst : MstBlock) (sys : Sys) :
    State.fixed ⟨q, tb, free, cores, fab, parts, host, table, stream, stay, sheet, serial, grade, xt, mst, sys⟩ = (q, serial, grade, sys.factory) := rfl

@[simp] theorem Sys.factory_mk (ready safe shutdown struck : Bool) (lmap : List Nat) (gapH gapV fwMajor mhVer : Nat) (tests : List TestFail) (sec : Sec) (clk : Clk) (evr : Evr)
    (pwr : Pwr) (thm : Thm) (cnm : Cnm) (cfg : Cfg) (fw : Fw) (pins : Pins) (halTurn : Nat) :
    Sys.factory ⟨ready, safe, shutdown, struck, lmap, gapH, gapV, fwMajor, mhVer, tests, sec, clk, evr, pwr, thm, cnm, cfg, fw, pins, halTurn⟩ = (lmap, gapH, gapV) := rfl

@[simp] theorem State.fixed_eta (s : State) : (s.pending, s.serial, s.grade, s.sys.factory) = s.fixed := rfl

@[simp] theorem Sys.factory_eta (y : Sys) : (y.lmap, y.gapH, y.gapV) = y.factory := rfl

@[simp] theorem State.fixed_ite (c : Prop) [Decidable c] (s t : State) : State.fixed (if c then s else t) = if c then s.fixed else t.fixed := apply_ite _ _ _ _

@[simp] theorem State.fixed_fst_ite {β : Type} (c : Prop) [Decidable c] (a b : State × β) : State.fixed (if c then a else b).1 = if c then a.1.fixed else b.1.fixed :=
  apply_ite (fun x : State × β => x.1.fixed) _ _ _

@[simp] theorem fixed_foldl {α : Type} {f : State → α → State} {l : List α} {s : State} (hf : ∀ s x, (f s x).fixed = s.fixed) : (l.foldl f s).fixed = s.fixed := by
  induction l generalizing s with
  | nil => rfl
  | cons x l ih => rw [List.foldl_cons, ih, hf]

@[simp] theorem fixed_foldl_fst {α β : Type} {f : State × β → α → State × β} {l : List α} {a : State × β} (hf : ∀ a x, (f a x).1.fixed = a.1.fixed) :
    (l.foldl f a).1.fixed = a.1.fixed := by
  induction l generalizing a with
  | nil => rfl
  | cons x l ih => rw [List.foldl_cons, ih, hf]

@[simp] theorem fixed_iter {n i : Nat} {f : Nat → State → State} {s : State} (hf : ∀ i s, (f i s).fixed = s.fixed) : (iter n i f s).fixed = s.fixed := by
  induction n generalizing i s with
  | zero => rfl
  | succ n ih => rw [iter, ih, hf]

/-! ### Shared operations -/

@[simp] theorem State.fixed_setCore (s : State) (m : Nat) (c : Core) : (s.setCore m c).fixed = s.fixed := by simp [State.setCore]

@[simp] theorem State.fixed_updCore (s : State) (m : Nat) (f : Core → Core) : (s.updCore m f).fixed = s.fixed := by simp [State.updCore]

@[simp] theorem State.fixed_updCtx (s : State) (m i : Nat) (f : Ctx → Ctx) : (s.updCtx m i f).fixed = s.fixed := by simp [State.updCtx]

@[simp] theorem State.fixed_updSail (s : State) (m i : Nat) (f : Sail → Sail) : (s.updSail m i f).fixed = s.fixed := by simp [State.updSail]

@[simp] theorem State.fixed_updMast (s : State) (m : Nat) (f : Mast → Mast) : (s.updMast m f).fixed = s.fixed := by simp [State.updMast]

@[simp] theorem State.fixed_updRouter (s : State) (m : Nat) (f : Router → Router) : (s.updRouter m f).fixed = s.fixed := by simp [State.updRouter]

@[simp] theorem State.fixed_setField (s : State) (n : Nat) (x : FieldSt) : (s.setField n x).fixed = s.fixed := by simp [State.setField]

@[simp] theorem State.fixed_updField (s : State) (n : Nat) (f : FieldSt → FieldSt) : (s.updField n f).fixed = s.fixed := by simp [State.updField]

@[simp] theorem State.fixed_setPart (s : State) (p : Nat) (x : Part) : (s.setPart p x).fixed = s.fixed := by simp [State.setPart]

@[simp] theorem State.fixed_updPart (s : State) (p : Nat) (f : Part → Part) : (s.updPart p f).fixed = s.fixed := by simp [State.updPart]

@[simp] theorem State.fixed_updGrp (s : State) (p : Nat) (f : Group → Group) : (s.updGrp p f).fixed = s.fixed := by simp [State.updGrp]

@[simp] theorem State.fixed_eachCore (s : State) (ms : List Nat) (f : Nat → Core → Core) : (s.eachCore ms f).fixed = s.fixed := by simp [State.eachCore]

@[simp] theorem State.fixed_atTick (s : State) (t : Dword) : (s.atTick t).fixed = s.fixed := by simp [State.atTick]

@[simp] theorem State.fixed_updPwr (s : State) (f : Pwr → Pwr) : (s.updPwr f).fixed = s.fixed := by simp [State.updPwr]

@[simp] theorem State.factory_updPwr (s : State) (f : Pwr → Pwr) : (s.updPwr f).sys.factory = s.sys.factory := rfl

@[simp] theorem State.fixed_updCorePwr (s : State) (m : Nat) (f : CorePwr → CorePwr) : (s.updCorePwr m f).fixed = s.fixed := by simp [State.updCorePwr]

@[simp] theorem State.fixed_updFieldPwr (s : State) (n : Nat) (f : FieldPwr → FieldPwr) : (s.updFieldPwr n f).fixed = s.fixed := by simp [State.updFieldPwr]

@[simp] theorem State.fixed_updFn (s : State) (f : Nat) (g : Fn → Fn) : (s.updFn f g).fixed = s.fixed := by simp [State.updFn]

@[simp] theorem fixed_emit (s : State) (x : Sent) : (emit s x).fixed = s.fixed := by simp [emit]

@[simp] theorem State.fixed_updVec (s : State) (f v : Nat) (g : Vec → Vec) : (s.updVec f v g).fixed = s.fixed := by simp [State.updVec]

@[simp] theorem fixed_sendVec (s : State) (f v : Nat) : (sendVec s f v).fixed = s.fixed := by simp [sendVec]

@[simp] theorem fixed_signal (s : State) (f v : Nat) : (signal s f v).fixed = s.fixed := by simp [signal]

@[simp] theorem fixed_signalLog (s : State) (l : ELog) (f v : Nat) : (signalLog s l f v).fixed = s.fixed := by simp [signalLog]

@[simp] theorem fixed_dblSet (s : State) (f b : Nat) : (dblSet s f b).fixed = s.fixed := by simp [dblSet]

@[simp] theorem fixed_dblBoth (s : State) (p b : Nat) : (dblBoth s p b).fixed = s.fixed := by simp [dblBoth]

@[simp] theorem State.fixed_updEvr (s : State) (f : Evr → Evr) : (s.updEvr f).fixed = s.fixed := by simp [State.updEvr]

@[simp] theorem State.factory_updEvr (s : State) (f : Evr → Evr) : (s.updEvr f).sys.factory = s.sys.factory := rfl

@[simp] theorem fixed_evrEvent (s : State) (kind sev part field core : Nat) (value aux : Option Dword) : (evrEvent s kind sev part field core value aux).fixed = s.fixed := by
  simp only [evrEvent]
  (repeat' split) <;> simp

@[simp] theorem fixed_evrSample (s : State) (src part field core : Nat) (value bin : Int) : (evrSample s src part field core value bin).fixed = s.fixed := by simp [evrSample]

@[simp] theorem fixed_evrIndex (s : State) (src part unit : Nat) : (evrIndex s src part unit).fixed = s.fixed := by simp [evrIndex]

@[simp] theorem fixed_beginFlush (s : State) (f : EvrFlush) : (beginFlush s f).fixed = s.fixed := by simp [beginFlush]

@[simp] theorem fixed_askFlush (s : State) (f : EvrFlush) : (askFlush s f).fixed = s.fixed := by simp [askFlush]

@[simp] theorem fixed_urgentFlush (s : State) (cause : Nat) : (urgentFlush s cause).fixed = s.fixed := by simp [urgentFlush]

@[simp] theorem fixed_evrFault (s : State) (code part field core : Nat) (value : Option Dword) : (evrFault s code part field core value).fixed = s.fixed := by simp [evrFault]

@[simp] theorem fixed_logFault (s : State) (p code field core items : Nat) : (logFault s p code field core items).fixed = s.fixed := by simp [logFault]

@[simp] theorem fixed_raiseFaultN (s : State) (p code field core items : Nat) : (raiseFaultN s p code field core items).fixed = s.fixed := by simp [raiseFaultN]

@[simp] theorem fixed_raiseFault (s : State) (p code field core : Nat) : (raiseFault s p code field core).fixed = s.fixed := by simp [raiseFault]

@[simp] theorem fixed_raiseAll (s : State) (code field core : Nat) : (raiseAll s code field core).fixed = s.fixed := by simp [raiseAll]

@[simp] theorem fixed_mstLog (s : State) (m tier kind row rid : Nat) : (mstLog s m tier kind row rid).fixed = s.fixed := by simp [mstLog]

@[simp] theorem fixed_fabLog (s : State) (router kind seam link pkt rtr tree : Nat) : (fabLog s router kind seam link pkt rtr tree).fixed = s.fixed := by simp [fabLog]

@[simp] theorem fixed_styLog (s : State) (port kind part entry spage : Nat) : (styLog s port kind part entry spage).fixed = s.fixed := by simp [styLog]

/-! ### Faults of a step, and issue -/

@[simp] theorem fixed_failStepAt (s : State) (p code cyc : Nat) : (failStepAt s p code cyc).fixed = s.fixed := by simp [failStepAt]

@[simp] theorem fixed_failStep (s : State) (p code : Nat) : (failStep s p code).fixed = s.fixed := by simp [failStep]

@[simp] theorem fixed_coreFaultAt (s : State) (m code cyc : Nat) : (coreFaultAt s m code cyc).fixed = s.fixed := by simp [coreFaultAt]

@[simp] theorem fixed_coreFault (s : State) (m code : Nat) : (coreFault s m code).fixed = s.fixed := by simp [coreFault]

@[simp] theorem fixed_ownedFault (s : State) (m code : Nat) : (ownedFault s m code).fixed = s.fixed := by simp [ownedFault]

@[simp] theorem fixed_violateAt (s0 : State) (m ctx : Nat) (v : Viol) (cyc : Nat) : (violateAt s0 m ctx v cyc).fixed = s0.fixed := by simp [violateAt]

@[simp] theorem fixed_violate (s : State) (m ctx : Nat) (v : Viol) : (violate s m ctx v).fixed = s.fixed := by simp [violate]

@[simp] theorem fixed_violateOpt (s : State) (m ctx : Nat) (v : Option Viol) : (violateOpt s m ctx v).fixed = s.fixed := by
  unfold violateOpt
  split <;> simp

@[simp] theorem fixed_illegal (s : State) (m ctx slot op cause : Nat) : (illegal s m ctx slot op cause).fixed = s.fixed := by simp [illegal]

@[simp] theorem fixed_xlateFault (s : State) (m : Nat) (a : Dword) (e : Nat × Nat) : (xlateFault s m a e).fixed = s.fixed := by simp [xlateFault]

@[simp] theorem fixed_trkOverrun (s : State) (m ctx : Nat) : (trkOverrun s m ctx).fixed = s.fixed := by simp [trkOverrun]

@[simp] theorem State.fixed_settle (s : State) (m t : Nat) : (s.settle m t).fixed = s.fixed := by simp [State.settle]

@[simp] theorem State.fixed_settleAll (s : State) (p t : Nat) : (s.settleAll p t).fixed = s.fixed := by simp [State.settleAll]

@[simp] theorem State.fixed_settleEnd (s : State) (p : Nat) : (s.settleEnd p).fixed = s.fixed := by simp [State.settleEnd]

@[simp] theorem fixed_countWait (s : State) (q : Issue) (vec : Bool) (rs vs : List Nat) : (countWait s q vec rs vs).fixed = s.fixed := by simp [countWait]

@[simp] theorem fixed_poisonSReg (q : Issue) (r : Nat) (t : Nat) (s : State) : (poisonSReg q r t s).fixed = s.fixed := by simp [poisonSReg]

@[simp] theorem fixed_poisonVReg (q : Issue) (r : Nat) (t : Nat) (s : State) : (poisonVReg q r t s).fixed = s.fixed := by simp [poisonVReg]

@[simp] theorem fixed_poisonSlots (q : Issue) (o : Spo) (n t : Nat) (s : State) : (poisonSlots q o n t s).fixed = s.fixed := by simp [poisonSlots]

@[simp] theorem fixed_poisonSail (q : Issue) (w : BitVec 80) (s : State) : (poisonSail q w s).fixed = s.fixed := by
  unfold poisonSail
  split <;> simp

@[simp] theorem fixed_poisonBundle (q : Issue) (b : BitVec 256) (t : Nat) (s : State) : (poisonBundle q b t s).fixed = s.fixed := by simp [poisonBundle]

@[simp] theorem fixed_beginBundle (s : State) (q : Issue) (t : Nat) : (beginBundle s q t).fixed = s.fixed := by simp [beginBundle]

@[simp] theorem fixed_issued (s : State) (q : Issue) (vec : Bool) (rs vs : List Nat) (t : Nat) : (issued s q vec rs vs t).fixed = s.fixed := by simp [issued]

@[simp] theorem fixed_issueOr {s : State} {q : Issue} {vec : Bool} {rs vs : List Nat} {dead k : State → Nat → State} (hd : ∀ s t, (dead s t).fixed = s.fixed)
    (hk : ∀ s t, (k s t).fixed = s.fixed) : (issueOr s q vec rs vs dead k).fixed = s.fixed := by
  unfold issueOr
  split
  · rfl
  · dsimp only
    split <;> simp [hd, hk]

@[simp] theorem fixed_issue {s : State} {q : Issue} {vec : Bool} {rs vs : List Nat} {k : State → Nat → State} (hk : ∀ s t, (k s t).fixed = s.fixed) :
    (issue s q vec rs vs k).fixed = s.fixed := fixed_issueOr (fun _ _ => rfl) hk

@[simp] theorem fixed_issueCtrl {s : State} {q : Issue} {rs : List Nat} {k : State → Nat → State} (hk : ∀ s t, (k s t).fixed = s.fixed) :
    (issueCtrl s q rs k).fixed = s.fixed := fixed_issueOr (by simp) (by simp [hk])

@[simp] theorem fixed_legalOr {s : State} {q : Issue} {slot op : Nat} {checks : List (Bool × Nat)} {bad good : State → State} (hb : ∀ s, (bad s).fixed = s.fixed)
    (hg : ∀ s, (good s).fixed = s.fixed) : (legalOr s q slot op checks bad good).fixed = s.fixed := by
  unfold legalOr
  split <;> simp [hb, hg]

@[simp] theorem fixed_readOp (s : State) (q : Issue) (o : Spo) (len : Nat) : (readOp s q o len).1.fixed = s.fixed := by simp [readOp]

@[simp] theorem fixed_writeOp (s : State) (q : Issue) (ord : Nat) (o : Spo) (n d : Nat) (poison : Bool) (step t : Nat) :
    (writeOp s q ord o n d poison step t).fixed = s.fixed := by simp [writeOp]

@[simp] theorem fixed_readItemsOp (s : State) (q : Issue) (o : Spo) (size count : Nat) : (readItemsOp s q o size count).1.fixed = s.fixed := by simp [readItemsOp]

@[simp] theorem fixed_readResAt (s : State) (m ctx h byte len : Nat) : (readResAt s m ctx h byte len).1.fixed = s.fixed := by simp [readResAt]

@[simp] theorem fixed_readResOp (s : State) (q : Issue) (h byte len : Nat) : (readResOp s q h byte len).1.fixed = s.fixed := by simp [readResOp]

/-! ### Luff items -/

@[simp] theorem fixed_armLuff (s : State) (p : Nat) (src : LuffSrc) (u : Nat) : (armLuff s p src u).fixed = s.fixed := by simp [armLuff]

@[simp] theorem fixed_armBoundary (s : State) (p : Nat) (src : LuffSrc) : (armBoundary s p src).fixed = s.fixed := by simp [armBoundary]

@[simp] theorem fixed_endLuff (s : State) (p : Nat) (src : LuffSrc) : (endLuff s p src).fixed = s.fixed := by simp [endLuff]

@[simp] theorem fixed_moveArrival (s : State) (p : Nat) (src : LuffSrc) (u : Option Nat) : (moveArrival s p src u).fixed = s.fixed := by
  unfold moveArrival
  split <;> simp

/-! ### Placement and seams -/

@[simp] theorem State.fixed_updImg (s : State) (p i : Nat) (f : ImgSlot → ImgSlot) : (s.updImg p i f).fixed = s.fixed := by simp [State.updImg]

@[simp] theorem fixed_isolate (s : State) (p src rtr : Nat) (fails : Bool) : (isolate s p src rtr fails).fixed = s.fixed := by simp [isolate]

@[simp] theorem fixed_seamUe (s : State) (p m : Nat) (k link : Nat) : (seamUe s p m k link).fixed = s.fixed := by simp [seamUe]

@[simp] theorem State.fixed_updSeam (s : State) (k : Nat) (f : Seam → Seam) : (s.updSeam k f).fixed = s.fixed := by simp [State.updSeam]

@[simp] theorem State.fixed_updSeamLink (s : State) (k l : Nat) (f : SeamLink → SeamLink) : (s.updSeamLink k l f).fixed = s.fixed := by simp [State.updSeamLink]

/-! ### The sail slot -/

@[simp] theorem fixed_sailOp {s : State} {q : Issue} {w : BitVec 80} {checks : List (Bool × Nat)} {bad good : State → State} (hb : ∀ s, (bad s).fixed = s.fixed)
    (hg : ∀ s, (good s).fixed = s.fixed) : (sailOp s q w checks bad good).fixed = s.fixed := fixed_legalOr hb fun s => by simp [hb, hg]

theorem keeps_execSnop (q : Issue) (_w : BitVec 80) (s : State) : Keeps s (execSnop q _w s) := by simp [execSnop]

theorem keeps_execMldw (q : Issue) (w : BitVec 80) (s : State) : Keeps s (execMldw q w s) := by
  simp only [execMldw, keeps_next]
  refine fixed_issue fun s t => fixed_sailOp (by simp) fun s => ?_
  split <;> simp

theorem fixed_openTile {s t : State} {q : Issue} {w : BitVec 80} {d : BitVec 128} (h : openTile s q w d = some t) : t.fixed = s.fixed := by
  simp only [openTile] at h
  split at h
  · cases h
  · cases h
    simp

@[simp] theorem fixed_sailCheckFault (s : State) (m i : Nat) : (sailCheckFault s m i).fixed = s.fixed := by simp [sailCheckFault]

@[simp] theorem fixed_upsetRow (s : State) (m i row : Nat) (u : Upset) (fails : Bool) : (upsetRow s m i row u fails).fixed = s.fixed := by simp [upsetRow]

@[simp] theorem fixed_streamRows (s : State) (q : Issue) (w : BitVec 80) (d : BitVec 128) (t : Tile) (o : OutTile) (up : Option Upset) (cyc : Nat) :
    (streamRows s q w d t o up cyc).fixed = s.fixed := by
  simp only [streamRows]
  split <;> split <;> simp

theorem keeps_execMmul (q : Issue) (w : BitVec 80) (up : Option Upset) (s : State) : Keeps s (execMmul q w up s) := by
  simp only [execMmul, keeps_next]
  refine fixed_issue fun s t => fixed_sailOp (by simp) fun s => (fixed_legalOr (by simp) fun u => ?_).trans (by simp)
  split
  · simp
  · rename_i v hv
    have h : v.fixed = u.fixed := by
      split at hv
      · exact fixed_openTile hv
      · cases hv; rfl
    split <;> simp [h]

theorem keeps_execMaccl (q : Issue) (w : BitVec 80) (s : State) : Keeps s (execMaccl q w s) := by simp [execMaccl]

theorem keeps_execSdist (q : Issue) (w : BitVec 80) (up : Option Upset) (s : State) : Keeps s (execSdist q w up s) := by
  simp only [execSdist, keeps_next]
  refine fixed_issue fun s t => fixed_sailOp (by simp) fun s => ?_
  split
  · simp
  · split <;> simp

@[simp] theorem fixed_cmpPick (q : Issue) (w : BitVec 80) (takeB : BitVec 32 → BitVec 32 → Bool) (s : State) : (cmpPick q w takeB s).fixed = s.fixed := by simp [cmpPick]

theorem keeps_execSmax (q : Issue) (w : BitVec 80) (s : State) : Keeps s (execSmax q w s) := by simp [execSmax]

theorem keeps_execSmin (q : Issue) (w : BitVec 80) (s : State) : Keeps s (execSmin q w s) := by simp [execSmin]

theorem keeps_execSrank (q : Issue) (w : BitVec 80) (s : State) : Keeps s (execSrank q w s) := by
  simp only [execSrank, keeps_next]
  refine fixed_issue fun s t => fixed_sailOp (by simp) fun s => ?_
  split <;> simp

theorem keeps_execSthr (q : Issue) (w : BitVec 80) (s : State) : Keeps s (execSthr q w s) := by simp [execSthr]

/-! ### The vector slot -/

@[simp] theorem fixed_lanewise (q : Issue) (w : BitVec 44) (tys : List Nat) (lat : Nat) (useC : Bool) (f : VWord → VWord → VWord → VWord) (s : State) :
    (lanewise q w tys lat useC f s).fixed = s.fixed := by simp [lanewise]

theorem keeps_execVnop (q : Issue) (_w : BitVec 44) (s : State) : Keeps s (execVnop q _w s) := by simp [execVnop]

theorem keeps_execVadd (q : Issue) (w : BitVec 44) (s : State) : Keeps s (execVadd q w s) := by simp [execVadd]

theorem keeps_execVsub (q : Issue) (w : BitVec 44) (s : State) : Keeps s (execVsub q w s) := by simp [execVsub]

theorem keeps_execVmul (q : Issue) (w : BitVec 44) (s : State) : Keeps s (execVmul q w s) := by simp [execVmul]

theorem keeps_execVfma (q : Issue) (w : BitVec 44) (s : State) : Keeps s (execVfma q w s) := by simp [execVfma]

theorem keeps_execVmin (q : Issue) (w : BitVec 44) (s : State) : Keeps s (execVmin q w s) := by simp [execVmin]

theorem keeps_execVmax (q : Issue) (w : BitVec 44) (s : State) : Keeps s (execVmax q w s) := by simp [execVmax]

theorem keeps_execVcmp (q : Issue) (w : BitVec 44) (s : State) : Keeps s (execVcmp q w s) := by simp [execVcmp]

theorem keeps_execVsel (q : Issue) (w : BitVec 44) (s : State) : Keeps s (execVsel q w s) := by simp [execVsel]

theorem keeps_execVcvt (q : Issue) (w : BitVec 44) (s : State) : Keeps s (execVcvt q w s) := by simp [execVcvt]

@[simp] theorem fixed_longOp (q : Issue) (w : BitVec 44) (f : BitVec 32 → BitVec 32) (s : State) : (longOp q w f s).fixed = s.fixed := by
  refine fixed_issue fun s t => ?_
  refine (fixed_legalOr (by simp) fun s => ?_).trans (by simp)
  split <;> simp

theorem keeps_execVexp (q : Issue) (w : BitVec 44) (s : State) : Keeps s (execVexp q w s) := by simp [execVexp]

theorem keeps_execVlog (q : Issue) (w : BitVec 44) (s : State) : Keeps s (execVlog q w s) := by simp [execVlog]

theorem keeps_execVrcp (q : Issue) (w : BitVec 44) (s : State) : Keeps s (execVrcp q w s) := by simp [execVrcp]

theorem keeps_execVrsq (q : Issue) (w : BitVec 44) (s : State) : Keeps s (execVrsq q w s) := by simp [execVrsq]

theorem keeps_execVsqrt (q : Issue) (w : BitVec 44) (s : State) : Keeps s (execVsqrt q w s) := by simp [execVsqrt]

@[simp] theorem fixed_reduceOp (q : Issue) (w : BitVec 44) (f i : BitVec 32 → BitVec 32 → BitVec 32) (s : State) : (reduceOp q w f i s).fixed = s.fixed := by
  refine fixed_issue fun s t => ?_
  refine (fixed_legalOr (by simp) fun s => ?_).trans (by simp)
  split <;> simp

theorem keeps_execVrsum (q : Issue) (w : BitVec 44) (s : State) : Keeps s (execVrsum q w s) := by simp [execVrsum]

theorem keeps_execVrmax (q : Issue) (w : BitVec 44) (s : State) : Keeps s (execVrmax q w s) := by simp [execVrmax]

theorem keeps_execVrmin (q : Issue) (w : BitVec 44) (s : State) : Keeps s (execVrmin q w s) := by simp [execVrmin]

theorem keeps_execVld (q : Issue) (w : BitVec 44) (s : State) : Keeps s (execVld q w s) := by simp [execVld]

theorem keeps_execVst (q : Issue) (w : BitVec 44) (s : State) : Keeps s (execVst q w s) := by simp [execVst]

theorem keeps_execVkey (q : Issue) (w : BitVec 44) (s : State) : Keeps s (execVkey q w s) := by simp [execVkey]

theorem keeps_execVmask (q : Issue) (w : BitVec 44) (s : State) : Keeps s (execVmask q w s) := by simp [execVmask]

/-! ### Drain, norm check and escalation -/

@[simp] theorem fixed_writeRow (s : State) (m : Nat) (d : DrainRow) : (writeRow s m d).fixed = s.fixed := by
  unfold writeRow
  split <;> simp

@[simp] theorem fixed_finalRow (s : State) (m i : Nat) (d : DrainRow) : (finalRow s m i d).fixed = s.fixed := by simp [finalRow]

theorem keeps_execVdrn (q : Issue) (w : BitVec 44) (s : State) : Keeps s (execVdrn q w s) := by
  simp only [execVdrn, keeps_next]
  split
  · rfl
  · refine fixed_issue fun s t => fixed_legalOr (by simp) fun s => ?_
    (repeat' split) <;> simp

theorem keeps_execVsca (q : Issue) (w : BitVec 44) (s : State) : Keeps s (execVsca q w s) := by
  simp only [execVsca, keeps_next]
  refine fixed_issue fun s t => fixed_legalOr (by simp) fun s => ?_
  split <;> simp

@[simp] theorem fixed_countEsc (s : State) (m i : Nat) (o : OutTile) (row : Nat) (f : EscCount → EscCount) : (countEsc s m i o row f).fixed = s.fixed := by simp [countEsc]

@[simp] theorem fixed_countBlocked (s : State) (m i : Nat) (o : OutTile) (row : Nat) : (countBlocked s m i o row).fixed = s.fixed := by simp [countBlocked]

@[simp] theorem fixed_rowNormCheck (s0 : State) (m i row : Nat) : (rowNormCheck s0 m i row).fixed = s0.fixed := by
  simp only [rowNormCheck]
  (repeat' split) <;> simp

theorem keeps_execRowNormCheck (core : Fin 9216) (sail : Fin 4) (row : Fin 512) (s : State) : Keeps s (execRowNormCheck core sail row s) := by simp [execRowNormCheck]

@[simp] theorem fixed_setMask (s : State) (m i : Nat) (o : OutTile) (row rung : Nat) : (setMask s m i o row rung).fixed = s.fixed := by simp [setMask]

@[simp] theorem fixed_openBytes (s : State) (m a n : Nat) : (openBytes s m a n).fixed = s.fixed := by
  induction n generalizing s a with
  | zero => rfl
  | succ n ih => simp [openBytes, ih]

@[simp] theorem fixed_saveBlock (s : State) (m ctx h n : Nat) : (saveBlock s m ctx h n).fixed = s.fixed := by
  unfold saveBlock
  split <;> simp

@[simp] theorem fixed_saveSail (s : State) (m i : Nat) : (saveSail s m i).fixed = s.fixed := by
  unfold saveSail
  split <;> simp

@[simp] theorem fixed_endRow (s : State) (m i row : Nat) : (endRow s m i row).fixed = s.fixed := by simp [endRow]

@[simp] theorem fixed_passValue (s : State) (m i j : Nat) (o : OutTile) (d : DrainRow) (e : EscRow) (hurt : List Nat) (up : Option Upset) :
    (passValue s m i j o d e hurt up).1.fixed = s.fixed := by
  unfold passValue
  split <;> simp

@[simp] theorem fixed_passRow (s0 : State) (m i j : Nat) (hurt : List Nat) (up : Option Upset) (e : EscRow) : (passRow s0 m i j hurt up e).fixed = s0.fixed := by
  simp only [passRow]
  split <;> simp

theorem keeps_execEscalationRestoreDone (core : Fin 9216) (sail : Fin 4) (s : State) : Keeps s (execEscalationRestoreDone core sail s) := by simp [execEscalationRestoreDone]

/-! ### Sheet ports and slices -/

@[simp] theorem State.fixed_updPort (s : State) (i : Nat) (f : SheetPort → SheetPort) : (s.updPort i f).fixed = s.fixed := by simp [State.updPort]

@[simp] theorem State.fixed_updSlice (s : State) (p : Nat) (f : Slice → Slice) : (s.updSlice p f).fixed = s.fixed := by simp [State.updSlice]

@[simp] theorem fixed_shtLog (s : State) (port kind part id rank check : Nat) : (shtLog s port kind part id rank check).fixed = s.fixed := by simp [shtLog]

@[simp] theorem fixed_putFrame (s : State) (i kind frame : Nat) : (putFrame s i kind frame).fixed = s.fixed := by simp [putFrame]

@[simp] theorem fixed_sendFrame (s : State) (p r : Nat) (kind : Nat) (err : Bool) (route fidx nflit : Nat) (time : Nat) (body : Nat) :
    (sendFrame s p r kind err route fidx nflit time body).fixed = s.fixed := by
  simp only [sendFrame]
  split <;> simp

@[simp] theorem fixed_sendTensor (s : State) (p r route n f : Nat) (fl : List (Slot × Bool)) (head : Nat) : (sendTensor s p r route n f fl head).fixed = s.fixed := by
  induction n generalizing s f fl with
  | zero => rfl
  | succ n ih =>
    unfold sendTensor
    split <;> simp [ih]

@[simp] theorem fixed_slotGone (s : State) (p slot : Nat) : (slotGone s p slot).fixed = s.fixed := by simp [slotGone]

@[simp] theorem fixed_tellHeld (s : State) (p slot r : Nat) : (tellHeld s p slot r).fixed = s.fixed := by simp [tellHeld]

@[simp] theorem fixed_setSlice (s : State) (p : Nat) (st : SliceSt) : (setSlice s p st).fixed = s.fixed := by simp [setSlice]

/-! ### The move slot -/

theorem keeps_execMnop (q : Issue) (_w : BitVec 80) (s : State) : Keeps s (execMnop q _w s) := by simp [execMnop]

theorem keeps_execMrd (q : Issue) (w : BitVec 80) (s : State) : Keeps s (execMrd q w s) := by
  simp only [execMrd, keeps_next]
  refine fixed_issue fun s t => fixed_legalOr (by simp) fun s => ?_
  (repeat' split) <;> simp

theorem keeps_execMwr (q : Issue) (w : BitVec 80) (s : State) : Keeps s (execMwr q w s) := by
  simp only [execMwr, keeps_next]
  refine fixed_issue fun s t => fixed_legalOr (by simp) fun s => ?_
  (repeat' split) <;> simp

@[simp] theorem fixed_readFlits (s : State) (q : Issue) (o : Spo) (n : Nat) : (readFlits s q o n).1.fixed = s.fixed := by simp [readFlits]

@[simp] theorem fixed_launch (s : State) (fl : List Flit) : (launch s fl).fixed = s.fixed := by simp [launch]

@[simp] theorem fixed_guardDue (s : State) (m : Nat) (src : LuffSrc) (ds : List Nat) : (guardDue s m src ds).fixed = s.fixed := by
  unfold guardDue
  split <;> simp

theorem keeps_execMsend (q : Issue) (w : BitVec 80) (s : State) : Keeps s (execMsend q w s) := by
  simp only [execMsend, keeps_next]
  generalize (if bitAt w 79 then noInject3 s q.core else noInject s q.core) = held
  split
  · rfl
  · refine fixed_issue fun s t => fixed_legalOr (by simp) fun s => ?_
    (repeat' split) <;> simp

theorem keeps_execMfill (q : Issue) (w : BitVec 80) (s : State) : Keeps s (execMfill q w s) := by simp [execMfill]

theorem keeps_execMcopy (q : Issue) (w : BitVec 80) (s : State) : Keeps s (execMcopy q w s) := by
  simp only [execMcopy, keeps_next]
  split
  · rfl
  · refine fixed_issue fun s t => fixed_legalOr (by simp) fun s => ?_
    (repeat' split) <;> simp

theorem keeps_execMrel (q : Issue) (w : BitVec 80) (s : State) : Keeps s (execMrel q w s) := by
  simp only [execMrel, keeps_next]
  refine fixed_issue fun s t => fixed_legalOr (by simp) fun s => ?_
  split <;> simp

theorem keeps_execRsend (q : Issue) (w : BitVec 80) (s : State) : Keeps s (execRsend q w s) := by
  simp only [execRsend, keeps_next]
  split
  · rfl
  · refine fixed_issue fun s t => fixed_legalOr (by simp) fun s => ?_
    (repeat' split) <;> simp

theorem keeps_execMerge (q : Issue) (w : BitVec 80) (s : State) : Keeps s (execMerge q w s) := by
  simp only [execMerge, keeps_next]
  split
  · rfl
  · refine fixed_issue fun s t => fixed_legalOr (by simp) fun s => ?_
    (repeat' split) <;> simp

theorem keeps_execKvapq (q : Issue) (w : BitVec 80) (s : State) : Keeps s (execKvapq q w s) := by
  simp only [execKvapq, keeps_next]
  refine fixed_issue fun s t => (fixed_legalOr (by simp) fun s => ?_).trans (by simp)
  (repeat' split) <;> simp

@[simp] theorem fixed_listRecord (s : State) (q : Issue) (tab : Nat) (r : BitVec 32) (rowNo : Nat) : (listRecord s q tab r rowNo).fixed = s.fixed := by
  simp only [listRecord]
  split <;> simp

@[simp] theorem fixed_dispatchOne (q : Issue) (tab trk rl rowNo sel ei rowSlot : Nat) (data : Nat → Slot × Bool) (a : State × List Flit) :
    (dispatchOne q tab trk rl rowNo sel ei rowSlot data a).1.fixed = a.1.fixed := by
  simp only [dispatchOne]
  split <;> simp

@[simp] theorem fixed_closeTable (q : Issue) (tab trk : Nat) (a : State × List Flit) : (closeTable q tab trk a).1.fixed = a.1.fixed := by simp [closeTable]

@[simp] theorem fixed_dispatchRows (q : Issue) (tab trk rl w slot : Nat) (fl : List (Slot × Bool)) (recs : List (Nat × Bool)) (a : State × List Flit) :
    (dispatchRows q tab trk rl w slot fl recs a).1.fixed = a.1.fixed := by
  induction recs generalizing slot fl a with
  | nil => rfl
  | cons r recs ih =>
    simp only [dispatchRows, ih]
    split <;> simp

theorem keeps_execXdisp (q : Issue) (w : BitVec 80) (s : State) : Keeps s (execXdisp q w s) := by
  simp only [execXdisp, keeps_next]
  split
  · rfl
  · refine fixed_issue fun s t => (fixed_legalOr (by simp) fun s => ?_).trans (by simp)
    split <;> simp

/-! ### The control slot -/

theorem keeps_execCnop (q : Issue) (w : BitVec 48) (s : State) : Keeps s (execCnop q w s) := by simp [execCnop]

theorem keeps_execSli (q : Issue) (w : BitVec 48) (s : State) : Keeps s (execSli q w s) := by simp [execSli]

theorem keeps_execSlih (q : Issue) (w : BitVec 48) (s : State) : Keeps s (execSlih q w s) := by simp [execSlih]

@[simp] theorem fixed_scalarOp (q : Issue) (w : BitVec 48) (f : Dword → Dword → Dword) (s : State) : (scalarOp q w f s).fixed = s.fixed := by simp [scalarOp]

theorem keeps_execSadd (q : Issue) (w : BitVec 48) (s : State) : Keeps s (execSadd q w s) := by simp [execSadd]

theorem keeps_execSsub (q : Issue) (w : BitVec 48) (s : State) : Keeps s (execSsub q w s) := by simp [execSsub]

theorem keeps_execSmul (q : Issue) (w : BitVec 48) (s : State) : Keeps s (execSmul q w s) := by simp [execSmul]

theorem keeps_execSand (q : Issue) (w : BitVec 48) (s : State) : Keeps s (execSand q w s) := by simp [execSand]

theorem keeps_execSor (q : Issue) (w : BitVec 48) (s : State) : Keeps s (execSor q w s) := by simp [execSor]

theorem keeps_execSxor (q : Issue) (w : BitVec 48) (s : State) : Keeps s (execSxor q w s) := by simp [execSxor]

theorem keeps_execSshl (q : Issue) (w : BitVec 48) (s : State) : Keeps s (execSshl q w s) := by simp [execSshl]

theorem keeps_execSshr (q : Issue) (w : BitVec 48) (s : State) : Keeps s (execSshr q w s) := by simp [execSshr]

theorem keeps_execSlds (q : Issue) (w : BitVec 48) (s : State) : Keeps s (execSlds q w s) := by simp [execSlds]

theorem keeps_execSsts (q : Issue) (w : BitVec 48) (s : State) : Keeps s (execSsts q w s) := by simp [execSsts]

@[simp] theorem fixed_endBranch (q : Issue) (taken : Bool) (target : BitVec 13) (t : Nat) (s : State) : (endBranch q taken target t s).fixed = s.fixed := by simp [endBranch]

@[simp] theorem fixed_passBy (q : Issue) (s : State) (t : Nat) : (passBy q s t).fixed = s.fixed := by simp [passBy]

theorem keeps_execBr (q : Issue) (w : BitVec 48) (s : State) : Keeps s (execBr q w s) := by simp [execBr]

theorem keeps_execJmp (q : Issue) (w : BitVec 48) (s : State) : Keeps s (execJmp q w s) := by simp [execJmp]

theorem keeps_execLoop (q : Issue) (w : BitVec 48) (s : State) : Keeps s (execLoop q w s) := by simp [execLoop]

theorem keeps_execWaitc (q : Issue) (w : BitVec 48) (s : State) : Keeps s (execWaitc q w s) := by simp [execWaitc]

theorem keeps_execSeqadv (q : Issue) (w : BitVec 48) (s : State) : Keeps s (execSeqadv q w s) := by simp [execSeqadv]

theorem keeps_execHand (q : Issue) (w : BitVec 48) (s : State) : Keeps s (execHand q w s) := by simp [execHand]

theorem keeps_execHset (q : Issue) (w : BitVec 48) (s : State) : Keeps s (execHset q w s) := by simp [execHset]

theorem keeps_execVpat (q : Issue) (w : BitVec 48) (s : State) : Keeps s (execVpat q w s) := by simp [execVpat]

@[simp] theorem fixed_overflowPoint (s : State) (m pidx t : Nat) : (overflowPoint s m pidx t).fixed = s.fixed := by
  simp only [overflowPoint]
  split <;> simp

@[simp] theorem fixed_commitGate (s : State) (m pidx t : Nat) : (commitGate s m pidx t).fixed = s.fixed := by simp [commitGate]

theorem keeps_execPhase (q : Issue) (w : BitVec 48) (s : State) : Keeps s (execPhase q w s) := by simp [execPhase]

theorem keeps_execEscm (q : Issue) (w : BitVec 48) (s : State) : Keeps s (execEscm q w s) := by simp [execEscm]

theorem keeps_execWstep (q : Issue) (w : BitVec 48) (s : State) : Keeps s (execWstep q w s) := by simp [execWstep]

/-! ### Partition faults and lost cores -/

@[simp] theorem fixed_endStepNow (s0 : State) (p : Nat) : (endStepNow s0 p).fixed = s0.fixed := by simp [endStepNow]

@[simp] theorem fixed_markEntries (s : State) (p : Nat) (slots : List Nat) (status : Nat) : (markEntries s p slots status).fixed = s.fixed := by simp [markEntries]

@[simp] theorem fixed_partFault (s : State) (p code n c status : Nat) (slots : List Nat) : (partFault s p code n c status slots).fixed = s.fixed := by simp [partFault]

@[simp] theorem fixed_lostFault (s : State) (p code n c status : Nat) (slots : List Nat) : (lostFault s p code n c status slots).fixed = s.fixed := by simp [lostFault]

@[simp] theorem fixed_darkField (s : State) (n : Nat) : (darkField s n).fixed = s.fixed := by simp [darkField]

@[simp] theorem fixed_releaseHold (s : State) (p : Nat) : (releaseHold s p).fixed = s.fixed := by simp [releaseHold]

@[simp] theorem fixed_followCopy (s : State) : (followCopy s).fixed = s.fixed := by simp [followCopy]

@[simp] theorem fixed_dropRecov (s : State) (p n : Nat) : (dropRecov s p n).fixed = s.fixed := by
  unfold dropRecov
  split <;> simp

@[simp] theorem fixed_fieldLost (s : State) (n code : Nat) : (fieldLost s n code).fixed = s.fixed := by simp [fieldLost]

@[simp] theorem fixed_furlCore (s : State) (m cause : Nat) : (furlCore s m cause).fixed = s.fixed := by simp [furlCore]

@[simp] theorem fixed_powerCore (s : State) (m : Nat) : (powerCore s m).fixed = s.fixed := by simp [powerCore]

@[simp] theorem fixed_mapSpare (s : State) (n cxp g : Nat) : (mapSpare s n cxp g).fixed = s.fixed := by simp [mapSpare]

@[simp] theorem fixed_coreLost (s : State) (m code : Nat) : (coreLost s m code).fixed = s.fixed := by simp [coreLost]

@[simp] theorem fixed_coreDead (s : State) (m code cause : Nat) : (coreDead s m code cause).fixed = s.fixed := by simp [coreDead]

@[simp] theorem fixed_columnFail (s : State) (m : Nat) (code row : Nat) : (columnFail s m code row).fixed = s.fixed := by simp [columnFail]

@[simp] theorem fixed_sailCheckAct (s : State) (m sail : Nat) : (sailCheckAct s m sail).fixed = s.fixed := by
  simp only [sailCheckAct]
  split <;> simp

@[simp] theorem fixed_sailChecksAct (s : State) (p : Nat) : (sailChecksAct s p).fixed = s.fixed := by simp [sailChecksAct]

/-! ### Masts -/

@[simp] theorem fixed_countCorrected (s : State) (m row tier : Nat) : (countCorrected s m row tier).fixed = s.fixed := by simp [countCorrected]

@[simp] theorem fixed_corrected (s : State) (m row tier : Nat) : (corrected s m row tier).fixed = s.fixed := by simp [corrected]

@[simp] theorem fixed_uncorrectable (s : State) (m row : Nat) : (uncorrectable s m row).fixed = s.fixed := by simp [uncorrectable]

@[simp] theorem fixed_rowsFound (s : State) (m : Nat) (ce ue : List Nat) : (rowsFound s m ce ue).fixed = s.fixed := by simp [rowsFound]

@[simp] theorem fixed_escalationPassEnd (s : State) (m i : Nat) (found : List (Nat × Bool)) (up : Option Upset) : (escalationPassEnd s m i found up).fixed = s.fixed := by
  simp [escalationPassEnd]

theorem keeps_execEscalationPassEnd (core : Fin 9216) (sail : Fin 4) (found : List (Fin 0x400000 × Bool)) (upset : Option Upset) (s : State) :
    Keeps s (execEscalationPassEnd core sail found upset s) := by simp [execEscalationPassEnd]

@[simp] theorem fixed_landRow (s0 : State) (m : Nat) (l : Landing) (poison : Bool) : (landRow s0 m l poison).fixed = s0.fixed := by simp [landRow]

theorem keeps_execMastRowLand (core : Fin 9216) (ecc : Ecc) (s : State) : Keeps s (execMastRowLand core ecc s) := by
  unfold execMastRowLand
  split <;> simp

theorem keeps_execMastWriteAck (core : Fin 9216) (s : State) : Keeps s (execMastWriteAck core s) := by simp [execMastWriteAck]

theorem keeps_execKvapqAck (core : Fin 9216) (found : List (Fin 512 × Bool)) (s : State) : Keeps s (execKvapqAck core found s) := by
  unfold execKvapqAck
  split <;> simp

theorem keeps_execTileLoadDone (core : Fin 9216) (sail : Fin 4) (s : State) : Keeps s (execTileLoadDone core sail s) := by simp [execTileLoadDone]

theorem keeps_execFillCopyDone (core : Fin 9216) (s : State) : Keeps s (execFillCopyDone core s) := by simp [execFillCopyDone]

@[simp] theorem fixed_openWindow (s : State) (m t : Nat) : (openWindow s m t).fixed = s.fixed := by simp [openWindow]

theorem keeps_execRefw (q : Issue) (w : BitVec 48) (found : RefFind) (s : State) : Keeps s (execRefw q w found s) := by
  simp only [execRefw, keeps_next]
  refine fixed_issueCtrl fun s t => fixed_legalOr (by simp) fun s => ?_
  split <;> simp

theorem keeps_execRefreshDebtTick (core : Fin 9216) (tier : Fin 4) (s : State) : Keeps s (execRefreshDebtTick core tier s) := by simp [execRefreshDebtTick]

theorem keeps_execRefreshCatchup (core : Fin 9216) (tier : Fin 4) (s : State) : Keeps s (execRefreshCatchup core tier s) := by simp [execRefreshCatchup]

theorem keeps_execHotOffDwellExpire (pt : Timed (Fin 64)) (s : State) : Keeps s (execHotOffDwellExpire pt s) := by simp [execHotOffDwellExpire]

@[simp] theorem fixed_updPages (s : State) (e : Nat) (f : List Page → List Page) : (updPages s e f).fixed = s.fixed := by simp [updPages]

@[simp] theorem fixed_seekAgain (s : State) (p : Nat) (w : PageCmd) (res : Nat) : (seekAgain s p w res).fixed = s.fixed := by
  simp only [seekAgain]
  (repeat' split) <;> simp

@[simp] theorem fixed_answer (s : State) (p : Nat) (op : PageOp) (m rid vpn res : Nat) : (answer s p op m rid vpn res).fixed = s.fixed := by
  simp only [answer]
  (repeat' split) <;> simp

/-! ### The mesh -/

@[simp] theorem fixed_passed (s : State) (vc : Nat) (route : List Nat) : (passed s vc route).fixed = s.fixed := by simp [passed]

@[simp] theorem fixed_sheetVisible (s : State) (p rank route : Nat) : (sheetVisible s p rank route).fixed = s.fixed := by
  unfold sheetVisible
  split <;> simp

@[simp] theorem State.fixed_settleNow (s : State) (m : Nat) : (s.settleNow m).fixed = s.fixed := by simp [State.settleNow]

@[simp] theorem fixed_deliver (s0 : State) (f : Flit) (poison : Bool) : (deliver s0 f poison).fixed = s0.fixed := by
  simp only [deliver]
  split <;> simp

@[simp] theorem fixed_guardArrive (s : State) (f : Flit) : (guardArrive s f).fixed = s.fixed := by simp [guardArrive]

@[simp] theorem fixed_arrive (s1 : State) (f : Flit) (ue : Option (Nat × Nat)) : (arrive s1 f ue).fixed = s1.fixed := by
  unfold arrive
  split <;> simp

theorem keeps_execMeshFlitArrive (i : Nat) (o : FlitEnd) (s : State) : Keeps s (execMeshFlitArrive i o s) := by
  unfold execMeshFlitArrive
  (repeat' split) <;> simp

theorem keeps_execDeliveryCreditReturn (core : Fin 9216) (trk : Nat) (s : State) : Keeps s (execDeliveryCreditReturn core trk s) := by simp [execDeliveryCreditReturn]

theorem keeps_execVc0MessageDeliver (i : Arrival) (s : State) : Keeps s (execVc0MessageDeliver i s) := by
  simp only [execVc0MessageDeliver]
  (repeat' split) <;> simp

@[simp] theorem fixed_nodeOut (s0 : State) (m : Nat) (e : BitVec 32) (x : RedSum) : (nodeOut s0 m e x).fixed = s0.fixed := by
  simp only [nodeOut]
  (repeat' split) <;> simp

@[simp] theorem fixed_sendResults (m tree tag : Nat) (e : BitVec 32) (n : Nat) (s : State) : (sendResults m tree tag e n s).fixed = s.fixed := by
  induction n generalizing s with
  | zero => rfl
  | succ n ih =>
    unfold sendResults
    split <;> simp [ih]

@[simp] theorem fixed_redMismatch (s : State) (f : RedFlit) : (redMismatch s f).fixed = s.fixed := by simp [redMismatch]

@[simp] theorem fixed_guardRed (s : State) (f : RedFlit) : (guardRed s f).fixed = s.fixed := by simp [guardRed]

theorem keeps_execReductionFlitArrive (i : Arrival) (s : State) : Keeps s (execReductionFlitArrive i s) := by
  simp only [execReductionFlitArrive]
  (repeat' split) <;> simp

theorem keeps_execReductionAddDone (core : Fin 9216) (tree : Fin 64) (fidx : Fin 512) (tag : BitVec 8) (s : State) : Keeps s (execReductionAddDone core tree fidx tag s) := by
  simp only [execReductionAddDone]
  (repeat' split) <;> simp

@[simp] theorem fixed_mergeServe (s0 : State) (h : Nat) (en : MergeEnt) : (mergeServe s0 h en).fixed = s0.fixed := by simp [mergeServe]

@[simp] theorem fixed_mergeServed (s : State) (h : Nat) (en : MergeEnt) : (mergeServed s h en).fixed = s.fixed := by simp [mergeServed]

@[simp] theorem fixed_mergeRequest (s : State) (h : Nat) (new : MergeEnt) (full : Nat) : (mergeRequest s h new full).fixed = s.fixed := by
  simp only [mergeRequest]
  split <;> simp

@[simp] theorem fixed_mergeAdmit (s : State) (h : Nat) : (mergeAdmit s h).fixed = s.fixed := by simp [mergeAdmit]

@[simp] theorem fixed_mergeClose (s : State) (h : Nat) (en : MergeEnt) : (mergeClose s h en).fixed = s.fixed := by simp [mergeClose]

theorem keeps_execMergeRequestArrive (i : Arrival) (s : State) : Keeps s (execMergeRequestArrive i s) := by
  simp only [execMergeRequestArrive]
  (repeat' split) <;> simp

theorem keeps_execMergeEntryClose (core : Fin 9216) (group : Fin 16) (tag : BitVec 8) (s : State) : Keeps s (execMergeEntryClose core group tag s) := by
  unfold execMergeEntryClose
  split <;> simp

@[simp] theorem fixed_markRetrain (s : State) (k l : Nat) : (markRetrain s k l).fixed = s.fixed := by
  unfold markRetrain
  split <;> simp

theorem keeps_execSeamLaneLockLoss (k : Fin 88) (l : Fin 16) (s : State) : Keeps s (execSeamLaneLockLoss k l s) := by simp [execSeamLaneLockLoss]

theorem keeps_execSeamErrorWindow (k : Fin 88) (l : Fin 16) (w : SeamWindow) (s : State) : Keeps s (execSeamErrorWindow k l w s) := by simp [execSeamErrorWindow]

theorem keeps_execSeamRetrainDone (k : Fin 88) (l : Fin 16) (badLanes : Nat) (s : State) : Keeps s (execSeamRetrainDone k l badLanes s) := by
  simp only [execSeamRetrainDone]
  (repeat' split) <;> simp

theorem keeps_execFixedHopEnter (fields : BitVec 48) (s : State) : Keeps s (execFixedHopEnter fields s) := by simp [execFixedHopEnter]

theorem keeps_execFixedHopDrainDone (n : Fin 48) (s : State) : Keeps s (execFixedHopDrainDone n s) := by simp [execFixedHopDrainDone]

theorem keeps_execFixedHopDrainTimeout (n : Fin 48) (s : State) : Keeps s (execFixedHopDrainTimeout n s) := by simp [execFixedHopDrainTimeout]

theorem keeps_execFixedHopStartTick (fields : BitVec 48) (t : Dword) (s : State) : Keeps s (execFixedHopStartTick fields t s) := by simp [execFixedHopStartTick]

theorem keeps_execFixedHopExitTick (fields : BitVec 48) (t : Dword) (s : State) : Keeps s (execFixedHopExitTick fields t s) := by simp [execFixedHopExitTick]

theorem keeps_execHopTableLoad (router : Fin 9216) (t : List (BitVec 15)) (s : State) : Keeps s (execHopTableLoad router t s) := by simp [execHopTableLoad]

/-! ### Requests and their entries -/

@[simp] theorem State.fixed_setEnt (s : State) (e : Nat) (x : Entry) : (s.setEnt e x).fixed = s.fixed := by simp [State.setEnt]

@[simp] theorem State.fixed_updEnt (s : State) (e : Nat) (f : Entry → Entry) : (s.updEnt e f).fixed = s.fixed := by simp [State.updEnt]

@[simp] theorem State.fixed_updReq (s : State) (p : Nat) (f : ReqPart → ReqPart) : (s.updReq p f).fixed = s.fixed := by simp [State.updReq]

@[simp] theorem State.fixed_updSec (s : State) (f : Sec → Sec) : (s.updSec f).fixed = s.fixed := by simp [State.updSec]

@[simp] theorem State.factory_updSec (s : State) (f : Sec → Sec) : (s.updSec f).sys.factory = s.sys.factory := rfl

@[simp] theorem State.fixed_updSecPart (s : State) (p : Nat) (f : SecPart → SecPart) : (s.updSecPart p f).fixed = s.fixed := by simp [State.updSecPart]

@[simp] theorem fixed_turnTag (s : State) (p e : Nat) (r : Record) : (turnTag s p e r).fixed = s.fixed := by
  simp only [turnTag]
  split <;> simp

@[simp] theorem fixed_putRecord (s : State) (p : Nat) (r : Record) : (putRecord s p r).fixed = s.fixed := by simp [putRecord]

@[simp] theorem fixed_reject (s : State) (p e cmd status tag t : Nat) (place : Nat × Nat) : (reject s p e cmd status tag t place).fixed = s.fixed := by simp [reject]

@[simp] theorem fixed_countFlr (s : State) (p : Nat) : (countFlr s p).fixed = s.fixed := by simp [countFlr]

@[simp] theorem fixed_lateCancel (s : State) (p e : Nat) (x : Entry) (t : Nat) : (lateCancel s p e x t).fixed = s.fixed := by simp [lateCancel]

@[simp] theorem fixed_releasePages (s : State) (p e : Nat) : (releasePages s p e).fixed = s.fixed := by simp [releasePages]

@[simp] theorem fixed_discardSled (s : State) (e : Nat) : (discardSled s e).fixed = s.fixed := by simp [discardSled]

@[simp] theorem State.fixed_updSport (s : State) (i : Nat) (f : StayPort → StayPort) : (s.updSport i f).fixed = s.fixed := by simp [State.updSport]

@[simp] theorem fixed_settle (s : State) (p e t : Nat) : (settle s p e t).fixed = s.fixed := by
  simp only [settle]
  (repeat' split) <;> simp

@[simp] theorem fixed_parkFailed (s : State) (p e : Nat) (fault : Option Nat) (res : Bool) (t : Nat) : (parkFailed s p e fault res t).fixed = s.fixed := by
  unfold parkFailed
  split <;> simp

@[simp] theorem fixed_parkConfirmed (s : State) (p e t : Nat) : (parkConfirmed s p e t).fixed = s.fixed := by simp [parkConfirmed]

@[simp] theorem fixed_queueReads (s : State) (e gen : Nat) (gs : List Page) : (queueReads s e gen gs).fixed = s.fixed := by simp [queueReads]

@[simp] theorem fixed_beginPark (s : State) (p e t : Nat) : (beginPark s p e t).fixed = s.fixed := by
  simp only [beginPark]
  (repeat' split) <;> simp

@[simp] theorem fixed_afterRecord (s : State) (p e : Nat) (r : Record) (t : Nat) : (afterRecord s p e r t).fixed = s.fixed := by
  simp only [afterRecord]
  (repeat' split) <;> simp

/-! ### Hoist reports -/

@[simp] theorem fixed_writeReport (s : State) (p : Nat) (c : HoistCmd) (r : HoistRpt) : (writeReport s p c r).fixed = s.fixed := by simp [writeReport]

@[simp] theorem fixed_abortQueue (s : State) (p : Nat) : (abortQueue s p).fixed = s.fixed := by simp [abortQueue]

/-! ### Request commands and rings -/

@[simp] theorem fixed_storePrompt (s : State) (e : Nat) (ws : List Word) : (storePrompt s e ws).fixed = s.fixed := by simp [storePrompt]

@[simp] theorem fixed_takeSub (s : State) (p q : Nat) : (takeSub s p q).fixed = s.fixed := by simp [takeSub]

@[simp] theorem fixed_countPrompt (s : State) (p op : Nat) (w : BitVec 512) (c : Nat) : (countPrompt s p op w c).fixed = s.fixed := by
  unfold countPrompt
  split <;> simp

@[simp] theorem fixed_submit {s : State} {p q op : Nat} {w : BitVec 512} {prompt : Option (List Word)} {t : Dword} {apply : Nat → State → State}
    (ha : ∀ c s, (apply c s).fixed = s.fixed) : (submit s p q op w prompt t apply).fixed = s.fixed := by
  simp only [submit]
  (repeat' split) <;> simp [ha]

@[simp] theorem fixed_submissionReadFails (s : State) (p q : Nat) (t : Dword) : (submissionReadFails s p q t).fixed = s.fixed := by simp [submissionReadFails]

theorem keeps_execOpen (p : Fin 64) (q : Fin 16) (sub : BitVec 512) (prompt : Option (List Word)) (t : Dword) (s : State) : Keeps s (execOpen p q sub prompt t s) := by
  simp [execOpen]

theorem keeps_execContinue (p : Fin 64) (q : Fin 16) (sub : BitVec 512) (prompt : Option (List Word)) (t : Dword) (s : State) : Keeps s (execContinue p q sub prompt t s) := by
  simp only [execContinue, keeps_next]
  refine fixed_submit fun c s => ?_
  (repeat' split) <;> simp

theorem keeps_execCancel (p : Fin 64) (q : Fin 16) (sub : BitVec 512) (t : Dword) (s : State) : Keeps s (execCancel p q sub t s) := by simp [execCancel]

theorem keeps_execClose (p : Fin 64) (q : Fin 16) (sub : BitVec 512) (t : Dword) (s : State) : Keeps s (execClose p q sub t s) := by simp [execClose]

theorem keeps_execPark (p : Fin 64) (q : Fin 16) (sub : BitVec 512) (t : Dword) (s : State) : Keeps s (execPark p q sub t s) := by simp [execPark]

@[simp] theorem fixed_markWaiting (s : State) (p : Nat) : (markWaiting s p).fixed = s.fixed := by simp [markWaiting]

@[simp] theorem fixed_noteFull (s : State) (p : Nat) : (noteFull s p).fixed = s.fixed := by simp [noteFull]

@[simp] theorem fixed_shedRecord (s : State) (p e : Nat) (r : Record) (t : Nat) : (shedRecord s p e r t).fixed = s.fixed := by simp [shedRecord]

@[simp] theorem fixed_recordWrite (s : State) (p t : Nat) : (recordWrite s p t).fixed = s.fixed := by
  unfold recordWrite
  split <;> simp

theorem keeps_execCompletionRecordWrite (p : Fin 64) (t : Dword) (s : State) : Keeps s (execCompletionRecordWrite p t s) := by simp [execCompletionRecordWrite]

theorem keeps_execCqHeadWrite (p : Fin 64) (head : Nat) (s : State) : Keeps s (execCqHeadWrite p head s) := by simp [execCqHeadWrite]

theorem keeps_execCqCfgWrite (p : Fin 64) (base : Option Dword) (size : Option Nat) (en : Option Bool) (s : State) : Keeps s (execCqCfgWrite p base size en s) := by
  simp [execCqCfgWrite]

theorem keeps_execSqDoorbell (p : Fin 64) (q : Fin 16) (tail : BitVec 16) (s : State) : Keeps s (execSqDoorbell p q tail s) := by simp [execSqDoorbell]

theorem keeps_execSqCfgWrite (p : Fin 64) (q : Fin 16) (base : Option Dword) (size : Option Nat) (en : Option Bool) (s : State) :
    Keeps s (execSqCfgWrite p q base size en s) := by simp [execSqCfgWrite]

/-! ### Service windows of the masts -/

@[simp] theorem fixed_serveUnmap (s : State) (m rid vpn : Nat) : (serveUnmap s m rid vpn).fixed = s.fixed := by
  simp only [serveUnmap]
  split <;> simp

@[simp] theorem fixed_serveRelease (s : State) (m rid : Nat) : (serveRelease s m rid).fixed = s.fixed := by simp [serveRelease]

@[simp] theorem fixed_serveAccess (s : State) (m : Nat) (write : Bool) (addr : Nat) (d : Row) (found : List (Nat × Bool)) :
    (serveAccess s m write addr d found).fixed = s.fixed := by simp [serveAccess]

@[simp] theorem fixed_walkFound (s : State) (m : Nat) (rows : List Nat) (found : List (Nat × Bool)) : (walkFound s m rows found).1.fixed = s.fixed := by
  simp only [walkFound]
  split <;> simp

@[simp] theorem fixed_serveWalk {s : State} {m : Nat} {op : PageOp} {rid vpn : Nat} {gran : Option Nat} {found : List (Nat × Bool)} {go : State → State}
    (hg : ∀ s, (go s).fixed = s.fixed) : (serveWalk s m op rid vpn gran found go).fixed = s.fixed := by
  have hw := fixed_walkFound s m ((s.core m).mast.walkRows rid vpn gran) found
  unfold serveWalk
  split <;> rename_i h <;> rw [h] at hw
  · simpa using hw
  · exact (hg _).trans hw

@[simp] theorem fixed_noticeOut (s : State) (p e what : Nat) (ok : Bool) : (noticeOut s p e what ok).fixed = s.fixed := by simp [noticeOut]

@[simp] theorem fixed_unparkFails (s : State) (p e port kind code spage : Nat) : (unparkFails s p e port kind code spage).fixed = s.fixed := by simp [unparkFails]

@[simp] theorem fixed_listParked (s : State) (e rid t : Nat) (h : Nat × Nat) (g : Nat) : (listParked s e rid t h g).fixed = s.fixed := by simp [listParked]

@[simp] theorem fixed_unparkStep (s : State) (p e : Nat) : (unparkStep s p e).fixed = s.fixed := by simp [unparkStep]

@[simp] theorem fixed_placeParked (s : State) (p m e vpn g : Nat) (d : Memory) : (placeParked s p m e vpn g d).fixed = s.fixed := by simp [placeParked]

@[simp] theorem fixed_serveOne (s : State) (m : Nat) (o : Outside) : (serveOne s m o).fixed = s.fixed := by
  cases o with
  | release rid found =>
    have hw := fixed_walkFound s m [(0x10000 + 4 * rid) / 128] found
    simp only [serveOne]
    split <;> simp_all
  | _ => simp [serveOne]

@[simp] theorem fixed_serveAll (s : State) (m : Nat) : (serveAll s m).fixed = s.fixed := by simp [serveAll]

@[simp] theorem fixed_serveWindow (m n : Nat) (s : State) : (serveWindow m n s).fixed = s.fixed := by
  induction n generalizing s with
  | zero => rfl
  | succ n ih =>
    simp only [serveWindow]
    (repeat' split) <;> simp [ih]

@[simp] theorem fixed_arriveOutside (s : State) (m : Nat) (o : Outside) : (arriveOutside s m o).fixed = s.fixed := by simp [arriveOutside]

theorem keeps_execOutsideMastAccess (core : Fin 9216) (write mark : Bool) (part : Fin 64) (row : Fin 0x400000) (x : OutsideRow) (s : State) :
    Keeps s (execOutsideMastAccess core write mark part row x s) := by simp [execOutsideMastAccess]

theorem keeps_execSvcw (q : Issue) (w : BitVec 48) (s : State) : Keeps s (execSvcw q w s) := by simp [execSvcw]

theorem keeps_execTlbMap (c : Found (Fin 9216) 0x400000) (rid : BitVec 16) (vpn : BitVec 20) (pgn : BitVec 13) (wr : Bool) (s : State) :
    Keeps s (execTlbMap c rid vpn pgn wr s) := by simp [execTlbMap]

theorem keeps_execTlbUnmap (c : Found (Fin 9216) 0x400000) (rid : BitVec 16) (vpn : BitVec 20) (s : State) : Keeps s (execTlbUnmap c rid vpn s) := by simp [execTlbUnmap]

theorem keeps_execTlbRelease (c : Found (Fin 9216) 0x400000) (rid : BitVec 16) (s : State) : Keeps s (execTlbRelease c rid s) := by simp [execTlbRelease]

theorem keeps_execTlbRebuild (core : Fin 9216) (s : State) : Keeps s (execTlbRebuild core s) := by simp [execTlbRebuild]

theorem keeps_execPageInit (core : Fin 9216) (rid : BitVec 16) (vpn : BitVec 20) (pgn : BitVec 13) (s : State) : Keeps s (execPageInit core rid vpn pgn s) := by
  simp [execPageInit]

/-! ### Output streams -/

@[simp] theorem State.fixed_updOutq (s : State) (k : Nat) (f : OutQ → OutQ) : (s.updOutq k f).fixed = s.fixed := by simp [State.updOutq]

theorem keeps_execOutputQueueToken (slot : Fin 4096) (s : State) : Keeps s (execOutputQueueToken slot s) := by
  unfold execOutputQueueToken
  split <;> simp

theorem keeps_execStreamRecordWrite (p : Fin 64) (r : Fin 16) (parity : Option (BitVec 64)) (sideBad : Bool) (s : State) :
    Keeps s (execStreamRecordWrite p r parity sideBad s) := by
  unfold execStreamRecordWrite
  split <;> simp

theorem keeps_execSrHeadWrite (p : Fin 64) (r : Fin 16) (head : Nat) (s : State) : Keeps s (execSrHeadWrite p r head s) := by simp [execSrHeadWrite]

theorem keeps_execSrCfgWrite (p : Fin 64) (r : Fin 16) (base : Option Dword) (size : Option Nat) (en : Option Bool) (s : State) :
    Keeps s (execSrCfgWrite p r base size en s) := by simp [execSrCfgWrite]

theorem keeps_execStmFlushGo (byVf : Option (Fin 64)) (slot : Fin 4096) (s : State) : Keeps s (execStmFlushGo byVf slot s) := by simp [execStmFlushGo]

@[simp] theorem fixed_endRingRead (s : State) (p status words : Nat) : (endRingRead s p status words).fixed = s.fixed := by simp [endRingRead]

theorem keeps_execRingReadGo (p : Fin 64) (byPf : Bool) (s : State) : Keeps s (execRingReadGo p byPf s) := by simp [execRingReadGo]

theorem keeps_execRingReadDone (p : Fin 64) (n : Nat) (bad : List Nat) (s : State) : Keeps s (execRingReadDone p n bad s) := by simp [execRingReadDone]

theorem keeps_execStopSetLoad (p : Fin 64) (index : Fin 4096) (s : State) : Keeps s (execStopSetLoad p index s) := by simp [execStopSetLoad]

/-! ### Stay ports -/

@[simp] theorem fixed_raisePort (s : State) (owner : Option Nat) (code : Nat) : (raisePort s owner code).fixed = s.fixed := by
  unfold raisePort
  split <;> simp

@[simp] theorem fixed_tryConfirm (s : State) (p e t : Nat) : (tryConfirm s p e t).fixed = s.fixed := by simp [tryConfirm]

theorem keeps_execParkPageWriteDone (e : Fin 262144) (w : Found ParkEnd 512) (t : Dword) (s0 : State) : Keeps s0 (execParkPageWriteDone e w t s0) := by
  simp only [execParkPageWriteDone]
  (repeat' split) <;> simp

theorem keeps_execUnparkPageArrive (e : Fin 262144) (w : Timed UnparkIn) (s0 : State) : Keeps s0 (execUnparkPageArrive e w s0) := by
  simp only [execUnparkPageArrive]
  (repeat' split) <;> simp

theorem keeps_execStayLinkDown (i : Fin 24) (t : Dword) (s0 : State) : Keeps s0 (execStayLinkDown i t s0) := by simp [execStayLinkDown]

theorem keeps_execStayLinkUp (i : Fin 24) (fast typeOk : Bool) (lanes cap retries : Nat) (s : State) : Keeps s (execStayLinkUp i fast typeOk lanes cap retries s) := by
  simp [execStayLinkUp]

theorem keeps_execStayRequestTimeout (i : Fin 24) (e : Fin 262144) (t : Dword) (s0 : State) : Keeps s0 (execStayRequestTimeout i e t s0) := by
  unfold execStayRequestTimeout
  split <;> simp

/-! ### Turns of requests -/

@[simp] theorem fixed_putRing (s : State) (e n : Nat) (w : BitVec 64) : (putRing s e n w).fixed = s.fixed := by simp [putRing]

@[simp] theorem fixed_evalTokens (e : Nat) (x : Entry) (st : StopSet) (len0 i : Nat) (ws : List (BitVec 64)) (s : State) :
    (evalTokens e x st len0 i ws s).1.fixed = s.fixed := by
  induction ws generalizing i s with
  | nil => rfl
  | cons w r ih =>
    simp only [evalTokens]
    (repeat' split) <;> simp [ih]

@[simp] theorem fixed_sendFrameTokens (s : State) (p e : Nat) (x : Entry) (k : Nat) : (sendFrameTokens s p e x k).fixed = s.fixed := by simp [sendFrameTokens]

@[simp] theorem fixed_tally (s : State) (p tq gen prompt : Nat) : (tally s p tq gen prompt).fixed = s.fixed := by simp [tally]

@[simp] theorem fixed_sendTally (s : State) (m : Tally) : (sendTally s m).fixed = s.fixed := by simp [sendTally]

@[simp] theorem fixed_sendTokens (s : State) (p t : Nat) : (sendTokens s p t).fixed = s.fixed := by simp [sendTokens]

@[simp] theorem fixed_applyCommit (s : State) (p e k : Nat) (c : Commit) : (applyCommit s p e k c).1.fixed = s.fixed := by
  simp only [applyCommit]
  split <;> simp

@[simp] theorem fixed_seekPage (s : State) (p e rid : Nat) (h : Nat × Nat) : (seekPage s p e rid h).fixed = s.fixed := by
  unfold seekPage
  (repeat' split) <;> simp

@[simp] theorem fixed_lookAhead (s : State) (p e : Nat) : (lookAhead s p e).fixed = s.fixed := by
  unfold lookAhead
  (repeat' split) <;> simp

@[simp] theorem fixed_dropPages (s : State) (p e : Nat) : (dropPages s p e).fixed = s.fixed := by simp [dropPages]

@[simp] theorem fixed_endUncommitted (s : State) (p e status t : Nat) (late : Bool) : (endUncommitted s p e status t late).fixed = s.fixed := by simp [endUncommitted]

@[simp] theorem fixed_endActive (s : State) (p e status detail t : Nat) (late : Bool) : (endActive s p e status detail t late).fixed = s.fixed := by simp [endActive]

@[simp] theorem fixed_endingOf (s : State) (p e t : Nat) (stop : Option (Nat × Nat)) : (endingOf s p e t stop).fixed = s.fixed := by
  simp only [endingOf]
  split <;> simp

@[simp] theorem fixed_settleStep (s : State) (p t : Nat) (ok : Bool) (esc : AMap EscCount) : (settleStep s p t ok esc).fixed = s.fixed := by
  refine (fixed_sendTokens _ _ _).trans (fixed_foldl fun s e => ?_)
  dsimp only
  split <;> simp

@[simp] theorem fixed_endQueued (s : State) (p t : Nat) : (endQueued s p t).fixed = s.fixed := by
  refine fixed_foldl fun s x => ?_
  split <;> simp

@[simp] theorem fixed_lookAheadAll (s : State) (p t : Nat) : (lookAheadAll s p t).fixed = s.fixed := by simp [lookAheadAll]

@[simp] theorem fixed_admitEntry (s : State) (p e : Nat) : (admitEntry s p e).fixed = s.fixed := by
  unfold admitEntry
  split <;> simp

@[simp] theorem fixed_roundRobin (p t n : Nat) (s : State) : (roundRobin p t n s).fixed = s.fixed := by
  induction n generalizing s with
  | zero => rfl
  | succ n ih =>
    simp only [roundRobin]
    (repeat' split) <;> simp [ih]

@[simp] theorem fixed_clearDeficits (s : State) (p : Nat) : (clearDeficits s p).fixed = s.fixed := by simp [clearDeficits]

@[simp] theorem fixed_admitAll (s : State) (p t : Nat) : (admitAll s p t).fixed = s.fixed := by simp [admitAll]

@[simp] theorem fixed_sendStepRecords (s : State) (p : Nat) : (sendStepRecords s p).fixed = s.fixed := by
  unfold sendStepRecords
  split
  · rfl
  · refine fixed_foldl fun s e => ?_
    dsimp only
    (repeat' split) <;> simp

/-! ### Luffs and the overflow routine -/

@[simp] theorem fixed_beginSaves (s : State) (p : Nat) : (beginSaves s p).fixed = s.fixed := by
  refine fixed_foldl fun s x => ?_
  (repeat' split) <;> simp

@[simp] theorem State.fixed_luffCurrent (s : State) (p : Nat) : (s.luffCurrent p).fixed = s.fixed := by simp [State.luffCurrent]

theorem keeps_execLuffStallBegin (p : Fin 64) (s : State) : Keeps s (execLuffStallBegin p s) := by
  unfold execLuffStallBegin
  split <;> simp

theorem keeps_execLuffItemEnd (p : Fin 64) (i : Nat) (s : State) : Keeps s (execLuffItemEnd p i s) := by
  unfold execLuffItemEnd
  (repeat' split) <;> simp

theorem keeps_execLuffLineDrop (p : Fin 64) (s : State) : Keeps s (execLuffLineDrop p s) := by
  unfold execLuffLineDrop
  split <;> simp

theorem keeps_execLuffTimeout (p : Fin 64) (n : Fin 48) (s : State) : Keeps s (execLuffTimeout p n s) := by simp [execLuffTimeout]

@[simp] theorem fixed_passRows' (s : State) (d : Nat × Nat × Nat) (e pass : Nat) : (passRows' s d e pass).fixed = s.fixed := by simp [passRows']

@[simp] theorem fixed_saveCore (s : State) (m : Nat) (r : OvfRun) : (saveCore s m r).fixed = s.fixed := by
  unfold saveCore
  split <;> simp

@[simp] theorem fixed_stashCore (s0 : State) (m : Nat) (r : OvfRun) : (stashCore s0 m r).fixed = s0.fixed := by simp [stashCore]

theorem keeps_execSequencerSaveDone (core : Fin 9216) (sail : Option (Fin 4)) (s : State) : Keeps s (execSequencerSaveDone core sail s) := by
  simp only [execSequencerSaveDone]
  (repeat' split) <;> simp

theorem keeps_execOverflowDispatchDone (n : Fin 48) (s : State) : Keeps s (execOverflowDispatchDone n s) := by
  unfold execOverflowDispatchDone
  (repeat' split) <;> simp

theorem keeps_execOverflowRoutineDone (n : Fin 48) (s : State) : Keeps s (execOverflowRoutineDone n s) := by
  unfold execOverflowRoutineDone
  (repeat' split) <;> simp

/-! ### Mailboxes -/

@[simp] theorem fixed_sendReply (s : State) (f : Nat) (r : BitVec 512) : (sendReply s f r).fixed = s.fixed := by simp [sendReply]

@[simp] theorem fixed_countDiscards (s : State) (p n : Nat) : (countDiscards s p n).fixed = s.fixed := by simp [countDiscards]

@[simp] theorem fixed_endMsg (s : State) (f : Nat) (m : MbxMsg) (status detail : Nat) (payload : List (Nat × Nat × Nat)) :
    (endMsg s f m status detail payload).fixed = s.fixed := by simp [endMsg]

@[simp] theorem fixed_endBody (s : State) (f : Nat) (body : BitVec 512) (status detail : Nat) (payload : List (Nat × Nat × Nat)) :
    (endBody s f body status detail payload).fixed = s.fixed := by
  unfold endBody
  split <;> simp

@[simp] theorem fixed_holdMsg (s : State) (f : Nat) (m : MbxMsg) : (holdMsg s f m).fixed = s.fixed := by simp [holdMsg]

theorem keeps_execMbxOutDataWrite (f : Fin 65) (i : Fin 16) (v : Word) (s : State) : Keeps s (execMbxOutDataWrite f i v s) := by simp [execMbxOutDataWrite]

theorem keeps_execMbxOutGo (f : Fin 65) (link : Fin 4) (s : State) : Keeps s (execMbxOutGo f link s) := by simp [execMbxOutGo]

@[simp] theorem fixed_takeOut (s : State) (f : Nat) : (takeOut s f).fixed = s.fixed := by simp [takeOut]

theorem keeps_execMbxTake (f : Fin 65) (s : State) : Keeps s (execMbxTake f s) := by
  simp only [execMbxTake]
  (repeat' split) <;> simp

@[simp] theorem fixed_mailShutdown (s : State) (f : Nat) : (mailShutdown s f).fixed = s.fixed := by simp [mailShutdown]

theorem keeps_execMbxReplyWrite (f : Fin 65) (s : State) : Keeps s (execMbxReplyWrite f s) := by
  simp only [execMbxReplyWrite]
  split <;> simp

theorem keeps_execMbxInDone (f : Fin 65) (s : State) : Keeps s (execMbxInDone f s) := by simp [execMbxInDone]

theorem keeps_execDblStatClear (f : Fin 65) (w : Word) (s : State) : Keeps s (execDblStatClear f w s) := by simp [execDblStatClear]

theorem keeps_execDblMaskWrite (f : Fin 65) (w : Word) (s : State) : Keeps s (execDblMaskWrite f w s) := by simp [execDblMaskWrite]

theorem keeps_execMsixUnmask (f : Fin 65) (v : Option (Fin 256)) (s : State) : Keeps s (execMsixUnmask f v s) := by
  unfold execMsixUnmask
  split <;> simp

theorem keeps_execCoalesceExpire (f : Fin 65) (vt : Timed (Fin 64)) (s0 : State) : Keeps s0 (execCoalesceExpire f vt s0) := by simp [execCoalesceExpire]

/-! ### Clocks and power as settings -/

@[simp] theorem State.fixed_updClk (s : State) (f : Clk → Clk) : (s.updClk f).fixed = s.fixed := by simp [State.updClk]

@[simp] theorem State.factory_updClk (s : State) (f : Clk → Clk) : (s.updClk f).sys.factory = s.sys.factory := rfl

@[simp] theorem State.fixed_updClkPart (s : State) (p : Nat) (f : ClkPart → ClkPart) : (s.updClkPart p f).fixed = s.fixed := by simp [State.updClkPart]

@[simp] theorem fixed_applySwal (s : State) (p : Nat) : (applySwal s p).fixed = s.fixed := by simp [applySwal]

@[simp] theorem fixed_pwrLog (s : State) (n c kind phase value : Nat) : (pwrLog s n c kind phase value).fixed = s.fixed := by simp [pwrLog]

@[simp] theorem fixed_tripField (s : State) (n code value : Nat) : (tripField s n code value).fixed = s.fixed := by simp [tripField]

@[simp] theorem fixed_boundaryPower (s : State) (p : Nat) : (boundaryPower s p).fixed = s.fixed := by simp [boundaryPower]

@[simp] theorem fixed_endSlew (s : State) : (endSlew s).fixed = s.fixed := by simp [endSlew]

@[simp] theorem fixed_newRate (s : State) : (newRate s).fixed = s.fixed := by simp [newRate]

@[simp] theorem fixed_moveTime (s : State) (v : Dword) : (moveTime s v).fixed = s.fixed := by simp [moveTime]

/-! ### Boundaries of a step -/

@[simp] theorem fixed_quarantine (s : State) (p status : Nat) : (quarantine s p status).fixed = s.fixed := by simp [quarantine]

@[simp] theorem fixed_leftoverCheck (s : State) (p : Nat) (ok : Bool) : (leftoverCheck s p ok).fixed = s.fixed := by
  refine fixed_foldl fun s x => ?_
  split <;> simp

@[simp] theorem fixed_drainEvents (s : State) (p : Nat) : (drainEvents s p).fixed = s.fixed := by simp [drainEvents]

@[simp] theorem fixed_emptySlots (s : State) (p : Nat) : (emptySlots s p).fixed = s.fixed := by simp [emptySlots]

@[simp] theorem fixed_resetSlots (s : State) (p : Nat) : (resetSlots s p).fixed = s.fixed := by simp [resetSlots]

@[simp] theorem fixed_slotEvents (s : State) (p : Nat) : (slotEvents s p).fixed = s.fixed := by simp [slotEvents]

@[simp] theorem fixed_stopDrained (s : State) (p : Nat) : (stopDrained s p).fixed = s.fixed := by simp [stopDrained]

@[simp] theorem fixed_applyTlbs (s : State) (p : Nat) : (applyTlbs s p).fixed = s.fixed := by simp [applyTlbs]

@[simp] theorem fixed_dropTravel (s : State) (p : Nat) : (dropTravel s p).fixed = s.fixed := by simp [dropTravel]

@[simp] theorem fixed_keepWindow (s : State) (p : Nat) : (keepWindow s p).fixed = s.fixed := by simp [keepWindow]

@[simp] theorem fixed_sendStamps (s : State) (p t : Nat) : (sendStamps s p t).fixed = s.fixed := by simp [sendStamps]

@[simp] theorem fixed_endMarked (s : State) (p t : Nat) : (endMarked s p t).fixed = s.fixed := by simp [endMarked]

@[simp] theorem fixed_lostToWaiting (s : State) (p : Nat) : (lostToWaiting s p).fixed = s.fixed := by simp [lostToWaiting]

@[simp] theorem fixed_applyAutos (s : State) (p : Nat) : (applyAutos s p).fixed = s.fixed := by simp [applyAutos]

@[simp] theorem fixed_applyGate (s : State) (p : Nat) : (applyGate s p).fixed = s.fixed := by simp [applyGate]

@[simp] theorem fixed_applySettings (s0 : State) (p : Nat) : (applySettings s0 p).fixed = s0.fixed := by
  simp only [applySettings]
  split <;> simp

@[simp] theorem fixed_serveQueues (s : State) (p t : Nat) : (serveQueues s p t).fixed = s.fixed := by simp [serveQueues]

@[simp] theorem fixed_tellEnd (s : State) (p t : Nat) : (tellEnd s p t).fixed = s.fixed := by simp [tellEnd]

theorem keeps_execStepEndBoundary (p : Fin 64) (t : Dword) (s0 : State) : Keeps s0 (execStepEndBoundary p t s0) := by simp [execStepEndBoundary]

@[simp] theorem fixed_applyRecord (s : State) (p t : Nat) : (applyRecord s p t).fixed = s.fixed := by
  unfold applyRecord
  split <;> simp

@[simp] theorem fixed_joinSlots (s : State) (p : Nat) : (joinSlots s p).fixed = s.fixed := by simp [joinSlots]

@[simp] theorem fixed_holdEvents (s : State) (p t : Nat) : (holdEvents s p t).fixed = s.fixed := by simp [holdEvents]

theorem keeps_execStepStartBoundary (p : Fin 64) (t : Dword) (s0 : State) : Keeps s0 (execStepStartBoundary p t s0) := by simp [execStepStartBoundary]

theorem keeps_execIdleBoundary (p : Fin 64) (t : Dword) (s0 : State) : Keeps s0 (execIdleBoundary p t s0) := by simp [execIdleBoundary]

theorem keeps_execImageCurrentWindow (core : Fin 9216) (mean : Nat) (s : State) : Keeps s (execImageCurrentWindow core mean s) := by simp [execImageCurrentWindow]

/-! ### Sheet frames -/

@[simp] theorem fixed_refuseFrame (s : State) (i : Nat) (h : BitVec 128) : (refuseFrame s i h).fixed = s.fixed := by
  simp only [refuseFrame]
  split <;> simp

@[simp] theorem fixed_onFrame {s : State} {i : Nat} {h : BitVec 128} {f : Nat → State → State} (hf : ∀ p s, (f p s).fixed = s.fixed) :
    (onFrame s i h f).fixed = s.fixed := by
  unfold onFrame
  (repeat' split) <;> simp [hf]

@[simp] theorem fixed_stray (s : State) (i p : Nat) (h : BitVec 128) (n : Nat) : (stray s i p h n).fixed = s.fixed := by simp [stray]

theorem keeps_execSheetTensorFrame (i : Fin 8) (h : BitVec 128) (dst : BitVec 64) (fl : List (BitVec 512 × Bool)) (s : State) :
    Keeps s (execSheetTensorFrame i h dst fl s) := by
  unfold execSheetTensorFrame
  (repeat' split) <;> simp

theorem keeps_execSheetCreditFrame (i : Fin 8) (h : BitVec 128) (s : State) : Keeps s (execSheetCreditFrame i h s) := by
  simp only [execSheetCreditFrame, keeps_next]
  refine fixed_onFrame fun p s => ?_
  split <;> simp

theorem keeps_execSheetGateFrame (i : Fin 8) (h : BitVec 128) (s : State) : Keeps s (execSheetGateFrame i h s) := by simp [execSheetGateFrame]

theorem keeps_execSheetWaitArm (p : Fin 64) (rank : Fin 8) (route : Fin 256) (s : State) : Keeps s (execSheetWaitArm p rank route s) := by
  unfold execSheetWaitArm
  split <;> simp

theorem keeps_execGateDueArm (p : Fin 64) (s : State) : Keeps s (execGateDueArm p s) := by simp [execGateDueArm]

@[simp] theorem fixed_noteReach (s : State) (p : Nat) : (noteReach s p).fixed = s.fixed := by simp [noteReach]

@[simp] theorem fixed_checkSlice (s0 : State) (p : Nat) : (checkSlice s0 p).fixed = s0.fixed := by
  simp only [checkSlice]
  split <;> simp

@[simp] theorem fixed_checkSlices (s : State) : (checkSlices s).fixed = s.fixed := by simp [checkSlices]

@[simp] theorem fixed_loseSlice (s : State) (p r : Nat) : (loseSlice s p r).fixed = s.fixed := by simp [loseSlice]

theorem keeps_execSheetEndStampFrame (i : Fin 8) (h : BitVec 128) (recs : List (BitVec 128)) (s : State) : Keeps s (execSheetEndStampFrame i h recs s) := by
  simp [execSheetEndStampFrame]

theorem keeps_execSheetNoticeFrame (i : Fin 8) (h : BitVec 128) (what : Fin 5) (ok : Bool) (e : Fin 262144) (s : State) : Keeps s (execSheetNoticeFrame i h what ok e s) := by
  simp [execSheetNoticeFrame]

theorem keeps_execSliceStampLate (p : Fin 64) (rt : Timed (Fin 8)) (s0 : State) : Keeps s0 (execSliceStampLate p rt s0) := by simp [execSliceStampLate]

theorem keeps_execSliceLossTimeout (p : Fin 64) (rt : Timed (Fin 8)) (s : State) : Keeps s (execSliceLossTimeout p rt s) := by simp [execSliceLossTimeout]

theorem keeps_execStampWaitTimeout (p : Fin 64) (rt : Timed (Fin 8)) (s : State) : Keeps s (execStampWaitTimeout p rt s) := by simp [execStampWaitTimeout]

@[simp] theorem fixed_updRole (s : State) : (updRole s).fixed = s.fixed := by
  unfold updRole
  split <;> simp

theorem keeps_execSheetTimeFrame (i : Fin 8) (h : BitVec 128) (x : Timed Dword) (s0 : State) : Keeps s0 (execSheetTimeFrame i h x s0) := by
  simp only [execSheetTimeFrame]
  (repeat' split) <;> simp

theorem keeps_execTimeExchangeTick (s1 : State) : Keeps s1 (execTimeExchangeTick s1) := by simp [execTimeExchangeTick]

theorem keeps_execTimeHoldTimeout (s : State) : Keeps s (execTimeHoldTimeout s) := by simp [execTimeHoldTimeout]

@[simp] theorem fixed_tellPeer (s : State) (i : Nat) : (tellPeer s i).fixed = s.fixed := fixed_foldl fun _ _ => fixed_foldl fun _ _ => by simp

@[simp] theorem fixed_showVerdict (s : State) (i : Nat) (v : Verdict) : (showVerdict s i v).fixed = s.fixed := by simp [showVerdict]

@[simp] theorem fixed_judgePorts (s : State) (i : Nat) (timeout : Bool) : (judgePorts s i timeout).fixed = s.fixed := by
  refine fixed_foldl fun s x => ?_
  (repeat' split) <;> simp

theorem keeps_execSheetPortLinkUp (x : Timed (Fin 8)) (s0 : State) : Keeps s0 (execSheetPortLinkUp x s0) := by
  simp only [execSheetPortLinkUp]
  (repeat' split) <;> simp

theorem keeps_execSheetIdentFrame (i : Fin 8) (serial : Dword) (port : Fin 8) (peerGood agrees : Option Bool) (s : State) :
    Keeps s (execSheetIdentFrame i serial port peerGood agrees s) := by
  simp only [execSheetIdentFrame, keeps_next]
  split
  · rfl
  · refine (fixed_checkSlices _).trans ((fixed_judgePorts _ _ _).trans ((fixed_foldl fun s p => ?_).trans (State.fixed_updPort _ _ _)))
    (repeat' split) <;> simp

theorem keeps_execCablingVerdictTimeout (x : Timed (Fin 8)) (s : State) : Keeps s (execCablingVerdictTimeout x s) := by
  simp only [execCablingVerdictTimeout]
  split <;> simp

@[simp] theorem fixed_resend (s : State) (i lost : Nat) : (resend s i lost).fixed = s.fixed := by
  simp only [resend]
  split <;> simp

theorem keeps_execSheetPortLinkDown (x : PortLoss) (s0 : State) : Keeps s0 (execSheetPortLinkDown x s0) := by simp [execSheetPortLinkDown]

/-! ### Image pins -/

@[simp] theorem fixed_writePins (s : State) (ms : List Nat) : (writePins s ms).fixed = s.fixed := by simp [writePins]

/-! ### Swallow demands and glides -/

@[simp] theorem fixed_swalNow (s : State) (p : Nat) : (swalNow s p).fixed = s.fixed := by simp [swalNow]

@[simp] theorem fixed_setReef (s : State) (p : Nat) : (setReef s p).fixed = s.fixed := by simp [setReef]

@[simp] theorem fixed_holdDemand (s : State) (p S : Nat) : (holdDemand s p S).fixed = s.fixed := by simp [holdDemand]

@[simp] theorem fixed_slowLost (s : State) (m : Nat) : (slowLost s m).fixed = s.fixed := by simp [slowLost]

@[simp] theorem fixed_slowCore (s : State) (m : Nat) : (slowCore s m).fixed = s.fixed := by simp [slowCore]

@[simp] theorem fixed_raiseVolts (s : State) (step : Nat) : (raiseVolts s step).fixed = s.fixed := by simp [raiseVolts]

@[simp] theorem fixed_reefCore (s : State) (m : Nat) : (reefCore s m).fixed = s.fixed := by simp [reefCore]

@[simp] theorem fixed_supplyJudge (s : State) (n : Nat) : (supplyJudge s n).fixed = s.fixed := by simp [supplyJudge]

@[simp] theorem fixed_glideTo (s : State) (k : Nat) : (glideTo s k).fixed = s.fixed := by simp [glideTo]

@[simp] theorem fixed_retarget (s : State) : (retarget s).fixed = s.fixed := by simp [retarget]

@[simp] theorem fixed_relax (s : State) : (relax s).fixed = s.fixed := by simp [relax]

/-! ### Hoists -/

@[simp] theorem State.fixed_updHoist (s : State) (p : Nat) (f : Hoist → Hoist) : (s.updHoist p f).fixed = s.fixed := by simp [State.updHoist]

@[simp] theorem fixed_clearSlot (s : State) (p i : Nat) : (clearSlot s p i).fixed = s.fixed := by simp [clearSlot]

@[simp] theorem fixed_endHoist (s : State) (p : Nat) (status : Nat) (sec vcore detail : Nat) : (endHoist s p status sec vcore detail).fixed = s.fixed := by
  unfold endHoist
  split <;> simp

@[simp] theorem fixed_failHoist (s : State) (p status : Nat) : (failHoist s p status).fixed = s.fixed := by simp [failHoist]

theorem fixed_takeCommand {s : State} {p : Nat} {byVf : Bool} {ops : Nat → Bool} {t : Dword} {x : State × HoistCmd} (h : takeCommand s p byVf ops t = some x) :
    x.1.fixed = s.fixed := by
  simp only [takeCommand] at h
  (repeat' split at h) <;> cases h <;> simp

@[simp] theorem fixed_enqueue (s : State) (p : Nat) (c : HoistCmd) : (enqueue s p c).fixed = s.fixed := by simp [enqueue]

theorem keeps_execHoist (p : Fin 64) (byVf : Bool) (t : Dword) (s : State) : Keeps s (execHoist p byVf t s) := by
  simp only [execHoist, keeps_next]
  split
  · simp [fixed_takeCommand ‹_›]
  · rfl

@[simp] theorem fixed_askAbort (s : State) (p : Nat) : (askAbort s p).fixed = s.fixed := by simp [askAbort]

theorem keeps_execUnload (p : Fin 64) (byVf : Bool) (t : Dword) (s : State) : Keeps s (execUnload p byVf t s) := by
  simp only [execUnload, keeps_next]
  split
  · simp [fixed_takeCommand ‹_›]
  · rfl

theorem keeps_execHoistAbort (p : Fin 64) (byVf : Bool) (t : Dword) (s : State) : Keeps s (execHoistAbort p byVf t s) := by
  simp only [execHoistAbort, keeps_next]
  split
  · rfl
  · rename_i h
    simp only [← fixed_takeCommand h]
    (repeat' split) <;> simp

@[simp] theorem fixed_beginUnload (s : State) (p i : Nat) (why : UnloadFor) (c : HoistCmd) (t : Nat) : (beginUnload s p i why c t).fixed = s.fixed := by simp [beginUnload]

@[simp] theorem fixed_readHeader (s : State) (p : Nat) (c : HoistCmd) (inp : HoistIn) (key : Option (BitVec 256)) : (readHeader s p c inp key).fixed = s.fixed := by
  unfold readHeader
  (repeat' split) <;> simp

@[simp] theorem fixed_startHoist (s : State) (p : Nat) (c : HoistCmd) (inp : HoistIn) : (startHoist s p c inp).fixed = s.fixed := by simp [startHoist]

theorem keeps_execHoistQueueTake (p : Fin 64) (inp : HoistIn) (t : Dword) (s0 : State) : Keeps s0 (execHoistQueueTake p inp t s0) := by
  simp only [execHoistQueueTake]
  (repeat' split) <;> simp

@[simp] theorem fixed_startStream (s : State) (p : Nat) : (startStream s p).fixed = s.fixed := by
  unfold startStream
  split <;> simp

@[simp] theorem fixed_checkManifest (s : State) (p : Nat) (t : Nat) : (checkManifest s p t).fixed = s.fixed := by
  simp only [checkManifest]
  (repeat' split) <;> simp

@[simp] theorem fixed_deliverSection (s : State) (p : Nat) (h : Hoist) (i d : Nat) : (deliverSection s p h i d).fixed = s.fixed := by simp [deliverSection]

@[simp] theorem fixed_deliverSections (n : Nat) (s : State) (p : Nat) (h : Hoist) : (deliverSections n s p h).1.fixed = s.fixed := by
  induction n generalizing s h with
  | zero => rfl
  | succ n ih =>
    simp only [deliverSections]
    (repeat' split) <;> simp [ih]

@[simp] theorem fixed_finishHoist (s : State) (p : Nat) : (finishHoist s p).fixed = s.fixed := by
  unfold finishHoist
  split <;> simp

@[simp] theorem fixed_loadImage (s : State) (p : Nat) : (loadImage s p).fixed = s.fixed := by
  simp only [loadImage]
  (repeat' split) <;> simp

@[simp] theorem fixed_advanceHoist (s : State) (p : Nat) : (advanceHoist s p).fixed = s.fixed := by
  simp only [advanceHoist]
  (repeat' split) <;> simp

@[simp] theorem fixed_resumeHoist (s : State) (p : Nat) : (resumeHoist s p).fixed = s.fixed := by
  unfold resumeHoist
  split <;> simp

@[simp] theorem fixed_takeSegment (s : State) (p : Nat) (h : Hoist) (plain badCore : Option Nat) : (takeSegment s p h plain badCore).fixed = s.fixed := by
  unfold takeSegment
  split <;> simp

theorem keeps_execHalyardSegment (p : Fin 64) (seg : SegIn) (t : Dword) (s0 : State) : Keeps s0 (execHalyardSegment p seg t s0) := by
  unfold execHalyardSegment
  split <;> simp

@[simp] theorem fixed_hoistReadFails (s : State) (p k : Nat) : (hoistReadFails s p k).fixed = s.fixed := by
  unfold hoistReadFails
  split <;> simp

theorem keeps_execUnloadDrainLimit (p : Fin 64) (slot : Fin 4) (t : Dword) (s0 : State) : Keeps s0 (execUnloadDrainLimit p slot t s0) := by simp [execUnloadDrainLimit]

@[simp] theorem fixed_eraseEntry (s : State) (p e status : Nat) : (eraseEntry s p e status).fixed = s.fixed := by
  simp only [eraseEntry]
  (repeat' split) <;> simp

theorem keeps_execUnloadEraseDone (p : Fin 64) (slot : Fin 4) (t : Dword) (s0 : State) : Keeps s0 (execUnloadEraseDone p slot t s0) := by
  simp only [execUnloadEraseDone]
  (repeat' split) <;> simp

/-! ### The event recorder -/

theorem keeps_execEvrFreeze (t : Dword) (s0 : State) : Keeps s0 (execEvrFreeze t s0) := by
  simp only [execEvrFreeze, keeps_next]
  (repeat' split) <;> simp

theorem keeps_execEvrThaw (t : Dword) (s0 : State) : Keeps s0 (execEvrThaw t s0) := by
  unfold execEvrThaw
  split <;> simp

theorem keeps_execEvrFreezeLimit (t : Dword) (s0 : State) : Keeps s0 (execEvrFreezeLimit t s0) := by
  unfold execEvrFreezeLimit
  split <;> simp

theorem keeps_execEvrDump (s : State) : Keeps s (execEvrDump s) := by
  unfold execEvrDump
  split <;> simp

theorem keeps_execEvrClear (s : State) : Keeps s (execEvrClear s) := by
  unfold execEvrClear
  split <;> simp

theorem keeps_execEvrFlush (t : Dword) (s0 : State) : Keeps s0 (execEvrFlush t s0) := by
  unfold execEvrFlush
  split <;> simp

theorem keeps_execEvrPeriodicFlush (t : Dword) (s : State) : Keeps s (execEvrPeriodicFlush t s) := by simp [execEvrPeriodicFlush]

theorem keeps_execEvrFaultFlushSpacing (t : Dword) (s0 : State) : Keeps s0 (execEvrFaultFlushSpacing t s0) := by simp [execEvrFaultFlushSpacing]

@[simp] theorem State.fixed_updCfg (s : State) (f : Cfg → Cfg) : (s.updCfg f).fixed = s.fixed := by simp [State.updCfg]

@[simp] theorem State.factory_updCfg (s : State) (f : Cfg → Cfg) : (s.updCfg f).sys.factory = s.sys.factory := rfl

theorem keeps_execRecorderFlushDone (ok0 ok1 : Bool) (t : Dword) (s0 : State) : Keeps s0 (execRecorderFlushDone ok0 ok1 t s0) := by
  simp only [execRecorderFlushDone]
  (repeat' split) <;> simp

theorem keeps_execEvrHsrcWrite (h : Fin 64) (w : Word) (s : State) : Keeps s (execEvrHsrcWrite h w s) := by simp [execEvrHsrcWrite]

/-! ### Clocks and the time base -/

@[simp] theorem State.fixed_updClkField (s : State) (n : Nat) (f : ClkField → ClkField) : (s.updClkField n f).fixed = s.fixed := by simp [State.updClkField]

@[simp] theorem fixed_sendClose (s : State) : (sendClose s).fixed = s.fixed := by simp [sendClose]

@[simp] theorem fixed_idleSails (s : State) (code status : Nat) : (idleSails s code status).fixed = s.fixed := by simp [idleSails]

@[simp] theorem fixed_abortWaiting (s : State) (p : Nat) : (abortWaiting s p).fixed = s.fixed := by simp [abortWaiting]

@[simp] theorem fixed_orderlyShutdown (s : State) (code : Nat) : (orderlyShutdown s code).fixed = s.fixed := by simp [orderlyShutdown]

theorem keeps_execClkStepReqWrite (v : Fin 4) (s : State) : Keeps s (execClkStepReqWrite v s) := by simp [execClkStepReqWrite]

theorem keeps_execGlideEnd (t : Dword) (s0 : State) : Keeps s0 (execGlideEnd t s0) := by
  simp only [execGlideEnd, keeps_next]
  split
  · rfl
  · split
    · simp
    · refine (fixed_foldl fun s p => ?_).trans (by simp)
      (repeat' split) <;> simp

theorem keeps_execCornerLockLoss (n : Fin 48) (corner : Fin 4) (t : Dword) (s0 : State) : Keeps s0 (execCornerLockLoss n corner t s0) := by simp [execCornerLockLoss]

@[simp] theorem fixed_requestGrant (s0 : State) : (requestGrant s0).fixed = s0.fixed := by
  simp only [requestGrant]
  (repeat' split) <;> simp

@[simp] theorem fixed_loadController (s : State) (n : Nat) : (loadController s n).fixed = s.fixed := by simp [loadController]

@[simp] theorem fixed_powerFails (s : State) (n code st : Nat) : (powerFails s n code st).fixed = s.fixed := by simp [powerFails]

@[simp] theorem fixed_fieldOn (s : State) (n : Nat) : (fieldOn s n).fixed = s.fixed := by simp [fieldOn]

theorem keeps_execFieldRelock (n : Fin 48) (t : Dword) (s0 : State) : Keeps s0 (execFieldRelock n t s0) := by simp [execFieldRelock]

theorem keeps_execRelockTimeout (n : Fin 48) (t : Dword) (s0 : State) : Keeps s0 (execRelockTimeout n t s0) := by simp [execRelockTimeout]

theorem keeps_execFieldLockTimeout (n : Fin 48) (t : Dword) (s0 : State) : Keeps s0 (execFieldLockTimeout n t s0) := by simp [execFieldLockTimeout]

theorem keeps_execRefOscCheck (stopA stopB stopM : Bool) (dAB dAM dBM : Nat) (t : Dword) (s0 : State) : Keeps s0 (execRefOscCheck stopA stopB stopM dAB dAM dBM t s0) := by
  simp [execRefOscCheck]

theorem keeps_execRefHoldTimeout (t : Dword) (s0 : State) : Keeps s0 (execRefHoldTimeout t s0) := by
  unfold execRefHoldTimeout
  split <;> simp

theorem keeps_execTimeBaseSync (t : Dword) (s0 : State) : Keeps s0 (execTimeBaseSync t s0) := by simp [execTimeBaseSync]

theorem keeps_execClkTbSetGo (t : Dword) (s0 : State) : Keeps s0 (execClkTbSetGo t s0) := by simp [execClkTbSetGo]

theorem keeps_execClkTbLoRead (f : Fin 65) (t : Dword) (s0 : State) : Keeps s0 (execClkTbLoRead f t s0) := by simp [execClkTbLoRead]

theorem keeps_execSlewDone (t : Dword) (s : State) : Keeps s (execSlewDone t s) := by simp [execSlewDone]

theorem keeps_execHostSwalWrite (p : Fin 64) (v : Fin 16) (s : State) : Keeps s (execHostSwalWrite p v s) := by simp [execHostSwalWrite]

/-! ### The crow's nest meter -/

@[simp] theorem State.fixed_updCnm (s : State) (f : Cnm → Cnm) : (s.updCnm f).fixed = s.fixed := by simp [State.updCnm]

@[simp] theorem State.factory_updCnm (s : State) (f : Cnm → Cnm) : (s.updCnm f).sys.factory = s.sys.factory := rfl

@[simp] theorem State.fixed_updMeter (s : State) (f : Meter → Meter) : (s.updMeter f).fixed = s.fixed := by simp [State.updMeter]

@[simp] theorem fixed_sendStart (s : State) : (sendStart s).fixed = s.fixed := by simp [sendStart]

theorem keeps_execTallyStartSend (t : Dword) (s : State) : Keeps s (execTallyStartSend t s) := by simp [execTallyStartSend]

theorem keeps_execTallyMarkSend (t : Dword) (s : State) : Keeps s (execTallyMarkSend t s) := by simp [execTallyMarkSend]

@[simp] theorem State.fixed_meterDone (s : State) (m : Meter) : (s.meterDone m).fixed = s.fixed := by
  refine (fixed_iter fun _ s => ?_).trans (State.fixed_updMeter _ _)
  dsimp only
  split <;> simp

@[simp] theorem fixed_powerDown (s : State) (mt : Nat) (r : MeterRead) : (powerDown s mt r).fixed = s.fixed := by simp [powerDown]

@[simp] theorem fixed_takeTally (s : State) (kind : Nat) (ok0 ok1 : Bool) : (takeTally s kind ok0 ok1).1.fixed = s.fixed := by
  unfold takeTally
  (repeat' split) <;> simp

theorem keeps_execMeterTallyStart (ok0 ok1 : Bool) (s : State) : Keeps s (execMeterTallyStart ok0 ok1 s) := by
  have ht := fixed_takeTally s 1 ok0 ok1
  simp only [execMeterTallyStart, keeps_next]
  split <;> simp_all

theorem keeps_execMeterTallyTokens (ok0 ok1 : Bool) (s : State) : Keeps s (execMeterTallyTokens ok0 ok1 s) := by
  have ht := fixed_takeTally s 2 ok0 ok1
  simp only [execMeterTallyTokens, keeps_next]
  split <;> simp_all

theorem keeps_execMeterTallyMark (ok0 ok1 : Bool) (s : State) : Keeps s (execMeterTallyMark ok0 ok1 s) := by
  have ht := fixed_takeTally s 3 ok0 ok1
  simp only [execMeterTallyMark, keeps_next]
  (repeat' split) <;> simp_all

theorem keeps_execMeterTallyClose (ok0 ok1 : Bool) (mt : Nat) (r : MeterRead) (s : State) : Keeps s (execMeterTallyClose ok0 ok1 mt r s) := by
  have ht := fixed_takeTally s 4 ok0 ok1
  simp only [execMeterTallyClose, keeps_next]
  split <;> simp_all

theorem keeps_execMeterInputLoss (mt : Nat) (r : MeterRead) (s : State) : Keeps s (execMeterInputLoss mt r s) := by simp [execMeterInputLoss]

theorem keeps_execMeterPowerUp (restarted : Bool) (fresh : Option (Dword × Dword)) (mt : Nat) (s : State) : Keeps s (execMeterPowerUp restarted fresh mt s) := by
  simp [execMeterPowerUp]

theorem keeps_execMeterIntervalEnd (r : MeterRead) (s : State) : Keeps s (execMeterIntervalEnd r s) := by simp [execMeterIntervalEnd]

theorem keeps_execMeterSealEvent (s : State) : Keeps s (execMeterSealEvent s) := by simp [execMeterSealEvent]

@[simp] theorem fixed_relaySees (s : State) (present bus : Bool) : (relaySees s present bus).fixed = s.fixed := by simp [relaySees]

@[simp] theorem fixed_noteSerial (s : State) : (noteSerial s).fixed = s.fixed := by simp [noteSerial]

theorem keeps_execCnmFetchGo (present bus : Bool) (s0 : State) : Keeps s0 (execCnmFetchGo present bus s0) := by simp [execCnmFetchGo]

theorem keeps_execCnmIntervalWrite (v : Fin 8) (s : State) : Keeps s (execCnmIntervalWrite v s) := by simp [execCnmIntervalWrite]

/-! ### Security -/

@[simp] theorem fixed_drawn (s : State) : (drawn s).fixed = s.fixed := by simp [drawn]

theorem keeps_execDrbgReseed (healthy : Bool) (s : State) : Keeps s (execDrbgReseed healthy s) := by simp [execDrbgReseed]

@[simp] theorem State.fixed_updSpdm (s : State) (a : SpdmAt) (f : Spdm → Spdm) : (s.updSpdm a f).fixed = s.fixed := by simp [State.updSpdm]

@[simp] theorem fixed_spdmErr (s : State) (code : Nat) : (spdmErr s code).fixed = s.fixed := by simp [spdmErr]

@[simp] theorem fixed_spdmReply (s : State) (a : SpdmAt) (code len data : Nat) : (spdmReply s a code len data).fixed = s.fixed := by simp [spdmReply]

@[simp] theorem fixed_spdmAsk {s : State} {a : SpdmAt} {phase : Nat} {go : State → State} (hg : ∀ s, (go s).fixed = s.fixed) :
    (spdmAsk s a phase go).fixed = s.fixed := by
  unfold spdmAsk
  (repeat' split) <;> simp [hg]

theorem keeps_execGetVersion (a : SpdmAt) (s : State) : Keeps s (execGetVersion a s) := by simp [execGetVersion]

theorem keeps_execGetCapabilities (a : SpdmAt) (ver : Fin 256) (s : State) : Keeps s (execGetCapabilities a ver s) := by simp [execGetCapabilities]

theorem keeps_execNegotiateAlgorithms (a : SpdmAt) (offers : Bool) (s : State) : Keeps s (execNegotiateAlgorithms a offers s) := by simp [execNegotiateAlgorithms]

theorem keeps_execGetDigests (a : SpdmAt) (s : State) : Keeps s (execGetDigests a s) := by simp [execGetDigests]

theorem keeps_execGetCertificate (a : SpdmAt) (slot : Fin 8) (offset len : Nat) (s : State) : Keeps s (execGetCertificate a slot offset len s) := by simp [execGetCertificate]

theorem keeps_execChallenge (a : SpdmAt) (slot : Fin 8) (transcript : BitVec 384) (s : State) : Keeps s (execChallenge a slot transcript s) := by simp [execChallenge]

theorem keeps_execGetMeasurements (a : SpdmAt) (index : Fin 256) (sign : Bool) (transcript : BitVec 384) (s : State) :
    Keeps s (execGetMeasurements a index sign transcript s) := by simp [execGetMeasurements]

theorem keeps_execKeyExchange (a : SpdmAt) (slot : Fin 8) (transcript : BitVec 384) (s : State) : Keeps s (execKeyExchange a slot transcript s) := by
  simp only [execKeyExchange, keeps_next]
  refine fixed_spdmAsk fun s => ?_
  (repeat' split) <;> simp

theorem keeps_execFinish (a : SpdmAt) (id : Fin 2) (good : Bool) (s : State) : Keeps s (execFinish a id good s) := by
  simp only [execFinish, keeps_next]
  refine fixed_spdmAsk fun s => ?_
  (repeat' split) <;> simp

theorem keeps_execEndSession (a : SpdmAt) (id : Fin 2) (s : State) : Keeps s (execEndSession a id s) := by simp [execEndSession]

theorem keeps_execHeartbeat (a : SpdmAt) (id : Fin 2) (s : State) : Keeps s (execHeartbeat a id s) := by simp [execHeartbeat]

theorem keeps_execChunkSend (a : SpdmAt) (handle : Fin 256) (seq : Fin 65536) (last : Bool) (s : State) : Keeps s (execChunkSend a handle seq last s) := by simp [execChunkSend]

theorem keeps_execChunkGet (a : SpdmAt) (seq : Fin 65536) (s : State) : Keeps s (execChunkGet a seq s) := by
  simp only [execChunkGet, keeps_next]
  refine fixed_spdmAsk fun s => ?_
  (repeat' split) <;> simp

theorem keeps_execIdeKm (id : Fin 2) (link k : Fin 4) (op : IdeOp) (fns : List (Fin 65)) (s : State) : Keeps s (execIdeKm id link k op fns s) := by
  unfold execIdeKm
  split <;> simp

@[simp] theorem fixed_keyReply (s : State) (p : Nat) (m : MbxMsg) (req : Option (BitVec 1024)) (status : Nat) (mpub : BitVec 776) (confirm : BitVec 384) :
    (keyReply s p m req status mpub confirm).fixed = s.fixed := by simp [keyReply]

@[simp] theorem fixed_keyExch (s : State) (p : Nat) (req : Option (BitVec 1024)) : (keyExch s p req).fixed = s.fixed := by
  unfold keyExch
  (repeat' split) <;> simp

theorem keeps_execKeyExch (p : Fin 64) (req : Option (BitVec 1024)) (s : State) : Keeps s (execKeyExch p req s) := by simp [execKeyExch]

@[simp] theorem fixed_keyClear (s : State) (p : Nat) (req : Option (BitVec 1024)) : (keyClear s p req).fixed = s.fixed := by
  unfold keyClear
  (repeat' split) <;> simp

theorem keeps_execKeyClear (p : Fin 64) (req : Option (BitVec 1024)) (s : State) : Keeps s (execKeyClear p req s) := by simp [execKeyClear]

@[simp] theorem fixed_signkey (s : State) (point : Option (BitVec 776)) : (signkey s point).fixed = s.fixed := by
  unfold signkey
  (repeat' split) <;> simp

theorem keeps_execSignkey (point : Option (BitVec 776)) (s : State) : Keeps s (execSignkey point s) := by simp [execSignkey]

/-! ### Recovery of a column -/

@[simp] theorem State.fixed_updRecov (s : State) (p : Nat) (f : Recov → Recov) : (s.updRecov p f).fixed = s.fixed := by simp [State.updRecov]

theorem keeps_execSpareCheckDone (n : Fin 48) (col : Fin 12) (pass : Bool) (s : State) : Keeps s (execSpareCheckDone n col pass s) := by
  simp only [execSpareCheckDone]
  split <;> simp

@[simp] theorem fixed_copyDown (s : State) (n col k row : Nat) : (copyDown s n col k row).fixed = s.fixed := by
  induction k generalizing s row with
  | zero => rfl
  | succ k ih => simp [copyDown, ih]

@[simp] theorem fixed_shiftPages (s : State) (p key g : Nat) : (shiftPages s p key g).fixed = s.fixed := by simp [shiftPages]

@[simp] theorem fixed_reloadColumn (s : State) (n col g : Nat) : (reloadColumn s n col g).fixed = s.fixed := by
  unfold reloadColumn
  split <;> simp

@[simp] theorem fixed_mapWithoutCopy (s : State) (n : Nat) (dead : List Nat) : (mapWithoutCopy s n dead).fixed = s.fixed := by simp [mapWithoutCopy]

@[simp] theorem fixed_endCopy (s : State) (key : Nat) (bad : Option Nat) : (endCopy s key bad).fixed = s.fixed := by simp [endCopy]

theorem keeps_execColumnCopyDone (n : Fin 48) (col : Fin 12) (bad : Option (Fin 16 × Fin 0x400000)) (s : State) : Keeps s (execColumnCopyDone n col bad s) := by
  simp only [execColumnCopyDone]
  (repeat' split) <;> simp

theorem keeps_execColumnTestDone (n : Fin 48) (pass : Bool) (s : State) : Keeps s (execColumnTestDone n pass s) := by
  simp only [execColumnTestDone]
  split <;> simp

/-! ### The host interface -/

@[simp] theorem State.fixed_updLink (s : State) (i : Nat) (f : HostLink → HostLink) : (s.updLink i f).fixed = s.fixed := by
  unfold State.updLink
  split <;> simp

@[simp] theorem fixed_askReset (s : State) (p : Nat) : (askReset s p).fixed = s.fixed := by simp [askReset]

theorem keeps_execPartitionReset (p : Fin 64) (t : Dword) (s : State) : Keeps s (execPartitionReset p t s) := by simp [execPartitionReset]

@[simp] theorem fixed_dropStreams (s : State) (p : Nat) : (dropStreams s p).1.fixed = s.fixed := by simp [dropStreams]

@[simp] theorem fixed_markFlr (s : State) (p : Nat) : (markFlr s p).fixed = s.fixed := by simp [markFlr]

@[simp] theorem fixed_abortedWrite (s : State) (p : Nat) : (abortedWrite s p).fixed = s.fixed := by simp [abortedWrite]

@[simp] theorem fixed_flrPartition (s : State) (p : Nat) : (flrPartition s p).fixed = s.fixed := by simp [flrPartition]

@[simp] theorem fixed_noteRings (s : State) (i : Nat) : (noteRings s i).fixed = s.fixed := by simp [noteRings]

theorem keeps_execHostFlr (f : Fin 65) (link : Fin 4) (t : Dword) (s0 : State) : Keeps s0 (execHostFlr f link t s0) := by simp [execHostFlr]

@[simp] theorem fixed_resetLink (s : State) (i : Nat) : (resetLink s i).fixed = s.fixed := by simp [resetLink]

theorem keeps_execHostPerst (link : Fin 4) (s : State) : Keeps s (execHostPerst link s) := by simp [execHostPerst]

theorem keeps_execHostLinkDown (link : Fin 4) (s : State) : Keeps s (execHostLinkDown link s) := by simp [execHostLinkDown]

theorem keeps_execHostLinkUp (link : Fin 4) (rate : Fin 4) (width : Fin 32) (flit : Bool) (s : State) : Keeps s (execHostLinkUp link rate width flit s) := by
  simp [execHostLinkUp]

theorem keeps_execPcieConfigWrite (link : Fin 4) (f : Fin 65) (master : Option Bool) (sriov : Option Bool) (numVfs : Option (Fin 65)) (s : State) :
    Keeps s (execPcieConfigWrite link f master sriov numVfs s) := by simp [execPcieConfigWrite]

theorem keeps_execBadRegisterAccess (via : Option (Fin 64 × Fin 4)) (s : State) : Keeps s (execBadRegisterAccess via s) := by
  unfold execBadRegisterAccess
  split <;> simp

theorem keeps_execInfo (f : Fin 65) (s : State) : Keeps s (execInfo f s) := by
  unfold execInfo
  split <;> simp

@[simp] theorem fixed_autoLoad (s : State) (p : Nat) (file : Option Nat) : (autoLoad s p file).fixed = s.fixed := by
  unfold autoLoad
  (repeat' split) <;> simp

theorem keeps_execAutoLoad (p : Fin 64) (file : Option Nat) (s : State) : Keeps s (execAutoLoad p file s) := by simp [execAutoLoad]

/-! ### Restarts -/

@[simp] theorem fixed_coldState (s : State) : (coldState s).fixed = s.fixed := by simp [coldState]

@[simp] theorem fixed_warmState (s : State) (cause : Nat) : (warmState s cause).fixed = s.fixed := by simp [warmState]

@[simp] theorem fixed_resetNow (s : State) (p : Nat) : (resetNow s p).fixed = s.fixed := by simp [resetNow]

@[simp] theorem fixed_hostRestart (s : State) : (hostRestart s).fixed = s.fixed := by simp [hostRestart]

theorem keeps_execPinReset (t : Dword) (s : State) : Keeps s (execPinReset t s) := by simp [execPinReset]

theorem keeps_execHostRestart (key : BitVec 16) (t : Dword) (s : State) : Keeps s (execHostRestart key t s) := by simp [execHostRestart]

@[simp] theorem fixed_watchdogFlush (s : State) : (watchdogFlush s).fixed = s.fixed := by
  simp only [watchdogFlush]
  split <;> simp

theorem keeps_execMastheadWatchdog (x : Timed Bool) (s0 : State) : Keeps s0 (execMastheadWatchdog x s0) := by simp [execMastheadWatchdog]

@[simp] theorem fixed_fieldsOff (s : State) : (fieldsOff s).fixed = s.fixed := by simp [fieldsOff]

theorem keeps_execHoldupFieldsOff (t : Dword) (s : State) : Keeps s (execHoldupFieldsOff t s) := by simp [execHoldupFieldsOff]

theorem keeps_execHoldupRimOff (t : Dword) (s : State) : Keeps s (execHoldupRimOff t s) := by simp [execHoldupRimOff]

theorem keeps_execInputValid (s : State) : Keeps s (execInputValid s) := by simp [execInputValid]

/-! ### Power -/

theorem keeps_execInputDip (s : State) : Keeps s (execInputDip s) := by simp [execInputDip]

@[simp] theorem fixed_enterInput (s : State) (st volt : Nat) : (enterInput s st volt).fixed = s.fixed := by simp [enterInput]

theorem keeps_execInputLow (volt : BitVec 16) (t : Dword) (s : State) : Keeps s (execInputLow volt t s) := by simp [execInputLow]

theorem keeps_execInputHigh (volt : BitVec 16) (t : Dword) (s : State) : Keeps s (execInputHigh volt t s) := by simp [execInputHigh]

@[simp] theorem State.fixed_updThm (s : State) (f : Thm → Thm) : (s.updThm f).fixed = s.fixed := by simp [State.updThm]

@[simp] theorem State.factory_updThm (s : State) (f : Thm → Thm) : (s.updThm f).sys.factory = s.sys.factory := rfl

@[simp] theorem fixed_thmLog (s : State) (n c kind tier value : Nat) : (thmLog s n c kind tier value).fixed = s.fixed := by simp [thmLog]

@[simp] theorem fixed_dblAll (s : State) (b : Nat) : (dblAll s b).fixed = s.fixed := by simp [dblAll]

@[simp] theorem fixed_strike (s : State) (cause : Nat) (restore : Bool) : (strike s cause restore).fixed = s.fixed := by simp [strike]

theorem keeps_execInputLoss (volt : BitVec 16) (t : Dword) (s0 : State) : Keeps s0 (execInputLoss volt t s0) := by simp [execInputLoss]

theorem keeps_execHoldupStoreCharged (s : State) : Keeps s (execHoldupStoreCharged s) := by simp [execHoldupStoreCharged]

theorem keeps_execAvsTrimTick (core : Fin 9216) (margin : Nat) (s : State) : Keeps s (execAvsTrimTick core margin s) := by simp [execAvsTrimTick]

theorem keeps_execTimingNearMiss (core : Fin 9216) (s : State) : Keeps s (execTimingNearMiss core s) := by simp [execTimingNearMiss]

theorem keeps_execSlowCoreTimeout (core : Fin 9216) (t : Dword) (s : State) : Keeps s (execSlowCoreTimeout core t s) := by simp [execSlowCoreTimeout]

@[simp] theorem fixed_convRead (s : State) (r : Nat × Nat × Bool × Nat) : (convRead s r).fixed = s.fixed := by simp [convRead]

@[simp] theorem fixed_takePower (s : State) (i : PowerIn) : (takePower s i).fixed = s.fixed := by simp [takePower]

@[simp] theorem fixed_setPwrSwal (s : State) (p v : Nat) : (setPwrSwal s p v).fixed = s.fixed := by simp [setPwrSwal]

@[simp] theorem fixed_setLimit (s : State) (v : Nat) : (setLimit s v).fixed = s.fixed := by simp [setLimit]

@[simp] theorem fixed_lowerPower (s : State) : (lowerPower s).fixed = s.fixed := by
  unfold lowerPower
  split <;> simp

@[simp] theorem fixed_raisePower (s : State) : (raisePower s).fixed = s.fixed := by
  unfold raisePower
  (repeat' split) <;> simp

@[simp] theorem fixed_clampPower (s : State) : (clampPower s).fixed = s.fixed := by simp [clampPower]

theorem keeps_execPowerPolicyTick (i : PowerIn) (t : Dword) (s0 : State) : Keeps s0 (execPowerPolicyTick i t s0) := by simp [execPowerPolicyTick]

@[simp] theorem fixed_regFails (s : State) (m value : Nat) : (regFails s m value).fixed = s.fixed := by simp [regFails]

theorem keeps_execPhaseFailure (core : Fin 9216) (phase : Fin 4) (value : BitVec 16) (t : Dword) (s0 : State) : Keeps s0 (execPhaseFailure core phase value t s0) := by
  simp [execPhaseFailure]

theorem keeps_execRegulatorFailure (core : Fin 9216) (value : BitVec 16) (t : Dword) (s : State) : Keeps s (execRegulatorFailure core value t s) := by
  simp [execRegulatorFailure]

theorem keeps_execCoreShort (core : Fin 9216) (value : BitVec 16) (t : Dword) (s : State) : Keeps s (execCoreShort core value t s) := by simp [execCoreShort]

@[simp] theorem fixed_raiseFieldPort (s : State) (n code : Nat) : (raiseFieldPort s n code).fixed = s.fixed := by simp [raiseFieldPort]

@[simp] theorem fixed_tripNow (s : State) (n value : Nat) : (tripNow s n value).fixed = s.fixed := by simp [tripNow]

theorem keeps_execConverterFailure (k : Fin 96) (value : BitVec 16) (t : Dword) (s0 : State) : Keeps s0 (execConverterFailure k value t s0) := by simp [execConverterFailure]

theorem keeps_execFieldSupplyShort (n : Fin 48) (value : BitVec 16) (t : Dword) (s : State) : Keeps s (execFieldSupplyShort n value t s) := by simp [execFieldSupplyShort]

@[simp] theorem fixed_rimPower (s : State) : (rimPower s).fixed = s.fixed := by simp [rimPower]

theorem keeps_execRimConverterFailure (i : Fin 2) (value : BitVec 16) (t : Dword) (s0 : State) : Keeps s0 (execRimConverterFailure i value t s0) := by
  simp [execRimConverterFailure]

theorem keeps_execPhaseLimitExpire (core : Fin 9216) (t : Dword) (s0 : State) : Keeps s0 (execPhaseLimitExpire core t s0) := by
  unfold execPhaseLimitExpire
  split <;> simp

@[simp] theorem fixed_ramp (s : State) (n : Nat) : (ramp s n).fixed = s.fixed := by simp [ramp]

theorem keeps_execQuietWindowGrant (n : Fin 48) (peaks : List (Nat × Nat)) (t : Dword) (s : State) : Keeps s (execQuietWindowGrant n peaks t s) := by
  simp [execQuietWindowGrant]

theorem keeps_execGrantTimeout (n : Fin 48) (t : Dword) (s : State) : Keeps s (execGrantTimeout n t s) := by simp [execGrantTimeout]

theorem keeps_execFieldRampTimeout (n : Fin 48) (value : BitVec 16) (t : Dword) (s : State) : Keeps s (execFieldRampTimeout n value t s) := by simp [execFieldRampTimeout]

/-! ### Heat -/

@[simp] theorem State.fixed_updCoreThm (s : State) (m : Nat) (f : CoreThm → CoreThm) : (s.updCoreThm m f).fixed = s.fixed := by simp [State.updCoreThm]

@[simp] theorem State.fixed_updPartThm (s : State) (p : Nat) (f : PartThm → PartThm) : (s.updPartThm p f).fixed = s.fixed := by simp [State.updPartThm]

@[simp] theorem fixed_raiseCorePort (s : State) (m code : Nat) : (raiseCorePort s m code).fixed = s.fixed := by simp [raiseCorePort]

@[simp] theorem fixed_sensorFails (s : State) (m tier : Nat) (v : Int) : (sensorFails s m tier v).fixed = s.fixed := by simp [sensorFails]

@[simp] theorem fixed_setThmSwal (s : State) (p v : Nat) : (setThmSwal s p v).fixed = s.fixed := by simp [setThmSwal]

@[simp] theorem fixed_reachLimit (s : State) (m tier : Nat) (v : Int) : (reachLimit s m tier v).fixed = s.fixed := by simp [reachLimit]

@[simp] theorem fixed_judgeCore (s : State) (m : Nat) : (judgeCore s m).fixed = s.fixed := by
  simp only [judgeCore]
  split <;> simp

theorem keeps_execCoreSensorSample (core : Fin 9216) (diode ring : Option Int) (t : Dword) (s0 : State) : Keeps s0 (execCoreSensorSample core diode ring t s0) := by
  simp [execCoreSensorSample]

theorem keeps_execDisagreeTimeout (core : Fin 9216) (t : Dword) (s0 : State) : Keeps s0 (execDisagreeTimeout core t s0) := by
  simp only [execDisagreeTimeout]
  split <;> simp

theorem keeps_execStage1Release (core : Fin 9216) (t : Dword) (s0 : State) : Keeps s0 (execStage1Release core t s0) := by
  simp only [execStage1Release]
  split <;> simp

@[simp] theorem fixed_noteCalm (s : State) (p : Nat) : (noteCalm s p).fixed = s.fixed := by simp [noteCalm]

theorem keeps_execTierSensorSample (core : Fin 9216) (tier : Fin 4) (reading : Option Int) (t : Dword) (s0 : State) :
    Keeps s0 (execTierSensorSample core tier reading t s0) := by simp [execTierSensorSample]

theorem keeps_execThermalDemandTick (t : Dword) (s0 : State) : Keeps s0 (execThermalDemandTick t s0) := by simp [execThermalDemandTick]

theorem keeps_execThermalTrip (n : Fin 48) (core : Fin 192) (tier : Fin 4) (value : BitVec 8) (t : Dword) (s : State) : Keeps s (execThermalTrip n core tier value t s) := by
  simp [execThermalTrip]

@[simp] theorem fixed_takeTray (s : State) (missed : Bool) (ti to' : Option Int) (fl : Option Nat) : (takeTray s missed ti to' fl).fixed = s.fixed := by
  unfold takeTray
  extract_lets t s1 s3 s4
  have h1 : s1.fixed = s.fixed := State.fixed_updThm _ _
  have h3 : s3.fixed = s.fixed := by
    simp only [s3]
    split <;> simp [h1]
  have h4 : s4.fixed = s.fixed := by
    simp only [s4]
    split <;> simp [h3]
  split <;> simp [h4]

@[simp] theorem fixed_liftStrike (s : State) (cool : Nat) : (liftStrike s cool).fixed = s.fixed := by simp [liftStrike]

@[simp] theorem fixed_judgeTray (s : State) (ti to' : Option Int) (fl : Option Nat) (mean : Option (Int × Nat)) : (judgeTray s ti to' fl mean).fixed = s.fixed := by
  simp only [judgeTray]
  (repeat' split) <;> simp

theorem keeps_execTrayPoll (r : Option (BitVec 96)) (t : Dword) (s0 : State) : Keeps s0 (execTrayPoll r t s0) := by
  simp only [execTrayPoll]
  split <;> simp

theorem keeps_execGatingTick (t : Dword) (s0 : State) : Keeps s0 (execGatingTick t s0) := by simp [execGatingTick]

theorem keeps_execStrikeRestoreDeadline (t : Dword) (s0 : State) : Keeps s0 (execStrikeRestoreDeadline t s0) := by
  unfold execStrikeRestoreDeadline
  split <;> simp

theorem keeps_execThmCtrlWrite (w : Word) (s : State) : Keeps s (execThmCtrlWrite w s) := by simp [execThmCtrlWrite]

/-! ### The configuration store -/

@[simp] theorem State.fixed_updNvm (s : State) (d : Bool) (f : NvmDev → NvmDev) : (s.updNvm d f).fixed = s.fixed := by simp [State.updNvm]

@[simp] theorem fixed_noteCopy (s : State) (b ok : Bool) : (noteCopy s b ok).fixed = s.fixed := by simp [noteCopy]

theorem keeps_execRwpWrite (i : Fin 64) (v : Word) (s : State) : Keeps s (execRwpWrite i v s) := by simp [execRwpWrite]

theorem keeps_execRwpRecordProgrammed (ok0 ok1 : Bool) (s : State) : Keeps s (execRwpRecordProgrammed ok0 ok1 s) := by simp [execRwpRecordProgrammed]

@[simp] theorem fixed_loadRwp (s : State) : (loadRwp s).fixed = s.fixed := by simp [loadRwp]

theorem keeps_execCfgCopyGo (copy : Bool) (link : Fin 4) (s : State) : Keeps s (execCfgCopyGo copy link s) := by simp [execCfgCopyGo]

@[simp] theorem fixed_copyDone (s : State) (img : Option Nat) (progOk : Bool) : (copyDone s img progOk).fixed = s.fixed := by
  unfold copyDone
  (repeat' split) <;> simp

theorem keeps_execCfgCopyDone (img : Option Nat) (progOk : Bool) (s : State) : Keeps s (execCfgCopyDone img progOk s) := by simp [execCfgCopyDone]

@[simp] theorem fixed_notLoaded (s : State) (ofs : Nat) : (notLoaded s ofs).fixed = s.fixed := by simp [notLoaded]

@[simp] theorem fixed_loadIf {s : State} {ok : Bool} {ofs : Nat} {f : State → State} (hf : ∀ s, (f s).fixed = s.fixed) : (loadIf s ok ofs f).fixed = s.fixed := by
  unfold loadIf
  (repeat' split) <;> simp [hf]

@[simp] theorem fixed_loadPair {s : State} {on off ofs : Nat} {f : State → State} (hf : ∀ s, (f s).fixed = s.fixed) : (loadPair s on off ofs f).fixed = s.fixed := by
  unfold loadPair
  (repeat' split) <;> simp [hf]

@[simp] theorem fixed_loadModule (s : State) (img : Nat) : (loadModule s img).fixed = s.fixed := by
  unfold loadModule
  extract_lets b bit s1 s2 s3 s4 s5 s6 s7 s8 fab s9 s10 s11 s12
  rw [State.fixed_updSec, State.fixed_updCnm, State.fixed_updThm, State.fixed_updPwr]
  calc s12.fixed = s11.fixed := fixed_loadIf fun _ => rfl
    _ = s10.fixed := fixed_loadIf fun _ => rfl
    _ = s9.fixed := fixed_loadIf fun _ => rfl
    _ = s8.fixed := rfl
    _ = s7.fixed := fixed_loadPair fun _ => rfl
    _ = s6.fixed := rfl
    _ = s5.fixed := fixed_loadPair fun _ => rfl
    _ = s4.fixed := fixed_loadIf fun _ => State.fixed_updMeter _ _
    _ = s2.fixed := by simp [s4, s3]
    _ = s1.fixed := fixed_loadIf fun _ => rfl
    _ = s.fixed := rfl

@[simp] theorem fixed_loadPlan (s : State) (img : Nat) : (loadPlan s img).fixed = s.fixed := by
  refine (fixed_foldl fun s i => ?_).trans ?_ <;> rfl

@[simp] theorem fixed_loadPolicy (img p : Nat) (s : State) : (loadPolicy img p s).fixed = s.fixed := by simp [loadPolicy]

@[simp] theorem fixed_loadConfig (s : State) (img : Nat) (b : Bool) : (loadConfig s img b).fixed = s.fixed := by simp [loadConfig]

@[simp] theorem fixed_makePartition (s : State) (p : Nat) (r : BitVec 1024) : (makePartition s p r).fixed = s.fixed := by simp [makePartition]

@[simp] theorem fixed_makePartitions (s : State) (img : Nat) : (makePartitions s img).fixed = s.fixed := by simp [makePartitions]

/-! ### Firmware -/

@[simp] theorem State.fixed_updFw (s : State) (f : Fw → Fw) : (s.updFw f).fixed = s.fixed := by simp [State.updFw]

@[simp] theorem State.factory_updFw (s : State) (f : Fw → Fw) : (s.updFw f).sys.factory = s.sys.factory := rfl

@[simp] theorem fixed_writeDir (s : State) (d : FwDir) : (writeDir s d).fixed = s.fixed := by simp [writeDir]

@[simp] theorem fixed_clearAlt (s : State) : (clearAlt s).fixed = s.fixed := by simp [clearAlt]

@[simp] theorem fixed_romBoot (s0 : State) : (romBoot s0).fixed = s0.fixed := by
  simp only [romBoot]
  split <;> simp

@[simp] theorem fixed_convertSettings (s : State) (img : Nat) : (convertSettings s img).1.fixed = s.fixed := by
  simp only [convertSettings]
  (repeat' split) <;> simp

@[simp] theorem fixed_fwEnd (s : State) (body : Option (BitVec 512)) (code : Nat) (payload : List (Nat × Nat × Nat)) : (fwEnd s body code payload).fixed = s.fixed := by
  unfold fwEnd
  split <;> simp

@[simp] theorem fixed_fwAnswer (s : State) (m : MbxMsg) (code : Nat) (sig : Bool) : (fwAnswer s m code sig).fixed = s.fixed := by simp [fwAnswer]

theorem keeps_execFwStage (s : State) : Keeps s (execFwStage s) := by
  unfold execFwStage
  split <;> simp

@[simp] theorem fixed_stageDone (s : State) (pkg : Option PkgIn) (progOk : Bool) : (stageDone s pkg progOk).fixed = s.fixed := by
  unfold stageDone
  (repeat' split) <;> simp

theorem keeps_execFwStageComplete (pkg : Option PkgIn) (progOk : Bool) (s : State) : Keeps s (execFwStageComplete pkg progOk s) := by simp [execFwStageComplete]

@[simp] theorem fixed_endAct (s : State) (a : FwAct) : (endAct s a).fixed = s.fixed := by
  unfold endAct
  split <;> simp

@[simp] theorem fixed_nextKind (s : State) (a : FwAct) (ks : List Nat) : (nextKind s a ks).fixed = s.fixed := by
  induction ks generalizing s with
  | nil => simp [nextKind]
  | cons k r ih =>
    simp only [nextKind]
    (repeat' split) <;> simp [ih]

@[simp] theorem fixed_beginAct (s : State) (a : FwAct) : (beginAct s a).fixed = s.fixed := by simp [beginAct]

@[simp] theorem fixed_fwNotices (s : State) (cancel : Bool) (time : Dword) (sig : BitVec 768) : (fwNotices s cancel time sig).fixed = s.fixed := by
  refine fixed_foldl fun s x => ?_
  split <;> simp

@[simp] theorem fixed_cancelAct (s : State) (code : Nat) : (cancelAct s code).fixed = s.fixed := by
  unfold cancelAct
  split <;> simp

@[simp] theorem fixed_cancelRig (s : State) (a : FwAct) : (cancelRig s a).fixed = s.fixed := by simp [cancelRig]

theorem keeps_execFwActivate (t : Dword) (s0 : State) : Keeps s0 (execFwActivate t s0) := by
  simp only [execFwActivate]
  (repeat' split) <;> simp

theorem keeps_execFwActTime (t : Dword) (s : State) : Keeps s (execFwActTime t s) := by
  unfold execFwActTime
  split <;> simp

theorem keeps_execFwRigNoticeDeadline (t : Dword) (s0 : State) : Keeps s0 (execFwRigNoticeDeadline t s0) := by
  unfold execFwRigNoticeDeadline
  split <;> simp

theorem keeps_execFwActivationNotice (peer : Dword) (cancel : Bool) (time : Dword) (sig : BitVec 768) (t : Dword) (s0 : State) :
    Keeps s0 (execFwActivationNotice peer cancel time sig t s0) := by
  simp only [execFwActivationNotice]
  (repeat' split) <;> simp

theorem keeps_execFwAbort (t : Dword) (s0 : State) : Keeps s0 (execFwAbort t s0) := by
  simp only [execFwAbort]
  (repeat' split) <;> simp

@[simp] theorem fixed_kindDone (s : State) (a : FwAct) : (kindDone s a).fixed = s.fixed := by simp [kindDone]

theorem keeps_execMhSwitchDone (s : State) : Keeps s (execMhSwitchDone s) := by
  simp only [execMhSwitchDone]
  (repeat' split) <;> simp

@[simp] theorem fixed_fcNext (s : State) (a : FwAct) : (fcNext s a).fixed = s.fixed := by simp [fcNext]

theorem keeps_execFcFieldActivate (n : Fin 48) (ends : Bool) (t : Dword) (s0 : State) : Keeps s0 (execFcFieldActivate n ends t s0) := by
  simp only [execFcFieldActivate]
  split <;> simp

theorem keeps_execRioActivateDone (i : Fin 4) (s : State) : Keeps s (execRioActivateDone i s) := by
  unfold execRioActivateDone
  split <;> simp

theorem keeps_execFwConfirm (progOk : Bool) (s : State) : Keeps s (execFwConfirm progOk s) := by
  unfold execFwConfirm
  split <;> simp

@[simp] theorem fixed_revertKinds (s : State) (ks : List Nat) : (revertKinds s ks).fixed = s.fixed := by simp [revertKinds]

theorem keeps_execFwRevert (t : Dword) (s0 : State) : Keeps s0 (execFwRevert t s0) := by
  unfold execFwRevert
  split <;> simp

theorem keeps_execFwFallback (progOk : Bool) (s : State) : Keeps s (execFwFallback progOk s) := by
  simp only [execFwFallback]
  (repeat' split) <;> simp

@[simp] theorem fixed_autoReverted (s : State) : (autoReverted s).fixed = s.fixed := by simp [autoReverted]

theorem keeps_execFwMhTrialTimeout (t : Dword) (s0 : State) : Keeps s0 (execFwMhTrialTimeout t s0) := by simp [execFwMhTrialTimeout]

theorem keeps_execFcHeartbeatLoss (n : Fin 48) (t : Dword) (s0 : State) : Keeps s0 (execFcHeartbeatLoss n t s0) := by simp [execFcHeartbeatLoss]

/-! ### Start-up -/

@[simp] theorem fixed_railsOn (s : State) : (railsOn s).fixed = s.fixed := by simp [railsOn]

@[simp] theorem fixed_startRecorder (s : State) (kept : Bool) : (startRecorder s kept).fixed = s.fixed := by simp [startRecorder]

@[simp] theorem fixed_enterSafe (s : State) : (enterSafe s).fixed = s.fixed := by simp [enterSafe]

@[simp] theorem fixed_stepFour (s : State) (i : StartIn) : (stepFour s i).fixed = s.fixed := by simp [stepFour]

@[simp] theorem fixed_stepFive (s : State) : (stepFive s).fixed = s.fixed := by
  simp only [stepFive]
  split <;> simp

@[simp] theorem fixed_stepSix (s : State) (i : StartIn) : (stepSix s i).fixed = s.fixed := by simp [stepSix]

@[simp] theorem fixed_startGlide (s : State) (k : Nat) : (startGlide s k).fixed = s.fixed := by simp [startGlide]

@[simp] theorem fixed_stepSeven (s : State) : (stepSeven s).fixed = s.fixed := by simp [stepSeven]

@[simp] theorem fixed_stepEight (s : State) (i : StartIn) : (stepEight s i).fixed = s.fixed := by simp [stepEight]

@[simp] theorem fixed_startField (ts : List TestFail) (s : State) (n : Nat) : (startField ts s n).fixed = s.fixed := by simp [startField]

@[simp] theorem fixed_stepNine (s : State) : (stepNine s).fixed = s.fixed := by simp [stepNine]

@[simp] theorem fixed_stepTen (s : State) : (stepTen s).fixed = s.fixed := by simp [stepTen]

@[simp] theorem fixed_stepEleven (s : State) : (stepEleven s).fixed = s.fixed := by simp [stepEleven]

@[simp] theorem fixed_goReady (s : State) (t : Dword) : (goReady s t).fixed = s.fixed := by simp [goReady]

theorem keeps_execStartUpStepDone (i : StartIn) (t : Dword) (s0 : State) : Keeps s0 (execStartUpStepDone i t s0) := by
  simp only [execStartUpStepDone]
  (repeat' split) <;> simp

/-! ### Registers -/

theorem keeps_execElogPop (l : LogSel) (s : State) : Keeps s (execElogPop l s) := by
  unfold execElogPop
  split <;> simp

theorem keeps_execViolRecordClear (core : Fin 9216) (s : State) : Keeps s (execViolRecordClear core s) := by simp [execViolRecordClear]

theorem keeps_execIllRecordClear (core : Fin 9216) (s : State) : Keeps s (execIllRecordClear core s) := by simp [execIllRecordClear]

theorem keeps_execMstCtrlWrite (w : Word) (s : State) : Keeps s (execMstCtrlWrite w s) := by simp [execMstCtrlWrite]

@[simp] theorem fixed_rrWrite (s : State) (p : Nat) (f : RingRead → RingRead) : (rrWrite s p f).fixed = s.fixed := by simp [rrWrite]

@[simp] theorem fixed_stageWrite (s : State) (p : Nat) (f : Staging → Staging) : (stageWrite s p f).fixed = s.fixed := by simp [stageWrite]

@[simp] theorem fixed_regWrite (s : State) (r : RegWrite) : (regWrite s r).fixed = s.fixed := by
  unfold regWrite
  split <;> simp

theorem keeps_execRegisterWrite (r : RegWrite) (s : State) : Keeps s (execRegisterWrite r s) := by simp [execRegisterWrite]

@[simp] theorem fixed_sampleCore (s : State) (m : Nat) : (sampleCore s m).fixed = s.fixed := by simp [sampleCore]

@[simp] theorem fixed_sampleTier (s : State) (m k : Nat) : (sampleTier s m k).fixed = s.fixed := by
  unfold sampleTier
  split <;> simp

@[simp] theorem fixed_sampleSwal (s : State) (p : Nat) : (sampleSwal s p).fixed = s.fixed := by simp [sampleSwal]

@[simp] theorem fixed_sampleDrops (s : State) : (sampleDrops s).fixed = s.fixed := by simp [sampleDrops]

theorem keeps_execEvrSecondSample (t : Dword) (s0 : State) : Keeps s0 (execEvrSecondSample t s0) := by simp [execEvrSecondSample]

/-! ### Buses and failed reads -/

@[simp] theorem State.fixed_updPins (s : State) (f : Pins → Pins) : (s.updPins f).fixed = s.fixed := by simp [State.updPins]

@[simp] theorem State.factory_updPins (s : State) (f : Pins → Pins) : (s.updPins f).sys.factory = s.sys.factory := rfl

theorem keeps_execPldmGetPdr (handle : Nat) (s : State) : Keeps s (execPldmGetPdr handle s) := by simp [execPldmGetPdr]

theorem keeps_execPldmGetSensorReading (x : Sensor) (s : State) : Keeps s (execPldmGetSensorReading x s) := by simp [execPldmGetSensorReading]

theorem keeps_execI3cDynamicAddress (crow : Bool) (addr : Fin 128) (s : State) : Keeps s (execI3cDynamicAddress crow addr s) := by simp [execI3cDynamicAddress]

@[simp] theorem fixed_setPort (s : State) (i : Nat) (up : Bool) : (setPort s i up).fixed = s.fixed := by simp [setPort]

theorem keeps_execEthernetLinkDown (i : Fin 2) (s : State) : Keeps s (execEthernetLinkDown i s) := by simp [execEthernetLinkDown]

theorem keeps_execEthernetLinkUp (i : Fin 2) (s : State) : Keeps s (execEthernetLinkUp i s) := by simp [execEthernetLinkUp]

theorem keeps_execEthernetFrame (i : Fin 2) (_use : EthUse) (len : Fin 9217) (s : State) : Keeps s (execEthernetFrame i _use len s) := by simp [execEthernetFrame]

theorem keeps_execPtpMessage (i : Fin 2) (now : Dword) (t : Dword) (s0 : State) : Keeps s0 (execPtpMessage i now t s0) := by
  simp only [execPtpMessage]
  (repeat' split) <;> simp

@[simp] theorem fixed_promptReadFails (s : State) (p q : Nat) (sub : BitVec 512) (t : Dword) : (promptReadFails s p q sub t).fixed = s.fixed := by simp [promptReadFails]

theorem keeps_execHostReadTimeout (r : ReadItem) (t : Dword) (s0 : State) : Keeps s0 (execHostReadTimeout r t s0) := by
  unfold execHostReadTimeout
  split <;> simp

/-! ### The sampler -/

theorem keeps_execVsmpRng (q : Issue) (w : BitVec 44) (s : State) : Keeps s (execVsmpRng q w s) := by simp [execVsmpRng]

theorem keeps_execVsmpTemp (q : Issue) (w : BitVec 44) (s : State) : Keeps s (execVsmpTemp q w s) := by simp [execVsmpTemp]

theorem keeps_execVsmpTopk (q : Issue) (w : BitVec 44) (s : State) : Keeps s (execVsmpTopk q w s) := by simp [execVsmpTopk]

theorem keeps_execVsmpTopp (q : Issue) (w : BitVec 44) (s : State) : Keeps s (execVsmpTopp q w s) := by simp [execVsmpTopp]

theorem keeps_execVsmpAmask (q : Issue) (w : BitVec 44) (s : State) : Keeps s (execVsmpAmask q w s) := by simp [execVsmpAmask]

theorem keeps_execVsmpDraw (q : Issue) (w : BitVec 44) (s : State) : Keeps s (execVsmpDraw q w s) := by simp [execVsmpDraw]

theorem keeps_execVsmpAccept (q : Issue) (w : BitVec 44) (s : State) : Keeps s (execVsmpAccept q w s) := by simp [execVsmpAccept]

theorem keeps_execVsmpCommit (q : Issue) (wt : Timed (BitVec 44)) (s : State) : Keeps s (execVsmpCommit q wt s) := by simp [execVsmpCommit]

/-! ### Every command -/

theorem keeps_exec (c : Instr) (s : State) : Keeps s (exec c s) := by
  cases c with
  | snop q w => exact keeps_execSnop q w s
  | mldw q w => exact keeps_execMldw q w s
  | mmul q w upset => exact keeps_execMmul q w upset s
  | maccl q w => exact keeps_execMaccl q w s
  | sdist q w upset => exact keeps_execSdist q w upset s
  | smax q w => exact keeps_execSmax q w s
  | smin q w => exact keeps_execSmin q w s
  | srank q w => exact keeps_execSrank q w s
  | sthr q w => exact keeps_execSthr q w s
  | vnop q w => exact keeps_execVnop q w s
  | vadd q w => exact keeps_execVadd q w s
  | vsub q w => exact keeps_execVsub q w s
  | vmul q w => exact keeps_execVmul q w s
  | vfma q w => exact keeps_execVfma q w s
  | vmin q w => exact keeps_execVmin q w s
  | vmax q w => exact keeps_execVmax q w s
  | vcmp q w => exact keeps_execVcmp q w s
  | vsel q w => exact keeps_execVsel q w s
  | vcvt q w => exact keeps_execVcvt q w s
  | vexp q w => exact keeps_execVexp q w s
  | vlog q w => exact keeps_execVlog q w s
  | vrcp q w => exact keeps_execVrcp q w s
  | vrsq q w => exact keeps_execVrsq q w s
  | vsqrt q w => exact keeps_execVsqrt q w s
  | vrsum q w => exact keeps_execVrsum q w s
  | vrmax q w => exact keeps_execVrmax q w s
  | vrmin q w => exact keeps_execVrmin q w s
  | vld q w => exact keeps_execVld q w s
  | vst q w => exact keeps_execVst q w s
  | vdrn q w => exact keeps_execVdrn q w s
  | vsca q w => exact keeps_execVsca q w s
  | vkey q w => exact keeps_execVkey q w s
  | vmask q w => exact keeps_execVmask q w s
  | vsmpRng q w => exact keeps_execVsmpRng q w s
  | vsmpTemp q w => exact keeps_execVsmpTemp q w s
  | vsmpTopk q w => exact keeps_execVsmpTopk q w s
  | vsmpTopp q w => exact keeps_execVsmpTopp q w s
  | vsmpAmask q w => exact keeps_execVsmpAmask q w s
  | vsmpDraw q w => exact keeps_execVsmpDraw q w s
  | vsmpAccept q w => exact keeps_execVsmpAccept q w s
  | vsmpCommit q w => exact keeps_execVsmpCommit q w s
  | mnop q w => exact keeps_execMnop q w s
  | mrd q w => exact keeps_execMrd q w s
  | mwr q w => exact keeps_execMwr q w s
  | msend q w => exact keeps_execMsend q w s
  | mfill q w => exact keeps_execMfill q w s
  | mcopy q w => exact keeps_execMcopy q w s
  | rsend q w => exact keeps_execRsend q w s
  | merge q w => exact keeps_execMerge q w s
  | mrel q w => exact keeps_execMrel q w s
  | kvapq q w => exact keeps_execKvapq q w s
  | xdisp q w => exact keeps_execXdisp q w s
  | cnop q w => exact keeps_execCnop q w s
  | sli q w => exact keeps_execSli q w s
  | slih q w => exact keeps_execSlih q w s
  | sadd q w => exact keeps_execSadd q w s
  | ssub q w => exact keeps_execSsub q w s
  | smul q w => exact keeps_execSmul q w s
  | sand q w => exact keeps_execSand q w s
  | sor q w => exact keeps_execSor q w s
  | sxor q w => exact keeps_execSxor q w s
  | sshl q w => exact keeps_execSshl q w s
  | sshr q w => exact keeps_execSshr q w s
  | slds q w => exact keeps_execSlds q w s
  | ssts q w => exact keeps_execSsts q w s
  | br q w => exact keeps_execBr q w s
  | jmp q w => exact keeps_execJmp q w s
  | loop q w => exact keeps_execLoop q w s
  | waitc q w => exact keeps_execWaitc q w s
  | seqadv q w => exact keeps_execSeqadv q w s
  | hand q w => exact keeps_execHand q w s
  | hset q w => exact keeps_execHset q w s
  | vpat q w => exact keeps_execVpat q w s
  | phase q w => exact keeps_execPhase q w s
  | escm q w => exact keeps_execEscm q w s
  | refw q w found => exact keeps_execRefw q w found s
  | svcw q w => exact keeps_execSvcw q w s
  | wstep q w => exact keeps_execWstep q w s
  | tileLoadDone core sail => exact keeps_execTileLoadDone core sail s
  | mastRowLand core ecc => exact keeps_execMastRowLand core ecc s
  | mastWriteAck core => exact keeps_execMastWriteAck core s
  | kvapqAck core found => exact keeps_execKvapqAck core found s
  | outsideMastAccess core write mark part row data => exact keeps_execOutsideMastAccess core write mark part row data s
  | meshFlitArrive i o => exact keeps_execMeshFlitArrive i o s
  | deliveryCreditReturn core trk => exact keeps_execDeliveryCreditReturn core trk s
  | vc0MessageDeliver i => exact keeps_execVc0MessageDeliver i s
  | reductionFlitArrive i => exact keeps_execReductionFlitArrive i s
  | reductionAddDone core tree fidx tag => exact keeps_execReductionAddDone core tree fidx tag s
  | mergeRequestArrive i => exact keeps_execMergeRequestArrive i s
  | mergeEntryClose core group tag => exact keeps_execMergeEntryClose core group tag s
  | rowNormCheck core sail row => exact keeps_execRowNormCheck core sail row s
  | escalationPassEnd core sail found upset => exact keeps_execEscalationPassEnd core sail found upset s
  | escalationRestoreDone core sail => exact keeps_execEscalationRestoreDone core sail s
  | overflowDispatchDone n => exact keeps_execOverflowDispatchDone n s
  | overflowRoutineDone n => exact keeps_execOverflowRoutineDone n s
  | luffStallBegin p => exact keeps_execLuffStallBegin p s
  | luffItemEnd p i => exact keeps_execLuffItemEnd p i s
  | luffLineDrop p => exact keeps_execLuffLineDrop p s
  | luffTimeout p n => exact keeps_execLuffTimeout p n s
  | stepEndBoundary p t => exact keeps_execStepEndBoundary p t s
  | stepStartBoundary p t => exact keeps_execStepStartBoundary p t s
  | idleBoundary p t => exact keeps_execIdleBoundary p t s
  | imageCurrentWindow core mean => exact keeps_execImageCurrentWindow core mean s
  | refreshDebtTick core tier => exact keeps_execRefreshDebtTick core tier s
  | refreshCatchup core tier => exact keeps_execRefreshCatchup core tier s
  | hotOffDwellExpire p => exact keeps_execHotOffDwellExpire p s
  | tlbMap core rid vpn pgn wr => exact keeps_execTlbMap core rid vpn pgn wr s
  | tlbUnmap core rid vpn => exact keeps_execTlbUnmap core rid vpn s
  | tlbRelease core rid => exact keeps_execTlbRelease core rid s
  | tlbRebuild core => exact keeps_execTlbRebuild core s
  | pageInit core rid vpn pgn => exact keeps_execPageInit core rid vpn pgn s
  | columnCopyDone n col bad => exact keeps_execColumnCopyDone n col bad s
  | seamLaneLockLoss k l => exact keeps_execSeamLaneLockLoss k l s
  | seamErrorWindow k l x => exact keeps_execSeamErrorWindow k l x s
  | seamRetrainDone k l badLanes => exact keeps_execSeamRetrainDone k l badLanes s
  | fixedHopEnter fields => exact keeps_execFixedHopEnter fields s
  | fixedHopDrainDone n => exact keeps_execFixedHopDrainDone n s
  | fixedHopDrainTimeout n => exact keeps_execFixedHopDrainTimeout n s
  | fixedHopStartTick fields t => exact keeps_execFixedHopStartTick fields t s
  | fixedHopExitTick fields t => exact keeps_execFixedHopExitTick fields t s
  | hopTableLoad router t => exact keeps_execHopTableLoad router t s
  | sheetTensorFrame i h dst fl => exact keeps_execSheetTensorFrame i h dst fl s
  | sheetCreditFrame i h => exact keeps_execSheetCreditFrame i h s
  | sheetGateFrame i h => exact keeps_execSheetGateFrame i h s
  | sheetEndStampFrame i h recs => exact keeps_execSheetEndStampFrame i h recs s
  | sheetNoticeFrame i h what ok e => exact keeps_execSheetNoticeFrame i h what ok e s
  | sheetIdentFrame i serial port peerGood agrees => exact keeps_execSheetIdentFrame i serial port peerGood agrees s
  | sheetTimeFrame i h recv => exact keeps_execSheetTimeFrame i h recv s
  | sheetWaitArm p rank route => exact keeps_execSheetWaitArm p rank route s
  | gateDueArm p => exact keeps_execGateDueArm p s
  | sheetPortLinkUp i => exact keeps_execSheetPortLinkUp i s
  | sheetPortLinkDown i => exact keeps_execSheetPortLinkDown i s
  | cablingVerdictTimeout i => exact keeps_execCablingVerdictTimeout i s
  | timeExchangeTick => exact keeps_execTimeExchangeTick s
  | timeHoldTimeout => exact keeps_execTimeHoldTimeout s
  | sliceStampLate p r => exact keeps_execSliceStampLate p r s
  | sliceLossTimeout p r => exact keeps_execSliceLossTimeout p r s
  | stampWaitTimeout p r => exact keeps_execStampWaitTimeout p r s
  | sqDoorbell p q tail => exact keeps_execSqDoorbell p q tail s
  | openReq p q sub prompt t => exact keeps_execOpen p q sub prompt t s
  | continueReq p q sub prompt t => exact keeps_execContinue p q sub prompt t s
  | cancelReq p q sub t => exact keeps_execCancel p q sub t s
  | closeReq p q sub t => exact keeps_execClose p q sub t s
  | parkReq p q sub t => exact keeps_execPark p q sub t s
  | completionRecordWrite p t => exact keeps_execCompletionRecordWrite p t s
  | cqHeadWrite p head => exact keeps_execCqHeadWrite p head s
  | sqCfgWrite p q base size en => exact keeps_execSqCfgWrite p q base size en s
  | cqCfgWrite p base size en => exact keeps_execCqCfgWrite p base size en s
  | parkPageWriteDone e o t => exact keeps_execParkPageWriteDone e o t s
  | unparkPageArrive e o => exact keeps_execUnparkPageArrive e o s
  | stayLinkDown i t => exact keeps_execStayLinkDown i t s
  | stayLinkUp i fast typeOk lanes cap retries => exact keeps_execStayLinkUp i fast typeOk lanes cap retries s
  | stayRequestTimeout i e t => exact keeps_execStayRequestTimeout i e t s
  | outputQueueToken slot => exact keeps_execOutputQueueToken slot s
  | streamRecordWrite p r parity sideBad => exact keeps_execStreamRecordWrite p r parity sideBad s
  | srHeadWrite p r head => exact keeps_execSrHeadWrite p r head s
  | srCfgWrite p r base size en => exact keeps_execSrCfgWrite p r base size en s
  | stmFlushGo byVf slot => exact keeps_execStmFlushGo byVf slot s
  | ringReadGo p byPf => exact keeps_execRingReadGo p byPf s
  | ringReadDone p n bad => exact keeps_execRingReadDone p n bad s
  | stopSetLoad p index => exact keeps_execStopSetLoad p index s
  | autoLoad p file => exact keeps_execAutoLoad p file s
  | tallyStartSend t => exact keeps_execTallyStartSend t s
  | tallyMarkSend t => exact keeps_execTallyMarkSend t s
  | meterTallyStart ok0 ok1 => exact keeps_execMeterTallyStart ok0 ok1 s
  | meterTallyTokens ok0 ok1 => exact keeps_execMeterTallyTokens ok0 ok1 s
  | meterTallyMark ok0 ok1 => exact keeps_execMeterTallyMark ok0 ok1 s
  | meterTallyClose ok0 ok1 mt r => exact keeps_execMeterTallyClose ok0 ok1 mt r s
  | meterInputLoss mt r => exact keeps_execMeterInputLoss mt r s
  | meterPowerUp restarted fresh mt => exact keeps_execMeterPowerUp restarted fresh mt s
  | meterIntervalEnd r => exact keeps_execMeterIntervalEnd r s
  | meterSealEvent => exact keeps_execMeterSealEvent s
  | cnmFetchGo present bus => exact keeps_execCnmFetchGo present bus s
  | cnmIntervalWrite v => exact keeps_execCnmIntervalWrite v s
  | clkStepReqWrite v => exact keeps_execClkStepReqWrite v s
  | glideEnd t => exact keeps_execGlideEnd t s
  | cornerLockLoss n corner t => exact keeps_execCornerLockLoss n corner t s
  | fieldRelock n t => exact keeps_execFieldRelock n t s
  | relockTimeout n t => exact keeps_execRelockTimeout n t s
  | fieldLockTimeout n t => exact keeps_execFieldLockTimeout n t s
  | refOscCheck stopA stopB stopM dAB dAM dBM t => exact keeps_execRefOscCheck stopA stopB stopM dAB dAM dBM t s
  | refHoldTimeout t => exact keeps_execRefHoldTimeout t s
  | timeBaseSync t => exact keeps_execTimeBaseSync t s
  | clkTbSetGo t => exact keeps_execClkTbSetGo t s
  | clkTbLoRead f t => exact keeps_execClkTbLoRead f t s
  | slewDone t => exact keeps_execSlewDone t s
  | hostSwalWrite p v => exact keeps_execHostSwalWrite p v s
  | inputValid => exact keeps_execInputValid s
  | pinReset t => exact keeps_execPinReset t s
  | hostRestart key t => exact keeps_execHostRestart key t s
  | mastheadWatchdog flushed => exact keeps_execMastheadWatchdog flushed s
  | inputLoss volt t => exact keeps_execInputLoss volt t s
  | holdupFieldsOff t => exact keeps_execHoldupFieldsOff t s
  | holdupRimOff t => exact keeps_execHoldupRimOff t s
  | inputDip => exact keeps_execInputDip s
  | inputLow volt t => exact keeps_execInputLow volt t s
  | inputHigh volt t => exact keeps_execInputHigh volt t s
  | avsTrimTick core margin => exact keeps_execAvsTrimTick core margin s
  | timingNearMiss core => exact keeps_execTimingNearMiss core s
  | slowCoreTimeout core t => exact keeps_execSlowCoreTimeout core t s
  | powerPolicyTick i t => exact keeps_execPowerPolicyTick i t s
  | phaseFailure core phase value t => exact keeps_execPhaseFailure core phase value t s
  | regulatorFailure core value t => exact keeps_execRegulatorFailure core value t s
  | coreShort core value t => exact keeps_execCoreShort core value t s
  | converterFailure k value t => exact keeps_execConverterFailure k value t s
  | fieldSupplyShort n value t => exact keeps_execFieldSupplyShort n value t s
  | rimConverterFailure i value t => exact keeps_execRimConverterFailure i value t s
  | phaseLimitExpire core t => exact keeps_execPhaseLimitExpire core t s
  | quietWindowGrant n peaks t => exact keeps_execQuietWindowGrant n peaks t s
  | grantTimeout n t => exact keeps_execGrantTimeout n t s
  | fieldRampTimeout n value t => exact keeps_execFieldRampTimeout n value t s
  | coreSensorSample core diode ring t => exact keeps_execCoreSensorSample core diode ring t s
  | tierSensorSample core tier reading t => exact keeps_execTierSensorSample core tier reading t s
  | disagreeTimeout core t => exact keeps_execDisagreeTimeout core t s
  | stage1Release core t => exact keeps_execStage1Release core t s
  | thermalDemandTick t => exact keeps_execThermalDemandTick t s
  | thermalTrip n core tier value t => exact keeps_execThermalTrip n core tier value t s
  | trayPoll r t => exact keeps_execTrayPoll r t s
  | gatingTick t => exact keeps_execGatingTick t s
  | strikeRestoreDeadline t => exact keeps_execStrikeRestoreDeadline t s
  | spareCheckDone n col pass => exact keeps_execSpareCheckDone n col pass s
  | columnTestDone n pass => exact keeps_execColumnTestDone n pass s
  | hostFlr f link t => exact keeps_execHostFlr f link t s
  | hostPerst link => exact keeps_execHostPerst link s
  | hostLinkDown link => exact keeps_execHostLinkDown link s
  | hostLinkUp link rate width flit => exact keeps_execHostLinkUp link rate width flit s
  | msixUnmask f v => exact keeps_execMsixUnmask f v s
  | coalesceExpire f v => exact keeps_execCoalesceExpire f v s
  | mbxOutGo f link => exact keeps_execMbxOutGo f link s
  | mbxTake f => exact keeps_execMbxTake f s
  | mbxReplyWrite f => exact keeps_execMbxReplyWrite f s
  | mbxInDone f => exact keeps_execMbxInDone f s
  | dblStatClear f w => exact keeps_execDblStatClear f w s
  | dblMaskWrite f w => exact keeps_execDblMaskWrite f w s
  | info f => exact keeps_execInfo f s
  | partitionReset p t => exact keeps_execPartitionReset p t s
  | hoist p byVf t => exact keeps_execHoist p byVf t s
  | unload p byVf t => exact keeps_execUnload p byVf t s
  | hoistAbort p byVf t => exact keeps_execHoistAbort p byVf t s
  | hoistQueueTake p inp t => exact keeps_execHoistQueueTake p inp t s
  | halyardSegment p seg t => exact keeps_execHalyardSegment p seg t s
  | unloadDrainLimit p slot t => exact keeps_execUnloadDrainLimit p slot t s
  | unloadEraseDone p slot t => exact keeps_execUnloadEraseDone p slot t s
  | getVersion a => exact keeps_execGetVersion a s
  | getCapabilities a ver => exact keeps_execGetCapabilities a ver s
  | negotiateAlgorithms a offers => exact keeps_execNegotiateAlgorithms a offers s
  | getDigests a => exact keeps_execGetDigests a s
  | getCertificate a slot offset len => exact keeps_execGetCertificate a slot offset len s
  | challenge a slot transcript => exact keeps_execChallenge a slot transcript s
  | getMeasurements a index sign transcript => exact keeps_execGetMeasurements a index sign transcript s
  | keyExchange a slot transcript => exact keeps_execKeyExchange a slot transcript s
  | finish a id good => exact keeps_execFinish a id good s
  | endSession a id => exact keeps_execEndSession a id s
  | heartbeat a id => exact keeps_execHeartbeat a id s
  | chunkSend a handle seq last => exact keeps_execChunkSend a handle seq last s
  | chunkGet a seq => exact keeps_execChunkGet a seq s
  | ideKm id link k op fns => exact keeps_execIdeKm id link k op fns s
  | keyExch p req => exact keeps_execKeyExch p req s
  | keyClear p req => exact keeps_execKeyClear p req s
  | signkey point => exact keeps_execSignkey point s
  | drbgReseed healthy => exact keeps_execDrbgReseed healthy s
  | cfgCopyGo copy link => exact keeps_execCfgCopyGo copy link s
  | cfgCopyDone img progOk => exact keeps_execCfgCopyDone img progOk s
  | rwpWrite i v => exact keeps_execRwpWrite i v s
  | rwpRecordProgrammed ok0 ok1 => exact keeps_execRwpRecordProgrammed ok0 ok1 s
  | fwStage => exact keeps_execFwStage s
  | fwStageComplete pkg progOk => exact keeps_execFwStageComplete pkg progOk s
  | fwActivate t => exact keeps_execFwActivate t s
  | fwActTime t => exact keeps_execFwActTime t s
  | fcFieldActivate n ends t => exact keeps_execFcFieldActivate n ends t s
  | fwRigNoticeDeadline t => exact keeps_execFwRigNoticeDeadline t s
  | fwActivationNotice peer cancel time sig t => exact keeps_execFwActivationNotice peer cancel time sig t s
  | fwConfirm progOk => exact keeps_execFwConfirm progOk s
  | fwRevert t => exact keeps_execFwRevert t s
  | fwAbort t => exact keeps_execFwAbort t s
  | fwFallback progOk => exact keeps_execFwFallback progOk s
  | fwMhTrialTimeout t => exact keeps_execFwMhTrialTimeout t s
  | fcHeartbeatLoss n t => exact keeps_execFcHeartbeatLoss n t s
  | evrFreeze t => exact keeps_execEvrFreeze t s
  | evrThaw t => exact keeps_execEvrThaw t s
  | evrDump => exact keeps_execEvrDump s
  | evrClear => exact keeps_execEvrClear s
  | evrFlush t => exact keeps_execEvrFlush t s
  | evrFreezeLimit t => exact keeps_execEvrFreezeLimit t s
  | evrPeriodicFlush t => exact keeps_execEvrPeriodicFlush t s
  | evrFaultFlushSpacing t => exact keeps_execEvrFaultFlushSpacing t s
  | evrHsrcWrite h w => exact keeps_execEvrHsrcWrite h w s
  | evrSecondSample t => exact keeps_execEvrSecondSample t s
  | elogPop l => exact keeps_execElogPop l s
  | violRecordClear core => exact keeps_execViolRecordClear core s
  | illRecordClear core => exact keeps_execIllRecordClear core s
  | mstCtrlWrite w => exact keeps_execMstCtrlWrite w s
  | thmCtrlWrite w => exact keeps_execThmCtrlWrite w s
  | badRegisterAccess via => exact keeps_execBadRegisterAccess via s
  | registerWrite r => exact keeps_execRegisterWrite r s
  | pldmGetPdr handle => exact keeps_execPldmGetPdr handle s
  | pldmGetSensorReading x => exact keeps_execPldmGetSensorReading x s
  | i3cDynamicAddress crow addr => exact keeps_execI3cDynamicAddress crow addr s
  | ptpMessage i now t => exact keeps_execPtpMessage i now t s
  | startUpStepDone i t => exact keeps_execStartUpStepDone i t s
  | sequencerSaveDone core sail => exact keeps_execSequencerSaveDone core sail s
  | fillCopyDone core => exact keeps_execFillCopyDone core s
  | pcieConfigWrite link f master sriov numVfs => exact keeps_execPcieConfigWrite link f master sriov numVfs s
  | mbxOutDataWrite f i v => exact keeps_execMbxOutDataWrite f i v s
  | holdupStoreCharged => exact keeps_execHoldupStoreCharged s
  | ethernetLinkDown i => exact keeps_execEthernetLinkDown i s
  | ethernetLinkUp i => exact keeps_execEthernetLinkUp i s
  | ethernetFrame i use len => exact keeps_execEthernetFrame i use len s
  | hostReadTimeout r t => exact keeps_execHostReadTimeout r t s
  | recorderFlushDone ok0 ok1 t => exact keeps_execRecorderFlushDone ok0 ok1 t s
  | mhSwitchDone => exact keeps_execMhSwitchDone s
  | rioActivateDone i => exact keeps_execRioActivateDone i s

/-- Settles O57: `step` runs the front command on the module with the rest of the queue, and no command changes `State.fixed`. -/
theorem stepKeepsQueueAndFactory : Obligations.StepKeepsQueueAndFactory := by
  intro c r s t h
  obtain ⟨u, hu, hf⟩ := keeps_exec c { s with pending := r }
  cases hu.symm.trans h
  exact (State.fixed_eq_iff _ _).1 hf

end Sys2Proof.Machine
namespace Sys2Proof.Machine

/-!
## Registers, locks and the buses beside the host links (O56)

First what a command does that updates one core, one partition or one request engine; then the registers, the buses, Ethernet and IEEE 1588, and the reads that fail, each
command with the state that it leaves.
-/

theorem onlyOneCore_updCore {m : Nat} {C : Core → Core → Prop} {s : State} {f : Core → Core} (h : C (s.core m) (f (s.core m))) : onlyOneCore m C s (s.updCore m f) :=
  ⟨rfl, fun _ hj => s.core_updCore_ne f hj, by rwa [State.core_updCore_same]⟩

theorem onlyPart_updPart (p : Nat) (s : State) (f : Part → Part) : onlyPart p s (s.updPart p f) := ⟨rfl, fun _ h => s.part_updPart_ne f h⟩

theorem onlyReq_updReq (p : Nat) (s : State) (f : ReqPart → ReqPart) : onlyReq p s (s.updReq p f) := by
  refine ⟨rfl, fun _ h => s.part_updPart_ne _ h, ?_⟩
  rw [State.updReq, State.part_updPart_same]
  rfl

theorem part_updClk (s : State) (f : Clk → Clk) (p : Nat) : (s.updClk f).part p = s.part p := rfl

/-! ### Logs, records and registers -/

theorem elogPop_part (s : State) (p : Fin 64) :
    Does (.elogPop (.part p)) s (fun u => u.part p = { s.part p with flog := { (s.part p).flog with recs := (s.part p).flog.recs.drop 1 } } ∧ onlyPart p s u) :=
  ⟨_, rfl, State.part_updPart_same .., onlyPart_updPart ..⟩

theorem coreRecords_cleared (s : State) (m : Fin 9216) :
    Does (.violRecordClear m) s (onlyOneCore m (fun c d => d = { c with viol := { count := c.viol.count } }) s) ∧
    Does (.illRecordClear m) s (onlyOneCore m (fun c d => d = { c with ill := {} }) s) :=
  ⟨⟨_, rfl, onlyOneCore_updCore rfl⟩, ⟨_, rfl, onlyOneCore_updCore rfl⟩⟩

theorem mstCtrlWrite_pair (s : State) (w : Word) :
    let m := s.mst
    let ok := m.lock = false ∧ bitsN w 8 8 < bitsN w 0 8
    (ok → Does (.mstCtrlWrite w) s (fun u => u = { s with mst := { m with hotOn := bitsN w 0 8, hotOff := bitsN w 8 8, scrubEn := bitAt w 16, lock := m.lock || bitAt w 17 } })) ∧
    (¬ ok → Does (.mstCtrlWrite w) s (fun u => u = { s with mst := { m with scrubEn := bitAt w 16, lock := m.lock || bitAt w 17 } })) := by
  refine ⟨fun h => ⟨_, rfl, ?_⟩, fun h => ⟨_, rfl, ?_⟩⟩
  · simp [h]
  · have hno : (!s.mst.lock && decide (bitsN w 8 8 < bitsN w 0 8)) = false := by simpa using h
    simp [hno]

theorem fabCtrl_open {s : State} (x : Fin 256) (lock : Bool) (h : s.fab.lock = false) :
    Does (.registerWrite (.fabCtrl x lock)) s (fun u => u = { s with fab := { s.fab with retrainThr := x, lock := lock } }) :=
  ⟨_, rfl, by simp [regWrite, h]⟩

theorem fabCtrl_locked {s : State} (x : Fin 256) (lock : Bool) (h : s.fab.lock = true) : Does (.registerWrite (.fabCtrl x lock)) s (fun u => u = s) := by
  refine ⟨_, rfl, ?_⟩
  simp only [regWrite, h, Bool.true_or, if_true]
  rw [← h]

theorem pwrCtrl_open {s : State} (x : Fin 256) (spare lock : Bool) (h : s.sys.pwr.lock = false) :
    Does (.registerWrite (.pwrCtrl x spare lock)) s (fun u => u.sys.pwr = { s.sys.pwr with
      ceil := if 50 ≤ x.val ∧ x.val ≤ 220 then x.val else s.sys.pwr.ceil, spare := spare, lock := lock } ∧ onlySys s u) := by
  have inRange : (if x.val < 50 ∨ 220 < x.val then s.sys.pwr.ceil else x.val) = if 50 ≤ x.val ∧ x.val ≤ 220 then x.val else s.sys.pwr.ceil := by
    split <;> split <;> omega
  exact ⟨_, rfl, by simp [regWrite, State.updPwr, h, inRange], rfl⟩

theorem styCtrl_open {s : State} (ms : Fin 256) (lock : Bool) (h : s.stay.lock = false) :
    Does (.registerWrite (.styCtrl ms lock)) s (fun u => u = { s with stay := { s.stay with timeout := if ms = 0 then s.stay.timeout else ms, lock := lock } }) :=
  ⟨_, rfl, by simp [regWrite, h]⟩

theorem weight_waits (s : State) (p : Fin 64) (q : Fin 256) (w : Fin 65536) (hw : w ≠ 0) : Does (.registerWrite (.weight p q w)) s (fun u =>
    (u.req p).weightsNext = AMap.put (s.req p).weightsNext q w ∧ (u.req p).weights = (s.req p).weights ∧ onlyReq p s u) := by
  have hw' : w.val ≠ 0 := fun h => hw (Fin.ext h)
  exact ⟨_, rfl, by simp [regWrite, hw', onlyReq_updReq]⟩

theorem prtCtrl_waits (s : State) (p : Fin 64) (byVf : Bool) (esc home coal) : Does (.registerWrite (.prtCtrl p byVf esc home coal)) s (fun u =>
    (u.part p).coalUs = coal.val ∧ (u.part p).escMode = (s.part p).escMode ∧ (u.part p).home = (s.part p).home ∧
    (byVf = true → (u.part p).escModeNext = (s.part p).escModeNext ∧ (u.part p).homeNext = (s.part p).homeNext) ∧
    (byVf = false → (u.part p).escModeNext = esc.val ∧ (u.part p).homeNext = home.val) ∧ onlyPart p s u) := by
  refine ⟨_, rfl, ?_⟩
  cases byVf <;> simp [regWrite, onlyPart_updPart]

theorem rrCnt_busy {s : State} (p : Fin 64) (n : Fin 131072) (h : (s.req p).rr.busy = true) :
    Does (.registerWrite (.rrCnt p n)) s (fun u => u.req p = s.req p ∧ onlyReq p s u) :=
  ⟨_, rfl, (State.req_updReq_same ..).trans (if_pos h), onlyReq_updReq ..⟩

/-! ### PLDM and I3C -/

theorem pldm_answers {s : State} (h : 4 ≤ s.sys.clk.phase) :
    (∀ h, Does (.pldmGetPdr h) s (fun u => u = { s with host := { s.host with out := s.host.out ++ [.pldm 0x51 (Config.pdr h).2] } })) ∧
    Does (.pldmGetSensorReading .inputPower) s (fun u => u = { s with host := { s.host with out := s.host.out ++ [.pldm 0x11 s.sys.pwr.power] } }) ∧
    Does (.pldmGetSensorReading .flow) s (fun u => u = { s with host := { s.host with out := s.host.out ++ [.pldm 0x11 s.sys.thm.flow] } }) ∧
    Does (.pldmGetSensorReading .coolant) s (fun u => u = { s with host := { s.host with out := s.host.out ++ [.pldm 0x21 s.sys.thm.cool] } }) ∧
    (∀ a : Fin 128, Does (.i3cDynamicAddress false a) s (fun u => u.sys.pins = { s.sys.pins with mi3c := some (s.sys.pins.mi3c.getD a) } ∧ onlySys s u)) := by
  have hm : mgmtHears s = true := by simpa [mgmtHears] using h
  refine ⟨fun _ => ⟨_, rfl, if_pos hm⟩, ⟨_, rfl, if_pos hm⟩, ⟨_, rfl, if_pos hm⟩, ⟨_, rfl, if_pos hm⟩, fun a => ⟨_, rfl, ?_⟩⟩
  rw [if_neg (by decide), if_pos hm]
  exact ⟨rfl, rfl⟩

theorem meter_address {s : State} (a : Fin 128) (h : s.sys.cnm.meter.powered = true) :
    Does (.i3cDynamicAddress true a) s (fun u => u.sys.pins = { s.sys.pins with cni3c := some (s.sys.pins.cni3c.getD a) } ∧ onlySys s u) := by
  refine ⟨_, rfl, ?_⟩
  rw [if_pos rfl, if_pos h]
  exact ⟨rfl, rfl⟩

/-! ### Ethernet and IEEE 1588 -/

theorem bitAt_setBits_port (u : BitVec 2) (i j : Fin 2) (b : Bool) : bitAt (setBits u i 1 (b2n b)) j = if j = i then b else bitAt u j := by
  revert u i j b
  decide

/-- A port that goes up or down, of the pins: the other port stays, and the masthead sends on port 0 while that is up. -/
theorem setPort_pins (s : State) (i : Fin 2) (up : Bool) :
    (setPort s i up).sys.pins = { s.sys.pins with
      ethUp := setBits s.sys.pins.ethUp i 1 (b2n up)
      ethPort := if bitAt (setBits s.sys.pins.ethUp i 1 (b2n up)) 0 then 0 else 1
      ptpLocked := s.sys.pins.ptpLocked && setBits s.sys.pins.ethUp i 1 (b2n up) != 0#2 } := by
  unfold setPort
  dsimp only
  split <;> rfl

theorem setPort_onlySys (s : State) (i : Nat) (up : Bool) : onlySys s (setPort s i up) := by
  unfold setPort
  dsimp only
  split <;> rfl

theorem ethernetLinkDown_spec (s : State) (i : Fin 2) : Does (.ethernetLinkDown i) s (fun u => bitAt u.sys.pins.ethUp i = false ∧
    (∀ j : Fin 2, j ≠ i → bitAt u.sys.pins.ethUp j = bitAt s.sys.pins.ethUp j) ∧ u.sys.pins.ethPort = (if bitAt u.sys.pins.ethUp 0 then 0 else 1) ∧ onlySys s u) := by
  refine ⟨_, rfl, ?_, fun j hj => ?_, ?_, setPort_onlySys ..⟩ <;> rw [setPort_pins]
  · simp [bitAt_setBits_port]
  · simp [bitAt_setBits_port, hj]

theorem ethernetLinkUp_spec {s : State} (i : Fin 2) (h : 5 ≤ s.sys.clk.phase) (hs : s.sys.safe = false) : Does (.ethernetLinkUp i) s (fun u =>
    bitAt u.sys.pins.ethUp i = true ∧ u.sys.pins.ethPort = (if bitAt u.sys.pins.ethUp 0 then 0 else 1) ∧ onlySys s u) := by
  have lit : ethLit s = true := by simp [ethLit, h, hs]
  have hx : exec (.ethernetLinkUp i) s = .next (setPort s i true) := congrArg Host.Outcome.next (if_pos lit)
  refine ⟨_, hx, ?_, ?_, setPort_onlySys ..⟩ <;> rw [setPort_pins]
  simp [bitAt_setBits_port]

theorem exec_ethernetFrame {s : State} {i : Fin 2} (k : EthUse) (n : Fin 9217) (h : bitAt s.sys.pins.ethUp i = true) : exec (.ethernetFrame i k n) s =
    .next (s.updPins (fun x => if x.ethRx + n.val ≤ ethLimit then { x with ethRx := x.ethRx + n.val } else { x with ethSecond := x.ethSecond + 1, ethDrops := x.ethDrops + 1 })) := by
  show execEthernetFrame i k n s = _
  simp [execEthernetFrame, h]

theorem ethernetFrame_spec {s : State} {i : Fin 2} (k : EthUse) (n : Fin 9217) (h : bitAt s.sys.pins.ethUp i = true) :
    let x := s.sys.pins
    (x.ethRx + n.val ≤ 5000000000 → Does (.ethernetFrame i k n) s (fun u => u = { s with sys := { s.sys with pins := { x with ethRx := x.ethRx + n.val } } })) ∧
    (5000000000 < x.ethRx + n.val → Does (.ethernetFrame i k n) s (fun u =>
      u = { s with sys := { s.sys with pins := { x with ethSecond := x.ethSecond + 1, ethDrops := x.ethDrops + 1 } } })) := by
  refine ⟨fun hn => ⟨_, exec_ethernetFrame k n h, ?_⟩, fun hn => ⟨_, exec_ethernetFrame k n h, ?_⟩⟩
  · simp [State.updPins, ethLimit, hn]
  · simp [State.updPins, ethLimit, Nat.not_le.2 hn]

/-- With no slew under way the time base moves in one step, but for a step back after READY. -/
theorem moveTime_forward {s : State} {v : Dword} (hs : s.sys.clk.slew = none) (hb : backStep s v.toNat = false) :
    moveTime s v = { s.updClk (fun c => { c with startNs := c.startNs + (s.tb.toNat - c.startTick), startTick := v.toNat, rateAt := none }) with tb := v } := by
  simp [moveTime, endSlew, hb, hs, State.updClk]

theorem moveTime_back {s : State} {v : Dword} (hs : s.sys.clk.slew = none) (hb : backStep s v.toNat = true) :
    moveTime s v = s.updClk (fun c => { c with
      rateBefore := c.rate, rate := -500000, slew := some (s.tb.toNat - v.toNat), slewEnd := s.tb.toNat + 1999 * (s.tb.toNat - v.toNat)
      rateAt := some s.tb.toNat }) := by
  simp [moveTime, endSlew, hb, hs, State.updClk]

theorem freeRate_range (s : State) : -500000 ≤ freeRate s ∧ freeRate s ≤ 500000 := by
  unfold freeRate
  omega

/-- A new rate changes the clock's rate and the tick of its last change, and takes a free value. -/
theorem newRate_eq (s : State) : ∃ k r a, newRate s = { s with free := k, sys := { s.sys with clk := { s.sys.clk with rate := r, rateAt := a } } } ∧
    (rateFree s = false → r = s.sys.clk.rate) ∧ (rateFree s = true → -500000 ≤ r ∧ r ≤ 500000 ∧ a = some s.tb.toNat) := by
  unfold newRate
  split
  · rename_i h
    exact ⟨_, freeRate s, some s.tb.toNat, rfl, by simp [h], fun _ => ⟨(freeRate_range s).1, (freeRate_range s).2, rfl⟩⟩
  · rename_i h
    exact ⟨s.free, s.sys.clk.rate, s.sys.clk.rateAt, rfl, fun _ => rfl, fun h' => absurd h' h⟩

/-- A message that the leader takes: the time base stepped at its first lock, then the rate. -/
def ptpTaken (s : State) (now : Dword) : State :=
  newRate (if s.sheet.stepped then s else (moveTime s now).updClk (fun c => { c with firstLock := true }))

theorem ptpTaken_first {s : State} (now : Dword) (h : s.sheet.stepped = false) :
    ptpTaken s now = newRate ((moveTime s now).updClk (fun c => { c with firstLock := true })) := by simp [ptpTaken, h]

theorem ptpTaken_later {s : State} (now : Dword) (h : s.sheet.stepped = true) : ptpTaken s now = newRate s := by simp [ptpTaken, h]

/-- What a leader has after a message that it takes, besides its time. -/
def ptpLed (s : State) : State :=
  (({ s with sheet := { s.sheet with stepped := true } }).updClk (fun c => { c with source := 1 })).updPins (fun x => { x with ptpLocked := true })

theorem exec_ptpMessage {s : State} {i : Fin 2} (now t : Dword) (hl : s.sheet.leader = true) (hp : s.sys.cfg.ptpEn = true) (hi : bitAt s.sys.pins.ethUp i = true) :
    exec (.ptpMessage i now t) s = .next (ptpLed (ptpTaken (s.atTick t) now)) := by
  show execPtpMessage i now t s = _
  simp [execPtpMessage, hl, hp, hi, ptpTaken, ptpLed]

theorem ptpMessage_idle {s : State} {i : Fin 2} (now t : Dword) (hl : s.sheet.leader = false) : exec (.ptpMessage i now t) s = .next s := by
  show execPtpMessage i now t s = _
  simp [execPtpMessage, hl]

theorem ptpMessage_led (s : State) (i : Fin 2) (now t : Dword) (hl : s.sheet.leader = true) (hp : s.sys.cfg.ptpEn = true) (hi : bitAt s.sys.pins.ethUp i = true)
    (hs : s.sys.clk.slew = none) :
    let at' := s.atTick t
    let led := fun (u : State) => u.sheet.stepped = true ∧ u.sys.pins.ptpLocked = true ∧ u.sys.clk.source = 1 ∧ u.cores = s.cores ∧ u.parts = s.parts
    (s.sheet.stepped = false → s.sys.ready = false ∨ at'.tb.toNat ≤ now.toNat + 1000 → Does (.ptpMessage i now t) s (fun u => u.tb = now ∧ u.sys.clk.firstLock = true ∧ led u)) ∧
    (s.sheet.stepped = false → s.sys.ready = true → now.toNat + 1000 < at'.tb.toNat → Does (.ptpMessage i now t) s (fun u => u.tb = at'.tb ∧ u.sys.clk.rate = -500000 ∧
      u.sys.clk.slew = some (at'.tb.toNat - now.toNat) ∧ led u)) ∧
    (s.sheet.stepped = true → Does (.ptpMessage i now t) s (fun u => u.tb = at'.tb ∧ (rateFree at' = false → u.sys.clk.rate = s.sys.clk.rate) ∧
      (rateFree at' = true → -500000 ≤ u.sys.clk.rate ∧ u.sys.clk.rate ≤ 500000 ∧ u.sys.clk.rateAt = some at'.tb.toNat) ∧ led u)) := by
  intro at' led
  have hs' : at'.sys.clk.slew = none := hs
  have hx := exec_ptpMessage now t hl hp hi
  refine ⟨fun h0 hb => ⟨_, hx, ?_⟩, fun h0 hr hb => ⟨_, hx, ?_⟩, fun h1 => ⟨_, hx, ?_⟩⟩
  · have hback : backStep at' now.toNat = false := by
      rcases hb with hb | hb
      · simp [backStep, at', hb]
      · simp [backStep, hb]
    obtain ⟨k, r, a, hn, -, -⟩ := newRate_eq ((moveTime at' now).updClk (fun c => { c with firstLock := true }))
    rw [ptpTaken_first (s := s.atTick t) now h0, hn, moveTime_forward hs' hback]
    exact ⟨rfl, rfl, rfl, rfl, rfl, rfl, rfl⟩
  · have hback : backStep at' now.toNat = true := by
      have hr' : at'.sys.ready = true := hr
      simp [backStep, hr', hb]
    obtain ⟨k, r, a, hn, hkeep, -⟩ := newRate_eq ((moveTime at' now).updClk (fun c => { c with firstLock := true }))
    rw [moveTime_back hs' hback] at hn hkeep
    rw [ptpTaken_first (s := s.atTick t) now h0, moveTime_back hs' hback, hn]
    exact ⟨rfl, hkeep rfl, rfl, rfl, rfl, rfl, rfl, rfl⟩
  · obtain ⟨k, r, a, hn, hkeep, hfree⟩ := newRate_eq at'
    rw [ptpTaken_later (s := s.atTick t) now h1, hn]
    exact ⟨rfl, hkeep, hfree, rfl, rfl, rfl, rfl, rfl⟩

/-! ### Reads that fail -/

theorem satAdd_eq_min (b a k : Nat) : satAdd b a k = min b (a + k) := by
  unfold satAdd
  split <;> omega

theorem atTick_atTick (s : State) (t : Dword) : (s.atTick t).atTick t = s.atTick t := by
  by_cases h : s.tb ≤ t <;> simp [State.atTick, h]

theorem canTake_atTick (s : State) (t : Dword) (p q : Nat) : canTake (s.atTick t) p q = canTake s p q := rfl

/-- Of the request engine, what a rejected submission leaves: its queue has moved on, and the rejection is held. -/
theorem req_reject_takeSub (s : State) (p q e cmd status tag k : Nat) (place : Nat × Nat) :
    (reject (takeSub s p q) p e cmd status tag k place).req p = { s.req p with
      turnOf := (q + 1) % 16, sqs := AMap.upd (s.req p).sqs {} q (fun x => { x with head := (x.head + 1) % 2 ^ x.size })
      rejects := min 0xFFFFFFFF ((s.req p).rejects + 1)
      held := (s.req p).held ++ [{ entry := e, status := status, cmd := cmd, userTag := tag, tEnq := k, tEnd := k, place := some place }] } := by
  simp [reject, takeSub, satAdd_eq_min]

/-- A rejected submission leaves every other queue, partition and unit, and every entry. -/
theorem subFrame_reject (s : State) (t : Dword) (p q e e' cmd status tag k : Nat) (place : Nat × Nat) :
    subFrame p q e' s (reject (takeSub (s.atTick t) p q) p e cmd status tag k place) := by
  have hr := req_reject_takeSub (s.atTick t) p q e cmd status tag k place
  refine ⟨?_, fun j hj => ?_, fun j _ => rfl, fun j hj => ?_, rfl, rfl, rfl⟩
  · simp only [hr]
    exact AMap.at_upd_same ..
  · simp only [hr]
    exact AMap.at_upd_ne _ _ _ hj
  · exact (State.part_updPart_ne _ _ hj).trans (State.part_updPart_ne _ _ hj)

/-- A prompt that cannot be read: the engine takes the submission, and rejects it with HOST_READ where nothing else is wrong with it. -/
theorem promptReadFails_eq {s : State} {p q : Nat} {w : BitVec 512} {t : Dword} (ho : sbOp w = 1) (hc : canTake s p q = true)
    (ha : firstCause (acceptanceChecks (takeSub (s.atTick t) p q) p 1 w t.toNat) = none) :
    promptReadFails (s.atTick t) p q w t =
      reject (takeSub (s.atTick t) p q) p (sbEntry w) 1 0x49 (sbTag w) t.toNat (q, (AMap.at (s.req p).sqs {} q).head) := by
  simp only [promptReadFails, ho, submit, canTake_atTick, hc, atTick_atTick, ha]
  rfl

theorem submissionReadFails_eq {s : State} {p q : Nat} {t : Dword} (hc : canTake s p q = true) :
    ∃ e cmd tag, submissionReadFails (s.atTick t) p q t = reject (takeSub (s.atTick t) p q) p e cmd 0x49 tag t.toNat (q, (AMap.at (s.req p).sqs {} q).head) := by
  simp only [submissionReadFails, canTake_atTick, hc, atTick_atTick]
  exact ⟨_, _, _, rfl⟩

theorem exec_promptTimeout (s : State) (p : Fin 64) (q : Fin 16) (w : BitVec 512) (t : Dword) :
    exec (.hostReadTimeout (.prompt p q w) t) s = .next (promptReadFails (s.atTick t) p q w t) := rfl

theorem exec_submissionTimeout (s : State) (p : Fin 64) (q : Fin 16) (t : Dword) :
    exec (.hostReadTimeout (.submission p q) t) s = .next (submissionReadFails (s.atTick t) p q t) := rfl

theorem exec_hoistTimeout (s : State) (p : Fin 64) (k : Fin 65536) (t : Dword) :
    exec (.hostReadTimeout (.hoist p k) t) s = .next (hoistReadFails (s.atTick t) p k) := rfl

theorem prompt_timeout (s : State) (t : Dword) (p : Fin 64) (q : Fin 16) (w : BitVec 512) (ho : sbOp w = 1) (hc : canTake s p q = true)
    (ha : firstCause (acceptanceChecks (takeSub (s.atTick t) p q) p 1 w t.toNat) = none) :
    Does (.hostReadTimeout (.prompt p q w) t) s (fun u => subFrame p q (sbEntry w) s u ∧ u.table = s.table ∧
      (u.req p).held = (s.req p).held ++ [{
        entry := sbEntry w, status := 0x49, cmd := 1, userTag := sbTag w, tEnq := t.toNat, tEnd := t.toNat
        place := some (q.val, (AMap.at (s.req p).sqs {} q).head) }]) := by
  refine ⟨_, exec_promptTimeout .., ?_⟩
  rw [promptReadFails_eq ho hc ha]
  refine ⟨subFrame_reject .., rfl, ?_⟩
  rw [req_reject_takeSub]
  rfl

theorem submission_timeout (s : State) (t : Dword) (p : Fin 64) (q : Fin 16) (hc : canTake s p q = true) :
    Does (.hostReadTimeout (.submission p q) t) s (fun u => u.table = s.table ∧ u.cores = s.cores ∧
      (AMap.at (u.req p).sqs {} q).head = ((AMap.at (s.req p).sqs {} q).head + 1) % 2 ^ (AMap.at (s.req p).sqs {} q).size ∧
      (u.req p).rejects = min 0xFFFFFFFF ((s.req p).rejects + 1) ∧ ∃ x, (u.req p).held = (s.req p).held ++ [x] ∧ x.status = 0x49 ∧ x.tEnq = t.toNat ∧ x.tEnd = t.toNat) := by
  obtain ⟨e, cmd, tag, he⟩ := submissionReadFails_eq (t := t) hc
  refine ⟨_, exec_submissionTimeout .., ?_⟩
  rw [he]
  refine ⟨rfl, rfl, ?_⟩
  rw [req_reject_takeSub]
  refine ⟨?_, rfl, _, rfl, rfl, rfl, rfl⟩
  simp only [AMap.at_upd_same]
  rfl

/-! ### A hoist whose read fails -/

@[simp] theorem parts_signal (s : State) (f v : Nat) : (signal s f v).parts = s.parts := by
  have h (s : State) : (sendVec s f v).parts = s.parts := by
    unfold sendVec
    dsimp only
    split <;> rfl
  unfold signal
  split
  · exact h s
  · split
    · rfl
    · split <;> exact h s

@[simp] theorem parts_evrEvent (s : State) (kind sev part field core : Nat) (value aux : Option Dword) : (evrEvent s kind sev part field core value aux).parts = s.parts := by
  unfold evrEvent
  dsimp only
  split
  · rfl
  · split
    · rfl
    · split
      · rfl
      · rw [apply_ite State.parts, parts_signal]
        exact ite_self _

/-- What a report leaves of its partition once the module is READY: what it reports is noted there. -/
theorem part_writeReport {s : State} (p : Nat) (c : HoistCmd) (r : HoistRpt) (h : s.sys.ready = true) :
    (writeReport s p c r).part p = noteReport (s.part p) c r (canMaster s (s.part p).home (c.fn p)) := by
  have noted (u : State) (ok : Bool) (hu : u.parts = s.parts) : (u.updPart p (fun x => noteReport x c r ok)).part p = noteReport (s.part p) c r ok := by
    rw [State.part_updPart_same, State.part, State.part, hu]
  have signalled (u : State) (f v : Nat) : (signal u f v).part p = u.part p := by rw [State.part, State.part, parts_signal]
  simp only [writeReport, h, Bool.not_true, Bool.false_eq_true, if_false]
  split <;> rw [signalled] <;> refine noted _ _ ?_
  all_goals
    split
    · rfl
    · exact parts_evrEvent ..

theorem report_last {s : State} (p : Nat) (c : HoistCmd) (r : HoistRpt) (h : s.sys.ready = true) (hn : (s.part p).hoist = none) (hb : (s.part p).hstat.busy = false) :
    let x := (writeReport s p c r).part p
    x.hoist = none ∧ x.hstat.last = r.status ∧ x.hstat.busy = false := by
  dsimp only
  rw [part_writeReport p c r h]
  refine ⟨hn, rfl, ?_⟩
  unfold noteReport
  dsimp only
  split <;> exact hb

theorem swalNow_eq (s : State) (p : Nat) : ∃ c, swalNow s p = s.updClk (fun _ => c) := by
  unfold swalNow
  split
  · exact ⟨_, rfl⟩
  · exact ⟨_, rfl⟩

/-- A glide down changes the clocks alone. -/
theorem relax_eq (s : State) : ∃ c, relax s = s.updClk (fun _ => c) := by
  have glide (ps : List Nat) (u : State) (hu : ∃ c, u = s.updClk (fun _ => c)) : ∃ c, ps.foldl swalNow u = s.updClk (fun _ => c) := by
    induction ps generalizing u with
    | nil => exact hu
    | cons p ps ih =>
      refine ih _ ?_
      obtain ⟨c, rfl⟩ := hu
      exact swalNow_eq _ p
  unfold relax
  split
  · rename_i h
    have hk : ¬ wantedStep s < s.sys.clk.step := by
      simp only [Bool.and_eq_true, decide_eq_true_eq] at h
      omega
    simp only [glideTo, hk, if_false]
    exact glide _ _ ⟨_, rfl⟩
  · exact ⟨_, rfl⟩

theorem sys_clearSlot (s : State) (p i : Nat) : (clearSlot s p i).sys = s.sys := by
  have each (ms : List Nat) (f : Nat → Core → Core) (u : State) : (u.eachCore ms f).sys = u.sys := by
    unfold State.eachCore
    induction ms generalizing u with
    | nil => rfl
    | cons m ms ih => exact ih _
  exact each _ _ s

theorem endHoist_last {s : State} {p status sec vcore detail : Nat} {h : Hoist} (hh : (s.part p).hoist = some h) (hr : s.sys.ready = true) :
    let x := (endHoist s p status sec vcore detail).part p
    x.hoist = none ∧ x.hstat.last = status ∧ x.hstat.busy = false := by
  unfold endHoist
  simp only [hh]
  generalize hs : (if (s.img p (hcSlot h.cmd.body)).st = .hoisting then clearSlot s p (hcSlot h.cmd.body) else s) = s1
  have h1 : s1.sys.ready = true := by
    rw [← hs]
    split
    · rwa [sys_clearSlot]
    · exact hr
  obtain ⟨c, hc⟩ := relax_eq ((s1.updSec (fun x => { x with
      unwrapFail := if status = 6 then satAdd 0xFFFF x.unwrapFail 1 else x.unwrapFail, sigFail := if status = 8 then satAdd 0xFFFF x.sigFail 1 else x.sigFail })).updPart p
        (fun x => { x with hoist := none, hstat := { x.hstat with busy := false } }))
  rw [hc]
  exact report_last p h.cmd _ h1 (by simp [part_updClk]) (by simp [part_updClk])

theorem hoist_timeout (s : State) (t : Dword) (p : Fin 64) (k : Fin 65536) (h : Hoist) (hh : (s.part p).hoist = some h) (hw : h.waitUnload = false) (hp : h.phase ≠ .done)
    (hr : s.sys.ready = true) :
    Does (.hostReadTimeout (.hoist p k) t) s (fun u => (u.part p).hoist = none ∧ (u.part p).hstat.last = 4 ∧ (u.part p).hstat.busy = false) := by
  have hh' : ((s.atTick t).part p).hoist = some h := hh
  refine ⟨_, exec_hoistTimeout .., ?_⟩
  simp only [hoistReadFails, hh', hw, hp, beq_iff_eq, Bool.false_or, if_false]
  exact endHoist_last hh' hr

/-- Settles O56: one lemma for each register, bus, port and failed read, each the state that its command leaves. -/
theorem registersAndBuses : Obligations.RegistersAndBuses := fun s =>
  ⟨⟨_, rfl, rfl⟩, ⟨_, rfl, rfl⟩, ⟨_, rfl, rfl⟩, ⟨_, rfl, rfl⟩, ⟨_, rfl, rfl⟩, ⟨_, rfl, rfl⟩, elogPop_part s, coreRecords_cleared s, mstCtrlWrite_pair s,
    fabCtrl_open, fabCtrl_locked, pwrCtrl_open, styCtrl_open, weight_waits s, prtCtrl_waits s, rrCnt_busy, pldm_answers, meter_address,
    fun i => ⟨ethernetLinkDown_spec s i, ethernetLinkUp_spec i, ethernetFrame_spec, fun now t hl hp hi hs =>
      have ⟨first, refused, later⟩ := ptpMessage_led s i now t hl hp hi hs
      ⟨first, refused, later, fun _ => ⟨_, ptpMessage_idle now t rfl, rfl⟩⟩⟩,
    fun t => ⟨prompt_timeout s t, submission_timeout s t, hoist_timeout s t⟩⟩

end Sys2Proof.Machine

namespace Sys2Proof.Machine

/-! ### One core of the module replaced -/

theorem AMap.put_put {α : Type} (m : AMap α) (k : Nat) (v v' : α) : AMap.put (AMap.put m k v) k v' = AMap.put m k v' := by
  induction m with
  | nil => simp [AMap.put]
  | cons x r ih =>
    obtain ⟨j, y⟩ := x
    unfold AMap.put
    by_cases h : k < j
    · simp [h, AMap.put]
    · by_cases e : k = j
      · simp [e, AMap.put]
      · simp [h, e, AMap.put, ih]

@[simp] theorem State.setCore_setCore (s : State) (m : Nat) (c d : Core) : (s.setCore m c).setCore m d = s.setCore m d := by
  simp [State.setCore, AMap.put_put]

/-! ### Contexts and sails of a core -/

theorem Core.setTc_eq (c : Core) (i : Fin 4) (x : Ctx) : c.setTc i x = { c with ctx := c.ctx.set i x i.isLt } := dif_pos i.isLt

theorem Core.setSail_eq (c : Core) {i : Nat} (x : Sail) (h : i < 4) : c.setSail i x = { c with sails := c.sails.set i x h } := dif_pos h

theorem Core.sail_setSail_same (c : Core) {i : Nat} (x : Sail) (h : i < 4) : (c.setSail i x).sail i = x := by
  simp [Core.setSail_eq c x h, Core.sail, h]

theorem Core.sail_setSail_ne (c : Core) {i j : Nat} (x : Sail) (h : j ≠ i) : (c.setSail i x).sail j = c.sail j := by
  unfold Core.setSail Core.sail
  split
  · simp [Ne.symm h]
  · rfl

@[simp] theorem Core.sail_setTc (c : Core) (i j : Nat) (x : Ctx) : (c.setTc i x).sail j = c.sail j := by
  unfold Core.setTc
  split <;> rfl

@[simp] theorem Core.tc_setSail (c : Core) (i j : Nat) (x : Sail) : (c.setSail i x).tc j = c.tc j := by
  unfold Core.setSail
  split <;> rfl

theorem Core.setTc_self (c : Core) (i : Fin 4) : c.setTc i (c.tc i) = c := by
  have : c.ctx.set i (c.tc i) i.isLt = c.ctx := by
    apply Vector.ext
    intro j hj
    by_cases e : i.val = j
    · subst e; simp [Core.tc]
    · simp [Vector.getElem_set_ne, e]
  rw [Core.setTc_eq, this]

/-! ### The module as a slot instruction finds it -/

/-- A context whose bundle has begun to issue in fc `k`, if it had not begun before. -/
def Ctx.begun (x : Ctx) (k : Nat) : Ctx := { x with bun := some (x.bun.getD k), dead := false }

@[simp] theorem Ctx.sAt_begun (x : Ctx) (k r : Nat) : (x.begun k).sAt r = x.sAt r := rfl
@[simp] theorem Ctx.vAt_begun (x : Ctx) (k r : Nat) : (x.begun k).vAt r = x.vAt r := rfl
@[simp] theorem Ctx.rdS_begun (x : Ctx) (k r : Nat) : (x.begun k).rdS r = x.rdS r := rfl
@[simp] theorem Ctx.rdV_begun (x : Ctx) (k r : Nat) : (x.begun k).rdV r = x.rdV r := rfl

@[simp] theorem Ctx.tbase_begun (x : Ctx) (k : Nat) : (x.begun k).tbase = x.tbase := rfl
@[simp] theorem Ctx.tcnt_begun (x : Ctx) (k : Nat) : (x.begun k).tcnt = x.tcnt := rfl
@[simp] theorem Ctx.quota_begun (x : Ctx) (k : Nat) : (x.begun k).quota = x.quota := rfl
@[simp] theorem Ctx.seq_begun (x : Ctx) (k : Nat) : (x.begun k).seq = x.seq := rfl

theorem Ctx.onlyRegs_begun (x : Ctx) (k : Nat) : Ctx.onlyRegs x (x.begun k) := rfl

/-- Core `c` as a slot instruction of context `i` that issues in fc `k` finds it: due tracker entries released, the bundle begun, `w` waits counted. -/
def Core.begun (c : Core) (i : Fin 4) (k w : Nat) : Core :=
  { c with ctx := c.ctx.set i ((c.tc i).begun k), tracks := (c.pruneTrk k).tracks, stat := { c.stat with vwait := w } }

@[simp] theorem Core.tc_begun_same (c : Core) (i : Fin 4) (k w : Nat) : (c.begun i k w).tc i = (c.tc i).begun k := by simp [Core.begun, Core.tc]

theorem Core.tc_begun_ne (c : Core) (i : Fin 4) (k w : Nat) {j : Nat} (h : j ≠ i) : (c.begun i k w).tc j = c.tc j := by
  simp [Core.begun, Core.tc, Ne.symm h]

theorem Core.onlyCtx_begun (c : Core) (i : Fin 4) (k w : Nat) : Core.onlyCtx c (c.begun i k w) := rfl

@[simp] theorem Core.sail_begun (c : Core) (i : Fin 4) (k w j : Nat) : (c.begun i k w).sail j = c.sail j := rfl

/-- `u` is `s` with the bundle of `q` begun in fc `k`: only the group's cycle count and the core differ. -/
structure Begins (q : Issue) (k n : Nat) (s u : State) : Prop where
  frame : regFrame q s u
  core : u.core q.core = (s.core q.core).begun q.ctx k n

theorem beginBundle_core {s : State} {q : Issue} {t : Nat} (h : ((s.core q.core).tc q.ctx).bun = none → (s.core q.core).bundleFits q.ctx t = true) :
    ∃ y, (beginBundle s q t).core q.core = (s.core q.core).setTc q.ctx y := by
  unfold beginBundle
  cases hb : ((s.core q.core).tc q.ctx).bun with
  | some b => exact ⟨_, by simpa [hb] using (Core.setTc_self _ _).symm⟩
  | none => exact ⟨_, by simp [hb, h hb, State.updCtx]; rfl⟩

/-- What `issued_spec` says of the core, as one equation. -/
theorem begins_issued {s0 s : State} {q : Issue} {vec : Bool} {rs vs : List Nat} {k : Nat} (h : issuesAt s0 q vec rs vs k s) :
    ∃ n, Begins q k n s (issued s0 q vec rs vs k) := by
  obtain ⟨hframe, htc, -⟩ := issued_spec h
  obtain ⟨-, rfl, hb⟩ := h
  rw [issued_eq] at htc ⊢
  obtain ⟨-, -, w, hw⟩ := inCycle_frame (inRoutine s0 q) (s0.corePart q.core) (s0.settle q.core k) q vec rs vs k
  have hx := inCycle_tc (inRoutine s0 q) (s0.corePart q.core) (s0.settle q.core k) q vec rs vs k q.ctx
  obtain ⟨y, hy⟩ := beginBundle_core (s := inCycle (inRoutine s0 q) (s0.corePart q.core) (s0.settle q.core k) q vec rs vs k) (q := q) (t := k) (by
    intro hn
    rw [hx] at hn
    rw [hn] at hb
    exact (Core.bundleFits_congr (by rw [hw]) (by rw [hw]; rfl) hx).trans hb)
  rw [hy, Core.tc_setTc_same] at htc
  exact ⟨w, hframe, by rw [hy, htc, hw, Core.setTc_eq]; rfl⟩

theorem issue_begins {s0 s : State} {q : Issue} {vec : Bool} {rs vs : List Nat} {k : Nat} (h : issuesAt s0 q vec rs vs k s) (f : State → Nat → State) :
    ∃ u n, Begins q k n s u ∧ issue s0 q vec rs vs f = f u k :=
  have ⟨n, hu⟩ := begins_issued h
  ⟨_, n, hu, issue_some h f⟩

theorem issueCtrl_begins {s0 s : State} {q : Issue} {rs : List Nat} {k : Nat} (h : issuesAt s0 q false rs [] k s) (f : State → Nat → State) :
    ∃ u n, Begins q k n s u ∧ issueCtrl s0 q rs f = (f u k).updCtx q.core q.ctx (fun x => x.advance.holdTo (k + 1)) :=
  have ⟨n, hu⟩ := begins_issued h
  ⟨_, n, hu, issueCtrl_some h f⟩

theorem rigSails_congr {s u : State} (hf : u.fab = s.fab) (hg : u.grade = s.grade) (hy : u.sys = s.sys) (hp : ∀ p, (u.part p).slots = (s.part p).slots) (m : Nat) :
    u.rigSails m = s.rigSails m := by
  simp only [State.rigSails, State.slotOfField, State.img, State.corePart, State.field, State.fieldXY, State.grade40, hf, hg, hy, hp]
  rfl

section
variable {q : Issue} {k n : Nat} {s u : State} (hu : Begins q k n s u)
include hu

theorem Begins.core_ne {j : Nat} (hj : j ≠ q.core) : u.core j = s.core j := by
  obtain ⟨⟨-, h⟩, -⟩ := hu.frame
  exact h j hj

theorem Begins.module : { u with cores := s.cores, parts := s.parts } = s := by
  obtain ⟨⟨h, -⟩, -⟩ := hu.frame
  exact h

theorem Begins.onlyCyc : onlyCyc s u := by
  obtain ⟨-, h, -⟩ := hu.frame
  exact h

theorem Begins.slots (p : Nat) : (u.part p).slots = (s.part p).slots := (congrArg Part.slots (hu.onlyCyc p) :)

theorem Begins.inStep (p : Nat) : (u.grp p).inStep = (s.grp p).inStep := (congrArg (fun x : Part => x.grp.inStep) (hu.onlyCyc p) :)

theorem Begins.fab : u.fab = s.fab := (congrArg State.fab hu.module :)

theorem Begins.mst : u.mst = s.mst := (congrArg State.mst hu.module :)

theorem Begins.rigSails (m : Nat) : u.rigSails m = s.rigSails m :=
  rigSails_congr hu.fab (congrArg State.grade hu.module :) (congrArg State.sys hu.module :) hu.slots m

theorem Begins.tc : (u.core q.core).tc q.ctx = ((s.core q.core).tc q.ctx).begun k := by rw [hu.core, Core.tc_begun_same]

/-- A slot instruction whose effect is on its core. -/
theorem Begins.slotFrame_setCore {C : Core → Core → Prop} {c : Core} (hc : C (s.core q.core) c) (hx : ∀ j, j ≠ q.ctx.val → c.tc j = (s.core q.core).tc j) :
    slotFrame q C s (u.setCore q.core c) := by
  refine ⟨⟨hu.module, fun j hj => ?_⟩, hu.onlyCyc, by rwa [State.core_setCore_same], by rwa [State.core_setCore_same]⟩
  rw [State.core_setCore_ne _ _ hj, hu.core_ne hj]

theorem Begins.regFrame_setCore {c : Core} (hc : Core.onlyCtx (s.core q.core) c) (hx : ∀ j, j ≠ q.ctx.val → c.tc j = (s.core q.core).tc j)
    (hr : Ctx.onlyRegs ((s.core q.core).tc q.ctx) (c.tc q.ctx)) : regFrame q s (u.setCore q.core c) := by
  obtain ⟨h1, h2, h3, h4⟩ := hu.slotFrame_setCore hc hx
  exact ⟨h1, h2, h3, h4, by rwa [State.core_setCore_same]⟩

end

theorem legalOr_good {s : State} {q : Issue} {slot op : Nat} {checks : List (Bool × Nat)} {bad good : State → State} (h : firstCause checks = none) :
    legalOr s q slot op checks bad good = good s := by rw [legalOr, h]

/-- A slot instruction whose effect is on its core and its context. -/
theorem Begins.slotFrame_setTc {q : Issue} {k n : Nat} {s u : State} (hu : Begins q k n s u) {C : Core → Core → Prop} {c : Core} {y : Ctx}
    (hc : C (s.core q.core) (c.setTc q.ctx y)) (hx : ∀ j, c.tc j = ((s.core q.core).begun q.ctx k n).tc j) : slotFrame q C s (u.setCore q.core (c.setTc q.ctx y)) :=
  hu.slotFrame_setCore hc fun j hj => by rw [Core.tc_setTc_ne _ _ hj, hx, Core.tc_begun_ne _ _ _ _ hj]

/-! ### The registers and the tracker -/

/-- A slot instruction that writes one vector register. -/
theorem Begins.writesV_setTc {q : Issue} {k n : Nat} {s u : State} (hu : Begins q k n s u) {c : Core} (hc : Core.onlyCtx (s.core q.core) c)
    (hx : ∀ j, c.tc j = ((s.core q.core).begun q.ctx k n).tc j) {d : Nat} (hd : d < 32) (v : VReg) (t : Nat) :
    writesV q d v s (u.setCore q.core (c.setTc q.ctx ((c.tc q.ctx).wrV d v t))) := by
  refine ⟨?_, fun r hr => ?_, fun r => ?_, hu.regFrame_setCore (Core.onlyCtx_setTc hc _ _) (fun j hj => ?_) ?_⟩
  · rw [State.core_setCore_same, Core.tc_setTc_same, Ctx.vAt_wrV_same _ _ _ hd]
  · rw [State.core_setCore_same, Core.tc_setTc_same, Ctx.vAt_wrV_ne _ _ _ hr, hx, Core.tc_begun_same, Ctx.vAt_begun]
  · rw [State.core_setCore_same, Core.tc_setTc_same, Ctx.sAt_wrV, hx, Core.tc_begun_same, Ctx.sAt_begun]
  · rw [Core.tc_setTc_ne _ _ hj, hx, Core.tc_begun_ne _ _ _ _ hj]
  · rw [Core.tc_setTc_same, hx, Core.tc_begun_same]
    exact Ctx.onlyRegs_wrV (Ctx.onlyRegs_begun _ _) _ _ _

/-- A slot instruction that writes one scalar register. -/
theorem Begins.writesS_setTc {q : Issue} {k n : Nat} {s u : State} (hu : Begins q k n s u) {c : Core} (hc : Core.onlyCtx (s.core q.core) c)
    (hx : ∀ j, c.tc j = ((s.core q.core).begun q.ctx k n).tc j) {d : Nat} (hd : d < 32) (v : SReg) (t : Nat) :
    writesS q d v s (u.setCore q.core (c.setTc q.ctx ((c.tc q.ctx).wrS d v t))) := by
  refine ⟨?_, fun r hr => ?_, fun r => ?_, hu.regFrame_setCore (Core.onlyCtx_setTc hc _ _) (fun j hj => ?_) ?_⟩
  · rw [State.core_setCore_same, Core.tc_setTc_same, Ctx.sAt_wrS_same _ _ _ hd]
  · rw [State.core_setCore_same, Core.tc_setTc_same, Ctx.sAt_wrS_ne _ _ _ hr, hx, Core.tc_begun_same, Ctx.sAt_begun]
  · rw [State.core_setCore_same, Core.tc_setTc_same, Ctx.vAt_wrS, hx, Core.tc_begun_same, Ctx.vAt_begun]
  · rw [Core.tc_setTc_ne _ _ hj, hx, Core.tc_begun_ne _ _ _ _ hj]
  · rw [Core.tc_setTc_same, hx, Core.tc_begun_same]
    exact Ctx.onlyRegs_wrS (Ctx.onlyRegs_begun _ _) _ _ _

/-- A core with a further tracker entry of context `i`. -/
def Core.tookTrk (c : Core) (i : Nat) (kind : TrackKind) (left : Nat) (due : Option Nat) : Core :=
  { c with
    tracks := c.tracks ++ [{ id := c.nextTrk, ctx := i, kind := kind, left := left, due := due }]
    nextTrk := c.nextTrk + 1
    stat := { c.stat with trkHwm := max c.stat.trkHwm (min (c.tracks.length + 1) 1024) } }

@[simp] theorem Core.tc_tookTrk (c : Core) (i : Nat) (kind : TrackKind) (left : Nat) (due : Option Nat) (j : Nat) : (c.tookTrk i kind left due).tc j = c.tc j := rfl

@[simp] theorem Core.sail_tookTrk (c : Core) (i : Nat) (kind : TrackKind) (left : Nat) (due : Option Nat) (j : Nat) :
    (c.tookTrk i kind left due).sail j = c.sail j := rfl

/-- Where the context's quota has room, a core that has the tracker of fc `k` takes a further entry. -/
theorem Core.takeTrk_room {q : Issue} {s : State} {k : Nat} (h : hasRoom q s k) {c : Core} (ht : c.tracks = ((s.core q.core).pruneTrk k).tracks)
    (hx : c.tc q.ctx = ((s.core q.core).tc q.ctx).begun k) (kind : TrackKind) (left : Nat) (due : Option Nat) :
    c.takeTrk q.ctx kind left due = some (c.tookTrk q.ctx kind left due, c.nextTrk) := by
  unfold hasRoom at h
  simp [Core.takeTrk, Core.tookTrk, ht, hx, h]

/-! ### Hand-overs -/

/-- With nothing on its way, a later access finds hand-overs done and nothing else changed in the sails. -/
theorem sail_settle_quiet {s : State} {m : Nat} (h : (s.core m).late = []) (t : Nat) {i : Nat} (hi : i < 4) :
    ((s.settle m t).core m).sail i = ((s.core m).sail i).handOver t := by
  obtain ⟨a, b, hr⟩ := Core.reach_eq ({ s.core m with sails := (s.core m).sails.map (fun y => y.handOver t) } : Core) t
  have e : s.settle m t = s.setCore m (Core.atFc { s.core m with sails := (s.core m).sails.map (fun y => y.handOver t) } a b) := by
    rw [← hr]
    simp [State.settle, Core.settled, Core.settleGo, h]
  rw [e, State.core_setCore_same]
  simp [Core.sail, Core.atFc, hi]

/-! ### The control slot -/

/-- A core whose bundle ends in fc `k` with the control slot of context `i`. -/
def Core.endBundle (c : Core) (i : Fin 4) (k : Nat) : Core := c.setTc i ((c.tc i).advance.holdTo (k + 1))

/-- A control-slot instruction that writes no register. -/
theorem Begins.keepsRegs_endBundle {q : Issue} {k n : Nat} {s u : State} (hu : Begins q k n s u) {C : Core → Core → Prop} {c : Core} (hc : C (s.core q.core) (c.endBundle q.ctx k))
    (hx : ∀ j, c.tc j = ((s.core q.core).begun q.ctx k n).tc j) :
    keepsRegs q none none s (u.setCore q.core (c.endBundle q.ctx k)) ∧ slotFrame q C s (u.setCore q.core (c.endBundle q.ctx k)) := by
  refine ⟨⟨fun r _ => ?_, fun r _ => ?_⟩, hu.slotFrame_setTc hc hx⟩ <;> simp [Core.endBundle, hx]

end Sys2Proof.Machine

namespace Sys2Proof.Machine

/-- HAND of a sail that the context owns (02 R40). -/
theorem exec_hand {q : Issue} {w : BitVec 48} {s0 s : State} {k : Nat} (h : issuesAt s0 q false [] [] k s) (hw : bitsN w 10 38 = 0)
    (hi : bitsN w 6 2 < s.rigSails q.core) (ho : ((s.core q.core).sail (bitsN w 6 2)).owner = q.ctx.val) :
    ∃ u n, Begins q k n s u ∧ exec (.hand q w) s0 = .next (u.setCore q.core ((((s.core q.core).begun q.ctx k n).setSail (bitsN w 6 2)
      { (s.core q.core).sail (bitsN w 6 2) with hand := some (bitsN w 8 2, max (k + 1) ((s.core q.core).sail (bitsN w 6 2)).opEnd) }).endBundle q.ctx k)) := by
  obtain ⟨u, n, hu, e⟩ := issueCtrl_begins h _
  refine ⟨u, n, hu, (congrArg Host.Outcome.next e).trans ?_⟩
  simp [legalOr, firstCause, hw, hu.rigSails, hi, hu.core, ho, State.updSail, State.updCtx, State.updCore, Core.endBundle]

/-- A core with a handle entry rewritten. -/
def Core.setHandle (c : Core) (h : Nat) (e : Word) : Core := if hh : h < 32 then { c with handles := c.handles.set h e hh } else c

@[simp] theorem Core.tc_setHandle (c : Core) (h : Nat) (e : Word) (j : Nat) : (c.setHandle h e).tc j = c.tc j := by
  unfold Core.setHandle
  split <;> rfl

theorem Core.handleAt_setHandle (c : Core) {h j : Nat} (e : Word) (hj : j < 32) : (c.setHandle h e).handleAt j = if j = h then e else c.handleAt j := by
  unfold Core.setHandle Core.handleAt
  by_cases hh : h < 32
  · by_cases hjh : j = h
    · simp [hjh, hh]
    · simp [hh, hjh, Ne.symm hjh]
  · have : j ≠ h := by omega
    simp [hh, this]

/-- HSET of a handle of the context's table (05 R105). -/
theorem exec_hset {q : Issue} {w : BitVec 48} {s0 s : State} {k : Nat} (h : issuesAt s0 q false [cSa w] [] k s) (hw : bitsN w 16 32 = 0)
    (ha : (((s.core q.core).tc q.ctx).rdS (cSa w)).poison = false) (hl : bitsN w 6 5 < ((s.core q.core).tc q.ctx).tcnt)
    (hv : bitsN (((s.core q.core).tc q.ctx).rdS (cSa w)).val 29 3 = 0) :
    ∃ u n, Begins q k n s u ∧ exec (.hset q w) s0 = .next (u.setCore q.core ((((s.core q.core).begun q.ctx k n).setHandle
      ((((s.core q.core).tc q.ctx).tbase + bitsN w 6 5) % 32) (bits (((s.core q.core).tc q.ctx).rdS (cSa w)).val 0 32)).endBundle q.ctx k)) := by
  obtain ⟨u, n, hu, e⟩ := issueCtrl_begins h _
  refine ⟨u, n, hu, (congrArg Host.Outcome.next e).trans ?_⟩
  have hl' : ¬ ((s.core q.core).tc q.ctx).tcnt ≤ bitsN w 6 5 := by omega
  simp [legalOr, firstCause, hw, hu.core, ha, hl', hv, State.updCtx, State.updCore, Core.endBundle, Core.setHandle]

/-- VPAT of TC0 with entries of 0 to 4 (08 R206). -/
theorem exec_vpat {q : Issue} {w : BitVec 48} {s0 s : State} {k : Nat} (h : issuesAt s0 q false [cSa w] [] k s) (hq : q.ctx.val = 0) (h0 : bitsN w 6 5 = 0)
    (hw : bitsN w 16 32 = 0) (ha : (((s.core q.core).tc q.ctx).rdS (cSa w)).poison = false) (hv : bitsN (((s.core q.core).tc q.ctx).rdS (cSa w)).val 48 16 = 0)
    (hj : ∀ j, j < 16 → bitsN (((s.core q.core).tc q.ctx).rdS (cSa w)).val (3 * j) 3 ≤ 4) :
    ∃ u n, Begins q k n s u ∧ exec (.vpat q w) s0 = .next (u.setCore q.core (Core.endBundle { (s.core q.core).begun q.ctx k n with
      staged := some (Vector.ofFn fun j : Fin 16 => bitsN (((s.core q.core).tc q.ctx).rdS (cSa w)).val (3 * j) 3) } q.ctx k)) := by
  obtain ⟨u, n, hu, e⟩ := issueCtrl_begins h _
  refine ⟨u, n, hu, (congrArg Host.Outcome.next e).trans ?_⟩
  rw [legalOr_good]
  · simp [hu.core, State.updCtx, State.updCore, Core.endBundle]
  · rw [hu.tc, Ctx.rdS_begun]
    generalize ((s.core q.core).tc q.ctx).rdS (cSa w) = a at ha hv hj ⊢
    have hj' : anyBelow 16 (fun j => decide (4 < bitsN a.val (3 * j) 3)) = false := by simpa [anyBelow] using hj
    simp [firstCause, hq, h0, hw, hv, ha, hj']

/-- Settles O7: HAND, HSET and VPAT, each by the core that it leaves. -/
theorem handlesAndPatterns : Obligations.HandlesAndPatterns := by
  intro q w s0 s k
  refine ⟨fun h hw hi ho => ?_, fun h ha => ⟨fun hw hl hv => ?_, fun hq h0 hw hv hj => ?_⟩⟩
  · obtain ⟨u, n, hu, e⟩ := exec_hand h hw hi ho
    have hi4 : bitsN w 6 2 < 4 := bitsN_lt w 6 2
    have hsail (y : Sail) : ((((s.core q.core).begun q.ctx k n).setSail (bitsN w 6 2) y).endBundle q.ctx k).sail (bitsN w 6 2) = y := by
      rw [Core.endBundle, Core.sail_setTc, Core.sail_setSail_same _ _ hi4]
    refine ⟨_, e, by rw [State.core_setCore_same, hsail], fun hl hopw v hv => ?_, hu.keepsRegs_endBundle ⟨?_, fun j hj => ?_⟩ fun j => ?_⟩
    · rw [sail_settle_quiet _ _ hi4, State.core_setCore_same, hsail]
      · simp [Sail.handOver, hopw, hv]
      · rw [State.core_setCore_same, Core.endBundle, Core.setTc_eq, Core.setSail_eq _ _ hi4]; exact hl
    · rw [Core.endBundle, Core.setTc_eq, Core.setSail_eq _ _ hi4]; rfl
    · rw [Core.endBundle, Core.sail_setTc, Core.sail_setSail_ne _ _ hj, Core.sail_begun]
    · rw [Core.tc_setSail]
  · obtain ⟨u, n, hu, e⟩ := exec_hset h hw ha hl hv
    refine ⟨_, e, fun j hj => ?_, hu.keepsRegs_endBundle ?_ fun j => ?_⟩
    · rw [State.core_setCore_same, Core.endBundle, Core.setTc_eq]
      exact Core.handleAt_setHandle _ _ hj
    · rw [Core.endBundle, Core.setTc_eq]
      unfold Core.setHandle
      split <;> rfl
    · rw [Core.tc_setHandle]
  · obtain ⟨u, n, hu, e⟩ := exec_vpat h hq h0 hw ha hv hj
    refine ⟨_, e, ⟨Vector.ofFn fun j : Fin 16 => bitsN (((s.core q.core).tc q.ctx).rdS (cSa w)).val (3 * j) 3, ?_, fun j => ?_⟩, hu.keepsRegs_endBundle ?_ fun j => rfl⟩
    · rw [State.core_setCore_same, Core.endBundle, Core.setTc_eq]
    · exact Vector.getElem_ofFn _
    · rw [Core.endBundle, Core.setTc_eq]; rfl

end Sys2Proof.Machine

namespace Sys2Proof.Machine

theorem setBits_low32 (x : Dword) (r : BitVec 32) : setBits x 0 32 r.toNat = x.extractLsb' 32 32 ++ r := by
  have hm : BitVec.ofNat 64 ((2 ^ 32 - 1) <<< 0) = (BitVec.allOnes 32).setWidth 64 := by decide
  have hr : BitVec.ofNat 64 ((r.toNat % 2 ^ 32) <<< 0) = r.setWidth 64 := by
    rw [Nat.mod_eq_of_lt r.isLt, Nat.shiftLeft_zero, BitVec.ofNat_toNat]
  unfold setBits
  rw [hm, hr]
  apply BitVec.eq_of_getLsbD_eq
  intro i hi
  refine Eq.trans ?_ BitVec.getLsbD_append.symm
  rw [BitVec.getLsbD_or, BitVec.getLsbD_and, BitVec.getLsbD_not, BitVec.getLsbD_setWidth, BitVec.getLsbD_setWidth, BitVec.getLsbD_allOnes, BitVec.getLsbD_extractLsb']
  by_cases h : i < 32
  · simp [h, hi]
  · have hw : i - 32 < 32 := by omega
    have e : 32 + (i - 32) = i := by omega
    simp [h, hi, hw, e, BitVec.getLsbD_of_ge r i (by omega)]

/-- A core whose vector unit takes its next operation in fc `t` or later. -/
def Core.holdVec (c : Core) (t : Nat) : Core := { c with vecNext := max c.vecNext t }

@[simp] theorem Core.tc_holdVec (c : Core) (t j : Nat) : (c.holdVec t).tc j = c.tc j := rfl

/-- A long operation on FP32 lanes (02 R36, 08 R196). -/
theorem longOp_core {q : Issue} {w : BitVec 44} {s0 s : State} {k : Nat} (h : issuesAt s0 q true [] [vD w, vA w] k s) (hw : bitsN w 32 12 = 0) (hy : vTy w = 0)
    (hr : hasRoom q s k) (f : BitVec 32 → BitVec 32) :
    let a := ((s.core q.core).tc q.ctx).rdV (vA w)
    ∃ u n, Begins q k n s u ∧
      let c := (((s.core q.core).begun q.ctx k n).holdVec (k + 2)).tookTrk q.ctx .longVec 1 (some (k + 12))
      longOp q w f s0 = u.setCore q.core (c.setTc q.ctx
        ((c.tc q.ctx).wrV (vD w) (if a.poison then poisonV else ⟨ofLanes32 (fun i => f (lane32 a.val i)), false⟩) (k + 12))) := by
  obtain ⟨u, n, hu, e⟩ := issue_begins h _
  have hc := Core.takeTrk_room hr (c := ((s.core q.core).begun q.ctx k n).holdVec (k + 2)) rfl (Core.tc_begun_same _ _ _ n) .longVec 1 (some (k + 12))
  refine ⟨u, n, hu, e.trans ?_⟩
  change legalOr (u.setCore q.core ((u.core q.core).holdVec (k + 2))) q 1 _ _ _ _ = _
  rw [hu.core, legalOr_good (by simp [firstCause, vecChecks, hw, hy])]
  simp only [State.core_setCore_same, hc]
  simp [State.updCtx, State.updCore]

/-- A reduction (02 R37). -/
theorem reduceOp_core {q : Issue} {w : BitVec 44} {s0 s : State} {k : Nat} (h : issuesAt s0 q true [vD w] [vA w] k s) (hw : bitsN w 32 12 = 0) (hy : vTy w ≠ 3)
    (hr : hasRoom q s k) (f i : BitVec 32 → BitVec 32 → BitVec 32) :
    let a := ((s.core q.core).tc q.ctx).rdV (vA w)
    let d := ((s.core q.core).tc q.ctx).rdS (vD w)
    ∃ u n, Begins q k n s u ∧
      let c := ((s.core q.core).begun q.ctx k n).tookTrk q.ctx .longVec 1 (some (k + 8))
      reduceOp q w f i s0 = u.setCore q.core (c.setTc q.ctx
        ((c.tc q.ctx).wrS (vD w) (if a.poison then poisonS else ⟨d.val.extractLsb' 32 32 ++ reduceLanes (vTy w) f i a.val, d.poison⟩) (k + 8))) := by
  obtain ⟨u, n, hu, e⟩ := issue_begins h _
  have hc := Core.takeTrk_room hr (c := (s.core q.core).begun q.ctx k n) rfl (Core.tc_begun_same _ _ _ n) .longVec 1 (some (k + 8))
  refine ⟨u, n, hu, e.trans ?_⟩
  have hy4 : vTy w < 2 ^ 2 := bitsN_lt w 26 2
  have hty : [0, 1, 2].contains (vTy w) = true := by
    have : vTy w = 0 ∨ vTy w = 1 ∨ vTy w = 2 := by omega
    rcases this with e | e | e <;> simp [e]
  rw [legalOr_good (by simp only [firstCause, vecChecks, hw, hty]; rfl)]
  simp only [hu.core, hc]
  simp [State.updCtx, State.updCore, setBits_low32]

theorem longOp_spec {q : Issue} {w : BitVec 44} {s0 s : State} {k : Nat} (h : issuesAt s0 q true [] [vD w, vA w] k s) (hw : bitsN w 32 12 = 0) (hy : vTy w = 0)
    (hr : hasRoom q s k) (f : BitVec 32 → BitVec 32) :
    let a := ((s.core q.core).tc q.ctx).rdV (vA w)
    let t := longOp q w f s0
    tookEntry q .longVec 1 (some (k + 12)) k s t ∧ (t.core q.core).vecNext = max (s.core q.core).vecNext (k + 2) ∧
    writesV q (vD w) (if a.poison then poisonV else ⟨ofLanes32 (fun i => f (lane32 a.val i)), false⟩) s
      (t.updCore q.core (fun d => { d with vecNext := (s.core q.core).vecNext })) := by
  obtain ⟨u, n, hu, e⟩ := longOp_core h hw hy hr f
  intro a t
  have ht : t = _ := e
  clear_value t
  subst ht
  refine ⟨?_, ?_, ?_⟩
  · rw [tookEntry, State.core_setCore_same, Core.setTc_eq]; rfl
  · rw [State.core_setCore_same, Core.setTc_eq]; rfl
  · rw [State.updCore, State.core_setCore_same, State.setCore_setCore, Core.setTc_eq]
    have := hu.writesV_setTc (c := Core.tookTrk ((s.core q.core).begun q.ctx k n) q.ctx .longVec 1 (some (k + 12))) rfl (fun j => rfl) (bitsN_lt w 6 5)
      (if a.poison then poisonV else ⟨ofLanes32 (fun i => f (lane32 a.val i)), false⟩) (k + 12)
    rwa [Core.setTc_eq] at this

theorem reduceOp_spec {q : Issue} {w : BitVec 44} {s0 s : State} {k : Nat} (h : issuesAt s0 q true [vD w] [vA w] k s) (hw : bitsN w 32 12 = 0) (hy : vTy w ≠ 3)
    (hr : hasRoom q s k) (f i : BitVec 32 → BitVec 32 → BitVec 32) :
    let a := ((s.core q.core).tc q.ctx).rdV (vA w)
    let d := ((s.core q.core).tc q.ctx).rdS (vD w)
    tookEntry q .longVec 1 (some (k + 8)) k s (reduceOp q w f i s0) ∧
    writesS q (vD w) (if a.poison then poisonS else ⟨d.val.extractLsb' 32 32 ++ reduceLanes (vTy w) f i a.val, d.poison⟩) s (reduceOp q w f i s0) := by
  obtain ⟨u, n, hu, e⟩ := reduceOp_core h hw hy hr f i
  rw [e]
  refine ⟨?_, hu.writesS_setTc (c := Core.tookTrk ((s.core q.core).begun q.ctx k n) q.ctx .longVec 1 (some (k + 8))) rfl (fun j => rfl) (bitsN_lt w 6 5) _ _⟩
  rw [tookEntry, State.core_setCore_same, Core.setTc_eq]; rfl

/-- Settles O13: the five long operations are `longOp`, the three reductions `reduceOp`. -/
theorem longOperationsAndReductions : Obligations.LongOperationsAndReductions := fun _ _ _ _ _ hw hr =>
  ⟨fun h hy => ⟨⟨_, rfl, longOp_spec h hw hy hr _⟩, ⟨_, rfl, longOp_spec h hw hy hr _⟩, ⟨_, rfl, longOp_spec h hw hy hr _⟩,
      ⟨_, rfl, longOp_spec h hw hy hr _⟩, ⟨_, rfl, longOp_spec h hw hy hr _⟩⟩,
    fun h hy => ⟨⟨_, rfl, reduceOp_spec h hw hy hr _ _⟩, ⟨_, rfl, reduceOp_spec h hw hy hr _ _⟩, ⟨_, rfl, reduceOp_spec h hw hy hr _ _⟩⟩⟩

end Sys2Proof.Machine

namespace Sys2Proof.Machine

/-! ### Scratchpad reads of a slot instruction -/

/-- An access resolves by the handle table and the context's base and count alone, whatever has begun to issue. -/
theorem Core.resolve_begun {c d : Core} {i k : Nat} (hh : d.handles = c.handles) (hx : d.tc i = (c.tc i).begun k) (h byte len : Nat) (wr : Bool) (mode : Nat) :
    d.resolve i h byte len wr mode = c.resolve i h byte len wr mode := by
  simp [Core.resolve, Core.handleAt, hh, hx]

/-- A shorter access at the same place resolves alike, whatever its mode. -/
theorem Core.resolve_shorter {c : Core} {i h byte len len' mode : Nat} {wr : Bool} {x : Nat × Nat} (hr : c.resolve i h byte len wr mode = .ok x) (hl : len' ≤ len) (mode' : Nat) :
    c.resolve i h byte len' wr mode' = .ok x := by
  simp only [Core.resolve] at hr ⊢
  split at hr
  · rename_i hc
    obtain ⟨h1, h2, h3, h4⟩ := hc
    rw [if_pos ⟨h1, h2, by omega, h4⟩]
    exact hr
  · cases hr

/-- `readsWell` of the core alone. -/
def Core.readsWell (c : Core) (i : Nat) (o : Spo) (len a : Nat) : Prop :=
  (∃ ph, c.resolve i o.handle o.byte len false (b2n o.take) = .ok (ph, a)) ∧
  ∀ j, a / 64 ≤ j → j ≤ (a + len - 1) / 64 → ((c.seenTell j).st = .full ∨ (c.seenTell j).st = .held) ∧ (c.seenTell j).tag = tagOf (c.tc i).seq o.tag

theorem readsWell_core {q : Issue} {s : State} {o : Spo} {len a : Nat} (h : readsWell q s o len a) : (s.core q.core).readsWell q.ctx o len a := h

theorem Core.readsWell_begun {c d : Core} {i k : Nat} (hh : d.handles = c.handles) (ht : d.tells = c.tells) (hk : d.taken = c.taken) (hx : d.tc i = (c.tc i).begun k)
    {o : Spo} {len a : Nat} (h : c.readsWell i o len a) : d.readsWell i o len a := by
  have hs : ∀ j, d.seenTell j = c.seenTell j := fun j => by simp only [Core.seenTell, Core.tell, ht, hk]
  unfold Core.readsWell
  simp only [Core.resolve_begun hh hx, hs, hx]
  exact h

/-- A core with other telltales, and other slots that the fc has emptied. -/
def Core.emptied (c : Core) (tl tk : AMap Tell) : Core := { c with tells := tl, taken := tk }

@[simp] theorem Core.tc_emptied (c : Core) (tl tk : AMap Tell) (j : Nat) : (c.emptied tl tk).tc j = c.tc j := rfl

@[simp] theorem Core.sail_emptied (c : Core) (tl tk : AMap Tell) (j : Nat) : (c.emptied tl tk).sail j = c.sail j := rfl

theorem Core.eq_emptied {c d : Core} (h : ({ d with tells := c.tells, taken := c.taken } : Core) = c) : d = c.emptied d.tells d.taken :=
  (congrArg (fun x : Core => x.emptied d.tells d.taken) h :)

/-- `tl` and `tk` are the telltales of a core and the slots that the fc has emptied, after a read of `len` bytes from `a`. -/
structure Core.ReadTells (c : Core) (o : Spo) (len a : Nat) (tl tk : AMap Tell) : Prop where
  seen : ∀ j, (c.emptied tl tk).seenTell j = c.seenTell j
  tell : ∀ j, (c.emptied tl tk).tell j = if a / 64 ≤ j ∧ j ≤ (a + len - 1) / 64 then c.readTell o.take j else c.tell j

/-- A module whose core has the telltales that a read leaves. -/
theorem readsPad_of_core {q : Issue} {s t : State} {o : Spo} {len a : Nat} {tl tk : AMap Tell} (h : (s.core q.core).ReadTells o len a tl tk)
    (hp : (t.core q.core).pad = (s.core q.core).pad) (hl : (t.core q.core).tells = tl) (hk : (t.core q.core).taken = tk) : readsPad q o len a s t := by
  refine ⟨hp, fun j => ?_, fun j => ?_⟩
  · rw [← h.seen j]
    simp only [Core.seenTell, Core.tell, hl, hk]; rfl
  · rw [← h.tell j]
    simp only [Core.tell, hl]; rfl

/-- A slot of a good read is no poison. -/
theorem Core.readsWell.fine {c : Core} {i : Nat} {o : Spo} {len a : Nat} (h : c.readsWell i o len a) (ph : Nat) {j : Nat} (h1 : a / 64 ≤ j) (h2 : j ≤ (a + len - 1) / 64) :
    (c.readSlot ph j (tagOf (c.tc i).seq o.tag) o.take).2.1 = false := by
  obtain ⟨-, hg⟩ := h
  obtain ⟨hs, ht⟩ := hg j h1 h2
  obtain ⟨d, hd, -⟩ := Core.readSlot_good ph o.take hs ht
  rw [hd]

/-- A good read through an operand. -/
theorem readOp_well {q : Issue} {s : State} {c : Core} (hc : s.core q.core = c) {o : Spo} {len a : Nat} (hl : 0 < len) (h : c.readsWell q.ctx o len a) :
    ∃ tl tk, c.ReadTells o len a tl tk ∧ readOp s q o len = (s.setCore q.core (c.emptied tl tk), Memory.readN c.pad a len, false) := by
  obtain ⟨⟨ph, hr⟩, hg⟩ := h
  obtain ⟨d, hd, he, hseen, htell⟩ := Core.readBytes_well hl hr hg
  rw [Core.eq_emptied he] at hd hseen htell
  refine ⟨_, _, ⟨hseen, htell⟩, ?_⟩
  simp only [readOp, hc, Core.readSpo, hd, violateOpt]

/-- A good read of items that follow one another. -/
theorem readItemsOp_well {q : Issue} {s : State} {c : Core} (hc : s.core q.core = c) {o : Spo} {size count a : Nat} (hs : 0 < size) (hn : 0 < count)
    (h : c.readsWell q.ctx o (size * count) a) :
    ∃ tl tk, c.ReadTells o (size * count) a tl tk ∧ readItemsOp s q o size count =
      (s.setCore q.core (c.emptied tl tk), (List.range count).map fun i => (Memory.readN c.pad (a + size * i) size, false)) := by
  have hfine := fun ph j => h.fine ph (j := j)
  obtain ⟨⟨ph, hr⟩, hg⟩ := h
  have hlen : 0 < size * count := Nat.mul_pos hs hn
  obtain ⟨d, hd, he, hseen, htell⟩ := Core.readBytes_well hlen hr hg
  rw [Core.eq_emptied he] at hd hseen htell
  refine ⟨_, _, ⟨hseen, htell⟩, ?_⟩
  have hcore := congrArg ReadOut.core hd
  have hviol := congrArg ReadOut.viol hd
  simp only [Core.readBytes, hr] at hcore hviol
  simp only [readItemsOp, hc, Core.readItems, hr, hcore, hviol, violateOpt, Prod.mk.injEq, true_and]
  refine List.map_congr_left fun i hi => ?_
  have hin : ∀ b, a + size * i ≤ b → b < a + size * i + size → a / 64 ≤ b / 64 ∧ b / 64 ≤ (a + size * count - 1) / 64 := fun b h1 h2 => by
    have hic : size * i + size ≤ size * count := Nat.mul_succ size i ▸ Nat.mul_le_mul_left _ (List.mem_range.mp hi)
    exact ⟨Nat.div_le_div_right (by omega), Nat.div_le_div_right (by omega)⟩
  have hbytes := maskedBytes_good c.pad (fun slot => (c.readSlot ph slot (tagOf (c.tc q.ctx).seq o.tag) o.take).2.1) size (a + size * i)
    (fun b h1 h2 => have ⟨h3, h4⟩ := hin b h1 h2; hfine ph _ h3 h4)
  have hslots : (List.range ((a + size * i + size - 1) / 64 - (a + size * i) / 64 + 1)).any
      (fun j => (c.readSlot ph ((a + size * i) / 64 + j) (tagOf (c.tc q.ctx).seq o.tag) o.take).2.1) = false := by
    simp only [List.any_eq_false, List.mem_range, Bool.not_eq_true]
    intro j hj
    obtain ⟨h1, -⟩ := hin (a + size * i) (by omega) (by omega)
    obtain ⟨-, h2⟩ := hin (a + size * i + size - 1) (by omega) (by omega)
    exact hfine ph _ (by omega) (by omega)
  rw [hbytes, hslots]

/-- The slots of a read of at least 16 bytes answer in the time of its first bank. -/
theorem Core.readsWell.readLat {c : Core} {i : Nat} {o : Spo} {len a : Nat} (h : c.readsWell i o len a) (hl : 16 ≤ len) : c.readLat i o = bankLat a := by
  obtain ⟨⟨ph, hr⟩, -⟩ := h
  simp only [Core.readLat, Core.resolve_shorter hr hl]

/-! ### The sail slot -/

theorem firstCause_append {xs ys : List (Bool × Nat)} (hx : firstCause xs = none) (hy : firstCause ys = none) : firstCause (xs ++ ys) = none := by
  induction xs with
  | nil => exact hy
  | cons x xs ih =>
    obtain ⟨b, c⟩ := x
    cases b with
    | true => cases hx
    | false => exact ih hx

/-- A sail-slot word that is legal, on a sail that the context owns, has its effect. -/
theorem Begins.sailOp {q : Issue} {k n : Nat} {s u : State} (hu : Begins q k n s u) {w : BitVec 80} {resv : List (Nat × Nat)} (h : sailLegal q w resv s)
    {extra : List (Bool × Nat)} (he : firstCause extra = none) (bad good : State → State) : Machine.sailOp u q w (sailChecks u q w resv ++ extra) bad good = good u := by
  obtain ⟨hi, hv, ho⟩ := h
  have hv' : resv.any (fun r => bitsN w r.1 r.2 != 0) = false := by simpa using hv
  have hc : firstCause (sailChecks u q w resv) = none := by simp only [sailChecks, firstCause, hu.rigSails, hi, hv']; rfl
  unfold Machine.sailOp
  rw [legalOr_good (firstCause_append hc he), hu.core, Core.sail_begun, if_pos ho]

/-- The same where the word's common checks are the only ones. -/
theorem Begins.sailOp_common {q : Issue} {k n : Nat} {s u : State} (hu : Begins q k n s u) {w : BitVec 80} {resv : List (Nat × Nat)} (h : sailLegal q w resv s)
    (bad good : State → State) : Machine.sailOp u q w (sailChecks u q w resv) bad good = good u := by
  simpa using hu.sailOp h (extra := []) rfl bad good

theorem mmRows_pos (w : BitVec 80) : 0 < mmRows w := Nat.succ_pos _

theorem sailOf_lt (w : BitVec 80) : sailOf w < 4 := bitsN_lt w 6 2

/-- A slot instruction that writes no register and whose effect is on its core. -/
theorem Begins.keepsRegs_setCore {q : Issue} {k n : Nat} {s u : State} (hu : Begins q k n s u) {C : Core → Core → Prop} {c : Core} (hc : C (s.core q.core) c)
    (hx : ∀ j, c.tc j = ((s.core q.core).begun q.ctx k n).tc j) : keepsRegs q none none s (u.setCore q.core c) ∧ slotFrame q C s (u.setCore q.core c) := by
  refine ⟨⟨fun r _ => ?_, fun r _ => ?_⟩, hu.slotFrame_setCore hc fun j hj => ?_⟩
  · rw [State.core_setCore_same, hx, Core.tc_begun_same, Ctx.sAt_begun]
  · rw [State.core_setCore_same, hx, Core.tc_begun_same, Ctx.vAt_begun]
  · rw [hx, Core.tc_begun_ne _ _ _ _ hj]

end Sys2Proof.Machine

namespace Sys2Proof.Machine

/-! ## Tile and accumulator loads (O18) -/

theorem tileBytes_pos (f : Nat) : 0 < tileBytes f := by
  have he : 2 ≤ elemBits f := by unfold elemBits; split <;> decide
  have hk : 64 ≤ tileK f := by unfold tileK; split <;> decide
  have hm : 64 * 2 ≤ tileK f * elemBits f := Nat.mul_le_mul hk he
  unfold tileBytes planeBytes colBytes
  omega

theorem loadBytes_pos (kind fmt : Nat) : 0 < loadBytes kind fmt := by
  unfold loadBytes
  split
  · exact tileBytes_pos fmt
  · decide
  · decide

/-- The core that MLDW leaves: an entry taken, the source's slots read, the tile in the shadow tile. -/
def Core.tileLoaded (c : Core) (q : Issue) (w : BitVec 80) (a : Nat) (tl tk : AMap Tell) : Core :=
  let x := c.sail (sailOf w)
  ((c.tookTrk q.ctx .tileLoad 1 none).emptied tl tk).setSail (sailOf w)
    { x.shade { kind := bitsN w 36 2, fmt := bitsN w 32 4, data := BitVec.ofNat 33792 (Memory.readN c.pad a (loadBytes (bitsN w 36 2) (bitsN w 32 4))), src := a } with
      loads := x.loads ++ [c.nextTrk] }

theorem exec_mldw {q : Issue} {w : BitVec 80} {s0 s : State} {k a : Nat} (h : issuesAt s0 q false [] [] k s) (hw : sailLegal q w [(38, 3), (41, 39)] s)
    (hm : (spoAt w 8).reads = true) (hk : bitsN w 36 2 ≠ 3) (hf : bitsN w 36 2 = 0 → fmtOk (bitsN w 32 4) = true) (hroom : hasRoom q s k)
    (hr : readsWell q s (spoAt w 8) (loadBytes (bitsN w 36 2) (bitsN w 32 4)) a) :
    ∃ u n tl tk, Begins q k n s u ∧ (s.core q.core).ReadTells (spoAt w 8) (loadBytes (bitsN w 36 2) (bitsN w 32 4)) a tl tk ∧
      exec (.mldw q w) s0 = .next (u.setCore q.core (((s.core q.core).begun q.ctx k n).tileLoaded q w a tl tk)) := by
  obtain ⟨u, n, hu, e⟩ := issue_begins h _
  have hc := Core.takeTrk_room hroom (c := (s.core q.core).begun q.ctx k n) rfl (Core.tc_begun_same _ _ _ n) .tileLoad 1 none
  have hread := Core.readsWell_begun (c := s.core q.core) (d := ((s.core q.core).begun q.ctx k n).tookTrk q.ctx .tileLoad 1 none) rfl rfl rfl (Core.tc_begun_same _ _ _ n) (readsWell_core hr)
  obtain ⟨tl, tk, ht, ho⟩ := readOp_well (q := q) (s := u.setCore q.core (((s.core q.core).begun q.ctx k n).tookTrk q.ctx .tileLoad 1 none)) (State.core_setCore_same ..)
    (loadBytes_pos _ _) hread
  obtain ⟨⟨ph, hres⟩, -⟩ := hread
  refine ⟨u, n, tl, tk, hu, ⟨ht.seen, ht.tell⟩, (congrArg Host.Outcome.next e).trans ?_⟩
  have hfmt : (bitsN w 36 2 == 0 && !fmtOk (bitsN w 32 4)) = false := by
    by_cases h0 : bitsN w 36 2 = 0
    · simp [hf h0]
    · simp [h0]
  rw [hu.sailOp hw (by simp only [firstCause, hm, hk, hfmt, beq_iff_eq]; rfl)]
  simp only [hu.core, hc, ho, Core.resolve_shorter hres (Nat.le_refl _)]
  simp only [State.updSail, State.updCore, State.core_setCore_same, State.setCore_setCore]
  rfl

/-- MLDW (02 R26): the tile in the shadow tile, its entry held, and of the core only the sail and the slots read differ. -/
theorem mldw_spec {q : Issue} {w : BitVec 80} {s0 s : State} {k a : Nat} (h : issuesAt s0 q false [] [] k s) (hw : sailLegal q w [(38, 3), (41, 39)] s)
    (hm : (spoAt w 8).reads = true) (hk : bitsN w 36 2 ≠ 3) (hf : bitsN w 36 2 = 0 → fmtOk (bitsN w 32 4) = true) (hroom : hasRoom q s k)
    (hr : readsWell q s (spoAt w 8) (loadBytes (bitsN w 36 2) (bitsN w 32 4)) a) :
    Does (.mldw q w) s0 (fun t =>
      let c := s.core q.core
      let x := c.sail (sailOf w)
      let n := loadBytes (bitsN w 36 2) (bitsN w 32 4)
      (t.core q.core).sail (sailOf w) = { x.shade { kind := bitsN w 36 2, fmt := bitsN w 32 4, data := BitVec.ofNat 33792 (Memory.readN c.pad a n), src := a } with
        loads := x.loads ++ [c.nextTrk] } ∧
      tookEntry q .tileLoad 1 none k s t ∧ readsPad q (spoAt w 8) n a s t ∧ keepsRegs q none none s t ∧ slotFrame q (Core.onlySail (sailOf w)) s t) := by
  obtain ⟨u, n, tl, tk, hu, ht, e⟩ := exec_mldw h hw hm hk hf hroom hr
  have hi := sailOf_lt w
  refine ⟨_, e, ?_, ?_, readsPad_of_core ht ?_ ?_ ?_, hu.keepsRegs_setCore ⟨?_, fun j hj => ?_⟩ fun j => ?_⟩
  · rw [State.core_setCore_same, Core.tileLoaded, Core.sail_setSail_same _ _ hi]; rfl
  · rw [tookEntry, State.core_setCore_same, Core.tileLoaded, Core.setSail_eq _ _ hi]; rfl
  · rw [State.core_setCore_same, Core.tileLoaded, Core.setSail_eq _ _ hi]; rfl
  · rw [State.core_setCore_same, Core.tileLoaded, Core.setSail_eq _ _ hi]; rfl
  · rw [State.core_setCore_same, Core.tileLoaded, Core.setSail_eq _ _ hi]; rfl
  · rw [Core.tileLoaded, Core.setSail_eq _ _ hi]; rfl
  · rw [Core.tileLoaded, Core.sail_setSail_ne _ _ hj]; rfl
  · rw [Core.tileLoaded, Core.tc_setSail]; rfl

/-! ### MACCL -/

/-- The rows loaded stand in the accumulator from row `base` on; SDIST accumulates them no longer. -/
theorem loadAccRows_spec (xs : List Nat) : ∀ (base : Nat) (x : Sail),
    let y := loadAccRows (xs.map fun d => (d, false)) base x
    (∀ r, y.accRow r = if base ≤ r ∧ r < base + xs.length then ⟨BitVec.ofNat 2048 (xs.getD (r - base) 0), false⟩ else x.accRow r) ∧
    (∀ r, r ∈ y.dist ↔ r ∈ x.dist ∧ ¬ (base ≤ r ∧ r < base + xs.length)) ∧ { y with acc := x.acc, dist := x.dist } = x := by
  induction xs with
  | nil =>
    intro base x
    have : ∀ r, ¬ (base ≤ r ∧ r < base + 0) := by intro r; omega
    exact ⟨fun r => (if_neg (this r)).symm, fun r => by simp [loadAccRows], rfl⟩
  | cons d xs ih =>
    intro base x
    obtain ⟨hacc, hdist, hrest⟩ := ih (base + 1) { x with acc := AMap.put x.acc base ⟨BitVec.ofNat 2048 d, false⟩, dist := x.dist.filter (· != base) }
    refine ⟨fun r => ?_, fun r => ?_, (congrArg (fun y : Sail => { y with acc := x.acc, dist := x.dist }) hrest :)⟩
    · refine (hacc r).trans ?_
      simp only [Sail.accRow, AMap.at_put, List.length_cons]
      by_cases e : r = base
      · subst e
        simp
      · by_cases hr : base + 1 ≤ r ∧ r < base + 1 + xs.length
        · have hi : r - base = r - (base + 1) + 1 := by omega
          rw [if_pos hr, if_pos (by omega), hi]
          rfl
        · rw [if_neg hr, if_neg e, if_neg (by omega)]
    · refine (hdist r).trans ?_
      simp only [List.mem_filter, List.length_cons, bne_iff_ne]
      constructor
      · rintro ⟨⟨h1, h2⟩, h3⟩
        exact ⟨h1, by omega⟩
      · rintro ⟨h1, h2⟩
        exact ⟨⟨h1, by omega⟩, by omega⟩

/-- The core that MACCL leaves: the source's slots read, its rows in the accumulator. -/
theorem exec_maccl {q : Issue} {w : BitVec 80} {s0 s : State} {k a : Nat} (h : issuesAt s0 q false [] [] k s) (hw : sailLegal q w [(47, 33)] s)
    (hm : (spoAt w 8).reads = true) (hrows : mmAcc w + mmRows w ≤ 512) (hr : readsWell q s (spoAt w 8) (256 * mmRows w) a) :
    ∃ u n tl tk, Begins q k n s u ∧ (s.core q.core).ReadTells (spoAt w 8) (256 * mmRows w) a tl tk ∧
      exec (.maccl q w) s0 = .next (u.setCore q.core ((((s.core q.core).begun q.ctx k n).emptied tl tk).setSail (sailOf w)
        (loadAccRows (((List.range (mmRows w)).map fun j => Memory.readN (s.core q.core).pad (a + 256 * j) 256).map fun d => (d, false)) (mmAcc w)
          ((s.core q.core).sail (sailOf w))))) := by
  obtain ⟨u, n, hu, e⟩ := issue_begins h _
  have hread := Core.readsWell_begun (c := s.core q.core) (d := (s.core q.core).begun q.ctx k n) rfl rfl rfl (Core.tc_begun_same _ _ _ n) (readsWell_core hr)
  obtain ⟨tl, tk, ht, ho⟩ := readItemsOp_well (q := q) hu.core (by decide) (mmRows_pos w) hread
  refine ⟨u, n, tl, tk, hu, ⟨ht.seen, ht.tell⟩, (congrArg Host.Outcome.next e).trans ?_⟩
  rw [hu.sailOp hw (by simp only [firstCause, hm, Nat.not_lt.mpr hrows, decide_false]; rfl)]
  simp only [ho, State.updSail, State.updCore, State.core_setCore_same, State.setCore_setCore, List.map_map]
  rfl

/-- MACCL (08 R189): the rows in the accumulator, and of the core only the sail and the slots read differ. -/
theorem maccl_spec {q : Issue} {w : BitVec 80} {s0 s : State} {k a : Nat} (h : issuesAt s0 q false [] [] k s) (hw : sailLegal q w [(47, 33)] s)
    (hm : (spoAt w 8).reads = true) (hrows : mmAcc w + mmRows w ≤ 512) (hr : readsWell q s (spoAt w 8) (256 * mmRows w) a) :
    Does (.maccl q w) s0 (fun t =>
      let c := s.core q.core
      let x := c.sail (sailOf w)
      let y := (t.core q.core).sail (sailOf w)
      let mine := fun (r : Nat) => mmAcc w ≤ r ∧ r < mmAcc w + mmRows w
      (∀ r, y.accRow r = if mine r then ⟨BitVec.ofNat 2048 (Memory.readN c.pad (a + 256 * (r - mmAcc w)) 256), false⟩ else x.accRow r) ∧
      (∀ r, r ∈ y.dist ↔ r ∈ x.dist ∧ ¬ mine r) ∧ { y with acc := x.acc, dist := x.dist } = x ∧
      readsPad q (spoAt w 8) (256 * mmRows w) a s t ∧ keepsRegs q none none s t ∧ slotFrame q (Core.onlySail (sailOf w)) s t) := by
  obtain ⟨u, n, tl, tk, hu, ht, e⟩ := exec_maccl h hw hm hrows hr
  have hi := sailOf_lt w
  obtain ⟨hacc, hdist, hrest⟩ := loadAccRows_spec ((List.range (mmRows w)).map fun j => Memory.readN (s.core q.core).pad (a + 256 * j) 256) (mmAcc w) ((s.core q.core).sail (sailOf w))
  rw [List.length_map, List.length_range] at hacc hdist
  refine ⟨_, e, ?_⟩
  dsimp only
  rw [State.core_setCore_same, Core.sail_setSail_same _ _ hi]
  refine ⟨fun r => ?_, hdist, hrest, readsPad_of_core ht ?_ ?_ ?_, hu.keepsRegs_setCore ⟨?_, fun j hj => ?_⟩ fun j => ?_⟩
  · rw [hacc r]
    split
    · rename_i hr
      rw [List.getD_eq_getElem?_getD, List.getElem?_map, List.getElem?_range (by omega)]
      rfl
    · rfl
  · rw [State.core_setCore_same, Core.setSail_eq _ _ hi]; rfl
  · rw [State.core_setCore_same, Core.setSail_eq _ _ hi]; rfl
  · rw [State.core_setCore_same, Core.setSail_eq _ _ hi]; rfl
  · rw [Core.setSail_eq _ _ hi]; rfl
  · rw [Core.sail_setSail_ne _ _ hj]; rfl
  · rw [Core.tc_setSail]; rfl

/-! ### TILE_LOAD_DONE -/

/-- The sail and the tracker after the oldest load of a sail completes; nothing else of the core differs. -/
theorem loadDone_spec {c : Core} {i id : Nat} {r : List Nat} (hi : i < 4) (hl : (c.sail i).loads = id :: r) :
    let x := c.sail i
    let d := c.loadDone i
    d.sail i = (if r = [] then { x with loads := [], opWait := false, shadow := none, active := x.resident } else { x with loads := r }) ∧
    (∀ e, e ∈ d.tracks ↔ e ∈ c.tracks ∧ e.id ≠ id) ∧ (∀ j, j ≠ i → d.sail j = c.sail j) ∧ { d with sails := c.sails, tracks := c.tracks } = c := by
  have e : c.loadDone i = (c.setSail i (if r = [] then { c.sail i with
      loads := [], opWait := false, shadow := none, active := (c.sail i).resident } else { c.sail i with loads := r })).freeTrk id := by
    unfold Core.loadDone
    cases r with
    | nil => simp [hl] <;> rfl
    | cons z r => simp [hl]
  intro x d
  have hd : d = _ := e
  clear_value d
  subst hd
  generalize (if r = [] then _ else _) = y
  refine ⟨Core.sail_setSail_same c y hi, fun e => ?_, fun j hj => Core.sail_setSail_ne c y hj, ?_⟩
  · rw [Core.setSail_eq _ _ hi]
    simp [Core.freeTrk]
  · rw [Core.setSail_eq _ _ hi]; rfl

theorem tileLoadDone_held {s : State} {m : Fin 9216} {j : Fin 4} (h : (s.grp (s.corePart m)).stalled.isSome = true) : exec (.tileLoadDone m j) s = .next s :=
  congrArg Host.Outcome.next (if_pos h)

theorem tileLoadDone_free {s : State} {m : Fin 9216} {j : Fin 4} (h : (s.grp (s.corePart m)).stalled = none) :
    exec (.tileLoadDone m j) s = .next (s.updCore m (fun c => c.loadDone j)) := congrArg Host.Outcome.next (if_neg (by simp [h]))

/-- Settles O18: MLDW and MACCL by the sail that they leave, TILE_LOAD_DONE by what the completion of the oldest load does. -/
theorem tileAndAccumulatorLoads : Obligations.TileAndAccumulatorLoads := by
  intro q w s0 s k a
  refine ⟨fun h hw hm hk hf hroom hr => ?_, maccl_spec, fun m j id r hl => ⟨fun hs => ⟨s, tileLoadDone_held hs, rfl⟩, fun hs => ⟨_, tileLoadDone_free hs, ?_⟩⟩⟩
  · obtain ⟨t, e, hy, hrest⟩ := mldw_spec h hw hm hk hf hroom hr
    refine ⟨t, e, ?_⟩
    dsimp only
    rw [hy]
    exact ⟨rfl, rfl, rfl, rfl, hrest⟩
  · obtain ⟨hsail, htracks, hothers, hcore⟩ := loadDone_spec j.isLt hl
    rw [State.core_updCore_same]
    exact ⟨hsail, htracks, fun r hr => s.core_updCore_ne _ hr, hothers, hcore, rfl⟩

end Sys2Proof.Machine

namespace Sys2Proof.Machine

/-! ## The compare modes (O19) -/

/-- The query rows of an SDIST, as a good read gives them. -/
def queryRows (c : Core) (w : BitVec 80) (a : Nat) : List (Nat × Bool) := (List.range (mmRows w)).map fun j => (Memory.readN c.pad (a + 64 * j) 64, false)

/-- The accumulator rows that an SDIST leaves, and whether a lane saturated. -/
def Core.distances (c : Core) (w : BitVec 80) (a : Nat) (t : Tile) : AMap VReg × Bool :=
  distRows (bitAt w 49) (mmStart w == 1) t (queryRows c w a) (mmAcc w) ((c.sail (sailOf w)).acc, false)

/-- The sail that an SDIST of fc `k` leaves. -/
def Core.distSail (c : Core) (w : BitVec 80) (k a : Nat) (t : Tile) : Sail :=
  let x := c.sail (sailOf w)
  { (x.running k (mmRows w) 4 (bankLat a + 12)).switched with
    acc := (c.distances w a t).1, distOpen := true,
    dist := x.dist ++ ((List.range (mmRows w)).map (mmAcc w + ·)).filter (fun r => !x.dist.contains r) }

theorem Core.mem_dist_distSail (c : Core) (w : BitVec 80) (k a : Nat) (t : Tile) (r : Nat) :
    r ∈ (c.distSail w k a t).dist ↔ r ∈ (c.sail (sailOf w)).dist ∨ (mmAcc w ≤ r ∧ r < mmAcc w + mmRows w) := by
  have hmine : (∃ j < mmRows w, mmAcc w + j = r) ↔ mmAcc w ≤ r ∧ r < mmAcc w + mmRows w :=
    ⟨by rintro ⟨j, hj, rfl⟩; omega, fun ⟨h1, h2⟩ => ⟨r - mmAcc w, by omega, by omega⟩⟩
  by_cases h : r ∈ (c.sail (sailOf w)).dist <;> simp [Core.distSail, hmine, h]

/-- The core that an SDIST leaves. -/
def Core.distanced (c : Core) (q : Issue) (w : BitVec 80) (k a : Nat) (t : Tile) (tl tk : AMap Tell) : Core :=
  ((c.emptied tl tk).setSail (sailOf w) (c.distSail w k a t)).setTc q.ctx { c.tc q.ctx with distSat := (c.tc q.ctx).distSat || (c.distances w a t).2 }

/-- What a fault, if one strikes, then does to an SDIST's rows. -/
def distUpset (s : State) (q : Issue) (w : BitVec 80) (t : Tile) (xs : List (Nat × Bool)) : Option Upset → State
  | some e =>
    if e.row < mmRows w then
      upsetRow s q.core (sailOf w) (mmAcc w + e.row) e (distCheckFails (bytes64 (xs.getD e.row (0, false)).1 0) (fun n => bytes64 t.data.toNat (64 * n)) e.err)
    else s
  | none => s

theorem exec_sdist {q : Issue} {w : BitVec 80} {s0 s : State} {k a : Nat} {t : Tile} (h : issuesAt s0 q false [] [] k s) (hw : sailLegal q w [(50, 30)] s)
    (hst : mmStart w ≠ 3) (hm : (spoAt w 8).reads = true) (hrows : mmAcc w + mmRows w ≤ 512) (ht : ((s.core q.core).sail (sailOf w)).resident = some t) (hk : t.kind = 1)
    (ho : mmStart w = 0 → ((s.core q.core).sail (sailOf w)).distOpen = true) (hr : readsWell q s (spoAt w 8) (64 * mmRows w) a) (up : Option Upset) :
    ∃ u n tl tk, Begins q k n s u ∧ (s.core q.core).ReadTells (spoAt w 8) (64 * mmRows w) a tl tk ∧
      exec (.sdist q w up) s0 = .next (distUpset (u.setCore q.core (((s.core q.core).begun q.ctx k n).distanced q w k a t tl tk)) q w t (queryRows (s.core q.core) w a) up) := by
  obtain ⟨u, n, hu, e⟩ := issue_begins h _
  have hread := Core.readsWell_begun (c := s.core q.core) (d := (s.core q.core).begun q.ctx k n) rfl rfl rfl (Core.tc_begun_same _ _ _ n) (readsWell_core hr)
  obtain ⟨tl, tk, hrt, hrd⟩ := readItemsOp_well (q := q) hu.core (by decide) (mmRows_pos w) hread
  have hlat := hread.readLat (by have := mmRows_pos w; omega)
  refine ⟨u, n, tl, tk, hu, ⟨hrt.seen, hrt.tell⟩, (congrArg Host.Outcome.next e).trans ?_⟩
  have hopen : (mmStart w == 0 && !((s.core q.core).sail (sailOf w)).distOpen) = false := by
    by_cases h0 : mmStart w = 0
    · simp [ho h0]
    · simp [h0]
  rw [hu.sailOp hw (by
    simp only [hu.core, Core.sail_begun, firstCause, hm, Nat.not_lt.mpr hrows, decide_false, ht, hk, hopen, hst, beq_iff_eq]; rfl)]
  simp only [hu.core, Core.sail_begun, ht, hrd, hlat, State.updSail, State.updCtx, State.updCore, State.core_setCore_same, State.setCore_setCore, Core.tc_setSail, Core.tc_emptied]
  cases up <;> rfl

/-- SDIST (02 R34): the distances added in the accumulator, and of the core only the sail, the saturation flag and the slots read differ. -/
theorem sdist_spec {q : Issue} {w : BitVec 80} {s0 s : State} {k a : Nat} {t : Tile} (h : issuesAt s0 q false [] [] k s) (hw : sailLegal q w [(50, 30)] s)
    (hst : mmStart w ≠ 3) (hm : (spoAt w 8).reads = true) (hrows : mmAcc w + mmRows w ≤ 512) (ht : ((s.core q.core).sail (sailOf w)).resident = some t) (hk : t.kind = 1)
    (ho : mmStart w = 0 → ((s.core q.core).sail (sailOf w)).distOpen = true) (hr : readsWell q s (spoAt w 8) (64 * mmRows w) a) :
    Does (.sdist q w none) s0 (fun v =>
      let c := s.core q.core
      (v.core q.core).sail (sailOf w) = c.distSail w k a t ∧ ((v.core q.core).tc q.ctx).distSat = ((c.tc q.ctx).distSat || (c.distances w a t).2) ∧
      readsPad q (spoAt w 8) (64 * mmRows w) a s v ∧ keepsRegs q none none s v ∧ slotFrame q (Core.onlySail (sailOf w)) s v) := by
  obtain ⟨u, n, tl, tk, hu, hrt, e⟩ := exec_sdist h hw hst hm hrows ht hk ho hr none
  have hi := sailOf_lt w
  refine ⟨_, e, ?_⟩
  simp only [distUpset, State.core_setCore_same, Core.distanced, Core.sail_setTc, Core.sail_setSail_same _ _ hi, Core.tc_setTc_same, Core.tc_begun_same]
  refine ⟨rfl, rfl, readsPad_of_core hrt ?_ ?_ ?_, ⟨fun r _ => ?_, fun r _ => ?_⟩, hu.slotFrame_setTc ⟨?_, fun j hj => ?_⟩ fun j => ?_⟩
  · rw [State.core_setCore_same, Core.setTc_eq, Core.setSail_eq _ _ hi]; rfl
  · rw [State.core_setCore_same, Core.setTc_eq, Core.setSail_eq _ _ hi]; rfl
  · rw [State.core_setCore_same, Core.setTc_eq, Core.setSail_eq _ _ hi]; rfl
  · rw [State.core_setCore_same, Core.tc_setTc_same]; rfl
  · rw [State.core_setCore_same, Core.tc_setTc_same]; rfl
  · rw [Core.setTc_eq, Core.setSail_eq _ _ hi]; rfl
  · rw [Core.sail_setTc, Core.sail_setSail_ne _ _ hj]; rfl
  · rw [Core.tc_setSail]; rfl

/-! ### SMAX and SMIN -/

/-- The core that SMAX or SMIN leaves: the elements picked, and the mask of those from vB. -/
theorem cmpPick_core {q : Issue} {w : BitVec 80} {s0 s : State} {k : Nat} (h : issuesAt s0 q false [cmpSD w] [cmpVA w, cmpVB w, cmpVD w] k s)
    (hw : sailLegal q w [(28, 4), (37, 43)] s) (takeB : BitVec 32 → BitVec 32 → Bool) :
    let a := ((s.core q.core).tc q.ctx).rdV (cmpVA w)
    let b := ((s.core q.core).tc q.ctx).rdV (cmpVB w)
    ∃ u n, Begins q k n s u ∧ cmpPick q w takeB s0 = u.setCore q.core (((s.core q.core).begun q.ctx k n).setTc q.ctx
      (((((s.core q.core).tc q.ctx).begun k).wrV (cmpVD w) (if a.poison || b.poison then poisonV
          else ⟨ofLanes32 fun i => if takeB (lane32 a.val i) (lane32 b.val i) then lane32 b.val i else lane32 a.val i, false⟩) (k + 2)).wrS
        (cmpSD w) (if a.poison || b.poison then poisonS else ⟨maskOf fun i => takeB (lane32 a.val i) (lane32 b.val i), false⟩) (k + 2))) := by
  obtain ⟨u, n, hu, e⟩ := issue_begins h _
  refine ⟨u, n, hu, e.trans ?_⟩
  rw [hu.sailOp_common hw]
  simp only [State.updCtx, State.updCore, hu.core, Core.tc_begun_same, Ctx.rdV_begun]
  split <;> rfl

theorem cmpPick_spec {q : Issue} {w : BitVec 80} {s0 s : State} {k : Nat} (h : issuesAt s0 q false [cmpSD w] [cmpVA w, cmpVB w, cmpVD w] k s)
    (hw : sailLegal q w [(28, 4), (37, 43)] s) (takeB : BitVec 32 → BitVec 32 → Prop) [DecidableRel takeB] :
    let a := ((s.core q.core).tc q.ctx).rdV (cmpVA w)
    let b := ((s.core q.core).tc q.ctx).rdV (cmpVB w)
    let t := cmpPick q w (fun a b => decide (takeB a b)) s0
    let y := (t.core q.core).tc q.ctx
    y.vAt (cmpVD w) = (if a.poison || b.poison then poisonV
      else ⟨ofLanes32 fun n => if takeB (lane32 a.val n) (lane32 b.val n) then lane32 b.val n else lane32 a.val n, false⟩) ∧
    y.sAt (cmpSD w) = (if a.poison || b.poison then poisonS else ⟨maskOf fun n => decide (takeB (lane32 a.val n) (lane32 b.val n)), false⟩) ∧
    keepsRegs q (some (cmpSD w)) (some (cmpVD w)) s t ∧ regFrame q s t := by
  obtain ⟨u, n, hu, e⟩ := cmpPick_core h hw (fun a b => decide (takeB a b))
  have hv : cmpVD w < 32 := bitsN_lt w 8 5
  have hs : cmpSD w < 32 := bitsN_lt w 23 5
  intro a b t y
  have ht : t = _ := e
  simp only [y]
  clear_value t
  subst ht
  simp only [State.core_setCore_same, Core.tc_setTc_same, decide_eq_true_eq]
  refine ⟨?_, ?_, ⟨fun r hr => ?_, fun r hr => ?_⟩, hu.regFrame_setCore (Core.onlyCtx_setTc (Core.onlyCtx_begun ..) _ _) (fun j hj => ?_) ?_⟩
  · rw [Ctx.vAt_wrS, Ctx.vAt_wrV_same _ _ _ hv]
  · rw [Ctx.sAt_wrS_same _ _ _ hs]
  · rw [State.core_setCore_same, Core.tc_setTc_same, Ctx.sAt_wrS_ne _ _ _ (fun e => hr (congrArg some e.symm)), Ctx.sAt_wrV]; rfl
  · rw [State.core_setCore_same, Core.tc_setTc_same, Ctx.vAt_wrS, Ctx.vAt_wrV_ne _ _ _ (fun e => hr (congrArg some e.symm))]; rfl
  · rw [Core.tc_setTc_ne _ _ hj, Core.tc_begun_ne _ _ _ _ hj]
  · rw [Core.tc_setTc_same]
    exact Ctx.onlyRegs_wrS (Ctx.onlyRegs_wrV (Ctx.onlyRegs_begun _ _) _ _ _) _ _ _

/-! ### SRANK and STHR -/

theorem exec_srank {q : Issue} {w : BitVec 80} {s0 s : State} {k : Nat} {t : Tile} (h : issuesAt s0 q false [] [cmpVD w] k s)
    (hw : sailLegal q w [(28, 4), (37, 43)] s) (ht : ((s.core q.core).sail (sailOf w)).resident = some t) (hk : t.kind = 2) :
    let keys := (List.range 64).map (fun n => (bits t.data (32 * n) 32 : BitVec 32))
    ∃ u n, Begins q k n s u ∧ exec (.srank q w) s0 = .next (u.setCore q.core
      ((((s.core q.core).begun q.ctx k n).setSail (sailOf w) ((s.core q.core).sail (sailOf w)).switched).setTc q.ctx
        ((((s.core q.core).tc q.ctx).begun k).wrV (cmpVD w) (if t.poison then poisonV else ⟨ofLanes32 (fun n => BitVec.ofNat 32 (rankOf keys n)), false⟩) (k + 8)))) := by
  obtain ⟨u, n, hu, e⟩ := issue_begins h _
  refine ⟨u, n, hu, (congrArg Host.Outcome.next e).trans ?_⟩
  rw [hu.sailOp hw (by simp only [hu.core, Core.sail_begun, firstCause, ht, hk]; rfl)]
  simp only [hu.core, Core.sail_begun, ht, State.updSail, State.updCtx, State.updCore, State.core_setCore_same, State.setCore_setCore, Core.tc_setSail, Core.tc_begun_same]

theorem srank_spec {q : Issue} {w : BitVec 80} {s0 s : State} {k : Nat} {t : Tile} (h : issuesAt s0 q false [] [cmpVD w] k s)
    (hw : sailLegal q w [(28, 4), (37, 43)] s) (ht : ((s.core q.core).sail (sailOf w)).resident = some t) (hk : t.kind = 2) :
    Does (.srank q w) s0 (fun v =>
      let keys := (List.range 64).map (fun n => (bits t.data (32 * n) 32 : BitVec 32))
      ((v.core q.core).tc q.ctx).vAt (cmpVD w) = (if t.poison then poisonV else ⟨ofLanes32 (fun n => BitVec.ofNat 32 (rankOf keys n)), false⟩) ∧
      (v.core q.core).sail (sailOf w) = ((s.core q.core).sail (sailOf w)).switched ∧ keepsRegs q none (some (cmpVD w)) s v ∧
      slotFrame q (Core.onlySail (sailOf w)) s v) := by
  obtain ⟨u, n, hu, e⟩ := exec_srank h hw ht hk
  have hi := sailOf_lt w
  have hv : cmpVD w < 32 := bitsN_lt w 8 5
  refine ⟨_, e, ?_⟩
  simp only [State.core_setCore_same, Core.tc_setTc_same, Core.sail_setTc, Core.sail_setSail_same _ _ hi, Ctx.vAt_wrV_same _ _ _ hv, true_and]
  refine ⟨⟨fun r _ => ?_, fun r hr => ?_⟩, hu.slotFrame_setTc ⟨?_, fun j hj => ?_⟩ fun j => Core.tc_setSail ..⟩
  · rw [State.core_setCore_same, Core.tc_setTc_same, Ctx.sAt_wrV]; rfl
  · rw [State.core_setCore_same, Core.tc_setTc_same, Ctx.vAt_wrV_ne _ _ _ (fun e => hr (congrArg some e.symm))]; rfl
  · rw [Core.setTc_eq, Core.setSail_eq _ _ hi]; rfl
  · rw [Core.sail_setTc, Core.sail_setSail_ne _ _ hj]; rfl

theorem sthr_spec {q : Issue} {w : BitVec 80} {s0 s : State} {k : Nat} (h : issuesAt s0 q false [cmpSB w, cmpSD w] [cmpVA w] k s)
    (hw : sailLegal q w [(28, 4), (37, 43)] s) :
    let a := ((s.core q.core).tc q.ctx).rdV (cmpVA w)
    let b := ((s.core q.core).tc q.ctx).rdS (cmpSB w)
    Does (.sthr q w) s0 (writesS q (cmpSD w) (if a.poison || b.poison then poisonS
      else ⟨BitVec.ofNat 64 ((List.range 64).filter (fun n => decide (bitsN b.val 0 32 ≤ (lane32 a.val n).toNat))).length, false⟩) s) := by
  obtain ⟨u, n, hu, e⟩ := issue_begins h _
  refine ⟨_, congrArg Host.Outcome.next e, ?_⟩
  rw [hu.sailOp_common hw]
  simp only [State.updCtx, State.updCore, hu.core, Core.tc_begun_same, Ctx.rdV_begun, Ctx.rdS_begun]
  have hd : cmpSD w < 32 := bitsN_lt w 23 5
  have hwrite := fun v => hu.writesS_setTc (c := (s.core q.core).begun q.ctx k n) (Core.onlyCtx_begun ..) (fun _ => rfl) hd v (k + 2)
  simp only [Core.tc_begun_same] at hwrite
  exact hwrite _

/-- Settles O19: SDIST by the sail that it leaves, SMAX and SMIN as one pick, SRANK and STHR by the register that they write. -/
theorem compareModes : Obligations.CompareModes := by
  intro q w s0 s k a
  refine ⟨fun t h hw hst hm hrows ht hk ho hr => ?_, fun h hw => ⟨⟨_, rfl, cmpPick_spec h hw _⟩, ⟨_, rfl, cmpPick_spec h hw _⟩⟩, fun t => srank_spec, sthr_spec⟩
  obtain ⟨v, e, hy, hsat, hrest⟩ := sdist_spec h hw hst hm hrows ht hk ho hr
  refine ⟨v, e, ?_⟩
  dsimp only
  rw [hy]
  exact ⟨rfl, fun r => Core.mem_dist_distSail .., hsat, hrest⟩

end Sys2Proof.Machine

namespace Sys2Proof.Machine

/-! ## MMUL opening an output tile (O20) -/

/-! ### Resident reads -/

/-- What a PEEK of a slot answers depends on what the fc found there. -/
theorem Core.readSlot_peek_congr {c d : Core} {slot : Nat} (h : d.seenTell slot = c.seenTell slot) (ph : Nat) (x : Byte) :
    d.readSlot ph slot x false = (d, (c.readSlot ph slot x false).2) := by
  by_cases ht : (c.seenTell slot).tag = x <;> cases hs : (c.seenTell slot).st <;> simp [Core.readSlot, h, ht, hs]

theorem readSlots_peek_congr {c d : Core} (h : ∀ j, d.seenTell j = c.seenTell j) (ph : Nat) (x : Byte) (n : Nat) : ∀ (slot data : Nat) (p : Bool) (v : Option Viol),
    readSlots ph x false n slot ⟨d, data, p, v⟩ = { readSlots ph x false n slot ⟨c, data, p, v⟩ with core := d } := by
  induction n with
  | zero => intro slot data p v; rfl
  | succ n ih =>
    intro slot data p v
    have hc : c.readSlot ph slot x false = (c, (c.readSlot ph slot x false).2) := Core.readSlot_peek_congr rfl ph x
    unfold readSlots
    simp only
    rw [Core.readSlot_peek_congr (h slot), hc]
    exact ih ..

/-- A resident read leaves its core alone, and answers by the telltales, the bytes and where the context stands in the handle table. -/
theorem Core.readRes_begun {c d : Core} {i k : Nat} (hh : d.handles = c.handles) (ht : d.tells = c.tells) (hk : d.taken = c.taken) (hp : d.pad = c.pad)
    (hx : d.tc i = (c.tc i).begun k) (h byte len : Nat) : d.readRes i h byte len = { c.readRes i h byte len with core := d } := by
  have hs : ∀ j, d.seenTell j = c.seenTell j := fun j => by simp only [Core.seenTell, Core.tell, ht, hk]
  have hbad : ∀ ph slot x, (d.readSlot ph slot x false).2.1 = (c.readSlot ph slot x false).2.1 := fun ph slot x => by rw [Core.readSlot_peek_congr (hs slot)]
  unfold Core.readRes Core.readBytes
  simp only [Core.resolve_begun hh hx, hx, Ctx.seq_begun, hbad, hp]
  cases c.resolve i h byte len false (b2n false) with
  | error v => rfl
  | ok x => simp only [readSlots_peek_congr hs]

/-- A resident read of an instruction that raises no violation. -/
theorem readResOp_begun {q : Issue} {k n : Nat} {v : State} {c : Core} (hc : v.core q.core = c.begun q.ctx k n) {h byte len : Nat} (hv : (c.readRes q.ctx h byte len).viol = none) :
    readResOp v q h byte len = (v.setCore q.core (c.begun q.ctx k n), (c.readRes q.ctx h byte len).data, (c.readRes q.ctx h byte len).poison) := by
  have e := Core.readRes_begun (c := c) (d := c.begun q.ctx k n) rfl rfl rfl rfl (Core.tc_begun_same ..) h byte len
  simp only [readResOp, readResAt, hc, e, hv, violateOpt]

/-! ### Rows without capture -/

theorem captureGo_side_full (clip : BitVec 16) (xs : List (BitVec 16)) : ∀ (k : Nat) (acc : Captured), (captureGo clip k 0 xs acc).side = acc.side.reverse := by
  induction xs with
  | nil => intro k acc; rfl
  | cons x xs ih =>
    intro k acc
    unfold captureGo
    split
    · simp only [if_true]; exact ih ..
    · exact ih ..

/-- With SC_N 0 nothing is captured (03 R72). -/
theorem feed_side_nil {d : BitVec 128} (h : qdScN d = 0) (k kBase signs had : Nat) (raw : List (BitVec 16)) : (feed d k kBase signs had raw).2.side = [] := by
  simp only [feed, capture, h, Nat.zero_min]
  exact captureGo_side_full ..

/-- A row's new sum over what its accumulator row holds, where nothing has been captured. -/
def rowSum (d : BitVec 128) (t : Tile) (op : OpRec) (signs : Nat) (bad : Nat → Bool) (sp : Bool) (m : Memory) (r : Nat) (old : VReg) : VReg :=
  if sp || touches bad (op.asrc + op.stride * r) op.stride || old.poison || t.poison then poisonV
  else ⟨accumulateRow old.val t.fmt t.data op.desc
    (feed d (tileK t.fmt) op.kBase signs 0 (rowElems m bad (op.asrc + op.stride * r) (rowSpan (qdRot d) (tileK t.fmt)))).1, false⟩

/-- A sail with an accumulator row replaced, which SDIST accumulates no longer. -/
def Sail.putRow (x : Sail) (r : Nat) (v : VReg) : Sail := { x with acc := AMap.put x.acc r v, dist := x.dist.filter (· != r) }

/-- The captures and misses of an output tile may differ. -/
def OutTile.onlyCaps (o p : OutTile) : Prop := { p with caps := o.caps, sides := o.sides, ovf := o.ovf } = o

theorem mmulRow_plain {d : BitVec 128} {o : OutTile} (hsc : qdScN d = 0) (hb : o.scBuf = none) (hcaps : ∀ j, AMap.at o.caps 0 j = 0)
    (t : Tile) (op : OpRec) (acc0 signs : Nat) (bad : Nat → Bool) (sp : Bool) (r : Nat) (c : Core) (x : Sail) :
    ∃ p, mmulRow d t op acc0 signs bad sp r c x o = (c, x.putRow (acc0 + r) (rowSum d t op signs bad sp c.pad r (x.accRow (acc0 + r))), p) ∧
      OutTile.onlyCaps o p ∧ ∀ j, AMap.at p.caps 0 j = 0 := by
  have hside := feed_side_nil hsc (tileK t.fmt) op.kBase signs 0 (rowElems c.pad bad (op.asrc + op.stride * r) (rowSpan (qdRot d) (tileK t.fmt)))
  unfold mmulRow rowSum
  simp only [rowFeed, hcaps, hb]
  generalize feed d (tileK t.fmt) op.kBase signs 0 (rowElems c.pad bad (op.asrc + op.stride * r) (rowSpan (qdRot d) (tileK t.fmt))) = fed at hside ⊢
  obtain ⟨xs, cap⟩ := fed
  refine ⟨_, rfl, by rw [OutTile.onlyCaps, ← hb], fun j => ?_⟩
  simp [show cap.side = [] from hside, AMap.at_put, hcaps]

theorem Sail.accRow_putRow (x : Sail) (r j : Nat) (v : VReg) : (x.putRow r v).accRow j = if j = r then v else x.accRow j := AMap.at_put ..

/-- The accumulator rows of a tile without capture, one after another: each is the row sum over what it held, and nothing else of the core or the sail differs. -/
theorem mmulRows_plain {d : BitVec 128} (hsc : qdScN d = 0) (t : Tile) (op : OpRec) (acc0 signs : Nat) (bad : Nat → Bool) (sp : Bool) (c : Core) (n : Nat) :
    ∀ (r : Nat) (x : Sail) (o : OutTile), o.scBuf = none → (∀ j, AMap.at o.caps 0 j = 0) →
    ∃ y p, mmulRows d t op acc0 signs bad sp n r (c, x, o) = (c, y, p) ∧ OutTile.onlyCaps o p ∧
      (∀ j, y.accRow j = if acc0 + r ≤ j ∧ j < acc0 + r + n then rowSum d t op signs bad sp c.pad (j - acc0) (x.accRow j) else x.accRow j) ∧
      (∀ j, j ∈ y.dist ↔ j ∈ x.dist ∧ ¬ (acc0 + r ≤ j ∧ j < acc0 + r + n)) ∧ { y with acc := x.acc, dist := x.dist } = x := by
  induction n with
  | zero =>
    intro r x o _ _
    have hno : ∀ j, ¬ (acc0 + r ≤ j ∧ j < acc0 + r + 0) := by intro j; omega
    exact ⟨x, o, rfl, rfl, fun j => (if_neg (hno j)).symm, fun j => by simp, rfl⟩
  | succ n ih =>
    intro r x o hb hcaps
    obtain ⟨p, hrow, hp, hpc⟩ := mmulRow_plain hsc hb hcaps t op acc0 signs bad sp r c x
    have hpb : p.scBuf = none := (congrArg OutTile.scBuf hp :).trans hb
    obtain ⟨y, p', hrows, hp', hacc, hdist, hrest⟩ := ih (r + 1) (x.putRow (acc0 + r) (rowSum d t op signs bad sp c.pad r (x.accRow (acc0 + r)))) p hpb hpc
    refine ⟨y, p', ?_, ?_, fun j => ?_, fun j => ?_, (congrArg (fun z : Sail => { z with acc := x.acc, dist := x.dist }) hrest :)⟩
    · rw [mmulRows, hrow]; exact hrows
    · exact (congrArg (fun z : OutTile => { z with caps := o.caps, sides := o.sides, ovf := o.ovf }) hp' :).trans hp
    · rw [hacc, Sail.accRow_putRow]
      by_cases e : j = acc0 + r
      · subst e
        rw [if_neg (by omega), if_pos rfl, if_pos (by omega), Nat.add_sub_cancel_left]
      · rw [if_neg e]
        by_cases hj : acc0 + (r + 1) ≤ j ∧ j < acc0 + (r + 1) + n
        · rw [if_pos hj, if_pos (by omega)]
        · rw [if_neg hj, if_neg (by omega)]
    · rw [hdist]
      simp only [Sail.putRow, List.mem_filter, bne_iff_ne]
      constructor
      · rintro ⟨⟨h1, h2⟩, h3⟩
        exact ⟨h1, by omega⟩
      · rintro ⟨h1, h2⟩
        exact ⟨⟨h1, by omega⟩, by omega⟩

/-! ### The source rows of a good read -/

theorem rowElems_fine {m : Memory} {bad : Nat → Bool} {a n : Nat} (h : ∀ j, a / 64 ≤ j → j ≤ (a + 2 * n - 1) / 64 → bad j = false) :
    rowElems m bad a n = rowElems m (fun _ => false) a n := by
  refine List.map_congr_left fun i hi => ?_
  have hi := List.mem_range.mp hi
  rw [h _ (Nat.div_le_div_right (by omega)) (Nat.div_le_div_right (by omega))]

theorem touches_fine {bad : Nat → Bool} {a len : Nat} (h : ∀ j, a / 64 ≤ j → j ≤ (a + len - 1) / 64 → bad j = false) (hl : 0 < len) : touches bad a len = false := by
  have hn : a / 64 ≤ (a + len - 1) / 64 := Nat.div_le_div_right (by omega)
  simp only [touches, List.any_eq_false, List.mem_range, Bool.not_eq_true]
  intro j hj
  exact h _ (by omega) (by omega)

/-! ### The tensor's tiles -/

theorem findUp_some {p : Nat → Bool} {n : Nat} : ∀ {i j : Nat}, findUp p n i = some j → p j = true := by
  induction n with
  | zero => intro i j h; cases h
  | succ n ih =>
    intro i j h
    unfold findUp at h
    split at h
    · cases h; assumption
    · exact ih h

/-- A weight tile that is no new one stands among its tensor's. -/
theorem recordOf_old {c : Core} {t : Tile} {key : Nat} (h : (recordOf c t key).2 = false) : ∃ z ∈ c.tsTiles, z.src = t.src ∧ z.data = t.data := by
  simp only [recordOf] at h
  split at h
  · rename_i i hi
    have hp := findUp_some hi
    simp only [Option.any_eq_true, Bool.and_eq_true, beq_iff_eq] at hp
    obtain ⟨z, hz, hsrc, hdata⟩ := hp
    exact ⟨z, List.mem_of_mem_filter (List.mem_of_getElem? hz), hsrc, hdata⟩
  · cases h

/-- The tiles of a core's tensors after a weight-tile operation. -/
def Core.usedTiles (c : Core) (t : Tile) (key : Nat) : List TsTile := if (recordOf c t key).2 then c.tsTiles ++ [⟨key, t.src, t.data⟩] else c.tsTiles

/-- A core with other tiles of its tensors. -/
def Core.withTiles (c : Core) (ts : List TsTile) : Core := { c with tsTiles := ts }

theorem Core.usedTiles_spec (c : Core) (t : Tile) (key : Nat) :
    (∃ z ∈ c.usedTiles t key, z.src = t.src ∧ z.data = t.data) ∧ ∀ z ∈ c.tsTiles, z ∈ c.usedTiles t key := by
  unfold Core.usedTiles
  split
  · exact ⟨⟨⟨key, t.src, t.data⟩, by simp, rfl, rfl⟩, fun z hz => List.mem_append_left _ hz⟩
  · rename_i h
    exact ⟨recordOf_old (Bool.eq_false_of_not_eq_true h), fun z hz => hz⟩

/-! ### The rows streamed -/

/-- The operation of an MMUL without rotation on a tile that has none yet, its source at byte `a`. -/
def firstOp (c : Core) (w : BitVec 80) (t : Tile) (key a : Nat) : OpRec :=
  { fmt := t.fmt, tileSrc := t.src, asrc := a, stride := 2 * tileK t.fmt, kBase := 0, desc := bitAt w 49, idx := (recordOf c t key).1 }

/-- A sail on which the rows of an MMUL of fc `k` run with tile `t`, `lat` fc from a row's issue to the array's end. -/
def Sail.runs (x : Sail) (k rows rate lat : Nat) (t : Tile) : Sail := { x.running k rows rate lat with active := some t, shadow := none }

/-- A tile with its first operation, whose source is the `len` bytes from `a`. -/
def OutTile.streamed (p : OutTile) (op : OpRec) (a len : Nat) (last : Bool) (tag : Byte) : OutTile :=
  { p with ops := [op], fence := some (a / 64, (a + len - 1) / 64), last := last, scTag := tag }

/-- A sail with its output tile replaced. -/
def Sail.withTile (x : Sail) (o : OutTile) : Sail := { x with tile := some o }

theorem tileK_pos (f : Nat) : 0 < tileK f := by unfold tileK; split <;> decide

/-- The rows of an MMUL on a tile that has no operation yet, without rotation and capture. -/
theorem streamRows_plain {v : State} {q : Issue} {w : BitVec 80} {d : BitVec 128} {t : Tile} {o : OutTile} {k a : Nat} {c : Core} (hc : v.core q.core = c)
    (hrot : qdRot d = 0) (hsc : qdScN d = 0) (hb : o.scBuf = none) (hcaps : o.caps = []) (hops : o.ops = []) (hfence : o.fence = none)
    (hm : (spoAt w 8).mode = 0) (hr : c.readsWell q.ctx (spoAt w 8) (2 * tileK t.fmt * mmRows w) a) :
    ∃ (bad : Nat → Bool) (y : Sail) (p : OutTile), (∀ j, a / 64 ≤ j → j ≤ (a + 2 * tileK t.fmt * mmRows w - 1) / 64 → bad j = false) ∧
      streamRows v q w d t o none k = v.setCore q.core ((c.setSail (sailOf w) (y.withTile
        (p.streamed (firstOp c w t o.key a) a (2 * tileK t.fmt * mmRows w) (bitAt w 50) (tagOf (c.tc q.ctx).seq (spoAt w 8).tag)))).withTiles (c.usedTiles t o.key)) ∧
      OutTile.onlyCaps { o with qd := d } p ∧
      (∀ j, y.accRow j = if mmAcc w ≤ j ∧ j < mmAcc w + mmRows w then rowSum d t (firstOp c w t o.key a) 0 bad false c.pad (j - mmAcc w) ((c.sail (sailOf w)).accRow j)
        else (c.sail (sailOf w)).accRow j) ∧
      (∀ j, j ∈ y.dist ↔ j ∈ (c.sail (sailOf w)).dist ∧ ¬ (mmAcc w ≤ j ∧ j < mmAcc w + mmRows w)) ∧
      { y with acc := (c.sail (sailOf w)).acc, dist := (c.sail (sailOf w)).dist } =
        (c.sail (sailOf w)).runs k (mmRows w) (rowFc (qdAfmt d) t.fmt) (bankLat a + rotLat 0 + 12) t := by
  have htake : (spoAt w 8).take = false := by simp [Spo.take, hm]
  have hk : rowSpan 0 (tileK t.fmt) = tileK t.fmt := by simp [rowSpan, rotSize]
  have hlen : 0 < 2 * tileK t.fmt * mmRows w := Nat.mul_pos (Nat.mul_pos (by decide) (tileK_pos _)) (mmRows_pos w)
  have hfine := fun ph j => hr.fine ph (j := j)
  rw [htake] at hfine
  obtain ⟨⟨ph, hres⟩, hg⟩ := hr
  obtain ⟨e, he, -⟩ := Core.readBytes_well hlen hres hg
  have hplace := Core.resolve_shorter hres (Nat.le_refl _) 0
  obtain ⟨y, p, hrows, hp, hacc, hdist, hrest⟩ := mmulRows_plain hsc t (firstOp c w t o.key a) (mmAcc w) 0
    (fun j => (c.readSlot ph j (tagOf (c.tc q.ctx).seq (spoAt w 8).tag) false).2.1) false c (mmRows w) 0
    ((c.sail (sailOf w)).runs k (mmRows w) (rowFc (qdAfmt d) t.fmt) (bankLat a + rotLat 0 + 12) t) { o with qd := d } hb (fun j => by simp [hcaps])
  have hpb : p.scBuf = none := (congrArg OutTile.scBuf hp :).trans hb
  have hpo : p.ops = [] := (congrArg OutTile.ops hp :).trans hops
  have hpf : p.fence = none := (congrArg OutTile.fence hp :).trans hfence
  refine ⟨_, y, p, hfine ph, ?_, hp, hacc, hdist, hrest⟩
  simp only [firstOp, Sail.runs, hops, hfence] at hrows
  unfold streamRows
  simp only [hrot, hk, if_true, hc, hops, hplace, he, Core.readSpo, hfence, List.map_nil, List.foldl_nil, hrows, hpb, hpo, hpf, violateOpt, Sail.withTile, OutTile.streamed]
  rfl

/-! ### The tile opened -/

/-- The accumulator rows of an MMUL. -/
def mmRowNums (w : BitVec 80) : List Nat := (List.range (mmRows w)).map (fun i => mmAcc w + i)

theorem mem_mmRowNums {w : BitVec 80} {r : Nat} : r ∈ mmRowNums w ↔ mmAcc w ≤ r ∧ r < mmAcc w + mmRows w := by
  simp only [mmRowNums, List.mem_map, List.mem_range]
  exact ⟨fun ⟨i, h1, h2⟩ => by omega, fun ⟨h1, h2⟩ => ⟨r - mmAcc w, by omega, by omega⟩⟩

theorem AMap.at_foldl_put {α : Type} (v d : α) (xs : List Nat) (j : Nat) : ∀ m : AMap α, AMap.at (xs.foldl (fun m r => AMap.put m r v) m) d j = if j ∈ xs then v else AMap.at m d j := by
  induction xs with
  | nil => intro m; rfl
  | cons x xs ih =>
    intro m
    rw [List.foldl_cons, ih, AMap.at_put]
    by_cases h1 : j ∈ xs <;> by_cases h2 : j = x <;> simp [h1, h2]

/-- The watch entry that an MMUL of context `i` reads (04 Tables 4.1 and 4.2). -/
def Core.watchEntry (c : Core) (i : Nat) (w : BitVec 80) : ReadOut := c.readRes i (mmQhnd w) (32 * bitsN w 67 10) 32

/-- The output tile that an MMUL of context `i` with descriptor `d` and watch entry `we` opens on core `c`. -/
def Core.newTile (c : Core) (i : Nat) (w : BitVec 80) (d : BitVec 128) (we : Nat) : OutTile :=
  { ctx := i, rows := mmRows w, acc0 := mmAcc w, watch := BitVec.ofNat 256 we, key := tensorKey c i w, qd := d, trk := c.nextTrk,
    init := if mmStart w = 1 then [] else (mmRowNums w).foldl (fun m r => AMap.put m r ((c.sail (sailOf w)).accRow r)) [] }

/-- A sail with output tile `o` opened, its rows at +0.0 where the tile starts from nothing. -/
def Sail.opened (x : Sail) (w : BitVec 80) (o : OutTile) : Sail :=
  { x with acc := if mmStart w = 1 then (mmRowNums w).foldl (fun m r => AMap.put m r ({} : VReg)) x.acc else x.acc, tile := some o }

theorem Sail.accRow_opened (x : Sail) (w : BitVec 80) (o : OutTile) (r : Nat) :
    (x.opened w o).accRow r = if mmStart w = 1 ∧ mmAcc w ≤ r ∧ r < mmAcc w + mmRows w then {} else x.accRow r := by
  by_cases h : mmStart w = 1 <;> simp [Sail.opened, Sail.accRow, h, AMap.at_foldl_put, mem_mmRowNums]

/-- The core with the output tile opened, and its tracker entry taken. -/
def Core.opened (c : Core) (i : Nat) (w : BitVec 80) (d : BitVec 128) (we : Nat) : Core :=
  (c.tookTrk i .outTile 1 none).setSail (sailOf w) ((c.sail (sailOf w)).opened w (c.newTile i w d we))

theorem Core.opened_eq (c : Core) (i : Nat) (w : BitVec 80) (d : BitVec 128) (we : Nat) :
    c.opened i w d we = { c.tookTrk i .outTile 1 none with sails := c.sails.set (sailOf w) ((c.sail (sailOf w)).opened w (c.newTile i w d we)) (sailOf_lt w) } :=
  Core.setSail_eq _ _ (sailOf_lt w)

section
variable (c : Core) (i : Nat) (w : BitVec 80) (d : BitVec 128) (we : Nat)

@[simp] theorem Core.sail_opened : (c.opened i w d we).sail (sailOf w) = (c.sail (sailOf w)).opened w (c.newTile i w d we) := Core.sail_setSail_same _ _ (sailOf_lt w)

theorem Core.sail_opened_ne {j : Nat} (h : j ≠ sailOf w) : (c.opened i w d we).sail j = c.sail j := Core.sail_setSail_ne _ _ h

@[simp] theorem Core.tc_opened (j : Nat) : (c.opened i w d we).tc j = c.tc j := Core.tc_setSail ..

@[simp] theorem Core.handles_opened : (c.opened i w d we).handles = c.handles := by rw [Core.opened_eq]; rfl

@[simp] theorem Core.tells_opened : (c.opened i w d we).tells = c.tells := by rw [Core.opened_eq]; rfl

@[simp] theorem Core.taken_opened : (c.opened i w d we).taken = c.taken := by rw [Core.opened_eq]; rfl

@[simp] theorem Core.pad_opened : (c.opened i w d we).pad = c.pad := by rw [Core.opened_eq]; rfl

@[simp] theorem Core.tsTiles_opened : (c.opened i w d we).tsTiles = c.tsTiles := by rw [Core.opened_eq]; rfl

end

/-- The tile opened leaves what a read finds. -/
theorem Core.readsWell_opened {c : Core} {i : Fin 4} {o : Spo} {len a : Nat} (h : c.readsWell i o len a) (k n : Nat) (w : BitVec 80) (d : BitVec 128) (we : Nat) :
    ((c.begun i k n).opened i w d we).readsWell i o len a := by
  have hx : ((c.begun i k n).opened i w d we).tc i = (c.tc i).begun k := by rw [Core.tc_opened, Core.tc_begun_same]
  refine Core.readsWell_begun ?_ ?_ ?_ hx h
  · rw [Core.handles_opened]; rfl
  · rw [Core.tells_opened]; rfl
  · rw [Core.taken_opened]; rfl

theorem openTile_room {q : Issue} {s v : State} {k n : Nat} {w : BitVec 80} {d : BitVec 128} (hc : v.core q.core = (s.core q.core).begun q.ctx k n)
    (hv : ((s.core q.core).watchEntry q.ctx w).viol = none) (hsc : qdScN d = 0) (hroom : hasRoom q s k) :
    openTile v q w d = some (v.setCore q.core (((s.core q.core).begun q.ctx k n).opened q.ctx w d ((s.core q.core).watchEntry q.ctx w).data)) := by
  have htrk := Core.takeTrk_room (c := (s.core q.core).begun q.ctx k n) hroom rfl (Core.tc_begun_same ..) .outTile 1 none
  unfold openTile
  simp only [readResOp_begun hc hv, State.core_setCore_same, htrk, hsc, if_true, violateOpt, State.setCore_setCore]
  rfl

/-- The module on which an MMUL that opens an output tile streams its rows. -/
theorem exec_mmul_opens {q : Issue} {w : BitVec 80} {s0 s : State} {k : Nat} {t : Tile} (h : issuesAt s0 q false [] [] k s) (hw : sailLegal q w [(77, 3)] s)
    (hst : mmStart w = 1 ∨ mmStart w = 2) (hm : (spoAt w 8).mode = 0) (hrows : mmAcc w + mmRows w ≤ 512)
    (hd : ((s.core q.core).readRes q.ctx (mmQhnd w) (16 * bitsN w 56 11) 16).viol = none)
    (hwe : ((s.core q.core).watchEntry q.ctx w).viol = none)
    (hok : qdOk (mmDescriptor q w s) = true) (hsc : qdScN (mmDescriptor q w s) = 0) (ht : ((s.core q.core).sail (sailOf w)).resident = some t) (hk : t.kind = 0)
    (hf : t.fmt = qdWfmt (mmDescriptor q w s)) (hn : ((s.core q.core).sail (sailOf w)).tile = none) (hroom : hasRoom q s k) (up : Option Upset) :
    ∃ u n, Begins q k n s u ∧
      let we := ((s.core q.core).watchEntry q.ctx w).data
      exec (.mmul q w up) s0 = .next (streamRows (u.setCore q.core (((s.core q.core).begun q.ctx k n).opened q.ctx w (mmDescriptor q w s) we)) q w (mmDescriptor q w s) t
        (((s.core q.core).begun q.ctx k n).newTile q.ctx w (mmDescriptor q w s) we) up k) := by
  obtain ⟨u, n, hu, e⟩ := issue_begins h _
  refine ⟨u, n, hu, (congrArg Host.Outcome.next e).trans (congrArg Host.Outcome.next ?_)⟩
  have hopen : (mmStart w == 1 || mmStart w == 2) = true := by simpa using hst
  have h3 : (mmStart w == 3) = false := by rcases hst with h | h <;> rw [h] <;> rfl
  have hd' : BitVec.ofNat 128 ((s.core q.core).readRes q.ctx (mmQhnd w) (16 * bitsN w 56 11) 16).data = mmDescriptor q w s := rfl
  dsimp only
  rw [hu.sailOp hw (by simp [firstCause, h3, hm, hrows])]
  simp only [readResOp_begun hu.core hd, hd', hu.core, Core.sail_begun, hopen]
  rw [legalOr_good (by simp [firstCause, hok, ht, hk, hf, hn])]
  simp only [if_true, openTile_room (State.core_setCore_same ..) hwe hsc hroom, State.core_setCore_same, Core.sail_opened, Sail.opened, ht,
    State.setCore_setCore]

/-- The new sum of an accumulator row whose source row was read well. -/
theorem rowSum_fine {d : BitVec 128} {t : Tile} {c : Core} {w : BitVec 80} {key a r : Nat} {bad : Nat → Bool} (m : Memory) (old : VReg) (hrot : qdRot d = 0) (hp : t.poison = false)
    (hbad : ∀ j, a / 64 ≤ j → j ≤ (a + 2 * tileK t.fmt * mmRows w - 1) / 64 → bad j = false) (hr : r < mmRows w) :
    rowSum d t (firstOp c w t key a) 0 bad false m r old = if old.poison then poisonV
      else ⟨accumulateRow old.val t.fmt t.data (bitAt w 49) (feed d (tileK t.fmt) 0 0 0 (rowElems m (fun _ => false) (a + 2 * tileK t.fmt * r) (tileK t.fmt))).1, false⟩ := by
  have hspan : rowSpan 0 (tileK t.fmt) = tileK t.fmt := by simp [rowSpan, rotSize]
  have hK := tileK_pos t.fmt
  have hrow : ∀ j, (a + 2 * tileK t.fmt * r) / 64 ≤ j → j ≤ (a + 2 * tileK t.fmt * r + 2 * tileK t.fmt - 1) / 64 → bad j = false := fun j h1 h2 => by
    have hmul : 2 * tileK t.fmt * r + 2 * tileK t.fmt ≤ 2 * tileK t.fmt * mmRows w := Nat.mul_succ (2 * tileK t.fmt) r ▸ Nat.mul_le_mul_left _ hr
    exact hbad j ((Nat.div_le_div_right (Nat.le_add_right ..)).trans h1) (h2.trans (Nat.div_le_div_right (by omega)))
  simp only [rowSum, firstOp, hrot, hspan, hp, touches_fine hrow (by omega), rowElems_fine hrow, Bool.false_or, Bool.or_false]

/-! ### The obligation -/

/-- The rows run on a sail whose tile has been opened: what they leave of it. -/
theorem Sail.rest_of_runs {x y : Sail} {w : BitVec 80} {o e : OutTile} {k rows rate lat : Nat} {t : Tile}
    (h : ({ y with acc := (x.opened w o).acc, dist := (x.opened w o).dist } : Sail) = (x.opened w o).runs k rows rate lat t) :
    ({ y.withTile e with acc := x.acc, tile := x.tile, active := x.active, shadow := x.shadow, dist := x.dist, opEnd := x.opEnd, opWait := x.opWait } : Sail) = x :=
  (congrArg (fun z : Sail => { z with acc := x.acc, tile := x.tile, active := x.active, shadow := x.shadow, dist := x.dist, opEnd := x.opEnd, opWait := x.opWait }) h :)

/-- What MMUL leaves of its core besides the sail and the tensors' tiles. -/
theorem Core.streamed_frame (c : Core) (i : Fin 4) (k n : Nat) (w : BitVec 80) (d : BitVec 128) (we : Nat) (y : Sail) (ts : List TsTile) :
    let b := c.begun i k n
    let f := ((b.opened i w d we).setSail (sailOf w) y).withTiles ts
    f.sail (sailOf w) = y ∧ f.tracks = (b.tookTrk i .outTile 1 none).tracks ∧ f.tells = c.tells ∧ f.pad = c.pad ∧ f.tsTiles = ts ∧ (∀ j, f.tc j = b.tc j) ∧
      Core.onlySail (sailOf w) c { f with tsTiles := c.tsTiles } := by
  have hi := sailOf_lt w
  intro b f
  have hf : f = { b.tookTrk i .outTile 1 none with tsTiles := ts, sails := f.sails } := by
    simp only [f, Core.opened_eq, Core.setSail_eq _ _ hi]; rfl
  refine ⟨Core.sail_setSail_same _ _ hi, ?_, ?_, ?_, rfl, fun j => ?_, ?_, fun j hj => ?_⟩
  · rw [hf]
  · rw [hf]; rfl
  · rw [hf]; rfl
  · rw [hf]; rfl
  · rw [hf]; rfl
  · have hj' := Core.sail_setSail_ne (b.opened i w d we) y hj
    rw [Core.sail_opened_ne _ _ _ _ _ hj] at hj'
    exact hj'

/-- Settles O20: the opened tile with its rows streamed, field by field. -/
theorem matrixMultiplyOpens : Obligations.MatrixMultiplyOpens := by
  intro q w s0 s k a t o c i d n h hw hst hm hrows hd hwe hok hsc hrot ht hk hf hp hn hroom hr
  obtain ⟨u, j, hu, e⟩ := exec_mmul_opens h hw hst hm hrows hd hwe hok hsc ht hk hf hn hroom none
  have hread := Core.readsWell_opened (readsWell_core hr) k j w d (c.watchEntry q.ctx w).data
  obtain ⟨bad, y, p, hbad, hstream, hpo, hacc, hdist, hrest⟩ := streamRows_plain
    (o := (c.begun q.ctx k j).newTile q.ctx w d (c.watchEntry q.ctx w).data) (k := k)
    (State.core_setCore_same u q.core ((c.begun q.ctx k j).opened q.ctx w d (c.watchEntry q.ctx w).data))
    hrot hsc rfl rfl rfl rfl hm hread
  refine ⟨_, e.trans (congrArg Host.Outcome.next hstream), ?_⟩
  simp only [Core.sail_opened, Core.pad_opened, Core.sail_begun] at hacc hdist hrest
  rw [State.setCore_setCore]
  obtain ⟨hsail, htrk, htells, hpad, htsf, htc, honly⟩ := c.streamed_frame q.ctx k j w d (c.watchEntry q.ctx w).data (y.withTile _) (Core.usedTiles _ t _)
  have hslot := hu.keepsRegs_setCore (C := fun c d => Core.onlySail i c { d with tsTiles := c.tsTiles }) honly htc
  dsimp only
  rw [State.core_setCore_same, hsail, htells, hpad, htsf]
  obtain ⟨hnew, hold⟩ := ((c.begun q.ctx k j).opened q.ctx w d (c.watchEntry q.ctx w).data).usedTiles_spec t
    ((c.begun q.ctx k j).newTile q.ctx w d (c.watchEntry q.ctx w).data).key
  refine ⟨fun r => (hacc r).trans ?_, ⟨_, rfl, (congrArg OutTile.ctx hpo :), (congrArg OutTile.rows hpo :), (congrArg OutTile.acc0 hpo :), (congrArg OutTile.qd hpo :), rfl,
      (congrArg OutTile.trk hpo :), (congrArg OutTile.watch hpo :), rfl, rfl, (congrArg OutTile.done hpo :)⟩, (congrArg Sail.active hrest :), (congrArg Sail.shadow hrest :), hdist,
    (congrArg Sail.opEnd hrest :), (congrArg Sail.opWait hrest :), ?_, ?_, hnew, fun z hz => hold z ?_, rfl, fun b => rfl, hslot⟩
  · rw [Sail.accRow_opened]
    by_cases hmine : mmAcc w ≤ r ∧ r < mmAcc w + mmRows w
    · rw [if_pos hmine, if_pos hmine, rowSum_fine _ _ hrot hp hbad (by omega)]
      simp only [hmine, and_true]
      rfl
    · simp only [hmine, and_false, if_false]
      rfl
  · exact Sail.rest_of_runs hrest
  · simp only [tookEntry, State.core_setCore_same, htrk]; rfl
  · rwa [Core.tsTiles_opened]

end Sys2Proof.Machine

namespace Sys2Proof.Machine

/-! ## A residue mismatch and a translation fault (O21) -/

/-! ### The residue check -/

theorem sumInt_eq_sum (n : Nat) (f : Nat → Int) : sumInt n f = ∑ i ∈ Finset.range n, f i := by
  induction n with
  | zero => rfl
  | succ n ih => rw [Finset.sum_range_succ, ← ih, sumInt, List.range_succ, List.foldl_append]; rfl

theorem residue7_modEq (i : Int) : (residue7 i : Int) ≡ i [ZMOD 7] := by
  rw [residue7, Int.toNat_of_nonneg (Int.emod_nonneg _ (by decide))]
  exact Int.mod_modEq ..

/-- The checksum column's dot product and the sum of the columns' dot products are equal modulo 7 (03 R63). -/
theorem checkColumn_sum_modEq (len : Nat) (w : Nat → Nat → Int) (x : Nat → Int) :
    sumInt len (fun k => checkColumn w k * x k) ≡ sumInt 64 (fun n => sumInt len (fun k => w n k * x k)) [ZMOD 7] := by
  simp only [sumInt_eq_sum, checkColumn]
  rw [Finset.sum_comm]
  refine Int.ModEq.sum fun k _ => ?_
  rw [← Finset.sum_mul]
  exact (residue7_modEq _).mul_right _

/-- The check of a row fails where a fault has changed its sum by no multiple of 7. -/
theorem residueFails_iff (len : Nat) (w : Nat → Nat → Int) (x : Nat → Int) (err : Int) : residueFails len w x err = true ↔ err % 7 ≠ 0 := by
  have h : _ % (7 : Int) = _ % 7 := checkColumn_sum_modEq len w x
  simp only [residueFails, residue7, bne_iff_ne]
  omega

theorem distCheckFails_iff (q : List Int) (r : Nat → List Int) (err : Int) : distCheckFails q r err = true ↔ err % 7 ≠ 0 := residueFails_iff ..

/-! ### What a fault's log and its record leave -/

/-- What a signal and the recorder leave as it is. -/
def State.works (s : State) : AMap Core × MstBlock × Fabric × (Nat → Group) := (s.cores, s.mst, s.fab, s.grp)

theorem works_signal (s : State) (f v : Nat) : (signal s f v).works = s.works := by
  have h (s : State) : (sendVec s f v).works = s.works := by
    unfold sendVec
    dsimp only
    split <;> rfl
  unfold signal
  split
  · exact h s
  · split
    · rfl
    · split
      · exact h s
      · exact h s

theorem works_signalLog (s : State) (l : ELog) (f v : Nat) : (signalLog s l f v).works = s.works := by
  unfold signalLog
  split
  · exact works_signal ..
  · rfl

theorem works_evrEvent (s : State) (kind sev part field core : Nat) (value aux : Option Dword) : (evrEvent s kind sev part field core value aux).works = s.works := by
  unfold evrEvent
  dsimp only
  split
  · rfl
  · split
    · rfl
    · split
      · rfl
      · rw [apply_ite State.works, works_signal]
        exact ite_self _

theorem works_evrFault (s : State) (code part field core : Nat) (value : Option Dword) : (evrFault s code part field core value).works = s.works := by
  have h := works_evrEvent s code (sevOf code) part field core value none
  unfold evrFault
  dsimp only
  split
  · split
    · exact h
    · exact h
  · exact h

theorem works_logFault (s : State) (p code field core items : Nat) : (logFault s p code field core items).works = s.works := by
  unfold logFault
  rw [works_signalLog, works_signalLog]
  have hg : (s.updPart p fun x => { x with flog := x.flog.push (faultRecord s p code field core items) }).grp = s.grp := by
    funext j
    by_cases e : j = p
    · subst e; simp only [State.grp, State.part_updPart_same]
    · simp only [State.grp, State.part_updPart_ne _ _ e]
  simp only [State.works, hg]
  rfl

theorem works_raiseFault (s : State) (p code field core : Nat) : (raiseFault s p code field core).works = s.works :=
  (works_evrFault ..).trans (works_logFault ..)

theorem corePart_congr {s t : State} (h : t.fab = s.fab) (m : Nat) : t.corePart m = s.corePart m := by simp only [State.corePart, State.field, h]

/-- `t` is `s` after a fault of core `m` with that code, raised within a step. -/
structure Fails (m code : Nat) (s t : State) : Prop where
  cores : t.cores = s.cores
  mst : t.mst = s.mst
  faults : ∃ f ∈ (t.grp (s.corePart m)).faults, f.code = code

theorem coreFault_fails {s : State} {m : Nat} (code : Nat) (h : (s.grp (s.corePart m)).inStep = true) : Fails m code s (coreFault s m code) := by
  have hw := works_raiseFault s (s.corePart m) code (m / 192) (m % 192)
  simp only [State.works, Prod.mk.injEq] at hw
  obtain ⟨hc, hm, -, hg⟩ := hw
  refine ⟨hc, hm, ⟨code, (s.grp (s.corePart m)).cyc⟩, ?_, rfl⟩
  simp [coreFault, coreFaultAt, failStepAt, hg, h]

/-! ### A fault in a sail -/

theorem bitAt_setBits_zero {n : Nat} (x : BitVec n) (i : Nat) : bitAt (setBits x i 1 0) i = false := by
  by_cases h : i < n
  · simp only [bitAt, setBits, BitVec.getLsbD_or, BitVec.getLsbD_and, BitVec.getLsbD_not, BitVec.getLsbD_ofNat]
    simp [Nat.testBit_shiftLeft]
  · exact BitVec.getLsbD_of_ge _ _ (Nat.not_lt.mp h)

/-- What a fault in a sail does to the accumulator row it hits. -/
def struck (s : State) (m i row : Nat) (u : Upset) : State :=
  if u.err = 0 then s else ({ s with free := s.free + 1 } : State).updSail m i (fun y =>
    if (y.accRow row).poison then y else { y with acc := AMap.put y.acc row ⟨spoilLane (y.accRow row).val u.col s.free, false⟩ })

theorem upsetRow_eq (s : State) (m i row : Nat) (u : Upset) (fails : Bool) :
    upsetRow s m i row u fails = if fails then sailCheckFault (struck s m i row u) m i else struck s m i row u := rfl

theorem Core.stat_setSail (c : Core) (i : Nat) (x : Sail) : (c.setSail i x).stat = c.stat := by
  unfold Core.setSail
  split <;> rfl

theorem stat_struck (s : State) (m i row : Nat) (u : Upset) : ((struck s m i row u).core m).stat = (s.core m).stat := by
  unfold struck
  split
  · rfl
  · rw [State.updSail, State.core_updCore_same, Core.stat_setSail]; rfl

theorem grp_struck (s : State) (m i row : Nat) (u : Upset) : (struck s m i row u).grp = s.grp := by
  unfold struck
  split <;> rfl

theorem corePart_struck (s : State) (m i row : Nat) (u : Upset) : (struck s m i row u).corePart m = s.corePart m := by
  unfold struck
  split <;> rfl

/-- A core's status with a residue mismatch on virtual sail `i` counted. -/
def CoreStat.mismatch (x : CoreStat) (i : Nat) : CoreStat :=
  { x with
    sailChk := satAdd 0xFF x.sailChk 1
    sailOk := setBits x.sailOk (bitsN x.sailMap (2 * i) 2) 1 0
    checkBad := if x.checkBad.contains i then x.checkBad else x.checkBad ++ [i] }

theorem CoreStat.mem_checkBad_mismatch (x : CoreStat) (i : Nat) : i ∈ (x.mismatch i).checkBad := by
  by_cases h : i ∈ x.checkBad <;> simp [CoreStat.mismatch, h]

theorem sailCheckFault_eq (s : State) (m i : Nat) :
    sailCheckFault s m i = coreFault (s.updCore m (fun c => { c with stat := c.stat.mismatch i })) m 0x10 := rfl

/-- A residue mismatch on virtual sail `i` within a step (02 R49, R50). -/
theorem sailCheckFault_spec {s : State} {m : Nat} (h : (s.grp (s.corePart m)).inStep = true) (i : Nat) :
    ((sailCheckFault s m i).core m).stat = (s.core m).stat.mismatch i ∧ ∃ f ∈ ((sailCheckFault s m i).grp (s.corePart m)).faults, f.code = 0x10 := by
  rw [sailCheckFault_eq]
  obtain ⟨hc, -, hf⟩ := coreFault_fails (s := s.updCore m (fun c => { c with stat := c.stat.mismatch i })) (m := m) 0x10 h
  refine ⟨?_, hf⟩
  rw [State.core, hc]
  exact congrArg Core.stat (State.core_updCore_same ..)

theorem Core.stat_distanced (c : Core) (q : Issue) (w : BitVec 80) (k a : Nat) (t : Tile) (tl tk : AMap Tell) : (c.distanced q w k a t tl tk).stat = c.stat := by
  rw [Core.distanced, Core.setTc_eq]
  exact Core.stat_setSail ..

/-- SDIST with a fault in one of its rows. -/
theorem sdist_upset_spec {q : Issue} {w : BitVec 80} {s0 s : State} {k a : Nat} {t : Tile} {e : Upset} (h : issuesAt s0 q false [] [] k s)
    (hstep : (s.grp (s.corePart q.core)).inStep = true) (hw : sailLegal q w [(50, 30)] s) (hst : mmStart w = 1) (hm : (spoAt w 8).reads = true)
    (hrows : mmAcc w + mmRows w ≤ 512) (ht : ((s.core q.core).sail (sailOf w)).resident = some t) (hk : t.kind = 1)
    (hr : readsWell q s (spoAt w 8) (64 * mmRows w) a) (he : e.row < mmRows w) :
    Does (.sdist q w (some e)) s0 (fun v =>
      let x := (s.core q.core).stat
      let y := (v.core q.core).stat
      if e.err % 7 = 0 then y.sailChk = x.sailChk ∧ y.checkBad = x.checkBad
      else y.sailChk = min 255 (x.sailChk + 1) ∧ sailOf w ∈ y.checkBad ∧ bitAt y.sailOk (bitsN x.sailMap (2 * sailOf w) 2) = false ∧
        ∃ f ∈ (v.grp (s.corePart q.core)).faults, f.code = 0x10) := by
  obtain ⟨u, n, tl, tk, hu, -, ex⟩ := exec_sdist h hw (by rw [hst]; decide) hm hrows ht hk (fun h0 => by rw [hst] at h0; cases h0) hr (some e)
  refine ⟨_, ex, ?_⟩
  simp only [distUpset, he, if_true, upsetRow_eq]
  generalize hz : struck _ _ _ _ e = z
  have hstat : (z.core q.core).stat = ((s.core q.core).begun q.ctx k n).stat := by rw [← hz, stat_struck, State.core_setCore_same, Core.stat_distanced]
  have hpart : z.corePart q.core = s.corePart q.core := by
    rw [← hz, corePart_struck]
    exact corePart_congr hu.fab q.core
  have hin : (z.grp (z.corePart q.core)).inStep = true := by
    rw [hpart, ← hz, grp_struck]
    exact (hu.inStep _).trans hstep
  have hfails := distCheckFails_iff (bytes64 ((queryRows (s.core q.core) w a).getD e.row (0, false)).1 0) (fun n => bytes64 t.data.toNat (64 * n)) e.err
  by_cases h7 : e.err % 7 = 0
  · rw [if_neg (mt hfails.mp (not_not.mpr h7)), if_pos h7, hstat]
    exact ⟨rfl, rfl⟩
  · obtain ⟨hx, hf⟩ := sailCheckFault_spec hin (sailOf w)
    rw [if_pos (hfails.mpr h7), if_neg h7, hx, hstat]
    rw [hpart] at hf
    exact ⟨satAdd_eq_min .., CoreStat.mem_checkBad_mismatch .., bitAt_setBits_zero .., hf⟩

/-! ### A read that no translation maps -/

/-- The record of a translation fault in the mast's log (06 R147, Table 6.9). -/
def xlateRecord (c : Core) (m : Nat) (a : Dword) (e : Nat × Nat) : Word × Word × Word :=
  (packFields 32 [(0, 14, m), (14, 2, c.mast.faultTier a), (16, 3, 2)], packFields 32 [(0, 20, e.2)], packFields 32 [(0, 16, e.1)])

/-- A translation fault of core `m` within a step: logged, and the step fails. -/
theorem xlateFault_spec {s : State} {m : Nat} (h : (s.grp (s.corePart m)).inStep = true) (a : Dword) (e : Nat × Nat) :
    (xlateFault s m a e).mst.log = s.mst.log.push (xlateRecord (s.core m) m a e) ∧ ∃ f ∈ ((xlateFault s m a e).grp (s.corePart m)).faults, f.code = 3 := by
  have hw : (mstLog s m ((s.core m).mast.faultTier a) 2 e.2 e.1).works = _ := works_signalLog ..
  simp only [State.works, Prod.mk.injEq] at hw
  obtain ⟨-, hmst, hfab, hgrp⟩ := hw
  have hp := corePart_congr hfab m
  obtain ⟨-, hm, hf⟩ := coreFault_fails (m := m) 3 (hp ▸ hgrp ▸ h)
  exact ⟨congrArg MstBlock.log (hm.trans hmst), hp ▸ hf⟩

/-- A luff item armed leaves a partition within its step. -/
theorem inStep_armLuff (s : State) (p : Nat) (src : LuffSrc) (u j : Nat) : ((armLuff s p src u).grp j).inStep = (s.grp j).inStep := by
  by_cases e : j = p
  · subst e
    simp only [armLuff, State.grp_updGrp_same]
    split <;> rfl
  · simp only [armLuff, State.updGrp, State.grp, State.part_updPart_ne _ _ e]

theorem xlateFault_armed_spec {s : State} {m : Nat} (h : (s.grp (s.corePart m)).inStep = true) (a : Dword) (e : Nat × Nat) (b : Bool) (p : Nat) (src : LuffSrc) (u : Nat) :
    let t := xlateFault (if b then armLuff s p src u else s) m a e
    t.mst.log = s.mst.log.push (xlateRecord (s.core m) m a e) ∧ ∃ f ∈ (t.grp (s.corePart m)).faults, f.code = 3 := by
  cases b with
  | false => exact xlateFault_spec h a e
  | true => exact xlateFault_spec (s := armLuff s p src u) ((inStep_armLuff ..).trans h) a e

/-- MRD of rows that no translation maps (06 R147). -/
theorem mrd_fault_spec {q : Issue} {w : BitVec 80} {s0 s : State} {k ph dst : Nat} {e : Nat × Nat} (h : issuesAt s0 q false [mvAreg w] [] k s)
    (hstep : (s.grp (s.corePart q.core)).inStep = true) (hv : bitsN w 40 40 = 0) (hm : (mvSpo w).writes = true) (ho : (mvSpo w).ofs % 4 = 0)
    (ha : bitsN (((s.core q.core).tc q.ctx).rdS (mvAreg w)).val 0 7 = 0) (hroom : hasRoom q s k)
    (hr : (s.core q.core).resolve q.ctx (mvSpo w).handle (mvSpo w).byte (128 * (bitsN w 35 5 + 1)) true (mvSpo w).mode = .ok (ph, dst))
    (ht : (s.core q.core).mast.translate (((s.core q.core).tc q.ctx).rdS (mvAreg w)).val (128 * (bitsN w 35 5 + 1)) false = .error e) :
    Does (.mrd q w) s0 (fun t =>
      t.mst.log = s.mst.log.push (xlateRecord (s.core q.core) q.core (((s.core q.core).tc q.ctx).rdS (mvAreg w)).val e) ∧
      ∃ f ∈ (t.grp (s.corePart q.core)).faults, f.code = 3) := by
  obtain ⟨u, n, hu, ex⟩ := issue_begins h _
  refine ⟨_, congrArg Host.Outcome.next ex, ?_⟩
  have htrk := Core.takeTrk_room (c := (s.core q.core).begun q.ctx k n) hroom rfl (Core.tc_begun_same ..) .mastRead (bitsN w 35 5 + 1) none
  have hres := (Core.resolve_begun (c := s.core q.core) (d := ((s.core q.core).begun q.ctx k n).tookTrk q.ctx .mastRead (bitsN w 35 5 + 1) none) rfl
    (by rw [Core.tc_tookTrk, Core.tc_begun_same]) ..).trans hr
  have hmast : (((s.core q.core).begun q.ctx k n).tookTrk q.ctx .mastRead (bitsN w 35 5 + 1) none).mast = (s.core q.core).mast := rfl
  simp only [hu.core, Core.tc_begun_same, Ctx.rdS_begun]
  rw [legalOr_good (by simp [firstCause, hv, hm, ho, ha])]
  simp only [hu.core, htrk, hres, hmast, ht]
  have hp : ∀ c, (u.setCore q.core c).corePart q.core = s.corePart q.core := fun _ => corePart_congr hu.fab _
  have hin : ∀ c, ((u.setCore q.core c).grp ((u.setCore q.core c).corePart q.core)).inStep = true := fun c => by rw [hp]; exact (hu.inStep _).trans hstep
  obtain ⟨hlog, hf⟩ := xlateFault_armed_spec (hin _) (((s.core q.core).tc q.ctx).rdS (mvAreg w)).val e _ _ _ _
  rw [hp] at hf
  rw [State.core_setCore_same] at hlog
  exact ⟨hlog.trans (congrArg (fun x : MstBlock => x.log.push _) hu.mst), hf⟩

/-- Settles O21: a fault in a row of SDIST by the residues that it leaves, MRD by the translation fault that it raises. -/
theorem mismatchAndTranslationFaults : Obligations.MismatchAndTranslationFaults := by
  refine ⟨fun q w s0 s k a t e h hstep hw hst hm hrows ht hk hr he => ?_, fun q w s0 s k ph dst rid vpn => ?_⟩
  · exact sdist_upset_spec h hstep hw hst hm hrows ht hk hr he
  · intro o c n a h hstep hv hm ho ha hroom hr ht
    obtain ⟨v, ex, hlog, hf⟩ := mrd_fault_spec h hstep hv hm ho ha hroom hr ht
    exact ⟨v, ex, hlog, hf⟩

end Sys2Proof.Machine

namespace Sys2Proof.Machine

/-! ## E8M0 scales and FJT2 elements (O2) -/

/-- An E8M0 scale of exponent field `c` is 2^(c - 127), but for the NaN of 0xFF (03 R54). -/
theorem decE8M0_toNat (c : Byte) : decE8M0 c.toNat = if c = 0xFF#8 then .nan else .fin false 1 ((c.toNat : Int) - 127) := by
  have hlt : c.toNat % 256 = c.toNat := Nat.mod_eq_of_lt c.isLt
  have hnan : c.toNat = 255 ↔ c = 0xFF#8 := BitVec.toNat_inj (y := 0xFF#8)
  simp only [decE8M0, hlt, hnan]

/-- Settles O2: an E8M0 scale by its exponent field, an FJT2 element by its four codes. -/
theorem formatElements : Obligations.FormatElements := by
  refine ⟨decE8M0_toNat, fun c => ⟨?_, ?_, ?_, ?_⟩⟩ <;> rintro rfl <;> rfl

end Sys2Proof.Machine

namespace Sys2Proof.Machine

/-! ## Drains and sidecars (O22) -/

/-! ### A scratchpad write put on its way -/

/-- Queueing the writes of an access changes only what is on its way to the banks. -/
theorem queueWrites_frame (ctx ord no ph : Nat) (x : Byte) (hold poison : Bool) (step n : Nat) : ∀ (slot d t : Nat) (c : Core),
    queueWrites ctx ord no ph x hold poison step n slot d t c = { c with late := (queueWrites ctx ord no ph x hold poison step n slot d t c).late } := by
  induction n with
  | zero => intro slot d t c; rfl
  | succ n ih =>
    intro slot d t c
    exact ih ..

/-- What is on its way afterwards depends on what was on its way alone. -/
theorem queueWrites_late_congr (ctx ord no ph : Nat) (x : Byte) (hold poison : Bool) (step n : Nat) : ∀ (slot d t : Nat) {c c' : Core}, c'.late = c.late →
    (queueWrites ctx ord no ph x hold poison step n slot d t c').late = (queueWrites ctx ord no ph x hold poison step n slot d t c).late := by
  induction n with
  | zero => intro slot d t c c' h; exact h
  | succ n ih =>
    intro slot d t c c' h
    exact ih _ _ _ (congrArg (insertAcc _) h)

/-- A module whose core has the writes on their way, its scratchpad, its telltales and its fences as before: once they have reached their bank, the slots are written. -/
theorem writesLater_of_core {q : Issue} {ord : Nat} {o : Spo} {n ph a d : Nat} {poison : Bool} {step k : Nat} {s t : State}
    (hpad : (t.core q.core).pad = (s.core q.core).pad) (htells : (t.core q.core).tells = (s.core q.core).tells) (hno : (t.core q.core).accNo = (s.core q.core).accNo + 1)
    (hlate : (t.core q.core).late = (queueWrites q.ctx ord (s.core q.core).accNo ph (tagOf ((s.core q.core).tc q.ctx).seq o.tag) o.hold poison step n (a / 64) d k
      (s.core q.core)).late) (hfence : ∀ j, (t.core q.core).fenced j = (s.core q.core).fenced j) : writesLater q ord o n ph a d poison step k s t := by
  refine ⟨hpad, htells, hno, hlate, fun hl hwf hroom u hu => ?_⟩
  have htell : ∀ j, (t.core q.core).tell j = (s.core q.core).tell j := fun j => by simp only [Core.tell, htells]
  rw [queueWrites_eq _ _ _ _ _ _ _ _ _ _ _ _ _ (by simp [hl])] at hlate
  simp only [hl, List.nil_append] at hlate
  have hdone := settle_slotAccs hlate (by rwa [hpad]) hu (fun j h1 h2 => by rw [htell, hfence]; exact hroom j h1 h2)
  simp only [hpad, htell] at hdone
  exact hdone

/-- A core with the accesses `l` on their way, the last of them numbered. -/
def Core.sent (c : Core) (l : List SlotAcc) : Core := { c with late := l, accNo := c.accNo + 1 }

/-- A write through an operand whose block resolves is put on its way. -/
theorem writeOp_ok {q : Issue} {s : State} {c : Core} (hc : s.core q.core = c) {o : Spo} {n ph a : Nat} (hr : c.resolve q.ctx o.handle o.byte (64 * n) true o.mode = .ok (ph, a))
    (ord d : Nat) (poison : Bool) (step t : Nat) : writeOp s q ord o n d poison step t = s.setCore q.core
      (c.sent (queueWrites q.ctx ord c.accNo ph (tagOf (c.tc q.ctx).seq o.tag) o.hold poison step n (a / 64) d t c).late) := by
  have hw : c.writeSpo q.ctx ord o n d poison false step t =
      (c.sent (queueWrites q.ctx ord c.accNo ph (tagOf (c.tc q.ctx).seq o.tag) o.hold poison step n (a / 64) d t c).late, none) := by
    simp only [Core.writeSpo, hr]
    exact congrArg (fun z : Core => (({ z with accNo := c.accNo + 1 } : Core), (none : Option Viol))) (queueWrites_frame ..)
  simp only [writeOp, hc, hw, violateOpt]

/-- The destination of a write resolves alike once the instruction has begun to issue. -/
theorem resolve_begun_of_writesWell {q : Issue} {s : State} {o : Spo} {n ph a : Nat} (h : writesWell q s o n ph a) (k w : Nat) :
    ((s.core q.core).begun q.ctx k w).resolve q.ctx o.handle o.byte (64 * n) true o.mode = .ok (ph, a) :=
  (Core.resolve_begun (c := s.core q.core) (d := (s.core q.core).begun q.ctx k w) rfl (Core.tc_begun_same ..) ..).trans h

/-- A slot instruction whose effect is a write through an operand. -/
theorem Begins.writeOp {q : Issue} {k w : Nat} {s u : State} (hu : Begins q k w s u) {o : Spo} {n ph a : Nat} (hr : writesWell q s o n ph a)
    (ord d : Nat) (poison : Bool) (step t : Nat) :
    let v := Machine.writeOp u q ord o n d poison step t
    writesLater q ord o n ph a d poison step t s v ∧ keepsRegs q none none s v ∧ padFrame q s v := by
  have hx := Core.tc_begun_same (s.core q.core) q.ctx k w
  rw [writeOp_ok hu.core (resolve_begun_of_writesWell hr k w), hx, Ctx.seq_begun,
    queueWrites_late_congr (c' := (s.core q.core).begun q.ctx k w) (c := s.core q.core) _ _ _ _ _ _ _ _ _ _ _ _ rfl]
  generalize hl : (queueWrites ..).late = l
  obtain ⟨hregs, hcore, hcyc, hpad, hctx⟩ := hu.keepsRegs_setCore (C := Core.onlyPad) (c := ((s.core q.core).begun q.ctx k w).sent l) rfl fun _ => rfl
  refine ⟨writesLater_of_core ?_ ?_ ?_ ?_ fun j => ?_, hregs, hcore, hcyc, hpad, hctx, ?_⟩ <;> rw [State.core_setCore_same]
  · rfl
  · rfl
  · rfl
  · exact hl.symm
  · rfl
  · exact hx ▸ Ctx.onlyRegs_begun ..

/-! ### VDRN -/

theorem drSail_lt (w : BitVec 44) : drSail w < 4 := bitsN_lt w 6 2

/-- The slots that a drained row fills (08 R194). -/
def drSlots (w : BitVec 44) : Nat := if drFmt w = 1 then 2 else 4

/-- The row that VDRN puts in the drain stage, bound for `dst`. -/
def Core.drained (c : Core) (q : Issue) (w : BitVec 44) (dst : Option (Nat × Nat)) : DrainRow where
  row := drRow w
  ctx := q.ctx
  dst := dst
  tag := tagOf (c.tc q.ctx).seq (spoAt w 17).tag
  hold := (spoAt w 17).hold
  ofmt := drFmt w
  val := ((c.sail (drSail w)).accRow (drRow w)).val
  poison := ((c.sail (drSail w)).accRow (drRow w)).poison
  entries := 0

/-- A VDRN that issues with room in the drain stage, on a legal word with a destination that resolves. -/
structure DrainsWell (q : Issue) (w : BitVec 44) (s0 s : State) (k ph a : Nat) : Prop where
  issues : issuesAt s0 q true [] [] k s
  sail : drSail w < s.rigSails q.core
  room : ((s0.core q.core).sail (drSail w)).stage.length < 32
  reserved : bitsN w 43 1 = 0
  fmt : drFmt w ≠ 3
  writes : (spoAt w 17).writes = true
  aligned : (spoAt w 17).ofs % 4 = 0
  resolves : writesWell q s (spoAt w 17) (drSlots w) ph a

section
variable {q : Issue} {w : BitVec 44} {s0 s : State} {k ph a : Nat} (h : DrainsWell q w s0 s k ph a)
include h

/-- VDRN of a row of an open output tile. -/
theorem exec_vdrn_tile {e : OutTile} (ht : ((s.core q.core).sail (drSail w)).tileOf (drRow w) = some e) (hd : drRow w ∉ ((s.core q.core).sail (drSail w)).dist)
    (hf : drFmt w ≠ 2) : ∃ u n, Begins q k n s u ∧ exec (.vdrn q w) s0 = .next (u.setCore q.core (((s.core q.core).begun q.ctx k n).setSail (drSail w)
      { (s.core q.core).sail (drSail w) with stage := ((s.core q.core).sail (drSail w)).stage ++ [(s.core q.core).drained q w (some (ph, a))] })) := by
  obtain ⟨u, n, hu, e⟩ := issue_begins h.issues _
  refine ⟨u, n, hu, congrArg Host.Outcome.next ((if_neg (Nat.not_le.mpr h.room)).trans (e.trans ?_))⟩
  have hres := resolve_begun_of_writesWell h.resolves k n
  rw [drSlots] at hres
  have hdist : ((s.core q.core).sail (drSail w)).dist.contains (drRow w) = false := by simpa using hd
  simp only [hu.core, Core.sail_begun]
  rw [legalOr_good (by simp [firstCause, h.reserved, h.fmt, hu.rigSails, h.sail, h.writes, h.aligned, hf, hd, ht])]
  simp only [hres, hdist, State.updSail, State.updCore, hu.core, Core.sail_begun, Core.tc_begun_same, Ctx.seq_begun]
  rfl

/-- VDRN of a row that SDIST accumulates. -/
theorem exec_vdrn_dist (hd : drRow w ∈ ((s.core q.core).sail (drSail w)).dist) (hf : drFmt w = 2) :
    ∃ u n, Begins q k n s u ∧ exec (.vdrn q w) s0 = .next (writeOp u q 3 (spoAt w 17) 4 (((s.core q.core).sail (drSail w)).accRow (drRow w)).val.toNat
      (((s.core q.core).sail (drSail w)).accRow (drRow w)).poison 0 (k + 5 - bankLat a)) := by
  obtain ⟨u, n, hu, e⟩ := issue_begins h.issues _
  refine ⟨u, n, hu, congrArg Host.Outcome.next ((if_neg (Nat.not_le.mpr h.room)).trans (e.trans ?_))⟩
  have hres := resolve_begun_of_writesWell h.resolves k n
  rw [drSlots] at hres
  have hdist : ((s.core q.core).sail (drSail w)).dist.contains (drRow w) = true := by simpa using hd
  simp only [hu.core, Core.sail_begun]
  rw [legalOr_good (by simp [firstCause, h.reserved, hu.rigSails, h.sail, h.writes, h.aligned, hf, hd])]
  simp only [hres, hdist]
  simp only [hf]
  rfl

end

/-! ### VSCA -/

/-- A row of the drain stage with its next sidecar entry added: its value is then `v`, or all ones where it is poison. -/
def DrainRow.withEntry (d : DrainRow) (v : VWord) : DrainRow := { d with entries := d.entries + 1, val := if d.poison then BitVec.allOnes 2048 else v }

/-- A drain stage with the row of `d` replaced by `d`. -/
def Sail.restaged (x : Sail) (d : DrainRow) : Sail := { x with stage := x.stage.map fun z => if z.row = d.row then d else z }

/-- The place in its tile's sidecar buffer of the entry that VSCA names, counted in entries (03 R76). -/
def scPlace (w : BitVec 44) (d : DrainRow) (e : OutTile) : Nat := (d.row - e.acc0) * qdScRow e.qd + bitsN w 17 8

/-- Whether the entry is the last that its slot holds, so that its read takes the slot. -/
def scTakes (w : BitVec 44) (d : DrainRow) (e : OutTile) : Bool := scPlace w d e % 16 == 15 || scPlace w d e + 1 == e.rows * qdScRow e.qd

/-- A VSCA that issues, on a legal word that names the next entry of row `d` of the drain stage, of the tile `e` with its sidecar buffer at `b`; the entry's slot is full. -/
structure AddsWell (q : Issue) (w : BitVec 44) (s0 s : State) (k : Nat) (d : DrainRow) (e : OutTile) (b : Nat × Nat) : Prop where
  issues : issuesAt s0 q true [] [] k s
  sail : drSail w < s.rigSails q.core
  reserved : bitsN w 25 19 = 0
  staged : ((s.core q.core).sail (drSail w)).stage.find? (fun d => d.row == drRow w) = some d
  tile : ((s.core q.core).sail (drSail w)).tileOf (drRow w) = some e
  buffer : e.scBuf = some b
  next : d.entries = bitsN w 17 8
  inRow : bitsN w 17 8 < qdScRow e.qd
  captures : qdScN e.qd ≠ 0
  full : ((s.core q.core).seenTell ((b.2 + 4 * scPlace w d e) / 64)).st = .full
  tag : ((s.core q.core).seenTell ((b.2 + 4 * scPlace w d e) / 64)).tag = e.scTag

/-- VSCA of the next entry of a row in the drain stage. -/
theorem exec_vsca {q : Issue} {w : BitVec 44} {s0 s : State} {k : Nat} {d : DrainRow} {e : OutTile} {b : Nat × Nat} (h : AddsWell q w s0 s k d e b) :
    let c := s.core q.core
    let y := b.2 + 4 * scPlace w d e
    ∃ u n tl tk, Begins q k n s u ∧ (∀ j, (c.emptied tl tk).tell j = if j = y / 64 then c.readTell (scTakes w d e) j else c.tell j) ∧
      exec (.vsca q w) s0 = .next (u.setCore q.core (((c.begun q.ctx k n).emptied tl tk).setSail (drSail w)
        ((c.sail (drSail w)).restaged (d.withEntry (addEntry c e (Memory.readN c.pad y 4) d.val))))) := by
  intro c y
  obtain ⟨u, n, hu, ex⟩ := issue_begins h.issues _
  obtain ⟨c1, hread, hframe, -, htell, -⟩ := Core.readSlot_good (c := c.begun q.ctx k n) b.1 (scTakes w d e) (.inl h.full) h.tag
  rw [Core.eq_emptied hframe] at hread htell
  refine ⟨u, n, c1.tells, c1.taken, hu, htell, congrArg Host.Outcome.next (ex.trans ?_)⟩
  simp only [hu.core, Core.sail_begun, h.staged, h.tile]
  rw [legalOr_good (by simp [firstCause, h.reserved, hu.rigSails, h.sail, h.next, h.inRow, h.captures])]
  simp only [scPlace, scTakes] at hread
  simp only [h.buffer, hread, Option.map_none, violateOpt, Bool.or_false, Sail.restaged, DrainRow.withEntry, h.next, c, y, scPlace]
  rfl

/-! ### The obligation -/

/-- A core that differs from the one that has begun to issue by one sail and by telltales: only that sail differs, and the scratchpad's telltales. -/
theorem Core.onlySail_setSail_emptied (c : Core) (j : Fin 4) (k n : Nat) (tl tk : AMap Tell) {i : Nat} (hi : i < 4) (x : Sail) :
    Core.onlySail i c (((c.begun j k n).emptied tl tk).setSail i x) := by
  refine ⟨?_, fun r hr => ?_⟩
  · rw [Core.setSail_eq _ _ hi]; rfl
  · rw [Core.sail_setSail_ne _ _ hr]; rfl

/-- A slot instruction whose effect is one sail and telltales of its core. -/
theorem Begins.sailFrame {q : Issue} {k n : Nat} {s u : State} (hu : Begins q k n s u) (tl tk : AMap Tell) {i : Nat} (hi : i < 4) (x : Sail) :
    let t := u.setCore q.core ((((s.core q.core).begun q.ctx k n).emptied tl tk).setSail i x)
    (t.core q.core).sail i = x ∧ (t.core q.core).pad = (s.core q.core).pad ∧ (t.core q.core).tells = tl ∧
      keepsRegs q none none s t ∧ slotFrame q (Core.onlySail i) s t := by
  refine ⟨?_, ?_, ?_, hu.keepsRegs_setCore (Core.onlySail_setSail_emptied _ _ _ _ _ _ hi x) fun j => Core.tc_setSail ..⟩ <;> rw [State.core_setCore_same]
  · exact Core.sail_setSail_same _ _ hi
  · rw [Core.setSail_eq _ _ hi]; rfl
  · rw [Core.setSail_eq _ _ hi]; rfl

/-- Settles O22: VDRN by the row that it stages or the write that it puts on its way, VSCA by the row of the stage that it leaves. -/
theorem drainsAndSidecars : Obligations.DrainsAndSidecars := by
  intro q w s0 s k ph a o c i x slots h hi
  have hi4 : i < 4 := drSail_lt w
  refine ⟨fun hroom hv hf hw ho hr => ?_, fun hv d e b hd he hb hent hlt hn => ?_⟩
  · have hwell : DrainsWell q w s0 s k ph a := ⟨h, hi, hroom, hv, hf, hw, ho, hr⟩
    refine ⟨fun e ht hdist hf2 => ?_, fun hdist hf2 => ?_⟩
    · obtain ⟨u, n, hu, ex⟩ := exec_vdrn_tile hwell ht hdist hf2
      exact ⟨_, ex, hu.sailFrame c.tells c.taken hi4 _⟩
    · obtain ⟨u, n, hu, ex⟩ := exec_vdrn_dist hwell hdist hf2
      have hslots : drSlots w = 4 := if_neg (by omega)
      exact ⟨_, ex, hu.writeOp (hslots ▸ hwell.resolves) 3 _ _ 0 _⟩
  · intro m y hfull htag
    obtain ⟨u, n, tl, tk, hu, htell, ex⟩ := exec_vsca ⟨h, hi, hv, hd, he, hb, hent, hlt, hn, hfull, htag⟩
    obtain ⟨hsail, hpad, htells, hregs, hframe⟩ := hu.sailFrame tl tk hi4 _
    refine ⟨_, ex, hsail, hpad, fun j => ?_, hregs, hframe⟩
    exact (congrArg (fun l : AMap Tell => AMap.at l {} j) htells).trans (htell j)

end Sys2Proof.Machine

namespace Sys2Proof.Machine

/-! ## A row that breaches its envelope (O35) -/

/-! ### Numbers that are not finite -/

theorem dec32_not_finite {x : BitVec 32} (h : nonFinite32 x = true) : (dec32 x).isFin = false := by
  have h : x.toNat >>> 23 % 256 = 255 := by simpa [nonFinite32, bitsN] using h
  unfold dec32 decIeee
  rw [if_pos (by simpa using h)]
  split <;> rfl

theorem nonFinite32_to32 {x : Num} (h : x.isFin = false) : nonFinite32 x.to32 = true := by
  cases x with
  | nan => decide
  | inf s => cases s <;> decide
  | fin s m e => cases h

theorem Num.mul_self_not_finite {x : Num} (h : x.isFin = false) : (x.mul x).isFin = false := by
  cases x with
  | nan => rfl
  | inf s => rfl
  | fin s m e => cases h

theorem Num.add_not_finite {x y : Num} (h : x.isFin = false ∨ y.isFin = false) : (x.add y).isFin = false := by
  cases x with
  | nan => rfl
  | inf s =>
    cases y with
    | nan => rfl
    | inf t =>
      show (if s = t then Num.inf s else .nan).isFin = false
      split <;> rfl
    | fin t n f => rfl
  | fin s m e =>
    cases y with
    | nan => rfl
    | inf t => rfl
    | fin t n f => simp [Num.isFin] at h

/-- A sum is not finite where an addend is not (R30). -/
theorem nonFinite32_fadd {a b : BitVec 32} (h : nonFinite32 a = true ∨ nonFinite32 b = true) : nonFinite32 (fadd a b) = true :=
  nonFinite32_to32 (Num.add_not_finite (h.imp dec32_not_finite dec32_not_finite))

theorem nonFinite32_fmul_self {a : BitVec 32} (h : nonFinite32 a = true) : nonFinite32 (fmul a a) = true :=
  nonFinite32_to32 (Num.mul_self_not_finite (dec32_not_finite h))

/-! ### The tree of the squared row norm (R37, R80) -/

theorem treeLevel_length (f : BitVec 32 → BitVec 32 → BitVec 32) : ∀ (n : Nat) (xs : List (BitVec 32)), xs.length = 2 * n → (treeLevel f xs).length = n
  | 0, [], _ => rfl
  | n + 1, a :: b :: r, h => congrArg (· + 1) (treeLevel_length f n r (by simp only [List.length_cons] at h; omega))
  | n + 1, [_], h => by simp only [List.length_singleton] at h; omega
  | 0, _ :: _, h => by simp at h

theorem treeLevel_nonFinite : ∀ (xs : List (BitVec 32)), (∃ x ∈ xs, nonFinite32 x = true) → ∃ x ∈ treeLevel fadd xs, nonFinite32 x = true
  | [], h => h
  | [_], h => h
  | a :: b :: r, ⟨x, hx, hn⟩ => by
    rcases List.mem_cons.mp hx with rfl | hx
    · exact ⟨_, List.mem_cons_self .., nonFinite32_fadd (.inl hn)⟩
    · rcases List.mem_cons.mp hx with rfl | hx
      · exact ⟨_, List.mem_cons_self .., nonFinite32_fadd (.inr hn)⟩
      · obtain ⟨y, hy, hn⟩ := treeLevel_nonFinite r ⟨x, hx, hn⟩
        exact ⟨y, List.mem_cons_of_mem _ hy, hn⟩

/-- A sum over the balanced tree is not finite where one of its inputs is not. -/
theorem treeReduce_nonFinite (n : Nat) : ∀ (xs : List (BitVec 32)), xs.length = 2 ^ n → (∃ x ∈ xs, nonFinite32 x = true) → nonFinite32 (treeReduce fadd n xs) = true := by
  induction n with
  | zero =>
    rintro xs hl ⟨x, hx, hn⟩
    obtain ⟨y, rfl⟩ := List.length_eq_one_iff.mp hl
    rwa [List.mem_singleton.mp hx] at hn
  | succ n ih =>
    intro xs hl hx
    exact ih _ (treeLevel_length _ _ _ (by rw [hl, Nat.pow_succ, Nat.mul_comm])) (treeLevel_nonFinite _ hx)

theorem rowNorm_nonFinite {v : VWord} {i : Nat} (hi : i < 64) (h : nonFinite32 (lane32 v i) = true) : nonFinite32 (rowNorm v) = true :=
  treeReduce_nonFinite 6 _ (by simp) ⟨_, List.mem_map.mpr ⟨i, List.mem_range.mpr hi, rfl⟩, nonFinite32_fmul_self h⟩

theorem breaches_iff (w : BitVec 256) (s : BitVec 32) : breaches w s = true ↔ nonFinite32 s = true ∨ fLt (wHi2 w) s = true ∨ fLt s (wLo2 w) = true := by
  simp [breaches, or_assoc]

/-- Settles O35: the three causes are the check's own disjuncts, and a square, then every sum of the tree above it, is not finite where its input is not. -/
theorem envelopeBreach : Obligations.EnvelopeBreach :=
  ⟨breaches_iff, fun _ _ w hi h => ⟨rowNorm_nonFinite hi h, (breaches_iff w _).mpr (.inl (rowNorm_nonFinite hi h))⟩⟩

end Sys2Proof.Machine

namespace Sys2Proof.Machine

/-! ## The norm check and the passes of an escalation (O36) -/

/-! ### What the recorder and a violation leave of the cores -/

theorem works_evrSample (s : State) (src part field core : Nat) (value bin : Int) : (evrSample s src part field core value bin).works = s.works := by
  unfold evrSample
  dsimp only
  split
  · rfl
  · split
    · rfl
    · rfl

theorem works_evrIndex (s : State) (src part unit : Nat) : (evrIndex s src part unit).works = s.works := works_evrSample ..

theorem core_evrIndex (s : State) (src part unit m : Nat) : (evrIndex s src part unit).core m = s.core m :=
  congrArg (fun x : AMap Core × MstBlock × Fabric × (Nat → Group) => AMap.at x.1 {} m) (works_evrIndex s src part unit)

theorem cores_coreFaultAt (s : State) (m code cyc : Nat) : (coreFaultAt s m code cyc).cores = s.cores :=
  congrArg Prod.fst (works_raiseFault s (s.corePart m) code (m / 192) (m % 192))

theorem core_congr {s t : State} (h : t.cores = s.cores) (m : Nat) : t.core m = s.core m := by simp only [State.core, h]

/-- A violation changes nothing of its core but the record. -/
theorem core_violateAt (s : State) (m ctx : Nat) (v : Viol) (cyc : Nat) : ∃ r, (violateAt s m ctx v cyc).core m = { s.core m with viol := r } := by
  unfold violateAt
  dsimp only
  rw [← core_evrIndex s 19 (s.partOf (m / 192)) (m / 192) m]
  generalize evrIndex s 19 (s.partOf (m / 192)) (m / 192) = u
  have hw : ∃ r, (u.updCore m (fun c => { c with viol := c.viol.add ctx v (u.grp (u.corePart m)).step cyc })).core m = { u.core m with viol := r } :=
    ⟨_, State.core_updCore_same ..⟩
  generalize u.updCore m _ = w at hw ⊢
  split
  · exact hw
  · exact hw.imp fun r h => (core_congr (cores_coreFaultAt ..) m).trans h

theorem core_violateOpt (s : State) (m ctx : Nat) (v : Option Viol) : ∃ r, (violateOpt s m ctx v).core m = { s.core m with viol := r } := by
  cases v with
  | none => exact ⟨_, rfl⟩
  | some v => exact core_violateAt ..

/-! ### A final row written -/

theorem drainForm_slots_le (f : Nat) (v : VWord) : (drainForm f v).2 ≤ 4 := by
  unfold drainForm
  split <;> simp

/-- A write of one slot changes nothing of its core but the scratchpad and the telltales. -/
theorem Core.writeSlot_frame (c : Core) (ph slot : Nat) (x : Byte) (hold : Bool) (d : Slot) (poison : Bool) :
    ∃ p k, (c.writeSlot ph slot x hold d poison).1 = { c with pad := p, tells := k } := by
  unfold Core.writeSlot
  dsimp only
  split
  · exact ⟨_, _, rfl⟩
  · exact ⟨_, _, rfl⟩

theorem writeSlots_frame (ph : Nat) (x : Byte) (hold poison : Bool) (n : Nat) : ∀ (slot d : Nat) (c : Core) (v : Option Viol),
    ∃ p k, (writeSlots ph x hold poison n slot d (c, v)).1 = { c with pad := p, tells := k } := by
  induction n with
  | zero => exact fun _ _ c _ => ⟨c.pad, c.tells, rfl⟩
  | succ n ih =>
    intro slot d c v
    obtain ⟨p, k, h⟩ := Core.writeSlot_frame c ph slot x hold (BitVec.ofNat 512 d) poison
    unfold writeSlots
    obtain ⟨p', k', h'⟩ := ih (slot + 1) (d >>> 512) (c.writeSlot ph slot x hold (BitVec.ofNat 512 d) poison).1
      (match v with | some u => some u | none => (c.writeSlot ph slot x hold (BitVec.ofNat 512 d) poison).2)
    exact ⟨p', k', h'.trans (by rw [h])⟩

/-- Whatever becomes of a final row's write, the core keeps everything but its scratchpad, its telltales and its record of violations. -/
theorem core_writeRow (s : State) (m : Nat) (d : DrainRow) : ∃ p k r, (writeRow s m d).core m = { s.core m with pad := p, tells := k, viol := r } := by
  unfold writeRow
  split
  · exact ⟨_, _, _, rfl⟩
  next ph a _ =>
    obtain ⟨p, k, h⟩ := writeSlots_frame ph d.tag d.hold d.poison (drainForm d.ofmt d.val).2 (a / 64) (drainForm d.ofmt d.val).1 (s.core m) none
    obtain ⟨r, hr⟩ := core_violateOpt (s.setCore m { s.core m with pad := p, tells := k }) m d.ctx
      (writeSlots ph d.tag d.hold d.poison (drainForm d.ofmt d.val).2 (a / 64) (drainForm d.ofmt d.val).1 (s.core m, none)).2
    rw [State.core_setCore_same] at hr
    exact ⟨p, k, r, by dsimp only; rw [h]; exact hr⟩

/-- The slots of a row's destination may be written: EMPTY and under no fence (R112, Table 5.6). -/
def DrainRow.free (d : DrainRow) (c : Core) : Prop :=
  ∀ ph a, d.dst = some (ph, a) → Memory.wf c.pad = true ∧ ∀ j, a / 64 ≤ j → j < a / 64 + 4 → (c.tell j).st = .empty ∧ c.fenced j = false

/-- The row's value stands in the slots of its destination with their telltales, every other byte and telltale is as before; a row that lost its destination is written nowhere (R82, R115, R195). -/
def DrainRow.lands (d : DrainRow) (c e : Core) : Prop :=
  match d.dst with
  | none => e.pad = c.pad ∧ e.tells = c.tells
  | some (_, a) =>
    (∀ b, Memory.read e.pad b = if 64 * (a / 64) ≤ b ∧ b < 64 * (a / 64) + 64 * (drainForm d.ofmt d.val).2
      then BitVec.ofNat 8 ((drainForm d.ofmt d.val).1 >>> (8 * (b - 64 * (a / 64)))) else Memory.read c.pad b) ∧
    ∀ j, e.tell j = if a / 64 ≤ j ∧ j < a / 64 + (drainForm d.ofmt d.val).2 then ⟨if d.poison then .poison else if d.hold then .held else .full, d.tag⟩ else c.tell j

/-- A landing looks at the scratchpad and the telltales alone. -/
theorem DrainRow.lands.congr {d : DrainRow} {c e c' e' : Core} (h : d.lands c e) (hp : c'.pad = c.pad) (ht : c'.tells = c.tells) (hp' : e'.pad = e.pad) (ht' : e'.tells = e.tells) :
    d.lands c' e' := by
  unfold DrainRow.lands Core.tell at *
  rwa [hp, ht, hp', ht']

/-- A final row whose slots are free lands, and nothing else of the module changes but what `leaveStage` does. -/
theorem finalRow_free {s : State} {m : Nat} {d : DrainRow} (h : d.free (s.core m)) (i : Nat) :
    ∃ c, finalRow s m i d = s.setCore m (leaveStage c i d.row) ∧ d.lands (s.core m) c ∧ { c with pad := (s.core m).pad, tells := (s.core m).tells } = s.core m := by
  unfold DrainRow.lands finalRow writeRow
  cases hd : d.dst with
  | none => exact ⟨s.core m, rfl, ⟨rfl, rfl⟩, rfl⟩
  | some x =>
    obtain ⟨ph, a⟩ := x
    obtain ⟨hwf, hroom⟩ := h ph a hd
    have hle := drainForm_slots_le d.ofmt d.val
    obtain ⟨hv, hrest, -, hread, htell⟩ := writeSlots_good ph d.tag d.hold d.poison (drainForm d.ofmt d.val).2 (a / 64) (drainForm d.ofmt d.val).1 (s.core m) hwf
      (fun j h1 h2 => hroom j h1 (by omega))
    refine ⟨_, ?_, ⟨hread, htell⟩, hrest⟩
    simp only [hv, violateOpt, State.updCore, State.core_setCore_same, State.setCore_setCore]

/-! ### A row that leaves the drain stage -/

/-- Leaving the stage changes the sail's stage and tile, and the tracker where the tile retires. -/
theorem leaveStage_spec (c : Core) {i : Nat} (hi : i < 4) (row : Nat) :
    ∃ t k, leaveStage c i row = { c.setSail i { c.sail i with stage := (c.sail i).stage.filter (fun d => d.row != row), tile := t } with tracks := k } := by
  unfold leaveStage
  simp only [Core.setSail_eq c _ hi]
  split
  · exact ⟨(c.sail i).tile, c.tracks, rfl⟩
  next o _ =>
    by_cases h : (if o.done.contains row then o.done else o.done ++ [row]).length = o.rows
    · rw [if_pos h]; exact ⟨none, _, rfl⟩
    · rw [if_neg h]; exact ⟨some _, c.tracks, rfl⟩

theorem leaveStage_frame (c : Core) {i : Nat} (hi : i < 4) (row : Nat) : { leaveStage c i row with sails := c.sails, tracks := c.tracks } = c := by
  obtain ⟨t, k, h⟩ := leaveStage_spec c hi row
  rw [h, Core.setSail_eq c _ hi]

theorem sail_leaveStage (c : Core) {i : Nat} (hi : i < 4) (row : Nat) :
    ∃ t, (leaveStage c i row).sail i = { c.sail i with stage := (c.sail i).stage.filter (fun d => d.row != row), tile := t } := by
  obtain ⟨t, k, h⟩ := leaveStage_spec c hi row
  exact ⟨t, by rw [h]; exact Core.sail_setSail_same c _ hi⟩

theorem Core.sail_congr {c d : Core} (h : d.sails = c.sails) (i : Nat) : d.sail i = c.sail i := by simp only [Core.sail, h]

/-- Whatever becomes of a final row's write, the core keeps its counts and the sail its escalations. -/
theorem finalRow_keeps (s : State) (m : Nat) {i : Nat} (hi : i < 4) (d : DrainRow) :
    ((finalRow s m i d).core m).stat = (s.core m).stat ∧ (((finalRow s m i d).core m).sail i).esc = ((s.core m).sail i).esc := by
  obtain ⟨p, k, r, h⟩ := core_writeRow s m d
  obtain ⟨t, ht⟩ := sail_leaveStage ((writeRow s m d).core m) hi d.row
  unfold finalRow
  rw [State.core_updCore_same, ht]
  exact ⟨(congrArg Core.stat (leaveStage_frame ((writeRow s m d).core m) hi d.row) :).trans (by rw [h]), by rw [h]; rfl⟩

/-! ### The check of a row -/

theorem core_countEsc (s : State) (m i : Nat) (o : OutTile) (row : Nat) (f : EscCount → EscCount) (j : Nat) : (countEsc s m i o row f).core j = s.core j := rfl

theorem core_countBlocked (s : State) (m i : Nat) (o : OutTile) (row : Nat) : (countBlocked s m i o row).core m =
    { s.core m with stat := { (s.core m).stat with escBlock := satAdd 0xFF (s.core m).stat.escBlock 1 } } := by
  unfold countBlocked
  rw [core_countEsc, State.core_updCore_same]

/-- On a core with nothing on its way a check finds the core as it stands. -/
theorem settle_still {s : State} {m : Nat} (h : (s.core m).still) (t : Nat) : ∃ n k, s.settle m t = s.setCore m ((s.core m).atFc n k) := by
  have hs : (s.core m).sails.map (fun y => y.handOver t) = (s.core m).sails := by
    apply Vector.ext
    intro j hj
    have := h.2 j
    rw [Vector.getElem_map]
    simp only [Core.sail, List.getD_eq_getElem?_getD] at this
    simp_all [Sail.handOver]
  obtain ⟨n, k, hr⟩ := Core.reach_eq (s.core m) t
  exact ⟨n, k, by rw [settle_quiet t h.1 hs, hr]⟩

/-- The check of row `row` of a sail ends: the line is low, the row stands in the stage with its sidecar adds done, escalates not yet, and no mask sends it on (R80, R92, R94). -/
structure ChecksRow (s : State) (m i row : Nat) (d : DrainRow) (o : OutTile) : Prop where
  low : (s.grp (s.corePart m)).stalled = none
  still : (s.core m).still
  staged : ((s.core m).sail i).stage.find? (fun d => d.row == row) = some d
  tile : ((s.core m).sail i).tileOf row = some o
  ready : d.ready o = true
  fresh : ((s.core m).sail i).esc.any (fun e => e.row == row) = false
  mask : maskRung s m i o row = none

/-- The sail with an escalation of the row begun (R91). -/
def Sail.escalates (x : Sail) (row : Nat) : Sail :=
  { x with esc := x.esc ++ [{ row := row, reached := 0, target := 1 }], phase := if x.phase = .idle then .armed else x.phase }

/-- The check's three outcomes: final, blocked, or an escalation with its luff item (R82, R85, R91). -/
theorem ChecksRow.outcome {s : State} {m i row : Nat} {d : DrainRow} {o : OutTile} (h : ChecksRow s m i row d o) : ∃ n k, let u := s.setCore m ((s.core m).atFc n k)
    rowNormCheck s m i row =
      if breaches o.watch (rowNorm d.val) = false ∧ row - o.acc0 ∉ o.ovf then finalRow u m i d
      else if wRungs o.watch = 0 ∨ s.escMode m = 2 then finalRow (countBlocked u m i o row) m i d
      else armLuff (u.updSail m i (·.escalates row)) (s.corePart m) (.escalation m i) ((s.grp (s.corePart m)).cyc + 20) := by
  obtain ⟨n, k, hs⟩ := settle_still h.still (s.grp (s.corePart m)).cyc
  refine ⟨n, k, ?_⟩
  have hc : (s.setCore m ((s.core m).atFc n k)).core m = (s.core m).atFc n k := State.core_setCore_same ..
  have hx : ((s.core m).atFc n k).sail i = (s.core m).sail i := rfl
  have hm : maskRung (s.setCore m ((s.core m).atFc n k)) m i o row = maskRung s m i o row := by
    simp only [maskRung, hc]
    rfl
  simp only [rowNormCheck, hs, hc, hx, h.low, h.staged, h.tile, h.ready, h.fresh, hm, h.mask]
  have hb : (!(breaches o.watch (rowNorm d.val) || o.ovf.contains (row - o.acc0)) && (none : Option Nat).isNone) = true ↔
      breaches o.watch (rowNorm d.val) = false ∧ row - o.acc0 ∉ o.ovf := by simp
  simp only [hb]
  rfl

/-- A core with what the end of a row's check may change as another core has it. -/
def Core.checkedAs (e c : Core) : Core := { e with pad := c.pad, tells := c.tells, seen := c.seen, taken := c.taken, sails := c.sails, tracks := c.tracks }

/-- A row within its envelope is final. -/
theorem ChecksRow.final {s : State} {m i row : Nat} {d : DrainRow} {o : OutTile} (h : ChecksRow s m i row d o) (hi : i < 4)
    (hb : breaches o.watch (rowNorm d.val) = false) (ho : row - o.acc0 ∉ o.ovf) (hf : d.free (s.core m)) : let t := rowNormCheck s m i row
    d.lands (s.core m) (t.core m) ∧ ((t.core m).sail i).stage = ((s.core m).sail i).stage.filter (fun e => e.row != row) ∧
      ((t.core m).sail i).esc = ((s.core m).sail i).esc ∧
      onlyOneCore m (fun c e => e.checkedAs c = c) s t := by
  obtain ⟨n, k, ht⟩ := h.outcome
  simp only [if_pos (And.intro hb ho)] at ht
  have hc : (s.setCore m ((s.core m).atFc n k)).core m = (s.core m).atFc n k := State.core_setCore_same ..
  obtain ⟨c, hfin, hland, hrest⟩ := finalRow_free (s := s.setCore m ((s.core m).atFc n k)) (m := m) (d := d) (by rw [hc]; exact hf) i
  rw [hc] at hland hrest
  have hrow : d.row = row := by simpa using List.find?_some h.staged
  obtain ⟨u, hu⟩ := sail_leaveStage c hi d.row
  have hframe := leaveStage_frame c hi row
  have hx : c.sail i = (s.core m).sail i := Core.sail_congr (congrArg Core.sails hrest :) i
  dsimp only
  rw [ht, hfin, State.setCore_setCore, State.core_setCore_same, hu, hx, hrow]
  refine ⟨hland.congr rfl rfl (congrArg Core.pad hframe :) (congrArg Core.tells hframe :), rfl, rfl, rfl, fun _ hj => State.core_setCore_ne _ _ hj, ?_⟩
  rw [State.core_setCore_same]
  have hleft : (leaveStage c i row).checkedAs (s.core m) = c.checkedAs (s.core m) := (congrArg (Core.checkedAs · (s.core m)) hframe :)
  exact hleft.trans (congrArg (Core.checkedAs · (s.core m)) hrest :)

/-- A row that breaches with a rung left escalates, and arms a luff item. -/
theorem ChecksRow.escalates {s : State} {m i row : Nat} {d : DrainRow} {o : OutTile} (h : ChecksRow s m i row d o) (hi : i < 4)
    (hb : breaches o.watch (rowNorm d.val) = true) (hr : wRungs o.watch ≠ 0) (hm : s.escMode m ≠ 2)
    (hn : (s.grp (s.corePart m)).items.all (fun e => e.src != .escalation m i || e.ended) = true) : let t := rowNormCheck s m i row
    (t.core m).sail i = ((s.core m).sail i).escalates row ∧
      (t.grp (s.corePart m)).items = (s.grp (s.corePart m)).items ++ [{ src := .escalation m i, u := (s.grp (s.corePart m)).cyc + 20 }] ∧
      (t.core m).pad = (s.core m).pad ∧ (t.core m).tells = (s.core m).tells := by
  obtain ⟨n, k, ht⟩ := h.outcome
  simp only [hb, hr, hm, Bool.true_eq_false, false_and, or_self, if_false] at ht
  have hc : ((s.setCore m ((s.core m).atFc n k)).updSail m i (·.escalates row)).core m = ((s.core m).atFc n k).setSail i (((s.core m).sail i).escalates row) := by
    simp only [State.updSail, State.core_updCore_same, State.core_setCore_same]
    rfl
  have hnone : (s.grp (s.corePart m)).items.any (fun e => e.src == .escalation m i && !e.ended) = false := by
    simpa [imp_iff_not_or] using hn
  dsimp only
  rw [ht]
  refine ⟨?_, ?_, ?_, ?_⟩
  · exact (congrArg (Core.sail · i) hc).trans (Core.sail_setSail_same _ _ hi)
  · have hg : ((s.setCore m ((s.core m).atFc n k)).updSail m i (·.escalates row)).grp (s.corePart m) = s.grp (s.corePart m) := rfl
    simp only [armLuff, State.grp_updGrp_same, hg, hnone, h.low, Bool.false_eq_true, if_false]
  · exact (congrArg Core.pad hc).trans (by rw [Core.setSail_eq _ _ hi]; rfl)
  · exact (congrArg Core.tells hc).trans (by rw [Core.setSail_eq _ _ hi]; rfl)

/-- A row that breaches and may climb no rung is counted as blocked. -/
theorem ChecksRow.blocked {s : State} {m i row : Nat} {d : DrainRow} {o : OutTile} (h : ChecksRow s m i row d o) (hi : i < 4)
    (hb : breaches o.watch (rowNorm d.val) = true) (hr : wRungs o.watch = 0 ∨ s.escMode m = 2) : let t := rowNormCheck s m i row
    (t.core m).stat.escBlock = min 0xFF ((s.core m).stat.escBlock + 1) ∧ ((t.core m).sail i).esc = ((s.core m).sail i).esc := by
  obtain ⟨n, k, ht⟩ := h.outcome
  simp only [hb, hr, Bool.true_eq_false, false_and, if_false, if_true] at ht
  obtain ⟨hstat, hesc⟩ := finalRow_keeps (countBlocked (s.setCore m ((s.core m).atFc n k)) m i o row) m hi d
  dsimp only
  rw [ht, hstat, hesc, core_countBlocked, State.core_setCore_same, ← satAdd_eq_min]
  exact ⟨rfl, rfl⟩

/-! ### What a repeat reads -/

section
variable (c : Core) (x : CoreStat)

/-- A resident read answers without the core's counts. -/
theorem Core.readRes_stat (i h byte len : Nat) : ({ c with stat := x } : Core).readRes i h byte len = { c.readRes i h byte len with core := { c with stat := x } } := by
  have hs : ∀ j, ({ c with stat := x } : Core).seenTell j = c.seenTell j := fun _ => rfl
  have hbad : ∀ ph slot t, (({ c with stat := x } : Core).readSlot ph slot t false).2.1 = (c.readSlot ph slot t false).2.1 :=
    fun ph slot t => by rw [Core.readSlot_peek_congr (hs slot)]
  have hr : ({ c with stat := x } : Core).resolve i h byte len false (b2n false) = c.resolve i h byte len false (b2n false) := Core.resolve_congr rfl rfl ..
  unfold Core.readRes Core.readBytes
  simp only [hr, hbad]
  cases c.resolve i h byte len false (b2n false) with
  | error v => rfl
  | ok y => simp only [readSlots_peek_congr hs]; rfl

@[simp] theorem rungQd_stat (o : OutTile) (r : Nat) : rungQd { c with stat := x } o r = rungQd c o r := by simp only [rungQd, Core.readRes_stat]

theorem signRead_stat (o : OutTile) (r k : Nat) : signRead { c with stat := x } o r k = { signRead c o r k with core := { c with stat := x } } := by
  simp only [signRead, rungQd_stat, Core.readRes_stat]

@[simp] theorem rungSigns_stat (o : OutTile) (r : Nat) : rungSigns { c with stat := x } o r = rungSigns c o r := by
  funext k
  simp only [rungSigns, signRead_stat]

theorem rungTiles_stat (w : BitVec 256) (q : Nat → BitVec 128) (op : OpRec) (r : Nat) : rungTiles { c with stat := x } w q op r = rungTiles c w q op r := by
  induction r with
  | zero => rfl
  | succ r ih => simp only [rungTiles, ih]

@[simp] theorem repeatTiles_stat (w : BitVec 256) (q : Nat → BitVec 128) (ops : List OpRec) (r : Nat) : repeatTiles { c with stat := x } w q ops r = repeatTiles c w q ops r := by
  simp only [repeatTiles, rungTiles_stat]

theorem repeatSum_stat (w : BitVec 256) (q : Nat → BitVec 128) (g : Nat → Nat) (ops : List OpRec) (v : VWord) (row r : Nat) :
    repeatSum { c with stat := x } w q g ops v row r = repeatSum c w q g ops v row r := by
  simp only [repeatSum, repeatTiles_stat]
  rfl

theorem repeatRow_stat (w : BitVec 256) (q : Nat → BitVec 128) (g : Nat → Nat) (ops : List OpRec) (v : VWord) (row r : Nat) :
    repeatRow { c with stat := x } w q g ops v row r = repeatRow c w q g ops v row r := by
  simp only [repeatRow, repeatSum_stat, repeatTiles_stat]

theorem rungReads_stat (o : OutTile) (r : Nat) : rungReads { c with stat := x } o r = (rungReads c o r).map (fun z => { z with core := { c with stat := x } }) := by
  have hq : rungQd { c with stat := x } o = rungQd c o := funext (rungQd_stat c x o)
  simp only [rungReads, hq, repeatTiles_stat, Core.readRes_stat, signRead_stat, List.map_cons]
  split <;> simp

theorem repeated_stat (o : OutTile) (row r : Nat) : repeated { c with stat := x } o row r = repeated c o row r := by
  have hq : rungQd { c with stat := x } o = rungQd c o := funext (rungQd_stat c x o)
  simp only [repeated, hq, rungSigns_stat, repeatRow_stat, repeatSum_stat]

end

/-! ### A pass of one row -/

/-- Whether the retire fence of a sail's output tile stands over a slot (R112). -/
def fencesSlot (slot : Nat) (t : Option OutTile) : Bool :=
  match t with
  | some t => (match t.fence with | some (lo, hi) => decide (lo ≤ slot) && decide (slot ≤ hi) | none => false)
  | none => false

theorem Core.fenced_eq (c : Core) (slot : Nat) : c.fenced slot = (c.sails.map Sail.tile).toList.any (fencesSlot slot) := by
  rw [Vector.toList_map, List.any_map]
  rfl

/-- A sail replaced by one with the same tile changes no retire fence. -/
theorem Core.fenced_setSail (c : Core) {i : Nat} (hi : i < 4) {x : Sail} (h : x.tile = (c.sail i).tile) (slot : Nat) : (c.setSail i x).fenced slot = c.fenced slot := by
  have ht : (c.sails.set i x hi).map Sail.tile = c.sails.map Sail.tile := by
    apply Vector.ext
    intro k hk
    by_cases e : i = k
    · subst e; simp [h, Core.sail, hi]
    · simp [Vector.getElem_set_ne, e]
  rw [Core.setSail_eq c x hi, Core.fenced_eq, Core.fenced_eq, ht]

theorem filterMap_range_single {α : Type} (r : Nat) (e : α) (n : Nat) : (List.range n).filterMap (fun k => if r = k then some e else none) = if r < n then [e] else [] := by
  induction n with
  | zero => rfl
  | succ n ih =>
    rw [List.range_succ, List.filterMap_append, ih]
    by_cases h : r = n
    · subst h; simp
    · have : r < n + 1 ↔ r < n := by omega
      simp [h, this]

/-- A pass over one escalating row. -/
theorem passRows_single {e : EscRow} (hr : e.row < 512) (ht : e.target ≤ 3) : passRows [e] = [e] := by
  have h : ∀ k, [e].find? (fun x => x.row == k && x.target == e.target) = if e.row = k then some e else none := by
    intro k
    by_cases h : e.row = k <;> simp [h]
  simp only [passRows, List.foldl_cons, List.foldl_nil, Nat.min_eq_right ht, h, filterMap_range_single, if_pos hr]
  rfl

/-- The repeat of row `e` of an output tile at its rung meets no fault: its descriptors are legal and capture nothing, its reads are good, no row of a mast that it reads is hurt, and
its result is within the envelope (R71, R81, R89). -/
structure RepeatsWell (c : Core) (o : OutTile) (d : DrainRow) (e : EscRow) (hurt : List Nat) : Prop where
  legal : ∀ r, r < e.target → qdOk (rungQd c o (r + 1)) = true
  plain : qdScN (rungQd c o e.target) = 0
  reads : ∀ r ∈ rungReads c o e.target, r.viol = none ∧ r.poison = false
  sound : rungPoison o e.target hurt = false
  base : d.poison = false
  init : (AMap.at o.init {} e.row).poison = false
  within : breaches o.watch (rowNorm (repeated c o e.row e.target).val) = false
  caught : (repeated c o e.row e.target).missed = false

/-- A sail with other accumulator rows. -/
def Sail.withAcc (x : Sail) (a : AMap VReg) : Sail := { x with acc := a }

/-- A sum in an accumulator row of a sail. -/
def State.accumulated (s : State) (m i row : Nat) (v : VWord) : State := (s.setCore m (s.core m)).updSail m i (fun y => y.withAcc (AMap.put y.acc row ⟨v, false⟩))

theorem State.core_accumulated (s : State) (m i row : Nat) (v : VWord) :
    (s.accumulated m i row v).core m = (s.core m).setSail i (((s.core m).sail i).withAcc (AMap.put ((s.core m).sail i).acc row ⟨v, false⟩)) := by
  rw [State.accumulated, State.updSail, State.core_updCore_same, State.core_setCore_same]

/-- What the repeat leaves in its accumulator row and its stage entry. -/
theorem RepeatsWell.passValue {s : State} {m : Nat} {d : DrainRow} {o : OutTile} {e : EscRow} {hurt : List Nat} (h : RepeatsWell (s.core m) o d e hurt) (i j : Nat) :
    passValue s m i j o d e hurt none =
      (s.accumulated m i (504 + j) (repeated (s.core m) o e.row e.target).sum, { d with val := (repeated (s.core m) o e.row e.target).val }, false) := by
  have hp : (rungReads (s.core m) o e.target).any (fun r => r.poison) = false := by simpa using fun r hr => (h.reads r hr).2
  have hbuf : repeatBuffer (s.core m) o (rungQd (s.core m) o e.target) j (e.row - o.acc0) (repeated (s.core m) o e.row e.target).side = (s.core m, none, true) :=
    if_pos h.plain
  simp only [Machine.passValue, hbuf, h.init, h.base, h.sound, hp, h.caught]
  rfl

/-- The row is final with the repeat's value; before that only the sail's accumulator differs. -/
theorem RepeatsWell.passRow {s : State} {m i : Nat} {d : DrainRow} {o : OutTile} {e : EscRow} {hurt : List Nat} (h : RepeatsWell (s.core m) o d e hurt)
    (hd : ((s.core m).sail i).stage.find? (fun d => d.row == e.row) = some d) (ho : ((s.core m).sail i).tileOf e.row = some o) (hl : wLayer o.watch = false) (j : Nat) :
    ∃ u a, passRow s m i j hurt none e = endRow (finalRow u m i { d with val := (repeated (s.core m) o e.row e.target).val }) m i e.row ∧
      u.core m = (s.core m).setSail i (((s.core m).sail i).withAcc a) := by
  have hv : (rungReads (s.core m) o e.target).findSome? (fun r => r.viol) = none := List.findSome?_eq_none_iff.mpr fun r hr => (h.reads r hr).1
  have hq : (List.range e.target).any (fun r => !qdOk (rungQd (s.core m) o (r + 1))) = false := by simpa using h.legal
  refine ⟨countEsc (s.accumulated m i (504 + j) (repeated (s.core m) o e.row e.target).sum) m i o e.row
    (fun k => { k with passes := satAdd 0xFFFF k.passes 1, top := max k.top e.target }), _, ?_, State.core_accumulated ..⟩
  simp only [Machine.passRow, hd, ho, hv, violateOpt, hq, h.passValue, h.within, setMask, hl, Bool.false_and, Bool.or_false, Bool.false_eq_true, false_and, if_false]

/-- A repeat meets the same faults whatever the core has counted. -/
theorem RepeatsWell.stat {c : Core} {o : OutTile} {d : DrainRow} {e : EscRow} {hurt : List Nat} (h : RepeatsWell c o d e hurt) (x : CoreStat) :
    RepeatsWell { c with stat := x } o d e hurt where
  legal r hr := by rw [rungQd_stat]; exact h.legal r hr
  plain := by rw [rungQd_stat]; exact h.plain
  reads r hr := by
    rw [rungReads_stat] at hr
    obtain ⟨z, hz, rfl⟩ := List.mem_map.mp hr
    exact h.reads z hz
  sound := h.sound
  base := h.base
  init := h.init
  within := by rw [repeated_stat]; exact h.within
  caught := by rw [repeated_stat]; exact h.caught

/-- A final row that leaves its escalation: it lands, and of the sail's escalations the others stay. -/
theorem endRow_finalRow {u : State} {m i : Nat} {d : DrainRow} (hi : i < 4) (hf : d.free (u.core m)) (row : Nat) : let t := endRow (finalRow u m i d) m i row
    d.lands (u.core m) (t.core m) ∧ (t.core m).stat = (u.core m).stat ∧ ((t.core m).sail i).esc = ((u.core m).sail i).esc.filter (fun k => k.row != row) := by
  obtain ⟨c, hfin, hland, hrest⟩ := finalRow_free hf i
  have hkeep := finalRow_keeps u m hi d
  have hcore : (endRow (finalRow u m i d) m i row).core m = (leaveStage c i d.row).setSail i
      { (leaveStage c i d.row).sail i with esc := ((leaveStage c i d.row).sail i).esc.filter (fun k => k.row != row) } := by
    rw [hfin, endRow, State.updSail, State.core_updCore_same, State.core_setCore_same]
  have hframe := leaveStage_frame c hi d.row
  rw [hfin, State.core_setCore_same] at hkeep
  dsimp only
  rw [hcore, Core.sail_setSail_same _ _ hi, Core.stat_setSail, ← hkeep.2]
  refine ⟨hland.congr rfl rfl ?_ ?_, hkeep.1, rfl⟩ <;> rw [Core.setSail_eq _ _ hi]
  · exact (congrArg Core.pad hframe :)
  · exact (congrArg Core.tells hframe :)

theorem rungPoison_append (o : OutTile) (r : Nat) (a b : List Nat) : rungPoison o r (a ++ b) = (rungPoison o r a || rungPoison o r b) := List.any_append ..

theorem DrainRow.free.congr {d d' : DrainRow} {c c' : Core} (h : d.free c) (hd : d'.dst = d.dst) (hp : c'.pad = c.pad) (ht : c'.tells = c.tells)
    (hf : ∀ j, c'.fenced j = c.fenced j) : d'.free c' := by
  unfold DrainRow.free Core.tell at *
  simpa only [hd, hp, ht, hf] using h

/-- A row whose repeat is within the envelope lands with the repeat's value and leaves its escalation. -/
theorem RepeatsWell.passRow_lands {s : State} {m i : Nat} {d : DrainRow} {o : OutTile} {e : EscRow} {hurt : List Nat} (h : RepeatsWell (s.core m) o d e hurt) (hi : i < 4)
    (hd : ((s.core m).sail i).stage.find? (fun d => d.row == e.row) = some d) (ho : ((s.core m).sail i).tileOf e.row = some o) (hl : wLayer o.watch = false)
    (hf : d.free (s.core m)) (j : Nat) : let t := Machine.passRow s m i j hurt none e
    ({ d with val := (repeated (s.core m) o e.row e.target).val } : DrainRow).lands (s.core m) (t.core m) ∧ (t.core m).stat = (s.core m).stat ∧
      ((t.core m).sail i).esc = ((s.core m).sail i).esc.filter (fun k => k.row != e.row) := by
  obtain ⟨u, a, hpass, hu⟩ := h.passRow hd ho hl j
  have hpad : (u.core m).pad = (s.core m).pad := by rw [hu, Core.setSail_eq _ _ hi]
  have htells : (u.core m).tells = (s.core m).tells := by rw [hu, Core.setSail_eq _ _ hi]
  have hfence : ∀ j, (u.core m).fenced j = (s.core m).fenced j := fun j => by
    rw [hu]
    exact Core.fenced_setSail (s.core m) hi (x := ((s.core m).sail i).withAcc a) rfl j
  obtain ⟨hland, hstat, hesc⟩ := endRow_finalRow hi (hf.congr (d' := { d with val := (repeated (s.core m) o e.row e.target).val }) rfl hpad htells hfence) e.row
  dsimp only
  rw [hpass]
  exact ⟨hland.congr hpad.symm htells.symm rfl rfl, by rw [hstat, hu, Core.stat_setSail], by rw [hesc, hu, Core.sail_setSail_same _ _ hi]; rfl⟩

/-- A core with one more repeat pass counted (R97). -/
def Core.passCounted (c : Core) : Core := { c with stat := { c.stat with escPass := satAdd 0xFFFF c.stat.escPass 1 } }

/-- A sail whose sequencer restores it, all its rows being final. -/
def Core.restoring (c : Core) (i : Nat) : Core :=
  let d := c.setSail i { c.sail i with phase := .restoring }
  { d with mast := { d.mast with gapTiers := [] } }

theorem Core.restoring_spec (c : Core) {i : Nat} (hi : i < 4) : (c.restoring i).pad = c.pad ∧ (c.restoring i).tells = c.tells ∧ (c.restoring i).stat = c.stat ∧
    (c.restoring i).sail i = { c.sail i with phase := .restoring } := by
  refine ⟨?_, ?_, ?_, Core.sail_setSail_same c _ hi⟩ <;> simp only [Core.restoring, Core.setSail_eq c _ hi]

theorem rowsFound_nil (s : State) (m : Nat) : rowsFound s m [] [] = s := rfl

/-- The end of a pass over a sail's one escalating row, with which its last row is final. -/
theorem escalationPassEnd_single {s : State} {m i : Nat} {o : OutTile} {e : EscRow} (hp : ((s.core m).sail i).phase = .passing) (he : ((s.core m).sail i).esc = [e])
    (hr : e.row < 512) (ht : e.target ≤ 3) (ho : ((s.core m).sail i).tileOf e.row = some o) (hbad : rungPoison o e.target (s.core m).mast.bad = false) :
    let t := passRow (s.updCore m Core.passCounted) m i 0 (s.core m).mast.poison none e
    ((t.core m).sail i).esc = [] → (escalationPassEnd s m i [] none).core m = (t.core m).restoring i := by
  intro t hesc
  have hue : (s.core m).mast.bad.filter (fun r => (topsailRows o e.target).any (fun y => decide (y.1 ≤ r) && decide (r ≤ y.2)) && !(s.core m).mast.poison.contains r) = [] :=
    List.filter_eq_nil_iff.mpr fun r hr hc => List.any_eq_false.mp hbad r hr (Bool.and_eq_true_iff.mp hc).1
  have hreads : passReads s m i = topsailRows o e.target := by simp only [passReads, he, passRows_single hr ht, List.flatMap_singleton, ho]
  have hend : escalationPassEnd s m i [] none =
      ((evrIndex t 16 (s.partOf (m / 192)) (m / 192)).updSail m i (fun y => { y with phase := .restoring })).updMast m (fun x => { x with gapTiers := [] }) := by
    have hz : (List.range 8).zip [e] = [(0, e)] := rfl
    have hend : (((evrIndex t 16 (s.partOf (m / 192)) (m / 192)).core m).sail i).esc.isEmpty = true := by rw [core_evrIndex, hesc]; rfl
    simp only [escalationPassEnd, hp, hreads, he, passRows_single hr ht, List.map_nil, List.filter_nil, List.append_nil, hue, List.eraseDups_nil, hz, List.foldl_cons,
      List.foldl_nil, rowsFound_nil, if_true]
    exact if_pos hend
  rw [hend, State.updMast, State.updSail, State.core_updCore_same, State.core_updCore_same, core_evrIndex]
  rfl

/-- The end of a pass over a sail's one escalating row, whose repeat is within the envelope: the row lands with the repeat's value, and the sail's state is restored. -/
theorem RepeatsWell.passEnd {s : State} {m i : Nat} {d : DrainRow} {o : OutTile} {e : EscRow}
    (h : RepeatsWell (s.core m) o d e ((s.core m).mast.poison ++ (s.core m).mast.bad)) (hi : i < 4) (hp : ((s.core m).sail i).phase = .passing)
    (he : ((s.core m).sail i).esc = [e]) (hr : e.row < 512) (ht : e.target ≤ 3) (hd : ((s.core m).sail i).stage.find? (fun d => d.row == e.row) = some d)
    (ho : ((s.core m).sail i).tileOf e.row = some o) (hl : wLayer o.watch = false) (hf : d.free (s.core m)) : let t := escalationPassEnd s m i [] none
    ({ d with val := (repeated (s.core m) o e.row e.target).val } : DrainRow).lands (s.core m) (t.core m) ∧ ((t.core m).sail i).phase = .restoring ∧
      ((t.core m).sail i).esc = [] ∧ (t.core m).stat.escPass = min 0xFFFF ((s.core m).stat.escPass + 1) := by
  obtain ⟨hpoison, hbad⟩ := Bool.or_eq_false_iff.mp ((rungPoison_append ..).symm.trans h.sound)
  have h0 : (s.updCore m Core.passCounted).core m = (s.core m).passCounted := State.core_updCore_same ..
  have hw : RepeatsWell ((s.updCore m Core.passCounted).core m) o d e (s.core m).mast.poison := by
    rw [h0]
    exact ({ h with sound := hpoison } : RepeatsWell ..).stat _
  obtain ⟨hland, hstat, hesc⟩ := hw.passRow_lands hi (by rw [h0]; exact hd) (by rw [h0]; exact ho) hl (by rw [h0]; exact hf) 0
  rw [h0] at hland hstat hesc
  have hnil : (((Machine.passRow (s.updCore m Core.passCounted) m i 0 (s.core m).mast.poison none e).core m).sail i).esc = [] := by
    rw [hesc]
    exact (congrArg (List.filter _) he).trans (by simp)
  have hcore := escalationPassEnd_single hp he hr ht ho hbad hnil
  obtain ⟨hp1, ht1, hs1, hx1⟩ := Core.restoring_spec ((Machine.passRow (s.updCore m Core.passCounted) m i 0 (s.core m).mast.poison none e).core m) hi
  have hval : repeated (s.core m).passCounted o e.row e.target = repeated (s.core m) o e.row e.target := repeated_stat ..
  rw [hval] at hland
  dsimp only
  rw [hcore, hx1, hs1, hstat, ← satAdd_eq_min]
  exact ⟨hland.congr rfl rfl hp1 ht1, rfl, hnil, rfl⟩

/-! ### The restore, and the obligation -/

/-- The end of a luff item changes nothing of the module's work but that the source's items have ended. -/
theorem works_endLuff (s : State) (p : Nat) (src : LuffSrc) : (endLuff s p src).works =
    (s.updGrp p (fun g => { g with items := g.items.map (fun i => if i.src == src then { i with ended := true } else i) })).works := by
  unfold endLuff
  dsimp only
  split
  · rw [works_evrIndex, works_evrSample]
    rfl
  · rfl

theorem escalationRestoreDone_spec {s : State} {m : Fin 9216} {i : Fin 4} (h : ((s.core m).sail i).phase = .restoring) :
    Does (.escalationRestoreDone m i) s (fun t => (t.core m).sail i = { (s.core m).sail i with phase := .idle } ∧
      (∀ e ∈ (t.grp (s.corePart m)).items, e.src = .escalation m i → e.ended = true) ∧ (∀ j, j ≠ m.val → t.core j = s.core j) ∧ (t.core m).pad = (s.core m).pad) := by
  let u := s.updSail m i (fun y => { y with phase := .idle })
  have hw := works_endLuff u (s.corePart m) (.escalation m i)
  simp only [State.works, Prod.mk.injEq] at hw
  obtain ⟨hcores, -, -, hgrp⟩ := hw
  have hcore : ∀ j, (endLuff u (s.corePart m) (.escalation m i)).core j = u.core j := fun j => core_congr hcores j
  have hm : u.core m = (s.core m).setSail i { (s.core m).sail i with phase := .idle } := State.core_updCore_same ..
  refine ⟨endLuff u (s.corePart m) (.escalation m i), congrArg Host.Outcome.next (if_pos h), ?_, fun e he hsrc => ?_, fun j hj => ?_, ?_⟩
  · rw [hcore, hm, Core.sail_setSail_same _ _ i.isLt]
  · rw [hgrp, State.grp_updGrp_same] at he
    obtain ⟨y, -, rfl⟩ := List.mem_map.mp he
    by_cases hy : y.src = .escalation m i <;> simp_all
  · rw [hcore]
    exact State.core_updCore_ne _ _ hj
  · rw [hcore, hm, Core.setSail_eq _ _ i.isLt]

/-- While the line is asserted no check ends (R92). -/
theorem rowNormCheck_stalled {s : State} {m : Nat} (h : (s.grp (s.corePart m)).stalled.isSome = true) (i row : Nat) : rowNormCheck s m i row = s := if_pos h

/-- Settles O36: the three outcomes of a check, the one row's pass, and the restore. -/
theorem escalationOfRows : Obligations.EscalationOfRows := by
  intro m i row s d o c x p lands free hd ho
  have hi := i.isLt
  refine ⟨fun hlow hstill hready hfresh hmask => ?_, fun h => ⟨_, rfl, rowNormCheck_stalled h i row⟩, ?_, escalationRestoreDone_spec⟩
  · have h : ChecksRow s m i row d o := ⟨hlow, hstill, hd, ho, hready, hfresh, hmask⟩
    refine ⟨fun hb hovf hfree => ⟨_, rfl, h.final hi hb hovf hfree⟩, fun hb hr hm hn => ?_, fun hb hr => ⟨_, rfl, h.blocked hi hb hr⟩⟩
    obtain ⟨hsail, hitems, hpad, htells⟩ := h.escalates hi hb hr hm hn
    exact ⟨_, rfl, hsail, ⟨_, hitems, rfl, rfl, rfl⟩, hpad, htells⟩
  · rintro ⟨r, reached, target⟩ hphase hesc hrow _ htop hlayer hlegal hplain hreads hsound hbase hinit _ hwithin hcaught hfree
    obtain rfl : r = row.val := hrow
    exact ⟨_, rfl, RepeatsWell.passEnd ⟨hlegal, hplain, hreads, hsound, hbase, hinit, hwithin, hcaught⟩ hi hphase hesc row.isLt htop hd ho hlayer hfree⟩

end Sys2Proof.Machine

namespace Sys2Proof.Machine

/-! ## The saves of an overflow pass (O38) -/

/-- A core that holds saved state keeps it at a further SEQUENCER_SAVE_DONE, whatever has changed since, and while another core of the field has not saved nothing begins (R234 step 1). -/
theorem exec_sequencerSaveDone_saved {m : Fin 9216} {s : State} (hs : (s.core m).saved.isSome = true) (hj : ∃ j ∈ fieldCores s (m / 192), (s.core j).saved = none) :
    exec (.sequencerSaveDone m none) s = .next s := by
  have hall : (fieldCores s (m.val / 192)).all (fun j => (s.core j).saved.isSome) = false := by
    obtain ⟨j, hmem, hnone⟩ := hj
    exact List.all_eq_false.mpr ⟨j, hmem, by simp [hnone]⟩
  refine congrArg Host.Outcome.next ?_
  dsimp only
  cases (s.field (m.val / 192)).ovf with
  | none => rfl
  | some r =>
    dsimp only
    rw [if_pos hs]
    split
    · rfl
    · cases r.queue with
      | nil => rfl
      | cons x q => simp [hall]

/-- The run of an overflow pass for expert 3, pass 1, its cores about to save. -/
def savingRun : OvfRun := { tables := [], entry := 77, queue := [(3, 1)], phase := .armed }

/-- Cores 0 and 1 of field 0 in an overflow pass whose item has begun. Core 0 saved its state while an escalation of the same luff was restoring its sail 0; core 1 has not saved yet. -/
def savedBefore : State where
  pending := []
  cores :=
    [(0, {
      ctx := (Vector.replicate 4 {}).set 0 { loaded := true }
      saved := some { tc0 := { loaded := true }, sails := (Vector.replicate 4 {}).set 0 { phase := .restoring }, pattern := Vector.replicate 16 4 } }),
     (1, { ctx := (Vector.replicate 4 {}).set 0 { loaded := true } })]
  fab := { fields := [(0, { mode := .normal, owned := true, ovf := some savingRun })] }
  parts := [(0, { en := true, grp := { stepping := true, inStep := true, stalled := some 40, items := [{ src := .overflow 0, u := 40, begun := true }] } })]

theorem savedBefore_still : (savedBefore.core 0).still := by
  refine ⟨rfl, fun i => ?_⟩
  have h : (savedBefore.core 0).sails = Vector.replicate 4 {} := rfl
  rw [Core.sail, h, Vector.toList_replicate, List.getD_eq_getElem?_getD, List.getElem?_getD_replicate_default_eq]

/-- Refutes O38: its clause on a core's save does not ask that the core holds no saved state. In `savedBefore` the save of core 0 comes a second time; it changes nothing, so the
saved copy is still the earlier one and not the core's state as it now stands. -/
theorem not_overflowPasses : ¬ Obligations.OverflowPasses := by
  rintro ⟨-, hsave, -⟩
  have hother : ∃ j ∈ fieldCores savedBefore (0 / 192), j ≠ 0 ∧ (savedBefore.core j).saved = none :=
    ⟨1, List.mem_filter.mpr ⟨List.mem_map.mpr ⟨1, by decide, rfl⟩, rfl⟩, by decide, rfl⟩
  obtain ⟨t, ht, -, -, -, hcore⟩ := hsave 0 none savedBefore savingRun rfl rfl hother savedBefore_still ⟨_, List.mem_singleton_self _, rfl, rfl, rfl⟩ rfl
  have hexec := exec_sequencerSaveDone_saved (m := 0) (s := savedBefore) rfl (hother.imp fun _ h => ⟨h.1, h.2.2⟩)
  cases hexec.symm.trans ht
  have hphase : (savedBefore.core 0).saved.map (fun k => k.sails[0].phase) = some (savedBefore.core 0).sails[0].phase :=
    congrArg (fun c : Core => c.saved.map (fun k => k.sails[0].phase)) hcore
  exact absurd hphase (by decide)

end Sys2Proof.Machine

/-! ## Reset -/

namespace Sys2Proof.Machine

/-- Settles O60: reset lists no core and no field, so telltales and field modes are those of fresh ones; the rest is evaluated, logs and memories by the test at reset. -/
theorem resetState : Obligations.ResetState := by
  obtain ⟨hlogs, hmems⟩ := Tests.test_invariants_at_reset
  have htell : ∀ m j, (State.reset.core m).tell j = ⟨.empty, 0x00#8⟩ := fun _ _ => rfl
  have hdark : ∀ n, (State.reset.field n).mode = .dark := fun _ => rfl
  exact ⟨rfl, rfl, rfl, rfl, rfl, rfl, rfl, rfl, rfl, rfl, rfl, rfl, rfl, rfl, rfl, rfl, rfl, htell, hdark, hlogs, hmems⟩

end Sys2Proof.Machine

namespace Sys2Proof.Machine

/-!
## What every step leaves of the memories: their canonical form (05 R98, 06 R122; log entry 1)

`State.memsOk` is kept. Where an operation writes no byte of a scratchpad, bundle store or mast, its rule is an equation (`(f s).memsOk = s.memsOk`); where it writes some, its
rule takes `s.memsOk` and gives `(f s).memsOk`. The rules stand in the order of the model's files: memories, masts, cores, shared operations, commands.
-/

/-! ### Memories -/

theorem Memory.wf_foldl {α : Type} {f : Memory → α → Memory} {l : List α} {m : Memory} (hf : ∀ m x, Memory.wf m = true → Memory.wf (f m x) = true) (h : Memory.wf m = true) :
    Memory.wf (l.foldl f m) = true := by
  induction l generalizing m with
  | nil => exact h
  | cons x l ih => exact ih (hf m x h)

theorem Memory.wf_ite {p : Prop} [Decidable p] {m n : Memory} (hm : Memory.wf m = true) (hn : Memory.wf n = true) : Memory.wf (if p then m else n) = true := by
  split <;> assumption

theorem wf_putEntries {m : Memory} (fenced : Nat → Bool) (base i : Nat) (side : List (Nat × BitVec 16)) (h : Memory.wf m = true) :
    Memory.wf (putEntries m fenced base i side) = true := by
  induction side generalizing m i with
  | nil => exact h
  | cons e r ih => exact ih _ (Memory.wf_ite h (Memory.wf_writeN _ _ _ h))

theorem wf_blankEntries {m : Memory} (a n : Nat) (h : Memory.wf m = true) : Memory.wf (blankEntries m a n) = true := by
  induction n generalizing m a with
  | zero => exact h
  | succ n ih => exact ih _ (Memory.wf_writeN _ _ _ h)

theorem wf_writeNibble {m : Memory} (a i v : Nat) (h : Memory.wf m = true) : Memory.wf (writeNibble m a i v) = true := Memory.wf_write _ _ h

theorem wf_placeRecord {m : Memory} (g : Geo) (a p r : Nat) (h : Memory.wf m = true) : Memory.wf (placeRecord g m a p r) = true := by
  refine Memory.wf_writeN _ _ _ (Memory.wf_foldl (fun m b hm => Memory.wf_writeN _ _ _ hm) ?_)
  refine Memory.wf_foldl (fun m j hm => wf_writeNibble _ _ _ hm) (Memory.wf_foldl (fun m t hm => ?_) h)
  exact Memory.wf_writeN _ _ _ (Memory.wf_writeN _ _ _ hm)

theorem wf_initPage {m : Memory} (g : Geo) (a : Nat) (h : Memory.wf m = true) : Memory.wf (initPage g m a) = true :=
  wf_blankEntries _ _ (Memory.wf_foldl (fun _ _ hm => Memory.wf_writeN _ _ _ hm) (Memory.wf_clear _ _ h))

theorem wf_putGran {m : Memory} (g : Nat) (d : Memory) (h : Memory.wf m = true) : Memory.wf (putGran m g d) = true :=
  Memory.wf_foldl (fun _ _ hm => Memory.wf_write _ _ hm) (Memory.wf_clear _ _ h)

/-! ### Masts -/

/-- A mast's bytes in their canonical form. -/
def Mast.dataOk (x : Mast) : Bool := Memory.wf x.data

theorem Mast.dataOk_of_data {x y : Mast} (h : y.data = x.data) : y.dataOk = x.dataOk := congrArg Memory.wf h

theorem Mast.dataOk_foldl {α : Type} {f : Mast → α → Mast} {l : List α} {x : Mast} (hf : ∀ x a, (f x a).dataOk = x.dataOk) : (l.foldl f x).dataOk = x.dataOk := by
  induction l generalizing x with
  | nil => rfl
  | cons a l ih => rw [List.foldl_cons, ih, hf]

theorem Mast.dataOk_foldl_of {α : Type} {f : Mast → α → Mast} {l : List α} {x : Mast} (hf : ∀ x a, x.dataOk = true → (f x a).dataOk = true) (h : x.dataOk = true) :
    (l.foldl f x).dataOk = true := by
  induction l generalizing x with
  | nil => exact h
  | cons a l ih => exact ih (hf x a h)

@[simp] theorem Mast.dataOk_updTier (x : Mast) (k : Fin 4) (f : Tier → Tier) : (x.updTier k f).dataOk = x.dataOk := (rfl)

@[simp] theorem Mast.dataOk_giveResult (x : Mast) (r : Nat) : (x.giveResult r).dataOk = x.dataOk := (rfl)

@[simp] theorem Mast.dataOk_start (x : Mast) : x.start.dataOk = x.dataOk := (rfl)

@[simp] theorem Mast.dataOk_receive (x y : Mast) : (x.receive y).dataOk = y.dataOk := (rfl)

@[simp] theorem Mast.dataOk_applyHeld (x : Mast) : x.applyHeld.dataOk = x.dataOk := by
  refine Mast.dataOk_foldl (fun m h => ?_)
  cases h <;> exact Mast.dataOk_of_data rfl

theorem Mast.dataOk_rowWrite {x : Mast} (a : Nat) (d : Row) (p : Bool) (h : x.dataOk = true) : (x.rowWrite a d p).dataOk = true := by
  simp only [Mast.dataOk, Mast.rowWrite] at h ⊢
  exact Memory.wf_writeN _ _ _ h

theorem Mast.dataOk_takeTable {x : Mast} (f : Nat) (h : x.dataOk = true) : (x.takeTable f).dataOk = true := by
  unfold Mast.takeTable Mast.dataOk
  exact Memory.wf_clear _ _ h

theorem Mast.dataOk_descend {x : Mast} (a : Nat) (h : x.dataOk = true) : (x.descend a).1.dataOk = true := by
  simp only [Mast.descend]
  split
  · exact h
  · split
    · exact h
    · exact Memory.wf_writeN _ _ _ (Mast.dataOk_takeTable _ h)

theorem Mast.dataOk_tableAddr {x : Mast} (rid vpn : Nat) (h : x.dataOk = true) : (x.tableAddr rid vpn).1.dataOk = true := by
  have h1 := Mast.dataOk_descend (0x10000 + 4 * rid) h
  unfold Mast.tableAddr
  split
  · rename_i e
    rwa [e] at h1
  · rename_i m1 f e
    rw [e] at h1
    have h2 := Mast.dataOk_descend (4096 * f + 4 * (vpn / 1024)) h1
    split <;> rename_i e' <;> rwa [e'] at h2

theorem Mast.dataOk_map' {x : Mast} (rid vpn g : Nat) (wr : Bool) (h : x.dataOk = true) : (x.map' rid vpn g wr).1.dataOk = true := by
  have h1 := Mast.dataOk_tableAddr rid vpn h
  unfold Mast.map'
  split
  · exact h
  split
  · exact h
  split
  · exact h
  split <;> rename_i e <;> rw [e] at h1
  · exact h1
  · split
    · exact h1
    · exact Memory.wf_writeN _ _ _ (Memory.wf_writeN _ _ _ h1)

theorem Mast.dataOk_unmap' {x : Mast} (rid vpn : Nat) (h : x.dataOk = true) : (x.unmap' rid vpn).1.dataOk = true := by
  simp only [Mast.unmap']
  split
  · exact h
  · split
    · exact h
    · split
      · exact h
      · exact Memory.wf_clear _ _ (Memory.wf_clear _ _ h)

theorem Mast.dataOk_release' {x : Mast} (rid : Nat) (h : x.dataOk = true) : (x.release' rid).1.dataOk = true := by
  unfold Mast.release'
  split
  · exact h
  · simp only [Mast.dataOk] at h ⊢
    exact Memory.wf_clear (0x10000 + 4 * rid) 4 (Memory.wf_foldl (fun _ g hm => Memory.wf_clear (8 * g) 8 hm) h)

theorem Mast.dataOk_init' {x : Mast} (g : Geo) (k : Nat) (h : x.dataOk = true) : (x.init' g k).1.dataOk = true := by
  unfold Mast.init'
  split
  · exact h
  · split
    · exact h
    · exact wf_initPage _ _ h

theorem Mast.dataOk_freeGranule {x : Mast} (k : Nat) (h : x.dataOk = true) : (x.freeGranule k).dataOk = true := by
  unfold Mast.freeGranule
  split
  · exact Mast.dataOk_unmap' _ _ h
  · exact h

theorem Mast.dataOk_place {x : Mast} (g : Geo) (a : Append) (bad : Option Nat) (h : x.dataOk = true) : (x.place g a bad).dataOk = true :=
  Memory.wf_foldl (fun _ _ hm => wf_placeRecord _ _ _ _ hm) h

/-! ### Cores -/

/-- The memories of every core of a map in their canonical form. -/
def coresOk (l : AMap Core) : Bool := l.all (fun e => e.2.memsOk)

@[simp] theorem Mast.dataOk_mk (data : Memory) (poison bad ueRows reread writeBack : List Nat) (tiers : Vector Tier 4) (ce ue : Nat) (failed holds : Bool)
    (debtHwm pool pageBase tierMax svcLen : Nat) (poolFree tabs : List Nat) (tlb : AMap TlbEnt) (held : List TlbHeld) (outside : List Outside)
    (answered : List MastAnswer) (path plan refEnd svcEnd svcRows svcDone : Nat) (gapTiers : List Nat) :
    Mast.dataOk ⟨data, poison, bad, ueRows, reread, writeBack, tiers, ce, ue, failed, holds, debtHwm, pool, pageBase, tierMax, svcLen, poolFree, tabs, tlb, held, outside,
    answered, path, plan, refEnd, svcEnd, svcRows, svcDone, gapTiers⟩ = Memory.wf data := (rfl)

@[simp] theorem Core.memsOk_mk (pad : Memory) (tells : AMap Tell) (bundles : Memory) (handles : Vector Word 32) (ctx : Vector Ctx 4) (sails : Vector Sail 4)
    (pattern : Vector Nat 16) (staged : Option (Vector Nat 16)) (patFrom : Nat) (patOld : Vector Nat 16) (tracks : List Track) (nextTrk : Nat) (engine : Option EngineOp)
    (late : List SlotAcc) (accNo : Nat) (quiet : List Nat) (seen : Nat) (taken : AMap Tell) (vecNext : Nat) (lands : List Landing) (appends : List Append) (mast : Mast)
    (router : Router) (decl : AMap Nat) (phase winMax shunt : Nat) (xtabs : AMap XTable) (tsTiles : List TsTile) (masks : AMap (AMap Nat)) (geos : AMap Geo)
    (samp : Option (BitVec 512)) (saved : Option SavedState) (viol : ViolRec) (ill : IllRec) (stat : CoreStat) :
    Core.memsOk ⟨pad, tells, bundles, handles, ctx, sails, pattern, staged, patFrom, patOld, tracks, nextTrk, engine, late, accNo, quiet, seen, taken, vecNext, lands,
    appends, mast, router, decl, phase, winMax, shunt, xtabs, tsTiles, masks, geos, samp, saved, viol, ill, stat⟩ = (Memory.wf pad && (Memory.wf bundles && mast.dataOk)) :=
    Bool.and_assoc ..

@[simp] theorem State.memsOk_mk (pending : List Instr) (tb : Dword) (free : Nat) (cores : AMap Core) (fab : Fabric) (parts : AMap Part) (host : HostIf) (table : ReqTable)
    (stream : Stream) (stay : Stay) (sheet : Sheet) (serial : Dword) (grade : Nat) (xt : ColCopy) (mst : MstBlock) (sys : Sys) :
    State.memsOk ⟨pending, tb, free, cores, fab, parts, host, table, stream, stay, sheet, serial, grade, xt, mst, sys⟩ = coresOk cores := (rfl)

@[simp] theorem Mast.dataOk_eta (x : Mast) : Memory.wf x.data = x.dataOk := (rfl)

@[simp] theorem Core.memsOk_eta (c : Core) : (Memory.wf c.pad && (Memory.wf c.bundles && c.mast.dataOk)) = c.memsOk := (Bool.and_assoc ..).symm

@[simp] theorem State.memsOk_eta (s : State) : coresOk s.cores = s.memsOk := (rfl)

theorem Core.memsOk_iff (c : Core) : c.memsOk = true ↔ Memory.wf c.pad = true ∧ Memory.wf c.bundles = true ∧ c.mast.dataOk = true := by
  simp [← Core.memsOk_eta]

@[simp] theorem Core.memsOk_ite (p : Prop) [Decidable p] (c d : Core) : (if p then c else d).memsOk = if p then c.memsOk else d.memsOk := apply_ite _ _ _ _

theorem Core.memsOk_foldl {α : Type} {f : Core → α → Core} {l : List α} {c : Core} (hf : ∀ c x, (f c x).memsOk = c.memsOk) : (l.foldl f c).memsOk = c.memsOk := by
  induction l generalizing c with
  | nil => rfl
  | cons x l ih => rw [List.foldl_cons, ih, hf]

theorem Core.memsOk_foldl_of {α : Type} {f : Core → α → Core} {l : List α} {c : Core} (hf : ∀ c x, c.memsOk = true → (f c x).memsOk = true) (h : c.memsOk = true) :
    (l.foldl f c).memsOk = true := by
  induction l generalizing c with
  | nil => exact h
  | cons x l ih => exact ih (hf c x h)

@[simp] theorem Core.memsOk_setTc (c : Core) (i : Nat) (x : Ctx) : (c.setTc i x).memsOk = c.memsOk := by
  unfold Core.setTc
  split <;> rfl

@[simp] theorem Core.memsOk_setSail (c : Core) (i : Nat) (x : Sail) : (c.setSail i x).memsOk = c.memsOk := by
  unfold Core.setSail
  split <;> rfl

@[simp] theorem Core.memsOk_setTell (c : Core) (j : Nat) (t : Tell) : (c.setTell j t).memsOk = c.memsOk := (rfl)

@[simp] theorem Core.memsOk_emptySlot (c : Core) (j : Nat) : (c.emptySlot j).memsOk = c.memsOk := by
  unfold Core.emptySlot
  split <;> rfl

@[simp] theorem Core.memsOk_readSlot (c : Core) (ph j : Nat) (x : Byte) (take : Bool) : (c.readSlot ph j x take).1.memsOk = c.memsOk := by
  simp only [Core.readSlot]
  split
  · rfl
  · split
    · rfl
    · split <;> simp

@[simp] theorem memsOk_readSlots (ph : Nat) (x : Byte) (take : Bool) (n j : Nat) (r : ReadOut) : (readSlots ph x take n j r).core.memsOk = r.core.memsOk := by
  induction n generalizing j r with
  | zero => rfl
  | succ n ih => simp [readSlots, ih]

@[simp] theorem Core.memsOk_readBytes (c : Core) (ctx h byte len tag : Nat) (take : Bool) : (c.readBytes ctx h byte len tag take).core.memsOk = c.memsOk := by
  simp only [Core.readBytes]
  split <;> simp

@[simp] theorem Core.memsOk_readSpo (c : Core) (ctx : Nat) (o : Spo) (len : Nat) : (c.readSpo ctx o len).core.memsOk = c.memsOk := by simp [Core.readSpo]

@[simp] theorem Core.memsOk_readItems (c : Core) (ctx h byte size count tag : Nat) (take : Bool) : (c.readItems ctx h byte size count tag take).1.memsOk = c.memsOk := by
  simp only [Core.readItems]
  split <;> simp

@[simp] theorem Core.memsOk_readRes (c : Core) (ctx h byte len : Nat) : (c.readRes ctx h byte len).core.memsOk = c.memsOk := by simp [Core.readRes]

theorem Core.memsOk_writeSlot {c : Core} (ph j : Nat) (x : Byte) (hold : Bool) (d : Slot) (poison : Bool) (h : c.memsOk = true) :
    (c.writeSlot ph j x hold d poison).1.memsOk = true := by
  obtain ⟨hp, hb, hm⟩ := c.memsOk_iff.1 h
  simp only [Core.writeSlot]
  split
  · exact h
  · simp [Memory.wf_writeN _ _ _ hp, hb, hm]

theorem memsOk_writeSlots (ph : Nat) (x : Byte) (hold poison : Bool) (n j d : Nat) {r : Core × Option Viol} (h : r.1.memsOk = true) :
    (writeSlots ph x hold poison n j d r).1.memsOk = true := by
  induction n generalizing j d r with
  | zero => exact h
  | succ n ih => exact ih _ _ (Core.memsOk_writeSlot _ _ _ _ _ _ h)

theorem Core.memsOk_writeAt {c : Core} (ctx h byte n : Nat) (x : Byte) (hold : Bool) (d : Nat) (poison : Bool) (hc : c.memsOk = true) :
    (c.writeAt ctx h byte n x hold d poison).1.memsOk = true := by
  unfold Core.writeAt
  split
  · exact hc
  · exact memsOk_writeSlots _ _ _ _ _ _ _ hc

@[simp] theorem Core.memsOk_queue (c : Core) (a : SlotAcc) : (c.queue a).memsOk = c.memsOk := (rfl)

@[simp] theorem memsOk_queueWrites (ctx ord no ph : Nat) (x : Byte) (hold poison : Bool) (step n j d t : Nat) (c : Core) :
    (queueWrites ctx ord no ph x hold poison step n j d t c).memsOk = c.memsOk := by
  induction n generalizing j d t c with
  | zero => rfl
  | succ n ih => simp [queueWrites, ih]

@[simp] theorem Core.memsOk_writeSpo (c : Core) (ctx ord : Nat) (o : Spo) (n d : Nat) (poison silent : Bool) (step t : Nat) :
    (c.writeSpo ctx ord o n d poison silent step t).1.memsOk = c.memsOk := by
  simp only [Core.writeSpo]
  (repeat' split) <;> simp

@[simp] theorem Core.memsOk_raised (c : Core) (a : SlotAcc) (j : Nat) (v : Option Viol) : (c.raised a j v).1.memsOk = c.memsOk := by
  unfold Core.raised
  (repeat' split) <;> rfl

theorem Core.memsOk_act {c : Core} (a : SlotAcc) (h : c.memsOk = true) : (c.act a).1.memsOk = true := by
  unfold Core.act
  split
  · simp [Core.memsOk_writeSlot _ _ _ _ _ _ h]
  · simp [h]

@[simp] theorem Core.memsOk_reach (c : Core) (t : Nat) : (c.reach t).memsOk = c.memsOk := by
  unfold Core.reach
  split <;> rfl

theorem Core.memsOk_settleGo (t n : Nat) {r : Core × List (Nat × Viol × Nat)} (h : r.1.memsOk = true) : (Core.settleGo t n r).1.memsOk = true := by
  induction n generalizing r with
  | zero => exact h
  | succ n ih =>
    simp only [Core.settleGo]
    split
    · exact h
    · split
      · exact ih (Core.memsOk_act _ (by simp [h]))
      · exact h

theorem Core.memsOk_settled {c : Core} (t : Nat) (h : c.memsOk = true) : (c.settled t).1.memsOk = true := by
  simp only [Core.settled, Core.memsOk_reach]
  exact Core.memsOk_settleGo _ _ (by simpa using h)

@[simp] theorem Core.memsOk_releaseSlot (c : Core) (j : Nat) (x : Byte) : (c.releaseSlot j x).memsOk = c.memsOk := by
  unfold Core.releaseSlot
  split <;> simp

theorem Core.memsOk_loadSlot {c : Core} (j : Nat) (d : Slot) (h : c.memsOk = true) : (c.loadSlot j d).memsOk = true := by
  obtain ⟨hp, hb, hm⟩ := c.memsOk_iff.1 h
  simp [Core.loadSlot, Memory.wf_writeN _ _ _ hp, hb, hm]

@[simp] theorem Core.memsOk_dropStepData (c : Core) : c.dropStepData.memsOk = c.memsOk := (rfl)

@[simp] theorem Core.memsOk_pruneTrk (c : Core) (t : Nat) : (c.pruneTrk t).memsOk = c.memsOk := (rfl)

theorem Core.memsOk_takeTrk {c : Core} {ctx : Nat} {kind : TrackKind} {left : Nat} {due : Option Nat} {x : Core × Nat} (h : c.takeTrk ctx kind left due = some x) :
    x.1.memsOk = c.memsOk := by
  simp only [Core.takeTrk] at h
  split at h <;> cases h
  rfl

@[simp] theorem Core.memsOk_stepTrk (c : Core) (id : Nat) : (c.stepTrk id).memsOk = c.memsOk := (rfl)

@[simp] theorem Core.memsOk_freeTrk (c : Core) (id : Nat) : (c.freeTrk id).memsOk = c.memsOk := (rfl)

@[simp] theorem Core.memsOk_loadDone (c : Core) (i : Nat) : (c.loadDone i).memsOk = c.memsOk := by
  simp only [Core.loadDone]
  split <;> simp

@[simp] theorem memsOk_sealBuffer (c : Core) (a bytes : Nat) (x : Byte) : (sealBuffer c a bytes x).memsOk = c.memsOk :=
  Core.memsOk_foldl fun c i => by split <;> simp

@[simp] theorem memsOk_leaveStage (c : Core) (i row : Nat) : (leaveStage c i row).memsOk = c.memsOk := by
  simp only [leaveStage]
  (repeat' split) <;> simp

@[simp] theorem memsOk_queueCopy (ctx no sph src : Nat) (stag : Byte) (take : Bool) (dph dst : Nat) (dtag : Byte) (hold : Bool) (t n : Nat) (c : Core) :
    (queueCopy ctx no sph src stag take dph dst dtag hold t n c).memsOk = c.memsOk := by
  induction n with
  | zero => rfl
  | succ n ih => simp [queueCopy, ih]

@[simp] theorem Core.memsOk_restore (c : Core) : c.restore.memsOk = c.memsOk := by
  unfold Core.restore
  split <;> simp

@[simp] theorem Core.memsOk_endStep (c : Core) : c.endStep.memsOk = c.memsOk := by simp [Core.endStep]

@[simp] theorem Core.memsOk_start (c : Core) (hot : Bool) (past : Nat) : (c.start hot past).memsOk = c.memsOk := by simp [Core.start]

@[simp] theorem Core.memsOk_startRoutine (c : Core) (entry e pass : Nat) : (c.startRoutine entry e pass).memsOk = c.memsOk := by simp [Core.startRoutine]

theorem memsOk_prefill {c : Core} (ctx blk bytes : Nat) (x : Byte) (h : c.memsOk = true) : (prefill c ctx blk bytes x).1.memsOk = true := by
  obtain ⟨hp, hb, hm⟩ := c.memsOk_iff.1 h
  simp only [prefill]
  split
  · exact h
  · simp only [Core.memsOk_mk, hb, hm, Bool.and_true]
    exact Memory.wf_foldl (fun m k hm => Memory.wf_ite hm (wf_blankEntries _ _ hm)) hp

theorem memsOk_mmulRow (d : BitVec 128) (t : Tile) (op : OpRec) (acc0 signs : Nat) (bad : Nat → Bool) (sp : Bool) (r : Nat) {c : Core} (x : Sail) (o : OutTile)
    (h : c.memsOk = true) : (mmulRow d t op acc0 signs bad sp r c x o).1.memsOk = true := by
  obtain ⟨hp, hb, hm⟩ := c.memsOk_iff.1 h
  simp only [mmulRow]
  split <;> simp [wf_putEntries, hp, hb, hm]

theorem memsOk_mmulRows (d : BitVec 128) (t : Tile) (op : OpRec) (acc0 signs : Nat) (bad : Nat → Bool) (sp : Bool) (n r : Nat) {a : Core × Sail × OutTile}
    (h : a.1.memsOk = true) : (mmulRows d t op acc0 signs bad sp n r a).1.memsOk = true := by
  induction n generalizing r a with
  | zero => exact h
  | succ n ih => exact ih _ (memsOk_mmulRow _ _ _ _ _ _ _ _ _ _ h)

theorem memsOk_repeatBuffer {c : Core} (o : OutTile) (d : BitVec 128) (j r : Nat) (side : List (Nat × BitVec 16)) (h : c.memsOk = true) :
    (repeatBuffer c o d j r side).1.memsOk = true := by
  obtain ⟨hp, hb, hm⟩ := c.memsOk_iff.1 h
  unfold repeatBuffer
  split
  · exact h
  · split
    · exact h
    · simp only [Core.memsOk_mk, hb, hm, Bool.and_true]
      exact wf_putEntries _ _ _ _ (Memory.wf_foldl (fun m i hm => Memory.wf_ite hm (Memory.wf_writeN _ _ _ hm)) hp)

theorem Flit.memsOk_writes {c : Core} (f : Flit) (poison : Bool) (h : c.memsOk = true) : (f.writes c poison).1.memsOk = true := by
  unfold Flit.writes
  split
  · exact Core.memsOk_writeAt _ _ _ _ _ _ _ _ h
  · exact Core.memsOk_writeAt _ _ _ _ _ _ _ _ (Core.memsOk_writeAt _ _ _ _ _ _ _ _ h)

theorem memsOk_loadRuns {c : Core} (a n i : Nat) (h : c.memsOk = true) : (loadRuns c a n i).memsOk = true := by
  induction n generalizing c i with
  | zero => exact h
  | succ n ih => exact ih _ (Core.memsOk_foldl_of (fun _ _ hc => Core.memsOk_loadSlot _ _ hc) h)

theorem memsOk_loadCore {c : Core} (h : c.memsOk = true) : (loadCore c).memsOk = true := by
  obtain ⟨-, -, hm⟩ := c.memsOk_iff.1 h
  refine memsOk_loadRuns _ _ _ ?_
  simp only [Core.memsOk_mk, hm, Bool.and_true, Bool.and_eq_true]
  exact ⟨Memory.wf_nil, Memory.wf_foldl (fun _ _ hd => Memory.wf_write _ _ hd) Memory.wf_nil⟩

@[simp] theorem memsOk_eraseCore (c : Core) : (eraseCore c).memsOk = true := (rfl)

/-! ### The state as a whole -/

/-- What a command leaves, where it completes, has its memories in their canonical form. -/
def Out.MemsOk (o : Out) : Prop := ∀ t, o = .next t → t.memsOk = true

@[simp] theorem Out.memsOk_next (t : State) : Out.MemsOk (.next t) ↔ t.memsOk = true := by simp [Out.MemsOk]

theorem coresOk_iff (l : AMap Core) : coresOk l = true ↔ AMap.All (fun c => c.memsOk = true) l := List.all_eq_true

theorem coresOk_at {l : AMap Core} (h : coresOk l = true) (m : Nat) : (AMap.at l {} m).memsOk = true := ((coresOk_iff l).1 h).at rfl m

theorem State.memsOk_core {s : State} (h : s.memsOk = true) (m : Nat) : (s.core m).memsOk = true := coresOk_at h m

theorem State.memsOk_mast {s : State} (h : s.memsOk = true) (m : Nat) : (s.core m).mast.dataOk = true := ((Core.memsOk_iff _).1 (State.memsOk_core h m)).2.2

theorem coresOk_put {l : AMap Core} {m : Nat} {c : Core} (h : c.memsOk = (AMap.at l {} m).memsOk) : coresOk (AMap.put l m c) = coresOk l := by
  induction l with
  | nil => exact (Bool.and_true _).trans h
  | cons e r ih =>
    obtain ⟨k, d⟩ := e
    unfold AMap.put
    split
    · show (c.memsOk && coresOk ((k, d) :: r)) = coresOk ((k, d) :: r)
      cases hl : coresOk ((k, d) :: r) with
      | false => exact Bool.and_false _
      | true => rw [h, coresOk_at hl m, Bool.and_self]
    · split
      · rename_i hk
        simp only [AMap.at, hk, if_true] at h
        simp [coresOk, h]
      · rename_i hk
        simp only [AMap.at, Ne.symm hk, if_false] at h
        simpa [coresOk] using congrArg (d.memsOk && ·) (ih h)

@[simp] theorem State.memsOk_setCore {s : State} {m : Nat} {c : Core} (h : c.memsOk = (s.core m).memsOk) : (s.setCore m c).memsOk = s.memsOk := coresOk_put h

theorem State.memsOk_setCore_of {s : State} {m : Nat} {c : Core} (hc : c.memsOk = true) (h : s.memsOk = true) : (s.setCore m c).memsOk = true :=
  (coresOk_iff _).2 (((coresOk_iff _).1 h).put hc)

@[simp] theorem State.memsOk_updCore {s : State} {m : Nat} {f : Core → Core} (hf : ∀ c, (f c).memsOk = c.memsOk) : (s.updCore m f).memsOk = s.memsOk :=
  State.memsOk_setCore (hf _)

theorem State.memsOk_updCore_of {s : State} {m : Nat} {f : Core → Core} (hf : ∀ c, c.memsOk = true → (f c).memsOk = true) (h : s.memsOk = true) :
    (s.updCore m f).memsOk = true := State.memsOk_setCore_of (hf _ (State.memsOk_core h m)) h

@[simp] theorem State.memsOk_updCtx (s : State) (m i : Nat) (f : Ctx → Ctx) : (s.updCtx m i f).memsOk = s.memsOk := by simp [State.updCtx]

@[simp] theorem State.memsOk_updSail (s : State) (m i : Nat) (f : Sail → Sail) : (s.updSail m i f).memsOk = s.memsOk := by simp [State.updSail]

@[simp] theorem State.memsOk_updMast {s : State} {m : Nat} {f : Mast → Mast} (hf : ∀ x, (f x).dataOk = x.dataOk) : (s.updMast m f).memsOk = s.memsOk := by
  simp [State.updMast, hf]

theorem State.memsOk_updMast_of {s : State} {m : Nat} {f : Mast → Mast} (hf : ∀ x, x.dataOk = true → (f x).dataOk = true) (h : s.memsOk = true) :
    (s.updMast m f).memsOk = true := by
  refine State.memsOk_updCore_of (fun c hc => ?_) h
  obtain ⟨hp, hb, hm⟩ := c.memsOk_iff.1 hc
  simp [hp, hb, hf _ hm]

@[simp] theorem State.memsOk_updRouter (s : State) (m : Nat) (f : Router → Router) : (s.updRouter m f).memsOk = s.memsOk := by simp [State.updRouter]

@[simp] theorem State.memsOk_ite (p : Prop) [Decidable p] (s t : State) : State.memsOk (if p then s else t) = if p then s.memsOk else t.memsOk := apply_ite _ _ _ _

@[simp] theorem State.memsOk_fst_ite {β : Type} (p : Prop) [Decidable p] (a b : State × β) : State.memsOk (if p then a else b).1 = if p then a.1.memsOk else b.1.memsOk :=
  apply_ite (fun x : State × β => x.1.memsOk) _ _ _

@[simp] theorem memsOk_foldl {α : Type} {f : State → α → State} {l : List α} {s : State} (hf : ∀ s x, (f s x).memsOk = s.memsOk) : (l.foldl f s).memsOk = s.memsOk := by
  induction l generalizing s with
  | nil => rfl
  | cons x l ih => rw [List.foldl_cons, ih, hf]

theorem memsOk_foldl_of {α : Type} {f : State → α → State} {l : List α} {s : State} (hf : ∀ s x, s.memsOk = true → (f s x).memsOk = true) (h : s.memsOk = true) :
    (l.foldl f s).memsOk = true := by
  induction l generalizing s with
  | nil => exact h
  | cons x l ih => exact ih (hf s x h)

@[simp] theorem memsOk_foldl_fst {α β : Type} {f : State × β → α → State × β} {l : List α} {a : State × β} (hf : ∀ a x, (f a x).1.memsOk = a.1.memsOk) :
    (l.foldl f a).1.memsOk = a.1.memsOk := by
  induction l generalizing a with
  | nil => rfl
  | cons x l ih => rw [List.foldl_cons, ih, hf]

theorem memsOk_foldl_fst_of {α β : Type} {f : State × β → α → State × β} {l : List α} {a : State × β} (hf : ∀ a x, a.1.memsOk = true → (f a x).1.memsOk = true)
    (h : a.1.memsOk = true) : (l.foldl f a).1.memsOk = true := by
  induction l generalizing a with
  | nil => exact h
  | cons x l ih => exact ih (hf a x h)

@[simp] theorem memsOk_iter {n i : Nat} {f : Nat → State → State} {s : State} (hf : ∀ i s, (f i s).memsOk = s.memsOk) : (iter n i f s).memsOk = s.memsOk := by
  induction n generalizing i s with
  | zero => rfl
  | succ n ih => rw [iter, ih, hf]

/-! ### Shared operations -/

@[simp] theorem State.memsOk_setField (s : State) (n : Nat) (x : FieldSt) : (s.setField n x).memsOk = s.memsOk := by simp [State.setField]

@[simp] theorem State.memsOk_updField (s : State) (n : Nat) (f : FieldSt → FieldSt) : (s.updField n f).memsOk = s.memsOk := by simp [State.updField]

@[simp] theorem State.memsOk_setPart (s : State) (p : Nat) (x : Part) : (s.setPart p x).memsOk = s.memsOk := by simp [State.setPart]

@[simp] theorem State.memsOk_updPart (s : State) (p : Nat) (f : Part → Part) : (s.updPart p f).memsOk = s.memsOk := by simp [State.updPart]

@[simp] theorem State.memsOk_updGrp (s : State) (p : Nat) (f : Group → Group) : (s.updGrp p f).memsOk = s.memsOk := by simp [State.updGrp]

@[simp] theorem State.memsOk_eachCore {s : State} {ms : List Nat} {f : Nat → Core → Core} (hf : ∀ m c, (f m c).memsOk = c.memsOk) : (s.eachCore ms f).memsOk = s.memsOk :=
  memsOk_foldl fun _ _ => State.memsOk_updCore (hf _)

theorem State.memsOk_eachCore_of {s : State} {ms : List Nat} {f : Nat → Core → Core} (hf : ∀ m c, c.memsOk = true → (f m c).memsOk = true) (hs : s.memsOk = true) :
    (s.eachCore ms f).memsOk = true := memsOk_foldl_of (fun _ _ h => State.memsOk_updCore_of (hf _) h) hs

@[simp] theorem State.memsOk_atTick (s : State) (t : Dword) : (s.atTick t).memsOk = s.memsOk := by simp [State.atTick]

@[simp] theorem State.memsOk_updPwr (s : State) (f : Pwr → Pwr) : (s.updPwr f).memsOk = s.memsOk := by simp [State.updPwr]

@[simp] theorem State.memsOk_updCorePwr (s : State) (m : Nat) (f : CorePwr → CorePwr) : (s.updCorePwr m f).memsOk = s.memsOk := by simp [State.updCorePwr]

@[simp] theorem State.memsOk_updFieldPwr (s : State) (n : Nat) (f : FieldPwr → FieldPwr) : (s.updFieldPwr n f).memsOk = s.memsOk := by simp [State.updFieldPwr]

@[simp] theorem State.memsOk_updFn (s : State) (f : Nat) (g : Fn → Fn) : (s.updFn f g).memsOk = s.memsOk := by simp [State.updFn]

@[simp] theorem memsOk_emit (s : State) (x : Sent) : (emit s x).memsOk = s.memsOk := by simp [emit]

@[simp] theorem State.memsOk_updVec (s : State) (f v : Nat) (g : Vec → Vec) : (s.updVec f v g).memsOk = s.memsOk := by simp [State.updVec]

@[simp] theorem memsOk_sendVec (s : State) (f v : Nat) : (sendVec s f v).memsOk = s.memsOk := by simp [sendVec]

@[simp] theorem memsOk_signal (s : State) (f v : Nat) : (signal s f v).memsOk = s.memsOk := by simp [signal]

@[simp] theorem memsOk_signalLog (s : State) (l : ELog) (f v : Nat) : (signalLog s l f v).memsOk = s.memsOk := by simp [signalLog]

@[simp] theorem memsOk_dblSet (s : State) (f b : Nat) : (dblSet s f b).memsOk = s.memsOk := by simp [dblSet]

@[simp] theorem memsOk_dblBoth (s : State) (p b : Nat) : (dblBoth s p b).memsOk = s.memsOk := by simp [dblBoth]

@[simp] theorem State.memsOk_updEvr (s : State) (f : Evr → Evr) : (s.updEvr f).memsOk = s.memsOk := by simp [State.updEvr]

@[simp] theorem memsOk_evrEvent (s : State) (kind sev part field core : Nat) (value aux : Option Dword) : (evrEvent s kind sev part field core value aux).memsOk = s.memsOk := by
  simp only [evrEvent]
  (repeat' split) <;> simp

@[simp] theorem memsOk_evrSample (s : State) (src part field core : Nat) (value bin : Int) : (evrSample s src part field core value bin).memsOk = s.memsOk := by simp [evrSample]

@[simp] theorem memsOk_evrIndex (s : State) (src part unit : Nat) : (evrIndex s src part unit).memsOk = s.memsOk := by simp [evrIndex]

@[simp] theorem memsOk_beginFlush (s : State) (f : EvrFlush) : (beginFlush s f).memsOk = s.memsOk := by simp [beginFlush]

@[simp] theorem memsOk_askFlush (s : State) (f : EvrFlush) : (askFlush s f).memsOk = s.memsOk := by simp [askFlush]

@[simp] theorem memsOk_urgentFlush (s : State) (cause : Nat) : (urgentFlush s cause).memsOk = s.memsOk := by simp [urgentFlush]

@[simp] theorem memsOk_evrFault (s : State) (code part field core : Nat) (value : Option Dword) : (evrFault s code part field core value).memsOk = s.memsOk := by simp [evrFault]

@[simp] theorem memsOk_logFault (s : State) (p code field core items : Nat) : (logFault s p code field core items).memsOk = s.memsOk := by simp [logFault]

@[simp] theorem memsOk_raiseFaultN (s : State) (p code field core items : Nat) : (raiseFaultN s p code field core items).memsOk = s.memsOk := by simp [raiseFaultN]

@[simp] theorem memsOk_raiseFault (s : State) (p code field core : Nat) : (raiseFault s p code field core).memsOk = s.memsOk := by simp [raiseFault]

@[simp] theorem memsOk_raiseAll (s : State) (code field core : Nat) : (raiseAll s code field core).memsOk = s.memsOk := by simp [raiseAll]

@[simp] theorem memsOk_mstLog (s : State) (m tier kind row rid : Nat) : (mstLog s m tier kind row rid).memsOk = s.memsOk := by simp [mstLog]

@[simp] theorem memsOk_fabLog (s : State) (router kind seam link pkt rtr tree : Nat) : (fabLog s router kind seam link pkt rtr tree).memsOk = s.memsOk := by simp [fabLog]

@[simp] theorem memsOk_styLog (s : State) (port kind part entry spage : Nat) : (styLog s port kind part entry spage).memsOk = s.memsOk := by simp [styLog]

/-! ### Faults of a step, and issue -/

@[simp] theorem memsOk_failStepAt (s : State) (p code cyc : Nat) : (failStepAt s p code cyc).memsOk = s.memsOk := by simp [failStepAt]

@[simp] theorem memsOk_failStep (s : State) (p code : Nat) : (failStep s p code).memsOk = s.memsOk := by simp [failStep]

@[simp] theorem memsOk_coreFaultAt (s : State) (m code cyc : Nat) : (coreFaultAt s m code cyc).memsOk = s.memsOk := by simp [coreFaultAt]

@[simp] theorem memsOk_coreFault (s : State) (m code : Nat) : (coreFault s m code).memsOk = s.memsOk := by simp [coreFault]

@[simp] theorem memsOk_ownedFault (s : State) (m code : Nat) : (ownedFault s m code).memsOk = s.memsOk := by simp [ownedFault]

@[simp] theorem memsOk_violateAt (s0 : State) (m ctx : Nat) (v : Viol) (cyc : Nat) : (violateAt s0 m ctx v cyc).memsOk = s0.memsOk := by simp [violateAt]

@[simp] theorem memsOk_violate (s : State) (m ctx : Nat) (v : Viol) : (violate s m ctx v).memsOk = s.memsOk := by simp [violate]

@[simp] theorem memsOk_violateOpt (s : State) (m ctx : Nat) (v : Option Viol) : (violateOpt s m ctx v).memsOk = s.memsOk := by
  unfold violateOpt
  split <;> simp

@[simp] theorem memsOk_illegal (s : State) (m ctx slot op cause : Nat) : (illegal s m ctx slot op cause).memsOk = s.memsOk := by simp [illegal]

@[simp] theorem memsOk_xlateFault (s : State) (m : Nat) (a : Dword) (e : Nat × Nat) : (xlateFault s m a e).memsOk = s.memsOk := by simp [xlateFault]

@[simp] theorem memsOk_trkOverrun (s : State) (m ctx : Nat) : (trkOverrun s m ctx).memsOk = s.memsOk := by simp [trkOverrun]

@[simp] theorem State.memsOk_settle {s : State} (m t : Nat) (hs : s.memsOk = true) : (s.settle m t).memsOk = true := by
  simp only [State.settle]
  rw [memsOk_foldl fun s v => memsOk_violateAt _ _ _ _ _]
  exact State.memsOk_setCore_of (Core.memsOk_settled _ (State.memsOk_core hs m)) hs

@[simp] theorem State.memsOk_settleAll {s : State} (p t : Nat) (hs : s.memsOk = true) : (s.settleAll p t).memsOk = true :=
  memsOk_foldl_of (fun _ _ h => State.memsOk_settle _ _ h) hs

@[simp] theorem State.memsOk_settleEnd {s : State} (p : Nat) (hs : s.memsOk = true) : (s.settleEnd p).memsOk = true :=
  memsOk_foldl_of (fun _ _ h => State.memsOk_settle _ _ h) hs

@[simp] theorem memsOk_countWait (s : State) (q : Issue) (vec : Bool) (rs vs : List Nat) : (countWait s q vec rs vs).memsOk = s.memsOk := by simp [countWait]

@[simp] theorem memsOk_poisonSReg (q : Issue) (r : Nat) (t : Nat) (s : State) : (poisonSReg q r t s).memsOk = s.memsOk := by simp [poisonSReg]

@[simp] theorem memsOk_poisonVReg (q : Issue) (r : Nat) (t : Nat) (s : State) : (poisonVReg q r t s).memsOk = s.memsOk := by simp [poisonVReg]

@[simp] theorem memsOk_poisonSlots (q : Issue) (o : Spo) (n t : Nat) (s : State) : (poisonSlots q o n t s).memsOk = s.memsOk := by simp [poisonSlots]

@[simp] theorem memsOk_poisonSail (q : Issue) (w : BitVec 80) (s : State) : (poisonSail q w s).memsOk = s.memsOk := by
  unfold poisonSail
  split <;> simp

@[simp] theorem memsOk_poisonBundle (q : Issue) (b : BitVec 256) (t : Nat) (s : State) : (poisonBundle q b t s).memsOk = s.memsOk := by simp [poisonBundle]

@[simp] theorem memsOk_beginBundle (s : State) (q : Issue) (t : Nat) : (beginBundle s q t).memsOk = s.memsOk := by simp [beginBundle]

@[simp] theorem memsOk_issued (s : State) (q : Issue) (vec : Bool) (rs vs : List Nat) (t : Nat) (hs : s.memsOk = true) : (issued s q vec rs vs t).memsOk = true := by simp [issued, hs]

theorem memsOk_issueOr_of {s : State} {q : Issue} {vec : Bool} {rs vs : List Nat} {dead k : State → Nat → State}
    (hd : ∀ s t, s.memsOk = true → (dead s t).memsOk = true) (hk : ∀ s t, s.memsOk = true → (k s t).memsOk = true) (hs : s.memsOk = true) :
    (issueOr s q vec rs vs dead k).memsOk = true := by
  unfold issueOr
  split
  · exact hs
  · have hi := memsOk_issued s q vec rs vs ‹_› hs
    dsimp only
    split
    · exact hd _ _ hi
    · exact hk _ _ hi

theorem memsOk_issue_of {s : State} {q : Issue} {vec : Bool} {rs vs : List Nat} {k : State → Nat → State} (hk : ∀ s t, s.memsOk = true → (k s t).memsOk = true)
    (hs : s.memsOk = true) : (issue s q vec rs vs k).memsOk = true := memsOk_issueOr_of (fun _ _ h => h) hk hs

@[simp] theorem memsOk_issue {s : State} {q : Issue} {vec : Bool} {rs vs : List Nat} {k : State → Nat → State} (hk : ∀ s t, (k s t).memsOk = s.memsOk)
    (hs : s.memsOk = true) : (issue s q vec rs vs k).memsOk = true := memsOk_issue_of (fun s t h => (hk s t).trans h) hs

theorem memsOk_issueCtrl_of {s : State} {q : Issue} {rs : List Nat} {k : State → Nat → State} (hk : ∀ s t, s.memsOk = true → (k s t).memsOk = true)
    (hs : s.memsOk = true) : (issueCtrl s q rs k).memsOk = true := memsOk_issueOr_of (by simp) (by simpa using hk) hs

@[simp] theorem memsOk_issueCtrl {s : State} {q : Issue} {rs : List Nat} {k : State → Nat → State} (hk : ∀ s t, (k s t).memsOk = s.memsOk) (hs : s.memsOk = true) :
    (issueCtrl s q rs k).memsOk = true := memsOk_issueCtrl_of (fun s t h => (hk s t).trans h) hs

@[simp] theorem memsOk_legalOr {s : State} {q : Issue} {slot op : Nat} {checks : List (Bool × Nat)} {bad good : State → State} (hb : ∀ s, (bad s).memsOk = s.memsOk)
    (hg : ∀ s, (good s).memsOk = s.memsOk) : (legalOr s q slot op checks bad good).memsOk = s.memsOk := by
  unfold legalOr
  split <;> simp [hb, hg]

theorem memsOk_legalOr_of {s : State} {q : Issue} {slot op : Nat} {checks : List (Bool × Nat)} {bad good : State → State} (hb : ∀ s, (bad s).memsOk = s.memsOk)
    (hg : ∀ s, s.memsOk = true → (good s).memsOk = true) (hs : s.memsOk = true) : (legalOr s q slot op checks bad good).memsOk = true := by
  unfold legalOr
  split
  · simp [hb, hs]
  · exact hg _ hs

@[simp] theorem memsOk_readOp (s : State) (q : Issue) (o : Spo) (len : Nat) : (readOp s q o len).1.memsOk = s.memsOk := by simp [readOp]

@[simp] theorem memsOk_writeOp (s : State) (q : Issue) (ord : Nat) (o : Spo) (n d : Nat) (poison : Bool) (step t : Nat) :
    (writeOp s q ord o n d poison step t).memsOk = s.memsOk := by simp [writeOp]

@[simp] theorem memsOk_readItemsOp (s : State) (q : Issue) (o : Spo) (size count : Nat) : (readItemsOp s q o size count).1.memsOk = s.memsOk := by simp [readItemsOp]

@[simp] theorem memsOk_readResAt (s : State) (m ctx h byte len : Nat) : (readResAt s m ctx h byte len).1.memsOk = s.memsOk := by simp [readResAt]

@[simp] theorem memsOk_readResOp (s : State) (q : Issue) (h byte len : Nat) : (readResOp s q h byte len).1.memsOk = s.memsOk := by simp [readResOp]

/-! ### Luff items -/

@[simp] theorem memsOk_armLuff (s : State) (p : Nat) (src : LuffSrc) (u : Nat) : (armLuff s p src u).memsOk = s.memsOk := by simp [armLuff]

@[simp] theorem memsOk_armBoundary (s : State) (p : Nat) (src : LuffSrc) : (armBoundary s p src).memsOk = s.memsOk := by simp [armBoundary]

@[simp] theorem memsOk_endLuff (s : State) (p : Nat) (src : LuffSrc) : (endLuff s p src).memsOk = s.memsOk := by simp [endLuff]

@[simp] theorem memsOk_moveArrival (s : State) (p : Nat) (src : LuffSrc) (u : Option Nat) : (moveArrival s p src u).memsOk = s.memsOk := by
  unfold moveArrival
  split <;> simp

/-! ### Placement and seams -/

@[simp] theorem State.memsOk_updImg (s : State) (p i : Nat) (f : ImgSlot → ImgSlot) : (s.updImg p i f).memsOk = s.memsOk := by simp [State.updImg]

@[simp] theorem memsOk_isolate (s : State) (p src rtr : Nat) (fails : Bool) : (isolate s p src rtr fails).memsOk = s.memsOk := by simp [isolate]

@[simp] theorem memsOk_seamUe (s : State) (p m : Nat) (k link : Nat) : (seamUe s p m k link).memsOk = s.memsOk := by simp [seamUe]

@[simp] theorem State.memsOk_updSeam (s : State) (k : Nat) (f : Seam → Seam) : (s.updSeam k f).memsOk = s.memsOk := by simp [State.updSeam]

@[simp] theorem State.memsOk_updSeamLink (s : State) (k l : Nat) (f : SeamLink → SeamLink) : (s.updSeamLink k l f).memsOk = s.memsOk := by simp [State.updSeamLink]

/-! ### The sail slot -/

@[simp] theorem memsOk_sailOp {s : State} {q : Issue} {w : BitVec 80} {checks : List (Bool × Nat)} {bad good : State → State} (hb : ∀ s, (bad s).memsOk = s.memsOk)
    (hg : ∀ s, (good s).memsOk = s.memsOk) : (sailOp s q w checks bad good).memsOk = s.memsOk := memsOk_legalOr hb fun s => by simp [hb, hg]

theorem memsOk_sailOp_of {s : State} {q : Issue} {w : BitVec 80} {checks : List (Bool × Nat)} {bad good : State → State} (hb : ∀ s, (bad s).memsOk = s.memsOk)
    (hg : ∀ s, s.memsOk = true → (good s).memsOk = true) (hs : s.memsOk = true) : (sailOp s q w checks bad good).memsOk = true :=
  memsOk_legalOr_of hb (fun s h => by
    split
    · exact hg s h
    · simp [hb, h]) hs

theorem memsOk_execSnop (q : Issue) (_w : BitVec 80) (s : State) (hs : s.memsOk = true) : (execSnop q _w s).MemsOk := by simp [execSnop, hs]

theorem memsOk_execMldw (q : Issue) (w : BitVec 80) (s : State) (hs : s.memsOk = true) : (execMldw q w s).MemsOk := by
  simp only [execMldw, Out.memsOk_next]
  refine memsOk_issue (fun s t => memsOk_sailOp (by simp) fun s => ?_) hs
  split
  · simp
  · simp [Core.memsOk_takeTrk ‹_›]

theorem memsOk_openTile {s t : State} {q : Issue} {w : BitVec 80} {d : BitVec 128} (hs : s.memsOk = true) (h : openTile s q w d = some t) : t.memsOk = true := by
  simp only [openTile] at h
  split at h
  · cases h
  · rename_i c id hc
    cases h
    have h1 : c.memsOk = true := (Core.memsOk_takeTrk hc).trans (State.memsOk_core (by simp [hs]) _)
    simp only [memsOk_violateOpt]
    refine State.memsOk_setCore_of ?_ (by simp [hs])
    rw [Core.memsOk_setSail]
    split
    · exact h1
    · exact memsOk_prefill _ _ _ _ h1

@[simp] theorem memsOk_sailCheckFault (s : State) (m i : Nat) : (sailCheckFault s m i).memsOk = s.memsOk := by simp [sailCheckFault]

@[simp] theorem memsOk_upsetRow (s : State) (m i row : Nat) (u : Upset) (fails : Bool) : (upsetRow s m i row u fails).memsOk = s.memsOk := by simp [upsetRow]

theorem memsOk_streamRows {s : State} (q : Issue) (w : BitVec 80) (d : BitVec 128) (t : Tile) (o : OutTile) (up : Option Upset) (cyc : Nat) (hs : s.memsOk = true) :
    (streamRows s q w d t o up cyc).memsOk = true := by
  unfold streamRows
  extract_lets asrc k stride rows kBase
  have hread : ∀ n : Nat, (if qdRot d = 0 then (s, 0, false) else readResOp s q (qdSignBlk d) n (rowSpan (qdRot d) k / 8)).1.memsOk = true := fun n => by
    split <;> simp [hs]
  generalize hx : (if qdRot d = 0 then (s, 0, false) else readResOp s q (qdSignBlk d) (signBit d k kBase / 8) (rowSpan (qdRot d) k / 8)) = x
  have h1 := hread (signBit d k kBase / 8)
  rw [hx] at h1
  obtain ⟨s1, signs, sp⟩ := x
  dsimp -zeta only at h1 ⊢
  extract_lets c1 r x place a bad op y y0 lo hi fence o3 c2 c3 c4 s2
  have h3 : c3.memsOk = true := by
    have h := memsOk_mmulRows d t op (mmAcc w) signs bad sp rows 0 (a := (c1, y0, { o with qd := d })) (State.memsOk_core h1 _)
    exact (Core.memsOk_setSail _ _ _).trans h
  have h4 : c4.memsOk = true := by
    dsimp only [c4]
    split
    · split <;> simp [h3]
    · exact h3
  have h2 : s2.memsOk = true := (memsOk_violateOpt _ _ _ _).trans (State.memsOk_setCore_of h4 h1)
  split
  · split <;> simp [h2]
  · exact h2

theorem memsOk_execMmul (q : Issue) (w : BitVec 80) (up : Option Upset) (s : State) (hs : s.memsOk = true) : (execMmul q w up s).MemsOk := by
  simp only [execMmul, Out.memsOk_next]
  refine memsOk_issue_of (fun s t hs => memsOk_sailOp_of (by simp) (fun s hs => memsOk_legalOr_of (by simp) (fun u hu => ?_) (by simp [hs])) hs) hs
  split
  · simp [hu]
  · rename_i v hv
    have h : v.memsOk = true := by
      split at hv
      · exact memsOk_openTile hu hv
      · cases hv; exact hu
    split
    · exact memsOk_streamRows _ _ _ _ _ _ _ h
    · exact h

theorem memsOk_execMaccl (q : Issue) (w : BitVec 80) (s : State) (hs : s.memsOk = true) : (execMaccl q w s).MemsOk := by simp [execMaccl, hs]

theorem memsOk_execSdist (q : Issue) (w : BitVec 80) (up : Option Upset) (s : State) (hs : s.memsOk = true) : (execSdist q w up s).MemsOk := by
  simp only [execSdist, Out.memsOk_next]
  refine memsOk_issue (fun s t => memsOk_sailOp (by simp) fun s => ?_) hs
  split
  · simp
  · split
    · split <;> simp
    · simp

@[simp] theorem memsOk_cmpPick (q : Issue) (w : BitVec 80) (takeB : BitVec 32 → BitVec 32 → Bool) (s : State) (hs : s.memsOk = true) : (cmpPick q w takeB s).memsOk = true := by simp [cmpPick, hs]

theorem memsOk_execSmax (q : Issue) (w : BitVec 80) (s : State) (hs : s.memsOk = true) : (execSmax q w s).MemsOk := by simp [execSmax, hs]

theorem memsOk_execSmin (q : Issue) (w : BitVec 80) (s : State) (hs : s.memsOk = true) : (execSmin q w s).MemsOk := by simp [execSmin, hs]

theorem memsOk_execSrank (q : Issue) (w : BitVec 80) (s : State) (hs : s.memsOk = true) : (execSrank q w s).MemsOk := by
  simp only [execSrank, Out.memsOk_next]
  refine memsOk_issue (fun s t => memsOk_sailOp (by simp) fun s => ?_) hs
  split <;> simp

theorem memsOk_execSthr (q : Issue) (w : BitVec 80) (s : State) (hs : s.memsOk = true) : (execSthr q w s).MemsOk := by simp [execSthr, hs]

/-! ### The vector slot -/

@[simp] theorem memsOk_lanewise (q : Issue) (w : BitVec 44) (tys : List Nat) (lat : Nat) (useC : Bool) (f : VWord → VWord → VWord → VWord) (s : State) (hs : s.memsOk = true) :
    (lanewise q w tys lat useC f s).memsOk = true := by simp [lanewise, hs]

theorem memsOk_execVnop (q : Issue) (_w : BitVec 44) (s : State) (hs : s.memsOk = true) : (execVnop q _w s).MemsOk := by simp [execVnop, hs]

theorem memsOk_execVadd (q : Issue) (w : BitVec 44) (s : State) (hs : s.memsOk = true) : (execVadd q w s).MemsOk := by simp [execVadd, hs]

theorem memsOk_execVsub (q : Issue) (w : BitVec 44) (s : State) (hs : s.memsOk = true) : (execVsub q w s).MemsOk := by simp [execVsub, hs]

theorem memsOk_execVmul (q : Issue) (w : BitVec 44) (s : State) (hs : s.memsOk = true) : (execVmul q w s).MemsOk := by simp [execVmul, hs]

theorem memsOk_execVfma (q : Issue) (w : BitVec 44) (s : State) (hs : s.memsOk = true) : (execVfma q w s).MemsOk := by simp [execVfma, hs]

theorem memsOk_execVmin (q : Issue) (w : BitVec 44) (s : State) (hs : s.memsOk = true) : (execVmin q w s).MemsOk := by simp [execVmin, hs]

theorem memsOk_execVmax (q : Issue) (w : BitVec 44) (s : State) (hs : s.memsOk = true) : (execVmax q w s).MemsOk := by simp [execVmax, hs]

theorem memsOk_execVcmp (q : Issue) (w : BitVec 44) (s : State) (hs : s.memsOk = true) : (execVcmp q w s).MemsOk := by simp [execVcmp, hs]

theorem memsOk_execVsel (q : Issue) (w : BitVec 44) (s : State) (hs : s.memsOk = true) : (execVsel q w s).MemsOk := by simp [execVsel, hs]

theorem memsOk_execVcvt (q : Issue) (w : BitVec 44) (s : State) (hs : s.memsOk = true) : (execVcvt q w s).MemsOk := by simp [execVcvt, hs]

@[simp] theorem memsOk_longOp {s : State} (q : Issue) (w : BitVec 44) (f : BitVec 32 → BitVec 32) (hs : s.memsOk = true) : (longOp q w f s).memsOk = true := by
  refine memsOk_issue (fun s t => ?_) hs
  refine (memsOk_legalOr (by simp) fun s => ?_).trans (by simp)
  split
  · simp
  · simp [Core.memsOk_takeTrk ‹_›]

theorem memsOk_execVexp (q : Issue) (w : BitVec 44) (s : State) (hs : s.memsOk = true) : (execVexp q w s).MemsOk := by simp [execVexp, hs]

theorem memsOk_execVlog (q : Issue) (w : BitVec 44) (s : State) (hs : s.memsOk = true) : (execVlog q w s).MemsOk := by simp [execVlog, hs]

theorem memsOk_execVrcp (q : Issue) (w : BitVec 44) (s : State) (hs : s.memsOk = true) : (execVrcp q w s).MemsOk := by simp [execVrcp, hs]

theorem memsOk_execVrsq (q : Issue) (w : BitVec 44) (s : State) (hs : s.memsOk = true) : (execVrsq q w s).MemsOk := by simp [execVrsq, hs]

theorem memsOk_execVsqrt (q : Issue) (w : BitVec 44) (s : State) (hs : s.memsOk = true) : (execVsqrt q w s).MemsOk := by simp [execVsqrt, hs]

@[simp] theorem memsOk_reduceOp {s : State} (q : Issue) (w : BitVec 44) (f i : BitVec 32 → BitVec 32 → BitVec 32) (hs : s.memsOk = true) :
    (reduceOp q w f i s).memsOk = true := by
  refine memsOk_issue (fun s t => ?_) hs
  refine (memsOk_legalOr (by simp) fun s => ?_).trans (by simp)
  split
  · simp
  · simp [Core.memsOk_takeTrk ‹_›]

theorem memsOk_execVrsum (q : Issue) (w : BitVec 44) (s : State) (hs : s.memsOk = true) : (execVrsum q w s).MemsOk := by simp [execVrsum, hs]

theorem memsOk_execVrmax (q : Issue) (w : BitVec 44) (s : State) (hs : s.memsOk = true) : (execVrmax q w s).MemsOk := by simp [execVrmax, hs]

theorem memsOk_execVrmin (q : Issue) (w : BitVec 44) (s : State) (hs : s.memsOk = true) : (execVrmin q w s).MemsOk := by simp [execVrmin, hs]

theorem memsOk_execVld (q : Issue) (w : BitVec 44) (s : State) (hs : s.memsOk = true) : (execVld q w s).MemsOk := by simp [execVld, hs]

theorem memsOk_execVst (q : Issue) (w : BitVec 44) (s : State) (hs : s.memsOk = true) : (execVst q w s).MemsOk := by simp [execVst, hs]

theorem memsOk_execVkey (q : Issue) (w : BitVec 44) (s : State) (hs : s.memsOk = true) : (execVkey q w s).MemsOk := by simp [execVkey, hs]

theorem memsOk_execVmask (q : Issue) (w : BitVec 44) (s : State) (hs : s.memsOk = true) : (execVmask q w s).MemsOk := by simp [execVmask, hs]

/-! ### Drain, norm check and escalation -/

@[simp] theorem memsOk_writeRow {s : State} (m : Nat) (d : DrainRow) (hs : s.memsOk = true) : (writeRow s m d).memsOk = true := by
  unfold writeRow
  split
  · exact hs
  · rw [memsOk_violateOpt]
    exact State.memsOk_setCore_of (memsOk_writeSlots _ _ _ _ _ _ _ (State.memsOk_core hs m)) hs

@[simp] theorem memsOk_finalRow (s : State) (m i : Nat) (d : DrainRow) (hs : s.memsOk = true) : (finalRow s m i d).memsOk = true := by simp [finalRow, hs]

theorem memsOk_execVdrn (q : Issue) (w : BitVec 44) (s : State) (hs : s.memsOk = true) : (execVdrn q w s).MemsOk := by
  simp only [execVdrn, Out.memsOk_next]
  split
  · exact hs
  · refine memsOk_issue (fun s t => memsOk_legalOr (by simp) fun s => ?_) hs
    split <;> split <;> simp

theorem memsOk_execVsca (q : Issue) (w : BitVec 44) (s : State) (hs : s.memsOk = true) : (execVsca q w s).MemsOk := by
  simp only [execVsca, Out.memsOk_next]
  refine memsOk_issue_of (fun s t hs => memsOk_legalOr_of (fun s => rfl) (fun u hu => ?_) hs) hs
  have hc := State.memsOk_core hs q.core
  split
  · rw [memsOk_violateOpt]
    refine State.memsOk_setCore_of ?_ hu
    split <;> simp [hc]
  · exact hu

@[simp] theorem memsOk_countEsc (s : State) (m i : Nat) (o : OutTile) (row : Nat) (f : EscCount → EscCount) : (countEsc s m i o row f).memsOk = s.memsOk := by simp [countEsc]

@[simp] theorem memsOk_countBlocked (s : State) (m i : Nat) (o : OutTile) (row : Nat) : (countBlocked s m i o row).memsOk = s.memsOk := by simp [countBlocked]

@[simp] theorem memsOk_rowNormCheck (s0 : State) (m i row : Nat) (hs : s0.memsOk = true) : (rowNormCheck s0 m i row).memsOk = true := by
  simp only [rowNormCheck]
  (repeat' split) <;> simp [hs]

theorem memsOk_execRowNormCheck (core : Fin 9216) (sail : Fin 4) (row : Fin 512) (s : State) (hs : s.memsOk = true) : (execRowNormCheck core sail row s).MemsOk := by simp [execRowNormCheck, hs]

@[simp] theorem memsOk_setMask (s : State) (m i : Nat) (o : OutTile) (row rung : Nat) : (setMask s m i o row rung).memsOk = s.memsOk := by simp [setMask]

@[simp] theorem memsOk_openBytes {s : State} (m a n : Nat) (hs : s.memsOk = true) : (openBytes s m a n).memsOk = true := by
  induction n generalizing s a with
  | zero => exact hs
  | succ n ih =>
    refine ih _ (State.memsOk_updCore_of (fun c hc => ?_) hs)
    obtain ⟨hp, hb, hm⟩ := c.memsOk_iff.1 hc
    simp only [Core.memsOk_mk, hb, hm, Bool.and_true]
    exact Memory.wf_foldl (fun _ _ hd => Memory.wf_ite hd (Memory.wf_writeN _ _ _ hd)) hp

@[simp] theorem memsOk_saveBlock (s : State) (m ctx h n : Nat) (hs : s.memsOk = true) : (saveBlock s m ctx h n).memsOk = true := by
  unfold saveBlock
  split <;> simp [hs]

@[simp] theorem memsOk_saveSail (s : State) (m i : Nat) (hs : s.memsOk = true) : (saveSail s m i).memsOk = true := by
  unfold saveSail
  split <;> simp [hs]

@[simp] theorem memsOk_endRow (s : State) (m i row : Nat) : (endRow s m i row).memsOk = s.memsOk := by simp [endRow]

@[simp] theorem memsOk_passValue {s : State} (m i j : Nat) (o : OutTile) (d : DrainRow) (e : EscRow) (hurt : List Nat) (up : Option Upset) (hs : s.memsOk = true) :
    (passValue s m i j o d e hurt up).1.memsOk = true := by
  have hb := fun v r side => memsOk_repeatBuffer o v j r side (State.memsOk_core hs m)
  have hc : ∀ n c v f, c.memsOk = true → ((violateOpt (({ s with free := n } : State).setCore m c) m o.ctx v).updSail m i f).memsOk = true := fun n c v f h => by
    rw [State.memsOk_updSail, memsOk_violateOpt]
    exact State.memsOk_setCore_of h (by simp [hs])
  unfold passValue
  dsimp only
  split
  · split
    · exact (memsOk_sailCheckFault _ _ _).trans (hc _ _ _ _ (hb _ _ _))
    · exact hc _ _ _ _ (hb _ _ _)
  · exact hc _ _ _ _ (hb _ _ _)

@[simp] theorem memsOk_passRow (s0 : State) (m i j : Nat) (hurt : List Nat) (up : Option Upset) (e : EscRow) (hs : s0.memsOk = true) : (passRow s0 m i j hurt up e).memsOk = true := by
  simp only [passRow]
  split <;> simp [hs]

theorem memsOk_execEscalationRestoreDone (core : Fin 9216) (sail : Fin 4) (s : State) (hs : s.memsOk = true) : (execEscalationRestoreDone core sail s).MemsOk := by simp [execEscalationRestoreDone, hs]

/-! ### Sheet ports and slices -/

@[simp] theorem State.memsOk_updPort (s : State) (i : Nat) (f : SheetPort → SheetPort) : (s.updPort i f).memsOk = s.memsOk := by simp [State.updPort]

@[simp] theorem State.memsOk_updSlice (s : State) (p : Nat) (f : Slice → Slice) : (s.updSlice p f).memsOk = s.memsOk := by simp [State.updSlice]

@[simp] theorem memsOk_shtLog (s : State) (port kind part id rank check : Nat) : (shtLog s port kind part id rank check).memsOk = s.memsOk := by simp [shtLog]

@[simp] theorem memsOk_putFrame (s : State) (i kind frame : Nat) : (putFrame s i kind frame).memsOk = s.memsOk := by simp [putFrame]

@[simp] theorem memsOk_sendFrame (s : State) (p r : Nat) (kind : Nat) (err : Bool) (route fidx nflit : Nat) (time : Nat) (body : Nat) :
    (sendFrame s p r kind err route fidx nflit time body).memsOk = s.memsOk := by
  simp only [sendFrame]
  split <;> simp

@[simp] theorem memsOk_sendTensor (s : State) (p r route n f : Nat) (fl : List (Slot × Bool)) (head : Nat) : (sendTensor s p r route n f fl head).memsOk = s.memsOk := by
  induction n generalizing s f fl with
  | zero => rfl
  | succ n ih =>
    unfold sendTensor
    split <;> simp [ih]

@[simp] theorem memsOk_slotGone (s : State) (p slot : Nat) : (slotGone s p slot).memsOk = s.memsOk := by simp [slotGone]

@[simp] theorem memsOk_tellHeld (s : State) (p slot r : Nat) : (tellHeld s p slot r).memsOk = s.memsOk := by simp [tellHeld]

@[simp] theorem memsOk_setSlice (s : State) (p : Nat) (st : SliceSt) : (setSlice s p st).memsOk = s.memsOk := by simp [setSlice]

/-! ### The move slot -/

theorem memsOk_execMnop (q : Issue) (_w : BitVec 80) (s : State) (hs : s.memsOk = true) : (execMnop q _w s).MemsOk := by simp [execMnop, hs]

theorem memsOk_execMrd (q : Issue) (w : BitVec 80) (s : State) (hs : s.memsOk = true) : (execMrd q w s).MemsOk := by
  simp only [execMrd, Out.memsOk_next]
  refine memsOk_issue (fun s t => memsOk_legalOr (by simp) fun s => ?_) hs
  split
  · simp
  · have hc := Core.memsOk_takeTrk ‹_›
    (repeat' split) <;> simp [hc]

theorem memsOk_execMwr (q : Issue) (w : BitVec 80) (s : State) (hs : s.memsOk = true) : (execMwr q w s).MemsOk := by
  simp only [execMwr, Out.memsOk_next]
  refine memsOk_issue_of (fun s t hs => memsOk_legalOr_of (by simp) (fun u hu => ?_) hs) hs
  split
  · simp [hu]
  · have hc := Core.memsOk_takeTrk ‹_›
    split
    · simp [hc, hu]
    · refine State.memsOk_updMast_of (fun x hx => ?_) (by simp [hc, hu])
      exact Mast.dataOk_foldl_of (fun x r hx => Mast.dataOk_rowWrite _ _ _ hx) hx

@[simp] theorem memsOk_readFlits (s : State) (q : Issue) (o : Spo) (n : Nat) : (readFlits s q o n).1.memsOk = s.memsOk := by simp [readFlits]

@[simp] theorem memsOk_launch (s : State) (fl : List Flit) : (launch s fl).memsOk = s.memsOk := by simp [launch]

@[simp] theorem memsOk_guardDue (s : State) (m : Nat) (src : LuffSrc) (ds : List Nat) : (guardDue s m src ds).memsOk = s.memsOk := by
  unfold guardDue
  split <;> simp

theorem memsOk_execMsend (q : Issue) (w : BitVec 80) (s : State) (hs : s.memsOk = true) : (execMsend q w s).MemsOk := by
  simp only [execMsend, Out.memsOk_next]
  generalize (if bitAt w 79 then noInject3 s q.core else noInject s q.core) = held
  split
  · exact hs
  · refine memsOk_issue (fun s t => memsOk_legalOr (by simp) fun s => ?_) hs
    split
    · simp
    · have hc := Core.memsOk_takeTrk ‹_›
      (repeat' split) <;> simp [hc]

theorem memsOk_execMfill (q : Issue) (w : BitVec 80) (s : State) (hs : s.memsOk = true) : (execMfill q w s).MemsOk := by
  simp only [execMfill, Out.memsOk_next]
  split
  · exact hs
  · exact memsOk_issue (fun s t => memsOk_legalOr (by simp) (by simp)) hs

theorem memsOk_execMcopy (q : Issue) (w : BitVec 80) (s : State) (hs : s.memsOk = true) : (execMcopy q w s).MemsOk := by
  simp only [execMcopy, Out.memsOk_next]
  split
  · exact hs
  · refine memsOk_issue (fun s t => memsOk_legalOr (by simp) fun s => ?_) hs
    (repeat' split) <;> simp

theorem memsOk_execMrel (q : Issue) (w : BitVec 80) (s : State) (hs : s.memsOk = true) : (execMrel q w s).MemsOk := by
  simp only [execMrel, Out.memsOk_next]
  refine memsOk_issue (fun s t => memsOk_legalOr (by simp) fun s => ?_) hs
  split
  · simp
  · exact State.memsOk_setCore (Core.memsOk_foldl fun c i => by simp)

theorem memsOk_execRsend (q : Issue) (w : BitVec 80) (s : State) (hs : s.memsOk = true) : (execRsend q w s).MemsOk := by
  simp only [execRsend, Out.memsOk_next]
  split
  · exact hs
  · refine memsOk_issue (fun s t => memsOk_legalOr (by simp) fun s => ?_) hs
    split
    · simp
    · simp [Core.memsOk_takeTrk ‹_›]

theorem memsOk_execMerge (q : Issue) (w : BitVec 80) (s : State) (hs : s.memsOk = true) : (execMerge q w s).MemsOk := by
  simp only [execMerge, Out.memsOk_next]
  split
  · exact hs
  · refine memsOk_issue (fun s t => memsOk_legalOr (by simp) fun s => ?_) hs
    split
    · simp
    · simp [Core.memsOk_takeTrk ‹_›]

theorem memsOk_execKvapq (q : Issue) (w : BitVec 80) (s : State) (hs : s.memsOk = true) : (execKvapq q w s).MemsOk := by
  simp only [execKvapq, Out.memsOk_next]
  refine memsOk_issue_of (fun s t hs => memsOk_legalOr_of (by simp) (fun s hs => ?_) (by simp [hs])) hs
  split
  · simp [hs]
  · have hc := Core.memsOk_takeTrk ‹_›
    split <;> simp [hc, hs]

theorem memsOk_listRecord {s : State} (q : Issue) (tab : Nat) (r : BitVec 32) (rowNo : Nat) (hs : s.memsOk = true) : (listRecord s q tab r rowNo).memsOk = true := by
  simp only [listRecord]
  split
  · simp [hs]
  · split
    · simp [hs]
    · obtain ⟨hp, hb, hm⟩ := (s.core q.core).memsOk_iff.1 (State.memsOk_core hs _)
      exact State.memsOk_setCore_of (by simp [Memory.wf_writeN _ _ _ hp, hb, hm]) hs

theorem memsOk_dispatchOne {a : State × List Flit} (q : Issue) (tab trk rl rowNo sel ei rowSlot : Nat) (data : Nat → Slot × Bool) (hs : a.1.memsOk = true) :
    (dispatchOne q tab trk rl rowNo sel ei rowSlot data a).1.memsOk = true := by
  simp only [dispatchOne]
  split
  · simp [hs]
  · exact memsOk_listRecord _ _ _ _ hs

@[simp] theorem memsOk_closeTable (q : Issue) (tab trk : Nat) (a : State × List Flit) : (closeTable q tab trk a).1.memsOk = a.1.memsOk := by simp [closeTable]

theorem memsOk_dispatchRows {a : State × List Flit} (q : Issue) (tab trk rl w slot : Nat) (fl : List (Slot × Bool)) (recs : List (Nat × Bool)) (hs : a.1.memsOk = true) :
    (dispatchRows q tab trk rl w slot fl recs a).1.memsOk = true := by
  induction recs generalizing slot fl a with
  | nil => exact hs
  | cons r recs ih =>
    unfold dispatchRows
    extract_lets key rowNo a1 s2 a2
    refine ih _ _ ?_
    have h1 : a1.1.memsOk = true := memsOk_foldl_fst_of (fun a j ha => by
      dsimp only
      split
      · exact ha
      · exact memsOk_dispatchOne _ _ _ _ _ _ _ _ _ ha) hs
    have h2 : s2.memsOk = true := by simp [s2, h1]
    simp [a2, h2]

theorem memsOk_execXdisp (q : Issue) (w : BitVec 80) (s : State) (hs : s.memsOk = true) : (execXdisp q w s).MemsOk := by
  simp only [execXdisp, Out.memsOk_next]
  split
  · exact hs
  · refine memsOk_issue_of (fun s t hs => memsOk_legalOr_of (by simp) (fun u hu => ?_) ?_) hs
    · split
      · simp [hu]
      · have hc := Core.memsOk_takeTrk ‹_›
        simp only [memsOk_guardDue, memsOk_launch]
        exact memsOk_dispatchRows _ _ _ _ _ _ _ _ (by simp [hc, hu])
    · rw [memsOk_foldl (fun s e => by simp)]
      simp [hs]

/-! ### The control slot -/

theorem memsOk_execCnop (q : Issue) (w : BitVec 48) (s : State) (hs : s.memsOk = true) : (execCnop q w s).MemsOk := by simp [execCnop, hs]

theorem memsOk_execSli (q : Issue) (w : BitVec 48) (s : State) (hs : s.memsOk = true) : (execSli q w s).MemsOk := by simp [execSli, hs]

theorem memsOk_execSlih (q : Issue) (w : BitVec 48) (s : State) (hs : s.memsOk = true) : (execSlih q w s).MemsOk := by simp [execSlih, hs]

@[simp] theorem memsOk_scalarOp (q : Issue) (w : BitVec 48) (f : Dword → Dword → Dword) (s : State) (hs : s.memsOk = true) : (scalarOp q w f s).memsOk = true := by simp [scalarOp, hs]

theorem memsOk_execSadd (q : Issue) (w : BitVec 48) (s : State) (hs : s.memsOk = true) : (execSadd q w s).MemsOk := by simp [execSadd, hs]

theorem memsOk_execSsub (q : Issue) (w : BitVec 48) (s : State) (hs : s.memsOk = true) : (execSsub q w s).MemsOk := by simp [execSsub, hs]

theorem memsOk_execSmul (q : Issue) (w : BitVec 48) (s : State) (hs : s.memsOk = true) : (execSmul q w s).MemsOk := by simp [execSmul, hs]

theorem memsOk_execSand (q : Issue) (w : BitVec 48) (s : State) (hs : s.memsOk = true) : (execSand q w s).MemsOk := by simp [execSand, hs]

theorem memsOk_execSor (q : Issue) (w : BitVec 48) (s : State) (hs : s.memsOk = true) : (execSor q w s).MemsOk := by simp [execSor, hs]

theorem memsOk_execSxor (q : Issue) (w : BitVec 48) (s : State) (hs : s.memsOk = true) : (execSxor q w s).MemsOk := by simp [execSxor, hs]

theorem memsOk_execSshl (q : Issue) (w : BitVec 48) (s : State) (hs : s.memsOk = true) : (execSshl q w s).MemsOk := by simp [execSshl, hs]

theorem memsOk_execSshr (q : Issue) (w : BitVec 48) (s : State) (hs : s.memsOk = true) : (execSshr q w s).MemsOk := by simp [execSshr, hs]

theorem memsOk_execSlds (q : Issue) (w : BitVec 48) (s : State) (hs : s.memsOk = true) : (execSlds q w s).MemsOk := by simp [execSlds, hs]

theorem memsOk_execSsts (q : Issue) (w : BitVec 48) (s : State) (hs : s.memsOk = true) : (execSsts q w s).MemsOk := by simp [execSsts, hs]

@[simp] theorem memsOk_endBranch (q : Issue) (taken : Bool) (target : BitVec 13) (t : Nat) (s : State) : (endBranch q taken target t s).memsOk = s.memsOk := by simp [endBranch]

@[simp] theorem memsOk_passBy (q : Issue) (s : State) (t : Nat) : (passBy q s t).memsOk = s.memsOk := by simp [passBy]

theorem memsOk_execBr (q : Issue) (w : BitVec 48) (s : State) (hs : s.memsOk = true) : (execBr q w s).MemsOk := by
  simp only [execBr, Out.memsOk_next]
  refine memsOk_issueOr_of (fun s t h => by simp [h]) (fun s t hs => ?_) hs
  split <;> simp [hs]

theorem memsOk_execJmp (q : Issue) (w : BitVec 48) (s : State) (hs : s.memsOk = true) : (execJmp q w s).MemsOk := by
  simp only [execJmp, Out.memsOk_next]
  refine memsOk_issueOr_of (fun s t h => by simp [h]) (fun s t hs => ?_) hs
  split <;> simp [hs]

theorem memsOk_execLoop (q : Issue) (w : BitVec 48) (s : State) (hs : s.memsOk = true) : (execLoop q w s).MemsOk := by
  simp only [execLoop, Out.memsOk_next]
  refine memsOk_issueOr_of (fun s t h => by simp [h]) (fun s t hs => ?_) hs
  split <;> simp [hs]

theorem memsOk_execWaitc (q : Issue) (w : BitVec 48) (s : State) (hs : s.memsOk = true) : (execWaitc q w s).MemsOk := by simp [execWaitc, hs]

theorem memsOk_execSeqadv (q : Issue) (w : BitVec 48) (s : State) (hs : s.memsOk = true) : (execSeqadv q w s).MemsOk := by simp [execSeqadv, hs]

theorem memsOk_execHand (q : Issue) (w : BitVec 48) (s : State) (hs : s.memsOk = true) : (execHand q w s).MemsOk := by simp [execHand, hs]

theorem memsOk_execHset (q : Issue) (w : BitVec 48) (s : State) (hs : s.memsOk = true) : (execHset q w s).MemsOk := by
  simp only [execHset, Out.memsOk_next]
  exact memsOk_issueCtrl (fun s t => memsOk_legalOr (by simp) fun s => State.memsOk_updCore fun c => by split <;> simp) hs

theorem memsOk_execVpat (q : Issue) (w : BitVec 48) (s : State) (hs : s.memsOk = true) : (execVpat q w s).MemsOk := by
  simp only [execVpat, Out.memsOk_next]
  exact memsOk_issueCtrl (fun s t => memsOk_legalOr (by simp) (by simp)) hs

@[simp] theorem memsOk_overflowPoint (s : State) (m pidx t : Nat) : (overflowPoint s m pidx t).memsOk = s.memsOk := by
  simp only [overflowPoint]
  split <;> simp

@[simp] theorem memsOk_commitGate (s : State) (m pidx t : Nat) : (commitGate s m pidx t).memsOk = s.memsOk := by simp [commitGate]

theorem memsOk_execPhase (q : Issue) (w : BitVec 48) (s : State) (hs : s.memsOk = true) : (execPhase q w s).MemsOk := by
  simp only [execPhase, Out.memsOk_next]
  exact memsOk_issueCtrl (fun s t => memsOk_legalOr (by simp) (by simp)) hs

theorem memsOk_execEscm (q : Issue) (w : BitVec 48) (s : State) (hs : s.memsOk = true) : (execEscm q w s).MemsOk := by
  simp only [execEscm, Out.memsOk_next]
  exact memsOk_issueCtrl (fun s t => memsOk_legalOr (by simp) (by simp)) hs

theorem memsOk_execWstep (q : Issue) (w : BitVec 48) (s : State) (hs : s.memsOk = true) : (execWstep q w s).MemsOk := by simp [execWstep, hs]

/-! ### Partition faults and lost cores -/

@[simp] theorem memsOk_endStepNow (s0 : State) (p : Nat) (hs : s0.memsOk = true) : (endStepNow s0 p).memsOk = true := by simp [endStepNow, hs]

@[simp] theorem memsOk_markEntries (s : State) (p : Nat) (slots : List Nat) (status : Nat) : (markEntries s p slots status).memsOk = s.memsOk := by simp [markEntries]

@[simp] theorem memsOk_partFault (s : State) (p code n c status : Nat) (slots : List Nat) (hs : s.memsOk = true) : (partFault s p code n c status slots).memsOk = true := by simp [partFault, hs]

@[simp] theorem memsOk_lostFault (s : State) (p code n c status : Nat) (slots : List Nat) (hs : s.memsOk = true) : (lostFault s p code n c status slots).memsOk = true := by simp [lostFault, hs]

@[simp] theorem memsOk_darkField (s : State) (n : Nat) : (darkField s n).memsOk = s.memsOk := by simp [darkField]

@[simp] theorem memsOk_releaseHold (s : State) (p : Nat) : (releaseHold s p).memsOk = s.memsOk := by simp [releaseHold]

@[simp] theorem memsOk_followCopy (s : State) : (followCopy s).memsOk = s.memsOk := by simp [followCopy]

@[simp] theorem memsOk_dropRecov (s : State) (p n : Nat) : (dropRecov s p n).memsOk = s.memsOk := by
  unfold dropRecov
  split <;> simp

@[simp] theorem memsOk_fieldLost (s : State) (n code : Nat) (hs : s.memsOk = true) : (fieldLost s n code).memsOk = true := by simp [fieldLost, hs]

@[simp] theorem memsOk_furlCore (s : State) (m cause : Nat) : (furlCore s m cause).memsOk = s.memsOk := by simp [furlCore]

@[simp] theorem memsOk_powerCore (s : State) (m : Nat) : (powerCore s m).memsOk = s.memsOk := by simp [powerCore]

@[simp] theorem memsOk_mapSpare (s : State) (n cxp g : Nat) : (mapSpare s n cxp g).memsOk = s.memsOk := by simp [mapSpare]

@[simp] theorem memsOk_coreLost (s : State) (m code : Nat) (hs : s.memsOk = true) : (coreLost s m code).memsOk = true := by simp [coreLost, hs]

@[simp] theorem memsOk_coreDead (s : State) (m code cause : Nat) (hs : s.memsOk = true) : (coreDead s m code cause).memsOk = true := by simp [coreDead, hs]

@[simp] theorem memsOk_columnFail (s : State) (m : Nat) (code row : Nat) (hs : s.memsOk = true) : (columnFail s m code row).memsOk = true := by simp [columnFail, hs]

@[simp] theorem memsOk_sailCheckAct (s : State) (m sail : Nat) (hs : s.memsOk = true) : (sailCheckAct s m sail).memsOk = true := by
  simp only [sailCheckAct]
  split <;> simp [hs]

@[simp] theorem memsOk_sailChecksAct (s : State) (p : Nat) (hs : s.memsOk = true) : (sailChecksAct s p).memsOk = true := by
  refine memsOk_foldl_of (fun s m h => memsOk_foldl_of (fun u i hu => ?_) (by simp [h])) hs
  split
  · exact hu
  · exact memsOk_sailCheckAct _ _ _ hu

/-! ### Masts -/

@[simp] theorem memsOk_countCorrected (s : State) (m row tier : Nat) : (countCorrected s m row tier).memsOk = s.memsOk := by simp [countCorrected]

@[simp] theorem memsOk_corrected (s : State) (m row tier : Nat) : (corrected s m row tier).memsOk = s.memsOk := by simp [corrected]

@[simp] theorem memsOk_uncorrectable (s : State) (m row : Nat) (hs : s.memsOk = true) : (uncorrectable s m row).memsOk = true := by simp [uncorrectable, hs]

@[simp] theorem memsOk_rowsFound (s : State) (m : Nat) (ce ue : List Nat) (hs : s.memsOk = true) : (rowsFound s m ce ue).memsOk = true := by
  refine memsOk_foldl_of (fun s r h => by simp [h]) ?_
  simpa using hs

@[simp] theorem memsOk_escalationPassEnd (s : State) (m i : Nat) (found : List (Nat × Bool)) (up : Option Upset) (hs : s.memsOk = true) :
    (escalationPassEnd s m i found up).memsOk = true := by
  unfold escalationPassEnd
  extract_lets x p reads hit y ue ce s0 s1 s2
  have h0 : s0.memsOk = true := by simp [s0, hs]
  have h1 : s1.memsOk = true := (memsOk_evrIndex _ _ _ _).trans (memsOk_foldl_of (fun s e h => memsOk_passRow _ _ _ _ _ _ _ h) h0)
  have h2 : s2.memsOk = true := memsOk_rowsFound _ _ _ _ h1
  split
  · split <;> simp [h2]
  · exact hs

theorem memsOk_execEscalationPassEnd (core : Fin 9216) (sail : Fin 4) (found : List (Fin 0x400000 × Bool)) (upset : Option Upset) (s : State) (hs : s.memsOk = true) :
    (execEscalationPassEnd core sail found upset s).MemsOk := by simp [execEscalationPassEnd, hs]

@[simp] theorem memsOk_landRow (s0 : State) (m : Nat) (l : Landing) (poison : Bool) (hs : s0.memsOk = true) : (landRow s0 m l poison).memsOk = true := by
  have h := State.memsOk_settle m (l.due + 1 - bankLat l.addr) hs
  simp only [landRow, memsOk_violateOpt]
  refine State.memsOk_setCore_of ?_ h
  rw [Core.memsOk_stepTrk]
  exact memsOk_writeSlots _ _ _ _ _ _ _ (State.memsOk_core h m)

theorem memsOk_execMastRowLand (core : Fin 9216) (ecc : Ecc) (s : State) (hs : s.memsOk = true) : (execMastRowLand core ecc s).MemsOk := by
  unfold execMastRowLand
  split <;> simp [hs]

theorem memsOk_execMastWriteAck (core : Fin 9216) (s : State) (hs : s.memsOk = true) : (execMastWriteAck core s).MemsOk := by
  simp only [execMastWriteAck, Out.memsOk_next]
  refine (State.memsOk_updCore fun c => ?_).trans hs
  split <;> simp

theorem memsOk_execKvapqAck (core : Fin 9216) (found : List (Fin 512 × Bool)) (s : State) (hs : s.memsOk = true) : (execKvapqAck core found s).MemsOk := by
  simp only [execKvapqAck, Out.memsOk_next]
  split
  · exact hs
  · refine memsOk_foldl_of (fun s k h => by simp [h]) ?_
    rw [memsOk_foldl fun s k => by simp]
    refine State.memsOk_updCore_of (fun c hc => ?_) hs
    obtain ⟨hp, hb, hm⟩ := c.memsOk_iff.1 hc
    simp [hp, hb, Mast.dataOk_foldl_of (fun x k hx => Mast.dataOk_place _ _ _ hx) (Mast.dataOk_place _ _ _ hm)]

theorem memsOk_execTileLoadDone (core : Fin 9216) (sail : Fin 4) (s : State) (hs : s.memsOk = true) : (execTileLoadDone core sail s).MemsOk := by simp [execTileLoadDone, hs]

theorem memsOk_execFillCopyDone (core : Fin 9216) (s : State) (hs : s.memsOk = true) : (execFillCopyDone core s).MemsOk := by simp [execFillCopyDone, hs]

@[simp] theorem memsOk_openWindow (s : State) (m t : Nat) : (openWindow s m t).memsOk = s.memsOk := by simp [openWindow]

theorem memsOk_execRefw (q : Issue) (w : BitVec 48) (found : RefFind) (s : State) (hs : s.memsOk = true) : (execRefw q w found s).MemsOk := by
  simp only [execRefw, Out.memsOk_next]
  refine memsOk_issueCtrl_of (fun s t hs => memsOk_legalOr_of (by simp) (fun s hs => ?_) hs) hs
  split <;> simp [hs]

theorem memsOk_execRefreshDebtTick (core : Fin 9216) (tier : Fin 4) (s : State) (hs : s.memsOk = true) : (execRefreshDebtTick core tier s).MemsOk := by simp [execRefreshDebtTick, hs]

theorem memsOk_execRefreshCatchup (core : Fin 9216) (tier : Fin 4) (s : State) (hs : s.memsOk = true) : (execRefreshCatchup core tier s).MemsOk := by simp [execRefreshCatchup, hs]

theorem memsOk_execHotOffDwellExpire (pt : Timed (Fin 64)) (s : State) (hs : s.memsOk = true) : (execHotOffDwellExpire pt s).MemsOk := by simp [execHotOffDwellExpire, hs]

@[simp] theorem memsOk_updPages (s : State) (e : Nat) (f : List Page → List Page) : (updPages s e f).memsOk = s.memsOk := by simp [updPages]

@[simp] theorem memsOk_seekAgain (s : State) (p : Nat) (w : PageCmd) (res : Nat) : (seekAgain s p w res).memsOk = s.memsOk := by
  simp only [seekAgain]
  (repeat' split) <;> simp

@[simp] theorem memsOk_answer (s : State) (p : Nat) (op : PageOp) (m rid vpn res : Nat) : (answer s p op m rid vpn res).memsOk = s.memsOk := by
  simp only [answer]
  (repeat' split) <;> simp

/-! ### The mesh -/

@[simp] theorem memsOk_passed (s : State) (vc : Nat) (route : List Nat) : (passed s vc route).memsOk = s.memsOk := by simp [passed]

@[simp] theorem memsOk_sheetVisible (s : State) (p rank route : Nat) : (sheetVisible s p rank route).memsOk = s.memsOk := by
  unfold sheetVisible
  split <;> simp

@[simp] theorem State.memsOk_settleNow (s : State) (m : Nat) (hs : s.memsOk = true) : (s.settleNow m).memsOk = true := by simp [State.settleNow, hs]

@[simp] theorem memsOk_deliver (s0 : State) (f : Flit) (poison : Bool) (hs : s0.memsOk = true) : (deliver s0 f poison).memsOk = true := by
  have h := State.memsOk_settleNow _ f.dst hs
  have hw := Flit.memsOk_writes f poison (State.memsOk_core h f.dst)
  have hc : ∀ v, (violateOpt ((s0.settleNow f.dst).setCore f.dst (if f.merged then (f.writes ((s0.settleNow f.dst).core f.dst) poison).1.stepTrk f.trk
      else (f.writes ((s0.settleNow f.dst).core f.dst) poison).1)) f.dst f.ctx v).memsOk = true := fun v => by
    rw [memsOk_violateOpt]
    exact State.memsOk_setCore_of (by simp [hw]) h
  simp only [deliver]
  split
  · exact (memsOk_sheetVisible _ _ _ _).trans (hc _)
  · exact hc _

@[simp] theorem memsOk_guardArrive (s : State) (f : Flit) : (guardArrive s f).memsOk = s.memsOk := by simp [guardArrive]

@[simp] theorem memsOk_arrive (s1 : State) (f : Flit) (ue : Option (Nat × Nat)) (hs : s1.memsOk = true) : (arrive s1 f ue).memsOk = true := by
  unfold arrive
  split <;> simp [hs]

theorem memsOk_execMeshFlitArrive (i : Nat) (o : FlitEnd) (s : State) (hs : s.memsOk = true) : (execMeshFlitArrive i o s).MemsOk := by
  unfold execMeshFlitArrive
  (repeat' split) <;> simp [hs]

theorem memsOk_execDeliveryCreditReturn (core : Fin 9216) (trk : Nat) (s : State) (hs : s.memsOk = true) : (execDeliveryCreditReturn core trk s).MemsOk := by
  simp only [execDeliveryCreditReturn, Out.memsOk_next]
  split
  · exact hs
  · refine (State.memsOk_updCore fun c => ?_).trans hs
    split <;> simp

theorem memsOk_execVc0MessageDeliver (i : Arrival) (s : State) (hs : s.memsOk = true) : (execVc0MessageDeliver i s).MemsOk := by
  simp only [execVc0MessageDeliver, Out.memsOk_next]
  split
  · exact hs
  · split
    · exact hs
    · split
      · simp [hs]
      · rw [memsOk_violateOpt]
        have h2 : ∀ u : State, u.memsOk = true → ∀ m ctx hd ofs n x hold d poison, (u.setCore m ((u.core m).writeAt ctx hd ofs n x hold d poison).1).memsOk = true :=
          fun u hu _ _ _ _ _ _ _ _ _ => State.memsOk_setCore_of (Core.memsOk_writeAt _ _ _ _ _ _ _ _ (State.memsOk_core hu _)) hu
        refine h2 _ ?_ _ _ _ _ _ _ _ _ _
        refine State.memsOk_settleNow _ _ ?_
        split <;> simp [hs]

@[simp] theorem memsOk_nodeOut (s0 : State) (m : Nat) (e : BitVec 32) (x : RedSum) (hs : s0.memsOk = true) : (nodeOut s0 m e x).memsOk = true := by
  have h := State.memsOk_settleNow _ m hs
  simp only [nodeOut]
  split
  · split
    · exact h
    · rw [memsOk_violateOpt]
      exact State.memsOk_setCore_of (Core.memsOk_writeAt _ _ _ _ _ _ _ _ (State.memsOk_core h m)) h
  · simp [hs]

@[simp] theorem memsOk_sendResults (m tree tag : Nat) (e : BitVec 32) (n : Nat) (s : State) (hs : s.memsOk = true) : (sendResults m tree tag e n s).memsOk = true := by
  induction n generalizing s with
  | zero => exact hs
  | succ n ih =>
    unfold sendResults
    split
    · exact hs
    · exact ih _ (by simp [hs])

@[simp] theorem memsOk_redMismatch (s : State) (f : RedFlit) : (redMismatch s f).memsOk = s.memsOk := by simp [redMismatch]

@[simp] theorem memsOk_guardRed (s : State) (f : RedFlit) : (guardRed s f).memsOk = s.memsOk := by simp [guardRed]

theorem memsOk_execReductionFlitArrive (i : Arrival) (s : State) (hs : s.memsOk = true) : (execReductionFlitArrive i s).MemsOk := by
  simp only [execReductionFlitArrive]
  (repeat' split) <;> simp [hs]

theorem memsOk_execReductionAddDone (core : Fin 9216) (tree : Fin 64) (fidx : Fin 512) (tag : BitVec 8) (s : State) (hs : s.memsOk = true) :
    (execReductionAddDone core tree fidx tag s).MemsOk := by
  simp only [execReductionAddDone]
  (repeat' split) <;> simp [hs]

@[simp] theorem memsOk_mergeServe (s0 : State) (h : Nat) (en : MergeEnt) (hs : s0.memsOk = true) : (mergeServe s0 h en).memsOk = true := by simp [mergeServe, hs]

@[simp] theorem memsOk_mergeServed (s : State) (h : Nat) (en : MergeEnt) (hs : s.memsOk = true) : (mergeServed s h en).memsOk = true := by simp [mergeServed, hs]

@[simp] theorem memsOk_mergeRequest (s : State) (h : Nat) (new : MergeEnt) (full : Nat) (hs : s.memsOk = true) : (mergeRequest s h new full).memsOk = true := by
  simp only [mergeRequest]
  split <;> simp [hs]

@[simp] theorem memsOk_mergeAdmit (s : State) (h : Nat) (hs : s.memsOk = true) : (mergeAdmit s h).memsOk = true :=
  memsOk_foldl_of (fun s w h => by simp [h]) (by simp [hs])

@[simp] theorem memsOk_mergeClose (s : State) (h : Nat) (en : MergeEnt) (hs : s.memsOk = true) : (mergeClose s h en).memsOk = true :=
  memsOk_foldl_of (fun s w h => by simp [h]) (by simp [hs])

theorem memsOk_execMergeRequestArrive (i : Arrival) (s : State) (hs : s.memsOk = true) : (execMergeRequestArrive i s).MemsOk := by
  simp only [execMergeRequestArrive, Out.memsOk_next]
  split
  · exact hs
  · split
    · simp [hs]
    · refine memsOk_foldl_of (fun s w h => ?_) (memsOk_mergeRequest _ _ _ _ ?_)
      · simp [h]
      · split <;> simp [hs]

theorem memsOk_execMergeEntryClose (core : Fin 9216) (group : Fin 16) (tag : BitVec 8) (s : State) (hs : s.memsOk = true) : (execMergeEntryClose core group tag s).MemsOk := by
  unfold execMergeEntryClose
  split <;> simp [hs]

@[simp] theorem memsOk_markRetrain (s : State) (k l : Nat) : (markRetrain s k l).memsOk = s.memsOk := by
  unfold markRetrain
  split <;> simp

theorem memsOk_execSeamLaneLockLoss (k : Fin 88) (l : Fin 16) (s : State) (hs : s.memsOk = true) : (execSeamLaneLockLoss k l s).MemsOk := by simp [execSeamLaneLockLoss, hs]

theorem memsOk_execSeamErrorWindow (k : Fin 88) (l : Fin 16) (w : SeamWindow) (s : State) (hs : s.memsOk = true) : (execSeamErrorWindow k l w s).MemsOk := by simp [execSeamErrorWindow, hs]

theorem memsOk_execSeamRetrainDone (k : Fin 88) (l : Fin 16) (badLanes : Nat) (s : State) (hs : s.memsOk = true) : (execSeamRetrainDone k l badLanes s).MemsOk := by
  simp only [execSeamRetrainDone]
  (repeat' split) <;> simp [hs]

theorem memsOk_execFixedHopEnter (fields : BitVec 48) (s : State) (hs : s.memsOk = true) : (execFixedHopEnter fields s).MemsOk := by simp [execFixedHopEnter, hs]

theorem memsOk_execFixedHopDrainDone (n : Fin 48) (s : State) (hs : s.memsOk = true) : (execFixedHopDrainDone n s).MemsOk := by simp [execFixedHopDrainDone, hs]

theorem memsOk_execFixedHopDrainTimeout (n : Fin 48) (s : State) (hs : s.memsOk = true) : (execFixedHopDrainTimeout n s).MemsOk := by simp [execFixedHopDrainTimeout, hs]

theorem memsOk_execFixedHopStartTick (fields : BitVec 48) (t : Dword) (s : State) (hs : s.memsOk = true) : (execFixedHopStartTick fields t s).MemsOk := by simp [execFixedHopStartTick, hs]

theorem memsOk_execFixedHopExitTick (fields : BitVec 48) (t : Dword) (s : State) (hs : s.memsOk = true) : (execFixedHopExitTick fields t s).MemsOk := by simp [execFixedHopExitTick, hs]

theorem memsOk_execHopTableLoad (router : Fin 9216) (t : List (BitVec 15)) (s : State) (hs : s.memsOk = true) : (execHopTableLoad router t s).MemsOk := by simp [execHopTableLoad, hs]

/-! ### Requests and their entries -/

@[simp] theorem State.memsOk_setEnt (s : State) (e : Nat) (x : Entry) : (s.setEnt e x).memsOk = s.memsOk := by simp [State.setEnt]

@[simp] theorem State.memsOk_updEnt (s : State) (e : Nat) (f : Entry → Entry) : (s.updEnt e f).memsOk = s.memsOk := by simp [State.updEnt]

@[simp] theorem State.memsOk_updReq (s : State) (p : Nat) (f : ReqPart → ReqPart) : (s.updReq p f).memsOk = s.memsOk := by simp [State.updReq]

@[simp] theorem State.memsOk_updSec (s : State) (f : Sec → Sec) : (s.updSec f).memsOk = s.memsOk := by simp [State.updSec]

@[simp] theorem State.memsOk_updSecPart (s : State) (p : Nat) (f : SecPart → SecPart) : (s.updSecPart p f).memsOk = s.memsOk := by simp [State.updSecPart]

@[simp] theorem memsOk_turnTag (s : State) (p e : Nat) (r : Record) : (turnTag s p e r).memsOk = s.memsOk := by
  simp only [turnTag]
  split <;> simp

@[simp] theorem memsOk_putRecord (s : State) (p : Nat) (r : Record) : (putRecord s p r).memsOk = s.memsOk := by simp [putRecord]

@[simp] theorem memsOk_reject (s : State) (p e cmd status tag t : Nat) (place : Nat × Nat) : (reject s p e cmd status tag t place).memsOk = s.memsOk := by simp [reject]

@[simp] theorem memsOk_countFlr (s : State) (p : Nat) : (countFlr s p).memsOk = s.memsOk := by simp [countFlr]

@[simp] theorem memsOk_lateCancel (s : State) (p e : Nat) (x : Entry) (t : Nat) : (lateCancel s p e x t).memsOk = s.memsOk := by simp [lateCancel]

@[simp] theorem memsOk_releasePages (s : State) (p e : Nat) : (releasePages s p e).memsOk = s.memsOk := by simp [releasePages]

@[simp] theorem memsOk_discardSled (s : State) (e : Nat) : (discardSled s e).memsOk = s.memsOk := by simp [discardSled]

@[simp] theorem State.memsOk_updSport (s : State) (i : Nat) (f : StayPort → StayPort) : (s.updSport i f).memsOk = s.memsOk := by simp [State.updSport]

@[simp] theorem memsOk_settle (s : State) (p e t : Nat) : (settle s p e t).memsOk = s.memsOk := by
  simp only [settle]
  (repeat' split) <;> simp

@[simp] theorem memsOk_parkFailed (s : State) (p e : Nat) (fault : Option Nat) (res : Bool) (t : Nat) : (parkFailed s p e fault res t).memsOk = s.memsOk := by
  unfold parkFailed
  split <;> simp

@[simp] theorem memsOk_parkConfirmed (s : State) (p e t : Nat) : (parkConfirmed s p e t).memsOk = s.memsOk := by simp [parkConfirmed]

@[simp] theorem memsOk_queueReads (s : State) (e gen : Nat) (gs : List Page) : (queueReads s e gen gs).memsOk = s.memsOk := by simp [queueReads]

@[simp] theorem memsOk_beginPark (s : State) (p e t : Nat) : (beginPark s p e t).memsOk = s.memsOk := by
  simp only [beginPark]
  (repeat' split) <;> simp

@[simp] theorem memsOk_afterRecord (s : State) (p e : Nat) (r : Record) (t : Nat) : (afterRecord s p e r t).memsOk = s.memsOk := by
  simp only [afterRecord]
  (repeat' split) <;> simp

/-! ### Hoist reports -/

@[simp] theorem memsOk_writeReport (s : State) (p : Nat) (c : HoistCmd) (r : HoistRpt) : (writeReport s p c r).memsOk = s.memsOk := by simp [writeReport]

@[simp] theorem memsOk_abortQueue (s : State) (p : Nat) : (abortQueue s p).memsOk = s.memsOk := by simp [abortQueue]

/-! ### Request commands and rings -/

@[simp] theorem memsOk_storePrompt (s : State) (e : Nat) (ws : List Word) : (storePrompt s e ws).memsOk = s.memsOk := by simp [storePrompt]

@[simp] theorem memsOk_takeSub (s : State) (p q : Nat) : (takeSub s p q).memsOk = s.memsOk := by simp [takeSub]

@[simp] theorem memsOk_countPrompt (s : State) (p op : Nat) (w : BitVec 512) (c : Nat) : (countPrompt s p op w c).memsOk = s.memsOk := by
  unfold countPrompt
  split <;> simp

@[simp] theorem memsOk_submit {s : State} {p q op : Nat} {w : BitVec 512} {prompt : Option (List Word)} {t : Dword} {apply : Nat → State → State}
    (ha : ∀ c s, (apply c s).memsOk = s.memsOk) : (submit s p q op w prompt t apply).memsOk = s.memsOk := by
  simp only [submit]
  (repeat' split) <;> simp [ha]

@[simp] theorem memsOk_submissionReadFails (s : State) (p q : Nat) (t : Dword) : (submissionReadFails s p q t).memsOk = s.memsOk := by simp [submissionReadFails]

theorem memsOk_execOpen (p : Fin 64) (q : Fin 16) (sub : BitVec 512) (prompt : Option (List Word)) (t : Dword) (s : State) (hs : s.memsOk = true) :
    (execOpen p q sub prompt t s).MemsOk := by
  simp [execOpen, hs]

theorem memsOk_execContinue (p : Fin 64) (q : Fin 16) (sub : BitVec 512) (prompt : Option (List Word)) (t : Dword) (s : State) (hs : s.memsOk = true) :
    (execContinue p q sub prompt t s).MemsOk := by
  simp only [execContinue, Out.memsOk_next]
  refine (memsOk_submit fun c s => ?_).trans hs
  (repeat' split) <;> simp

theorem memsOk_execCancel (p : Fin 64) (q : Fin 16) (sub : BitVec 512) (t : Dword) (s : State) (hs : s.memsOk = true) : (execCancel p q sub t s).MemsOk := by simp [execCancel, hs]

theorem memsOk_execClose (p : Fin 64) (q : Fin 16) (sub : BitVec 512) (t : Dword) (s : State) (hs : s.memsOk = true) : (execClose p q sub t s).MemsOk := by simp [execClose, hs]

theorem memsOk_execPark (p : Fin 64) (q : Fin 16) (sub : BitVec 512) (t : Dword) (s : State) (hs : s.memsOk = true) : (execPark p q sub t s).MemsOk := by simp [execPark, hs]

@[simp] theorem memsOk_markWaiting (s : State) (p : Nat) : (markWaiting s p).memsOk = s.memsOk := by simp [markWaiting]

@[simp] theorem memsOk_noteFull (s : State) (p : Nat) : (noteFull s p).memsOk = s.memsOk := by simp [noteFull]

@[simp] theorem memsOk_shedRecord (s : State) (p e : Nat) (r : Record) (t : Nat) : (shedRecord s p e r t).memsOk = s.memsOk := by simp [shedRecord]

@[simp] theorem memsOk_recordWrite (s : State) (p t : Nat) : (recordWrite s p t).memsOk = s.memsOk := by
  unfold recordWrite
  split <;> simp

theorem memsOk_execCompletionRecordWrite (p : Fin 64) (t : Dword) (s : State) (hs : s.memsOk = true) : (execCompletionRecordWrite p t s).MemsOk := by simp [execCompletionRecordWrite, hs]

theorem memsOk_execCqHeadWrite (p : Fin 64) (head : Nat) (s : State) (hs : s.memsOk = true) : (execCqHeadWrite p head s).MemsOk := by simp [execCqHeadWrite, hs]

theorem memsOk_execCqCfgWrite (p : Fin 64) (base : Option Dword) (size : Option Nat) (en : Option Bool) (s : State) (hs : s.memsOk = true) :
    (execCqCfgWrite p base size en s).MemsOk := by
  simp [execCqCfgWrite, hs]

theorem memsOk_execSqDoorbell (p : Fin 64) (q : Fin 16) (tail : BitVec 16) (s : State) (hs : s.memsOk = true) : (execSqDoorbell p q tail s).MemsOk := by simp [execSqDoorbell, hs]

theorem memsOk_execSqCfgWrite (p : Fin 64) (q : Fin 16) (base : Option Dword) (size : Option Nat) (en : Option Bool) (s : State) (hs : s.memsOk = true) :
    (execSqCfgWrite p q base size en s).MemsOk := by simp [execSqCfgWrite, hs]

/-! ### Service windows of the masts -/

@[simp] theorem memsOk_serveUnmap (s : State) (m rid vpn : Nat) (hs : s.memsOk = true) : (serveUnmap s m rid vpn).memsOk = true := by
  have h := State.memsOk_updMast_of (m := m) (f := fun _ => ((s.core m).mast.unmap' rid vpn).1.giveResult ((s.core m).mast.unmap' rid vpn).2)
    (fun _ _ => Mast.dataOk_unmap' rid vpn (State.memsOk_mast hs m)) hs
  simp only [serveUnmap]
  split <;> simp [h]

@[simp] theorem memsOk_serveRelease (s : State) (m rid : Nat) (hs : s.memsOk = true) : (serveRelease s m rid).memsOk = true := by
  simp only [serveRelease]
  rw [memsOk_foldl fun s e => memsOk_settle _ _ _ _, State.memsOk_updReq]
  exact State.memsOk_updMast_of (fun _ _ => Mast.dataOk_release' rid (State.memsOk_mast hs m)) hs

@[simp] theorem memsOk_serveAccess (s : State) (m : Nat) (write : Bool) (addr : Nat) (d : Row) (found : List (Nat × Bool)) (hs : s.memsOk = true) :
    (serveAccess s m write addr d found).memsOk = true := by
  simp only [serveAccess]
  split
  · exact State.memsOk_updMast_of (fun x hx => Mast.dataOk_rowWrite _ _ _ hx) hs
  · exact memsOk_rowsFound _ _ _ _ (by simp [hs])

@[simp] theorem memsOk_walkFound (s : State) (m : Nat) (rows : List Nat) (found : List (Nat × Bool)) (hs : s.memsOk = true) : (walkFound s m rows found).1.memsOk = true := by
  simp only [walkFound]
  split <;> simp [hs]

theorem memsOk_serveWalk {s : State} {m : Nat} {op : PageOp} {rid vpn : Nat} {gran : Option Nat} {found : List (Nat × Bool)} {go : State → State}
    (hg : ∀ s, s.memsOk = true → (go s).memsOk = true) (hs : s.memsOk = true) : (serveWalk s m op rid vpn gran found go).memsOk = true := by
  have hw := memsOk_walkFound s m ((s.core m).mast.walkRows rid vpn gran) found hs
  unfold serveWalk
  split <;> rename_i h <;> rw [h] at hw
  · simpa using hw
  · exact hg _ hw

@[simp] theorem memsOk_noticeOut (s : State) (p e what : Nat) (ok : Bool) : (noticeOut s p e what ok).memsOk = s.memsOk := by simp [noticeOut]

@[simp] theorem memsOk_unparkFails (s : State) (p e port kind code spage : Nat) : (unparkFails s p e port kind code spage).memsOk = s.memsOk := by simp [unparkFails]

@[simp] theorem memsOk_listParked (s : State) (e rid t : Nat) (h : Nat × Nat) (g : Nat) : (listParked s e rid t h g).memsOk = s.memsOk := by simp [listParked]

@[simp] theorem memsOk_unparkStep (s : State) (p e : Nat) : (unparkStep s p e).memsOk = s.memsOk := by simp [unparkStep]

@[simp] theorem memsOk_placeParked (s : State) (p m e vpn g : Nat) (d : Memory) (hs : s.memsOk = true) : (placeParked s p m e vpn g d).memsOk = true := by
  have hm := Mast.dataOk_map' ((s.ent e).rid.getD 0) vpn g true (Mast.dataOk_freeGranule g (State.memsOk_mast hs m))
  simp only [placeParked]
  split
  · exact hs
  · split
    · simp [hs]
    · simp only [memsOk_unparkStep, State.memsOk_updEnt]
      exact State.memsOk_updMast_of (fun _ _ => wf_putGran _ _ hm) hs

@[simp] theorem memsOk_serveOne (s : State) (m : Nat) (o : Outside) (hs : s.memsOk = true) : (serveOne s m o).memsOk = true := by
  cases o with
  | access write _ _ addr d found => exact memsOk_serveAccess _ _ _ _ _ _ hs
  | map rid vpn g wr found =>
    refine memsOk_serveWalk (fun s hs => ?_) hs
    rw [memsOk_answer]
    exact State.memsOk_updMast_of (fun _ _ => Mast.dataOk_map' _ _ _ _ (State.memsOk_mast hs m)) hs
  | unmap rid vpn found => exact memsOk_serveWalk (fun s hs => memsOk_serveUnmap _ _ _ _ hs) hs
  | release rid found =>
    have hw := memsOk_walkFound s m [(0x10000 + 4 * rid) / 128] found hs
    simp only [serveOne]
    split <;> rename_i h <;> rw [h] at hw
    · simpa using hw
    · exact memsOk_serveRelease _ _ _ hw
  | park _ _ _ => exact hs
  | place e vpn g d => exact memsOk_placeParked _ _ _ _ _ _ _ hs
  | rebuild =>
    refine (State.memsOk_updMast fun x => ?_).trans hs
    split <;> simp
  | init rid vpn g =>
    simp only [serveOne, memsOk_answer]
    exact State.memsOk_updMast_of (fun _ _ => Mast.dataOk_init' _ _ (State.memsOk_mast hs m)) hs

@[simp] theorem memsOk_serveAll (s : State) (m : Nat) (hs : s.memsOk = true) : (serveAll s m).memsOk = true :=
  memsOk_foldl_of (fun s o h => memsOk_serveOne s m o h) (by simp [hs])

@[simp] theorem memsOk_serveWindow (m n : Nat) (s : State) (hs : s.memsOk = true) : (serveWindow m n s).memsOk = true := by
  induction n generalizing s with
  | zero => exact hs
  | succ n ih =>
    unfold serveWindow
    dsimp only
    split
    · exact hs
    · split
      · exact ih _ (memsOk_serveOne _ _ _ (by simp [hs]))
      · simp [hs]

@[simp] theorem memsOk_arriveOutside (s : State) (m : Nat) (o : Outside) (hs : s.memsOk = true) : (arriveOutside s m o).memsOk = true := by simp [arriveOutside, hs]

theorem memsOk_execOutsideMastAccess (core : Fin 9216) (write mark : Bool) (part : Fin 64) (row : Fin 0x400000) (x : OutsideRow) (s : State) (hs : s.memsOk = true) :
    (execOutsideMastAccess core write mark part row x s).MemsOk := by simp [execOutsideMastAccess, hs]

theorem memsOk_execSvcw (q : Issue) (w : BitVec 48) (s : State) (hs : s.memsOk = true) : (execSvcw q w s).MemsOk := by
  simp only [execSvcw, Out.memsOk_next]
  exact memsOk_issueCtrl_of (fun s t hs => memsOk_legalOr_of (by simp) (fun s hs => by simp [hs]) hs) hs

theorem memsOk_execTlbMap (c : Found (Fin 9216) 0x400000) (rid : BitVec 16) (vpn : BitVec 20) (pgn : BitVec 13) (wr : Bool) (s : State) (hs : s.memsOk = true) :
    (execTlbMap c rid vpn pgn wr s).MemsOk := by simp [execTlbMap, hs]

theorem memsOk_execTlbUnmap (c : Found (Fin 9216) 0x400000) (rid : BitVec 16) (vpn : BitVec 20) (s : State) (hs : s.memsOk = true) : (execTlbUnmap c rid vpn s).MemsOk := by simp [execTlbUnmap, hs]

theorem memsOk_execTlbRelease (c : Found (Fin 9216) 0x400000) (rid : BitVec 16) (s : State) (hs : s.memsOk = true) : (execTlbRelease c rid s).MemsOk := by simp [execTlbRelease, hs]

theorem memsOk_execTlbRebuild (core : Fin 9216) (s : State) (hs : s.memsOk = true) : (execTlbRebuild core s).MemsOk := by simp [execTlbRebuild, hs]

theorem memsOk_execPageInit (core : Fin 9216) (rid : BitVec 16) (vpn : BitVec 20) (pgn : BitVec 13) (s : State) (hs : s.memsOk = true) :
    (execPageInit core rid vpn pgn s).MemsOk := by
  simp [execPageInit, hs]

/-! ### Output streams -/

@[simp] theorem State.memsOk_updOutq (s : State) (k : Nat) (f : OutQ → OutQ) : (s.updOutq k f).memsOk = s.memsOk := by simp [State.updOutq]

theorem memsOk_execOutputQueueToken (slot : Fin 4096) (s : State) (hs : s.memsOk = true) : (execOutputQueueToken slot s).MemsOk := by
  unfold execOutputQueueToken
  split <;> simp [hs]

theorem memsOk_execStreamRecordWrite (p : Fin 64) (r : Fin 16) (parity : Option (BitVec 64)) (sideBad : Bool) (s : State) (hs : s.memsOk = true) :
    (execStreamRecordWrite p r parity sideBad s).MemsOk := by
  unfold execStreamRecordWrite
  split <;> simp [hs]

theorem memsOk_execSrHeadWrite (p : Fin 64) (r : Fin 16) (head : Nat) (s : State) (hs : s.memsOk = true) : (execSrHeadWrite p r head s).MemsOk := by simp [execSrHeadWrite, hs]

theorem memsOk_execSrCfgWrite (p : Fin 64) (r : Fin 16) (base : Option Dword) (size : Option Nat) (en : Option Bool) (s : State) (hs : s.memsOk = true) :
    (execSrCfgWrite p r base size en s).MemsOk := by simp [execSrCfgWrite, hs]

theorem memsOk_execStmFlushGo (byVf : Option (Fin 64)) (slot : Fin 4096) (s : State) (hs : s.memsOk = true) : (execStmFlushGo byVf slot s).MemsOk := by simp [execStmFlushGo, hs]

@[simp] theorem memsOk_endRingRead (s : State) (p status words : Nat) : (endRingRead s p status words).memsOk = s.memsOk := by simp [endRingRead]

theorem memsOk_execRingReadGo (p : Fin 64) (byPf : Bool) (s : State) (hs : s.memsOk = true) : (execRingReadGo p byPf s).MemsOk := by simp [execRingReadGo, hs]

theorem memsOk_execRingReadDone (p : Fin 64) (n : Nat) (bad : List Nat) (s : State) (hs : s.memsOk = true) : (execRingReadDone p n bad s).MemsOk := by simp [execRingReadDone, hs]

theorem memsOk_execStopSetLoad (p : Fin 64) (index : Fin 4096) (s : State) (hs : s.memsOk = true) : (execStopSetLoad p index s).MemsOk := by simp [execStopSetLoad, hs]

/-! ### Stay ports -/

@[simp] theorem memsOk_raisePort (s : State) (owner : Option Nat) (code : Nat) : (raisePort s owner code).memsOk = s.memsOk := by
  unfold raisePort
  split <;> simp

@[simp] theorem memsOk_tryConfirm (s : State) (p e t : Nat) : (tryConfirm s p e t).memsOk = s.memsOk := by simp [tryConfirm]

theorem memsOk_execParkPageWriteDone (e : Fin 262144) (w : Found ParkEnd 512) (t : Dword) (s0 : State) (hs : s0.memsOk = true) : (execParkPageWriteDone e w t s0).MemsOk := by
  simp only [execParkPageWriteDone]
  (repeat' split) <;> simp [hs]

theorem memsOk_execUnparkPageArrive (e : Fin 262144) (w : Timed UnparkIn) (s0 : State) (hs : s0.memsOk = true) : (execUnparkPageArrive e w s0).MemsOk := by
  simp only [execUnparkPageArrive]
  (repeat' split) <;> simp [hs]

theorem memsOk_execStayLinkDown (i : Fin 24) (t : Dword) (s0 : State) (hs : s0.memsOk = true) : (execStayLinkDown i t s0).MemsOk := by simp [execStayLinkDown, hs]

theorem memsOk_execStayLinkUp (i : Fin 24) (fast typeOk : Bool) (lanes cap retries : Nat) (s : State) (hs : s.memsOk = true) : (execStayLinkUp i fast typeOk lanes cap retries s).MemsOk := by
  simp [execStayLinkUp, hs]

theorem memsOk_execStayRequestTimeout (i : Fin 24) (e : Fin 262144) (t : Dword) (s0 : State) (hs : s0.memsOk = true) : (execStayRequestTimeout i e t s0).MemsOk := by
  unfold execStayRequestTimeout
  split <;> simp [hs]

/-! ### Turns of requests -/

@[simp] theorem memsOk_putRing (s : State) (e n : Nat) (w : BitVec 64) : (putRing s e n w).memsOk = s.memsOk := by simp [putRing]

@[simp] theorem memsOk_evalTokens (e : Nat) (x : Entry) (st : StopSet) (len0 i : Nat) (ws : List (BitVec 64)) (s : State) :
    (evalTokens e x st len0 i ws s).1.memsOk = s.memsOk := by
  induction ws generalizing i s with
  | nil => rfl
  | cons w r ih =>
    simp only [evalTokens]
    (repeat' split) <;> simp [ih]

@[simp] theorem memsOk_sendFrameTokens (s : State) (p e : Nat) (x : Entry) (k : Nat) : (sendFrameTokens s p e x k).memsOk = s.memsOk := by simp [sendFrameTokens]

@[simp] theorem memsOk_tally (s : State) (p tq gen prompt : Nat) : (tally s p tq gen prompt).memsOk = s.memsOk := by simp [tally]

@[simp] theorem memsOk_sendTally (s : State) (m : Tally) : (sendTally s m).memsOk = s.memsOk := by simp [sendTally]

@[simp] theorem memsOk_sendTokens (s : State) (p t : Nat) : (sendTokens s p t).memsOk = s.memsOk := by simp [sendTokens]

@[simp] theorem memsOk_applyCommit (s : State) (p e k : Nat) (c : Commit) : (applyCommit s p e k c).1.memsOk = s.memsOk := by
  simp only [applyCommit]
  split <;> simp

@[simp] theorem memsOk_seekPage (s : State) (p e rid : Nat) (h : Nat × Nat) : (seekPage s p e rid h).memsOk = s.memsOk := by
  unfold seekPage
  (repeat' split) <;> simp

@[simp] theorem memsOk_lookAhead (s : State) (p e : Nat) : (lookAhead s p e).memsOk = s.memsOk := by
  unfold lookAhead
  (repeat' split) <;> simp

@[simp] theorem memsOk_dropPages (s : State) (p e : Nat) : (dropPages s p e).memsOk = s.memsOk := by simp [dropPages]

@[simp] theorem memsOk_endUncommitted (s : State) (p e status t : Nat) (late : Bool) : (endUncommitted s p e status t late).memsOk = s.memsOk := by simp [endUncommitted]

@[simp] theorem memsOk_endActive (s : State) (p e status detail t : Nat) (late : Bool) : (endActive s p e status detail t late).memsOk = s.memsOk := by simp [endActive]

@[simp] theorem memsOk_endingOf (s : State) (p e t : Nat) (stop : Option (Nat × Nat)) : (endingOf s p e t stop).memsOk = s.memsOk := by
  simp only [endingOf]
  split <;> simp

@[simp] theorem memsOk_settleStep (s : State) (p t : Nat) (ok : Bool) (esc : AMap EscCount) : (settleStep s p t ok esc).memsOk = s.memsOk := by
  refine (memsOk_sendTokens _ _ _).trans (memsOk_foldl fun s e => ?_)
  dsimp only
  split <;> simp

@[simp] theorem memsOk_endQueued (s : State) (p t : Nat) : (endQueued s p t).memsOk = s.memsOk := by
  refine memsOk_foldl fun s x => ?_
  split <;> simp

@[simp] theorem memsOk_lookAheadAll (s : State) (p t : Nat) : (lookAheadAll s p t).memsOk = s.memsOk := by simp [lookAheadAll]

@[simp] theorem memsOk_admitEntry (s : State) (p e : Nat) : (admitEntry s p e).memsOk = s.memsOk := by
  unfold admitEntry
  split <;> simp

@[simp] theorem memsOk_roundRobin (p t n : Nat) (s : State) : (roundRobin p t n s).memsOk = s.memsOk := by
  induction n generalizing s with
  | zero => rfl
  | succ n ih =>
    simp only [roundRobin]
    (repeat' split) <;> simp [ih]

@[simp] theorem memsOk_clearDeficits (s : State) (p : Nat) : (clearDeficits s p).memsOk = s.memsOk := by simp [clearDeficits]

@[simp] theorem memsOk_admitAll (s : State) (p t : Nat) : (admitAll s p t).memsOk = s.memsOk := by simp [admitAll]

@[simp] theorem memsOk_sendStepRecords (s : State) (p : Nat) : (sendStepRecords s p).memsOk = s.memsOk := by
  unfold sendStepRecords
  split
  · rfl
  · refine memsOk_foldl fun s e => ?_
    dsimp only
    (repeat' split) <;> simp

/-! ### Luffs and the overflow routine -/

@[simp] theorem memsOk_beginSaves (s : State) (p : Nat) : (beginSaves s p).memsOk = s.memsOk := by
  refine memsOk_foldl fun s x => ?_
  (repeat' split) <;> simp

@[simp] theorem State.memsOk_luffCurrent (s : State) (p : Nat) : (s.luffCurrent p).memsOk = s.memsOk := by simp [State.luffCurrent]

theorem memsOk_execLuffStallBegin (p : Fin 64) (s : State) (hs : s.memsOk = true) : (execLuffStallBegin p s).MemsOk := by
  unfold execLuffStallBegin
  split <;> simp [hs]

theorem memsOk_execLuffItemEnd (p : Fin 64) (i : Nat) (s : State) (hs : s.memsOk = true) : (execLuffItemEnd p i s).MemsOk := by
  unfold execLuffItemEnd
  (repeat' split) <;> simp [hs]

theorem memsOk_execLuffLineDrop (p : Fin 64) (s : State) (hs : s.memsOk = true) : (execLuffLineDrop p s).MemsOk := by
  unfold execLuffLineDrop
  split <;> simp [hs]

theorem memsOk_execLuffTimeout (p : Fin 64) (n : Fin 48) (s : State) (hs : s.memsOk = true) : (execLuffTimeout p n s).MemsOk := by simp [execLuffTimeout, hs]

@[simp] theorem memsOk_passRows' (s : State) (d : Nat × Nat × Nat) (e pass : Nat) : (passRows' s d e pass).memsOk = s.memsOk := by simp [passRows']

@[simp] theorem memsOk_saveCore (s : State) (m : Nat) (r : OvfRun) (hs : s.memsOk = true) : (saveCore s m r).memsOk = true := by
  unfold saveCore
  split <;> simp [hs]

@[simp] theorem memsOk_stashCore (s0 : State) (m : Nat) (r : OvfRun) (hs : s0.memsOk = true) : (stashCore s0 m r).memsOk = true := by simp [stashCore, hs]

theorem memsOk_execSequencerSaveDone (core : Fin 9216) (sail : Option (Fin 4)) (s : State) (hs : s.memsOk = true) : (execSequencerSaveDone core sail s).MemsOk := by
  simp only [execSequencerSaveDone]
  (repeat' split) <;> simp [hs]

theorem memsOk_execOverflowDispatchDone (n : Fin 48) (s : State) (hs : s.memsOk = true) : (execOverflowDispatchDone n s).MemsOk := by
  unfold execOverflowDispatchDone
  (repeat' split) <;> simp [hs]

theorem memsOk_execOverflowRoutineDone (n : Fin 48) (s : State) (hs : s.memsOk = true) : (execOverflowRoutineDone n s).MemsOk := by
  have h0 : ∀ l : List Nat, (l.foldl (fun s m => s.settle m (s.core m).lastAcc) s).memsOk = true := fun l => memsOk_foldl_of (fun s m h => State.memsOk_settle _ _ h) hs
  simp only [execOverflowRoutineDone, Out.memsOk_next]
  split
  · exact hs
  · split
    · exact hs
    · split <;> simp [h0]

/-! ### Mailboxes -/

@[simp] theorem memsOk_sendReply (s : State) (f : Nat) (r : BitVec 512) : (sendReply s f r).memsOk = s.memsOk := by simp [sendReply]

@[simp] theorem memsOk_countDiscards (s : State) (p n : Nat) : (countDiscards s p n).memsOk = s.memsOk := by simp [countDiscards]

@[simp] theorem memsOk_endMsg (s : State) (f : Nat) (m : MbxMsg) (status detail : Nat) (payload : List (Nat × Nat × Nat)) :
    (endMsg s f m status detail payload).memsOk = s.memsOk := by simp [endMsg]

@[simp] theorem memsOk_endBody (s : State) (f : Nat) (body : BitVec 512) (status detail : Nat) (payload : List (Nat × Nat × Nat)) :
    (endBody s f body status detail payload).memsOk = s.memsOk := by
  unfold endBody
  split <;> simp

@[simp] theorem memsOk_holdMsg (s : State) (f : Nat) (m : MbxMsg) : (holdMsg s f m).memsOk = s.memsOk := by simp [holdMsg]

theorem memsOk_execMbxOutDataWrite (f : Fin 65) (i : Fin 16) (v : Word) (s : State) (hs : s.memsOk = true) : (execMbxOutDataWrite f i v s).MemsOk := by simp [execMbxOutDataWrite, hs]

theorem memsOk_execMbxOutGo (f : Fin 65) (link : Fin 4) (s : State) (hs : s.memsOk = true) : (execMbxOutGo f link s).MemsOk := by simp [execMbxOutGo, hs]

@[simp] theorem memsOk_takeOut (s : State) (f : Nat) : (takeOut s f).memsOk = s.memsOk := by simp [takeOut]

theorem memsOk_execMbxTake (f : Fin 65) (s : State) (hs : s.memsOk = true) : (execMbxTake f s).MemsOk := by
  simp only [execMbxTake]
  (repeat' split) <;> simp [hs]

@[simp] theorem memsOk_mailShutdown (s : State) (f : Nat) : (mailShutdown s f).memsOk = s.memsOk := by simp [mailShutdown]

theorem memsOk_execMbxReplyWrite (f : Fin 65) (s : State) (hs : s.memsOk = true) : (execMbxReplyWrite f s).MemsOk := by
  simp only [execMbxReplyWrite]
  split <;> simp [hs]

theorem memsOk_execMbxInDone (f : Fin 65) (s : State) (hs : s.memsOk = true) : (execMbxInDone f s).MemsOk := by simp [execMbxInDone, hs]

theorem memsOk_execDblStatClear (f : Fin 65) (w : Word) (s : State) (hs : s.memsOk = true) : (execDblStatClear f w s).MemsOk := by simp [execDblStatClear, hs]

theorem memsOk_execDblMaskWrite (f : Fin 65) (w : Word) (s : State) (hs : s.memsOk = true) : (execDblMaskWrite f w s).MemsOk := by simp [execDblMaskWrite, hs]

theorem memsOk_execMsixUnmask (f : Fin 65) (v : Option (Fin 256)) (s : State) (hs : s.memsOk = true) : (execMsixUnmask f v s).MemsOk := by
  unfold execMsixUnmask
  split <;> simp [hs]

theorem memsOk_execCoalesceExpire (f : Fin 65) (vt : Timed (Fin 64)) (s0 : State) (hs : s0.memsOk = true) : (execCoalesceExpire f vt s0).MemsOk := by simp [execCoalesceExpire, hs]

/-! ### Clocks and power as settings -/

@[simp] theorem State.memsOk_updClk (s : State) (f : Clk → Clk) : (s.updClk f).memsOk = s.memsOk := by simp [State.updClk]

@[simp] theorem State.memsOk_updClkPart (s : State) (p : Nat) (f : ClkPart → ClkPart) : (s.updClkPart p f).memsOk = s.memsOk := by simp [State.updClkPart]

@[simp] theorem memsOk_applySwal (s : State) (p : Nat) : (applySwal s p).memsOk = s.memsOk := by simp [applySwal]

@[simp] theorem memsOk_pwrLog (s : State) (n c kind phase value : Nat) : (pwrLog s n c kind phase value).memsOk = s.memsOk := by simp [pwrLog]

@[simp] theorem memsOk_tripField (s : State) (n code value : Nat) (hs : s.memsOk = true) : (tripField s n code value).memsOk = true := by simp [tripField, hs]

@[simp] theorem memsOk_boundaryPower (s : State) (p : Nat) (hs : s.memsOk = true) : (boundaryPower s p).memsOk = true := by
  simp only [boundaryPower, State.memsOk_updPwr]
  exact memsOk_foldl_of (fun s n h => by simp [h]) hs

@[simp] theorem memsOk_endSlew (s : State) : (endSlew s).memsOk = s.memsOk := by simp [endSlew]

@[simp] theorem memsOk_newRate (s : State) : (newRate s).memsOk = s.memsOk := by simp [newRate]

@[simp] theorem memsOk_moveTime (s : State) (v : Dword) : (moveTime s v).memsOk = s.memsOk := by simp [moveTime]

/-! ### Boundaries of a step -/

@[simp] theorem memsOk_quarantine (s : State) (p status : Nat) : (quarantine s p status).memsOk = s.memsOk := by simp [quarantine]

@[simp] theorem memsOk_leftoverCheck (s : State) (p : Nat) (ok : Bool) : (leftoverCheck s p ok).memsOk = s.memsOk := by
  refine memsOk_foldl fun s x => ?_
  split <;> simp

@[simp] theorem memsOk_drainEvents (s : State) (p : Nat) : (drainEvents s p).memsOk = s.memsOk := by simp [drainEvents]

@[simp] theorem memsOk_emptySlots (s : State) (p : Nat) : (emptySlots s p).memsOk = s.memsOk := by simp [emptySlots]

@[simp] theorem memsOk_resetSlots (s : State) (p : Nat) : (resetSlots s p).memsOk = s.memsOk := by simp [resetSlots]

@[simp] theorem memsOk_slotEvents (s : State) (p : Nat) : (slotEvents s p).memsOk = s.memsOk := by simp [slotEvents]

@[simp] theorem memsOk_stopDrained (s : State) (p : Nat) : (stopDrained s p).memsOk = s.memsOk := by simp [stopDrained]

@[simp] theorem memsOk_applyTlbs (s : State) (p : Nat) (hs : s.memsOk = true) : (applyTlbs s p).memsOk = true := by
  refine memsOk_foldl_of (fun s m h => ?_) hs
  rw [State.memsOk_updMast Mast.dataOk_applyHeld]
  split <;> simp [h]

@[simp] theorem memsOk_dropTravel (s : State) (p : Nat) : (dropTravel s p).memsOk = s.memsOk := by simp [dropTravel]

@[simp] theorem memsOk_keepWindow (s : State) (p : Nat) : (keepWindow s p).memsOk = s.memsOk := by simp [keepWindow]

@[simp] theorem memsOk_sendStamps (s : State) (p t : Nat) : (sendStamps s p t).memsOk = s.memsOk := by simp [sendStamps]

@[simp] theorem memsOk_endMarked (s : State) (p t : Nat) : (endMarked s p t).memsOk = s.memsOk := by simp [endMarked]

@[simp] theorem memsOk_lostToWaiting (s : State) (p : Nat) : (lostToWaiting s p).memsOk = s.memsOk := by simp [lostToWaiting]

@[simp] theorem memsOk_applyAutos (s : State) (p : Nat) : (applyAutos s p).memsOk = s.memsOk := by simp [applyAutos]

@[simp] theorem memsOk_applyGate (s : State) (p : Nat) : (applyGate s p).memsOk = s.memsOk := by simp [applyGate]

@[simp] theorem memsOk_applySettings (s0 : State) (p : Nat) : (applySettings s0 p).memsOk = s0.memsOk := by
  simp only [applySettings]
  split <;> simp

@[simp] theorem memsOk_serveQueues (s : State) (p t : Nat) : (serveQueues s p t).memsOk = s.memsOk := by simp [serveQueues]

@[simp] theorem memsOk_tellEnd (s : State) (p t : Nat) : (tellEnd s p t).memsOk = s.memsOk := by simp [tellEnd]

theorem memsOk_execStepEndBoundary (p : Fin 64) (t : Dword) (s0 : State) (hs : s0.memsOk = true) : (execStepEndBoundary p t s0).MemsOk := by
  simp -zeta only [execStepEndBoundary, Out.memsOk_next]
  split
  · split <;> simp [hs]
  · extract_lets s g0 cs now0 miss s1 now1 held s1' now ok s2 bad s2' s3 s4 s5 ns s5' s6 s7 s8 s9
    have h : s.memsOk = true := by simp [s, hs]
    have h1 : s1.memsOk = true := by simp [s1, h]
    have h1' : s1'.memsOk = true := by simp [s1', h1]
    have h2 : s2'.memsOk = true := by simp [s2', s2, h1']
    have h3 : s3.memsOk = true := memsOk_sailChecksAct _ _ (by simp [h2])
    have h4 : s4.memsOk = true := by simp [s4, h3]
    have h5 : s5'.memsOk = true := by simp [s5', s5, h4]
    have h7 : s7.memsOk = true := by simp [s7, s6, h5]
    have h8 : s8.memsOk = true := by simp [s8, h7]
    simp [s9, h8]

@[simp] theorem memsOk_applyRecord (s : State) (p t : Nat) : (applyRecord s p t).memsOk = s.memsOk := by
  unfold applyRecord
  split <;> simp

@[simp] theorem memsOk_joinSlots (s : State) (p : Nat) : (joinSlots s p).memsOk = s.memsOk := by simp [joinSlots]

@[simp] theorem memsOk_holdEvents (s : State) (p t : Nat) : (holdEvents s p t).memsOk = s.memsOk := by simp [holdEvents]

theorem memsOk_execStepStartBoundary (p : Fin 64) (t : Dword) (s0 : State) (hs : s0.memsOk = true) : (execStepStartBoundary p t s0).MemsOk := by simp [execStepStartBoundary, hs]

theorem memsOk_execIdleBoundary (p : Fin 64) (t : Dword) (s0 : State) (hs : s0.memsOk = true) : (execIdleBoundary p t s0).MemsOk := by simp [execIdleBoundary, hs]

theorem memsOk_execImageCurrentWindow (core : Fin 9216) (mean : Nat) (s : State) (hs : s.memsOk = true) : (execImageCurrentWindow core mean s).MemsOk := by simp [execImageCurrentWindow, hs]

/-! ### Sheet frames -/

@[simp] theorem memsOk_refuseFrame (s : State) (i : Nat) (h : BitVec 128) : (refuseFrame s i h).memsOk = s.memsOk := by
  simp only [refuseFrame]
  split <;> simp

@[simp] theorem memsOk_onFrame {s : State} {i : Nat} {h : BitVec 128} {f : Nat → State → State} (hf : ∀ p s, (f p s).memsOk = s.memsOk) :
    (onFrame s i h f).memsOk = s.memsOk := by
  unfold onFrame
  (repeat' split) <;> simp [hf]

theorem memsOk_onFrame_of {s : State} {i : Nat} {h : BitVec 128} {f : Nat → State → State} (hf : ∀ p s, s.memsOk = true → (f p s).memsOk = true) (hs : s.memsOk = true) :
    (onFrame s i h f).memsOk = true := by
  unfold onFrame
  split
  · exact hf _ _ hs
  · simp [hs]

@[simp] theorem memsOk_stray (s : State) (i p : Nat) (h : BitVec 128) (n : Nat) : (stray s i p h n).memsOk = s.memsOk := by simp [stray]

theorem memsOk_execSheetTensorFrame (i : Fin 8) (h : BitVec 128) (dst : BitVec 64) (fl : List (BitVec 512 × Bool)) (s : State) (hs : s.memsOk = true) :
    (execSheetTensorFrame i h dst fl s).MemsOk := by
  unfold execSheetTensorFrame
  (repeat' split) <;> simp [hs]

theorem memsOk_execSheetCreditFrame (i : Fin 8) (h : BitVec 128) (s : State) (hs : s.memsOk = true) : (execSheetCreditFrame i h s).MemsOk := by
  simp only [execSheetCreditFrame, Out.memsOk_next]
  refine (memsOk_onFrame fun p s => ?_).trans hs
  split <;> simp

theorem memsOk_execSheetGateFrame (i : Fin 8) (h : BitVec 128) (s : State) (hs : s.memsOk = true) : (execSheetGateFrame i h s).MemsOk := by simp [execSheetGateFrame, hs]

theorem memsOk_execSheetWaitArm (p : Fin 64) (rank : Fin 8) (route : Fin 256) (s : State) (hs : s.memsOk = true) : (execSheetWaitArm p rank route s).MemsOk := by
  unfold execSheetWaitArm
  split <;> simp [hs]

theorem memsOk_execGateDueArm (p : Fin 64) (s : State) (hs : s.memsOk = true) : (execGateDueArm p s).MemsOk := by simp [execGateDueArm, hs]

@[simp] theorem memsOk_noteReach (s : State) (p : Nat) : (noteReach s p).memsOk = s.memsOk := by simp [noteReach]

@[simp] theorem memsOk_checkSlice (s0 : State) (p : Nat) : (checkSlice s0 p).memsOk = s0.memsOk := by
  simp only [checkSlice]
  split <;> simp

@[simp] theorem memsOk_checkSlices (s : State) : (checkSlices s).memsOk = s.memsOk := by simp [checkSlices]

@[simp] theorem memsOk_loseSlice (s : State) (p r : Nat) (hs : s.memsOk = true) : (loseSlice s p r).memsOk = true := by
  refine memsOk_partFault _ _ _ _ _ _ _ ?_
  simp [memsOk_foldl, hs]

theorem memsOk_execSheetEndStampFrame (i : Fin 8) (h : BitVec 128) (recs : List (BitVec 128)) (s : State) (hs : s.memsOk = true) : (execSheetEndStampFrame i h recs s).MemsOk := by
  simp [execSheetEndStampFrame, hs]

theorem memsOk_execSheetNoticeFrame (i : Fin 8) (h : BitVec 128) (what : Fin 5) (ok : Bool) (e : Fin 262144) (s : State) (hs : s.memsOk = true) :
    (execSheetNoticeFrame i h what ok e s).MemsOk := by
  simp only [execSheetNoticeFrame, Out.memsOk_next]
  refine memsOk_onFrame_of (fun p s hs => ?_) hs
  split
  · simp [hs]
  · split
    · split <;> simp [hs]
    · split <;> simp [hs]

theorem memsOk_execSliceStampLate (p : Fin 64) (rt : Timed (Fin 8)) (s0 : State) (hs : s0.memsOk = true) : (execSliceStampLate p rt s0).MemsOk := by simp [execSliceStampLate, hs]

theorem memsOk_execSliceLossTimeout (p : Fin 64) (rt : Timed (Fin 8)) (s : State) (hs : s.memsOk = true) : (execSliceLossTimeout p rt s).MemsOk := by simp [execSliceLossTimeout, hs]

theorem memsOk_execStampWaitTimeout (p : Fin 64) (rt : Timed (Fin 8)) (s : State) (hs : s.memsOk = true) : (execStampWaitTimeout p rt s).MemsOk := by simp [execStampWaitTimeout, hs]

@[simp] theorem memsOk_updRole (s : State) : (updRole s).memsOk = s.memsOk := by
  unfold updRole
  split <;> simp

theorem memsOk_execSheetTimeFrame (i : Fin 8) (h : BitVec 128) (x : Timed Dword) (s0 : State) (hs : s0.memsOk = true) : (execSheetTimeFrame i h x s0).MemsOk := by
  simp only [execSheetTimeFrame]
  (repeat' split) <;> simp [hs]

theorem memsOk_execTimeExchangeTick (s1 : State) (hs : s1.memsOk = true) : (execTimeExchangeTick s1).MemsOk := by simp [execTimeExchangeTick, hs]

theorem memsOk_execTimeHoldTimeout (s : State) (hs : s.memsOk = true) : (execTimeHoldTimeout s).MemsOk := by simp [execTimeHoldTimeout, hs]

@[simp] theorem memsOk_tellPeer (s : State) (i : Nat) : (tellPeer s i).memsOk = s.memsOk := memsOk_foldl fun _ _ => memsOk_foldl fun _ _ => by simp

@[simp] theorem memsOk_showVerdict (s : State) (i : Nat) (v : Verdict) : (showVerdict s i v).memsOk = s.memsOk := by simp [showVerdict]

@[simp] theorem memsOk_judgePorts (s : State) (i : Nat) (timeout : Bool) : (judgePorts s i timeout).memsOk = s.memsOk := by
  refine memsOk_foldl fun s x => ?_
  (repeat' split) <;> simp

theorem memsOk_execSheetPortLinkUp (x : Timed (Fin 8)) (s0 : State) (hs : s0.memsOk = true) : (execSheetPortLinkUp x s0).MemsOk := by
  simp only [execSheetPortLinkUp]
  (repeat' split) <;> simp [hs]

theorem memsOk_execSheetIdentFrame (i : Fin 8) (serial : Dword) (port : Fin 8) (peerGood agrees : Option Bool) (s : State) (hs : s.memsOk = true) :
    (execSheetIdentFrame i serial port peerGood agrees s).MemsOk := by
  simp only [execSheetIdentFrame, Out.memsOk_next]
  split
  · exact hs
  · rw [memsOk_checkSlices, memsOk_judgePorts, memsOk_foldl fun s p => ?_]
    · simpa using hs
    · (repeat' split) <;> simp

theorem memsOk_execCablingVerdictTimeout (x : Timed (Fin 8)) (s : State) (hs : s.memsOk = true) : (execCablingVerdictTimeout x s).MemsOk := by
  simp only [execCablingVerdictTimeout]
  split <;> simp [hs]

@[simp] theorem memsOk_resend (s : State) (i lost : Nat) : (resend s i lost).memsOk = s.memsOk := by
  simp only [resend]
  split <;> simp

theorem memsOk_execSheetPortLinkDown (x : PortLoss) (s0 : State) (hs : s0.memsOk = true) : (execSheetPortLinkDown x s0).MemsOk := by simp [execSheetPortLinkDown, hs]

/-! ### Image pins -/

@[simp] theorem memsOk_writePins (s : State) (ms : List Nat) : (writePins s ms).memsOk = s.memsOk := by simp [writePins]

/-! ### Swallow demands and glides -/

@[simp] theorem memsOk_swalNow (s : State) (p : Nat) : (swalNow s p).memsOk = s.memsOk := by simp [swalNow]

@[simp] theorem memsOk_setReef (s : State) (p : Nat) : (setReef s p).memsOk = s.memsOk := by simp [setReef]

@[simp] theorem memsOk_holdDemand (s : State) (p S : Nat) : (holdDemand s p S).memsOk = s.memsOk := by simp [holdDemand]

@[simp] theorem memsOk_slowLost (s : State) (m : Nat) (hs : s.memsOk = true) : (slowLost s m).memsOk = true := by simp [slowLost, hs]

@[simp] theorem memsOk_slowCore (s : State) (m : Nat) (hs : s.memsOk = true) : (slowCore s m).memsOk = true := by simp [slowCore, hs]

@[simp] theorem memsOk_raiseVolts (s : State) (step : Nat) (hs : s.memsOk = true) : (raiseVolts s step).memsOk = true := by
  simp only [raiseVolts]
  rw [memsOk_foldl fun s m => by simp]
  exact memsOk_foldl_of (fun s m h => by simp [h]) (memsOk_foldl_of (fun s m h => by simp [h]) hs)

@[simp] theorem memsOk_reefCore (s : State) (m : Nat) (hs : s.memsOk = true) : (reefCore s m).memsOk = true := by simp [reefCore, hs]

@[simp] theorem memsOk_supplyJudge (s : State) (n : Nat) (hs : s.memsOk = true) : (supplyJudge s n).memsOk = true := by simp [supplyJudge, hs]

@[simp] theorem memsOk_glideTo (s : State) (k : Nat) (hs : s.memsOk = true) : (glideTo s k).memsOk = true := by simp [glideTo, hs]

@[simp] theorem memsOk_retarget (s : State) (hs : s.memsOk = true) : (retarget s).memsOk = true := by simp [retarget, hs]

@[simp] theorem memsOk_relax (s : State) (hs : s.memsOk = true) : (relax s).memsOk = true := by simp [relax, hs]

/-! ### Hoists -/

@[simp] theorem State.memsOk_updHoist (s : State) (p : Nat) (f : Hoist → Hoist) : (s.updHoist p f).memsOk = s.memsOk := by simp [State.updHoist]

@[simp] theorem memsOk_clearSlot (s : State) (p i : Nat) (hs : s.memsOk = true) : (clearSlot s p i).memsOk = true := by
  simp only [clearSlot, State.memsOk_updImg]
  exact State.memsOk_eachCore_of (fun m c h => memsOk_eraseCore c) hs

@[simp] theorem memsOk_endHoist (s : State) (p : Nat) (status : Nat) (sec vcore detail : Nat) (hs : s.memsOk = true) : (endHoist s p status sec vcore detail).memsOk = true := by
  unfold endHoist
  split <;> simp [hs]

@[simp] theorem memsOk_failHoist (s : State) (p status : Nat) (hs : s.memsOk = true) : (failHoist s p status).memsOk = true := by simp [failHoist, hs]

theorem memsOk_takeCommand {s : State} {p : Nat} {byVf : Bool} {ops : Nat → Bool} {t : Dword} {x : State × HoistCmd} (h : takeCommand s p byVf ops t = some x) :
    x.1.memsOk = s.memsOk := by
  simp only [takeCommand] at h
  (repeat' split at h) <;> cases h <;> simp

@[simp] theorem memsOk_enqueue (s : State) (p : Nat) (c : HoistCmd) : (enqueue s p c).memsOk = s.memsOk := by simp [enqueue]

theorem memsOk_execHoist (p : Fin 64) (byVf : Bool) (t : Dword) (s : State) (hs : s.memsOk = true) : (execHoist p byVf t s).MemsOk := by
  simp only [execHoist, Out.memsOk_next]
  split
  · simp [memsOk_takeCommand ‹_›, hs]
  · exact hs

@[simp] theorem memsOk_askAbort (s : State) (p : Nat) : (askAbort s p).memsOk = s.memsOk := by simp [askAbort]

theorem memsOk_execUnload (p : Fin 64) (byVf : Bool) (t : Dword) (s : State) (hs : s.memsOk = true) : (execUnload p byVf t s).MemsOk := by
  simp only [execUnload, Out.memsOk_next]
  split
  · simp [memsOk_takeCommand ‹_›, hs]
  · exact hs

theorem memsOk_execHoistAbort (p : Fin 64) (byVf : Bool) (t : Dword) (s : State) (hs : s.memsOk = true) : (execHoistAbort p byVf t s).MemsOk := by
  simp only [execHoistAbort, Out.memsOk_next]
  split
  · exact hs
  · have h := (memsOk_takeCommand ‹_›).trans hs
    split
    · simpa using h
    · split <;> split
      · simpa using h
      · split <;> simpa using h
      · simpa using h
      · split <;> simpa using h

@[simp] theorem memsOk_beginUnload (s : State) (p i : Nat) (why : UnloadFor) (c : HoistCmd) (t : Nat) : (beginUnload s p i why c t).memsOk = s.memsOk := by simp [beginUnload]

@[simp] theorem memsOk_readHeader (s : State) (p : Nat) (c : HoistCmd) (inp : HoistIn) (key : Option (BitVec 256)) (hs : s.memsOk = true) : (readHeader s p c inp key).memsOk = true := by
  unfold readHeader
  (repeat' split) <;> simp [hs]

@[simp] theorem memsOk_startHoist (s : State) (p : Nat) (c : HoistCmd) (inp : HoistIn) (hs : s.memsOk = true) : (startHoist s p c inp).memsOk = true := by simp [startHoist, hs]

theorem memsOk_execHoistQueueTake (p : Fin 64) (inp : HoistIn) (t : Dword) (s0 : State) (hs : s0.memsOk = true) : (execHoistQueueTake p inp t s0).MemsOk := by
  simp only [execHoistQueueTake]
  (repeat' split) <;> simp [hs]

@[simp] theorem memsOk_startStream (s : State) (p : Nat) (hs : s.memsOk = true) : (startStream s p).memsOk = true := by
  unfold startStream
  split
  · exact hs
  · refine memsOk_retarget _ ?_
    simp only [State.memsOk_updPart, State.memsOk_updHoist]
    refine memsOk_foldl_of (fun s v h => State.memsOk_updCore_of (fun c hc => ?_) h) (by simp [hs])
    obtain ⟨-, -, hm⟩ := c.memsOk_iff.1 hc
    simp [eraseCore, Memory.wf_clear _ _ hm]
    rfl

@[simp] theorem memsOk_checkManifest (s : State) (p : Nat) (t : Nat) (hs : s.memsOk = true) : (checkManifest s p t).memsOk = true := by
  simp only [checkManifest]
  (repeat' split) <;> simp [hs]

@[simp] theorem memsOk_deliverSection (s : State) (p : Nat) (h : Hoist) (i d : Nat) (hs : s.memsOk = true) : (deliverSection s p h i d).memsOk = true := by
  simp only [deliverSection]
  split
  · exact State.memsOk_updMast_of (fun x hx => Memory.wf_writeN _ _ _ hx) hs
  · simp [hs]

@[simp] theorem memsOk_deliverSections (n : Nat) (s : State) (p : Nat) (h : Hoist) (hs : s.memsOk = true) : (deliverSections n s p h).1.memsOk = true := by
  induction n generalizing s h with
  | zero => exact hs
  | succ n ih =>
    simp only [deliverSections]
    split
    · exact hs
    · split
      · exact hs
      · exact ih _ _ (memsOk_deliverSection _ _ _ _ _ hs)

@[simp] theorem memsOk_finishHoist (s : State) (p : Nat) (hs : s.memsOk = true) : (finishHoist s p).memsOk = true := by
  unfold finishHoist
  split
  · exact hs
  · extract_lets i m x c0 same samp s1 y s2 s3 ns s4 s5
    have h3 : s3.memsOk = true := by simp [s3, s2, s1, hs]
    have h4 : s4.memsOk = true := memsOk_foldl_of (fun s m h => by simp [h]) (by simp [h3])
    have h5 : s5.memsOk = true := by simp [s5, h4]
    exact memsOk_endHoist _ _ _ _ _ _ h5

@[simp] theorem memsOk_loadImage (s : State) (p : Nat) (hs : s.memsOk = true) : (loadImage s p).memsOk = true := by
  unfold loadImage
  split
  · exact hs
  · extract_lets m x ms s1 s2 s3
    have h1 : s1.memsOk = true := memsOk_foldl_of (fun s e h => State.memsOk_updCore_of (fun c hc => by simpa using memsOk_loadCore hc) h) hs
    have h2 : s2.memsOk = true := by simp [s2, h1]
    split
    · simp [h2]
    · have h3 : s3.memsOk = true := by simp [s3, h2]
      simp [h3]

@[simp] theorem memsOk_advanceHoist (s : State) (p : Nat) (hs : s.memsOk = true) : (advanceHoist s p).memsOk = true := by
  simp only [advanceHoist]
  (repeat' split) <;> simp [hs]

@[simp] theorem memsOk_resumeHoist (s : State) (p : Nat) (hs : s.memsOk = true) : (resumeHoist s p).memsOk = true := by
  unfold resumeHoist
  split <;> simp [hs]

@[simp] theorem memsOk_takeSegment (s : State) (p : Nat) (h : Hoist) (plain badCore : Option Nat) (hs : s.memsOk = true) : (takeSegment s p h plain badCore).memsOk = true := by
  unfold takeSegment
  split <;> simp [hs]

theorem memsOk_execHalyardSegment (p : Fin 64) (seg : SegIn) (t : Dword) (s0 : State) (hs : s0.memsOk = true) : (execHalyardSegment p seg t s0).MemsOk := by
  unfold execHalyardSegment
  split <;> simp [hs]

@[simp] theorem memsOk_hoistReadFails (s : State) (p k : Nat) (hs : s.memsOk = true) : (hoistReadFails s p k).memsOk = true := by
  unfold hoistReadFails
  split <;> simp [hs]

theorem memsOk_execUnloadDrainLimit (p : Fin 64) (slot : Fin 4) (t : Dword) (s0 : State) (hs : s0.memsOk = true) : (execUnloadDrainLimit p slot t s0).MemsOk := by simp [execUnloadDrainLimit, hs]

@[simp] theorem memsOk_eraseEntry (s : State) (p e status : Nat) : (eraseEntry s p e status).memsOk = s.memsOk := by
  simp only [eraseEntry]
  (repeat' split) <;> simp

theorem memsOk_execUnloadEraseDone (p : Fin 64) (slot : Fin 4) (t : Dword) (s0 : State) (hs : s0.memsOk = true) : (execUnloadEraseDone p slot t s0).MemsOk := by
  unfold execUnloadEraseDone
  extract_lets x s status s1 gone s2 s3 s4 s5 s6 s7
  rw [Out.memsOk_next]
  split
  · exact hs
  · have h2 : s2.memsOk = true := by simp [s2, s1, s, hs]
    have h5 : s5.memsOk = true := by simp [s5, s4, s3, h2]
    have h6 : s6.memsOk = true := by
      dsimp only [s6]
      split <;> simp [h5]
    simp [s7, h6]

/-! ### The event recorder -/

theorem memsOk_execEvrFreeze (t : Dword) (s0 : State) (hs : s0.memsOk = true) : (execEvrFreeze t s0).MemsOk := by
  simp only [execEvrFreeze, Out.memsOk_next]
  (repeat' split) <;> simp [hs]

theorem memsOk_execEvrThaw (t : Dword) (s0 : State) (hs : s0.memsOk = true) : (execEvrThaw t s0).MemsOk := by
  unfold execEvrThaw
  split <;> simp [hs]

theorem memsOk_execEvrFreezeLimit (t : Dword) (s0 : State) (hs : s0.memsOk = true) : (execEvrFreezeLimit t s0).MemsOk := by
  unfold execEvrFreezeLimit
  split <;> simp [hs]

theorem memsOk_execEvrDump (s : State) (hs : s.memsOk = true) : (execEvrDump s).MemsOk := by
  unfold execEvrDump
  split <;> simp [hs]

theorem memsOk_execEvrClear (s : State) (hs : s.memsOk = true) : (execEvrClear s).MemsOk := by
  unfold execEvrClear
  split <;> simp [hs]

theorem memsOk_execEvrFlush (t : Dword) (s0 : State) (hs : s0.memsOk = true) : (execEvrFlush t s0).MemsOk := by
  unfold execEvrFlush
  split <;> simp [hs]

theorem memsOk_execEvrPeriodicFlush (t : Dword) (s : State) (hs : s.memsOk = true) : (execEvrPeriodicFlush t s).MemsOk := by simp [execEvrPeriodicFlush, hs]

theorem memsOk_execEvrFaultFlushSpacing (t : Dword) (s0 : State) (hs : s0.memsOk = true) : (execEvrFaultFlushSpacing t s0).MemsOk := by simp [execEvrFaultFlushSpacing, hs]

@[simp] theorem State.memsOk_updCfg (s : State) (f : Cfg → Cfg) : (s.updCfg f).memsOk = s.memsOk := by simp [State.updCfg]

theorem memsOk_execRecorderFlushDone (ok0 ok1 : Bool) (t : Dword) (s0 : State) (hs : s0.memsOk = true) : (execRecorderFlushDone ok0 ok1 t s0).MemsOk := by
  simp only [execRecorderFlushDone]
  (repeat' split) <;> simp [hs]

theorem memsOk_execEvrHsrcWrite (h : Fin 64) (w : Word) (s : State) (hs : s.memsOk = true) : (execEvrHsrcWrite h w s).MemsOk := by simp [execEvrHsrcWrite, hs]

/-! ### Clocks and the time base -/

@[simp] theorem State.memsOk_updClkField (s : State) (n : Nat) (f : ClkField → ClkField) : (s.updClkField n f).memsOk = s.memsOk := by simp [State.updClkField]

@[simp] theorem memsOk_sendClose (s : State) : (sendClose s).memsOk = s.memsOk := by simp [sendClose]

@[simp] theorem memsOk_idleSails (s : State) (code status : Nat) (hs : s.memsOk = true) : (idleSails s code status).memsOk = true :=
  memsOk_foldl_of (fun s p h => by simp [h]) hs

@[simp] theorem memsOk_abortWaiting (s : State) (p : Nat) : (abortWaiting s p).memsOk = s.memsOk := by simp [abortWaiting]

@[simp] theorem memsOk_orderlyShutdown (s : State) (code : Nat) (hs : s.memsOk = true) : (orderlyShutdown s code).memsOk = true := by simp [orderlyShutdown, hs]

theorem memsOk_execClkStepReqWrite (v : Fin 4) (s : State) (hs : s.memsOk = true) : (execClkStepReqWrite v s).MemsOk := by simp [execClkStepReqWrite, hs]

theorem memsOk_execGlideEnd (t : Dword) (s0 : State) (hs : s0.memsOk = true) : (execGlideEnd t s0).MemsOk := by
  simp only [execGlideEnd, Out.memsOk_next]
  split
  · exact hs
  · split
    · simp [hs]
    · refine memsOk_foldl_of (fun s p h => ?_) (by simp [hs])
      split <;> simp [h]

theorem memsOk_execCornerLockLoss (n : Fin 48) (corner : Fin 4) (t : Dword) (s0 : State) (hs : s0.memsOk = true) : (execCornerLockLoss n corner t s0).MemsOk := by simp [execCornerLockLoss, hs]

@[simp] theorem memsOk_requestGrant (s0 : State) : (requestGrant s0).memsOk = s0.memsOk := by
  simp only [requestGrant]
  (repeat' split) <;> simp

@[simp] theorem memsOk_loadController (s : State) (n : Nat) : (loadController s n).memsOk = s.memsOk := by simp [loadController]

@[simp] theorem memsOk_powerFails (s : State) (n code st : Nat) (hs : s.memsOk = true) : (powerFails s n code st).memsOk = true := by simp [powerFails, hs]

@[simp] theorem memsOk_fieldOn (s : State) (n : Nat) (hs : s.memsOk = true) : (fieldOn s n).memsOk = true := by simp [fieldOn, hs]

theorem memsOk_execFieldRelock (n : Fin 48) (t : Dword) (s0 : State) (hs : s0.memsOk = true) : (execFieldRelock n t s0).MemsOk := by simp [execFieldRelock, hs]

theorem memsOk_execRelockTimeout (n : Fin 48) (t : Dword) (s0 : State) (hs : s0.memsOk = true) : (execRelockTimeout n t s0).MemsOk := by simp [execRelockTimeout, hs]

theorem memsOk_execFieldLockTimeout (n : Fin 48) (t : Dword) (s0 : State) (hs : s0.memsOk = true) : (execFieldLockTimeout n t s0).MemsOk := by simp [execFieldLockTimeout, hs]

theorem memsOk_execRefOscCheck (stopA stopB stopM : Bool) (dAB dAM dBM : Nat) (t : Dword) (s0 : State) (hs : s0.memsOk = true) : (execRefOscCheck stopA stopB stopM dAB dAM dBM t s0).MemsOk := by
  simp [execRefOscCheck, hs]

theorem memsOk_execRefHoldTimeout (t : Dword) (s0 : State) (hs : s0.memsOk = true) : (execRefHoldTimeout t s0).MemsOk := by
  unfold execRefHoldTimeout
  split <;> simp [hs]

theorem memsOk_execTimeBaseSync (t : Dword) (s0 : State) (hs : s0.memsOk = true) : (execTimeBaseSync t s0).MemsOk := by simp [execTimeBaseSync, hs]

theorem memsOk_execClkTbSetGo (t : Dword) (s0 : State) (hs : s0.memsOk = true) : (execClkTbSetGo t s0).MemsOk := by simp [execClkTbSetGo, hs]

theorem memsOk_execClkTbLoRead (f : Fin 65) (t : Dword) (s0 : State) (hs : s0.memsOk = true) : (execClkTbLoRead f t s0).MemsOk := by simp [execClkTbLoRead, hs]

theorem memsOk_execSlewDone (t : Dword) (s : State) (hs : s.memsOk = true) : (execSlewDone t s).MemsOk := by simp [execSlewDone, hs]

theorem memsOk_execHostSwalWrite (p : Fin 64) (v : Fin 16) (s : State) (hs : s.memsOk = true) : (execHostSwalWrite p v s).MemsOk := by simp [execHostSwalWrite, hs]

/-! ### The crow's nest meter -/

@[simp] theorem State.memsOk_updCnm (s : State) (f : Cnm → Cnm) : (s.updCnm f).memsOk = s.memsOk := by simp [State.updCnm]

@[simp] theorem State.memsOk_updMeter (s : State) (f : Meter → Meter) : (s.updMeter f).memsOk = s.memsOk := by simp [State.updMeter]

@[simp] theorem memsOk_sendStart (s : State) : (sendStart s).memsOk = s.memsOk := by simp [sendStart]

theorem memsOk_execTallyStartSend (t : Dword) (s : State) (hs : s.memsOk = true) : (execTallyStartSend t s).MemsOk := by simp [execTallyStartSend, hs]

theorem memsOk_execTallyMarkSend (t : Dword) (s : State) (hs : s.memsOk = true) : (execTallyMarkSend t s).MemsOk := by simp [execTallyMarkSend, hs]

@[simp] theorem State.memsOk_meterDone (s : State) (m : Meter) : (s.meterDone m).memsOk = s.memsOk := by
  refine (memsOk_iter fun _ s => ?_).trans (State.memsOk_updMeter _ _)
  dsimp only
  split <;> simp

@[simp] theorem memsOk_powerDown (s : State) (mt : Nat) (r : MeterRead) : (powerDown s mt r).memsOk = s.memsOk := by simp [powerDown]

@[simp] theorem memsOk_takeTally (s : State) (kind : Nat) (ok0 ok1 : Bool) : (takeTally s kind ok0 ok1).1.memsOk = s.memsOk := by
  unfold takeTally
  (repeat' split) <;> simp

theorem memsOk_execMeterTallyStart (ok0 ok1 : Bool) (s : State) (hs : s.memsOk = true) : (execMeterTallyStart ok0 ok1 s).MemsOk := by
  have ht := memsOk_takeTally s 1 ok0 ok1
  simp only [execMeterTallyStart, Out.memsOk_next]
  split <;> simp_all

theorem memsOk_execMeterTallyTokens (ok0 ok1 : Bool) (s : State) (hs : s.memsOk = true) : (execMeterTallyTokens ok0 ok1 s).MemsOk := by
  have ht := memsOk_takeTally s 2 ok0 ok1
  simp only [execMeterTallyTokens, Out.memsOk_next]
  split <;> simp_all

theorem memsOk_execMeterTallyMark (ok0 ok1 : Bool) (s : State) (hs : s.memsOk = true) : (execMeterTallyMark ok0 ok1 s).MemsOk := by
  have ht := memsOk_takeTally s 3 ok0 ok1
  simp only [execMeterTallyMark, Out.memsOk_next]
  (repeat' split) <;> simp_all

theorem memsOk_execMeterTallyClose (ok0 ok1 : Bool) (mt : Nat) (r : MeterRead) (s : State) (hs : s.memsOk = true) : (execMeterTallyClose ok0 ok1 mt r s).MemsOk := by
  have ht := memsOk_takeTally s 4 ok0 ok1
  simp only [execMeterTallyClose, Out.memsOk_next]
  split <;> simp_all

theorem memsOk_execMeterInputLoss (mt : Nat) (r : MeterRead) (s : State) (hs : s.memsOk = true) : (execMeterInputLoss mt r s).MemsOk := by simp [execMeterInputLoss, hs]

theorem memsOk_execMeterPowerUp (restarted : Bool) (fresh : Option (Dword × Dword)) (mt : Nat) (s : State) (hs : s.memsOk = true) : (execMeterPowerUp restarted fresh mt s).MemsOk := by
  simp [execMeterPowerUp, hs]

theorem memsOk_execMeterIntervalEnd (r : MeterRead) (s : State) (hs : s.memsOk = true) : (execMeterIntervalEnd r s).MemsOk := by simp [execMeterIntervalEnd, hs]

theorem memsOk_execMeterSealEvent (s : State) (hs : s.memsOk = true) : (execMeterSealEvent s).MemsOk := by simp [execMeterSealEvent, hs]

@[simp] theorem memsOk_relaySees (s : State) (present bus : Bool) : (relaySees s present bus).memsOk = s.memsOk := by simp [relaySees]

@[simp] theorem memsOk_noteSerial (s : State) : (noteSerial s).memsOk = s.memsOk := by simp [noteSerial]

theorem memsOk_execCnmFetchGo (present bus : Bool) (s0 : State) (hs : s0.memsOk = true) : (execCnmFetchGo present bus s0).MemsOk := by simp [execCnmFetchGo, hs]

theorem memsOk_execCnmIntervalWrite (v : Fin 8) (s : State) (hs : s.memsOk = true) : (execCnmIntervalWrite v s).MemsOk := by simp [execCnmIntervalWrite, hs]

/-! ### Security -/

@[simp] theorem memsOk_drawn (s : State) : (drawn s).memsOk = s.memsOk := by simp [drawn]

theorem memsOk_execDrbgReseed (healthy : Bool) (s : State) (hs : s.memsOk = true) : (execDrbgReseed healthy s).MemsOk := by simp [execDrbgReseed, hs]

@[simp] theorem State.memsOk_updSpdm (s : State) (a : SpdmAt) (f : Spdm → Spdm) : (s.updSpdm a f).memsOk = s.memsOk := by simp [State.updSpdm]

@[simp] theorem memsOk_spdmErr (s : State) (code : Nat) : (spdmErr s code).memsOk = s.memsOk := by simp [spdmErr]

@[simp] theorem memsOk_spdmReply (s : State) (a : SpdmAt) (code len data : Nat) : (spdmReply s a code len data).memsOk = s.memsOk := by simp [spdmReply]

@[simp] theorem memsOk_spdmAsk {s : State} {a : SpdmAt} {phase : Nat} {go : State → State} (hg : ∀ s, (go s).memsOk = s.memsOk) :
    (spdmAsk s a phase go).memsOk = s.memsOk := by
  unfold spdmAsk
  (repeat' split) <;> simp [hg]

theorem memsOk_execGetVersion (a : SpdmAt) (s : State) (hs : s.memsOk = true) : (execGetVersion a s).MemsOk := by simp [execGetVersion, hs]

theorem memsOk_execGetCapabilities (a : SpdmAt) (ver : Fin 256) (s : State) (hs : s.memsOk = true) : (execGetCapabilities a ver s).MemsOk := by simp [execGetCapabilities, hs]

theorem memsOk_execNegotiateAlgorithms (a : SpdmAt) (offers : Bool) (s : State) (hs : s.memsOk = true) : (execNegotiateAlgorithms a offers s).MemsOk := by simp [execNegotiateAlgorithms, hs]

theorem memsOk_execGetDigests (a : SpdmAt) (s : State) (hs : s.memsOk = true) : (execGetDigests a s).MemsOk := by simp [execGetDigests, hs]

theorem memsOk_execGetCertificate (a : SpdmAt) (slot : Fin 8) (offset len : Nat) (s : State) (hs : s.memsOk = true) : (execGetCertificate a slot offset len s).MemsOk := by simp [execGetCertificate, hs]

theorem memsOk_execChallenge (a : SpdmAt) (slot : Fin 8) (transcript : BitVec 384) (s : State) (hs : s.memsOk = true) : (execChallenge a slot transcript s).MemsOk := by simp [execChallenge, hs]

theorem memsOk_execGetMeasurements (a : SpdmAt) (index : Fin 256) (sign : Bool) (transcript : BitVec 384) (s : State) (hs : s.memsOk = true) :
    (execGetMeasurements a index sign transcript s).MemsOk := by simp [execGetMeasurements, hs]

theorem memsOk_execKeyExchange (a : SpdmAt) (slot : Fin 8) (transcript : BitVec 384) (s : State) (hs : s.memsOk = true) : (execKeyExchange a slot transcript s).MemsOk := by
  simp only [execKeyExchange, Out.memsOk_next]
  refine (memsOk_spdmAsk fun s => ?_).trans hs
  (repeat' split) <;> simp

theorem memsOk_execFinish (a : SpdmAt) (id : Fin 2) (good : Bool) (s : State) (hs : s.memsOk = true) : (execFinish a id good s).MemsOk := by
  simp only [execFinish, Out.memsOk_next]
  refine (memsOk_spdmAsk fun s => ?_).trans hs
  (repeat' split) <;> simp

theorem memsOk_execEndSession (a : SpdmAt) (id : Fin 2) (s : State) (hs : s.memsOk = true) : (execEndSession a id s).MemsOk := by simp [execEndSession, hs]

theorem memsOk_execHeartbeat (a : SpdmAt) (id : Fin 2) (s : State) (hs : s.memsOk = true) : (execHeartbeat a id s).MemsOk := by simp [execHeartbeat, hs]

theorem memsOk_execChunkSend (a : SpdmAt) (handle : Fin 256) (seq : Fin 65536) (last : Bool) (s : State) (hs : s.memsOk = true) : (execChunkSend a handle seq last s).MemsOk := by simp [execChunkSend, hs]

theorem memsOk_execChunkGet (a : SpdmAt) (seq : Fin 65536) (s : State) (hs : s.memsOk = true) : (execChunkGet a seq s).MemsOk := by
  simp only [execChunkGet, Out.memsOk_next]
  refine (memsOk_spdmAsk fun s => ?_).trans hs
  (repeat' split) <;> simp

theorem memsOk_execIdeKm (id : Fin 2) (link k : Fin 4) (op : IdeOp) (fns : List (Fin 65)) (s : State) (hs : s.memsOk = true) : (execIdeKm id link k op fns s).MemsOk := by
  unfold execIdeKm
  split <;> simp [hs]

@[simp] theorem memsOk_keyReply (s : State) (p : Nat) (m : MbxMsg) (req : Option (BitVec 1024)) (status : Nat) (mpub : BitVec 776) (confirm : BitVec 384) :
    (keyReply s p m req status mpub confirm).memsOk = s.memsOk := by simp [keyReply]

@[simp] theorem memsOk_keyExch (s : State) (p : Nat) (req : Option (BitVec 1024)) : (keyExch s p req).memsOk = s.memsOk := by
  unfold keyExch
  (repeat' split) <;> simp

theorem memsOk_execKeyExch (p : Fin 64) (req : Option (BitVec 1024)) (s : State) (hs : s.memsOk = true) : (execKeyExch p req s).MemsOk := by simp [execKeyExch, hs]

@[simp] theorem memsOk_keyClear (s : State) (p : Nat) (req : Option (BitVec 1024)) : (keyClear s p req).memsOk = s.memsOk := by
  unfold keyClear
  (repeat' split) <;> simp

theorem memsOk_execKeyClear (p : Fin 64) (req : Option (BitVec 1024)) (s : State) (hs : s.memsOk = true) : (execKeyClear p req s).MemsOk := by simp [execKeyClear, hs]

@[simp] theorem memsOk_signkey (s : State) (point : Option (BitVec 776)) : (signkey s point).memsOk = s.memsOk := by
  unfold signkey
  (repeat' split) <;> simp

theorem memsOk_execSignkey (point : Option (BitVec 776)) (s : State) (hs : s.memsOk = true) : (execSignkey point s).MemsOk := by simp [execSignkey, hs]

/-! ### Recovery of a column -/

@[simp] theorem State.memsOk_updRecov (s : State) (p : Nat) (f : Recov → Recov) : (s.updRecov p f).memsOk = s.memsOk := by simp [State.updRecov]

theorem memsOk_execSpareCheckDone (n : Fin 48) (col : Fin 12) (pass : Bool) (s : State) (hs : s.memsOk = true) : (execSpareCheckDone n col pass s).MemsOk := by
  simp only [execSpareCheckDone]
  split <;> simp [hs]

@[simp] theorem memsOk_copyDown (s : State) (n col k row : Nat) (hs : s.memsOk = true) : (copyDown s n col k row).memsOk = true := by
  induction k generalizing s row with
  | zero => exact hs
  | succ k ih =>
    refine ih _ _ (State.memsOk_updCore_of (fun c hc => ?_) hs)
    obtain ⟨hp, hb, -⟩ := c.memsOk_iff.1 hc
    simp [hp, hb, State.memsOk_mast hs]

@[simp] theorem memsOk_shiftPages (s : State) (p key g : Nat) : (shiftPages s p key g).memsOk = s.memsOk := by simp [shiftPages]

@[simp] theorem memsOk_reloadColumn (s : State) (n col g : Nat) (hs : s.memsOk = true) : (reloadColumn s n col g).memsOk = true := by
  have h : ∀ ms, (s.eachCore ms (fun _ c => loadCore c)).memsOk = true := fun _ => State.memsOk_eachCore_of (fun _ _ hc => memsOk_loadCore hc) hs
  unfold reloadColumn
  split <;> simp [h, hs]

@[simp] theorem memsOk_mapWithoutCopy (s : State) (n : Nat) (dead : List Nat) : (mapWithoutCopy s n dead).memsOk = s.memsOk := by simp [mapWithoutCopy]

@[simp] theorem memsOk_endCopy (s : State) (key : Nat) (bad : Option Nat) : (endCopy s key bad).memsOk = s.memsOk := by simp [endCopy]

theorem memsOk_execColumnCopyDone (n : Fin 48) (col : Fin 12) (bad : Option (Fin 16 × Fin 0x400000)) (s : State) (hs : s.memsOk = true) :
    (execColumnCopyDone n col bad s).MemsOk := by
  simp only [execColumnCopyDone]
  (repeat' split) <;> simp [hs]

theorem memsOk_execColumnTestDone (n : Fin 48) (pass : Bool) (s : State) (hs : s.memsOk = true) : (execColumnTestDone n pass s).MemsOk := by
  have h1 : ∀ l : List Nat, (l.foldl (fun s m => (s.updField n (fun f => { f with furlRow := AMap.put f.furlRow (m % 12) (m % 192 / 12) })).updCore m eraseCore) s).memsOk = true :=
    fun l => memsOk_foldl_of (fun s m h => State.memsOk_updCore_of (fun c _ => memsOk_eraseCore c) (by simp [h])) hs
  simp only [execColumnTestDone, Out.memsOk_next]
  split
  · exact hs
  · split
    · exact hs
    · split <;> simp [h1, hs]

/-! ### The host interface -/

@[simp] theorem State.memsOk_updLink (s : State) (i : Nat) (f : HostLink → HostLink) : (s.updLink i f).memsOk = s.memsOk := by
  unfold State.updLink
  split <;> simp

@[simp] theorem memsOk_askReset (s : State) (p : Nat) : (askReset s p).memsOk = s.memsOk := by simp [askReset]

theorem memsOk_execPartitionReset (p : Fin 64) (t : Dword) (s : State) (hs : s.memsOk = true) : (execPartitionReset p t s).MemsOk := by simp [execPartitionReset, hs]

@[simp] theorem memsOk_dropStreams (s : State) (p : Nat) : (dropStreams s p).1.memsOk = s.memsOk := by simp [dropStreams]

@[simp] theorem memsOk_markFlr (s : State) (p : Nat) : (markFlr s p).memsOk = s.memsOk := by simp [markFlr]

@[simp] theorem memsOk_abortedWrite (s : State) (p : Nat) : (abortedWrite s p).memsOk = s.memsOk := by simp [abortedWrite]

@[simp] theorem memsOk_flrPartition (s : State) (p : Nat) : (flrPartition s p).memsOk = s.memsOk := by simp [flrPartition]

@[simp] theorem memsOk_noteRings (s : State) (i : Nat) : (noteRings s i).memsOk = s.memsOk := by simp [noteRings]

theorem memsOk_execHostFlr (f : Fin 65) (link : Fin 4) (t : Dword) (s0 : State) (hs : s0.memsOk = true) : (execHostFlr f link t s0).MemsOk := by simp [execHostFlr, hs]

@[simp] theorem memsOk_resetLink (s : State) (i : Nat) : (resetLink s i).memsOk = s.memsOk := by simp [resetLink]

theorem memsOk_execHostPerst (link : Fin 4) (s : State) (hs : s.memsOk = true) : (execHostPerst link s).MemsOk := by simp [execHostPerst, hs]

theorem memsOk_execHostLinkDown (link : Fin 4) (s : State) (hs : s.memsOk = true) : (execHostLinkDown link s).MemsOk := by simp [execHostLinkDown, hs]

theorem memsOk_execHostLinkUp (link : Fin 4) (rate : Fin 4) (width : Fin 32) (flit : Bool) (s : State) (hs : s.memsOk = true) : (execHostLinkUp link rate width flit s).MemsOk := by
  simp [execHostLinkUp, hs]

theorem memsOk_execPcieConfigWrite (link : Fin 4) (f : Fin 65) (master : Option Bool) (sriov : Option Bool) (numVfs : Option (Fin 65)) (s : State) (hs : s.memsOk = true) :
    (execPcieConfigWrite link f master sriov numVfs s).MemsOk := by simp [execPcieConfigWrite, hs]

theorem memsOk_execBadRegisterAccess (via : Option (Fin 64 × Fin 4)) (s : State) (hs : s.memsOk = true) : (execBadRegisterAccess via s).MemsOk := by
  unfold execBadRegisterAccess
  split <;> simp [hs]

theorem memsOk_execInfo (f : Fin 65) (s : State) (hs : s.memsOk = true) : (execInfo f s).MemsOk := by
  unfold execInfo
  split <;> simp [hs]

@[simp] theorem memsOk_autoLoad (s : State) (p : Nat) (file : Option Nat) (hs : s.memsOk = true) : (autoLoad s p file).memsOk = true := by
  unfold autoLoad
  split
  · exact hs
  · split
    · simp [hs]
    · simp only [State.memsOk_updReq, memsOk_holdMsg]
      refine State.memsOk_eachCore_of (fun m c hc => ?_) hs
      obtain ⟨hp, hb, hm⟩ := c.memsOk_iff.1 hc
      simp [hp, hb, Memory.wf_writeN _ _ _ hm]

theorem memsOk_execAutoLoad (p : Fin 64) (file : Option Nat) (s : State) (hs : s.memsOk = true) : (execAutoLoad p file s).MemsOk := by simp [execAutoLoad, hs]

/-! ### Restarts -/

@[simp] theorem memsOk_coldState (s : State) : (coldState s).memsOk = true := Tests.test_invariants_at_reset.2

@[simp] theorem memsOk_warmState (s : State) (cause : Nat) : (warmState s cause).memsOk = true := by simp [warmState]

@[simp] theorem memsOk_resetNow (s : State) (p : Nat) (hs : s.memsOk = true) : (resetNow s p).memsOk = true := by simp [resetNow, hs]

@[simp] theorem memsOk_hostRestart (s : State) : (hostRestart s).memsOk = true := memsOk_warmState _ _

theorem memsOk_execPinReset (t : Dword) (s : State) (hs : s.memsOk = true) : (execPinReset t s).MemsOk := by simp [execPinReset, hs]

theorem memsOk_execHostRestart (key : BitVec 16) (t : Dword) (s : State) (hs : s.memsOk = true) : (execHostRestart key t s).MemsOk := by simp [execHostRestart, hs]

@[simp] theorem memsOk_watchdogFlush (s : State) : (watchdogFlush s).memsOk = s.memsOk := by
  simp only [watchdogFlush]
  split <;> simp

theorem memsOk_execMastheadWatchdog (x : Timed Bool) (s0 : State) (hs : s0.memsOk = true) : (execMastheadWatchdog x s0).MemsOk := by simp [execMastheadWatchdog, hs]

@[simp] theorem memsOk_fieldsOff (s : State) : (fieldsOff s).memsOk = true := (rfl)

theorem memsOk_execHoldupFieldsOff (t : Dword) (s : State) (hs : s.memsOk = true) : (execHoldupFieldsOff t s).MemsOk := by simp [execHoldupFieldsOff, hs]

theorem memsOk_execHoldupRimOff (t : Dword) (s : State) (hs : s.memsOk = true) : (execHoldupRimOff t s).MemsOk := by simp [execHoldupRimOff, hs]

theorem memsOk_execInputValid (s : State) (hs : s.memsOk = true) : (execInputValid s).MemsOk := by simp [execInputValid, hs]

/-! ### Power -/

theorem memsOk_execInputDip (s : State) (hs : s.memsOk = true) : (execInputDip s).MemsOk := by simp [execInputDip, hs]

@[simp] theorem memsOk_enterInput (s : State) (st volt : Nat) : (enterInput s st volt).memsOk = s.memsOk := by simp [enterInput]

theorem memsOk_execInputLow (volt : BitVec 16) (t : Dword) (s : State) (hs : s.memsOk = true) : (execInputLow volt t s).MemsOk := by simp [execInputLow, hs]

theorem memsOk_execInputHigh (volt : BitVec 16) (t : Dword) (s : State) (hs : s.memsOk = true) : (execInputHigh volt t s).MemsOk := by simp [execInputHigh, hs]

@[simp] theorem State.memsOk_updThm (s : State) (f : Thm → Thm) : (s.updThm f).memsOk = s.memsOk := by simp [State.updThm]

@[simp] theorem memsOk_thmLog (s : State) (n c kind tier value : Nat) : (thmLog s n c kind tier value).memsOk = s.memsOk := by simp [thmLog]

@[simp] theorem memsOk_dblAll (s : State) (b : Nat) : (dblAll s b).memsOk = s.memsOk := by simp [dblAll]

@[simp] theorem memsOk_strike (s : State) (cause : Nat) (restore : Bool) (hs : s.memsOk = true) : (strike s cause restore).memsOk = true := by simp [strike, hs]

theorem memsOk_execInputLoss (volt : BitVec 16) (t : Dword) (s0 : State) (hs : s0.memsOk = true) : (execInputLoss volt t s0).MemsOk := by simp [execInputLoss, hs]

theorem memsOk_execHoldupStoreCharged (s : State) (hs : s.memsOk = true) : (execHoldupStoreCharged s).MemsOk := by simp [execHoldupStoreCharged, hs]

theorem memsOk_execAvsTrimTick (core : Fin 9216) (margin : Nat) (s : State) (hs : s.memsOk = true) : (execAvsTrimTick core margin s).MemsOk := by simp [execAvsTrimTick, hs]

theorem memsOk_execTimingNearMiss (core : Fin 9216) (s : State) (hs : s.memsOk = true) : (execTimingNearMiss core s).MemsOk := by simp [execTimingNearMiss, hs]

theorem memsOk_execSlowCoreTimeout (core : Fin 9216) (t : Dword) (s : State) (hs : s.memsOk = true) : (execSlowCoreTimeout core t s).MemsOk := by simp [execSlowCoreTimeout, hs]

@[simp] theorem memsOk_convRead (s : State) (r : Nat × Nat × Bool × Nat) : (convRead s r).memsOk = s.memsOk := by simp [convRead]

@[simp] theorem memsOk_takePower (s : State) (i : PowerIn) (hs : s.memsOk = true) : (takePower s i).memsOk = true := by
  simp only [takePower, memsOk_evrSample]
  rw [memsOk_foldl fun s r => by simp]
  refine memsOk_foldl_of (fun s n h => by simp [h]) ?_
  simpa using hs

@[simp] theorem memsOk_setPwrSwal (s : State) (p v : Nat) : (setPwrSwal s p v).memsOk = s.memsOk := by simp [setPwrSwal]

@[simp] theorem memsOk_setLimit (s : State) (v : Nat) (hs : s.memsOk = true) : (setLimit s v).memsOk = true := by simp [setLimit, hs]

@[simp] theorem memsOk_lowerPower (s : State) (hs : s.memsOk = true) : (lowerPower s).memsOk = true := by
  unfold lowerPower
  split <;> simp [hs]

@[simp] theorem memsOk_raisePower (s : State) (hs : s.memsOk = true) : (raisePower s).memsOk = true := by
  unfold raisePower
  (repeat' split) <;> simp [hs]

@[simp] theorem memsOk_clampPower (s : State) (hs : s.memsOk = true) : (clampPower s).memsOk = true := by simp [clampPower, hs]

theorem memsOk_execPowerPolicyTick (i : PowerIn) (t : Dword) (s0 : State) (hs : s0.memsOk = true) : (execPowerPolicyTick i t s0).MemsOk := by simp [execPowerPolicyTick, hs]

@[simp] theorem memsOk_regFails (s : State) (m value : Nat) (hs : s.memsOk = true) : (regFails s m value).memsOk = true := by simp [regFails, hs]

theorem memsOk_execPhaseFailure (core : Fin 9216) (phase : Fin 4) (value : BitVec 16) (t : Dword) (s0 : State) (hs : s0.memsOk = true) : (execPhaseFailure core phase value t s0).MemsOk := by
  simp [execPhaseFailure, hs]

theorem memsOk_execRegulatorFailure (core : Fin 9216) (value : BitVec 16) (t : Dword) (s : State) (hs : s.memsOk = true) : (execRegulatorFailure core value t s).MemsOk := by
  simp [execRegulatorFailure, hs]

theorem memsOk_execCoreShort (core : Fin 9216) (value : BitVec 16) (t : Dword) (s : State) (hs : s.memsOk = true) : (execCoreShort core value t s).MemsOk := by simp [execCoreShort, hs]

@[simp] theorem memsOk_raiseFieldPort (s : State) (n code : Nat) : (raiseFieldPort s n code).memsOk = s.memsOk := by simp [raiseFieldPort]

@[simp] theorem memsOk_tripNow (s : State) (n value : Nat) (hs : s.memsOk = true) : (tripNow s n value).memsOk = true := by simp [tripNow, hs]

theorem memsOk_execConverterFailure (k : Fin 96) (value : BitVec 16) (t : Dword) (s0 : State) (hs : s0.memsOk = true) : (execConverterFailure k value t s0).MemsOk := by simp [execConverterFailure, hs]

theorem memsOk_execFieldSupplyShort (n : Fin 48) (value : BitVec 16) (t : Dword) (s : State) (hs : s.memsOk = true) : (execFieldSupplyShort n value t s).MemsOk := by simp [execFieldSupplyShort, hs]

@[simp] theorem memsOk_rimPower (s : State) : (rimPower s).memsOk = true := by simp [rimPower]

theorem memsOk_execRimConverterFailure (i : Fin 2) (value : BitVec 16) (t : Dword) (s0 : State) (hs : s0.memsOk = true) : (execRimConverterFailure i value t s0).MemsOk := by
  simp [execRimConverterFailure, hs]

theorem memsOk_execPhaseLimitExpire (core : Fin 9216) (t : Dword) (s0 : State) (hs : s0.memsOk = true) : (execPhaseLimitExpire core t s0).MemsOk := by
  unfold execPhaseLimitExpire
  split <;> simp [hs]

@[simp] theorem memsOk_ramp (s : State) (n : Nat) : (ramp s n).memsOk = s.memsOk := by simp [ramp]

theorem memsOk_execQuietWindowGrant (n : Fin 48) (peaks : List (Nat × Nat)) (t : Dword) (s : State) (hs : s.memsOk = true) : (execQuietWindowGrant n peaks t s).MemsOk := by
  simp [execQuietWindowGrant, hs]

theorem memsOk_execGrantTimeout (n : Fin 48) (t : Dword) (s : State) (hs : s.memsOk = true) : (execGrantTimeout n t s).MemsOk := by simp [execGrantTimeout, hs]

theorem memsOk_execFieldRampTimeout (n : Fin 48) (value : BitVec 16) (t : Dword) (s : State) (hs : s.memsOk = true) : (execFieldRampTimeout n value t s).MemsOk := by simp [execFieldRampTimeout, hs]

/-! ### Heat -/

@[simp] theorem State.memsOk_updCoreThm (s : State) (m : Nat) (f : CoreThm → CoreThm) : (s.updCoreThm m f).memsOk = s.memsOk := by simp [State.updCoreThm]

@[simp] theorem State.memsOk_updPartThm (s : State) (p : Nat) (f : PartThm → PartThm) : (s.updPartThm p f).memsOk = s.memsOk := by simp [State.updPartThm]

@[simp] theorem memsOk_raiseCorePort (s : State) (m code : Nat) : (raiseCorePort s m code).memsOk = s.memsOk := by simp [raiseCorePort]

@[simp] theorem memsOk_sensorFails (s : State) (m tier : Nat) (v : Int) : (sensorFails s m tier v).memsOk = s.memsOk := by simp [sensorFails]

@[simp] theorem memsOk_setThmSwal (s : State) (p v : Nat) : (setThmSwal s p v).memsOk = s.memsOk := by simp [setThmSwal]

@[simp] theorem memsOk_reachLimit (s : State) (m tier : Nat) (v : Int) : (reachLimit s m tier v).memsOk = s.memsOk := by simp [reachLimit]

@[simp] theorem memsOk_judgeCore (s : State) (m : Nat) : (judgeCore s m).memsOk = s.memsOk := by
  simp only [judgeCore]
  split <;> simp

theorem memsOk_execCoreSensorSample (core : Fin 9216) (diode ring : Option Int) (t : Dword) (s0 : State) (hs : s0.memsOk = true) : (execCoreSensorSample core diode ring t s0).MemsOk := by
  simp [execCoreSensorSample, hs]

theorem memsOk_execDisagreeTimeout (core : Fin 9216) (t : Dword) (s0 : State) (hs : s0.memsOk = true) : (execDisagreeTimeout core t s0).MemsOk := by
  simp only [execDisagreeTimeout]
  split <;> simp [hs]

theorem memsOk_execStage1Release (core : Fin 9216) (t : Dword) (s0 : State) (hs : s0.memsOk = true) : (execStage1Release core t s0).MemsOk := by
  simp only [execStage1Release]
  split <;> simp [hs]

@[simp] theorem memsOk_noteCalm (s : State) (p : Nat) : (noteCalm s p).memsOk = s.memsOk := by simp [noteCalm]

theorem memsOk_execTierSensorSample (core : Fin 9216) (tier : Fin 4) (reading : Option Int) (t : Dword) (s0 : State) (hs : s0.memsOk = true) :
    (execTierSensorSample core tier reading t s0).MemsOk := by simp [execTierSensorSample, hs]

theorem memsOk_execThermalDemandTick (t : Dword) (s0 : State) (hs : s0.memsOk = true) : (execThermalDemandTick t s0).MemsOk := by simp [execThermalDemandTick, hs]

theorem memsOk_execThermalTrip (n : Fin 48) (core : Fin 192) (tier : Fin 4) (value : BitVec 8) (t : Dword) (s : State) (hs : s.memsOk = true) :
    (execThermalTrip n core tier value t s).MemsOk := by
  simp [execThermalTrip, hs]

@[simp] theorem memsOk_takeTray (s : State) (missed : Bool) (ti to' : Option Int) (fl : Option Nat) : (takeTray s missed ti to' fl).memsOk = s.memsOk := by
  unfold takeTray
  extract_lets t s1 s3 s4
  have h1 : s1.memsOk = s.memsOk := State.memsOk_updThm _ _
  have h3 : s3.memsOk = s.memsOk := by
    simp only [s3]
    split <;> simp [h1]
  have h4 : s4.memsOk = s.memsOk := by
    simp only [s4]
    split <;> simp [h3]
  split <;> simp [h4]

@[simp] theorem memsOk_liftStrike (s : State) (cool : Nat) : (liftStrike s cool).memsOk = s.memsOk := by simp [liftStrike]

@[simp] theorem memsOk_judgeTray (s : State) (ti to' : Option Int) (fl : Option Nat) (mean : Option (Int × Nat)) (hs : s.memsOk = true) : (judgeTray s ti to' fl mean).memsOk = true := by
  simp only [judgeTray]
  (repeat' split) <;> simp [hs]

theorem memsOk_execTrayPoll (r : Option (BitVec 96)) (t : Dword) (s0 : State) (hs : s0.memsOk = true) : (execTrayPoll r t s0).MemsOk := by
  simp only [execTrayPoll]
  split <;> simp [hs]

theorem memsOk_execGatingTick (t : Dword) (s0 : State) (hs : s0.memsOk = true) : (execGatingTick t s0).MemsOk := by simp [execGatingTick, hs]

theorem memsOk_execStrikeRestoreDeadline (t : Dword) (s0 : State) (hs : s0.memsOk = true) : (execStrikeRestoreDeadline t s0).MemsOk := by
  unfold execStrikeRestoreDeadline
  split <;> simp [hs]

theorem memsOk_execThmCtrlWrite (w : Word) (s : State) (hs : s.memsOk = true) : (execThmCtrlWrite w s).MemsOk := by simp [execThmCtrlWrite, hs]

/-! ### The configuration store -/

@[simp] theorem State.memsOk_updNvm (s : State) (d : Bool) (f : NvmDev → NvmDev) : (s.updNvm d f).memsOk = s.memsOk := by simp [State.updNvm]

@[simp] theorem memsOk_noteCopy (s : State) (b ok : Bool) : (noteCopy s b ok).memsOk = s.memsOk := by simp [noteCopy]

theorem memsOk_execRwpWrite (i : Fin 64) (v : Word) (s : State) (hs : s.memsOk = true) : (execRwpWrite i v s).MemsOk := by simp [execRwpWrite, hs]

theorem memsOk_execRwpRecordProgrammed (ok0 ok1 : Bool) (s : State) (hs : s.memsOk = true) : (execRwpRecordProgrammed ok0 ok1 s).MemsOk := by simp [execRwpRecordProgrammed, hs]

@[simp] theorem memsOk_loadRwp (s : State) : (loadRwp s).memsOk = s.memsOk := by simp [loadRwp]

theorem memsOk_execCfgCopyGo (copy : Bool) (link : Fin 4) (s : State) (hs : s.memsOk = true) : (execCfgCopyGo copy link s).MemsOk := by simp [execCfgCopyGo, hs]

@[simp] theorem memsOk_copyDone (s : State) (img : Option Nat) (progOk : Bool) : (copyDone s img progOk).memsOk = s.memsOk := by
  unfold copyDone
  (repeat' split) <;> simp

theorem memsOk_execCfgCopyDone (img : Option Nat) (progOk : Bool) (s : State) (hs : s.memsOk = true) : (execCfgCopyDone img progOk s).MemsOk := by simp [execCfgCopyDone, hs]

@[simp] theorem memsOk_notLoaded (s : State) (ofs : Nat) : (notLoaded s ofs).memsOk = s.memsOk := by simp [notLoaded]

@[simp] theorem memsOk_loadIf {s : State} {ok : Bool} {ofs : Nat} {f : State → State} (hf : ∀ s, (f s).memsOk = s.memsOk) : (loadIf s ok ofs f).memsOk = s.memsOk := by
  unfold loadIf
  (repeat' split) <;> simp [hf]

@[simp] theorem memsOk_loadPair {s : State} {on off ofs : Nat} {f : State → State} (hf : ∀ s, (f s).memsOk = s.memsOk) : (loadPair s on off ofs f).memsOk = s.memsOk := by
  unfold loadPair
  (repeat' split) <;> simp [hf]

@[simp] theorem memsOk_loadModule (s : State) (img : Nat) : (loadModule s img).memsOk = s.memsOk := by
  unfold loadModule
  extract_lets b bit s1 s2 s3 s4 s5 s6 s7 s8 fab s9 s10 s11 s12
  rw [State.memsOk_updSec, State.memsOk_updCnm, State.memsOk_updThm, State.memsOk_updPwr]
  calc s12.memsOk = s11.memsOk := memsOk_loadIf fun _ => rfl
    _ = s10.memsOk := memsOk_loadIf fun _ => rfl
    _ = s9.memsOk := memsOk_loadIf fun _ => rfl
    _ = s8.memsOk := rfl
    _ = s7.memsOk := memsOk_loadPair fun _ => rfl
    _ = s6.memsOk := rfl
    _ = s5.memsOk := memsOk_loadPair fun _ => rfl
    _ = s4.memsOk := memsOk_loadIf fun _ => State.memsOk_updMeter _ _
    _ = s2.memsOk := by simp [s4, s3]
    _ = s1.memsOk := memsOk_loadIf fun _ => rfl
    _ = s.memsOk := rfl

@[simp] theorem memsOk_loadPlan (s : State) (img : Nat) : (loadPlan s img).memsOk = s.memsOk := by
  refine (memsOk_foldl fun s i => ?_).trans ?_ <;> rfl

@[simp] theorem memsOk_loadPolicy (img p : Nat) (s : State) : (loadPolicy img p s).memsOk = s.memsOk := by simp [loadPolicy]

@[simp] theorem memsOk_loadConfig (s : State) (img : Nat) (b : Bool) : (loadConfig s img b).memsOk = s.memsOk := by simp [loadConfig]

@[simp] theorem memsOk_makePartition (s : State) (p : Nat) (r : BitVec 1024) : (makePartition s p r).memsOk = s.memsOk := by simp [makePartition]

@[simp] theorem memsOk_makePartitions (s : State) (img : Nat) : (makePartitions s img).memsOk = s.memsOk := by simp [makePartitions]

/-! ### Firmware -/

@[simp] theorem State.memsOk_updFw (s : State) (f : Fw → Fw) : (s.updFw f).memsOk = s.memsOk := by simp [State.updFw]

@[simp] theorem memsOk_writeDir (s : State) (d : FwDir) : (writeDir s d).memsOk = s.memsOk := by simp [writeDir]

@[simp] theorem memsOk_clearAlt (s : State) : (clearAlt s).memsOk = s.memsOk := by simp [clearAlt]

@[simp] theorem memsOk_romBoot (s0 : State) : (romBoot s0).memsOk = s0.memsOk := by
  simp only [romBoot]
  split <;> simp

@[simp] theorem memsOk_convertSettings (s : State) (img : Nat) : (convertSettings s img).1.memsOk = s.memsOk := by
  simp only [convertSettings]
  (repeat' split) <;> simp

@[simp] theorem memsOk_fwEnd (s : State) (body : Option (BitVec 512)) (code : Nat) (payload : List (Nat × Nat × Nat)) : (fwEnd s body code payload).memsOk = s.memsOk := by
  unfold fwEnd
  split <;> simp

@[simp] theorem memsOk_fwAnswer (s : State) (m : MbxMsg) (code : Nat) (sig : Bool) : (fwAnswer s m code sig).memsOk = s.memsOk := by simp [fwAnswer]

theorem memsOk_execFwStage (s : State) (hs : s.memsOk = true) : (execFwStage s).MemsOk := by
  unfold execFwStage
  split <;> simp [hs]

@[simp] theorem memsOk_stageDone (s : State) (pkg : Option PkgIn) (progOk : Bool) : (stageDone s pkg progOk).memsOk = s.memsOk := by
  unfold stageDone
  (repeat' split) <;> simp

theorem memsOk_execFwStageComplete (pkg : Option PkgIn) (progOk : Bool) (s : State) (hs : s.memsOk = true) : (execFwStageComplete pkg progOk s).MemsOk := by simp [execFwStageComplete, hs]

@[simp] theorem memsOk_endAct (s : State) (a : FwAct) : (endAct s a).memsOk = s.memsOk := by
  unfold endAct
  split <;> simp

@[simp] theorem memsOk_nextKind (s : State) (a : FwAct) (ks : List Nat) (hs : s.memsOk = true) : (nextKind s a ks).memsOk = true := by
  induction ks generalizing s with
  | nil => simp [nextKind, hs]
  | cons k r ih =>
    simp only [nextKind]
    (repeat' split) <;> simp [ih, hs]

@[simp] theorem memsOk_beginAct (s : State) (a : FwAct) (hs : s.memsOk = true) : (beginAct s a).memsOk = true := by simp [beginAct, hs]

@[simp] theorem memsOk_fwNotices (s : State) (cancel : Bool) (time : Dword) (sig : BitVec 768) : (fwNotices s cancel time sig).memsOk = s.memsOk := by
  refine memsOk_foldl fun s x => ?_
  split <;> simp

@[simp] theorem memsOk_cancelAct (s : State) (code : Nat) : (cancelAct s code).memsOk = s.memsOk := by
  unfold cancelAct
  split <;> simp

@[simp] theorem memsOk_cancelRig (s : State) (a : FwAct) : (cancelRig s a).memsOk = s.memsOk := by simp [cancelRig]

theorem memsOk_execFwActivate (t : Dword) (s0 : State) (hs : s0.memsOk = true) : (execFwActivate t s0).MemsOk := by
  simp only [execFwActivate]
  (repeat' split) <;> simp [hs]

theorem memsOk_execFwActTime (t : Dword) (s : State) (hs : s.memsOk = true) : (execFwActTime t s).MemsOk := by
  unfold execFwActTime
  split <;> simp [hs]

theorem memsOk_execFwRigNoticeDeadline (t : Dword) (s0 : State) (hs : s0.memsOk = true) : (execFwRigNoticeDeadline t s0).MemsOk := by
  unfold execFwRigNoticeDeadline
  split <;> simp [hs]

theorem memsOk_execFwActivationNotice (peer : Dword) (cancel : Bool) (time : Dword) (sig : BitVec 768) (t : Dword) (s0 : State) (hs : s0.memsOk = true) :
    (execFwActivationNotice peer cancel time sig t s0).MemsOk := by
  simp only [execFwActivationNotice]
  (repeat' split) <;> simp [hs]

theorem memsOk_execFwAbort (t : Dword) (s0 : State) (hs : s0.memsOk = true) : (execFwAbort t s0).MemsOk := by
  simp only [execFwAbort]
  (repeat' split) <;> simp [hs]

@[simp] theorem memsOk_kindDone (s : State) (a : FwAct) (hs : s.memsOk = true) : (kindDone s a).memsOk = true := by simp [kindDone, hs]

theorem memsOk_execMhSwitchDone (s : State) (hs : s.memsOk = true) : (execMhSwitchDone s).MemsOk := by
  simp only [execMhSwitchDone]
  (repeat' split) <;> simp [hs]

@[simp] theorem memsOk_fcNext (s : State) (a : FwAct) (hs : s.memsOk = true) : (fcNext s a).memsOk = true := by simp [fcNext, hs]

theorem memsOk_execFcFieldActivate (n : Fin 48) (ends : Bool) (t : Dword) (s0 : State) (hs : s0.memsOk = true) : (execFcFieldActivate n ends t s0).MemsOk := by
  simp only [execFcFieldActivate]
  split <;> simp [hs]

theorem memsOk_execRioActivateDone (i : Fin 4) (s : State) (hs : s.memsOk = true) : (execRioActivateDone i s).MemsOk := by
  unfold execRioActivateDone
  split <;> simp [hs]

theorem memsOk_execFwConfirm (progOk : Bool) (s : State) (hs : s.memsOk = true) : (execFwConfirm progOk s).MemsOk := by
  unfold execFwConfirm
  split <;> simp [hs]

@[simp] theorem memsOk_revertKinds (s : State) (ks : List Nat) : (revertKinds s ks).memsOk = s.memsOk := by simp [revertKinds]

theorem memsOk_execFwRevert (t : Dword) (s0 : State) (hs : s0.memsOk = true) : (execFwRevert t s0).MemsOk := by
  unfold execFwRevert
  split <;> simp [hs]

theorem memsOk_execFwFallback (progOk : Bool) (s : State) (hs : s.memsOk = true) : (execFwFallback progOk s).MemsOk := by
  simp only [execFwFallback]
  (repeat' split) <;> simp [hs]

@[simp] theorem memsOk_autoReverted (s : State) : (autoReverted s).memsOk = s.memsOk := by simp [autoReverted]

theorem memsOk_execFwMhTrialTimeout (t : Dword) (s0 : State) (hs : s0.memsOk = true) : (execFwMhTrialTimeout t s0).MemsOk := by simp [execFwMhTrialTimeout, hs]

theorem memsOk_execFcHeartbeatLoss (n : Fin 48) (t : Dword) (s0 : State) (hs : s0.memsOk = true) : (execFcHeartbeatLoss n t s0).MemsOk := by simp [execFcHeartbeatLoss, hs]

/-! ### Start-up -/

@[simp] theorem memsOk_railsOn (s : State) : (railsOn s).memsOk = s.memsOk := by simp [railsOn]

@[simp] theorem memsOk_startRecorder (s : State) (kept : Bool) : (startRecorder s kept).memsOk = s.memsOk := by simp [startRecorder]

@[simp] theorem memsOk_enterSafe (s : State) : (enterSafe s).memsOk = s.memsOk := by simp [enterSafe]

@[simp] theorem memsOk_stepFour (s : State) (i : StartIn) : (stepFour s i).memsOk = s.memsOk := by simp [stepFour]

@[simp] theorem memsOk_stepFive (s : State) : (stepFive s).memsOk = s.memsOk := by
  simp only [stepFive]
  split <;> simp

@[simp] theorem memsOk_stepSix (s : State) (i : StartIn) : (stepSix s i).memsOk = s.memsOk := by simp [stepSix]

@[simp] theorem memsOk_startGlide (s : State) (k : Nat) : (startGlide s k).memsOk = s.memsOk := by simp [startGlide]

@[simp] theorem memsOk_stepSeven (s : State) : (stepSeven s).memsOk = s.memsOk := by simp [stepSeven]

@[simp] theorem memsOk_stepEight (s : State) (i : StartIn) (hs : s.memsOk = true) : (stepEight s i).memsOk = true := by
  unfold stepEight
  extract_lets fails s1 s2 s3 s4
  have h1 : s1.memsOk = true := by
    dsimp only [s1]
    rw [memsOk_foldl fun s x => ?_]
    · exact hs
    · split <;> simp
  have h2 : s2.memsOk = true := memsOk_foldl_of (fun s m h => by simp [h]) h1
  have h3 : s3.memsOk = true := by simp [s3, h2]
  have h4 : s4.memsOk = true := by simp [s4, h3]
  exact h4

@[simp] theorem memsOk_startField (ts : List TestFail) (s : State) (n : Nat) : (startField ts s n).memsOk = s.memsOk := by simp [startField]

@[simp] theorem memsOk_stepNine (s : State) : (stepNine s).memsOk = s.memsOk := by simp [stepNine]

@[simp] theorem memsOk_stepTen (s : State) : (stepTen s).memsOk = s.memsOk := by simp [stepTen]

@[simp] theorem memsOk_stepEleven (s : State) (hs : s.memsOk = true) : (stepEleven s).memsOk = true := by simp [stepEleven, hs]

@[simp] theorem memsOk_goReady (s : State) (t : Dword) : (goReady s t).memsOk = s.memsOk := by simp [goReady]

theorem memsOk_execStartUpStepDone (i : StartIn) (t : Dword) (s0 : State) (hs : s0.memsOk = true) : (execStartUpStepDone i t s0).MemsOk := by
  simp only [execStartUpStepDone]
  (repeat' split) <;> simp [hs]

/-! ### Registers -/

theorem memsOk_execElogPop (l : LogSel) (s : State) (hs : s.memsOk = true) : (execElogPop l s).MemsOk := by
  unfold execElogPop
  split <;> simp [hs]

theorem memsOk_execViolRecordClear (core : Fin 9216) (s : State) (hs : s.memsOk = true) : (execViolRecordClear core s).MemsOk := by simp [execViolRecordClear, hs]

theorem memsOk_execIllRecordClear (core : Fin 9216) (s : State) (hs : s.memsOk = true) : (execIllRecordClear core s).MemsOk := by simp [execIllRecordClear, hs]

theorem memsOk_execMstCtrlWrite (w : Word) (s : State) (hs : s.memsOk = true) : (execMstCtrlWrite w s).MemsOk := by simp [execMstCtrlWrite, hs]

@[simp] theorem memsOk_rrWrite (s : State) (p : Nat) (f : RingRead → RingRead) : (rrWrite s p f).memsOk = s.memsOk := by simp [rrWrite]

@[simp] theorem memsOk_stageWrite (s : State) (p : Nat) (f : Staging → Staging) : (stageWrite s p f).memsOk = s.memsOk := by simp [stageWrite]

@[simp] theorem memsOk_regWrite (s : State) (r : RegWrite) : (regWrite s r).memsOk = s.memsOk := by
  unfold regWrite
  split <;> simp

theorem memsOk_execRegisterWrite (r : RegWrite) (s : State) (hs : s.memsOk = true) : (execRegisterWrite r s).MemsOk := by simp [execRegisterWrite, hs]

@[simp] theorem memsOk_sampleCore (s : State) (m : Nat) : (sampleCore s m).memsOk = s.memsOk := by simp [sampleCore]

@[simp] theorem memsOk_sampleTier (s : State) (m k : Nat) : (sampleTier s m k).memsOk = s.memsOk := by
  unfold sampleTier
  split <;> simp

@[simp] theorem memsOk_sampleSwal (s : State) (p : Nat) : (sampleSwal s p).memsOk = s.memsOk := by simp [sampleSwal]

@[simp] theorem memsOk_sampleDrops (s : State) : (sampleDrops s).memsOk = s.memsOk := by simp [sampleDrops]

theorem memsOk_execEvrSecondSample (t : Dword) (s0 : State) (hs : s0.memsOk = true) : (execEvrSecondSample t s0).MemsOk := by simp [execEvrSecondSample, hs]

/-! ### Buses and failed reads -/

@[simp] theorem State.memsOk_updPins (s : State) (f : Pins → Pins) : (s.updPins f).memsOk = s.memsOk := by simp [State.updPins]

theorem memsOk_execPldmGetPdr (handle : Nat) (s : State) (hs : s.memsOk = true) : (execPldmGetPdr handle s).MemsOk := by simp [execPldmGetPdr, hs]

theorem memsOk_execPldmGetSensorReading (x : Sensor) (s : State) (hs : s.memsOk = true) : (execPldmGetSensorReading x s).MemsOk := by simp [execPldmGetSensorReading, hs]

theorem memsOk_execI3cDynamicAddress (crow : Bool) (addr : Fin 128) (s : State) (hs : s.memsOk = true) : (execI3cDynamicAddress crow addr s).MemsOk := by simp [execI3cDynamicAddress, hs]

@[simp] theorem memsOk_setPort (s : State) (i : Nat) (up : Bool) : (setPort s i up).memsOk = s.memsOk := by simp [setPort]

theorem memsOk_execEthernetLinkDown (i : Fin 2) (s : State) (hs : s.memsOk = true) : (execEthernetLinkDown i s).MemsOk := by simp [execEthernetLinkDown, hs]

theorem memsOk_execEthernetLinkUp (i : Fin 2) (s : State) (hs : s.memsOk = true) : (execEthernetLinkUp i s).MemsOk := by simp [execEthernetLinkUp, hs]

theorem memsOk_execEthernetFrame (i : Fin 2) (_use : EthUse) (len : Fin 9217) (s : State) (hs : s.memsOk = true) : (execEthernetFrame i _use len s).MemsOk := by simp [execEthernetFrame, hs]

theorem memsOk_execPtpMessage (i : Fin 2) (now : Dword) (t : Dword) (s0 : State) (hs : s0.memsOk = true) : (execPtpMessage i now t s0).MemsOk := by
  simp only [execPtpMessage]
  (repeat' split) <;> simp [hs]

@[simp] theorem memsOk_promptReadFails (s : State) (p q : Nat) (sub : BitVec 512) (t : Dword) : (promptReadFails s p q sub t).memsOk = s.memsOk := by simp [promptReadFails]

theorem memsOk_execHostReadTimeout (r : ReadItem) (t : Dword) (s0 : State) (hs : s0.memsOk = true) : (execHostReadTimeout r t s0).MemsOk := by
  unfold execHostReadTimeout
  split <;> simp [hs]

/-! ### The sampler -/

theorem memsOk_execVsmpRng (q : Issue) (w : BitVec 44) (s : State) (hs : s.memsOk = true) : (execVsmpRng q w s).MemsOk := by simp [execVsmpRng, hs]

theorem memsOk_execVsmpTemp (q : Issue) (w : BitVec 44) (s : State) (hs : s.memsOk = true) : (execVsmpTemp q w s).MemsOk := by simp [execVsmpTemp, hs]

theorem memsOk_execVsmpTopk (q : Issue) (w : BitVec 44) (s : State) (hs : s.memsOk = true) : (execVsmpTopk q w s).MemsOk := by simp [execVsmpTopk, hs]

theorem memsOk_execVsmpTopp (q : Issue) (w : BitVec 44) (s : State) (hs : s.memsOk = true) : (execVsmpTopp q w s).MemsOk := by simp [execVsmpTopp, hs]

theorem memsOk_execVsmpAmask (q : Issue) (w : BitVec 44) (s : State) (hs : s.memsOk = true) : (execVsmpAmask q w s).MemsOk := by simp [execVsmpAmask, hs]

theorem memsOk_execVsmpDraw (q : Issue) (w : BitVec 44) (s : State) (hs : s.memsOk = true) : (execVsmpDraw q w s).MemsOk := by simp [execVsmpDraw, hs]

theorem memsOk_execVsmpAccept (q : Issue) (w : BitVec 44) (s : State) (hs : s.memsOk = true) : (execVsmpAccept q w s).MemsOk := by simp [execVsmpAccept, hs]

theorem memsOk_execVsmpCommit (q : Issue) (wt : Timed (BitVec 44)) (s : State) (hs : s.memsOk = true) : (execVsmpCommit q wt s).MemsOk := by
  simp only [execVsmpCommit, Out.memsOk_next]
  refine memsOk_issue_of (fun s t hs => memsOk_legalOr_of (fun s => rfl) (fun s hs => ?_) hs) hs
  split <;> simp [hs]

/-! ### Every command -/

theorem memsOk_exec (c : Instr) {s : State} (hs : s.memsOk = true) : Out.MemsOk (exec c s) := by
  cases c with
  | snop q w => exact memsOk_execSnop q w s hs
  | mldw q w => exact memsOk_execMldw q w s hs
  | mmul q w upset => exact memsOk_execMmul q w upset s hs
  | maccl q w => exact memsOk_execMaccl q w s hs
  | sdist q w upset => exact memsOk_execSdist q w upset s hs
  | smax q w => exact memsOk_execSmax q w s hs
  | smin q w => exact memsOk_execSmin q w s hs
  | srank q w => exact memsOk_execSrank q w s hs
  | sthr q w => exact memsOk_execSthr q w s hs
  | vnop q w => exact memsOk_execVnop q w s hs
  | vadd q w => exact memsOk_execVadd q w s hs
  | vsub q w => exact memsOk_execVsub q w s hs
  | vmul q w => exact memsOk_execVmul q w s hs
  | vfma q w => exact memsOk_execVfma q w s hs
  | vmin q w => exact memsOk_execVmin q w s hs
  | vmax q w => exact memsOk_execVmax q w s hs
  | vcmp q w => exact memsOk_execVcmp q w s hs
  | vsel q w => exact memsOk_execVsel q w s hs
  | vcvt q w => exact memsOk_execVcvt q w s hs
  | vexp q w => exact memsOk_execVexp q w s hs
  | vlog q w => exact memsOk_execVlog q w s hs
  | vrcp q w => exact memsOk_execVrcp q w s hs
  | vrsq q w => exact memsOk_execVrsq q w s hs
  | vsqrt q w => exact memsOk_execVsqrt q w s hs
  | vrsum q w => exact memsOk_execVrsum q w s hs
  | vrmax q w => exact memsOk_execVrmax q w s hs
  | vrmin q w => exact memsOk_execVrmin q w s hs
  | vld q w => exact memsOk_execVld q w s hs
  | vst q w => exact memsOk_execVst q w s hs
  | vdrn q w => exact memsOk_execVdrn q w s hs
  | vsca q w => exact memsOk_execVsca q w s hs
  | vkey q w => exact memsOk_execVkey q w s hs
  | vmask q w => exact memsOk_execVmask q w s hs
  | vsmpRng q w => exact memsOk_execVsmpRng q w s hs
  | vsmpTemp q w => exact memsOk_execVsmpTemp q w s hs
  | vsmpTopk q w => exact memsOk_execVsmpTopk q w s hs
  | vsmpTopp q w => exact memsOk_execVsmpTopp q w s hs
  | vsmpAmask q w => exact memsOk_execVsmpAmask q w s hs
  | vsmpDraw q w => exact memsOk_execVsmpDraw q w s hs
  | vsmpAccept q w => exact memsOk_execVsmpAccept q w s hs
  | vsmpCommit q w => exact memsOk_execVsmpCommit q w s hs
  | mnop q w => exact memsOk_execMnop q w s hs
  | mrd q w => exact memsOk_execMrd q w s hs
  | mwr q w => exact memsOk_execMwr q w s hs
  | msend q w => exact memsOk_execMsend q w s hs
  | mfill q w => exact memsOk_execMfill q w s hs
  | mcopy q w => exact memsOk_execMcopy q w s hs
  | rsend q w => exact memsOk_execRsend q w s hs
  | merge q w => exact memsOk_execMerge q w s hs
  | mrel q w => exact memsOk_execMrel q w s hs
  | kvapq q w => exact memsOk_execKvapq q w s hs
  | xdisp q w => exact memsOk_execXdisp q w s hs
  | cnop q w => exact memsOk_execCnop q w s hs
  | sli q w => exact memsOk_execSli q w s hs
  | slih q w => exact memsOk_execSlih q w s hs
  | sadd q w => exact memsOk_execSadd q w s hs
  | ssub q w => exact memsOk_execSsub q w s hs
  | smul q w => exact memsOk_execSmul q w s hs
  | sand q w => exact memsOk_execSand q w s hs
  | sor q w => exact memsOk_execSor q w s hs
  | sxor q w => exact memsOk_execSxor q w s hs
  | sshl q w => exact memsOk_execSshl q w s hs
  | sshr q w => exact memsOk_execSshr q w s hs
  | slds q w => exact memsOk_execSlds q w s hs
  | ssts q w => exact memsOk_execSsts q w s hs
  | br q w => exact memsOk_execBr q w s hs
  | jmp q w => exact memsOk_execJmp q w s hs
  | loop q w => exact memsOk_execLoop q w s hs
  | waitc q w => exact memsOk_execWaitc q w s hs
  | seqadv q w => exact memsOk_execSeqadv q w s hs
  | hand q w => exact memsOk_execHand q w s hs
  | hset q w => exact memsOk_execHset q w s hs
  | vpat q w => exact memsOk_execVpat q w s hs
  | phase q w => exact memsOk_execPhase q w s hs
  | escm q w => exact memsOk_execEscm q w s hs
  | refw q w found => exact memsOk_execRefw q w found s hs
  | svcw q w => exact memsOk_execSvcw q w s hs
  | wstep q w => exact memsOk_execWstep q w s hs
  | tileLoadDone core sail => exact memsOk_execTileLoadDone core sail s hs
  | mastRowLand core ecc => exact memsOk_execMastRowLand core ecc s hs
  | mastWriteAck core => exact memsOk_execMastWriteAck core s hs
  | kvapqAck core found => exact memsOk_execKvapqAck core found s hs
  | outsideMastAccess core write mark part row data => exact memsOk_execOutsideMastAccess core write mark part row data s hs
  | meshFlitArrive i o => exact memsOk_execMeshFlitArrive i o s hs
  | deliveryCreditReturn core trk => exact memsOk_execDeliveryCreditReturn core trk s hs
  | vc0MessageDeliver i => exact memsOk_execVc0MessageDeliver i s hs
  | reductionFlitArrive i => exact memsOk_execReductionFlitArrive i s hs
  | reductionAddDone core tree fidx tag => exact memsOk_execReductionAddDone core tree fidx tag s hs
  | mergeRequestArrive i => exact memsOk_execMergeRequestArrive i s hs
  | mergeEntryClose core group tag => exact memsOk_execMergeEntryClose core group tag s hs
  | rowNormCheck core sail row => exact memsOk_execRowNormCheck core sail row s hs
  | escalationPassEnd core sail found upset => exact memsOk_execEscalationPassEnd core sail found upset s hs
  | escalationRestoreDone core sail => exact memsOk_execEscalationRestoreDone core sail s hs
  | overflowDispatchDone n => exact memsOk_execOverflowDispatchDone n s hs
  | overflowRoutineDone n => exact memsOk_execOverflowRoutineDone n s hs
  | luffStallBegin p => exact memsOk_execLuffStallBegin p s hs
  | luffItemEnd p i => exact memsOk_execLuffItemEnd p i s hs
  | luffLineDrop p => exact memsOk_execLuffLineDrop p s hs
  | luffTimeout p n => exact memsOk_execLuffTimeout p n s hs
  | stepEndBoundary p t => exact memsOk_execStepEndBoundary p t s hs
  | stepStartBoundary p t => exact memsOk_execStepStartBoundary p t s hs
  | idleBoundary p t => exact memsOk_execIdleBoundary p t s hs
  | imageCurrentWindow core mean => exact memsOk_execImageCurrentWindow core mean s hs
  | refreshDebtTick core tier => exact memsOk_execRefreshDebtTick core tier s hs
  | refreshCatchup core tier => exact memsOk_execRefreshCatchup core tier s hs
  | hotOffDwellExpire p => exact memsOk_execHotOffDwellExpire p s hs
  | tlbMap core rid vpn pgn wr => exact memsOk_execTlbMap core rid vpn pgn wr s hs
  | tlbUnmap core rid vpn => exact memsOk_execTlbUnmap core rid vpn s hs
  | tlbRelease core rid => exact memsOk_execTlbRelease core rid s hs
  | tlbRebuild core => exact memsOk_execTlbRebuild core s hs
  | pageInit core rid vpn pgn => exact memsOk_execPageInit core rid vpn pgn s hs
  | columnCopyDone n col bad => exact memsOk_execColumnCopyDone n col bad s hs
  | seamLaneLockLoss k l => exact memsOk_execSeamLaneLockLoss k l s hs
  | seamErrorWindow k l x => exact memsOk_execSeamErrorWindow k l x s hs
  | seamRetrainDone k l badLanes => exact memsOk_execSeamRetrainDone k l badLanes s hs
  | fixedHopEnter fields => exact memsOk_execFixedHopEnter fields s hs
  | fixedHopDrainDone n => exact memsOk_execFixedHopDrainDone n s hs
  | fixedHopDrainTimeout n => exact memsOk_execFixedHopDrainTimeout n s hs
  | fixedHopStartTick fields t => exact memsOk_execFixedHopStartTick fields t s hs
  | fixedHopExitTick fields t => exact memsOk_execFixedHopExitTick fields t s hs
  | hopTableLoad router t => exact memsOk_execHopTableLoad router t s hs
  | sheetTensorFrame i h dst fl => exact memsOk_execSheetTensorFrame i h dst fl s hs
  | sheetCreditFrame i h => exact memsOk_execSheetCreditFrame i h s hs
  | sheetGateFrame i h => exact memsOk_execSheetGateFrame i h s hs
  | sheetEndStampFrame i h recs => exact memsOk_execSheetEndStampFrame i h recs s hs
  | sheetNoticeFrame i h what ok e => exact memsOk_execSheetNoticeFrame i h what ok e s hs
  | sheetIdentFrame i serial port peerGood agrees => exact memsOk_execSheetIdentFrame i serial port peerGood agrees s hs
  | sheetTimeFrame i h recv => exact memsOk_execSheetTimeFrame i h recv s hs
  | sheetWaitArm p rank route => exact memsOk_execSheetWaitArm p rank route s hs
  | gateDueArm p => exact memsOk_execGateDueArm p s hs
  | sheetPortLinkUp i => exact memsOk_execSheetPortLinkUp i s hs
  | sheetPortLinkDown i => exact memsOk_execSheetPortLinkDown i s hs
  | cablingVerdictTimeout i => exact memsOk_execCablingVerdictTimeout i s hs
  | timeExchangeTick => exact memsOk_execTimeExchangeTick s hs
  | timeHoldTimeout => exact memsOk_execTimeHoldTimeout s hs
  | sliceStampLate p r => exact memsOk_execSliceStampLate p r s hs
  | sliceLossTimeout p r => exact memsOk_execSliceLossTimeout p r s hs
  | stampWaitTimeout p r => exact memsOk_execStampWaitTimeout p r s hs
  | sqDoorbell p q tail => exact memsOk_execSqDoorbell p q tail s hs
  | openReq p q sub prompt t => exact memsOk_execOpen p q sub prompt t s hs
  | continueReq p q sub prompt t => exact memsOk_execContinue p q sub prompt t s hs
  | cancelReq p q sub t => exact memsOk_execCancel p q sub t s hs
  | closeReq p q sub t => exact memsOk_execClose p q sub t s hs
  | parkReq p q sub t => exact memsOk_execPark p q sub t s hs
  | completionRecordWrite p t => exact memsOk_execCompletionRecordWrite p t s hs
  | cqHeadWrite p head => exact memsOk_execCqHeadWrite p head s hs
  | sqCfgWrite p q base size en => exact memsOk_execSqCfgWrite p q base size en s hs
  | cqCfgWrite p base size en => exact memsOk_execCqCfgWrite p base size en s hs
  | parkPageWriteDone e o t => exact memsOk_execParkPageWriteDone e o t s hs
  | unparkPageArrive e o => exact memsOk_execUnparkPageArrive e o s hs
  | stayLinkDown i t => exact memsOk_execStayLinkDown i t s hs
  | stayLinkUp i fast typeOk lanes cap retries => exact memsOk_execStayLinkUp i fast typeOk lanes cap retries s hs
  | stayRequestTimeout i e t => exact memsOk_execStayRequestTimeout i e t s hs
  | outputQueueToken slot => exact memsOk_execOutputQueueToken slot s hs
  | streamRecordWrite p r parity sideBad => exact memsOk_execStreamRecordWrite p r parity sideBad s hs
  | srHeadWrite p r head => exact memsOk_execSrHeadWrite p r head s hs
  | srCfgWrite p r base size en => exact memsOk_execSrCfgWrite p r base size en s hs
  | stmFlushGo byVf slot => exact memsOk_execStmFlushGo byVf slot s hs
  | ringReadGo p byPf => exact memsOk_execRingReadGo p byPf s hs
  | ringReadDone p n bad => exact memsOk_execRingReadDone p n bad s hs
  | stopSetLoad p index => exact memsOk_execStopSetLoad p index s hs
  | autoLoad p file => exact memsOk_execAutoLoad p file s hs
  | tallyStartSend t => exact memsOk_execTallyStartSend t s hs
  | tallyMarkSend t => exact memsOk_execTallyMarkSend t s hs
  | meterTallyStart ok0 ok1 => exact memsOk_execMeterTallyStart ok0 ok1 s hs
  | meterTallyTokens ok0 ok1 => exact memsOk_execMeterTallyTokens ok0 ok1 s hs
  | meterTallyMark ok0 ok1 => exact memsOk_execMeterTallyMark ok0 ok1 s hs
  | meterTallyClose ok0 ok1 mt r => exact memsOk_execMeterTallyClose ok0 ok1 mt r s hs
  | meterInputLoss mt r => exact memsOk_execMeterInputLoss mt r s hs
  | meterPowerUp restarted fresh mt => exact memsOk_execMeterPowerUp restarted fresh mt s hs
  | meterIntervalEnd r => exact memsOk_execMeterIntervalEnd r s hs
  | meterSealEvent => exact memsOk_execMeterSealEvent s hs
  | cnmFetchGo present bus => exact memsOk_execCnmFetchGo present bus s hs
  | cnmIntervalWrite v => exact memsOk_execCnmIntervalWrite v s hs
  | clkStepReqWrite v => exact memsOk_execClkStepReqWrite v s hs
  | glideEnd t => exact memsOk_execGlideEnd t s hs
  | cornerLockLoss n corner t => exact memsOk_execCornerLockLoss n corner t s hs
  | fieldRelock n t => exact memsOk_execFieldRelock n t s hs
  | relockTimeout n t => exact memsOk_execRelockTimeout n t s hs
  | fieldLockTimeout n t => exact memsOk_execFieldLockTimeout n t s hs
  | refOscCheck stopA stopB stopM dAB dAM dBM t => exact memsOk_execRefOscCheck stopA stopB stopM dAB dAM dBM t s hs
  | refHoldTimeout t => exact memsOk_execRefHoldTimeout t s hs
  | timeBaseSync t => exact memsOk_execTimeBaseSync t s hs
  | clkTbSetGo t => exact memsOk_execClkTbSetGo t s hs
  | clkTbLoRead f t => exact memsOk_execClkTbLoRead f t s hs
  | slewDone t => exact memsOk_execSlewDone t s hs
  | hostSwalWrite p v => exact memsOk_execHostSwalWrite p v s hs
  | inputValid => exact memsOk_execInputValid s hs
  | pinReset t => exact memsOk_execPinReset t s hs
  | hostRestart key t => exact memsOk_execHostRestart key t s hs
  | mastheadWatchdog flushed => exact memsOk_execMastheadWatchdog flushed s hs
  | inputLoss volt t => exact memsOk_execInputLoss volt t s hs
  | holdupFieldsOff t => exact memsOk_execHoldupFieldsOff t s hs
  | holdupRimOff t => exact memsOk_execHoldupRimOff t s hs
  | inputDip => exact memsOk_execInputDip s hs
  | inputLow volt t => exact memsOk_execInputLow volt t s hs
  | inputHigh volt t => exact memsOk_execInputHigh volt t s hs
  | avsTrimTick core margin => exact memsOk_execAvsTrimTick core margin s hs
  | timingNearMiss core => exact memsOk_execTimingNearMiss core s hs
  | slowCoreTimeout core t => exact memsOk_execSlowCoreTimeout core t s hs
  | powerPolicyTick i t => exact memsOk_execPowerPolicyTick i t s hs
  | phaseFailure core phase value t => exact memsOk_execPhaseFailure core phase value t s hs
  | regulatorFailure core value t => exact memsOk_execRegulatorFailure core value t s hs
  | coreShort core value t => exact memsOk_execCoreShort core value t s hs
  | converterFailure k value t => exact memsOk_execConverterFailure k value t s hs
  | fieldSupplyShort n value t => exact memsOk_execFieldSupplyShort n value t s hs
  | rimConverterFailure i value t => exact memsOk_execRimConverterFailure i value t s hs
  | phaseLimitExpire core t => exact memsOk_execPhaseLimitExpire core t s hs
  | quietWindowGrant n peaks t => exact memsOk_execQuietWindowGrant n peaks t s hs
  | grantTimeout n t => exact memsOk_execGrantTimeout n t s hs
  | fieldRampTimeout n value t => exact memsOk_execFieldRampTimeout n value t s hs
  | coreSensorSample core diode ring t => exact memsOk_execCoreSensorSample core diode ring t s hs
  | tierSensorSample core tier reading t => exact memsOk_execTierSensorSample core tier reading t s hs
  | disagreeTimeout core t => exact memsOk_execDisagreeTimeout core t s hs
  | stage1Release core t => exact memsOk_execStage1Release core t s hs
  | thermalDemandTick t => exact memsOk_execThermalDemandTick t s hs
  | thermalTrip n core tier value t => exact memsOk_execThermalTrip n core tier value t s hs
  | trayPoll r t => exact memsOk_execTrayPoll r t s hs
  | gatingTick t => exact memsOk_execGatingTick t s hs
  | strikeRestoreDeadline t => exact memsOk_execStrikeRestoreDeadline t s hs
  | spareCheckDone n col pass => exact memsOk_execSpareCheckDone n col pass s hs
  | columnTestDone n pass => exact memsOk_execColumnTestDone n pass s hs
  | hostFlr f link t => exact memsOk_execHostFlr f link t s hs
  | hostPerst link => exact memsOk_execHostPerst link s hs
  | hostLinkDown link => exact memsOk_execHostLinkDown link s hs
  | hostLinkUp link rate width flit => exact memsOk_execHostLinkUp link rate width flit s hs
  | msixUnmask f v => exact memsOk_execMsixUnmask f v s hs
  | coalesceExpire f v => exact memsOk_execCoalesceExpire f v s hs
  | mbxOutGo f link => exact memsOk_execMbxOutGo f link s hs
  | mbxTake f => exact memsOk_execMbxTake f s hs
  | mbxReplyWrite f => exact memsOk_execMbxReplyWrite f s hs
  | mbxInDone f => exact memsOk_execMbxInDone f s hs
  | dblStatClear f w => exact memsOk_execDblStatClear f w s hs
  | dblMaskWrite f w => exact memsOk_execDblMaskWrite f w s hs
  | info f => exact memsOk_execInfo f s hs
  | partitionReset p t => exact memsOk_execPartitionReset p t s hs
  | hoist p byVf t => exact memsOk_execHoist p byVf t s hs
  | unload p byVf t => exact memsOk_execUnload p byVf t s hs
  | hoistAbort p byVf t => exact memsOk_execHoistAbort p byVf t s hs
  | hoistQueueTake p inp t => exact memsOk_execHoistQueueTake p inp t s hs
  | halyardSegment p seg t => exact memsOk_execHalyardSegment p seg t s hs
  | unloadDrainLimit p slot t => exact memsOk_execUnloadDrainLimit p slot t s hs
  | unloadEraseDone p slot t => exact memsOk_execUnloadEraseDone p slot t s hs
  | getVersion a => exact memsOk_execGetVersion a s hs
  | getCapabilities a ver => exact memsOk_execGetCapabilities a ver s hs
  | negotiateAlgorithms a offers => exact memsOk_execNegotiateAlgorithms a offers s hs
  | getDigests a => exact memsOk_execGetDigests a s hs
  | getCertificate a slot offset len => exact memsOk_execGetCertificate a slot offset len s hs
  | challenge a slot transcript => exact memsOk_execChallenge a slot transcript s hs
  | getMeasurements a index sign transcript => exact memsOk_execGetMeasurements a index sign transcript s hs
  | keyExchange a slot transcript => exact memsOk_execKeyExchange a slot transcript s hs
  | finish a id good => exact memsOk_execFinish a id good s hs
  | endSession a id => exact memsOk_execEndSession a id s hs
  | heartbeat a id => exact memsOk_execHeartbeat a id s hs
  | chunkSend a handle seq last => exact memsOk_execChunkSend a handle seq last s hs
  | chunkGet a seq => exact memsOk_execChunkGet a seq s hs
  | ideKm id link k op fns => exact memsOk_execIdeKm id link k op fns s hs
  | keyExch p req => exact memsOk_execKeyExch p req s hs
  | keyClear p req => exact memsOk_execKeyClear p req s hs
  | signkey point => exact memsOk_execSignkey point s hs
  | drbgReseed healthy => exact memsOk_execDrbgReseed healthy s hs
  | cfgCopyGo copy link => exact memsOk_execCfgCopyGo copy link s hs
  | cfgCopyDone img progOk => exact memsOk_execCfgCopyDone img progOk s hs
  | rwpWrite i v => exact memsOk_execRwpWrite i v s hs
  | rwpRecordProgrammed ok0 ok1 => exact memsOk_execRwpRecordProgrammed ok0 ok1 s hs
  | fwStage => exact memsOk_execFwStage s hs
  | fwStageComplete pkg progOk => exact memsOk_execFwStageComplete pkg progOk s hs
  | fwActivate t => exact memsOk_execFwActivate t s hs
  | fwActTime t => exact memsOk_execFwActTime t s hs
  | fcFieldActivate n ends t => exact memsOk_execFcFieldActivate n ends t s hs
  | fwRigNoticeDeadline t => exact memsOk_execFwRigNoticeDeadline t s hs
  | fwActivationNotice peer cancel time sig t => exact memsOk_execFwActivationNotice peer cancel time sig t s hs
  | fwConfirm progOk => exact memsOk_execFwConfirm progOk s hs
  | fwRevert t => exact memsOk_execFwRevert t s hs
  | fwAbort t => exact memsOk_execFwAbort t s hs
  | fwFallback progOk => exact memsOk_execFwFallback progOk s hs
  | fwMhTrialTimeout t => exact memsOk_execFwMhTrialTimeout t s hs
  | fcHeartbeatLoss n t => exact memsOk_execFcHeartbeatLoss n t s hs
  | evrFreeze t => exact memsOk_execEvrFreeze t s hs
  | evrThaw t => exact memsOk_execEvrThaw t s hs
  | evrDump => exact memsOk_execEvrDump s hs
  | evrClear => exact memsOk_execEvrClear s hs
  | evrFlush t => exact memsOk_execEvrFlush t s hs
  | evrFreezeLimit t => exact memsOk_execEvrFreezeLimit t s hs
  | evrPeriodicFlush t => exact memsOk_execEvrPeriodicFlush t s hs
  | evrFaultFlushSpacing t => exact memsOk_execEvrFaultFlushSpacing t s hs
  | evrHsrcWrite h w => exact memsOk_execEvrHsrcWrite h w s hs
  | evrSecondSample t => exact memsOk_execEvrSecondSample t s hs
  | elogPop l => exact memsOk_execElogPop l s hs
  | violRecordClear core => exact memsOk_execViolRecordClear core s hs
  | illRecordClear core => exact memsOk_execIllRecordClear core s hs
  | mstCtrlWrite w => exact memsOk_execMstCtrlWrite w s hs
  | thmCtrlWrite w => exact memsOk_execThmCtrlWrite w s hs
  | badRegisterAccess via => exact memsOk_execBadRegisterAccess via s hs
  | registerWrite r => exact memsOk_execRegisterWrite r s hs
  | pldmGetPdr handle => exact memsOk_execPldmGetPdr handle s hs
  | pldmGetSensorReading x => exact memsOk_execPldmGetSensorReading x s hs
  | i3cDynamicAddress crow addr => exact memsOk_execI3cDynamicAddress crow addr s hs
  | ptpMessage i now t => exact memsOk_execPtpMessage i now t s hs
  | startUpStepDone i t => exact memsOk_execStartUpStepDone i t s hs
  | sequencerSaveDone core sail => exact memsOk_execSequencerSaveDone core sail s hs
  | fillCopyDone core => exact memsOk_execFillCopyDone core s hs
  | pcieConfigWrite link f master sriov numVfs => exact memsOk_execPcieConfigWrite link f master sriov numVfs s hs
  | mbxOutDataWrite f i v => exact memsOk_execMbxOutDataWrite f i v s hs
  | holdupStoreCharged => exact memsOk_execHoldupStoreCharged s hs
  | ethernetLinkDown i => exact memsOk_execEthernetLinkDown i s hs
  | ethernetLinkUp i => exact memsOk_execEthernetLinkUp i s hs
  | ethernetFrame i use len => exact memsOk_execEthernetFrame i use len s hs
  | hostReadTimeout r t => exact memsOk_execHostReadTimeout r t s hs
  | recorderFlushDone ok0 ok1 t => exact memsOk_execRecorderFlushDone ok0 ok1 t s hs
  | mhSwitchDone => exact memsOk_execMhSwitchDone s hs
  | rioActivateDone i => exact memsOk_execRioActivateDone i s hs

/-- Settles O59: `step` runs the front command, and every command keeps the memories of every core in their canonical form. -/
theorem stepKeepsMemories : Obligations.StepKeepsMemories := by
  intro s t hs h
  unfold step at h
  split at h
  · cases h
    exact hs
  · exact memsOk_exec _ (s := s.popped) hs t h

end Sys2Proof.Machine

namespace Sys2Proof.Machine

/-! ## Fill, copy and release (O23) -/

/-! ### Bytes of a slot -/

theorem Memory.readN_lt (m : Memory) (a n : Nat) : Memory.readN m a n < 256 ^ n := by
  induction n generalizing a with
  | zero => exact Nat.one_pos
  | succ n ih =>
    have hb := (Memory.read m a).isLt
    have hr := ih (a + 1)
    rw [Memory.readN, Nat.pow_succ]
    omega

/-- Byte `i` of the number read from `n` bytes. -/
theorem Memory.byte_readN (m : Memory) {n i : Nat} (a : Nat) (h : i < n) : BitVec.ofNat 8 (Memory.readN m a n >>> (8 * i)) = Memory.read m (a + i) := by
  induction n generalizing a i with
  | zero => omega
  | succ n ih =>
    have hb := (Memory.read m a).isLt
    cases i with
    | zero =>
      apply BitVec.eq_of_toNat_eq
      simp only [Memory.readN, BitVec.toNat_ofNat, Nat.mul_zero, Nat.shiftRight_zero, Nat.add_zero]
      omega
    | succ i =>
      have hs : ((Memory.read m a).toNat + 256 * Memory.readN m (a + 1) n) >>> 8 = Memory.readN m (a + 1) n := by
        rw [Nat.shiftRight_eq_div_pow]
        omega
      rw [Memory.readN, Nat.mul_succ, Nat.add_comm (8 * i) 8, Nat.shiftRight_add, hs, ih (a + 1) (by omega)]
      congr 1
      omega

theorem Memory.slotAt_toNat (m : Memory) (a : Nat) : (Memory.slotAt m a).toNat = Memory.readN m a 64 :=
  Nat.mod_eq_of_lt ((Memory.readN_lt m a 64).trans_eq (Nat.pow_mul 2 8 64).symm)

/-! ### MFILL -/

/-- A core whose fill and copy engine has taken an operation. -/
def Core.engaged (c : Core) (o : EngineOp) : Core := { c with engine := some o }

/-- Only what a pad instruction may change differs, and the fill and copy engine. -/
def Core.onlyEngine (c d : Core) : Prop := Core.onlyPad c { d with engine := c.engine }

/-- A core that has taken an operation into its engine and put the accesses `l` on their way. -/
theorem Core.onlyEngine_begun (c : Core) (i : Fin 4) (k n : Nat) (l : List SlotAcc) (o : EngineOp) : Core.onlyEngine c (((c.begun i k n).sent l).engaged o) := rfl

/-- MFILL into slots whose block resolves. -/
theorem exec_mfill {q : Issue} {w : BitVec 80} {s0 s : State} {k : Nat} (he : (s0.core q.core).engine = none) (h : issuesAt s0 q false [bitsN w 66 5] [] k s)
    (hw : bitsN w 71 9 = 0) (hv : bitsN w 30 24 = 0) (hm : (mvSpo w).writes = true) (ho : (mvSpo w).ofs % 4 = 0) :
    let r := ((s.core q.core).tc q.ctx).rdS (bitsN w 66 5)
    ∃ u n, Begins q k n s u ∧ exec (.mfill q w) s0 = .next ((writeOp u q 6 (mvSpo w) (mvCount w)
      (fillData (r.val.extractLsb' 0 32) (mvCount w)) r.poison 1 k).updCore q.core fun c => c.engaged .fill) := by
  obtain ⟨u, n, hu, e⟩ := issue_begins h _
  refine ⟨u, n, hu, congrArg Host.Outcome.next ((if_neg (by simp [he])).trans (e.trans ?_))⟩
  rw [legalOr_good (by simp [firstCause, hw, hv, hm, ho]), hu.core, Core.tc_begun_same, Ctx.rdS_begun]
  rfl

/-- A slot instruction whose effect is a write through an operand by the fill and copy engine. -/
theorem Begins.engineWrite {q : Issue} {k w : Nat} {s u : State} (hu : Begins q k w s u) {o : Spo} {n ph a : Nat} (hr : writesWell q s o n ph a)
    (ord d : Nat) (poison : Bool) (step t : Nat) (e : EngineOp) :
    let v := (Machine.writeOp u q ord o n d poison step t).updCore q.core fun c => c.engaged e
    writesLater q ord o n ph a d poison step t s v ∧ (v.core q.core).engine = some e ∧ keepsRegs q none none s v ∧ slotFrame q Core.onlyEngine s v := by
  have hx := Core.tc_begun_same (s.core q.core) q.ctx k w
  rw [writeOp_ok hu.core (resolve_begun_of_writesWell hr k w), hx, Ctx.seq_begun,
    queueWrites_late_congr (c' := (s.core q.core).begun q.ctx k w) (c := s.core q.core) _ _ _ _ _ _ _ _ _ _ _ _ rfl]
  generalize hl : (queueWrites ..).late = l
  rw [State.updCore, State.core_setCore_same, State.setCore_setCore]
  refine ⟨writesLater_of_core ?_ ?_ ?_ ?_ fun j => ?_, ?_, hu.keepsRegs_setCore (Core.onlyEngine_begun ..) fun _ => rfl⟩ <;> rw [State.core_setCore_same]
  · rfl
  · rfl
  · rfl
  · exact hl.symm
  · rfl
  · rfl

/-! ### MCOPY -/

/-- The read of a copy of one slot, on its way since fc `k`. -/
def copyAcc (q : Issue) (c : Core) (src dst : Spo) (sph b ph a k : Nat) : SlotAcc :=
  ⟨k, 5, q.ctx, c.accNo, .copy (b / 64) sph (tagOf (c.tc q.ctx).seq src.tag) src.take (c.accNo + 1) (a / 64) ph (tagOf (c.tc q.ctx).seq dst.tag) dst.hold⟩

/-- A core with the accesses `l` on their way, the last two of them numbered. -/
def Core.sentTwo (c : Core) (l : List SlotAcc) : Core := { c with late := l, accNo := c.accNo + 2 }

/-- A core that has put the copy of one slot on its way. -/
def Core.copying (c : Core) (q : Issue) (w : BitVec 80) (sph b ph a k n : Nat) : Core :=
  ((c.begun q.ctx k n).sentTwo (insertAcc (copyAcc q c (spoAt w 30) (mvSpo w) sph b ph a k) c.late)).engaged .copy

/-- MCOPY of one slot onto another. -/
theorem exec_mcopy {q : Issue} {w : BitVec 80} {s0 s : State} {k ph a sph b : Nat} (he : (s0.core q.core).engine = none) (h : issuesAt s0 q false [] [] k s)
    (hn : mvCount w = 1) (hv : bitsN w 66 14 = 0) (hm : (mvSpo w).writes = true) (hr : (spoAt w 30).reads = true) (ho : (mvSpo w).ofs % 4 = 0)
    (hdst : writesWell q s (mvSpo w) 1 ph a) (hne : ¬ (a / 64 ≤ (b + 63) / 64 ∧ b / 64 < a / 64 + 1))
    (hsrc : (s.core q.core).resolve q.ctx (spoAt w 30).handle (spoAt w 30).byte 64 false (b2n (spoAt w 30).take) = .ok (sph, b)) :
    ∃ u n, Begins q k n s u ∧ exec (.mcopy q w) s0 = .next (u.setCore q.core ((s.core q.core).copying q w sph b ph a k n)) := by
  obtain ⟨u, n, hu, e⟩ := issue_begins h _
  refine ⟨u, n, hu, congrArg Host.Outcome.next ((if_neg (by simp [he])).trans (e.trans ?_))⟩
  rw [legalOr_good (by simp [firstCause, hv, hm, hr, ho])]
  have hd := resolve_begun_of_writesWell hdst k n
  have hs := (Core.resolve_begun (c := s.core q.core) (d := (s.core q.core).begun q.ctx k n) rfl (Core.tc_begun_same ..) ..).trans hsrc
  simp only [hu.core, hn, Nat.mul_one] at hd ⊢
  simp only [hs, hd, Core.tc_begun_same, Ctx.seq_begun]
  rw [if_neg (show ¬ (a / 64 ≤ (b + 64 - 1) / 64 ∧ b / 64 < a / 64 + 1) from hne)]
  rfl

/-- The copy of one slot done: `x` is the source's slot with tag `tag`, `y` the destination's with telltale `v`. -/
structure Core.Copied (c : Core) (x y : Nat) (take : Bool) (v : Tell) (d : Core) : Prop where
  pad : ∀ b, Memory.read d.pad b = if 64 * y ≤ b ∧ b < 64 * y + 64 then Memory.read c.pad (64 * x + (b - 64 * y)) else Memory.read c.pad b
  tell : ∀ j, d.tell j = if j = y then v else if j = x then c.readTell take j else c.tell j

/-- A core with the accesses `l` on their way. -/
def Core.lateAs (c : Core) (l : List SlotAcc) : Core := { c with late := l }

/-- An access made before fc `t` acts, and then those behind it. -/
theorem Core.settleGo_cons {c : Core} {a : SlotAcc} {l : List SlotAcc} {t : Nat} (h : c.late = a :: l) (ha : a.at' < t) (n : Nat) (vs : List (Nat × Viol × Nat)) :
    Core.settleGo t (n + 1) (c, vs) = Core.settleGo t n ((((c.lateAs l).reach a.at').act a).1, vs ++ (((c.lateAs l).reach a.at').act a).2) := by
  simp only [Core.settleGo, h, ha, if_true]
  rfl

/-- A core whose one access on its way is the read of a copy: once its write has reached its bank, the slot is copied. -/
theorem settleGo_copy {c : Core} {k i no no' src dst sph dph u : Nat} {tag dtag : Byte} {take hold : Bool}
    (hl : c.late = [⟨k, 5, i, no, .copy src sph tag take no' dst dph dtag hold⟩]) (hk : k ≤ c.seen) (hu : k + bankLat (64 * src) < u) (hw : Memory.wf c.pad = true)
    (hd : (c.tell dst).st = .empty) (hf : c.fenced dst = false) (hs : (c.seenTell src).st = .full ∨ (c.seenTell src).st = .held) (ht : (c.seenTell src).tag = tag)
    (hne : dst ≠ src) :
    ∃ d, Core.settleGo u 2 (c, []) = (d, []) ∧ c.Copied src dst take ⟨if hold then .held else .full, dtag⟩ d := by
  obtain ⟨c1, hread, hc1, -, htell, -⟩ := Core.readSlot_good (c := c.lateAs []) sph take hs ht
  rw [Core.eq_emptied hc1] at hread htell
  generalize c1.tells = tl, c1.taken = tk at hread htell
  have hempty : (((c.lateAs []).emptied tl tk).tell dst).st = .empty := by rw [htell, if_neg hne]; exact hd
  obtain ⟨c2, hwrite, hpad, htell2, -⟩ := Core.writeSlot_good (c := (c.lateAs []).emptied tl tk) dph dtag hold (Memory.slotAt c.pad (64 * src)) false hempty hf
  obtain ⟨n, m, hr⟩ := Core.reach_eq ((c.lateAs []).emptied tl tk) (k + bankLat (64 * src))
  have hfirst : ((c.lateAs []).reach k).act ⟨k, 5, i, no, .copy src sph tag take no' dst dph dtag hold⟩ = (((c.lateAs []).emptied tl tk).lateAs
      [⟨k + bankLat (64 * src), 6, i, no', .write dst dph dtag hold (Memory.slotAt c.pad (64 * src)) false⟩], []) := by
    rw [show (c.lateAs []).reach k = c.lateAs [] from if_pos hk]
    simp only [Core.act, hread]
    rfl
  have hsecond : (((c.lateAs []).emptied tl tk).reach (k + bankLat (64 * src))).act
      ⟨k + bankLat (64 * src), 6, i, no', .write dst dph dtag hold (Memory.slotAt c.pad (64 * src)) false⟩ = (c2.atFc n m, []) := by
    simp only [hr, Core.act, Core.writeSlot_atFc, hwrite, Core.raised]
  refine ⟨c2.atFc n m, ?_, fun b => ?_, fun j => ?_⟩
  · rw [Core.settleGo_cons hl (Nat.lt_of_le_of_lt (Nat.le_add_right _ _) hu), hfirst, Core.settleGo_cons rfl hu]
    exact congrArg (fun x : Core × List (Nat × Viol × Nat) => (x.1, x.2)) hsecond
  · have hp : (c2.atFc n m).pad = Memory.writeN c.pad (64 * dst) (Memory.slotAt c.pad (64 * src)).toNat 64 := hpad
    rw [hp, Memory.read_writeN _ _ _ hw]
    split
    · rw [Memory.slotAt_toNat, Memory.byte_readN _ _ (by omega)]
    · rfl
  · exact (htell2 j).trans (if_congr Iff.rfl rfl (htell j))

/-- Where nothing but the copy of one slot is on its way, the core that a later access finds has the slot copied. -/
theorem settle_copy {s : State} {m k i no no' src dst sph dph u : Nat} {tag dtag : Byte} {take hold : Bool}
    (hl : (s.core m).late = [⟨k, 5, i, no, .copy src sph tag take no' dst dph dtag hold⟩]) (hk : k ≤ (s.core m).seen) (hu : k + bankLat (64 * src) < u)
    (hw : Memory.wf (s.core m).pad = true) (hd : ((s.core m).tell dst).st = .empty) (hf : (s.core m).fenced dst = false)
    (hs : ((s.core m).seenTell src).st = .full ∨ ((s.core m).seenTell src).st = .held) (ht : ((s.core m).seenTell src).tag = tag) (hne : dst ≠ src) :
    (s.core m).Copied src dst take ⟨if hold then .held else .full, dtag⟩ ((s.settle m u).core m) := by
  obtain ⟨d, hgo, hpad, htell⟩ := settleGo_copy (c := { s.core m with sails := (s.core m).sails.map (fun y => y.handOver u) }) hl hk hu hw hd
    ((Core.fenced_handOver ..).trans hf) hs ht hne
  obtain ⟨n, z, hr⟩ := Core.reach_eq d u
  have hlen : 2 * (s.core m).late.length = 2 := by rw [hl]; rfl
  have hdone : (s.core m).settled u = (d.atFc n z, []) := by
    rw [Core.settled, hlen, ← hr]
    exact congrArg (fun x : Core × List (Nat × Viol × Nat) => (x.1.reach u, x.2)) hgo
  have hset : s.settle m u = s.setCore m (d.atFc n z) := by rw [State.settle, hdone]; rfl
  rw [hset, State.core_setCore_same]
  exact ⟨hpad, htell⟩

/-- An access made in fc `t` finds the core in fc `t` at the least. -/
theorem le_seen_settle (s : State) (m t : Nat) : t ≤ ((s.settle m t).core m).seen := by
  have hviol : ∀ (vs : List (Nat × Viol × Nat)) (u : State), ((vs.foldl (fun s v => violateAt s m v.1 v.2.1 v.2.2) u).core m).seen = (u.core m).seen := fun vs => by
    induction vs with
    | nil => exact fun _ => rfl
    | cons v vs ih =>
      intro u
      obtain ⟨r, hr⟩ := core_violateAt u m v.1 v.2.1 v.2.2
      rw [List.foldl_cons, ih, hr]
  simp only [State.settle, hviol, State.core_setCore_same, Core.settled, Core.reach]
  split
  · assumption
  · exact Nat.le_refl t

theorem insertAcc_length (a : SlotAcc) (l : List SlotAcc) : (insertAcc a l).length = l.length + 1 := by
  induction l with
  | nil => rfl
  | cons b r ih =>
    unfold insertAcc
    split
    · rfl
    · exact congrArg Nat.succ ih

/-- The read of a slot takes the latency of its bank, at whichever of its bytes it begins. -/
theorem bankLat_slot (b : Nat) : bankLat (64 * (b / 64)) = bankLat b := by
  have h : 64 * (b / 64) / 0x30000 = b / 0x30000 := by omega
  rw [bankLat, bankLat, h]

/-! ### MREL -/

/-- Whether a release with tag `x` empties a slot: the fc found it HELD with that tag, and has not emptied it since (Table 5.6). -/
def Core.releases (c : Core) (x : Byte) (j : Nat) : Prop := (c.seenTell j).st = .held ∧ (c.seenTell j).tag = x ∧ (AMap.find c.taken j).isNone

/-- Releasing one slot: the fc still sees every slot as it found it, and only that slot is emptied. -/
theorem Core.releaseSlot_eff (c : Core) (slot : Nat) (x : Byte) :
    { c.releaseSlot slot x with tells := c.tells, taken := c.taken } = c ∧ (∀ j, (c.releaseSlot slot x).seenTell j = c.seenTell j) ∧
    (∀ j, j ≠ slot → (c.releaseSlot slot x).tell j = c.tell j) ∧ (c.releases x slot → (c.releaseSlot slot x).tell slot = { c.tell slot with st := .empty }) ∧
    (¬ c.releases x slot → (c.releaseSlot slot x).tell slot = c.tell slot) ∧ ∀ j, j ≠ slot → AMap.find (c.releaseSlot slot x).taken j = AMap.find c.taken j := by
  unfold Core.releaseSlot Core.releases
  split
  · rename_i h
    obtain ⟨hst, htag⟩ := h
    obtain ⟨h1, h2, h3, h4⟩ := Core.emptySlot_eff c slot
    refine ⟨h1, h2, fun j hj => ?_, fun hr => ?_, fun hr => ?_, h4⟩
    · rw [h3, if_neg (fun h => hj h.1)]
    · rw [h3, if_pos ⟨rfl, hr.2.2⟩]
    · rw [h3, if_neg (fun h => hr ⟨hst, htag, h.2⟩)]
  · rename_i h
    exact ⟨rfl, fun _ => rfl, fun _ _ => rfl, fun hr => absurd ⟨hr.1, hr.2.1⟩ h, fun _ => rfl, fun _ _ => rfl⟩

/-- Releasing `n` slots from `a`: each that the release empties is empty, every other as before. -/
theorem releaseSlots_eff (c : Core) (a n : Nat) (x : Byte) :
    let d := (List.range n).foldl (fun c i => c.releaseSlot (a + i) x) c
    { d with tells := c.tells, taken := c.taken } = c ∧ (∀ j, d.seenTell j = c.seenTell j) ∧ (∀ j, a + n ≤ j → AMap.find d.taken j = AMap.find c.taken j) ∧
    (∀ j, (a ≤ j ∧ j < a + n) ∧ c.releases x j → d.tell j = { c.tell j with st := .empty }) ∧ ∀ j, ¬ ((a ≤ j ∧ j < a + n) ∧ c.releases x j) → d.tell j = c.tell j := by
  induction n with
  | zero => exact ⟨rfl, fun _ => rfl, fun _ _ => rfl, fun j h => absurd h.1 (by omega), fun _ _ => rfl⟩
  | succ n ih =>
    rw [List.range_succ, List.foldl_concat]
    generalize (List.range n).foldl (fun c i => c.releaseSlot (a + i) x) c = d at ih ⊢
    obtain ⟨h1, h2, h3, h4, h5⟩ := ih
    obtain ⟨g1, g2, g3, g4, g5, g6⟩ := Core.releaseSlot_eff d (a + n) x
    have hrel : d.releases x (a + n) ↔ c.releases x (a + n) := by simp only [Core.releases, h2, h3 _ (Nat.le_refl _)]
    have hlast : d.tell (a + n) = c.tell (a + n) := h5 _ (by omega)
    refine ⟨?_, fun j => (g2 j).trans (h2 j), fun j hj => (g6 j (by omega)).trans (h3 j (by omega)), fun j hj => ?_, fun j hj => ?_⟩
    · exact (congrArg (fun z : Core => ({ z with tells := c.tells, taken := c.taken } : Core)) g1).trans h1
    · by_cases e : j = a + n
      · subst e
        rw [g4 (hrel.2 hj.2), hlast]
      · rw [g3 j e, h4 j ⟨by omega, hj.2⟩]
    · by_cases e : j = a + n
      · subst e
        rw [g5 (fun h => hj ⟨by omega, hrel.1 h⟩), hlast]
      · rw [g3 j e, h5 j (fun h => hj ⟨by omega, h.2⟩)]

/-- MREL of slots whose block resolves. -/
theorem exec_mrel {q : Issue} {w : BitVec 80} {s0 s : State} {k ph a : Nat} (h : issuesAt s0 q false [] [] k s) (hv : bitsN w 66 14 = 0) (hz : bitsN w 30 24 = 0)
    (hm : (mvSpo w).mode = 4) (ho : (mvSpo w).ofs % 4 = 0)
    (hr : (s.core q.core).resolve q.ctx (mvSpo w).handle (mvSpo w).byte (64 * mvCount w) false (mvSpo w).mode = .ok (ph, a)) :
    ∃ u n, Begins q k n s u ∧ exec (.mrel q w) s0 = .next (u.setCore q.core ((List.range (mvCount w)).foldl
      (fun c i => c.releaseSlot (a / 64 + i) (tagOf ((s.core q.core).tc q.ctx).seq (mvSpo w).tag)) ((s.core q.core).begun q.ctx k n))) := by
  obtain ⟨u, n, hu, e⟩ := issue_begins h _
  refine ⟨u, n, hu, congrArg Host.Outcome.next (e.trans ?_)⟩
  rw [legalOr_good (by simp [firstCause, hv, hz, hm, ho])]
  have hres := (Core.resolve_begun (c := s.core q.core) (d := (s.core q.core).begun q.ctx k n) rfl (Core.tc_begun_same ..) ..).trans hr
  simp only [hu.core, hres, Core.tc_begun_same, Ctx.seq_begun]

/-! ### The obligation -/

/-- MFILL puts its pattern on its way and holds the engine. -/
theorem mfill_spec {q : Issue} {w : BitVec 80} {s0 s : State} {k ph a : Nat} (he : (s0.core q.core).engine = none) (h : issuesAt s0 q false [bitsN w 66 5] [] k s)
    (hw : bitsN w 71 9 = 0) (hv : bitsN w 30 24 = 0) (hm : (mvSpo w).writes = true) (ho : (mvSpo w).ofs % 4 = 0) (hr : writesWell q s (mvSpo w) (mvCount w) ph a) :
    let r := ((s.core q.core).tc q.ctx).rdS (bitsN w 66 5)
    Does (.mfill q w) s0 (fun t => writesLater q 6 (mvSpo w) (mvCount w) ph a (fillData (r.val.extractLsb' 0 32) (mvCount w)) r.poison 1 k s t ∧
      (t.core q.core).engine = some .fill ∧ keepsRegs q none none s t ∧ slotFrame q Core.onlyEngine s t) := by
  obtain ⟨u, n, hu, e⟩ := exec_mfill he h hw hv hm ho
  exact ⟨_, e, hu.engineWrite hr 6 _ _ 1 k .fill⟩

/-- Where nothing else is on its way and both slots are good, the copy that a core has put on its way is made. -/
theorem copying_settles {q : Issue} {w : BitVec 80} {s t : State} {sph b ph a k n u : Nat}
    (hcore : t.core q.core = (s.core q.core).copying q w sph b ph a k n) (hseen : k ≤ (s.core q.core).seen) (hu : k + bankLat b < u) (hl : (s.core q.core).late = [])
    (hw : Memory.wf (s.core q.core).pad = true) (hd : ((s.core q.core).tell (a / 64)).st = .empty) (hf : (s.core q.core).fenced (a / 64) = false)
    (hs : ((s.core q.core).seenTell (b / 64)).st = .full ∨ ((s.core q.core).seenTell (b / 64)).st = .held)
    (ht : ((s.core q.core).seenTell (b / 64)).tag = tagOf ((s.core q.core).tc q.ctx).seq (spoAt w 30).tag) (hne : a / 64 ≠ b / 64) :
    (s.core q.core).Copied (b / 64) (a / 64) (spoAt w 30).take (tellOf q s (mvSpo w) false) ((t.settle q.core u).core q.core) := by
  have hlate : (t.core q.core).late = [copyAcc q (s.core q.core) (spoAt w 30) (mvSpo w) sph b ph a k] := by
    rw [hcore]
    exact congrArg (insertAcc _) hl
  have hdone := settle_copy (m := q.core) (u := u) hlate (by rw [hcore]; exact hseen) (by rwa [bankLat_slot]) (by rw [hcore]; exact hw) (by rw [hcore]; exact hd)
    (by rw [hcore]; exact hf) (by rw [hcore]; exact hs) (by rw [hcore]; exact ht) hne
  rw [hcore] at hdone
  exact ⟨hdone.pad, hdone.tell⟩

/-- MREL empties the HELD slots of its tag. -/
theorem mrel_spec {q : Issue} {w : BitVec 80} {s0 s : State} {k ph a : Nat} (h : issuesAt s0 q false [] [] k s) (hv : bitsN w 66 14 = 0) (hz : bitsN w 30 24 = 0)
    (hm : (mvSpo w).mode = 4) (ho : (mvSpo w).ofs % 4 = 0)
    (hr : (s.core q.core).resolve q.ctx (mvSpo w).handle (mvSpo w).byte (64 * mvCount w) false (mvSpo w).mode = .ok (ph, a)) :
    let c := s.core q.core
    Does (.mrel q w) s0 (fun t =>
      (∀ j, (t.core q.core).tell j =
        if a / 64 ≤ j ∧ j < a / 64 + mvCount w ∧ (c.seenTell j).st = .held ∧ (c.seenTell j).tag = tagOf (c.tc q.ctx).seq (mvSpo w).tag ∧ (AMap.find c.taken j).isNone
        then { c.tell j with st := .empty } else c.tell j) ∧
      (t.core q.core).pad = c.pad ∧ keepsRegs q none none s t ∧ padFrame q s t) := by
  intro c
  obtain ⟨u, n, hu, e⟩ := exec_mrel h hv hz hm ho hr
  refine ⟨_, e, ?_⟩
  obtain ⟨hframe, -, -, hempty, hkeep⟩ := releaseSlots_eff (c.begun q.ctx k n) (a / 64) (mvCount w) (tagOf (c.tc q.ctx).seq (mvSpo w).tag)
  have hd := Core.eq_emptied hframe
  generalize (List.range (mvCount w)).foldl _ (c.begun q.ctx k n) = d at hd hempty hkeep ⊢
  generalize d.tells = tl, d.taken = tk at hd
  subst hd
  obtain ⟨hregs, hcore, hcyc, hpad, hctx⟩ := hu.keepsRegs_setCore (C := Core.onlyPad) (c := (c.begun q.ctx k n).emptied tl tk) rfl fun _ => rfl
  refine ⟨fun j => ?_, ?_, hregs, hcore, hcyc, hpad, hctx, ?_⟩ <;> rw [State.core_setCore_same]
  · split
    · rename_i hj
      obtain ⟨h1, h2, h3⟩ := hj
      exact hempty j ⟨⟨h1, h2⟩, h3⟩
    · rename_i hj
      exact hkeep j (fun h => hj ⟨h.1.1, h.1.2, h.2⟩)
  · rfl
  · rw [Core.tc_emptied, Core.tc_begun_same]
    exact Ctx.onlyRegs_begun ..

/-- FILL_COPY_DONE with nothing on its way frees the engine. -/
theorem fillCopyDone_spec {s : State} (m : Fin 9216) (hl : (s.core m).late = []) :
    Does (.fillCopyDone m) s (fun t => (t.core m).engine = none ∧ { t.core m with engine := (s.core m).engine, sails := (s.core m).sails } = s.core m ∧
      (∀ j, j ≠ m.val → t.core j = s.core j) ∧ { t with cores := s.cores } = s) := by
  have hlast : (s.core m).lastAcc = 0 := by rw [Core.lastAcc, hl]; rfl
  have hdone : (s.core m).settled 0 = ({ s.core m with sails := (s.core m).sails.map (fun y => y.handOver 0) }, []) := by
    simp only [Core.settled, hl, List.length_nil, Nat.mul_zero, Core.settleGo]
    exact congrArg (fun d : Core => (d, ([] : List (Nat × Viol × Nat)))) (if_pos (Nat.zero_le _))
  refine ⟨_, rfl, ?_⟩
  rw [hlast, State.settle, hdone, List.foldl_nil, State.updCore, State.core_setCore_same, State.setCore_setCore]
  refine ⟨?_, ?_, fun j hj => State.core_setCore_ne _ _ hj, rfl⟩ <;> rw [State.core_setCore_same]

/-- A slot instruction that issues in fc `k` finds the core in fc `k` at the least. -/
theorem le_seen_of_issuesAt {s0 s : State} {q : Issue} {vec : Bool} {rs vs : List Nat} {k : Nat} (h : issuesAt s0 q vec rs vs k s) : k ≤ (s.core q.core).seen := by
  obtain ⟨-, rfl, -⟩ := h
  exact le_seen_settle ..

/-- What a core that has put the copy of one slot on its way leaves alone. -/
theorem Begins.copying {q : Issue} {k n : Nat} {s u : State} (hu : Begins q k n s u) (w : BitVec 80) (sph b ph a : Nat) :
    let t := u.setCore q.core ((s.core q.core).copying q w sph b ph a k n)
    (t.core q.core).pad = (s.core q.core).pad ∧ (t.core q.core).tells = (s.core q.core).tells ∧ (t.core q.core).late.length = (s.core q.core).late.length + 1 ∧
      (t.core q.core).engine = some .copy ∧ keepsRegs q none none s t ∧ slotFrame q Core.onlyEngine s t := by
  refine ⟨?_, ?_, ?_, ?_, hu.keepsRegs_setCore rfl fun _ => rfl⟩ <;> rw [State.core_setCore_same]
  · rfl
  · rfl
  · exact insertAcc_length ..
  · rfl

/-- Settles O23: the write that MFILL puts on its way, the copy of one slot once it has reached its bank, the slots that MREL empties, and the engine freed. -/
theorem fillCopyRelease : Obligations.FillCopyRelease := by
  intro q w s0 s k ph a o c n
  refine ⟨mfill_spec, ?_, mrel_spec, fillCopyDone_spec⟩
  intro sph b src he h hn hv hm hr ho hdst hne hsrc
  obtain ⟨u, i, hu, e⟩ := exec_mcopy he h hn hv hm hr ho hdst hne hsrc
  obtain ⟨hpad, htells, hlate, hengine, hregs, hframe⟩ := hu.copying w sph b ph a
  refine ⟨_, e, hpad, htells, hlate, fun hl hw hd hf hs ht v hv => ?_, hengine, hregs, hframe⟩
  have hdone := copying_settles (State.core_setCore_same u _ (c.copying q w sph b ph a k i)) (le_seen_of_issuesAt h) hv hl hw hd hf hs ht (by omega)
  exact ⟨hdone.pad, hdone.tell⟩

end Sys2Proof.Machine

namespace Sys2Proof.Machine

/-! ## Mesh sends (O25) -/

/-! ### What the placing of cores looks at -/

theorem placeCore_congr {s u : State} (hf : u.fab = s.fab) (hg : u.grade = s.grade) (hy : u.sys = s.sys) (x : ImgSlot) (fx fy cx cy : Nat) :
    placeCore u x fx fy cx cy = placeCore s x fx fy cx cy := by
  simp only [placeCore, State.fieldNo, State.grade40, State.field, hf, hg, hy]
  rfl

theorem virtOf_congr {s u : State} (hf : u.fab = s.fab) (hg : u.grade = s.grade) (hy : u.sys = s.sys) (x : ImgSlot) (m : Nat) : virtOf u x m = virtOf s x m := by
  simp only [virtOf, State.fieldXY, State.grade40, State.field, hf, hg, hy]
  rfl

theorem imgOf_congr {s u : State} (hf : u.fab = s.fab) (hg : u.grade = s.grade) (hy : u.sys = s.sys) (hp : ∀ p, (u.part p).slots = (s.part p).slots) (m : Nat) :
    u.imgOf m = s.imgOf m := by
  simp only [State.imgOf, State.slotOfField, State.img, State.corePart, State.field, State.fieldXY, State.grade40, hf, hg, hy, hp]
  rfl

section
variable {q : Issue} {k n : Nat} {s u : State} (hu : Begins q k n s u)
include hu

theorem Begins.grade : u.grade = s.grade := (congrArg State.grade hu.module :)

theorem Begins.sys : u.sys = s.sys := (congrArg State.sys hu.module :)

theorem Begins.corePart (m : Nat) : u.corePart m = s.corePart m := corePart_congr hu.fab m

theorem Begins.imgOf (m : Nat) : u.imgOf m = s.imgOf m := imgOf_congr hu.fab hu.grade hu.sys hu.slots m

theorem Begins.guarded (m : Nat) : u.guarded m = s.guarded m := by
  rw [State.guarded, State.guarded, hu.corePart]
  exact (congrArg (fun x : Part => x.grp.guarded) (hu.onlyCyc _) :)

theorem Begins.items (p : Nat) : (u.grp p).items = (s.grp p).items := (congrArg (fun x : Part => x.grp.items) (hu.onlyCyc p) :)

end

/-! ### Guarded sends -/

theorem guardDue_unguarded {s : State} {m : Nat} (h : s.guarded m = false) (src : LuffSrc) (ds : List Nat) : guardDue s m src ds = s := by
  unfold guardDue
  split <;> simp [h]

/-- A send in a guarded replay arms its item where no item is. -/
theorem guardDue_arms {s : State} {m : Nat} (h : s.guarded m = true) (hi : (s.grp (s.corePart m)).items = []) (src : LuffSrc) (d : Nat) :
    ∃ i ∈ ((guardDue s m src [d]).grp (s.corePart m)).items, i.src = src ∧ i.ended = false := by
  simp [guardDue, firstDue, h, armLuff, hi]

/-! ### One flit read -/

/-- One flit read from a slot's bytes. -/
theorem readFlits_one {q : Issue} {s : State} {c : Core} (hc : s.core q.core = c) {o : Spo} {a : Nat} (h : c.readsWell q.ctx o 64 a) :
    ∃ tl tk, c.ReadTells o 64 a tl tk ∧ readFlits s q o 1 = (s.setCore q.core (c.emptied tl tk), [(BitVec.ofNat 512 (Memory.readN c.pad a 64), false)]) := by
  obtain ⟨tl, tk, ht, hr⟩ := readItemsOp_well (size := 64) (count := 1) hc (by omega) (by omega) h
  exact ⟨tl, tk, ht, by simp [readFlits, hr]⟩

/-- The core of a send: a tracker entry taken, and the telltales that the read of its source leaves. -/
def Core.sending (c : Core) (i : Fin 4) (k n : Nat) (kind : TrackKind) (left : Nat) (tl tk : AMap Tell) : Core :=
  ((c.begun i k n).tookTrk i kind left none).emptied tl tk

/-- A send's effect besides the mesh and the telltales. -/
theorem Begins.sent {q : Issue} {k n : Nat} {s u : State} (hu : Begins q k n s u) (kind : TrackKind) (left : Nat) (tl tk : AMap Tell) (f : Fabric) :
    let t := { u.setCore q.core ((s.core q.core).sending q.ctx k n kind left tl tk) with fab := f }
    t.core q.core = (s.core q.core).sending q.ctx k n kind left tl tk ∧ tookEntry q kind left none k s t ∧ keepsRegs q none none s t ∧
      slotFrame q Core.onlyPad s { t with fab := s.fab } := by
  intro t
  have hcore : t.core q.core = (s.core q.core).sending q.ctx k n kind left tl tk := State.core_setCore_same ..
  obtain ⟨hregs, hframe⟩ := hu.keepsRegs_setCore (C := Core.onlyPad) (c := (s.core q.core).sending q.ctx k n kind left tl tk) rfl fun _ => rfl
  have hback : { t with fab := s.fab } = u.setCore q.core ((s.core q.core).sending q.ctx k n kind left tl tk) := by rw [← hu.fab]; rfl
  refine ⟨hcore, ?_, hregs, by rwa [hback]⟩
  rw [tookEntry, hcore]
  rfl

/-- What a send reads of its source. -/
theorem readsPad_sending {q : Issue} {s t : State} {o : Spo} {len a : Nat} {tl tk : AMap Tell} (ht : (s.core q.core).ReadTells o len a tl tk)
    {k n : Nat} {kind : TrackKind} {left : Nat} (hc : t.core q.core = (s.core q.core).sending q.ctx k n kind left tl tk) : readsPad q o len a s t :=
  readsPad_of_core ht (by rw [hc]; rfl) (by rw [hc]; rfl) (by rw [hc]; rfl)

/-! ### MSEND -/

/-- The flit of an MSEND of one slot. -/
def msendFlit (q : Issue) (w : BitVec 80) (s : State) (k a : Nat) : Flit :=
  let dst := spoAt w 46
  let d := placeCore s (s.imgOf q.core) (bitsN w 30 3) (bitsN w 33 3) (bitsN w 36 4) (bitsN w 40 4)
  { src := q.core, trk := (s.core q.core).nextTrk, part := s.corePart q.core, dst := d, ctx := bitsN w 44 2, handle := dst.handle, ofs := dst.byte
    tag := tagOf ((s.core q.core).tc q.ctx).seq dst.tag, hold := dst.hold, data := BitVec.ofNat 512 (Memory.readN (s.core q.core).pad a 64), poison := false
    due := arrival k (bankLat a) (hops s q.core d).1 (hops s q.core d).2 0, vc := 2 }

/-- A send that issues with room in the tracker and a source that reads well. -/
structure SendsWell (q : Issue) (w : BitVec 80) (s0 s : State) (k a : Nat) : Prop where
  issues : issuesAt s0 q false [] [] k s
  room : hasRoom q s k
  reads : (mvSpo w).reads = true
  unheld : noInject s0 q.core = false
  source : readsWell q s (mvSpo w) 64 a

/-- MSEND of one slot to a core of the rig. -/
theorem exec_msend {q : Issue} {w : BitVec 80} {s0 s : State} {k a : Nat} (h : SendsWell q w s0 s k a) (hy : bitsN w 33 3 ≠ 7) (hl : bitsN w 70 9 = 0)
    (hv : bitAt w 79 = false) (hd : (spoAt w 46).writes = true) (ho : (spoAt w 46).ofs % 4 = 0) (hcx : bitsN w 36 4 ≤ 11) (hcy : bitsN w 40 4 ≤ 14)
    (hfx : bitsN w 30 3 ≤ rigWF (s.imgOf q.core).rig) (hfy : bitsN w 33 3 ≤ rigHF (s.imgOf q.core).rig) :
    ∃ u n tl tk, Begins q k n s u ∧ (s.core q.core).ReadTells (mvSpo w) 64 a tl tk ∧ exec (.msend q w) s0 = .next (guardDue
      (launch (u.setCore q.core ((s.core q.core).sending q.ctx k n .meshSend 1 tl tk)) [msendFlit q w s k a]) q.core (.arrival q.core (s.core q.core).nextTrk)
      [(msendFlit q w s k a).due]) := by
  obtain ⟨u, n, hu, e⟩ := issue_begins h.issues _
  have hx : (((s.core q.core).begun q.ctx k n).tookTrk q.ctx .meshSend 1 none).tc q.ctx = ((s.core q.core).tc q.ctx).begun k := by rw [Core.tc_tookTrk, Core.tc_begun_same]
  have hread := Core.readsWell_begun (c := s.core q.core) (d := ((s.core q.core).begun q.ctx k n).tookTrk q.ctx .meshSend 1 none) rfl rfl rfl hx (readsWell_core h.source)
  have htrk := Core.takeTrk_room (c := (s.core q.core).begun q.ctx k n) h.room rfl (Core.tc_begun_same ..) .meshSend 1 none
  obtain ⟨tl, tk, ht, hflits⟩ := readFlits_one (s := u.setCore q.core _) (State.core_setCore_same ..) hread
  refine ⟨u, n, tl, tk, hu, ⟨ht.seen, ht.tell⟩, congrArg Host.Outcome.next ((if_neg (by simp [hv, h.unheld])).trans (e.trans ?_))⟩
  have hsheet : (bitsN w 33 3 == 7) = false := by simpa using hy
  rw [legalOr_good (by simp [firstCause, h.reads, hd, ho, hv, hsheet, hu.imgOf, Nat.not_lt.mpr hcx, Nat.not_lt.mpr hcy, Nat.not_lt.mpr hfx, Nat.not_lt.mpr hfy])]
  simp only [hu.core, htrk, hl, Nat.zero_add, hflits, hsheet, hv, Bool.false_eq_true, if_false]
  have hplace : ∀ d, placeCore (u.setCore q.core d) = placeCore s := fun d => by
    funext x fx fy cx cy
    exact placeCore_congr hu.fab hu.grade hu.sys x fx fy cx cy
  simp only [State.setCore_setCore, hx, Ctx.seq_begun, hread.readLat (by omega), hplace, hu.imgOf, hu.corePart]
  rfl

/-! ### RSEND -/

/-- The reduction flit of an RSEND of one slot. -/
def rsendFlit (q : Issue) (w : BitVec 80) (s : State) (k a : Nat) : RedFlit where
  src := q.core
  trk := (s.core q.core).nextTrk
  part := s.corePart q.core
  dst := q.core
  tree := bitsN w 30 6
  fidx := bitsN w 36 9
  tag := (tagOf ((s.core q.core).tc q.ctx).seq (spoAt w 54).tag).toNat
  place := localPlace (s.redEntry q.core (bitsN w 30 6))
  data := BitVec.ofNat 512 (Memory.readN (s.core q.core).pad a 64)
  poison := false
  due := k + bankLat a

/-- RSEND of one slot into a node that is no root. -/
theorem exec_rsend {q : Issue} {w : BitVec 80} {s0 s : State} {k a : Nat} (h : SendsWell q w s0 s k a) (hv : bitsN w 78 2 = 0) (hl : bitsN w 45 9 = 0)
    (hd : (spoAt w 54).writes = true) (hroot : rnOut (s.redEntry q.core (bitsN w 30 6)) ≠ 0) (hh : (spoAt w 54).handle = 0)
    (hz : (spoAt w 54).ofs = 0) :
    ∃ u n tl tk, Begins q k n s u ∧ (s.core q.core).ReadTells (mvSpo w) 64 a tl tk ∧
      let v := u.setCore q.core ((s.core q.core).sending q.ctx k n .meshSend 1 tl tk)
      exec (.rsend q w) s0 = .next (guardDue { v with fab := { v.fab with reds := v.fab.reds ++ [rsendFlit q w s k a] } } q.core
        (.arrival q.core (s.core q.core).nextTrk) [k + bankLat a]) := by
  obtain ⟨u, n, hu, e⟩ := issue_begins h.issues _
  have hx : (((s.core q.core).begun q.ctx k n).tookTrk q.ctx .meshSend 1 none).tc q.ctx = ((s.core q.core).tc q.ctx).begun k := by rw [Core.tc_tookTrk, Core.tc_begun_same]
  have hread := Core.readsWell_begun (c := s.core q.core) (d := ((s.core q.core).begun q.ctx k n).tookTrk q.ctx .meshSend 1 none) rfl rfl rfl hx (readsWell_core h.source)
  have htrk := Core.takeTrk_room (c := (s.core q.core).begun q.ctx k n) h.room rfl (Core.tc_begun_same ..) .meshSend 1 none
  obtain ⟨tl, tk, ht, hflits⟩ := readFlits_one (s := u.setCore q.core _) (State.core_setCore_same ..) hread
  refine ⟨u, n, tl, tk, hu, ⟨ht.seen, ht.tell⟩, congrArg Host.Outcome.next ((if_neg (by simp [h.unheld])).trans (e.trans ?_))⟩
  have hred : u.redEntry q.core (bitsN w 30 6) = s.redEntry q.core (bitsN w 30 6) := by rw [State.redEntry, hu.core]; rfl
  have hroot' : (rnOut (s.redEntry q.core (bitsN w 30 6)) == 0) = false := by simpa using hroot
  have hfit : ¬ 512 < bitsN w 36 9 + (bitsN w 45 9 + 1) := by
    have := bitsN_lt w 36 9
    omega
  rw [legalOr_good (by simp [firstCause, h.reads, hd, hv, hfit, hred, hroot', hh, hz])]
  have hpart : ∀ d, (u.setCore q.core d).corePart q.core = s.corePart q.core := fun _ => hu.corePart _
  simp only [hu.core, htrk, hl, Nat.zero_add, hflits, hred, hroot', Bool.and_false, Bool.false_eq_true, if_false, State.setCore_setCore, hx, Ctx.seq_begun,
    hread.readLat (by omega), hpart]
  rfl

/-! ### MERGE -/

/-- The request of a MERGE. -/
def mergeMsg (q : Issue) (w : BitVec 80) (s : State) (h due : Nat) : MergeMsg :=
  let src := mvSpo w
  let dst := spoAt w 55
  let seq := ((s.core q.core).tc q.ctx).seq
  { holder := h, part := s.corePart q.core, group := bitsN w 43 4, tag := tagOf seq src.tag, handle := src.handle, ofs := src.byte, sctx := q.ctx
    run := bitsN w 38 5 + 1, want := bitsN w 47 8
    req := { core := q.core, ctx := q.ctx, handle := dst.handle, ofs := dst.byte, tag := tagOf seq dst.tag, hold := dst.hold, trk := (s.core q.core).nextTrk, due := due } }

/-- The holder that a MERGE names: the core of its virtual coordinates in the requester's own field. -/
def mergeHolder (q : Issue) (w : BitVec 80) (s : State) : Nat :=
  match virtOf s (s.imgOf q.core) q.core with
  | some (fx, fy, _, _) => placeCore s (s.imgOf q.core) fx fy (bitsN w 30 4) (bitsN w 34 4)
  | none => q.core

/-- MERGE of a core of the rig. -/
theorem exec_merge {q : Issue} {w : BitVec 80} {s0 s : State} {k : Nat} (h : issuesAt s0 q false [] [] k s) (hroom : hasRoom q s k) (hopen : noInject s0 q.core = false)
    (hv : bitAt w 79 = false) (hcx : bitsN w 30 4 ≤ 11) (hcy : bitsN w 34 4 ≤ 14) (hlo : 2 ≤ bitsN w 47 8) (hhi : bitsN w 47 8 ≤ 180) (hm : (mvSpo w).mode = 0)
    (hd : (spoAt w 55).writes = true) (ho : (spoAt w 55).ofs % 4 = 0) :
    ∃ u n due, Begins q k n s u ∧
      let v := u.setCore q.core ((s.core q.core).sending q.ctx k n .merged (bitsN w 38 5 + 1) (s.core q.core).tells (s.core q.core).taken)
      exec (.merge q w) s0 = .next (guardDue { v with fab := { v.fab with merges := v.fab.merges ++ [mergeMsg q w s (mergeHolder q w s) due] } } q.core
        (.arrival q.core (s.core q.core).nextTrk) [due]) := by
  obtain ⟨u, n, hu, e⟩ := issue_begins h _
  have hx : (((s.core q.core).begun q.ctx k n).tookTrk q.ctx .merged (bitsN w 38 5 + 1) none).tc q.ctx = ((s.core q.core).tc q.ctx).begun k := by
    rw [Core.tc_tookTrk, Core.tc_begun_same]
  have htrk := Core.takeTrk_room (c := (s.core q.core).begun q.ctx k n) hroom rfl (Core.tc_begun_same ..) .merged (bitsN w 38 5 + 1) none
  let v := u.setCore q.core (((s.core q.core).begun q.ctx k n).tookTrk q.ctx .merged (bitsN w 38 5 + 1) none)
  refine ⟨u, n, mergeDue v (v.core (mergeHolder q w s)) q (mvSpo w) (mergeHolder q w s) k, hu, congrArg Host.Outcome.next ((if_neg (by simp [hopen])).trans (e.trans ?_))⟩
  rw [legalOr_good (by simp [firstCause, hv, hd, ho, hm, Nat.not_lt.mpr hcx, Nat.not_lt.mpr hcy, Nat.not_lt.mpr hlo, Nat.not_lt.mpr hhi])]
  have hplace : placeCore u = placeCore s := by
    funext x fx fy cx cy
    exact placeCore_congr hu.fab hu.grade hu.sys x fx fy cx cy
  have hvirt : virtOf u (s.imgOf q.core) q.core = virtOf s (s.imgOf q.core) q.core := virtOf_congr hu.fab hu.grade hu.sys _ _
  have hpart : ∀ d, (u.setCore q.core d).corePart q.core = s.corePart q.core := fun _ => hu.corePart _
  simp only [hu.core, htrk, hx, Ctx.seq_begun, hu.imgOf, hplace, hvirt, hpart]
  rfl

/-! ### The two outcomes of a send -/

theorem grp_of_parts {v u : State} (hp : v.parts = u.parts) (p : Nat) : v.grp p = u.grp p := by simp only [State.grp, State.part, hp]

theorem Begins.corePart_sent {q : Issue} {k n : Nat} {s u v : State} (hu : Begins q k n s u) (hf : v.fab.fields = u.fab.fields) : v.corePart q.core = s.corePart q.core := by
  rw [← hu.corePart]
  simp only [State.corePart, State.field, hf]

theorem Begins.guarded_sent {q : Issue} {k n : Nat} {s u v : State} (hu : Begins q k n s u) (hp : v.parts = u.parts) (hf : v.fab.fields = u.fab.fields) :
    v.guarded q.core = (s.grp (s.corePart q.core)).guarded := by
  have h := hu.guarded q.core
  rw [State.guarded, hu.corePart] at h
  rw [State.guarded, hu.corePart_sent hf, grp_of_parts hp, h]
  rfl

section
variable {q : Issue} {k n : Nat} {s0 s u v : State} (hu : Begins q k n s u) {i : Instr} {src : LuffSrc}
include hu

/-- In a guarded replay a send arms its item. -/
theorem Begins.does_arms {d : Nat} (e : exec i s0 = .next (guardDue v q.core src [d])) (hp : v.parts = u.parts) (hf : v.fab.fields = u.fab.fields)
    (hg : (s.grp (s.corePart q.core)).guarded = true) (hi : (s.grp (s.corePart q.core)).items = []) :
    Does i s0 (fun t => ∃ x ∈ (t.grp (s.corePart q.core)).items, x.src = src ∧ x.ended = false) := by
  have hpart := hu.corePart_sent hf
  have hitems : (v.grp (v.corePart q.core)).items = [] := by rw [hpart, grp_of_parts hp, hu.items, hi]
  refine ⟨_, e, ?_⟩
  rw [← hpart]
  exact guardDue_arms ((hu.guarded_sent hp hf).trans hg) hitems src d

/-- Outside a guarded replay a send has its own effect and no other. -/
theorem Begins.does_unguarded {ds : List Nat} (e : exec i s0 = .next (guardDue v q.core src ds)) (hp : v.parts = u.parts) (hf : v.fab.fields = u.fab.fields)
    (hg : (s.grp (s.corePart q.core)).guarded = false) {P : State → Prop} (hv : P v) : Does i s0 P :=
  ⟨v, by rw [e, guardDue_unguarded ((hu.guarded_sent hp hf).trans hg)], hv⟩

end

/-- Settles O25: a send issues as `Begins` says, takes its entry, and its one message stands last in the fabric. -/
theorem meshSends : Obligations.MeshSends := by
  unfold Obligations.MeshSends
  intro q w s0 s k a src c p seq x arms hissue hroom hreads hopen
  refine ⟨?_, ?_, ?_⟩
  · intro dst hy hl hv hd ho hcx hcy hfx hfy hsrc
    obtain ⟨u, n, tl, tk, hu, ht, e⟩ := exec_msend ⟨hissue, hroom, hreads, hopen, hsrc⟩ hy hl hv hd ho hcx hcy hfx hfy
    refine ⟨hu.does_arms e rfl rfl, fun hg => hu.does_unguarded e rfl rfl hg ?_⟩
    obtain ⟨hcore, htook, hregs, hframe⟩ := hu.sent .meshSend 1 tl tk { u.fab with flits := u.fab.flits ++ [msendFlit q w s k a] }
    exact ⟨⟨msendFlit q w s k a, by rw [← hu.fab]; rfl, rfl, rfl, rfl, rfl, rfl, rfl, rfl, rfl, rfl, rfl, rfl, rfl⟩, by rw [← hu.fab]; rfl, htook,
      readsPad_sending ht hcore, hregs, hframe⟩
  · intro dst e hv hl hd _ _ hroot hh hz hsrc
    obtain ⟨u, n, tl, tk, hu, ht, e⟩ := exec_rsend ⟨hissue, hroom, hreads, hopen, hsrc⟩ hv hl hd hroot hh hz
    refine ⟨hu.does_arms e rfl rfl, fun hg => hu.does_unguarded e rfl rfl hg ?_⟩
    obtain ⟨hcore, htook, hregs, hframe⟩ := hu.sent .meshSend 1 tl tk { u.fab with reds := u.fab.reds ++ [rsendFlit q w s k a] }
    exact ⟨by rw [← hu.fab]; rfl, by rw [← hu.fab]; rfl, htook, readsPad_sending ht hcore, hregs, hframe⟩
  · intro dst hv hcx hcy hlo hhi hm hd ho
    obtain ⟨u, n, due, hu, e⟩ := exec_merge hissue hroom hopen hv hcx hcy hlo hhi hm hd ho
    refine ⟨hu.does_arms e rfl rfl, fun hg => hu.does_unguarded e rfl rfl hg ?_⟩
    obtain ⟨hcore, htook, hregs, hframe⟩ := hu.sent .merged (bitsN w 38 5 + 1) c.tells c.taken
      { u.fab with merges := u.fab.merges ++ [mergeMsg q w s (mergeHolder q w s) due] }
    have hholder : ∀ v, virtOf s x q.core = some v → mergeHolder q w s = placeCore s x v.1 v.2.1 (bitsN w 30 4) (bitsN w 34 4) := fun v hv => by
      rw [mergeHolder, hv]
    have htells := congrArg Core.tells hcore
    have hpad := congrArg Core.pad hcore
    exact ⟨⟨mergeMsg q w s (mergeHolder q w s) due, by rw [← hu.fab]; rfl, hholder, rfl, rfl, rfl, rfl, rfl, rfl, rfl, rfl, rfl⟩, by rw [← hu.fab]; rfl, htook,
      htells, hpad, hregs, hframe⟩

end Sys2Proof.Machine

namespace Sys2Proof.Machine

/-!
## Step boundaries (O39)

The course of a partition is what decides whether it steps and which of its cores step. A boundary passes through many operations of the module; each has one rule
here: it keeps the course (`course_…`), or, where it may end a step or change a field, slot or slice, the course's rest (`rest_…`): whether a step is under way and,
outside a step, that nothing of the last is left.
-/

/-! ### The course of a partition -/

/-- What of an image slot says whether it steps and which fields it covers. -/
structure Place where
  st : SlotState
  rig : Dword
  ox : Nat
  oy : Nat
  placed : Bool
  stopped : Bool
  joined : Bool

def ImgSlot.place (x : ImgSlot) : Place := ⟨x.st, x.rig, x.ox, x.oy, x.placed, x.stopped, x.joined⟩

/-- Where a group stands between and within its steps. -/
structure GroupCourse where
  step : Nat
  stepping : Bool
  inStep : Bool
  stalled : Option Nat
  closed : Bool
  quarantined : Bool

def Group.course (g : Group) : GroupCourse := ⟨g.step, g.stepping, g.inStep, g.stalled, g.closed, g.quarantined⟩

/-- What a step has gathered of its decode slots. -/
structure StepWork where
  keff : AMap Nat
  commits : List Commit

def ReqPart.work (r : ReqPart) : StepWork := ⟨r.keff, r.commits⟩

/-- Whether a slice lets its partition step, and which slots its members hold. -/
structure SliceCourse where
  rank : Nat
  mods : Nat
  st : SliceSt
  held : AMap (List Nat)

def Slice.course (y : Slice) : SliceCourse := ⟨y.rank, y.mods, y.st, y.held⟩

structure PartCourse where
  en : Bool
  grp : GroupCourse
  places : List Place
  work : StepWork
  slice : SliceCourse

def Part.course (x : Part) : PartCourse := ⟨x.en, x.grp.course, x.slots.toList.map ImgSlot.place, x.req.work, x.slice.course⟩

structure Course where
  fields : AMap FieldSt
  grade : Nat
  lmap : List Nat
  struck : Bool
  shutdown : Bool
  part : PartCourse

def State.course (s : State) (p : Nat) : Course := ⟨s.fab.fields, s.grade, s.sys.lmap, s.sys.struck, s.sys.shutdown, (s.part p).course⟩

/-- Whether a step is under way; outside a step, whether the line is down and nothing was ended at once; and what was gathered. -/
def PartCourse.rest (x : PartCourse) : Bool × Bool × StepWork := (x.grp.inStep, !x.grp.inStep && !x.grp.closed && x.grp.stalled.isNone, x.work)

/-! ### Updates of the records -/

@[simp] theorem ImgSlot.place_mk (st : SlotState) (rig : Dword) (ox oy : Nat) (mx my placed : Bool) (digest : BitVec 384) (loads gen : Nat)
    (genDigest : Option (BitVec 384)) (draft : Bool) (kmax nv : Nat) (unloadFor : Option UnloadFor) (drainEnd : Option Nat) (stopped joined : Bool) (lostStatus : Nat)
    (autos : AMap Auto) (models : List (Nat × Nat)) (sheet : SheetSched) :
    ImgSlot.place ⟨st, rig, ox, oy, mx, my, placed, digest, loads, gen, genDigest, draft, kmax, nv, unloadFor, drainEnd, stopped, joined, lostStatus, autos, models, sheet⟩ =
      ⟨st, rig, ox, oy, placed, stopped, joined⟩ := (rfl)

@[simp] theorem ImgSlot.place_eta (x : ImgSlot) : Place.mk x.st x.rig x.ox x.oy x.placed x.stopped x.joined = x.place := (rfl)

@[simp] theorem Group.course_mk (cyc step t0 : Nat) (stepping inStep startReady : Bool) (items : List LuffItem) (stalled : Option Nat) (closed : Bool)
    (faults carry : List StepFault) (gate : Option Nat) (guarded : Bool) (window : Nat) (quarNext quarantined held : Bool) (esc : AMap EscCount) :
    Group.course ⟨cyc, step, t0, stepping, inStep, startReady, items, stalled, closed, faults, carry, gate, guarded, window, quarNext, quarantined, held, esc⟩ =
      ⟨step, stepping, inStep, stalled, closed, quarantined⟩ := (rfl)

@[simp] theorem Group.course_eta (g : Group) : GroupCourse.mk g.step g.stepping g.inStep g.stalled g.closed g.quarantined = g.course := (rfl)

@[simp] theorem ReqPart.work_mk (base : Nat) (mirror : Option Nat) (quota slotBase slotCnt urgent urgentNext : Nat) (halt : Bool) (rejects : Nat)
    (weights weightsNext : AMap Nat) (deficits : AMap Int) (visit : Nat) (quantum : Bool) (sqs : AMap SubQ) (turnOf : Nat) (cq : OutRing) (held : List Record)
    (cqFull : Bool) (keff : AMap Nat) (commits : List Commit) (tallied : AMap (Nat × Nat)) (pageWork : List PageCmd) (poolFull : List (Nat × Nat × Nat))
    (stopBase stopCnt nsr : Nat) (srs : AMap OutRing) (stage : Staging) (rr : RingRead) (window : AMap Entry) (autoLoads : List AutoLoad) :
    ReqPart.work ⟨base, mirror, quota, slotBase, slotCnt, urgent, urgentNext, halt, rejects, weights, weightsNext, deficits, visit, quantum, sqs, turnOf, cq, held, cqFull,
      keff, commits, tallied, pageWork, poolFull, stopBase, stopCnt, nsr, srs, stage, rr, window, autoLoads⟩ = ⟨keff, commits⟩ := (rfl)

@[simp] theorem ReqPart.work_eta (r : ReqPart) : StepWork.mk r.keff r.commits = r.work := (rfl)

@[simp] theorem Slice.course_mk (id rank mods : Nat) (serials : List Dword) (st : SliceSt) (agree disagree late : List Nat) (downAt : AMap Nat) (held : AMap (List Nat))
    (lostMask lostCnt waits stray iso : Nat) (seen : AMap Nat) (gates : AMap Bool) (stamps : AMap Nat) (record : Option (List SlotRec)) (notices : List (Nat × Nat × Bool))
    (sends : List SheetSend) (turn told : AMap Nat) :
    Slice.course ⟨id, rank, mods, serials, st, agree, disagree, late, downAt, held, lostMask, lostCnt, waits, stray, iso, seen, gates, stamps, record, notices, sends, turn,
      told⟩ = ⟨rank, mods, st, held⟩ := (rfl)

@[simp] theorem Slice.course_eta (y : Slice) : SliceCourse.mk y.rank y.mods y.st y.held = y.course := (rfl)

@[simp] theorem Part.course_mk (en : Bool) (grp : Group) (flog : ELog) (slots : Vector ImgSlot 4) (escMode escModeNext home homeNext coalUs : Nat) (resetting resetAsked : Bool)
    (flrDiscard : Nat) (queue waiting : List HoistCmd) (early : List (HoistCmd × Nat × Nat)) (hoist : Option Hoist) (hstat : HoistStat) (cmdData : BitVec 256)
    (req : ReqPart) (slice : Slice) (recov : Option Recov) (emptying : List Emptying) (hot forceHot hotAsked : Bool) (refHwm switches : Nat) (parkKey : ParkKeys)
    (record : BitVec 1024) (signKey : Option (BitVec 776)) :
    Part.course ⟨en, grp, flog, slots, escMode, escModeNext, home, homeNext, coalUs, resetting, resetAsked, flrDiscard, queue, waiting, early, hoist, hstat, cmdData, req,
      slice, recov, emptying, hot, forceHot, hotAsked, refHwm, switches, parkKey, record, signKey⟩ =
      ⟨en, grp.course, slots.toList.map ImgSlot.place, req.work, slice.course⟩ := (rfl)

@[simp] theorem Part.course_eta (x : Part) : PartCourse.mk x.en x.grp.course (x.slots.toList.map ImgSlot.place) x.req.work x.slice.course = x.course := (rfl)

@[simp] theorem State.course_mk (pending : List Instr) (tb : Dword) (free : Nat) (cores : AMap Core) (fab : Fabric) (parts : AMap Part) (host : HostIf) (table : ReqTable)
    (stream : Stream) (stay : Stay) (sheet : Sheet) (serial : Dword) (grade : Nat) (xt : ColCopy) (mst : MstBlock) (sys : Sys) (p : Nat) :
    State.course ⟨pending, tb, free, cores, fab, parts, host, table, stream, stay, sheet, serial, grade, xt, mst, sys⟩ p =
      ⟨fab.fields, grade, sys.lmap, sys.struck, sys.shutdown, (AMap.at parts {} p).course⟩ := (rfl)

@[simp] theorem State.course_eta (s : State) (p : Nat) :
    Course.mk s.fab.fields s.grade s.sys.lmap s.sys.struck s.sys.shutdown (AMap.at s.parts {} p).course = s.course p := (rfl)

@[simp] theorem PartCourse.rest_eta (s : State) (p : Nat) : (AMap.at s.parts {} p).course.rest = (s.course p).part.rest := (rfl)

@[simp] theorem State.course_ite (c : Prop) [Decidable c] (s t : State) (p : Nat) : State.course (if c then s else t) p = if c then s.course p else t.course p :=
  apply_ite (State.course · p) _ _ _

@[simp] theorem Course.rest_ite (c : Prop) [Decidable c] (x y : Course) : PartCourse.rest (if c then x else y).part = if c then x.part.rest else y.part.rest :=
  apply_ite (fun x : Course => x.part.rest) _ _ _

@[simp] theorem course_foldl {α : Type} {f : State → α → State} {l : List α} {s : State} {p : Nat} (hf : ∀ s x, (f s x).course p = s.course p) :
    (l.foldl f s).course p = s.course p := by
  induction l generalizing s with
  | nil => rfl
  | cons x l ih => rw [List.foldl_cons, ih, hf]

@[simp] theorem rest_foldl {α : Type} {f : State → α → State} {l : List α} {s : State} {p : Nat} (hf : ∀ s x, ((f s x).course p).part.rest = (s.course p).part.rest) :
    ((l.foldl f s).course p).part.rest = (s.course p).part.rest := by
  induction l generalizing s with
  | nil => rfl
  | cons x l ih => rw [List.foldl_cons, ih, hf]

@[simp] theorem Group.course_ite (c : Prop) [Decidable c] (g h : Group) : Group.course (if c then g else h) = if c then g.course else h.course := apply_ite _ _ _ _

/-! ### The accessors -/

@[simp] theorem State.course_updPart {s : State} {q : Nat} {f : Part → Part} (hf : ∀ x, (f x).course = x.course) (p : Nat) : (s.updPart q f).course p = s.course p := by
  by_cases e : p = q
  · subst e
    simp only [State.course, State.part_updPart_same, hf]
    rfl
  · simp only [State.course, State.part_updPart_ne _ _ e]
    rfl

@[simp] theorem State.rest_updPart {s : State} {q : Nat} {f : Part → Part} (hf : ∀ x, (f x).course.rest = x.course.rest) (p : Nat) :
    ((s.updPart q f).course p).part.rest = (s.course p).part.rest := by
  by_cases e : p = q
  · subst e
    simp only [State.course, State.part_updPart_same, hf]
  · simp only [State.course, State.part_updPart_ne _ _ e]

/-- A slot or slice changed leaves the rest. -/
theorem Part.rest_of_eq {x y : Part} (hg : y.grp.course = x.grp.course) (hw : y.req.work = x.req.work) : y.course.rest = x.course.rest := by
  simp only [Part.course, PartCourse.rest, hg, hw]

/-- A group changed: the rest stays where a step stays under way or, outside one, the line and the end do. -/
theorem State.rest_updGrp {s : State} {q : Nat} {f : Group → Group} (hi : (f (s.grp q)).inStep = (s.grp q).inStep)
    (ho : (s.grp q).inStep = false → (f (s.grp q)).closed = (s.grp q).closed ∧ (f (s.grp q)).stalled = (s.grp q).stalled) (p : Nat) :
    ((s.updGrp q f).course p).part.rest = (s.course p).part.rest := by
  by_cases e : p = q
  · subst e
    rw [State.grp] at hi ho
    cases h : (s.part p).grp.inStep <;> simp_all [State.course, State.updGrp, Part.course, PartCourse.rest, Group.course]
  · simp only [State.course, State.updGrp, State.part_updPart_ne _ _ e]

@[simp] theorem State.course_setCore (s : State) (m : Nat) (c : Core) (pt : Nat) : (s.setCore m c).course pt = s.course pt := (rfl)

@[simp] theorem State.course_updCore (s : State) (m : Nat) (f : Core → Core) (pt : Nat) : (s.updCore m f).course pt = s.course pt := (rfl)

@[simp] theorem State.course_updMast (s : State) (m : Nat) (f : Mast → Mast) (pt : Nat) : (s.updMast m f).course pt = s.course pt := (rfl)

@[simp] theorem State.rest_setField (s : State) (n : Nat) (x : FieldSt) (pt : Nat) : ((s.setField n x).course pt).part.rest = (s.course pt).part.rest := by
  simp [State.setField]

@[simp] theorem State.rest_updField (s : State) (n : Nat) (f : FieldSt → FieldSt) (pt : Nat) : ((s.updField n f).course pt).part.rest = (s.course pt).part.rest := by
  simp [State.updField]

@[simp] theorem State.course_updGrp {s : State} {q : Nat} {f : Group → Group} (hf : ∀ g, (f g).course = g.course) (pt : Nat) : (s.updGrp q f).course pt = s.course pt :=
  State.course_updPart (fun x => by simp [hf]) pt

@[simp] theorem State.course_eachCore (s : State) (ms : List Nat) (f : Nat → Core → Core) (pt : Nat) : (s.eachCore ms f).course pt = s.course pt :=
  course_foldl fun _ _ => rfl

@[simp] theorem State.course_atTick (s : State) (t : Dword) (pt : Nat) : (s.atTick t).course pt = s.course pt := by simp [State.atTick]

@[simp] theorem State.course_updPwr (s : State) (f : Pwr → Pwr) (pt : Nat) : (s.updPwr f).course pt = s.course pt := by simp [State.updPwr]

@[simp] theorem State.course_updCorePwr (s : State) (m : Nat) (f : CorePwr → CorePwr) (pt : Nat) : (s.updCorePwr m f).course pt = s.course pt := by
  simp [State.updCorePwr]

@[simp] theorem State.course_updFieldPwr (s : State) (n : Nat) (f : FieldPwr → FieldPwr) (pt : Nat) : (s.updFieldPwr n f).course pt = s.course pt := by
  simp [State.updFieldPwr]

/-! ### Host functions, the recorder, faults -/

@[simp] theorem State.course_updFn (s : State) (f : Nat) (g : Fn → Fn) (pt : Nat) : (s.updFn f g).course pt = s.course pt := by simp [State.updFn]

@[simp] theorem course_emit (s : State) (x : Sent) (pt : Nat) : (emit s x).course pt = s.course pt := by simp [emit]

@[simp] theorem State.course_updVec (s : State) (f v : Nat) (g : Vec → Vec) (pt : Nat) : (s.updVec f v g).course pt = s.course pt := by simp [State.updVec]

@[simp] theorem course_sendVec (s : State) (f v : Nat) (pt : Nat) : (sendVec s f v).course pt = s.course pt := by simp [sendVec]

@[simp] theorem course_signal (s : State) (f v : Nat) (pt : Nat) : (signal s f v).course pt = s.course pt := by simp [signal]

@[simp] theorem course_signalLog (s : State) (l : ELog) (f v : Nat) (pt : Nat) : (signalLog s l f v).course pt = s.course pt := by simp [signalLog]

@[simp] theorem course_dblSet (s : State) (f b : Nat) (pt : Nat) : (dblSet s f b).course pt = s.course pt := by simp [dblSet]

@[simp] theorem course_dblBoth (s : State) (p b : Nat) (pt : Nat) : (dblBoth s p b).course pt = s.course pt := by simp [dblBoth]

@[simp] theorem State.course_updEvr (s : State) (f : Evr → Evr) (pt : Nat) : (s.updEvr f).course pt = s.course pt := by simp [State.updEvr]

@[simp] theorem course_evrEvent (s : State) (kind sev part field core : Nat) (value aux : Option Dword) (pt : Nat) :
    (evrEvent s kind sev part field core value aux).course pt = s.course pt := by
  simp only [evrEvent]
  split
  · rfl
  · split
    · rfl
    · split
      · rfl
      · rw [State.course_ite, course_signal]
        exact ite_self _

@[simp] theorem course_evrSample (s : State) (src part field core : Nat) (value bin : Int) (pt : Nat) :
    (evrSample s src part field core value bin).course pt = s.course pt := by
  simp [evrSample]

@[simp] theorem course_evrIndex (s : State) (src part unit : Nat) (pt : Nat) : (evrIndex s src part unit).course pt = s.course pt := by simp [evrIndex]

@[simp] theorem course_beginFlush (s : State) (f : EvrFlush) (pt : Nat) : (beginFlush s f).course pt = s.course pt := by simp [beginFlush]

@[simp] theorem course_evrFault (s : State) (code part field core : Nat) (value : Option Dword) (pt : Nat) :
    (evrFault s code part field core value).course pt = s.course pt := by
  simp [evrFault]

@[simp] theorem course_logFault (s : State) (p code field core items : Nat) (pt : Nat) : (logFault s p code field core items).course pt = s.course pt := by
  simp [logFault]

@[simp] theorem course_raiseFaultN (s : State) (p code field core items : Nat) (pt : Nat) : (raiseFaultN s p code field core items).course pt = s.course pt := by
  simp [raiseFaultN]

@[simp] theorem course_raiseFault (s : State) (p code field core : Nat) (pt : Nat) : (raiseFault s p code field core).course pt = s.course pt := by simp [raiseFault]

@[simp] theorem course_mstLog (s : State) (m tier kind row rid : Nat) (pt : Nat) : (mstLog s m tier kind row rid).course pt = s.course pt := by simp [mstLog]

@[simp] theorem course_styLog (s : State) (port kind part entry spage : Nat) (pt : Nat) : (styLog s port kind part entry spage).course pt = s.course pt := by
  simp [styLog]

/-! ### Faults of a step, slots and slices -/

@[simp] theorem course_failStepAt (s : State) (p code cyc : Nat) (pt : Nat) : (failStepAt s p code cyc).course pt = s.course pt := by simp [failStepAt]

@[simp] theorem course_failStep (s : State) (p code : Nat) (pt : Nat) : (failStep s p code).course pt = s.course pt := by simp [failStep]

@[simp] theorem course_coreFaultAt (s : State) (m code cyc : Nat) (pt : Nat) : (coreFaultAt s m code cyc).course pt = s.course pt := by simp [coreFaultAt]

@[simp] theorem course_coreFault (s : State) (m code : Nat) (pt : Nat) : (coreFault s m code).course pt = s.course pt := by simp [coreFault]

@[simp] theorem course_ownedFault (s : State) (m code : Nat) (pt : Nat) : (ownedFault s m code).course pt = s.course pt := by simp [ownedFault]

@[simp] theorem course_violateAt (s0 : State) (m ctx : Nat) (v : Viol) (cyc : Nat) (pt : Nat) : (violateAt s0 m ctx v cyc).course pt = s0.course pt := by simp [violateAt]

@[simp] theorem State.course_settle (s : State) (m t : Nat) (pt : Nat) : (s.settle m t).course pt = s.course pt := by simp [State.settle]

@[simp] theorem State.course_settleEnd (s : State) (p pt : Nat) : (s.settleEnd p).course pt = s.course pt := course_foldl fun _ _ => State.course_settle _ _ _ _

@[simp] theorem course_armLuff (s : State) (p : Nat) (src : LuffSrc) (u : Nat) (pt : Nat) : (armLuff s p src u).course pt = s.course pt := by simp [armLuff]

/-- A partition's image slot changed in what is no part of its place. -/
@[simp] theorem State.course_updImg {s : State} {q i : Nat} {f : ImgSlot → ImgSlot} (hf : ∀ x, (f x).place = x.place) (pt : Nat) :
    (s.updImg q i f).course pt = s.course pt := by
  refine State.course_updPart (fun x => ?_) pt
  split
  · rename_i hi
    have hp : (x.slots.set i (f x.slots[i])).toList.map ImgSlot.place = x.slots.toList.map ImgSlot.place := by
      rw [Vector.toList_set, List.map_set, hf]
      exact List.ext_getElem (by simp) fun j _ _ => by simp +contextual [List.getElem_set]
    simp [hp]
  · rfl

@[simp] theorem State.rest_updImg (s : State) (q i : Nat) (f : ImgSlot → ImgSlot) (pt : Nat) : ((s.updImg q i f).course pt).part.rest = (s.course pt).part.rest := by
  refine State.rest_updPart (fun x => ?_) pt
  split <;> exact Part.rest_of_eq rfl rfl

@[simp] theorem State.course_updPort (s : State) (i : Nat) (f : SheetPort → SheetPort) (pt : Nat) : (s.updPort i f).course pt = s.course pt := by simp [State.updPort]

@[simp] theorem State.course_updSlice {s : State} {q : Nat} {f : Slice → Slice} (hf : ∀ y, (f y).course = y.course) (pt : Nat) :
    (s.updSlice q f).course pt = s.course pt := State.course_updPart (fun x => by simp [hf]) pt

@[simp] theorem State.rest_updSlice (s : State) (q : Nat) (f : Slice → Slice) (pt : Nat) : ((s.updSlice q f).course pt).part.rest = (s.course pt).part.rest :=
  State.rest_updPart (f := fun x => { x with slice := f x.slice }) (fun _ => Part.rest_of_eq rfl rfl) pt

@[simp] theorem course_putFrame (s : State) (i kind frame : Nat) (pt : Nat) : (putFrame s i kind frame).course pt = s.course pt := by simp [putFrame]

@[simp] theorem course_sendFrame (s : State) (p r : Nat) (kind : Nat) (err : Bool) (route fidx nflit : Nat) (time : Nat) (body : Nat) (pt : Nat) :
    (sendFrame s p r kind err route fidx nflit time body).course pt = s.course pt := by
  simp only [sendFrame]
  split <;> simp

@[simp] theorem course_slotGone (s : State) (p slot : Nat) (pt : Nat) : (slotGone s p slot).course pt = s.course pt := by simp [slotGone]

@[simp] theorem rest_setSlice (s : State) (p : Nat) (st : SliceSt) (pt : Nat) : ((setSlice s p st).course pt).part.rest = (s.course pt).part.rest := by simp [setSlice]

/-! ### Steps ended at once, fields and cores lost -/

@[simp] theorem rest_endStepNow (s : State) (p : Nat) (pt : Nat) : ((endStepNow s p).course pt).part.rest = (s.course pt).part.rest := by
  cases hs : (s.grp p).inStep with
  | false => simp [endStepNow, hs]
  | true =>
    have he : ((s.settleEnd p).grp p).inStep = true := (congrArg (fun x : Course => x.part.grp.inStep) (s.course_settleEnd p p)).trans hs
    simp only [endStepNow, hs, if_true]
    rw [rest_foldl fun _ _ => State.rest_updField .., State.course_eachCore, State.rest_updGrp rfl fun h => absurd he (by simp [h]), State.course_settleEnd]

@[simp] theorem course_markEntries (s : State) (p : Nat) (slots : List Nat) (status : Nat) (pt : Nat) : (markEntries s p slots status).course pt = s.course pt := by
  simp [markEntries]

@[simp] theorem rest_partFault (s : State) (p code n c status : Nat) (slots : List Nat) (pt : Nat) :
    ((partFault s p code n c status slots).course pt).part.rest = (s.course pt).part.rest := by
  simp [partFault]

@[simp] theorem rest_lostFault (s : State) (p code n c status : Nat) (slots : List Nat) (pt : Nat) :
    ((lostFault s p code n c status slots).course pt).part.rest = (s.course pt).part.rest := by
  simp [lostFault]

@[simp] theorem rest_darkField (s : State) (n : Nat) (pt : Nat) : ((darkField s n).course pt).part.rest = (s.course pt).part.rest :=
  (State.rest_updField s n (fun f => { f with mode := .dark }) pt :)

@[simp] theorem course_releaseHold (s : State) (p : Nat) (pt : Nat) : (releaseHold s p).course pt = s.course pt := by simp [releaseHold]

@[simp] theorem course_followCopy (s : State) (pt : Nat) : (followCopy s).course pt = s.course pt := by simp [followCopy]

@[simp] theorem course_dropRecov (s : State) (p n : Nat) (pt : Nat) : (dropRecov s p n).course pt = s.course pt := by
  unfold dropRecov
  split <;> simp

@[simp] theorem rest_fieldLost (s : State) (n code : Nat) (pt : Nat) : ((fieldLost s n code).course pt).part.rest = (s.course pt).part.rest := by simp [fieldLost]

@[simp] theorem course_furlCore (s : State) (m cause : Nat) (pt : Nat) : (furlCore s m cause).course pt = s.course pt := by simp [furlCore]

@[simp] theorem course_powerCore (s : State) (m : Nat) (pt : Nat) : (powerCore s m).course pt = s.course pt := by simp [powerCore]

@[simp] theorem rest_mapSpare (s : State) (n cxp g : Nat) (pt : Nat) : ((mapSpare s n cxp g).course pt).part.rest = (s.course pt).part.rest := by simp [mapSpare]

@[simp] theorem rest_coreLost (s : State) (m code : Nat) (pt : Nat) : ((coreLost s m code).course pt).part.rest = (s.course pt).part.rest := by simp [coreLost]

@[simp] theorem rest_coreDead (s : State) (m code cause : Nat) (pt : Nat) : ((coreDead s m code cause).course pt).part.rest = (s.course pt).part.rest := by
  simp [coreDead]

@[simp] theorem rest_columnFail (s : State) (m : Nat) (code row : Nat) (pt : Nat) : ((columnFail s m code row).course pt).part.rest = (s.course pt).part.rest := by
  simp [columnFail]

@[simp] theorem rest_sailCheckAct (s : State) (m sail : Nat) (pt : Nat) : ((sailCheckAct s m sail).course pt).part.rest = (s.course pt).part.rest := by
  simp only [sailCheckAct]
  split <;> simp 

@[simp] theorem rest_sailChecksAct (s : State) (p : Nat) (pt : Nat) : ((sailChecksAct s p).course pt).part.rest = (s.course pt).part.rest := by
  refine rest_foldl fun s m => (rest_foldl fun u i => ?_).trans (by simp)
  split
  · rfl
  · exact rest_sailCheckAct ..

@[simp] theorem course_countCorrected (s : State) (m row tier : Nat) (pt : Nat) : (countCorrected s m row tier).course pt = s.course pt := by simp [countCorrected]

@[simp] theorem course_corrected (s : State) (m row tier : Nat) (pt : Nat) : (corrected s m row tier).course pt = s.course pt := by simp [corrected]

@[simp] theorem rest_uncorrectable (s : State) (m row : Nat) (pt : Nat) : ((uncorrectable s m row).course pt).part.rest = (s.course pt).part.rest := by
  simp [uncorrectable]

@[simp] theorem rest_rowsFound (s : State) (m : Nat) (ce ue : List Nat) (pt : Nat) : ((rowsFound s m ce ue).course pt).part.rest = (s.course pt).part.rest := by
  simp [rowsFound]

/-! ### Entries, pages, parks and reports -/

@[simp] theorem course_updPages (s : State) (e : Nat) (f : List Page → List Page) (pt : Nat) : (updPages s e f).course pt = s.course pt := by simp [updPages]

@[simp] theorem course_seekAgain (s : State) (p : Nat) (w : PageCmd) (res : Nat) (pt : Nat) : (seekAgain s p w res).course pt = s.course pt := by
  simp only [seekAgain]
  (repeat' split) <;> simp

@[simp] theorem course_answer (s : State) (p : Nat) (op : PageOp) (m rid vpn res : Nat) (pt : Nat) : (answer s p op m rid vpn res).course pt = s.course pt := by
  simp only [answer]
  (repeat' split) <;> simp

@[simp] theorem State.course_setEnt (s : State) (e : Nat) (x : Entry) (pt : Nat) : (s.setEnt e x).course pt = s.course pt := by simp [State.setEnt]

@[simp] theorem State.course_updEnt (s : State) (e : Nat) (f : Entry → Entry) (pt : Nat) : (s.updEnt e f).course pt = s.course pt := by simp [State.updEnt]

@[simp] theorem State.course_updReq {s : State} {q : Nat} {f : ReqPart → ReqPart} (hf : ∀ r, (f r).work = r.work) (pt : Nat) :
    (s.updReq q f).course pt = s.course pt := State.course_updPart (fun x => by simp [hf]) pt

@[simp] theorem course_countFlr (s : State) (p : Nat) (pt : Nat) : (countFlr s p).course pt = s.course pt := by simp [countFlr]

@[simp] theorem course_lateCancel (s : State) (p e : Nat) (x : Entry) (t : Nat) (pt : Nat) : (lateCancel s p e x t).course pt = s.course pt := by simp [lateCancel]

@[simp] theorem course_releasePages (s : State) (p e : Nat) (pt : Nat) : (releasePages s p e).course pt = s.course pt := by simp [releasePages]

@[simp] theorem course_discardSled (s : State) (e : Nat) (pt : Nat) : (discardSled s e).course pt = s.course pt := by simp [discardSled]

@[simp] theorem State.course_updSport (s : State) (i : Nat) (f : StayPort → StayPort) (pt : Nat) : (s.updSport i f).course pt = s.course pt := by simp [State.updSport]

@[simp] theorem course_settle (s : State) (p e t : Nat) (pt : Nat) : (settle s p e t).course pt = s.course pt := by
  simp only [settle]
  (repeat' split) <;> simp

@[simp] theorem course_parkFailed (s : State) (p e : Nat) (fault : Option Nat) (res : Bool) (t : Nat) (pt : Nat) : (parkFailed s p e fault res t).course pt = s.course pt := by
  unfold parkFailed
  split <;> simp

@[simp] theorem course_parkConfirmed (s : State) (p e t : Nat) (pt : Nat) : (parkConfirmed s p e t).course pt = s.course pt := by simp [parkConfirmed]

@[simp] theorem course_queueReads (s : State) (e gen : Nat) (gs : List Page) (pt : Nat) : (queueReads s e gen gs).course pt = s.course pt := by simp [queueReads]

@[simp] theorem course_beginPark (s : State) (p e t : Nat) (pt : Nat) : (beginPark s p e t).course pt = s.course pt := by
  simp only [beginPark]
  (repeat' split) <;> simp

@[simp] theorem course_noteReport (x : Part) (c : HoistCmd) (r : HoistRpt) (ok : Bool) : (noteReport x c r ok).course = x.course := (rfl)

@[simp] theorem course_writeReport (s : State) (p : Nat) (c : HoistCmd) (r : HoistRpt) (pt : Nat) : (writeReport s p c r).course pt = s.course pt := by simp [writeReport]

@[simp] theorem course_abortQueue (s : State) (p : Nat) (pt : Nat) : (abortQueue s p).course pt = s.course pt := by simp [abortQueue]

/-! ### What waits at a mast -/

@[simp] theorem course_serveUnmap (s : State) (m rid vpn : Nat) (pt : Nat) : (serveUnmap s m rid vpn).course pt = s.course pt := by
  simp only [serveUnmap]
  split <;> simp

@[simp] theorem course_serveRelease (s : State) (m rid : Nat) (pt : Nat) : (serveRelease s m rid).course pt = s.course pt := by simp [serveRelease]

@[simp] theorem rest_serveAccess (s : State) (m : Nat) (write : Bool) (addr : Nat) (d : Row) (found : List (Nat × Bool)) (pt : Nat) :
    ((serveAccess s m write addr d found).course pt).part.rest = (s.course pt).part.rest := by
  simp only [serveAccess]
  split <;> simp

@[simp] theorem rest_walkFound (s : State) (m : Nat) (rows : List Nat) (found : List (Nat × Bool)) (pt : Nat) :
    ((walkFound s m rows found).1.course pt).part.rest = (s.course pt).part.rest := by
  have h : ∀ (arm : State → Nat → State), (∀ s r, (arm s r).course pt = s.course pt) → ∀ ce ue l : List Nat,
      ((l.foldl arm (rowsFound s m ce ue)).course pt).part.rest = (s.course pt).part.rest := fun arm ha ce ue l => by rw [course_foldl ha, rest_rowsFound]
  simp only [walkFound]
  split <;> exact h _ (fun s r => by simp) _ _ _

theorem rest_serveWalk {go : State → State} {pt : Nat} (hg : ∀ s, ((go s).course pt).part.rest = (s.course pt).part.rest) (s : State) (m : Nat) (op : PageOp) (rid vpn : Nat)
    (gran : Option Nat) (found : List (Nat × Bool)) : ((serveWalk s m op rid vpn gran found go).course pt).part.rest = (s.course pt).part.rest := by
  have hw := rest_walkFound s m ((s.core m).mast.walkRows rid vpn gran) found pt
  unfold serveWalk
  split <;> rename_i h <;> rw [h] at hw
  · rw [course_answer, State.course_updMast, hw]
  · exact (hg _).trans hw

@[simp] theorem course_noticeOut (s : State) (p e what : Nat) (ok : Bool) (pt : Nat) : (noticeOut s p e what ok).course pt = s.course pt := by simp [noticeOut]

@[simp] theorem course_unparkFails (s : State) (p e port kind code spage : Nat) (pt : Nat) : (unparkFails s p e port kind code spage).course pt = s.course pt := by
  simp [unparkFails]

@[simp] theorem course_unparkStep (s : State) (p e : Nat) (pt : Nat) : (unparkStep s p e).course pt = s.course pt := by simp [unparkStep]

@[simp] theorem course_placeParked (s : State) (p m e vpn g : Nat) (d : Memory) (pt : Nat) : (placeParked s p m e vpn g d).course pt = s.course pt := by
  simp only [placeParked]
  split
  · rfl
  · split <;> simp

@[simp] theorem rest_serveOne (s : State) (m : Nat) (o : Outside) (pt : Nat) : ((serveOne s m o).course pt).part.rest = (s.course pt).part.rest := by
  cases o with
  | access write _ _ addr d found => exact rest_serveAccess ..
  | map rid vpn g wr found => exact rest_serveWalk (fun s => by simp) ..
  | unmap rid vpn found => exact rest_serveWalk (fun s => by simp) ..
  | release rid found =>
    have hw := rest_walkFound s m [(0x10000 + 4 * rid) / 128] found pt
    simp only [serveOne]
    split <;> rename_i h <;> rw [h] at hw
    · rw [State.course_updMast, hw]
    · rw [course_serveRelease, hw]
  | park _ _ _ => rfl
  | place e vpn g d => simp [serveOne]
  | rebuild => rfl
  | init rid vpn g => simp [serveOne]

@[simp] theorem rest_serveAll (s : State) (m : Nat) (pt : Nat) : ((serveAll s m).course pt).part.rest = (s.course pt).part.rest := by simp [serveAll]

/-! ### Commits, endings and admissions -/

@[simp] theorem course_sendFrameTokens (s : State) (p e : Nat) (x : Entry) (k : Nat) (pt : Nat) : (sendFrameTokens s p e x k).course pt = s.course pt := by
  simp [sendFrameTokens]

@[simp] theorem course_tally (s : State) (p tq gen prompt : Nat) (pt : Nat) : (tally s p tq gen prompt).course pt = s.course pt := by simp [tally]

@[simp] theorem course_sendTally (s : State) (m : Tally) (pt : Nat) : (sendTally s m).course pt = s.course pt := by simp [sendTally]

@[simp] theorem course_sendTokens (s : State) (p t : Nat) (pt : Nat) : (sendTokens s p t).course pt = s.course pt := by simp [sendTokens]

@[simp] theorem course_putRing (s : State) (e n : Nat) (w : BitVec 64) (pt : Nat) : (putRing s e n w).course pt = s.course pt := (rfl)

@[simp] theorem course_evalTokens (e : Nat) (x : Entry) (st : StopSet) (len0 i : Nat) (ws : List (BitVec 64)) (s : State) (pt : Nat) :
    (evalTokens e x st len0 i ws s).1.course pt = s.course pt := by
  induction ws generalizing i s with
  | nil => rfl
  | cons w r ih =>
    simp only [evalTokens]
    split
    · simp
    · split
      · simp
      · simp [ih]

@[simp] theorem course_applyCommit (s : State) (p e k : Nat) (c : Commit) (pt : Nat) : (applyCommit s p e k c).1.course pt = s.course pt := by
  simp only [applyCommit]
  split <;> simp

@[simp] theorem course_seekPage (s : State) (p e rid : Nat) (h : Nat × Nat) (pt : Nat) : (seekPage s p e rid h).course pt = s.course pt := by
  unfold seekPage
  (repeat' split) <;> simp

@[simp] theorem course_lookAhead (s : State) (p e : Nat) (pt : Nat) : (lookAhead s p e).course pt = s.course pt := by
  unfold lookAhead
  (repeat' split) <;> simp

@[simp] theorem course_dropPages (s : State) (p e : Nat) (pt : Nat) : (dropPages s p e).course pt = s.course pt := by simp [dropPages]

@[simp] theorem course_endUncommitted (s : State) (p e status t : Nat) (late : Bool) (pt : Nat) : (endUncommitted s p e status t late).course pt = s.course pt := by
  simp [endUncommitted]

@[simp] theorem course_endActive (s : State) (p e status detail t : Nat) (late : Bool) (pt : Nat) : (endActive s p e status detail t late).course pt = s.course pt := by
  simp [endActive]

@[simp] theorem course_endingOf (s : State) (p e t : Nat) (stop : Option (Nat × Nat)) (pt : Nat) : (endingOf s p e t stop).course pt = s.course pt := by
  simp only [endingOf]
  split <;> simp

@[simp] theorem course_settleStep (s : State) (p t : Nat) (ok : Bool) (esc : AMap EscCount) (pt : Nat) : (settleStep s p t ok esc).course pt = s.course pt := by
  simp only [settleStep, course_sendTokens]
  refine course_foldl fun s e => ?_
  split <;> simp

@[simp] theorem course_endQueued (s : State) (p t : Nat) (pt : Nat) : (endQueued s p t).course pt = s.course pt := by
  refine course_foldl fun s x => ?_
  split <;> simp

@[simp] theorem course_lookAheadAll (s : State) (p t : Nat) (pt : Nat) : (lookAheadAll s p t).course pt = s.course pt := by simp [lookAheadAll]

@[simp] theorem course_admitEntry (s : State) (p e : Nat) (pt : Nat) : (admitEntry s p e).course pt = s.course pt := by
  unfold admitEntry
  split <;> simp

@[simp] theorem course_roundRobin (p t n : Nat) (s : State) (pt : Nat) : (roundRobin p t n s).course pt = s.course pt := by
  induction n generalizing s with
  | zero => rfl
  | succ n ih =>
    simp only [roundRobin]
    (repeat' split) <;> simp [ih]

@[simp] theorem course_clearDeficits (s : State) (p : Nat) (pt : Nat) : (clearDeficits s p).course pt = s.course pt := by simp [clearDeficits]

@[simp] theorem course_admitAll (s : State) (p t : Nat) (pt : Nat) : (admitAll s p t).course pt = s.course pt := by simp [admitAll]

@[simp] theorem State.course_luffCurrent (s : State) (p : Nat) (pt : Nat) : (s.luffCurrent p).course pt = s.course pt := by simp [State.luffCurrent]

/-! ### Messages and settings -/

@[simp] theorem course_sendReply (s : State) (f : Nat) (r : BitVec 512) (pt : Nat) : (sendReply s f r).course pt = s.course pt := by simp [sendReply]

@[simp] theorem course_countDiscards (s : State) (p n : Nat) (pt : Nat) : (countDiscards s p n).course pt = s.course pt := by simp [countDiscards]

@[simp] theorem course_endMsg (s : State) (f : Nat) (m : MbxMsg) (status detail : Nat) (payload : List (Nat × Nat × Nat)) (pt : Nat) :
    (endMsg s f m status detail payload).course pt = s.course pt := by simp [endMsg]

@[simp] theorem course_endBody (s : State) (f : Nat) (body : BitVec 512) (status detail : Nat) (payload : List (Nat × Nat × Nat)) (pt : Nat) :
    (endBody s f body status detail payload).course pt = s.course pt := by
  unfold endBody
  split <;> simp

@[simp] theorem State.course_updClk (s : State) (f : Clk → Clk) (pt : Nat) : (s.updClk f).course pt = s.course pt := by simp [State.updClk]

@[simp] theorem State.course_updClkPart (s : State) (p : Nat) (f : ClkPart → ClkPart) (pt : Nat) : (s.updClkPart p f).course pt = s.course pt := by
  simp [State.updClkPart]

@[simp] theorem course_applySwal (s : State) (p : Nat) (pt : Nat) : (applySwal s p).course pt = s.course pt := by simp [applySwal]

@[simp] theorem course_pwrLog (s : State) (n c kind phase value : Nat) (pt : Nat) : (pwrLog s n c kind phase value).course pt = s.course pt := by simp [pwrLog]

@[simp] theorem rest_tripField (s : State) (n code value : Nat) (pt : Nat) : ((tripField s n code value).course pt).part.rest = (s.course pt).part.rest := by
  simp [tripField]

/-! ### What a boundary does -/

@[simp] theorem rest_boundaryPower (s : State) (p : Nat) (pt : Nat) : ((boundaryPower s p).course pt).part.rest = (s.course pt).part.rest := by
  simp only [boundaryPower, State.course_updPwr]
  exact rest_foldl fun s n => by simp

@[simp] theorem rest_quarantine (s : State) (p status : Nat) (pt : Nat) : ((quarantine s p status).course pt).part.rest = (s.course pt).part.rest := by
  have h : ∀ u : State, ((u.updGrp p (fun g => { g with quarantined := true, quarNext := false, stepping := false, startReady := false })).course pt).part.rest =
      (u.course pt).part.rest := fun u => State.rest_updGrp rfl (fun _ => ⟨rfl, rfl⟩) pt
  simp [quarantine, h]

@[simp] theorem course_leftoverCheck (s : State) (p : Nat) (ok : Bool) (pt : Nat) : (leftoverCheck s p ok).course pt = s.course pt := by
  refine course_foldl fun s x => ?_
  split <;> simp

@[simp] theorem course_drainEvents (s : State) (p : Nat) (pt : Nat) : (drainEvents s p).course pt = s.course pt := by simp [drainEvents]

@[simp] theorem rest_emptySlots (s : State) (p : Nat) (pt : Nat) : ((emptySlots s p).course pt).part.rest = (s.course pt).part.rest := by simp [emptySlots]

@[simp] theorem rest_resetSlots (s : State) (p : Nat) (pt : Nat) : ((resetSlots s p).course pt).part.rest = (s.course pt).part.rest := by
  have h : ∀ u : State, ((u.updGrp p (fun g => { g with quarantined := false, quarNext := false })).course pt).part.rest =
      (u.course pt).part.rest := fun u => State.rest_updGrp rfl (fun _ => ⟨rfl, rfl⟩) pt
  simp [resetSlots, h]

@[simp] theorem rest_slotEvents (s : State) (p : Nat) (pt : Nat) : ((slotEvents s p).course pt).part.rest = (s.course pt).part.rest := by simp [slotEvents]

@[simp] theorem rest_stopDrained (s : State) (p : Nat) (pt : Nat) : ((stopDrained s p).course pt).part.rest = (s.course pt).part.rest := by simp [stopDrained]

@[simp] theorem rest_applyTlbs (s : State) (p : Nat) (pt : Nat) : ((applyTlbs s p).course pt).part.rest = (s.course pt).part.rest := by
  refine rest_foldl fun s m => ?_
  rw [State.course_updMast]
  split <;> simp

@[simp] theorem course_dropTravel (s : State) (p : Nat) (pt : Nat) : (dropTravel s p).course pt = s.course pt := by simp [dropTravel]

@[simp] theorem course_keepWindow (s : State) (p : Nat) (pt : Nat) : (keepWindow s p).course pt = s.course pt := by simp [keepWindow]

@[simp] theorem course_sendStamps (s : State) (p t : Nat) (pt : Nat) : (sendStamps s p t).course pt = s.course pt := by simp [sendStamps]

@[simp] theorem course_endMarked (s : State) (p t : Nat) (pt : Nat) : (endMarked s p t).course pt = s.course pt := by simp [endMarked]

@[simp] theorem rest_lostToWaiting (s : State) (p : Nat) (pt : Nat) : ((lostToWaiting s p).course pt).part.rest = (s.course pt).part.rest := by simp [lostToWaiting]

@[simp] theorem course_applyAutos (s : State) (p : Nat) (pt : Nat) : (applyAutos s p).course pt = s.course pt := by simp [applyAutos]

@[simp] theorem course_applyGate (s : State) (p : Nat) (pt : Nat) : (applyGate s p).course pt = s.course pt := by simp [applyGate]

@[simp] theorem course_applySettings (s : State) (p : Nat) (pt : Nat) : (applySettings s p).course pt = s.course pt := by
  have hsec : ∀ (u : State) (x : Sec), ({ u with sys := { u.sys with sec := x } } : State).course pt = u.course pt := fun _ _ => rfl
  have hstream : ∀ (u : State) (x : Stream), ({ u with stream := x } : State).course pt = u.course pt := fun _ _ => rfl
  simp only [applySettings, course_applyAutos, course_applySwal]
  rw [hsec]
  split
  · rw [hstream]
    simp
  · simp

@[simp] theorem course_serveQueues (s : State) (p t : Nat) (pt : Nat) : (serveQueues s p t).course pt = s.course pt := by simp [serveQueues]

@[simp] theorem course_tellEnd (s : State) (p t : Nat) (pt : Nat) : (tellEnd s p t).course pt = s.course pt := by simp [tellEnd]

@[simp] theorem course_applyRecord (s : State) (p t : Nat) (pt : Nat) : (applyRecord s p t).course pt = s.course pt := by
  unfold applyRecord
  split <;> simp

end Sys2Proof.Machine

namespace Sys2Proof.Machine

theorem State.part_course (s : State) (p : Nat) : (s.course p).part = (s.part p).course := rfl

/-! ### The end boundary -/

/-- A partition in no step, of whose last step nothing is left. -/
def PartCourse.AtRest (x : PartCourse) : Prop := x.rest = (false, true, ⟨[], []⟩)

theorem State.atRest_iff (s : State) (p : Nat) : (s.course p).part.AtRest ↔
    ((s.grp p).inStep = false ∧ (s.grp p).closed = false ∧ (s.grp p).stalled = none) ∧ (s.req p).commits = [] ∧ (s.req p).keff = [] := by
  simp only [PartCourse.AtRest, PartCourse.rest, Prod.mk.injEq, Bool.and_eq_true, Bool.not_eq_true', Option.isNone_iff_eq_none]
  show _ ∧ _ ∧ StepWork.mk (s.req p).keff (s.req p).commits = _ ↔ _
  rw [StepWork.mk.injEq]
  exact ⟨fun ⟨_, ⟨⟨hi, hc⟩, hs⟩, hk, hm⟩ => ⟨⟨hi, hc, hs⟩, hm, hk⟩, fun ⟨⟨hi, hc, hs⟩, hm, hk⟩ => ⟨hi, ⟨⟨hi, hc⟩, hs⟩, hk, hm⟩⟩

theorem Group.course_afterStep (g : Group) (now : List StepFault) :
    (g.afterStep now).inStep = false ∧ (g.afterStep now).closed = false ∧ (g.afterStep now).stalled = none := by
  unfold Group.afterStep
  dsimp only
  split
  · split <;> exact ⟨rfl, rfl, rfl⟩
  · exact ⟨rfl, rfl, rfl⟩

/-- A group after its step is in none. -/
theorem rest_afterStep (s : State) (p : Nat) (now : List StepFault) :
    ((s.updGrp p (fun g => g.afterStep now)).course p).part.rest = (false, true, (s.course p).part.work) := by
  obtain ⟨hi, hc, hs⟩ := (s.grp p).course_afterStep now
  rw [State.part_course, State.updGrp, State.part_updPart_same]
  refine Prod.ext hi (Prod.ext ?_ rfl)
  show (!((s.grp p).afterStep now).inStep && !((s.grp p).afterStep now).closed && ((s.grp p).afterStep now).stalled.isNone) = true
  rw [hi, hc, hs]
  rfl

/-- What a step has gathered is cleared. -/
theorem rest_clearWork (s : State) (p : Nat) : ((s.updReq p (fun r => { r with commits := [], keff := [] })).course p).part.rest =
    ((s.course p).part.rest.1, (s.course p).part.rest.2.1, ⟨[], []⟩) := by
  rw [State.part_course, State.updReq, State.part_updPart_same]
  rfl

/-- An end boundary closes the step (09 R222): `Group.afterStep` puts the group at rest, what was gathered is cleared, and no other part of the boundary takes the rest away. -/
theorem endBoundary_atRest {p : Fin 64} {s : State} (h : endReady s p = true) (x : Dword) : Does (.stepEndBoundary p x) s (fun t => (t.course p).part.AtRest) := by
  refine ⟨_, congrArg Host.Outcome.next (if_neg (by simp [h])), ?_⟩
  simp [PartCourse.AtRest, rest_clearWork, rest_afterStep]

/-! ### An idle boundary -/

theorem grp_setSlice (s : State) (q : Nat) (st : SliceSt) (p : Nat) : ((setSlice s q st).course p).part.grp = (s.course p).part.grp := by
  have h : ∀ f : Slice → Slice, ((s.updSlice q f).course p).part.grp = (s.course p).part.grp := fun f => by
    by_cases e : p = q
    · subst e
      rw [State.part_course, State.updSlice, State.part_updPart_same]
      rfl
    · simp only [State.course, State.updSlice, State.part_updPart_ne _ _ e]
  unfold setSlice
  split
  · rfl
  · rw [course_dblBoth, h]

theorem grp_lostToWaiting (s : State) (q p : Nat) : ((lostToWaiting s q).course p).part.grp = (s.course p).part.grp := by
  unfold lostToWaiting
  split
  · exact grp_setSlice ..
  · rfl

/-- A partition that stops stepping: its group stays outside a step. -/
theorem grp_stopStepping (s : State) (p : Nat) : ((s.updGrp p (fun g => { g with stepping := false })).course p).part.grp =
    { (s.course p).part.grp with stepping := false } := by
  rw [State.part_course, State.updGrp, State.part_updPart_same]
  rfl

theorem stopStepping_stays {u : State} {p : Nat} (hu : (u.grp p).inStep = false) :
    let t := keepWindow (lostToWaiting (u.updGrp p (fun g => { g with stepping := false })) p) p
    (t.grp p).stepping = false ∧ (t.grp p).inStep = false := by
  intro t
  have hg : (t.course p).part.grp = { (u.course p).part.grp with stepping := false } := by rw [course_keepWindow, grp_lostToWaiting, grp_stopStepping]
  exact ⟨congrArg GroupCourse.stepping hg, (congrArg GroupCourse.inStep hg).trans hu⟩

/-- A partition that does not step: an idle boundary leaves it so (R578). -/
theorem idleBoundary_stays {p : Fin 64} {x : Dword} {s : State} (hi : (s.grp p).inStep = false) (hs : isStepping s p = false) (hx : x.toNat % 1000000 = 0) :
    Does (.idleBoundary p x) s (fun t => (t.grp p).stepping = false ∧ (t.grp p).inStep = false) := by
  refine ⟨_, congrArg Host.Outcome.next (if_neg (by simp [hi, hs, hx])), ?_⟩
  have hrest : ∀ u : State, (u.course p).part.rest = (s.course p).part.rest → (u.grp p).inStep = false := fun u hu => (congrArg Prod.fst hu).trans hi
  exact stopStepping_stays (hrest _ (by simp))

/-! ### A window of declared current -/

theorem grp_raiseFault (s : State) (q code field core : Nat) : (raiseFault s q code field core).grp = s.grp := by
  have h := works_raiseFault s q code field core
  simp only [State.works, Prod.mk.injEq] at h
  exact h.2.2.2

/-- A fault with that code fails the step under way of partition `p`. -/
def HasFault (p code : Nat) (s : State) : Prop := ∃ f ∈ (s.grp p).faults, f.code = code

theorem HasFault.updGrp {p code q : Nat} {s : State} {f : Group → Group} (hf : (∃ x ∈ (s.grp q).faults, x.code = code) → ∃ x ∈ (f (s.grp q)).faults, x.code = code)
    (h : HasFault p code s) : HasFault p code (s.updGrp q f) := by
  by_cases e : p = q
  · subst e
    rw [HasFault, State.grp_updGrp_same]
    exact hf h
  · rwa [HasFault, State.grp, State.updGrp, State.part_updPart_ne _ _ e]

theorem HasFault.foldl {α : Type} {p code : Nat} {f : State → α → State} (hf : ∀ s x, HasFault p code s → HasFault p code (f s x)) {l : List α} {s : State}
    (h : HasFault p code s) : HasFault p code (l.foldl f s) := by
  induction l generalizing s with
  | nil => exact h
  | cons x l ih => exact ih (hf s x h)

theorem HasFault.failStepAt {p code q c cyc : Nat} {s : State} (h : HasFault p code s) : HasFault p code (failStepAt s q c cyc) := by
  refine h.updGrp fun ⟨x, hx, e⟩ => ⟨x, ?_, e⟩
  split
  · exact List.mem_append_left _ hx
  · exact hx

theorem HasFault.coreFaultAt {p code m c cyc : Nat} {s : State} (h : HasFault p code s) : HasFault p code (coreFaultAt s m c cyc) :=
  HasFault.failStepAt (by rwa [HasFault, grp_raiseFault])

/-- A violation fails the step where no other has, and takes no fault from it. -/
theorem HasFault.violateAt {p code m ctx cyc : Nat} {v : Viol} {s : State} (h : HasFault p code s) : HasFault p code (violateAt s m ctx v cyc) := by
  have hw := works_evrIndex s 19 (s.partOf (m / 192)) (m / 192)
  simp only [State.works, Prod.mk.injEq] at hw
  have h1 : HasFault p code (evrIndex s 19 (s.partOf (m / 192)) (m / 192)) := by rwa [HasFault, hw.2.2.2]
  unfold Machine.violateAt
  dsimp only
  split
  · refine HasFault.updGrp (s := State.updCore _ _ _) (fun ⟨x, hx, e⟩ => ⟨_, List.mem_map_of_mem hx, ?_⟩) h1
    split <;> exact e
  · exact HasFault.coreFaultAt (s := State.updCore _ _ _) h1

theorem HasFault.settle {p code m t : Nat} {s : State} (h : HasFault p code s) : HasFault p code (s.settle m t) :=
  HasFault.foldl (s := s.setCore m ((s.core m).settled t).1) (fun _ _ hu => hu.violateAt) h

theorem HasFault.settleEnd {p code q : Nat} {s : State} (h : HasFault p code s) : HasFault p code (s.settleEnd q) :=
  HasFault.foldl (fun _ _ hs => hs.settle) h

theorem grp_eachCore (s : State) (ms : List Nat) (f : Nat → Core → Core) : (s.eachCore ms f).grp = s.grp := by
  induction ms generalizing s with
  | nil => rfl
  | cons m ms ih => exact (ih _).trans rfl

theorem grp_updFields (s : State) (ns : List Nat) (f : FieldSt → FieldSt) : (ns.foldl (fun s n => s.updField n f) s).grp = s.grp := by
  induction ns generalizing s with
  | nil => rfl
  | cons n ns ih => exact (ih _).trans rfl

/-- A step ended at once is closed, with the faults that it had (R230). -/
theorem endStepNow_closes {s : State} {p code : Nat} (hi : (s.grp p).inStep = true) (h : HasFault p code s) :
    ((endStepNow s p).grp p).closed = true ∧ HasFault p code (endStepNow s p) := by
  have hg : (endStepNow s p).grp = ((s.settleEnd p).updGrp p (fun g => { g with closed := true, stalled := none, items := g.items.filter (fun i => i.boundary) })).grp := by
    rw [endStepNow, if_pos hi]
    exact (grp_updFields _ _ _).trans (grp_eachCore _ _ _)
  rw [HasFault, hg, State.grp_updGrp_same]
  exact ⟨rfl, h.settleEnd⟩

/-- The largest declaration in force in a core's window under way (09 R237). -/
def declNow (s : State) (m : Nat) : Nat :=
  max (AMap.at (s.core m).decl 0 (s.core m).phase) (if (s.grp (s.corePart m)).inStep = true ∧ (s.grp (s.corePart m)).stalled = none then 0 else AMap.at (s.core m).decl 0 256)

theorem execImageCurrentWindow_eq (m : Fin 9216) (mean : Nat) (s : State) : exec (.imageCurrentWindow m mean) s =
    .next (if 10 * mean ≤ 11 * max (s.core m).winMax (declNow s m) ∨ mayStep s (s.corePart m) = false then s.updCore m (fun c => { c with winMax := declNow s m })
      else (endStepNow (failStep (raiseFault (s.updCore m (fun c => { c with winMax := declNow s m })) (s.corePart m) 0x41 (m / 192) (m % 192)) (s.corePart m) 0x41)
        (s.corePart m)).updGrp (s.corePart m) (fun g => { g with quarNext := true })) := by
  have hn : declNow s m = max (AMap.at (s.core m).decl 0 (s.core m).phase)
      (if (s.grp (s.corePart m)).inStep && (s.grp (s.corePart m)).stalled.isNone then 0 else AMap.at (s.core m).decl 0 256) := by
    simp [declNow]
  rw [hn]
  rfl

theorem window_keeps {m : Fin 9216} {mean : Nat} {s : State} (h : 10 * mean ≤ 11 * max (s.core m).winMax (declNow s m) ∨ mayStep s (s.corePart m) = false) :
    Does (.imageCurrentWindow m mean) s (onlyOneCore m (fun c d => d = { c with winMax := declNow s m }) s) := by
  refine ⟨_, (execImageCurrentWindow_eq ..).trans (congrArg Host.Outcome.next (if_pos h)), rfl, fun j hj => ?_, ?_⟩
  · exact State.core_updCore_ne _ _ hj
  · exact State.core_updCore_same ..

theorem window_fails {m : Fin 9216} {mean : Nat} {s : State} (hm : mayStep s (s.corePart m) = true) (hi : (s.grp (s.corePart m)).inStep = true)
    (h : 11 * max (s.core m).winMax (declNow s m) < 10 * mean) :
    Does (.imageCurrentWindow m mean) s (fun t => (t.grp (s.corePart m)).quarNext = true ∧ (t.grp (s.corePart m)).closed = true ∧
      ∃ f ∈ (t.grp (s.corePart m)).faults, f.code = 0x41) := by
  refine ⟨_, (execImageCurrentWindow_eq ..).trans (congrArg Host.Outcome.next (if_neg (by simp [hm, h]))), ?_⟩
  have hg := grp_raiseFault (s.updCore m (fun c => { c with winMax := declNow s m })) (s.corePart m) 0x41 (m / 192) (m % 192)
  have hi' : ((raiseFault (s.updCore m (fun c => { c with winMax := declNow s m })) (s.corePart m) 0x41 (m / 192) (m % 192)).grp (s.corePart m)).inStep = true :=
    (congrArg (fun g : Nat → Group => (g (s.corePart m)).inStep) hg).trans hi
  generalize raiseFault (s.updCore m (fun c => { c with winMax := declNow s m })) (s.corePart m) 0x41 (m / 192) (m % 192) = u at hi' ⊢
  have hfail : ((failStep u (s.corePart m) 0x41).grp (s.corePart m)).inStep = true ∧ HasFault (s.corePart m) 0x41 (failStep u (s.corePart m) 0x41) := by
    simp [HasFault, failStep, failStepAt, hi']
  obtain ⟨hc, hf⟩ := endStepNow_closes hfail.1 hfail.2
  beta_reduce
  rw [State.grp_updGrp_same]
  exact ⟨rfl, hc, hf⟩

end Sys2Proof.Machine

namespace Sys2Proof.Machine

/-! ### What the work before a start leaves of the plan -/

/-- Which fields a slot covers: its place but for the marks of a boundary. -/
def ImgSlot.ground (x : ImgSlot) : SlotState × Dword × Nat × Nat × Bool := (x.st, x.rig, x.ox, x.oy, x.placed)

/-- `t` has the plan of partition `p` that `s` has: fields, group, slice and the grounds of its slots are as they were, and each LOADED slot that stepped steps. -/
structure KeepsPlan (p : Nat) (s t : State) : Prop where
  fields : t.fab.fields = s.fab.fields
  grade : t.grade = s.grade
  lmap : t.sys.lmap = s.sys.lmap
  struck : t.sys.struck = s.sys.struck
  shutdown : t.sys.shutdown = s.sys.shutdown
  en : (t.part p).en = (s.part p).en
  grp : (t.grp p).course = (s.grp p).course
  slice : (t.slice p).course = (s.slice p).course
  ground : ∀ i, (t.img p i).ground = (s.img p i).ground
  steps : ∀ i, (s.img p i).st = .loaded → slotSteps s p i = true → slotSteps t p i = true

section
variable {p : Nat} {s t u : State}

theorem img_place (s : State) (p i : Nat) : (s.img p i).place = (s.course p).part.places.getD i ({} : ImgSlot).place := by
  show _ = (List.map ImgSlot.place _).getD i _
  rw [List.getD_map]
  rfl

theorem allHold_congr (hy : (t.slice p).course = (s.slice p).course) {i : Nat} (hr : (t.img p i).rig = (s.img p i).rig) : allHold t p i = allHold s p i := by
  have hrank : (t.slice p).rank = (s.slice p).rank := congrArg SliceCourse.rank hy
  have hmods : (t.slice p).mods = (s.slice p).mods := congrArg SliceCourse.mods hy
  have hheld : (t.slice p).held = (s.slice p).held := congrArg SliceCourse.held hy
  simp only [allHold, otherRanks, hrank, hmods, hheld, hr]

theorem KeepsPlan.of_course (h : t.course p = s.course p) : KeepsPlan p s t := by
  have hpart := congrArg Course.part h
  have hslice : (t.slice p).course = (s.slice p).course := congrArg PartCourse.slice hpart
  have hplace : ∀ i, (t.img p i).place = (s.img p i).place := fun i => by rw [img_place, img_place, hpart]
  refine ⟨congrArg Course.fields h, congrArg Course.grade h, congrArg Course.lmap h, congrArg Course.struck h, congrArg Course.shutdown h, congrArg PartCourse.en hpart,
    congrArg PartCourse.grp hpart, hslice, fun i => congrArg (fun x : Place => (x.st, x.rig, x.ox, x.oy, x.placed)) (hplace i), fun i _ hs => ?_⟩
  have hst : (t.img p i).st = (s.img p i).st := congrArg Place.st (hplace i)
  have hstop : (t.img p i).stopped = (s.img p i).stopped := congrArg Place.stopped (hplace i)
  have hjoin : (t.img p i).joined = (s.img p i).joined := congrArg Place.joined (hplace i)
  rw [← hs]
  simp only [slotSteps, ImgSlot.serving, hst, hstop, hjoin, allHold_congr hslice (congrArg Place.rig (hplace i))]

theorem KeepsPlan.refl (s : State) : KeepsPlan p s s := .of_course rfl

theorem KeepsPlan.trans (h : KeepsPlan p s t) (g : KeepsPlan p t u) : KeepsPlan p s u where
  fields := g.fields.trans h.fields
  grade := g.grade.trans h.grade
  lmap := g.lmap.trans h.lmap
  struck := g.struck.trans h.struck
  shutdown := g.shutdown.trans h.shutdown
  en := g.en.trans h.en
  grp := g.grp.trans h.grp
  slice := g.slice.trans h.slice
  ground := fun i => (g.ground i).trans (h.ground i)
  steps := fun i hl hs => g.steps i ((congrArg Prod.fst (h.ground i)).trans hl) (h.steps i hl hs)

theorem KeepsPlan.foldl {α : Type} {f : State → α → State} (l : List α) (hf : ∀ s, ∀ x ∈ l, KeepsPlan p s (f s x)) (s : State) : KeepsPlan p s (l.foldl f s) := by
  induction l generalizing s with
  | nil => exact .refl s
  | cons x l ih => exact (hf s x (.head _)).trans (ih (fun s y hy => hf s y (.tail _ hy)) _)

theorem img_updImg (s : State) (p : Nat) {i : Nat} (hi : i < 4) (f : ImgSlot → ImgSlot) (j : Nat) :
    (s.updImg p i f).img p j = if j = i then f (s.img p i) else s.img p j := by
  have hget : (s.part p).slots[i] = s.img p i := by simp [State.img, hi]
  rw [State.img, State.updImg, State.part_updPart_same, dif_pos hi, hget]
  show ((s.part p).slots.set i (f (s.img p i)) hi).toList.getD j {} = _
  rw [Vector.toList_set]
  split
  · rename_i e
    rw [e]
    exact getD_set_same _ _ _ _ (by simpa using hi)
  · rename_i e
    exact getD_set_ne _ _ _ e

/-- A slot marked: where it is LOADED it is not stopped, and it stays joined. -/
theorem KeepsPlan.updImg {i : Nat} (hi : i < 4) {f : ImgSlot → ImgSlot} (hf : ∀ x, (f x).ground = x.ground)
    (hm : (s.img p i).st = .loaded → (f (s.img p i)).stopped = (s.img p i).stopped ∧ ((s.img p i).joined = true → (f (s.img p i)).joined = true)) :
    KeepsPlan p s (s.updImg p i f) := by
  have hpart : (s.updImg p i f).part p = { s.part p with slots := (s.part p).slots.set i (f (s.part p).slots[i]) hi } := by
    rw [State.updImg, State.part_updPart_same, dif_pos hi]
  have hslice : ((s.updImg p i f).slice p).course = (s.slice p).course := (congrArg (fun x : Part => x.slice.course) hpart :)
  have hground : ∀ j, ((s.updImg p i f).img p j).ground = (s.img p j).ground := fun j => by
    rw [img_updImg s p hi]
    split
    · rename_i e
      rw [hf, e]
    · rfl
  refine ⟨rfl, rfl, rfl, rfl, rfl, (congrArg Part.en hpart :), (congrArg (fun x : Part => x.grp.course) hpart :), hslice, hground, fun j hl hs => ?_⟩
  have hhold := allHold_congr hslice (congrArg (fun x : SlotState × Dword × Nat × Nat × Bool => x.2.1) (hground j))
  by_cases e : j = i
  · subst e
    obtain ⟨hstop, hjoin⟩ := hm hl
    have hst : (f (s.img p j)).st = (s.img p j).st := congrArg Prod.fst (hf _)
    rw [slotSteps, hhold, img_updImg s p hi, if_pos rfl]
    simp only [slotSteps, Bool.and_eq_true, Bool.or_eq_true] at hs ⊢
    exact ⟨by rw [ImgSlot.serving, hst, hstop]; exact hs.1, hs.2.imp hjoin id⟩
  · rw [slotSteps, hhold, img_updImg s p hi, if_neg e]
    exact hs

end

theorem stopDrained_keepsPlan (s : State) (p : Nat) : KeepsPlan p s (stopDrained s p) := by
  refine KeepsPlan.foldl _ (fun s i hi => ?_) _
  split
  · rename_i h
    exact KeepsPlan.updImg (List.mem_range.1 hi) (fun _ => rfl) fun hl => absurd (h.1.symm.trans hl) (by decide)
  · exact .refl s

theorem joinSlots_keepsPlan (s : State) (p : Nat) : KeepsPlan p s (joinSlots s p) := by
  refine KeepsPlan.foldl _ (fun s i hi => ?_) _
  split
  · exact KeepsPlan.updImg (List.mem_range.1 hi) (fun _ => rfl) fun _ => ⟨rfl, fun _ => rfl⟩
  · exact .refl s

/-- Where no slot was lost and no reset was asked for, only drain limits count. -/
theorem course_slotEvents {s : State} {p : Nat} (hr : (s.part p).resetAsked = false) (he : (s.part p).emptying = []) : (slotEvents s p).course p = s.course p := by
  simp [slotEvents, hr, emptySlots, he]

theorem holdEvents_keepsPlan {s : State} {p : Nat} (hr : (s.part p).resetAsked = false) (he : (s.part p).emptying = []) (t : Nat) : KeepsPlan p s (holdEvents s p t) :=
  (KeepsPlan.of_course ((course_endMarked ..).trans (course_slotEvents hr he))).trans ((stopDrained_keepsPlan _ p).trans (joinSlots_keepsPlan _ p))

/-- A partition that may step with a LOADED slot that steps may still. -/
theorem KeepsPlan.mayStep {p : Nat} {s t : State} (h : KeepsPlan p s t) (hm : mayStep s p = true) (hl : ∃ i, i < 4 ∧ (s.img p i).st = .loaded ∧ slotSteps s p i = true) :
    mayStep t p = true := by
  obtain ⟨i, hi, hst, hs⟩ := hl
  have hq : (t.grp p).quarantined = (s.grp p).quarantined := congrArg GroupCourse.quarantined h.grp
  have hy : (t.slice p).st = (s.slice p).st := congrArg SliceCourse.st h.slice
  have ht : (List.range 4).any (slotSteps t p) = true := List.any_eq_true.2 ⟨i, List.mem_range.2 hi, h.steps i hst hs⟩
  simp only [Machine.mayStep, sliceUp, Bool.and_eq_true] at hm ⊢
  obtain ⟨⟨⟨⟨⟨hen, -⟩, hquar⟩, hup⟩, hstruck⟩, hshut⟩ := hm
  rw [h.en, hq, hy, h.struck, h.shutdown]
  exact ⟨⟨⟨⟨⟨hen, ht⟩, hquar⟩, hup⟩, hstruck⟩, hshut⟩

/-! ### Which cores start -/

theorem KeepsPlan.field {p : Nat} {s t : State} (h : KeepsPlan p s t) (n : Nat) : t.field n = s.field n := by simp only [State.field, h.fields]

theorem KeepsPlan.coresOf {p : Nat} {s t : State} (h : KeepsPlan p s t) (k : Nat) : t.coresOf k = s.coresOf k := by simp only [State.coresOf, State.fieldsOf, h.field]

theorem part_of_mem_coresOf {s : State} {p m : Nat} (h : m ∈ s.coresOf p) : (s.field (m / 192)).part = p := by
  simp only [State.coresOf, State.fieldsOf, List.mem_flatMap, List.mem_filter, List.mem_map, List.mem_range, Bool.and_eq_true, beq_iff_eq] at h
  obtain ⟨n, ⟨-, -, hp⟩, c, hc, rfl⟩ := h
  rw [show (n * 192 + c) / 192 = n by omega, hp]

theorem ImgSlot.covers_congr {x y : ImgSlot} (h : y.ground = x.ground) (fx fy : Nat) : y.covers fx fy = x.covers fx fy := by
  simp only [ImgSlot.ground, Prod.mk.injEq] at h
  obtain ⟨hst, hrig, hox, hoy, hpl⟩ := h
  simp only [ImgSlot.covers, hst, hrig, hox, hoy, hpl]

theorem KeepsPlan.slotOfField {p : Nat} {s t : State} (h : KeepsPlan p s t) {n : Nat} (hn : (s.field n).part = p) : t.slotOfField n = s.slotOfField n := by
  have hxy : t.fieldXY n = s.fieldXY n := by rw [State.fieldXY, State.fieldXY, State.grade40, State.grade40, h.grade, h.lmap]
  have hcov : ∀ i fx fy, (t.img p i).covers fx fy = (s.img p i).covers fx fy := fun i => ImgSlot.covers_congr (h.ground i)
  simp only [State.img] at hcov
  simp only [State.slotOfField, hxy, h.field, hn, hcov]

/-- The cores that a start boundary starts. -/
def liveCores (s : State) (p : Nat) : List Nat :=
  (s.coresOf p).filter (fun m => match s.slotOfField (m / 192) with | some i => slotSteps s p i | none => false)

theorem KeepsPlan.mem_liveCores {p : Nat} {s t : State} (h : KeepsPlan p s t) {m i : Nat} (hm : m ∈ s.coresOf p) (hi : s.slotOfField (m / 192) = some i)
    (hl : (s.img p i).st = .loaded) (hs : slotSteps s p i = true) : m ∈ liveCores t p := by
  rw [liveCores, List.mem_filter, h.coresOf, h.slotOfField (part_of_mem_coresOf hm), hi]
  exact ⟨hm, h.steps i hl hs⟩

/-! ### The start -/

theorem Ctx.start_spec (x : Ctx) (hot : Bool) :
    (x.start hot).seq = 1#8 ∧ (x.start hot).pc = (if hot then (x.start hot).entryH else (x.start hot).entryN) ∧ (x.start hot).ended = !(x.start hot).loaded ∧
      (x.start hot).loops = [] ∧ (x.start hot).bun = none := ⟨rfl, rfl, rfl, rfl, rfl⟩

theorem Core.tc_start (c : Core) (hot : Bool) (past : Nat) (k : Fin 4) : (c.start hot past).tc k = (c.tc k).start hot := by
  show (c.ctx.map (fun x => x.start hot)).toList.getD k {} = _
  simp [Core.tc]

/-- A core that a start boundary has started: phase 0, nothing under way, every context at its entry. -/
def Started (hot : Bool) (past m : Nat) (s : State) : Prop := ∃ c : Core, s.core m = c.start hot past

theorem Started.startCore {hot : Bool} {past m : Nat} {s : State} (h : Started hot past m s) (j : Nat) : Started hot past m (s.updCore j (fun c => c.start hot past)) := by
  by_cases e : m = j
  · exact ⟨s.core j, e ▸ State.core_updCore_same ..⟩
  · rwa [Started, State.core_updCore_ne _ _ e]

theorem Started.startCores {hot : Bool} {past m : Nat} (ms : List Nat) {s : State} (h : Started hot past m s) :
    Started hot past m (s.eachCore ms (fun _ c => c.start hot past)) := by
  induction ms generalizing s with
  | nil => exact h
  | cons j ms ih => exact ih (h.startCore j)

theorem started_of_mem {hot : Bool} {past m : Nat} {ms : List Nat} (h : m ∈ ms) (s : State) : Started hot past m (s.eachCore ms (fun _ c => c.start hot past)) := by
  induction h generalizing s with
  | head ms => exact Started.startCores ms ⟨s.core m, State.core_updCore_same ..⟩
  | tail j _ ih => exact ih _

/-- A group whose next step opens at tick `t`, with the faults that were carried over. -/
def Group.opensAt (g : Group) (t : Nat) : Group :=
  { g with
    inStep := true, stepping := true, startReady := false, cyc := 0, step := g.step + 1, t0 := t, faults := g.carry, carry := [], items := [], stalled := none
    closed := false }

/-- The next step opened at tick `t`, `past` fc after the start of the last. -/
def openStep (s : State) (p t past : Nat) : State :=
  let s3 := s.eachCore (liveCores s p) (fun _ c => c.start (s.part p).hot past)
  let s4 := s3.updGrp p (fun g => g.opensAt t)
  let s5 := s4.updSlice p (fun y => { y with seen := [], gates := [], stamps := [], record := none })
  keepWindow (sendStepRecords (s5.updReq p (fun r => { r with commits := [], keff := [] })) p) p

/-- What a start boundary at tick `t` does before the step opens. -/
def boundaryWork (s : State) (p : Nat) (t : Dword) : State :=
  let h := holdEvents (s.atTick t) p t.toNat
  let s1 := applySettings (applyRecord h p t.toNat) p
  if (h.slice p).mods ≠ 0 ∧ (h.slice p).rank = 0 then s1 else serveQueues s1 p t.toNat

theorem execStepStartBoundary_eq (p : Fin 64) (t : Dword) (s : State) : execStepStartBoundary p t s =
    .next (if (s.grp p).inStep || (s.grp p).held || (s.grp p).items.any (fun i => i.boundary && !i.ended) || !mayStep s p || !sliceReady s p t.toNat then s
      else if !mayStep (holdEvents (s.atTick t) p t.toNat) p then holdEvents (s.atTick t) p t.toNat
      else openStep (boundaryWork s p t) p t.toNat ((s.grp p).cyc + 24)) := by
  unfold execStepStartBoundary boundaryWork
  dsimp only
  generalize holdEvents (s.atTick t) p t.toNat = h
  generalize applySettings (applyRecord h p t.toNat) p = s1
  generalize (if (h.slice p).mods ≠ 0 ∧ (h.slice p).rank = 0 then s1 else serveQueues s1 p t.toNat) = u
  rfl

/-- The start boundary of a partition that may step: the interval's changes keep its plan, and then the step opens. -/
theorem exec_start {p : Fin 64} {x : Dword} {s : State} (hi : (s.grp p).inStep = false) (hh : (s.grp p).held = false)
    (hb : ∀ i ∈ (s.grp p).items, i.boundary = true → i.ended = true) (hm : mayStep s p = true) (hy : sliceReady s p x.toNat = true)
    (hr : (s.part p).resetAsked = false) (he : (s.part p).emptying = []) (hl : ∃ i, i < 4 ∧ (s.img p i).st = .loaded ∧ slotSteps s p i = true) :
    ∃ u, KeepsPlan p s u ∧ exec (.stepStartBoundary p x) s = .next (openStep u p x.toNat ((s.grp p).cyc + 24)) := by
  have htick : KeepsPlan p s (s.atTick x) := .of_course (State.course_atTick ..)
  have hhold : KeepsPlan p s (holdEvents (s.atTick x) p x.toNat) := htick.trans (holdEvents_keepsPlan (s := s.atTick x) (p := p) hr he _)
  have hitems : (s.grp p).items.any (fun i => i.boundary && !i.ended) = false := by simpa using hb
  have hwork : KeepsPlan p s (boundaryWork s p x) := by
    have hset := hhold.trans (.of_course ((course_applySettings _ p p).trans (course_applyRecord _ p x.toNat p)))
    simp only [boundaryWork]
    split
    · exact hset
    · exact hset.trans (.of_course (course_serveQueues ..))
  refine ⟨_, hwork, (execStepStartBoundary_eq p x s).trans (congrArg Host.Outcome.next ?_)⟩
  rw [if_neg (by simp [hi, hh, hitems, hm, hy]), if_neg (by simp [hhold.mayStep hm hl])]

/-- What the records of a step that opens leave alone. -/
def State.opened (s : State) (p : Nat) : AMap Core × Bool × Group × List Commit := (s.cores, (s.part p).hot, s.grp p, (s.req p).commits)

theorem opened_updReq {s : State} {p : Nat} {f : ReqPart → ReqPart} (hf : ∀ r, (f r).commits = r.commits) : (s.updReq p f).opened p = s.opened p := by
  simp only [State.opened, State.grp, State.req, State.updReq, State.part_updPart_same, hf]
  rfl

theorem opened_sendStepRecords (s : State) (p : Nat) : (sendStepRecords s p).opened p = s.opened p := by
  have hf : ∀ (f : State → Nat → State) (l : List Nat), (∀ s e, (f s e).opened p = s.opened p) → ∀ s, (l.foldl f s).opened p = s.opened p := fun f l h => by
    induction l with
    | nil => exact fun _ => rfl
    | cons e l ih => exact fun s => (ih _).trans (h s e)
  unfold sendStepRecords
  split
  · rfl
  · refine hf _ _ (fun s e => ?_) s
    dsimp only
    have hk := opened_updReq (s := s) (p := p) (f := fun r => { r with keff := AMap.put r.keff ((s.ent e).dslot - (s.req p).slotBase) (keffOf (s.ent e)) }) fun _ => rfl
    split
    · rfl
    · split
      · exact hk
      · exact hk

theorem opened_keepWindow (s : State) (p : Nat) : (keepWindow s p).opened p = s.opened p :=
  opened_updReq (f := fun r => { r with window := s.table.entries.filter (fun x => r.owns x.1) }) fun _ => rfl

theorem opened_updates (s : State) (p : Nat) (f : Group → Group) (y : Slice → Slice) (r : ReqPart → ReqPart) :
    (((s.updGrp p f).updSlice p y).updReq p r).opened p = (s.cores, (s.part p).hot, f (s.grp p), (r (s.req p)).commits) := by
  simp only [State.opened, State.grp, State.req, State.updReq, State.updSlice, State.updGrp, State.part_updPart_same]
  rfl

theorem part_eachCore (s : State) (ms : List Nat) (f : Nat → Core → Core) : (s.eachCore ms f).part = s.part := by
  induction ms generalizing s with
  | nil => rfl
  | cons m ms ih => exact (ih _).trans rfl

theorem opened_openStep (s : State) (p t past : Nat) : (openStep s p t past).opened p =
    ((s.eachCore (liveCores s p) (fun _ c => c.start (s.part p).hot past)).cores, (s.part p).hot, (s.grp p).opensAt t, []) := by
  rw [openStep, opened_keepWindow, opened_sendStepRecords, opened_updates, State.grp, part_eachCore]
  rfl

/-- A core that starts, as the obligation says it. -/
theorem Core.start_spec (c : Core) (hot : Bool) (past : Nat) :
    (c.start hot past).phase = 0 ∧ (c.start hot past).tracks = [] ∧ (c.start hot past).late = [] ∧ (c.start hot past).vecNext = 0 ∧
      ∀ k : Fin 4, let y := (c.start hot past).tc k
        y.seq = 1#8 ∧ y.pc = (if hot then y.entryH else y.entryN) ∧ y.ended = !y.loaded ∧ y.loops = [] ∧ y.bun = none :=
  ⟨rfl, rfl, rfl, rfl, fun k => by rw [Core.tc_start]; exact Ctx.start_spec ..⟩

/-- Settles O39: an end and an idle boundary by the rest of the course, a start boundary by the plan that the work before it keeps, a window by its two branches. -/
theorem stepBoundaries : Obligations.StepBoundaries := by
  unfold Obligations.StepBoundaries
  intro p x s
  refine ⟨fun h => ?_, fun hi hh hb hm hy hr he hl => ?_, fun hi hs hx => idleBoundary_stays hi hs hx, fun m mean => ⟨window_keeps, fun hm hi h => window_fails hm hi h⟩⟩
  · obtain ⟨t, e, ht⟩ := endBoundary_atRest h x
    obtain ⟨⟨hi, hc, hs⟩, hm, hk⟩ := (t.atRest_iff p).1 ht
    exact ⟨t, e, hi, hc, hs, hm, hk⟩
  · obtain ⟨u, hu, e⟩ := exec_start hi hh hb hm hy hr he hl
    have ho := opened_openStep u p x.toNat ((s.grp p).cyc + 24)
    simp only [State.opened, Prod.mk.injEq] at ho
    obtain ⟨hcores, hhot, hgrp, hcommits⟩ := ho
    have hstep : (u.grp p).step = (s.grp p).step := congrArg GroupCourse.step hu.grp
    refine ⟨_, e, ?_⟩
    dsimp only
    rw [hgrp, hhot]
    refine ⟨rfl, rfl, rfl, congrArg (· + 1) hstep, rfl, rfl, rfl, rfl, rfl, hcommits, fun m hmem i hslot hload hsteps => ?_⟩
    obtain ⟨c, hc⟩ := started_of_mem (hot := (u.part p).hot) (past := (s.grp p).cyc + 24) (hu.mem_liveCores hmem hslot hload hsteps) u
    rw [core_congr hcores m, hc]
    exact c.start_spec ..

end Sys2Proof.Machine

namespace Sys2Proof.Machine

/-!
## What every step leaves of the logs: their bounds (06 R152, 19 R449)

`State.logsOk` is kept. Where an operation records nothing in a log, its rule is an equation (`(f s).logsOk = s.logsOk`); where it may, its rule takes `s.logsOk` and gives
`(f s).logsOk`. The rules stand in the order of the model's files: logs, the state as a whole, shared operations, commands.
-/

/-! ### Logs -/

theorem ELog.ok_iff (l : ELog) : l.ok = true ↔ l.recs.length ≤ 64 ∧ l.lost ≤ 255 := by simp [ELog.ok]

@[simp] theorem ELog.ok_push {l : ELog} (r : Word × Word × Word) (h : l.ok = true) : (l.push r).ok = true := by
  obtain ⟨hn, hl⟩ := l.ok_iff.1 h
  rw [ELog.ok_iff]
  unfold ELog.push
  split
  · rename_i hlt
    exact ⟨by simpa using hlt, hl⟩
  · exact ⟨hn, by simp only [satAdd]; split <;> omega⟩

@[simp] theorem ELog.ok_pop {l : ELog} (h : l.ok = true) : l.pop.ok = true := by
  obtain ⟨hn, hl⟩ := l.ok_iff.1 h
  exact l.pop.ok_iff.2 ⟨by simp only [ELog.pop, List.length_drop]; omega, hl⟩

/-! ### The state as a whole -/

/-- The logs of power and heat within their bounds. -/
def Sys.logsOk (y : Sys) : Bool := y.pwr.log.ok && y.thm.log.ok

/-- The fault logs of the partitions of a map within their bounds. -/
def flogsOk (l : AMap Part) : Bool := l.all (fun e => e.2.flog.ok)

@[simp] theorem Sys.logsOk_mk (ready safe shutdown struck : Bool) (lmap : List Nat) (gapH gapV fwMajor mhVer : Nat) (tests : List TestFail) (sec : Sec) (clk : Clk) (evr : Evr)
    (pwr : Pwr) (thm : Thm) (cnm : Cnm) (cfg : Cfg) (fw : Fw) (pins : Pins) (halTurn : Nat) :
    Sys.logsOk ⟨ready, safe, shutdown, struck, lmap, gapH, gapV, fwMajor, mhVer, tests, sec, clk, evr, pwr, thm, cnm, cfg, fw, pins, halTurn⟩ =
      (pwr.log.ok && thm.log.ok) := (rfl)

@[simp] theorem Sys.logsOk_eta (y : Sys) : (y.pwr.log.ok && y.thm.log.ok) = y.logsOk := (rfl)

@[simp] theorem State.logsOk_mk (pending : List Instr) (tb : Dword) (free : Nat) (cores : AMap Core) (fab : Fabric) (parts : AMap Part) (host : HostIf) (table : ReqTable)
    (stream : Stream) (stay : Stay) (sheet : Sheet) (serial : Dword) (grade : Nat) (xt : ColCopy) (mst : MstBlock) (sys : Sys) :
    State.logsOk ⟨pending, tb, free, cores, fab, parts, host, table, stream, stay, sheet, serial, grade, xt, mst, sys⟩ =
      (mst.log.ok && (fab.log.ok && (stay.log.ok && (sheet.log.ok && (sys.logsOk && flogsOk parts))))) := by
  simp only [State.logsOk, Sys.logsOk, flogsOk, Bool.and_assoc]

@[simp] theorem State.logsOk_eta (s : State) :
    (s.mst.log.ok && (s.fab.log.ok && (s.stay.log.ok && (s.sheet.log.ok && (s.sys.logsOk && flogsOk s.parts))))) = s.logsOk := by
  simp only [State.logsOk, Sys.logsOk, flogsOk, Bool.and_assoc]

theorem State.logsOk_iff (s : State) : s.logsOk = true ↔
    s.mst.log.ok = true ∧ s.fab.log.ok = true ∧ s.stay.log.ok = true ∧ s.sheet.log.ok = true ∧ s.sys.pwr.log.ok = true ∧ s.sys.thm.log.ok = true ∧ flogsOk s.parts = true := by
  simp only [State.logsOk, flogsOk, Bool.and_eq_true, and_assoc]

theorem flogsOk_iff (l : AMap Part) : flogsOk l = true ↔ AMap.All (fun x => x.flog.ok = true) l := List.all_eq_true

theorem State.flog_ok {s : State} (h : s.logsOk = true) (p : Nat) : (s.part p).flog.ok = true := by
  obtain ⟨-, -, -, -, -, -, hp⟩ := s.logsOk_iff.1 h
  exact ((flogsOk_iff _).1 hp).at rfl p

@[simp] theorem flogsOk_put {l : AMap Part} {p : Nat} {x : Part} (h : x.flog = (AMap.at l {} p).flog) : flogsOk (AMap.put l p x) = flogsOk l := by
  induction l with
  | nil => simp [AMap.put, flogsOk, h, ELog.ok]
  | cons e r ih =>
    obtain ⟨k, y⟩ := e
    have hat : flogsOk ((k, y) :: r) = true → x.flog.ok = true := fun hl => h ▸ ((flogsOk_iff _).1 hl).at rfl p
    unfold AMap.put
    split
    · show (x.flog.ok && flogsOk ((k, y) :: r)) = flogsOk ((k, y) :: r)
      cases hl : flogsOk ((k, y) :: r) with
      | false => exact Bool.and_false _
      | true => rw [hat hl, Bool.and_self]
    · split
      · rename_i hk
        simp only [AMap.at, hk, if_true] at h
        simp [flogsOk, h]
      · rename_i hk
        simp only [AMap.at, Ne.symm hk, if_false] at h
        simpa [flogsOk] using congrArg (y.flog.ok && ·) (ih h)

@[simp] theorem State.logsOk_setPart {s : State} {p : Nat} {x : Part} (h : x.flog = (s.part p).flog) : (s.setPart p x).logsOk = s.logsOk := by
  unfold State.part at h
  simp [State.setPart, h]

theorem State.logsOk_setPart_of {s : State} {p : Nat} {x : Part} (hx : x.flog.ok = true) (h : s.logsOk = true) : (s.setPart p x).logsOk = true := by
  obtain ⟨h1, h2, h3, h4, h5, h6, hp⟩ := s.logsOk_iff.1 h
  exact (State.logsOk_iff _).2 ⟨h1, h2, h3, h4, h5, h6, (flogsOk_iff _).2 (((flogsOk_iff _).1 hp).put hx)⟩

@[simp] theorem State.logsOk_updPart {s : State} {p : Nat} {f : Part → Part} (hf : ∀ x, (f x).flog = x.flog) : (s.updPart p f).logsOk = s.logsOk := by
  simp [State.updPart, hf]

theorem State.logsOk_updPart_of {s : State} {p : Nat} {f : Part → Part} (hf : ∀ x, x.flog.ok = true → (f x).flog.ok = true) (h : s.logsOk = true) :
    (s.updPart p f).logsOk = true := State.logsOk_setPart_of (hf _ (State.flog_ok h p)) h

@[simp] theorem State.logsOk_ite (c : Prop) [Decidable c] (s t : State) : State.logsOk (if c then s else t) = if c then s.logsOk else t.logsOk := apply_ite _ _ _ _

@[simp] theorem State.logsOk_fst_ite {β : Type} (c : Prop) [Decidable c] (a b : State × β) : State.logsOk (if c then a else b).1 = if c then a.1.logsOk else b.1.logsOk :=
  apply_ite (fun x : State × β => x.1.logsOk) _ _ _

@[simp] theorem logsOk_foldl_of {α : Type} {f : State → α → State} {l : List α} {s : State} (hf : ∀ s x, s.logsOk = true → (f s x).logsOk = true) (h : s.logsOk = true) :
    (l.foldl f s).logsOk = true := by
  induction l generalizing s with
  | nil => exact h
  | cons x l ih => exact ih (hf s x h)

@[simp] theorem logsOk_foldl_fst_of {α β : Type} {f : State × β → α → State × β} {l : List α} {a : State × β} (hf : ∀ a x, a.1.logsOk = true → (f a x).1.logsOk = true)
    (h : a.1.logsOk = true) : (l.foldl f a).1.logsOk = true := by
  induction l generalizing a with
  | nil => exact h
  | cons x l ih => exact ih (hf a x h)

@[simp] theorem logsOk_foldl {α : Type} {f : State → α → State} {l : List α} {s : State} (hf : ∀ s x, (f s x).logsOk = s.logsOk) : (l.foldl f s).logsOk = s.logsOk := by
  induction l generalizing s with
  | nil => rfl
  | cons x l ih => rw [List.foldl_cons, ih, hf]

@[simp] theorem logsOk_foldl_fst {α β : Type} {f : State × β → α → State × β} {l : List α} {a : State × β} (hf : ∀ a x, (f a x).1.logsOk = a.1.logsOk) :
    (l.foldl f a).1.logsOk = a.1.logsOk := by
  induction l generalizing a with
  | nil => rfl
  | cons x l ih => rw [List.foldl_cons, ih, hf]

@[simp] theorem logsOk_iter_of {n i : Nat} {f : Nat → State → State} {s : State} (hf : ∀ i s, s.logsOk = true → (f i s).logsOk = true) (h : s.logsOk = true) :
    (iter n i f s).logsOk = true := by
  induction n generalizing i s with
  | zero => exact h
  | succ n ih => exact ih (hf i s h)

@[simp] theorem logsOk_iter {n i : Nat} {f : Nat → State → State} {s : State} (hf : ∀ i s, (f i s).logsOk = s.logsOk) : (iter n i f s).logsOk = s.logsOk := by
  induction n generalizing i s with
  | zero => rfl
  | succ n ih => rw [iter, ih, hf]

/-- What a command leaves, where it completes, has its logs within their bounds. -/
def Out.LogsOk (o : Out) : Prop := ∀ t, o = .next t → t.logsOk = true

@[simp] theorem Out.logsOk_next (t : State) : Out.LogsOk (.next t) ↔ t.logsOk = true := by simp [Out.LogsOk]

@[simp] theorem State.logsOk_setCore (s : State) (m : Nat) (c : Core) : (s.setCore m c).logsOk = s.logsOk := (rfl)

@[simp] theorem State.logsOk_updCore (s : State) (m : Nat) (f : Core → Core) : (s.updCore m f).logsOk = s.logsOk := (rfl)

@[simp] theorem State.logsOk_updCtx (s : State) (m i : Nat) (f : Ctx → Ctx) : (s.updCtx m i f).logsOk = s.logsOk := (rfl)

@[simp] theorem State.logsOk_updSail (s : State) (m i : Nat) (f : Sail → Sail) : (s.updSail m i f).logsOk = s.logsOk := (rfl)

@[simp] theorem State.logsOk_updMast (s : State) (m : Nat) (f : Mast → Mast) : (s.updMast m f).logsOk = s.logsOk := (rfl)

@[simp] theorem State.logsOk_updRouter (s : State) (m : Nat) (f : Router → Router) : (s.updRouter m f).logsOk = s.logsOk := (rfl)

/-! ### The logs of a part of the state that another update leaves -/

@[simp] theorem Part.flog_ite (c : Prop) [Decidable c] (x y : Part) : Part.flog (if c then x else y) = if c then x.flog else y.flog := apply_ite _ _ _ _

@[simp] theorem Pwr.log_ite (c : Prop) [Decidable c] (x y : Pwr) : Pwr.log (if c then x else y) = if c then x.log else y.log := apply_ite _ _ _ _

@[simp] theorem Thm.log_ite (c : Prop) [Decidable c] (x y : Thm) : Thm.log (if c then x else y) = if c then x.log else y.log := apply_ite _ _ _ _

@[simp] theorem flogsOk_updPart {s : State} {p : Nat} {f : Part → Part} (hf : ∀ x, (f x).flog = x.flog) : flogsOk (s.updPart p f).parts = flogsOk s.parts := flogsOk_put (hf _)

@[simp] theorem flogsOk_mapAll {l : AMap Part} {f : Nat → Part → Part} (hf : ∀ k x, (f k x).flog = x.flog) : flogsOk (AMap.mapAll l f) = flogsOk l := by
  simp [flogsOk, AMap.mapAll, hf, Function.comp_def]

@[simp] theorem flogsOk_updGrp (s : State) (p : Nat) (f : Group → Group) : flogsOk (s.updGrp p f).parts = flogsOk s.parts := flogsOk_updPart fun _ => rfl

@[simp] theorem flogsOk_updReq (s : State) (p : Nat) (f : ReqPart → ReqPart) : flogsOk (s.updReq p f).parts = flogsOk s.parts := flogsOk_updPart fun _ => rfl

@[simp] theorem flogsOk_updSlice (s : State) (p : Nat) (f : Slice → Slice) : flogsOk (s.updSlice p f).parts = flogsOk s.parts := flogsOk_updPart fun _ => rfl

@[simp] theorem State.fabLog_updField (s : State) (n : Nat) (f : FieldSt → FieldSt) : (s.updField n f).fab.log = s.fab.log := (rfl)

@[simp] theorem State.sysLogsOk_updPwr {s : State} {f : Pwr → Pwr} (hf : ∀ x, (f x).log = x.log) : (s.updPwr f).sys.logsOk = s.sys.logsOk := by simp [State.updPwr, hf]

@[simp] theorem State.sysLogsOk_updThm {s : State} {f : Thm → Thm} (hf : ∀ x, (f x).log = x.log) : (s.updThm f).sys.logsOk = s.sys.logsOk := by simp [State.updThm, hf]

@[simp] theorem State.sysLogsOk_updEvr (s : State) (f : Evr → Evr) : (s.updEvr f).sys.logsOk = s.sys.logsOk := (rfl)

@[simp] theorem State.sysLogsOk_updSec (s : State) (f : Sec → Sec) : (s.updSec f).sys.logsOk = s.sys.logsOk := (rfl)

@[simp] theorem State.sysLogsOk_updClk (s : State) (f : Clk → Clk) : (s.updClk f).sys.logsOk = s.sys.logsOk := (rfl)

@[simp] theorem State.sysLogsOk_updCnm (s : State) (f : Cnm → Cnm) : (s.updCnm f).sys.logsOk = s.sys.logsOk := (rfl)

@[simp] theorem State.sysLogsOk_updCfg (s : State) (f : Cfg → Cfg) : (s.updCfg f).sys.logsOk = s.sys.logsOk := (rfl)

@[simp] theorem State.sysLogsOk_updFw (s : State) (f : Fw → Fw) : (s.updFw f).sys.logsOk = s.sys.logsOk := (rfl)

@[simp] theorem State.sysLogsOk_updPins (s : State) (f : Pins → Pins) : (s.updPins f).sys.logsOk = s.sys.logsOk := (rfl)

/-! ### Shared operations -/

@[simp] theorem State.logsOk_setField (s : State) (n : Nat) (x : FieldSt) : (s.setField n x).logsOk = s.logsOk := by simp [State.setField]

@[simp] theorem State.logsOk_updField (s : State) (n : Nat) (f : FieldSt → FieldSt) : (s.updField n f).logsOk = s.logsOk := by simp [State.updField]

@[simp] theorem State.logsOk_updGrp (s : State) (p : Nat) (f : Group → Group) : (s.updGrp p f).logsOk = s.logsOk := by simp [State.updGrp]

@[simp] theorem State.logsOk_eachCore (s : State) (ms : List Nat) (f : Nat → Core → Core) : (s.eachCore ms f).logsOk = s.logsOk :=
  logsOk_foldl fun _ _ => State.logsOk_updCore _ _ _

@[simp] theorem State.logsOk_atTick (s : State) (t : Dword) : (s.atTick t).logsOk = s.logsOk := by simp [State.atTick]

@[simp] theorem State.logsOk_updPwr {s : State} {f : Pwr → Pwr} (hf : ∀ x, (f x).log = x.log) : (s.updPwr f).logsOk = s.logsOk := by simp [State.updPwr, hf]

@[simp] theorem State.logsOk_updCorePwr (s : State) (m : Nat) (f : CorePwr → CorePwr) : (s.updCorePwr m f).logsOk = s.logsOk := by simp [State.updCorePwr]

@[simp] theorem State.logsOk_updFieldPwr (s : State) (n : Nat) (f : FieldPwr → FieldPwr) : (s.updFieldPwr n f).logsOk = s.logsOk := by simp [State.updFieldPwr]

@[simp] theorem State.logsOk_updFn (s : State) (f : Nat) (g : Fn → Fn) : (s.updFn f g).logsOk = s.logsOk := by simp [State.updFn]

@[simp] theorem logsOk_emit (s : State) (x : Sent) : (emit s x).logsOk = s.logsOk := by simp [emit]

@[simp] theorem State.logsOk_updVec (s : State) (f v : Nat) (g : Vec → Vec) : (s.updVec f v g).logsOk = s.logsOk := by simp [State.updVec]

@[simp] theorem logsOk_sendVec (s : State) (f v : Nat) : (sendVec s f v).logsOk = s.logsOk := by simp [sendVec]

@[simp] theorem logsOk_signal (s : State) (f v : Nat) : (signal s f v).logsOk = s.logsOk := by simp [signal]

@[simp] theorem logsOk_signalLog (s : State) (l : ELog) (f v : Nat) : (signalLog s l f v).logsOk = s.logsOk := by simp [signalLog]

@[simp] theorem logsOk_dblSet (s : State) (f b : Nat) : (dblSet s f b).logsOk = s.logsOk := by simp [dblSet]

@[simp] theorem logsOk_dblBoth (s : State) (p b : Nat) : (dblBoth s p b).logsOk = s.logsOk := by simp [dblBoth]

@[simp] theorem State.logsOk_updEvr (s : State) (f : Evr → Evr) : (s.updEvr f).logsOk = s.logsOk := by simp [State.updEvr]

@[simp] theorem logsOk_evrEvent (s : State) (kind sev part field core : Nat) (value aux : Option Dword) : (evrEvent s kind sev part field core value aux).logsOk = s.logsOk := by
  simp only [evrEvent]
  (repeat' split) <;> simp

@[simp] theorem logsOk_evrSample (s : State) (src part field core : Nat) (value bin : Int) : (evrSample s src part field core value bin).logsOk = s.logsOk := by simp [evrSample]

@[simp] theorem logsOk_evrIndex (s : State) (src part unit : Nat) : (evrIndex s src part unit).logsOk = s.logsOk := by simp [evrIndex]

@[simp] theorem logsOk_beginFlush (s : State) (f : EvrFlush) : (beginFlush s f).logsOk = s.logsOk := by simp [beginFlush]

@[simp] theorem logsOk_askFlush (s : State) (f : EvrFlush) : (askFlush s f).logsOk = s.logsOk := by simp [askFlush]

@[simp] theorem logsOk_urgentFlush (s : State) (cause : Nat) : (urgentFlush s cause).logsOk = s.logsOk := by simp [urgentFlush]

@[simp] theorem logsOk_evrFault (s : State) (code part field core : Nat) (value : Option Dword) : (evrFault s code part field core value).logsOk = s.logsOk := by simp [evrFault]

@[simp] theorem logsOk_logFault (s : State) (p code field core items : Nat) (hs : s.logsOk = true) : (logFault s p code field core items).logsOk = true := by
  simp only [logFault, logsOk_signalLog]
  exact State.logsOk_updPart_of (fun x hx => ELog.ok_push _ hx) hs

@[simp] theorem logsOk_raiseFaultN (s : State) (p code field core items : Nat) (hs : s.logsOk = true) :
    (raiseFaultN s p code field core items).logsOk = true := by simp [raiseFaultN, hs]

@[simp] theorem logsOk_raiseFault (s : State) (p code field core : Nat) (hs : s.logsOk = true) : (raiseFault s p code field core).logsOk = true := by simp [raiseFault, hs]

@[simp] theorem logsOk_raiseAll (s : State) (code field core : Nat) (hs : s.logsOk = true) : (raiseAll s code field core).logsOk = true := by simp +contextual [raiseAll, hs]

@[simp] theorem logsOk_mstLog (s : State) (m tier kind row rid : Nat) (hs : s.logsOk = true) : (mstLog s m tier kind row rid).logsOk = true := by
  obtain ⟨h1, h2, h3, h4, h5, h6, h7⟩ := s.logsOk_iff.1 hs
  simp only [mstLog, logsOk_signalLog]
  exact (State.logsOk_iff _).2 ⟨ELog.ok_push _ h1, h2, h3, h4, h5, h6, h7⟩

@[simp] theorem logsOk_fabLog (s : State) (router kind seam link pkt rtr tree : Nat) (hs : s.logsOk = true) : (fabLog s router kind seam link pkt rtr tree).logsOk = true := by
  obtain ⟨h1, h2, h3, h4, h5, h6, h7⟩ := s.logsOk_iff.1 hs
  simp only [fabLog, logsOk_signalLog]
  exact (State.logsOk_iff _).2 ⟨h1, ELog.ok_push _ h2, h3, h4, h5, h6, h7⟩

@[simp] theorem logsOk_styLog (s : State) (port kind part entry spage : Nat) (hs : s.logsOk = true) : (styLog s port kind part entry spage).logsOk = true := by
  obtain ⟨h1, h2, h3, h4, h5, h6, h7⟩ := s.logsOk_iff.1 hs
  simp only [styLog, logsOk_signalLog]
  exact (State.logsOk_iff _).2 ⟨h1, h2, ELog.ok_push _ h3, h4, h5, h6, h7⟩

/-! ### Faults of a step, and issue -/

@[simp] theorem logsOk_failStepAt (s : State) (p code cyc : Nat) : (failStepAt s p code cyc).logsOk = s.logsOk := by simp [failStepAt]

@[simp] theorem logsOk_failStep (s : State) (p code : Nat) : (failStep s p code).logsOk = s.logsOk := by simp [failStep]

@[simp] theorem logsOk_coreFaultAt (s : State) (m code cyc : Nat) (hs : s.logsOk = true) : (coreFaultAt s m code cyc).logsOk = true := by simp [coreFaultAt, hs]

@[simp] theorem logsOk_coreFault (s : State) (m code : Nat) (hs : s.logsOk = true) : (coreFault s m code).logsOk = true := by simp [coreFault, hs]

@[simp] theorem logsOk_ownedFault (s : State) (m code : Nat) (hs : s.logsOk = true) : (ownedFault s m code).logsOk = true := by simp [ownedFault, hs]

@[simp] theorem logsOk_violateAt (s0 : State) (m ctx : Nat) (v : Viol) (cyc : Nat) (hs : s0.logsOk = true) : (violateAt s0 m ctx v cyc).logsOk = true := by simp [violateAt, hs]

@[simp] theorem logsOk_violate (s : State) (m ctx : Nat) (v : Viol) (hs : s.logsOk = true) : (violate s m ctx v).logsOk = true := by simp [violate, hs]

@[simp] theorem logsOk_violateOpt (s : State) (m ctx : Nat) (v : Option Viol) (hs : s.logsOk = true) : (violateOpt s m ctx v).logsOk = true := by
  unfold violateOpt
  split <;> simp [hs]

@[simp] theorem logsOk_illegal (s : State) (m ctx slot op cause : Nat) (hs : s.logsOk = true) : (illegal s m ctx slot op cause).logsOk = true := by simp [illegal, hs]

@[simp] theorem logsOk_xlateFault (s : State) (m : Nat) (a : Dword) (e : Nat × Nat) (hs : s.logsOk = true) : (xlateFault s m a e).logsOk = true := by simp [xlateFault, hs]

@[simp] theorem logsOk_trkOverrun (s : State) (m ctx : Nat) (hs : s.logsOk = true) : (trkOverrun s m ctx).logsOk = true := by simp [trkOverrun, hs]

@[simp] theorem State.logsOk_settle {s : State} (m t : Nat) (hs : s.logsOk = true) : (s.settle m t).logsOk = true := by simp +contextual [State.settle, hs]

@[simp] theorem State.logsOk_settleAll {s : State} (p t : Nat) (hs : s.logsOk = true) : (s.settleAll p t).logsOk = true := by simp +contextual [State.settleAll, hs]

@[simp] theorem State.logsOk_settleEnd {s : State} (p : Nat) (hs : s.logsOk = true) : (s.settleEnd p).logsOk = true := by simp +contextual [State.settleEnd, hs]

@[simp] theorem logsOk_countWait (s : State) (q : Issue) (vec : Bool) (rs vs : List Nat) : (countWait s q vec rs vs).logsOk = s.logsOk := by simp [countWait]

@[simp] theorem logsOk_poisonSReg (q : Issue) (r : Nat) (t : Nat) (s : State) : (poisonSReg q r t s).logsOk = s.logsOk := by simp [poisonSReg]

@[simp] theorem logsOk_poisonVReg (q : Issue) (r : Nat) (t : Nat) (s : State) : (poisonVReg q r t s).logsOk = s.logsOk := by simp [poisonVReg]

@[simp] theorem logsOk_poisonSlots (q : Issue) (o : Spo) (n t : Nat) (s : State) : (poisonSlots q o n t s).logsOk = s.logsOk := by simp [poisonSlots]

@[simp] theorem logsOk_poisonSail (q : Issue) (w : BitVec 80) (s : State) : (poisonSail q w s).logsOk = s.logsOk := by
  unfold poisonSail
  split <;> simp

@[simp] theorem logsOk_poisonBundle (q : Issue) (b : BitVec 256) (t : Nat) (s : State) : (poisonBundle q b t s).logsOk = s.logsOk := by simp [poisonBundle]

@[simp] theorem logsOk_beginBundle (s : State) (q : Issue) (t : Nat) (hs : s.logsOk = true) : (beginBundle s q t).logsOk = true := by simp [beginBundle, hs]

@[simp] theorem logsOk_issued (s : State) (q : Issue) (vec : Bool) (rs vs : List Nat) (t : Nat) (hs : s.logsOk = true) :
    (issued s q vec rs vs t).logsOk = true := by simp [issued, hs]

theorem logsOk_issueOr {s : State} {q : Issue} {vec : Bool} {rs vs : List Nat} {dead k : State → Nat → State}
    (hd : ∀ s t, s.logsOk = true → (dead s t).logsOk = true) (hk : ∀ s t, s.logsOk = true → (k s t).logsOk = true) (hs : s.logsOk = true) :
    (issueOr s q vec rs vs dead k).logsOk = true := by
  unfold issueOr
  split
  · exact hs
  · have hi := logsOk_issued s q vec rs vs ‹_› hs
    dsimp only
    split
    · exact hd _ _ hi
    · exact hk _ _ hi

@[simp] theorem logsOk_issue {s : State} {q : Issue} {vec : Bool} {rs vs : List Nat} {k : State → Nat → State} (hk : ∀ s t, s.logsOk = true → (k s t).logsOk = true)
    (hs : s.logsOk = true) : (issue s q vec rs vs k).logsOk = true := logsOk_issueOr (fun _ _ h => h) hk hs

@[simp] theorem logsOk_issueCtrl {s : State} {q : Issue} {rs : List Nat} {k : State → Nat → State} (hk : ∀ s t, s.logsOk = true → (k s t).logsOk = true)
    (hs : s.logsOk = true) : (issueCtrl s q rs k).logsOk = true := logsOk_issueOr (by simp) (by simpa using hk) hs

@[simp] theorem logsOk_legalOr {s : State} {q : Issue} {slot op : Nat} {checks : List (Bool × Nat)} {bad good : State → State}
    (hb : ∀ s, s.logsOk = true → (bad s).logsOk = true) (hg : ∀ s, s.logsOk = true → (good s).logsOk = true) (hs : s.logsOk = true) :
    (legalOr s q slot op checks bad good).logsOk = true := by
  unfold legalOr
  split
  · exact hb _ (logsOk_illegal _ _ _ _ _ _ hs)
  · exact hg _ hs

@[simp] theorem logsOk_readOp (s : State) (q : Issue) (o : Spo) (len : Nat) (hs : s.logsOk = true) : (readOp s q o len).1.logsOk = true := by simp [readOp, hs]

@[simp] theorem logsOk_writeOp (s : State) (q : Issue) (ord : Nat) (o : Spo) (n d : Nat) (poison : Bool) (step t : Nat) (hs : s.logsOk = true) :
    (writeOp s q ord o n d poison step t).logsOk = true := by simp [writeOp, hs]

@[simp] theorem logsOk_readItemsOp (s : State) (q : Issue) (o : Spo) (size count : Nat) (hs : s.logsOk = true) :
    (readItemsOp s q o size count).1.logsOk = true := by simp [readItemsOp, hs]

@[simp] theorem logsOk_readResAt (s : State) (m ctx h byte len : Nat) (hs : s.logsOk = true) : (readResAt s m ctx h byte len).1.logsOk = true := by simp [readResAt, hs]

@[simp] theorem logsOk_readResOp (s : State) (q : Issue) (h byte len : Nat) (hs : s.logsOk = true) : (readResOp s q h byte len).1.logsOk = true := by simp [readResOp, hs]

/-! ### Luff items -/

@[simp] theorem logsOk_armLuff (s : State) (p : Nat) (src : LuffSrc) (u : Nat) : (armLuff s p src u).logsOk = s.logsOk := by simp [armLuff]

@[simp] theorem logsOk_armBoundary (s : State) (p : Nat) (src : LuffSrc) : (armBoundary s p src).logsOk = s.logsOk := by simp [armBoundary]

@[simp] theorem logsOk_endLuff (s : State) (p : Nat) (src : LuffSrc) : (endLuff s p src).logsOk = s.logsOk := by simp [endLuff]

@[simp] theorem logsOk_moveArrival (s : State) (p : Nat) (src : LuffSrc) (u : Option Nat) : (moveArrival s p src u).logsOk = s.logsOk := by
  unfold moveArrival
  split <;> simp

/-! ### Placement and seams -/

@[simp] theorem State.logsOk_updImg (s : State) (p i : Nat) (f : ImgSlot → ImgSlot) : (s.updImg p i f).logsOk = s.logsOk := by
  unfold State.updImg
  split <;> simp

@[simp] theorem logsOk_isolate (s : State) (p src rtr : Nat) (fails : Bool) (hs : s.logsOk = true) : (isolate s p src rtr fails).logsOk = true := by simp [isolate, hs]

@[simp] theorem logsOk_seamUe (s : State) (p m : Nat) (k link : Nat) (hs : s.logsOk = true) : (seamUe s p m k link).logsOk = true := by simp [seamUe, hs]

@[simp] theorem State.logsOk_updSeam (s : State) (k : Nat) (f : Seam → Seam) : (s.updSeam k f).logsOk = s.logsOk := by simp [State.updSeam]

@[simp] theorem State.logsOk_updSeamLink (s : State) (k l : Nat) (f : SeamLink → SeamLink) : (s.updSeamLink k l f).logsOk = s.logsOk := by simp [State.updSeamLink]

/-! ### The sail slot -/

@[simp] theorem logsOk_sailOp {s : State} {q : Issue} {w : BitVec 80} {checks : List (Bool × Nat)} {bad good : State → State}
    (hb : ∀ s, s.logsOk = true → (bad s).logsOk = true) (hg : ∀ s, s.logsOk = true → (good s).logsOk = true) (hs : s.logsOk = true) :
    (sailOp s q w checks bad good).logsOk = true := by
  refine logsOk_legalOr hb (fun s h => ?_) hs
  split
  · exact hg s h
  · simp [hb, h]

theorem logsOk_execSnop (q : Issue) (_w : BitVec 80) (s : State) (hs : s.logsOk = true) : (execSnop q _w s).LogsOk := by simp [execSnop, hs]

theorem logsOk_execMldw (q : Issue) (w : BitVec 80) (s : State) (hs : s.logsOk = true) : (execMldw q w s).LogsOk := by
  simp only [execMldw, Out.logsOk_next]
  refine logsOk_issue (fun s t hs => logsOk_sailOp (by simp) (fun s hs => ?_) hs) hs
  split <;> simp [hs]

theorem logsOk_openTile {s t : State} {q : Issue} {w : BitVec 80} {d : BitVec 128} (hs : s.logsOk = true) (h : openTile s q w d = some t) : t.logsOk = true := by
  simp only [openTile] at h
  split at h
  · cases h
  · cases h
    simp [hs]

@[simp] theorem logsOk_sailCheckFault (s : State) (m i : Nat) (hs : s.logsOk = true) : (sailCheckFault s m i).logsOk = true := by simp [sailCheckFault, hs]

@[simp] theorem logsOk_upsetRow (s : State) (m i row : Nat) (u : Upset) (fails : Bool) (hs : s.logsOk = true) : (upsetRow s m i row u fails).logsOk = true := by simp [upsetRow, hs]

@[simp] theorem logsOk_streamRows {s : State} (q : Issue) (w : BitVec 80) (d : BitVec 128) (t : Tile) (o : OutTile) (up : Option Upset) (cyc : Nat) (hs : s.logsOk = true) :
    (streamRows s q w d t o up cyc).logsOk = true := by
  unfold streamRows
  extract_lets asrc k stride rows kBase
  have hread : ∀ n : Nat, (if qdRot d = 0 then (s, 0, false) else readResOp s q (qdSignBlk d) n (rowSpan (qdRot d) k / 8)).1.logsOk = true := fun n => by
    split <;> simp [hs]
  generalize hx : (if qdRot d = 0 then (s, 0, false) else readResOp s q (qdSignBlk d) (signBit d k kBase / 8) (rowSpan (qdRot d) k / 8)) = x
  have h1 := hread (signBit d k kBase / 8)
  rw [hx] at h1
  obtain ⟨s1, signs, sp⟩ := x
  dsimp -zeta only at h1 ⊢
  extract_lets c1 r x place a bad op y y0 lo hi fence o3 c2 c3 c4 s2
  have h2 : s2.logsOk = true := logsOk_violateOpt _ _ _ _ h1
  split
  · split <;> simp [h2]
  · exact h2

theorem logsOk_execMmul (q : Issue) (w : BitVec 80) (up : Option Upset) (s : State) (hs : s.logsOk = true) : (execMmul q w up s).LogsOk := by
  simp only [execMmul, Out.logsOk_next]
  refine logsOk_issue (fun s t hs => logsOk_sailOp (by simp) (fun s hs => logsOk_legalOr (by simp) (fun u hu => ?_) (by simp [hs])) hs) hs
  split
  · simp [hu]
  · rename_i v hv
    have h : v.logsOk = true := by
      split at hv
      · exact logsOk_openTile hu hv
      · cases hv; exact hu
    split
    · exact logsOk_streamRows _ _ _ _ _ _ _ h
    · exact h

theorem logsOk_execMaccl (q : Issue) (w : BitVec 80) (s : State) (hs : s.logsOk = true) : (execMaccl q w s).LogsOk := by
  simp only [execMaccl, Out.logsOk_next]
  exact logsOk_issue (fun s t hs => logsOk_sailOp (by simp) (fun s hs => by simp [hs]) hs) hs

theorem logsOk_execSdist (q : Issue) (w : BitVec 80) (up : Option Upset) (s : State) (hs : s.logsOk = true) : (execSdist q w up s).LogsOk := by
  simp only [execSdist, Out.logsOk_next]
  refine logsOk_issue (fun s t hs => logsOk_sailOp (by simp) (fun s hs => ?_) hs) hs
  split
  · simp [hs]
  · split
    · split <;> simp [hs]
    · simp [hs]

@[simp] theorem logsOk_cmpPick (q : Issue) (w : BitVec 80) (takeB : BitVec 32 → BitVec 32 → Bool) (s : State) (hs : s.logsOk = true) :
    (cmpPick q w takeB s).logsOk = true := by simp +contextual [cmpPick, hs]

theorem logsOk_execSmax (q : Issue) (w : BitVec 80) (s : State) (hs : s.logsOk = true) : (execSmax q w s).LogsOk := by simp [execSmax, hs]

theorem logsOk_execSmin (q : Issue) (w : BitVec 80) (s : State) (hs : s.logsOk = true) : (execSmin q w s).LogsOk := by simp [execSmin, hs]

theorem logsOk_execSrank (q : Issue) (w : BitVec 80) (s : State) (hs : s.logsOk = true) : (execSrank q w s).LogsOk := by
  simp only [execSrank, Out.logsOk_next]
  refine logsOk_issue (fun s t hs => logsOk_sailOp (by simp) (fun s hs => ?_) hs) hs
  split <;> simp [hs]

theorem logsOk_execSthr (q : Issue) (w : BitVec 80) (s : State) (hs : s.logsOk = true) : (execSthr q w s).LogsOk := by simp +contextual [execSthr, hs]

/-! ### The vector slot -/

@[simp] theorem logsOk_lanewise (q : Issue) (w : BitVec 44) (tys : List Nat) (lat : Nat) (useC : Bool) (f : VWord → VWord → VWord → VWord) (s : State) (hs : s.logsOk = true) :
    (lanewise q w tys lat useC f s).logsOk = true := by simp +contextual [lanewise, hs]

theorem logsOk_execVnop (q : Issue) (_w : BitVec 44) (s : State) (hs : s.logsOk = true) : (execVnop q _w s).LogsOk := by simp [execVnop, hs]

theorem logsOk_execVadd (q : Issue) (w : BitVec 44) (s : State) (hs : s.logsOk = true) : (execVadd q w s).LogsOk := by simp [execVadd, hs]

theorem logsOk_execVsub (q : Issue) (w : BitVec 44) (s : State) (hs : s.logsOk = true) : (execVsub q w s).LogsOk := by simp [execVsub, hs]

theorem logsOk_execVmul (q : Issue) (w : BitVec 44) (s : State) (hs : s.logsOk = true) : (execVmul q w s).LogsOk := by simp [execVmul, hs]

theorem logsOk_execVfma (q : Issue) (w : BitVec 44) (s : State) (hs : s.logsOk = true) : (execVfma q w s).LogsOk := by simp [execVfma, hs]

theorem logsOk_execVmin (q : Issue) (w : BitVec 44) (s : State) (hs : s.logsOk = true) : (execVmin q w s).LogsOk := by simp [execVmin, hs]

theorem logsOk_execVmax (q : Issue) (w : BitVec 44) (s : State) (hs : s.logsOk = true) : (execVmax q w s).LogsOk := by simp [execVmax, hs]

theorem logsOk_execVcmp (q : Issue) (w : BitVec 44) (s : State) (hs : s.logsOk = true) : (execVcmp q w s).LogsOk := by simp +contextual [execVcmp, hs]

theorem logsOk_execVsel (q : Issue) (w : BitVec 44) (s : State) (hs : s.logsOk = true) : (execVsel q w s).LogsOk := by simp +contextual [execVsel, hs]

theorem logsOk_execVcvt (q : Issue) (w : BitVec 44) (s : State) (hs : s.logsOk = true) : (execVcvt q w s).LogsOk := by simp +contextual [execVcvt, hs]

@[simp] theorem logsOk_longOp {s : State} (q : Issue) (w : BitVec 44) (f : BitVec 32 → BitVec 32) (hs : s.logsOk = true) : (longOp q w f s).logsOk = true := by
  refine logsOk_issue (fun s t hs => logsOk_legalOr (by simp) (fun s hs => ?_) hs) hs
  split <;> simp [hs]

theorem logsOk_execVexp (q : Issue) (w : BitVec 44) (s : State) (hs : s.logsOk = true) : (execVexp q w s).LogsOk := by simp [execVexp, hs]

theorem logsOk_execVlog (q : Issue) (w : BitVec 44) (s : State) (hs : s.logsOk = true) : (execVlog q w s).LogsOk := by simp [execVlog, hs]

theorem logsOk_execVrcp (q : Issue) (w : BitVec 44) (s : State) (hs : s.logsOk = true) : (execVrcp q w s).LogsOk := by simp [execVrcp, hs]

theorem logsOk_execVrsq (q : Issue) (w : BitVec 44) (s : State) (hs : s.logsOk = true) : (execVrsq q w s).LogsOk := by simp [execVrsq, hs]

theorem logsOk_execVsqrt (q : Issue) (w : BitVec 44) (s : State) (hs : s.logsOk = true) : (execVsqrt q w s).LogsOk := by simp [execVsqrt, hs]

@[simp] theorem logsOk_reduceOp {s : State} (q : Issue) (w : BitVec 44) (f i : BitVec 32 → BitVec 32 → BitVec 32) (hs : s.logsOk = true) : (reduceOp q w f i s).logsOk = true := by
  refine logsOk_issue (fun s t hs => logsOk_legalOr (by simp) (fun s hs => ?_) hs) hs
  split <;> simp [hs]

theorem logsOk_execVrsum (q : Issue) (w : BitVec 44) (s : State) (hs : s.logsOk = true) : (execVrsum q w s).LogsOk := by simp [execVrsum, hs]

theorem logsOk_execVrmax (q : Issue) (w : BitVec 44) (s : State) (hs : s.logsOk = true) : (execVrmax q w s).LogsOk := by simp [execVrmax, hs]

theorem logsOk_execVrmin (q : Issue) (w : BitVec 44) (s : State) (hs : s.logsOk = true) : (execVrmin q w s).LogsOk := by simp [execVrmin, hs]

theorem logsOk_execVld (q : Issue) (w : BitVec 44) (s : State) (hs : s.logsOk = true) : (execVld q w s).LogsOk := by
  simp only [execVld, Out.logsOk_next]
  exact logsOk_issue (fun s t hs => logsOk_legalOr (by simp) (fun s hs => by simp [hs]) hs) hs

theorem logsOk_execVst (q : Issue) (w : BitVec 44) (s : State) (hs : s.logsOk = true) : (execVst q w s).LogsOk := by
  simp only [execVst, Out.logsOk_next]
  exact logsOk_issue (fun s t hs => logsOk_legalOr (by simp) (fun s hs => by simp [hs]) hs) hs

theorem logsOk_execVkey (q : Issue) (w : BitVec 44) (s : State) (hs : s.logsOk = true) : (execVkey q w s).LogsOk := by simp +contextual [execVkey, hs]

theorem logsOk_execVmask (q : Issue) (w : BitVec 44) (s : State) (hs : s.logsOk = true) : (execVmask q w s).LogsOk := by
  simp only [execVmask, Out.logsOk_next]
  exact logsOk_issue (fun s t hs => logsOk_legalOr (by simp) (fun s hs => by simp [hs]) hs) hs

/-! ### Drain, norm check and escalation -/

@[simp] theorem logsOk_writeRow {s : State} (m : Nat) (d : DrainRow) (hs : s.logsOk = true) : (writeRow s m d).logsOk = true := by
  unfold writeRow
  split <;> simp [hs]

@[simp] theorem logsOk_finalRow (s : State) (m i : Nat) (d : DrainRow) (hs : s.logsOk = true) : (finalRow s m i d).logsOk = true := by simp [finalRow, hs]

theorem logsOk_execVdrn (q : Issue) (w : BitVec 44) (s : State) (hs : s.logsOk = true) : (execVdrn q w s).LogsOk := by
  simp only [execVdrn, Out.logsOk_next]
  split
  · exact hs
  · refine logsOk_issue (fun s t hs => logsOk_legalOr (by simp) (fun s hs => ?_) hs) hs
    split <;> split <;> simp [hs]

theorem logsOk_execVsca (q : Issue) (w : BitVec 44) (s : State) (hs : s.logsOk = true) : (execVsca q w s).LogsOk := by
  simp only [execVsca, Out.logsOk_next]
  refine logsOk_issue (fun s t hs => logsOk_legalOr (by simp) (fun s hs => ?_) hs) hs
  split <;> simp [hs]

@[simp] theorem logsOk_countEsc (s : State) (m i : Nat) (o : OutTile) (row : Nat) (f : EscCount → EscCount) : (countEsc s m i o row f).logsOk = s.logsOk := by
  unfold countEsc
  split <;> simp

@[simp] theorem logsOk_countBlocked (s : State) (m i : Nat) (o : OutTile) (row : Nat) : (countBlocked s m i o row).logsOk = s.logsOk := by simp [countBlocked]

@[simp] theorem logsOk_rowNormCheck (s0 : State) (m i row : Nat) (hs : s0.logsOk = true) : (rowNormCheck s0 m i row).logsOk = true := by
  have h := State.logsOk_settle m (s0.grp (s0.corePart m)).cyc hs
  simp only [rowNormCheck]
  (repeat' split) <;> simp [hs, h]

theorem logsOk_execRowNormCheck (core : Fin 9216) (sail : Fin 4) (row : Fin 512) (s : State) (hs : s.logsOk = true) :
    (execRowNormCheck core sail row s).LogsOk := by simp [execRowNormCheck, hs]

@[simp] theorem logsOk_setMask (s : State) (m i : Nat) (o : OutTile) (row rung : Nat) : (setMask s m i o row rung).logsOk = s.logsOk := by simp [setMask]

@[simp] theorem logsOk_openBytes {s : State} (m a n : Nat) : (openBytes s m a n).logsOk = s.logsOk := by
  induction n generalizing s a with
  | zero => rfl
  | succ n ih => simp [openBytes, ih]

@[simp] theorem logsOk_saveBlock (s : State) (m ctx h n : Nat) (hs : s.logsOk = true) : (saveBlock s m ctx h n).logsOk = true := by
  unfold saveBlock
  split <;> simp [hs]

@[simp] theorem logsOk_saveSail (s : State) (m i : Nat) (hs : s.logsOk = true) : (saveSail s m i).logsOk = true := by
  unfold saveSail
  split <;> simp [hs]

@[simp] theorem logsOk_endRow (s : State) (m i row : Nat) : (endRow s m i row).logsOk = s.logsOk := by simp [endRow]

@[simp] theorem logsOk_passValue {s : State} (m i j : Nat) (o : OutTile) (d : DrainRow) (e : EscRow) (hurt : List Nat) (up : Option Upset) (hs : s.logsOk = true) :
    (passValue s m i j o d e hurt up).1.logsOk = true := by
  unfold passValue
  split <;> simp [hs]

@[simp] theorem logsOk_passRow (s0 : State) (m i j : Nat) (hurt : List Nat) (up : Option Upset) (e : EscRow) (hs : s0.logsOk = true) :
    (passRow s0 m i j hurt up e).logsOk = true := by
  have h := logsOk_violateOpt s0 m
  simp only [passRow]
  split
  · rename_i d o _ _
    have h := logsOk_violateOpt s0 m o.ctx ((rungReads (s0.core m) o e.target).findSome? (fun r => r.viol)) hs
    have hv := logsOk_passValue m i j o d e hurt up h
    simp [h, hv]
  · simp [hs]

theorem logsOk_execEscalationRestoreDone (core : Fin 9216) (sail : Fin 4) (s : State) (hs : s.logsOk = true) :
    (execEscalationRestoreDone core sail s).LogsOk := by simp [execEscalationRestoreDone, hs]

/-! ### Sheet ports and slices -/

@[simp] theorem State.logsOk_updPort (s : State) (i : Nat) (f : SheetPort → SheetPort) : (s.updPort i f).logsOk = s.logsOk := by simp [State.updPort]

@[simp] theorem State.logsOk_updSlice (s : State) (p : Nat) (f : Slice → Slice) : (s.updSlice p f).logsOk = s.logsOk := by simp [State.updSlice]

@[simp] theorem logsOk_shtLog (s : State) (port kind part id rank check : Nat) (hs : s.logsOk = true) : (shtLog s port kind part id rank check).logsOk = true := by
  obtain ⟨h1, h2, h3, h4, h5, h6, h7⟩ := s.logsOk_iff.1 hs
  simp only [shtLog, logsOk_signalLog]
  exact (State.logsOk_iff _).2 ⟨h1, h2, h3, ELog.ok_push _ h4, h5, h6, h7⟩

@[simp] theorem logsOk_putFrame (s : State) (i kind frame : Nat) : (putFrame s i kind frame).logsOk = s.logsOk := by simp [putFrame]

@[simp] theorem logsOk_sendFrame (s : State) (p r : Nat) (kind : Nat) (err : Bool) (route fidx nflit : Nat) (time : Nat) (body : Nat) :
    (sendFrame s p r kind err route fidx nflit time body).logsOk = s.logsOk := by
  simp only [sendFrame]
  (repeat' split) <;> simp

@[simp] theorem logsOk_sendTensor (s : State) (p r route n f : Nat) (fl : List (Slot × Bool)) (head : Nat) : (sendTensor s p r route n f fl head).logsOk = s.logsOk := by
  induction n generalizing s f fl with
  | zero => rfl
  | succ n ih =>
    unfold sendTensor
    split <;> simp [ih]

@[simp] theorem logsOk_slotGone (s : State) (p slot : Nat) : (slotGone s p slot).logsOk = s.logsOk := by simp [slotGone]

@[simp] theorem logsOk_tellHeld (s : State) (p slot r : Nat) : (tellHeld s p slot r).logsOk = s.logsOk := by simp [tellHeld]

@[simp] theorem logsOk_setSlice (s : State) (p : Nat) (st : SliceSt) : (setSlice s p st).logsOk = s.logsOk := by simp [setSlice]

/-! ### The move slot -/

theorem logsOk_execMnop (q : Issue) (_w : BitVec 80) (s : State) (hs : s.logsOk = true) : (execMnop q _w s).LogsOk := by simp [execMnop, hs]

theorem logsOk_execMrd (q : Issue) (w : BitVec 80) (s : State) (hs : s.logsOk = true) : (execMrd q w s).LogsOk := by
  simp only [execMrd, Out.logsOk_next]
  refine logsOk_issue (fun s t hs => logsOk_legalOr (by simp) (fun s hs => ?_) hs) hs
  (repeat' split) <;> simp [hs]

theorem logsOk_execMwr (q : Issue) (w : BitVec 80) (s : State) (hs : s.logsOk = true) : (execMwr q w s).LogsOk := by
  simp only [execMwr, Out.logsOk_next]
  refine logsOk_issue (fun s t hs => logsOk_legalOr (by simp) (fun s hs => ?_) hs) hs
  (repeat' split) <;> simp [hs]

@[simp] theorem logsOk_readFlits (s : State) (q : Issue) (o : Spo) (n : Nat) (hs : s.logsOk = true) : (readFlits s q o n).1.logsOk = true := by simp [readFlits, hs]

@[simp] theorem logsOk_launch (s : State) (fl : List Flit) : (launch s fl).logsOk = s.logsOk := by simp [launch]

@[simp] theorem logsOk_guardDue (s : State) (m : Nat) (src : LuffSrc) (ds : List Nat) : (guardDue s m src ds).logsOk = s.logsOk := by
  unfold guardDue
  split <;> simp

theorem logsOk_execMsend (q : Issue) (w : BitVec 80) (s : State) (hs : s.logsOk = true) : (execMsend q w s).LogsOk := by
  simp only [execMsend, Out.logsOk_next]
  generalize (if bitAt w 79 then noInject3 s q.core else noInject s q.core) = held
  split
  · exact hs
  · refine logsOk_issue (fun s t hs => logsOk_legalOr (by simp) (fun s hs => ?_) hs) hs
    split
    · simp [hs]
    · rename_i c id _
      have h := logsOk_readFlits (s := s.setCore q.core c) q (mvSpo w) (bitsN w 70 9 + 1) hs
      (repeat' split) <;> simp [h]

theorem logsOk_execMfill (q : Issue) (w : BitVec 80) (s : State) (hs : s.logsOk = true) : (execMfill q w s).LogsOk := by
  simp only [execMfill, Out.logsOk_next]
  split
  · exact hs
  · exact logsOk_issue (fun s t hs => logsOk_legalOr (by simp) (fun s hs => by simp [hs]) hs) hs

theorem logsOk_execMcopy (q : Issue) (w : BitVec 80) (s : State) (hs : s.logsOk = true) : (execMcopy q w s).LogsOk := by
  simp only [execMcopy, Out.logsOk_next]
  split
  · exact hs
  · refine logsOk_issue (fun s t hs => logsOk_legalOr (by simp) (fun s hs => ?_) hs) hs
    (repeat' split) <;> simp [hs]

theorem logsOk_execMrel (q : Issue) (w : BitVec 80) (s : State) (hs : s.logsOk = true) : (execMrel q w s).LogsOk := by
  simp only [execMrel, Out.logsOk_next]
  refine logsOk_issue (fun s t hs => logsOk_legalOr (by simp) (fun s hs => ?_) hs) hs
  split <;> simp [hs]

theorem logsOk_execRsend (q : Issue) (w : BitVec 80) (s : State) (hs : s.logsOk = true) : (execRsend q w s).LogsOk := by
  simp only [execRsend, Out.logsOk_next]
  split
  · exact hs
  · refine logsOk_issue (fun s t hs => logsOk_legalOr (by simp) (fun s hs => ?_) hs) hs
    split <;> simp [hs]

theorem logsOk_execMerge (q : Issue) (w : BitVec 80) (s : State) (hs : s.logsOk = true) : (execMerge q w s).LogsOk := by
  simp only [execMerge, Out.logsOk_next]
  split
  · exact hs
  · refine logsOk_issue (fun s t hs => logsOk_legalOr (by simp) (fun s hs => ?_) hs) hs
    split <;> simp [hs]

theorem logsOk_execKvapq (q : Issue) (w : BitVec 80) (s : State) (hs : s.logsOk = true) : (execKvapq q w s).LogsOk := by
  simp only [execKvapq, Out.logsOk_next]
  refine logsOk_issue (fun s t hs => logsOk_legalOr (by simp) (fun s hs => ?_) (by simp [hs])) hs
  (repeat' split) <;> simp [hs]

@[simp] theorem logsOk_listRecord {s : State} (q : Issue) (tab : Nat) (r : BitVec 32) (rowNo : Nat) (hs : s.logsOk = true) : (listRecord s q tab r rowNo).logsOk = true := by
  simp only [listRecord]
  (repeat' split) <;> simp [hs]

@[simp] theorem logsOk_dispatchOne {a : State × List Flit} (q : Issue) (tab trk rl rowNo sel ei rowSlot : Nat) (data : Nat → Slot × Bool) (hs : a.1.logsOk = true) :
    (dispatchOne q tab trk rl rowNo sel ei rowSlot data a).1.logsOk = true := by simp [dispatchOne, hs]

@[simp] theorem logsOk_closeTable (q : Issue) (tab trk : Nat) (a : State × List Flit) : (closeTable q tab trk a).1.logsOk = a.1.logsOk := by simp [closeTable]

@[simp] theorem logsOk_dispatchRows {a : State × List Flit} (q : Issue) (tab trk rl w slot : Nat) (fl : List (Slot × Bool)) (recs : List (Nat × Bool)) (hs : a.1.logsOk = true) :
    (dispatchRows q tab trk rl w slot fl recs a).1.logsOk = true := by
  induction recs generalizing slot fl a with
  | nil => exact hs
  | cons r recs ih =>
    unfold dispatchRows
    extract_lets key rowNo a1 s2 a2
    refine ih _ _ ?_
    have h1 : a1.1.logsOk = true := logsOk_foldl_fst_of (fun a j ha => by
      dsimp only
      split
      · exact ha
      · exact logsOk_dispatchOne _ _ _ _ _ _ _ _ _ ha) hs
    have h2 : s2.logsOk = true := h1
    simp [a2, h2]

theorem logsOk_execXdisp (q : Issue) (w : BitVec 80) (s : State) (hs : s.logsOk = true) : (execXdisp q w s).LogsOk := by
  simp only [execXdisp, Out.logsOk_next]
  split
  · exact hs
  · refine logsOk_issue (fun s t hs => logsOk_legalOr (by simp) (fun u hu => ?_) ?_) hs
    · split
      · simp [hu]
      · simp only [logsOk_guardDue, logsOk_launch]
        exact logsOk_dispatchRows _ _ _ _ _ _ _ _ (logsOk_readItemsOp _ _ _ _ _ (by simp [hu]))
    · exact logsOk_foldl_of (fun s e h => by simp [h]) (by simp [hs])

/-! ### The control slot -/

theorem logsOk_execCnop (q : Issue) (w : BitVec 48) (s : State) (hs : s.logsOk = true) : (execCnop q w s).LogsOk := by simp +contextual [execCnop, hs]

theorem logsOk_execSli (q : Issue) (w : BitVec 48) (s : State) (hs : s.logsOk = true) : (execSli q w s).LogsOk := by simp +contextual [execSli, hs]

theorem logsOk_execSlih (q : Issue) (w : BitVec 48) (s : State) (hs : s.logsOk = true) : (execSlih q w s).LogsOk := by simp +contextual [execSlih, hs]

@[simp] theorem logsOk_scalarOp (q : Issue) (w : BitVec 48) (f : Dword → Dword → Dword) (s : State) (hs : s.logsOk = true) :
    (scalarOp q w f s).logsOk = true := by simp [scalarOp, hs]

theorem logsOk_execSadd (q : Issue) (w : BitVec 48) (s : State) (hs : s.logsOk = true) : (execSadd q w s).LogsOk := by simp [execSadd, hs]

theorem logsOk_execSsub (q : Issue) (w : BitVec 48) (s : State) (hs : s.logsOk = true) : (execSsub q w s).LogsOk := by simp [execSsub, hs]

theorem logsOk_execSmul (q : Issue) (w : BitVec 48) (s : State) (hs : s.logsOk = true) : (execSmul q w s).LogsOk := by simp [execSmul, hs]

theorem logsOk_execSand (q : Issue) (w : BitVec 48) (s : State) (hs : s.logsOk = true) : (execSand q w s).LogsOk := by simp [execSand, hs]

theorem logsOk_execSor (q : Issue) (w : BitVec 48) (s : State) (hs : s.logsOk = true) : (execSor q w s).LogsOk := by simp [execSor, hs]

theorem logsOk_execSxor (q : Issue) (w : BitVec 48) (s : State) (hs : s.logsOk = true) : (execSxor q w s).LogsOk := by simp [execSxor, hs]

theorem logsOk_execSshl (q : Issue) (w : BitVec 48) (s : State) (hs : s.logsOk = true) : (execSshl q w s).LogsOk := by simp [execSshl, hs]

theorem logsOk_execSshr (q : Issue) (w : BitVec 48) (s : State) (hs : s.logsOk = true) : (execSshr q w s).LogsOk := by simp [execSshr, hs]

theorem logsOk_execSlds (q : Issue) (w : BitVec 48) (s : State) (hs : s.logsOk = true) : (execSlds q w s).LogsOk := by
  simp only [execSlds, Out.logsOk_next]
  exact logsOk_issueCtrl (fun s t hs => logsOk_legalOr (by simp) (fun s hs => by simp [hs]) hs) hs

theorem logsOk_execSsts (q : Issue) (w : BitVec 48) (s : State) (hs : s.logsOk = true) : (execSsts q w s).LogsOk := by
  simp only [execSsts, Out.logsOk_next]
  exact logsOk_issueCtrl (fun s t hs => logsOk_legalOr (by simp) (fun s hs => by simp [hs]) hs) hs

@[simp] theorem logsOk_endBranch (q : Issue) (taken : Bool) (target : BitVec 13) (t : Nat) (s : State) : (endBranch q taken target t s).logsOk = s.logsOk := by simp [endBranch]

@[simp] theorem logsOk_passBy (q : Issue) (s : State) (t : Nat) : (passBy q s t).logsOk = s.logsOk := by simp [passBy]

theorem logsOk_execBr (q : Issue) (w : BitVec 48) (s : State) (hs : s.logsOk = true) : (execBr q w s).LogsOk := by
  simp only [execBr, Out.logsOk_next]
  refine logsOk_issueOr (fun s t h => by simp [h]) (fun s t hs => ?_) hs
  split <;> simp [hs]

theorem logsOk_execJmp (q : Issue) (w : BitVec 48) (s : State) (hs : s.logsOk = true) : (execJmp q w s).LogsOk := by
  simp only [execJmp, Out.logsOk_next]
  refine logsOk_issueOr (fun s t h => by simp [h]) (fun s t hs => ?_) hs
  split <;> simp [hs]

theorem logsOk_execLoop (q : Issue) (w : BitVec 48) (s : State) (hs : s.logsOk = true) : (execLoop q w s).LogsOk := by
  simp only [execLoop, Out.logsOk_next]
  refine logsOk_issueOr (fun s t h => by simp [h]) (fun s t hs => ?_) hs
  split <;> simp [hs]

theorem logsOk_execWaitc (q : Issue) (w : BitVec 48) (s : State) (hs : s.logsOk = true) : (execWaitc q w s).LogsOk := by simp +contextual [execWaitc, hs]

theorem logsOk_execSeqadv (q : Issue) (w : BitVec 48) (s : State) (hs : s.logsOk = true) : (execSeqadv q w s).LogsOk := by simp +contextual [execSeqadv, hs]

theorem logsOk_execHand (q : Issue) (w : BitVec 48) (s : State) (hs : s.logsOk = true) : (execHand q w s).LogsOk := by
  simp only [execHand, Out.logsOk_next]
  exact logsOk_issueCtrl (fun s t hs => logsOk_legalOr (by simp) (fun s hs => by simp [hs]) hs) hs

theorem logsOk_execHset (q : Issue) (w : BitVec 48) (s : State) (hs : s.logsOk = true) : (execHset q w s).LogsOk := by simp +contextual [execHset, hs]

theorem logsOk_execVpat (q : Issue) (w : BitVec 48) (s : State) (hs : s.logsOk = true) : (execVpat q w s).LogsOk := by simp +contextual [execVpat, hs]

@[simp] theorem logsOk_overflowPoint (s : State) (m pidx t : Nat) : (overflowPoint s m pidx t).logsOk = s.logsOk := by
  simp only [overflowPoint]
  (repeat' split) <;> simp

@[simp] theorem logsOk_commitGate (s : State) (m pidx t : Nat) : (commitGate s m pidx t).logsOk = s.logsOk := by simp [commitGate]

theorem logsOk_execPhase (q : Issue) (w : BitVec 48) (s : State) (hs : s.logsOk = true) : (execPhase q w s).LogsOk := by
  simp only [execPhase, Out.logsOk_next]
  exact logsOk_issueCtrl (fun s t hs => logsOk_legalOr (by simp) (fun s hs => by simp [hs]) hs) hs

theorem logsOk_execEscm (q : Issue) (w : BitVec 48) (s : State) (hs : s.logsOk = true) : (execEscm q w s).LogsOk := by simp +contextual [execEscm, hs]

theorem logsOk_execWstep (q : Issue) (w : BitVec 48) (s : State) (hs : s.logsOk = true) : (execWstep q w s).LogsOk := by simp +contextual [execWstep, hs]

/-! ### Partition faults and lost cores -/

@[simp] theorem logsOk_endStepNow (s0 : State) (p : Nat) (hs : s0.logsOk = true) : (endStepNow s0 p).logsOk = true := by simp [endStepNow, hs]

@[simp] theorem logsOk_markEntries (s : State) (p : Nat) (slots : List Nat) (status : Nat) : (markEntries s p slots status).logsOk = s.logsOk := by simp [markEntries]

@[simp] theorem logsOk_partFault (s : State) (p code n c status : Nat) (slots : List Nat) (hs : s.logsOk = true) :
    (partFault s p code n c status slots).logsOk = true := by simp [partFault, hs]

@[simp] theorem logsOk_lostFault (s : State) (p code n c status : Nat) (slots : List Nat) (hs : s.logsOk = true) :
    (lostFault s p code n c status slots).logsOk = true := by simp [lostFault, hs]

@[simp] theorem logsOk_darkField (s : State) (n : Nat) : (darkField s n).logsOk = s.logsOk := by simp [darkField]

@[simp] theorem logsOk_releaseHold (s : State) (p : Nat) : (releaseHold s p).logsOk = s.logsOk := by simp [releaseHold]

@[simp] theorem logsOk_followCopy (s : State) : (followCopy s).logsOk = s.logsOk := by simp [followCopy]

@[simp] theorem logsOk_dropRecov (s : State) (p n : Nat) : (dropRecov s p n).logsOk = s.logsOk := by
  unfold dropRecov
  split <;> simp

@[simp] theorem logsOk_fieldLost (s : State) (n code : Nat) (hs : s.logsOk = true) : (fieldLost s n code).logsOk = true := by simp [fieldLost, hs]

@[simp] theorem logsOk_furlCore (s : State) (m cause : Nat) : (furlCore s m cause).logsOk = s.logsOk := by simp [furlCore]

@[simp] theorem logsOk_powerCore (s : State) (m : Nat) : (powerCore s m).logsOk = s.logsOk := by simp [powerCore]

@[simp] theorem logsOk_mapSpare (s : State) (n cxp g : Nat) : (mapSpare s n cxp g).logsOk = s.logsOk := by simp [mapSpare]

@[simp] theorem logsOk_coreLost (s : State) (m code : Nat) (hs : s.logsOk = true) : (coreLost s m code).logsOk = true := by simp [coreLost, hs]

@[simp] theorem logsOk_coreDead (s : State) (m code cause : Nat) (hs : s.logsOk = true) : (coreDead s m code cause).logsOk = true := by simp [coreDead, hs]

@[simp] theorem logsOk_columnFail (s : State) (m : Nat) (code row : Nat) (hs : s.logsOk = true) : (columnFail s m code row).logsOk = true := by simp [columnFail, hs]

@[simp] theorem logsOk_sailCheckAct (s : State) (m sail : Nat) (hs : s.logsOk = true) : (sailCheckAct s m sail).logsOk = true := by
  simp only [sailCheckAct]
  (repeat' split) <;> simp [hs]

@[simp] theorem logsOk_sailChecksAct (s : State) (p : Nat) (hs : s.logsOk = true) : (sailChecksAct s p).logsOk = true := by
  refine logsOk_foldl_of (fun s m h => logsOk_foldl_of (fun u i hu => ?_) (by simp [h])) hs
  split
  · exact hu
  · exact logsOk_sailCheckAct _ _ _ hu

/-! ### Masts -/

@[simp] theorem logsOk_countCorrected (s : State) (m row tier : Nat) (hs : s.logsOk = true) : (countCorrected s m row tier).logsOk = true := by simp [countCorrected, hs]

@[simp] theorem logsOk_corrected (s : State) (m row tier : Nat) (hs : s.logsOk = true) : (corrected s m row tier).logsOk = true := by simp [corrected, hs]

@[simp] theorem logsOk_uncorrectable (s : State) (m row : Nat) (hs : s.logsOk = true) : (uncorrectable s m row).logsOk = true := by simp [uncorrectable, hs]

@[simp] theorem logsOk_rowsFound (s : State) (m : Nat) (ce ue : List Nat) (hs : s.logsOk = true) : (rowsFound s m ce ue).logsOk = true := by
  exact logsOk_foldl_of (fun s r h => by simp [h]) (logsOk_foldl_of (fun s r h => by simp [h]) hs)

@[simp] theorem logsOk_escalationPassEnd (s : State) (m i : Nat) (found : List (Nat × Bool)) (up : Option Upset) (hs : s.logsOk = true) :
    (escalationPassEnd s m i found up).logsOk = true := by
  unfold escalationPassEnd
  extract_lets x p reads hit y ue ce s0 s1 s2
  have h1 : s1.logsOk = true := (logsOk_evrIndex _ _ _ _).trans (logsOk_foldl_of (fun s e h => logsOk_passRow _ _ _ _ _ _ _ h) hs)
  have h2 : s2.logsOk = true := logsOk_rowsFound _ _ _ _ h1
  split
  · split <;> simp [h2]
  · exact hs

theorem logsOk_execEscalationPassEnd (core : Fin 9216) (sail : Fin 4) (found : List (Fin 0x400000 × Bool)) (upset : Option Upset) (s : State) (hs : s.logsOk = true) :
    (execEscalationPassEnd core sail found upset s).LogsOk := by simp [execEscalationPassEnd, hs]

@[simp] theorem logsOk_landRow (s0 : State) (m : Nat) (l : Landing) (poison : Bool) (hs : s0.logsOk = true) : (landRow s0 m l poison).logsOk = true := by simp [landRow, hs]

theorem logsOk_execMastRowLand (core : Fin 9216) (ecc : Ecc) (s : State) (hs : s.logsOk = true) : (execMastRowLand core ecc s).LogsOk := by
  unfold execMastRowLand
  split <;> simp [hs]

theorem logsOk_execMastWriteAck (core : Fin 9216) (s : State) (hs : s.logsOk = true) : (execMastWriteAck core s).LogsOk := by simp [execMastWriteAck, hs]

theorem logsOk_execKvapqAck (core : Fin 9216) (found : List (Fin 512 × Bool)) (s : State) (hs : s.logsOk = true) : (execKvapqAck core found s).LogsOk := by
  simp only [execKvapqAck, Out.logsOk_next]
  split
  · exact hs
  · exact logsOk_foldl_of (fun s k h => by simp [h]) (logsOk_foldl_of (fun s k h => by simp [h]) hs)

theorem logsOk_execTileLoadDone (core : Fin 9216) (sail : Fin 4) (s : State) (hs : s.logsOk = true) : (execTileLoadDone core sail s).LogsOk := by simp [execTileLoadDone, hs]

theorem logsOk_execFillCopyDone (core : Fin 9216) (s : State) (hs : s.logsOk = true) : (execFillCopyDone core s).LogsOk := by simp [execFillCopyDone, hs]

@[simp] theorem logsOk_openWindow (s : State) (m t : Nat) : (openWindow s m t).logsOk = s.logsOk := by simp [openWindow]

theorem logsOk_execRefw (q : Issue) (w : BitVec 48) (found : RefFind) (s : State) (hs : s.logsOk = true) : (execRefw q w found s).LogsOk := by
  simp only [execRefw, Out.logsOk_next]
  refine logsOk_issueCtrl (fun s t hs => logsOk_legalOr (by simp) (fun s hs => ?_) hs) hs
  have hf : ∀ u : State, u.logsOk = true → (found.scrub.foldl (fun s x => countCorrected s q.core x.2 x.1) u).logsOk = true := fun u hu =>
    logsOk_foldl_of (fun s x h => by simp [h]) hu
  split <;> simp [hs, hf]

theorem logsOk_execRefreshDebtTick (core : Fin 9216) (tier : Fin 4) (s : State) (hs : s.logsOk = true) : (execRefreshDebtTick core tier s).LogsOk := by
  unfold execRefreshDebtTick
  extract_lets d p s1 s1'
  have h1 : s1'.logsOk = true := by simp [s1', s1, hs]
  rw [Out.logsOk_next]
  (repeat' split) <;> simp [hs, h1]

theorem logsOk_execRefreshCatchup (core : Fin 9216) (tier : Fin 4) (s : State) (hs : s.logsOk = true) : (execRefreshCatchup core tier s).LogsOk := by simp [execRefreshCatchup, hs]

theorem logsOk_execHotOffDwellExpire (pt : Timed (Fin 64)) (s : State) (hs : s.logsOk = true) : (execHotOffDwellExpire pt s).LogsOk := by simp [execHotOffDwellExpire, hs]

@[simp] theorem logsOk_updPages (s : State) (e : Nat) (f : List Page → List Page) : (updPages s e f).logsOk = s.logsOk := by simp [updPages]

@[simp] theorem logsOk_seekAgain (s : State) (p : Nat) (w : PageCmd) (res : Nat) : (seekAgain s p w res).logsOk = s.logsOk := by
  simp only [seekAgain]
  (repeat' split) <;> simp

@[simp] theorem logsOk_answer (s : State) (p : Nat) (op : PageOp) (m rid vpn res : Nat) : (answer s p op m rid vpn res).logsOk = s.logsOk := by
  simp only [answer]
  (repeat' split) <;> simp

/-! ### The mesh -/

@[simp] theorem logsOk_passed (s : State) (vc : Nat) (route : List Nat) : (passed s vc route).logsOk = s.logsOk := by simp [passed]

@[simp] theorem logsOk_sheetVisible (s : State) (p rank route : Nat) : (sheetVisible s p rank route).logsOk = s.logsOk := by
  unfold sheetVisible
  split <;> simp

@[simp] theorem State.logsOk_settleNow (s : State) (m : Nat) (hs : s.logsOk = true) : (s.settleNow m).logsOk = true := by simp [State.settleNow, hs]

@[simp] theorem logsOk_deliver (s0 : State) (f : Flit) (poison : Bool) (hs : s0.logsOk = true) : (deliver s0 f poison).logsOk = true := by
  simp only [deliver]
  (repeat' split) <;> simp [hs]

@[simp] theorem logsOk_guardArrive (s : State) (f : Flit) : (guardArrive s f).logsOk = s.logsOk := by simp [guardArrive]

@[simp] theorem logsOk_arrive (s1 : State) (f : Flit) (ue : Option (Nat × Nat)) (hs : s1.logsOk = true) : (arrive s1 f ue).logsOk = true := by
  unfold arrive
  split <;> simp [hs]

theorem logsOk_execMeshFlitArrive (i : Nat) (o : FlitEnd) (s : State) (hs : s.logsOk = true) : (execMeshFlitArrive i o s).LogsOk := by
  simp only [execMeshFlitArrive]
  (repeat' split) <;> simp [hs]

theorem logsOk_execDeliveryCreditReturn (core : Fin 9216) (trk : Nat) (s : State) (hs : s.logsOk = true) :
    (execDeliveryCreditReturn core trk s).LogsOk := by simp [execDeliveryCreditReturn, hs]

theorem logsOk_execVc0MessageDeliver (i : Arrival) (s : State) (hs : s.logsOk = true) : (execVc0MessageDeliver i s).LogsOk := by
  simp only [execVc0MessageDeliver, Out.logsOk_next]
  split
  · exact hs
  · split
    · exact hs
    · split
      · simp [hs]
      · refine logsOk_violateOpt _ _ _ _ (State.logsOk_settleNow _ _ ?_)
        split <;> simp [hs]

@[simp] theorem logsOk_nodeOut (s0 : State) (m : Nat) (e : BitVec 32) (x : RedSum) (hs : s0.logsOk = true) : (nodeOut s0 m e x).logsOk = true := by
  simp only [nodeOut]
  (repeat' split) <;> simp [hs]

@[simp] theorem logsOk_sendResults (m tree tag : Nat) (e : BitVec 32) (n : Nat) (s : State) (hs : s.logsOk = true) : (sendResults m tree tag e n s).logsOk = true := by
  induction n generalizing s with
  | zero => exact hs
  | succ n ih =>
    unfold sendResults
    split
    · exact hs
    · exact ih _ (by simp [hs])

@[simp] theorem logsOk_redMismatch (s : State) (f : RedFlit) (hs : s.logsOk = true) : (redMismatch s f).logsOk = true := by simp [redMismatch, hs]

@[simp] theorem logsOk_guardRed (s : State) (f : RedFlit) : (guardRed s f).logsOk = s.logsOk := by simp [guardRed]

theorem logsOk_execReductionFlitArrive (i : Arrival) (s : State) (hs : s.logsOk = true) : (execReductionFlitArrive i s).LogsOk := by
  simp only [execReductionFlitArrive]
  (repeat' split) <;> simp [hs]

theorem logsOk_execReductionAddDone (core : Fin 9216) (tree : Fin 64) (fidx : Fin 512) (tag : BitVec 8) (s : State) (hs : s.logsOk = true) :
    (execReductionAddDone core tree fidx tag s).LogsOk := by
  simp only [execReductionAddDone]
  (repeat' split) <;> simp [hs]

@[simp] theorem logsOk_mergeServe (s0 : State) (h : Nat) (en : MergeEnt) (hs : s0.logsOk = true) : (mergeServe s0 h en).logsOk = true := by simp [mergeServe, hs]

@[simp] theorem logsOk_mergeServed (s : State) (h : Nat) (en : MergeEnt) (hs : s.logsOk = true) : (mergeServed s h en).logsOk = true := by simp [mergeServed, hs]

@[simp] theorem logsOk_mergeRequest (s : State) (h : Nat) (new : MergeEnt) (full : Nat) (hs : s.logsOk = true) : (mergeRequest s h new full).logsOk = true := by
  simp only [mergeRequest]
  (repeat' split) <;> simp [hs]

@[simp] theorem logsOk_mergeAdmit (s : State) (h : Nat) (hs : s.logsOk = true) : (mergeAdmit s h).logsOk = true := by simp +contextual [mergeAdmit, hs]

@[simp] theorem logsOk_mergeClose (s : State) (h : Nat) (en : MergeEnt) (hs : s.logsOk = true) : (mergeClose s h en).logsOk = true := by simp +contextual [mergeClose, hs]

theorem logsOk_execMergeRequestArrive (i : Arrival) (s : State) (hs : s.logsOk = true) : (execMergeRequestArrive i s).LogsOk := by
  simp only [execMergeRequestArrive, Out.logsOk_next]
  split
  · exact hs
  · split
    · simp [hs]
    · refine logsOk_foldl_of (fun s w h => ?_) (logsOk_mergeRequest _ _ _ _ ?_)
      · simp [h]
      · split <;> simp [hs]

theorem logsOk_execMergeEntryClose (core : Fin 9216) (group : Fin 16) (tag : BitVec 8) (s : State) (hs : s.logsOk = true) : (execMergeEntryClose core group tag s).LogsOk := by
  unfold execMergeEntryClose
  split <;> simp [hs]

@[simp] theorem logsOk_markRetrain (s : State) (k l : Nat) : (markRetrain s k l).logsOk = s.logsOk := by
  unfold markRetrain
  split <;> simp

theorem logsOk_execSeamLaneLockLoss (k : Fin 88) (l : Fin 16) (s : State) (hs : s.logsOk = true) : (execSeamLaneLockLoss k l s).LogsOk := by simp [execSeamLaneLockLoss, hs]

theorem logsOk_execSeamErrorWindow (k : Fin 88) (l : Fin 16) (w : SeamWindow) (s : State) (hs : s.logsOk = true) :
    (execSeamErrorWindow k l w s).LogsOk := by simp [execSeamErrorWindow, hs]

theorem logsOk_execSeamRetrainDone (k : Fin 88) (l : Fin 16) (badLanes : Nat) (s : State) (hs : s.logsOk = true) : (execSeamRetrainDone k l badLanes s).LogsOk := by
  simp only [execSeamRetrainDone]
  (repeat' split) <;> simp [hs]

theorem logsOk_execFixedHopEnter (fields : BitVec 48) (s : State) (hs : s.logsOk = true) : (execFixedHopEnter fields s).LogsOk := by simp [execFixedHopEnter, hs]

theorem logsOk_execFixedHopDrainDone (n : Fin 48) (s : State) (hs : s.logsOk = true) : (execFixedHopDrainDone n s).LogsOk := by simp [execFixedHopDrainDone, hs]

theorem logsOk_execFixedHopDrainTimeout (n : Fin 48) (s : State) (hs : s.logsOk = true) : (execFixedHopDrainTimeout n s).LogsOk := by simp [execFixedHopDrainTimeout, hs]

theorem logsOk_execFixedHopStartTick (fields : BitVec 48) (t : Dword) (s : State) (hs : s.logsOk = true) :
    (execFixedHopStartTick fields t s).LogsOk := by simp [execFixedHopStartTick, hs]

theorem logsOk_execFixedHopExitTick (fields : BitVec 48) (t : Dword) (s : State) (hs : s.logsOk = true) :
    (execFixedHopExitTick fields t s).LogsOk := by simp [execFixedHopExitTick, hs]

theorem logsOk_execHopTableLoad (router : Fin 9216) (t : List (BitVec 15)) (s : State) (hs : s.logsOk = true) :
    (execHopTableLoad router t s).LogsOk := by simp [execHopTableLoad, hs]

/-! ### Requests and their entries -/

@[simp] theorem State.logsOk_setEnt (s : State) (e : Nat) (x : Entry) : (s.setEnt e x).logsOk = s.logsOk := by simp [State.setEnt]

@[simp] theorem State.logsOk_updEnt (s : State) (e : Nat) (f : Entry → Entry) : (s.updEnt e f).logsOk = s.logsOk := by simp [State.updEnt]

@[simp] theorem State.logsOk_updReq (s : State) (p : Nat) (f : ReqPart → ReqPart) : (s.updReq p f).logsOk = s.logsOk := by simp [State.updReq]

@[simp] theorem State.logsOk_updSec (s : State) (f : Sec → Sec) : (s.updSec f).logsOk = s.logsOk := by simp [State.updSec]

@[simp] theorem State.logsOk_updSecPart (s : State) (p : Nat) (f : SecPart → SecPart) : (s.updSecPart p f).logsOk = s.logsOk := by simp [State.updSecPart]

@[simp] theorem logsOk_turnTag (s : State) (p e : Nat) (r : Record) : (turnTag s p e r).logsOk = s.logsOk := by
  simp only [turnTag]
  (repeat' split) <;> simp

@[simp] theorem logsOk_putRecord (s : State) (p : Nat) (r : Record) : (putRecord s p r).logsOk = s.logsOk := by simp [putRecord]

@[simp] theorem logsOk_reject (s : State) (p e cmd status tag t : Nat) (place : Nat × Nat) : (reject s p e cmd status tag t place).logsOk = s.logsOk := by simp [reject]

@[simp] theorem logsOk_countFlr (s : State) (p : Nat) : (countFlr s p).logsOk = s.logsOk := by simp [countFlr]

@[simp] theorem logsOk_lateCancel (s : State) (p e : Nat) (x : Entry) (t : Nat) : (lateCancel s p e x t).logsOk = s.logsOk := by simp [lateCancel]

@[simp] theorem logsOk_releasePages (s : State) (p e : Nat) : (releasePages s p e).logsOk = s.logsOk := by simp [releasePages]

@[simp] theorem logsOk_discardSled (s : State) (e : Nat) : (discardSled s e).logsOk = s.logsOk := by simp [discardSled]

@[simp] theorem State.logsOk_updSport (s : State) (i : Nat) (f : StayPort → StayPort) : (s.updSport i f).logsOk = s.logsOk := by simp [State.updSport]

@[simp] theorem logsOk_settle (s : State) (p e t : Nat) : (settle s p e t).logsOk = s.logsOk := by
  simp only [settle]
  (repeat' split) <;> simp

@[simp] theorem logsOk_parkFailed (s : State) (p e : Nat) (fault : Option Nat) (res : Bool) (t : Nat) (hs : s.logsOk = true) : (parkFailed s p e fault res t).logsOk = true := by
  unfold parkFailed
  split <;> simp [hs]

@[simp] theorem logsOk_parkConfirmed (s : State) (p e t : Nat) : (parkConfirmed s p e t).logsOk = s.logsOk := by simp [parkConfirmed]

@[simp] theorem logsOk_queueReads (s : State) (e gen : Nat) (gs : List Page) : (queueReads s e gen gs).logsOk = s.logsOk := by simp [queueReads]

@[simp] theorem logsOk_beginPark (s : State) (p e t : Nat) (hs : s.logsOk = true) : (beginPark s p e t).logsOk = true := by
  simp only [beginPark]
  (repeat' split) <;> simp [hs]

@[simp] theorem logsOk_afterRecord (s : State) (p e : Nat) (r : Record) (t : Nat) (hs : s.logsOk = true) : (afterRecord s p e r t).logsOk = true := by
  simp only [afterRecord]
  (repeat' split) <;> simp [hs]

/-! ### Hoist reports -/

@[simp] theorem flog_noteReport (x : Part) (c : HoistCmd) (r : HoistRpt) (ok : Bool) : (noteReport x c r ok).flog = x.flog := (rfl)

@[simp] theorem logsOk_writeReport (s : State) (p : Nat) (c : HoistCmd) (r : HoistRpt) : (writeReport s p c r).logsOk = s.logsOk := by simp [writeReport]

@[simp] theorem logsOk_abortQueue (s : State) (p : Nat) : (abortQueue s p).logsOk = s.logsOk := by simp [abortQueue]

/-! ### Request commands and rings -/

@[simp] theorem logsOk_storePrompt (s : State) (e : Nat) (ws : List Word) : (storePrompt s e ws).logsOk = s.logsOk := by simp [storePrompt]

@[simp] theorem logsOk_takeSub (s : State) (p q : Nat) : (takeSub s p q).logsOk = s.logsOk := by simp [takeSub]

@[simp] theorem logsOk_countPrompt (s : State) (p op : Nat) (w : BitVec 512) (c : Nat) : (countPrompt s p op w c).logsOk = s.logsOk := by
  unfold countPrompt
  split <;> simp

@[simp] theorem logsOk_submit_of {s : State} {p q op : Nat} {w : BitVec 512} {prompt : Option (List Word)} {t : Dword} {apply : Nat → State → State}
    (ha : ∀ c s, s.logsOk = true → (apply c s).logsOk = true) (hs : s.logsOk = true) : (submit s p q op w prompt t apply).logsOk = true := by
  simp only [submit]
  (repeat' split) <;> simp [ha, hs]

@[simp] theorem logsOk_submit {s : State} {p q op : Nat} {w : BitVec 512} {prompt : Option (List Word)} {t : Dword} {apply : Nat → State → State}
    (ha : ∀ c s, (apply c s).logsOk = s.logsOk) : (submit s p q op w prompt t apply).logsOk = s.logsOk := by
  simp only [submit]
  (repeat' split) <;> simp [ha]

@[simp] theorem logsOk_submissionReadFails (s : State) (p q : Nat) (t : Dword) : (submissionReadFails s p q t).logsOk = s.logsOk := by simp [submissionReadFails]

theorem logsOk_execOpen (p : Fin 64) (q : Fin 16) (sub : BitVec 512) (prompt : Option (List Word)) (t : Dword) (s : State) (hs : s.logsOk = true) :
    (execOpen p q sub prompt t s).LogsOk := by simp [execOpen, hs]

theorem logsOk_execContinue (p : Fin 64) (q : Fin 16) (sub : BitVec 512) (prompt : Option (List Word)) (t : Dword) (s : State) (hs : s.logsOk = true) :
    (execContinue p q sub prompt t s).LogsOk := by
  simp only [execContinue, Out.logsOk_next]
  refine (logsOk_submit fun c s => ?_).trans hs
  (repeat' split) <;> simp

theorem logsOk_execCancel (p : Fin 64) (q : Fin 16) (sub : BitVec 512) (t : Dword) (s : State) (hs : s.logsOk = true) : (execCancel p q sub t s).LogsOk := by simp [execCancel, hs]

theorem logsOk_execClose (p : Fin 64) (q : Fin 16) (sub : BitVec 512) (t : Dword) (s : State) (hs : s.logsOk = true) : (execClose p q sub t s).LogsOk := by simp [execClose, hs]

theorem logsOk_execPark (p : Fin 64) (q : Fin 16) (sub : BitVec 512) (t : Dword) (s : State) (hs : s.logsOk = true) : (execPark p q sub t s).LogsOk := by
  simp only [execPark, Out.logsOk_next]
  exact logsOk_submit_of (fun c s hs => by simp [hs]) hs

@[simp] theorem logsOk_markWaiting (s : State) (p : Nat) : (markWaiting s p).logsOk = s.logsOk := by simp [markWaiting]

@[simp] theorem logsOk_noteFull (s : State) (p : Nat) : (noteFull s p).logsOk = s.logsOk := by simp [noteFull]

@[simp] theorem logsOk_shedRecord (s : State) (p e : Nat) (r : Record) (t : Nat) (hs : s.logsOk = true) : (shedRecord s p e r t).logsOk = true := by simp [shedRecord, hs]

@[simp] theorem logsOk_recordWrite (s : State) (p t : Nat) (hs : s.logsOk = true) : (recordWrite s p t).logsOk = true := by
  unfold recordWrite
  split <;> simp [hs]

theorem logsOk_execCompletionRecordWrite (p : Fin 64) (t : Dword) (s : State) (hs : s.logsOk = true) :
    (execCompletionRecordWrite p t s).LogsOk := by simp [execCompletionRecordWrite, hs]

theorem logsOk_execCqHeadWrite (p : Fin 64) (head : Nat) (s : State) (hs : s.logsOk = true) : (execCqHeadWrite p head s).LogsOk := by simp [execCqHeadWrite, hs]

theorem logsOk_execCqCfgWrite (p : Fin 64) (base : Option Dword) (size : Option Nat) (en : Option Bool) (s : State) (hs : s.logsOk = true) :
    (execCqCfgWrite p base size en s).LogsOk := by simp [execCqCfgWrite, hs]

theorem logsOk_execSqDoorbell (p : Fin 64) (q : Fin 16) (tail : BitVec 16) (s : State) (hs : s.logsOk = true) : (execSqDoorbell p q tail s).LogsOk := by simp [execSqDoorbell, hs]

theorem logsOk_execSqCfgWrite (p : Fin 64) (q : Fin 16) (base : Option Dword) (size : Option Nat) (en : Option Bool) (s : State) (hs : s.logsOk = true) :
    (execSqCfgWrite p q base size en s).LogsOk := by simp [execSqCfgWrite, hs]

/-! ### Service windows of the masts -/

@[simp] theorem logsOk_serveUnmap (s : State) (m rid vpn : Nat) : (serveUnmap s m rid vpn).logsOk = s.logsOk := by
  simp only [serveUnmap]
  (repeat' split) <;> simp

@[simp] theorem logsOk_serveRelease (s : State) (m rid : Nat) : (serveRelease s m rid).logsOk = s.logsOk := by simp [serveRelease]

@[simp] theorem logsOk_serveAccess (s : State) (m : Nat) (write : Bool) (addr : Nat) (d : Row) (found : List (Nat × Bool)) (hs : s.logsOk = true) :
    (serveAccess s m write addr d found).logsOk = true := by simp [serveAccess, hs]

@[simp] theorem logsOk_walkFound (s : State) (m : Nat) (rows : List Nat) (found : List (Nat × Bool)) (hs : s.logsOk = true) :
    (walkFound s m rows found).1.logsOk = true := by simp [walkFound, hs]

theorem logsOk_serveWalk {s : State} {m : Nat} {op : PageOp} {rid vpn : Nat} {gran : Option Nat} {found : List (Nat × Bool)} {go : State → State}
    (hg : ∀ s, s.logsOk = true → (go s).logsOk = true) (hs : s.logsOk = true) : (serveWalk s m op rid vpn gran found go).logsOk = true := by
  have hw := logsOk_walkFound s m ((s.core m).mast.walkRows rid vpn gran) found hs
  unfold serveWalk
  split <;> rename_i h <;> rw [h] at hw
  · simpa using hw
  · exact hg _ hw

@[simp] theorem logsOk_noticeOut (s : State) (p e what : Nat) (ok : Bool) : (noticeOut s p e what ok).logsOk = s.logsOk := by simp [noticeOut]

@[simp] theorem logsOk_unparkFails (s : State) (p e port kind code spage : Nat) (hs : s.logsOk = true) :
    (unparkFails s p e port kind code spage).logsOk = true := by simp [unparkFails, hs]

@[simp] theorem logsOk_listParked (s : State) (e rid t : Nat) (h : Nat × Nat) (g : Nat) : (listParked s e rid t h g).logsOk = s.logsOk := by simp [listParked]

@[simp] theorem logsOk_unparkStep (s : State) (p e : Nat) (hs : s.logsOk = true) : (unparkStep s p e).logsOk = true := by simp [unparkStep, hs]

@[simp] theorem logsOk_placeParked (s : State) (p m e vpn g : Nat) (d : Memory) (hs : s.logsOk = true) : (placeParked s p m e vpn g d).logsOk = true := by simp [placeParked, hs]

@[simp] theorem logsOk_serveOne (s : State) (m : Nat) (o : Outside) (hs : s.logsOk = true) : (serveOne s m o).logsOk = true := by
  cases o with
  | access write _ _ addr d found => exact logsOk_serveAccess _ _ _ _ _ _ hs
  | map rid vpn g wr found => exact logsOk_serveWalk (fun s hs => by simp [hs]) hs
  | unmap rid vpn found => exact logsOk_serveWalk (fun s hs => by simp [hs]) hs
  | release rid found =>
    have hw := logsOk_walkFound s m [(0x10000 + 4 * rid) / 128] found hs
    simp only [serveOne]
    split <;> rename_i h <;> rw [h] at hw <;> simpa using hw
  | park _ _ _ => exact hs
  | place e vpn g d => exact logsOk_placeParked _ _ _ _ _ _ _ hs
  | rebuild => exact hs
  | init rid vpn g => simpa [serveOne] using hs

@[simp] theorem logsOk_serveAll (s : State) (m : Nat) (hs : s.logsOk = true) : (serveAll s m).logsOk = true := by simp +contextual [serveAll, hs]

@[simp] theorem logsOk_serveWindow (m n : Nat) (s : State) (hs : s.logsOk = true) : (serveWindow m n s).logsOk = true := by
  induction n generalizing s with
  | zero => exact hs
  | succ n ih =>
    unfold serveWindow
    dsimp only
    split
    · exact hs
    · split
      · exact ih _ (logsOk_serveOne _ _ _ (by simp [hs]))
      · simp [hs]

@[simp] theorem logsOk_arriveOutside (s : State) (m : Nat) (o : Outside) (hs : s.logsOk = true) : (arriveOutside s m o).logsOk = true := by simp [arriveOutside, hs]

theorem logsOk_execOutsideMastAccess (core : Fin 9216) (write mark : Bool) (part : Fin 64) (row : Fin 0x400000) (x : OutsideRow) (s : State) (hs : s.logsOk = true) :
    (execOutsideMastAccess core write mark part row x s).LogsOk := by simp [execOutsideMastAccess, hs]

theorem logsOk_execSvcw (q : Issue) (w : BitVec 48) (s : State) (hs : s.logsOk = true) : (execSvcw q w s).LogsOk := by
  simp only [execSvcw, Out.logsOk_next]
  exact logsOk_issueCtrl (fun s t hs => logsOk_legalOr (by simp) (fun s hs => by simp [hs]) hs) hs

theorem logsOk_execTlbMap (c : Found (Fin 9216) 0x400000) (rid : BitVec 16) (vpn : BitVec 20) (pgn : BitVec 13) (wr : Bool) (s : State) (hs : s.logsOk = true) :
    (execTlbMap c rid vpn pgn wr s).LogsOk := by simp [execTlbMap, hs]

theorem logsOk_execTlbUnmap (c : Found (Fin 9216) 0x400000) (rid : BitVec 16) (vpn : BitVec 20) (s : State) (hs : s.logsOk = true) :
    (execTlbUnmap c rid vpn s).LogsOk := by simp [execTlbUnmap, hs]

theorem logsOk_execTlbRelease (c : Found (Fin 9216) 0x400000) (rid : BitVec 16) (s : State) (hs : s.logsOk = true) : (execTlbRelease c rid s).LogsOk := by simp [execTlbRelease, hs]

theorem logsOk_execTlbRebuild (core : Fin 9216) (s : State) (hs : s.logsOk = true) : (execTlbRebuild core s).LogsOk := by simp [execTlbRebuild, hs]

theorem logsOk_execPageInit (core : Fin 9216) (rid : BitVec 16) (vpn : BitVec 20) (pgn : BitVec 13) (s : State) (hs : s.logsOk = true) :
    (execPageInit core rid vpn pgn s).LogsOk := by simp [execPageInit, hs]

/-! ### Output streams -/

@[simp] theorem State.logsOk_updOutq (s : State) (k : Nat) (f : OutQ → OutQ) : (s.updOutq k f).logsOk = s.logsOk := by simp [State.updOutq]

theorem logsOk_execOutputQueueToken (slot : Fin 4096) (s : State) (hs : s.logsOk = true) : (execOutputQueueToken slot s).LogsOk := by
  unfold execOutputQueueToken
  split <;> simp [hs]

theorem logsOk_execStreamRecordWrite (p : Fin 64) (r : Fin 16) (parity : Option (BitVec 64)) (sideBad : Bool) (s : State) (hs : s.logsOk = true) :
    (execStreamRecordWrite p r parity sideBad s).LogsOk := by
  unfold execStreamRecordWrite
  split <;> simp [hs]

theorem logsOk_execSrHeadWrite (p : Fin 64) (r : Fin 16) (head : Nat) (s : State) (hs : s.logsOk = true) : (execSrHeadWrite p r head s).LogsOk := by simp [execSrHeadWrite, hs]

theorem logsOk_execSrCfgWrite (p : Fin 64) (r : Fin 16) (base : Option Dword) (size : Option Nat) (en : Option Bool) (s : State) (hs : s.logsOk = true) :
    (execSrCfgWrite p r base size en s).LogsOk := by simp [execSrCfgWrite, hs]

theorem logsOk_execStmFlushGo (byVf : Option (Fin 64)) (slot : Fin 4096) (s : State) (hs : s.logsOk = true) : (execStmFlushGo byVf slot s).LogsOk := by simp [execStmFlushGo, hs]

@[simp] theorem logsOk_endRingRead (s : State) (p status words : Nat) : (endRingRead s p status words).logsOk = s.logsOk := by simp [endRingRead]

theorem logsOk_execRingReadGo (p : Fin 64) (byPf : Bool) (s : State) (hs : s.logsOk = true) : (execRingReadGo p byPf s).LogsOk := by simp [execRingReadGo, hs]

theorem logsOk_execRingReadDone (p : Fin 64) (n : Nat) (bad : List Nat) (s : State) (hs : s.logsOk = true) : (execRingReadDone p n bad s).LogsOk := by simp [execRingReadDone, hs]

theorem logsOk_execStopSetLoad (p : Fin 64) (index : Fin 4096) (s : State) (hs : s.logsOk = true) : (execStopSetLoad p index s).LogsOk := by simp [execStopSetLoad, hs]

/-! ### Stay ports -/

@[simp] theorem logsOk_raisePort (s : State) (owner : Option Nat) (code : Nat) (hs : s.logsOk = true) : (raisePort s owner code).logsOk = true := by
  unfold raisePort
  split <;> simp [hs]

@[simp] theorem logsOk_tryConfirm (s : State) (p e t : Nat) : (tryConfirm s p e t).logsOk = s.logsOk := by simp [tryConfirm]

theorem logsOk_execParkPageWriteDone (e : Fin 262144) (w : Found ParkEnd 512) (t : Dword) (s0 : State) (hs : s0.logsOk = true) : (execParkPageWriteDone e w t s0).LogsOk := by
  simp only [execParkPageWriteDone]
  (repeat' split) <;> simp [hs]

theorem logsOk_execUnparkPageArrive (e : Fin 262144) (w : Timed UnparkIn) (s0 : State) (hs : s0.logsOk = true) : (execUnparkPageArrive e w s0).LogsOk := by
  simp only [execUnparkPageArrive]
  (repeat' split) <;> simp [hs]

theorem logsOk_execStayLinkDown (i : Fin 24) (t : Dword) (s0 : State) (hs : s0.logsOk = true) : (execStayLinkDown i t s0).LogsOk := by
  simp only [execStayLinkDown, Out.logsOk_next]
  exact logsOk_foldl_of (fun s e h => by simp [h]) (by simp [hs])

theorem logsOk_execStayLinkUp (i : Fin 24) (fast typeOk : Bool) (lanes cap retries : Nat) (s : State) (hs : s.logsOk = true) :
    (execStayLinkUp i fast typeOk lanes cap retries s).LogsOk := by simp [execStayLinkUp, hs]

theorem logsOk_execStayRequestTimeout (i : Fin 24) (e : Fin 262144) (t : Dword) (s0 : State) (hs : s0.logsOk = true) : (execStayRequestTimeout i e t s0).LogsOk := by
  unfold execStayRequestTimeout
  split
  · simp [hs]
  · extract_lets s s1
    have h1 : s1.logsOk = true := by simp [s1, s, hs]
    simp [h1]

/-! ### Turns of requests -/

@[simp] theorem logsOk_putRing (s : State) (e n : Nat) (w : BitVec 64) : (putRing s e n w).logsOk = s.logsOk := by simp [putRing]

@[simp] theorem logsOk_evalTokens (e : Nat) (x : Entry) (st : StopSet) (len0 i : Nat) (ws : List (BitVec 64)) (s : State) :
    (evalTokens e x st len0 i ws s).1.logsOk = s.logsOk := by
  induction ws generalizing i s with
  | nil => rfl
  | cons w r ih =>
    simp only [evalTokens]
    (repeat' split) <;> simp [ih]

@[simp] theorem logsOk_sendFrameTokens (s : State) (p e : Nat) (x : Entry) (k : Nat) : (sendFrameTokens s p e x k).logsOk = s.logsOk := by simp [sendFrameTokens]

@[simp] theorem logsOk_tally (s : State) (p tq gen prompt : Nat) : (tally s p tq gen prompt).logsOk = s.logsOk := by simp [tally]

@[simp] theorem logsOk_sendTally (s : State) (m : Tally) : (sendTally s m).logsOk = s.logsOk := by simp [sendTally]

@[simp] theorem logsOk_sendTokens (s : State) (p t : Nat) : (sendTokens s p t).logsOk = s.logsOk := by simp [sendTokens]

@[simp] theorem logsOk_applyCommit (s : State) (p e k : Nat) (c : Commit) : (applyCommit s p e k c).1.logsOk = s.logsOk := by simp [applyCommit]

@[simp] theorem logsOk_seekPage (s : State) (p e rid : Nat) (h : Nat × Nat) : (seekPage s p e rid h).logsOk = s.logsOk := by
  simp only [seekPage]
  (repeat' split) <;> simp

@[simp] theorem logsOk_lookAhead (s : State) (p e : Nat) : (lookAhead s p e).logsOk = s.logsOk := by
  simp only [lookAhead]
  (repeat' split) <;> simp

@[simp] theorem logsOk_dropPages (s : State) (p e : Nat) : (dropPages s p e).logsOk = s.logsOk := by simp [dropPages]

@[simp] theorem logsOk_endUncommitted (s : State) (p e status t : Nat) (late : Bool) : (endUncommitted s p e status t late).logsOk = s.logsOk := by simp [endUncommitted]

@[simp] theorem logsOk_endActive (s : State) (p e status detail t : Nat) (late : Bool) : (endActive s p e status detail t late).logsOk = s.logsOk := by simp [endActive]

@[simp] theorem logsOk_endingOf (s : State) (p e t : Nat) (stop : Option (Nat × Nat)) : (endingOf s p e t stop).logsOk = s.logsOk := by
  simp only [endingOf]
  (repeat' split) <;> simp

@[simp] theorem logsOk_settleStep (s : State) (p t : Nat) (ok : Bool) (esc : AMap EscCount) : (settleStep s p t ok esc).logsOk = s.logsOk := by
  refine (logsOk_sendTokens _ _ _).trans (logsOk_foldl fun s e => ?_)
  dsimp only
  split <;> simp

@[simp] theorem logsOk_endQueued (s : State) (p t : Nat) : (endQueued s p t).logsOk = s.logsOk := by
  refine logsOk_foldl fun s x => ?_
  split <;> simp

@[simp] theorem logsOk_lookAheadAll (s : State) (p t : Nat) : (lookAheadAll s p t).logsOk = s.logsOk := by simp [lookAheadAll]

@[simp] theorem logsOk_admitEntry (s : State) (p e : Nat) : (admitEntry s p e).logsOk = s.logsOk := by
  unfold admitEntry
  split <;> simp

@[simp] theorem logsOk_roundRobin (p t n : Nat) (s : State) : (roundRobin p t n s).logsOk = s.logsOk := by
  induction n generalizing s with
  | zero => rfl
  | succ n ih =>
    simp only [roundRobin]
    (repeat' split) <;> simp [ih]

@[simp] theorem logsOk_clearDeficits (s : State) (p : Nat) : (clearDeficits s p).logsOk = s.logsOk := by simp [clearDeficits]

@[simp] theorem logsOk_admitAll (s : State) (p t : Nat) : (admitAll s p t).logsOk = s.logsOk := by simp [admitAll]

@[simp] theorem logsOk_sendStepRecords (s : State) (p : Nat) : (sendStepRecords s p).logsOk = s.logsOk := by
  unfold sendStepRecords
  split
  · rfl
  · refine logsOk_foldl fun s e => ?_
    dsimp only
    (repeat' split) <;> simp

/-! ### Luffs and the overflow routine -/

@[simp] theorem logsOk_beginSaves (s : State) (p : Nat) : (beginSaves s p).logsOk = s.logsOk := by
  refine logsOk_foldl fun s x => ?_
  (repeat' split) <;> simp

@[simp] theorem State.logsOk_luffCurrent (s : State) (p : Nat) : (s.luffCurrent p).logsOk = s.logsOk := by simp [State.luffCurrent]

theorem logsOk_execLuffStallBegin (p : Fin 64) (s : State) (hs : s.logsOk = true) : (execLuffStallBegin p s).LogsOk := by
  unfold execLuffStallBegin
  split <;> simp [hs]

theorem logsOk_execLuffItemEnd (p : Fin 64) (i : Nat) (s : State) (hs : s.logsOk = true) : (execLuffItemEnd p i s).LogsOk := by
  simp only [execLuffItemEnd]
  (repeat' split) <;> simp [hs]

theorem logsOk_execLuffLineDrop (p : Fin 64) (s : State) (hs : s.logsOk = true) : (execLuffLineDrop p s).LogsOk := by
  unfold execLuffLineDrop
  split <;> simp [hs]

theorem logsOk_execLuffTimeout (p : Fin 64) (n : Fin 48) (s : State) (hs : s.logsOk = true) : (execLuffTimeout p n s).LogsOk := by simp [execLuffTimeout, hs]

@[simp] theorem logsOk_passRows' (s : State) (d : Nat × Nat × Nat) (e pass : Nat) : (passRows' s d e pass).logsOk = s.logsOk := by simp [passRows']

@[simp] theorem logsOk_saveCore (s : State) (m : Nat) (r : OvfRun) (hs : s.logsOk = true) : (saveCore s m r).logsOk = true := by
  unfold saveCore
  split <;> simp [hs]

@[simp] theorem logsOk_stashCore (s0 : State) (m : Nat) (r : OvfRun) (hs : s0.logsOk = true) : (stashCore s0 m r).logsOk = true := by simp [stashCore, hs]

theorem logsOk_execSequencerSaveDone (core : Fin 9216) (sail : Option (Fin 4)) (s : State) (hs : s.logsOk = true) : (execSequencerSaveDone core sail s).LogsOk := by
  simp only [execSequencerSaveDone]
  (repeat' split) <;> simp [hs]

theorem logsOk_execOverflowDispatchDone (n : Fin 48) (s : State) (hs : s.logsOk = true) : (execOverflowDispatchDone n s).LogsOk := by
  simp only [execOverflowDispatchDone]
  (repeat' split) <;> simp [hs]

theorem logsOk_execOverflowRoutineDone (n : Fin 48) (s : State) (hs : s.logsOk = true) : (execOverflowRoutineDone n s).LogsOk := by
  simp only [execOverflowRoutineDone]
  (repeat' split) <;> simp +contextual [hs]

/-! ### Mailboxes -/

@[simp] theorem logsOk_sendReply (s : State) (f : Nat) (r : BitVec 512) : (sendReply s f r).logsOk = s.logsOk := by simp [sendReply]

@[simp] theorem logsOk_countDiscards (s : State) (p n : Nat) : (countDiscards s p n).logsOk = s.logsOk := by simp [countDiscards]

@[simp] theorem logsOk_endMsg (s : State) (f : Nat) (m : MbxMsg) (status detail : Nat) (payload : List (Nat × Nat × Nat)) :
    (endMsg s f m status detail payload).logsOk = s.logsOk := by simp [endMsg]

@[simp] theorem logsOk_endBody (s : State) (f : Nat) (body : BitVec 512) (status detail : Nat) (payload : List (Nat × Nat × Nat)) :
    (endBody s f body status detail payload).logsOk = s.logsOk := by
  unfold endBody
  split <;> simp

@[simp] theorem logsOk_holdMsg (s : State) (f : Nat) (m : MbxMsg) : (holdMsg s f m).logsOk = s.logsOk := by simp [holdMsg]

theorem logsOk_execMbxOutDataWrite (f : Fin 65) (i : Fin 16) (v : Word) (s : State) (hs : s.logsOk = true) :
    (execMbxOutDataWrite f i v s).LogsOk := by simp [execMbxOutDataWrite, hs]

theorem logsOk_execMbxOutGo (f : Fin 65) (link : Fin 4) (s : State) (hs : s.logsOk = true) : (execMbxOutGo f link s).LogsOk := by simp [execMbxOutGo, hs]

@[simp] theorem logsOk_takeOut (s : State) (f : Nat) : (takeOut s f).logsOk = s.logsOk := by simp [takeOut]

theorem logsOk_execMbxTake (f : Fin 65) (s : State) (hs : s.logsOk = true) : (execMbxTake f s).LogsOk := by
  simp only [execMbxTake]
  (repeat' split) <;> simp [hs]

@[simp] theorem logsOk_mailShutdown (s : State) (f : Nat) : (mailShutdown s f).logsOk = s.logsOk := by simp [mailShutdown]

theorem logsOk_execMbxReplyWrite (f : Fin 65) (s : State) (hs : s.logsOk = true) : (execMbxReplyWrite f s).LogsOk := by
  simp only [execMbxReplyWrite]
  (repeat' split) <;> simp [hs]

theorem logsOk_execMbxInDone (f : Fin 65) (s : State) (hs : s.logsOk = true) : (execMbxInDone f s).LogsOk := by simp [execMbxInDone, hs]

theorem logsOk_execDblStatClear (f : Fin 65) (w : Word) (s : State) (hs : s.logsOk = true) : (execDblStatClear f w s).LogsOk := by simp [execDblStatClear, hs]

theorem logsOk_execDblMaskWrite (f : Fin 65) (w : Word) (s : State) (hs : s.logsOk = true) : (execDblMaskWrite f w s).LogsOk := by simp [execDblMaskWrite, hs]

theorem logsOk_execMsixUnmask (f : Fin 65) (v : Option (Fin 256)) (s : State) (hs : s.logsOk = true) : (execMsixUnmask f v s).LogsOk := by
  unfold execMsixUnmask
  split <;> simp [hs]

theorem logsOk_execCoalesceExpire (f : Fin 65) (vt : Timed (Fin 64)) (s0 : State) (hs : s0.logsOk = true) : (execCoalesceExpire f vt s0).LogsOk := by simp [execCoalesceExpire, hs]

/-! ### Clocks and power as settings -/

@[simp] theorem State.logsOk_updClk (s : State) (f : Clk → Clk) : (s.updClk f).logsOk = s.logsOk := by simp [State.updClk]

@[simp] theorem State.logsOk_updClkPart (s : State) (p : Nat) (f : ClkPart → ClkPart) : (s.updClkPart p f).logsOk = s.logsOk := by simp [State.updClkPart]

@[simp] theorem logsOk_applySwal (s : State) (p : Nat) : (applySwal s p).logsOk = s.logsOk := by simp [applySwal]

@[simp] theorem logsOk_pwrLog (s : State) (n c kind phase value : Nat) (hs : s.logsOk = true) : (pwrLog s n c kind phase value).logsOk = true := by
  obtain ⟨h1, h2, h3, h4, h5, h6, h7⟩ := s.logsOk_iff.1 hs
  simp only [pwrLog, logsOk_signalLog]
  exact (State.logsOk_iff _).2 ⟨h1, h2, h3, h4, ELog.ok_push _ h5, h6, h7⟩

@[simp] theorem logsOk_tripField (s : State) (n code value : Nat) (hs : s.logsOk = true) : (tripField s n code value).logsOk = true := by simp [tripField, hs]

@[simp] theorem logsOk_boundaryPower (s : State) (p : Nat) (hs : s.logsOk = true) : (boundaryPower s p).logsOk = true := by simp +contextual [boundaryPower, hs]

@[simp] theorem logsOk_endSlew (s : State) : (endSlew s).logsOk = s.logsOk := by simp [endSlew]

@[simp] theorem logsOk_newRate (s : State) : (newRate s).logsOk = s.logsOk := by simp [newRate]

@[simp] theorem logsOk_moveTime (s : State) (v : Dword) : (moveTime s v).logsOk = s.logsOk := by simp [moveTime]

/-! ### Boundaries of a step -/

@[simp] theorem logsOk_quarantine (s : State) (p status : Nat) (hs : s.logsOk = true) : (quarantine s p status).logsOk = true := by simp [quarantine, hs]

@[simp] theorem logsOk_leftoverCheck (s : State) (p : Nat) (ok : Bool) (hs : s.logsOk = true) : (leftoverCheck s p ok).logsOk = true := by
  refine logsOk_foldl_of (fun s x h => ?_) hs
  split <;> simp [h]

@[simp] theorem logsOk_drainEvents (s : State) (p : Nat) : (drainEvents s p).logsOk = s.logsOk := by simp [drainEvents]

@[simp] theorem logsOk_emptySlots (s : State) (p : Nat) (hs : s.logsOk = true) : (emptySlots s p).logsOk = true := by
  unfold emptySlots
  extract_lets s1
  have h1 : s1.logsOk = true := by
    refine logsOk_foldl_of (fun s x h => ?_) hs
    dsimp only
    split
    · refine logsOk_foldl_of (fun s e h => ?_) ?_
      · split <;> simp [h]
      · split <;> simp [h]
    · exact h
  simp [h1]

@[simp] theorem logsOk_resetSlots (s : State) (p : Nat) : (resetSlots s p).logsOk = s.logsOk := by simp [resetSlots]

@[simp] theorem logsOk_slotEvents (s : State) (p : Nat) (hs : s.logsOk = true) : (slotEvents s p).logsOk = true := by simp [slotEvents, hs]

@[simp] theorem logsOk_stopDrained (s : State) (p : Nat) : (stopDrained s p).logsOk = s.logsOk := by simp [stopDrained]

@[simp] theorem logsOk_applyTlbs (s : State) (p : Nat) (hs : s.logsOk = true) : (applyTlbs s p).logsOk = true := by simp +contextual [applyTlbs, hs]

@[simp] theorem logsOk_dropTravel (s : State) (p : Nat) : (dropTravel s p).logsOk = s.logsOk := by simp [dropTravel]

@[simp] theorem logsOk_keepWindow (s : State) (p : Nat) : (keepWindow s p).logsOk = s.logsOk := by simp [keepWindow]

@[simp] theorem logsOk_sendStamps (s : State) (p t : Nat) : (sendStamps s p t).logsOk = s.logsOk := by simp [sendStamps]

@[simp] theorem logsOk_endMarked (s : State) (p t : Nat) : (endMarked s p t).logsOk = s.logsOk := by simp [endMarked]

@[simp] theorem logsOk_lostToWaiting (s : State) (p : Nat) : (lostToWaiting s p).logsOk = s.logsOk := by simp [lostToWaiting]

@[simp] theorem logsOk_applyAutos (s : State) (p : Nat) : (applyAutos s p).logsOk = s.logsOk := by simp [applyAutos]

@[simp] theorem logsOk_applyGate (s : State) (p : Nat) : (applyGate s p).logsOk = s.logsOk := by simp [applyGate]

@[simp] theorem logsOk_applySettings (s0 : State) (p : Nat) : (applySettings s0 p).logsOk = s0.logsOk := by
  simp only [applySettings]
  (repeat' split) <;> simp

@[simp] theorem logsOk_serveQueues (s : State) (p t : Nat) : (serveQueues s p t).logsOk = s.logsOk := by simp [serveQueues]

@[simp] theorem logsOk_tellEnd (s : State) (p t : Nat) : (tellEnd s p t).logsOk = s.logsOk := by simp [tellEnd]

theorem logsOk_execStepEndBoundary (p : Fin 64) (t : Dword) (s0 : State) (hs : s0.logsOk = true) : (execStepEndBoundary p t s0).LogsOk := by
  simp -zeta only [execStepEndBoundary, Out.logsOk_next]
  split
  · split <;> simp [hs]
  · extract_lets s g0 cs now0 miss s1 now1 held s1' now ok s2 bad s2' s3 s4 s5 ns s5' s6 s7 s8 s9
    have h : s.logsOk = true := by simp [s, hs]
    have h1 : s1.logsOk = true := by simp [s1, h]
    have h1' : s1'.logsOk = true := by simp [s1', h1]
    have h2 : s2'.logsOk = true := by simp [s2', s2, h1']
    have h3 : s3.logsOk = true := logsOk_sailChecksAct _ _ (by simp [h2])
    have h4 : s4.logsOk = true := by simp [s4, h3]
    have h5 : s5'.logsOk = true := by simp [s5', s5, h4]
    have h7 : s7.logsOk = true := by simp [s7, s6, h5]
    have h8 : s8.logsOk = true := by simp [s8, h7]
    simp [s9, h8]

@[simp] theorem logsOk_applyRecord (s : State) (p t : Nat) (hs : s.logsOk = true) : (applyRecord s p t).logsOk = true := by
  unfold applyRecord
  split
  · exact hs
  · split
    · exact hs
    · refine logsOk_foldl_of (fun s r h => ?_) hs
      extract_lets e i s0 s1 x s2' s2 s3 s4
      have h1 : s1.logsOk = true := by simp [s1, s0, h]
      have h2 : s2.logsOk = true := by simp [s2, s2', h1]
      simp [s4, s3, h2]

@[simp] theorem logsOk_joinSlots (s : State) (p : Nat) : (joinSlots s p).logsOk = s.logsOk := by simp [joinSlots]

@[simp] theorem logsOk_holdEvents (s : State) (p t : Nat) (hs : s.logsOk = true) : (holdEvents s p t).logsOk = true := by simp [holdEvents, hs]

theorem logsOk_execStepStartBoundary (p : Fin 64) (t : Dword) (s0 : State) (hs : s0.logsOk = true) : (execStepStartBoundary p t s0).LogsOk := by simp [execStepStartBoundary, hs]

theorem logsOk_execIdleBoundary (p : Fin 64) (t : Dword) (s0 : State) (hs : s0.logsOk = true) : (execIdleBoundary p t s0).LogsOk := by
  unfold execIdleBoundary
  rw [Out.logsOk_next]
  split
  · exact hs
  · extract_lets s s1 s2
    have h : s.logsOk = true := by simp [s, hs]
    have h1 : s1.logsOk = true := by simp [s1, h]
    have h2 : s2.logsOk = true := by simp [s2, h1]
    simp [h2]

theorem logsOk_execImageCurrentWindow (core : Fin 9216) (mean : Nat) (s : State) (hs : s.logsOk = true) :
    (execImageCurrentWindow core mean s).LogsOk := by simp [execImageCurrentWindow, hs]

/-! ### Sheet frames -/

@[simp] theorem logsOk_refuseFrame (s : State) (i : Nat) (h : BitVec 128) (hs : s.logsOk = true) : (refuseFrame s i h).logsOk = true := by
  simp only [refuseFrame]
  (repeat' split) <;> simp [hs]

theorem logsOk_onFrame {s : State} {i : Nat} {h : BitVec 128} {f : Nat → State → State} (hf : ∀ p s, s.logsOk = true → (f p s).logsOk = true) (hs : s.logsOk = true) :
    (onFrame s i h f).logsOk = true := by
  simp only [onFrame]
  (repeat' split) <;> simp [hf, hs]

@[simp] theorem logsOk_stray (s : State) (i p : Nat) (h : BitVec 128) (n : Nat) (hs : s.logsOk = true) : (stray s i p h n).logsOk = true := by
  have h1 := logsOk_iter_of (n := n) (i := 0) (fun _ s hs => logsOk_shtLog s i 3 p (fhId h) (fhRank h) 0 hs) hs
  simp [stray, h1]

theorem logsOk_execSheetTensorFrame (i : Fin 8) (h : BitVec 128) (dst : BitVec 64) (fl : List (BitVec 512 × Bool)) (s : State) (hs : s.logsOk = true) :
    (execSheetTensorFrame i h dst fl s).LogsOk := by
  simp only [execSheetTensorFrame]
  (repeat' split) <;> simp [hs]

theorem logsOk_execSheetCreditFrame (i : Fin 8) (h : BitVec 128) (s : State) (hs : s.logsOk = true) : (execSheetCreditFrame i h s).LogsOk := by
  simp only [execSheetCreditFrame, Out.logsOk_next]
  refine logsOk_onFrame (fun p s hs => ?_) hs
  split <;> simp [hs]

theorem logsOk_execSheetGateFrame (i : Fin 8) (h : BitVec 128) (s : State) (hs : s.logsOk = true) : (execSheetGateFrame i h s).LogsOk := by
  simp only [execSheetGateFrame, Out.logsOk_next]
  exact logsOk_onFrame (fun p s hs => by simp [hs]) hs

theorem logsOk_execSheetWaitArm (p : Fin 64) (rank : Fin 8) (route : Fin 256) (s : State) (hs : s.logsOk = true) : (execSheetWaitArm p rank route s).LogsOk := by
  unfold execSheetWaitArm
  split <;> simp [hs]

theorem logsOk_execGateDueArm (p : Fin 64) (s : State) (hs : s.logsOk = true) : (execGateDueArm p s).LogsOk := by simp [execGateDueArm, hs]

@[simp] theorem logsOk_noteReach (s : State) (p : Nat) : (noteReach s p).logsOk = s.logsOk := by simp [noteReach]

@[simp] theorem logsOk_checkSlice (s0 : State) (p : Nat) : (checkSlice s0 p).logsOk = s0.logsOk := by
  simp only [checkSlice]
  (repeat' split) <;> simp

@[simp] theorem logsOk_checkSlices (s : State) : (checkSlices s).logsOk = s.logsOk := by simp [checkSlices]

@[simp] theorem logsOk_loseSlice (s : State) (p r : Nat) (hs : s.logsOk = true) : (loseSlice s p r).logsOk = true := by
  unfold loseSlice
  extract_lets y t lost s0 s1 s2 s3
  have h1 : s1.logsOk = true := by simp [s1, s0, hs]
  have h3 : s3.logsOk = true := by simp [s3, s2, h1]
  exact logsOk_partFault _ _ _ _ _ _ _ h3

theorem logsOk_execSheetEndStampFrame (i : Fin 8) (h : BitVec 128) (recs : List (BitVec 128)) (s : State) (hs : s.logsOk = true) : (execSheetEndStampFrame i h recs s).LogsOk := by
  simp only [execSheetEndStampFrame, Out.logsOk_next]
  exact logsOk_onFrame (fun p s hs => by simp [hs]) hs

theorem logsOk_execSheetNoticeFrame (i : Fin 8) (h : BitVec 128) (what : Fin 5) (ok : Bool) (e : Fin 262144) (s : State) (hs : s.logsOk = true) :
    (execSheetNoticeFrame i h what ok e s).LogsOk := by
  simp only [execSheetNoticeFrame, Out.logsOk_next]
  refine logsOk_onFrame (fun p s hs => ?_) hs
  split
  · simp [hs]
  · split
    · split <;> simp [hs]
    · split <;> simp [hs]

theorem logsOk_execSliceStampLate (p : Fin 64) (rt : Timed (Fin 8)) (s0 : State) (hs : s0.logsOk = true) : (execSliceStampLate p rt s0).LogsOk := by simp [execSliceStampLate, hs]

theorem logsOk_execSliceLossTimeout (p : Fin 64) (rt : Timed (Fin 8)) (s : State) (hs : s.logsOk = true) :
    (execSliceLossTimeout p rt s).LogsOk := by simp [execSliceLossTimeout, hs]

theorem logsOk_execStampWaitTimeout (p : Fin 64) (rt : Timed (Fin 8)) (s : State) (hs : s.logsOk = true) :
    (execStampWaitTimeout p rt s).LogsOk := by simp [execStampWaitTimeout, hs]

@[simp] theorem logsOk_updRole (s : State) : (updRole s).logsOk = s.logsOk := by
  unfold updRole
  split <;> simp

theorem logsOk_execSheetTimeFrame (i : Fin 8) (h : BitVec 128) (x : Timed Dword) (s0 : State) (hs : s0.logsOk = true) : (execSheetTimeFrame i h x s0).LogsOk := by
  simp only [execSheetTimeFrame]
  (repeat' split) <;> simp [hs]

theorem logsOk_execTimeExchangeTick (s1 : State) (hs : s1.logsOk = true) : (execTimeExchangeTick s1).LogsOk := by simp [execTimeExchangeTick, hs]

theorem logsOk_execTimeHoldTimeout (s : State) (hs : s.logsOk = true) : (execTimeHoldTimeout s).LogsOk := by simp [execTimeHoldTimeout, hs]

@[simp] theorem logsOk_tellPeer (s : State) (i : Nat) : (tellPeer s i).logsOk = s.logsOk := by
  exact logsOk_foldl fun _ _ => logsOk_foldl fun _ _ => by simp

@[simp] theorem logsOk_showVerdict (s : State) (i : Nat) (v : Verdict) (hs : s.logsOk = true) : (showVerdict s i v).logsOk = true := by simp [showVerdict, hs]

@[simp] theorem logsOk_judgePorts (s : State) (i : Nat) (timeout : Bool) (hs : s.logsOk = true) : (judgePorts s i timeout).logsOk = true := by
  refine logsOk_foldl_of (fun s x h => ?_) hs
  (repeat' split) <;> simp [h]

theorem logsOk_execSheetPortLinkUp (x : Timed (Fin 8)) (s0 : State) (hs : s0.logsOk = true) : (execSheetPortLinkUp x s0).LogsOk := by
  simp only [execSheetPortLinkUp]
  (repeat' split) <;> simp [hs]

theorem logsOk_execSheetIdentFrame (i : Fin 8) (serial : Dword) (port : Fin 8) (peerGood agrees : Option Bool) (s : State) (hs : s.logsOk = true) :
    (execSheetIdentFrame i serial port peerGood agrees s).LogsOk := by
  simp only [execSheetIdentFrame, Out.logsOk_next]
  split
  · exact hs
  · rw [logsOk_checkSlices]
    refine logsOk_judgePorts _ _ _ (logsOk_foldl_of (fun s p h => ?_) hs)
    (repeat' split) <;> simp [h]

theorem logsOk_execCablingVerdictTimeout (x : Timed (Fin 8)) (s : State) (hs : s.logsOk = true) : (execCablingVerdictTimeout x s).LogsOk := by
  simp only [execCablingVerdictTimeout]
  (repeat' split) <;> simp [hs]

@[simp] theorem logsOk_resend (s : State) (i lost : Nat) : (resend s i lost).logsOk = s.logsOk := by
  simp only [resend]
  (repeat' split) <;> simp

theorem logsOk_execSheetPortLinkDown (x : PortLoss) (s0 : State) (hs : s0.logsOk = true) : (execSheetPortLinkDown x s0).LogsOk := by simp [execSheetPortLinkDown, hs]

/-! ### Image pins -/

@[simp] theorem logsOk_writePins (s : State) (ms : List Nat) : (writePins s ms).logsOk = s.logsOk := by
  exact logsOk_foldl fun _ _ => rfl

/-! ### Swallow demands and glides -/

@[simp] theorem logsOk_swalNow (s : State) (p : Nat) : (swalNow s p).logsOk = s.logsOk := by simp [swalNow]

@[simp] theorem logsOk_setReef (s : State) (p : Nat) : (setReef s p).logsOk = s.logsOk := by simp [setReef]

@[simp] theorem logsOk_holdDemand (s : State) (p S : Nat) : (holdDemand s p S).logsOk = s.logsOk := by simp [holdDemand]

@[simp] theorem logsOk_slowLost (s : State) (m : Nat) (hs : s.logsOk = true) : (slowLost s m).logsOk = true := by simp [slowLost, hs]

@[simp] theorem logsOk_slowCore (s : State) (m : Nat) (hs : s.logsOk = true) : (slowCore s m).logsOk = true := by simp [slowCore, hs]

@[simp] theorem logsOk_raiseVolts (s : State) (step : Nat) (hs : s.logsOk = true) : (raiseVolts s step).logsOk = true := by
  simp only [raiseVolts]
  rw [logsOk_foldl fun s m => by simp]
  exact logsOk_foldl_of (fun s m h => by simp [h]) (logsOk_foldl_of (fun s m h => by simp [h]) hs)

@[simp] theorem logsOk_reefCore (s : State) (m : Nat) (hs : s.logsOk = true) : (reefCore s m).logsOk = true := by simp [reefCore, hs]

@[simp] theorem logsOk_supplyJudge (s : State) (n : Nat) (hs : s.logsOk = true) : (supplyJudge s n).logsOk = true := by simp [supplyJudge, hs]

@[simp] theorem logsOk_glideTo (s : State) (k : Nat) (hs : s.logsOk = true) : (glideTo s k).logsOk = true := by simp [glideTo, hs]

@[simp] theorem logsOk_retarget (s : State) (hs : s.logsOk = true) : (retarget s).logsOk = true := by simp [retarget, hs]

@[simp] theorem logsOk_relax (s : State) (hs : s.logsOk = true) : (relax s).logsOk = true := by simp [relax, hs]

/-! ### Hoists -/

@[simp] theorem State.logsOk_updHoist (s : State) (p : Nat) (f : Hoist → Hoist) : (s.updHoist p f).logsOk = s.logsOk := by simp [State.updHoist]

@[simp] theorem logsOk_clearSlot (s : State) (p i : Nat) : (clearSlot s p i).logsOk = s.logsOk := by simp [clearSlot]

@[simp] theorem logsOk_endHoist (s : State) (p : Nat) (status : Nat) (sec vcore detail : Nat) (hs : s.logsOk = true) : (endHoist s p status sec vcore detail).logsOk = true := by
  unfold endHoist
  split <;> simp [hs]

@[simp] theorem logsOk_failHoist (s : State) (p status : Nat) (hs : s.logsOk = true) : (failHoist s p status).logsOk = true := by simp [failHoist, hs]

theorem logsOk_takeCommand {s : State} {p : Nat} {byVf : Bool} {ops : Nat → Bool} {t : Dword} {x : State × HoistCmd} (h : takeCommand s p byVf ops t = some x) :
    x.1.logsOk = s.logsOk := by
  simp only [takeCommand] at h
  (repeat' split at h) <;> cases h <;> simp

@[simp] theorem logsOk_enqueue (s : State) (p : Nat) (c : HoistCmd) : (enqueue s p c).logsOk = s.logsOk := by simp [enqueue]

theorem logsOk_execHoist (p : Fin 64) (byVf : Bool) (t : Dword) (s : State) (hs : s.logsOk = true) : (execHoist p byVf t s).LogsOk := by
  simp only [execHoist, Out.logsOk_next]
  split
  · simp [logsOk_takeCommand ‹_›, hs]
  · exact hs

@[simp] theorem logsOk_askAbort (s : State) (p : Nat) : (askAbort s p).logsOk = s.logsOk := by simp [askAbort]

theorem logsOk_execUnload (p : Fin 64) (byVf : Bool) (t : Dword) (s : State) (hs : s.logsOk = true) : (execUnload p byVf t s).LogsOk := by
  simp only [execUnload, Out.logsOk_next]
  split
  · simp [logsOk_takeCommand ‹_›, hs]
  · exact hs

theorem logsOk_execHoistAbort (p : Fin 64) (byVf : Bool) (t : Dword) (s : State) (hs : s.logsOk = true) : (execHoistAbort p byVf t s).LogsOk := by
  simp only [execHoistAbort, Out.logsOk_next]
  split
  · exact hs
  · have h := (logsOk_takeCommand ‹_›).trans hs
    split
    · simpa using h
    · split <;> split
      · simpa using h
      · split <;> simpa using h
      · simpa using h
      · split <;> simpa using h

@[simp] theorem logsOk_beginUnload (s : State) (p i : Nat) (why : UnloadFor) (c : HoistCmd) (t : Nat) : (beginUnload s p i why c t).logsOk = s.logsOk := by simp [beginUnload]

@[simp] theorem logsOk_readHeader (s : State) (p : Nat) (c : HoistCmd) (inp : HoistIn) (key : Option (BitVec 256)) (hs : s.logsOk = true) :
    (readHeader s p c inp key).logsOk = true := by
  simp only [readHeader]
  (repeat' split) <;> simp [hs]

@[simp] theorem logsOk_startHoist (s : State) (p : Nat) (c : HoistCmd) (inp : HoistIn) (hs : s.logsOk = true) : (startHoist s p c inp).logsOk = true := by simp [startHoist, hs]

theorem logsOk_execHoistQueueTake (p : Fin 64) (inp : HoistIn) (t : Dword) (s0 : State) (hs : s0.logsOk = true) : (execHoistQueueTake p inp t s0).LogsOk := by
  simp only [execHoistQueueTake]
  (repeat' split) <;> simp [hs]

@[simp] theorem logsOk_startStream (s : State) (p : Nat) (hs : s.logsOk = true) : (startStream s p).logsOk = true := by
  unfold startStream
  split <;> simp [hs]

@[simp] theorem logsOk_checkManifest (s : State) (p : Nat) (t : Nat) (hs : s.logsOk = true) : (checkManifest s p t).logsOk = true := by
  simp only [checkManifest]
  (repeat' split) <;> simp [hs]

@[simp] theorem logsOk_deliverSection (s : State) (p : Nat) (h : Hoist) (i d : Nat) (hs : s.logsOk = true) :
    (deliverSection s p h i d).logsOk = true := by simp [deliverSection, hs]

@[simp] theorem logsOk_deliverSections (n : Nat) (s : State) (p : Nat) (h : Hoist) (hs : s.logsOk = true) : (deliverSections n s p h).1.logsOk = true := by
  induction n generalizing s h with
  | zero => exact hs
  | succ n ih =>
    simp only [deliverSections]
    split
    · exact hs
    · split
      · exact hs
      · exact ih _ _ (logsOk_deliverSection _ _ _ _ _ hs)

@[simp] theorem logsOk_finishHoist (s : State) (p : Nat) (hs : s.logsOk = true) : (finishHoist s p).logsOk = true := by
  unfold finishHoist
  split
  · exact hs
  · extract_lets i m x c0 same samp s1 y s2 s3 ns s4 s5
    have h3 : s3.logsOk = true := by simp [s3, s2, s1, hs]
    have h4 : s4.logsOk = true := logsOk_foldl_of (fun s m h => by simp [h]) (by simp [h3])
    have h5 : s5.logsOk = true := by simp [s5, h4]
    exact logsOk_endHoist _ _ _ _ _ _ h5

@[simp] theorem logsOk_loadImage (s : State) (p : Nat) (hs : s.logsOk = true) : (loadImage s p).logsOk = true := by
  unfold loadImage
  split
  · exact hs
  · extract_lets m x ms s1 s2 s3
    have h1 : s1.logsOk = true := logsOk_foldl_of (fun s e h => h) hs
    have h2 : s2.logsOk = true := by simp [s2, h1]
    split
    · simp [h2]
    · have h3 : s3.logsOk = true := by simp [s3, h2]
      simp [h3]

@[simp] theorem logsOk_advanceHoist (s : State) (p : Nat) (hs : s.logsOk = true) : (advanceHoist s p).logsOk = true := by
  simp only [advanceHoist]
  (repeat' split) <;> simp [hs]

@[simp] theorem logsOk_resumeHoist (s : State) (p : Nat) (hs : s.logsOk = true) : (resumeHoist s p).logsOk = true := by
  unfold resumeHoist
  split <;> simp [hs]

@[simp] theorem logsOk_takeSegment (s : State) (p : Nat) (h : Hoist) (plain badCore : Option Nat) (hs : s.logsOk = true) : (takeSegment s p h plain badCore).logsOk = true := by
  unfold takeSegment
  split <;> simp [hs]

theorem logsOk_execHalyardSegment (p : Fin 64) (seg : SegIn) (t : Dword) (s0 : State) (hs : s0.logsOk = true) : (execHalyardSegment p seg t s0).LogsOk := by
  unfold execHalyardSegment
  split <;> simp [hs]

@[simp] theorem logsOk_hoistReadFails (s : State) (p k : Nat) (hs : s.logsOk = true) : (hoistReadFails s p k).logsOk = true := by
  unfold hoistReadFails
  split <;> simp [hs]

theorem logsOk_execUnloadDrainLimit (p : Fin 64) (slot : Fin 4) (t : Dword) (s0 : State) (hs : s0.logsOk = true) :
    (execUnloadDrainLimit p slot t s0).LogsOk := by simp [execUnloadDrainLimit, hs]

@[simp] theorem logsOk_eraseEntry (s : State) (p e status : Nat) : (eraseEntry s p e status).logsOk = s.logsOk := by
  simp only [eraseEntry]
  (repeat' split) <;> simp

theorem logsOk_execUnloadEraseDone (p : Fin 64) (slot : Fin 4) (t : Dword) (s0 : State) (hs : s0.logsOk = true) : (execUnloadEraseDone p slot t s0).LogsOk := by
  unfold execUnloadEraseDone
  extract_lets x s status s1 gone s2 s3 s4 s5 s6 s7
  rw [Out.logsOk_next]
  split
  · exact hs
  · have h2 : s2.logsOk = true := by simp [s2, s1, s, hs]
    have h5 : s5.logsOk = true := by simp [s5, s4, s3, h2]
    have h6 : s6.logsOk = true := by
      dsimp only [s6]
      split <;> simp [h5]
    simp [s7, h6]

/-! ### The event recorder -/

theorem logsOk_execEvrFreeze (t : Dword) (s0 : State) (hs : s0.logsOk = true) : (execEvrFreeze t s0).LogsOk := by
  unfold execEvrFreeze
  split <;> simp [hs]

theorem logsOk_execEvrThaw (t : Dword) (s0 : State) (hs : s0.logsOk = true) : (execEvrThaw t s0).LogsOk := by
  unfold execEvrThaw
  split <;> simp [hs]

theorem logsOk_execEvrFreezeLimit (t : Dword) (s0 : State) (hs : s0.logsOk = true) : (execEvrFreezeLimit t s0).LogsOk := by
  unfold execEvrFreezeLimit
  split <;> simp [hs]

theorem logsOk_execEvrDump (s : State) (hs : s.logsOk = true) : (execEvrDump s).LogsOk := by
  unfold execEvrDump
  split <;> simp [hs]

theorem logsOk_execEvrClear (s : State) (hs : s.logsOk = true) : (execEvrClear s).LogsOk := by
  unfold execEvrClear
  split <;> simp [hs]

theorem logsOk_execEvrFlush (t : Dword) (s0 : State) (hs : s0.logsOk = true) : (execEvrFlush t s0).LogsOk := by
  unfold execEvrFlush
  split <;> simp [hs]

theorem logsOk_execEvrPeriodicFlush (t : Dword) (s : State) (hs : s.logsOk = true) : (execEvrPeriodicFlush t s).LogsOk := by simp [execEvrPeriodicFlush, hs]

theorem logsOk_execEvrFaultFlushSpacing (t : Dword) (s0 : State) (hs : s0.logsOk = true) : (execEvrFaultFlushSpacing t s0).LogsOk := by simp [execEvrFaultFlushSpacing, hs]

@[simp] theorem State.logsOk_updCfg (s : State) (f : Cfg → Cfg) : (s.updCfg f).logsOk = s.logsOk := by simp [State.updCfg]

theorem logsOk_execRecorderFlushDone (ok0 ok1 : Bool) (t : Dword) (s0 : State) (hs : s0.logsOk = true) : (execRecorderFlushDone ok0 ok1 t s0).LogsOk := by
  simp only [execRecorderFlushDone]
  (repeat' split) <;> simp [hs]

theorem logsOk_execEvrHsrcWrite (h : Fin 64) (w : Word) (s : State) (hs : s.logsOk = true) : (execEvrHsrcWrite h w s).LogsOk := by simp [execEvrHsrcWrite, hs]

/-! ### Clocks and the time base -/

@[simp] theorem State.logsOk_updClkField (s : State) (n : Nat) (f : ClkField → ClkField) : (s.updClkField n f).logsOk = s.logsOk := by simp [State.updClkField]

@[simp] theorem logsOk_sendClose (s : State) : (sendClose s).logsOk = s.logsOk := by simp [sendClose]

@[simp] theorem logsOk_idleSails (s : State) (code status : Nat) (hs : s.logsOk = true) : (idleSails s code status).logsOk = true := by
  refine logsOk_foldl_of (fun s p h => ?_) hs
  extract_lets n s1 s2 s3 s4
  have h2 : s2.logsOk = true := by simp [s2, s1, h]
  have h4 : s4.logsOk = true := by simp [s4, s3, h2]
  simp [h4]

@[simp] theorem logsOk_abortWaiting (s : State) (p : Nat) : (abortWaiting s p).logsOk = s.logsOk := by simp [abortWaiting]

@[simp] theorem logsOk_orderlyShutdown (s : State) (code : Nat) (hs : s.logsOk = true) : (orderlyShutdown s code).logsOk = true := by simp [orderlyShutdown, hs]

theorem logsOk_execClkStepReqWrite (v : Fin 4) (s : State) (hs : s.logsOk = true) : (execClkStepReqWrite v s).LogsOk := by simp [execClkStepReqWrite, hs]

theorem logsOk_execGlideEnd (t : Dword) (s0 : State) (hs : s0.logsOk = true) : (execGlideEnd t s0).LogsOk := by
  simp only [execGlideEnd, Out.logsOk_next]
  split
  · exact hs
  · split
    · simp [hs]
    · refine logsOk_foldl_of (fun s p h => ?_) (by simp [hs])
      split <;> simp [h]

theorem logsOk_execCornerLockLoss (n : Fin 48) (corner : Fin 4) (t : Dword) (s0 : State) (hs : s0.logsOk = true) :
    (execCornerLockLoss n corner t s0).LogsOk := by simp [execCornerLockLoss, hs]

@[simp] theorem logsOk_requestGrant (s0 : State) : (requestGrant s0).logsOk = s0.logsOk := by
  simp only [requestGrant]
  (repeat' split) <;> simp

@[simp] theorem logsOk_loadController (s : State) (n : Nat) : (loadController s n).logsOk = s.logsOk := by simp [loadController]

@[simp] theorem logsOk_powerFails (s : State) (n code st : Nat) (hs : s.logsOk = true) : (powerFails s n code st).logsOk = true := by simp [powerFails, hs]

@[simp] theorem logsOk_fieldOn (s : State) (n : Nat) (hs : s.logsOk = true) : (fieldOn s n).logsOk = true := by simp [fieldOn, hs]

theorem logsOk_execFieldRelock (n : Fin 48) (t : Dword) (s0 : State) (hs : s0.logsOk = true) : (execFieldRelock n t s0).LogsOk := by simp [execFieldRelock, hs]

theorem logsOk_execRelockTimeout (n : Fin 48) (t : Dword) (s0 : State) (hs : s0.logsOk = true) : (execRelockTimeout n t s0).LogsOk := by simp [execRelockTimeout, hs]

theorem logsOk_execFieldLockTimeout (n : Fin 48) (t : Dword) (s0 : State) (hs : s0.logsOk = true) : (execFieldLockTimeout n t s0).LogsOk := by simp [execFieldLockTimeout, hs]

theorem logsOk_execRefOscCheck (stopA stopB stopM : Bool) (dAB dAM dBM : Nat) (t : Dword) (s0 : State) (hs : s0.logsOk = true) :
    (execRefOscCheck stopA stopB stopM dAB dAM dBM t s0).LogsOk := by simp [execRefOscCheck, hs]

theorem logsOk_execRefHoldTimeout (t : Dword) (s0 : State) (hs : s0.logsOk = true) : (execRefHoldTimeout t s0).LogsOk := by
  unfold execRefHoldTimeout
  split <;> simp [hs]

theorem logsOk_execTimeBaseSync (t : Dword) (s0 : State) (hs : s0.logsOk = true) : (execTimeBaseSync t s0).LogsOk := by simp [execTimeBaseSync, hs]

theorem logsOk_execClkTbSetGo (t : Dword) (s0 : State) (hs : s0.logsOk = true) : (execClkTbSetGo t s0).LogsOk := by simp [execClkTbSetGo, hs]

theorem logsOk_execClkTbLoRead (f : Fin 65) (t : Dword) (s0 : State) (hs : s0.logsOk = true) : (execClkTbLoRead f t s0).LogsOk := by simp [execClkTbLoRead, hs]

theorem logsOk_execSlewDone (t : Dword) (s : State) (hs : s.logsOk = true) : (execSlewDone t s).LogsOk := by simp [execSlewDone, hs]

theorem logsOk_execHostSwalWrite (p : Fin 64) (v : Fin 16) (s : State) (hs : s.logsOk = true) : (execHostSwalWrite p v s).LogsOk := by simp [execHostSwalWrite, hs]

/-! ### The crow's nest meter -/

@[simp] theorem State.logsOk_updCnm (s : State) (f : Cnm → Cnm) : (s.updCnm f).logsOk = s.logsOk := by simp [State.updCnm]

@[simp] theorem State.logsOk_updMeter (s : State) (f : Meter → Meter) : (s.updMeter f).logsOk = s.logsOk := by simp [State.updMeter]

@[simp] theorem logsOk_sendStart (s : State) : (sendStart s).logsOk = s.logsOk := by simp [sendStart]

theorem logsOk_execTallyStartSend (t : Dword) (s : State) (hs : s.logsOk = true) : (execTallyStartSend t s).LogsOk := by simp [execTallyStartSend, hs]

theorem logsOk_execTallyMarkSend (t : Dword) (s : State) (hs : s.logsOk = true) : (execTallyMarkSend t s).LogsOk := by simp [execTallyMarkSend, hs]

@[simp] theorem State.logsOk_meterDone (s : State) (m : Meter) : (s.meterDone m).logsOk = s.logsOk := by
  refine (logsOk_iter fun _ s => ?_).trans (State.logsOk_updMeter _ _)
  dsimp only
  split <;> simp

@[simp] theorem logsOk_powerDown (s : State) (mt : Nat) (r : MeterRead) : (powerDown s mt r).logsOk = s.logsOk := by simp [powerDown]

@[simp] theorem logsOk_takeTally (s : State) (kind : Nat) (ok0 ok1 : Bool) : (takeTally s kind ok0 ok1).1.logsOk = s.logsOk := by
  unfold takeTally
  split <;> simp

theorem logsOk_execMeterTallyStart (ok0 ok1 : Bool) (s : State) (hs : s.logsOk = true) : (execMeterTallyStart ok0 ok1 s).LogsOk := by
  have ht := logsOk_takeTally s 1 ok0 ok1
  simp only [execMeterTallyStart, Out.logsOk_next]
  split <;> simp_all

theorem logsOk_execMeterTallyTokens (ok0 ok1 : Bool) (s : State) (hs : s.logsOk = true) : (execMeterTallyTokens ok0 ok1 s).LogsOk := by
  have ht := logsOk_takeTally s 2 ok0 ok1
  simp only [execMeterTallyTokens, Out.logsOk_next]
  split <;> simp_all

theorem logsOk_execMeterTallyMark (ok0 ok1 : Bool) (s : State) (hs : s.logsOk = true) : (execMeterTallyMark ok0 ok1 s).LogsOk := by
  have ht := logsOk_takeTally s 3 ok0 ok1
  simp only [execMeterTallyMark, Out.logsOk_next]
  (repeat' split) <;> simp_all

theorem logsOk_execMeterTallyClose (ok0 ok1 : Bool) (mt : Nat) (r : MeterRead) (s : State) (hs : s.logsOk = true) : (execMeterTallyClose ok0 ok1 mt r s).LogsOk := by
  have ht := logsOk_takeTally s 4 ok0 ok1
  simp only [execMeterTallyClose, Out.logsOk_next]
  split <;> simp_all

theorem logsOk_execMeterInputLoss (mt : Nat) (r : MeterRead) (s : State) (hs : s.logsOk = true) : (execMeterInputLoss mt r s).LogsOk := by simp [execMeterInputLoss, hs]

theorem logsOk_execMeterPowerUp (restarted : Bool) (fresh : Option (Dword × Dword)) (mt : Nat) (s : State) (hs : s.logsOk = true) :
    (execMeterPowerUp restarted fresh mt s).LogsOk := by simp [execMeterPowerUp, hs]

theorem logsOk_execMeterIntervalEnd (r : MeterRead) (s : State) (hs : s.logsOk = true) : (execMeterIntervalEnd r s).LogsOk := by simp [execMeterIntervalEnd, hs]

theorem logsOk_execMeterSealEvent (s : State) (hs : s.logsOk = true) : (execMeterSealEvent s).LogsOk := by simp [execMeterSealEvent, hs]

@[simp] theorem logsOk_relaySees (s : State) (present bus : Bool) : (relaySees s present bus).logsOk = s.logsOk := by simp [relaySees]

@[simp] theorem logsOk_noteSerial (s : State) : (noteSerial s).logsOk = s.logsOk := by simp [noteSerial]

theorem logsOk_execCnmFetchGo (present bus : Bool) (s0 : State) (hs : s0.logsOk = true) : (execCnmFetchGo present bus s0).LogsOk := by simp [execCnmFetchGo, hs]

theorem logsOk_execCnmIntervalWrite (v : Fin 8) (s : State) (hs : s.logsOk = true) : (execCnmIntervalWrite v s).LogsOk := by simp [execCnmIntervalWrite, hs]

/-! ### Security -/

@[simp] theorem logsOk_drawn (s : State) : (drawn s).logsOk = s.logsOk := by simp [drawn]

theorem logsOk_execDrbgReseed (healthy : Bool) (s : State) (hs : s.logsOk = true) : (execDrbgReseed healthy s).LogsOk := by simp [execDrbgReseed, hs]

@[simp] theorem State.logsOk_updSpdm (s : State) (a : SpdmAt) (f : Spdm → Spdm) : (s.updSpdm a f).logsOk = s.logsOk := by simp [State.updSpdm]

@[simp] theorem logsOk_spdmErr (s : State) (code : Nat) : (spdmErr s code).logsOk = s.logsOk := by simp [spdmErr]

@[simp] theorem logsOk_spdmReply (s : State) (a : SpdmAt) (code len data : Nat) : (spdmReply s a code len data).logsOk = s.logsOk := by simp [spdmReply]

@[simp] theorem logsOk_spdmAsk {s : State} {a : SpdmAt} {phase : Nat} {go : State → State} (hg : ∀ s, (go s).logsOk = s.logsOk) : (spdmAsk s a phase go).logsOk = s.logsOk := by
  simp [spdmAsk, hg]

theorem logsOk_execGetVersion (a : SpdmAt) (s : State) (hs : s.logsOk = true) : (execGetVersion a s).LogsOk := by simp [execGetVersion, hs]

theorem logsOk_execGetCapabilities (a : SpdmAt) (ver : Fin 256) (s : State) (hs : s.logsOk = true) : (execGetCapabilities a ver s).LogsOk := by simp [execGetCapabilities, hs]

theorem logsOk_execNegotiateAlgorithms (a : SpdmAt) (offers : Bool) (s : State) (hs : s.logsOk = true) :
    (execNegotiateAlgorithms a offers s).LogsOk := by simp [execNegotiateAlgorithms, hs]

theorem logsOk_execGetDigests (a : SpdmAt) (s : State) (hs : s.logsOk = true) : (execGetDigests a s).LogsOk := by simp [execGetDigests, hs]

theorem logsOk_execGetCertificate (a : SpdmAt) (slot : Fin 8) (offset len : Nat) (s : State) (hs : s.logsOk = true) :
    (execGetCertificate a slot offset len s).LogsOk := by simp [execGetCertificate, hs]

theorem logsOk_execChallenge (a : SpdmAt) (slot : Fin 8) (transcript : BitVec 384) (s : State) (hs : s.logsOk = true) :
    (execChallenge a slot transcript s).LogsOk := by simp [execChallenge, hs]

theorem logsOk_execGetMeasurements (a : SpdmAt) (index : Fin 256) (sign : Bool) (transcript : BitVec 384) (s : State) (hs : s.logsOk = true) :
    (execGetMeasurements a index sign transcript s).LogsOk := by simp [execGetMeasurements, hs]

theorem logsOk_execKeyExchange (a : SpdmAt) (slot : Fin 8) (transcript : BitVec 384) (s : State) (hs : s.logsOk = true) : (execKeyExchange a slot transcript s).LogsOk := by
  simp only [execKeyExchange, Out.logsOk_next]
  refine (logsOk_spdmAsk fun s => ?_).trans hs
  (repeat' split) <;> simp

theorem logsOk_execFinish (a : SpdmAt) (id : Fin 2) (good : Bool) (s : State) (hs : s.logsOk = true) : (execFinish a id good s).LogsOk := by
  simp only [execFinish, Out.logsOk_next]
  refine (logsOk_spdmAsk fun s => ?_).trans hs
  (repeat' split) <;> simp

theorem logsOk_execEndSession (a : SpdmAt) (id : Fin 2) (s : State) (hs : s.logsOk = true) : (execEndSession a id s).LogsOk := by simp [execEndSession, hs]

theorem logsOk_execHeartbeat (a : SpdmAt) (id : Fin 2) (s : State) (hs : s.logsOk = true) : (execHeartbeat a id s).LogsOk := by simp [execHeartbeat, hs]

theorem logsOk_execChunkSend (a : SpdmAt) (handle : Fin 256) (seq : Fin 65536) (last : Bool) (s : State) (hs : s.logsOk = true) :
    (execChunkSend a handle seq last s).LogsOk := by simp [execChunkSend, hs]

theorem logsOk_execChunkGet (a : SpdmAt) (seq : Fin 65536) (s : State) (hs : s.logsOk = true) : (execChunkGet a seq s).LogsOk := by
  simp only [execChunkGet, Out.logsOk_next]
  refine (logsOk_spdmAsk fun s => ?_).trans hs
  (repeat' split) <;> simp

theorem logsOk_execIdeKm (id : Fin 2) (link k : Fin 4) (op : IdeOp) (fns : List (Fin 65)) (s : State) (hs : s.logsOk = true) : (execIdeKm id link k op fns s).LogsOk := by
  unfold execIdeKm
  split <;> simp [hs]

@[simp] theorem logsOk_keyReply (s : State) (p : Nat) (m : MbxMsg) (req : Option (BitVec 1024)) (status : Nat) (mpub : BitVec 776) (confirm : BitVec 384) :
    (keyReply s p m req status mpub confirm).logsOk = s.logsOk := by simp [keyReply]

@[simp] theorem logsOk_keyExch (s : State) (p : Nat) (req : Option (BitVec 1024)) : (keyExch s p req).logsOk = s.logsOk := by
  simp only [keyExch]
  (repeat' split) <;> simp

theorem logsOk_execKeyExch (p : Fin 64) (req : Option (BitVec 1024)) (s : State) (hs : s.logsOk = true) : (execKeyExch p req s).LogsOk := by simp [execKeyExch, hs]

@[simp] theorem logsOk_keyClear (s : State) (p : Nat) (req : Option (BitVec 1024)) : (keyClear s p req).logsOk = s.logsOk := by
  simp only [keyClear]
  (repeat' split) <;> simp

theorem logsOk_execKeyClear (p : Fin 64) (req : Option (BitVec 1024)) (s : State) (hs : s.logsOk = true) : (execKeyClear p req s).LogsOk := by simp [execKeyClear, hs]

@[simp] theorem logsOk_signkey (s : State) (point : Option (BitVec 776)) : (signkey s point).logsOk = s.logsOk := by
  simp only [signkey]
  (repeat' split) <;> simp

theorem logsOk_execSignkey (point : Option (BitVec 776)) (s : State) (hs : s.logsOk = true) : (execSignkey point s).LogsOk := by simp [execSignkey, hs]

/-! ### Recovery of a column -/

@[simp] theorem State.logsOk_updRecov (s : State) (p : Nat) (f : Recov → Recov) : (s.updRecov p f).logsOk = s.logsOk := by simp [State.updRecov]

theorem logsOk_execSpareCheckDone (n : Fin 48) (col : Fin 12) (pass : Bool) (s : State) (hs : s.logsOk = true) : (execSpareCheckDone n col pass s).LogsOk := by
  simp only [execSpareCheckDone]
  (repeat' split) <;> simp [hs]

@[simp] theorem logsOk_copyDown (s : State) (n col k row : Nat) : (copyDown s n col k row).logsOk = s.logsOk := by
  induction k generalizing s row with
  | zero => rfl
  | succ k ih => exact ih _ _

@[simp] theorem logsOk_shiftPages (s : State) (p key g : Nat) : (shiftPages s p key g).logsOk = s.logsOk := by simp [shiftPages]

@[simp] theorem logsOk_reloadColumn (s : State) (n col g : Nat) : (reloadColumn s n col g).logsOk = s.logsOk := by
  unfold reloadColumn
  split <;> simp

@[simp] theorem logsOk_mapWithoutCopy (s : State) (n : Nat) (dead : List Nat) : (mapWithoutCopy s n dead).logsOk = s.logsOk := by simp [mapWithoutCopy]

@[simp] theorem logsOk_endCopy (s : State) (key : Nat) (bad : Option Nat) : (endCopy s key bad).logsOk = s.logsOk := by simp [endCopy]

theorem logsOk_execColumnCopyDone (n : Fin 48) (col : Fin 12) (bad : Option (Fin 16 × Fin 0x400000)) (s : State) (hs : s.logsOk = true) :
    (execColumnCopyDone n col bad s).LogsOk := by
  simp only [execColumnCopyDone]
  (repeat' split) <;> simp [hs]

theorem logsOk_execColumnTestDone (n : Fin 48) (pass : Bool) (s : State) (hs : s.logsOk = true) : (execColumnTestDone n pass s).LogsOk := by
  simp only [execColumnTestDone]
  (repeat' split) <;> simp [hs]

/-! ### The host interface -/

@[simp] theorem State.logsOk_updLink (s : State) (i : Nat) (f : HostLink → HostLink) : (s.updLink i f).logsOk = s.logsOk := by
  unfold State.updLink
  split <;> simp

@[simp] theorem logsOk_askReset (s : State) (p : Nat) (hs : s.logsOk = true) : (askReset s p).logsOk = true := by simp [askReset, hs]

theorem logsOk_execPartitionReset (p : Fin 64) (t : Dword) (s : State) (hs : s.logsOk = true) : (execPartitionReset p t s).LogsOk := by simp [execPartitionReset, hs]

@[simp] theorem logsOk_dropStreams (s : State) (p : Nat) : (dropStreams s p).1.logsOk = s.logsOk := by simp [dropStreams]

@[simp] theorem logsOk_markFlr (s : State) (p : Nat) : (markFlr s p).logsOk = s.logsOk := by simp [markFlr]

@[simp] theorem logsOk_abortedWrite (s : State) (p : Nat) : (abortedWrite s p).logsOk = s.logsOk := by simp [abortedWrite]

@[simp] theorem logsOk_flrPartition (s : State) (p : Nat) (hs : s.logsOk = true) : (flrPartition s p).logsOk = true := by simp [flrPartition, hs]

@[simp] theorem logsOk_noteRings (s : State) (i : Nat) : (noteRings s i).logsOk = s.logsOk := by simp [noteRings]

theorem logsOk_execHostFlr (f : Fin 65) (link : Fin 4) (t : Dword) (s0 : State) (hs : s0.logsOk = true) : (execHostFlr f link t s0).LogsOk := by simp [execHostFlr, hs]

@[simp] theorem logsOk_resetLink (s : State) (i : Nat) : (resetLink s i).logsOk = s.logsOk := by simp [resetLink]

theorem logsOk_execHostPerst (link : Fin 4) (s : State) (hs : s.logsOk = true) : (execHostPerst link s).LogsOk := by simp [execHostPerst, hs]

theorem logsOk_execHostLinkDown (link : Fin 4) (s : State) (hs : s.logsOk = true) : (execHostLinkDown link s).LogsOk := by simp [execHostLinkDown, hs]

theorem logsOk_execHostLinkUp (link : Fin 4) (rate : Fin 4) (width : Fin 32) (flit : Bool) (s : State) (hs : s.logsOk = true) :
    (execHostLinkUp link rate width flit s).LogsOk := by simp [execHostLinkUp, hs]

theorem logsOk_execPcieConfigWrite (link : Fin 4) (f : Fin 65) (master : Option Bool) (sriov : Option Bool) (numVfs : Option (Fin 65)) (s : State) (hs : s.logsOk = true) :
    (execPcieConfigWrite link f master sriov numVfs s).LogsOk := by simp [execPcieConfigWrite, hs]

theorem logsOk_execBadRegisterAccess (via : Option (Fin 64 × Fin 4)) (s : State) (hs : s.logsOk = true) : (execBadRegisterAccess via s).LogsOk := by
  unfold execBadRegisterAccess
  split <;> simp [hs]

theorem logsOk_execInfo (f : Fin 65) (s : State) (hs : s.logsOk = true) : (execInfo f s).LogsOk := by
  unfold execInfo
  split <;> simp [hs]

@[simp] theorem logsOk_autoLoad (s : State) (p : Nat) (file : Option Nat) : (autoLoad s p file).logsOk = s.logsOk := by
  simp only [autoLoad]
  (repeat' split) <;> simp

theorem logsOk_execAutoLoad (p : Fin 64) (file : Option Nat) (s : State) (hs : s.logsOk = true) : (execAutoLoad p file s).LogsOk := by simp [execAutoLoad, hs]

/-! ### Restarts -/

@[simp] theorem logsOk_coldState (s : State) : (coldState s).logsOk = true := (rfl)

@[simp] theorem logsOk_warmState (s : State) (cause : Nat) : (warmState s cause).logsOk = true := (rfl)

@[simp] theorem logsOk_resetNow (s : State) (p : Nat) (hs : s.logsOk = true) : (resetNow s p).logsOk = true := by
  have h1 := logsOk_emptySlots _ p (logsOk_endStepNow s p hs)
  unfold resetNow
  extract_lets t s1
  have h2 : s1.logsOk = true := by simp [s1, h1]
  exact logsOk_iter_of (fun i s h => by simp [h]) h2

@[simp] theorem logsOk_hostRestart (s : State) : (hostRestart s).logsOk = true := by simp [hostRestart]

theorem logsOk_execPinReset (t : Dword) (s : State) (hs : s.logsOk = true) : (execPinReset t s).LogsOk := by simp [execPinReset, hs]

theorem logsOk_execHostRestart (key : BitVec 16) (t : Dword) (s : State) (hs : s.logsOk = true) : (execHostRestart key t s).LogsOk := by simp [execHostRestart, hs]

@[simp] theorem logsOk_watchdogFlush (s : State) : (watchdogFlush s).logsOk = s.logsOk := by
  simp only [watchdogFlush]
  (repeat' split) <;> simp

theorem logsOk_execMastheadWatchdog (x : Timed Bool) (s0 : State) (hs : s0.logsOk = true) : (execMastheadWatchdog x s0).LogsOk := by simp [execMastheadWatchdog, hs]

@[simp] theorem logsOk_fieldsOff (s : State) : (fieldsOff s).logsOk = s.logsOk := by simp [fieldsOff]

theorem logsOk_execHoldupFieldsOff (t : Dword) (s : State) (hs : s.logsOk = true) : (execHoldupFieldsOff t s).LogsOk := by simp [execHoldupFieldsOff, hs]

theorem logsOk_execHoldupRimOff (t : Dword) (s : State) (hs : s.logsOk = true) : (execHoldupRimOff t s).LogsOk := by simp [execHoldupRimOff, hs]

theorem logsOk_execInputValid (s : State) (hs : s.logsOk = true) : (execInputValid s).LogsOk := by simp [execInputValid, hs]

/-! ### Power -/

theorem logsOk_execInputDip (s : State) (hs : s.logsOk = true) : (execInputDip s).LogsOk := by simp [execInputDip, hs]

@[simp] theorem logsOk_enterInput (s : State) (st volt : Nat) (hs : s.logsOk = true) : (enterInput s st volt).logsOk = true := by simp [enterInput, hs]

theorem logsOk_execInputLow (volt : BitVec 16) (t : Dword) (s : State) (hs : s.logsOk = true) : (execInputLow volt t s).LogsOk := by simp [execInputLow, hs]

theorem logsOk_execInputHigh (volt : BitVec 16) (t : Dword) (s : State) (hs : s.logsOk = true) : (execInputHigh volt t s).LogsOk := by simp [execInputHigh, hs]

@[simp] theorem State.logsOk_updThm {s : State} {f : Thm → Thm} (hf : ∀ x, (f x).log = x.log) : (s.updThm f).logsOk = s.logsOk := by simp [State.updThm, hf]

@[simp] theorem logsOk_thmLog (s : State) (n c kind tier value : Nat) (hs : s.logsOk = true) : (thmLog s n c kind tier value).logsOk = true := by
  obtain ⟨h1, h2, h3, h4, h5, h6, h7⟩ := s.logsOk_iff.1 hs
  simp only [thmLog, logsOk_signalLog]
  exact (State.logsOk_iff _).2 ⟨h1, h2, h3, h4, h5, ELog.ok_push _ h6, h7⟩

@[simp] theorem logsOk_dblAll (s : State) (b : Nat) : (dblAll s b).logsOk = s.logsOk := by simp [dblAll]

@[simp] theorem logsOk_strike (s : State) (cause : Nat) (restore : Bool) (hs : s.logsOk = true) : (strike s cause restore).logsOk = true := by
  unfold strike
  extract_lets s1 s2 y s3
  have h1 : s1.logsOk = true := by simp [s1, hs]
  have h2 : s2.logsOk = true := by simp [s2, h1]
  simpa [s3, y] using h2

theorem logsOk_execInputLoss (volt : BitVec 16) (t : Dword) (s0 : State) (hs : s0.logsOk = true) : (execInputLoss volt t s0).LogsOk := by
  rw [execInputLoss, Out.logsOk_next]
  split
  · exact hs
  · extract_lets s s1 s2 s3 y s4
    have h : s.logsOk = true := by simp [s, hs]
    have h2 : s2.logsOk = true := by simp [s2, s1, h]
    have h4 : s4.logsOk = true := by simpa [s4, y] using logsOk_strike s2 4 false h2
    simp [h4]

theorem logsOk_execHoldupStoreCharged (s : State) (hs : s.logsOk = true) : (execHoldupStoreCharged s).LogsOk := by simp [execHoldupStoreCharged, hs]

theorem logsOk_execAvsTrimTick (core : Fin 9216) (margin : Nat) (s : State) (hs : s.logsOk = true) : (execAvsTrimTick core margin s).LogsOk := by simp [execAvsTrimTick, hs]

theorem logsOk_execTimingNearMiss (core : Fin 9216) (s : State) (hs : s.logsOk = true) : (execTimingNearMiss core s).LogsOk := by simp [execTimingNearMiss, hs]

theorem logsOk_execSlowCoreTimeout (core : Fin 9216) (t : Dword) (s : State) (hs : s.logsOk = true) : (execSlowCoreTimeout core t s).LogsOk := by simp [execSlowCoreTimeout, hs]

@[simp] theorem logsOk_convRead (s : State) (r : Nat × Nat × Bool × Nat) : (convRead s r).logsOk = s.logsOk := by simp [convRead]

@[simp] theorem logsOk_takePower (s : State) (i : PowerIn) (hs : s.logsOk = true) : (takePower s i).logsOk = true := by simp +contextual [takePower, hs]

@[simp] theorem logsOk_setPwrSwal (s : State) (p v : Nat) : (setPwrSwal s p v).logsOk = s.logsOk := by simp [setPwrSwal]

@[simp] theorem logsOk_setLimit (s : State) (v : Nat) (hs : s.logsOk = true) : (setLimit s v).logsOk = true := by simp [setLimit, hs]

@[simp] theorem logsOk_lowerPower (s : State) (hs : s.logsOk = true) : (lowerPower s).logsOk = true := by
  unfold lowerPower
  split <;> simp [hs]

@[simp] theorem logsOk_raisePower (s : State) (hs : s.logsOk = true) : (raisePower s).logsOk = true := by
  simp only [raisePower]
  (repeat' split) <;> simp [hs]

@[simp] theorem logsOk_clampPower (s : State) (hs : s.logsOk = true) : (clampPower s).logsOk = true := by simp [clampPower, hs]

theorem logsOk_execPowerPolicyTick (i : PowerIn) (t : Dword) (s0 : State) (hs : s0.logsOk = true) : (execPowerPolicyTick i t s0).LogsOk := by simp [execPowerPolicyTick, hs]

@[simp] theorem logsOk_regFails (s : State) (m value : Nat) (hs : s.logsOk = true) : (regFails s m value).logsOk = true := by simp [regFails, hs]

theorem logsOk_execPhaseFailure (core : Fin 9216) (phase : Fin 4) (value : BitVec 16) (t : Dword) (s0 : State) (hs : s0.logsOk = true) :
    (execPhaseFailure core phase value t s0).LogsOk := by simp [execPhaseFailure, hs]

theorem logsOk_execRegulatorFailure (core : Fin 9216) (value : BitVec 16) (t : Dword) (s : State) (hs : s.logsOk = true) :
    (execRegulatorFailure core value t s).LogsOk := by simp [execRegulatorFailure, hs]

theorem logsOk_execCoreShort (core : Fin 9216) (value : BitVec 16) (t : Dword) (s : State) (hs : s.logsOk = true) :
    (execCoreShort core value t s).LogsOk := by simp [execCoreShort, hs]

@[simp] theorem logsOk_raiseFieldPort (s : State) (n code : Nat) (hs : s.logsOk = true) : (raiseFieldPort s n code).logsOk = true := by simp [raiseFieldPort, hs]

@[simp] theorem logsOk_tripNow (s : State) (n value : Nat) (hs : s.logsOk = true) : (tripNow s n value).logsOk = true := by simp [tripNow, hs]

theorem logsOk_execConverterFailure (k : Fin 96) (value : BitVec 16) (t : Dword) (s0 : State) (hs : s0.logsOk = true) : (execConverterFailure k value t s0).LogsOk := by
  unfold execConverterFailure
  extract_lets n s s1
  have h : s.logsOk = true := by simp [s, hs]
  have h1 : s1.logsOk = true := by simp [s1, h]
  simp [hs, h1]

theorem logsOk_execFieldSupplyShort (n : Fin 48) (value : BitVec 16) (t : Dword) (s : State) (hs : s.logsOk = true) :
    (execFieldSupplyShort n value t s).LogsOk := by simp [execFieldSupplyShort, hs]

@[simp] theorem logsOk_rimPower (s : State) (hs : s.logsOk = true) : (rimPower s).logsOk = true := by simp [rimPower, hs]

theorem logsOk_execRimConverterFailure (i : Fin 2) (value : BitVec 16) (t : Dword) (s0 : State) (hs : s0.logsOk = true) : (execRimConverterFailure i value t s0).LogsOk := by
  unfold execRimConverterFailure
  extract_lets x ok s s1
  have h : s.logsOk = true := by simp [s, hs]
  have h1 : s1.logsOk = true := by simp [s1, h]
  simp [hs, h1]

theorem logsOk_execPhaseLimitExpire (core : Fin 9216) (t : Dword) (s0 : State) (hs : s0.logsOk = true) : (execPhaseLimitExpire core t s0).LogsOk := by
  unfold execPhaseLimitExpire
  split <;> simp [hs]

@[simp] theorem logsOk_ramp (s : State) (n : Nat) : (ramp s n).logsOk = s.logsOk := by simp [ramp]

theorem logsOk_execQuietWindowGrant (n : Fin 48) (peaks : List (Nat × Nat)) (t : Dword) (s : State) (hs : s.logsOk = true) :
    (execQuietWindowGrant n peaks t s).LogsOk := by simp [execQuietWindowGrant, hs]

theorem logsOk_execGrantTimeout (n : Fin 48) (t : Dword) (s : State) (hs : s.logsOk = true) : (execGrantTimeout n t s).LogsOk := by simp [execGrantTimeout, hs]

theorem logsOk_execFieldRampTimeout (n : Fin 48) (value : BitVec 16) (t : Dword) (s : State) (hs : s.logsOk = true) :
    (execFieldRampTimeout n value t s).LogsOk := by simp [execFieldRampTimeout, hs]

/-! ### Heat -/

@[simp] theorem State.logsOk_updCoreThm (s : State) (m : Nat) (f : CoreThm → CoreThm) : (s.updCoreThm m f).logsOk = s.logsOk := by simp [State.updCoreThm]

@[simp] theorem State.logsOk_updPartThm (s : State) (p : Nat) (f : PartThm → PartThm) : (s.updPartThm p f).logsOk = s.logsOk := by simp [State.updPartThm]

@[simp] theorem logsOk_raiseCorePort (s : State) (m code : Nat) (hs : s.logsOk = true) : (raiseCorePort s m code).logsOk = true := by simp [raiseCorePort, hs]

@[simp] theorem logsOk_sensorFails (s : State) (m tier : Nat) (v : Int) (hs : s.logsOk = true) : (sensorFails s m tier v).logsOk = true := by simp [sensorFails, hs]

@[simp] theorem logsOk_setThmSwal (s : State) (p v : Nat) (hs : s.logsOk = true) : (setThmSwal s p v).logsOk = true := by simp [setThmSwal, hs]

@[simp] theorem logsOk_reachLimit (s : State) (m tier : Nat) (v : Int) (hs : s.logsOk = true) : (reachLimit s m tier v).logsOk = true := by simp [reachLimit, hs]

@[simp] theorem logsOk_judgeCore (s : State) (m : Nat) (hs : s.logsOk = true) : (judgeCore s m).logsOk = true := by
  simp only [judgeCore]
  (repeat' split) <;> simp [hs]

theorem logsOk_execCoreSensorSample (core : Fin 9216) (diode ring : Option Int) (t : Dword) (s0 : State) (hs : s0.logsOk = true) :
    (execCoreSensorSample core diode ring t s0).LogsOk := by
  unfold execCoreSensorSample
  extract_lets s c
  split
  split
  extract_lets gap both wide s1 s2 s3
  have h1 : s1.logsOk = true := by simp [s1, s, hs]
  have h2 : s2.logsOk = true := by simp [s2, h1]
  have h3 : s3.logsOk = true := by simp [s3, h2]
  simp [hs, h3]

theorem logsOk_execDisagreeTimeout (core : Fin 9216) (t : Dword) (s0 : State) (hs : s0.logsOk = true) : (execDisagreeTimeout core t s0).LogsOk := by
  simp only [execDisagreeTimeout]
  (repeat' split) <;> simp [hs]

theorem logsOk_execStage1Release (core : Fin 9216) (t : Dword) (s0 : State) (hs : s0.logsOk = true) : (execStage1Release core t s0).LogsOk := by
  simp only [execStage1Release]
  (repeat' split) <;> simp [hs]

@[simp] theorem logsOk_noteCalm (s : State) (p : Nat) : (noteCalm s p).logsOk = s.logsOk := by simp [noteCalm]

theorem logsOk_execTierSensorSample (core : Fin 9216) (tier : Fin 4) (reading : Option Int) (t : Dword) (s0 : State) (hs : s0.logsOk = true) :
    (execTierSensorSample core tier reading t s0).LogsOk := by simp +contextual [execTierSensorSample, hs]

theorem logsOk_execThermalDemandTick (t : Dword) (s0 : State) (hs : s0.logsOk = true) : (execThermalDemandTick t s0).LogsOk := by simp +contextual [execThermalDemandTick, hs]

theorem logsOk_execThermalTrip (n : Fin 48) (core : Fin 192) (tier : Fin 4) (value : BitVec 8) (t : Dword) (s : State) (hs : s.logsOk = true) :
    (execThermalTrip n core tier value t s).LogsOk := by simp [execThermalTrip, hs]

@[simp] theorem logsOk_takeTray (s : State) (missed : Bool) (ti to' : Option Int) (fl : Option Nat) : (takeTray s missed ti to' fl).logsOk = s.logsOk := by
  unfold takeTray
  extract_lets t s1 s3 s4
  have h1 : s1.logsOk = s.logsOk := State.logsOk_updThm fun x => by (repeat' split) <;> rfl
  have h3 : s3.logsOk = s.logsOk := by
    simp only [s3]
    split <;> simp [h1]
  have h4 : s4.logsOk = s.logsOk := by
    simp only [s4]
    split <;> simp [h3]
  split <;> simp [h4]

@[simp] theorem logsOk_liftStrike (s : State) (cool : Nat) (hs : s.logsOk = true) : (liftStrike s cool).logsOk = true := by
  unfold liftStrike
  extract_lets s1 s2 y
  have h1 : s1.logsOk = true := by simp [s1, hs]
  have h2 : s2.logsOk = true := by simp [s2, h1]
  simp [y, h2]

theorem log_coolNext (x : Thm) (t : Nat) (fl : Option Nat) (inOk : Bool) : (coolNext x t fl inOk).log = x.log := by
  unfold coolNext
  split <;> rfl

@[simp] theorem logsOk_judgeTray (s : State) (ti to' : Option Int) (fl : Option Nat) (mean : Option (Int × Nat)) (hs : s.logsOk = true) :
    (judgeTray s ti to' fl mean).logsOk = true := by
  unfold judgeTray
  extract_lets t x c s0 good y s1 s2 c2
  have h0 : s0.logsOk = true := by simp [s0, hs]
  have h1 : s1.logsOk = true := by
    obtain ⟨h1, h2, h3, h4, h5, h6, h7⟩ := s.logsOk_iff.1 hs
    exact (State.logsOk_iff _).2 ⟨h1, h2, h3, h4, h5, (log_coolNext ..).symm ▸ h6, h7⟩
  have h2 : s2.logsOk = true := by simp [s2, h1]
  repeat' split
  all_goals simp [hs, h0, h2]

theorem logsOk_execTrayPoll (r : Option (BitVec 96)) (t : Dword) (s0 : State) (hs : s0.logsOk = true) : (execTrayPoll r t s0).LogsOk := by
  unfold execTrayPoll
  extract_lets s missed s1
  split
  extract_lets s2 mean s3
  have h1 : s1.logsOk = true := by simp [s1, s, hs]
  have h2 : s2.logsOk = true := by simp [s2, h1]
  have h3 : s3.logsOk = true := by simp [s3, h2]
  simp [coolCeil, h3]

theorem logsOk_execGatingTick (t : Dword) (s0 : State) (hs : s0.logsOk = true) : (execGatingTick t s0).LogsOk := by simp [execGatingTick, hs]

theorem logsOk_execStrikeRestoreDeadline (t : Dword) (s0 : State) (hs : s0.logsOk = true) : (execStrikeRestoreDeadline t s0).LogsOk := by
  unfold execStrikeRestoreDeadline
  split
  · simp [hs]
  · rw [Out.logsOk_next]
    split
    · exact hs
    · have h := logsOk_thmLog ((s0.atTick t).updThm fun x => { x with cool := 4, struckAt := none }) 0 0 9 0 s0.sys.thm.flow (by simp [hs])
      simp [h]

theorem log_thmCtrl (x : Thm) (on off tier : Nat) (lock : Bool) : (thmCtrl x on off tier lock).log = x.log := by simp [thmCtrl]

theorem logsOk_execThmCtrlWrite (w : Word) (s : State) (hs : s.logsOk = true) : (execThmCtrlWrite w s).LogsOk := by simp [execThmCtrlWrite, log_thmCtrl, hs]

/-! ### The configuration store -/

@[simp] theorem State.logsOk_updNvm (s : State) (d : Bool) (f : NvmDev → NvmDev) : (s.updNvm d f).logsOk = s.logsOk := by simp [State.updNvm]

@[simp] theorem logsOk_noteCopy (s : State) (b ok : Bool) : (noteCopy s b ok).logsOk = s.logsOk := by simp [noteCopy]

theorem logsOk_execRwpWrite (i : Fin 64) (v : Word) (s : State) (hs : s.logsOk = true) : (execRwpWrite i v s).LogsOk := by simp [execRwpWrite, hs]

theorem logsOk_execRwpRecordProgrammed (ok0 ok1 : Bool) (s : State) (hs : s.logsOk = true) : (execRwpRecordProgrammed ok0 ok1 s).LogsOk := by simp [execRwpRecordProgrammed, hs]

@[simp] theorem logsOk_loadRwp (s : State) : (loadRwp s).logsOk = s.logsOk := by simp [loadRwp]

theorem logsOk_execCfgCopyGo (copy : Bool) (link : Fin 4) (s : State) (hs : s.logsOk = true) : (execCfgCopyGo copy link s).LogsOk := by simp [execCfgCopyGo, hs]

@[simp] theorem logsOk_copyDone (s : State) (img : Option Nat) (progOk : Bool) : (copyDone s img progOk).logsOk = s.logsOk := by
  simp only [copyDone]
  (repeat' split) <;> simp

theorem logsOk_execCfgCopyDone (img : Option Nat) (progOk : Bool) (s : State) (hs : s.logsOk = true) : (execCfgCopyDone img progOk s).LogsOk := by simp [execCfgCopyDone, hs]

@[simp] theorem logsOk_notLoaded (s : State) (ofs : Nat) : (notLoaded s ofs).logsOk = s.logsOk := by simp [notLoaded]

@[simp] theorem logsOk_loadIf {s : State} {ok : Bool} {ofs : Nat} {f : State → State} (hf : ∀ s, (f s).logsOk = s.logsOk) : (loadIf s ok ofs f).logsOk = s.logsOk := by
  simp [loadIf, hf]

@[simp] theorem logsOk_loadPair {s : State} {on off ofs : Nat} {f : State → State} (hf : ∀ s, (f s).logsOk = s.logsOk) : (loadPair s on off ofs f).logsOk = s.logsOk := by
  simp [loadPair, hf]

@[simp] theorem logsOk_loadModule (s : State) (img : Nat) : (loadModule s img).logsOk = s.logsOk := by simp [loadModule]

@[simp] theorem logsOk_loadPlan (s : State) (img : Nat) : (loadPlan s img).logsOk = s.logsOk := by simp [loadPlan]

@[simp] theorem logsOk_loadPolicy (img p : Nat) (s : State) : (loadPolicy img p s).logsOk = s.logsOk := by simp [loadPolicy]

@[simp] theorem logsOk_loadConfig (s : State) (img : Nat) (b : Bool) : (loadConfig s img b).logsOk = s.logsOk := by simp [loadConfig]

@[simp] theorem logsOk_makePartition (s : State) (p : Nat) (r : BitVec 1024) : (makePartition s p r).logsOk = s.logsOk := by simp [makePartition]

@[simp] theorem logsOk_makePartitions (s : State) (img : Nat) (hs : s.logsOk = true) : (makePartitions s img).logsOk = true := by
  unfold makePartitions
  extract_lets bad s1 s2
  have h1 : s1.logsOk = true := logsOk_foldl_of (fun s x h => by simp [h]) hs
  have h2 : s2.logsOk = true := logsOk_foldl_of (fun s x h => by simpa using logsOk_foldl_of (fun s k h => by simp [h]) h) h1
  exact logsOk_foldl_of (fun s n h => by split <;> simp [h]) h2

/-! ### Firmware -/

@[simp] theorem State.logsOk_updFw (s : State) (f : Fw → Fw) : (s.updFw f).logsOk = s.logsOk := by simp [State.updFw]

@[simp] theorem logsOk_writeDir (s : State) (d : FwDir) : (writeDir s d).logsOk = s.logsOk := by simp [writeDir]

@[simp] theorem logsOk_clearAlt (s : State) : (clearAlt s).logsOk = s.logsOk := by simp [clearAlt]

@[simp] theorem logsOk_romBoot (s0 : State) : (romBoot s0).logsOk = s0.logsOk := by
  simp only [romBoot]
  (repeat' split) <;> simp

@[simp] theorem logsOk_convertSettings (s : State) (img : Nat) : (convertSettings s img).1.logsOk = s.logsOk := by
  unfold convertSettings
  split <;> simp

@[simp] theorem logsOk_fwEnd (s : State) (body : Option (BitVec 512)) (code : Nat) (payload : List (Nat × Nat × Nat)) : (fwEnd s body code payload).logsOk = s.logsOk := by
  unfold fwEnd
  split <;> simp

@[simp] theorem logsOk_fwAnswer (s : State) (m : MbxMsg) (code : Nat) (sig : Bool) : (fwAnswer s m code sig).logsOk = s.logsOk := by simp [fwAnswer]

theorem logsOk_execFwStage (s : State) (hs : s.logsOk = true) : (execFwStage s).LogsOk := by
  unfold execFwStage
  split <;> simp [hs]

@[simp] theorem logsOk_stageDone (s : State) (pkg : Option PkgIn) (progOk : Bool) : (stageDone s pkg progOk).logsOk = s.logsOk := by
  simp only [stageDone]
  (repeat' split) <;> simp

theorem logsOk_execFwStageComplete (pkg : Option PkgIn) (progOk : Bool) (s : State) (hs : s.logsOk = true) :
    (execFwStageComplete pkg progOk s).LogsOk := by simp [execFwStageComplete, hs]

@[simp] theorem logsOk_endAct (s : State) (a : FwAct) : (endAct s a).logsOk = s.logsOk := by
  unfold endAct
  split <;> simp

@[simp] theorem logsOk_nextKind (s : State) (a : FwAct) (ks : List Nat) (hs : s.logsOk = true) : (nextKind s a ks).logsOk = true := by
  induction ks generalizing s with
  | nil => simp [nextKind, hs]
  | cons k r ih =>
    simp only [nextKind]
    (repeat' split) <;> simp [ih, hs]

@[simp] theorem logsOk_beginAct (s : State) (a : FwAct) (hs : s.logsOk = true) : (beginAct s a).logsOk = true := by simp [beginAct, hs]

@[simp] theorem logsOk_fwNotices (s : State) (cancel : Bool) (time : Dword) (sig : BitVec 768) : (fwNotices s cancel time sig).logsOk = s.logsOk := by
  refine logsOk_foldl fun s x => ?_
  split <;> simp

@[simp] theorem logsOk_cancelAct (s : State) (code : Nat) : (cancelAct s code).logsOk = s.logsOk := by
  unfold cancelAct
  split <;> simp

@[simp] theorem logsOk_cancelRig (s : State) (a : FwAct) : (cancelRig s a).logsOk = s.logsOk := by simp [cancelRig]

theorem logsOk_execFwActivate (t : Dword) (s0 : State) (hs : s0.logsOk = true) : (execFwActivate t s0).LogsOk := by
  simp only [execFwActivate]
  (repeat' split) <;> simp [hs]

theorem logsOk_execFwActTime (t : Dword) (s : State) (hs : s.logsOk = true) : (execFwActTime t s).LogsOk := by
  unfold execFwActTime
  split <;> simp [hs]

theorem logsOk_execFwRigNoticeDeadline (t : Dword) (s0 : State) (hs : s0.logsOk = true) : (execFwRigNoticeDeadline t s0).LogsOk := by
  unfold execFwRigNoticeDeadline
  split <;> simp [hs]

theorem logsOk_execFwActivationNotice (peer : Dword) (cancel : Bool) (time : Dword) (sig : BitVec 768) (t : Dword) (s0 : State) (hs : s0.logsOk = true) :
    (execFwActivationNotice peer cancel time sig t s0).LogsOk := by
  simp only [execFwActivationNotice]
  (repeat' split) <;> simp [hs]

theorem logsOk_execFwAbort (t : Dword) (s0 : State) (hs : s0.logsOk = true) : (execFwAbort t s0).LogsOk := by
  simp only [execFwAbort]
  (repeat' split) <;> simp [hs]

@[simp] theorem logsOk_kindDone (s : State) (a : FwAct) (hs : s.logsOk = true) : (kindDone s a).logsOk = true := by simp [kindDone, hs]

theorem logsOk_execMhSwitchDone (s : State) (hs : s.logsOk = true) : (execMhSwitchDone s).LogsOk := by
  simp only [execMhSwitchDone]
  (repeat' split) <;> simp [hs]

@[simp] theorem logsOk_fcNext (s : State) (a : FwAct) (hs : s.logsOk = true) : (fcNext s a).logsOk = true := by simp [fcNext, hs]

theorem logsOk_execFcFieldActivate (n : Fin 48) (ends : Bool) (t : Dword) (s0 : State) (hs : s0.logsOk = true) : (execFcFieldActivate n ends t s0).LogsOk := by
  simp only [execFcFieldActivate]
  (repeat' split) <;> simp [hs]

theorem logsOk_execRioActivateDone (i : Fin 4) (s : State) (hs : s.logsOk = true) : (execRioActivateDone i s).LogsOk := by
  unfold execRioActivateDone
  split <;> simp [hs]

theorem logsOk_execFwConfirm (progOk : Bool) (s : State) (hs : s.logsOk = true) : (execFwConfirm progOk s).LogsOk := by
  unfold execFwConfirm
  split <;> simp [hs]

@[simp] theorem logsOk_revertKinds (s : State) (ks : List Nat) : (revertKinds s ks).logsOk = s.logsOk := by simp [revertKinds]

theorem logsOk_execFwRevert (t : Dword) (s0 : State) (hs : s0.logsOk = true) : (execFwRevert t s0).LogsOk := by
  unfold execFwRevert
  split <;> simp [hs]

theorem logsOk_execFwFallback (progOk : Bool) (s : State) (hs : s.logsOk = true) : (execFwFallback progOk s).LogsOk := by
  simp only [execFwFallback]
  (repeat' split) <;> simp [hs]

@[simp] theorem logsOk_autoReverted (s : State) : (autoReverted s).logsOk = s.logsOk := by simp [autoReverted]

theorem logsOk_execFwMhTrialTimeout (t : Dword) (s0 : State) (hs : s0.logsOk = true) : (execFwMhTrialTimeout t s0).LogsOk := by simp [execFwMhTrialTimeout, hs]

theorem logsOk_execFcHeartbeatLoss (n : Fin 48) (t : Dword) (s0 : State) (hs : s0.logsOk = true) : (execFcHeartbeatLoss n t s0).LogsOk := by simp [execFcHeartbeatLoss, hs]

/-! ### Start-up -/

@[simp] theorem logsOk_railsOn (s : State) : (railsOn s).logsOk = s.logsOk := by simp [railsOn]

@[simp] theorem logsOk_startRecorder (s : State) (kept : Bool) : (startRecorder s kept).logsOk = s.logsOk := by simp [startRecorder]

@[simp] theorem logsOk_enterSafe (s : State) : (enterSafe s).logsOk = s.logsOk := by simp [enterSafe]

@[simp] theorem logsOk_stepFour (s : State) (i : StartIn) : (stepFour s i).logsOk = s.logsOk := by simp [stepFour]

@[simp] theorem logsOk_stepFive (s : State) : (stepFive s).logsOk = s.logsOk := by
  simp only [stepFive]
  (repeat' split) <;> simp

@[simp] theorem logsOk_stepSix (s : State) (i : StartIn) : (stepSix s i).logsOk = s.logsOk := by simp [stepSix]

@[simp] theorem logsOk_startGlide (s : State) (k : Nat) : (startGlide s k).logsOk = s.logsOk := by simp [startGlide]

@[simp] theorem logsOk_stepSeven (s : State) : (stepSeven s).logsOk = s.logsOk := by simp [stepSeven]

@[simp] theorem logsOk_stepEight (s : State) (i : StartIn) (hs : s.logsOk = true) : (stepEight s i).logsOk = true := by
  unfold stepEight
  extract_lets fails s1 s2 s3 s4
  have h1 : s1.logsOk = true := logsOk_foldl_of (fun s x h => by dsimp only; split <;> simp [h]) hs
  have h2 : s2.logsOk = true := logsOk_foldl_of (fun s m h => by simp [h]) h1
  have h3 : s3.logsOk = true := logsOk_foldl_of (fun s k h => by split <;> simp [h]) h2
  have h4 : s4.logsOk = true := logsOk_foldl_of (fun s x h => by simp [h]) h3
  exact h4

@[simp] theorem logsOk_startField (ts : List TestFail) (s : State) (n : Nat) : (startField ts s n).logsOk = s.logsOk := by simp [startField]

@[simp] theorem logsOk_stepNine (s : State) : (stepNine s).logsOk = s.logsOk := by simp [stepNine]

@[simp] theorem logsOk_stepTen (s : State) (hs : s.logsOk = true) : (stepTen s).logsOk = true := by simp [stepTen, hs]

@[simp] theorem logsOk_stepEleven (s : State) (hs : s.logsOk = true) : (stepEleven s).logsOk = true := by simp [stepEleven, hs]

@[simp] theorem logsOk_goReady (s : State) (t : Dword) : (goReady s t).logsOk = s.logsOk := by
  unfold goReady
  extract_lets s1 y s2 d s3 due s4
  have h2 : s2.logsOk = s.logsOk := by simp [s2, y, s1]
  have h3 : s3.logsOk = s2.logsOk := by simp [s3, d]
  have h4 : s4.logsOk = s3.logsOk := by simp [s4]
  simp [h4, h3, h2]

theorem logsOk_execStartUpStepDone (i : StartIn) (t : Dword) (s0 : State) (hs : s0.logsOk = true) : (execStartUpStepDone i t s0).LogsOk := by
  simp only [execStartUpStepDone]
  (repeat' split) <;> simp [hs]

/-! ### Registers -/

theorem logsOk_execElogPop (l : LogSel) (s : State) (hs : s.logsOk = true) : (execElogPop l s).LogsOk := by
  obtain ⟨h1, h2, h3, h4, h5, h6, h7⟩ := s.logsOk_iff.1 hs
  refine (Out.logsOk_next _).2 ?_
  cases l with
  | mst => exact (State.logsOk_iff _).2 ⟨ELog.ok_pop h1, h2, h3, h4, h5, h6, h7⟩
  | fab => exact (State.logsOk_iff _).2 ⟨h1, ELog.ok_pop h2, h3, h4, h5, h6, h7⟩
  | stay => exact (State.logsOk_iff _).2 ⟨h1, h2, ELog.ok_pop h3, h4, h5, h6, h7⟩
  | sheet => exact (State.logsOk_iff _).2 ⟨h1, h2, h3, ELog.ok_pop h4, h5, h6, h7⟩
  | pwr => exact (State.logsOk_iff _).2 ⟨h1, h2, h3, h4, ELog.ok_pop h5, h6, h7⟩
  | thm => exact (State.logsOk_iff _).2 ⟨h1, h2, h3, h4, h5, ELog.ok_pop h6, h7⟩
  | part p => exact State.logsOk_updPart_of (fun x hx => ELog.ok_pop hx) hs

theorem logsOk_execViolRecordClear (core : Fin 9216) (s : State) (hs : s.logsOk = true) : (execViolRecordClear core s).LogsOk := by simp [execViolRecordClear, hs]

theorem logsOk_execIllRecordClear (core : Fin 9216) (s : State) (hs : s.logsOk = true) : (execIllRecordClear core s).LogsOk := by simp [execIllRecordClear, hs]

theorem logsOk_execMstCtrlWrite (w : Word) (s : State) (hs : s.logsOk = true) : (execMstCtrlWrite w s).LogsOk := by
  simp only [execMstCtrlWrite]
  (repeat' split) <;> simp [hs]

@[simp] theorem logsOk_rrWrite (s : State) (p : Nat) (f : RingRead → RingRead) : (rrWrite s p f).logsOk = s.logsOk := by simp [rrWrite]

@[simp] theorem logsOk_stageWrite (s : State) (p : Nat) (f : Staging → Staging) : (stageWrite s p f).logsOk = s.logsOk := by simp [stageWrite]

@[simp] theorem logsOk_regWrite (s : State) (r : RegWrite) : (regWrite s r).logsOk = s.logsOk := by
  unfold regWrite
  split <;> simp

theorem logsOk_execRegisterWrite (r : RegWrite) (s : State) (hs : s.logsOk = true) : (execRegisterWrite r s).LogsOk := by simp [execRegisterWrite, hs]

@[simp] theorem logsOk_sampleCore (s : State) (m : Nat) : (sampleCore s m).logsOk = s.logsOk := by simp [sampleCore]

@[simp] theorem logsOk_sampleTier (s : State) (m k : Nat) : (sampleTier s m k).logsOk = s.logsOk := by
  unfold sampleTier
  split <;> simp

@[simp] theorem logsOk_sampleSwal (s : State) (p : Nat) : (sampleSwal s p).logsOk = s.logsOk := by simp [sampleSwal]

@[simp] theorem logsOk_sampleDrops (s : State) : (sampleDrops s).logsOk = s.logsOk := by simp [sampleDrops]

theorem logsOk_execEvrSecondSample (t : Dword) (s0 : State) (hs : s0.logsOk = true) : (execEvrSecondSample t s0).LogsOk := by simp [execEvrSecondSample, hs]

/-! ### Buses and failed reads -/

@[simp] theorem State.logsOk_updPins (s : State) (f : Pins → Pins) : (s.updPins f).logsOk = s.logsOk := by simp [State.updPins]

theorem logsOk_execPldmGetPdr (handle : Nat) (s : State) (hs : s.logsOk = true) : (execPldmGetPdr handle s).LogsOk := by simp [execPldmGetPdr, hs]

theorem logsOk_execPldmGetSensorReading (x : Sensor) (s : State) (hs : s.logsOk = true) : (execPldmGetSensorReading x s).LogsOk := by simp [execPldmGetSensorReading, hs]

theorem logsOk_execI3cDynamicAddress (crow : Bool) (addr : Fin 128) (s : State) (hs : s.logsOk = true) :
    (execI3cDynamicAddress crow addr s).LogsOk := by simp [execI3cDynamicAddress, hs]

@[simp] theorem logsOk_setPort (s : State) (i : Nat) (up : Bool) : (setPort s i up).logsOk = s.logsOk := by simp [setPort]

theorem logsOk_execEthernetLinkDown (i : Fin 2) (s : State) (hs : s.logsOk = true) : (execEthernetLinkDown i s).LogsOk := by simp [execEthernetLinkDown, hs]

theorem logsOk_execEthernetLinkUp (i : Fin 2) (s : State) (hs : s.logsOk = true) : (execEthernetLinkUp i s).LogsOk := by simp [execEthernetLinkUp, hs]

theorem logsOk_execEthernetFrame (i : Fin 2) (_use : EthUse) (len : Fin 9217) (s : State) (hs : s.logsOk = true) :
    (execEthernetFrame i _use len s).LogsOk := by simp [execEthernetFrame, hs]

theorem logsOk_execPtpMessage (i : Fin 2) (now : Dword) (t : Dword) (s0 : State) (hs : s0.logsOk = true) : (execPtpMessage i now t s0).LogsOk := by
  simp only [execPtpMessage]
  (repeat' split) <;> simp [hs]

@[simp] theorem logsOk_promptReadFails (s : State) (p q : Nat) (sub : BitVec 512) (t : Dword) : (promptReadFails s p q sub t).logsOk = s.logsOk := by simp [promptReadFails]

theorem logsOk_execHostReadTimeout (r : ReadItem) (t : Dword) (s0 : State) (hs : s0.logsOk = true) : (execHostReadTimeout r t s0).LogsOk := by
  unfold execHostReadTimeout
  split <;> simp [hs]

/-! ### The sampler -/

theorem logsOk_execVsmpRng (q : Issue) (w : BitVec 44) (s : State) (hs : s.logsOk = true) : (execVsmpRng q w s).LogsOk := by simp +contextual [execVsmpRng, hs]

theorem logsOk_execVsmpTemp (q : Issue) (w : BitVec 44) (s : State) (hs : s.logsOk = true) : (execVsmpTemp q w s).LogsOk := by simp +contextual [execVsmpTemp, hs]

theorem logsOk_execVsmpTopk (q : Issue) (w : BitVec 44) (s : State) (hs : s.logsOk = true) : (execVsmpTopk q w s).LogsOk := by simp +contextual [execVsmpTopk, hs]

theorem logsOk_execVsmpTopp (q : Issue) (w : BitVec 44) (s : State) (hs : s.logsOk = true) : (execVsmpTopp q w s).LogsOk := by simp +contextual [execVsmpTopp, hs]

theorem logsOk_execVsmpAmask (q : Issue) (w : BitVec 44) (s : State) (hs : s.logsOk = true) : (execVsmpAmask q w s).LogsOk := by simp +contextual [execVsmpAmask, hs]

theorem logsOk_execVsmpDraw (q : Issue) (w : BitVec 44) (s : State) (hs : s.logsOk = true) : (execVsmpDraw q w s).LogsOk := by simp +contextual [execVsmpDraw, hs]

theorem logsOk_execVsmpAccept (q : Issue) (w : BitVec 44) (s : State) (hs : s.logsOk = true) : (execVsmpAccept q w s).LogsOk := by simp +contextual [execVsmpAccept, hs]

theorem logsOk_execVsmpCommit (q : Issue) (wt : Timed (BitVec 44)) (s : State) (hs : s.logsOk = true) : (execVsmpCommit q wt s).LogsOk := by
  simp only [execVsmpCommit, Out.logsOk_next]
  refine logsOk_issue (fun s t hs => logsOk_legalOr (by simp) (fun s hs => ?_) hs) hs
  split <;> simp [hs]

/-! ### Every command -/

theorem logsOk_exec (c : Instr) {s : State} (hs : s.logsOk = true) : Out.LogsOk (exec c s) := by
  cases c with
  | snop q w => exact logsOk_execSnop q w s hs
  | mldw q w => exact logsOk_execMldw q w s hs
  | mmul q w upset => exact logsOk_execMmul q w upset s hs
  | maccl q w => exact logsOk_execMaccl q w s hs
  | sdist q w upset => exact logsOk_execSdist q w upset s hs
  | smax q w => exact logsOk_execSmax q w s hs
  | smin q w => exact logsOk_execSmin q w s hs
  | srank q w => exact logsOk_execSrank q w s hs
  | sthr q w => exact logsOk_execSthr q w s hs
  | vnop q w => exact logsOk_execVnop q w s hs
  | vadd q w => exact logsOk_execVadd q w s hs
  | vsub q w => exact logsOk_execVsub q w s hs
  | vmul q w => exact logsOk_execVmul q w s hs
  | vfma q w => exact logsOk_execVfma q w s hs
  | vmin q w => exact logsOk_execVmin q w s hs
  | vmax q w => exact logsOk_execVmax q w s hs
  | vcmp q w => exact logsOk_execVcmp q w s hs
  | vsel q w => exact logsOk_execVsel q w s hs
  | vcvt q w => exact logsOk_execVcvt q w s hs
  | vexp q w => exact logsOk_execVexp q w s hs
  | vlog q w => exact logsOk_execVlog q w s hs
  | vrcp q w => exact logsOk_execVrcp q w s hs
  | vrsq q w => exact logsOk_execVrsq q w s hs
  | vsqrt q w => exact logsOk_execVsqrt q w s hs
  | vrsum q w => exact logsOk_execVrsum q w s hs
  | vrmax q w => exact logsOk_execVrmax q w s hs
  | vrmin q w => exact logsOk_execVrmin q w s hs
  | vld q w => exact logsOk_execVld q w s hs
  | vst q w => exact logsOk_execVst q w s hs
  | vdrn q w => exact logsOk_execVdrn q w s hs
  | vsca q w => exact logsOk_execVsca q w s hs
  | vkey q w => exact logsOk_execVkey q w s hs
  | vmask q w => exact logsOk_execVmask q w s hs
  | vsmpRng q w => exact logsOk_execVsmpRng q w s hs
  | vsmpTemp q w => exact logsOk_execVsmpTemp q w s hs
  | vsmpTopk q w => exact logsOk_execVsmpTopk q w s hs
  | vsmpTopp q w => exact logsOk_execVsmpTopp q w s hs
  | vsmpAmask q w => exact logsOk_execVsmpAmask q w s hs
  | vsmpDraw q w => exact logsOk_execVsmpDraw q w s hs
  | vsmpAccept q w => exact logsOk_execVsmpAccept q w s hs
  | vsmpCommit q w => exact logsOk_execVsmpCommit q w s hs
  | mnop q w => exact logsOk_execMnop q w s hs
  | mrd q w => exact logsOk_execMrd q w s hs
  | mwr q w => exact logsOk_execMwr q w s hs
  | msend q w => exact logsOk_execMsend q w s hs
  | mfill q w => exact logsOk_execMfill q w s hs
  | mcopy q w => exact logsOk_execMcopy q w s hs
  | rsend q w => exact logsOk_execRsend q w s hs
  | merge q w => exact logsOk_execMerge q w s hs
  | mrel q w => exact logsOk_execMrel q w s hs
  | kvapq q w => exact logsOk_execKvapq q w s hs
  | xdisp q w => exact logsOk_execXdisp q w s hs
  | cnop q w => exact logsOk_execCnop q w s hs
  | sli q w => exact logsOk_execSli q w s hs
  | slih q w => exact logsOk_execSlih q w s hs
  | sadd q w => exact logsOk_execSadd q w s hs
  | ssub q w => exact logsOk_execSsub q w s hs
  | smul q w => exact logsOk_execSmul q w s hs
  | sand q w => exact logsOk_execSand q w s hs
  | sor q w => exact logsOk_execSor q w s hs
  | sxor q w => exact logsOk_execSxor q w s hs
  | sshl q w => exact logsOk_execSshl q w s hs
  | sshr q w => exact logsOk_execSshr q w s hs
  | slds q w => exact logsOk_execSlds q w s hs
  | ssts q w => exact logsOk_execSsts q w s hs
  | br q w => exact logsOk_execBr q w s hs
  | jmp q w => exact logsOk_execJmp q w s hs
  | loop q w => exact logsOk_execLoop q w s hs
  | waitc q w => exact logsOk_execWaitc q w s hs
  | seqadv q w => exact logsOk_execSeqadv q w s hs
  | hand q w => exact logsOk_execHand q w s hs
  | hset q w => exact logsOk_execHset q w s hs
  | vpat q w => exact logsOk_execVpat q w s hs
  | phase q w => exact logsOk_execPhase q w s hs
  | escm q w => exact logsOk_execEscm q w s hs
  | refw q w found => exact logsOk_execRefw q w found s hs
  | svcw q w => exact logsOk_execSvcw q w s hs
  | wstep q w => exact logsOk_execWstep q w s hs
  | tileLoadDone core sail => exact logsOk_execTileLoadDone core sail s hs
  | mastRowLand core ecc => exact logsOk_execMastRowLand core ecc s hs
  | mastWriteAck core => exact logsOk_execMastWriteAck core s hs
  | kvapqAck core found => exact logsOk_execKvapqAck core found s hs
  | outsideMastAccess core write mark part row data => exact logsOk_execOutsideMastAccess core write mark part row data s hs
  | meshFlitArrive i o => exact logsOk_execMeshFlitArrive i o s hs
  | deliveryCreditReturn core trk => exact logsOk_execDeliveryCreditReturn core trk s hs
  | vc0MessageDeliver i => exact logsOk_execVc0MessageDeliver i s hs
  | reductionFlitArrive i => exact logsOk_execReductionFlitArrive i s hs
  | reductionAddDone core tree fidx tag => exact logsOk_execReductionAddDone core tree fidx tag s hs
  | mergeRequestArrive i => exact logsOk_execMergeRequestArrive i s hs
  | mergeEntryClose core group tag => exact logsOk_execMergeEntryClose core group tag s hs
  | rowNormCheck core sail row => exact logsOk_execRowNormCheck core sail row s hs
  | escalationPassEnd core sail found upset => exact logsOk_execEscalationPassEnd core sail found upset s hs
  | escalationRestoreDone core sail => exact logsOk_execEscalationRestoreDone core sail s hs
  | overflowDispatchDone n => exact logsOk_execOverflowDispatchDone n s hs
  | overflowRoutineDone n => exact logsOk_execOverflowRoutineDone n s hs
  | luffStallBegin p => exact logsOk_execLuffStallBegin p s hs
  | luffItemEnd p i => exact logsOk_execLuffItemEnd p i s hs
  | luffLineDrop p => exact logsOk_execLuffLineDrop p s hs
  | luffTimeout p n => exact logsOk_execLuffTimeout p n s hs
  | stepEndBoundary p t => exact logsOk_execStepEndBoundary p t s hs
  | stepStartBoundary p t => exact logsOk_execStepStartBoundary p t s hs
  | idleBoundary p t => exact logsOk_execIdleBoundary p t s hs
  | imageCurrentWindow core mean => exact logsOk_execImageCurrentWindow core mean s hs
  | refreshDebtTick core tier => exact logsOk_execRefreshDebtTick core tier s hs
  | refreshCatchup core tier => exact logsOk_execRefreshCatchup core tier s hs
  | hotOffDwellExpire p => exact logsOk_execHotOffDwellExpire p s hs
  | tlbMap core rid vpn pgn wr => exact logsOk_execTlbMap core rid vpn pgn wr s hs
  | tlbUnmap core rid vpn => exact logsOk_execTlbUnmap core rid vpn s hs
  | tlbRelease core rid => exact logsOk_execTlbRelease core rid s hs
  | tlbRebuild core => exact logsOk_execTlbRebuild core s hs
  | pageInit core rid vpn pgn => exact logsOk_execPageInit core rid vpn pgn s hs
  | columnCopyDone n col bad => exact logsOk_execColumnCopyDone n col bad s hs
  | seamLaneLockLoss k l => exact logsOk_execSeamLaneLockLoss k l s hs
  | seamErrorWindow k l x => exact logsOk_execSeamErrorWindow k l x s hs
  | seamRetrainDone k l badLanes => exact logsOk_execSeamRetrainDone k l badLanes s hs
  | fixedHopEnter fields => exact logsOk_execFixedHopEnter fields s hs
  | fixedHopDrainDone n => exact logsOk_execFixedHopDrainDone n s hs
  | fixedHopDrainTimeout n => exact logsOk_execFixedHopDrainTimeout n s hs
  | fixedHopStartTick fields t => exact logsOk_execFixedHopStartTick fields t s hs
  | fixedHopExitTick fields t => exact logsOk_execFixedHopExitTick fields t s hs
  | hopTableLoad router t => exact logsOk_execHopTableLoad router t s hs
  | sheetTensorFrame i h dst fl => exact logsOk_execSheetTensorFrame i h dst fl s hs
  | sheetCreditFrame i h => exact logsOk_execSheetCreditFrame i h s hs
  | sheetGateFrame i h => exact logsOk_execSheetGateFrame i h s hs
  | sheetEndStampFrame i h recs => exact logsOk_execSheetEndStampFrame i h recs s hs
  | sheetNoticeFrame i h what ok e => exact logsOk_execSheetNoticeFrame i h what ok e s hs
  | sheetIdentFrame i serial port peerGood agrees => exact logsOk_execSheetIdentFrame i serial port peerGood agrees s hs
  | sheetTimeFrame i h recv => exact logsOk_execSheetTimeFrame i h recv s hs
  | sheetWaitArm p rank route => exact logsOk_execSheetWaitArm p rank route s hs
  | gateDueArm p => exact logsOk_execGateDueArm p s hs
  | sheetPortLinkUp i => exact logsOk_execSheetPortLinkUp i s hs
  | sheetPortLinkDown i => exact logsOk_execSheetPortLinkDown i s hs
  | cablingVerdictTimeout i => exact logsOk_execCablingVerdictTimeout i s hs
  | timeExchangeTick => exact logsOk_execTimeExchangeTick s hs
  | timeHoldTimeout => exact logsOk_execTimeHoldTimeout s hs
  | sliceStampLate p r => exact logsOk_execSliceStampLate p r s hs
  | sliceLossTimeout p r => exact logsOk_execSliceLossTimeout p r s hs
  | stampWaitTimeout p r => exact logsOk_execStampWaitTimeout p r s hs
  | sqDoorbell p q tail => exact logsOk_execSqDoorbell p q tail s hs
  | openReq p q sub prompt t => exact logsOk_execOpen p q sub prompt t s hs
  | continueReq p q sub prompt t => exact logsOk_execContinue p q sub prompt t s hs
  | cancelReq p q sub t => exact logsOk_execCancel p q sub t s hs
  | closeReq p q sub t => exact logsOk_execClose p q sub t s hs
  | parkReq p q sub t => exact logsOk_execPark p q sub t s hs
  | completionRecordWrite p t => exact logsOk_execCompletionRecordWrite p t s hs
  | cqHeadWrite p head => exact logsOk_execCqHeadWrite p head s hs
  | sqCfgWrite p q base size en => exact logsOk_execSqCfgWrite p q base size en s hs
  | cqCfgWrite p base size en => exact logsOk_execCqCfgWrite p base size en s hs
  | parkPageWriteDone e o t => exact logsOk_execParkPageWriteDone e o t s hs
  | unparkPageArrive e o => exact logsOk_execUnparkPageArrive e o s hs
  | stayLinkDown i t => exact logsOk_execStayLinkDown i t s hs
  | stayLinkUp i fast typeOk lanes cap retries => exact logsOk_execStayLinkUp i fast typeOk lanes cap retries s hs
  | stayRequestTimeout i e t => exact logsOk_execStayRequestTimeout i e t s hs
  | outputQueueToken slot => exact logsOk_execOutputQueueToken slot s hs
  | streamRecordWrite p r parity sideBad => exact logsOk_execStreamRecordWrite p r parity sideBad s hs
  | srHeadWrite p r head => exact logsOk_execSrHeadWrite p r head s hs
  | srCfgWrite p r base size en => exact logsOk_execSrCfgWrite p r base size en s hs
  | stmFlushGo byVf slot => exact logsOk_execStmFlushGo byVf slot s hs
  | ringReadGo p byPf => exact logsOk_execRingReadGo p byPf s hs
  | ringReadDone p n bad => exact logsOk_execRingReadDone p n bad s hs
  | stopSetLoad p index => exact logsOk_execStopSetLoad p index s hs
  | autoLoad p file => exact logsOk_execAutoLoad p file s hs
  | tallyStartSend t => exact logsOk_execTallyStartSend t s hs
  | tallyMarkSend t => exact logsOk_execTallyMarkSend t s hs
  | meterTallyStart ok0 ok1 => exact logsOk_execMeterTallyStart ok0 ok1 s hs
  | meterTallyTokens ok0 ok1 => exact logsOk_execMeterTallyTokens ok0 ok1 s hs
  | meterTallyMark ok0 ok1 => exact logsOk_execMeterTallyMark ok0 ok1 s hs
  | meterTallyClose ok0 ok1 mt r => exact logsOk_execMeterTallyClose ok0 ok1 mt r s hs
  | meterInputLoss mt r => exact logsOk_execMeterInputLoss mt r s hs
  | meterPowerUp restarted fresh mt => exact logsOk_execMeterPowerUp restarted fresh mt s hs
  | meterIntervalEnd r => exact logsOk_execMeterIntervalEnd r s hs
  | meterSealEvent => exact logsOk_execMeterSealEvent s hs
  | cnmFetchGo present bus => exact logsOk_execCnmFetchGo present bus s hs
  | cnmIntervalWrite v => exact logsOk_execCnmIntervalWrite v s hs
  | clkStepReqWrite v => exact logsOk_execClkStepReqWrite v s hs
  | glideEnd t => exact logsOk_execGlideEnd t s hs
  | cornerLockLoss n corner t => exact logsOk_execCornerLockLoss n corner t s hs
  | fieldRelock n t => exact logsOk_execFieldRelock n t s hs
  | relockTimeout n t => exact logsOk_execRelockTimeout n t s hs
  | fieldLockTimeout n t => exact logsOk_execFieldLockTimeout n t s hs
  | refOscCheck stopA stopB stopM dAB dAM dBM t => exact logsOk_execRefOscCheck stopA stopB stopM dAB dAM dBM t s hs
  | refHoldTimeout t => exact logsOk_execRefHoldTimeout t s hs
  | timeBaseSync t => exact logsOk_execTimeBaseSync t s hs
  | clkTbSetGo t => exact logsOk_execClkTbSetGo t s hs
  | clkTbLoRead f t => exact logsOk_execClkTbLoRead f t s hs
  | slewDone t => exact logsOk_execSlewDone t s hs
  | hostSwalWrite p v => exact logsOk_execHostSwalWrite p v s hs
  | inputValid => exact logsOk_execInputValid s hs
  | pinReset t => exact logsOk_execPinReset t s hs
  | hostRestart key t => exact logsOk_execHostRestart key t s hs
  | mastheadWatchdog flushed => exact logsOk_execMastheadWatchdog flushed s hs
  | inputLoss volt t => exact logsOk_execInputLoss volt t s hs
  | holdupFieldsOff t => exact logsOk_execHoldupFieldsOff t s hs
  | holdupRimOff t => exact logsOk_execHoldupRimOff t s hs
  | inputDip => exact logsOk_execInputDip s hs
  | inputLow volt t => exact logsOk_execInputLow volt t s hs
  | inputHigh volt t => exact logsOk_execInputHigh volt t s hs
  | avsTrimTick core margin => exact logsOk_execAvsTrimTick core margin s hs
  | timingNearMiss core => exact logsOk_execTimingNearMiss core s hs
  | slowCoreTimeout core t => exact logsOk_execSlowCoreTimeout core t s hs
  | powerPolicyTick i t => exact logsOk_execPowerPolicyTick i t s hs
  | phaseFailure core phase value t => exact logsOk_execPhaseFailure core phase value t s hs
  | regulatorFailure core value t => exact logsOk_execRegulatorFailure core value t s hs
  | coreShort core value t => exact logsOk_execCoreShort core value t s hs
  | converterFailure k value t => exact logsOk_execConverterFailure k value t s hs
  | fieldSupplyShort n value t => exact logsOk_execFieldSupplyShort n value t s hs
  | rimConverterFailure i value t => exact logsOk_execRimConverterFailure i value t s hs
  | phaseLimitExpire core t => exact logsOk_execPhaseLimitExpire core t s hs
  | quietWindowGrant n peaks t => exact logsOk_execQuietWindowGrant n peaks t s hs
  | grantTimeout n t => exact logsOk_execGrantTimeout n t s hs
  | fieldRampTimeout n value t => exact logsOk_execFieldRampTimeout n value t s hs
  | coreSensorSample core diode ring t => exact logsOk_execCoreSensorSample core diode ring t s hs
  | tierSensorSample core tier reading t => exact logsOk_execTierSensorSample core tier reading t s hs
  | disagreeTimeout core t => exact logsOk_execDisagreeTimeout core t s hs
  | stage1Release core t => exact logsOk_execStage1Release core t s hs
  | thermalDemandTick t => exact logsOk_execThermalDemandTick t s hs
  | thermalTrip n core tier value t => exact logsOk_execThermalTrip n core tier value t s hs
  | trayPoll r t => exact logsOk_execTrayPoll r t s hs
  | gatingTick t => exact logsOk_execGatingTick t s hs
  | strikeRestoreDeadline t => exact logsOk_execStrikeRestoreDeadline t s hs
  | spareCheckDone n col pass => exact logsOk_execSpareCheckDone n col pass s hs
  | columnTestDone n pass => exact logsOk_execColumnTestDone n pass s hs
  | hostFlr f link t => exact logsOk_execHostFlr f link t s hs
  | hostPerst link => exact logsOk_execHostPerst link s hs
  | hostLinkDown link => exact logsOk_execHostLinkDown link s hs
  | hostLinkUp link rate width flit => exact logsOk_execHostLinkUp link rate width flit s hs
  | msixUnmask f v => exact logsOk_execMsixUnmask f v s hs
  | coalesceExpire f v => exact logsOk_execCoalesceExpire f v s hs
  | mbxOutGo f link => exact logsOk_execMbxOutGo f link s hs
  | mbxTake f => exact logsOk_execMbxTake f s hs
  | mbxReplyWrite f => exact logsOk_execMbxReplyWrite f s hs
  | mbxInDone f => exact logsOk_execMbxInDone f s hs
  | dblStatClear f w => exact logsOk_execDblStatClear f w s hs
  | dblMaskWrite f w => exact logsOk_execDblMaskWrite f w s hs
  | info f => exact logsOk_execInfo f s hs
  | partitionReset p t => exact logsOk_execPartitionReset p t s hs
  | hoist p byVf t => exact logsOk_execHoist p byVf t s hs
  | unload p byVf t => exact logsOk_execUnload p byVf t s hs
  | hoistAbort p byVf t => exact logsOk_execHoistAbort p byVf t s hs
  | hoistQueueTake p inp t => exact logsOk_execHoistQueueTake p inp t s hs
  | halyardSegment p seg t => exact logsOk_execHalyardSegment p seg t s hs
  | unloadDrainLimit p slot t => exact logsOk_execUnloadDrainLimit p slot t s hs
  | unloadEraseDone p slot t => exact logsOk_execUnloadEraseDone p slot t s hs
  | getVersion a => exact logsOk_execGetVersion a s hs
  | getCapabilities a ver => exact logsOk_execGetCapabilities a ver s hs
  | negotiateAlgorithms a offers => exact logsOk_execNegotiateAlgorithms a offers s hs
  | getDigests a => exact logsOk_execGetDigests a s hs
  | getCertificate a slot offset len => exact logsOk_execGetCertificate a slot offset len s hs
  | challenge a slot transcript => exact logsOk_execChallenge a slot transcript s hs
  | getMeasurements a index sign transcript => exact logsOk_execGetMeasurements a index sign transcript s hs
  | keyExchange a slot transcript => exact logsOk_execKeyExchange a slot transcript s hs
  | finish a id good => exact logsOk_execFinish a id good s hs
  | endSession a id => exact logsOk_execEndSession a id s hs
  | heartbeat a id => exact logsOk_execHeartbeat a id s hs
  | chunkSend a handle seq last => exact logsOk_execChunkSend a handle seq last s hs
  | chunkGet a seq => exact logsOk_execChunkGet a seq s hs
  | ideKm id link k op fns => exact logsOk_execIdeKm id link k op fns s hs
  | keyExch p req => exact logsOk_execKeyExch p req s hs
  | keyClear p req => exact logsOk_execKeyClear p req s hs
  | signkey point => exact logsOk_execSignkey point s hs
  | drbgReseed healthy => exact logsOk_execDrbgReseed healthy s hs
  | cfgCopyGo copy link => exact logsOk_execCfgCopyGo copy link s hs
  | cfgCopyDone img progOk => exact logsOk_execCfgCopyDone img progOk s hs
  | rwpWrite i v => exact logsOk_execRwpWrite i v s hs
  | rwpRecordProgrammed ok0 ok1 => exact logsOk_execRwpRecordProgrammed ok0 ok1 s hs
  | fwStage => exact logsOk_execFwStage s hs
  | fwStageComplete pkg progOk => exact logsOk_execFwStageComplete pkg progOk s hs
  | fwActivate t => exact logsOk_execFwActivate t s hs
  | fwActTime t => exact logsOk_execFwActTime t s hs
  | fcFieldActivate n ends t => exact logsOk_execFcFieldActivate n ends t s hs
  | fwRigNoticeDeadline t => exact logsOk_execFwRigNoticeDeadline t s hs
  | fwActivationNotice peer cancel time sig t => exact logsOk_execFwActivationNotice peer cancel time sig t s hs
  | fwConfirm progOk => exact logsOk_execFwConfirm progOk s hs
  | fwRevert t => exact logsOk_execFwRevert t s hs
  | fwAbort t => exact logsOk_execFwAbort t s hs
  | fwFallback progOk => exact logsOk_execFwFallback progOk s hs
  | fwMhTrialTimeout t => exact logsOk_execFwMhTrialTimeout t s hs
  | fcHeartbeatLoss n t => exact logsOk_execFcHeartbeatLoss n t s hs
  | evrFreeze t => exact logsOk_execEvrFreeze t s hs
  | evrThaw t => exact logsOk_execEvrThaw t s hs
  | evrDump => exact logsOk_execEvrDump s hs
  | evrClear => exact logsOk_execEvrClear s hs
  | evrFlush t => exact logsOk_execEvrFlush t s hs
  | evrFreezeLimit t => exact logsOk_execEvrFreezeLimit t s hs
  | evrPeriodicFlush t => exact logsOk_execEvrPeriodicFlush t s hs
  | evrFaultFlushSpacing t => exact logsOk_execEvrFaultFlushSpacing t s hs
  | evrHsrcWrite h w => exact logsOk_execEvrHsrcWrite h w s hs
  | evrSecondSample t => exact logsOk_execEvrSecondSample t s hs
  | elogPop l => exact logsOk_execElogPop l s hs
  | violRecordClear core => exact logsOk_execViolRecordClear core s hs
  | illRecordClear core => exact logsOk_execIllRecordClear core s hs
  | mstCtrlWrite w => exact logsOk_execMstCtrlWrite w s hs
  | thmCtrlWrite w => exact logsOk_execThmCtrlWrite w s hs
  | badRegisterAccess via => exact logsOk_execBadRegisterAccess via s hs
  | registerWrite r => exact logsOk_execRegisterWrite r s hs
  | pldmGetPdr handle => exact logsOk_execPldmGetPdr handle s hs
  | pldmGetSensorReading x => exact logsOk_execPldmGetSensorReading x s hs
  | i3cDynamicAddress crow addr => exact logsOk_execI3cDynamicAddress crow addr s hs
  | ptpMessage i now t => exact logsOk_execPtpMessage i now t s hs
  | startUpStepDone i t => exact logsOk_execStartUpStepDone i t s hs
  | sequencerSaveDone core sail => exact logsOk_execSequencerSaveDone core sail s hs
  | fillCopyDone core => exact logsOk_execFillCopyDone core s hs
  | pcieConfigWrite link f master sriov numVfs => exact logsOk_execPcieConfigWrite link f master sriov numVfs s hs
  | mbxOutDataWrite f i v => exact logsOk_execMbxOutDataWrite f i v s hs
  | holdupStoreCharged => exact logsOk_execHoldupStoreCharged s hs
  | ethernetLinkDown i => exact logsOk_execEthernetLinkDown i s hs
  | ethernetLinkUp i => exact logsOk_execEthernetLinkUp i s hs
  | ethernetFrame i use len => exact logsOk_execEthernetFrame i use len s hs
  | hostReadTimeout r t => exact logsOk_execHostReadTimeout r t s hs
  | recorderFlushDone ok0 ok1 t => exact logsOk_execRecorderFlushDone ok0 ok1 t s hs
  | mhSwitchDone => exact logsOk_execMhSwitchDone s hs
  | rioActivateDone i => exact logsOk_execRioActivateDone i s hs

/-- Settles O58: `step` runs the front command, and every command keeps every log within its bounds. -/
theorem stepKeepsLogs : Obligations.StepKeepsLogs := by
  intro s t hs h
  unfold step at h
  split at h
  · cases h
    exact hs
  · exact logsOk_exec _ (s := s.popped) hs t h

end Sys2Proof.Machine

namespace Sys2Proof.Machine

/-! ## Refresh debt (O29) -/

/-! ### One mast, and one tier of it, changed -/

@[simp] theorem State.core_updMast_same (s : State) (m : Nat) (f : Mast → Mast) : (s.updMast m f).core m = { s.core m with mast := f (s.core m).mast } :=
  s.core_updCore_same ..

theorem State.core_updMast_ne (s : State) {j m : Nat} (f : Mast → Mast) (h : j ≠ m) : (s.updMast m f).core j = s.core j := s.core_updCore_ne _ h

@[simp] theorem Mast.tiers_updTier_same (x : Mast) (k : Fin 4) (f : Tier → Tier) : (x.updTier k f).tiers[k] = f x.tiers[k] := by simp [Mast.updTier]

theorem Mast.tiers_updTier_ne (x : Mast) {j k : Fin 4} (f : Tier → Tier) (h : j ≠ k) : (x.updTier k f).tiers[j] = x.tiers[j] := by
  have hv : k.val ≠ j.val := fun e => h (Fin.ext e.symm)
  simp [Mast.updTier, hv]

/-! ### The tick -/

/-- A mast after a tick of one of its tiers. -/
def Mast.debtUp (x : Mast) (k : Fin 4) : Mast :=
  { x.updTier k (fun y => { y with debt := y.debt + 1 }) with debtHwm := max x.debtHwm (x.tiers[k].debt + 1) }

@[simp] theorem Mast.tiers_debtUp_same (x : Mast) (k : Fin 4) : (x.debtUp k).tiers[k] = { x.tiers[k] with debt := x.tiers[k].debt + 1 } :=
  x.tiers_updTier_same k fun y => { y with debt := y.debt + 1 }

theorem Mast.tiers_debtUp_ne (x : Mast) {j k : Fin 4} (h : j ≠ k) : (x.debtUp k).tiers[j] = x.tiers[j] :=
  x.tiers_updTier_ne (fun y => { y with debt := y.debt + 1 }) h

/-- The module after a tick that raises a tier's debt, before what debt 12 or 16 adds. -/
def debtUp (s : State) (m : Fin 9216) (k : Fin 4) : State :=
  let d := (s.core m).mast.tiers[k].debt + 1
  ((s.updMast m fun x => x.debtUp k).updPart (s.corePart m) fun x => if (s.field (m / 192)).owned then { x with refHwm := max x.refHwm d } else x).updEvr
    fun e => { e with debts := AMap.upd e.debts 0 (4 * m + k) (fun j => max j d) }

theorem execRefreshDebtTick_eq {m : Fin 9216} {k : Fin 4} {s : State} (hf : s.hasField (m / 192) = true) :
    execRefreshDebtTick m k s = .next (
      if (s.core m).mast.tiers[k].debt + 1 = 12 then mstLog (debtUp s m k) m k 3 0 0
      else if 16 ≤ (s.core m).mast.tiers[k].debt + 1 then
        ownedFault ((mstLog (debtUp s m k) m k 4 0 0).updMast m fun x => x.updTier k fun y => { y with debt := 8 }) m 0x09
      else debtUp s m k) := by
  simp only [execRefreshDebtTick, hf]
  rfl

theorem core_debtUp (s : State) (m : Fin 9216) (k : Fin 4) : (debtUp s m k).core m = { s.core m with mast := (s.core m).mast.debtUp k } :=
  s.core_updMast_same m fun x => x.debtUp k

theorem core_debtUp_ne (s : State) (m : Fin 9216) (k : Fin 4) {j : Nat} (h : j ≠ m.val) : (debtUp s m k).core j = s.core j :=
  s.core_updMast_ne (fun x => x.debtUp k) h

theorem part_debtUp (s : State) (m : Fin 9216) (k : Fin 4) : (debtUp s m k).part (s.corePart m) =
    if (s.field (m / 192)).owned then { s.part (s.corePart m) with refHwm := max (s.part (s.corePart m)).refHwm ((s.core m).mast.tiers[k].debt + 1) }
    else s.part (s.corePart m) :=
  State.part_updPart_same (s.updMast m fun x => x.debtUp k) _ _

theorem grp_debtUp (s : State) (m : Fin 9216) (k : Fin 4) : (debtUp s m k).grp (s.corePart m) = s.grp (s.corePart m) := by
  unfold State.grp
  rw [part_debtUp]
  split <;> rfl

theorem works_mstLog (s : State) (m tier kind row rid : Nat) : (mstLog s m tier kind row rid).works =
    (s.cores, { s.mst with log := s.mst.log.push (packFields 32 [(0, 14, m), (14, 2, tier), (16, 3, kind)],
      packFields 32 [(0, 20, row)], packFields 32 [(0, 16, rid)]) }, s.fab, s.grp) :=
  works_signalLog ..

/-- A tick below debt 11 changes the tier's debt and the high-water marks alone. -/
theorem execRefreshDebtTick_low {m : Fin 9216} {k : Fin 4} {s : State} (hf : s.hasField (m / 192) = true) (hd : (s.core m).mast.tiers[k].debt < 11) :
    execRefreshDebtTick m k s = .next (debtUp s m k) := by
  rw [execRefreshDebtTick_eq hf, if_neg (by omega), if_neg (by omega)]

/-- A tick to debt 16 refreshes the tier, logs the event and fails the step. -/
theorem execRefreshDebtTick_forced {m : Fin 9216} {k : Fin 4} {s : State} (hf : s.hasField (m / 192) = true) (ho : (s.field (m / 192)).owned = true)
    (hd : (s.core m).mast.tiers[k].debt = 15) : execRefreshDebtTick m k s =
      .next (coreFault ((mstLog (debtUp s m k) m k 4 0 0).updMast m fun x => x.updTier k fun y => { y with debt := 8 }) m 0x09) := by
  have hw := works_mstLog (debtUp s m k) m k 4 0 0
  simp only [State.works, Prod.mk.injEq] at hw
  obtain ⟨-, -, hfab, -⟩ := hw
  have howned : (((mstLog (debtUp s m k) m k 4 0 0).updMast m fun x => x.updTier k fun y => { y with debt := 8 }).field (m / 192)).owned = true := by
    show (AMap.at (mstLog (debtUp s m k) m k 4 0 0).fab.fields {} (m / 192)).owned = true
    rw [hfab]
    exact ho
  rw [execRefreshDebtTick_eq hf, if_neg (by omega), if_pos (by omega), ownedFault, if_pos howned]

/-! ### A catch-up -/

theorem execRefreshCatchup_still {m : Fin 9216} {k : Fin 4} {s : State} (hsteps : s.coreSteps m = false) (hd : 1 ≤ (s.core m).mast.tiers[k].debt) :
    execRefreshCatchup m k s = .next (s.updMast m fun x => x.updTier k fun y => y.refresh 1) := by
  have hd' : decide (1 ≤ (s.core m).mast.tiers[k].debt) = true := decide_eq_true hd
  simp only [execRefreshCatchup, hsteps, Bool.not_false, if_true, hd']
  rfl

/-! ### The end of the hot dwell -/

theorem tiersCool_of {s : State} {p : Nat}
    (h : ∀ m ∈ s.coresOf p, ∀ x ∈ (s.core m).mast.tiers.toList, x.temp ≤ s.mst.hotOff ∧ x.failed = false) : tiersCool s p = true := by
  simp only [tiersCool, List.all_eq_true]
  intro m hm x hx
  obtain ⟨hle, hfail⟩ := h m hm x hx
  simp [hle, hfail]

theorem execHotOffDwellExpire_cool {s : State} {q : Fin 64} {now : Dword} (hcool : tiersCool s q = true)
    (hcalm : ∀ u, AMap.find s.sys.thm.hotCalm q = some u → ∃ v, u = some v ∧ v + 1000000000 ≤ now.toNat) :
    execHotOffDwellExpire ⟨q, now⟩ s = .next ((s.atTick now).updPart q fun x => { x with hotAsked := false }) := by
  unfold execHotOffDwellExpire
  cases hfind : AMap.find s.sys.thm.hotCalm q with
  | none => simp [hcool, hfind]
  | some u =>
    obtain ⟨v, rfl, hv⟩ := hcalm u hfind
    simp [hcool, hfind, hv]

/-! ### The statement -/

/-- Settles O29: each of the four commands does one update of the tier's debt, or of the partition's wish to return, and the frame laws of the state say what stays. -/
theorem refreshDebt : Obligations.RefreshDebt := by
  intro m k s
  refine ⟨fun hf hd => ?_, fun hf ho hd hin => ?_, fun hsteps hd => ?_, fun q now hcool hcalm => ?_⟩
  · refine ⟨_, execRefreshDebtTick_low hf hd, ?_⟩
    dsimp only
    rw [core_debtUp, part_debtUp]
    refine ⟨Mast.tiers_debtUp_same .., fun j hj => Mast.tiers_debtUp_ne _ hj, rfl, rfl, fun j hj => core_debtUp_ne s m k hj, ?_, ?_, rfl, rfl, rfl, rfl⟩
    · split <;> rfl
    · split <;> rfl
  · refine ⟨_, execRefreshDebtTick_forced hf ho hd, ?_⟩
    have hw := works_mstLog (debtUp s m k) m k 4 0 0
    simp only [State.works, Prod.mk.injEq] at hw
    obtain ⟨hcores, hmst, hfab, hgrp⟩ := hw
    have hpart : ((mstLog (debtUp s m k) m k 4 0 0).updMast m fun x => x.updTier k fun y => { y with debt := 8 }).corePart m = s.corePart m := corePart_congr hfab m
    have hstep : ((mstLog (debtUp s m k) m k 4 0 0).grp (s.corePart m)).inStep = true := by rw [hgrp, grp_debtUp, hin]
    obtain ⟨hc, hm, hfault⟩ := coreFault_fails 9 (m := m)
      (s := (mstLog (debtUp s m k) m k 4 0 0).updMast m fun x => x.updTier k fun y => { y with debt := 8 }) (by rw [hpart]; exact hstep)
    dsimp only
    rw [core_congr hc, State.core_updMast_same, core_congr hcores, core_debtUp, hm]
    refine ⟨?_, fun j hj => ?_, ?_, ?_⟩
    · rw [Mast.tiers_updTier_same, Mast.tiers_debtUp_same]
    · rw [Mast.tiers_updTier_ne _ _ hj, Mast.tiers_debtUp_ne _ hj]
    · exact congrArg MstBlock.log hmst
    · rwa [hpart] at hfault
  · refine ⟨_, execRefreshCatchup_still hsteps hd, rfl, fun j hj => s.core_updMast_ne _ hj, ?_⟩
    rw [State.core_updMast_same]
    exact ⟨Mast.tiers_updTier_same .., fun j hj => Mast.tiers_updTier_ne _ _ hj, rfl⟩
  · refine ⟨_, execHotOffDwellExpire_cool (tiersCool_of hcool) hcalm, rfl, State.part_updPart_same .., fun j hj => State.part_updPart_ne _ _ hj⟩

end Sys2Proof.Machine

namespace Sys2Proof.Machine

/-! ## The mast tables and pages (O30) -/

/-! ### What arrives at the interface -/

theorem State.updMast_updMast (s : State) (m : Nat) (f g : Mast → Mast) : (s.updMast m f).updMast m g = s.updMast m fun x => g (f x) := by
  simp [State.updMast, State.updCore]

theorem State.updMast_setCore_core (s : State) (m : Nat) (f : Mast → Mast) : (s.setCore m (s.core m)).updMast m f = s.updMast m f := by
  simp [State.updMast, State.updCore]

theorem arriveOutside_waits {s : State} {m : Nat} (o : Outside) (h : s.coreSteps m = true)
    (hw : (s.grp (s.corePart m)).inStep = false ∨ (s.core m).mast.svcEnd ≤ (s.grp (s.corePart m)).cyc) :
    arriveOutside s m o = s.updMast m fun x => { x with outside := x.outside ++ [o] } := by
  have hclosed : ((s.grp (s.corePart m)).inStep && decide ((s.grp (s.corePart m)).cyc < (s.core m).mast.svcEnd)) = false := by
    rcases hw with hin | hend
    · simp [hin]
    · simp [Nat.not_lt.2 hend]
  simp [arriveOutside, servesNow, h, hclosed]

/-- What arrives first at an idle interface while the partition does not step is served at once, in the state that it finds. -/
theorem arriveOutside_now {s : State} {m : Nat} (o : Outside) (h : s.coreSteps m = false) (hq : (s.core m).mast.outside = []) (hd : (s.core m).mast.svcDone = 0) :
    arriveOutside s m o = serveOne (s.setCore m (s.core m)) m o := by
  have hx : ({ (s.core m).mast with outside := [], svcDone := 0 } : Mast) = (s.core m).mast := by rw [← hq, ← hd]
  have hu : (s.updMast m fun x => { x with outside := [], svcDone := 0 }) = s.setCore m (s.core m) := by simp only [State.updMast, State.updCore, hx]
  simp [arriveOutside, servesNow, h, serveAll, hq, State.updMast_updMast, hu]

/-! ### A walk over rows that are free of errors, and an answer that nobody waits for -/

theorem walkFound_clean {s : State} {m : Nat} (rows : List Nat) (h : (s.core m).mast.bad = []) : walkFound s m rows [] = (s, none) := by
  simp [walkFound, h, rowsFound]

theorem serveWalk_clean {s : State} {m : Nat} (op : PageOp) (rid vpn : Nat) (gran : Option Nat) (go : State → State) (h : (s.core m).mast.bad = []) :
    serveWalk s m op rid vpn gran [] go = go s := by
  rw [serveWalk, walkFound_clean _ h]

theorem answer_unasked {s : State} {p : Nat} (op : PageOp) (m rid vpn res : Nat) (h : (s.req p).pageWork = []) : answer s p op m rid vpn res = s := by
  have hw : (s.part p).req.pageWork = [] := h
  simp [answer, hw]

theorem serveOne_map {s : State} {m : Nat} (rid vpn g : Nat) (wr : Bool) (hb : (s.core m).mast.bad = []) (hw : (s.req (s.corePart m)).pageWork = []) :
    serveOne s m (.map rid vpn g wr []) =
      s.updMast m fun _ => ((s.core m).mast.map' rid vpn g wr).1.giveResult ((s.core m).mast.map' rid vpn g wr).2 := by
  rw [serveOne, serveWalk_clean _ _ _ _ _ hb]
  exact answer_unasked _ _ _ _ _ hw

theorem serveOne_unmap {s : State} {m : Nat} (rid vpn : Nat) (hb : (s.core m).mast.bad = []) (hw : (s.req (s.corePart m)).pageWork = []) :
    serveOne s m (.unmap rid vpn []) = s.updMast m fun _ => ((s.core m).mast.unmap' rid vpn).1.giveResult ((s.core m).mast.unmap' rid vpn).2 := by
  rw [serveOne, serveWalk_clean _ _ _ _ _ hb, serveUnmap, hw]
  exact answer_unasked _ _ _ _ _ hw

theorem serveOne_init {s : State} {m : Nat} (rid vpn g : Nat) (hw : (s.req (s.corePart m)).pageWork = []) :
    serveOne s m (.init rid vpn g) = s.updMast m fun _ =>
      ((s.core m).mast.init' (AMap.at (s.core m).geos {} (vpn / 65536)) g).1.giveResult ((s.core m).mast.init' (AMap.at (s.core m).geos {} (vpn / 65536)) g).2 :=
  answer_unasked _ _ _ _ _ hw

theorem serveOne_rebuild {s : State} {m : Nat} (hf : (s.core m).mast.failed = false) :
    serveOne s m .rebuild = s.updMast m fun x => ({ x with held := x.held ++ [.reload] } : Mast).giveResult 0 := by
  simp [serveOne, State.updMast, State.updCore, hf]

theorem serveOne_release {s : State} {m : Nat} (rid : Nat) (hb : (s.core m).mast.bad = []) (hw : (s.req (s.corePart m)).pageWork = []) :
    serveOne s m (.release rid []) = (s.updMast m fun _ => ((s.core m).mast.release' rid).1.giveResult ((s.core m).mast.release' rid).2).updReq (s.corePart m)
      fun x => { x with pageWork := x.pageWork.filter (fun w => !((w.core == m && w.rid == rid) && w.op == .unmap)), poolFull := x.poolFull.filter (fun f => f.2.1 != m) } := by
  rw [serveOne, walkFound_clean _ hb]
  simp only [serveRelease, hw, List.filter_nil, List.map_nil, List.foldl_nil]

/-! ### The table commands on a mast -/

theorem Mast.map'_ok {x y : Mast} {rid vpn g a : Nat} (wr : Bool) (hf : x.failed = false) (hg : x.pageBase ≤ g) (ht : g / 2048 ≤ x.tierMax)
    (hs : Memory.readN x.data (8 * g) 8 % 2 = 0) (ha : x.tableAddr rid vpn = (y, some a)) (he : Memory.readN y.data a 4 % 2 = 0) :
    x.map' rid vpn g wr = ({ y with
      data := Memory.writeN (Memory.writeN y.data a (1 + 2 * b2n wr + 2 ^ 16 * g) 4) (8 * g) (shadowEntry wr rid vpn) 8
      held := y.held ++ [.install g { wr := wr, rid := rid, vpn := vpn }] }, 0) := by
  simp [Mast.map', hf, hg, ht, hs, ha, he]

theorem Mast.unmap'_ok {x : Mast} {rid vpn a : Nat} (hf : x.failed = false) (ha : x.walk rid vpn = some a) (he : Memory.readN x.data a 4 % 2 = 1) :
    x.unmap' rid vpn = ({ x with
      data := Memory.clear (Memory.clear x.data a 4) (8 * (Memory.readN x.data a 4 / 2 ^ 16 % 2 ^ 13)) 8
      held := x.held ++ [.remove (Memory.readN x.data a 4 / 2 ^ 16 % 2 ^ 13)] }, 0) := by
  simp [Mast.unmap', hf, ha, he]

theorem Mast.release'_ok {x : Mast} (rid : Nat) (hf : x.failed = false) : (x.release' rid).2 = 0 ∧ (x.release' rid).1.answered = x.answered := by
  simp [Mast.release', hf]

theorem Mast.init'_ok {x : Mast} (geo : Geo) {g : Nat} (hf : x.failed = false) (hg : x.pageBase ≤ g) (ht : g / 2048 ≤ x.tierMax) :
    x.init' geo g = ({ x with
      data := initPage geo x.data (0x10000 * g)
      poison := x.poison.filter (fun r => decide (r < 512 * g) || decide (512 * g + 512 ≤ r)) }, 0) := by
  simp [Mast.init', hf, hg, ht]

/-! ### The statement -/

/-- In `t` core m's mast is `y`, and nothing else of the cores, the mesh, the mast block and the host interface differs from `s`. -/
def mastOnly (m : Nat) (y : Mast) (s t : State) : Prop :=
  (t.core m).mast = y ∧ { t.core m with mast := (s.core m).mast } = s.core m ∧ (∀ j, j ≠ m → t.core j = s.core j) ∧ t.fab = s.fab ∧ t.mst = s.mst ∧ t.host = s.host

theorem mastOnly_updMast (s : State) (m : Nat) (f : Mast → Mast) : mastOnly m (f (s.core m).mast) s (s.updMast m f) := by
  refine ⟨?_, ?_, fun j hj => s.core_updMast_ne f hj, rfl, rfl, rfl⟩
  · rw [State.core_updMast_same]
  · rw [State.core_updMast_same]

theorem mastOnly.updReq {m : Nat} {y : Mast} {s t : State} (h : mastOnly m y s t) (p : Nat) (f : ReqPart → ReqPart) : mastOnly m y s (t.updReq p f) := h

/-- Settles O30: between steps each command is served at once and leaves what its operation on the mast gives; within one it waits at the interface. -/
theorem mastTables : Obligations.MastTables := by
  intro m rid vpn g s
  have hcore : (s.setCore m (s.core m)).core m = s.core m := State.core_setCore_same ..
  refine ⟨fun hf hsteps hq hd hb hw => ?_, fun found hsteps hclosed => ?_⟩
  · have hbad : ((s.setCore m (s.core m)).core m).mast.bad = [] := hcore.symm ▸ hb
    refine ⟨fun wr y a hg ht hs ha he => ⟨_, rfl, ?_⟩, fun a ha he => ⟨_, rfl, ?_⟩, ⟨_, rfl, ?_⟩, ⟨_, rfl, ?_⟩, fun hg ht => ⟨_, rfl, ?_⟩⟩
    · rw [arriveOutside_now _ hsteps hq hd]
      have h := serveOne_map rid.toNat vpn.toNat g.toNat wr hbad hw
      rw [hcore, Mast.map'_ok wr hf hg ht hs ha he, State.updMast_setCore_core] at h
      exact h ▸ mastOnly_updMast s m _
    · rw [arriveOutside_now _ hsteps hq hd]
      have h := serveOne_unmap rid.toNat vpn.toNat hbad hw
      rw [hcore, Mast.unmap'_ok hf ha he, State.updMast_setCore_core] at h
      exact h ▸ mastOnly_updMast s m _
    · rw [arriveOutside_now _ hsteps hq hd]
      have h := serveOne_release rid.toNat hbad hw
      obtain ⟨hres, hans⟩ := Mast.release'_ok rid.toNat hf
      rw [hcore, hres, Mast.giveResult, hans, State.updMast_setCore_core] at h
      exact h ▸ (mastOnly_updMast s m _).updReq _ _
    · rw [arriveOutside_now _ hsteps hq hd]
      have h := serveOne_rebuild (s := s.setCore m (s.core m)) (hcore.symm ▸ hf)
      rw [State.updMast_setCore_core] at h
      exact h ▸ mastOnly_updMast s m _
    · rw [arriveOutside_now _ hsteps hq hd]
      have h := serveOne_init (s := s.setCore m (s.core m)) rid.toNat vpn.toNat g.toNat hw
      rw [hcore, Mast.init'_ok _ hf hg ht, State.updMast_setCore_core] at h
      exact h ▸ mastOnly_updMast s m _
  · have hwaits (o : Outside) : mastOnly m { (s.core m).mast with outside := (s.core m).mast.outside ++ [o] } s (arriveOutside s m o) :=
      arriveOutside_waits o hsteps hclosed ▸ mastOnly_updMast s m _
    exact ⟨fun wr => ⟨_, rfl, hwaits _⟩, ⟨_, rfl, hwaits _⟩, ⟨_, rfl, hwaits _⟩, ⟨_, rfl, hwaits _⟩, ⟨_, rfl, hwaits _⟩⟩

end Sys2Proof.Machine

namespace Sys2Proof.Machine

/-! ## What a mast finds in its rows, and what it counts (06 R127 to R129) -/

theorem cores_updMast_congr {s t : State} (h : t.cores = s.cores) (m : Nat) (f : Mast → Mast) : (t.updMast m f).cores = (s.updMast m f).cores := by
  simp only [State.updMast, State.updCore, State.setCore, core_congr h, h]

/-- The record of Table 6.8. -/
def mstRecord (m tier kind row rid : Nat) : Word × Word × Word :=
  (packFields 32 [(0, 14, m), (14, 2, tier), (16, 3, kind)], packFields 32 [(0, 20, row)], packFields 32 [(0, 16, rid)])

theorem works_countCorrected (s : State) (m row tier : Nat) : (countCorrected s m row tier).works =
    ((s.updMast m fun x => { x with ce := satAdd 0xFFFF x.ce 1 }).cores,
      { s.mst with log := s.mst.log.push (mstRecord m tier 0 row 0), ceTotal := satAdd 0xFFFFFFFF s.mst.ceTotal 1 }, s.fab, s.grp) := by
  have hw := works_mstLog s m tier 0 row 0
  simp only [State.works, Prod.mk.injEq] at hw
  obtain ⟨hcores, hmst, hfab, hgrp⟩ := hw
  refine (works_evrIndex ..).trans ?_
  simp only [State.works, Prod.mk.injEq]
  refine ⟨cores_updMast_congr hcores _ _, congrArg (fun x : MstBlock => { x with ceTotal := satAdd 0xFFFFFFFF x.ceTotal 1 }) hmst, hfab, hgrp⟩

theorem works_corrected (s : State) (m row tier : Nat) : (corrected s m row tier).works =
    ((s.updMast m fun x => { x with ce := satAdd 0xFFFF x.ce 1, writeBack := x.writeBack ++ [row + 0x100000 * tier] }).cores,
      { s.mst with log := s.mst.log.push (mstRecord m tier 0 row 0), ceTotal := satAdd 0xFFFFFFFF s.mst.ceTotal 1 }, s.fab, s.grp) := by
  have hw := works_countCorrected s m row tier
  simp only [State.works, Prod.mk.injEq] at hw
  obtain ⟨hcores, hmst, hfab, hgrp⟩ := hw
  simp only [corrected, State.works, Prod.mk.injEq]
  refine ⟨?_, hmst, hfab, hgrp⟩
  rw [cores_updMast_congr hcores, State.updMast_updMast]

/-- The first uncorrectable row that a mast finds is counted, listed and queued for its re-read, and the column stays. -/
theorem works_uncorrectable_first {s : State} {m row : Nat} (hb : row ∉ (s.core m).mast.bad) (hu : (s.core m).mast.ueRows = []) (hr : (s.core m).mast.reread = []) :
    (uncorrectable s m row).works =
      ((s.updMast m fun x => { x with ue := satAdd 0xFF x.ue 1, ueRows := [row], reread := [row] }).cores,
        { s.mst with log := s.mst.log.push (mstRecord m (row / 0x100000 % 4) 1 (row % 0x100000) 0), ueTotal := satAdd 0xFFFFFFFF s.mst.ueTotal 1 }, s.fab, s.grp) := by
  have hw := works_mstLog s m (row / 0x100000 % 4) 1 (row % 0x100000) 0
  simp only [State.works, Prod.mk.injEq] at hw
  obtain ⟨hcores, hmst, hfab, hgrp⟩ := hw
  have hkeep : ¬ ((s.core m).mast.bad.contains row = true ∨ 4 ≤ [row].length) := by simp [hb]
  have hmast (t : State) (h : t.cores = s.cores) : (t.updMast m fun y =>
      { y with ue := satAdd 0xFF y.ue 1, ueRows := [row], reread := if y.bad.contains row || y.reread.contains row then y.reread else y.reread ++ [row] }).cores =
      (s.updMast m fun x => { x with ue := satAdd 0xFF x.ue 1, ueRows := [row], reread := [row] }).cores := by
    rw [cores_updMast_congr h]
    simp [State.updMast, State.updCore, State.setCore, hb, hr]
  simp only [uncorrectable, hu, List.contains_nil, Bool.false_eq_true, if_false, List.nil_append, hkeep, State.works, Prod.mk.injEq]
  refine ⟨hmast _ hcores, congrArg (fun x : MstBlock => { x with ueTotal := satAdd 0xFFFFFFFF x.ueTotal 1 }) hmst, hfab, hgrp⟩

theorem mst_coreFault (s : State) (m code : Nat) : (coreFault s m code).mst = s.mst :=
  congrArg (fun x : AMap Core × MstBlock × Fabric × (Nat → Group) => x.2.1) (works_raiseFault s (s.corePart m) code (m / 192) (m % 192))

/-- A fault of a core leaves the cores and the mast block, whether a partition owns the field or not. -/
theorem ownedFault_keeps (s : State) (m code : Nat) : (ownedFault s m code).cores = s.cores ∧ (ownedFault s m code).mst = s.mst := by
  unfold ownedFault
  split
  · exact ⟨cores_coreFaultAt .., mst_coreFault ..⟩
  · have hw := works_evrFault s code 0xFF (m / 192) (m % 192) none
    simp only [State.works, Prod.mk.injEq] at hw
    exact ⟨hw.1, hw.2.1⟩


/-! ## Landings, acknowledgements and accesses from outside (O28) -/

/-! ### A row lands -/

/-- A row that lands on a core with nothing on its way, in EMPTY slots under no fence: its slot pair is written, its entry counted down, and nothing else changes. -/
theorem landRow_well {s : State} {m : Nat} {l : Landing} (poison : Bool) (h : (s.core m).still) (hw : Memory.wf (s.core m).pad = true)
    (hg : ∀ j, l.addr / 64 ≤ j → j < l.addr / 64 + 2 → ((s.core m).tell j).st = .empty ∧ (s.core m).fenced j = false) :
    ∃ d : Core, landRow s m l poison = s.setCore m (d.stepTrk l.trk) ∧
      { d with pad := (s.core m).pad, tells := (s.core m).tells, seen := (s.core m).seen, taken := (s.core m).taken } = s.core m ∧
      (∀ b, Memory.read d.pad b = if 64 * (l.addr / 64) ≤ b ∧ b < 64 * (l.addr / 64) + 128
        then BitVec.ofNat 8 ((if poison then 2 ^ 1024 - 1 else l.data.toNat) >>> (8 * (b - 64 * (l.addr / 64)))) else Memory.read (s.core m).pad b) ∧
      ∀ j, d.tell j = if l.addr / 64 ≤ j ∧ j < l.addr / 64 + 2 then ⟨if poison then .poison else if l.hold then .held else .full, l.tag⟩ else (s.core m).tell j := by
  obtain ⟨n, k, hsettle⟩ := settle_still h (l.due + 1 - bankLat l.addr)
  have hgood := writeSlots_good l.handle l.tag l.hold poison 2 (l.addr / 64) (if poison then 2 ^ 1024 - 1 else l.data.toNat) ((s.core m).atFc n k) hw hg
  simp only [landRow, hsettle, State.core_setCore_same, State.setCore_setCore]
  generalize writeSlots l.handle l.tag l.hold poison 2 (l.addr / 64) (if poison then 2 ^ 1024 - 1 else l.data.toNat) ((s.core m).atFc n k, none) = r at hgood ⊢
  obtain ⟨d, v⟩ := r
  obtain ⟨hv, hframe, -, hpad, htell⟩ := hgood
  dsimp only at hv hframe hpad htell
  subst hv
  exact ⟨d, rfl, congrArg (fun c : Core => { c with seen := (s.core m).seen, taken := (s.core m).taken }) hframe, hpad, htell⟩

/-- The module after the front row of a core's landing buffer has been taken out, its cycle reached. -/
def landed (s : State) (m : Nat) (l : Landing) (r : List Landing) : State :=
  (s.updCore m fun c => { c with lands := r }).updGrp (s.corePart m) fun g => if g.stalled.isSome then g else { g with cyc := max g.cyc l.due }

theorem core_landed (s : State) (m : Nat) (l : Landing) (r : List Landing) : (landed s m l r).core m = { s.core m with lands := r } :=
  s.core_updCore_same m fun c => { c with lands := r }

theorem core_landed_ne (s : State) {m j : Nat} (l : Landing) (r : List Landing) (h : j ≠ m) : (landed s m l r).core j = s.core j :=
  s.core_updCore_ne (fun c => { c with lands := r }) h

theorem grp_landed {s : State} {m : Nat} (l : Landing) (r : List Landing) (h : (s.grp (s.corePart m)).stalled = none) :
    (landed s m l r).grp (s.corePart m) = { s.grp (s.corePart m) with cyc := max (s.grp (s.corePart m)).cyc l.due } := by
  rw [landed, State.grp_updGrp_same]
  have hlow : ((s.updCore m fun c => { c with lands := r }).grp (s.corePart m)).stalled = none := h
  exact if_neg (by rw [hlow]; exact Bool.false_ne_true)

theorem part_updGrp_same (s : State) (p : Nat) (f : Group → Group) : (s.updGrp p f).part p = { s.part p with grp := f (s.grp p) } := s.part_updPart_same p _

theorem onlyCyc_landed (s : State) (m : Nat) (l : Landing) (r : List Landing) : onlyCyc s (landed s m l r) := by
  intro p
  by_cases hp : p = s.corePart m
  · subst hp
    rw [landed, part_updGrp_same, State.grp_updGrp_same]
    split <;> rfl
  · have hpart : (landed s m l r).part p = s.part p := State.part_updPart_ne _ _ hp
    rw [State.grp, hpart]
    rfl

theorem mayLand_of_low {s : State} {m : Nat} (l : Landing) (h : (s.grp (s.corePart m)).stalled = none) : mayLand s m l = true := by simp [mayLand, h]

theorem mayLand_late {s : State} {m u : Nat} {l : Landing} (h : (s.grp (s.corePart m)).stalled = some u) (hg : (s.grp (s.corePart m)).guarded = false) (hu : u < l.due) :
    mayLand s m l = false := by
  simp [mayLand, h, State.guarded, hg, Nat.not_le.2 hu]

theorem execMastRowLand_clean {m : Fin 9216} {s : State} {l : Landing} {r : List Landing} (hl : (s.core m).lands = l :: r) (hlow : (s.grp (s.corePart m)).stalled = none)
    (hp : l.poison = false) (hb : l.row ∉ (s.core m).mast.bad) : execMastRowLand m .clean s = .next (landRow (landed s m l r) m l false) := by
  simp [execMastRowLand, hl, mayLand_of_low l hlow, hp, hb, landed]

theorem execMastRowLand_uncorrectable {m : Fin 9216} {s : State} {l : Landing} {r : List Landing} (hl : (s.core m).lands = l :: r)
    (hlow : (s.grp (s.corePart m)).stalled = none) (hp : l.poison = false) :
    execMastRowLand m .uncorrectable s = .next (coreFault (uncorrectable (landRow (landed s m l r) m l true) m l.row) m 0x04) := by
  simp [execMastRowLand, hl, mayLand_of_low l hlow, hp, landed]

theorem execMastRowLand_late {m : Fin 9216} {s : State} {l : Landing} {r : List Landing} {u : Nat} (ecc : Ecc) (hl : (s.core m).lands = l :: r)
    (hs : (s.grp (s.corePart m)).stalled = some u) (hg : (s.grp (s.corePart m)).guarded = false) (hu : u < l.due) : execMastRowLand m ecc s = .next s := by
  simp [execMastRowLand, hl, mayLand_late hs hg hu]

/-! ### Acknowledgements -/

/-- An append whose records are good and whose rows are good places its records and marks no row. -/
theorem Mast.place_good (x : Mast) (g : Geo) {a : Append} (h : ∀ b ∈ a.poison, b = false) : x.place g a none = { x with
    data := ((List.range a.recs.length).zip a.recs).foldl (fun d e => placeRecord g d (a.pma / 0x10000 * 0x10000) (a.pma % 0x10000 / max a.rs 1 + e.1) e.2) x.data } := by
  have hclean (l : List Nat) : (l.zip a.poison).filter (·.2) = [] := List.filter_eq_nil_iff.2 fun e he => by simp [h e.2 (List.of_mem_zip he).2]
  simp only [Mast.place, hclean, List.flatMap_nil, Option.toList_none, List.append_nil, List.filter_nil, List.eraseDups_nil]
  simp only [List.zip_map_left, List.foldl_map]
  rfl

theorem execKvapqAck_good {m : Fin 9216} {s : State} {a : Append} {r : List Append} (ha : (s.core m).appends = a :: r)
    (hb : ∀ k ∈ appendRows (AMap.at (s.core m).geos {} a.space) a, a.pma / 0x10000 * 512 + k ∉ (s.core m).mast.bad) :
    execKvapqAck m [] s = .next (s.updCore m fun c => ({ c with appends := r, mast := c.mast.place (AMap.at (s.core m).geos {} a.space) a none } : Core).freeTrk a.trk) := by
  have hbad : (appendRows (AMap.at (s.core m).geos {} a.space) a).filter
      (fun k => ([] : List (Fin 512 × Bool)).contains (Fin.ofNat 512 k, true) || (s.core m).mast.bad.contains (a.pma / 0x10000 * 512 + k)) = [] :=
    List.filter_eq_nil_iff.2 fun k hk => by simpa using hb k hk
  simp only [execKvapqAck, ha, hbad]
  simp

/-! ### Accesses from outside -/

/-- What the mast finds in the row of an access. -/
def accessFound (row : Nat) : Ecc → List (Nat × Bool)
  | .corrected => [(row, false)]
  | .uncorrectable => [(row, true)]
  | .clean => []

theorem execOutsideMastAccess_allowed {m : Fin 9216} {s : State} (write : Bool) {mark : Bool} {q : Fin 64} (row : Fin 0x400000) (x : Row) (ecc : Ecc)
    (h : mark = true ∨ (q.val = s.corePart m ∧ (s.field (m / 192)).owned = true)) :
    execOutsideMastAccess m write mark q row ⟨x, ecc⟩ s = .next (arriveOutside s m (.access write q mark (128 * row.val) x (accessFound row ecc))) := by
  have hok : (!mark && (q.val != s.corePart m || !(s.field (m / 192)).owned)) = false := by
    rcases h with hm | ⟨hq, ho⟩
    · simp [hm]
    · simp [hq, ho]
  unfold execOutsideMastAccess
  rw [hok]
  cases ecc <;> rfl

theorem execOutsideMastAccess_refused {m : Fin 9216} {s : State} (write : Bool) {q : Fin 64} (row : Fin 0x400000) (x : OutsideRow) (h : q.val ≠ s.corePart m) :
    execOutsideMastAccess m write false q row x s = .next (
      if write then mstLog s m (tierOf (128 * row.val)) 6 0 q
      else (mstLog s m (tierOf (128 * row.val)) 6 0 q).updMast m fun y => { y with answered := y.answered ++ [.row true true (BitVec.allOnes 1024)] }) := by
  simp [execOutsideMastAccess, h]

theorem serveAccess_read_clean {s : State} {m a : Nat} (d : Row) (hb : a / 128 ∉ (s.core m).mast.bad) :
    serveAccess s m false a d [] = s.updMast m fun x => { x with answered := x.answered ++ [.row false ((s.core m).mast.rowRead a).2 ((s.core m).mast.rowRead a).1] } := by
  simp [serveAccess, hb, rowsFound]

theorem serveAccess_read_uncorrectable {s : State} {m row : Nat} (d : Row) (hp : row ∉ (s.core m).mast.poison) :
    serveAccess s m false (128 * row) d [(row, true)] =
      ownedFault (uncorrectable (s.updMast m fun x => { x with answered := x.answered ++ [.row false true (BitVec.allOnes 1024)] }) m row) m 0x04 := by
  simp [serveAccess, hp, rowsFound]

theorem serveAccess_read_corrected {s : State} {m row : Nat} (d : Row) (hb : row ∉ (s.core m).mast.bad) (hp : row ∉ (s.core m).mast.poison) :
    serveAccess s m false (128 * row) d [(row, false)] =
      corrected (s.updMast m fun x => { x with answered := x.answered ++ [.row false false ((s.core m).mast.rowRead (128 * row)).1] }) m (row % 0x100000) (row / 0x100000 % 4) := by
  simp [serveAccess, hb, hp, rowsFound, Mast.rowRead]

/-- A state that changes one mast changes nothing else of the module. -/
theorem onlyOneCore_updMast {s : State} {m : Nat} {f : Mast → Mast} {C : Core → Core → Prop} (h : C (s.core m) { s.core m with mast := f (s.core m).mast }) :
    onlyOneCore m C s (s.updMast m f) := by
  refine ⟨rfl, fun j hj => s.core_updMast_ne f hj, ?_⟩
  rw [State.core_updMast_same]
  exact h

/-- A write from outside replaces the row and its marker. -/
theorem served_write {s : State} {m row : Nat} (q : Nat) (mark : Bool) (d : Row) (found : List (Nat × Bool)) (hsteps : s.coreSteps m = false)
    (hq : (s.core m).mast.outside = []) (hd : (s.core m).mast.svcDone = 0) :
    arriveOutside s m (.access true q mark (128 * row) d found) = s.updMast m fun x => x.rowWrite (128 * row) d false := by
  rw [arriveOutside_now _ hsteps hq hd, serveOne, serveAccess, if_pos rfl, State.updMast_setCore_core]

/-- A read from outside of a good row answers it. -/
theorem served_read {s : State} {m row : Nat} (q : Nat) (mark : Bool) (d : Row) (hsteps : s.coreSteps m = false)
    (hq : (s.core m).mast.outside = []) (hd : (s.core m).mast.svcDone = 0) (hb : row ∉ (s.core m).mast.bad) :
    arriveOutside s m (.access false q mark (128 * row) d []) =
      s.updMast m fun x => { x with answered := x.answered ++ [.row false ((s.core m).mast.rowRead (128 * row)).2 ((s.core m).mast.rowRead (128 * row)).1] } := by
  have hcore : (s.setCore m (s.core m)).core m = s.core m := State.core_setCore_same ..
  rw [arriveOutside_now _ hsteps hq hd, serveOne, serveAccess_read_clean d (by rw [hcore, Nat.mul_div_cancel_left _ (by omega)]; exact hb), hcore, State.updMast_setCore_core]

theorem Mast.data_rowWrite (x : Mast) (a : Nat) (d : Row) (poison : Bool) : (x.rowWrite a d poison).data = Memory.writeN x.data a d.toNat 128 := by
  rw [Mast.rowWrite]

theorem Mast.mem_poison_rowWrite (x : Mast) (a : Nat) (d : Row) (n : Nat) : n ∈ (x.rowWrite a d false).poison ↔ n ∈ x.poison ∧ n ≠ a / 128 := by
  simp [Mast.rowWrite]

/-- What an access from outside leaves of a core: its answer, the row that a write brings, and no marker on that row. -/
def accessed (write : Bool) (row : Nat) (x : Row) (c d : Core) : Prop :=
  d.mast.answered = (if write then c.mast.answered else
    c.mast.answered ++ [.row false (c.mast.rowRead (128 * row)).2 (c.mast.rowRead (128 * row)).1]) ∧
  (Memory.wf c.mast.data = true → ∀ b, Memory.read d.mast.data b = if write = true ∧ 128 * row ≤ b ∧ b < 128 * row + 128
    then BitVec.ofNat 8 (x.toNat >>> (8 * (b - 128 * row))) else Memory.read c.mast.data b) ∧
  (∀ n, n ∈ d.mast.poison ↔ n ∈ c.mast.poison ∧ ¬ (write = true ∧ n = row)) ∧
  { d with mast := { d.mast with answered := c.mast.answered, data := c.mast.data, poison := c.mast.poison } } = c

theorem accessed_write (row : Nat) (x : Row) (c : Core) : accessed true row x c { c with mast := c.mast.rowWrite (128 * row) x false } := by
  have hpoison := c.mast.mem_poison_rowWrite (128 * row) x
  simp only [Mast.rowWrite, Bool.false_eq_true, if_false, Nat.mul_div_cancel_left row (Nat.succ_pos 127)] at hpoison
  simp only [accessed, Mast.rowWrite, Bool.false_eq_true, if_false, if_true, true_and, and_true, Nat.mul_div_cancel_left row (Nat.succ_pos 127)]
  refine ⟨fun hw b => ?_, hpoison⟩
  rw [Memory.read_writeN _ _ _ hw]

theorem accessed_read (row : Nat) (x : Row) (c : Core) : accessed false row x c { c with mast := { c.mast with
    answered := c.mast.answered ++ [.row false (c.mast.rowRead (128 * row)).2 (c.mast.rowRead (128 * row)).1] } } := by
  refine ⟨rfl, fun hw b => ?_, fun n => ?_, rfl⟩
  · simp
  · simp

theorem served_access {s : State} {m row : Nat} (write : Bool) (q : Nat) (mark : Bool) (x : Row) (ecc : Ecc) (hsteps : s.coreSteps m = false)
    (hq : (s.core m).mast.outside = []) (hd : (s.core m).mast.svcDone = 0) (h : write = true ∨ (row ∉ (s.core m).mast.bad ∧ ecc = .clean)) :
    onlyOneCore m (accessed write row x) s (arriveOutside s m (.access write q mark (128 * row) x (accessFound row ecc))) := by
  cases write with
  | true =>
    rw [served_write q mark x _ hsteps hq hd]
    exact onlyOneCore_updMast (accessed_write row x _)
  | false =>
    obtain ⟨hb, rfl⟩ := h.resolve_left Bool.false_ne_true
    rw [accessFound, served_read q mark x hsteps hq hd hb]
    exact onlyOneCore_updMast (accessed_read row x _)

/-- What the first uncorrectable row leaves of its mast and of the mast block, in any state with their cores and their block. -/
theorem uncorrectable_first {s t : State} {m row : Nat} (hb : row ∉ (s.core m).mast.bad) (hu : (s.core m).mast.ueRows = []) (hr : (s.core m).mast.reread = [])
    (hcores : t.cores = (uncorrectable s m row).cores) (hmst : t.mst = (uncorrectable s m row).mst) :
    t.core m = { s.core m with mast := { (s.core m).mast with ue := min 0xFF ((s.core m).mast.ue + 1), ueRows := [row], reread := [row] } } ∧
      t.mst.ueTotal = min 0xFFFFFFFF (s.mst.ueTotal + 1) := by
  have hw := works_uncorrectable_first hb hu hr
  simp only [State.works, Prod.mk.injEq] at hw
  obtain ⟨hc, hm, -, -⟩ := hw
  rw [core_congr (hcores.trans hc), State.core_updMast_same, hmst, hm]
  simp only [satAdd_eq_min, and_self]

theorem corrected_core (s : State) (m row tier : Nat) : (corrected s m row tier).core m = { s.core m with mast := { (s.core m).mast with
    ce := min 0xFFFF ((s.core m).mast.ce + 1), writeBack := (s.core m).mast.writeBack ++ [row + 0x100000 * tier] } } ∧
    (corrected s m row tier).mst.ceTotal = min 0xFFFFFFFF (s.mst.ceTotal + 1) := by
  have hw := works_corrected s m row tier
  simp only [State.works, Prod.mk.injEq] at hw
  obtain ⟨hc, hm, -, -⟩ := hw
  rw [core_congr hc, State.core_updMast_same, hm]
  simp only [satAdd_eq_min, and_self]

theorem served_uncorrectable {s : State} {m row : Nat} (q : Nat) (mark : Bool) (x : Row) (hsteps : s.coreSteps m = false) (hq : (s.core m).mast.outside = [])
    (hd : (s.core m).mast.svcDone = 0) (hp : row ∉ (s.core m).mast.poison) :
    arriveOutside s m (.access false q mark (128 * row) x [(row, true)]) =
      ownedFault (uncorrectable (s.updMast m fun x => { x with answered := x.answered ++ [.row false true (BitVec.allOnes 1024)] }) m row) m 0x04 := by
  have hcore : (s.setCore m (s.core m)).core m = s.core m := State.core_setCore_same ..
  rw [arriveOutside_now _ hsteps hq hd, serveOne, serveAccess_read_uncorrectable x (by rw [hcore]; exact hp), State.updMast_setCore_core]

theorem served_corrected {s : State} {m row : Nat} (q : Nat) (mark : Bool) (x : Row) (hsteps : s.coreSteps m = false) (hq : (s.core m).mast.outside = [])
    (hd : (s.core m).mast.svcDone = 0) (hb : row ∉ (s.core m).mast.bad) (hp : row ∉ (s.core m).mast.poison) :
    arriveOutside s m (.access false q mark (128 * row) x [(row, false)]) =
      corrected (s.updMast m fun x => { x with answered := x.answered ++ [.row false false ((s.core m).mast.rowRead (128 * row)).1] }) m (row % 0x100000) (row / 0x100000 % 4) := by
  have hcore : (s.setCore m (s.core m)).core m = s.core m := State.core_setCore_same ..
  rw [arriveOutside_now _ hsteps hq hd, serveOne, serveAccess_read_corrected x (by rw [hcore]; exact hb) (by rw [hcore]; exact hp), hcore, State.updMast_setCore_core]

/-! ### What each event leaves, as the statement has it -/

theorem clean_landing {s : State} {m : Fin 9216} {l : Landing} (r : List Landing) (hstill : (s.core m).still) (hlow : (s.grp (s.corePart m)).stalled = none)
    (hw : Memory.wf (s.core m).pad = true) (hg : ∀ j, l.addr / 64 ≤ j → j < l.addr / 64 + 2 → ((s.core m).tell j).st = .empty ∧ (s.core m).fenced j = false) :
    let c := s.core m
    let t := landRow (landed s m l r) m l false
    let d := t.core m
    (∀ b, Memory.read d.pad b = if 64 * (l.addr / 64) ≤ b ∧ b < 64 * (l.addr / 64) + 128
      then BitVec.ofNat 8 (l.data.toNat >>> (8 * (b - 64 * (l.addr / 64)))) else Memory.read c.pad b) ∧
    (∀ j, d.tell j = if l.addr / 64 ≤ j ∧ j < l.addr / 64 + 2 then ⟨if l.hold then .held else .full, l.tag⟩ else c.tell j) ∧
    d.lands = r ∧ d.tracks = (c.stepTrk l.trk).tracks ∧
    { d with pad := c.pad, tells := c.tells, seen := c.seen, taken := c.taken, lands := c.lands, tracks := c.tracks } = c ∧
    (t.grp (s.corePart m)).cyc = max (s.grp (s.corePart m)).cyc l.due ∧ onlyCore m s t ∧ onlyCyc s t := by
  obtain ⟨d, hland, hframe, hpad, htell⟩ := landRow_well (s := landed s m l r) (l := l) false (by rw [core_landed]; exact hstill) (by rw [core_landed]; exact hw)
    (by rw [core_landed]; exact hg)
  rw [core_landed] at hframe hpad htell
  have htrk : (d.stepTrk l.trk).tracks = ((s.core m).stepTrk l.trk).tracks := by
    have : d.tracks = (s.core m).tracks := (congrArg Core.tracks hframe :)
    simp only [Core.stepTrk, this]
  dsimp only
  rw [hland, State.core_setCore_same]
  refine ⟨hpad, htell, (congrArg Core.lands hframe :), htrk, ?_, ?_, ⟨rfl, fun j hj => ?_⟩, onlyCyc_landed s m l r⟩
  · exact (congrArg (fun c : Core => { c with lands := (s.core m).lands, tracks := (s.core m).tracks }) hframe :)
  · exact congrArg Group.cyc (grp_landed l r hlow)
  · rw [State.core_setCore_ne _ _ hj, core_landed_ne s l r hj]

theorem uncorrectable_landing {s : State} {m : Fin 9216} {l : Landing} (r : List Landing) (hstill : (s.core m).still) (hlow : (s.grp (s.corePart m)).stalled = none)
    (hb : (s.core m).mast.bad = []) (hu : (s.core m).mast.ueRows = []) (hr : (s.core m).mast.reread = []) (hin : (s.grp (s.corePart m)).inStep = true)
    (hw : Memory.wf (s.core m).pad = true) (hg : ∀ j, l.addr / 64 ≤ j → j < l.addr / 64 + 2 → ((s.core m).tell j).st = .empty ∧ (s.core m).fenced j = false) :
    let t := coreFault (uncorrectable (landRow (landed s m l r) m l true) m l.row) m 0x04
    let d := t.core m
    (∀ j, l.addr / 64 ≤ j → j < l.addr / 64 + 2 → d.tell j = ⟨.poison, l.tag⟩) ∧ d.mast.ue = min 0xFF ((s.core m).mast.ue + 1) ∧ d.mast.ueRows = [l.row] ∧
      d.mast.reread = [l.row] ∧ t.mst.ueTotal = min 0xFFFFFFFF (s.mst.ueTotal + 1) ∧ ∃ f ∈ (t.grp (s.corePart m)).faults, f.code = 4 := by
  obtain ⟨d, hland, hframe, -, htell⟩ := landRow_well (s := landed s m l r) (l := l) true (by rw [core_landed]; exact hstill) (by rw [core_landed]; exact hw)
    (by rw [core_landed]; exact hg)
  rw [core_landed] at hframe htell
  rw [hland]
  generalize hu' : (landed s m l r).setCore m (d.stepTrk l.trk) = u
  have hcu : u.core m = d.stepTrk l.trk := by rw [← hu', State.core_setCore_same]
  have hmu : (u.core m).mast = (s.core m).mast := by
    rw [hcu]
    exact (congrArg Core.mast hframe :)
  have hbu : l.row ∉ (u.core m).mast.bad := by rw [hmu, hb]; exact List.not_mem_nil
  have hwu := works_uncorrectable_first hbu (by rw [hmu, hu]) (by rw [hmu, hr])
  simp only [State.works, Prod.mk.injEq] at hwu
  obtain ⟨-, -, hfab, hgrp⟩ := hwu
  have hpart : (uncorrectable u m l.row).corePart m = s.corePart m := by rw [corePart_congr hfab, ← hu']; rfl
  have hstep : ((uncorrectable u m l.row).grp ((uncorrectable u m l.row).corePart m)).inStep = true := by
    rw [hpart, hgrp, ← hu']
    exact (congrArg Group.inStep (grp_landed l r hlow)).trans hin
  obtain ⟨hcores, hmst, hfault⟩ := coreFault_fails 4 hstep
  obtain ⟨hcore, htotal⟩ := uncorrectable_first hbu (by rw [hmu, hu]) (by rw [hmu, hr]) hcores hmst
  rw [hpart] at hfault
  dsimp only
  rw [hcore, htotal, hmu, hcu]
  refine ⟨fun j h1 h2 => (htell j).trans (if_pos ⟨h1, h2⟩), rfl, rfl, rfl, ?_, hfault⟩
  rw [← hu']
  rfl

/-- A read of a row found uncorrectable answers poison, and the row is counted and queued for its re-read. -/
theorem read_uncorrectable {s : State} {m row : Nat} (q : Nat) (mark : Bool) (x : Row) (hsteps : s.coreSteps m = false) (hq : (s.core m).mast.outside = [])
    (hd : (s.core m).mast.svcDone = 0) (hb : row ∉ (s.core m).mast.bad) (hp : row ∉ (s.core m).mast.poison) (hu : (s.core m).mast.ueRows = [])
    (hr : (s.core m).mast.reread = []) :
    let t := arriveOutside s m (.access false q mark (128 * row) x [(row, true)])
    let n := (t.core m).mast
    n.answered = (s.core m).mast.answered ++ [.row false true (BitVec.allOnes 1024)] ∧ n.ue = min 0xFF ((s.core m).mast.ue + 1) ∧ n.reread = [row] ∧
      t.mst.ueTotal = min 0xFFFFFFFF (s.mst.ueTotal + 1) ∧ ∀ b, Memory.read n.data b = Memory.read (s.core m).mast.data b := by
  obtain ⟨hcores, hmst⟩ := ownedFault_keeps (uncorrectable (s.updMast m fun x => { x with answered := x.answered ++ [.row false true (BitVec.allOnes 1024)] }) m row) m 0x04
  obtain ⟨hcore, htotal⟩ := uncorrectable_first (by rw [State.core_updMast_same]; exact hb) (by rw [State.core_updMast_same]; exact hu)
    (by rw [State.core_updMast_same]; exact hr) hcores hmst
  rw [State.core_updMast_same] at hcore
  dsimp only
  rw [served_uncorrectable q mark x hsteps hq hd hp, hcore, htotal]
  exact ⟨rfl, rfl, rfl, rfl, fun _ => rfl⟩

/-- A read of a row found corrected answers it, and the row is counted and queued for its write-back. -/
theorem read_corrected {s : State} {m : Nat} {row : Fin 0x400000} (q : Nat) (mark : Bool) (x : Row) (hsteps : s.coreSteps m = false) (hq : (s.core m).mast.outside = [])
    (hd : (s.core m).mast.svcDone = 0) (hb : row.val ∉ (s.core m).mast.bad) (hp : row.val ∉ (s.core m).mast.poison) :
    let t := arriveOutside s m (.access false q mark (128 * row.val) x [(row.val, false)])
    let n := (t.core m).mast
    n.answered = (s.core m).mast.answered ++ [.row false false ((s.core m).mast.rowRead (128 * row.val)).1] ∧ n.ce = min 0xFFFF ((s.core m).mast.ce + 1) ∧
      n.writeBack = (s.core m).mast.writeBack ++ [row.val] ∧ t.mst.ceTotal = min 0xFFFFFFFF (s.mst.ceTotal + 1) ∧
      ∀ b, Memory.read n.data b = Memory.read (s.core m).mast.data b := by
  obtain ⟨hcore, htotal⟩ := corrected_core
    (s.updMast m fun y => { y with answered := y.answered ++ [.row false false ((s.core m).mast.rowRead (128 * row.val)).1] }) m (row.val % 0x100000) (row.val / 0x100000 % 4)
  have hrow : row.val % 0x100000 + 0x100000 * (row.val / 0x100000 % 4) = row.val := by
    have := row.isLt
    omega
  rw [State.core_updMast_same, hrow] at hcore
  dsimp only
  rw [served_corrected q mark x hsteps hq hd hb hp, hcore, htotal]
  exact ⟨rfl, rfl, rfl, rfl, fun _ => rfl⟩

/-- An access refused across partitions is logged; a read answers poison. -/
theorem refused_access (s : State) (m : Nat) (write : Bool) (q row : Nat) :
    let t := if write then mstLog s m (tierOf (128 * row)) 6 0 q
      else (mstLog s m (tierOf (128 * row)) 6 0 q).updMast m fun y => { y with answered := y.answered ++ [.row true true (BitVec.allOnes 1024)] }
    t.mst.log = s.mst.log.push (packFields 32 [(0, 14, m), (14, 2, tierOf (128 * row)), (16, 3, 6)], 0#32, packFields 32 [(0, 16, q)]) ∧
      (t.core m).mast.answered = (if write then (s.core m).mast.answered else (s.core m).mast.answered ++ [.row true true (BitVec.allOnes 1024)]) ∧
      { t.core m with mast := { (t.core m).mast with answered := (s.core m).mast.answered } } = s.core m ∧ ∀ j, t.grp j = s.grp j := by
  have hw := works_mstLog s m (tierOf (128 * row)) 6 0 q
  simp only [State.works, Prod.mk.injEq] at hw
  obtain ⟨hcores, hmst, -, hgrp⟩ := hw
  cases write with
  | true =>
    refine ⟨congrArg MstBlock.log hmst, ?_, ?_, fun j => congrFun hgrp j⟩
    · rw [if_pos rfl, core_congr hcores]
      rfl
    · rw [if_pos rfl, core_congr hcores]
  | false =>
    refine ⟨congrArg MstBlock.log hmst, ?_, ?_, fun j => congrFun hgrp j⟩
    · rw [if_neg Bool.false_ne_true, State.core_updMast_same, core_congr hcores]
      rfl
    · rw [if_neg Bool.false_ne_true, State.core_updMast_same, core_congr hcores]

/-! ### The statement -/

/-- Settles O28: what each event does is one of the operations above, in the state that the event finds. -/
theorem mastTraffic : Obligations.MastTraffic := by
  intro m s
  refine ⟨fun l r hl hstill hlow hp hb hfree => ?_, fun l r u ecc hl hs hg hu => ?_, fun k hk => ?_, fun a r ha hpoison hbad => ?_,
    fun write mark q row x ecc => ⟨fun hok => ⟨fun hsteps hclosed => ?_, fun hsteps hq hd hclean => ?_, fun hsteps hq hd hread hb hpoison => ?_⟩, fun hmark hq => ?_⟩,
    fun l r hl hstill hlow hp hb hu hr hin hfree => ?_⟩
  · obtain ⟨hw, hg⟩ := hfree
    exact ⟨_, execMastRowLand_clean hl hlow hp hb, clean_landing r hstill hlow hw hg⟩
  · exact ⟨s, execMastRowLand_late ecc hl hs hg hu, rfl⟩
  · refine ⟨_, rfl, rfl, fun j hj => s.core_updCore_ne _ hj, ?_⟩
    rw [State.core_updCore_same, hk]
    rfl
  · refine ⟨_, execKvapqAck_good ha hbad, rfl, fun j hj => s.core_updCore_ne _ hj, ?_⟩
    rw [State.core_updCore_same, Mast.place_good _ _ hpoison]
    exact ⟨rfl, rfl, rfl, rfl⟩
  · refine ⟨_, execOutsideMastAccess_allowed write row x ecc hok, ?_⟩
    rw [arriveOutside_waits _ hsteps hclosed]
    exact onlyOneCore_updMast ⟨_, rfl⟩
  · exact ⟨_, execOutsideMastAccess_allowed write row x ecc hok, served_access write q mark x ecc hsteps hq hd hclean⟩
  · subst hread
    refine ⟨fun hecc hu hr => ⟨_, execOutsideMastAccess_allowed false row x ecc hok, ?_⟩, fun hecc => ⟨_, execOutsideMastAccess_allowed false row x ecc hok, ?_⟩⟩
    · subst hecc
      exact read_uncorrectable q mark x hsteps hq hd hb hpoison hu hr
    · subst hecc
      exact read_corrected q mark x hsteps hq hd hb hpoison
  · subst hmark
    exact ⟨_, execOutsideMastAccess_refused write row ⟨x, ecc⟩ hq, refused_access s m write q row⟩
  · obtain ⟨hw, hg⟩ := hfree
    exact ⟨_, execMastRowLand_uncorrectable hl hlow hp, uncorrectable_landing r hstill hlow hb hu hr hin hw hg⟩

end Sys2Proof.Machine

namespace Sys2Proof.Machine

/-! ## Mast reads and writes (O24) -/

/-! ### MRD -/

/-- The cycle from which a flat read from byte `pma` that issues in fc `k` seeks the data path. -/
def mrdFrom (m : Mast) (k pma : Nat) : Nat := max (k + tierLat (tierOf pma)) (m.path + 1)

/-- The path cycles of its rows. -/
def mrdDues (m : Mast) (k pma n : Nat) : List Nat := pathCycles m.refEnd (mrdFrom m k pma) n

/-- The cycle in which the schedule uses the data of a read. -/
def mrdWant (m : Mast) (a : Dword) (k n : Nat) : Nat := m.planned (k + tierLat (m.budgetTier a)) n

/-- The landings of a flat read of `n` rows from byte `pma` into the slots from byte `dst` of handle `ph`. -/
def mrdLands (q : Issue) (w : BitVec 80) (c : Core) (k ph dst pma : Nat) : List Landing :=
  let n := bitsN w 35 5 + 1
  (List.range n).map fun i => {
    trk := c.nextTrk, ctx := q.ctx, handle := ph, addr := dst + 128 * i, tag := tagOf (c.tc q.ctx).seq (mvSpo w).tag, hold := (mvSpo w).hold
    due := (mrdDues c.mast k pma n).getD i 0, want := mrdWant c.mast ((c.tc q.ctx).rdS (mvAreg w)).val k n
    data := (c.mast.rowRead (pma + 128 * i)).1, poison := (c.mast.rowRead (pma + 128 * i)).2, row := pma / 128 + i, rid := 0 }

/-- A core with further landings, its data path taken and planned. -/
def Core.awaits (c : Core) (ls : List Landing) (path plan : Nat) : Core := { c with lands := c.lands ++ ls, mast := { c.mast with path := path, plan := plan } }

/-- The core that an MRD leaves. -/
def Core.mrdDone (c : Core) (q : Issue) (w : BitVec 80) (k v ph dst pma : Nat) : Core :=
  let n := bitsN w 35 5 + 1
  ((c.begun q.ctx k v).tookTrk q.ctx .mastRead n none).awaits (mrdLands q w c k ph dst pma) ((mrdDues c.mast k pma n).getLastD (mrdFrom c.mast k pma))
    (mrdWant c.mast ((c.tc q.ctx).rdS (mvAreg w)).val k n)

theorem guarded_setCore (s : State) (m j : Nat) (c : Core) : (s.setCore j c).guarded m = s.guarded m := rfl

/-- MRD of rows that the mast translates, outside a guarded replay. -/
theorem exec_mrd {q : Issue} {w : BitVec 80} {s0 s : State} {k ph dst pma : Nat} (h : issuesAt s0 q false [mvAreg w] [] k s) (hw : bitsN w 40 40 = 0)
    (hm : (mvSpo w).writes = true) (ho : (mvSpo w).ofs % 4 = 0) (ha : bitsN (((s.core q.core).tc q.ctx).rdS (mvAreg w)).val 0 7 = 0) (hroom : hasRoom q s k)
    (hr : (s.core q.core).resolve q.ctx (mvSpo w).handle (mvSpo w).byte (128 * (bitsN w 35 5 + 1)) true (mvSpo w).mode = .ok (ph, dst))
    (hp : (s.core q.core).mast.translate (((s.core q.core).tc q.ctx).rdS (mvAreg w)).val (128 * (bitsN w 35 5 + 1)) false = .ok pma)
    (hg : s.guarded q.core = false) :
    ∃ u v, Begins q k v s u ∧ exec (.mrd q w) s0 = .next (u.setCore q.core ((s.core q.core).mrdDone q w k v ph dst pma)) := by
  obtain ⟨u, v, hu, e⟩ := issue_begins h _
  have hx : (((s.core q.core).begun q.ctx k v).tookTrk q.ctx .mastRead (bitsN w 35 5 + 1) none).tc q.ctx = ((s.core q.core).tc q.ctx).begun k := by
    rw [Core.tc_tookTrk, Core.tc_begun_same]
  have htrk := Core.takeTrk_room (c := (s.core q.core).begun q.ctx k v) hroom rfl (Core.tc_begun_same ..) .mastRead (bitsN w 35 5 + 1) none
  have hres := (Core.resolve_begun (c := s.core q.core) (d := ((s.core q.core).begun q.ctx k v).tookTrk q.ctx .mastRead (bitsN w 35 5 + 1) none) rfl hx ..).trans hr
  refine ⟨u, v, hu, (congrArg Host.Outcome.next e).trans ?_⟩
  rw [legalOr_good (by simp [firstCause, hw, hm, ho, hu.tc, ha])]
  simp only [hu.core, Core.tc_begun_same, Ctx.rdS_begun, htrk, hres]
  have hmast : (((s.core q.core).begun q.ctx k v).tookTrk q.ctx .mastRead (bitsN w 35 5 + 1) none).mast = (s.core q.core).mast := rfl
  simp only [hmast, hp, hu.guarded, hg, Bool.false_and, Bool.false_eq_true, if_false, hx, Ctx.seq_begun]
  rfl

/-! ### MWR -/

theorem Memory.rowAt_toNat (m : Memory) (a : Nat) : (BitVec.ofNat 1024 (Memory.readN m a 128)).toNat = Memory.readN m a 128 :=
  Nat.mod_eq_of_lt ((Memory.readN_lt m a 128).trans_eq (Nat.pow_mul 2 8 128).symm)

/-- The cycle from which a write of a row that issues in fc `k` seeks the data path, its data read from slots of the bank of byte `a`. -/
def mwrFrom (m : Mast) (k a : Nat) : Nat := max (k + bankLat a + 2) (m.path + 1)

/-- A mast with the row from byte `pma` stored, its data path taken and planned. -/
def Mast.stores (m : Mast) (pma : Nat) (d : Row) (path plan : Nat) : Mast := { m.rowWrite pma d false with path := path, plan := plan }

/-- The core that an MWR of one row leaves. -/
def Core.mwrDone (c : Core) (q : Issue) (k v : Nat) (tl tk : AMap Tell) (a pma : Nat) : Core :=
  { ((c.begun q.ctx k v).tookTrk q.ctx .mastWrite 1 none).emptied tl tk with
    mast := c.mast.stores pma (BitVec.ofNat 1024 (Memory.readN c.pad a 128)) ((pathCycles c.mast.refEnd (mwrFrom c.mast k a) 1).getLastD (mwrFrom c.mast k a))
      (c.mast.planned (k + bankLat a + 2) 1) }

/-- MWR of one row that the mast translates. -/
theorem exec_mwr {q : Issue} {w : BitVec 80} {s0 s : State} {k a pma : Nat} (h : issuesAt s0 q false [mvAreg w] [] k s) (hw : bitsN w 40 40 = 0)
    (hm : (mvSpo w).reads = true) (ha : bitsN (((s.core q.core).tc q.ctx).rdS (mvAreg w)).val 0 7 = 0) (hroom : hasRoom q s k) (hn : bitsN w 35 5 + 1 = 1)
    (hr : readsWell q s (mvSpo w) 128 a) (hp : (s.core q.core).mast.translate (((s.core q.core).tc q.ctx).rdS (mvAreg w)).val 128 true = .ok pma) :
    ∃ u v tl tk, Begins q k v s u ∧ (s.core q.core).ReadTells (mvSpo w) 128 a tl tk ∧
      exec (.mwr q w) s0 = .next (u.setCore q.core ((s.core q.core).mwrDone q k v tl tk a pma)) := by
  obtain ⟨u, v, hu, e⟩ := issue_begins h _
  have hx : (((s.core q.core).begun q.ctx k v).tookTrk q.ctx .mastWrite 1 none).tc q.ctx = ((s.core q.core).tc q.ctx).begun k := by
    rw [Core.tc_tookTrk, Core.tc_begun_same]
  have htrk := Core.takeTrk_room (c := (s.core q.core).begun q.ctx k v) hroom rfl (Core.tc_begun_same ..) .mastWrite 1 none
  have hread := Core.readsWell_begun (c := s.core q.core) (d := ((s.core q.core).begun q.ctx k v).tookTrk q.ctx .mastWrite 1 none) rfl rfl rfl hx (readsWell_core hr)
  obtain ⟨tl, tk, ht, hitems⟩ := readItemsOp_well (s := u.setCore q.core _) (size := 128) (count := 1) (State.core_setCore_same ..) (by omega) (by omega) hread
  refine ⟨u, v, tl, tk, hu, ⟨ht.seen, ht.tell⟩, (congrArg Host.Outcome.next e).trans ?_⟩
  rw [legalOr_good (by simp [firstCause, hw, hm, hu.tc, ha])]
  simp only [hu.core, Core.tc_begun_same, Ctx.rdS_begun, htrk, hn, hitems, State.setCore_setCore, State.core_setCore_same]
  have hmast : ((((s.core q.core).begun q.ctx k v).tookTrk q.ctx .mastWrite 1 none).emptied tl tk).mast = (s.core q.core).mast := rfl
  simp only [hmast, Nat.mul_one, hp, hread.readLat (by omega : 16 ≤ 128), State.updMast, State.updCore,
    State.core_setCore_same, State.setCore_setCore, List.range_one, List.map_cons,
    List.map_nil, List.zip_cons_cons, List.zip_nil_right, List.foldl_cons, List.foldl_nil, Nat.mul_zero, Nat.add_zero]
  rfl

/-- The mast after an MWR of one row: the row stands in it, without a marker, and every other byte and marker is as before. -/
theorem Mast.stores_spec {m : Mast} (hw : Memory.wf m.data = true) (pad : Memory) (a pma path plan : Nat) :
    let n := m.stores pma (BitVec.ofNat 1024 (Memory.readN pad a 128)) path plan
    (∀ b, Memory.read n.data b = if pma ≤ b ∧ b < pma + 128 then Memory.read pad (a + (b - pma)) else Memory.read m.data b) ∧
      (∀ x, x ∈ n.poison ↔ x ∈ m.poison ∧ x ≠ pma / 128) ∧ { n with data := m.data, poison := m.poison, path := m.path, plan := m.plan } = m := by
  simp only [Mast.stores, Mast.rowWrite, Bool.false_eq_true, if_false, and_true]
  refine ⟨fun b => ?_, fun x => by simp⟩
  rw [Memory.read_writeN _ _ _ hw, Memory.rowAt_toNat]
  split
  · rename_i hb
    exact Memory.byte_readN pad a (by omega)
  · rfl

/-- Settles O24: MRD and MWR, each by the core that it leaves. -/
theorem mastReadsAndWrites : Obligations.MastReadsAndWrites := by
  refine ⟨fun q w s0 s k ph dst pma h hw hm ho ha hroom hr hp hg => ?_, fun q w s0 s k a pma h hw hm ha hroom hn hwf hr hp => ?_⟩
  · obtain ⟨u, v, hu, e⟩ := exec_mrd h hw hm ho ha hroom hr hp hg
    refine ⟨_, e, ?_⟩
    dsimp only
    rw [tookEntry, State.core_setCore_same]
    exact ⟨rfl, rfl, rfl, rfl, rfl, hu.keepsRegs_setCore rfl fun _ => rfl⟩
  · obtain ⟨u, v, tl, tk, hu, ht, e⟩ := exec_mwr h hw hm ha hroom hn hr hp
    refine ⟨_, e, ?_⟩
    dsimp only
    obtain ⟨hdata, hpoison, hmast⟩ := Mast.stores_spec hwf (s.core q.core).pad a pma
      ((pathCycles (s.core q.core).mast.refEnd (mwrFrom (s.core q.core).mast k a) 1).getLastD (mwrFrom (s.core q.core).mast k a))
      ((s.core q.core).mast.planned (k + bankLat a + 2) 1)
    have hreads := readsPad_of_core (t := u.setCore q.core ((s.core q.core).mwrDone q k v tl tk a pma)) ht (by rw [State.core_setCore_same]; rfl)
      (by rw [State.core_setCore_same]; rfl) (by rw [State.core_setCore_same]; rfl)
    rw [tookEntry, State.core_setCore_same]
    exact ⟨hdata, hpoison, hmast, rfl, hreads, hu.keepsRegs_setCore rfl fun _ => rfl⟩

end Sys2Proof.Machine

namespace Sys2Proof.Machine

/-! ## Refresh and service windows (O9) -/

/-! ### What accesses that reach their banks leave of a core -/

/-- Whether a core's mast has failed, whether the core is furled, and for what cause: no slot access changes it. -/
def Core.fate (c : Core) : Bool × Bool × Nat := (c.mast.failed, c.stat.furled, c.stat.furlCause)

@[simp] theorem Core.fate_reach (c : Core) (t : Nat) : (c.reach t).fate = c.fate := by
  unfold Core.reach
  split <;> rfl

@[simp] theorem Core.fate_raised (c : Core) (a : SlotAcc) (j : Nat) (v : Option Viol) : (c.raised a j v).1.fate = c.fate := by
  unfold Core.raised
  split
  · rfl
  · split <;> rfl

@[simp] theorem Core.fate_writeSlot (c : Core) (ph j : Nat) (x : Byte) (hold : Bool) (d : Slot) (poison : Bool) : (c.writeSlot ph j x hold d poison).1.fate = c.fate := by
  obtain ⟨p, k, h⟩ := c.writeSlot_frame ph j x hold d poison
  rw [h]
  rfl

@[simp] theorem Core.fate_emptySlot (c : Core) (j : Nat) : (c.emptySlot j).fate = c.fate := by
  unfold Core.emptySlot
  split <;> rfl

@[simp] theorem Core.fate_readSlot (c : Core) (ph j : Nat) (x : Byte) (take : Bool) : (c.readSlot ph j x take).1.fate = c.fate := by
  unfold Core.readSlot
  dsimp only
  split
  · rfl
  · split
    · rfl
    · split
      · cases take <;> simp
      · rfl
      · cases take <;> simp

@[simp] theorem Core.fate_act (c : Core) (a : SlotAcc) : (c.act a).1.fate = c.fate := by
  unfold Core.act
  split
  · simp
  · rw [Core.fate_raised]
    exact Core.fate_readSlot ..

theorem Core.fate_settleGo (t n : Nat) (r : Core × List (Nat × Viol × Nat)) : (Core.settleGo t n r).1.fate = r.1.fate := by
  induction n generalizing r with
  | zero => rfl
  | succ n ih =>
    unfold Core.settleGo
    split
    · rfl
    · split
      · rw [ih, Core.fate_act, Core.fate_reach]
        rfl
      · rfl

theorem Core.fate_settled (c : Core) (t : Nat) : (c.settled t).1.fate = c.fate := (Core.fate_reach ..).trans (Core.fate_settleGo ..)

theorem Core.fate_setTc (c : Core) (i : Nat) (x : Ctx) : (c.setTc i x).fate = c.fate := by
  unfold Core.setTc
  split <;> rfl

theorem Core.fate_endStep (c : Core) : c.endStep.fate = c.fate := by
  have h : c.restore.fate = c.fate := by
    unfold Core.restore
    split
    · rfl
    · exact Core.fate_setTc ..
  exact h

/-! ### What a core's column has come to -/

/-- The fate of a core of the module. -/
def State.fate (s : State) (m : Nat) : Bool × Bool × Nat := (s.core m).fate

theorem fate_congr {s t : State} (h : t.cores = s.cores) (m : Nat) : t.fate m = s.fate m := by simp only [State.fate, core_congr h]

theorem fate_foldl {α : Type} {f : State → α → State} {m : Nat} (hf : ∀ s x, (f s x).fate m = s.fate m) (l : List α) (s : State) : (l.foldl f s).fate m = s.fate m := by
  induction l generalizing s with
  | nil => rfl
  | cons x l ih => rw [List.foldl_cons, ih, hf]

theorem fate_setCore {s : State} {j : Nat} {c : Core} (h : c.fate = (s.core j).fate) (m : Nat) : (s.setCore j c).fate m = s.fate m := by
  by_cases hj : m = j
  · subst hj
    rw [State.fate, State.core_setCore_same, h, State.fate]
  · simp only [State.fate, State.core_setCore_ne _ _ hj]

theorem fate_updCore {s : State} {j : Nat} {f : Core → Core} (h : ∀ c, (f c).fate = c.fate) (m : Nat) : (s.updCore j f).fate m = s.fate m := fate_setCore (h _) m

theorem fate_violateAt (s : State) (j ctx : Nat) (v : Viol) (cyc m : Nat) : (violateAt s j ctx v cyc).fate m = s.fate m := by
  have h : (evrIndex s 19 (s.partOf (j / 192)) (j / 192)).cores = s.cores := congrArg Prod.fst (works_evrIndex ..)
  unfold violateAt
  extract_lets s1 p s2
  have h2 : s2.fate m = s.fate m := by
    refine (fate_updCore ?_ m).trans (fate_congr h m)
    exact fun _ => rfl
  split
  · exact h2
  · exact (fate_congr (cores_coreFaultAt ..) m).trans h2

theorem fate_settle (s : State) (j t m : Nat) : (s.settle j t).fate m = s.fate m := by
  unfold State.settle
  exact (fate_foldl (fun s v => fate_violateAt ..) _ _).trans (fate_setCore (Core.fate_settled ..) m)

theorem fate_settleEnd (s : State) (p m : Nat) : (s.settleEnd p).fate m = s.fate m := fate_foldl (fun _ _ => fate_settle ..) _ _

theorem fate_eachCore {s : State} {ms : List Nat} {f : Nat → Core → Core} (h : ∀ j c, (f j c).fate = c.fate) (m : Nat) : (s.eachCore ms f).fate m = s.fate m :=
  fate_foldl (fun _ _ => fate_updCore (h _) m) _ _

theorem fate_endStepNow (s : State) (p m : Nat) : (endStepNow s p).fate m = s.fate m := by
  unfold endStepNow
  split
  · extract_lets s1 s2 s3
    have h3 : s3.fate m = s.fate m := (fate_eachCore (fun _ c => c.fate_endStep) m).trans (fate_settleEnd s p m)
    refine Eq.trans (fate_foldl ?_ _ _) h3
    exact fun _ _ => rfl
  · rfl

/-! ### A column that fails -/

theorem fate_partFault (s : State) (p code n c status : Nat) (slots : List Nat) (m : Nat) : (partFault s p code n c status slots).fate m = s.fate m := by
  have h : (raiseFaultN s p code n c (itemCount s p slots)).fate m = s.fate m := by
    refine fate_congr ((congrArg Prod.fst (works_evrFault ..)).trans (congrArg Prod.fst (works_logFault s p code n c _))) m
  unfold partFault
  dsimp only
  refine (fate_endStepNow _ p m).trans ?_
  split
  · exact h
  · exact h

theorem cores_followCopy (s : State) : (followCopy s).cores = s.cores := by
  unfold followCopy
  dsimp only
  split <;> rfl

theorem cores_dropRecov (s : State) (p n : Nat) : (dropRecov s p n).cores = s.cores := by
  unfold dropRecov
  split
  · rfl
  · refine (cores_followCopy _).trans ?_
    split <;> rfl

theorem cores_lostFault (s : State) (p code n c status : Nat) (slots : List Nat) : (lostFault s p code n c status slots).cores = (partFault s p code n c status slots).cores := rfl

theorem cores_darkField (s : State) (n : Nat) : (darkField s n).cores = s.cores := rfl

theorem fate_coreLost (s : State) (j code m : Nat) : (coreLost s j code).fate m = s.fate m := by
  unfold coreLost
  extract_lets n f s1
  have h1 : s1.fate m = s.fate m := (fate_congr (cores_lostFault ..) m).trans (fate_partFault ..)
  refine (fate_congr (cores_dropRecov ..) m).trans ?_
  split
  · exact (fate_congr (cores_darkField ..) m).trans h1
  · exact h1

theorem fate_furlCore (s : State) (m cause : Nat) : (furlCore s m cause).fate m = ((s.core m).mast.failed, true, cause) := by
  simp only [State.fate, furlCore, State.core_updCore_same]
  rfl

/-- A column that fails marks its mast and furls its core with cause DRAMCOL. -/
theorem fate_columnFail {s : State} {m : Nat} (code row : Nat) (h : (s.core m).mast.failed = false) : (columnFail s m code row).fate m = (true, true, 7) := by
  unfold columnFail
  rw [if_neg (by rw [h]; exact Bool.false_ne_true)]
  extract_lets n cxp g f spare s1 s2
  have h1 : s1.fate m = (true, true, 7) := by
    have hcores : (mstLog (s.updMast m fun x => { x with failed := true }) m (row / 0x100000 % 4) 5 (row % 0x100000) 0).cores =
        (s.updMast m fun x => { x with failed := true }).cores := congrArg Prod.fst (works_mstLog ..)
    refine (fate_furlCore ..).trans ?_
    rw [core_congr hcores, State.core_updMast_same]
  have h2 : s2.fate m = (true, true, 7) := by
    unfold s2
    split
    · rw [fate_coreLost, h1]
    · exact h1
  split
  · exact h2
  · exact h2

theorem fate_countCorrected (s : State) (j row tier m : Nat) : (countCorrected s j row tier).fate m = s.fate m := by
  have h : (countCorrected s j row tier).cores = (s.updMast j fun x => { x with ce := satAdd 0xFFFF x.ce 1 }).cores := congrArg Prod.fst (works_countCorrected ..)
  refine (fate_congr h m).trans (fate_setCore ?_ m)
  rfl

/-! ### A refresh window opens -/

/-- The cycles of an open service window that a refresh window opened in cycle `t` shares (R206). -/
def Mast.shared (m : Mast) (t : Nat) : Nat := min m.svcEnd (t + 240) - max t m.refEnd

/-- A core in whose mast a refresh window has opened in cycle `t`. -/
def Core.windowed (c : Core) (t : Nat) : Core :=
  { c with
    lands := moveLands (t + 240) 0 none c.lands
    mast := { c.mast with
      svcRows := c.mast.svcRows - windowRows (c.mast.shared t), refEnd := t + 240
      path := max (((moveLands (t + 240) 0 none c.lands).getLast?.map (·.due)).getD 0) (if t ≤ c.mast.path ∧ c.mast.path < t + 240 then t + 240 else c.mast.path) } }

theorem openWindow_unguarded {s : State} {m : Nat} (t : Nat) (h : s.guarded m = false) : openWindow s m t = s.setCore m ((s.core m).windowed t) := by
  simp only [openWindow, h, Bool.false_eq_true, if_false]
  rfl

theorem Core.path_windowed_idle {c : Core} (t : Nat) (h : c.lands = []) :
    (c.windowed t).mast.path = if t ≤ c.mast.path ∧ c.mast.path < t + 240 then t + 240 else c.mast.path := by
  simp [Core.windowed, h, moveLands]

/-- A mast after the work of a refresh window: refreshes, write-backs and re-reads (R128, R129, R132). -/
def Mast.refreshed (m : Mast) (found : RefFind) : Mast := { m with
  tiers := m.tiers.map (fun x => x.refresh (min x.debt 2)), writeBack := [], reread := []
  bad := m.bad ++ m.reread.filter (fun r => found.again.any (fun x => x.1.val * 0x100000 + x.2.val == r) && !m.bad.contains r) }

/-- A core after a refresh window that opens in cycle `t`. -/
def Core.refreshed (c : Core) (t : Nat) (found : RefFind) : Core := { c.windowed t with mast := (c.windowed t).mast.refreshed found }

/-- What the scrub and the self-checks of a refresh window find. -/
def windowFinds (s : State) (m : Nat) (found : RefFind) : State :=
  let s1 := if s.mst.scrubEn then found.scrub.foldl (fun s x => countCorrected s m x.2 x.1) s else s
  match found.check with
  | some k => columnFail s1 m 0x43 (0x100000 * k.val)
  | none => s1

/-- REFW outside a guarded replay. -/
theorem exec_refw {q : Issue} {w : BitVec 48} (found : RefFind) {s0 s : State} {k : Nat} (h : issuesAt s0 q false [] [] k s) (hw : bitsN w 6 42 = 0)
    (hg : s.guarded q.core = false) :
    ∃ u n, Begins q k n s u ∧ exec (.refw q w found) s0 = .next ((windowFinds (u.setCore q.core (((s.core q.core).begun q.ctx k n).refreshed k found)) q.core found).updCtx
      q.core q.ctx fun x => x.advance.holdTo (k + 1)) := by
  obtain ⟨u, n, hu, e⟩ := issueCtrl_begins h _
  refine ⟨u, n, hu, (congrArg Host.Outcome.next e).trans ?_⟩
  rw [legalOr_good (by simp [firstCause, hw]), openWindow_unguarded k ((hu.guarded _).trans hg), hu.core]
  simp only [State.updMast, State.updCore, State.core_setCore_same, State.setCore_setCore]
  rfl

/-- REFW without a scrub correction and without a failed check has the effect of its window. -/
theorem windowFinds_none {s : State} {m : Nat} {found : RefFind} (hcheck : found.check = none) (hscrub : found.scrub = [] ∨ s.mst.scrubEn = false) :
    windowFinds s m found = s := by
  rcases hscrub with h | h
  · simp [windowFinds, hcheck, h]
  · simp [windowFinds, hcheck, h]

theorem windowFinds_scrub {s : State} {m : Nat} {found : RefFind} {x : Fin 4 × Fin 0x100000} (hcheck : found.check = none) (hscrub : found.scrub = [x])
    (hen : s.mst.scrubEn = true) : windowFinds s m found = countCorrected s m x.2 x.1 := by
  simp [windowFinds, hcheck, hscrub, hen]

theorem fate_windowFinds_check {s : State} {m : Nat} {found : RefFind} {i : Fin 4} (hcheck : found.check = some i) (h : (s.core m).mast.failed = false) :
    (windowFinds s m found).fate m = (true, true, 7) := by
  unfold windowFinds
  extract_lets s1
  have h1 : s1.fate m = s.fate m := by
    unfold s1
    split
    · exact fate_foldl (fun s x => fate_countCorrected ..) _ _
    · rfl
  rw [hcheck]
  exact fate_columnFail _ _ ((congrArg Prod.fst h1 :).trans h)

/-- A single landing that is due in the window moves to its end. -/
theorem moveLands_one (k : Nat) (l : Landing) : moveLands (k + 240) 0 none [l] = [if k ≤ l.due ∧ l.due < k + 240 then { l with due := k + 240 } else l] := by
  simp only [moveLands, Nat.add_le_add_iff_right]
  split <;> rfl

theorem mem_bad_refreshed (m : Mast) (found : RefFind) (r : Nat) :
    r ∈ (m.refreshed found).bad ↔ r ∈ m.bad ∨ (r ∈ m.reread ∧ ∃ x ∈ found.again, x.1.val * 0x100000 + x.2.val = r) := by
  simp only [Mast.refreshed, List.mem_append, List.mem_filter, Bool.and_eq_true, List.any_eq_true, beq_iff_eq, Bool.not_eq_true', List.contains_eq_mem, decide_eq_false_iff_not]
  by_cases h : r ∈ m.bad
  · simp [h]
  · simp [h]

theorem tiers_refreshed (m : Mast) (found : RefFind) (i : Fin 4) : (m.refreshed found).tiers[i] = { m.tiers[i] with debt := m.tiers[i].debt - 2 } := by
  have h (d : Nat) : d - min d 2 = d - 2 := by omega
  simp [Mast.refreshed, Tier.refresh, h]

/-! ### A service window opens -/

/-- A mast in which a service window has opened in cycle `t`: what it shares with a refresh window carries nothing (R206). -/
def Mast.serviced (m : Mast) (t : Nat) : Mast :=
  { m with svcEnd := t + m.svcLen, svcRows := windowRows (t + m.svcLen - max t (min m.refEnd (t + m.svcLen))) }

/-- A core with another mast. -/
def Core.withMast (c : Core) (y : Mast) : Core := { c with mast := y }

theorem exec_svcw {q : Issue} {w : BitVec 48} {s0 s : State} {k : Nat} (h : issuesAt s0 q false [] [] k s) (hw : bitsN w 6 42 = 0) :
    ∃ u n, Begins q k n s u ∧ exec (.svcw q w) s0 = .next ((serveWindow q.core (s.core q.core).mast.outside.length
      (u.setCore q.core (((s.core q.core).begun q.ctx k n).withMast ((s.core q.core).mast.serviced k)))).updCtx q.core q.ctx fun x => x.advance.holdTo (k + 1)) := by
  obtain ⟨u, n, hu, e⟩ := issueCtrl_begins h _
  refine ⟨u, n, hu, (congrArg Host.Outcome.next e).trans ?_⟩
  rw [legalOr_good (by simp [firstCause, hw])]
  simp only [State.updMast, State.updCore, hu.core]
  rfl

theorem Outside.rows_pos (o : Outside) : 1 ≤ o.rows := by cases o <;> simp [Outside.rows]

/-- A window with no rows left carries nothing. -/
theorem serveWindow_spent {s : State} {m n : Nat} {o : Outside} {r : List Outside} (h : (s.core m).mast.outside = o :: r) (hd : (s.core m).mast.svcDone = 0)
    (hr : (s.core m).mast.svcRows = 0) : serveWindow m (n + 1) s = s.updMast m fun x => { x with svcDone := 0, svcRows := 0 } := by
  have hneed : ¬ o.rows - (s.core m).mast.svcDone ≤ (s.core m).mast.svcRows := by
    have := o.rows_pos
    omega
  unfold serveWindow
  simp only [h]
  rw [if_neg hneed]
  simp only [State.updMast, State.updCore, h, hd, hr, Nat.add_zero]

/-- A window with a row left carries the one access that waits. -/
theorem serveWindow_access {s : State} {m part addr : Nat} {write mark : Bool} {d : Row} {found : List (Nat × Bool)}
    (h : (s.core m).mast.outside = [.access write part mark addr d found]) (hd : (s.core m).mast.svcDone = 0) (hr : 1 ≤ (s.core m).mast.svcRows) :
    serveWindow m 1 s = serveAccess (s.updMast m fun x => { x with outside := [], svcDone := 0, svcRows := x.svcRows - 1 }) m write addr d found := by
  simp only [serveWindow, h, Outside.rows, hd, Nat.sub_zero, hr, if_true, serveOne]

/-- The bundle's end after an effect on the core. -/
theorem setCore_endBundle (u : State) (q : Issue) (c : Core) (k : Nat) :
    (u.setCore q.core c).updCtx q.core q.ctx (fun x => x.advance.holdTo (k + 1)) = u.setCore q.core (c.endBundle q.ctx k) := by
  simp only [State.updCtx, State.updCore, State.core_setCore_same, State.setCore_setCore]
  rfl

/-- A core as the control slot's end leaves it: only its contexts differ. -/
theorem Core.endBundle_eq (c : Core) (i : Fin 4) (k : Nat) : c.endBundle i k = { c with ctx := c.ctx.set i ((c.tc i).advance.holdTo (k + 1)) i.isLt } :=
  Core.setTc_eq ..

@[simp] theorem Core.mast_endBundle (c : Core) (i : Fin 4) (k : Nat) : (c.endBundle i k).mast = c.mast := by rw [Core.endBundle_eq]

@[simp] theorem Core.lands_endBundle (c : Core) (i : Fin 4) (k : Nat) : (c.endBundle i k).lands = c.lands := by rw [Core.endBundle_eq]

@[simp] theorem Core.fate_endBundle (c : Core) (i : Fin 4) (k : Nat) : (c.endBundle i k).fate = c.fate := by
  rw [Core.endBundle_eq]
  rfl

/-- A control-slot instruction whose effect is on its core's mast. -/
theorem Begins.withMast {q : Issue} {k n : Nat} {s u : State} (hu : Begins q k n s u) (y : Mast) :
    let t := (u.setCore q.core (((s.core q.core).begun q.ctx k n).withMast y)).updCtx q.core q.ctx fun x => x.advance.holdTo (k + 1)
    (t.core q.core).mast = y ∧ keepsRegs q none none s t ∧ slotFrame q (fun c d => Core.onlyCtx c { d with mast := c.mast }) s t := by
  intro t
  simp only [t, setCore_endBundle, State.core_setCore_same]
  refine ⟨?_, hu.keepsRegs_endBundle ?_ fun _ => rfl⟩
  · exact Core.mast_endBundle ..
  · rw [Core.endBundle_eq]
    rfl

theorem core_mast_updCtx (s : State) (m i : Nat) (f : Ctx → Ctx) : ((s.updCtx m i f).core m).mast = (s.core m).mast := by
  rw [State.updCtx, State.core_updCore_same, Core.setTc]
  split <;> rfl

/-- An effect on the mast of the core after the bundle has begun. -/
theorem updMast_withMast (u : State) (m : Nat) (c : Core) (y : Mast) (f : Mast → Mast) : (u.setCore m (c.withMast y)).updMast m f = u.setCore m (c.withMast (f y)) := by
  simp only [State.updMast, State.updCore, State.core_setCore_same, State.setCore_setCore]
  rfl

/-- A row write changes the mast's bytes and markers alone. -/
theorem Mast.rowWrite_frame (x : Mast) (a : Nat) (d : Row) (poison : Bool) (y : Memory) (z : List Nat) :
    { x.rowWrite a d poison with data := y, poison := z } = { x with data := y, poison := z } := by
  simp only [Mast.rowWrite]

/-- SVCW with one access that waits and a row left for it. -/
theorem exec_svcw_access {q : Issue} {w : BitVec 48} {s0 s : State} {k part addr : Nat} {write mark : Bool} {d : Row} {found : List (Nat × Bool)}
    (h : issuesAt s0 q false [] [] k s) (hw : bitsN w 6 42 = 0) (hout : (s.core q.core).mast.outside = [.access write part mark addr d found])
    (hd : (s.core q.core).mast.svcDone = 0) (hrows : 1 ≤ ((s.core q.core).mast.serviced k).svcRows) :
    ∃ u n, Begins q k n s u ∧ exec (.svcw q w) s0 = .next ((serveAccess (u.setCore q.core (((s.core q.core).begun q.ctx k n).withMast
      { (s.core q.core).mast.serviced k with outside := [], svcDone := 0, svcRows := ((s.core q.core).mast.serviced k).svcRows - 1 })) q.core write addr d found).updCtx
      q.core q.ctx fun x => x.advance.holdTo (k + 1)) := by
  obtain ⟨u, n, hu, e⟩ := exec_svcw h hw
  rw [hout, List.length_singleton, serveWindow_access (by rw [State.core_setCore_same]; exact hout) (by rw [State.core_setCore_same]; exact hd)
    (by rw [State.core_setCore_same]; exact hrows), updMast_withMast] at e
  exact ⟨u, n, hu, e⟩

/-! ### The statement -/

/-- Settles O9: REFW by the core that it leaves and by what its scrub and its self-checks find, SVCW by what the window carries. -/
theorem refreshAndServiceWindows : Obligations.RefreshAndServiceWindows := by
  intro q w found s0 s k h hw hg
  dsimp only
  refine ⟨fun hcheck hscrub => ?_, fun x hcheck hscrub hen => ?_,
    fun i hcheck hfail => ?_, fun hout => ?_, fun a r hout hd hrows => ?_, fun part mark addr d found hout hd hrows hwf => ?_,
    fun part mark addr d hout hd hrows hbad => ?_⟩
  · obtain ⟨u, n, hu, e⟩ := exec_refw found h hw hg
    rw [windowFinds_none hcheck (hscrub.imp_right fun hs => by rw [State.mst_setCore, hu.mst, hs]), setCore_endBundle] at e
    refine ⟨_, e, ?_⟩
    dsimp only
    rw [State.core_setCore_same, Core.mast_endBundle, Core.lands_endBundle]
    refine ⟨rfl, rfl, rfl, rfl, tiers_refreshed _ found, mem_bad_refreshed _ found, fun l hl => ?_, fun hl => ?_, rfl, hu.keepsRegs_endBundle ?_ fun _ => rfl⟩
    · exact (congrArg (moveLands (k + 240) 0 none) hl).trans (moveLands_one k l)
    · refine ⟨congrArg (moveLands (k + 240) 0 none) hl, ?_⟩
      exact Core.path_windowed_idle k hl
    · rw [Core.endBundle_eq]
      rfl
  · obtain ⟨u, n, hu, e⟩ := exec_refw found h hw hg
    rw [windowFinds_scrub hcheck hscrub (by rw [State.mst_setCore, hu.mst, hen])] at e
    refine ⟨_, e, ?_⟩
    have hw := works_countCorrected (u.setCore q.core (((s.core q.core).begun q.ctx k n).refreshed k found)) q.core x.2 x.1
    simp only [State.works, Prod.mk.injEq, State.mst_setCore, hu.mst] at hw
    obtain ⟨hcores, hmst, -, hgrp⟩ := hw
    dsimp only
    rw [core_mast_updCtx, core_congr hcores, State.core_updMast_same, State.core_setCore_same, satAdd_eq_min]
    refine ⟨rfl, ?_, rfl, congrArg MstBlock.log hmst, fun j => ?_⟩
    · rw [← satAdd_eq_min]
      exact congrArg MstBlock.ceTotal hmst
    · exact (congrArg Group.items (congrFun hgrp j)).trans (hu.items j)
  · obtain ⟨u, n, hu, e⟩ := exec_refw found h hw hg
    refine ⟨_, e, ?_⟩
    have hfate := fate_windowFinds_check (s := u.setCore q.core (((s.core q.core).begun q.ctx k n).refreshed k found)) (m := q.core) hcheck
      (by rw [State.core_setCore_same]; exact hfail)
    have hend : (((windowFinds (u.setCore q.core (((s.core q.core).begun q.ctx k n).refreshed k found)) q.core found).updCtx q.core q.ctx
        fun x => x.advance.holdTo (k + 1)).fate q.core) = (true, true, 7) := (fate_updCore (fun c => c.fate_setTc _ _) _).trans hfate
    exact ⟨congrArg Prod.fst hend, congrArg (fun x => x.2.1) hend, congrArg (fun x => x.2.2) hend⟩
  · obtain ⟨u, n, hu, e⟩ := exec_svcw h hw
    rw [hout] at e
    obtain ⟨hmast, hrest⟩ := hu.withMast ((s.core q.core).mast.serviced k)
    exact ⟨_, e, hmast.trans rfl, hrest⟩
  · obtain ⟨u, n, hu, e⟩ := exec_svcw h hw
    rw [hout, List.length_cons, serveWindow_spent (o := a) (r := r) (by rw [State.core_setCore_same]; exact hout) (by rw [State.core_setCore_same]; exact hd)
      (by rw [State.core_setCore_same]; exact hrows), updMast_withMast] at e
    obtain ⟨hmast, hrest⟩ := hu.withMast { (s.core q.core).mast.serviced k with svcDone := 0, svcRows := 0 }
    refine ⟨_, e, hmast.trans ?_, hrest⟩
    rw [← hd]
    rfl
  · obtain ⟨u, n, hu, e⟩ := exec_svcw_access h hw hout hd hrows
    rw [serveAccess, if_pos rfl, updMast_withMast] at e
    obtain ⟨hmast, hrest⟩ := hu.withMast _
    refine ⟨_, e, ?_, hrest⟩
    rw [hmast, Mast.data_rowWrite, Mast.rowWrite_frame]
    refine ⟨fun b => Memory.read_writeN _ _ _ hwf b, fun r => Mast.mem_poison_rowWrite .., ?_⟩
    rw [← hd]
    rfl
  · obtain ⟨u, n, hu, e⟩ := exec_svcw_access h hw hout hd hrows
    rw [serveAccess_read_clean d (by rw [State.core_setCore_same]; exact hbad), updMast_withMast] at e
    obtain ⟨hmast, hrest⟩ := hu.withMast _
    refine ⟨_, e, hmast.trans ?_, hrest⟩
    rw [State.core_setCore_same, ← hd]
    rfl

end Sys2Proof.Machine

namespace Sys2Proof.Machine

/-! ## Fixed-hop mode (O34) -/

/-! ### What a record of the fabric's log leaves -/

/-- The record of Table 7.10. -/
def fabRecord (s : State) (router kind seam link pkt rtr tree : Nat) : Word × Word × Word :=
  (packFields 32 [(0, 14, router), (14, 3, kind)], packFields 32 [(0, 7, seam), (7, 4, link), (11, 6, pkt), (17, 6, rtr), (23, 6, tree)], s.tb.setWidth 32)

theorem works_fabLog (s : State) (router kind seam link pkt rtr tree : Nat) : (fabLog s router kind seam link pkt rtr tree).works =
    (s.cores, s.mst, { s.fab with log := s.fab.log.push (fabRecord s router kind seam link pkt rtr tree) }, s.grp) :=
  works_signalLog ..

theorem cores_fabLog (s : State) (router kind seam link pkt rtr tree : Nat) : (fabLog s router kind seam link pkt rtr tree).cores = s.cores :=
  congrArg Prod.fst (works_fabLog ..)

theorem fab_fabLog (s : State) (router kind seam link pkt rtr tree : Nat) :
    (fabLog s router kind seam link pkt rtr tree).fab = { s.fab with log := s.fab.log.push (fabRecord s router kind seam link pkt rtr tree) } :=
  congrArg (fun x => x.2.2.1) (works_fabLog ..)

theorem grp_fabLog (s : State) (router kind seam link pkt rtr tree : Nat) : (fabLog s router kind seam link pkt rtr tree).grp = s.grp :=
  congrArg (fun x => x.2.2.2) (works_fabLog ..)

theorem field_fabLog (s : State) (router kind seam link pkt rtr tree n : Nat) : (fabLog s router kind seam link pkt rtr tree).field n = s.field n := by
  simp only [State.field, fab_fabLog]

/-! ### The fields of a group changed together -/

theorem field_updFields {ns : List Nat} (hn : ns.Nodup) (f : FieldSt → FieldSt) (s : State) (j : Nat) :
    (ns.foldl (fun s n => s.updField n f) s).field j = if j ∈ ns then f (s.field j) else s.field j := by
  induction ns generalizing s with
  | nil => rfl
  | cons n ns ih =>
    obtain ⟨hout, hrest⟩ := List.nodup_cons.mp hn
    rw [List.foldl_cons, ih hrest]
    by_cases hj : j = n
    · subst hj
      simp [hout]
    · simp [hj, State.field_updField_ne]

/-- Nothing but the fields differs after changes of fields. -/
theorem updFields_eq (ns : List Nat) (f : FieldSt → FieldSt) (s : State) :
    ∃ fields, ns.foldl (fun s n => s.updField n f) s = { s with fab := { s.fab with fields := fields } } := by
  induction ns generalizing s with
  | nil => exact ⟨s.fab.fields, rfl⟩
  | cons n ns ih => exact ih (s.updField n f)

theorem mem_fieldsIn {mask : BitVec 48} {j : Nat} : j ∈ fieldsIn mask ↔ j < 48 ∧ mask.getLsbD j = true := by
  rw [fieldsIn, List.mem_filter, List.mem_range, bitAt]

theorem nodup_fieldsIn (mask : BitVec 48) : (fieldsIn mask).Nodup := List.nodup_range.filter _

/-- `f` at every field of a group, and nothing else of the module differs. -/
theorem updGroup_effect (mask : BitVec 48) (f : FieldSt → FieldSt) (s : State) :
    let t := (fieldsIn mask).foldl (fun s n => s.updField n f) s
    (∀ j, t.field j = if j < 48 ∧ mask.getLsbD j = true then f (s.field j) else s.field j) ∧ { t with fab := { t.fab with fields := s.fab.fields } } = s := by
  refine ⟨fun j => ?_, ?_⟩
  · simp only [field_updFields (nodup_fieldsIn mask), mem_fieldsIn]
  · obtain ⟨fields, ht⟩ := updFields_eq (fieldsIn mask) f s
    simp only [ht]

/-- `f` at those fields of a group that stand in a mode, and nothing else of the module differs. -/
theorem updGroup_inMode (mask : BitVec 48) (m : MeshMode) (f : FieldSt → FieldSt) (s : State) :
    let t := (fieldsIn mask).foldl (fun s n => s.updField n (fun x => if x.mode = m then f x else x)) s
    (∀ j, t.field j = if j < 48 ∧ mask.getLsbD j = true ∧ (s.field j).mode = m then f (s.field j) else s.field j) ∧
      { t with fab := { t.fab with fields := s.fab.fields } } = s := by
  obtain ⟨hfield, hrest⟩ := updGroup_effect mask (fun x => if x.mode = m then f x else x) s
  exact ⟨fun j => (hfield j).trans (by simp only [ite_and]), hrest⟩

@[simp] theorem State.core_updRouter_same (s : State) (m : Nat) (f : Router → Router) : (s.updRouter m f).core m = { s.core m with router := f (s.core m).router } :=
  s.core_updCore_same m fun c => { c with router := f c.router }

theorem State.core_updRouter_ne (s : State) {j m : Nat} (f : Router → Router) (h : j ≠ m) : (s.updRouter m f).core j = s.core j := s.core_updCore_ne _ h

@[simp] theorem State.core_updField (s : State) (n m : Nat) (f : FieldSt → FieldSt) : (s.updField n f).core m = s.core m := rfl

theorem onlyField_updField (n : Nat) (s : State) (f : FieldSt → FieldSt) : onlyField n s (s.updField n f) := ⟨rfl, fun _ h => s.field_updField_ne f h⟩

/-! ### Each command of the mode -/

theorem execFixedHopDrainDone_drained {n : Fin 48} {s : State} (he : fieldEmpty s n = true) (hm : (s.field n).mode = .draining) :
    Does (.fixedHopDrainDone n) s (fun t => t.field n = { s.field n with drained := true } ∧ onlyField n s t) := by
  refine ⟨_, congrArg Host.Outcome.next (if_pos he), ?_, onlyField_updField ..⟩
  rw [State.field_updField_same, if_pos hm]

/-- A field that no partition owns is lost by going dark; the recorder's part leaves the fabric as it is. -/
theorem fieldLost_unowned {s : State} {n : Nat} (code : Nat) (ho : (s.field n).owned = false) :
    ((fieldLost s n code).field n).mode = .dark ∧ (fieldLost s n code).fab.log = s.fab.log := by
  have hfab : (evrFault s code 0xFF n noCore none).fab = s.fab := congrArg (fun x => x.2.2.1) (works_evrFault ..)
  have hlost : fieldLost s n code = darkField (evrFault s code 0xFF n noCore none) n := if_neg (by simp [ho])
  rw [hlost]
  refine ⟨?_, (congrArg Fabric.log hfab :)⟩
  exact congrArg FieldSt.mode (State.field_updField_same (evrFault s code 0xFF n noCore none) n (fun f => { f with mode := .dark }))

theorem execFixedHopDrainTimeout_late {n : Fin 48} {s : State} (hm : (s.field n).mode = .draining) (hd : (s.field n).drained = false) (ho : (s.field n).owned = false) :
    Does (.fixedHopDrainTimeout n) s (fun t => (t.field n).mode = .dark ∧ t.fab.log = s.fab.log.push (fabRecord s (n * 192) 6 0 0 0 0 0)) := by
  obtain ⟨hdark, hlog⟩ := fieldLost_unowned (s := fabLog s (n * 192) 6 0 0 0 0 0) (n := n) 0x49 (by rw [field_fabLog, ho])
  exact ⟨_, congrArg Host.Outcome.next (if_pos ⟨hm, hd⟩), hdark, by rw [hlog, fab_fabLog]⟩

theorem exec_fixedHopStartTick {fs : BitVec 48} (x : Dword) {s : State}
    (h : ∀ j, j < 48 → fs.getLsbD j = true → (s.field j).mode = .draining ∧ (s.field j).drained = true) : exec (.fixedHopStartTick fs x) s =
      .next ((fieldsIn fs).foldl (fun s n => s.updField n (fun f => { f with mode := .fixedHop, hopOrigin := some x.toNat })) (s.atTick x)) := by
  refine congrArg Host.Outcome.next (if_pos (List.all_eq_true.mpr fun j hj => ?_))
  obtain ⟨hlt, hbit⟩ := mem_fieldsIn.mp hj
  obtain ⟨hmode, hdrained⟩ := h j hlt hbit
  simp [hmode, hdrained]

theorem exec_fixedHopExitTick {fs : BitVec 48} (x : Dword) {s : State}
    (h : ∀ f ∈ s.fab.flits, f.vc = 3 → bitAt fs (f.dst / 192) = false ∧ ∀ y ∈ (f.hops s).1, bitAt fs (y.1 / 192) = false) : exec (.fixedHopExitTick fs x) s =
      .next ((fieldsIn fs).foldl (fun s n => s.updField n (fun f => if f.mode = .fixedHop then { f with mode := .normal, hopOrigin := none, drained := false } else f))
        (s.atTick x)) := by
  refine congrArg Host.Outcome.next (if_neg fun hany => ?_)
  obtain ⟨f, hf, hbad⟩ := List.any_eq_true.mp hany
  obtain ⟨hvc, hmeets⟩ := (Bool.and_eq_true _ _).mp hbad |>.imp_left beq_iff_eq.mp
  obtain ⟨hdst, hway⟩ := h f hf hvc
  have hclear : (f.hops s).1.any (fun y => bitAt fs (y.1 / 192)) = false := List.any_eq_false.mpr fun y hy => by simp [hway y hy]
  simp [hdst, hclear] at hmeets

theorem execHopTableLoad_good (m : Fin 9216) {e : List (BitVec 15)} (s : State) (h : hopOk e = true) : exec (.hopTableLoad m e) s =
    .next ((s.updRouter m (fun r => { r with hop := e.map hopEntry })).updField (m / 192) (fun f => { f with hopPeriod := e.length - 1 })) :=
  congrArg Host.Outcome.next (if_pos h)

/-! ### The statement -/

/-- Settles O34: each command changes the fields that it names, or one router's table with its field's period, and the frame laws of the state say what stays. -/
theorem fixedHopMode : Obligations.FixedHopMode := by
  intro fs n x s
  refine ⟨⟨_, rfl, updGroup_inMode fs .normal _ s⟩, execFixedHopDrainDone_drained, execFixedHopDrainTimeout_late,
    fun h => ⟨_, exec_fixedHopStartTick x h, updGroup_effect fs _ (s.atTick x)⟩, fun h => ⟨_, exec_fixedHopExitTick x h, updGroup_inMode fs .fixedHop _ (s.atTick x)⟩,
    fun m e h => ⟨_, execHopTableLoad_good m s h, ?_⟩⟩
  dsimp only
  rw [State.core_updField, State.core_updRouter_same, State.field_updField_same]
  refine ⟨rfl, rfl, rfl, fun j hj => (State.core_updField ..).trans (s.core_updRouter_ne _ hj), rfl, rfl, fun j hj => ?_⟩
  exact s.field_updField_ne (fun f => { f with hopPeriod := e.length - 1 }) hj

end Sys2Proof.Machine

namespace Sys2Proof.Machine

/-! ## Seam links (O33) -/

/-! ### A seam and a link changed -/

@[simp] theorem State.seam_updSeam_same (s : State) (k : Nat) (f : Seam → Seam) : (s.updSeam k f).seam k = f (s.seam k) := by
  simp [State.seam, State.updSeam]

theorem State.seam_updSeam_ne (s : State) {j k : Nat} (f : Seam → Seam) (h : j ≠ k) : (s.updSeam k f).seam j = s.seam j := by
  simp [State.seam, State.updSeam, AMap.at_upd_ne _ _ _ h]

theorem seam_congr {s t : State} (h : t.fab.seams = s.fab.seams) (k : Nat) : t.seam k = s.seam k := by simp only [State.seam, h]

theorem seam_fabLog (s : State) (router kind seam link pkt rtr tree k : Nat) : (fabLog s router kind seam link pkt rtr tree).seam k = s.seam k := by
  simp only [State.seam, fab_fabLog]

/-- A link as the masthead reads it. -/
def State.link (s : State) (k l : Nat) : SeamLink := AMap.at (s.seam k).links {} l

/-- Every other seam, every other link of seam `k`, the fields and the flits on their way are as before. -/
def keepsLinks (k l : Nat) (s t : State) : Prop :=
  (∀ j, j ≠ k → t.seam j = s.seam j) ∧ (∀ j, j ≠ l → AMap.at (t.seam k).links {} j = AMap.at (s.seam k).links {} j) ∧ t.fab.fields = s.fab.fields ∧ t.fab.flits = s.fab.flits

theorem keepsLinks.trans {k l : Nat} {s t u : State} (h : keepsLinks k l s t) (h' : keepsLinks k l t u) : keepsLinks k l s u := by
  obtain ⟨hseam, hlink, hfields, hflits⟩ := h
  obtain ⟨hseam', hlink', hfields', hflits'⟩ := h'
  exact ⟨fun j hj => (hseam' j hj).trans (hseam j hj), fun j hj => (hlink' j hj).trans (hlink j hj), hfields'.trans hfields, hflits'.trans hflits⟩

theorem keepsLinks_of_fab {s t : State} (h : t.fab = s.fab) (k l : Nat) : keepsLinks k l s t := by
  have hseam := fun j => seam_congr (congrArg Fabric.seams h) j
  exact ⟨fun j _ => hseam j, fun j _ => by rw [hseam], congrArg Fabric.fields h, congrArg Fabric.flits h⟩

theorem keepsLinks_fabLog (s : State) (router kind seam link pkt rtr tree k l : Nat) : keepsLinks k l s (fabLog s router kind seam link pkt rtr tree) := by
  have hfab := fab_fabLog s router kind seam link pkt rtr tree
  exact ⟨fun j _ => seam_fabLog .., fun j _ => by rw [seam_fabLog], (congrArg Fabric.fields hfab :), (congrArg Fabric.flits hfab :)⟩

/-- A change of seam `k` that leaves its other links. -/
theorem keepsLinks_updSeam (s : State) {k l : Nat} {f : Seam → Seam} (h : ∀ j, j ≠ l → AMap.at (f (s.seam k)).links {} j = AMap.at (s.seam k).links {} j) :
    keepsLinks k l s (s.updSeam k f) :=
  ⟨fun _ hj => s.seam_updSeam_ne f hj, fun j hj => by rw [State.seam_updSeam_same, h j hj], rfl, rfl⟩

@[simp] theorem link_updSeamLink_same (s : State) (k l : Nat) (f : SeamLink → SeamLink) : (s.updSeamLink k l f).link k l = f (s.link k l) := by
  simp [State.link, State.updSeamLink]

theorem keepsLinks_updSeamLink (s : State) (k l : Nat) (f : SeamLink → SeamLink) : keepsLinks k l s (s.updSeamLink k l f) :=
  keepsLinks_updSeam s fun _ hj => AMap.at_upd_ne _ _ _ hj

/-! ### A link marked, and the end of its item -/

theorem markRetrain_keeps (s : State) (k l : Nat) : (markRetrain s k l).fab = (s.updSeamLink k l (fun x => { x with pend := true })).fab ∧ (markRetrain s k l).cores = s.cores := by
  unfold markRetrain
  split
  · exact ⟨rfl, rfl⟩
  · exact ⟨rfl, rfl⟩

theorem link_markRetrain (s : State) (k l : Nat) : (markRetrain s k l).link k l = { s.link k l with pend := true } := by
  obtain ⟨hfab, -⟩ := markRetrain_keeps s k l
  rw [State.link, seam_congr (congrArg Fabric.seams hfab)]
  exact link_updSeamLink_same ..

theorem keepsLinks_markRetrain (s : State) (k l : Nat) : keepsLinks k l s (markRetrain s k l) :=
  (keepsLinks_updSeamLink s k l _).trans (keepsLinks_of_fab (markRetrain_keeps s k l).1 k l)

/-- The boundary item of a link's retraining ends, where the link lies within one stepping partition (R166). -/
def retrainEnds (s : State) (k l : Nat) : State := match seamPart s k with | some p => endLuff s p (.retrain k l) | none => s

theorem retrainEnds_keeps (s : State) (k l : Nat) : (retrainEnds s k l).fab = s.fab ∧ (retrainEnds s k l).cores = s.cores := by
  unfold retrainEnds
  split
  next p _ =>
    have hw := works_endLuff s p (.retrain k l)
    exact ⟨congrArg (fun x => x.2.2.1) hw, congrArg Prod.fst hw⟩
  · exact ⟨rfl, rfl⟩

/-! ### What a partition-class fault leaves of the fabric -/

theorem fab_foldl {α : Type} {f : State → α → State} (hf : ∀ s x, (f s x).fab = s.fab) (l : List α) (s : State) : (l.foldl f s).fab = s.fab := by
  induction l generalizing s with
  | nil => rfl
  | cons x l ih => rw [List.foldl_cons, ih, hf]

theorem fab_coreFaultAt (s : State) (m code cyc : Nat) : (coreFaultAt s m code cyc).fab = s.fab :=
  congrArg (fun x : AMap Core × MstBlock × Fabric × (Nat → Group) => x.2.2.1) (works_raiseFault s (s.corePart m) code (m / 192) (m % 192))

theorem fab_violateAt (s : State) (m ctx : Nat) (v : Viol) (cyc : Nat) : (violateAt s m ctx v cyc).fab = s.fab := by
  have h : (evrIndex s 19 (s.partOf (m / 192)) (m / 192)).fab = s.fab := congrArg (fun x => x.2.2.1) (works_evrIndex ..)
  unfold violateAt
  extract_lets s1 p s2
  split
  · exact h
  · exact (fab_coreFaultAt ..).trans h

theorem fab_settle (s : State) (m t : Nat) : (s.settle m t).fab = s.fab := fab_foldl (fun _ _ => fab_violateAt ..) _ _

theorem fab_settleEnd (s : State) (p : Nat) : (s.settleEnd p).fab = s.fab := fab_foldl (fun _ _ => fab_settle ..) _ _

theorem fab_eachCore (s : State) (ms : List Nat) (f : Nat → Core → Core) : (s.eachCore ms f).fab = s.fab := 
  fab_foldl (f := fun s m => s.updCore m (f m)) (fun _ _ => rfl) ms s

/-- A step ended at once drops the fields' overflow passes; the seams stay (R230). -/
theorem seams_endStepNow (s : State) (p : Nat) : (endStepNow s p).fab.seams = s.fab.seams := by
  unfold endStepNow
  split
  · extract_lets s1 s2 s3
    have h : s3.fab = s.fab := (fab_eachCore ..).trans (fab_settleEnd s p)
    obtain ⟨fields, ht⟩ := updFields_eq (s3.fieldsOf p) (fun f => { f with ovf := none }) s3
    rw [ht]
    exact (congrArg Fabric.seams h :)
  · rfl

theorem fab_raiseFaultN (s : State) (p code n c items : Nat) : (raiseFaultN s p code n c items).fab = s.fab :=
  congrArg (fun x : AMap Core × MstBlock × Fabric × (Nat → Group) => x.2.2.1) ((works_evrFault ..).trans (works_logFault s p code n c items))

theorem seams_partFault (s : State) (p code n c status : Nat) (slots : List Nat) : (partFault s p code n c status slots).fab.seams = s.fab.seams := by
  have h := congrArg Fabric.seams (fab_raiseFaultN s p code n c (itemCount s p slots))
  unfold partFault
  dsimp only
  refine (seams_endStepNow _ p).trans ?_
  split
  · exact h
  · exact h

theorem seams_lostFault (s : State) (p code n c status : Nat) (slots : List Nat) : (lostFault s p code n c status slots).fab.seams = s.fab.seams :=
  seams_partFault s p code n c status slots

/-! ### Each command of a link -/

theorem exec_seamLaneLockLoss {k : Fin 88} {l : Fin 16} (s : State) (h : l.val < linkCount k) : exec (.seamLaneLockLoss k l) s =
    .next (markRetrain ((fabLog s (seamEnd k l) 0 k l 0 0 0).updSeamLink k l (fun x => { x with up := false })) k l) :=
  congrArg Host.Outcome.next (if_neg (Nat.not_le.mpr h))

theorem lock_lost {k : Fin 88} {l : Fin 16} (s : State) (h : l.val < linkCount k) : Does (.seamLaneLockLoss k l) s (fun t =>
    t.link k l = { s.link k l with up := false, pend := true } ∧ t.fab.log = s.fab.log.push (fabRecord s (seamEnd k l) 0 k l 0 0 0) ∧ keepsLinks k l s t ∧ t.cores = s.cores) := by
  have hfab := fab_fabLog s (seamEnd k l) 0 k l 0 0 0
  obtain ⟨hmark, hcores⟩ := markRetrain_keeps ((fabLog s (seamEnd k l) 0 k l 0 0 0).updSeamLink k l (fun x => { x with up := false })) k l
  refine ⟨_, exec_seamLaneLockLoss s h, ?_, ?_, ?_, hcores.trans (cores_fabLog ..)⟩
  · rw [link_markRetrain, link_updSeamLink_same, State.link, seam_fabLog, State.link]
  · exact (congrArg Fabric.log hmark).trans (congrArg Fabric.log hfab :)
  · exact ((keepsLinks_fabLog ..).trans (keepsLinks_updSeamLink ..)).trans (keepsLinks_markRetrain ..)

theorem exec_seamErrorWindow {k : Fin 88} {l : Fin 16} (n : Nat) (asked : Bool) (s : State) (h : l.val < linkCount k) : exec (.seamErrorWindow k l ⟨n, asked⟩) s =
    .next (if asked = true ∨ 16 * s.fab.retrainThr < n then markRetrain (s.updSeam k (fun x => { x with ceSym := x.ceSym + n })) k l
      else s.updSeam k (fun x => { x with ceSym := x.ceSym + n })) := by
  refine congrArg Host.Outcome.next ((if_neg (Nat.not_le.mpr h)).trans ?_)
  simp only [Bool.or_eq_true, decide_eq_true_eq]

theorem window_ends {k : Fin 88} {l : Fin 16} (n : Nat) (asked : Bool) (s : State) (h : l.val < linkCount k) : Does (.seamErrorWindow k l ⟨n, asked⟩) s (fun t =>
    (t.seam k).ceSym = (s.seam k).ceSym + n ∧ t.link k l = (if asked = true ∨ 16 * s.fab.retrainThr < n then { s.link k l with pend := true } else s.link k l) ∧
      keepsLinks k l s t ∧ t.cores = s.cores) := by
  have hkeep : keepsLinks k l s (s.updSeam k (fun x => { x with ceSym := x.ceSym + n })) := keepsLinks_updSeam s fun _ _ => rfl
  have hseam : (s.updSeam k (fun x => { x with ceSym := x.ceSym + n })).seam k = { s.seam k with ceSym := (s.seam k).ceSym + n } := s.seam_updSeam_same ..
  have hlink : (s.updSeam k (fun x => { x with ceSym := x.ceSym + n })).link k l = s.link k l := (congrArg (fun x : Seam => AMap.at x.links {} l) hseam :)
  refine ⟨_, exec_seamErrorWindow n asked s h, ?_⟩
  split
  · obtain ⟨hfab, hcores⟩ := markRetrain_keeps (s.updSeam k (fun x => { x with ceSym := x.ceSym + n })) k l
    refine ⟨?_, by rw [link_markRetrain, hlink], hkeep.trans (keepsLinks_markRetrain ..), hcores⟩
    rw [seam_congr (congrArg Fabric.seams hfab), State.updSeamLink, State.seam_updSeam_same, hseam]
  · exact ⟨(congrArg Seam.ceSym hseam :), hlink, hkeep, rfl⟩

/-- A link whose retraining ends now: it is one of its seam's, it may retrain, it is marked, and it has not failed. -/
structure Retrains (s : State) (k : Fin 88) (l : Fin 16) : Prop where
  inSeam : l.val < linkCount k
  may : mayRetrain s k = true
  marked : (s.link k l).pend = true
  alive : (s.link k l).failed = false

/-- The seam after a retraining that ends well: counted, the link up on its spares. -/
def Seam.retrained (x : Seam) (l bad : Nat) : Seam :=
  { x with retrains := satAdd 0xFF x.retrains 1, links := AMap.upd x.links {} l (fun y => { y with up := true, pend := false, spares := bad }) }

/-- The seam after a retraining that fails the link. -/
def Seam.linkFailed (x : Seam) (l : Nat) : Seam :=
  { x with gap := true, retrains := satAdd 0xFF x.retrains 1, links := AMap.upd x.links {} l (fun y => { y with up := false, pend := false, failed := true }) }

theorem Seam.link_retrained (x : Seam) (l bad : Nat) :
    AMap.at (x.retrained l bad).links {} l = { AMap.at x.links {} l with up := true, pend := false, spares := bad } := by simp [Seam.retrained]

theorem Seam.link_retrained_ne (x : Seam) {j l : Nat} (bad : Nat) (h : j ≠ l) : AMap.at (x.retrained l bad).links {} j = AMap.at x.links {} j := by
  simp [Seam.retrained, AMap.at_upd_ne _ _ _ h]

theorem Seam.link_linkFailed (x : Seam) (l : Nat) : AMap.at (x.linkFailed l).links {} l = { AMap.at x.links {} l with up := false, pend := false, failed := true } := by
  simp [Seam.linkFailed]

theorem Retrains.taken {s : State} {k : Fin 88} {l : Fin 16} (h : Retrains s k l) :
    (decide (linkCount k ≤ l.val) || !mayRetrain s k || !(AMap.at (s.seam k).links {} l).pend || (AMap.at (s.seam k).links {} l).failed) = false := by
  have hmarked : (AMap.at (s.seam k).links {} l.val).pend = true := h.marked
  have halive : (AMap.at (s.seam k).links {} l.val).failed = false := h.alive
  simp [Nat.not_le.mpr h.inSeam, h.may, hmarked, halive]

theorem Retrains.well {s : State} {k : Fin 88} {l : Fin 16} (h : Retrains s k l) {n : Nat} (hn : n ≤ 8) : exec (.seamRetrainDone k l n) s =
    .next (retrainEnds ((fabLog s (seamEnd k l) 4 k l 0 0 0).updSeam k (fun x => x.retrained l n)) k l) :=
  congrArg Host.Outcome.next ((if_neg (by rw [h.taken]; exact Bool.false_ne_true)).trans (if_pos hn))

/-- With more than 8 bad lanes the seam has lost the link; the items that end then leave the seams as they are. -/
theorem Retrains.badly {s : State} {k : Fin 88} {l : Fin 16} (h : Retrains s k l) {n : Nat} (hn : 8 < n) : ∃ t, exec (.seamRetrainDone k l n) s = .next t ∧
    t.fab.seams = ((fabLog s (seamEnd k l) 5 k l 0 0 0).updSeam k (fun x => x.linkFailed l)).fab.seams := by
  have hseams := congrArg Fabric.seams (retrainEnds_keeps ((fabLog s (seamEnd k l) 5 k l 0 0 0).updSeam k (fun x => x.linkFailed l)) k l).1
  refine ⟨_, congrArg Host.Outcome.next ((if_neg (by rw [h.taken]; exact Bool.false_ne_true)).trans (if_neg (Nat.not_le.mpr hn))), ?_⟩
  dsimp only
  split
  · split
    · exact (seams_lostFault ..).trans hseams
    · exact hseams
  · exact hseams

theorem Retrains.comesUp {s : State} {k : Fin 88} {l : Fin 16} (h : Retrains s k l) {n : Nat} (hn : n ≤ 8) : Does (.seamRetrainDone k l n) s (fun t =>
    t.link k l = { s.link k l with up := true, pend := false, spares := n } ∧ (t.seam k).retrains = min 0xFF ((s.seam k).retrains + 1) ∧
      t.fab.log = s.fab.log.push (fabRecord s (seamEnd k l) 4 k l 0 0 0) ∧ keepsLinks k l s t ∧ t.cores = s.cores) := by
  have hlog := fab_fabLog s (seamEnd k l) 4 k l 0 0 0
  obtain ⟨hfab, hcores⟩ := retrainEnds_keeps ((fabLog s (seamEnd k l) 4 k l 0 0 0).updSeam k (fun x => x.retrained l n)) k l
  have hkeep : keepsLinks k l (fabLog s (seamEnd k l) 4 k l 0 0 0) ((fabLog s (seamEnd k l) 4 k l 0 0 0).updSeam k (fun x => x.retrained l n)) :=
    keepsLinks_updSeam _ fun _ hj => Seam.link_retrained_ne _ _ hj
  have hseam : (retrainEnds ((fabLog s (seamEnd k l) 4 k l 0 0 0).updSeam k (fun x => x.retrained l n)) k l).seam k = (s.seam k).retrained l n := by
    rw [seam_congr (congrArg Fabric.seams hfab), State.seam_updSeam_same, seam_fabLog]
  refine ⟨_, h.well hn, ?_, ?_, ?_, ((keepsLinks_fabLog ..).trans hkeep).trans (keepsLinks_of_fab hfab k l), hcores.trans (cores_fabLog ..)⟩
  · rw [State.link, hseam]
    exact Seam.link_retrained ..
  · rw [hseam]
    exact satAdd_eq_min ..
  · exact (congrArg Fabric.log hfab).trans (congrArg Fabric.log hlog :)

theorem Retrains.fails {s : State} {k : Fin 88} {l : Fin 16} (h : Retrains s k l) {n : Nat} (hn : 8 < n) : Does (.seamRetrainDone k l n) s (fun t =>
    t.link k l = { s.link k l with up := false, pend := false, failed := true } ∧ (t.seam k).gap = true ∧ (t.seam k).retrains = min 0xFF ((s.seam k).retrains + 1)) := by
  obtain ⟨t, ht, hseams⟩ := h.badly hn
  have hseam : t.seam k = (s.seam k).linkFailed l := by
    rw [seam_congr hseams, State.seam_updSeam_same, seam_fabLog]
  refine ⟨t, ht, ?_, ?_, ?_⟩
  · rw [State.link, hseam]
    exact Seam.link_linkFailed ..
  · rw [hseam]
    rfl
  · rw [hseam]
    exact satAdd_eq_min ..

/-- A link that may not retrain, or is not marked, does not. -/
theorem retrain_refused {s : State} {k : Fin 88} {l : Fin 16} (n : Nat) (h : mayRetrain s k = false ∨ (s.link k l).pend = false) : exec (.seamRetrainDone k l n) s = .next s := by
  refine congrArg Host.Outcome.next (if_pos ?_)
  rcases h with hmay | hpend
  · simp [hmay]
  · have hpend' : (AMap.at (s.seam k).links {} l.val).pend = false := hpend
    simp [hpend']

/-! ### The statement -/

/-- Settles O33: a link is marked by `markRetrain`; a retraining ends by the seam that it leaves, and whatever ends with a failed link leaves the seams. -/
theorem seamRetraining : Obligations.SeamRetraining := by
  intro k l n asked s x y record others hl
  exact ⟨lock_lost s hl, window_ends n asked s hl, fun hmay hpend halive hn => Retrains.comesUp ⟨hl, hmay, hpend, halive⟩ hn,
    fun hmay hpend halive hn => Retrains.fails ⟨hl, hmay, hpend, halive⟩ hn, fun h => ⟨s, retrain_refused n h, rfl⟩⟩

end Sys2Proof.Machine

namespace Sys2Proof.Machine

/-! ## Arrivals in the mesh (O31) -/

/-! ### What is taken out of a list in flight -/

theorem delAt_eq_eraseIdx {α : Type} (l : List α) (i : Nat) : delAt l i = l.eraseIdx i := by
  induction l generalizing i with
  | nil => rfl
  | cons x l ih =>
    cases i with
    | zero => rfl
    | succ i => rw [delAt, List.eraseIdx_cons_succ, ih]

theorem takeAt_of_getElem? {α : Type} {l : List α} {i : Nat} {x : α} (h : l[i]? = some x) : takeAt l i = some (x, l.eraseIdx i) := by
  simp only [takeAt, h, delAt_eq_eraseIdx]

theorem guardArrive_unguarded {s : State} {f : Flit} (h : (s.grp f.part).guarded = false) : guardArrive s f = s := by simp [guardArrive, h]

/-! ### One slot written where an arrival finds room -/

/-- Core `dst` has nothing on its way, and the slot of byte `a` is EMPTY and under no fence (05 Table 5.6). -/
structure SlotFree (s : State) (dst a : Nat) : Prop where
  still : (s.core dst).still
  canonical : Memory.wf (s.core dst).pad = true
  empty : ((s.core dst).tell (a / 64)).st = .empty
  unfenced : (s.core dst).fenced (a / 64) = false

theorem SlotFree.congr {s t : State} {dst a : Nat} (h : SlotFree s dst a) (hc : t.core dst = s.core dst) : SlotFree t dst a := by
  obtain ⟨hstill, hw, he, hf⟩ := h
  exact ⟨by rwa [hc], by rwa [hc], by rwa [hc], by rwa [hc]⟩

/-- Of a core, the slot of byte `a` holds `x` under the telltale `y`; every other byte and telltale is as before, and so is the rest but what the fc has seen. -/
def slotWritten (a : Nat) (x : Slot) (y : Tell) (c d : Core) : Prop :=
  (∀ b, Memory.read d.pad b = if 64 * (a / 64) ≤ b ∧ b < 64 * (a / 64) + 64 then BitVec.ofNat 8 (x.toNat >>> (8 * (b - 64 * (a / 64)))) else Memory.read c.pad b) ∧
  (∀ j, d.tell j = if j = a / 64 then y else c.tell j) ∧ { d with pad := c.pad, tells := c.tells, seen := c.seen, taken := c.taken } = c

/-- The slot written at core `dst`, and no other core changed. -/
def slotWrittenAt (dst a : Nat) (x : Slot) (y : Tell) (s t : State) : Prop :=
  (∀ b, Memory.read (t.core dst).pad b =
    if 64 * (a / 64) ≤ b ∧ b < 64 * (a / 64) + 64 then BitVec.ofNat 8 (x.toNat >>> (8 * (b - 64 * (a / 64)))) else Memory.read (s.core dst).pad b) ∧
  (∀ j, (t.core dst).tell j = if j = a / 64 then y else (s.core dst).tell j) ∧
  { t.core dst with pad := (s.core dst).pad, tells := (s.core dst).tells, seen := (s.core dst).seen, taken := (s.core dst).taken } = s.core dst ∧
  ∀ j, j ≠ dst → t.core j = s.core j

theorem slotWrittenAt_setCore {s u : State} {dst a : Nat} {x : Slot} {y : Tell} {d : Core} (hu : u.cores = s.cores) (h : slotWritten a x y (s.core dst) d) :
    slotWrittenAt dst a x y s (u.setCore dst d) := by
  obtain ⟨hpad, htell, hrest⟩ := h
  unfold slotWrittenAt
  rw [State.core_setCore_same]
  exact ⟨hpad, htell, hrest, fun j hj => (State.core_setCore_ne u d hj).trans (core_congr hu j)⟩

/-- A write of one slot that resolves and finds room, made by what arrives now: it raises nothing, and leaves the slot written. -/
theorem SlotFree.write {s : State} {dst a ph ctx h ofs : Nat} {hold : Bool} (hroom : SlotFree s dst a)
    (hres : (s.core dst).resolve ctx h ofs 64 true (if hold then 3 else 2) = .ok (ph, a)) (tag : Byte) (x : Slot) (poison : Bool) :
    ∃ d, ((s.settleNow dst).core dst).writeAt ctx h ofs 1 tag hold x.toNat poison = (d, none) ∧ (s.settleNow dst).setCore dst d = s.setCore dst d ∧
      slotWritten a x ⟨if poison then .poison else if hold then .held else .full, tag⟩ (s.core dst) d := by
  obtain ⟨n, k, hsettle⟩ := settle_still hroom.still (s.grp (s.corePart dst)).cyc
  have hgood := Core.writeAt_well (c := (s.core dst).atFc n k) (n := 1) (x := tag) (d := x.toNat) (poison := poison) hroom.canonical hres (fun j h1 h2 => by
    obtain rfl : j = a / 64 := by omega
    exact ⟨hroom.empty, hroom.unfenced⟩)
  rw [State.settleNow, hsettle, State.core_setCore_same]
  generalize ((s.core dst).atFc n k).writeAt ctx h ofs 1 tag hold x.toNat poison = r at hgood ⊢
  obtain ⟨d, v⟩ := r
  obtain ⟨hv, hframe, -, hpad, htell⟩ := hgood
  dsimp only at hv hframe hpad htell
  subst hv
  refine ⟨d, rfl, State.setCore_setCore .., hpad, fun j => (htell j).trans ?_, ?_⟩
  · have hj : (a / 64 ≤ j ∧ j < a / 64 + 1) ↔ j = a / 64 := by omega
    simp only [hj]
    rfl
  · exact (congrArg (fun c : Core => { c with seen := (s.core dst).seen, taken := (s.core dst).taken }) hframe :)

/-- A flit of this module that writes one slot of its own (R162). -/
structure Flit.Plain (f : Flit) : Prop where
  ours : f.sheet = none
  unmerged : f.merged = false
  slot : f.pad = 0

theorem Flit.Plain.deliver {f : Flit} (hf : f.Plain) {s : State} {a ph : Nat} (hroom : SlotFree s f.dst a)
    (hres : (s.core f.dst).resolve f.ctx f.handle f.ofs 64 true (if f.hold then 3 else 2) = .ok (ph, a)) (poison : Bool) :
    ∃ d, Machine.deliver s f poison = s.setCore f.dst d ∧
      slotWritten a f.data ⟨if poison then .poison else if f.hold then .held else .full, f.tag⟩ (s.core f.dst) d := by
  obtain ⟨d, hwrite, hset, hd⟩ := hroom.write hres f.tag f.data poison
  refine ⟨d, ?_, hd⟩
  simp only [Machine.deliver, Flit.writes, hf.slot, if_true, hwrite, hf.unmerged, Bool.false_eq_true, if_false, hset, violateOpt, hf.ours]

/-! ### A flit arrives -/

/-- The module once a flit has been taken out and has passed the routers. -/
def flitTaken (s : State) (i : Nat) (f : Flit) : State := passed { s with fab := { s.fab with flits := s.fab.flits.eraseIdx i } } f.vc (routeAll f.from f.dst)

/-- What a packet's passing leaves: nothing but the fabric and the free values differs, and of the fabric what was taken out and the high-water marks. -/
def goesAs (s t : State) (fab : Fabric) : Prop := { t.fab with vcHwm := s.fab.vcHwm } = fab ∧ { t with cores := s.cores, fab := s.fab, free := s.free } = s

/-- A flit that its route does not refuse ends its journey outside a guarded replay. -/
structure FlitEnds (s : State) (i : Nat) (f : Flit) : Prop where
  flying : s.fab.flits[i]? = some f
  allowed : refusedAt s f.part f.from f.dst = none
  unguarded : (s.grp f.part).guarded = false

theorem FlitEnds.visible {s : State} {i : Nat} {f : Flit} (h : FlitEnds s i f) (hs : f.sheet = none) (hv : f.vc ≠ 3) :
    exec (.meshFlitArrive i .visible) s = .next (arrive (flitTaken s i f) f none) := by
  have hg := guardArrive_unguarded (s := { s with fab := { s.fab with flits := s.fab.flits.eraseIdx i } }) (f := f) h.unguarded
  refine congrArg Host.Outcome.next ?_
  simp only [takeAt_of_getElem? h.flying, h.allowed, hg, hs, hv, false_and, Option.isSome_none, Bool.false_eq_true, or_self, if_false]
  rfl

theorem FlitEnds.spoilt {s : State} {i : Nat} {f : Flit} (h : FlitEnds s i f) (k : Fin 88) (l : Fin 16) :
    exec (.meshFlitArrive i (.seamUe k l)) s = .next (arrive (flitTaken s i f) f (some (k, l))) := by
  have hg := guardArrive_unguarded (s := { s with fab := { s.fab with flits := s.fab.flits.eraseIdx i } }) (f := f) h.unguarded
  refine congrArg Host.Outcome.next ?_
  simp only [takeAt_of_getElem? h.flying, h.allowed, hg]
  rfl

theorem FlitEnds.written {s : State} {i a ph : Nat} {f : Flit} (h : FlitEnds s i f) (hf : f.Plain) (hv : f.vc ≠ 3) (hroom : SlotFree s f.dst a)
    (hres : (s.core f.dst).resolve f.ctx f.handle f.ofs 64 true (if f.hold then 3 else 2) = .ok (ph, a)) (hp : f.poison = false) (hl : lostOn s f.links = none) :
    Does (.meshFlitArrive i .visible) s (fun t => goesAs s t { s.fab with flits := s.fab.flits.eraseIdx i } ∧
      slotWrittenAt f.dst a f.data ⟨if f.hold then .held else .full, f.tag⟩ s t) := by
  obtain ⟨d, hd, hw⟩ := hf.deliver (s := flitTaken s i f) (hroom.congr rfl) hres false
  have harr : arrive (flitTaken s i f) f none = (flitTaken s i f).setCore f.dst d := by
    have hlost : lostOn (flitTaken s i f) f.links = none := hl
    simp only [arrive, Option.none_or, hlost, hp, hd]
  refine ⟨_, h.visible hf.ours hv, ?_⟩
  rw [harr]
  exact ⟨⟨rfl, rfl⟩, slotWrittenAt_setCore rfl hw⟩

theorem fab_raiseFault (s : State) (p code field core : Nat) : (raiseFault s p code field core).fab = s.fab :=
  congrArg (fun x : AMap Core × MstBlock × Fabric × (Nat → Group) => x.2.2.1) (works_raiseFault s p code field core)

/-- A flit spoiled on a seam is logged and counted (R165). -/
theorem fab_seamUe (s : State) (p m k l : Nat) : (seamUe s p m k l).fab = { s.fab with
    log := s.fab.log.push (fabRecord s m 0 k l 0 0 0), ueTotal := satAdd 0xFFFFFFFF s.fab.ueTotal 1
    seams := AMap.upd s.fab.seams {} k (fun x => { x with ueCnt := satAdd 0xFF x.ueCnt 1 }) } := by
  unfold seamUe
  dsimp only
  rw [failStep, failStepAt, State.updGrp, State.fab_updPart, fab_raiseFault, fab_fabLog]

theorem seam_seamUe (s : State) (p m k l : Nat) : (seamUe s p m k l).seam k = { s.seam k with ueCnt := satAdd 0xFF (s.seam k).ueCnt 1 } := by
  simp only [State.seam, fab_seamUe, AMap.at_upd_same]

theorem cores_seamUe (s : State) (p m k l : Nat) : (seamUe s p m k l).cores = s.cores := by
  unfold seamUe
  dsimp only
  exact (congrArg Prod.fst (works_raiseFault ..)).trans (cores_fabLog ..)

theorem failStep_fails {s : State} {p : Nat} (code : Nat) (h : (s.grp p).inStep = true) : HasFault p code (failStep s p code) := by
  simp [HasFault, failStep, failStepAt, h]

/-- The step that waits for a spoiled flit fails (R165). -/
theorem seamUe_fails {s : State} {p : Nat} (m k l : Nat) (h : (s.grp p).inStep = true) : HasFault p 5 (seamUe s p m k l) := by
  unfold seamUe
  refine failStep_fails 5 ?_
  rw [grp_raiseFault]
  exact (congrArg (fun g : Nat → Group => (g p).inStep) (grp_fabLog ..)).trans h

theorem FlitEnds.poisoned {s : State} {i a ph : Nat} {f : Flit} (h : FlitEnds s i f) (hf : f.Plain) (hroom : SlotFree s f.dst a)
    (hres : (s.core f.dst).resolve f.ctx f.handle f.ofs 64 true (if f.hold then 3 else 2) = .ok (ph, a)) (k : Fin 88) (l : Fin 16) (hin : (s.grp f.part).inStep = true) :
    Does (.meshFlitArrive i (.seamUe k l)) s (fun t => slotWrittenAt f.dst a f.data ⟨.poison, f.tag⟩ s t ∧ t.fab.ueTotal = min 0xFFFFFFFF (s.fab.ueTotal + 1) ∧
      (t.seam k).ueCnt = min 0xFF ((s.seam k).ueCnt + 1) ∧ ∃ x ∈ (t.grp f.part).faults, x.code = 5) := by
  have hcores := cores_seamUe (flitTaken s i f) f.part (seamReceiver k l f.from f.dst) k l
  have htotal := congrArg Fabric.ueTotal (fab_seamUe (flitTaken s i f) f.part (seamReceiver k l f.from f.dst) k l)
  have hcount := congrArg Seam.ueCnt (seam_seamUe (flitTaken s i f) f.part (seamReceiver k l f.from f.dst) k l)
  have hfault := seamUe_fails (s := flitTaken s i f) (seamReceiver k l f.from f.dst) k l hin
  generalize hu : seamUe (flitTaken s i f) f.part (seamReceiver k l f.from f.dst) k l = u at hcores htotal hcount hfault
  have hcore : u.core f.dst = s.core f.dst := core_congr hcores f.dst
  obtain ⟨d, hd, hw⟩ := hf.deliver (s := u) (hroom.congr hcore) (by rw [hcore]; exact hres) true
  rw [hcore] at hw
  have harr : arrive (flitTaken s i f) f (some (k, l)) = u.setCore f.dst d := by
    simp only [arrive, Option.some_or, hu, hd]
  refine ⟨_, h.spoilt k l, ?_⟩
  rw [harr]
  rw [← satAdd_eq_min, ← satAdd_eq_min]
  exact ⟨slotWrittenAt_setCore hcores hw, htotal, hcount, hfault⟩

/-! ### A flit refused -/

theorem tb_evrSample (s : State) (src part field core : Nat) (value bin : Int) : (evrSample s src part field core value bin).tb = s.tb := by
  unfold evrSample
  dsimp only
  split
  · rfl
  · split
    · rfl
    · rfl

theorem tb_endLuff (s : State) (p : Nat) (src : LuffSrc) : (endLuff s p src).tb = s.tb := by
  unfold endLuff
  dsimp only
  split
  · exact (tb_evrSample ..).trans (tb_evrSample ..)
  · rfl

/-- Of a partition's step, whether it runs; of the module, its cores, its fabric and its time: what the items of a guarded replay leave. -/
structure KeepsStep (s t : State) : Prop where
  cores : t.cores = s.cores
  fab : t.fab = s.fab
  tb : t.tb = s.tb
  inStep : ∀ p, (t.grp p).inStep = (s.grp p).inStep

theorem inStep_updGrp {s : State} {p : Nat} {f : Group → Group} (h : ∀ g, (f g).inStep = g.inStep) (q : Nat) : ((s.updGrp p f).grp q).inStep = (s.grp q).inStep := by
  by_cases hq : q = p
  · subst hq
    rw [State.grp_updGrp_same, h]
  · rw [State.grp, State.updGrp, State.part_updPart_ne _ _ hq, State.grp]

theorem moveArrival_keeps (s : State) (p : Nat) (src : LuffSrc) (u : Option Nat) : KeepsStep s (moveArrival s p src u) := by
  cases u with
  | some u => exact ⟨rfl, rfl, rfl, inStep_updGrp fun _ => rfl⟩
  | none =>
    have hw := works_endLuff s p src
    simp only [State.works, Prod.mk.injEq] at hw
    obtain ⟨hcores, -, hfab, hgrp⟩ := hw
    refine ⟨hcores, hfab, tb_endLuff s p src, fun q => (congrArg (fun g : Nat → Group => (g q).inStep) hgrp).trans ?_⟩
    exact inStep_updGrp (f := fun g => { g with items := g.items.map (fun i => if i.src == src then { i with ended := true } else i) }) (fun _ => rfl) q

theorem guardArrive_keeps (s : State) (f : Flit) : KeepsStep s (guardArrive s f) := by
  unfold guardArrive
  split
  · exact moveArrival_keeps ..
  · exact ⟨rfl, rfl, rfl, fun _ => rfl⟩

/-- A packet refused at a router is logged and counted, and its sender's step fails (R167). -/
theorem isolate_effect {s : State} {p src : Nat} (rtr : Nat) (hsrc : src < 9216) (h : (s.grp (s.corePart src)).inStep = true) :
    let t := isolate s p src rtr true
    t.cores = s.cores ∧ t.fab = { s.fab with log := s.fab.log.push (fabRecord s rtr 1 0 0 p (s.corePart rtr) 0), isoTotal := min 0xFFFFFFFF (s.fab.isoTotal + 1) } ∧
      HasFault (s.corePart src) 7 t := by
  have hfab := fab_fabLog s rtr 1 0 0 p (s.corePart rtr) 0
  generalize hu : ({ fabLog s rtr 1 0 0 p (s.corePart rtr) 0 with fab := { (fabLog s rtr 1 0 0 p (s.corePart rtr) 0).fab with
    isoTotal := satAdd 0xFFFFFFFF (fabLog s rtr 1 0 0 p (s.corePart rtr) 0).fab.isoTotal 1 } } : State) = u
  have hcores : u.cores = s.cores := by rw [← hu]; exact cores_fabLog ..
  have hgrp : u.grp = s.grp := by rw [← hu]; exact grp_fabLog ..
  have hpart : u.corePart src = s.corePart src := by
    rw [← hu, State.corePart, State.field, hfab]
    rfl
  have hufab : u.fab = { s.fab with log := s.fab.log.push (fabRecord s rtr 1 0 0 p (s.corePart rtr) 0), isoTotal := min 0xFFFFFFFF (s.fab.isoTotal + 1) } := by
    rw [← hu, hfab, satAdd_eq_min]
  have hiso : isolate s p src rtr true = coreFault u src 0x07 := by
    rw [← hu]
    exact if_pos (by simp [hsrc])
  obtain ⟨hcores', -, hfault⟩ := coreFault_fails (s := u) (m := src) 7 (by rw [hpart, hgrp]; exact h)
  dsimp only
  rw [hiso]
  exact ⟨hcores'.trans hcores, (fab_coreFaultAt ..).trans hufab, hpart ▸ hfault⟩

theorem Flit.from_of_lt {f : Flit} (h : f.src < 9216) : f.from = f.src := if_pos h

theorem flit_refused {s : State} {i rtr : Nat} (o : FlitEnd) {f : Flit} (hi : s.fab.flits[i]? = some f) (hsrc : f.src < 9216)
    (hr : refusedAt s f.part f.src f.dst = some rtr) (hin : (s.grp (s.corePart f.src)).inStep = true) :
    Does (.meshFlitArrive i o) s (fun t => t.fab.flits = s.fab.flits.eraseIdx i ∧ t.fab.isoTotal = min 0xFFFFFFFF (s.fab.isoTotal + 1) ∧
      t.fab.log = s.fab.log.push (fabRecord s rtr 1 0 0 f.part (s.corePart rtr) 0) ∧ (∃ x ∈ (t.grp (s.corePart f.src)).faults, x.code = 7) ∧ t.cores = s.cores) := by
  let u : State := { s with fab := { s.fab with flits := s.fab.flits.eraseIdx i } }
  have hk := guardArrive_keeps u f
  let v := passed (guardArrive u f) f.vc (routeAll f.from f.dst)
  have hexec : exec (.meshFlitArrive i o) s = .next (isolate v f.part f.src rtr true) := by
    refine congrArg Host.Outcome.next ?_
    have hr' : refusedAt s f.part f.from f.dst = some rtr := by rw [Flit.from_of_lt hsrc, hr]
    simp only [takeAt_of_getElem? hi, hr']
    rfl
  have hpart : ∀ m, v.corePart m = s.corePart m := fun m => (corePart_congr hk.fab m :)
  obtain ⟨hcores, hfab, hfault⟩ := isolate_effect (s := v) (p := f.part) rtr hsrc (by rw [hpart]; exact (hk.inStep _).trans hin)
  have hrec : fabRecord v rtr 1 0 0 f.part (v.corePart rtr) 0 = fabRecord s rtr 1 0 0 f.part (s.corePart rtr) 0 := by
    have htb : v.tb = s.tb := hk.tb
    rw [hpart, fabRecord, htb, fabRecord]
  have hvfab : v.fab.flits = s.fab.flits.eraseIdx i ∧ v.fab.isoTotal = s.fab.isoTotal ∧ v.fab.log = s.fab.log :=
    ⟨(congrArg Fabric.flits hk.fab :), (congrArg Fabric.isoTotal hk.fab :), (congrArg Fabric.log hk.fab :)⟩
  obtain ⟨hflits, htotal, hlog⟩ := hvfab
  refine ⟨_, hexec, ?_⟩
  dsimp only
  rw [hfab, ← hflits, ← htotal, ← hlog, ← hrec, ← hpart f.src]
  exact ⟨rfl, rfl, rfl, hfault, hcores.trans hk.cores⟩

end Sys2Proof.Machine

namespace Sys2Proof.Machine

/-! ### A VC0 message -/

/-- The module once a VC0 message has been taken out and has passed the routers. -/
def vc0Taken (s : State) (i : Nat) (f : Vc0Msg) : State := passed { s with fab := { s.fab with vc0 := s.fab.vc0.eraseIdx i } } 0 (routeAll (vc0From s f.dst) f.dst)

theorem vc0_delivered {s : State} {i a ph : Nat} {f : Vc0Msg} (hi : s.fab.vc0[i]? = some f) (hpart : s.corePart f.dst = f.part) (hroom : SlotFree s f.dst a)
    (hl : lostOn s (vc0Links s f.dst) = none) (hq : waitsOn s (vc0Links s f.dst) = false) (hres : (s.core f.dst).resolve f.ctx f.handle f.ofs 64 true 2 = .ok (ph, a)) :
    Does (.vc0MessageDeliver ⟨i, none⟩) s (fun t => goesAs s t { s.fab with vc0 := s.fab.vc0.eraseIdx i } ∧ slotWrittenAt f.dst a f.data ⟨.full, 0x01#8⟩ s t) := by
  obtain ⟨d, hwrite, hset, hd⟩ := SlotFree.write (s := vc0Taken s i f) (hold := false) (hroom.congr rfl) hres 1#8 f.data false
  have hlost : lostOn (vc0Taken s i f) (vc0Links s f.dst) = none := hl
  have hexec : exec (.vc0MessageDeliver ⟨i, none⟩) s = .next ((vc0Taken s i f).setCore f.dst d) := by
    refine congrArg Host.Outcome.next ?_
    simp only [vc0Taken] at hlost hwrite hset
    simp only [takeAt_of_getElem? hi, hq, hpart, bne_self_eq_false, Bool.false_eq_true, if_false, spoiltOn, Option.map_none, Option.none_or, hlost, Option.isSome_none, hwrite,
      violateOpt, hset, vc0Taken]
  exact ⟨_, hexec, ⟨rfl, rfl⟩, slotWrittenAt_setCore rfl hd⟩

/-! ### A reduction flit and a merge request -/

/-- Of router `m` its state is `r`; nothing else of the core, and no other core, differs. -/
def routerIs (m : Nat) (r : Router) (s t : State) : Prop :=
  (t.core m).router = r ∧ { t.core m with router := (s.core m).router } = s.core m ∧ ∀ j, j ≠ m → t.core j = s.core j

theorem routerIs_updRouter {s u : State} (hu : u.cores = s.cores) (m : Nat) (f : Router → Router) : routerIs m (f (s.core m).router) s (u.updRouter m f) := by
  unfold routerIs
  rw [State.core_updRouter_same, core_congr hu]
  exact ⟨rfl, rfl, fun j hj => (u.core_updRouter_ne f hj).trans (core_congr hu j)⟩

/-- The module once a reduction flit has been taken out and has passed the routers. -/
def redTaken (s : State) (i : Nat) (f : RedFlit) : State := passed { s with fab := { s.fab with reds := s.fab.reds.eraseIdx i } } 1 (routeAll f.src f.dst)

/-- The sum that the first input of a node opens (R170). -/
def RedFlit.sum (f : RedFlit) : RedSum := { tree := f.tree, fidx := f.fidx, tag := f.tag, upto := 1, data := f.data, poison := f.poison, due := f.due }

/-- A router with the sum of a flit opened, its high-water mark kept. -/
def Router.opensSum (r : Router) (f : RedFlit) : Router := { r with sums := r.sums ++ [f.sum], redHwm := max r.redHwm (r.parts.length + (r.sums ++ [f.sum]).length) }

theorem guardRed_unguarded {s : State} {f : RedFlit} (h : (s.grp f.part).guarded = false) : guardRed s f = s := by simp [guardRed, h]

/-- A flit that is allowed to its node, which is of its tree and holds nothing, as the node's first input (R170, R171). -/
structure FirstInput (s : State) (i : Nat) (f : RedFlit) : Prop where
  flying : s.fab.reds[i]? = some f
  allowed : refusedAt s f.part f.src f.dst = none
  sound : lostLink s f.src f.dst = none
  unguarded : (s.grp f.part).guarded = false
  valid : rnValid (s.redEntry f.dst f.tree) = true
  several : 1 < rnNin (s.redEntry f.dst f.tree)
  first : f.place = 0
  noParts : (s.core f.dst).router.parts = []
  noSums : (s.core f.dst).router.sums = []
  good : (f.tree, f.fidx, f.tag) ∉ (s.core f.dst).router.bad

theorem FirstInput.arrives {s : State} {i : Nat} {f : RedFlit} (h : FirstInput s i f) :
    exec (.reductionFlitArrive ⟨i, none⟩) s = .next ((redTaken s i f).updRouter f.dst (fun r => r.opensSum f)) := by
  have hg := guardRed_unguarded (s := { s with fab := { s.fab with reds := s.fab.reds.eraseIdx i } }) (f := f) h.unguarded
  have hmatch : (!rnValid (s.redEntry f.dst f.tree) || decide (rnNin (s.redEntry f.dst f.tree) ≤ 0) || false) = false := by
    simp [h.valid, Nat.not_le.mpr (Nat.lt_trans Nat.zero_lt_one h.several)]
  have hbad : (s.core f.dst).router.bad.contains (f.tree, f.fidx, f.tag) = false := by simpa using h.good
  refine congrArg Host.Outcome.next ?_
  simp only [takeAt_of_getElem? h.flying, h.allowed, h.sound, hg, spoiltOn, Option.map_none, Option.none_or, Option.isSome_none, hbad, Bool.or_self, Bool.false_eq_true, if_false,
    h.first, h.noParts, h.noSums, List.any_nil, hmatch, Nat.ne_of_gt h.several, List.length_nil, if_true]
  rfl

theorem FirstInput.opens {s : State} {i : Nat} {f : RedFlit} (h : FirstInput s i f) :
    Does (.reductionFlitArrive ⟨i, none⟩) s (fun t => goesAs s t { s.fab with reds := s.fab.reds.eraseIdx i } ∧
      routerIs f.dst { (s.core f.dst).router with sums := [f.sum], redHwm := max (s.core f.dst).router.redHwm 1 } s t) := by
  have hr : (s.core f.dst).router.opensSum f = { (s.core f.dst).router with sums := [f.sum], redHwm := max (s.core f.dst).router.redHwm 1 } := by
    simp [Router.opensSum, h.noParts, h.noSums]
  refine ⟨_, h.arrives, ⟨rfl, rfl⟩, ?_⟩
  rw [← hr]
  exact routerIs_updRouter rfl f.dst _

/-- The module once a merge request has been taken out and has passed the routers. -/
def mergeTaken (s : State) (i : Nat) (x : MergeMsg) : State := passed { s with fab := { s.fab with merges := s.fab.merges.eraseIdx i } } 2 (routeAll x.req.core x.holder)

/-- The entry that a sound request opens (R173). -/
def MergeMsg.entry (x : MergeMsg) : MergeEnt :=
  { group := x.group, tag := x.tag, handle := x.handle, ofs := x.ofs, ctx := x.sctx, run := x.run, want := x.want, reqs := [{ x.req with poison := false }] }

/-- A request whose key has no entry, at a router with none, opens one; nothing is missed where its key has not been closed. -/
theorem mergeRequest_opens {s : State} {h : Nat} {new : MergeEnt} (full : Nat) (hm : (s.core h).router.merges = []) (hc : (new.group, new.tag) ∉ (s.core h).router.closed) :
    mergeRequest s h new full = s.updRouter h (fun r => { r with merges := [new] }) := by
  simp [mergeRequest, State.updRouter, State.updCore, hm, hc]

theorem merge_opens {s : State} {i : Nat} {x : MergeMsg} (hi : s.fab.merges[i]? = some x) (ha : refusedAt s x.part x.req.core x.holder = none)
    (hl : lostLink s x.req.core x.holder = none) (hm : (s.core x.holder).router.merges = []) (hw : (s.core x.holder).router.waiting = [])
    (hc : (x.group, x.tag) ∉ (s.core x.holder).router.closed) :
    Does (.mergeRequestArrive ⟨i, none⟩) s (fun t => goesAs s t { s.fab with merges := s.fab.merges.eraseIdx i } ∧
      routerIs x.holder { (s.core x.holder).router with merges := [x.entry] } s t) := by
  have hopen := mergeRequest_opens (s := mergeTaken s i x) (new := x.entry) 1 hm hc
  have hwait : (((mergeTaken s i x).updRouter x.holder (fun r => { r with merges := [x.entry] })).core x.holder).router.waiting = [] := by
    rw [State.core_updRouter_same]
    exact hw
  have hexec : exec (.mergeRequestArrive ⟨i, none⟩) s = .next ((mergeTaken s i x).updRouter x.holder (fun r => { r with merges := [x.entry] })) := by
    refine congrArg Host.Outcome.next ?_
    simp only [mergeTaken, MergeMsg.entry] at hopen hwait
    simp only [takeAt_of_getElem? hi, ha, hl, spoiltOn, Option.map_none, Option.none_or, Option.isSome_none, hopen, hwait, List.foldl_nil, mergeTaken, MergeMsg.entry]
  exact ⟨_, hexec, ⟨rfl, rfl⟩, routerIs_updRouter rfl x.holder fun r => { r with merges := [x.entry] }⟩

/-! ### The credit of a send -/

theorem any_eq_false_of_all {α : Type} {l : List α} {p q : α → Bool} (h : l.all p = true) (hq : ∀ x, q x = !p x) : l.any q = false :=
  List.any_eq_false.mpr fun x hx => by simp [hq, List.all_eq_true.mp h x hx]

theorem credit_frees {m : Fin 9216} {k : Track} {s : State} (hk : (s.core m).tracks.find? (fun e => e.id == k.id && (e.kind == .meshSend || e.kind == .dispatch)) = some k)
    (hf : s.fab.flits.all (fun f => f.merged || f.src != m.val || f.trk != k.id) = true) (hr : s.fab.reds.all (fun f => f.node || f.src != m.val || f.trk != k.id) = true)
    (hs : (s.slice (s.corePart m)).sends.all (fun x => x.core != m.val || x.trk != k.id) = true) :
    Does (.deliveryCreditReturn m k.id) s (onlyOneCore m (fun c d => d = { c with tracks := c.tracks.filter (fun e => e.id != k.id) }) s) := by
  have hflits : s.fab.flits.any (fun f => f.src == m.val && f.trk == k.id && !f.merged) = false := any_eq_false_of_all hf fun f => by cases f.merged <;> simp [bne]
  have hreds : s.fab.reds.any (fun f => !f.node && f.src == m.val && f.trk == k.id) = false := any_eq_false_of_all hr fun f => by cases f.node <;> simp [bne]
  have hsends : (s.slice (s.corePart m)).sends.any (fun x => x.core == m.val && x.trk == k.id) = false := any_eq_false_of_all hs fun x => by simp [bne]
  refine ⟨_, congrArg Host.Outcome.next (if_neg ?_), onlyOneCore_updCore ?_⟩
  · rw [hflits, hreds, hsends]
    exact Bool.false_ne_true
  · rw [hk]
    rfl

/-! ### The statement -/

/-- Settles O31: each arrival by the module that its passing leaves and by the one slot, sum or entry that it makes; a refusal by what `isolate` does. -/
theorem meshArrivals : Obligations.MeshArrivals := by
  unfold Obligations.MeshArrivals
  extract_lets wrote goes room
  refine ⟨fun i ph a f s hi ha hsheet hmerged hpad hv hg hroom hres => ⟨fun hp hl => ?_, fun k l hin => ?_⟩, fun i ph a f s hi hpart hroom hl hq hres => ?_,
    fun i f s hi ha hl hg hvalid hnin hplace hparts hsums hbad => ?_, fun i x s hi ha hl hm hw hc => merge_opens hi ha hl hm hw hc,
    fun m k s hk hf hr hs => credit_frees hk hf hr hs, fun i rtr o f s hi hsrc hr hin => flit_refused o hi hsrc hr hin⟩
  · obtain ⟨hstill, hwf, he, hfence⟩ := hroom
    exact FlitEnds.written ⟨hi, ha, hg⟩ ⟨hsheet, hmerged, hpad⟩ hv ⟨hstill, hwf, he, hfence⟩ hres hp hl
  · obtain ⟨hstill, hwf, he, hfence⟩ := hroom
    exact FlitEnds.poisoned ⟨hi, ha, hg⟩ ⟨hsheet, hmerged, hpad⟩ ⟨hstill, hwf, he, hfence⟩ hres k l hin
  · obtain ⟨hstill, hwf, he, hfence⟩ := hroom
    exact vc0_delivered hi hpart ⟨hstill, hwf, he, hfence⟩ hl hq hres
  · exact FirstInput.opens ⟨hi, ha, hl, hg, hvalid, hnin, hplace, hparts, hsums, hbad⟩

end Sys2Proof.Machine

namespace Sys2Proof.Machine

/-! ## Reduction additions and closing merge entries (O32) -/

/-! ### An addition -/

theorem sendResults_none {s : State} {m tree tag : Nat} {e : BitVec 32} (h : (s.core m).router.sendable (rnNin e) tree tag = none) (n : Nat) :
    sendResults m tree tag e n s = s := by
  cases n with
  | zero => rfl
  | succ n => rw [sendResults, h]

/-- A node's one sum is not sent before it holds every input (R170). -/
theorem Router.sendable_incomplete {r : Router} {x : RedSum} {nin : Nat} (hs : r.sums = [x]) (hx : x.upto ≠ nin) (tree tag : Nat) : r.sendable nin tree tag = none := by
  simp only [Router.sendable, hs, List.find?_eq_none]
  intro y hy
  obtain rfl : y = x := List.mem_singleton.mp (List.mem_of_mem_filter hy)
  simp [hx]

/-- The sum with one more input, in fixed order (R170). -/
def RedSum.add (x : RedSum) (y : RedPart) : RedSum := { x with upto := x.upto + 1, data := addFlits x.data y.data, due := max x.due y.due + 3 }

/-- A node holds one sum, and the input that comes next in its order, and neither is poison. -/
structure AddsNext (r : Router) (tree fidx tag : Nat) (x : RedSum) (y : RedPart) : Prop where
  sums : r.sums = [x]
  parts : r.parts = [y]
  sumKey : x.tree = tree ∧ x.fidx = fidx ∧ x.tag = tag
  partKey : y.tree = tree ∧ y.fidx = fidx ∧ y.tag = tag
  next : y.place = x.upto
  sumGood : x.poison = false
  partGood : y.poison = false

theorem AddsNext.exec {m : Fin 9216} {s : State} {tree : Fin 64} {fidx : Fin 512} {tag : BitVec 8} {x : RedSum} {y : RedPart}
    (h : AddsNext (s.core m).router tree fidx tag.toNat x y) (hin : x.upto + 1 ≠ rnNin (s.redEntry m tree)) :
    Machine.exec (.reductionAddDone m tree fidx tag) s = .next (s.updRouter m (fun r => { r with parts := [], sums := [x.add y] })) := by
  obtain ⟨hsums, hparts, ⟨hxt, hxf, hxg⟩, ⟨hyt, hyf, hyg⟩, hnext, hxp, hyp⟩ := h
  have hrouter : s.updRouter m (fun r => { r with parts := [], sums := [x.add y] }) =
      s.updRouter m (fun r => { r with parts := r.parts.filter (fun z => z != y), sums := r.sums.filter (fun z => z != x) ++ [x.add y] }) := by
    simp [State.updRouter, State.updCore, hsums, hparts]
  have hsent : ((s.updRouter m (fun r => { r with parts := r.parts.filter (fun z => z != y), sums := r.sums.filter (fun z => z != x) ++ [x.add y] })).core m).router.sendable
      (rnNin (s.redEntry m tree)) tree tag.toNat = none := by
    rw [← hrouter, State.core_updRouter_same]
    exact Router.sendable_incomplete rfl hin _ _
  have hadd : ({ x with upto := x.upto + 1, data := addFlits x.data y.data, poison := false, due := max x.due y.due + 3 } : RedSum) = x.add y := by
    rw [RedSum.add, ← hxp]
  refine congrArg Host.Outcome.next ?_
  rw [hrouter]
  have hx : [x].find? (fun z => z.tree == tree.val && z.fidx == fidx.val && z.tag == tag.toNat) = some x := by simp [hxt, hxf, hxg]
  have hy : [y].find? (fun z => z.tree == tree.val && z.fidx == fidx.val && z.tag == tag.toNat && z.place == x.upto) = some y := by simp [hyt, hyf, hyg, hnext]
  simp only [hsums, hparts, hx, hy, hxp, hyp, Bool.or_self, Bool.false_eq_true, if_false, hadd]
  exact sendResults_none hsent _

/-! ### An entry served -/

theorem Sail.handOver_none {y : Sail} (h : y.hand = none) (t : Nat) : y.handOver t = y := by simp [Sail.handOver, h]

/-- On a core with no hand-over issued none takes effect. -/
theorem Core.still.handOver {c : Core} (h : c.still) (t : Nat) : c.sails.map (fun y => y.handOver t) = c.sails := by
  apply Vector.ext
  intro j hj
  rw [Vector.getElem_map]
  exact Sail.handOver_none (by simpa [Core.sail, hj] using h.2 j) t

/-- A core that has emptied no slot in its fc, with nothing on its way, is as it stands in any fc. -/
theorem settle_untaken {s : State} {m : Nat} (h : (s.core m).still) (ht : (s.core m).taken = []) (t : Nat) :
    ∃ n, s.settle m t = s.setCore m { s.core m with seen := n } := by
  rw [settle_quiet t h.1 (h.handOver t), Core.reach]
  split
  · exact ⟨(s.core m).seen, rfl⟩
  · exact ⟨t, by rw [← ht]⟩

/-- The flits that answer the requesters of a run read from byte `a` (R173). -/
def MergeEnt.answers (en : MergeEnt) (s : State) (h a : Nat) : List Flit :=
  en.reqs.flatMap (fun q => (List.range en.run).map (fun i => {
    src := h, trk := q.trk, part := s.corePart h, dst := q.core, ctx := q.ctx, handle := q.handle, ofs := q.ofs + 64 * i, tag := q.tag, hold := q.hold
    data := Memory.slotAt (s.core h).pad (a + 64 * i), poison := false, due := q.due + (if (hops s h q.core).2 = 0 then 1 else 2) * i, vc := 2, merged := true }))

/-- The run of an entry reads well at its holder, and no seam has spoiled a request. -/
structure RunReads (s : State) (h : Nat) (en : MergeEnt) (ph a : Nat) : Prop where
  still : (s.core h).still
  untaken : (s.core h).taken = []
  sound : ∀ q ∈ en.reqs, q.poison = false
  resolves : (s.core h).resolve en.ctx en.handle en.ofs (64 * en.run) false 0 = .ok (ph, a)
  tells : ∀ j, a / 64 ≤ j → j < a / 64 + en.run → (((s.core h).tell j).st = .full ∨ ((s.core h).tell j).st = .held) ∧ ((s.core h).tell j).tag = en.tag

theorem RunReads.serve {s : State} {h ph a : Nat} {en : MergeEnt} (hr : RunReads s h en ph a) :
    ∃ n, mergeServe s h en = launch (s.setCore h { s.core h with seen := n }) (en.answers s h a) := by
  obtain ⟨n, hsettle⟩ := settle_untaken hr.still hr.untaken (s.grp (s.corePart h)).cyc
  refine ⟨n, ?_⟩
  have hres : ({ s.core h with seen := n } : Core).resolve en.ctx en.handle en.ofs (64 * en.run) false 0 = .ok (ph, a) := hr.resolves
  have hseen : ∀ j, ({ s.core h with seen := n } : Core).seenTell j = (s.core h).tell j := fun j => by
    show AMap.at (s.core h).taken ((s.core h).tell j) j = _
    rw [hr.untaken, AMap.at_nil]
  have hgood : ∀ j, a / 64 ≤ j → j < a / 64 + en.run → ((({ s.core h with seen := n } : Core).seenTell j).st = .full ∨
      (({ s.core h with seen := n } : Core).seenTell j).st = .held) ∧ (({ s.core h with seen := n } : Core).seenTell j).tag = en.tag := fun j h1 h2 => by
    rw [hseen]
    exact hr.tells j h1 h2
  have hslot : ∀ i, i < en.run → (({ s.core h with seen := n } : Core).readSlot ph (a / 64 + i) en.tag false).2.1 = false := fun i hi => by
    obtain ⟨hst, htag⟩ := hgood (a / 64 + i) (Nat.le_add_right ..) (by omega)
    obtain ⟨d, hd, -⟩ := Core.readSlot_good ph false hst htag
    rw [hd]
  obtain ⟨-, hviol, -⟩ := readSlots_good ph en.tag false en.run (a / 64) ⟨{ s.core h with seen := n }, 0, false, none⟩ rfl rfl hgood
  simp only [mergeServe, State.settleNow, hsettle, State.core_setCore_same, hres, hviol, violateOpt]
  refine congrArg (launch _) (List.flatMap_congr fun q hq => ?_)
  rw [← List.map_prod_left_eq_zip, List.map_map]
  refine List.map_congr_left fun i hi => ?_
  simp only [Function.comp_apply, hslot i (List.mem_range.mp hi), hr.sound q hq, Option.isSome_none, Bool.or_self, Bool.false_eq_true, if_false]
  rfl

theorem core_launch_setCore (s : State) (m : Nat) (c : Core) (fl : List Flit) : (launch (s.setCore m c) fl).core m = c := State.core_setCore_same ..

theorem RunReads.closes {m : Fin 9216} {s : State} {ph a : Nat} {en : MergeEnt} (hr : RunReads s m en ph a) {g : Fin 16} {tag : BitVec 8}
    (hm : (s.core m).router.merges = [en]) (hw : (s.core m).router.waiting = []) (hg : en.group = g) (ht : en.tag = tag) (hfew : en.reqs.length < en.want)
    (hc : (en.group, en.tag) ∉ (s.core m).router.closed) :
    ∃ n, exec (.mergeEntryClose m g tag) s = .next ((launch (s.setCore m { s.core m with seen := n }) (en.answers s m a)).updRouter m
      (fun r => { r with merges := [], closed := r.closed ++ [(en.group, en.tag)] })) := by
  obtain ⟨n, hserve⟩ := hr.serve
  refine ⟨n, congrArg Host.Outcome.next ?_⟩
  have hfind : [en].find? (fun e => e.group == g.val && e.tag == tag) = some en := by simp [hg, ht]
  simp only [hm, hfind, mergeClose, hw, List.foldl_nil, mergeServed, hserve, State.updRouter, State.updCore, core_launch_setCore]
  simp [hc, Nat.not_le.mpr hfew]

/-! ### The statement -/

/-- Settles O32: an addition by the router that it leaves, since no sum is complete; a close by the run that every requester is answered with. -/
theorem reductionsAndMerges : Obligations.ReductionsAndMerges := by
  intro m s r
  refine ⟨fun tree fidx tag x y hsums hparts hxt hxf hxg hyt hyf hyg hnext hin hxp hyp => ?_, fun g tag e ph a hm hw hg ht hfew hc hstill htaken hsound hres _ htells => ?_⟩
  · exact ⟨_, AddsNext.exec ⟨hsums, hparts, ⟨hxt, hxf, hxg⟩, ⟨hyt, hyf, hyg⟩, hnext, hxp, hyp⟩ hin, onlyOneCore_updCore rfl⟩
  · obtain ⟨n, hexec⟩ := RunReads.closes ⟨hstill, htaken, hsound, hres, htells⟩ hm hw hg ht hfew hc
    refine ⟨_, hexec, rfl, ?_, fun j hj => ?_, rfl⟩
    · rw [State.core_updRouter_same, core_launch_setCore]
    · exact (State.core_updRouter_ne _ _ hj).trans (State.core_setCore_ne s _ hj)

end Sys2Proof.Machine

namespace Sys2Proof.Machine

/-! ## Scalar operations and immediate loads (O3) -/

/-! ### A context that its instruction moves on -/

/-- Core `c` after a slot instruction of context `i` that issued in fc `k` and left the context as `y`. -/
def Core.moved (c : Core) (i : Fin 4) (k n : Nat) (y : Ctx) : Core := (c.begun i k n).setTc i y

@[simp] theorem Core.tc_moved (c : Core) (i : Fin 4) (k n : Nat) (y : Ctx) : (c.moved i k n y).tc i = y := Core.tc_setTc_same ..

theorem State.updCtx_updCtx (s : State) (m : Nat) (i : Fin 4) (f g : Ctx → Ctx) : (s.updCtx m i f).updCtx m i g = s.updCtx m i (fun x => g (f x)) := by
  simp [State.updCtx, State.updCore, Core.setTc_eq, Core.tc]

section
variable {q : Issue} {k n : Nat} {s u : State} (hu : Begins q k n s u) {y : Ctx}
include hu

/-- A slot instruction whose effect is on its context. -/
theorem Begins.updCtx_eq (f : Ctx → Ctx) :
    u.updCtx q.core q.ctx f = u.setCore q.core ((s.core q.core).moved q.ctx k n (f (((s.core q.core).tc q.ctx).begun k))) := by
  simp [State.updCtx, State.updCore, hu.core, Core.moved]

theorem Begins.regFrame_moved (hy : Ctx.onlyRegs ((s.core q.core).tc q.ctx) y) : regFrame q s (u.setCore q.core ((s.core q.core).moved q.ctx k n y)) := by
  refine hu.regFrame_setCore (Core.onlyCtx_setTc (Core.onlyCtx_begun ..) _ _) (fun j hj => ?_) (by rwa [Core.tc_moved])
  rw [Core.moved, Core.tc_setTc_ne _ _ hj, Core.tc_begun_ne _ _ _ _ hj]

/-- A slot instruction whose context has scalar register `d` written, and its place moved on. -/
theorem Begins.writesS_moved {d : Nat} (hd : d < 32) {v : SReg} {t : Nat} {f : Ctx → Ctx} (hs : ∀ x r, (f x).sAt r = x.sAt r) (hv : ∀ x r, (f x).vAt r = x.vAt r)
    (hf : ∀ {x y}, Ctx.onlyRegs x y → Ctx.onlyRegs x (f y)) :
    writesS q d v s (u.setCore q.core ((s.core q.core).moved q.ctx k n (f ((((s.core q.core).tc q.ctx).begun k).wrS d v t)))) := by
  refine ⟨?_, fun r hr => ?_, fun r => ?_, hu.regFrame_moved (hf (Ctx.onlyRegs_wrS (Ctx.onlyRegs_begun ..) ..))⟩ <;>
    rw [State.core_setCore_same, Core.tc_moved]
  · rw [hs, Ctx.sAt_wrS_same _ _ _ hd]
  · rw [hs, Ctx.sAt_wrS_ne _ _ _ hr, Ctx.sAt_begun]
  · rw [hv, Ctx.vAt_wrS, Ctx.vAt_begun]

end

/-- A control-slot instruction that writes one scalar register. -/
theorem issueCtrl_writesS {s0 s : State} {q : Issue} {rs : List Nat} {k d : Nat} (h : issuesAt s0 q false rs [] k s) (hd : d < 32) {g : State → Nat → State}
    {v : Ctx → SReg} {t : Nat} (hv : v (((s.core q.core).tc q.ctx).begun k) = v ((s.core q.core).tc q.ctx))
    (hg : ∀ u n, Begins q k n s u → g u k = u.updCtx q.core q.ctx (fun x => x.wrS d (v x) t)) :
    writesS q d (v ((s.core q.core).tc q.ctx)) s (issueCtrl s0 q rs g) := by
  obtain ⟨u, n, hu, e⟩ := issueCtrl_begins h g
  rw [e, hg u n hu, State.updCtx_updCtx, hu.updCtx_eq, hv]
  exact hu.writesS_moved hd (f := fun x => x.advance.holdTo (k + 1)) (fun _ _ => by simp) (fun _ _ => by simp)
    fun hy => Ctx.onlyRegs_holdTo (Ctx.onlyRegs_advance hy) _

/-! ### Two-operand operations -/

theorem cSd_lt (w : BitVec 48) : cSd w < 32 := bitsN_lt w 6 5

/-- A two-operand scalar operation (08 R204). -/
theorem scalarOp_writesS {s0 s : State} {q : Issue} {w : BitVec 48} {k : Nat} (h : issuesAt s0 q false (scalarRegs w) [] k s) (f : Dword → Dword → Dword) :
    let a := ((s.core q.core).tc q.ctx).rdS (cSa w)
    let b := operandSb ((s.core q.core).tc q.ctx) w
    writesS q (cSd w) (if a.poison || b.poison then poisonS else ⟨f a.val b.val, false⟩) s (scalarOp q w f s0) :=
  issueCtrl_writesS h (cSd_lt w)
    (v := fun x => if (x.rdS (cSa w)).poison || (operandSb x w).poison then poisonS else ⟨f (x.rdS (cSa w)).val (operandSb x w).val, false⟩) rfl fun _ _ _ => rfl

/-! ### Immediate loads -/

/-- The upper half of a doubleword replaced. -/
theorem setBits_high32 (x : Dword) (r : BitVec 32) : setBits x 32 32 r.toNat = r ++ x.setWidth 32 := by
  have hm : BitVec.ofNat 64 ((2 ^ 32 - 1) <<< 32) = (BitVec.allOnes 32).setWidth 64 <<< 32 := by decide
  have hr : BitVec.ofNat 64 ((r.toNat % 2 ^ 32) <<< 32) = r.setWidth 64 <<< 32 := by
    apply BitVec.eq_of_toNat_eq
    rw [BitVec.toNat_shiftLeft, BitVec.toNat_setWidth_of_le (by decide), BitVec.toNat_ofNat, Nat.mod_eq_of_lt r.isLt]
  unfold setBits
  rw [hm, hr]
  apply BitVec.eq_of_getLsbD_eq
  intro i hi
  rw [BitVec.getLsbD_append, BitVec.getLsbD_or, BitVec.getLsbD_and, BitVec.getLsbD_not, BitVec.getLsbD_shiftLeft, BitVec.getLsbD_shiftLeft, BitVec.getLsbD_setWidth,
    BitVec.getLsbD_setWidth, BitVec.getLsbD_allOnes, BitVec.getLsbD_setWidth]
  by_cases h : i < 32
  · simp [h, hi]
  · have h1 : i - 32 < 32 := by omega
    have h2 : i - 32 < 64 := by omega
    simp [h, hi, h1, h2]

/-- SLI (08 R204). -/
theorem sli_writesS {s0 s : State} {q : Issue} {w : BitVec 48} {k : Nat} (h : issuesAt s0 q false [cSd w] [] k s) (hw : bitsN w 11 5 = 0) :
    Does (.sli q w) s0 (writesS q (cSd w) ⟨(w.extractLsb' 16 32).signExtend 64, false⟩ s) :=
  ⟨_, rfl, issueCtrl_writesS h (cSd_lt w) (v := fun _ => ⟨(w.extractLsb' 16 32).signExtend 64, false⟩) rfl fun _ _ _ =>
    legalOr_good (by simp [firstCause, hw])⟩

/-- SLIH (08 R204). -/
theorem slih_writesS {s0 s : State} {q : Issue} {w : BitVec 48} {k : Nat} (h : issuesAt s0 q false [cSd w] [] k s) (hw : bitsN w 11 5 = 0) :
    let d := ((s.core q.core).tc q.ctx).rdS (cSd w)
    Does (.slih q w) s0 (writesS q (cSd w) (if d.poison then poisonS else ⟨w.extractLsb' 16 32 ++ d.val.setWidth 32, false⟩) s) := by
  refine ⟨_, rfl, ?_⟩
  rw [← setBits_high32]
  exact issueCtrl_writesS h (cSd_lt w) (v := fun x => if (x.rdS (cSd w)).poison then poisonS else ⟨setBits (x.rdS (cSd w)).val 32 32 (bitsN w 16 32), false⟩) rfl fun _ _ _ =>
    legalOr_good (by simp [firstCause, hw])

/-- Settles O3: the eight operations are `scalarOp`, the immediate loads write what `sli_writesS` and `slih_writesS` say. -/
theorem scalarAluResults : Obligations.ScalarAluResults :=
  ⟨fun _ _ _ _ _ h => ⟨⟨_, rfl, scalarOp_writesS h _⟩, ⟨_, rfl, scalarOp_writesS h _⟩, ⟨_, rfl, scalarOp_writesS h _⟩, ⟨_, rfl, scalarOp_writesS h _⟩,
      ⟨_, rfl, scalarOp_writesS h _⟩, ⟨_, rfl, scalarOp_writesS h _⟩, ⟨_, rfl, scalarOp_writesS h _⟩, ⟨_, rfl, scalarOp_writesS h _⟩⟩,
    fun _ _ _ _ _ h hw => ⟨sli_writesS h hw, slih_writesS h hw⟩⟩

end Sys2Proof.Machine

namespace Sys2Proof.Machine

/-! ## Empty operations, markers, branches and loops (O5, O6) -/

/-! ### Where a context goes -/

/-- A context whose bundle has ended, at program counter `z.1` with the LOOPs `z.2` running. -/
def Ctx.goTo (x : Ctx) (z : BitVec 13 × List LoopRec) : Ctx := { x.leave z.1 with loops := z.2 }

theorem Ctx.onlyRegs_goTo {x y : Ctx} (h : Ctx.onlyRegs x y) (z : BitVec 13 × List LoopRec) : Ctx.onlyRegs x (y.goTo z) := h

theorem afterBody_cons (pc : BitVec 13) (l : LoopRec) (r : List LoopRec) :
    afterBody pc (l :: r) = if pc = l.last then (if l.left = 0 then afterBody pc r else (l.first, { l with left := l.left - 1 } :: r)) else (pc + 1#13, l :: r) := by
  by_cases h : pc = l.last
  · by_cases h0 : l.left = 0
    · simp [afterBody, h, h0]
    · simp [afterBody, h, h0]
  · simp [afterBody, h, Ne.symm h]

theorem Ctx.turn_eq_goTo (x : Ctx) (ls : List LoopRec) : x.turn ls = x.goTo (afterBody x.pc ls) := by
  induction ls with
  | nil => rfl
  | cons l r ih =>
    rw [Ctx.turn, afterBody_cons]
    by_cases h : x.pc = l.last
    · by_cases h0 : l.left = 0
      · rw [if_pos h, if_pos h, if_pos h0, if_pos h0, ih]
      · rw [if_pos h, if_pos h, if_neg h0, if_neg h0]; rfl
    · rw [if_neg h, if_neg h]; rfl

theorem Ctx.advance_eq_goTo (x : Ctx) : x.advance = x.goTo (afterBody x.pc x.loops) := x.turn_eq_goTo x.loops

/-- Where LOOP leads from bundle `pc`, with `ls` running: into its body `n` times, or, with none, on as from its END (08 R204). -/
def loopTo (n : Nat) (e pc : BitVec 13) (ls : List LoopRec) : BitVec 13 × List LoopRec :=
  if n = 0 then afterBody e ls else (pc + 1#13, { first := pc + 1#13, last := e, left := n - 1 } :: ls)

theorem Ctx.loop_eq_goTo (x : Ctx) (n : Nat) (e : BitVec 13) : x.loop n e = x.goTo (loopTo n e x.pc x.loops) := by
  unfold Ctx.loop loopTo
  split
  · exact Ctx.turn_eq_goTo ..
  · rfl

theorem Ctx.holdTo_holdTo (x : Ctx) (a b : Nat) : (x.holdTo a).holdTo b = x.holdTo (max a b) := by simp [Ctx.holdTo, Nat.max_assoc]

theorem Ctx.advance_holdTo (x : Ctx) (r : Nat) : (x.holdTo r).advance = x.advance.holdTo r := by
  rw [Ctx.advance_eq_goTo, Ctx.advance_eq_goTo]
  rfl

/-! ### A slot instruction that writes no register -/

theorem issueOr_begins {s0 s : State} {q : Issue} {vec : Bool} {rs vs : List Nat} {k : Nat} (h : issuesAt s0 q vec rs vs k s) (dead g : State → Nat → State) :
    ∃ u n, Begins q k n s u ∧ issueOr s0 q vec rs vs dead g = g u k :=
  have ⟨n, hu⟩ := begins_issued h
  ⟨_, n, hu, issueOr_some h dead g⟩

/-- The context goes to `z`, and its next bundle issues in fc `r` or later: nothing else of it is written. -/
def goesTo (q : Issue) (s : State) (z : BitVec 13 × List LoopRec) (r : Nat) (t : State) : Prop :=
  let x := (s.core q.core).tc q.ctx
  let y := (t.core q.core).tc q.ctx
  writesNone q s t ∧ (y.pc, y.loops) = z ∧ y.ready = max x.ready r ∧ y.bun = none

section
variable {q : Issue} {k n : Nat} {s u : State} (hu : Begins q k n s u)
include hu

/-- An instruction of a slot other than the control slot's that does nothing. -/
theorem Begins.writesNone : writesNone q s u := ⟨fun r => by rw [hu.tc, Ctx.sAt_begun], fun r => by rw [hu.tc, Ctx.vAt_begun], hu.frame⟩

theorem Begins.goesTo_updCtx {f : Ctx → Ctx} {z : BitVec 13 × List LoopRec} {r : Nat}
    (hf : f (((s.core q.core).tc q.ctx).begun k) = ((((s.core q.core).tc q.ctx).begun k).goTo z).holdTo r) : goesTo q s z r (u.updCtx q.core q.ctx f) := by
  rw [hu.updCtx_eq, hf]
  unfold goesTo Machine.writesNone
  rw [State.core_setCore_same, Core.tc_moved]
  exact ⟨⟨fun _ => rfl, fun _ => rfl, hu.regFrame_moved (Ctx.onlyRegs_holdTo (Ctx.onlyRegs_goTo (Ctx.onlyRegs_begun ..) _) _)⟩, rfl, rfl, rfl⟩

/-- A slot instruction that sends its context, otherwise left as `y`, to `z`, with the registers as they were. -/
theorem Begins.keepsRegs_goTo {y : Ctx} (hs : ∀ r, y.sAt r = ((s.core q.core).tc q.ctx).sAt r) (hv : ∀ r, y.vAt r = ((s.core q.core).tc q.ctx).vAt r)
    (z : BitVec 13 × List LoopRec) (r : Nat) :
    let t := u.setCore q.core ((s.core q.core).moved q.ctx k n ((y.goTo z).holdTo r))
    keepsRegs q none none s t ∧ slotFrame q Core.onlyCtx s t := by
  refine ⟨⟨fun j _ => ?_, fun j _ => ?_⟩, hu.slotFrame_setTc (Core.onlyCtx_setTc (Core.onlyCtx_begun ..) _ _) fun _ => rfl⟩ <;> rw [State.core_setCore_same, Core.tc_moved]
  · exact hs j
  · exact hv j

end

/-! ### Empty operations and markers -/

/-- An empty operation of a slot other than the control slot (08 R179). -/
theorem issue_writesNone {s0 s : State} {q : Issue} {vec : Bool} {rs vs : List Nat} {k : Nat} (h : issuesAt s0 q vec rs vs k s) :
    writesNone q s (issue s0 q vec rs vs (fun s _ => s)) := by
  obtain ⟨u, n, hu, e⟩ := issue_begins h (fun s _ => s)
  rw [e]
  exact hu.writesNone

/-- CNOP ends the bundle (08 R179). -/
theorem cnop_goesTo {q : Issue} {c : BitVec 48} {s0 s : State} {k : Nat} (h : issuesAt s0 q false [] [] k s) (hc : bitsN c 6 42 = 0) :
    Does (.cnop q c) s0 (goesTo q s (afterBody ((s.core q.core).tc q.ctx).pc ((s.core q.core).tc q.ctx).loops) (k + 1)) := by
  obtain ⟨u, n, hu, e⟩ := issueCtrl_begins h _
  refine ⟨_, congrArg Host.Outcome.next e, ?_⟩
  rw [legalOr_good (by simp [firstCause, hc])]
  exact hu.goesTo_updCtx (by rw [Ctx.advance_eq_goTo]; rfl)

/-- A context whose SEQ has advanced (05 R108). -/
def Ctx.seqAdvanced (x : Ctx) : Ctx := { x with seq := seqNext x.seq }

/-- A context whose step has ended (08 R206). -/
def Ctx.stepEnded (x : Ctx) : Ctx := { x with ended := true, loops := [] }

theorem Ctx.onlyRegs_seqAdvanced (x : Ctx) (k : Nat) (z : BitVec 13 × List LoopRec) (r : Nat) :
    Ctx.onlyRegs x { ((x.begun k).seqAdvanced.goTo z).holdTo r with seq := x.seq } := rfl

theorem Ctx.onlyRegs_stepEnded (x : Ctx) (k : Nat) (z : BitVec 13 × List LoopRec) (r : Nat) :
    Ctx.onlyRegs x { ((x.begun k).stepEnded.goTo z).holdTo r with ended := x.ended } := rfl

/-- SEQADV (05 R108). -/
theorem exec_seqadv {q : Issue} {w : BitVec 48} {s0 s : State} {k : Nat} (h : issuesAt s0 q false [] [] k s) (hw : bitsN w 6 42 = 0) :
    let x := (s.core q.core).tc q.ctx
    ∃ u n, Begins q k n s u ∧ exec (.seqadv q w) s0 =
      .next (u.setCore q.core ((s.core q.core).moved q.ctx k n (((x.begun k).seqAdvanced.goTo (afterBody x.pc x.loops)).holdTo (k + 1)))) := by
  obtain ⟨u, n, hu, e⟩ := issueCtrl_begins h _
  refine ⟨u, n, hu, (congrArg Host.Outcome.next e).trans ?_⟩
  rw [legalOr_good (by simp [firstCause, hw])]
  rw [State.updCtx_updCtx, hu.updCtx_eq, Ctx.advance_eq_goTo]
  rfl

/-- WSTEP (08 R206). -/
theorem exec_wstep {q : Issue} {w : BitVec 48} {s0 s : State} {k : Nat} (h : issuesAt s0 q false [] [] k s) (hw : bitsN w 6 42 = 0) :
    let x := (s.core q.core).tc q.ctx
    ∃ u n, Begins q k n s u ∧ exec (.wstep q w) s0 =
      .next (u.setCore q.core ((s.core q.core).moved q.ctx k n (((x.begun k).stepEnded.goTo (afterBody x.pc [])).holdTo (k + 1)))) := by
  obtain ⟨u, n, hu, e⟩ := issueCtrl_begins h _
  refine ⟨u, n, hu, (congrArg Host.Outcome.next e).trans ?_⟩
  rw [legalOr_good (by simp [firstCause, hw])]
  rw [State.updCtx_updCtx, hu.updCtx_eq, Ctx.advance_eq_goTo]
  rfl

/-- Settles O5: the empty operations by what issue leaves, CNOP by where its context goes, SEQADV and WSTEP by the context that they leave. -/
theorem emptyOperationsAndMarkers : Obligations.EmptyOperationsAndMarkers := by
  refine ⟨fun q s0 s k w v c => ⟨fun h => ⟨⟨_, rfl, issue_writesNone h⟩, ⟨_, rfl, issue_writesNone h⟩⟩,
    fun h => ⟨_, rfl, issue_writesNone h⟩, cnop_goesTo⟩, fun q w s0 s k h hw => ⟨?_, ?_⟩⟩
  · obtain ⟨u, n, hu, e⟩ := exec_seqadv h hw
    obtain ⟨hregs, hframe⟩ := hu.keepsRegs_goTo (y := (((s.core q.core).tc q.ctx).begun k).seqAdvanced) (fun _ => rfl) (fun _ => rfl)
      (afterBody ((s.core q.core).tc q.ctx).pc ((s.core q.core).tc q.ctx).loops) (k + 1)
    refine ⟨_, e, ?_, hregs, hframe, ?_⟩ <;> rw [State.core_setCore_same, Core.tc_moved]
    · rfl
    · exact Ctx.onlyRegs_seqAdvanced ..
  · obtain ⟨u, n, hu, e⟩ := exec_wstep h hw
    obtain ⟨hregs, hframe⟩ := hu.keepsRegs_goTo (y := (((s.core q.core).tc q.ctx).begun k).stepEnded) (fun _ => rfl) (fun _ => rfl)
      (afterBody ((s.core q.core).tc q.ctx).pc []) (k + 1)
    refine ⟨_, e, ?_, ?_, hregs, hframe, ?_⟩ <;> rw [State.core_setCore_same, Core.tc_moved]
    · rfl
    · rfl
    · exact Ctx.onlyRegs_stepEnded ..

/-! ### Branches, loops and waits -/

/-- The conditions of Table 8.14 as BR tests them. -/
theorem condMeets_iff (c : Nat) (hc : c < 4) (a : Dword) :
    condMeets c a = true ↔ (c = 0 ∧ a = 0#64) ∨ (c = 1 ∧ a ≠ 0#64) ∨ (c = 2 ∧ a.toInt < 0) ∨ (c = 3 ∧ 0 ≤ a.toInt) := by
  obtain rfl | rfl | rfl | rfl : c = 0 ∨ c = 1 ∨ c = 2 ∨ c = 3 := by omega
  · simp [condMeets]
  · simp [condMeets]
  · simp [condMeets, BitVec.msb_eq_toInt]
  · simp [condMeets, BitVec.msb_eq_toInt]

/-- The end of a branch bundle sends the context to the target where the branch is taken, else on (08 R183). -/
theorem endBranch_eq_goTo (q : Issue) (taken : Bool) (target : BitVec 13) (t : Nat) (s : State) :
    endBranch q taken target t s = s.updCtx q.core q.ctx fun x => (x.goTo (if taken then (target, x.loops) else afterBody x.pc x.loops)).holdTo (t + 4) := by
  cases taken
  · simp only [endBranch, Bool.false_eq_true, if_false, Ctx.advance_eq_goTo]
  · rfl

/-- BR, by the value that its register holds (08 R204). -/
theorem br_goesTo {q : Issue} {w : BitVec 48} {s0 s : State} {k : Nat} (h : issuesAt s0 q false [bitsN w 6 5] [] k s) (hw : bitsN w 26 22 = 0) :
    let x := (s.core q.core).tc q.ctx
    Does (.br q w) s0 (goesTo q s (if condMeets (bitsN w 11 2) (x.rdS (bitsN w 6 5)).val then (w.extractLsb' 13 13, x.loops) else afterBody x.pc x.loops) (k + 4)) := by
  obtain ⟨u, n, hu, e⟩ := issueOr_begins h (passBy q) _
  refine ⟨_, congrArg Host.Outcome.next e, ?_⟩
  have hlegal : (bitsN w 26 22 != 0) = false := by simp [hw]
  simp only [hlegal, Bool.false_eq_true, if_false, endBranch_eq_goTo, hu.tc, Ctx.rdS_begun]
  exact hu.goesTo_updCtx rfl

/-- JMP (08 R204). -/
theorem jmp_goesTo {q : Issue} {w : BitVec 48} {s0 s : State} {k : Nat} (h : issuesAt s0 q false [] [] k s) (hw : bitsN w 26 22 = 0) :
    Does (.jmp q w) s0 (goesTo q s (w.extractLsb' 13 13, ((s.core q.core).tc q.ctx).loops) (k + 4)) := by
  obtain ⟨u, n, hu, e⟩ := issueOr_begins h (passBy q) _
  refine ⟨_, congrArg Host.Outcome.next e, ?_⟩
  rw [if_neg (by simp [hw]), endBranch_eq_goTo]
  exact hu.goesTo_updCtx rfl

/-- LOOP (08 R204). -/
theorem loop_goesTo {q : Issue} {w : BitVec 48} {s0 s : State} {k : Nat} (h : issuesAt s0 q false [bitsN w 6 5] [] k s) (hw : bitsN w 26 22 = 0) :
    let x := (s.core q.core).tc q.ctx
    Does (.loop q w) s0 (goesTo q s (loopTo (x.rdS (bitsN w 6 5)).val.toNat (w.extractLsb' 13 13) x.pc x.loops) (k + 1)) := by
  obtain ⟨u, n, hu, e⟩ := issueOr_begins h (passBy q) _
  refine ⟨_, congrArg Host.Outcome.next e, ?_⟩
  rw [if_neg (by simp [hw]), hu.tc, Ctx.rdS_begun]
  exact hu.goesTo_updCtx (by rw [Ctx.loop_eq_goTo]; rfl)

/-- WAITC: the context goes on, COUNT + 1 fc later (08 R206). -/
theorem waitc_goesTo {q : Issue} {w : BitVec 48} {s0 s : State} {k : Nat} (h : issuesAt s0 q false [] [] k s) (hw : bitsN w 22 26 = 0) :
    Does (.waitc q w) s0 (goesTo q s (afterBody ((s.core q.core).tc q.ctx).pc ((s.core q.core).tc q.ctx).loops) (k + 1 + (bitsN w 6 16 + 1))) := by
  have hlate : max (k + 1 + (bitsN w 6 16 + 1)) (k + 1) = k + 1 + (bitsN w 6 16 + 1) := by omega
  obtain ⟨u, n, hu, e⟩ := issueCtrl_begins h _
  refine ⟨_, congrArg Host.Outcome.next e, ?_⟩
  rw [legalOr_good (by simp [firstCause, hw]), State.updCtx_updCtx]
  refine hu.goesTo_updCtx ?_
  rw [Ctx.advance_holdTo, Ctx.holdTo_holdTo, hlate, Ctx.advance_eq_goTo]
  rfl

/-- Settles O6: each instruction by where it sends its context, and from which fc on. -/
theorem branchesAndLoops : Obligations.BranchesAndLoops := by
  intro q w s0 s k x y a goes onward
  refine ⟨fun h hw => ?_, fun h hw => ?_, fun h hw => jmp_goesTo h hw, fun h hw => waitc_goesTo h hw⟩
  · have hcond := condMeets_iff (bitsN w 11 2) (bitsN_lt w 11 2) a
    simp only [← hcond]
    exact br_goesTo h hw
  · have hnone : a = 0#64 ↔ a.toNat = 0 := BitVec.toNat_eq
    simp only [hnone]
    exact loop_goesTo h hw

end Sys2Proof.Machine

namespace Sys2Proof.Machine

/-! ## Lane arithmetic, comparison, selection, conversion, keys (O11, O12) -/

/-! ### A vector-slot instruction that writes one register -/

section
variable {q : Issue} {k n : Nat} {s u : State} (hu : Begins q k n s u)
include hu

/-- A slot instruction whose effect is a vector register written. -/
theorem Begins.writesV_updCtx {d : Nat} (hd : d < 32) {f : Ctx → Ctx} {v : VReg} {t : Nat}
    (hf : f (((s.core q.core).tc q.ctx).begun k) = (((s.core q.core).tc q.ctx).begun k).wrV d v t) : writesV q d v s (u.updCtx q.core q.ctx f) := by
  rw [hu.updCtx_eq, hf, ← Core.tc_begun_same _ _ _ n]
  exact hu.writesV_setTc (Core.onlyCtx_begun ..) (fun _ => rfl) hd v t

/-- A slot instruction whose effect is a scalar register written. -/
theorem Begins.writesS_updCtx {d : Nat} (hd : d < 32) {f : Ctx → Ctx} {v : SReg} {t : Nat}
    (hf : f (((s.core q.core).tc q.ctx).begun k) = (((s.core q.core).tc q.ctx).begun k).wrS d v t) : writesS q d v s (u.updCtx q.core q.ctx f) := by
  rw [hu.updCtx_eq, hf, ← Core.tc_begun_same _ _ _ n]
  exact hu.writesS_setTc (Core.onlyCtx_begun ..) (fun _ => rfl) hd v t

theorem Begins.free : u.free = s.free := (congrArg State.free hu.module :)

end

theorem vD_lt (w : BitVec 44) : vD w < 32 := bitsN_lt w 6 5

theorem vecChecks_pass {w : BitVec 44} {tys : List Nat} (hw : bitsN w 32 12 = 0) (hty : vTy w ∈ tys) : firstCause (vecChecks w tys) = none := by
  simp [firstCause, vecChecks, hw, hty]

theorem vTy_mem_of_ne_three {w : BitVec 44} (h : vTy w ≠ 3) : vTy w ∈ [0, 1, 2] := by
  have h4 : vTy w < 2 ^ 2 := bitsN_lt w 26 2
  have : vTy w = 0 ∨ vTy w = 1 ∨ vTy w = 2 := by omega
  simpa using this

/-! ### Lane arithmetic -/

section
variable {q : Issue} {w : BitVec 44} {s0 s : State} {k : Nat}

/-- A lanewise instruction of three operands (08 R192, R193). -/
theorem lanewise_three (h : issuesAt s0 q true (laneSregs w) (laneVregs w true) k s) (hw : bitsN w 32 12 = 0) {tys : List Nat} (hty : vTy w ∈ tys) (lat : Nat)
    {f : VWord → VWord → VWord → VWord} {v : VWord} :
    let x := (s.core q.core).tc q.ctx
    let a := x.rdV (vA w)
    let b := operandB x w
    let c := x.rdV (vC w)
    f a.val b.val c.val = v →
    writesV q (vD w) (if a.poison || b.poison || c.poison then poisonV else ⟨v, false⟩) s (lanewise q w tys lat true f s0) := by
  intro x a b c hv
  obtain ⟨u, n, hu, e⟩ := issue_begins h _
  refine (congrArg (writesV q (vD w) _ s) (e.trans (legalOr_good (vecChecks_pass hw hty)))).mpr (hu.writesV_updCtx (vD_lt w) (t := k + lat) ?_)
  rw [← hv]
  rfl

/-- A lanewise instruction of two operands. -/
theorem lanewise_two (h : issuesAt s0 q true (laneSregs w) (laneVregs w false) k s) (hw : bitsN w 32 12 = 0) {tys : List Nat} (hty : vTy w ∈ tys) (lat : Nat)
    {f : VWord → VWord → VWord → VWord} {v : VWord} :
    let x := (s.core q.core).tc q.ctx
    let a := x.rdV (vA w)
    let b := operandB x w
    f a.val b.val 0 = v →
    writesV q (vD w) (if a.poison || b.poison then poisonV else ⟨v, false⟩) s (lanewise q w tys lat false f s0) := by
  intro x a b hv
  obtain ⟨u, n, hu, e⟩ := issue_begins h _
  refine (congrArg (writesV q (vD w) _ s) (e.trans (legalOr_good (vecChecks_pass hw hty)))).mpr (hu.writesV_updCtx (vD_lt w) (t := k + lat) ?_)
  rw [← hv, ← Bool.or_false (a.poison || b.poison)]
  rfl

end

section
variable {ty : Nat} (f : BitVec 32 → BitVec 32 → BitVec 32 → BitVec 32) (h : BitVec 16 → BitVec 16 → BitVec 16 → BitVec 16) (i : BitVec 32 → BitVec 32 → BitVec 32 → BitVec 32)
  (a b c : VWord)

theorem byType_fp32 (hy : ty = 0) : byType ty f h i a b c = ofLanes32 (fun n => f (lane32 a n) (lane32 b n) (lane32 c n)) := by rw [hy]; rfl

theorem byType_bf16 (hy : ty = 1) : byType ty f h i a b c = ofLanes16 (fun n => h (lane16 a n) (lane16 b n) (lane16 c n)) := by rw [hy]; rfl

theorem byType_int32 (hy : ty = 2) : byType ty f h i a b c = ofLanes32 (fun n => i (lane32 a n) (lane32 b n) (lane32 c n)) := by rw [hy]; rfl

end

/-- The lesser and the greater of two INT32 lanes, by their values. -/
theorem slt_lane_min (x y : BitVec 32) : (if x.slt y then x else y) = if x.toInt < y.toInt then x else y := by simp [BitVec.slt]

theorem slt_lane_max (x y : BitVec 32) : (if y.slt x then x else y) = if y.toInt < x.toInt then x else y := by simp [BitVec.slt]

/-- Settles O11: each operation is `lanewise`, its function chosen by the operand type. -/
theorem laneArithmetic : Obligations.LaneArithmetic := by
  intro q w s0 s k hw hty x a b c two three f32 f16
  have hall := vTy_mem_of_ne_three hty
  refine ⟨fun h => ⟨fun hy => ?_, fun hy => ?_, fun hy => ?_⟩, fun h => ⟨fun hy => ?_, fun hy => ?_, fun hy => ?_⟩⟩
  · have hmm : vTy w ∈ [0, 2] := by simp [hy]
    exact ⟨⟨_, rfl, lanewise_two h hw hall 4 (byType_fp32 _ _ _ _ _ _ hy)⟩, ⟨_, rfl, lanewise_two h hw hall 4 (byType_fp32 _ _ _ _ _ _ hy)⟩,
      ⟨_, rfl, lanewise_two h hw hall 4 (byType_fp32 _ _ _ _ _ _ hy)⟩, ⟨_, rfl, lanewise_two h hw hmm 2 (byType_fp32 _ _ _ _ _ _ hy)⟩,
      ⟨_, rfl, lanewise_two h hw hmm 2 (byType_fp32 _ _ _ _ _ _ hy)⟩⟩
  · exact ⟨⟨_, rfl, lanewise_two h hw hall 4 (byType_bf16 _ _ _ _ _ _ hy)⟩, ⟨_, rfl, lanewise_two h hw hall 4 (byType_bf16 _ _ _ _ _ _ hy)⟩,
      ⟨_, rfl, lanewise_two h hw hall 4 (byType_bf16 _ _ _ _ _ _ hy)⟩⟩
  · have hmm : vTy w ∈ [0, 2] := by simp [hy]
    refine ⟨⟨_, rfl, lanewise_two h hw hall 4 (byType_int32 _ _ _ _ _ _ hy)⟩, ⟨_, rfl, lanewise_two h hw hall 4 (byType_int32 _ _ _ _ _ _ hy)⟩,
      ⟨_, rfl, lanewise_two h hw hall 4 (byType_int32 _ _ _ _ _ _ hy)⟩, ⟨_, rfl, lanewise_two h hw hmm 2 ?_⟩, ⟨_, rfl, lanewise_two h hw hmm 2 ?_⟩⟩
    · simp only [byType_int32 _ _ _ _ _ _ hy, slt_lane_min]
      rfl
    · simp only [byType_int32 _ _ _ _ _ _ hy, slt_lane_max]
      rfl
  · exact ⟨_, rfl, lanewise_three h hw hall 4 (byType_fp32 _ _ _ _ _ _ hy)⟩
  · exact ⟨_, rfl, lanewise_three h hw hall 4 (byType_bf16 _ _ _ _ _ _ hy)⟩
  · exact ⟨_, rfl, lanewise_three h hw hall 4 (byType_int32 _ _ _ _ _ _ hy)⟩

/-! ### Comparison, selection, conversion, keys -/

theorem State.updCtx_free (s : State) (n m i : Nat) (f : Ctx → Ctx) : { ({ s with free := n } : State).updCtx m i f with free := s.free } = s.updCtx m i f := rfl

section
variable {q : Issue} {w : BitVec 44} {s0 s : State} {k : Nat}

/-- VCMP (08 R192). -/
theorem vcmp_writesS (h : issuesAt s0 q true ([vD w] ++ laneSregs w) ([vA w] ++ (if vBs w then [] else [vB w])) k s) (hw : bitsN w 32 12 = 0) (hty : vTy w = 0 ∨ vTy w = 2)
    (hcc : vCc w ≠ 7) :
    let x := (s.core q.core).tc q.ctx
    let a := x.rdV (vA w)
    let b := operandB x w
    Does (.vcmp q w) s0 (writesS q (vD w) (if a.poison || b.poison then poisonS
      else ⟨maskOf (fun i => ccMeets (vTy w) (vCc w) (lane32 a.val i) (lane32 b.val i)), false⟩) s) := by
  obtain ⟨u, n, hu, e⟩ := issue_begins h _
  refine ⟨_, congrArg Host.Outcome.next e, ?_⟩
  rw [legalOr_good (firstCause_append (vecChecks_pass hw (by simpa using hty)) (by simp [firstCause, hcc]))]
  exact hu.writesS_updCtx (vD_lt w) rfl

/-- VSEL (08 R192). -/
theorem vsel_writesV (h : issuesAt s0 q true ([vC w] ++ laneSregs w) (laneVregs w false) k s) (hw : bitsN w 32 12 = 0) (hty : vTy w ≠ 3) :
    let x := (s.core q.core).tc q.ctx
    let a := x.rdV (vA w)
    let b := operandB x w
    let m := x.rdS (vC w)
    Does (.vsel q w) s0 (writesV q (vD w) (if a.poison || b.poison || m.poison then poisonV
      else ⟨ofLanes32 (fun i => if m.val.getLsbD i then lane32 a.val i else lane32 b.val i), false⟩) s) := by
  have hregs : laneVregs w false = [vD w, vA w] ++ (if vBs w then [] else [vB w]) := List.append_nil _
  rw [hregs] at h
  obtain ⟨u, n, hu, e⟩ := issue_begins h _
  refine ⟨_, congrArg Host.Outcome.next e, ?_⟩
  rw [legalOr_good (vecChecks_pass hw (vTy_mem_of_ne_three hty))]
  exact hu.writesV_updCtx (vD_lt w) rfl

/-- VCVT: the conversion takes one free value, for the lanes that the spec leaves open (08 R192). -/
theorem vcvt_writesV (h : issuesAt s0 q true [] [vD w, vA w] k s) (hw : bitsN w 32 12 = 0) (hty : vTy w ≠ 3) (hcc : vCc w % 4 ≠ 3) :
    let a := ((s.core q.core).tc q.ctx).rdV (vA w)
    Does (.vcvt q w) s0 (fun t => t.free = s.free + 1 ∧ writesV q (vD w) (if a.poison then poisonV
      else ⟨convert (vTy w) (vCc w % 4) (decide (4 ≤ vCc w)) a.val (Config.freeValue s.free), false⟩) s { t with free := s.free }) := by
  obtain ⟨u, n, hu, e⟩ := issue_begins h _
  refine ⟨_, congrArg Host.Outcome.next e, ?_⟩
  rw [legalOr_good (firstCause_append (vecChecks_pass hw (vTy_mem_of_ne_three hty)) (by simp [firstCause, hcc]))]
  refine ⟨congrArg (· + 1) hu.free, ?_⟩
  simp only [← hu.free, State.updCtx_free]
  exact hu.writesV_updCtx (vD_lt w) rfl

/-- VKEY (02 R35). -/
theorem vkey_writesV (h : issuesAt s0 q true [] [vD w, vA w] k s) (hw : bitsN w 32 12 = 0) (hty : vTy w = 0 ∨ vTy w = 1) :
    let a := ((s.core q.core).tc q.ctx).rdV (vA w)
    Does (.vkey q w) s0 (writesV q (vD w) (if a.poison then poisonV
      else ⟨ofLanes32 (fun i => keyOf (if vTy w = 0 then lane32 a.val i else widen16 (lane16 a.val (if 4 ≤ vCc w then 64 + i else i)))), false⟩) s) := by
  obtain ⟨u, n, hu, e⟩ := issue_begins h _
  refine ⟨_, congrArg Host.Outcome.next e, ?_⟩
  rw [legalOr_good (vecChecks_pass hw (by simpa using hty))]
  exact hu.writesV_updCtx (vD_lt w) rfl

end

/-- Settles O12: each instruction by the register that it writes. -/
theorem compareSelectConvert : Obligations.CompareSelectConvert := fun _ _ _ _ _ hw =>
  ⟨fun h hty hcc => vcmp_writesS h hw hty hcc, fun h hty => vsel_writesV h hw hty, fun h hty hcc => vcvt_writesV h hw hty hcc, fun h hty => vkey_writesV h hw hty⟩

end Sys2Proof.Machine

namespace Sys2Proof.Machine

/-! ## Loads and stores of a slot instruction: SLDS, SSTS, VLD, VST, VMASK (O4, O14) -/

/-! ### The core that an access leaves -/

theorem Core.onlyPad_setTc {c d : Core} (h : Core.onlyPad c d) (i : Fin 4) (y : Ctx) : Core.onlyPad c (d.setTc i y) := by
  rw [Core.setTc_eq]
  exact h

theorem State.tc_setCore_setTc (s : State) (m : Nat) (c : Core) (i : Fin 4) (y : Ctx) : ((s.setCore m (c.setTc i y)).core m).tc i = y := by
  rw [State.core_setCore_same, Core.tc_setTc_same]

section
variable {q : Issue} {k n : Nat} {s u : State} (hu : Begins q k n s u)
include hu

/-- A slot instruction whose effect is on its context and its scratchpad. -/
theorem Begins.padFrame_setTc {c : Core} {y : Ctx} (hc : Core.onlyPad (s.core q.core) c) (hx : ∀ j, c.tc j = ((s.core q.core).begun q.ctx k n).tc j)
    (hy : Ctx.onlyRegs ((s.core q.core).tc q.ctx) y) : padFrame q s (u.setCore q.core (c.setTc q.ctx y)) := by
  obtain ⟨hcore, hcyc, hpad, hctx⟩ := hu.slotFrame_setTc (C := Core.onlyPad) (y := y) (Core.onlyPad_setTc hc _ _) hx
  exact ⟨hcore, hcyc, hpad, hctx, by rwa [State.core_setCore_same, Core.tc_setTc_same]⟩

/-- What a good read leaves, whatever its instruction makes of its context. -/
theorem Begins.readsPad_setTc {o : Spo} {len a : Nat} {tl tk : AMap Tell} (ht : (s.core q.core).ReadTells o len a tl tk) {y : Ctx}
    (hy : Ctx.onlyRegs ((s.core q.core).tc q.ctx) y) :
    let t := u.setCore q.core ((((s.core q.core).begun q.ctx k n).emptied tl tk).setTc q.ctx y)
    readsPad q o len a s t ∧ padFrame q s t := by
  refine ⟨readsPad_of_core ht ?_ ?_ ?_, hu.padFrame_setTc rfl (fun _ => rfl) hy⟩ <;> rw [State.core_setCore_same, Core.setTc_eq] <;> rfl

/-- What a write put on its way leaves, whatever its instruction makes of its context. -/
theorem Begins.writesLater_setTc {o : Spo} {m ph a : Nat} (ord d : Nat) (poison : Bool) (step : Nat) {y : Ctx} (hy : Ctx.onlyRegs ((s.core q.core).tc q.ctx) y) :
    let c := s.core q.core
    let t := u.setCore q.core (((c.begun q.ctx k n).sent
      (queueWrites q.ctx ord c.accNo ph (tagOf (c.tc q.ctx).seq o.tag) o.hold poison step m (a / 64) d k c).late).setTc q.ctx y)
    writesLater q ord o m ph a d poison step k s t ∧ padFrame q s t := by
  refine ⟨writesLater_of_core ?_ ?_ ?_ ?_ fun j => ?_, hu.padFrame_setTc rfl (fun _ => rfl) hy⟩ <;> rw [State.core_setCore_same, Core.setTc_eq] <;> rfl

/-- A good read through an operand, on the core as its instruction finds it. -/
theorem Begins.readOp_well {o : Spo} {len a : Nat} (hl : 16 ≤ len) (h : readsWell q s o len a) :
    ∃ tl tk, (s.core q.core).ReadTells o len a tl tk ∧ (u.core q.core).readLat q.ctx o = bankLat a ∧
      readOp u q o len = (u.setCore q.core (((s.core q.core).begun q.ctx k n).emptied tl tk), Memory.readN (s.core q.core).pad a len, false) := by
  have hread := Core.readsWell_begun (c := s.core q.core) (d := (s.core q.core).begun q.ctx k n) rfl rfl rfl (Core.tc_begun_same ..) (readsWell_core h)
  obtain ⟨tl, tk, ht, e⟩ := Machine.readOp_well hu.core (by omega) hread
  exact ⟨tl, tk, ⟨ht.seen, ht.tell⟩, by rw [hu.core]; exact hread.readLat hl, e⟩

/-- A write through an operand whose block resolves, on the core as its instruction finds it. -/
theorem Begins.writeOp_well {o : Spo} {m ph a : Nat} (h : writesWell q s o m ph a) (ord d : Nat) (poison : Bool) (step : Nat) :
    let c := s.core q.core
    Machine.writeOp u q ord o m d poison step k = u.setCore q.core ((c.begun q.ctx k n).sent
      (queueWrites q.ctx ord c.accNo ph (tagOf (c.tc q.ctx).seq o.tag) o.hold poison step m (a / 64) d k c).late) := by
  rw [writeOp_ok hu.core (resolve_begun_of_writesWell h k n), Core.tc_begun_same, Ctx.seq_begun,
    queueWrites_late_congr (c' := (s.core q.core).begun q.ctx k n) (c := s.core q.core) _ _ _ _ _ _ _ _ _ _ _ _ rfl]
  rfl

end

theorem State.setCore_updCtx (s : State) (m i : Nat) (c : Core) (f : Ctx → Ctx) : (s.setCore m c).updCtx m i f = s.setCore m (c.setTc i (f (c.tc i))) := by
  simp [State.updCtx, State.updCore]

/-! ### SLDS and SSTS -/

/-- A number read from `n + j` bytes, in two parts. -/
theorem Memory.readN_add (m : Memory) (a n j : Nat) : Memory.readN m a (n + j) = Memory.readN m a n + 256 ^ n * Memory.readN m (a + n) j := by
  induction n generalizing a with
  | zero => simp [Memory.readN]
  | succ n ih =>
    have hn : n + 1 + j = n + j + 1 := by omega
    have ha : a + 1 + n = a + (n + 1) := by omega
    rw [hn, Memory.readN, Memory.readN, ih, ha, Nat.pow_succ]
    ring

/-- Either half of a 16-byte unit (08 R204). -/
theorem Memory.half_readN (m : Memory) (a : Nat) (upper : Bool) :
    BitVec.ofNat 64 (if upper then Memory.readN m a 16 >>> 64 else Memory.readN m a 16) = BitVec.ofNat 64 (Memory.readN m (if upper then a + 8 else a) 8) := by
  have hlow : Memory.readN m a 8 < 2 ^ 64 := Memory.readN_lt m a 8
  have hsum : Memory.readN m a 16 = Memory.readN m a 8 + 2 ^ 64 * Memory.readN m (a + 8) 8 := Memory.readN_add m a 8 8
  apply BitVec.eq_of_toNat_eq
  rw [BitVec.toNat_ofNat, BitVec.toNat_ofNat]
  cases upper
  · simp only [Bool.false_eq_true, if_false]
    omega
  · simp only [if_true, Nat.shiftRight_eq_div_pow]
    omega

section
variable {q : Issue} {w : BitVec 48} {s0 s : State} {k : Nat}

/-- The context that a control-slot instruction leaves which writes scalar register `d` of `x`. -/
def Ctx.wroteS (x : Ctx) (d : Nat) (v : SReg) (k t : Nat) : Ctx := (((x.begun k).wrS d v t).advance).holdTo (k + 1)

theorem Ctx.onlyRegs_wroteS (x : Ctx) (d : Nat) (v : SReg) (k t : Nat) : Ctx.onlyRegs x (x.wroteS d v k t) :=
  Ctx.onlyRegs_holdTo (Ctx.onlyRegs_advance (Ctx.onlyRegs_wrS (Ctx.onlyRegs_begun ..) ..)) _

theorem Ctx.sAt_wroteS_same (x : Ctx) {d : Nat} (hd : d < 32) (v : SReg) (k t : Nat) : (x.wroteS d v k t).sAt d = v := by
  rw [Ctx.wroteS, Ctx.sAt_holdTo, Ctx.sAt_advance, Ctx.sAt_wrS_same _ _ _ hd]

theorem Ctx.sAt_wroteS_ne (x : Ctx) {d r : Nat} (hr : r ≠ d) (v : SReg) (k t : Nat) : (x.wroteS d v k t).sAt r = x.sAt r := by
  rw [Ctx.wroteS, Ctx.sAt_holdTo, Ctx.sAt_advance, Ctx.sAt_wrS_ne _ _ _ hr, Ctx.sAt_begun]

theorem Ctx.vAt_wroteS (x : Ctx) (d : Nat) (v : SReg) (k t r : Nat) : (x.wroteS d v k t).vAt r = x.vAt r := by
  rw [Ctx.wroteS, Ctx.vAt_holdTo, Ctx.vAt_advance, Ctx.vAt_wrS, Ctx.vAt_begun]

theorem writes_wroteS {t : State} {d : Nat} (hd : d < 32) {v : SReg} {at' : Nat} (h : (t.core q.core).tc q.ctx = ((s.core q.core).tc q.ctx).wroteS d v k at') :
    ((t.core q.core).tc q.ctx).sAt d = v ∧ keepsRegs q (some d) none s t := by
  refine ⟨?_, fun r hr => ?_, fun r _ => ?_⟩ <;> rw [h]
  · exact Ctx.sAt_wroteS_same _ hd _ _ _
  · exact Ctx.sAt_wroteS_ne _ (fun e => hr (congrArg some e.symm)) _ _ _
  · exact Ctx.vAt_wroteS ..

/-- SLDS of a unit that reads well (08 R204). -/
theorem exec_slds {a : Nat} (h : issuesAt s0 q false [cSd w] [] k s) (hw : bitsN w 36 12 = 0) (hm : (spoAt w 11).reads = true) (hr : readsWell q s (spoAt w 11) 16 a) :
    ∃ u n tl tk, Begins q k n s u ∧ (s.core q.core).ReadTells (spoAt w 11) 16 a tl tk ∧
      exec (.slds q w) s0 = .next (u.setCore q.core ((((s.core q.core).begun q.ctx k n).emptied tl tk).setTc q.ctx
        (((s.core q.core).tc q.ctx).wroteS (cSd w) ⟨BitVec.ofNat 64 (Memory.readN (s.core q.core).pad (if bitAt w 35 then a + 8 else a) 8), false⟩ k (k + bankLat a)))) := by
  obtain ⟨u, n, hu, e⟩ := issueCtrl_begins h _
  obtain ⟨tl, tk, ht, hlat, hread⟩ := hu.readOp_well (by omega) hr
  refine ⟨u, n, tl, tk, hu, ht, (congrArg Host.Outcome.next e).trans ?_⟩
  rw [legalOr_good (by simp [firstCause, hw, hm])]
  simp only [hlat, hread, Bool.false_eq_true, if_false, Memory.half_readN]
  rw [State.updCtx_updCtx, State.setCore_updCtx, Core.tc_emptied, Core.tc_begun_same]
  rfl

/-- SSTS through an operand whose block resolves (08 R204). -/
theorem exec_ssts {ph a : Nat} (h : issuesAt s0 q false [cSd w] [] k s) (hw : bitsN w 35 13 = 0) (hm : (spoAt w 11).writes = true) (ho : (spoAt w 11).ofs % 4 = 0)
    (hr : writesWell q s (spoAt w 11) 1 ph a) :
    let c := s.core q.core
    let r := (c.tc q.ctx).rdS (cSd w)
    ∃ u n, Begins q k n s u ∧ exec (.ssts q w) s0 = .next (u.setCore q.core (((c.begun q.ctx k n).sent
      (queueWrites q.ctx 5 c.accNo ph (tagOf (c.tc q.ctx).seq (spoAt w 11).tag) (spoAt w 11).hold r.poison 0 1 (a / 64) r.val.toNat k c).late).setTc q.ctx
        (((c.tc q.ctx).begun k).advance.holdTo (k + 1)))) := by
  obtain ⟨u, n, hu, e⟩ := issueCtrl_begins h _
  refine ⟨u, n, hu, (congrArg Host.Outcome.next e).trans ?_⟩
  rw [legalOr_good (by simp [firstCause, hw, hm, ho])]
  simp only [hu.tc, Ctx.rdS_begun, hu.writeOp_well hr, State.setCore_updCtx]
  rw [← Core.tc_begun_same _ _ _ n]
  rfl

end

/-- Settles O4: SLDS by the read that it makes and the register that it writes, SSTS by the write that it puts on its way. -/
theorem scalarScratchpad : Obligations.ScalarScratchpad := by
  intro q w s0 s k ph a h o
  refine ⟨fun hw hm hr => ?_, fun hw hm ho hr => ?_⟩
  · obtain ⟨u, n, tl, tk, hu, ht, e⟩ := exec_slds h hw hm hr
    obtain ⟨hpad, hframe⟩ := hu.readsPad_setTc ht (Ctx.onlyRegs_wroteS ..)
    obtain ⟨hreg, hregs⟩ := writes_wroteS (cSd_lt w) (State.tc_setCore_setTc ..)
    exact ⟨_, e, hreg, hregs, hpad, hframe⟩
  · obtain ⟨u, n, hu, e⟩ := exec_ssts h hw hm ho hr
    obtain ⟨hlater, hframe⟩ := hu.writesLater_setTc 5 _ _ 0 (Ctx.onlyRegs_holdTo (Ctx.onlyRegs_advance (Ctx.onlyRegs_begun ..)) _)
    refine ⟨_, e, hlater, ⟨fun r _ => ?_, fun r _ => ?_⟩, hframe⟩ <;> rw [State.core_setCore_same, Core.tc_setTc_same]
    · rw [Ctx.sAt_holdTo, Ctx.sAt_advance, Ctx.sAt_begun]
    · rw [Ctx.vAt_holdTo, Ctx.vAt_advance, Ctx.vAt_begun]

end Sys2Proof.Machine

namespace Sys2Proof.Machine

/-! ## Illegal instructions; VLD, VST and VMASK (O14) -/

/-! ### What an illegal instruction leaves (08 R211, R212) -/

/-- A core's record of illegal instructions after a further one, of context `i`: the first is kept. -/
def Core.illNext (c : Core) (i slot op cause : Nat) : IllRec :=
  if c.ill.valid then c.ill else { valid := true, opcode := op, slot := slot, ctx := i, cause := cause, pc := (c.tc i).pc }

theorem Core.illNext_first {c : Core} (h : c.ill.valid = false) (i slot op cause : Nat) :
    c.illNext i slot op cause = { valid := true, opcode := op, slot := slot, ctx := i, cause := cause, pc := (c.tc i).pc } := by simp [Core.illNext, h]

/-- A core with an illegal instruction recorded. -/
def Core.withIll (c : Core) (r : IllRec) : Core := { c with ill := r }

@[simp] theorem Core.tc_withIll (c : Core) (r : IllRec) (j : Nat) : (c.withIll r).tc j = c.tc j := rfl

/-- The module with an illegal instruction recorded at its core, before the fault. -/
def State.illNoted (s : State) (m i slot op cause : Nat) : State := s.updCore m (fun c => c.withIll (c.illNext i slot op cause))

theorem illegal_eq (s : State) (m i slot op cause : Nat) : illegal s m i slot op cause =
    if ((s.illNoted m i slot op cause).grp (s.corePart m)).faults.any (fun f => f.code == 2) then s.illNoted m i slot op cause
    else coreFault (s.illNoted m i slot op cause) m 0x02 := by
  have hnote : (fun c : Core => c.withIll (c.illNext i slot op cause)) = fun c => if c.ill.valid then c
      else { c with ill := { valid := true, opcode := op, slot := slot, ctx := i, cause := cause, pc := (c.tc i).pc } } := by
    funext c
    unfold Core.withIll Core.illNext
    split <;> rfl
  unfold State.illNoted
  rw [hnote]
  rfl

/-- An illegal instruction changes nothing of its core but the record. -/
theorem core_illegal (s : State) (m i slot op cause : Nat) : (illegal s m i slot op cause).core m = (s.core m).withIll ((s.core m).illNext i slot op cause) := by
  have hnoted : (s.illNoted m i slot op cause).core m = (s.core m).withIll ((s.core m).illNext i slot op cause) := State.core_updCore_same ..
  rw [illegal_eq]
  split
  · exact hnoted
  · exact (core_congr (cores_coreFaultAt ..) m).trans hnoted

/-- Within a step an illegal instruction fails it with fault 0x02. -/
theorem illegal_fails {s : State} {m : Nat} (h : (s.grp (s.corePart m)).inStep = true) (i slot op cause : Nat) :
    ∃ f ∈ ((illegal s m i slot op cause).grp (s.corePart m)).faults, f.code = 2 := by
  rw [illegal_eq]
  split
  · rename_i hf
    simpa using hf
  · exact (coreFault_fails (s := s.illNoted m i slot op cause) 2 h).faults

/-- An instruction that its checks find illegal. -/
theorem legalOr_bad {s : State} {q : Issue} {slot op cause : Nat} {checks : List (Bool × Nat)} {bad good : State → State} (h : firstCause checks = some cause) :
    legalOr s q slot op checks bad good = bad (illegal s q.core q.ctx slot op cause) := by rw [legalOr, h]

/-- The core of an illegal instruction, as it finds it. -/
theorem Begins.core_illegal {q : Issue} {k n : Nat} {s u : State} (hu : Begins q k n s u) (slot op cause : Nat) :
    (illegal u q.core q.ctx slot op cause).core q.core = ((s.core q.core).begun q.ctx k n).withIll ((s.core q.core).illNext q.ctx slot op cause) := by
  rw [Machine.core_illegal, hu.core, Core.illNext, Core.tc_begun_same]
  rfl

/-! ### VLD -/

section
variable {q : Issue} {w : BitVec 44} {s0 s : State} {k : Nat}

/-- What writing vector register `d` leaves of the registers of a context that began as that of `s`. -/
theorem writes_wroteV {t : State} {d : Nat} (hd : d < 32) {v : VReg} {at' : Nat} (h : (t.core q.core).tc q.ctx = (((s.core q.core).tc q.ctx).begun k).wrV d v at') :
    ((t.core q.core).tc q.ctx).vAt d = v ∧ keepsRegs q none (some d) s t := by
  refine ⟨?_, fun r _ => ?_, fun r hr => ?_⟩ <;> rw [h]
  · exact Ctx.vAt_wrV_same _ _ _ hd
  · rw [Ctx.sAt_wrV, Ctx.sAt_begun]
  · rw [Ctx.vAt_wrV_ne _ _ _ fun e => hr (congrArg some e.symm), Ctx.vAt_begun]

/-- A vector-slot instruction that reads scratchpad well and writes a vector register. -/
theorem Begins.readsAndWritesV {n : Nat} {u : State} (hu : Begins q k n s u) {o : Spo} {len a : Nat} {tl tk : AMap Tell} (ht : (s.core q.core).ReadTells o len a tl tk)
    (v : VReg) (r : Nat) {f : Ctx → Ctx} (hf : f (((s.core q.core).tc q.ctx).begun k) = (((s.core q.core).tc q.ctx).begun k).wrV (vD w) v r) :
    let t := (u.setCore q.core (((s.core q.core).begun q.ctx k n).emptied tl tk)).updCtx q.core q.ctx f
    ((t.core q.core).tc q.ctx).vAt (vD w) = v ∧ keepsRegs q none (some (vD w)) s t ∧ readsPad q o len a s t ∧ padFrame q s t := by
  rw [State.setCore_updCtx, Core.tc_emptied, Core.tc_begun_same, hf]
  obtain ⟨hpad, hframe⟩ := hu.readsPad_setTc ht (Ctx.onlyRegs_wrV (Ctx.onlyRegs_begun _ k) (vD w) v r)
  obtain ⟨hreg, hregs⟩ := writes_wroteV (vD_lt w) (State.tc_setCore_setTc u q.core (((s.core q.core).begun q.ctx k n).emptied tl tk) q.ctx _)
  exact ⟨hreg, hregs, hpad, hframe⟩

/-- VLD of 256 bytes that read well (08 R192). -/
theorem vld_reads {a : Nat} (h : issuesAt s0 q true [] [vD w] k s) (hw : bitsN w 43 1 = 0) (hty : bitsN w 40 2 ≠ 3) (hm : (spoAt w 16).reads = true)
    (hr : readsWell q s (spoAt w 16) 256 a) :
    Does (.vld q w) s0 (fun t => ((t.core q.core).tc q.ctx).vAt (vD w) = ⟨BitVec.ofNat 2048 (Memory.readN (s.core q.core).pad a 256), false⟩ ∧
      keepsRegs q none (some (vD w)) s t ∧ readsPad q (spoAt w 16) 256 a s t ∧ padFrame q s t) := by
  obtain ⟨u, n, hu, e⟩ := issue_begins h _
  obtain ⟨tl, tk, ht, -, hread⟩ := hu.readOp_well (by omega) hr
  refine ⟨_, congrArg Host.Outcome.next e, ?_⟩
  rw [legalOr_good (by simp [firstCause, hw, hty, hm])]
  simp only [hread]
  exact hu.readsAndWritesV ht _ _ rfl

/-- VST through an operand whose block resolves (08 R192). -/
theorem vst_writes {ph a : Nat} (h : issuesAt s0 q true [] [vD w] k s) (hw : bitsN w 43 1 = 0) (hty : bitsN w 40 2 ≠ 3) (hm : (spoAt w 16).writes = true)
    (ho : (spoAt w 16).ofs % 4 = 0) (hr : writesWell q s (spoAt w 16) 4 ph a) :
    let r := ((s.core q.core).tc q.ctx).rdV (vD w)
    Does (.vst q w) s0 (fun t => writesLater q 3 (spoAt w 16) 4 ph a r.val.toNat r.poison 0 k s t ∧ keepsRegs q none none s t ∧ padFrame q s t) := by
  obtain ⟨u, n, hu, e⟩ := issue_begins h _
  refine ⟨_, congrArg Host.Outcome.next e, ?_⟩
  rw [legalOr_good (by simp [firstCause, hw, hty, hm, ho]), hu.tc, Ctx.rdV_begun]
  exact hu.writeOp hr 3 _ _ 0 k

/-! ### VMASK -/

theorem testBit_eq_true_iff (m i : Nat) : (m >>> i) % 2 = 1 ↔ m.testBit i = true := by rw [Nat.testBit_eq_decide_div_mod_eq, Nat.shiftRight_eq_div_pow, decide_eq_true_iff]

/-- A masked vector, lane by lane (08 R197). -/
theorem maskLanes_eq (ty : Nat) (half : Bool) (a : VWord) (m : Nat) : maskLanes ty half a m =
    if ty = 1 then ofLanes16 (fun i => if m.testBit i then lane16 a i else 0xFF80#16)
    else ofLanes32 (fun i => if m.testBit (if half then 64 + i else i) then lane32 a i else 0xFF800000#32) := by
  simp only [maskLanes, testBit_eq_true_iff]

/-- VMASK by 16 bytes that read well (08 R197). -/
theorem vmask_reads {a : Nat} (h : issuesAt s0 q true [] [vD w, vA w] k s) (hw : bitsN w 43 1 = 0) (hm : (spoAt w 16).reads = true)
    (hty : bitsN w 40 2 = 0 ∨ (bitsN w 40 2 = 1 ∧ bitAt w 42 = false)) (hr : readsWell q s (spoAt w 16) 16 a) :
    let m := Memory.readN (s.core q.core).pad a 16
    let v := ((s.core q.core).tc q.ctx).rdV (vA w)
    Does (.vmask q w) s0 (fun t =>
      ((t.core q.core).tc q.ctx).vAt (vD w) = (if v.poison then poisonV else ⟨maskLanes (bitsN w 40 2) (bitAt w 42) v.val m, false⟩) ∧
      keepsRegs q none (some (vD w)) s t ∧ readsPad q (spoAt w 16) 16 a s t ∧ padFrame q s t) := by
  obtain ⟨u, n, hu, e⟩ := issue_begins h _
  obtain ⟨tl, tk, ht, -, hread⟩ := hu.readOp_well (by omega) hr
  refine ⟨_, congrArg Host.Outcome.next e, ?_⟩
  rw [legalOr_good (by rcases hty with h0 | ⟨h1, hhalf⟩ <;> simp [firstCause, *])]
  simp only [hread, Bool.or_false]
  exact hu.readsAndWritesV ht _ _ rfl

/-! ### The reserved types -/

/-- The record of a vector-slot instruction whose word is illegal with cause FIELD (08 R212). -/
def vecIll (q : Issue) (w : BitVec 44) (s : State) : IllRec :=
  { valid := true, opcode := vOp w, slot := 1, ctx := q.ctx, cause := 2, pc := ((s.core q.core).tc q.ctx).pc }

/-- What an illegal vector-slot instruction leaves whose destination is a vector register: poison, and the first record (08 R211). -/
theorem Begins.illegal_poisonsV {n : Nat} {u : State} (hu : Begins q k n s u) (hill : (s.core q.core).ill.valid = false) (r : Nat) :
    let t := poisonVReg q (vD w) r (illegal u q.core q.ctx 1 (vOp w) 2)
    ((t.core q.core).tc q.ctx).vAt (vD w) = poisonV ∧ keepsRegs q none (some (vD w)) s t ∧
      (t.core q.core).ill = vecIll q w s := by
  intro t
  have hcore : t.core q.core = (((s.core q.core).begun q.ctx k n).withIll ((s.core q.core).illNext q.ctx 1 (vOp w) 2)).setTc q.ctx
      ((((s.core q.core).tc q.ctx).begun k).wrV (vD w) poisonV r) := by
    rw [← Core.tc_begun_same _ _ _ n, ← Core.tc_withIll _ ((s.core q.core).illNext q.ctx 1 (vOp w) 2), ← hu.core_illegal]
    exact State.core_updCore_same ..
  obtain ⟨hreg, hregs⟩ := writes_wroteV (s := s) (k := k) (t := t) (vD_lt w) (by rw [hcore, Core.tc_setTc_same])
  refine ⟨hreg, hregs, ?_⟩
  rw [hcore, Core.setTc_eq, vecIll, ← Core.illNext_first hill]
  rfl

/-- A core with the accesses `l` on their way. -/
def Core.withLate (c : Core) (l : List SlotAcc) : Core := { c with late := l }

@[simp] theorem Core.tc_withLate (c : Core) (l : List SlotAcc) (j : Nat) : (c.withLate l).tc j = c.tc j := rfl

/-- Poison on its way to slots is queued silently: nothing else of the core differs (08 R211). -/
theorem Core.writeSpo_silent (c : Core) (i ord : Nat) (o : Spo) (n d : Nat) (poison : Bool) (step t : Nat) :
    ∃ l, (c.writeSpo i ord o n d poison true step t).1 = c.withLate l := by
  unfold Core.writeSpo
  cases c.resolve i o.handle o.byte (64 * n) true o.mode with
  | error v => exact ⟨c.late, rfl⟩
  | ok x => exact ⟨_, queueWrites_frame ..⟩

/-- What an illegal VST leaves: the first record, and poison on its way to its slots. -/
theorem Begins.illegal_poisonsSlots {n : Nat} {u : State} (hu : Begins q k n s u) (hill : (s.core q.core).ill.valid = false) (o : Spo) (m r : Nat) :
    let t := poisonSlots q o m r (illegal u q.core q.ctx 1 (vOp w) 2)
    keepsRegs q none none s t ∧ (t.core q.core).pad = (s.core q.core).pad ∧
      (t.core q.core).ill = vecIll q w s := by
  intro t
  obtain ⟨l, hl⟩ := ((((s.core q.core).begun q.ctx k n).withIll ((s.core q.core).illNext q.ctx 1 (vOp w) 2))).writeSpo_silent q.ctx 5 o m (2 ^ (512 * m) - 1) true 0 r
  have hcore : t.core q.core = (((s.core q.core).begun q.ctx k n).withIll ((s.core q.core).illNext q.ctx 1 (vOp w) 2)).withLate l := by
    rw [← hl, ← hu.core_illegal]
    exact State.core_updCore_same ..
  have hctx : (t.core q.core).tc q.ctx = ((s.core q.core).tc q.ctx).begun k := by
    rw [hcore, Core.tc_withLate, Core.tc_withIll, Core.tc_begun_same]
  refine ⟨⟨fun r _ => ?_, fun r _ => ?_⟩, ?_, ?_⟩
  · rw [hctx, Ctx.sAt_begun]
  · rw [hctx, Ctx.vAt_begun]
  · rw [hcore]
    rfl
  · rw [hcore, vecIll, ← Core.illNext_first hill]
    rfl

theorem vld_illegal (h : issuesAt s0 q true [] [vD w] k s) (hw : bitsN w 43 1 = 0) (hty : bitsN w 40 2 = 3) (hill : (s.core q.core).ill.valid = false) :
    Does (.vld q w) s0 (fun t => ((t.core q.core).tc q.ctx).vAt (vD w) = poisonV ∧ keepsRegs q none (some (vD w)) s t ∧
      (t.core q.core).ill = vecIll q w s) := by
  obtain ⟨u, n, hu, e⟩ := issue_begins h _
  refine ⟨_, congrArg Host.Outcome.next e, ?_⟩
  rw [legalOr_bad (cause := 2) (by simp [firstCause, hw, hty])]
  exact hu.illegal_poisonsV hill _

theorem vst_illegal (h : issuesAt s0 q true [] [vD w] k s) (hw : bitsN w 43 1 = 0) (hty : bitsN w 40 2 = 3) (hill : (s.core q.core).ill.valid = false) :
    Does (.vst q w) s0 (fun t => keepsRegs q none none s t ∧ (t.core q.core).pad = (s.core q.core).pad ∧
      (t.core q.core).ill = vecIll q w s) := by
  obtain ⟨u, n, hu, e⟩ := issue_begins h _
  refine ⟨_, congrArg Host.Outcome.next e, ?_⟩
  rw [legalOr_bad (cause := 2) (by simp [firstCause, hw, hty])]
  exact hu.illegal_poisonsSlots hill _ _ _

theorem vmask_illegal (h : issuesAt s0 q true [] [vD w, vA w] k s) (hw : bitsN w 43 1 = 0) (hm : (spoAt w 16).reads = true)
    (hty : bitsN w 40 2 = 2 ∨ bitsN w 40 2 = 3 ∨ (bitsN w 40 2 = 1 ∧ bitAt w 42 = true)) (hill : (s.core q.core).ill.valid = false) :
    Does (.vmask q w) s0 (fun t => ((t.core q.core).tc q.ctx).vAt (vD w) = poisonV ∧ keepsRegs q none (some (vD w)) s t ∧
      (t.core q.core).ill = vecIll q w s) := by
  obtain ⟨u, n, hu, e⟩ := issue_begins h _
  refine ⟨_, congrArg Host.Outcome.next e, ?_⟩
  rw [legalOr_bad (cause := 2) (by rcases hty with h2 | h3 | ⟨h1, hhalf⟩ <;> simp [firstCause, *])]
  exact hu.illegal_poisonsV hill _

end

/-- Settles O14: VLD, VST and VMASK by the access that each makes, and their reserved types by the record and the poison that they leave. -/
theorem vectorScratchpad : Obligations.VectorScratchpad := by
  intro q w s0 s k ph a hw o x ty half
  refine ⟨fun h hty => ⟨fun hm hr => vld_reads h hw hty hm hr, fun hm ho hr => vst_writes h hw hty hm ho hr⟩, fun h hm hty hr => ?_,
    fun h hty hill => ⟨vld_illegal h hw hty hill, vst_illegal h hw hty hill⟩, fun h hm hty hill => vmask_illegal h hw hm hty hill⟩
  simp only [← maskLanes_eq]
  exact vmask_reads h hw hm hty hr

end Sys2Proof.Machine

namespace Sys2Proof.Machine

/-! ## An illegal instruction and a read of an EMPTY slot (O10) -/

/-! ### Reserved bits of the control slot -/

/-- What an illegal control-slot instruction without a destination leaves, whatever its bundle's end makes of its context. -/
theorem Begins.illegal_ctrl {q : Issue} {k n : Nat} {s u : State} (hu : Begins q k n s u) (hstep : (s.grp (s.corePart q.core)).inStep = true) (op : Nat) :
    let c := s.core q.core
    let x := c.tc q.ctx
    let t := (illegal u q.core q.ctx 3 op 2).updCtx q.core q.ctx (fun x => x.advance.holdTo (k + 1))
    ((t.core q.core).ill = c.illNext q.ctx 3 op 2 ∧ (∃ f ∈ (t.grp (s.corePart q.core)).faults, f.code = 2) ∧ keepsRegs q none none s t) ∧
      (t.core q.core).tc q.ctx = ((x.begun k).goTo (afterBody x.pc x.loops)).holdTo (k + 1) := by
  intro c x t
  have hcore : t.core q.core = ((c.begun q.ctx k n).withIll (c.illNext q.ctx 3 op 2)).setTc q.ctx (((x.begun k).goTo (afterBody x.pc x.loops)).holdTo (k + 1)) := by
    have hadv : (((c.begun q.ctx k n).withIll (c.illNext q.ctx 3 op 2)).tc q.ctx).advance = (x.begun k).goTo (afterBody x.pc x.loops) := by
      rw [Core.tc_withIll, Core.tc_begun_same, Ctx.advance_eq_goTo]
      rfl
    rw [← hadv, ← hu.core_illegal]
    exact State.core_updCore_same ..
  have hctx : (t.core q.core).tc q.ctx = ((x.begun k).goTo (afterBody x.pc x.loops)).holdTo (k + 1) := by rw [hcore, Core.tc_setTc_same]
  refine ⟨⟨?_, ?_, fun r _ => ?_, fun r _ => ?_⟩, hctx⟩
  · rw [hcore, Core.setTc_eq]
    rfl
  · have hin : (u.grp (u.corePart q.core)).inStep = true := by
      rw [hu.corePart]
      exact (hu.inStep _).trans hstep
    rw [← hu.corePart]
    exact illegal_fails hin q.ctx 3 op 2
  · rw [hctx]
    rfl
  · rw [hctx]
    rfl

section
variable {q : Issue} {w : BitVec 48} {s0 s : State} {k : Nat} (h : issuesAt s0 q false [] [] k s) (hstep : (s.grp (s.corePart q.core)).inStep = true)
  (hw : bitsN w 6 42 ≠ 0)
include h hstep hw

/-- A control-slot instruction with a reserved bit set, and no destination. -/
theorem issueCtrl_reserved (op : Nat) (good : State → State) :
    let c := s.core q.core
    let t := issueCtrl s0 q [] (fun s _ => legalOr s q 3 op [(bitsN w 6 42 != 0, 2)] id good)
    ((t.core q.core).ill = c.illNext q.ctx 3 op 2 ∧ (∃ f ∈ (t.grp (s.corePart q.core)).faults, f.code = 2) ∧ keepsRegs q none none s t) ∧
      ((t.core q.core).tc q.ctx).seq = (c.tc q.ctx).seq ∧ ((t.core q.core).tc q.ctx).ended = (c.tc q.ctx).ended := by
  obtain ⟨u, n, hu, e⟩ := issueCtrl_begins h (fun s _ => legalOr s q 3 op [(bitsN w 6 42 != 0, 2)] id good)
  obtain ⟨hleft, hctx⟩ := hu.illegal_ctrl hstep op
  have hbad := legalOr_bad (s := u) (q := q) (slot := 3) (op := op) (bad := id) (good := good) (show firstCause [(bitsN w 6 42 != 0, 2)] = some 2 by simp [firstCause, hw])
  rw [e, hbad]
  exact ⟨hleft, (congrArg Ctx.seq hctx).trans rfl, (congrArg Ctx.ended hctx).trans rfl⟩

end

/-! ### A violation within a step -/

theorem coreFaultAt_faults {s : State} {m : Nat} (code cyc : Nat) (h : (s.grp (s.corePart m)).inStep = true) :
    ∃ f ∈ ((coreFaultAt s m code cyc).grp (s.corePart m)).faults, f.code = code := by
  have hw := works_raiseFault s (s.corePart m) code (m / 192) (m % 192)
  simp only [State.works, Prod.mk.injEq] at hw
  obtain ⟨-, -, -, hg⟩ := hw
  exact ⟨⟨code, cyc⟩, by simp [coreFaultAt, failStepAt, hg, h], rfl⟩

theorem ViolRec.add_first {r : ViolRec} (h : r.valid = false) (i : Nat) (v : Viol) (step cyc : Nat) : r.add i v step cyc =
    { valid := true, kind := v.kind, ctx := i, handle := v.handle, slot := v.slot, expTag := v.expTag, foundTag := v.foundTag, foundSt := v.foundSt, mode := v.mode,
      count := satAdd 0xFFF r.count 1, step := step, at' := cyc } := by simp [ViolRec.add, h]

/-- A core with another violation record. -/
def Core.withViol (c : Core) (r : ViolRec) : Core := { c with viol := r }

@[simp] theorem Core.tc_withViol (c : Core) (r : ViolRec) (j : Nat) : (c.withViol r).tc j = c.tc j := rfl

/-- A violation is added to its core's record, and within a step it fails the step with fault 0x01. -/
theorem violateAt_spec (s : State) (m i : Nat) (v : Viol) (cyc : Nat) :
    (∃ step, (violateAt s m i v cyc).core m = (s.core m).withViol ((s.core m).viol.add i v step cyc)) ∧
    ((s.grp (s.corePart m)).inStep = true → ∃ f ∈ ((violateAt s m i v cyc).grp (s.corePart m)).faults, f.code = 1) := by
  have hw := works_evrIndex s 19 (s.partOf (m / 192)) (m / 192)
  simp only [State.works, Prod.mk.injEq] at hw
  obtain ⟨hcores, -, hfab, hgrp⟩ := hw
  unfold violateAt
  dsimp only
  rw [← core_congr hcores m, ← corePart_congr hfab m, ← hgrp]
  generalize evrIndex s 19 (s.partOf (m / 192)) (m / 192) = u
  have hnoted : (u.updCore m (fun c => { c with viol := c.viol.add i v (u.grp (u.corePart m)).step cyc })).core m =
    (u.core m).withViol ((u.core m).viol.add i v (u.grp (u.corePart m)).step cyc) := State.core_updCore_same ..
  generalize hx : u.updCore m (fun c => { c with viol := c.viol.add i v (u.grp (u.corePart m)).step cyc }) = x at hnoted
  have hp : x.corePart m = u.corePart m := by rw [← hx]; rfl
  have hg : x.grp = u.grp := by rw [← hx]; rfl
  split
  · rename_i hf
    refine ⟨⟨_, hnoted⟩, fun _ => ?_⟩
    rw [State.grp_updGrp_same]
    obtain ⟨f, hmem, hcode⟩ := List.any_eq_true.mp hf
    refine ⟨_, List.mem_map_of_mem hmem, ?_⟩
    rw [if_pos (eq_of_beq hcode)]
    exact eq_of_beq hcode
  · refine ⟨⟨_, (core_congr (cores_coreFaultAt ..) m).trans hnoted⟩, fun hin => ?_⟩
    rw [← hp, ← hg] at hin
    rw [← hp]
    exact coreFaultAt_faults 0x01 cyc hin

/-! ### SLDS of an EMPTY slot -/

/-- The violation of a read that finds a slot EMPTY (05 Table 5.6, R121). -/
def Core.emptyViol (c : Core) (ph slot : Nat) (x : Byte) (take : Bool) : Viol :=
  { kind := 1, handle := ph, slot := slot, expTag := x, foundTag := (c.seenTell slot).tag, foundSt := 0, mode := b2n take }

theorem Core.readSlot_empty {c : Core} {slot : Nat} (h : (c.seenTell slot).st = .empty) (ph : Nat) (x : Byte) (take : Bool) :
    c.readSlot ph slot x take = (c, true, some (c.emptyViol ph slot x take)) := by
  simp [Core.readSlot, Core.emptyViol, h, TState.code]

/-- A 16-byte unit lies in one slot. -/
theorem Core.resolve_unit {c : Core} {i h ofs len mode : Nat} {wr : Bool} {ph a : Nat} (hr : c.resolve i h (16 * ofs) len wr mode = .ok (ph, a)) :
    (a + 16 - 1) / 64 = a / 64 := by
  simp only [Core.resolve] at hr
  split at hr
  · simp only [Except.ok.injEq, Prod.mk.injEq] at hr
    obtain ⟨-, rfl⟩ := hr
    omega
  · cases hr

/-- A read of a 16-byte unit whose slot is EMPTY: poison and the violation, and nothing of the core changed. -/
theorem Core.readSpo_empty {c : Core} {i : Nat} {o : Spo} {ph a : Nat} (hr : c.resolve i o.handle o.byte 16 false (b2n o.take) = .ok (ph, a))
    (he : (c.seenTell (a / 64)).st = .empty) :
    ∃ d, c.readSpo i o 16 = ⟨c, d, true, some (c.emptyViol ph (a / 64) (tagOf (c.tc i).seq o.tag) o.take)⟩ := by
  have hone : (a + 16 - 1) / 64 - a / 64 = 0 := by rw [Core.resolve_unit hr, Nat.sub_self]
  refine ⟨maskedBytes c.pad (fun slot => (c.readSlot ph slot (tagOf (c.tc i).seq o.tag) o.take).2.1) a 16, ?_⟩
  simp only [Core.readSpo, Core.readBytes, hr, hone, readSlots, Core.readSlot_empty he, Bool.or_true]

/-- SLDS of a unit whose slot is EMPTY (08 R204, 05 Table 5.6). -/
theorem exec_slds_empty {q : Issue} {w : BitVec 48} {s0 s : State} {k ph a : Nat} (h : issuesAt s0 q false [cSd w] [] k s) (hw : bitsN w 36 12 = 0)
    (hm : (spoAt w 11).reads = true) (hr : (s.core q.core).resolve q.ctx (spoAt w 11).handle (spoAt w 11).byte 16 false (b2n (spoAt w 11).take) = .ok (ph, a))
    (he : ((s.core q.core).seenTell (a / 64)).st = .empty) :
    let c := s.core q.core
    let v := c.emptyViol ph (a / 64) (tagOf (c.tc q.ctx).seq (spoAt w 11).tag) (spoAt w 11).take
    ∃ u n cyc r, Begins q k n s u ∧ exec (.slds q w) s0 = .next ((violateAt (u.setCore q.core (c.begun q.ctx k n)) q.core q.ctx v cyc).updCtx q.core q.ctx
      (fun x => (x.wrS (cSd w) poisonS r).advance.holdTo (k + 1))) := by
  obtain ⟨u, n, hu, e⟩ := issueCtrl_begins h _
  have hres := (Core.resolve_begun (c := s.core q.core) (d := (s.core q.core).begun q.ctx k n) rfl (Core.tc_begun_same ..) ..).trans hr
  obtain ⟨d, hread⟩ := Core.readSpo_empty (c := (s.core q.core).begun q.ctx k n) hres he
  rw [Core.tc_begun_same, Ctx.seq_begun] at hread
  refine ⟨u, n, violCycle (u.setCore q.core ((s.core q.core).begun q.ctx k n)) q.core
    (((s.core q.core).begun q.ctx k n).emptyViol ph (a / 64) (tagOf ((s.core q.core).tc q.ctx).seq (spoAt w 11).tag) (spoAt w 11).take),
    k + ((s.core q.core).begun q.ctx k n).readLat q.ctx (spoAt w 11), hu, (congrArg Host.Outcome.next e).trans ?_⟩
  rw [legalOr_good (by simp [firstCause, hw, hm])]
  simp only [readOp, hu.core, hread, violateOpt, violate, if_true, State.updCtx_updCtx]
  rfl

/-- SLDS of a unit whose slot is EMPTY, within a step: its register poisoned, the violation recorded, the step failed (05 R115, R116). -/
theorem slds_empty_spec {q : Issue} {w : BitVec 48} {s0 s : State} {k ph a : Nat} (h : issuesAt s0 q false [cSd w] [] k s)
    (hstep : (s.grp (s.corePart q.core)).inStep = true) (hw : bitsN w 36 12 = 0) (hm : (spoAt w 11).reads = true)
    (hr : (s.core q.core).resolve q.ctx (spoAt w 11).handle (spoAt w 11).byte 16 false (b2n (spoAt w 11).take) = .ok (ph, a))
    (he : ((s.core q.core).seenTell (a / 64)).st = .empty) :
    let c := s.core q.core
    let v := c.emptyViol ph (a / 64) (tagOf (c.tc q.ctx).seq (spoAt w 11).tag) (spoAt w 11).take
    Does (.slds q w) s0 (fun t => ((t.core q.core).tc q.ctx).sAt (cSd w) = poisonS ∧ keepsRegs q (some (cSd w)) none s t ∧
      (∃ step cyc, (t.core q.core).viol = c.viol.add q.ctx v step cyc) ∧ (∃ f ∈ (t.grp (s.corePart q.core)).faults, f.code = 1) ∧
      (t.core q.core).pad = c.pad ∧ (t.core q.core).tells = c.tells) := by
  intro c v
  obtain ⟨u, n, cyc, r, hu, e⟩ := exec_slds_empty h hw hm hr he
  obtain ⟨⟨step, hviol⟩, hfault⟩ := violateAt_spec (u.setCore q.core (c.begun q.ctx k n)) q.core q.ctx v cyc
  refine ⟨_, e, ?_⟩
  generalize hx : violateAt (u.setCore q.core (c.begun q.ctx k n)) q.core q.ctx v cyc = x at hviol hfault
  have hcore : (x.updCtx q.core q.ctx (fun x => (x.wrS (cSd w) poisonS r).advance.holdTo (k + 1))).core q.core =
      ((c.begun q.ctx k n).withViol (c.viol.add q.ctx v step cyc)).setTc q.ctx ((c.tc q.ctx).wroteS (cSd w) poisonS k r) := by
    rw [State.updCtx, State.core_updCore_same, hviol, State.core_setCore_same, Core.tc_withViol, Core.tc_begun_same]
    rfl
  obtain ⟨hreg, hregs⟩ := writes_wroteS (s := s) (cSd_lt w) (show Core.tc _ _ = _ by rw [hcore, Core.tc_setTc_same])
  have hpart : (u.setCore q.core (c.begun q.ctx k n)).corePart q.core = s.corePart q.core := hu.corePart _
  rw [hpart] at hfault
  refine ⟨hreg, hregs, ⟨step, cyc, ?_⟩, hfault ((hu.inStep _).trans hstep), ?_, ?_⟩ <;> rw [hcore, Core.setTc_eq] <;> rfl

/-- Settles O10: the three instructions by the record and the fault of an illegal word, SLDS by the violation of the slot that it reads. -/
theorem illegalInstructionAndEmptyRead : Obligations.IllegalInstructionAndEmptyRead := by
  refine ⟨fun q w s0 s k h hstep hw => ?_, fun q w s0 s k ph a h hstep => ?_⟩
  · obtain ⟨hcnop, -⟩ := issueCtrl_reserved h hstep hw 0x00 id
    obtain ⟨hseqadv, hseq, -⟩ := issueCtrl_reserved h hstep hw 0x11 (fun s => s.updCtx q.core q.ctx (fun x => { x with seq := seqNext x.seq }))
    obtain ⟨hwstep, -, hended⟩ := issueCtrl_reserved h hstep hw 0x19 (fun s => s.updCtx q.core q.ctx (fun x => { x with ended := true, loops := [] }))
    exact ⟨⟨_, rfl, hcnop⟩, ⟨_, rfl, hseqadv, hseq⟩, ⟨_, rfl, hwstep, hended⟩⟩
  · intro o c hw hm hr he hv
    obtain ⟨t, e, hreg, hregs, ⟨step, cyc, hviol⟩, hfault, hpad, htells⟩ := slds_empty_spec h hstep hw hm hr he
    refine ⟨t, e, ?_⟩
    dsimp only
    rw [hviol, ViolRec.add_first hv]
    exact ⟨hreg, hregs, rfl, rfl, rfl, rfl, rfl, rfl, rfl, rfl, hfault, hpad, htells⟩

end Sys2Proof.Machine

namespace Sys2Proof.Machine

/-! ## PHASE and ESCM (O8) -/

/-! ### Overflow points and commit gates with nothing to do -/

/-- Without held records in its field, a PHASE is no overflow point (09 R233). -/
theorem overflowPoint_quiet {s : State} {m : Nat} (h : ∀ j, j < 192 → (s.core (m / 192 * 192 + j)).xtabs = []) (pidx t : Nat) : overflowPoint s m pidx t = s := by
  have hnone : overflowTables s (m / 192) pidx = [] := by
    simp only [overflowTables, List.flatMap_eq_nil_iff, List.mem_range]
    intro j hj
    rw [h j hj]
    rfl
  unfold overflowPoint
  dsimp only
  rw [hnone]
  cases (s.field (m / 192)).ovf <;> rfl

/-- In a partition without further modules, a PHASE has no commit gate to send (16 R362). -/
theorem commitGate_quiet {s : State} {m : Nat} (h : (s.slice (s.corePart m)).mods = 0) (pidx t : Nat) : commitGate s m pidx t = s := by simp [commitGate, h]

theorem Begins.slice {q : Issue} {k n : Nat} {s u : State} (hu : Begins q k n s u) (p : Nat) : u.slice p = s.slice p := (congrArg Part.slice (hu.onlyCyc p) :)

theorem Begins.inRoutine {q : Issue} {k n : Nat} {s u : State} (hu : Begins q k n s u) : inRoutine u q = inRoutine s q := by
  simp only [Machine.inRoutine, State.field, hu.fab]

/-! ### PHASE -/

/-- A core in which phase `p` has come into force in fc `k`, with its declaration and the staged pattern (08 R206, 09 R236). -/
def Core.inPhase (c : Core) (p k : Nat) : Core :=
  { c with phase := p, winMax := max c.winMax (AMap.at c.decl 0 p), shunt := if AMap.at c.decl 0 c.phase < AMap.at c.decl 0 p then k + 200 else c.shunt
           pattern := c.staged.getD c.pattern, staged := none, patFrom := if c.staged.isSome then k + 1 else c.patFrom
           patOld := if c.staged.isSome then c.pattern else c.patOld }

/-- A staged pattern is in effect from the next fc on (08 R206). -/
theorem Core.patternAt_inPhase_after {c : Core} (h : c.staged.isSome = true) (p : Nat) {k u : Nat} (hu : k < u) :
    (c.inPhase p k).patternAt u = (c.staged.getD c.pattern).toList.getD (u % 16) 4 := by
  have : ¬ u < k + 1 := by omega
  simp [patternAt, inPhase, h, this]

/-- Until then, and where no pattern is staged, the pattern is the one before. -/
theorem Core.patternAt_inPhase_before {c : Core} (p : Nat) {k u : Nat} (h : c.staged = none ∨ (c.patFrom ≤ u ∧ u ≤ k)) : (c.inPhase p k).patternAt u = c.patternAt u := by
  cases hs : c.staged with
  | none => simp [patternAt, inPhase, hs]
  | some x =>
    obtain hn | ⟨hfrom, hle⟩ := h
    · simp [hs] at hn
    · have hold : ¬ u < c.patFrom := by omega
      simp [patternAt, inPhase, hs, Nat.lt_succ_of_le hle, hold]

/-- PHASE of TC0, with no held records in the field and no commit gate to send. -/
theorem exec_phase {q : Issue} {w : BitVec 48} {s0 s : State} {k : Nat} (h : issuesAt s0 q false [] [] k s) (hq : q.ctx.val = 0) (hw : bitsN w 14 34 = 0)
    (hr : inRoutine s q = false) (hx : ∀ j, j < 192 → (s.core (q.core.val / 192 * 192 + j)).xtabs = []) (hm : (s.slice (s.corePart q.core)).mods = 0) :
    ∃ u n, Begins q k n s u ∧ exec (.phase q w) s0 = .next (u.setCore q.core ((((s.core q.core).begun q.ctx k n).inPhase (bitsN w 6 8) k).endBundle q.ctx k)) := by
  obtain ⟨u, n, hu, e⟩ := issueCtrl_begins h _
  refine ⟨u, n, hu, (congrArg Host.Outcome.next e).trans ?_⟩
  have hphase : u.updCore q.core (fun c => c.inPhase (bitsN w 6 8) k) = u.setCore q.core (((s.core q.core).begun q.ctx k n).inPhase (bitsN w 6 8) k) := by
    rw [State.updCore, hu.core]
  rw [legalOr_good (by simp [firstCause, hw, hq])]
  simp only [hu.inRoutine, hr, Bool.false_eq_true, if_false]
  change Host.Outcome.next (State.updCtx (commitGate (overflowPoint (u.updCore q.core (fun c => c.inPhase (bitsN w 6 8) k)) q.core (bitsN w 6 8) k) q.core
    (bitsN w 6 8) k) q.core q.ctx _) = _
  rw [hphase, overflowPoint_quiet, commitGate_quiet]
  · simp [State.updCtx, State.updCore, Core.endBundle]
  · have hpart : (u.setCore q.core (((s.core q.core).begun q.ctx k n).inPhase (bitsN w 6 8) k)).corePart q.core = s.corePart q.core := hu.corePart q.core
    rw [hpart]
    exact (congrArg Slice.mods (hu.slice _)).trans hm
  · intro j hj
    by_cases hc : q.core.val / 192 * 192 + j = q.core
    · rw [hc, State.core_setCore_same, ← hx j hj, hc]
      rfl
    · rw [State.core_setCore_ne _ _ hc, hu.core_ne hc, hx j hj]

/-! ### ESCM -/

/-- A module whose field `n` has the mask of layer `l` cleared, where `clear` is set (04 R94). -/
def State.maskCleared (s : State) (clear : Bool) (n l : Nat) : State := if clear then s.updField n (fun f => { f with escMask := AMap.put f.escMask l [] }) else s

section
variable (s : State) (clear : Bool) (n l : Nat)

theorem State.module_maskCleared : { s.maskCleared clear n l with fab := s.fab } = s := by cases clear <;> rfl

theorem State.core_maskCleared (m : Nat) : (s.maskCleared clear n l).core m = s.core m := by cases clear <;> rfl

theorem State.fab_maskCleared : { (s.maskCleared clear n l).fab with fields := s.fab.fields } = s.fab := by cases clear <;> rfl

theorem State.field_maskCleared_ne {j : Nat} (h : j ≠ n) : (s.maskCleared clear n l).field j = s.field j := by
  cases clear
  · rfl
  · exact s.field_updField_ne (fun f => { f with escMask := AMap.put f.escMask l [] }) h

theorem State.field_maskCleared : { (s.maskCleared clear n l).field n with escMask := (s.field n).escMask } = s.field n := by
  cases clear
  · rfl
  · simp [maskCleared]

theorem State.escMask_maskCleared : AMap.at ((s.maskCleared clear n l).field n).escMask [] l = if clear then [] else AMap.at (s.field n).escMask [] l := by
  cases clear
  · rfl
  · simp [maskCleared]

theorem State.escMask_maskCleared_ne {j : Nat} (h : j ≠ l) : AMap.at ((s.maskCleared clear n l).field n).escMask [] j = AMap.at (s.field n).escMask [] j := by
  cases clear
  · rfl
  · simp [maskCleared, AMap.at_put_ne _ _ _ h]

end

/-- A context that has layer `l` selected. -/
def Ctx.selecting (x : Ctx) (l : Nat) : Ctx := { x with lsel := l }

/-- A core that has latched `m` as the mask of layer `l` (04 R94). -/
def Core.latched (c : Core) (l : Nat) (m : AMap Nat) : Core := { c with masks := AMap.put c.masks l m }

@[simp] theorem Core.tc_latched (c : Core) (l : Nat) (m : AMap Nat) (j : Nat) : (c.latched l m).tc j = c.tc j := rfl

/-- The core of an ESCM of context `i` that issued in fc `k`, with `m` the mask of layer `l`. -/
def Core.escalated (c : Core) (i : Fin 4) (k n l : Nat) (m : AMap Nat) : Core :=
  ((c.begun i k n).latched l m).setTc i ((((c.tc i).begun k).selecting l).advance.holdTo (k + 1))

theorem Core.tc_escalated (c : Core) (i : Fin 4) (k n l : Nat) (m : AMap Nat) :
    (c.escalated i k n l m).tc i = (((c.tc i).begun k).selecting l).advance.holdTo (k + 1) := Core.tc_setTc_same ..

theorem Core.masks_escalated (c : Core) (i : Fin 4) (k n l : Nat) (m : AMap Nat) : (c.escalated i k n l m).masks = AMap.put c.masks l m := by
  rw [escalated, Core.setTc_eq]
  rfl

theorem Core.onlyCtx_escalated (c : Core) (i : Fin 4) (k n l : Nat) (m : AMap Nat) : Core.onlyCtx c { c.escalated i k n l m with masks := c.masks } := by
  rw [escalated, Core.setTc_eq]
  rfl

/-- ESCM: with OPEN the field's mask cleared, and the core latching the field's mask. -/
theorem exec_escm {q : Issue} {w : BitVec 48} {s0 s : State} {k : Nat} (h : issuesAt s0 q false [] [] k s) (hw : bitsN w 9 39 = 0) :
    ∃ u n, Begins q k n s u ∧ exec (.escm q w) s0 = .next ((u.maskCleared (bitAt w 8) (q.core.val / 192) (bitsN w 6 2)).setCore q.core
      ((s.core q.core).escalated q.ctx k n (bitsN w 6 2) (if bitAt w 8 then [] else AMap.at (s.field (q.core.val / 192)).escMask [] (bitsN w 6 2)))) := by
  obtain ⟨u, n, hu, e⟩ := issueCtrl_begins h _
  refine ⟨u, n, hu, (congrArg Host.Outcome.next e).trans ?_⟩
  have hmask := u.escMask_maskCleared (bitAt w 8) (q.core.val / 192) (bitsN w 6 2)
  have hcore := u.core_maskCleared (bitAt w 8) (q.core.val / 192) (bitsN w 6 2) q.core
  have hfield : u.field (q.core.val / 192) = s.field (q.core.val / 192) := by simp only [State.field, hu.fab]
  rw [hfield] at hmask
  rw [legalOr_good (by simp [firstCause, hw])]
  change Host.Outcome.next (State.updCtx (State.updCtx (State.updCore (u.maskCleared (bitAt w 8) (q.core.val / 192) (bitsN w 6 2)) q.core (fun c =>
    c.latched (bitsN w 6 2) (AMap.at ((u.maskCleared (bitAt w 8) (q.core.val / 192) (bitsN w 6 2)).field (q.core.val / 192)).escMask [] (bitsN w 6 2))))
    q.core q.ctx (fun x => x.selecting (bitsN w 6 2))) q.core q.ctx _) = _
  rw [hmask, State.updCtx_updCtx]
  simp only [State.updCtx, State.updCore, State.core_setCore_same, State.setCore_setCore, hcore, hu.core, Core.tc_latched, Core.tc_begun_same]
  rfl

/-- What ESCM leaves of the module: the field's mask, the core's and the context's layer. -/
theorem Begins.escalated {q : Issue} {k n : Nat} {s u : State} (hu : Begins q k n s u) (clear : Bool) (l : Nat) :
    let i := q.core.val / 192
    let m := if clear then [] else AMap.at (s.field i).escMask [] l
    let t := (u.maskCleared clear i l).setCore q.core ((s.core q.core).escalated q.ctx k n l m)
    AMap.at (t.field i).escMask [] l = m ∧ (∀ j, j ≠ l → AMap.at (t.field i).escMask [] j = AMap.at (s.field i).escMask [] j) ∧
      { t.field i with escMask := (s.field i).escMask } = s.field i ∧ (∀ j, j ≠ i → t.field j = s.field j) ∧
      { t.fab with fields := s.fab.fields } = s.fab ∧ AMap.find (t.core q.core).masks l = some m ∧ ((t.core q.core).tc q.ctx).lsel = l ∧ keepsRegs q none none s t ∧
      slotFrame q (fun c d => Core.onlyCtx c { d with masks := c.masks }) s { t with fab := s.fab } := by
  intro i m t
  have hfield (j : Nat) : u.field j = s.field j := by simp only [State.field, hu.fab]
  have hcore : t.core q.core = (s.core q.core).escalated q.ctx k n l m := State.core_setCore_same ..
  have hframe : { t with fab := s.fab } = u.setCore q.core ((s.core q.core).escalated q.ctx k n l m) := by
    rw [← hu.fab]
    exact congrArg (fun v : State => v.setCore q.core _) (u.module_maskCleared clear i l)
  have hctx := (congrArg (Core.tc · q.ctx) hcore).trans (Core.tc_escalated ..)
  have hmask := u.escMask_maskCleared clear i l
  have hmasks (j : Nat) (hj : j ≠ l) := u.escMask_maskCleared_ne clear i l hj
  have hrest := u.field_maskCleared clear i l
  have hfab := u.fab_maskCleared clear i l
  rw [hfield] at hmask hrest
  rw [hu.fab] at hfab
  refine ⟨hmask, fun j hj => (hmasks j hj).trans (by rw [hfield]), hrest, fun j hj => (u.field_maskCleared_ne clear i l hj).trans (hfield j), hfab, ?_, ?_,
    ⟨fun r _ => ?_, fun r _ => ?_⟩, ?_⟩
  · rw [hcore, Core.masks_escalated, AMap.find_put_same]
  · rw [hctx, Ctx.advance_eq_goTo]
    rfl
  · rw [hctx, Ctx.sAt_holdTo, Ctx.sAt_advance]
    exact Ctx.sAt_begun (k := k) ..
  · rw [hctx, Ctx.vAt_holdTo, Ctx.vAt_advance]
    exact Ctx.vAt_begun (k := k) ..
  · rw [hframe]
    exact hu.slotFrame_setTc (Core.onlyCtx_escalated ..) fun _ => rfl

/-- Settles O8: PHASE by the core that it leaves, ESCM by that and the field's mask. -/
theorem phasesAndMasks : Obligations.PhasesAndMasks := by
  intro q w s0 s k h
  refine ⟨fun hq hw hr hx hm => ?_, fun hw => ?_⟩
  · obtain ⟨u, n, hu, e⟩ := exec_phase h hq hw hr hx hm
    refine ⟨_, e, ?_, ?_, ?_, ?_, fun v hv hs => ?_, fun v hv => ?_, hu.keepsRegs_endBundle (by rw [Core.endBundle_eq]; rfl) fun _ => rfl⟩ <;>
      rw [State.core_setCore_same, Core.endBundle_eq]
    case refine_1 | refine_2 | refine_3 | refine_4 => rfl
    case refine_5 => exact Core.patternAt_inPhase_after (c := s.core q.core) hs (bitsN w 6 8) hv
    case refine_6 => exact Core.patternAt_inPhase_before (c := s.core q.core) (bitsN w 6 8) hv
  · obtain ⟨u, n, hu, e⟩ := exec_escm h hw
    exact ⟨_, e, hu.escalated _ _⟩

end Sys2Proof.Machine

namespace Sys2Proof.Machine

/-! ## KVAPQ (O26) -/

/-! ### The signs and the rows that an append reads -/

/-- A resident read answers by what the fc found in the slots, the bytes and where the context stands in the handle table. -/
theorem Core.readRes_seen {c d : Core} {i k : Nat} (hh : d.handles = c.handles) (hs : ∀ j, d.seenTell j = c.seenTell j) (hp : d.pad = c.pad)
    (hx : d.tc i = (c.tc i).begun k) (h byte len : Nat) : d.readRes i h byte len = { c.readRes i h byte len with core := d } := by
  have hbad : ∀ ph slot x, (d.readSlot ph slot x false).2.1 = (c.readSlot ph slot x false).2.1 := fun ph slot x => by rw [Core.readSlot_peek_congr (hs slot)]
  unfold Core.readRes Core.readBytes
  simp only [Core.resolve_begun hh hx, hx, Ctx.seq_begun, hbad, hp]
  cases c.resolve i h byte len false (b2n false) with
  | error v => rfl
  | ok x => simp only [readSlots_peek_congr hs]

/-- The sign reads of an append, none without a rotation (13 R315). -/
def kvSignReads (c : Core) (i : Nat) (g : Geo) (d : BitVec 128) : List ReadOut := if qdRot d = 0 then [] else (List.range (g.elems / 64)).map (fun k => kvSigns c i d (64 * k))

/-- Whether the signs of an append are poison. -/
def kvSpoilt (c : Core) (i : Nat) (g : Geo) (d : BitVec 128) : Bool := (kvSignReads c i g d).any (fun r => r.poison)

theorem kvSpoilt_eq (c : Core) (i : Nat) (g : Geo) (d : BitVec 128) :
    kvSpoilt c i g d = (decide (qdRot d ≠ 0) && (List.range (g.elems / 64)).any (fun j => (kvSigns c i d (64 * j)).poison)) := by
  by_cases h : qdRot d = 0
  · simp [kvSpoilt, kvSignReads, h]
  · simp [kvSpoilt, kvSignReads, h, List.any_map, Function.comp_def]

/-- The rows that an append of `n` positions from byte `a` quantises (13 R315). -/
def kvRows (c : Core) (i : Nat) (g : Geo) (d : BitVec 128) (a n : Nat) : List KvRow :=
  (List.range n).map fun j => kvOne c i g d ((List.range g.elems).map fun m => BitVec.ofNat 16 (Memory.readN c.pad (a + 2 * g.elems * j) (2 * g.elems) >>> (16 * m)))

theorem foldl_misses (rows : List KvRow) : rows.foldl (fun n r => n + r.misses) 0 = (rows.map fun r => r.misses).sum := by
  rw [List.sum_eq_foldl, List.foldl_map]

section
variable {c e : Core} {i k : Nat} (hh : e.handles = c.handles) (hs : ∀ j, e.seenTell j = c.seenTell j) (hp : e.pad = c.pad) (hx : e.tc i = (c.tc i).begun k)
include hh hs hp hx

theorem kvSigns_seen (d : BitVec 128) (j : Nat) : kvSigns e i d j = { kvSigns c i d j with core := e } := Core.readRes_seen hh hs hp hx ..

theorem kvOne_seen (g : Geo) (d : BitVec 128) (row : List (BitVec 16)) : kvOne e i g d row = kvOne c i g d row := by
  have hd : (fun j => (kvSigns e i d j).data) = fun j => (kvSigns c i d j).data := funext fun j => by rw [kvSigns_seen hh hs hp hx]
  unfold kvOne
  rw [hd]

theorem kvSpoilt_seen (g : Geo) (d : BitVec 128) : kvSpoilt e i g d = kvSpoilt c i g d := by
  simp only [kvSpoilt_eq, kvSigns_seen hh hs hp hx]

/-- Signs that raise no violation on one core raise none on the other. -/
theorem kvSignReads_quiet {g : Geo} {d : BitVec 128} (h : qdRot d = 0 ∨ ∀ j, j < g.elems / 64 → (kvSigns c i d (64 * j)).viol = none) :
    (kvSignReads e i g d).findSome? (fun r => r.viol) = none := by
  unfold kvSignReads
  split
  · rfl
  · rename_i hrot
    have hq := h.resolve_left hrot
    rw [List.findSome?_eq_none_iff]
    intro r hr
    obtain ⟨j, hj, rfl⟩ := List.mem_map.mp hr
    rw [kvSigns_seen hh hs hp hx]
    exact hq j (List.mem_range.mp hj)

/-- An append reads the same rows and signs of either core. -/
theorem kvReads_alike {g : Geo} {d : BitVec 128} (h : qdRot d = 0 ∨ ∀ j, j < g.elems / 64 → (kvSigns c i d (64 * j)).viol = none) :
    (∀ row, kvOne e i g d row = kvOne c i g d row) ∧ kvSpoilt e i g d = kvSpoilt c i g d ∧ (kvSignReads e i g d).findSome? (fun r => r.viol) = none :=
  ⟨kvOne_seen hh hs hp hx g d, kvSpoilt_seen hh hs hp hx g d, kvSignReads_quiet hh hs hp hx h⟩

end

/-! ### The append -/

/-- A core with an append queued and the mast's data path taken and planned. -/
def Core.appended (c : Core) (x : Append) (path plan : Nat) : Core := { c with mast := { c.mast with path := path, plan := plan }, appends := c.appends ++ [x] }

/-- A module that has counted `n` more overflows for partition `p` (13 R316). -/
def State.kvCounted (s : State) (p n : Nat) : State := { s with stay := { s.stay with kvOvf := AMap.upd s.stay.kvOvf 0 p (fun k => satAdd 0xFFFFFFFF k n) } }

/-- The core that KVAPQ leaves. -/
def Core.kvDone (c : Core) (q : Issue) (k v : Nat) (tl tk : AMap Tell) (x : Append) (path plan : Nat) : Core :=
  (((c.begun q.ctx k v).tookTrk q.ctx .kvAppend 1 none).emptied tl tk).appended x path plan

/-- What the word, the descriptor and the register of a KVAPQ name, as the instruction wants them. -/
structure KvLegal (q : Issue) (w : BitVec 80) (s : State) (g : Geo) (d : BitVec 128) : Prop where
  resv : bitsN w 57 23 = 0
  reads : (mvSpo w).reads = true
  geo : AMap.find (s.core q.core).geos (bitsN (((s.core q.core).tc q.ctx).rdS (mvAreg w)).val 32 4) = some g
  ok : qdOk d = true
  afmt : qdAfmt d = 1
  wfmt : qdWfmt d = 1
  rot : qdRot d = g.hdCode
  side : qdScRow d ≤ g.scmax
  row : bitsN (((s.core q.core).tc q.ctx).rdS (mvAreg w)).val 0 16 % g.recSize = 0
  space : bitAt (((s.core q.core).tc q.ctx).rdS (mvAreg w)).val 63 = true

/-- KVAPQ: its rows read, quantised and queued, and their overflows counted. -/
theorem exec_kvapq {q : Issue} {w : BitVec 80} {s0 s : State} {k a pma : Nat} {g : Geo} {d : BitVec 128} (h : issuesAt s0 q false [mvAreg w] [] k s) (hroom : hasRoom q s k)
    (hd : d = BitVec.ofNat 128 ((s.core q.core).readRes q.ctx (bitsN w 35 5) (16 * bitsN w 40 11) 16).data) (hl : KvLegal q w s g d)
    (hv : ((s.core q.core).readRes q.ctx (bitsN w 35 5) (16 * bitsN w 40 11) 16).viol = none) (hr : readsWell q s (mvSpo w) (2 * g.elems * (bitsN w 51 6 + 1)) a)
    (hp : (s.core q.core).mast.translate (((s.core q.core).tc q.ctx).rdS (mvAreg w)).val (g.recSize * (bitsN w 51 6 + 1)) true = .ok pma) (he : 0 < g.elems)
    (hsign : qdRot d = 0 ∨ ∀ j, j < g.elems / 64 → (kvSigns (s.core q.core) q.ctx d (64 * j)).viol = none) :
    let c := s.core q.core
    let n := bitsN w 51 6 + 1
    let rows := kvRows c q.ctx g d a n
    ∃ u v tl tk path plan due, Begins q k v s u ∧
      exec (.kvapq q w) s0 = .next ((u.setCore q.core (c.kvDone q k v tl tk
        { trk := c.nextTrk, space := g.space, pma := pma, recs := rows.map (kvRecord g), rs := g.recSize, poison := List.replicate n (kvSpoilt c q.ctx g d), due := due }
        path plan)).kvCounted (s.corePart q.core) (rows.map (fun r => r.misses)).sum) := by
  obtain ⟨u, v, hu, e⟩ := issue_begins h _
  have hx : (((s.core q.core).begun q.ctx k v).tookTrk q.ctx .kvAppend 1 none).tc q.ctx = ((s.core q.core).tc q.ctx).begun k := by
    rw [Core.tc_tookTrk, Core.tc_begun_same]
  have htrk := Core.takeTrk_room (c := (s.core q.core).begun q.ctx k v) hroom rfl (Core.tc_begun_same ..) .kvAppend 1 none
  have hread := Core.readsWell_begun (c := s.core q.core) (d := ((s.core q.core).begun q.ctx k v).tookTrk q.ctx .kvAppend 1 none) rfl rfl rfl hx (readsWell_core hr)
  obtain ⟨tl, tk, ht, hitems⟩ := readItemsOp_well (s := u.setCore q.core _) (size := 2 * g.elems) (count := bitsN w 51 6 + 1) (State.core_setCore_same ..)
    (by omega) (by omega) hread
  obtain ⟨hresv, hreads, hgeo, hok, hafmt, hwfmt, hrot, hside, hrow, hspace⟩ := hl
  have hgeoAt : AMap.at (s.core q.core).geos {} (bitsN (((s.core q.core).tc q.ctx).rdS (mvAreg w)).val 32 4) = g := by rw [AMap.at_eq_find, hgeo, Option.getD_some]
  let ls := (((s.core q.core).begun q.ctx k v).tookTrk q.ctx .kvAppend 1 none).readLat q.ctx (mvSpo w)
  let len := (bitsN w 51 6 + 1) * g.recSize / 128
  let start := max (k + ls + 2) ((s.core q.core).mast.path + 1)
  let path := (pathCycles (s.core q.core).mast.refEnd start len).getLastD start
  refine ⟨u, v, tl, tk, path, (s.core q.core).mast.planned (k + ls + 2) len, path + 24 + 16 * (bitsN w 51 6 + 1), hu, (congrArg Host.Outcome.next e).trans ?_⟩
  rw [readResOp_begun hu.core hv]
  dsimp only
  rw [← hd]
  have hg0 : ((s.core q.core).begun q.ctx k v).geos = (s.core q.core).geos := rfl
  rw [legalOr_good (by simp [firstCause, hu.core, hg0, hgeo, hgeoAt, hresv, hreads, hok, hafmt, hwfmt, hrot, hside, hrow, hspace])]
  simp only [hu.core, Core.tc_begun_same, Ctx.rdS_begun, htrk, hg0, hgeoAt, hitems, State.setCore_setCore, State.core_setCore_same]
  have hmast : ((((s.core q.core).begun q.ctx k v).tookTrk q.ctx .kvAppend 1 none).emptied tl tk).mast = (s.core q.core).mast := rfl
  obtain ⟨hone, hspoilt, hquiet⟩ := kvReads_alike (c := s.core q.core) (e := (((s.core q.core).begun q.ctx k v).tookTrk q.ctx .kvAppend 1 none).emptied tl tk)
    rfl ht.seen rfl hx hsign
  unfold kvSpoilt at hspoilt
  unfold kvSignReads at hspoilt hquiet
  simp only [hmast, hp]
  simp only [hone, hspoilt, hquiet, violateOpt, List.map_map, Function.comp_def, Bool.false_or, List.map_const', List.length_range]
  rw [← hu.corePart, ← foldl_misses]
  simp only [kvRows, List.map_map, Function.comp_def]
  rfl

/-- What KVAPQ leaves besides its append. -/
theorem Begins.kvDone {q : Issue} {k v : Nat} {s u : State} (hu : Begins q k v s u) (tl tk : AMap Tell) (x : Append) (path plan p n : Nat) :
    let c := s.core q.core
    let t := (u.setCore q.core (c.kvDone q k v tl tk x path plan)).kvCounted p n
    (t.core q.core).appends = c.appends ++ [x] ∧ AMap.at t.stay.kvOvf 0 p = min 0xFFFFFFFF (AMap.at s.stay.kvOvf 0 p + n) ∧
      { (t.core q.core).mast with path := c.mast.path, plan := c.mast.plan } = c.mast ∧ tookEntry q .kvAppend 1 none k s t ∧ (t.core q.core).pad = c.pad ∧
      keepsRegs q none none s t ∧ slotFrame q (fun c d => Core.onlyPad c { d with appends := c.appends, mast := c.mast }) s { t with stay := s.stay } ∧
      { t.stay with kvOvf := s.stay.kvOvf } = s.stay := by
  intro c t
  have hcore : t.core q.core = c.kvDone q k v tl tk x path plan := State.core_setCore_same ..
  have hstay : u.stay = s.stay := (congrArg State.stay hu.module :)
  have hframe : { t with stay := s.stay } = u.setCore q.core (c.kvDone q k v tl tk x path plan) := by
    rw [← hstay]
    rfl
  obtain ⟨hregs, hslot⟩ := hu.keepsRegs_setCore (C := fun c d => Core.onlyPad c { d with appends := c.appends, mast := c.mast }) (c := c.kvDone q k v tl tk x path plan) rfl
    fun _ => rfl
  refine ⟨by rw [hcore]; rfl, ?_, by rw [hcore]; rfl, by rw [tookEntry, hcore]; rfl, by rw [hcore]; rfl, hregs, by rwa [hframe], ?_⟩
  · rw [← hstay, ← satAdd_eq_min]
    exact AMap.at_upd_same u.stay.kvOvf 0 p (fun j => satAdd 0xFFFFFFFF j n)
  · rw [← hstay]
    rfl

/-- Settles O26: the append by the rows that the core's telltales and bytes give, the rest by the core that KVAPQ leaves. -/
theorem kvAppendQueues : Obligations.KvAppendQueues := by
  intro q w s0 s k a pma g o c r n dr d h hroom hresv hreads _ hviol hgeo hok hafmt hwfmt hrot hside hrow hspace hr hp he hsign
  obtain ⟨u, v, tl, tk, path, plan, due, hu, e⟩ := exec_kvapq h hroom rfl ⟨hresv, hreads, hgeo, hok, hafmt, hwfmt, hrot, hside, hrow, hspace⟩ hviol hr hp he hsign
  obtain ⟨happ, hrest⟩ := hu.kvDone tl tk
    { trk := c.nextTrk, space := g.space, pma := pma, recs := (kvRows c q.ctx g d a n).map (kvRecord g), rs := g.recSize, poison := List.replicate n (kvSpoilt c q.ctx g d), due := due }
    path plan (s.corePart q.core) ((kvRows c q.ctx g d a n).map fun r => r.misses).sum
  exact ⟨_, e, ⟨_, happ, rfl, rfl, rfl, rfl, congrArg (List.replicate n) (kvSpoilt_eq c q.ctx g d), rfl⟩, hrest⟩

end Sys2Proof.Machine
